-- ==== Sys2Proof/Word.lean ====
section
/-! DEFINITION. The word types of the KV9 and their plainest arithmetic: 64-bit register values, 43-bit addresses, operand
codes and significance tags. -/

namespace Sys2Proof

/-- A 64-bit register or memory word. -/
abbrev Word := BitVec 64

/-- A 43-bit virtual or physical address (R168, R170). -/
abbrev Addr := BitVec 43

/-- A scalar operand code, 0-63 (R92). -/
abbrev Opd := BitVec 6

/-- A vector register number, 0-31 (R291). -/
abbrev VIdx := BitVec 5

/-- A mask register number, 0-7 (R291). -/
abbrev MIdx := BitVec 3

/-- A significance tag, 0-64 (R98). No register ever holds 65-127, so the bound is in the type. -/
abbrev Tag := Fin 65

/-- The tag of a count, cut off at 64. -/
def Tag.ofNat (n : Nat) : Tag := ⟨min n 64, Nat.lt_succ_of_le (Nat.min_le_right n 64)⟩

/-- The lesser of two tags. -/
def Tag.min (a b : Tag) : Tag := if a.val ≤ b.val then a else b

/-- Tag 64, which every integer result carries (R99, R134). -/
def Tag.full : Tag := ⟨64, by decide⟩

/-- A word of a natural number, wrapping. -/
abbrev word (n : Nat) : Word := BitVec.ofNat 64 n

end Sys2Proof
end

