-- ==== Sys2Proof/Config.lean ====
section
/-! DEFINITION. What an implementation fixes and what the manual leaves open: sizes and bases of the package, and the free
values, which are constants with no body. -/

namespace Sys2Proof.Config

/-- Free value (log 6): a latency the manual bounds or leaves open; applied to State.fresh. -/
opaque freeDelay : Nat → Nat

/-- Free value (log 6): a choice among several allowed ones (TLB replacement, R195); applied to State.fresh. -/
opaque freeChoice : Nat → Nat

/-- Free value (log 6): a word the manual does not state (a firmware measurement, a save-area layout); applied to
State.fresh. -/
opaque freeWord : Nat → BitVec 64

/-- Free value (log 6): the measurement register a stage extends (R289): stage 0 is Proah's boot, stage 1 + d the firmware of die d. -/
opaque measRegister : Nat → Fin 8

/-- A measurement register extended by a measurement (R289): SHA-512 of both, whose values the manual leaves to the standard (log 6). -/
opaque extendMeasure : BitVec 512 → BitVec 512 → BitVec 512

/-- The SECDED code of a flit's sideband (R31): the manual names the code and not its matrix (log 6). By data, V, F, L and P. -/
opaque secded : BitVec 512 → Bool → Bool → Bool → Bool → BitVec 12

/-- Free value (log 6): how long a TLBINV removal takes, by the entries of the micro-TLB and of the cluster TLB and the walks it finds (R198). -/
opaque removalTime : Nat → Nat → Nat → Nat

/-- Free value (log 38): the stores a strand's store buffer holds (R73, R201). -/
opaque storeBuffer : Nat

/-- Free value (log 25): which of the hub blocks' crossbar ports 376-419 a block has (R15, R27), by a number of the block. -/
opaque freePort : Nat → Nat

/-- Free value (log 24): is an entry owned by a trunk or a fixed circuit, whose slots the manual does not name? By agent, table, port
and slot. -/
opaque freeTrunk : Nat → Nat → Nat → Nat → Bool

/-- Bytes of HBM when the package runs as one device (R168): 512 GiB. -/
def hbmBytes : Nat := 0x8000000000

/-- Base and stride of the die SRAMs (R168). -/
def sramBase : Nat := 0x08000000000
def sramStride : Nat := 0x10000000
def sramBytes : Nat := 0x8000000

/-- Base and stride of the cluster scratchpads (R168). -/
def spadBase : Nat := 0x09000000000
def spadStride : Nat := 0x400000
def spadBytes : Nat := 0x200000

/-- Base and stride of the TCM regions (R168, R172). -/
def tcmBase : Nat := 0x0A000000000
def tcmStride : Nat := 0x40000
def tcmBytes : Nat := 0x20000

/-- Base of the hub registers and of the host windows (R168). -/
def hubBase : Nat := 0x0C000000000
def hubBytes : Nat := 0x4000000
def hostBase : Nat := 0x10000000000

/-- Cores, clusters and dies of the package (R25). -/
def coreCount : Nat := 12288
def clusterCount : Nat := 768

/-- Cycles by which die time lags global time (R32). -/
def dieLag : Nat := 128

/-- Cycles of a wheel (R7). -/
def wheel : Nat := 256

end Sys2Proof.Config
end

