-- ==== Sys2Proof/Syntax.lean ====
section
/-! DEFINITION. The steps of the KV9: one constructor of Instr per row of the opcode table, encoded instructions first, then
engine commands and Badger requests, then the events of the units. The structures before it are the arguments of commands and
events: what a unit hands on, or what the outside supplies. -/

namespace Sys2Proof

/-- Type codes (R138); code 15 is reserved and has no constructor. -/
inductive Ty where
  | i8 | i16 | i32 | i64 | n8 | n16 | n32 | n64 | f64 | f32 | f16 | bf16 | f8a | f8b | i4x
deriving DecidableEq, Repr

/-- Scopes 0-5 (R12). -/
inductive Scope where
  | strand | core | cluster | die | device | system
deriving DecidableEq, Repr

/-- VCMP conditions (R369); neun is ne on integer types and un on float types. -/
inductive VCond where
  | eq | lt | le | neun
deriving DecidableEq, Repr

/-- VRED operations (R374). -/
inductive RedOp where
  | add | min | max | minn | maxn | and | or | xor
deriving DecidableEq, Repr

/-- The value side of a vector register: its bits and its 16 group tags (R106). -/
structure Lanes where
  bits : BitVec 512
  tags : Vector Tag 16
deriving DecidableEq, Repr

/-- A configuration agent in the packing of R63 (AGENT). -/
abbrev AgentId := BitVec 19

/-- A command an engine holds: the strand and completion entry it belongs to, its four words (R302), the FPMODE and SIGTHR
read at ISSUE (R417), the vector registers read at ISSUE (R419), its issue number (R247), and whether the strand was in kernel mode. -/
structure EngCmd where
  strand : Fin 16
  handle : Fin 128
  w0 : Word
  w1 : Word
  w2 : Word
  w3 : Word
  fpmode : Word
  thr : Nat
  vin : List Lanes
  seq : Nat
  kernel : Bool
deriving DecidableEq, Repr

/-- A circuit request at Badger (R55, R56): the requesting core, the completion entry when that core is the modelled one,
the four words, the destinations (of a multicast OPEN the list as it stood at issue), whether it came by CREL (R67), and its
wheel of arrival. -/
structure CircReq where
  gcore : Nat
  handle : Option (Fin 128)
  w0 : Word
  w1 : Word
  w2 : Word
  w3 : Word
  dsts : List (BitVec 32)
  crel : Bool
  wheel : Nat
deriving DecidableEq, Repr

/-- What a completion writes (R111, R416, R515): status [23:16], detail [31:24], and bits [63:32]. -/
structure Completion where
  status : BitVec 8
  detail : BitVec 8
  hi : BitVec 32
deriving DecidableEq, Repr

/-- A flit (R31): its data, F, L and P of the sideband, the slot number it bears at the input that holds it (R29), and the check bits CHK.
V is its presence. -/
structure Flit where
  data : BitVec 512
  first : Bool
  last : Bool
  poison : Bool
  slot : Fin 256
  chk : BitVec 12
deriving DecidableEq, Repr

/-- What a training measured at the two ends of a link: D at the hub's end (up) and at the die's (down) (R68). -/
structure LinkDelays where
  up : BitVec 8
  down : BitVec 8
deriving DecidableEq, Repr

/-- The stamps of a time message: as it leaves and as it arrives (R49). -/
structure Stamps where
  sent : BitVec 64
  arrived : BitVec 64
deriving DecidableEq, Repr

/-- A record of a configuration flit (R63). -/
structure CfgRec where
  agent : AgentId
  table : BitVec 2
  port : BitVec 9
  slot : BitVec 8
  value : BitVec 16
deriving DecidableEq, Repr

/-- The circuit permutation of one wheel at a domain plane (R51): pairs of sender and receiver packages. -/
structure PlanePerm where
  wheel : Nat
  pairs : List (Nat × Nat)
deriving DecidableEq, Repr

/-- A gang handed to GANG_START (R259): its job record, function, partition, queue, index, cores in cell order and start wheel. -/
structure Gang where
  job : Vector Word 8
  func : Fin 17
  part : Fin 16
  queue : BitVec 12
  index : Nat
  cores : List Nat
  wheel : Nat
deriving DecidableEq, Repr

/-- What the float divide unit delivers (R353): a scalar or a vector result, its flags, and TVAL of the SIGLOSS trap it leads to,
if any (R159). -/
structure DivResult where
  val : Word
  tag : Tag
  lanes : Option Lanes
  flags : BitVec 5
  loss : Option Word
deriving DecidableEq, Repr

/-- Kinds of access another core can send to the modelled core's TCM (R176). -/
inductive RemoteKind where
  | load | store | amo (fn : BitVec 4) | cas | ldf | ldw | stf | stff | clre
deriving DecidableEq, Repr

/-- A remote request arriving at the modelled core (R175, R176): source core, kind, TCM offset, size in bytes, data and, of a tagged store, its
tag byte (0x7F otherwise, R164). -/
structure RemoteReq where
  gcore : Nat
  kind : RemoteKind
  off : Nat
  size : Nat
  data : Word
  cmp : Word
  tag : BitVec 8
deriving DecidableEq, Repr

/-- A demand or capacity post at the hub (R230, R231); handle is none for a post of another core. -/
structure Post where
  cap : Bool
  round : BitVec 16
  rcode : BitVec 4
  close : BitVec 56
  bytes : List Nat
  room : Nat
  buf : Addr
  handle : Option (Fin 128)
deriving DecidableEq, Repr

/-- One phase of a calendar (R234, R235). -/
structure Phase where
  pairs : List (Nat × Nat)
  quanta : Nat
  start : Nat
deriving DecidableEq, Repr

/-- A calendar (R237, R516): granted records by (source, destination), phases, end wheel, and the used map. -/
structure Calendar where
  round : BitVec 16
  rcode : BitVec 4
  grants : List ((Nat × Nat) × Nat)
  phases : List Phase
  ends : Nat
  used : BitVec 64
deriving DecidableEq, Repr

/-- An exchange record arriving at a package (R236, R239): its source, round, index within the pair's grant, words, and the flits
that carry poison (R519). -/
structure XRecord where
  round : BitVec 16
  src : Nat
  index : Nat
  words : List Word
  bad : List Nat
deriving DecidableEq, Repr

/-- A demand row and capacity entry as Owl receives them (R231, R516): the package, what its hub holds for the round, the records per
destination, the records it may receive, the wheel of phase 0, and the wheel in which it reached Owl. -/
structure OwlRow where
  round : BitVec 16
  pkg : Nat
  close : Nat
  rcode : BitVec 4
  demand : List Nat
  cap : Nat
  start : Nat
  arrive : Nat
deriving DecidableEq, Repr

/-- A chain-reduction packet (R244): its header words 0-7, its payload words, and the payload flits that carry poison. -/
structure CredPacket where
  header : Vector Word 8
  payload : List Word
  bad : List Nat
deriving DecidableEq, Repr

/-- Why a save-area access failed (R531, R532): page, walk level and stage; level 0 for a hole. -/
structure SaveFault where
  addr : Addr
  level : BitVec 2
  stage : BitVec 2
deriving DecidableEq, Repr

/-- Who writes a hub register: the physical function, a virtual function, or Proah (R275, R287). -/
inductive Writer where
  | pf | vf (f : Fin 16) | proah
deriving DecidableEq, Repr

/-- Who writes memory from outside the modelled core: another core, a function's host, or Proah (R275, R287). -/
inductive Outside where
  | core | host (f : Fin 17) | proah
deriving DecidableEq, Repr

/-- Why an instruction fetch failed (R492). -/
inductive FetchWhy where
  | xlate | perm | hole | poison (pa : Addr)
deriving DecidableEq, Repr

/-- The steps of the machine: one constructor per row of the opcode table, in the table's order. In an encoded instruction d, a,
b are the fields D, S1, S2 (or VD, VS1, VS2), and ta, tb are the EB bits that select trap-on-empty for S1 and S2 (R293). -/
inductive Instr where
  /-- R321: Writes the wrapping 64-bit sum of S1 and S2 to D. -/
  | add (d a b : Opd) (ta tb : Bool)
  /-- R321: Writes the wrapping difference S1 minus S2 to D. -/
  | sub (d a b : Opd) (ta tb : Bool)
  /-- R321: Writes the bitwise AND of S1 and S2 to D. -/
  | and (d a b : Opd) (ta tb : Bool)
  /-- R321: Writes the bitwise OR of S1 and S2 to D. -/
  | or (d a b : Opd) (ta tb : Bool)
  /-- R321: Writes the bitwise XOR of S1 and S2 to D. -/
  | xor (d a b : Opd) (ta tb : Bool)
  /-- R321: Writes S1 shifted left by S2[5:0] to D. -/
  | sll (d a b : Opd) (ta tb : Bool)
  /-- R321: Writes S1 shifted right with zero fill by S2[5:0] to D. -/
  | srl (d a b : Opd) (ta tb : Bool)
  /-- R321: Writes S1 shifted right with sign fill by S2[5:0] to D. -/
  | sra (d a b : Opd) (ta tb : Bool)
  /-- R321: Writes the low 64 bits of S1 times S2 to D. -/
  | mul (d a b : Opd) (ta tb : Bool)
  /-- R321: Writes the high half of the signed 128-bit product to D. -/
  | mulh (d a b : Opd) (ta tb : Bool)
  /-- R321: Writes the high half of the unsigned 128-bit product to D. -/
  | mulhn (d a b : Opd) (ta tb : Bool)
  /-- R321: Writes the high half of the signed-by-unsigned product to D. -/
  | mulhsn (d a b : Opd) (ta tb : Bool)
  /-- R322: Starts a signed division whose quotient fills D 18 cycles later. -/
  | div (d a b : Opd) (ta tb : Bool)
  /-- R322: Starts an unsigned division whose quotient fills D 18 cycles later. -/
  | divn (d a b : Opd) (ta tb : Bool)
  /-- R322: Starts a signed remainder whose result fills D 18 cycles later. -/
  | rem (d a b : Opd) (ta tb : Bool)
  /-- R322: Starts an unsigned remainder whose result fills D 18 cycles later. -/
  | remn (d a b : Opd) (ta tb : Bool)
  /-- R321: Writes the signed lesser of S1 and S2 to D. -/
  | min (d a b : Opd) (ta tb : Bool)
  /-- R321: Writes the signed greater of S1 and S2 to D. -/
  | max (d a b : Opd) (ta tb : Bool)
  /-- R321: Writes the unsigned lesser of S1 and S2 to D. -/
  | minn (d a b : Opd) (ta tb : Bool)
  /-- R321: Writes the unsigned greater of S1 and S2 to D. -/
  | maxn (d a b : Opd) (ta tb : Bool)
  /-- R321: Writes 1 to D when S1 is signed-less than S2, else 0. -/
  | slt (d a b : Opd) (ta tb : Bool)
  /-- R321: Writes 1 to D when S1 is unsigned-less than S2, else 0. -/
  | sltn (d a b : Opd) (ta tb : Bool)
  /-- R321: Writes 1 to D when S1 equals S2, else 0. -/
  | seq (d a b : Opd) (ta tb : Bool)
  /-- R321: Writes 1 to D when S1 differs from S2, else 0. -/
  | sne (d a b : Opd) (ta tb : Bool)
  /-- R321: Writes the count of leading zero bits of S1 to D. -/
  | clz (d a : Opd) (ta : Bool)
  /-- R321: Writes the count of trailing zero bits of S1 to D. -/
  | ctz (d a : Opd) (ta : Bool)
  /-- R321: Writes the count of one bits of S1 to D. -/
  | popc (d a : Opd) (ta : Bool)
  /-- R321: Writes S1 with its bit order reversed to D. -/
  | brev (d a : Opd) (ta : Bool)
  /-- R321: Writes S1 with its byte order reversed to D. -/
  | bswap (d a : Opd) (ta : Bool)
  /-- R326: Copies S1 or S2 whole to D according to whether the latch is nonzero. -/
  | sel (d a b : Opd) (ta tb : Bool)
  /-- R325: Writes S1 plus S2 shifted left by the FN shift to D. -/
  | lea (d a b : Opd) (ta tb : Bool) (sh : BitVec 4)
  /-- R321: Writes S1 rotated left by S2[5:0] to D. -/
  | rol (d a b : Opd) (ta tb : Bool)
  /-- R321: Writes S1 rotated right by S2[5:0] to D. -/
  | ror (d a b : Opd) (ta tb : Bool)
  /-- R323: Writes S1 plus the sign-extended immediate to D. -/
  | addi (d a : Opd) (ta : Bool) (imm : BitVec 11)
  /-- R323: Writes S1 AND the sign-extended immediate to D. -/
  | andi (d a : Opd) (ta : Bool) (imm : BitVec 11)
  /-- R323: Writes S1 OR the sign-extended immediate to D. -/
  | ori (d a : Opd) (ta : Bool) (imm : BitVec 11)
  /-- R323: Writes S1 XOR the sign-extended immediate to D. -/
  | xori (d a : Opd) (ta : Bool) (imm : BitVec 11)
  /-- R323: Writes S1 shifted left by the immediate count to D. -/
  | slli (d a : Opd) (ta : Bool) (sh : BitVec 6)
  /-- R323: Writes S1 shifted right with zero fill by the immediate count to D. -/
  | srli (d a : Opd) (ta : Bool) (sh : BitVec 6)
  /-- R323: Writes S1 shifted right with sign fill by the immediate count to D. -/
  | srai (d a : Opd) (ta : Bool) (sh : BitVec 6)
  /-- R323: Writes 1 to D when S1 is signed-less than the immediate. -/
  | slti (d a : Opd) (ta : Bool) (imm : BitVec 11)
  /-- R323: Writes 1 to D when S1 is unsigned-less than the sign-extended immediate. -/
  | sltni (d a : Opd) (ta : Bool) (imm : BitVec 11)
  /-- R323: Writes the low 64 bits of S1 times the immediate to D. -/
  | muli (d a : Opd) (ta : Bool) (imm : BitVec 11)
  /-- R324: Writes the sign-extended 18-bit immediate to D. -/
  | ldi (d : Opd) (imm : BitVec 18)
  /-- R324: Shifts D left by 18 and ORs in the immediate. -/
  | ldk (d : Opd) (imm : BitVec 18)
  /-- R324: Writes PC plus four times the sign-extended immediate to D. -/
  | addpc (d : Opd) (imm : BitVec 18)
  /-- R327: Branches when S1 equals S2. -/
  | beq (a b : Opd) (off : BitVec 12)
  /-- R327: Branches when S1 differs from S2. -/
  | bne (a b : Opd) (off : BitVec 12)
  /-- R327: Branches when S1 is signed-less than S2. -/
  | blt (a b : Opd) (off : BitVec 12)
  /-- R327: Branches when S1 is signed-greater or equal to S2. -/
  | bge (a b : Opd) (off : BitVec 12)
  /-- R327: Branches when S1 is unsigned-less than S2. -/
  | blo (a b : Opd) (off : BitVec 12)
  /-- R327: Branches when S1 is unsigned-greater or equal to S2. -/
  | bhs (a b : Opd) (off : BitVec 12)
  /-- R328: Branches when the tag of S1 is below the threshold field. -/
  | bsig (a : Opd) (thr : BitVec 6) (off : BitVec 12)
  /-- R329: Branches when the named operand is empty, without blocking or popping. -/
  | bemp (a : Opd) (off : BitVec 12)
  /-- R330: Jumps PC-relative by the 24-bit offset. -/
  | jmp (off : BitVec 24)
  /-- R331: Advances the window, writes the return address to w15 and jumps PC-relative. -/
  | call (off : BitVec 24)
  /-- R330: Jumps to the address held in S1. -/
  | jmpr (a : Opd) (ta : Bool)
  /-- R331: Advances the window, writes w15 and jumps to the address in S1. -/
  | callr (a : Opd) (ta : Bool)
  /-- R332: Reads w15, retreats the window and jumps to the value read. -/
  | ret
  /-- R333: Returns from a trap, restoring PC, K and IE. -/
  | tret
  /-- R334: Reads a system register into D. -/
  | srr (d : Opd) (reg : BitVec 12)
  /-- R334: Writes D into a system register under its field map. -/
  | srw (d : Opd) (reg : BitVec 12)
  /-- R334: Atomically swaps D with a system register. -/
  | srxSwap (d : Opd) (reg : BitVec 12)
  /-- R334: ORs D into a system register and returns its old value. -/
  | srxSet (d : Opd) (reg : BitVec 12)
  /-- R334: Clears the bits of D in a system register and returns its old value. -/
  | srxClr (d : Opd) (reg : BitVec 12)
  /-- R337: Completes and takes local trap SYS with the immediate in TVAL. -/
  | sys (imm : BitVec 24)
  /-- R337: Completes and takes local trap BRK with the immediate in TVAL. -/
  | brk (imm : BitVec 24)
  /-- R338: Makes the strand count as parked until the next offer of its own slot. -/
  | yield
  /-- R338: Makes a handler strand dormant and eligible for an active-message claim. -/
  | idle
  /-- R338: Halts the strand, discarding its pending fills. -/
  | halt
  /-- R339: Writes the tag of S1 to D as an integer. -/
  | sigget (d a : Opd) (ta : Bool)
  /-- R339: Writes S1's value to D with tag min(S2, 64). -/
  | sigset (d a b : Opd) (ta tb : Bool)
  /-- R211: Performs an acquire with no load at the named scope. -/
  | fenceAcq (sc : Scope)
  /-- R211: Performs a release with no store at the named scope. -/
  | fenceRel (sc : Scope)
  /-- R211: Performs both an acquire and a release at the named scope, holding later loads. -/
  | fenceFull (sc : Scope)
  /-- R343: Arrives at a barrier and waits for its generation to complete. -/
  | barw (a b : Opd) (ta tb : Bool)
  /-- R343: Arrives at a barrier without waiting. -/
  | bara (a b : Opd) (ta tb : Bool)
  /-- R344: Arrives at a barrier and waits for completion or a deadline wheel. -/
  | barwt (d a b : Opd) (ta tb : Bool)
  /-- R346: Sends a range request to the cluster loop unit; D stays empty until the result. -/
  | getchunk (d a : Opd) (ta : Bool)
  /-- R346: Sends a counter-setting request to the cluster loop unit. -/
  | chunkset (d a b : Opd) (ta tb : Bool)
  /-- R347: Exchanges two registers whole, including any pending binding. -/
  | movp (d a : Opd)
  /-- R348: Withdraws the operation bound to a handle if it has not started. -/
  | cancelh (a : Opd)
  /-- R387: Loads one byte sign-extended into D. -/
  | ld8 (d a : Opd) (ta : Bool) (imm : BitVec 11)
  /-- R387: Loads one byte zero-extended into D. -/
  | ld8n (d a : Opd) (ta : Bool) (imm : BitVec 11)
  /-- R387: Loads two bytes sign-extended into D. -/
  | ld16 (d a : Opd) (ta : Bool) (imm : BitVec 11)
  /-- R387: Loads two bytes zero-extended into D. -/
  | ld16n (d a : Opd) (ta : Bool) (imm : BitVec 11)
  /-- R387: Loads four bytes sign-extended into D. -/
  | ld32 (d a : Opd) (ta : Bool) (imm : BitVec 11)
  /-- R387: Loads four bytes zero-extended into D. -/
  | ld32n (d a : Opd) (ta : Bool) (imm : BitVec 11)
  /-- R387: Loads eight bytes into D with tag 64. -/
  | ld64 (d a : Opd) (ta : Bool) (imm : BitVec 11)
  /-- R388: Loads eight bytes into D with the word's stored tag. -/
  | ldt (d a : Opd) (ta : Bool) (imm : BitVec 11)
  /-- R387: Enters a one-byte store in the strand's store buffer. -/
  | st8 (d a : Opd) (ta : Bool) (imm : BitVec 11)
  /-- R387: Enters a two-byte store in the strand's store buffer. -/
  | st16 (d a : Opd) (ta : Bool) (imm : BitVec 11)
  /-- R387: Enters a four-byte store in the strand's store buffer. -/
  | st32 (d a : Opd) (ta : Bool) (imm : BitVec 11)
  /-- R387: Enters an eight-byte store in the strand's store buffer. -/
  | st64 (d a : Opd) (ta : Bool) (imm : BitVec 11)
  /-- R388: Stores D's value and writes the word's tag byte with D's tag. -/
  | stt (d a : Opd) (ta : Bool) (imm : BitVec 11)
  /-- R389: Waits for a TCM word to be full, reads it and sets it empty. -/
  | ldf (d a : Opd) (ta : Bool) (imm : BitVec 11)
  /-- R389: Waits for a TCM word to be full and reads it, leaving it full. -/
  | ldw (d a : Opd) (ta : Bool) (imm : BitVec 11)
  /-- R389: Waits for a TCM word to be empty, writes it and sets it full. -/
  | stf (d a : Opd) (ta : Bool) (imm : BitVec 11)
  /-- R389: Writes a TCM word and sets it full without waiting. -/
  | stff (d a : Opd) (ta : Bool) (imm : BitVec 11)
  /-- R389: Sets a TCM word empty, keeping its value. -/
  | clre (a : Opd) (ta : Bool) (imm : BitVec 11)
  /-- R390: Loads 4 or 8 bytes as an acquire at the named scope. -/
  | ldaq (d a : Opd) (ta : Bool) (wide : Bool) (sc : Scope)
  /-- R390: Stores 4 or 8 bytes as a release at the named scope. -/
  | strl (d a : Opd) (ta : Bool) (wide : Bool) (sc : Scope)
  /-- R391: Atomically adds S2 to the word at its home and returns the old value. -/
  | amoAdd (d a b : Opd) (ta tb : Bool)
  /-- R391: Atomically ANDs S2 into the word at its home. -/
  | amoAnd (d a b : Opd) (ta tb : Bool)
  /-- R391: Atomically ORs S2 into the word at its home. -/
  | amoOr (d a b : Opd) (ta tb : Bool)
  /-- R391: Atomically XORs S2 into the word at its home. -/
  | amoXor (d a b : Opd) (ta tb : Bool)
  /-- R391: Atomically stores the signed minimum of the word and S2. -/
  | amoMin (d a b : Opd) (ta tb : Bool)
  /-- R391: Atomically stores the signed maximum of the word and S2. -/
  | amoMax (d a b : Opd) (ta tb : Bool)
  /-- R391: Atomically stores the unsigned minimum of the word and S2. -/
  | amoMinn (d a b : Opd) (ta tb : Bool)
  /-- R391: Atomically stores the unsigned maximum of the word and S2. -/
  | amoMaxn (d a b : Opd) (ta tb : Bool)
  /-- R391: Atomically replaces the word with S2 and returns the old value. -/
  | amoSwap (d a b : Opd) (ta tb : Bool)
  /-- R391: Atomically adds an F32 value to a 4-byte word under RNE. -/
  | amoFadd32 (d a b : Opd) (ta tb : Bool)
  /-- R391: Atomically adds an F64 value to an 8-byte word under RNE. -/
  | amoFadd64 (d a b : Opd) (ta tb : Bool)
  /-- R391: Atomically compares the word with D and stores S2 when equal, returning the old value. -/
  | cas (d a b : Opd) (ta tb : Bool) (narrow : Bool)
  /-- R392: Invalidates the private-cache line holding S1, discarding dirty words. -/
  | cinv (a : Opd)
  /-- R392: Writes through the dirty words of the line holding S1. -/
  | cwb (a : Opd)
  /-- R392: Writes through and then invalidates the line holding S1. -/
  | cwbi (a : Opd)
  /-- R392: Fetches the line holding S1 into the private cache if absent. -/
  | pref (a : Opd)
  /-- R367: Adds active vector elements. -/
  | vadd (d a b : VIdx) (m : MIdx) (t : Ty)
  /-- R367: Subtracts active vector elements. -/
  | vsub (d a b : VIdx) (m : MIdx) (t : Ty)
  /-- R367: Multiplies active vector elements. -/
  | vmul (d a b : VIdx) (m : MIdx) (t : Ty)
  /-- R367: Fused multiply-adds active vector elements into VD. -/
  | vfma (d a b : VIdx) (m : MIdx) (t : Ty)
  /-- R367: Takes the lesser of active vector elements. -/
  | vmin (d a b : VIdx) (m : MIdx) (t : Ty)
  /-- R367: Takes the greater of active vector elements. -/
  | vmax (d a b : VIdx) (m : MIdx) (t : Ty)
  /-- R368: Bitwise ANDs active integer elements. -/
  | vand (d a b : VIdx) (m : MIdx) (t : Ty)
  /-- R368: Bitwise ORs active integer elements. -/
  | vor (d a b : VIdx) (m : MIdx) (t : Ty)
  /-- R368: Bitwise XORs active integer elements. -/
  | vxor (d a b : VIdx) (m : MIdx) (t : Ty)
  /-- R368: Bitwise complements active integer elements. -/
  | vnot (d a : VIdx) (m : MIdx) (t : Ty)
  /-- R368: Shifts active integer elements left by per-lane counts. -/
  | vshl (d a b : VIdx) (m : MIdx) (t : Ty)
  /-- R368: Shifts active integer elements right with zero fill. -/
  | vshr (d a b : VIdx) (m : MIdx) (t : Ty)
  /-- R368: Shifts active integer elements right with sign fill. -/
  | vsra (d a b : VIdx) (m : MIdx) (t : Ty)
  /-- R369: Compares elements and writes the outcomes to a mask register. -/
  | vcmp (k : MIdx) (a b : VIdx) (m : MIdx) (t : Ty) (c : VCond)
  /-- R370: Selects each element from VS1 or VS2 by the mask. -/
  | vsel (d a b : VIdx) (m : MIdx) (t : Ty)
  /-- R367: Starts an element-wise division whose result fills VD later. -/
  | vdiv (d a b : VIdx) (m : MIdx) (t : Ty)
  /-- R367: Starts an element-wise square root whose result fills VD later. -/
  | vsqrt (d a : VIdx) (m : MIdx) (t : Ty)
  /-- R367: Starts an element-wise reciprocal square root whose result fills VD later. -/
  | vrsq (d a : VIdx) (m : MIdx) (t : Ty)
  /-- R367: Takes the absolute value of active elements. -/
  | vabs (d a : VIdx) (m : MIdx) (t : Ty)
  /-- R367: Negates active elements. -/
  | vneg (d a : VIdx) (m : MIdx) (t : Ty)
  /-- R374: Reduces active elements by the fixed pairwise tree into a scalar register. -/
  | vred (op : RedOp) (a : VIdx) (s : Opd) (m : MIdx) (t : Ty)
  /-- R372: Converts vector elements from one type to another. -/
  | vcvt (d a : VIdx) (tgt : Ty) (m : MIdx) (t : Ty)
  /-- R375: Permutes elements of VS1 by indices from VS2. -/
  | vperm (d a b : VIdx) (m : MIdx) (t : Ty)
  /-- R376: Broadcasts a scalar into every active element. -/
  | vbcast (d : VIdx) (s : Opd) (m : MIdx) (t : Ty)
  /-- R393: Loads active elements of a 64-byte range into VD. -/
  | vld (d : VIdx) (a b : Opd) (m : MIdx) (t : Ty)
  /-- R393: Stores active elements of VD to a 64-byte range. -/
  | vst (d : VIdx) (a b : Opd) (m : MIdx) (t : Ty)
  /-- R393: Loads active elements with their words' tags. -/
  | vldt (d : VIdx) (a b : Opd) (m : MIdx) (t : Ty)
  /-- R393: Stores active elements and writes each word's tag byte. -/
  | vstt (d : VIdx) (a b : Opd) (m : MIdx) (t : Ty)
  /-- R394: Gathers active elements from addresses indexed by a vector. -/
  | vgath (d : VIdx) (a : Opd) (k : VIdx) (m : MIdx) (t : Ty)
  /-- R394: Scatters active elements to addresses indexed by a vector. -/
  | vscat (d : VIdx) (a : Opd) (k : VIdx) (m : MIdx) (t : Ty)
  /-- R377: Moves one vector element to a scalar register. -/
  | vmovx (d : Opd) (v : VIdx) (j : Opd) (t : Ty)
  /-- R378: Inserts a scalar into one vector element. -/
  | vins (v : VIdx) (a j : Opd) (t : Ty)
  /-- R379: ANDs two mask registers. -/
  | mand (d a b : MIdx)
  /-- R379: ORs two mask registers. -/
  | mor (d a b : MIdx)
  /-- R379: XORs two mask registers. -/
  | mxor (d a b : MIdx)
  /-- R379: Complements a mask register. -/
  | mnot (d a : MIdx)
  /-- R380: Counts the active elements of a type under a mask. -/
  | mpop (s : Opd) (a : MIdx) (t : Ty)
  /-- R381: Writes the least active group tag of a vector to a scalar. -/
  | vsigmin (s : Opd) (a : VIdx) (m : MIdx)
  /-- R381: Copies a vector and sets the tags of its active groups. -/
  | vsigset (d a : VIdx) (s : Opd) (m : MIdx)
  /-- R382: Scale-accumulates with per-element scales under RNE. -/
  | vscla (d a b : VIdx) (m : MIdx) (t : Ty)
  /-- R382: Scale-accumulates with the scale taken from lane 0 under RNE. -/
  | vsclab (d a b : VIdx) (m : MIdx) (t : Ty)
  /-- R358: Adds two scalar floats with one rounding. -/
  | fadd (d a b : Opd) (ta tb : Bool) (t : Ty)
  /-- R358: Subtracts two scalar floats with one rounding. -/
  | fsub (d a b : Opd) (ta tb : Bool) (t : Ty)
  /-- R358: Multiplies two scalar floats with one rounding. -/
  | fmul (d a b : Opd) (ta tb : Bool) (t : Ty)
  /-- R358: Starts a scalar float division whose result fills D later. -/
  | fdiv (d a b : Opd) (ta tb : Bool) (t : Ty)
  /-- R358: Starts a scalar float square root whose result fills D later. -/
  | fsqrt (d a : Opd) (ta : Bool) (t : Ty)
  /-- R358: Computes S1 times S2 plus D with one rounding. -/
  | fma (d a b : Opd) (ta tb : Bool) (t : Ty)
  /-- R358: Computes S1 times S2 minus D with one rounding. -/
  | fms (d a b : Opd) (ta tb : Bool) (t : Ty)
  /-- R358: Computes minus S1 times S2 plus D with one rounding. -/
  | fnma (d a b : Opd) (ta tb : Bool) (t : Ty)
  /-- R359: Delivers the lesser of two scalar floats. -/
  | fmin (d a b : Opd) (t : Ty)
  /-- R359: Delivers the greater of two scalar floats. -/
  | fmax (d a b : Opd) (t : Ty)
  /-- R360: Writes 1 when two floats are equal. -/
  | feq (d a b : Opd) (t : Ty)
  /-- R360: Writes 1 when S1 is less than S2. -/
  | flt (d a b : Opd) (t : Ty)
  /-- R360: Writes 1 when S1 is less than or equal to S2. -/
  | fle (d a b : Opd) (t : Ty)
  /-- R360: Writes 1 when either operand is a NaN. -/
  | funord (d a b : Opd) (t : Ty)
  /-- R365: Converts a scalar between two types. -/
  | fcvt (d a : Opd) (ta : Bool) (src tgt : Ty)
  /-- R361: Writes a one-hot classification of a float to D. -/
  | fclass (d a : Opd) (ta : Bool) (t : Ty)
  /-- R362: Copies the sign of S2 onto S1. -/
  | fcps (d a b : Opd) (t : Ty)
  /-- R362: Inverts the sign bit of a float. -/
  | fneg (d a : Opd) (t : Ty)
  /-- R362: Clears the sign bit of a float. -/
  | fabs (d a : Opd) (t : Ty)
  /-- R363: Multiplies a float by a power of two given by S2. -/
  | fscl (d a b : Opd) (ta tb : Bool) (t : Ty)
  /-- R364: Rounds a float to an integral value in the strand's mode. -/
  | frnd (d a : Opd) (t : Ty)
  /-- R413: Hands a command word to the tile front end and writes a handle. -/
  | issueTile (d : Opd) (vc : BitVec 4) (a b : Opd)
  /-- R400: Hands a command word to the copy engine and writes a handle. -/
  | issueCopy (d : Opd) (vc : BitVec 4) (a b : Opd)
  /-- R400: Hands a command word to the memory-side engine and writes a handle. -/
  | issueMem (d : Opd) (vc : BitVec 4) (a b : Opd)
  /-- R400: Hands a command word to the exchange routing engine and writes a handle. -/
  | issueXchg (d : Opd) (vc : BitVec 4) (a b : Opd)
  /-- R396: Commits a message of 1-16 flits from TCM to a send endpoint. -/
  | send (a b : Opd) (ta tb : Bool) (n : BitVec 4)
  /-- R408: Sends a circuit request command word to Badger and writes a handle. -/
  | creq (d : Opd) (vc : BitVec 4) (a b : Opd)
  /-- R409: Closes a send endpoint and asks Badger to release its circuit. -/
  | crel (d a : Opd) (ta : Bool)
  /-- R410: Posts a demand record for an exchange round to the hub. -/
  | dpostDem (d a : Opd) (ta : Bool)
  /-- R410: Posts a capacity record for an exchange round to the hub. -/
  | dpostCap (d a : Opd) (ta : Bool)
  /-- R397: Arms a receive endpoint with a QUEUE mailbox. -/
  | mboxQueue (a b : Opd) (ta tb : Bool) (int act : Bool)
  /-- R397: Arms a receive endpoint with a LATEST mailbox. -/
  | mboxLatest (a b : Opd) (ta tb : Bool) (int act : Bool)
  /-- R397: Closes a receive endpoint to further deposits. -/
  | mboxClose (a : Opd) (ta : Bool)
  /-- R411: Releases at device scope and asks the hub to enqueue a job record. -/
  | launch (d a b : Opd) (ta tb : Bool)
  /-- R412: Releases at device scope, then adds to a fence counter. -/
  | fcinc (a b : Opd)
  /-- R412: Stalls until a fence counter reaches a value, then acquires. -/
  | fcwait (a b : Opd)
  /-- R412: As FCINC, then raises an MSI-X vector of the function. -/
  | fcincn (vec : BitVec 6) (a b : Opd)
  /-- R425: Tile command: loads a 32x32 tile from memory into an accumulator, widening exactly. -/
  | tld (c : EngCmd)
  /-- R425: Tile command: stores an accumulator tile to memory. -/
  | tst (c : EngCmd)
  /-- R425: Tile command: sets every accumulator element to +0 with row tags 64. -/
  | tzero (c : EngCmd)
  /-- R423: Tile command: accumulates a block product C += A·B in fixed group order. -/
  | tmma (c : EngCmd)
  /-- R428: Tile command: adds a row- and column-scaled accumulator into another. -/
  | tscal (c : EngCmd)
  /-- R426: Tile command: converts an accumulator into a narrower memory format. -/
  | tcvt (c : EngCmd)
  /-- R427: Tile command: writes the transpose of a tile. -/
  | ttrn (c : EngCmd)
  /-- R429: Tile command: adds two accumulators element by element. -/
  | tadd (c : EngCmd)
  /-- R425: Tile command: writes an accumulator's row tags into a vector pair. -/
  | tsig (c : EngCmd)
  /-- R431: Gaussian command: adds two information-form blocks. -/
  | gacc (c : EngCmd)
  /-- R431: Gaussian command: subtracts one block from another. -/
  | gsub (c : EngCmd)
  /-- R432: Gaussian command: eliminates trailing variables by a Schur complement. -/
  | gschur (c : EngCmd)
  /-- R431: Gaussian command: damps a new message against the old by beta. -/
  | gdamp (c : EngCmd)
  /-- R434: Gaussian command: solves for the mean by elimination and back-substitution. -/
  | gmean (c : EngCmd)
  /-- R403: Copy command: copies or reduces a linear range in 64-byte beats. -/
  | cpy (c : EngCmd)
  /-- R403: Copy command: copies a strided set of rows. -/
  | cpys (c : EngCmd)
  /-- R403: Copy command: writes zero to a range. -/
  | cpyz (c : EngCmd)
  /-- R404: Copy command: takes part in a chain reduction at one core. -/
  | cred (c : EngCmd)
  /-- R405: Copy command: reads, corrects and rewrites an HBM range and writes an error bitmap. -/
  | scrub (c : EngCmd)
  /-- R406: Memory-side command: streams HBM elements past a threshold and records those above it. -/
  | scan (c : EngCmd)
  /-- R407: Exchange command: starts the package's exchange for one round. -/
  | xrun (c : EngCmd)
  /-- R60: Badger searches and stages a new circuit and its reverse circuit. -/
  | circOpen (r : CircReq)
  /-- R60: Badger searches and stages added slots of a circuit. -/
  | circWiden (r : CircReq)
  /-- R66: Badger removes a circuit's highest slots in two commits. -/
  | circNarrow (r : CircReq)
  /-- R66: Badger removes a circuit and its reverse circuit in two commits. -/
  | circRelease (r : CircReq)
  /-- R57: A circuit request reaches Badger and is queued, or answered BUSY when 64 are pending. -/
  | badgerRequestArrive (r : CircReq)
  /-- R67: A CREL-closed send endpoint's buffer empties and the NI tells Badger, which then searches the release. -/
  | sendBufferEmpty (ep : Fin 32) (r : CircReq)
  /-- R111: An engine, Badger, hub or unit operation completes and fills its handle register with status. -/
  | completion (h : Fin 128) (st : Completion)
  /-- R84: The tile front end accepts one pending command into the execution queue. -/
  | tileFrontEndAccept
  /-- R29: In each slot every switch output forwards the flit its live entry names or sends nothing. -/
  | switchSlot (agent : AgentId)
  /-- R43: A committed message starts in the first owned slot its window admits and its flits leave in consecutive owned slots. -/
  | messageStart (ep : Fin 32)
  /-- R45: A flit reaching a receiving NI is taken by the endpoint its receive-table entry names. -/
  | flitReceive (f : Flit)
  /-- R44: The receiving NI sends a window return in its next owned reverse slot after the count changes. -/
  | windowReturnSend (ep : Fin 64)
  /-- R44: A window return reaches the send endpoint and updates its returned count. -/
  | windowReturnArrive (ep : Fin 32) (recv : Nat) (count : BitVec 16)
  /-- R63: A KIND 0 configuration flit reaching an agent stages table entries and its commit wheel. -/
  | configStageEntries (w : Nat) (recs : List CfgRec)
  /-- R63: A KIND 1 configuration flit asks an agent for a read-back reply. -/
  | configReadback (agent : AgentId) (port : Nat)
  /-- R68: A KIND 2 configuration flit stages a link alignment depth. -/
  | configStageDepth (agent : AgentId) (port : Nat) (w : Nat) (sdepth : BitVec 7)
  /-- R40: A KIND 3 upward reply is relayed one link per wheel toward Badger. -/
  | configReply (agent : AgentId) (port : Nat) (depth : Nat) (measd : BitVec 8)
  /-- R41: A management flit in slots 128-131 is relayed in the same slot of the next wheel. -/
  | mgmtFlitRelay (agent : AgentId) (port : Nat) (f : Flit)
  /-- R64: At the first slot of its commit wheel an agent applies its staged entries and depths. -/
  | stagedCommit (agent : AgentId)
  /-- R502: At a commit wheel Badger removes every entry of a circuit and its reverse circuit in one part. -/
  | circuitBreak (src : BitVec 32) (reason : Nat)
  /-- R504: A UCIe link asks to retrain and Badger names a hold wheel for circuits crossing it. -/
  | linkRetrainRequest (l : Fin 352)
  /-- R68: Link training ends; Badger reads MEASD and realigns the link, lifting any hold. -/
  | linkTrained (l : Fin 352) (d : LinkDelays)
  /-- R505: A link loses its signal; Badger breaks every circuit over it and trains it. -/
  | linkSignalLoss (l : Fin 352)
  /-- R505: A link fails to train within 64 wheels or measures out of range and is marked down. -/
  | linkTrainTimeout (l : Fin 352)
  /-- R505: Every 4,096 wheels Badger tries to train a down link again. -/
  | linkRetry (l : Fin 352)
  /-- R48: A flit enters an inter-package port's elastic alignment buffer and is renumbered K wheels later. -/
  | interpkgFlitArrive (port : Fin 16) (f : Flit) (w : Nat)
  /-- R49: In a meeting wheel two packages exchange time messages and trim their clocks. -/
  | timeSyncExchange (port : Fin 16) (sync request : Stamps)
  /-- R506: A locked port drops to acquiring after bad or missing exchanges and its circuits break. -/
  | portLockLoss (port : Fin 16)
  /-- R51: A domain plane relays a flit by the management or circuit permutation of the sender's wheel. -/
  | planeRelay (plane : Fin 16) (pkg : Fin 64) (f : Flit) (w : Nat)
  /-- R51: A slot-131 flit from the active Owl's package sets a plane's circuit permutations. -/
  | planeControlFlit (plane : Fin 16) (pkg : Fin 64) (perms : List PlanePerm)
  /-- R54: At each wheel's first slot every per-wheel budget counter restarts. -/
  | wheelBudgetRestart
  /-- R259: A placed gang's cells are set up and start at the first slot of the start wheel. -/
  | gangStart (g : Gang)
  /-- R74: A cell ends the cycle after its last entry strand halts and no handler runs. -/
  | cellEnd
  /-- R89: A message at an active endpoint is deposited and claims a dormant handler strand. -/
  | activeMessageClaim (ep : Fin 64)
  /-- R88: The loop unit serves one pending CHUNKSET or GETCHUNK request per cycle. -/
  | loopUnitService
  /-- R128: A kernel write to a loop unit register is served as a loop unit request. -/
  | loopRegWrite (reg : BitVec 12) (v : Word)
  /-- R322: The integer divide unit fills D 18 cycles after issue. -/
  | intDivideFill (k : Fin 16) (ticket : Nat) (v : Word)
  /-- R353: The float divide unit fills a division-type result and raises its flags. -/
  | fpDivideFill (k : Fin 16) (ticket : Nat) (r : DivResult)
  /-- R121: Global time reaches TIMECMP and the timer interrupt becomes pending. -/
  | timerExpiry (k : Fin 16)
  /-- R268: An enabled pending interrupt is taken at an instruction boundary. -/
  | interruptEntry (k : Fin 16)
  /-- R104: The window unit spills the oldest frame once the store buffer holds no store to the record. -/
  | windowSpill (k : Fin 16)
  /-- R104: The window unit fills a spilled frame back once the store buffer allows. -/
  | windowFill (k : Fin 16)
  /-- R176: A request message reaches its home and is served in arrival order. -/
  | remoteRequestArrive (q : RemoteReq)
  /-- R385: A reply arrives and fills the bound destination. -/
  | remoteReplyArrive (ticket : Nat)
  /-- R179: In an owned slot a gateway sends the head message of the next source round-robin. -/
  | gatewaySend (gw : AgentId)
  /-- R180: A scratchpad bank serves one port's access per cycle round-robin. -/
  | scratchpadBankAccess (bank : Fin 64)
  /-- R182: A die SRAM bank serves one access per cycle. -/
  | dieSramBankAccess (bank : Fin 64)
  /-- R189: The cluster atomic engine serves one request every two cycles. -/
  | atomicEngineServe
  /-- R190: An NI deposits a message into a QUEUE mailbox and advances TAIL. -/
  | mailboxQueueDeposit (ep : Fin 64)
  /-- R191: An NI deposits a message into a LATEST mailbox slot and sets READY. -/
  | mailboxLatestDeposit (ep : Fin 64)
  /-- R398: An MBOX arming takes effect at the endpoint's next message boundary. -/
  | mboxArmEffect (ep : Fin 64)
  /-- R185: A fetched line fills the invalid words of a private-cache line. -/
  | cacheLineFill (line : Nat)
  /-- R201: A store leaves the strand's store buffer once its conditions hold. -/
  | storeLeave (k : Fin 16)
  /-- R206: A die boundary buffer entry leaves when its home acknowledges it. -/
  | dbbEntryAck (bank : Fin 16)
  /-- R209: An acquire completes after its load and cache maintenance, releasing later accesses. -/
  | acquireComplete (k : Fin 16)
  /-- R210: A release's waits end and its own store or signal leaves. -/
  | releaseComplete (k : Fin 16)
  /-- R195: A cluster TLB miss starts a walk on one of the die's walkers. -/
  | tlbWalkStart (vpn : Nat) (k : Fin 16)
  /-- R196: A walk completes and answers every pending miss its page covers. -/
  | walkComplete (vpn : Nat)
  /-- R198: A write to TLBINV starts removal of matching entries in the cluster. -/
  | tlbinvWrite (k : Fin 16) (v : Word)
  /-- R198: The TLB removal completes and the writing strand resumes. -/
  | tlbinvDone (k : Fin 16)
  /-- R221: A pseudo-channel controller serves one 64-byte unit by the two-pass budget order. -/
  | hbmServiceUnit (p : Fin 512)
  /-- R228: A corrected granule is written back unless a demand write intervened. -/
  | scrubWriteback (p : Fin 512) (granule : Nat)
  /-- R220: At its commit wheel a pseudo-channel copies staged units into force. -/
  | budgetCommit (p : Fin 512)
  /-- R224: At a tREFIpb tick the controller refreshes, postpones or forces an all-bank refresh. -/
  | refreshTick (p : Fin 512)
  /-- R457: A bank leaves refresh and starts its pending requests in order. -/
  | refreshEnd (p : Fin 512) (bank : Fin 16)
  /-- R226: A pseudo-channel idle for SRIDLE wheels enters self-refresh. -/
  | selfRefreshEntry (p : Fin 512)
  /-- R226: Self-refresh exit ends three wheels after the first request. -/
  | selfRefreshExit (p : Fin 512)
  /-- R523: A failing HBM lane triggers channel training that maps it onto a spare. -/
  | laneRepair (c : Fin 256) (lane : BitVec 8)
  /-- R523: Training ends with an all-bank refresh and held requests are served. -/
  | laneTrainingEnd (c : Fin 256)
  /-- R231: A demand or capacity post reaches the hub and is summed or marked LATE. -/
  | postArrive (p : Post)
  /-- R231: At wheel CLOSE the hub sends Owl its demand row and capacity entry. -/
  | roundClose (round : BitVec 16)
  /-- R237: Owl forms the grant matrix and phases and delivers the calendar. -/
  | owlCalendar (round : BitVec 16) (rows : List OwlRow)
  /-- R237: A package receives a round's calendar and completes demand handles. -/
  | calendarArrive (c : Calendar)
  /-- R236: At a phase's start wheel the exchange engine sends granted records. -/
  | exchangePhaseStart (round : BitVec 16) (phase : Nat)
  /-- R52: A record arriving from another package is written to BUF. -/
  | exchangeRecordArrive (r : XRecord)
  /-- R241: At the first round's end each hub posts the second round automatically. -/
  | secondRoundPost (round : BitVec 16)
  /-- R232: At the round end plus 8 wheels a capacity handle completes PARTIAL if records are missing. -/
  | capacityPostTimeout (round : BitVec 16)
  /-- R243: The active Owl sends the standby a heartbeat every wheel. -/
  | owlHeartbeat
  /-- R243: With no heartbeat for 2 wheels the standby becomes active and takes time mastership. -/
  | owlFailover
  /-- R517: With no calendar by CLOSE + 32 the hub fills the round's handles LATE and RESIDUE. -/
  | calendarTimeout (round : BitVec 16)
  /-- R246: A chain-reduction packet meets its local CRED or waits in the early buffer. -/
  | credPacketArrive (p : CredPacket)
  /-- R513: At its deadline an unmatched packet is forwarded unchanged and a flush record kept. -/
  | credFlush (crid : BitVec 16) (round : BitVec 8)
  /-- R247: The copy engine moves one beat of the ready channel with the earliest deadline. -/
  | copyEngineBeat
  /-- R253: Once per wheel per die the dispatcher picks a process and queue and dispatches a gang. -/
  | dispatchGang (part : Fin 16) (die : Fin 8)
  /-- R258: After 64 wheels unplaced a gang is pinned and blocks other gangs. -/
  | gangPinned (part : Fin 16)
  /-- R256: At each wheel's first slot an idle die steals half the largest undispatched range. -/
  | dieSteal (part : Fin 16) (die : Fin 8)
  /-- R412: At the wheel after an increment, waiting cores and the dispatcher see the new value. -/
  | fenceCounterNotify (f : Fin 17) (i : Nat)
  /-- R411: After LAUNCH's release the hub writes the job record and advances TAIL. -/
  | launchEnqueue (h : Fin 128) (q : BitVec 12) (rec : Vector Word 8)
  /-- R276: A host TAIL write enqueues records at the hub. -/
  | enqueue (q : BitVec 12) (tail : BitVec 32) (f : Fin 17)
  /-- R264: At a slice's end the dispatcher saves ranges and lets running gangs drain. -/
  | sliceEnd (part : Fin 16)
  /-- R265: After DRAIN wheels the dispatcher forces a swap and names a stop wheel after a preflight. -/
  | forcedSwap (part : Fin 16)
  /-- R265: At the stop wheel the function's cells stop and their state is saved to the den. -/
  | swapStop (part : Fin 16)
  /-- R274: The background write of a saved context to the save area completes or faults. -/
  | saveAreaWriteback (part : Fin 16) (bad : Option SaveFault)
  /-- R267: A swapped function resumes at its next slice with state restored and the spill ring replayed. -/
  | swapResume (part : Fin 16)
  /-- R288: Above the cap the limit unit withholds issue from whole wheels of partitions. -/
  | powerCapWithhold (part : Fin 16)
  /-- R278: A physical-function write to SYSCFG, ignored for MODE or PKGNO/XGAP under stated conditions. -/
  | syscfgWrite (v : Word)
  /-- R288: A write to PWRCAP sets the power cap, clamped to range. -/
  | pwrcapWrite (v : Word)
  /-- R280: A write with GO removes every translation of the function's VMID. -/
  | s2invGo (f : Fin 17)
  /-- R280: The stage-2 removal completes and BUSY clears. -/
  | s2invDone (f : Fin 17)
  /-- R283: Proah's write of a nonce sets LCOMMIT.STAGED. -/
  | lstageWrite (nonce : BitVec 32)
  /-- R283: The host's write of word 1 with a matching token arms a layout commit. -/
  | lcommitArm (cw : BitVec 56)
  /-- R284: At the commit wheel staged partition halves become live, or the commit is refused. -/
  | layoutFlip
  /-- R286: Under REPLAY the jay supplies a logged input at its logged time. -/
  | jayReplayInput (p : Fin 16)
  /-- R273: At reset storage is cleared, trunks laid and Proah's image checked. -/
  | packageReset
  /-- R341: A gang barrier arrival from another cluster reaches the barrier unit. -/
  | gangBarrierArrive (b : Fin 16) (gen : BitVec 8) (count : BitVec 20)
  /-- R344: At the deadline wheel an incomplete BARWT resumes with D := 1. -/
  | barwtDeadline (k : Fin 16)
  /-- R471: A fault packet on the fault path is deposited into the buddy's fault queue or escalated. -/
  | faultPacketDeposit
  /-- R474: A RESUME write makes a frozen strand ready at DPC or its pending trap. -/
  | dctlResume (k : Fin 16)
  /-- R474: A HALT write halts a frozen strand. -/
  | dctlHalt (k : Fin 16)
  /-- R474: A KILL write orders every cell of the frozen strand's gang to end. -/
  | dctlKill (k : Fin 16)
  /-- R474: By the second wheel boundary the killed gang ends, its SFC unincremented and a record written. -/
  | killedGangEnd
  /-- R508: A gang quiescent for 4 wheels sends a packet and STALL records. -/
  | gangStall
  /-- R530: A write of GO kills the gang holding GSTRAND. -/
  | gkill (v : Word)
  /-- R535: A RETRY write re-runs preflight and resumes the held context's save write. -/
  | ctxRetry (part : Fin 16)
  /-- R535: A DISCARD write frees the den slot and loses the held context. -/
  | ctxDiscard (part : Fin 16)
  /-- R537: Once no gang of the function runs, the context engine takes a checkpoint. -/
  | checkpointTake (f : Fin 17)
  /-- R538: A held first write copies the granule's old content to the pool, then proceeds. -/
  | heldWriteCopy (granule : Nat)
  /-- R539: A DROP write discards the checkpoint. -/
  | checkpointDrop (f : Fin 17)
  /-- R540: A ROLLBACK write rolls the function back to its checkpoint. -/
  | checkpointRollback (f : Fin 17)
  /-- R542: A function-level reset request stops the function's writes, gangs and cells. -/
  | flrRequest (f : Fin 17)
  /-- R542: When no request of the function remains, circuits are released and its state cleared. -/
  | flrDrainEnd (f : Fin 17)
  /-- R546: Proah's KICK write restarts the watchdog count. -/
  | pwdogKick
  /-- R546: PERIOD wheels without a kick reset and reboot Proah. -/
  | pwdogExpiry
  /-- R547: Setting HOLD holds Proah's core in reset. -/
  | pctlHold (hold : Bool)
  /-- R547: A CLRLIM write zeroes LIMSTAT. -/
  | pctlClrlim
  /-- R8: A write to a register with no behaviour of its own updates it under its field map. -/
  | registerWrite (addr : Nat) (v : Word) (by_ : Writer)
  /-- R483: A strand issues a fetched word that is not an assigned encoding (such as the all-zero word) and freezes precisely with ILLINS. -/
  | illins (w : BitVec 32)
  /-- R492: An instruction fetch at the next PC fails translation, permission or X, or finds a hole or poison, and the strand freezes with FETCH or POISON. -/
  | fetchFault (why : FetchWhy)
  /-- R554: A pseudo-channel's training after package reset ends at a variable cycle; the controller writes REFORG and starts refresh tick numbering. -/
  | pseudoChannelTrainingEnd (p : Fin 512)
  /-- R523: A channel's window of 2^20 wheels for counting corrected lane errors runs out, and its per-lane counts restart. -/
  | laneErrorWindow (c : Fin 256)
  /-- R537: The background write of a checkpoint's on-die image from the den to the pool completes, and the image stops counting against the den's 3 MiB. -/
  | ckptPoolWriteDone (f : Fin 17)
  /-- R289: The per-die firmware of memory controllers or UCIe link logic is updated one die at a time, with that die's HBM quiesced. -/
  | firmwareUpdate (die : Nat) (done : Bool)
deriving DecidableEq, Repr

end Sys2Proof
end

