-- ==== Sys2Proof/Machine/State.lean ====
section
/-! DEFINITION. The state of the machine: one core with its sixteen strands in full, its cluster, its die, the memories of the
package, the fabric, the HBM controllers and the hub. Everything is plain data. -/

namespace Sys2Proof.Machine

/-! ## Registers and side fields (R98, R100, R106, R111) -/

/-- What an empty register waits for, or the completion entry a full register still holds. -/
inductive Bind where
  /-- A pending fill (R100), named by its ticket. -/
  | fill (ticket : Nat)
  /-- An entry of the completion table (R111). -/
  | handle (e : Fin 128)
deriving DecidableEq, Repr

/-- A scalar register, an operand-file entry, a queue entry or lat (R98). -/
structure Reg where
  val : Word
  tag : Tag
  full : Bool
  bind : Option Bind
deriving DecidableEq, Repr

/-- Zero, tag 64, full: what zr reads and what R271 sets. -/
def Reg.zero : Reg := ⟨0, Tag.full, true, none⟩

/-- A full register with the given value and tag. -/
def Reg.of (v : Word) (t : Tag) : Reg := ⟨v, t, true, none⟩

/-- A vector register (R106): bits, 16 group tags, one full/empty bit, and the fill it is bound to. -/
structure VReg where
  lanes : Lanes
  full : Bool
  bind : Option Nat
deriving DecidableEq, Repr

/-- Zero with group tags 64, full (R271). -/
def VReg.zero : VReg := ⟨⟨0, Vector.replicate 16 Tag.full⟩, true, none⟩

/-! ## Why a strand does not issue (R73, R78) -/

/-- The wait conditions of R78 with their operands. -/
inductive Wait where
  /-- Code 1. For BARWT, the destination, the ticket that reserves its place when it is a queue, and the deadline wheel (R344). -/
  | barrier (gang : Bool) (b : Fin 16) (gen : BitVec 8) (dest : Option (Opd × Nat)) (deadline : Option Nat)
  /-- Code 2. -/
  | queueEmpty (q : Fin 8)
  /-- Code 3. -/
  | queueFull (q : Fin 8)
  /-- Code 4: the TCM byte offset of the word. -/
  | wordEmpty (off : Nat)
  /-- Code 5. -/
  | wordFull (off : Nat)
  /-- Code 6: operand code, or 64 + n for vn (R101). -/
  | register (code : Nat)
deriving DecidableEq, Repr

/-- The structural stalls of R73, and two reasons not to issue that its list does not name (DESIGN CHOICE, log 64): translation, the walk of a
missing translation, which R196 says holds the strand and R464 puts before any later issue; and ownOrder, a payload, record or descriptor read
of the own TCM that R202 orders after an access still outstanding. -/
inductive Stall where
  | sendBuffer (ep : Fin 32) (n : Nat)
  | storeBuffer
  | closedEndpoint (ep : Fin 32)
  | tilePending
  | chunkPending
  | intakeFull (eng : BitVec 2)
  | tableFull
  | storesLeaving
  | remoteStf (ticket : Nat)
  | division (ticket : Nat)
  | fcwait (i : Nat) (n : Word)
  | tlbRemoval
  | remoteLimit
  | windowStores
  | writeBackFull
  | acquirePending
  | translation
  | ownOrder
deriving DecidableEq, Repr

/-- The states of R73, with frozen (R464) and the yield of R338. -/
inductive RunState where
  | ready
  | stalled (w : Stall)
  | parked (w : Wait)
  | yielded
  | dormant
  | halted
  | absent
  | frozen
deriving DecidableEq, Repr

/-! ## Stores and outstanding accesses -/

/-- A store of one 8-byte word or part of it: physical word address, data, byte enables and the tag byte a TCM word takes
(R163, R393). -/
structure WordStore where
  pa : Nat
  data : Word
  en : BitVec 8
  tagb : BitVec 8
deriving DecidableEq, Repr

/-- What a release lets out when its waits end (R210): nothing (FENCE), its store (STRL), a counter increment (FCINC) of the function that
issued it, a launch (R411). -/
inductive Signal where
  | none
  | store (x : WordStore) (nc : Bool)
  | fcinc (f i : Nat) (n : Word) (vec : Option (BitVec 6))
  | launch (h : Fin 128) (q : BitVec 12) (pa : Nat)
deriving DecidableEq, Repr

/-- An entry of the store buffer (R201), with the number that orders it among the strand's accesses. -/
inductive SbItem where
  /-- A plain or relaxed store; nc: its page is not cached. -/
  | store (seq : Nat) (x : WordStore) (nc relaxed : Bool)
  /-- A release (R210); wrote: the write-through of R186 is done; full: a FULL fence, which holds later loads (R211). -/
  | release (seq : Nat) (sc : Scope) (sig : Signal) (wrote full : Bool)
deriving DecidableEq, Repr

/-- One word or part of a word a load reads: physical address, size in bytes, whether its page is NC or RO (R193). -/
structure Piece where
  pa : Nat
  size : Nat
  nc : Bool
  ro : Bool
deriving DecidableEq, Repr

/-- How a load forms its tag (R386, R388): 64, from the tag plane of the word's TCM, or from memory at TAGBASE (R165). -/
inductive TagRead where
  | full
  | plane
  | memory (p : Piece)
deriving DecidableEq, Repr

/-- What an outstanding access does when it performs (R385). -/
inductive Access where
  /-- A scalar load; relaxed: LDAQ at scope 0. -/
  | load (p : Piece) (signed : Bool) (tag : TagRead) (relaxed : Bool)
  /-- LDAQ at scopes 1-5 (R209). -/
  | acquire (p : Piece) (sc : Scope)
  /-- A vector load or gather: per piece its place in the vector in bytes, the memory it reads and how its tag is formed, in
  ascending order; the type, the mask, whether tags are read, and VD as it stood. -/
  | vector (ps : List (Nat × Piece × TagRead)) (t : Ty) (act : BitVec 64) (tagged : Bool) (old : Lanes)
  /-- An AMO, by its FN. -/
  | amo (p : Piece) (fn : BitVec 4) (src : Word)
  /-- CAS. -/
  | cas (p : Piece) (cmp new : Word)
  /-- LDF (false) or LDW (true) at another core's TCM. -/
  | ldf (pa : Nat) (keep : Bool)
  /-- STF at another core's TCM. -/
  | stf (pa : Nat) (data : Word)
  /-- A store, STFF (some true) or CLRE (some false) at an on-die home outside the core, which answers with an acknowledgement (R176, R179). -/
  | write (x : WordStore) (fe : Option Bool)
deriving DecidableEq, Repr

/-- An access that has issued and not performed: its fill ticket (which also orders it), strand, PC, whether it went to HBM (R225), the cycle
it joined the waiters of another core's word (R175), and for a fault packet (R470) its instruction word and the virtual address of each physical
one. -/
structure Req where
  ticket : Nat
  strand : Fin 16
  pc : Addr
  acc : Access
  far : Bool
  joined : Option Nat
  ins : BitVec 32
  vas : List (Nat × Nat)
deriving DecidableEq, Repr

/-- An acquire in progress (R209): its scope, whether it binds the whole core (R112), the LDAQ ticket and value it will fill,
and whether its write-throughs have been made (R186). -/
structure Acq where
  sc : Scope
  whole : Bool
  fill : Option (Nat × Word)
  load : Bool
  wrote : Bool
deriving DecidableEq, Repr

/-- A walk of the page tables that ended in a fault (R525), kept for the strand that met it. -/
structure WalkFault where
  vpn : Nat
  hole : Option Nat
  level : BitVec 2
  stage : BitVec 2
deriving DecidableEq, Repr

/-- The binding of a spilled register: its record and entry, and the word of the TCM it was spilled to (R103, R105). -/
structure Spill where
  record : Nat
  entry : Nat
  pa : Nat
  b : Bind
deriving DecidableEq, Repr

/-- The window move a CALL or RET still owes (R104); a RET is kept with its PC and word, for a fill that meets poison (R464, R498). -/
inductive WindowMove where
  | spill
  | fill (pc : Addr) (ins : BitVec 32)
deriving DecidableEq, Repr

/-- What a trap of an instruction just completed took, and what stood in its place (R467, R482): a deferred fault at the same boundary leaves
that trap pending. -/
structure TrapBack where
  cause : Word
  tval : Word
  pc : Addr
  mode : Word
  tepc : Word
  tcause : Word
  tvalOld : Word
deriving DecidableEq, Repr

/-! ## A strand -/

structure Strand where
  run : RunState
  pc : Addr
  w : Vector Reg 8
  ring : Vector Reg 120
  o : Vector Reg 8
  lat : Reg
  v : Vector VReg 32
  m : Vector Word 8
  mode : Word
  strole : Word
  tvec : Word
  tepc : Word
  tcause : Word
  tval : Word
  ien : Word
  soft : Bool
  fpmode : Word
  fpflags : Word
  sigthr : Word
  winbase : Word
  winstate : Word
  lvtbase : Word
  tagbase : Word
  timecmp : Word
  latcnt : Word
  ng : Vector (BitVec 8) 32
  sb : List SbItem
  acq : Option Acq
  /-- The GETCHUNK still pending (R73). -/
  chunk : Option Nat
  /-- SINGULAR traps due (R269), by handle id. -/
  singular : List (BitVec 16)
  /-- A local trap kept over a freeze (R467): cause and value. -/
  tpend : Option (Word × Word)
  /-- Cause of the last fault (R473). -/
  cause : BitVec 8
  /-- Bindings of spilled registers (R105, R114). -/
  spilled : List Spill
  /-- Boundary-buffer entries a relaxed load was served from (R208). -/
  served : List Nat
  /-- The answers of walks that failed, for the instruction that misses again (R525). -/
  walked : List WalkFault
  /-- A trap has been taken at this boundary: another waits for the next one (R269). -/
  taken : Bool
  /-- The window move a CALL or RET still owes (R104). -/
  owed : Option WindowMove
  /-- The trap of the instruction just completed, until the strand issues again (R467). -/
  back : Option TrapBack
deriving DecidableEq, Repr

/-- A strand of no cell: every register as R271 sets it (log 7). -/
def Strand.absent : Strand where
  run := .absent
  pc := 0
  w := Vector.replicate 8 Reg.zero
  ring := Vector.replicate 120 Reg.zero
  o := Vector.replicate 8 Reg.zero
  lat := Reg.zero
  v := Vector.replicate 32 VReg.zero
  m := Vector.replicate 8 0
  mode := 0
  strole := 0
  tvec := 0
  tepc := 0
  tcause := 0
  tval := 0
  ien := 0
  soft := false
  fpmode := 0
  fpflags := 0
  sigthr := 0
  winbase := 0
  winstate := 0x10
  lvtbase := 0
  tagbase := 0
  timecmp := 0
  latcnt := 0
  ng := Vector.replicate 32 0
  sb := []
  acq := none
  chunk := none
  singular := []
  tpend := none
  cause := 0
  spilled := []
  served := []
  walked := []
  taken := false
  owed := none
  back := none

/-! ## The core -/

/-- States of a completion-table entry (R110). -/
inductive CState where
  | free | pending | filled
deriving DecidableEq, Repr

/-- Who owes a completion (R349). -/
inductive Owner where
  | tile | copy | mem | xchg
  | creq
  | crel (ep : Fin 32)
  | post (round : BitVec 16) (cap : Bool)
  | launch
deriving DecidableEq, Repr

/-- A completion-table entry (R110): the target is the strand's register that is bound to it. started is R349's; strap and vdst
are what a tile completion does beside (R417, R419); dead: the cell has ended (R74). wait counts the refresh cycles its engine's reads have
waited (R225); ask is the ticket of the HBM units its next beat waits for, and missed says that the walks of that beat have started (R196). -/
structure CEntry where
  state : CState
  gen : BitVec 9
  strand : Fin 16
  owner : Owner
  started : Bool
  status : BitVec 8
  strap : Bool
  vdst : List (Fin 32 × Nat × Lanes)
  dead : Bool
  wait : Nat
  ask : Option Nat
  missed : Bool
deriving DecidableEq, Repr

def CEntry.free : CEntry := ⟨.free, 0, 0, .tile, false, 0, false, [], false, 0, none, false⟩

/-- An accumulator tile (R108): 32 rows of 32 words, 32 row tags, and the poisoned elements (R528). -/
structure Acc where
  rows : Vector (Vector (BitVec 32) 32) 32
  tags : Vector Tag 32
  poison : List (Fin 32 × Fin 32)
deriving DecidableEq, Repr

def Acc.zero : Acc :=
  ⟨Vector.replicate 32 (Vector.replicate 32 0), Vector.replicate 32 Tag.full, []⟩

/-- The tile front end and execution queue (R84, R414): pending commands with their cycle of entry, the queue, the last
acceptance, and the cycle in which the command at its head has finished. -/
structure TileEngine where
  pend : List (EngCmd × Nat)
  queue : List EngCmd
  last : Option Nat
  till : Option Nat
deriving DecidableEq, Repr

/-- What a channel of the copy engine is doing (R247). -/
inductive ChanKind where
  | linear (src dst len : Nat) (red : BitVec 3)
  | rows (src dst spitch dpitch rows rowlen : Nat) (red : BitVec 3)
  | zero (dst len : Nat)
  | scrub (src dst len : Nat)
  /-- The first core: flits read or to be sent and not yet committed. -/
  | credSend (src : Nat) (p : CredPacket) (out : List Flit)
  /-- A hop that has met its packet: the op entry, the header as forwarded, the arriving payload, and flits not yet
  committed. -/
  | credHop (src dst : Nat) (op : BitVec 4) (p : CredPacket) (out : List Flit)
  | credWait (src dst : Nat) (crid : BitVec 16) (round : BitVec 8)
deriving DecidableEq, Repr

/-- A channel: its command, its work, beats moved, and whether it was found feasible (R248). -/
structure Chan where
  cmd : EngCmd
  kind : ChanKind
  beat : Nat
  feas : Bool
deriving DecidableEq, Repr

/-- A flush record (R513), with LENGTH for the late message (R514). -/
structure FlushRec where
  crid : BitVec 16
  round : BitVec 8
  last : Nat
  len : Nat
deriving DecidableEq, Repr

/-- A packet whose header the copy engine has taken from endpoint 62 (R246, R444): its CRID and ROUNDNO, the payload flits not yet taken, which
stand in the receive queue in the order of this list, and, for one that is flushed, the endpoint it goes out on, or none, with the flits of the
next message (R513). -/
structure InPkt where
  crid : BitVec 16
  round : BitVec 8
  left : Nat
  flush : Option (Option (Fin 32) × List Flit)
deriving DecidableEq, Repr

/-- The copy engine (R246, R247, R513): commands not yet taken, channels, headers in the early buffer, flush records, and the packets whose
payload is still to be taken. -/
structure CopyEngine where
  intake : List EngCmd
  chans : List Chan
  early : List CredPacket
  flushed : List FlushRec
  order : List InPkt
deriving DecidableEq, Repr

def CopyEngine.idle : CopyEngine := ⟨[], [], [], [], []⟩

/-- A word of a private-cache line (R185, R475). -/
structure CWord where
  valid : Bool
  dirty : Bool
  data : Word
  poison : Bool
deriving DecidableEq, Repr

/-- A line of the private cache: line number (physical address / 64), its eight words, and whether its page has RO = 1. -/
structure CLine where
  line : Nat
  words : Vector CWord 8
  ro : Bool
deriving DecidableEq, Repr

/-- What a boundary-buffer entry is (R206): fe is an STFF or CLRE of another die's TCM, stf the request of an STF there (R389). -/
inductive DbbKind where
  | relaxed | plain | through | release
  | atomic (ticket : Nat)
  | fe (full : Bool)
  | stf (ticket : Nat)
deriving DecidableEq, Repr

/-- A write on its way through the die boundary buffer or waiting in the write-back queue (R206); sent: its request is at its pseudo-channel
(R218); bad: its word is poisoned (R475). -/
structure DbbEntry where
  id : Nat
  gcore : Nat
  strand : Fin 16
  kind : DbbKind
  x : WordStore
  sent : Bool
  bad : Bool
deriving DecidableEq, Repr

/-- The fetch of a line (R185): whether its page has RO = 1, the ticket of its HBM unit, and the strand whose read began it (R225). -/
structure Fetch where
  line : Nat
  ro : Bool
  ticket : Nat
  strand : Fin 16
deriving DecidableEq, Repr

/-- A TLB entry (R193-R195): tags, the page's first virtual address and size in bits, its physical base, the rights of stage 1 and
those of stage 2 (all set when there is no stage 2). -/
structure TlbEntry where
  asid : BitVec 16
  vmid : BitVec 16
  vbase : Nat
  bits : Nat
  pbase : Nat
  nc : Bool
  ro : Bool
  u : Bool
  x : Bool
  w : Bool
  r : Bool
  x2 : Bool
  w2 : Bool
  r2 : Bool
deriving DecidableEq, Repr

/-- A walk pending in the cluster TLB, the strands that miss on it (R196), the ticket of its table reads in HBM, and whether one of the die's
walkers has taken it (R195). -/
structure Walk where
  vpn : Nat
  asid : BitVec 16
  vmid : BitVec 16
  waiters : List (Fin 16)
  ticket : Nat
  started : Bool
deriving DecidableEq, Repr

/-- A waiter on a TCM word (R174): a strand of this core with its destination (and the ticket that reserves its place when that is a
queue), or a remote request. -/
inductive WaiterBy where
  | strand (k : Fin 16) (d : Opd) (ticket : Nat)
  | remote (gcore : Nat)
deriving DecidableEq, Repr

inductive WaiterKind where
  | ldf | ldw
  | stf (data : Word)
deriving DecidableEq, Repr

/-- One that waits for a word (R174), with the virtual address it named, for a fault packet (R470). -/
structure Waiter where
  off : Nat
  began : Nat
  by_ : WaiterBy
  kind : WaiterKind
  va : Nat
deriving DecidableEq, Repr

/-- A barrier (R341). -/
structure Barrier where
  cur : BitVec 8
  cnt : Nat
  nxt : Nat
  count : Nat
  ncount : Nat
deriving DecidableEq, Repr

def Barrier.zero : Barrier := ⟨0, 0, 0, 0, 0⟩

/-- The window kept per receiver of a circuit (R44). -/
structure Window where
  sent : BitVec 16
  returned : BitVec 16
deriving DecidableEq, Repr

/-- A committed message (R43), the cycle of its commit, and the strand and number by which earlier releases come before it (R215). -/
structure Message where
  flits : List Flit
  at_ : Nat
  strand : Fin 16
  seq : Nat
deriving DecidableEq, Repr

/-- A send endpoint (R42-R44, R67): whether it holds a circuit, the windows of its receivers, the messages committed, the rest of
the message in progress, whether CREL has closed it, and the wheel from which no message may start (R66, R504). -/
structure SendEp where
  circuit : Bool
  wins : List Window
  buf : List Message
  rest : List Flit
  closed : Bool
  hold : Option Nat
deriving DecidableEq, Repr

def SendEp.idle : SendEp := ⟨false, [], [], [], false, none⟩

/-- The kinds of a mailbox (R397). -/
inductive MboxKind where
  | queue | latest
deriving DecidableEq, Repr

/-- An arming of a receive endpoint (R397). -/
structure Arming where
  kind : MboxKind
  act : Bool
  int : Bool
  hpc : Addr
  slots : Nat
  f : Nat
  base : Nat
  strand : Fin 16
deriving DecidableEq, Repr

/-- An arming or closing that waits for a message boundary (R398). -/
inductive ArmReq where
  | arm (a : Arming)
  | close
deriving DecidableEq, Repr

/-- A receive endpoint (R44, R45, R190, R191, R501): its receive queue, count, the count last returned, the broken state, its
arming, a waiting arming, flits of the head message already deposited, whether a message is open on arrival, the message count,
the LATEST slot being filled, the ready and reader slots, the pending interrupt bit, the flits that have arrived, and whether the rest of the
open message is discarded because the cell it came for has ended (R74). -/
structure RecvEp where
  queue : List Flit
  count : BitVec 16
  returned : BitVec 16
  broken : Bool
  arming : Option Arming
  next : Option ArmReq
  part : Nat
  openMsg : Bool
  seq : Nat
  slot : Nat
  ready : Nat
  reader : Nat
  pend : Bool
  got : Nat
  drop : Bool
  hold : Option Nat
deriving DecidableEq, Repr

def RecvEp.idle : RecvEp := ⟨[], 0, 0, false, none, none, 0, false, 0, 0, 1, 2, false, 0, false, none⟩

/-- The resident cell (R72) and the gang and job it belongs to (R251, R259). -/
structure Cell where
  gang : Gang
  index : Nat
  n : Nat
  handlers : Nat
  killed : Bool
deriving DecidableEq, Repr

structure Core where
  gcore : Nat
  cell : Option Cell
  strands : Vector Strand 16
  queues : Vector (List Reg) 8
  agelim : Word
  accmap : Word
  ptroot : Word
  fqcfg : Word
  dsel : Word
  table : Vector CEntry 128
  acc : Vector Acc 8
  tile : TileEngine
  copy : CopyEngine
  memIntake : List EngCmd
  xchgIntake : List EngCmd
  cache : List CLine
  fetches : List Fetch
  wbq : List DbbEntry
  utlb : List TlbEntry
  waiters : List Waiter
  /-- Remote requests that wait in the receive queue of endpoint 63 while 32 wait on words (R175). -/
  remoteQ : List RemoteReq
  /-- TCM words a waiter has already changed in this cycle (R174): offsets in the own TCM, addresses in another core's. -/
  moved : List Nat
  bars : Vector Barrier 16
  send : Vector SendEp 32
  recv : Vector RecvEp 64
  reqs : List Req
  /-- Cycles each load waited for refresh at a controller, until its fill (R225). -/
  refWaits : List (Nat × Nat)
  /-- While a forced swap or a reset holds the core's cell stopped: the flits that came for it, with their endpoints (R265). -/
  spill : Option (List (Fin 64 × Flit))
  lastFn : Option (Fin 17)
  /-- The effective priority of the cell's queue at the first slot of the present wheel (R260). -/
  pri : Nat
  /-- Whole wheels the cell has been quiescent, and whether something of it stirred in this wheel (R507). -/
  quiet : Nat
  stirred : Bool
deriving DecidableEq, Repr

/-! ## Cluster and die -/

/-- A loop counter (R87). -/
structure LoopCtr where
  next : Nat
  remaining : Nat
  parts : Nat
  minchunk : Nat
deriving DecidableEq, Repr

/-- What an exchange writes (R334): the operand, the old value with its bits set, or with them clear. -/
inductive RegOp where
  | swap
  | set
  | clr
deriving DecidableEq, Repr

def RegOp.apply (op : RegOp) (old v : Word) : Word :=
  match op with
  | .swap => v
  | .set => old ||| v
  | .clr => old &&& ~~~v

/-- A request to the loop unit (R88, R128, R334, R346). -/
inductive LoopReqKind where
  | set (total parts minchunk : Nat)
  | get (ticket : Nat)
  | reg (r : BitVec 12) (v : Word)
  | xchg (r : BitVec 12) (op : RegOp) (v : Word) (ticket : Nat)
deriving DecidableEq, Repr

structure LoopReq where
  arrive : Nat
  gcore : Nat
  strand : Fin 16
  ctr : Fin 8
  kind : LoopReqKind
deriving DecidableEq, Repr

/-- A packet on the fault path (R470, R471): the faulting core, the eight words, and the function and partition of its cell; SEQ is filled in at
the deposit. -/
structure Packet where
  gcore : Nat
  words : List Word
  func : Nat
  part : Nat
deriving DecidableEq, Repr

/-- Whose access a bank or an atomic engine serves: a read of the modelled core by its ticket, a buffered store of one of its strands by its
number, a word of an engine's beat by its ticket, or an access of another core. -/
inductive BankUser where
  | load (ticket : Nat)
  | store (k : Fin 16) (seq : Nat)
  | engine (ticket : Nat)
  | other
deriving DecidableEq, Repr

/-- An access at a scratchpad bank, by the port it comes on (R180). -/
structure BankReq where
  bank : Nat
  port : Nat
  user : BankUser
deriving DecidableEq, Repr

/-- An access at a bank of the die SRAM: when it arrived and from which core (R176, R182). -/
structure SramReq where
  bank : Nat
  arrive : Nat
  gcore : Nat
  user : BankUser
deriving DecidableEq, Repr

/-- What the cluster atomic engine serves (R189): an atomic of the modelled core, a plain access to a line it holds, or another core's atomic. -/
inductive AtomOp where
  | own (r : Req)
  | plain (line : Nat) (u : BankUser)
  | other (a : Access)
deriving DecidableEq, Repr

structure AtomReq where
  arrive : Nat
  gcore : Nat
  op : AtomOp
deriving DecidableEq, Repr

/-- The units of the cluster. bankReqs lists the accesses at the scratchpad's banks (R180), bankDone the buffered stores a bank or an engine has
served; atomNext is the cycle from which the atomic engine serves again (R189); flagsPast holds the flags of the last cycles for FPOR
(R123). -/
structure Cluster where
  loops : Vector LoopCtr 8
  loopReqs : List LoopReq
  bars : Vector Barrier 16
  tlb : List TlbEntry
  walks : List Walk
  atomLines : List Nat
  atomReqs : List AtomReq
  atomNext : Nat
  bankNext : Vector (Fin 16) 64
  bankReqs : List BankReq
  bankDone : List Nat
  path : List Packet
  seqs : List (Nat × Nat)
  flagsPast : List (BitVec 5)
deriving DecidableEq, Repr

/-- A message in a gateway's FIFO (R179): the trunk it waits for, its source and its flits. -/
structure GwMsg where
  gw : AgentId
  source : Nat
  flits : Nat
deriving DecidableEq, Repr

/-- The units of the die. sramReqs lists the accesses at the SRAM's banks (R182); gwNext is the source each gateway served
last (R179). -/
structure Die where
  cecnt : Word
  dbb : List DbbEntry
  gwMsgs : List GwMsg
  gwNext : List (AgentId × Nat)
  sramReqs : List SramReq
deriving DecidableEq, Repr

/-! ## Fabric (02, 03) -/

/-- A slot-table entry (R28, R42): live and staged halves, SPEND, and whether its check bits are uncorrectable (R500). Entries
not listed are idle. -/
structure TEntry where
  agent : AgentId
  table : BitVec 2
  port : Nat
  slot : Nat
  live : BitVec 16
  staged : BitVec 16
  spend : Bool
  lost : Bool
deriving DecidableEq, Repr

/-- State of a UCIe link (R504, R505). -/
inductive LinkState where
  | up
  | training (since : Nat)
  | down
deriving DecidableEq, Repr

/-- A UCIe link, whether its signal was lost, and the receiving ends whose depth a retrain still waits for (R504); links not listed are
up. -/
structure Link where
  l : Nat
  state : LinkState
  lost : Bool
  waits : List AgentId
deriving DecidableEq, Repr

/-- The alignment register of a receiving end (R34), by its agent and port; registers not listed are zero. -/
structure Align where
  agent : AgentId
  port : Nat
  measd : BitVec 8
  apend : Bool
  sdepth : BitVec 7
  depth : BitVec 7
deriving DecidableEq, Repr

/-- A flit at a switch input (R29), numbered, with the global time at which it may leave. -/
structure InFlit where
  agent : AgentId
  port : Nat
  time : Nat
  flit : Flit
deriving DecidableEq, Repr

/-- An inter-package port (R49, R50): status and the exchange counts, the wheel of the last exchange (R506), and of one that is down the wheel in
which it is tried again (R505). -/
structure Port where
  measd : BitVec 16
  k : BitVec 8
  offset : BitVec 16
  lock : BitVec 2
  good : Nat
  bad : Nat
  lastWheel : Nat
  retry : Nat
deriving DecidableEq, Repr

def Port.zero : Port := ⟨0, 0, 0, 0, 0, 0, 0, 0⟩

/-- A circuit as Badger knows it (R55-R60): source, receivers with the reverse slots of each, queue, and forward slots; fixed
circuits are laid again when broken (R503). -/
structure Circuit where
  src : BitVec 32
  dsts : List (BitVec 32 × List Nat)
  qid : BitVec 16
  slots : List Nat
  fixed : Bool
deriving DecidableEq, Repr

/-- The fabric as Badger holds and has laid it: tables, pending commits of agents (R64), links, flits on their way, inter-package ports,
the planes' permutations, circuits, the receive and send endpoints of pseudo-channel NIs that are not idle (R42), requests pending (R57), the wheel of the last configuration flit (R65), the read-backs not yet
answered, the first of them under way (R40), and the hold wheel of each link that is held (R504). -/
structure Fabric where
  tables : List TEntry
  commits : List (AgentId × Nat)
  links : List Link
  flits : List InFlit
  aligns : List Align
  ports : Vector Port 16
  perms : Vector (List PlanePerm) 16
  circuits : List Circuit
  pcRecv : List (BitVec 32 × RecvEp)
  pcSend : List (BitVec 32 × SendEp)
  pending : List CircReq
  lastFlit : Nat
  readbacks : List (AgentId × Nat)
  holds : List (Nat × Nat)
deriving DecidableEq, Repr

/-! ## HBM controllers (09) -/

/-- A request at a pseudo-channel (R218, R221, R225): class, arrival, core, address, the access it serves and the handle of the engine operation
it is of, the cycles it waits for refresh, the units of 64 bytes it still moves, and whether it writes. -/
structure HReq where
  cls : Fin 16
  arrive : Nat
  gcore : Nat
  addr : Nat
  ticket : Nat
  handle : Option (Fin 128)
  wait : Nat
  units : Nat
  write : Bool
deriving DecidableEq, Repr

/-- A granule that a scrub has read and corrected and not yet written back (R228, R521): its number in the pseudo-channel, the class its
write-back charges, the ticket of that write, and the handle of the SCRUB that read it. -/
structure ScrubRead where
  granule : Nat
  cls : Fin 16
  ticket : Nat
  handle : Option (Fin 128)
deriving DecidableEq, Repr

/-- The data of a read whose row access is under way (R223): the ticket and handle of its request, and the cycle from which it is there. -/
structure RowData where
  ticket : Nat
  handle : Option (Fin 128)
  at_ : Nat
deriving DecidableEq, Repr

/-- A pseudo-channel's controller (R218-R228, R456, R522, R523): the die wheel its unit counts are of, units used and charged in pass 1,
requests, what is owed, the cycle until which each bank is in refresh, the number of the next tick, the cycle of the last request served,
self-refresh and the cycle its exit ends, the patrol's next granule and the granules read and not written back, training, the banks whose ticks fell
during exit, and the reads whose data is on its way from the row. -/
structure Pc where
  p : Nat
  wheel : Nat
  used : Nat
  charged : Vector Nat 16
  reqs : List HReq
  owed : Nat
  owedList : List Nat
  busy : Vector Nat 16
  tick : Nat
  idle : Nat
  selfRef : Bool
  exitAt : Option Nat
  scrub : Nat
  scrubRead : List ScrubRead
  training : Bool
  lateTick : List Nat
  data : List RowData
deriving DecidableEq, Repr

/-- A pseudo-channel after reset: in training, whose end begins its ticks (R456, R554). -/
def Pc.init (p : Nat) : Pc :=
  ⟨p, 0, 0, Vector.replicate 16 0, [], 0, [], Vector.replicate 16 0, 0, 0, false, none, 0, [], true, [], []⟩

/-! ## The hub -/

/-- A list of an XRUN (R238): its virtual address and record count, and whether its descriptor could be read. -/
structure XList where
  va : Nat
  count : Nat
  read : Bool
deriving DecidableEq, Repr

/-- A round of the exchange at this package's hub (R231, R240-R242, R516): whether a post was counted, what was counted, the handles,
the calendar or that it came too late, and, in a first round, the XRUN with its lists, the records sent per destination over both
rounds, the records moved out per list, the moved records with their fallback, the records deposited, the tickets of their writes,
the records sent to other packages with their destination, and the fault met. -/
structure Round where
  round : BitVec 16
  counted : Bool
  close : Nat
  rcode : BitVec 4
  buf : Option Nat
  demand : List Nat
  cap : Nat
  demHandles : List (Fin 128)
  capHandles : List (Fin 128)
  cal : Option Calendar
  lapsed : Bool
  run : Option EngCmd
  lists : Option (List XList)
  sent : List Nat
  movedOut : List Nat
  moved : List (Nat × Vector Word 4)
  arrived : Nat
  writes : List Nat
  out : List (Nat × XRecord)
  fault : Nat
deriving DecidableEq, Repr

/-- An undispatched range of gangs in a die's dependency table (R256). -/
structure Dep where
  part : Fin 16
  die : Nat
  queue : BitVec 12
  index : Nat
  lo : Nat
  hi : Nat
deriving DecidableEq, Repr

/-- A job in progress (R71, R74): its record, how many gangs have ended, whether a gang was killed, and whether a gang of it ran on
the modelled core. A job whose last gang has ended stays until the release of its completion is over (R213). -/
structure JobRun where
  part : Fin 16
  func : Fin 17
  queue : BitVec 12
  index : Nat
  job : Vector Word 8
  ended : Nat
  killed : Bool
  here : Bool
deriving DecidableEq, Repr

/-- A gang that has started and has not ended: its partition, function, queue, record and number in the job, its cores, and whether the
modelled core's cell of it and its other cells still run. -/
structure GangRun where
  part : Fin 16
  func : Fin 17
  queue : BitVec 12
  index : Nat
  gang : Nat
  cores : List Nat
  own : Bool
  others : Bool
deriving DecidableEq, Repr

/-- A gang the dispatcher keeps trying to place (R258): its queue, record and number in the job, the wheels it has not been placed, and the last
of them. -/
structure Try where
  queue : BitVec 12
  index : Nat
  gang : Nat
  count : Nat
  last : Nat
deriving DecidableEq, Repr

/-- Scheduling of a partition (R252, R258, R264, R265): the function of the slice, the wheel it began, the gangs chosen and not placed, the
pinned gang by its queue, record and number, the wheel from which it drains, and whether the present wheel had work. -/
structure PartRun where
  func : Option (Fin 17)
  sliceAt : Nat
  tries : List Try
  pinned : Option (BitVec 12 × Nat × Nat)
  drainFrom : Option Nat
  busy : Bool
deriving DecidableEq, Repr

def PartRun.idle : PartRun := ⟨none, 0, [], none, none, false⟩

/-- Between slices: the gangs that could not be placed are remembered (R258). -/
def PartRun.rest (x : PartRun) : PartRun := { PartRun.idle with tries := x.tries, pinned := x.pinned }

/-- What a den or a checkpoint keeps of the memory of cores and clusters (R265, R537): the bytes of TCM and scratchpad, the tag bytes and
full/empty bits of the TCM words, the poisoned words, and the loop counters of the modelled core's cluster. -/
structure Image where
  cores : List Nat
  clusters : List Nat
  mem : List Host.Cell
  tags : List Host.Cell
  fe : List Host.Cell
  poison : List Nat
  loops : Vector LoopCtr 8
deriving DecidableEq, Repr

/-- A context in a den (R265, R266, R534): its gangs, the modelled core's context when it held one of their cells, with whether the gang
was larger than a cluster, the image of the gangs' cores and clusters, the gang barriers, the spill ring, whether it has been written to the
save area, and the ticket of the units that write takes (R274). -/
structure DenCtx where
  part : Fin 16
  func : Fin 17
  gangs : List GangRun
  core : Option Core
  big : Bool
  img : Image
  bars : Vector Barrier 16
  ring : List (Fin 64 × Flit)
  written : Bool
  saving : Option Nat
deriving DecidableEq, Repr

/-- A checkpoint (R537, R538): the on-die image, fence table words and queue words by address, written bits, old granules in the pool,
whether the image is still in the den, and the ticket of the units its write to the pool takes. -/
structure Ckpt where
  func : Fin 17
  img : Image
  fence : List (Nat × Word)
  queues : List (Nat × Word)
  bits : List Nat
  pool : List (Nat × List Host.Cell)
  inDen : Bool
  ticket : Nat
deriving DecidableEq, Repr

/-- A granule the checkpoint engine copies for a function, while the writes to it wait (R538): the ticket of its units of class 14, and whether
its old content has been read and goes to the pool. -/
structure Held where
  func : Fin 17
  granule : Nat
  ticket : Nat
  write : Bool
deriving DecidableEq, Repr

/-- A rollback under way (R540): its function, its step (1 the drain, 2 the circuits' commit wheel, 3 the write-back), and the wheel the drain
ends at the latest or the ticket of the write-back's units. -/
structure Rolling where
  func : Fin 17
  step : Fin 4
  n : Nat
deriving DecidableEq, Repr

/-- The hub: registers by address, MSI-X vectors raised (function, vector), measurement registers (R289), the Owls (R243) with rows
received and rounds, PASS of each process and the processes among which a partition last chose (R253), dependency tables (R256), jobs and
gangs under way, partitions, dens, checkpoints, the queues whose checkpoint was taken or skipped (by queue and record), the functions whose
image is restored at their next slice on a partition (R540), rollbacks under way, granules being copied, functions in reset with their wheel F (R542), Proah's nonce and the armed
commit wheel (R283), wheels withheld by the power cap (R288), the wheel of the last kick (R546), the die whose firmware is being updated
(R289; memory dies from 8), corrected errors by channel and lane (R523), the next jay record of a replay (R286), the host
windows each function has registered, by first address and length (R168, R275), whether the active Owl still works (R243), enqueues by queue,
first record and count with the cycle before which none of them starts (R259), the function that last used each core and cluster but the modelled
core (R273), the halves of an armed commit by address (R283, R284), the rounds whose calendar Owl has formed with their first wheel (R237), the
corrected errors counted on other dies (R477), and which queue's head job waits for which queue's fence (R260). -/
structure Hub where
  regs : List (Nat × Word)
  msix : List (Nat × Nat)
  meas : Vector (BitVec 512) 8
  owlActive : Bool
  owlStandby : Bool
  heartbeat : Nat
  rows : List OwlRow
  formed : List (BitVec 16 × Nat)
  cecnts : List (Nat × Word)
  rounds : List Round
  pass : List ((Fin 17 × Fin 16) × Nat)
  among : List (Fin 16 × Fin 17 × Fin 16)
  deps : List Dep
  jobs : List JobRun
  gangs : List GangRun
  parts : Vector PartRun 16
  dens : List DenCtx
  ckpts : List Ckpt
  ckptDone : List (BitVec 12 × Nat)
  restoring : List (Fin 17 × Fin 16)
  rolling : List Rolling
  held : List Held
  resetting : List (Fin 17 × Nat)
  nonce : BitVec 32
  armed : Option Nat
  withheld : List (Nat × Fin 16)
  kickAt : Nat
  fwDie : Option Nat
  lanes : List (Nat × Nat × Nat)
  replayAt : List (Fin 16 × Nat)
  windows : List (Fin 17 × Nat × Nat)
  owlUp : Bool
  enq : List (BitVec 12 × Nat × Nat × Nat)
  coreUser : List (Nat × Fin 17)
  clusterUser : List (Nat × Fin 17)
  armedHalves : List (Nat × Word)
  waits : List (Nat × Nat)
deriving DecidableEq, Repr

/-! ## Outcomes that stop the model -/

/-- The machine's own faults are next states (R464), so only a misuse of the agenda stops it. -/
inductive Fault where
  /-- Raised by step when the agenda holds an encoded instruction as an event, which only a strand issues. Safe: no such state is reached from
  one without it, and no claim about a next state covers it. -/
  | agendaHoldsInstruction
deriving DecidableEq, Repr

/-- Why the model gives no meaning. -/
inductive Refusal where
  /-- Raised by an arm of exec that has no meaning yet. Safe: nothing is claimed of it. -/
  | notModelled (mnemonic : String)
deriving DecidableEq, Repr

/-! ## Acts -/

/-- What the agenda holds: an act that the machine itself has set going, each the row of the table of the same name, or an event
from the outside (log 2). command and circuit stand for the engine commands and the Badger requests by their CMD; chunkFill is
the end of LOOP_UNIT_SERVICE, two cycles on (R346), and gapCheck the check of an owned receive slot for the next flit of an open
message (R501); othersEnd is the end of a gang's cells on cores outside the model (log 1), and jobRelease a try at the release of a
job's completion (R213), which covers what entered the buffers before the bound; rollbackStep is the next step of a rollback (R540). hbmRequest, bankRequest, sramRequest, atomicRequest and
outsideWrite are accesses of other cores, the host or Proah at homes of this package, proahSlot a slot-table entry Proah writes, loopRequest a request of another core of the cluster to
its loop unit, lateArrive the late message of another core (R514), and hostWindow is the host registering a window. The six errors are
what check bits find: in memory, with its HBM lane, in the private cache, in a den's copy of a word of a context, in an accumulator element, in a slot-table entry, and bits of a
flit under way turned over (R475, R500, R528); packetArrive is a fault packet of another core of the cluster (R471). owlFails is the active Owl falling silent, owlTakeover the first slot of wheel
T of R243, and planesSet the flit of slot 131 in which the planes' control agents take a calendar (R51, R237). -/
inductive Act where
  | event (i : Instr)
  | command (c : EngCmd)
  | circuit (r : CircReq)
  | completion (h : Fin 128) (st : Completion)
  | intDivideFill (k : Fin 16) (ticket : Nat) (v : Word)
  | fpDivideFill (k : Fin 16) (ticket : Nat) (r : DivResult)
  | remoteReplyArrive (ticket : Nat)
  | cacheLineFill (line : Nat)
  | storeLeave (k : Fin 16)
  | dbbEntryAck (bank : Fin 16)
  | acquireComplete (k : Fin 16)
  | releaseComplete (k : Fin 16)
  | tlbWalkStart (vpn : Nat) (k : Fin 16)
  | walkComplete (vpn : Nat)
  | tlbinvWrite (k : Fin 16) (v : Word)
  | tlbinvDone (k : Fin 16)
  | windowSpill (k : Fin 16)
  | windowFill (k : Fin 16)
  | barwtDeadline (k : Fin 16)
  | barwtLate (k : Fin 16)
  | portQuiet (p : Fin 16)
  | jayReplay (p : Fin 16)
  | channelGap (e : BitVec 32) (got : Nat)
  | tlbinvOther (vmid : BitVec 16) (v : Word)
  | capacityAck (round : BitVec 16)
  | fenceCounterNotify (f : Fin 17) (i : Nat)
  | launchEnqueue (h : Fin 128) (q : BitVec 12) (job : Vector Word 8)
  | postArrive (p : Post)
  | roundClose (round : BitVec 16)
  | owlCalendar (round : BitVec 16) (rows : List OwlRow)
  | calendarArrive (c : Calendar)
  | calendarTimeout (round : BitVec 16)
  | exchangePhaseStart (round : BitVec 16) (phase : Nat)
  | secondRoundPost (round : BitVec 16)
  | capacityPostTimeout (round : BitVec 16)
  | badgerRequestArrive (r : CircReq)
  | sendBufferEmpty (ep : Fin 32) (r : CircReq)
  | mailboxQueueDeposit (ep : Fin 64)
  | mailboxLatestDeposit (ep : Fin 64)
  | mboxArmEffect (ep : Fin 64)
  | activeMessageClaim (ep : Fin 64)
  | messageStart (ep : Fin 32)
  | windowReturnSend (ep : Fin 64)
  | windowReturnArrive (ep : Fin 32) (recv : Nat) (count : BitVec 16)
  | gapCheck (ep : Fin 64) (got : Nat)
  | loopRegWrite (reg : BitVec 12) (v : Word)
  | loopUnitService
  | chunkFill (k : Fin 16) (ticket : Nat) (v : Word)
  | dctlResume (k : Fin 16)
  | dctlHalt (k : Fin 16)
  | dctlKill (k : Fin 16)
  | killedGangEnd
  | cellEnd
  | tileFrontEndAccept
  | copyEngineBeat
  | atomicEngineServe
  | faultPacketDeposit
  | credLook
  | credFlush (crid : BitVec 16) (round : BitVec 8)
  | stagedCommit (agent : AgentId)
  | configFlit (here : AgentId) (d : BitVec 512)
  | configUp (depth : Nat) (d : BitVec 512)
  | circuitBreak (src : BitVec 32) (reason : Nat)
  | linkTrained (l : Fin 352) (d : LinkDelays)
  | linkTrainTimeout (l : Fin 352)
  | linkRetry (l : Fin 352)
  | switchSlot (agent : AgentId)
  | flitReceive (f : Flit) (entry : BitVec 16)
  | s2invDone (f : Fin 17)
  | budgetCommit (p : Fin 512)
  | hbmServiceUnit (p : Fin 512)
  | refreshTick (p : Fin 512)
  | selfRefreshEntry (p : Fin 512)
  | laneRepair (c : Fin 256) (lane : BitVec 8)
  | refreshEnd (p : Fin 512) (bank : Fin 16)
  | scrubWriteback (p : Fin 512) (granule : Nat)
  | selfRefreshExit (p : Fin 512)
  | laneTrainingEnd (c : Fin 256)
  | laneWindow (c : Fin 256)
  | heldWriteCopy (granule : Nat)
  | ckptPoolWriteDone (f : Fin 17)
  | rollbackStep (f : Fin 17)
  | checkpointTake (f : Fin 17)
  | saveAreaWriteback (part : Fin 16) (bad : Option SaveFault)
  | swapStop (part : Fin 16)
  | swapResume (part : Fin 16)
  | gangStart (g : Gang)
  | flrDrainEnd (f : Fin 17)
  | layoutFlip
  | dispatchGang (part : Fin 16) (die : Fin 8)
  | gangPinned (part : Fin 16)
  | sliceEnd (part : Fin 16)
  | forcedSwap (part : Fin 16)
  | othersEnd (queue : BitVec 12) (index gang : Nat)
  | jobRelease (queue : BitVec 12) (index bound : Nat) (wrote : Bool)
  | pseudoChannelTrainingEnd (p : Fin 512)
  | hbmRequest (cls : Fin 16) (gcore pa : Nat) (write : Bool)
  | pwdogExpiry
  | gatewaySend (gw : AgentId)
  | scratchpadBankAccess (bank : Fin 64)
  | dieSramBankAccess (bank : Fin 64)
  | remoteRequestArrive (q : RemoteReq)
  | gangStall
  | bankRequest (gcore pa : Nat)
  | sramRequest (gcore pa : Nat)
  | atomicRequest (gcore : Nat) (a : Access)
  | outsideWrite (by_ : Outside) (x : WordStore)
  | proahSlot (a : AgentId) (t : BitVec 2) (port slot : Nat) (v : BitVec 16)
  | hostWindow (f : Fin 17) (base len : Nat) (on : Bool)
  | memoryError (pa lane : Nat) (fatal : Bool)
  | cacheError (pa : Nat) (fatal : Bool)
  | denError (part : Fin 16) (func : Fin 17) (pa : Nat) (fatal : Bool)
  | accError (t : Fin 8) (i j : Fin 32)
  | entryError (a : AgentId) (t : BitVec 2) (port slot : Nat) (fatal : Bool)
  | flitError (n : Nat) (bits : List Nat)
  | packetArrive (p : Packet)
  | loopRequest (q : LoopReq)
  | lateArrive (crid : BitVec 16) (round : BitVec 8) (f : Flit)
  | owlFails
  | owlTakeover
  | planesSet (perms : List PlanePerm)
deriving DecidableEq, Repr

/-! ## The machine -/

/-- The machine. now is global time (R7); cur is the strand whose instruction is being executed; agenda lists the acts of units
and of the outside that are due, in order of listing (log 2); fresh feeds the free values and ticket names fills and orders
accesses (log 6). word is the instruction word last fetched, which a fault packet carries (R470). mem holds physical bytes, tags the tag plane by TCM word (physical address / 8), fe the full/empty plane by
the same number, poison the poisoned 8-byte words. -/
structure State where
  now : Nat
  cur : Fin 16
  agenda : List (Nat × Act)
  fresh : Nat
  ticket : Nat
  word : BitVec 32
  core : Core
  clu : Cluster
  die : Die
  mem : List Host.Cell
  tags : List Host.Cell
  fe : List Host.Cell
  poison : List Nat
  fab : Fabric
  hbm : List Pc
  hub : Hub
deriving DecidableEq, Repr

def Core.reset : Core where
  gcore := 0
  cell := none
  strands := Vector.replicate 16 Strand.absent
  queues := Vector.replicate 8 []
  agelim := 256
  accmap := 0
  ptroot := 0
  fqcfg := 0
  dsel := 0
  table := Vector.replicate 128 CEntry.free
  acc := Vector.replicate 8 Acc.zero
  tile := ⟨[], [], none, none⟩
  copy := CopyEngine.idle
  memIntake := []
  xchgIntake := []
  cache := []
  fetches := []
  wbq := []
  utlb := []
  waiters := []
  remoteQ := []
  moved := []
  bars := Vector.replicate 16 Barrier.zero
  send := Vector.replicate 32 SendEp.idle
  recv := Vector.replicate 64 RecvEp.idle
  reqs := []
  refWaits := []
  spill := none
  lastFn := none
  pri := 0
  quiet := 0
  stirred := false

def Cluster.reset : Cluster where
  loops := Vector.replicate 8 ⟨0, 0, 0, 0⟩
  loopReqs := []
  bars := Vector.replicate 16 Barrier.zero
  tlb := []
  walks := []
  atomLines := []
  atomReqs := []
  atomNext := 0
  bankNext := Vector.replicate 64 0
  bankReqs := []
  bankDone := []
  path := []
  seqs := []
  flagsPast := []

def Die.reset : Die := ⟨0, [], [], [], []⟩

def Fabric.reset : Fabric where
  tables := []
  commits := []
  links := []
  flits := []
  aligns := []
  ports := Vector.replicate 16 Port.zero
  perms := Vector.replicate 16 []
  circuits := []
  pcRecv := []
  pcSend := []
  pending := []
  lastFlit := 0
  readbacks := []
  holds := []

def Hub.reset : Hub where
  regs := []
  msix := []
  meas := Vector.replicate 8 0
  owlActive := true
  owlStandby := true
  heartbeat := 0
  rows := []
  formed := []
  cecnts := []
  rounds := []
  pass := []
  among := []
  deps := []
  jobs := []
  gangs := []
  parts := Vector.replicate 16 PartRun.idle
  dens := []
  ckpts := []
  ckptDone := []
  restoring := []
  rolling := []
  held := []
  resetting := []
  nonce := 0
  armed := none
  withheld := []
  kickAt := 0
  fwDie := none
  lanes := []
  replayAt := []
  windows := []
  owlUp := true
  enq := []
  coreUser := []
  clusterUser := []
  armedHalves := []
  waits := []

/-- The ends of the trainings that begin at a time, from a count of the free values taken (R554). -/
def trainings (now fresh : Nat) : List (Nat × Act) :=
  (List.finRange 512).map fun p => (now + 128 + Config.freeDelay (fresh + p.val) % 0xFFF80, .pseudoChannelTrainingEnd p)

/-- The machine right after reset (R273, R118): storage clear, every strand absent, time zero, and the watchdog counting its PERIOD of
0x1000 wheels (R546); every pseudo-channel is in training, which ends at a free time within 4096 wheels (R554) (logs 1, 2, 4, 7, 13). -/
def State.reset : State where
  now := 0
  cur := 0
  agenda := (0x100000, .pwdogExpiry) :: trainings 0 0
  fresh := 512
  ticket := 1
  word := 0
  core := Core.reset
  clu := Cluster.reset
  die := Die.reset
  mem := []
  tags := []
  fe := []
  poison := []
  fab := Fabric.reset
  hbm := []
  hub := Hub.reset

end Sys2Proof.Machine
end

