-- ==== Sys2Proof/Machine/Memory.lean ====
section
/-! DEFINITION. Memory: sparse lists of bytes in one canonical form, little-endian accesses (R5), the physical map (R168, R169),
the TCM planes and views (R172) and poison marks (R475, R476). -/

namespace Sys2Proof.Machine

/-! ## Sparse bytes: addresses rising, no entry equal to what an unlisted address reads as -/

/-- The byte at an address; dflt where nothing is listed. -/
def cellGet (dflt : BitVec 8) : List Host.Cell → Nat → BitVec 8
  | [], _ => dflt
  | c :: cs, a => if c.1 = a then c.2 else if a < c.1 then dflt else cellGet dflt cs a

/-- Writes a byte, keeping the canonical form. -/
def cellSet (dflt : BitVec 8) : List Host.Cell → Nat → BitVec 8 → List Host.Cell
  | [], a, v => if v = dflt then [] else [(a, v)]
  | c :: cs, a, v =>
    if c.1 = a then (if v = dflt then cs else (a, v) :: cs)
    else if a < c.1 then (if v = dflt then c :: cs else (a, v) :: c :: cs)
    else c :: cellSet dflt cs a v

/-- Every listed address above lo, rising, and no default byte listed. -/
def cellsAbove (dflt : BitVec 8) : Nat → List Host.Cell → Bool
  | _, [] => true
  | lo, c :: cs => decide (lo ≤ c.1) && (c.2 != dflt) && cellsAbove dflt (c.1 + 1) cs

/-- The canonical form. -/
def cellsWf (dflt : BitVec 8) (m : List Host.Cell) : Bool := cellsAbove dflt 0 m

/-- Forgets the bytes of [lo, hi). -/
def cellsClear (m : List Host.Cell) (lo hi : Nat) : List Host.Cell :=
  m.filter fun c => c.1 < lo || hi ≤ c.1

/-- The bytes of [lo, hi). -/
def cellsIn (m : List Host.Cell) (lo hi : Nat) : List Host.Cell :=
  m.filter fun c => lo ≤ c.1 && c.1 < hi

/-- Writes each listed byte. -/
def cellsPut (dflt : BitVec 8) (m : List Host.Cell) (bs : List Host.Cell) : List Host.Cell :=
  bs.foldl (fun m c => cellSet dflt m c.1 c.2) m

/-- What an unlisted byte of mem reads as (log 4), of the tag plane (R273) and of the full/empty plane (R273). -/
abbrev memDflt : BitVec 8 := 0
abbrev tagDflt : BitVec 8 := 0x7F
abbrev feDflt : BitVec 8 := 1

/-- The canonical form of the three planes. -/
def Memory.wf (s : State) : Bool :=
  cellsWf memDflt s.mem && cellsWf tagDflt s.tags && cellsWf feDflt s.fe

/-! ## The physical map -/

/-- What serves an address (R168); TCM regions by the view R172 gives the offset. -/
inductive Home where
  | hbm
  | sram (die : Nat) (off : Nat)
  | spad (cluster : Nat) (off : Nat)
  | tcm (core : Nat) (off : Nat)
  | tagView (core : Nat) (off : Nat)
  | feView (core : Nat) (off : Nat)
  | debug (core : Nat) (off : Nat)
  | hub
  | host
  | hole
deriving DecidableEq, Repr

/-- The home of an offset in a core's 256 KiB region (R172). -/
def tcmHome (core off : Nat) : Home :=
  if off < 0x20000 then .tcm core off
  else if off < 0x24000 then .tagView core (off - 0x20000)
  else if off < 0x24800 then .feView core (off - 0x24000)
  else if off < 0x30000 then .hole
  else .debug core (off - 0x30000)

/-- The home of a physical address; hbmSize is the mode-device's (R168, R169, R279). -/
def homeOf (hbmSize pa : Nat) : Home :=
  if pa < Config.sramBase then (if pa < hbmSize then .hbm else .hole)
  else if pa < Config.spadBase then
    let x := pa - Config.sramBase
    if x / Config.sramStride < 8 && x % Config.sramStride < Config.sramBytes then
      .sram (x / Config.sramStride) (x % Config.sramStride) else .hole
  else if pa < Config.tcmBase then
    let x := pa - Config.spadBase
    if x / Config.spadStride < Config.clusterCount && x % Config.spadStride < Config.spadBytes then
      .spad (x / Config.spadStride) (x % Config.spadStride) else .hole
  else if pa < Config.hubBase then
    let x := pa - Config.tcmBase
    if x / Config.tcmStride < Config.coreCount then tcmHome (x / Config.tcmStride) (x % Config.tcmStride) else .hole
  else if pa < Config.hostBase then (if pa - Config.hubBase < Config.hubBytes then .hub else .hole)
  else if pa < 2 ^ 43 then .host
  else .hole

/-- The physical address of a core's TCM byte. -/
def tcmPa (core off : Nat) : Nat := Config.tcmBase + core * Config.tcmStride + off

/-- The physical address of a cluster's scratchpad byte. -/
def spadPa (cluster off : Nat) : Nat := Config.spadBase + cluster * Config.spadStride + off

/-- The word number of a TCM byte, under which the planes keep its tag byte and full/empty bit. -/
def wordNo (pa : Nat) : Nat := pa / 8

/-- Bit i of byte b of the full/empty view: words 8b + i. -/
def feByte (fe : List Host.Cell) (w0 : Nat) : Nat → BitVec 8
  | 0 => 0
  | n + 1 => feByte fe w0 n ||| (if (cellGet feDflt fe (w0 + n)) = 0 then 0 else (1#8 <<< n))

/-- One byte as a reader of physical memory sees it, views included (R172). -/
def byteAt (s : State) (pa : Nat) : BitVec 8 :=
  match homeOf Config.hbmBytes pa with
  | .tagView core off => cellGet tagDflt s.tags (wordNo (tcmPa core 0) + off)
  | .feView core off => feByte s.fe (wordNo (tcmPa core 0) + 8 * off) 8
  | _ => cellGet memDflt s.mem pa

/-- n bytes from an address, little-endian (R5). -/
def bytesAt (s : State) (pa : Nat) : Nat → Nat
  | 0 => 0
  | n + 1 => (byteAt s pa).toNat + 256 * bytesAt s (pa + 1) n

/-- The 8-byte word at an address. -/
def wordAt (s : State) (pa : Nat) : Word := word (bytesAt s pa 8)

/-- The tag byte of a TCM word and its full/empty bit. -/
def tagByteAt (s : State) (pa : Nat) : BitVec 8 := cellGet tagDflt s.tags (wordNo pa)
def feAt (s : State) (pa : Nat) : Bool := cellGet feDflt s.fe (wordNo pa) != 0

def setTagByte (s : State) (pa : Nat) (b : BitVec 8) : State :=
  { s with tags := cellSet tagDflt s.tags (wordNo pa) b }
def setFe (s : State) (pa : Nat) (full : Bool) : State :=
  { s with fe := cellSet feDflt s.fe (wordNo pa) (if full then 1 else 0) }

/-- Byte i of a word. -/
def wordByte (w : Word) (i : Nat) : BitVec 8 := w.extractLsb' (8 * i) 8

/-- Sets the full/empty bits of words w0 + i from a byte's bits. -/
def setFeBits (fe : List Host.Cell) (w0 : Nat) (b : BitVec 8) : Nat → List Host.Cell
  | 0 => fe
  | n + 1 => cellSet feDflt (setFeBits fe w0 b n) (w0 + n) (if b.getLsbD n then 1 else 0)

/-- Writes one byte of physical memory, views included (R172). -/
def setByte (s : State) (pa : Nat) (b : BitVec 8) : State :=
  match homeOf Config.hbmBytes pa with
  | .tagView core off => { s with tags := cellSet tagDflt s.tags (wordNo (tcmPa core 0) + off) b }
  | .feView core off => { s with fe := setFeBits s.fe (wordNo (tcmPa core 0) + 8 * off) b 8 }
  | _ => { s with mem := cellSet memDflt s.mem pa b }

/-- Writes the enabled bytes of a word. -/
def setBytes (s : State) (pa : Nat) (w : Word) (en : BitVec 8) : Nat → State
  | 0 => s
  | n + 1 =>
    let s := setBytes s pa w en n
    if en.getLsbD n then setByte s (pa + n) (wordByte w n) else s

/-! ## Poison (R475, R476) -/

/-- Is the address in HBM? -/
def isHbm (pa : Nat) : Bool := decide (pa < Config.sramBase)

/-- Whether the word is poisoned; in HBM the whole 64-byte granule is marked word by word. -/
def poisoned (s : State) (pa : Nat) : Bool := s.poison.contains (wordNo pa)

/-- An 8-byte write clears the poison of an SRAM word; a narrower one does not. An HBM granule is cleared only by a 64-byte write. -/
def clearPoison (s : State) (pa : Nat) (en : BitVec 8) : State :=
  if isHbm pa then s
  else if en = 0xFF then { s with poison := s.poison.filter (· != wordNo pa) } else s

/-- Marks a word of SRAM, or the granule of HBM, as poisoned. -/
def markPoison (s : State) (pa : Nat) : State :=
  let ws := if isHbm pa then (List.range 8).map (8 * (pa / 64) + ·) else [wordNo pa]
  { s with poison := s.poison ++ ws.filter (fun w => !s.poison.contains w) }

/-- Clears the poison of a whole granule. -/
def clearGranule (s : State) (pa : Nat) : State :=
  { s with poison := s.poison.filter (fun w => w / 8 != pa / 64) }

/-- Does an address lie in some core's TCM data? -/
def isTcmData (pa : Nat) : Bool :=
  match homeOf Config.hbmBytes pa with
  | .tcm _ _ => true
  | _ => false

/-- A plain write of one word performed at its home: bytes, then the tag byte of a TCM word (R163), then poison. -/
def performStore (s : State) (x : WordStore) : State :=
  let s := setBytes s x.pa x.data x.en 8
  let s := if isTcmData x.pa && x.en != 0 then setTagByte s x.pa x.tagb else s
  clearPoison s x.pa x.en

/-- A whole 8-byte write. -/
def putWord (s : State) (pa : Nat) (w : Word) : State := performStore s ⟨pa, w, 0xFF, 0x7F⟩

/-- Writes consecutive words. -/
def putWords (s : State) (pa : Nat) : List Word → State
  | [] => s
  | w :: ws => putWords (putWord s pa w) (pa + 8) ws

/-- A deposit of one word: data, tag byte 0x7F, full (R190, R272). -/
def depositWord (s : State) (pa : Nat) (w : Word) (bad : Bool) : State :=
  let s := setFe (putWord s pa w) pa true
  if bad then markPoison s pa else s

/-- Deposits consecutive words. -/
def depositWords (s : State) (pa : Nat) (bad : Bool) : List Word → State
  | [] => s
  | w :: ws => depositWords (depositWord s pa w bad) (pa + 8) bad ws

/-- n consecutive words. -/
def wordsAt (s : State) (pa : Nat) : Nat → List Word
  | 0 => []
  | n + 1 => wordAt s pa :: wordsAt s (pa + 8) n

/-- The little-endian words of a flit (R5). -/
def flitWords (d : BitVec 512) : List Word := (List.range 8).map fun i => d.extractLsb' (64 * i) 64

/-- A flit's data from eight words. -/
def flitOf (ws : List Word) : BitVec 512 :=
  ws.foldr (fun w d => (d <<< 64) ||| w.zeroExtend 512) 0

end Sys2Proof.Machine
end

