-- ==== Sys2Proof/Machine/HubRegs.lean ====
section
/-! DEFINITION. The hub registers: their one home by address, what each reads as at reset, which bits a write reaches, and the
records and notices the hub writes (R277, R478, R479, R285). Offsets are from the hub's base (R168). -/

namespace Sys2Proof.Machine

/-! ## Places -/

def rSyscfg : Nat := 0x0
def rLcommit : Nat := 0x10
def rLstage : Nat := 0x18
def rPwrcap : Nat := 0x20
def rBoot : Nat := 0x28
def rTemp : Nat := 0x30
def rPwdog : Nat := 0x40
def rLimstat : Nat := 0x48
def rPctl : Nat := 0x50
def rMnet : Nat := 0x60
def rGtime : Nat := 0x100000
def rPort (p : Nat) : Nat := 0x100100 + 8 * p
/-- Entry c of the budget table of pseudo-channel g (R220); its commit word is at +0x80 and SRIDLE at +0x88 (R226). -/
def rBudget (g c : Nat) : Nat := 0x200000 + 0x100 * g + 8 * c
def rBudgetCommit (g : Nat) : Nat := 0x200000 + 0x100 * g + 0x80
def rSridle (g : Nat) : Nat := 0x200000 + 0x100 * g + 0x88
/-- Word i of function f's entry (R249). -/
def rFunc (f i : Nat) : Nat := 0x300000 + 0x40 * f + 8 * i
def rS2root (f : Nat) : Nat := 0x310000 + 0x10 * f
def rS2inv (f : Nat) : Nat := 0x310000 + 0x10 * f + 8
def rFstat (f : Nat) : Nat := 0x320000 + 8 * f
def rCkpt (f i : Nat) : Nat := 0x330000 + 0x40 * f + 8 * i
def rFlr (f : Nat) : Nat := 0x340000 + 8 * f
/-- Word i of queue q's descriptor (R250). -/
def rQueue (q i : Nat) : Nat := 0x400000 + 0x80 * q + 8 * i
/-- Word i of partition p's live half, and of its staged half (R281). -/
def rPart (p i : Nat) : Nat := 0x500000 + 0x100 * p + 8 * i
def rPartStaged (p i : Nat) : Nat := 0x500080 + 0x100 * p + 8 * i
def rJay (p i : Nat) : Nat := 0x600000 + 0x40 * p + 8 * i
def rPair (g i : Nat) : Nat := 0x700000 + 0x10 * g + 8 * i
def rErr (i : Nat) : Nat := 0x800000 + 8 * i
def rGkill : Nat := 0x900000
def rCtx (p i : Nat) : Nat := 0x900100 + 0x10 * p + 8 * i
def rLane (c : Nat) : Nat := 0xA00000 + 8 * c
def rReforg (g : Nat) : Nat := 0xA00800 + 8 * g

/-! ## Reset values and field maps -/

/-- What a register reads as when nothing has written it (R220, R524, R546, R178; the rest zero, log 13). -/
def hubInit (a : Nat) : Word :=
  if a = rPwdog then 0x1000
  else if a = rMnet then 0x0000150808080204
  else if 0x200000 ≤ a && a < 0x220000 && a % 0x100 = 0x60 then 0x0101
  else if 0x200000 ≤ a && a < 0x220000 && a % 0x100 = 0x68 then 0x0202
  else if rLane 0 ≤ a && a < rLane 256 then 0xFFFF0000
  else 0

/-- Bits hi..lo. -/
def bitsMask (hi lo : Nat) : Word := word (2 ^ (hi + 1) - 2 ^ lo)

/-- The bits a write of the physical function stores (fields marked RW). -/
def hubRw (a : Nat) : Word :=
  if a = rSyscfg then bitsMask 63 54 ||| 3
  else if a = rLcommit then bitsMask 31 0
  else if a = rPwrcap then bitsMask 11 0
  else if a = rPwdog then bitsMask 15 0
  else if a = rPctl then 1
  else if a = rMnet then bitsMask 47 0
  else if 0x200000 ≤ a && a < 0x220000 then
    (let x := a % 0x100
     if x < 0x80 then bitsMask 14 8 else if x = 0x80 then bitsMask 63 63 ||| bitsMask 55 0
     else if x = 0x88 then bitsMask 7 0 else 0)
  else if rFunc 0 0 ≤ a && a < rFunc 17 0 then
    (let x := a % 0x40
     if x = 0 then bitsMask 63 48 ||| bitsMask 31 0
     else if x = 8 then bitsMask 31 0
     else if x = 16 then bitsMask 63 48 ||| bitsMask 42 0
     else if x = 24 || x = 32 then bitsMask 63 0 else 0)
  else if rS2root 0 ≤ a && a < rS2root 17 then
    (if a % 16 = 0 then bitsMask 63 48 ||| bitsMask 42 13 else 0)
  else if rCkpt 0 0 ≤ a && a < rCkpt 17 0 then
    (let x := a % 0x40
     if x = 0 || x = 8 then bitsMask 42 13 else 0)
  else if rQueue 0 0 ≤ a && a < rQueue 4096 0 then
    (let x := a % 0x80
     if x = 0 then bitsMask 63 0
     else if x = 8 then bitsMask 31 0
     else if x = 16 then bitsMask 63 48
     else if x = 24 then bitsMask 42 0 else 0)
  else if rPart 0 0 ≤ a && a < rPart 16 0 then 0
  else if rJay 0 0 ≤ a && a < rJay 16 0 then
    (let x := a % 0x40
     if x = 0 || x = 8 then bitsMask 63 0
     else if x = 24 then bitsMask 62 62 ||| bitsMask 61 0
     else if x = 32 then bitsMask 55 0 else 0)
  else if rPair 0 0 ≤ a && a < rPair 768 0 then 0x8F8F8F8F8F8F8F8F
  else if a = rErr 0 || a = rErr 1 then bitsMask 63 0
  else if a = rErr 3 then bitsMask 62 0
  else 0

/-- The bits a write of 1 clears. -/
def hubW1c (a : Nat) : Word :=
  if rFstat 0 ≤ a && a < rFstat 17 then bitsMask 5 0
  else if rCtx 0 0 ≤ a && a < rCtx 16 0 && a % 16 = 0 then bitsMask 62 62
  else 0

/-- The bits Proah's writes store: the staged halves (R281). -/
def hubProahRw (a : Nat) : Word :=
  if rPart 0 0 ≤ a && a < rPart 16 0 && 0x80 ≤ a % 0x100 then
    (let x := a % 0x80
     if x = 0 then bitsMask 63 59 else if 8 ≤ x && x ≤ 96 then bitsMask 63 0 else 0)
  else 0

/-! ## Reading and writing -/

def regLookup (rs : List (Nat × Word)) (a : Nat) : Option Word := (rs.find? (·.1 = a)).map (·.2)

/-- Before the first greater address. -/
def regPlace (a : Nat) (v : Word) : List (Nat × Word) → List (Nat × Word)
  | [] => [(a, v)]
  | c :: cs => if a < c.1 then (a, v) :: c :: cs else c :: regPlace a v cs

/-- Keeps the list rising and free of reset values. -/
def regInsert (rs : List (Nat × Word)) (a : Nat) (v : Word) : List (Nat × Word) :=
  let rest := rs.filter (·.1 != a)
  if v = hubInit a then rest else regPlace a v rest

/-- The stored value of a register. -/
def hubGet (s : State) (a : Nat) : Word := (regLookup s.hub.regs a).getD (hubInit a)

/-- A write by the hardware itself. -/
def hubPut (s : State) (a : Nat) (v : Word) : State :=
  { s with hub := { s.hub with regs := regInsert s.hub.regs a v } }

/-- A port's status word (R50). -/
def portWord (p : Port) : Word :=
  (p.measd.zeroExtend 64 <<< 48) ||| (p.k.zeroExtend 64 <<< 40) ||| (p.offset.zeroExtend 64 <<< 16) |||
    p.lock.zeroExtend 64

/-- What software reads: GTIME (R46) and port status (R50) are computed. -/
def hubRead (s : State) (a : Nat) : Word :=
  if a = rGtime then word s.now
  else if h : rPort 0 ≤ a ∧ a < rPort 16 ∧ a % 8 = 0 then
    portWord (s.fab.ports[(a - rPort 0) / 8]'(by simp [rPort] at h ⊢; omega))
  else hubGet s a

/-- A write of the physical function under the field map (R8): RW bits stored, W1C bits cleared. Reserved bits written other than 0 are discarded
without a record, a fate the manual gives for no hub register (R9; DESIGN CHOICE, log 56). -/
def hubWrite (s : State) (a : Nat) (v : Word) : State :=
  let old := hubGet s a
  hubPut s a ((old &&& ~~~(hubRw a) &&& ~~~(hubW1c a &&& v)) ||| (v &&& hubRw a))

/-- A field of a word, as a number. -/
def fld (w : Word) (hi lo : Nat) : Nat := (w.toNat / 2 ^ lo) % 2 ^ (hi + 1 - lo)

/-- Writes a field. -/
def setFld (w : Word) (hi lo : Nat) (v : Nat) : Word :=
  (w &&& ~~~(bitsMask hi lo)) ||| (word (v <<< lo) &&& bitsMask hi lo)

/-- SYSCFG.MODE and the mode-device's HBM size (R278, R279). -/
def sysMode (s : State) : Nat := fld (hubGet s rSyscfg) 1 0
def hbmSize (s : State) : Nat :=
  match sysMode s with
  | 1 => Config.hbmBytes / 2
  | 2 => Config.hbmBytes / 8
  | _ => Config.hbmBytes

/-- The home of a physical address in the present mode; the host's region is used where the host has registered a window (R168, R169). -/
def home (s : State) (pa : Nat) : Home :=
  match homeOf (hbmSize s) pa with
  | .host => if s.hub.windows.any fun w => decide (w.2.1 ≤ pa) && decide (pa < w.2.1 + w.2.2) then .host else .hole
  | h => h

/-- The package number (R124). -/
def pkgNo (s : State) : Nat := fld (hubGet s rSyscfg) 63 58

/-! ## Notices -/

/-- Raises an MSI-X vector of a function (R277). -/
def raiseMsix (s : State) (f vec : Nat) : State :=
  { s with hub := { s.hub with msix := s.hub.msix ++ [(f, vec)] } }

/-- Sets a bit of FSTAT; a rising bit raises vector 0 (R479). -/
def setFstat (s : State) (f bit : Nat) : State :=
  let v := hubGet s (rFstat f)
  if v.getLsbD bit then s
  else raiseMsix (hubPut s (rFstat f) (v ||| word (2 ^ bit))) f 0

def fstatEsc : Nat := 0
def fstatKilled : Nat := 1
def fstatUncorr : Nat := 2
def fstatVfwrite : Nat := 3
def fstatLimit : Nat := 4
def fstatFqovf : Nat := 5

/-- Appends 32-byte records to the ring described at a (BASE, SIZE, WR, RD in 32-byte units, log 14); where room lacks, sets bit
63 of word 3 and writes nothing (R285, R478). The answer says whether it was written. Each line of HBM written takes a unit (R218), in class 15:
of the sixteen classes R219 names none for the hub's records (DESIGN CHOICE, log 65). -/
def ringAppend (s : State) (a : Nat) (ws : List Word) : State × Bool :=
  let base := fld (hubGet s a) 42 0
  let size := (hubGet s (a + 8)).toNat
  let wr := (hubGet s (a + 16)).toNat
  let rd := fld (hubGet s (a + 24)) 61 0
  let n := (ws.length + 3) / 4
  if wr - rd + n ≤ size then
    let s := (List.range n).foldl
      (fun s i => putWords s (base + 32 * ((wr + i) % size)) ((ws ++ [0, 0, 0]).drop (4 * i) |>.take 4)) s
    let lines := ((((List.range n).map fun i => base + 32 * ((wr + i) % size)).filter isHbm).map (· / 64)).eraseDups
    let due := s.now + 1 + Config.freeDelay s.fresh
    let s := { s with agenda := s.agenda ++ lines.map fun l => (due, .hbmRequest 15 Config.coreCount (64 * l) true), fresh := s.fresh + 1 }
    (hubPut s (a + 16) (word (wr + n)), true)
  else (hubPut s (a + 24) (hubGet s (a + 24) ||| bitsMask 63 63), false)

/-- A hub error record (R478). -/
def errRecord (s : State) (cls cause unit detail : Nat) (w2 : Word) (fn part : Nat) (more : List Word) : State :=
  (ringAppend s (rErr 0)
    ([word s.now, word (cls <<< 56 ||| cause <<< 48 ||| unit <<< 32 ||| detail), w2, word (fn <<< 48 ||| part <<< 32)]
      ++ more)).1

/-- A CLASS 7 record with its notice (R499). -/
def fabricRecord (s : State) (code detail : Nat) (w2 : Word) (fn : Nat) : State :=
  raiseMsix (errRecord s 7 0 code detail w2 fn 0 []) 16 0

/-- A CLASS 8 record with its notice (R531). -/
def recoveryRecord (s : State) (code detail : Nat) (w2 : Word) (fn part : Nat) : State :=
  raiseMsix (errRecord s 8 0 code detail w2 fn part []) 16 0

/-- A discarded action of Proah: LIMSTAT counts it, saturating, and it is recorded with the physical address it named, 0 for a slot-table entry,
which has none (R287, R478, R547, R479). -/
def limitDiscard (s : State) (hi lo pa : Nat) : State :=
  let v := hubGet s rLimstat
  let s := hubPut s rLimstat (setFld v hi lo (min 255 (fld v hi lo + 1)))
  setFstat (errRecord s 5 0 0 0 (word pa) 16 0 []) 16 fstatLimit

/-- A valid partition has the cluster in its live half (R281). -/
def partHolds (s : State) (p g : Nat) : Bool := (hubGet s (rPart p 0)).getLsbD 63 && (hubGet s (rPart p (1 + g / 64))).getLsbD (g % 64)

/-- The cluster whose cores' TCM or whose scratchpad an address lies in. -/
def clusterAt (pa : Nat) : Option Nat :=
  match homeOf Config.hbmBytes pa with
  | .tcm c _ | .tagView c _ | .feView c _ | .debug c _ => some (c / 16)
  | .spad c _ => some c
  | _ => none

/-- CECNT one further: CEFLIT for a flit, CEMEM for a word or granule, each saturating (R477). -/
def bumpCe (w : Word) (flits : Bool) : Word :=
  if flits then (if fld w 63 32 < 2 ^ 32 - 1 then w + 0x100000000 else w)
  else if fld w 31 0 < 2 ^ 32 - 1 then w + 1 else w

/-- A corrected error counts on its die (R477): compute dies 0-7, memory dies 8-11; the modelled core reads its own die's. -/
def countCe (s : State) (die : Nat) (flits : Bool) : State :=
  if die = s.core.gcore / 1536 then { s with die := { s.die with cecnt := bumpCe s.die.cecnt flits } }
  else if 12 ≤ die then s
  else { s with hub := { s.hub with
    cecnts := s.hub.cecnts.filter (·.1 != die) ++ [(die, bumpCe (((s.hub.cecnts.find? (·.1 = die)).map (·.2)).getD 0) flits)] } }

/-- The die a memory on a compute die stands on. -/
def memDie (pa : Nat) : Option Nat :=
  match homeOf Config.hbmBytes pa with
  | .sram d _ => some d
  | _ => (clusterAt pa).map (· / 96)

/-- An uncorrectable error (R478, R479): the record, and UNCORR of the functions that may run on the memory's partition; a TCM and a scratchpad
belong to their cluster's partition, all other memory to none, which sets UNCORR of the physical function (DESIGN CHOICE, log 62). -/
def uncorrRecord (s : State) (pa : Nat) : State :=
  match (clusterAt pa).bind fun g => (List.range 16).find? fun p => partHolds s p g with
  | some p =>
    let fs := (List.range 17).filter fun f => (hubGet s (rFunc f 0)).getLsbD (48 + p)
    let t := errRecord s 2 0 0 0 (word pa) (fs.headD 16) p []
    fs.foldl (fun t f => setFstat t f fstatUncorr) t
  | none => setFstat (errRecord s 2 0 0 0 (word pa) 16 0 []) 16 fstatUncorr

/-- REPLAY of a partition: the jay supplies its inputs, and the live ones are disconnected (R286). -/
def replays (s : State) (p : Nat) : Bool := (hubGet s (rJay p 3)).getLsbD 62

/-- An input of a partition is logged, unless it is a replay's (R285): kind, length, target and payload; vector 1 when lost. -/
def jayLog (s : State) (p kind len : Nat) (target : Word) (payload : List Word) : State :=
  if replays s p then s else
  let r := ringAppend s (rJay p 0) ([word s.now, word (kind <<< 56 ||| len), target] ++ payload)
  if r.2 then r.1 else raiseMsix r.1 16 1

end Sys2Proof.Machine
end

