-- ==== Sys2Proof/Machine/Ops.lean ====
section
/-! DEFINITION. The named operations over strands, registers and the agenda: reading and writing registers (R92-R100), fills
(R100, R105), handles (R110-R112), freezing and fault packets (R464, R470), taking a local trap and returning from one (R268,
R333), and how an instruction that cannot complete leaves the machine (R480). -/

namespace Sys2Proof.Machine

/-- Applies a function to each entry. -/
def vmap {α β : Type} {n : Nat} (f : α → β) (v : Vector α n) : Vector β n := Vector.ofFn fun i => f v[i]

/-! ## Strands -/

def State.strand (s : State) (k : Fin 16) : Strand := s.core.strands[k]

def State.setStrand (s : State) (k : Fin 16) (x : Strand) : State :=
  { s with core := { s.core with strands := s.core.strands.set k x } }

def State.modStrand (s : State) (k : Fin 16) (f : Strand → Strand) : State := s.setStrand k (f (s.strand k))

/-- The strand that issues. -/
abbrev State.st (s : State) : Strand := s.strand s.cur

/-- Changes the issuing strand. -/
abbrev State.mod (s : State) (f : Strand → Strand) : State := s.modStrand s.cur f

def Strand.setRun (x : Strand) (r : RunState) : Strand := { x with run := r }

def State.setRun (s : State) (k : Fin 16) (r : RunState) : State := s.modStrand k (·.setRun r)

/-- Changes the core. -/
abbrev State.withCore (s : State) (f : Core → Core) : State := { s with core := f s.core }
abbrev State.withClu (s : State) (f : Cluster → Cluster) : State := { s with clu := f s.clu }
abbrev State.withHub (s : State) (f : Hub → Hub) : State := { s with hub := f s.hub }
abbrev State.withFab (s : State) (f : Fabric → Fabric) : State := { s with fab := f s.fab }

/-- K of MODE: kernel mode (R119). -/
def Strand.kernel (x : Strand) : Bool := x.mode.getLsbD 0
def Strand.ie (x : Strand) : Bool := x.mode.getLsbD 2

/-- The next instruction in sequence; a PC has 43 bits (log 8). -/
def Strand.next (x : Strand) : Strand := { x with pc := x.pc + 4, walked := [] }

/-- The issuing strand's instruction completes and the PC advances (R290). -/
def retire (s : State) : State := s.mod Strand.next

/-- The PC of an address held in a word: bits [42:2], with [1:0] zero (R290, R118). -/
def pcOf (w : Word) : Addr := (w.extractLsb' 0 43) &&& ~~~(3 : Addr)

/-! ## The agenda, tickets and free values -/

/-- Puts an act on the agenda. -/
def State.at (s : State) (t : Nat) (a : Act) : State := { s with agenda := s.agenda ++ [(t, a)] }

/-- A time the manual does not fix, at least one cycle on and, where a bound is given, within it (log 3). -/
def State.later (s : State) (bound : Option Nat) (a : Act) : State :=
  let d := Config.freeDelay s.fresh
  let d := match bound with | some b => d % b | none => d
  { s with agenda := s.agenda ++ [(s.now + 1 + d, a)], fresh := s.fresh + 1 }

/-- Takes a new ticket. -/
def State.newTicket (s : State) : Nat × State := (s.ticket, { s with ticket := s.ticket + 1 })

/-- The first cycle of the next wheel of global time (R7). -/
def State.nextWheel (s : State) : Nat := (s.now / 256 + 1) * 256

/-- The first cycle of the next wheel of the die, whose time lags by 128 cycles (R32). -/
def State.nextDieWheel (s : State) : Nat := (s.now + 128) / 256 * 256 + 128

/-- The slot and wheel of the die at a global time. -/
def dieSlot (t : Nat) : Fin 256 := ⟨(t + 128) % 256, Nat.mod_lt _ (by decide)⟩
/-- Bits [63:8] of die time, global time minus 128 (R32). -/
def dieWheel (t : Nat) : Nat := (t + (2 ^ 64 - 128)) / 256 % 2 ^ 56

/-- Wheels of the die begun by a global time, by which durations are counted. -/
def dieTurn (t : Nat) : Nat := (t + 128) / 256

/-- Puts an act on the agenda unless it already stands there for the same cycle. -/
def State.atOnce (s : State) (t : Nat) (a : Act) : State :=
  if s.agenda.any (fun e => decide (e.1 = t) && decide (e.2 = a)) then s else { s with agenda := s.agenda ++ [(t, a)] }

/-- Takes acts off the agenda. -/
def dropActs (s : State) (p : Act → Bool) : State := { s with agenda := s.agenda.filter fun e => !p e.2 }

/-- The present wheel of global time. -/
def State.wheel (s : State) : Nat := s.now / 256

/-- A unit of a compute die (R63): die, cluster of the die, unit. -/
def dieAgent (die cluster unit : Nat) : AgentId := BitVec.ofNat 19 (die * 2 ^ 14 + cluster * 2 ^ 7 + unit)

/-! ## Why an instruction did not complete -/

/-- The ways an instruction ends before it takes effect. -/
inductive Stop where
  /-- A wait condition (R78). -/
  | park (w : Wait)
  /-- A structural stall (R73). -/
  | stall (w : Stall)
  /-- An empty trap-form operand (R481), by operand code. -/
  | empty (code : Nat)
  /-- A precise fault (R464): cause, EXTRA and VADDR. -/
  | freeze (cause : BitVec 8) (extra vaddr : Word)
  /-- A TLB miss on virtual [42:13] (R195). -/
  | miss (vpn : Nat)
  /-- The instruction makes an access and first reads filled handles: their acquire comes first (R112, R209). -/
  | handles (cs : List Opd)
deriving DecidableEq, Repr

abbrev Res (α : Type) := Except Stop α

/-- Cause codes (R461). -/
def cILLINS : BitVec 8 := 0x01
def cPRIV : BitVec 8 := 0x02
def cALIGN : BitVec 8 := 0x03
def cOPERAND : BitVec 8 := 0x04
def cXLATE : BitVec 8 := 0x05
def cPERM : BitVec 8 := 0x06
def cHOLE : BitVec 8 := 0x07
def cPOISON : BitVec 8 := 0x08
def cFETCH : BitVec 8 := 0x09
def cWINDOW : BitVec 8 := 0x0A
def cTILE : BitVec 8 := 0x0B
def cENDPOINT : BitVec 8 := 0x0C
def cATOMIC : BitVec 8 := 0x0D
def cGANGSTALL : BitVec 8 := 0x10
def cOVERRUN : BitVec 8 := 0x11
def cMISMATCH : BitVec 8 := 0x12
def cMSGLONG : BitVec 8 := 0x13

def freezeWith {α : Type} (cause : BitVec 8) (extra : Word) : Res α := .error (.freeze cause extra 0)

/-- Passes if the condition holds, else freezes. -/
def check (c : Bool) (cause : BitVec 8) (extra : Nat) : Res Unit :=
  if c then .ok () else .error (.freeze cause (word extra) 0)

/-! ## Registers by operand code (R92, R94) -/

/-- WINSTATE.FRM, RES and SPILLED (R125). -/
def Strand.frm (x : Strand) : Nat := fld x.winstate 3 0
def Strand.res (x : Strand) : Nat := fld x.winstate 6 4
def Strand.spilledCount (x : Strand) : Nat := fld x.winstate 31 16

/-- The ring entry of wn for n from 8 to 31 (R94). -/
def ringIx (frm n : Nat) : Fin 120 := ⟨(frm * 16 + n + 112) % 120, Nat.mod_lt _ (by decide)⟩

/-- Where a register code other than a queue's keeps its register. -/
inductive Loc where
  | w (i : Fin 8)
  | ring (i : Fin 120)
  | o (i : Fin 8)
  | lat
deriving DecidableEq, Repr

/-- The place a code names; none for queues, zr and reserved codes. -/
def locOf (frm : Nat) (c : Opd) : Option Loc :=
  let n := c.toNat
  if h : n < 8 then some (.w ⟨n, h⟩)
  else if n < 32 then some (.ring (ringIx frm n))
  else if n < 40 then some (.o ⟨n % 8, Nat.mod_lt _ (by decide)⟩)
  else if n = 48 then some .lat
  else none

def Strand.reg (x : Strand) : Loc → Reg
  | .w i => x.w[i]
  | .ring i => x.ring[i]
  | .o i => x.o[i]
  | .lat => x.lat

def Strand.setReg (x : Strand) (l : Loc) (r : Reg) : Strand :=
  match l with
  | .w i => { x with w := x.w.set i r }
  | .ring i => { x with ring := x.ring.set i r }
  | .o i => { x with o := x.o.set i r }
  | .lat => { x with lat := r }

/-- The queue a code 40-47 names. -/
def queueOf (c : Opd) : Option (Fin 8) :=
  let n := c.toNat
  if 40 ≤ n && n < 48 then some ⟨n % 8, Nat.mod_lt _ (by decide)⟩ else none

def codeZr : Nat := 49
def codeLat : Nat := 48

/-- A code 0-49 (R92). -/
def legalCode (c : Opd) : Bool := decide (c.toNat < 50)

/-- A code of w0-w31 or o0-o7, the only destinations of a handle (R111, R485). -/
def handleCode (c : Opd) : Bool := decide (c.toNat < 40)

/-- Stage 1 of R480 for scalar fields: a reserved code is OPERAND, EXTRA the field number. -/
def checkCodes : List (Nat × Opd) → Res Unit
  | [] => .ok ()
  | (f, c) :: cs => if legalCode c then checkCodes cs else freezeWith cOPERAND (word f)

/-! ## Handles (R110-R112) -/

/-- Frees an entry: its generation increments (R110). -/
def CEntry.release (e : CEntry) : CEntry := { CEntry.free with gen := e.gen + 1 }

def State.freeEntry (s : State) (e : Fin 128) : State :=
  s.withCore fun c => { c with table := c.table.set e c.table[e].release }

/-- The reach of a scope, for taking the wider of two. -/
def Scope.rank : Scope → Nat
  | .strand => 0 | .core => 1 | .cluster => 2 | .die => 3 | .device => 4 | .system => 5

/-- A new acquire beside one still in progress: both complete together, after the later one's work. -/
def joinAcquire (old : Option Acq) (sc : Scope) (whole : Bool) : Acq :=
  match old with
  | none => ⟨sc, whole, none, false, false⟩
  | some a => ⟨if Scope.rank a.sc ≤ Scope.rank sc then sc else a.sc, whole || a.whole, a.fill, a.load, false⟩

/-- Begins an acquire of the strand, or of the whole core (R112, R209). -/
def beginAcquire (s : State) (k : Fin 16) (sc : Scope) (whole : Bool) : State :=
  ((s.modStrand k fun x => { x with acq := some (joinAcquire x.acq sc whole) }).later none (.acquireComplete k))

/-- What the first read of a register does to the entry it holds (R112): the entry is freed and the core acquires. -/
def firstRead (s : State) (k : Fin 16) (l : Loc) : State :=
  let r := (s.strand k).reg l
  match r.full, r.bind with
  | true, some (.handle e) =>
    beginAcquire ((s.modStrand k fun x => x.setReg l { r with bind := none }).freeEntry e) k .device true
  | _, _ => s

/-! ## The write-back queue (R206) -/

/-- The bank of the die boundary buffer a write goes through. -/
def bankOf (pa : Nat) : Nat := pa / 64 % 16

/-- A write to the address would wait in the write-back queue. -/
def bankFull (s : State) (pa : Nat) : Bool :=
  decide (32 ≤ (s.die.dbb.filter fun y => bankOf y.x.pa = bankOf pa).length) ||
    s.core.wbq.any (fun y => bankOf y.x.pa = bankOf pa)

/-- Dirty words of a line. -/
def CLine.dirty (l : CLine) : Nat := (l.words.toList.filter fun w => w.valid && w.dirty).length

/-- Writing the cache through would add to a write-back queue that holds 64 writes. -/
def throughFull (s : State) : Bool :=
  decide (64 ≤ s.core.wbq.length) && s.core.cache.any fun l => l.dirty != 0 && bankFull s (l.line * 64)

/-- The write-back queue is full and the instruction would add to it (R206). -/
def wbGate (s : State) (adds : Bool) : Res Unit :=
  if adds && 64 ≤ s.core.wbq.length then .error (.stall .writeBackFull) else .ok ()

/-! ## Reading sources (R294, R101, R83) -/

/-- The register holds a filled handle, whose first read acquires (R112). -/
def Reg.holds (r : Reg) : Bool := r.full && match r.bind with | some (.handle _) => true | _ => false

/-- A first read of a filled handle whose acquire would add to a full write-back queue stalls (R112, R206). -/
def holdGate (s : State) (r : Reg) : Res Unit := if r.holds && throughFull s then .error (.stall .writeBackFull) else .ok ()

/-- Reads a source of the issuing strand: pops a queue head, blocks or traps on an empty operand, and performs the acquire of a
filled handle. -/
def readSrc (s : State) (c : Opd) (trap : Bool) : Res (Reg × State) :=
  match queueOf c with
  | some q =>
    match s.core.queues[q] with
    | r :: rest =>
      if r.full then .ok (r, s.withCore fun x => { x with queues := x.queues.set q rest })
      else if trap then .error (.empty c.toNat) else .error (.park (.queueEmpty q))
    | [] => if trap then .error (.empty c.toNat) else .error (.park (.queueEmpty q))
  | none =>
    match locOf s.st.frm c with
    | some l =>
      let r := s.st.reg l
      if r.full then do
        holdGate s r
        .ok ({ r with bind := none }, firstRead s s.cur l)
      else if trap then .error (.empty c.toNat) else .error (.park (.register c.toNat))
    | none => .ok (Reg.zero, s)

/-! ## Writing a destination (R96, R97, R100, R112) -/

/-- A destination that still waits for a fill parks the strand (R100). -/
def destFree (r : Reg) (code : Nat) : Res Unit :=
  if !r.full && r.bind.isSome then .error (.park (.register code)) else .ok ()

/-- A write over a filled handle frees its entry without the acquire (R112). -/
def dropHandle (s : State) (r : Reg) : State :=
  match r.full, r.bind with
  | true, some (.handle e) => s.freeEntry e
  | _, _ => s

/-- Puts a register into the place D names; lat is not touched unless D names it. -/
def putDest (s : State) (d : Opd) (r : Reg) : Res State :=
  match queueOf d with
  | some q =>
    if s.core.queues[q].length < 8 then
      .ok (s.withCore fun x => { x with queues := x.queues.set q (x.queues[q] ++ [r]) })
    else .error (.park (.queueFull q))
  | none =>
    match locOf s.st.frm d with
    | some l => do
      destFree (s.st.reg l) d.toNat
      .ok ((dropHandle s (s.st.reg l)).mod (·.setReg l r))
    | none => .ok s

/-- The result of a value-producing instruction: D, and lat with the same value, tag, full/empty state and binding (R96). -/
def writeDest (s : State) (d : Opd) (r : Reg) : Res State := do
  let s ← putDest s d r
  .ok (s.mod (·.setReg .lat r))

/-- Marks D and lat empty and bound to a pending fill (R100); the value is not specified while empty, and is kept. -/
def writePending (s : State) (d : Opd) (ticket : Nat) : Res State := do
  let old := match locOf s.st.frm d with
    | some l => s.st.reg l
    | none => Reg.zero
  let s ← putDest s d ⟨old.val, old.tag, false, some (.fill ticket)⟩
  .ok (s.mod fun x => x.setReg .lat ⟨x.lat.val, x.lat.tag, false, some (.fill ticket)⟩)

/-! ## Fills (R79, R100, R105) -/

/-- The register after a fill of the given ticket. -/
def Reg.fillWith (r : Reg) (b : Bind) (v : Word) (t : Tag) : Reg :=
  if r.bind = some b && !r.full then ⟨v, t, true, none⟩ else r

/-- TCM byte address of entry i of spill record k of a strand (R103). -/
def spillPa (s : State) (x : Strand) (rec i : Nat) : Nat :=
  tcmPa s.core.gcore (fld x.winbase 16 0 + 128 * rec + 8 * i)

/-- A fill of a spilled register writes the spill slot: value, tag byte and full/empty bit (R105). -/
def fillSpilled (s : State) (k : Fin 16) (b : Bind) (v : Word) (t : Tag) : State :=
  let x := s.strand k
  (x.spilled.filter (fun e => e.b = b)).foldl (fun s e =>
    setFe (performStore s ⟨e.pa, v, 0xFF, BitVec.ofNat 8 t.val⟩) e.pa true) s

/-- A fill reaches every register of the strand, and every queue entry, bound to it. -/
def fillReg (s : State) (k : Fin 16) (ticket : Nat) (v : Word) (t : Tag) : State :=
  let b := Bind.fill ticket
  let s := fillSpilled s k b v t
  let s := s.modStrand k fun x =>
    { x with
      w := vmap (·.fillWith b v t) x.w
      ring := vmap (·.fillWith b v t) x.ring
      o := vmap (·.fillWith b v t) x.o
      lat := x.lat.fillWith b v t
      spilled := x.spilled.filter (fun e => e.b != b) }
  s.withCore fun c => { c with queues := vmap (·.map (·.fillWith b v t)) c.queues }

/-- A register loses the binding of an access that failed and stays empty (R465). -/
def Reg.unbind (r : Reg) (b : Bind) : Reg := if r.bind = some b then { r with bind := none } else r

def unbindFill (s : State) (k : Fin 16) (ticket : Nat) : State :=
  let b := Bind.fill ticket
  let s := s.modStrand k fun x =>
    { x with
      w := vmap (·.unbind b) x.w
      ring := vmap (·.unbind b) x.ring
      o := vmap (·.unbind b) x.o
      lat := x.lat.unbind b
      v := vmap (fun (r : VReg) => if r.bind = some ticket then { r with bind := none } else r) x.v
      spilled := x.spilled.filter (fun e => e.b != b) }
  s.withCore fun c => { c with queues := vmap (·.map (·.unbind b)) c.queues }

/-- A fill of the vector register bound to the ticket. -/
def fillVec (s : State) (k : Fin 16) (ticket : Nat) (l : Lanes) : State :=
  s.modStrand k fun x =>
    { x with v := vmap (fun (r : VReg) => if r.bind = some ticket && !r.full then ⟨l, true, none⟩ else r) x.v }

/-! ## Fault packets (R470, R471) and freezing (R464) -/

/-- The function of the resident cell; 16 when there is none. -/
def State.func (s : State) : Nat := match s.core.cell with
  | some c => c.gang.func.val
  | none => 16
def State.part (s : State) : Nat := match s.core.cell with
  | some c => c.gang.part.val
  | none => 0

/-- A packet of the modelled core. -/
def State.packet (s : State) (ws : List Word) : Packet := ⟨s.core.gcore, ws, s.func, s.part⟩

/-- The eight words of a packet; SEQ is filled in when it is deposited. -/
def packetWords (s : State) (cause : BitVec 8) (frz defer kmode : Bool) (gstrand : Nat) (pc : Addr) (vaddr extra : Word)
    (ins : BitVec 32) : List Word :=
  [ word (cause.toNat * 2 ^ 56 + frz.toNat * 2 ^ 55 + defer.toNat * 2 ^ 54 + kmode.toNat * 2 ^ 53 + gstrand % 2 ^ 18),
    pc.zeroExtend 64, vaddr &&& bitsMask 42 0, extra, word s.now, ins.zeroExtend 64, 0, 0 ]

/-- An undeliverable packet goes to the hub error record (R471, R478): the record, then words 1-5, and the FSTAT bit. -/
def escalate (s : State) (p : Packet) (cls bit : Nat) : State :=
  let w0 := p.words.headD 0
  let s := errRecord s cls (fld w0 63 56) 0 0 (w0 &&& bitsMask 17 0) p.func p.part ((p.words.drop 1).take 5)
  setFstat s p.func bit

/-- The path's order: cycle of detection, then core, then strand (R471). -/
def Packet.before (p q : Packet) : Bool :=
  let key := fun (x : Packet) => ((x.words.getD 4 0).toNat, x.gcore, fld (x.words.headD 0) 3 0)
  let a := key p
  let b := key q
  decide (a.1 < b.1) || (a.1 = b.1 && (decide (a.2.1 < b.2.1) || (a.2.1 = b.2.1 && decide (a.2.2 ≤ b.2.2))))

def joinPath (p : Packet) : List Packet → List Packet
  | [] => [p]
  | q :: qs => if q.before p then q :: joinPath p qs else p :: q :: qs

/-- Puts a packet on the cluster's fault path, which delivers it from the next cycle on, or to the hub when the path holds 32. -/
def sendPacket (s : State) (p : Packet) : State :=
  if s.clu.path.length < 32 then
    (s.withClu fun c => { c with path := joinPath p c.path }).atOnce (s.now + 1) .faultPacketDeposit
  else escalate s p 6 fstatFqovf

/-- The global strand number (R25). -/
def State.gstrand (s : State) (k : Fin 16) : Nat := s.core.gcore * 16 + k.val

/-- The trap of the instruction just completed is pending again, as it stood before it was entered (R467). -/
def Strand.keepTrap (x : Strand) : Strand :=
  match x.back with
  | some b => { x with
      pc := b.pc, mode := b.mode, tepc := b.tepc, tcause := b.tcause, tval := b.tvalOld
      tpend := some (b.cause, b.tval), back := none }
  | none => x

/-- Strand k freezes (R464, R465): it holds its context, its cause is kept, and its packet is sent. A deferred fault leaves the trap of the
instruction just completed pending (R467). -/
def freeze (s : State) (k : Fin 16) (cause : BitVec 8) (defer : Bool) (pc : Addr) (vaddr extra : Word) (ins : BitVec 32) :
    State :=
  let x := if defer then (s.strand k).keepTrap else s.strand k
  sendPacket (s.setStrand k { x with run := .frozen, cause := cause, walked := [] })
    (s.packet (packetWords s cause true defer x.kernel (s.gstrand k) pc vaddr extra ins))

/-! ## Local traps (R268, R269, R333) -/

/-- A bit of a word. -/
def flag (b : Bool) (i : Nat) : Word := if b then word (2 ^ i) else 0

/-- Taking a local trap or an interrupt: TEPC, TCAUSE, TVAL, MODE and PC as R268 gives. -/
def takeTrap (x : Strand) (epc : Addr) (cause tval : Word) : Strand :=
  { x with
    tepc := epc.zeroExtend 64
    tcause := cause
    tval := tval
    mode := flag (x.mode.getLsbD 2) 3 ||| flag (x.mode.getLsbD 0) 1 ||| 1
    pc := pcOf x.tvec
    walked := []
    taken := true }

/-- TRET's step (R333): PC, K and IE come back; PK and PIE stay. -/
def returnFromTrap (x : Strand) : Strand :=
  { x with
    pc := pcOf x.tepc
    mode := (x.mode &&& 0xA) ||| (flag (x.mode.getLsbD 3) 2 ||| flag (x.mode.getLsbD 1) 0)
    walked := [] }

/-- The trap of the instruction just completed (R269, item 1), with what it took the place of. -/
def completionTrap (x : Strand) (cause tval : Word) : Strand :=
  { takeTrap x x.pc cause tval with back := some ⟨cause, tval, x.pc, x.mode, x.tepc, x.tcause, x.tval⟩ }

/-- A trap the instruction raised on completing, taken before the strand's next issue; a frozen strand keeps it pending
(R467). -/
def raiseTrap (s : State) (k : Fin 16) (cause tval : Word) : State :=
  s.modStrand k fun x =>
    if x.run = .frozen then { x with tpend := some (cause, tval) } else completionTrap x cause tval

/-- Codes of R120. -/
def tcSigloss : Word := 0x01
def tcEmpty : Word := 0x02
def tcSys : Word := 0x03
def tcBrk : Word := 0x04
def tcSingular : Word := 0x05
def tcTimer : Word := 0x8000000000000010
def tcMbox : Word := 0x8000000000000011
def tcSoft : Word := 0x8000000000000012

/-! ## How an instruction ends -/

/-- The machine when an instruction did not complete: nothing it did stands (R464, R481). -/
def stopped (s : State) : Stop → State
  | .park w => s.setRun s.cur (.parked w)
  | .stall w => s.setRun s.cur (.stalled w)
  | .empty code => s.mod fun x => takeTrap x x.pc tcEmpty (word code)
  | .freeze cause extra vaddr => freeze s s.cur cause false s.st.pc vaddr extra s.word
  | .miss vpn => (s.setRun s.cur (.stalled .translation)).at s.now (.tlbWalkStart vpn s.cur)
  | .handles cs =>
    (cs.foldl (fun s c => match locOf s.st.frm c with
      | some l => firstRead s s.cur l
      | none => s) s).setRun s.cur (.stalled .acquirePending)

/-- The step of an instruction from its result. -/
def finish (s : State) (r : Res State) : Host.Outcome State Fault Refusal :=
  match r with
  | .ok t => .next t
  | .error e => .next (stopped s e)

/-- A plain next state. -/
abbrev done (s : State) : Host.Outcome State Fault Refusal := .next s

end Sys2Proof.Machine
end

