-- ==== Sys2Proof/Machine/Hbm.lean ====
section
/-! DEFINITION. The HBM controllers (R218-R228, R455-R457, R520-R524, R554): service units by budget, refresh, self-refresh, patrol scrub,
lane repair and training. -/

namespace Sys2Proof.Machine

/-! ## Places (R183, R279, R455) -/

/-- The mode-device of the core. -/
def State.mdev (s : State) : Nat :=
  match sysMode s with
  | 1 => s.core.gcore / 1536 / 4
  | 2 => s.core.gcore / 1536
  | _ => 0

/-- The pseudo-channel of an HBM address. -/
def channelOf (s : State) (pa : Nat) : Nat :=
  match sysMode s with
  | 1 => s.mdev * 256 + pa / 1024 % 256
  | 2 => s.mdev * 64 + pa / 1024 % 64
  | _ => pa / 1024 % 512

/-- The bank; the manual gives it for one device, and the other modes move it with the channel bits (log 26). -/
def hbmBank (s : State) (pa : Nat) : Fin 16 :=
  let lo := match sysMode s with
    | 1 => 2 ^ 18
    | 2 => 2 ^ 16
    | _ => 2 ^ 19
  ⟨pa / lo % 16, Nat.mod_lt _ (by decide)⟩

def findPc (s : State) (p : Nat) : Pc := (s.hbm.find? (·.p = p)).getD (Pc.init p)

def modPc (s : State) (p : Nat) (f : Pc → Pc) : State :=
  { s with hbm := s.hbm.filter (·.p != p) ++ [f (findPc s p)] }

/-- Granules of 64 bytes in a pseudo-channel. -/
def pcGranules : Nat := Config.hbmBytes / 512 / 64

/-- Pseudo-channels of a mode-device (R279). -/
def channelsOf (s : State) : Nat :=
  match sysMode s with
  | 1 => 256
  | 2 => 64
  | _ => 512

/-- The granule of its pseudo-channel an address lies in, in ascending order, and the address of granule g of pseudo-channel p (R183). -/
def granuleOf (s : State) (pa : Nat) : Nat := pa / (1024 * channelsOf s) * 16 + pa % 1024 / 64
def granuleAddr (s : State) (p g : Nat) : Nat := g / 16 * (1024 * channelsOf s) + p % channelsOf s * 1024 + g % 16 * 64

/-- UNITS in force. -/
def unitsOf (s : State) (p c : Nat) : Nat := fld (hubGet s (rBudget p c)) 6 0

/-- Does a partition's mode-device hold the pseudo-channel? -/
def mdevHolds (s : State) (mdev p : Nat) : Bool :=
  match sysMode s with
  | 1 => p / 256 = mdev
  | 2 => p / 64 = mdev
  | _ => true

/-- Partitions in exact mode that use the pseudo-channel (R227, R286). -/
def exactParts (s : State) (p : Nat) : List Nat :=
  (List.range 16).filter fun i =>
    let w := hubGet s (rPart i 0)
    w.getLsbD 63 && w.getLsbD 62 && mdevHolds s (fld w 61 59) p

def exactPc (s : State) (p : Nat) : Bool := !(exactParts s p).isEmpty

/-- No request starts there: training, self-refresh or its exit, or a firmware update of the memory die (R226, R289, R523). -/
def pcHeld (s : State) (x : Pc) : Bool :=
  x.training || x.selfRef || x.exitAt.isSome || (match s.hub.fwDie with | some d => d = 8 + x.p / 128 | none => false)

/-! ## Units (R218, R221) -/

/-- Counts of the present die wheel (R54). -/
def Pc.roll (x : Pc) (w : Nat) : Pc :=
  if x.wheel = w then x else { x with wheel := w, used := 0, charged := Vector.replicate 16 0 }

/-- What the classes may still claim. -/
def claimsLeft (s : State) (x : Pc) : Nat :=
  ((List.finRange 16).map fun c => unitsOf s x.p c.val - x.charged[c]).foldl (· + ·) 0

/-- May pass 2 serve a unit now? -/
def bestEffort (s : State) (x : Pc) : Bool := x.used < 96 && claimsLeft s x ≤ 96 - (x.used + 1)

def Pc.charge (x : Pc) (c : Fin 16) : Pc := { x with used := x.used + 1, charged := x.charged.set c (x.charged[c] + 1) }

/-- A request can start: it has reached its bank and the bank is not in refresh. -/
def readyReq (s : State) (x : Pc) (r : HReq) : Bool := decide (r.arrive ≤ s.now) && decide (x.busy[hbmBank s r.addr] ≤ s.now)

/-- Earlier arrival first, then the lower core. -/
def firstReq : List HReq → Option HReq
  | [] => none
  | r :: rs => match firstReq rs with
    | none => some r
    | some q => if r.arrive < q.arrive || (r.arrive = q.arrive && r.gcore ≤ q.gcore) then some r else some q

/-- The request pass 1 serves, or class 13's patrol read, which waits while its bank is in refresh (R457). -/
def passOne (s : State) (x : Pc) : Option (Fin 16 × Option HReq) :=
  ((List.finRange 16).filterMap fun c =>
    if x.used < 96 && x.charged[c] < unitsOf s x.p c.val then
      (match firstReq (x.reqs.filter fun r => r.cls = c && readyReq s x r) with
       | some r => some (c, some r)
       | none => if c.val = 13 && decide (x.busy[hbmBank s (granuleAddr s x.p x.scrub)] ≤ s.now) then some (c, none) else none)
    else none).head?

/-- The request pass 2 serves; in exact mode one of an earlier wheel (R227). -/
def passTwo (s : State) (x : Pc) : Option HReq :=
  if !bestEffort s x then none
  else ((List.finRange 16).filterMap fun c => firstReq (x.reqs.filter fun r =>
    r.cls = c && readyReq s x r && (!exactPc s x.p || decide (dieTurn r.arrive < dieTurn s.now)))).head?

/-- The cycles a read waited for refresh: kept for the fill of its load, or with the handle of its engine operation (R225). -/
def creditWait (s : State) (r : HReq) : State :=
  match r.handle with
  | some h => s.withCore fun c => { c with table := c.table.set h { c.table[h] with wait := c.table[h].wait + r.wait } }
  | none =>
    if r.gcore = s.core.gcore && (s.core.reqs.any (·.ticket = r.ticket) || s.core.fetches.any (·.ticket = r.ticket)) then
      s.withCore fun c => { c with refWaits := c.refWaits ++ [(r.ticket, r.wait)] }
    else s

/-- Cycles from a row access to its data: 51.2, whole cycles (R223). -/
def rowCycles : Nat := 52

/-- A request of the channel is the write-back of a granule a scrub has read. -/
def Pc.isScrub (x : Pc) (r : HReq) : Bool := x.scrubRead.any (·.ticket = r.ticket)

/-- The write-backs of a granule are over or cancelled (R228, R521). -/
def Pc.endScrub (x : Pc) (granule : Nat) : Pc :=
  let mine := x.scrubRead.filter (·.granule = granule)
  { x with
    scrubRead := x.scrubRead.filter (·.granule != granule)
    reqs := x.reqs.filter fun r => !mine.any (·.ticket = r.ticket) }

/-- A unit of a request is served; with its last one the request is over: a write-back ends every other of its granule (R521), a read's data
comes after the row access (R223) and its wait counts (R225). -/
def serveReq (s : State) (p : Nat) (r : HReq) (f : Pc → Pc) : State :=
  let rest := fun (rs : List HReq) =>
    if r.units ≤ 1 then rs.filter (· != r) else rs.map fun q => if q = r then { r with units := r.units - 1 } else q
  let s := modPc s p fun x =>
    let y := f { x with
      reqs := rest x.reqs
      idle := if x.isScrub r then x.idle else max x.idle s.now
      data := (x.data.filter fun d => s.now < d.at_) ++ (if r.units ≤ 1 && !r.write then [⟨r.ticket, r.handle, s.now + rowCycles⟩] else []) }
    match x.scrubRead.find? (·.ticket = r.ticket) with
    | some e => y.endScrub e.granule
    | none => y
  if r.units ≤ 1 && !r.write then creditWait s r else s

/-- A demand write to a granule that a scrub has read and not written back: its data stands (R228, R521). -/
def cancelScrub (s : State) (pa : Nat) : State :=
  { s with hbm := s.hbm.map fun x => if x.p = channelOf s pa then x.endScrub (granuleOf s pa) else x }

/-- A scrub's read has corrected a granule: its write-back is owed, in a class, for a handle (R228, R405). -/
def oweScrub (s : State) (p : Fin 512) (granule : Nat) (cls : Fin 16) (h : Option (Fin 128)) : State :=
  (modPc { s with ticket := s.ticket + 1 } p.val fun x => { x with scrubRead := x.scrubRead ++ [⟨granule, cls, s.ticket, h⟩] }).later none
    (.scrubWriteback p granule)

/-! ## Lanes (R523, R524) -/

/-- The count of a lane in the present window. -/
def laneErrs (s : State) (c lane : Nat) : Nat := ((s.hub.lanes.find? fun x => x.1 = c && x.2.1 = lane).map (·.2.2)).getD 0

/-- A corrected error counts on its memory die, and for its lane; the register shows the highest count (R477, R523). -/
def countLane (s : State) (c lane : Nat) : State :=
  let s := countCe s (8 + c / 64) false
  let n := min 255 (laneErrs s c lane + 1)
  let s := s.withHub fun h => { h with lanes := h.lanes.filter (fun x => !(x.1 = c && x.2.1 = lane)) ++ [(c, lane, n)] }
  let r := hubGet s (rLane c)
  let s := if fld r 7 0 < n then hubPut s (rLane c) (setFld (setFld r 15 8 lane) 7 0 n) else s
  if h : c < 256 ∧ n = 255 then s.at s.now (.laneRepair ⟨c, h.1⟩ (BitVec.ofNat 8 lane)) else s

/-- A patrol read; whether it corrects an error, and on which lane, is left open (log 26). -/
def patrolRead (s : State) (p : Fin 512) : State :=
  let x := findPc s p.val
  let s := modPc s p.val fun x => { (x.charge 13) with scrub := (x.scrub + 1) % pcGranules }
  let n := Config.freeChoice s.fresh
  let s := { s with fresh := s.fresh + 1 }
  if n % 2 = 1 then oweScrub (countLane s (p.val / 2) (n / 2 % 72)) p x.scrub 13 none else s

/-- The controller looks again: in the next cycle, or in the next wheel when its units are spent or the patrol waits for new ones. -/
def serveAgain (s : State) (p : Fin 512) : State :=
  let x := findPc s p.val
  if pcHeld s x || (x.reqs.isEmpty && unitsOf s p.val 13 = 0) then s
  else if (passOne s x).isSome || (passTwo s x).isSome then s.atOnce (s.now + 1) (.hbmServiceUnit p)
  else
    let later := (x.reqs.filter fun r => s.now < r.arrive).map (·.arrive)
    s.atOnce ((later.filter (· < s.nextDieWheel)).foldl min s.nextDieWheel) (.hbmServiceUnit p)

/-- A request other than a scrub's write-back has arrived and waits. -/
def waitingAny (s : State) (x : Pc) : Bool := x.reqs.any fun r => decide (r.arrive ≤ s.now) && !x.isScrub r

/-- SRIDLE wheels from the last request (R226); one that is still on its way has not arrived. -/
def idleFrom (s : State) (p : Fin 512) : State :=
  let n := fld (hubGet s (rSridle p.val)) 7 0
  let x := findPc s p.val
  if n != 0 && !waitingAny s x && !x.selfRef && !x.training then
    s.atOnce (max s.now (x.idle + 256 * n)) (.selfRefreshEntry p)
  else s

/-- R218, R221, R222, R228. -/
def execHbmServiceUnit (p : Fin 512) (s : State) : Host.Outcome State Fault Refusal :=
  let s := modPc s p.val (·.roll (dieWheel s.now))
  let x := findPc s p.val
  if pcHeld s x then done s
  else
    let t := match passOne s x with
      | some (c, some r) => serveReq s p.val r (·.charge c)
      | some (_, none) => patrolRead s p
      | none => (match passTwo s x with
        | some r => serveReq s p.val r fun y => { y with used := y.used + 1 }
        | none => s)
    done (idleFrom (serveAgain t p) p)

/-! ## Arrival -/

/-- Exit from self-refresh begins at a time, the earliest of those named, and takes 3 wheels (R226). -/
def beginExit (s : State) (p : Fin 512) (at_ : Nat) : State :=
  let x := findPc s p.val
  if x.selfRef && (match x.exitAt with | some t => decide (at_ + 768 < t) | none => true) then
    (modPc s p.val fun x => { x with exitAt := some (at_ + 768) }).at (at_ + 768) (.selfRefreshExit p)
  else s

/-- A request reaches its bank at its time of arrival (R225, R226). -/
def hbmPushAt (s : State) (p : Nat) (r : HReq) : State :=
  let b := (findPc s p).busy[hbmBank s r.addr]
  let s := modPc s p fun x => { x with reqs := x.reqs ++ [{ r with wait := b - r.arrive }] }
  if h : p < 512 then
    let q : Fin 512 := ⟨p, h⟩
    let x := findPc s p
    let s := if x.selfRef && !x.isScrub r then beginExit s q r.arrive else s
    if x.selfRef then s else s.atOnce r.arrive (.hbmServiceUnit q)
  else s

/-- A request at the pseudo-channel of its address. -/
def hbmPush (s : State) (r : HReq) : State := hbmPushAt s (channelOf s r.addr) r

/-- A request for units of 64 bytes at an HBM address, by the core or (14, 15) the hub; when it arrives is left to the fabric (log 3). -/
def hbmAsk (s : State) (ticket : Nat) (handle : Option (Fin 128)) (cls pa units : Nat) (write : Bool) : State :=
  let who := if cls = 14 then Config.coreCount else s.core.gcore
  hbmPush { s with fresh := s.fresh + 1 }
    ⟨⟨cls % 16, Nat.mod_lt _ (by decide)⟩, s.now + 1 + Config.freeDelay s.fresh, who, pa, ticket, handle, 0, units, write⟩

/-- One unit for each line of HBM among the addresses (R218). -/
def askLines (s : State) (ticket : Nat) (handle : Option (Fin 128)) (cls : Nat) (write : Bool) (pas : List Nat) : State :=
  ((pas.filter isHbm).map (· / 64)).eraseDups.foldl (fun s line => hbmAsk s ticket handle cls (64 * line) 1 write) s

/-- A request of another core or of Proah at a pseudo-channel of this package (R219). -/
def execHbmRequest (cls : Fin 16) (gcore pa : Nat) (write : Bool) (s : State) : Host.Outcome State Fault Refusal :=
  .next (hbmPush s ⟨cls, s.now, gcore, pa, 0, none, 0, 1, write⟩)

/-- The units an operation asked for are served, but it no longer waits for them. -/
def forgetUnits (s : State) (h : Fin 128) : State :=
  let mine : Option (Fin 128) → Option (Fin 128) := fun g => if g = some h then none else g
  { s with hbm := s.hbm.map fun x =>
    { x with reqs := x.reqs.map fun r => { r with handle := mine r.handle }, data := x.data.map fun d => { d with handle := mine d.handle } } }

/-- The service class of the core's queue (R219, R250). -/
def loadClass (s : State) : Nat :=
  match s.core.cell with
  | some c => fld (hubGet s (rQueue c.gang.queue.toNat 0)) 60 57
  | none => 0

/-- A request under this ticket is still at a controller, or its data on its way from the row (R223); ticket 0 is no access of this core. -/
def hbmPending (s : State) (ticket : Nat) : Bool :=
  s.hbm.any fun x => (x.reqs.any fun r => r.ticket = ticket) || x.data.any fun d => d.ticket = ticket && decide (s.now < d.at_)

/-- A request of an engine operation is still at a controller, its data on its way, or a write-back of it is owed. -/
def hbmBusy (s : State) (h : Fin 128) : Bool :=
  s.hbm.any fun x => (x.reqs.any fun r => r.handle = some h) || (x.data.any fun d => d.handle = some h && decide (s.now < d.at_)) ||
    x.scrubRead.any fun e => e.handle = some h

/-! ## Banks of scratchpads and die SRAMs (R180, R182) -/

/-- The bank of the own cluster's scratchpad or of the own die's SRAM an address lies in. -/
def ownBank (s : State) (pa : Nat) : Bool :=
  match home s pa with
  | .spad cl _ => cl = s.core.gcore / 16
  | .sram d _ => d = s.core.gcore / 1536
  | _ => false

/-- The user's access waits at a bank or at the atomic engine. -/
def atBank (s : State) (u : BankUser) : Bool :=
  s.clu.bankReqs.any (·.user = u) || s.die.sramReqs.any (·.user = u) ||
    s.clu.atomReqs.any fun r => match r.op with | .plain _ v => v = u | _ => false

/-- A request of the atomic engine, which serves one every 2 cycles (R189). -/
def atomArrive (s : State) (r : AtomReq) : State :=
  (s.withClu fun u => { u with atomReqs := u.atomReqs ++ [r] }).atOnce (max (s.now + 2) s.clu.atomNext) .atomicEngineServe

/-- An access of the core reaches its bank: of the own cluster's scratchpad in one cycle, unless the atomic engine holds the line and serves it
(R180, R189), or of the own die's SRAM (R182), at a time left to the mesh (log 3). -/
def bankArrive (s : State) (user : BankUser) (pa : Nat) : State :=
  match home s pa with
  | .spad cl off =>
    let b : Fin 64 := ⟨off / 8 % 64, Nat.mod_lt _ (by decide)⟩
    if cl != s.core.gcore / 16 then s
    else if s.clu.atomLines.contains (pa / 64) then atomArrive s ⟨s.now, s.core.gcore, .plain (pa / 64) user⟩
    else (s.withClu fun u => { u with bankReqs := u.bankReqs ++ [⟨b.val, s.core.gcore % 16, user⟩] }).atOnce (s.now + 1)
      (.scratchpadBankAccess b)
  | .sram d off =>
    let b : Fin 64 := ⟨off / 64 % 64, Nat.mod_lt _ (by decide)⟩
    if d != s.core.gcore / 1536 then s
    else
      let t := s.now + 1 + Config.freeDelay s.fresh
      let r : SramReq := ⟨b.val, t, s.core.gcore, user⟩
      ({ s with fresh := s.fresh + 1, die := { s.die with sramReqs := s.die.sramReqs ++ [r] } } : State).atOnce t
        (.dieSramBankAccess b)
  | _ => s

/-- A load is still at a bank. -/
def bankPending (s : State) (ticket : Nat) : Bool := atBank s (.load ticket)

/-- A served access goes on: the load's reply, or the store at the head of its buffer. -/
def bankServed (s : State) : BankUser → State
  | .load t => s.atOnce s.now (.remoteReplyArrive t)
  | .store k seq => (s.withClu fun u => { u with bankDone := u.bankDone ++ [seq] }).atOnce s.now (.storeLeave k)
  | .engine _ | .other => s

/-- The order within a port: strands first, then other clusters' accesses, then engines (R180). -/
def BankUser.rank : BankUser → Nat
  | .load _ | .store _ _ => 0
  | .other => 1
  | .engine _ => 2

/-- The access a port presents to a bank. -/
def portHead (s : State) (bank port : Nat) : Option BankReq :=
  ([0, 1, 2] : List Nat).findSome? fun n => s.clu.bankReqs.find? fun r => r.bank = bank && r.port = port && r.user.rank = n

/-! ## Refresh (R223, R224, R227, R456, R457) -/

def tRFCpb : Nat := 224
def tRFCab : Nat := 560

/-- A refresh keeps a bank busy; requests waiting there, or that will reach it meanwhile, wait longer. -/
def busyBank (s : State) (x : Pc) (b : Fin 16) (d : Nat) : Pc :=
  let old := x.busy[b]
  let till := max old (s.now + d)
  { x with
    busy := x.busy.set b till
    reqs := x.reqs.map fun r => if hbmBank s r.addr = b then { r with wait := r.wait + (till - max old (max s.now r.arrive)) } else r }

/-- A refresh command charges class 12, then a unit nothing can claim, then nothing (R224). -/
def chargeRefresh (s : State) (x : Pc) : Pc :=
  if x.charged[12] < unitsOf s x.p 12 && x.used < 96 then x.charge 12
  else if bestEffort s x then { x with used := x.used + 1 } else x

def refreshBank (s : State) (p : Fin 512) (b : Fin 16) : State :=
  (modPc s p.val fun x => busyBank s (chargeRefresh s x) b tRFCpb).at (s.now + tRFCpb) (.refreshEnd p b)

/-- The all-bank refresh clears what is owed. -/
def refreshAll (s : State) (p : Fin 512) : State :=
  let s := modPc s p.val fun x =>
    { (List.finRange 16).foldl (fun x b => busyBank s x b tRFCab) (chargeRefresh s x) with owed := 0, owedList := [] }
  (List.finRange 16).foldl (fun s b => s.at (s.now + tRFCab) (.refreshEnd p b)) s

/-- A request is pending at a bank, or at any. -/
def pendingBank (s : State) (x : Pc) (b : Fin 16) : Bool := x.reqs.any fun r => r.arrive ≤ s.now && hbmBank s r.addr = b
def pendingAny (s : State) (x : Pc) : Bool := x.reqs.any fun r => decide (r.arrive ≤ s.now)

/-- R224 for bank b. -/
def tickBank (s : State) (p : Fin 512) (b : Fin 16) : State :=
  let x := findPc s p.val
  if exactPc s p.val then refreshBank s p b
  else if pendingBank s x b then
    if x.owed < 8 then modPc s p.val fun x => { x with owed := x.owed + 1, owedList := x.owedList ++ [b.val] }
    else refreshAll s p
  else
    let t := refreshBank s p b
    match x.owedList with
    | o :: os =>
      if pendingAny s x then t
      else modPc (refreshBank t p ⟨o % 16, Nat.mod_lt _ (by decide)⟩) p.val fun x => { x with owed := x.owed - 1, owedList := os }
    | [] => t

/-- C₀ in global time, from REFORG (R456). -/
def tickBase (s : State) (p : Fin 512) : Nat := (hubGet s (rReforg p.val) + 128).toNat

/-- The cycle of tick k, in global time; in exact mode slot 0 of the next die wheel. -/
def tickTime (s : State) (p : Fin 512) (k : Nat) : Nat :=
  if exactPc s p.val then s.nextDieWheel else tickBase s p + 1952 * k / 5

/-- The first tick that falls at a time or after it: ⌈5d / 1952⌉ for d cycles from C₀. -/
def tickFrom (s : State) (p : Fin 512) (t : Nat) : Nat := (5 * (t - tickBase s p) + 1951) / 1952

/-- Ticks on the agenda go. -/
def dropRefresh (s : State) (p : Fin 512) : State := { s with agenda := s.agenda.filter fun e => e.2 != .refreshTick p }

/-- A partition's mode has changed whether the pseudo-channel is exact: its refreshes go by wheels, and it leaves self-refresh, or by tREFIpb again
in the numbering of REFORG (R227, R456). -/
def replanRefresh (s : State) (p : Fin 512) : State :=
  let s := dropRefresh s p
  if (findPc s p.val).training then s
  else if exactPc s p.val then (beginExit s p s.now).atOnce s.nextDieWheel (.refreshTick p)
  else
    let k := tickFrom s p (s.now + 1)
    (modPc s p.val fun x => { x with tick := k }).atOnce (tickTime s p k) (.refreshTick p)

/-- R224, R227, R522: a tick during self-refresh exit waits for its end. -/
def execRefreshTick (p : Fin 512) (s : State) : Host.Outcome State Fault Refusal :=
  let s := modPc s p.val (·.roll (dieWheel s.now))
  let x := findPc s p.val
  if x.training then done s
  else
    let b : Fin 16 := ⟨(if exactPc s p.val then dieWheel s.now else x.tick) % 16, Nat.mod_lt _ (by decide)⟩
    let t := if x.selfRef then (if (x.exitAt.any fun e => decide (e ≤ s.now + 768)) then modPc s p.val fun x => { x with lateTick := x.lateTick ++ [b.val] } else s)
      else tickBank s p b
    let t := modPc t p.val fun x => { x with tick := x.tick + 1 }
    done (t.atOnce (max (s.now + 1) (tickTime t p (x.tick + 1))) (.refreshTick p))

/-- R457. -/
def execRefreshEnd (p : Fin 512) (_bank : Fin 16) (s : State) : Host.Outcome State Fault Refusal :=
  done (s.atOnce s.now (.hbmServiceUnit p))

/-! ## Self-refresh (R226, R522) -/

/-- The table grants no queue class units. -/
def noUnits (s : State) (p : Nat) : Bool :=
  (List.range 16).all fun c => c = 12 || c = 13 || unitsOf s p c = 0

/-- R226. -/
def execSelfRefreshEntry (p : Fin 512) (s : State) : Host.Outcome State Fault Refusal :=
  let x := findPc s p.val
  let n := fld (hubGet s (rSridle p.val)) 7 0
  if n != 0 && noUnits s p.val && !exactPc s p.val && !x.training && !x.selfRef && !waitingAny s x &&
      decide (x.idle + 256 * n ≤ s.now) then
    let coming := (x.reqs.filter fun r => !x.isScrub r).map (·.arrive)
    let t := modPc s p.val fun x => { x with selfRef := true }
    done (match coming with
      | [] => t
      | a :: as => beginExit t p (as.foldl min a))
  else done s

/-- R226, R522: every tick that fell during exit is issued now, with OWED := 0. -/
def execSelfRefreshExit (p : Fin 512) (s : State) : Host.Outcome State Fault Refusal :=
  let x := findPc s p.val
  if !x.selfRef || !(match x.exitAt with | some t => decide (t ≤ s.now) | none => false) then done s
  else
    let t := modPc s p.val fun x => { x with selfRef := false, exitAt := none, lateTick := [], idle := s.now }
    let t := if x.lateTick.isEmpty then t
      else modPc (x.lateTick.foldl (fun t b => refreshBank t p ⟨b % 16, Nat.mod_lt _ (by decide)⟩) t) p.val fun x =>
        { x with owed := 0, owedList := [] }
    done (idleFrom (t.atOnce s.now (.hbmServiceUnit p)) p)

/-! ## Budget commits (R220, R520, R522) -/

/-- Staged units. -/
def stagedOf (s : State) (p c : Nat) : Nat := fld (hubGet s (rBudget p c)) 14 8

/-- Exit starts at the commit wheel when a class of queues is granted units. -/
def wakeForUnits (s : State) (p : Fin 512) : State := if noUnits s p.val then s else beginExit s p s.now

/-- R220, R520. -/
def execBudgetCommit (p : Fin 512) (s : State) : Host.Outcome State Fault Refusal :=
  let cw := hubGet s (rBudgetCommit p.val)
  if !cw.getLsbD 63 || s.now < 256 * fld cw 55 0 + 128 then done s
  else
    let t := hubPut s (rBudgetCommit p.val) (setFld cw 63 63 0)
    let sum := ((List.range 16).map (stagedOf s p.val)).foldl (· + ·) 0
    if 96 < sum then done (fabricRecord t 0x0708 1 (word p.val) 16)
    else if stagedOf s p.val 12 = 0 then done (fabricRecord t 0x0708 2 (word p.val) 16)
    else
      let t := (List.range 16).foldl (fun t c => hubPut t (rBudget p.val c) (setFld (hubGet t (rBudget p.val c)) 6 0 (stagedOf s p.val c))) t
      done (idleFrom ((wakeForUnits t p).atOnce s.now (.hbmServiceUnit p)) p)

/-! ## Scrub (R228, R521) -/

/-- R228, R521: the write-back of a granule a scrub has read asks its unit, class 13 for the patrol's, unless a demand write came in between; one
that comes before the unit is served still cancels it. A corrected granule's bytes are those memory holds; one still poisoned keeps its mark. -/
def execScrubWriteback (p : Fin 512) (granule : Nat) (s : State) : Host.Outcome State Fault Refusal :=
  let x := findPc s p.val
  match x.scrubRead.find? fun e => e.granule = granule && !x.reqs.any fun r => r.ticket = e.ticket with
  | some e => done (hbmPushAt s p.val ⟨e.cls, s.now, Config.coreCount, granuleAddr s p.val granule, e.ticket, e.handle, 0, 1, true⟩)
  | none => done s

/-! ## Training (R456, R523, R554) -/

/-- A training ends: REFORG, in die time, and the ticks are numbered anew. -/
def trained (s : State) (p : Fin 512) : State :=
  let s := hubPut s (rReforg p.val) (word (s.now + (2 ^ 64 - 128)))
  let s := dropRefresh s p
  idleFrom ((modPc s p.val fun x => { x with training := false, tick := 0, owed := 0, owedList := [], idle := max x.idle s.now }).atOnce
    (if exactPc s p.val then s.nextDieWheel else s.now) (.refreshTick p)) p

/-- The next window of 2^20 wheels of a channel's lane counts ends so much later (R523). DESIGN CHOICE (log 26): a channel's first window begins
as its pseudo-channel 2c ends training, and each begins as the one before it ends. -/
def laneWindowNext (s : State) (c : Fin 256) : State := s.at (s.now + 256 * 2 ^ 20) (.laneWindow c)

/-- R554. -/
def execPseudoChannelTrainingEnd (p : Fin 512) (s : State) : Host.Outcome State Fault Refusal :=
  let t := (trained s p).atOnce s.now (.hbmServiceUnit p)
  done (if p.val % 2 = 0 then laneWindowNext t ⟨p.val / 2, by omega⟩ else t)

/-- The two pseudo-channels of a channel. -/
def pairOf (c : Fin 256) : List (Fin 512) := [⟨2 * c.val, by omega⟩, ⟨2 * c.val + 1, by omega⟩]

/-- The LANE record (R499). -/
def laneRecord (s : State) (c : Fin 256) (spare lane : Nat) : State :=
  fabricRecord s 0x070A (spare * 256 + lane) (word c.val) 16

/-- LOST in the descriptor of every exact partition on the channel (R523). -/
def loseExact (s : State) (c : Fin 256) : State :=
  (exactParts s (2 * c.val)).foldl (fun s i => hubPut s (rJay i 3) (hubGet s (rJay i 3) ||| bitsMask 63 63)) s

/-- R523: the channel trains with the lane on a free spare; with none left the lane is not repaired. -/
def execLaneRepair (c : Fin 256) (lane : BitVec 8) (s : State) : Host.Outcome State Fault Refusal :=
  let r := hubGet s (rLane c.val)
  let spare := if fld r 23 16 = 0xFF then some 0 else if fld r 31 24 = 0xFF then some 1 else none
  match spare with
  | none => done (laneRecord s c 0xFF lane.toNat)
  | some n =>
    let r := if n = 0 then setFld r 23 16 lane.toNat else setFld r 31 24 lane.toNat
    let t := laneRecord (hubPut s (rLane c.val) r) c n lane.toNat
    let t := (pairOf c).foldl (fun t p => modPc t p.val fun x => { x with training := true }) (loseExact t c)
    done (t.later (some 4095) (.laneTrainingEnd c))

/-- R523: one all-bank refresh, then the held requests. -/
def execLaneTrainingEnd (c : Fin 256) (s : State) : Host.Outcome State Fault Refusal :=
  done ((pairOf c).foldl (fun s p => (refreshAll (trained s p) p).atOnce s.now (.hbmServiceUnit p)) s)

/-- R523: the counts of a channel's window restart. -/
def execLaneErrorWindow (c : Fin 256) (s : State) : Host.Outcome State Fault Refusal :=
  let s := (laneWindowNext s c).withHub fun h => { h with lanes := h.lanes.filter (·.1 != c.val) }
  done (hubPut s (rLane c.val) (setFld (hubGet s (rLane c.val)) 15 0 0))

/-! ## Budgets (R54) -/

/-- R54: units on the spoke dies restart at the first slot of die time. -/
def execWheelBudgetRestart (s : State) : Host.Outcome State Fault Refusal :=
  done { s with hbm := s.hbm.map fun x => { x with wheel := dieWheel s.now, used := 0, charged := Vector.replicate 16 0 } }

end Sys2Proof.Machine
end

