-- ==== Sys2Proof/Machine/Translate.lean ====
section
/-! DEFINITION. Translation (R192-R198, R280, R525), the checks of an access's home (R489), and instruction fetch (R290, R492). -/

namespace Sys2Proof.Machine

/-! ## Page-table entries (R193) and walks (R194) -/

/-- A leaf: the page's physical base, its size in bits and its rights. -/
structure Leaf where
  base : Nat
  bits : Nat
  nc : Bool
  ro : Bool
  u : Bool
  x : Bool
  w : Bool
  r : Bool
deriving DecidableEq, Repr

/-- Bits of the page a leaf at level 1, 2 or 3 maps. -/
def pageBits (level : Nat) : Nat := if level = 1 then 33 else if level = 2 then 23 else 13

/-- What an entry says: refused, a leaf, or the next table. -/
inductive Pte where
  | refused
  | leaf (l : Leaf)
  | table (pa : Nat)
deriving DecidableEq, Repr

/-- Reads an entry at a level (R193). -/
def readPte (e : Word) (level : Nat) : Pte :=
  let pa := fld e 42 13 * 2 ^ 13
  if !e.getLsbD 0 then .refused
  else if e &&& (bitsMask 63 43 ||| bitsMask 12 8) != 0 then .refused
  else if e.getLsbD 6 && e.getLsbD 3 then .refused
  else if e.getLsbD 1 then
    (if pa % 2 ^ pageBits level != 0 then .refused
     else .leaf ⟨pa, pageBits level, e.getLsbD 7, e.getLsbD 6, e.getLsbD 5, e.getLsbD 4, e.getLsbD 3, e.getLsbD 2⟩)
  else if level = 3 then .refused else .table pa

/-- The index of an address at a level (R192). -/
def ptIndex (va level : Nat) : Nat := va / 2 ^ pageBits level % 1024

abbrev WalkRes := Except WalkFault Leaf

/-- Walks n levels from a table; reach gives the device physical address of a table word (stage 2 under stage 1). A table word
that reads poisoned counts as V = 0 (R525). -/
def walkTable (s : State) (reach : Nat → Except WalkFault Nat) (stage : BitVec 2) (va : Nat) : (n : Nat) → (table : Nat) → WalkRes
  | 0, _ => .error ⟨va / 2 ^ 13, none, 3, stage⟩
  | n + 1, table => do
    let level := 3 - n
    let pa ← reach (table + 8 * ptIndex va level)
    match home s pa with
    | .hole => .error ⟨va / 2 ^ 13, some pa, BitVec.ofNat 2 level, stage⟩
    | .hub => .error ⟨va / 2 ^ 13, some pa, BitVec.ofNat 2 level, stage⟩
    | _ =>
      if poisoned s pa then .error ⟨va / 2 ^ 13, none, BitVec.ofNat 2 level, stage⟩
      else match readPte (wordAt s pa) level with
        | .refused => .error ⟨va / 2 ^ 13, none, BitVec.ofNat 2 level, stage⟩
        | .leaf l => .ok l
        | .table t => walkTable s reach stage va n t

/-- The stage-2 root of a function; zero: no stage 2 (R280). -/
def s2Root (s : State) (f : Nat) : Nat := fld (hubGet s (rS2root f)) 42 13 * 2 ^ 13
def vmidOf (s : State) (f : Nat) : BitVec 16 := (hubGet s (rS2root f)).extractLsb' 48 16

/-- Stage 2 of a guest physical address. -/
def stage2 (s : State) (f gpa : Nat) : WalkRes :=
  if s2Root s f = 0 then .ok ⟨0, 43, false, false, true, true, true, true⟩
  else walkTable s .ok 2 gpa 3 (s2Root s f)

/-- The device physical address of a guest physical one. -/
def reach2 (s : State) (f gpa : Nat) : Except WalkFault Nat := do
  let l ← stage2 s f gpa
  .ok (if l.bits = 43 then gpa else l.base + gpa % 2 ^ l.bits)

/-- Both stages of a virtual address: the TLB entry the walk yields (R194, R195). -/
def walkVa (s : State) (f : Nat) (ptroot : Word) (va : Nat) : Except WalkFault TlbEntry := do
  let root := fld ptroot 42 13 * 2 ^ 13
  if root = 0 then .error ⟨va / 2 ^ 13, none, 1, 1⟩
  else
    let l1 ← walkTable s (reach2 s f) 1 va 3 root
    let gpa := l1.base + va % 2 ^ l1.bits
    let l2 ← stage2 s f gpa
    let pa := if l2.bits = 43 then gpa else l2.base + gpa % 2 ^ l2.bits
    let bits := min l1.bits l2.bits
    .ok ⟨ptroot.extractLsb' 48 16, vmidOf s f, va / 2 ^ bits * 2 ^ bits, bits, pa / 2 ^ bits * 2 ^ bits,
      l1.nc || l2.nc, l1.ro || l2.ro, l1.u, l1.x, l1.w, l1.r, l2.x, l2.w, l2.r⟩

/-- The device addresses of the table words a walk of n levels reads; before gives those of stage 2 for each of them. -/
def tableReads (s : State) (reach : Nat → Except WalkFault Nat) (before : Nat → List Nat) (va : Nat) : (n : Nat) → (table : Nat) → List Nat
  | 0, _ => []
  | n + 1, table =>
    let word := table + 8 * ptIndex va (3 - n)
    before word ++ (match reach word with
      | .error _ => []
      | .ok pa => pa :: (match readPte (wordAt s pa) (3 - n) with
        | .table t => tableReads s reach before va n t
        | _ => []))

/-- The table words a walk of a virtual address reads, up to 15 (R194). -/
def walkReads (s : State) (f : Nat) (ptroot : Word) (va : Nat) : List Nat :=
  let root := fld ptroot 42 13 * 2 ^ 13
  let two := fun gpa => if s2Root s f = 0 then [] else tableReads s .ok (fun _ => []) gpa 3 (s2Root s f)
  tableReads s (reach2 s f) two va 3 root ++ (match walkTable s (reach2 s f) 1 va 3 root with
    | .ok l => two (l.base + va % 2 ^ l.bits)
    | .error _ => [])

/-! ## TLBs (R195) -/

def TlbEntry.covers (e : TlbEntry) (asid vmid : BitVec 16) (va : Nat) : Bool :=
  e.asid = asid && e.vmid = vmid && e.vbase ≤ va && va < e.vbase + 2 ^ e.bits

def TlbEntry.pa (e : TlbEntry) (va : Nat) : Nat := e.pbase + (va - e.vbase)

/-- The entry that translates an address, micro-TLB first. -/
def tlbFind (s : State) (asid vmid : BitVec 16) (va : Nat) : Option TlbEntry :=
  match s.core.utlb.find? (·.covers asid vmid va) with
  | some e => some e
  | none => s.clu.tlb.find? (·.covers asid vmid va)

/-- Adds an entry; when the level is full a free one is replaced (R195, log 11). -/
def tlbAdd (cap pick : Nat) (es : List TlbEntry) (e : TlbEntry) : List TlbEntry :=
  if es.length < cap then es ++ [e] else es.eraseIdx (pick % cap) ++ [e]

/-- Fills both levels. -/
def tlbFill (s : State) (e : TlbEntry) : State :=
  let pick := Config.freeChoice s.fresh
  { s with
    fresh := s.fresh + 1
    core := { s.core with utlb := tlbAdd 32 pick s.core.utlb e }
    clu := { s.clu with tlb := tlbAdd 1024 pick s.clu.tlb e } }

/-- The ASID in force and the virtual machine id of the strand's function. -/
def State.asid (s : State) : BitVec 16 := s.core.ptroot.extractLsb' 48 16
def State.vmid (s : State) : BitVec 16 := vmidOf s s.func

/-! ## A strand's access -/

/-- Kinds of access, for the rights they need. -/
inductive Want where
  | read | write | fetch
deriving DecidableEq, Repr

/-- A translated address: physical, NC and RO. -/
structure Xlat where
  pa : Nat
  nc : Bool
  ro : Bool
deriving DecidableEq, Repr

def writeBit (w : Want) : Nat := if w = .write then 0x100 else 0

/-- EXTRA of XLATE (R461). -/
def xlateExtra (w : Want) (f : WalkFault) : Word := word (writeBit w + 4 * f.level.toNat + f.stage.toNat)

/-- The stop of a walk that failed. -/
def walkStop (w : Want) (va : Word) (f : WalkFault) : Stop :=
  match f.hole with
  | some pa => .freeze cHOLE (word pa) va
  | none => .freeze cXLATE (xlateExtra w f) va

/-- Which stage refuses the access, if either (R193, R194). -/
def permStage (e : TlbEntry) (w : Want) (user : Bool) : Option Nat :=
  let s1 := match w with | .read => e.r | .write => e.w && !e.ro | .fetch => e.x
  let s2 := match w with | .read => e.r2 | .write => e.w2 | .fetch => e.x2
  if !s1 || (user && !e.u) then some 1 else if !s2 then some 2 else none

/-- The translation of a virtual address for strand k, with the stage that refuses the access, if one does (R170, R192-R196). -/
def lookup (s : State) (k : Fin 16) (va : Nat) (w : Want) : Res (Option Nat × Xlat) :=
  let x := s.strand k
  let v := word va
  if va < Config.tcmBytes then .ok (if w = .fetch then some 1 else none, ⟨tcmPa s.core.gcore va, false, false⟩)
  else if fld s.core.ptroot 42 13 = 0 then .error (.freeze cXLATE (xlateExtra w ⟨0, none, 1, 1⟩) v)
  else match tlbFind s s.asid s.vmid va with
    | some e => .ok (permStage e w (!x.kernel), ⟨e.pa va, e.nc, e.ro⟩)
    | none =>
      match x.walked.find? (fun f => f.vpn = va / 2 ^ 13) with
      | some f => .error (walkStop w v f)
      | none => .error (.miss (va / 2 ^ 13))

/-- The PERM stop of a refused access. -/
def permStop (w : Want) (va stage : Nat) : Stop := .freeze cPERM (word (writeBit w + stage)) (word va)

/-- Translates a virtual address for strand k and checks the rights of its page. -/
def translate (s : State) (k : Fin 16) (va : Nat) (w : Want) : Res Xlat := do
  let x ← lookup s k va w
  match x.1 with
  | some st => .error (permStop w va st)
  | none => .ok x.2

/-- The cluster of the core, its die, and a global core's cluster (R25). -/
def State.cluster (s : State) : Nat := s.core.gcore / 16
def State.dieNo (s : State) : Nat := s.core.gcore / 1536

/-- A cluster of the strand's partition (R281). -/
def inPartition (s : State) (cl : Nat) : Bool :=
  (hubGet s (rPart s.part (1 + cl / 64))).getLsbD (cl % 64)

/-- Kinds of access for the home's check. -/
inductive Shape where
  | scalar (size : Nat)
  | vector
  | atomic
  | fullEmpty
deriving DecidableEq, Repr

/-- An offset of the debug window that holds nothing (R472). -/
def debugHole (off : Nat) : Bool :=
  !(decide (off < 0x8A08) || (decide (0x8A40 ≤ off) && decide (off < 0x8A80)) || (decide (0xC000 ≤ off) && decide (off < 0xD020)) ||
    (decide (0xE000 ≤ off) && decide (off < 0xE008)) || (decide (0xE100 ≤ off) && decide (off < 0xE500)) ||
    (decide (0xE800 ≤ off) && decide (off < 0xEA00)))

/-- The check of the home (R489, R486, R172, R472): the stop it ends in, if any. A full/empty access outside TCM data is ATOMIC whatever else
its address is (R462). -/
def homeStop (s : State) (k : Fin 16) (pa : Nat) (sh : Shape) : Option Stop :=
  let hole := some (Stop.freeze cHOLE (word pa) 0)
  let atom := some (Stop.freeze cATOMIC (word pa) 0)
  match home s pa with
  | .hole => if sh = .fullEmpty then atom else hole
  | .hub => if sh = .atomic || sh = .fullEmpty then atom else hole
  | .hbm => if sh = .fullEmpty then atom else none
  | .sram _ _ => if sh = .fullEmpty then atom else none
  | .host => if sh = .atomic || sh = .fullEmpty then atom else none
  | .spad cl _ => if sh = .fullEmpty then atom else if !inPartition s cl && cl != s.cluster then hole else none
  | .tcm core _ => if !inPartition s (core / 16) && core != s.core.gcore then hole else none
  | .tagView core _ | .feView core _ =>
    if sh = .atomic || sh = .fullEmpty then atom
    else if !inPartition s (core / 16) && core != s.core.gcore then hole else none
  | .debug core off =>
    if sh = .atomic || sh = .fullEmpty then atom
    else if !(s.strand k).kernel then some (.freeze cPRIV 0 0)
    else if sh != .scalar 8 || debugHole off then hole
    else if !inPartition s (core / 16) && core != s.core.gcore then hole else none

/-- Puts the virtual address into a stop of the home's check. -/
def Stop.withVa (va : Nat) : Stop → Stop
  | .freeze c e _ => .freeze c e (word va)
  | x => x

/-- The place of a stop in the order of R462. A walk still to be made comes first: what it finds is not yet known. -/
def Stop.rank : Stop → Nat
  | .freeze c _ _ =>
    if c = cPRIV then 1 else if c = cATOMIC then 2 else if c = cXLATE then 3 else if c = cPERM then 4 else if c = cHOLE then 5 else 6
  | _ => 0

/-- Of two stops the one R462 puts first, and of two alike the first. -/
def Stop.first : Option Stop → Option Stop → Option Stop
  | some a, some b => if b.rank < a.rank then some b else some a
  | some a, none => some a
  | none, b => b

/-- What stops one access of the issuing strand, by its translation and its home. -/
def reachStop (s : State) (va : Nat) (w : Want) (sh : Shape) : Option Stop :=
  match lookup s s.cur va w with
  | .error e => some e
  | .ok x => Stop.first (x.1.map (permStop w va)) ((homeStop s s.cur x.2.pa sh).map (Stop.withVa va))

/-- The stop of an instruction that makes several accesses (R462, R480). -/
def reachCheck (s : State) (as : List (Nat × Want × Shape)) : Res Unit :=
  match as.foldl (fun b a => Stop.first b (reachStop s a.1 a.2.1 a.2.2)) none with
  | some e => .error e
  | none => .ok ()

/-- Translation and home of one access of the issuing strand, in the order of R462. -/
def reachOne (s : State) (va : Nat) (w : Want) (sh : Shape) : Res Xlat := do
  reachCheck s [(va, w, sh)]
  translate s s.cur va w

/-- ALIGN (R487): EXTRA the alignment. -/
def aligned (a : Word) (n : Nat) : Res Unit :=
  if a.toNat % n = 0 then .ok () else .error (.freeze cALIGN (word n) (a &&& bitsMask 42 0))

/-- Bits [63:43] of a computed address are ignored (R384). -/
def vaOf (a : Word) : Nat := a.toNat % 2 ^ 43

/-! ## An engine's access: at once, through the TLB or by a walk (R400) -/

/-- Translates for an engine acting for strand k; the status of R463 when it fails. -/
def engineXlat (s : State) (va : Nat) (w : Want) (user : Bool) : Except (BitVec 8) Nat :=
  if va < Config.tcmBytes then .ok (tcmPa s.core.gcore va)
  else
    let e := match tlbFind s s.asid s.vmid va with
      | some e => Except.ok e
      | none => walkVa s s.func s.core.ptroot va
    match e with
    | .error f => if f.hole.isSome then .error 0x47 else .error 0x45
    | .ok e =>
      if (permStage e w user).isSome then .error 0x46
      else match home s (e.pa va) with
        | .hole | .hub => .error 0x47
        | .spad cl _ => if inPartition s cl || cl = s.cluster then .ok (e.pa va) else .error 0x47
        | .tcm core _ | .tagView core _ | .feView core _ =>
          if inPartition s (core / 16) || core = s.core.gcore then .ok (e.pa va) else .error 0x47
        | .debug _ _ => .error 0x47
        | _ => .ok (e.pa va)

/-! ## Fetch (R290, R492) -/

/-- What a fetch finds. -/
inductive Fetched where
  | word (w : BitVec 32)
  | fault (why : FetchWhy)
  | miss (vpn : Nat)
deriving DecidableEq, Repr

/-- Fetches the word at strand k's PC, at an address whose home a strand may load from (R489, R492). The spec gives a fetch no service unit, no
cache and no wait beyond its translation, and R73 lists no stall for it (DESIGN CHOICE, log 26). -/
def fetchAt (s : State) (k : Fin 16) : Fetched :=
  let va := (s.strand k).pc.toNat
  match translate s k va .fetch with
  | .ok x =>
    (match homeStop s k x.pa .vector with
     | some _ => .fault .hole
     | none => if poisoned s x.pa then .fault (.poison (BitVec.ofNat 43 x.pa))
            else .word (BitVec.ofNat 32 (bytesAt s x.pa 4)))
  | .error (.miss vpn) => .miss vpn
  | .error (.freeze c _ _) => if c = cPERM then .fault .perm else if c = cHOLE then .fault .hole else .fault .xlate
  | .error _ => .fault .xlate

end Sys2Proof.Machine
end

