-- ==== Sys2Proof/Machine/SysRegs.lean ====
section
/-! DEFINITION. System registers by number (R117-R129, R197, R469, R477): what each reads as, which bits a write reaches, which
values fail (R491), the rights of user mode (R486), and the debug window over a strand's state (R472-R474). -/

namespace Sys2Proof.Machine

/-! ## Rights (R118, R126, R128, R129, R197, R469, R477, R486) -/

/-- Is a register implemented at the number? -/
def sysExists (n : Nat) : Bool :=
  n ≤ 0x008 || (0x010 ≤ n && n ≤ 0x012) || (0x018 ≤ n && n ≤ 0x01B) || n = 0x020 || n = 0x021 ||
  (0x100 ≤ n && n ≤ 0x106) || n = 0x200 || (0x210 ≤ n && n < 0x228) || n = 0x400 || n = 0x401

/-- What user mode may read. -/
def sysUserRead (n : Nat) : Bool :=
  n = 0x000 || n = 0x001 || n = 0x002 || n = 0x010 || n = 0x011 || n = 0x012 || n = 0x01B || n = 0x021 ||
  n = 0x100 || n = 0x102 || n = 0x103 || n = 0x200 || n = 0x400 || n = 0x401

/-- What user mode may write. -/
def sysUserWrite (n : Nat) : Bool := n = 0x010 || n = 0x011 || n = 0x012 || n = 0x01B

/-- Stage 1 of R480 for SRR, SRW and SRX: an unassigned number is ILLINS, a privileged number or a missing right PRIV. -/
def sysCheck (x : Strand) (n : Nat) (rd wr : Bool) (ins : BitVec 32) : Res Unit :=
  if 0x800 ≤ n then freezeWith cPRIV (word n)
  else if !sysExists n then freezeWith cILLINS (ins.zeroExtend 64)
  else if !x.kernel && ((rd && !sysUserRead n) || (wr && !sysUserWrite n)) then freezeWith cPRIV (word n)
  else .ok ()

/-! ## Reading -/

/-- ROFF of a partition under REPLAY, in wheels; and that of the core's partition in cycles (R548). -/
def partLag (s : State) (p : Nat) : Nat := if replays s p then fld (hubGet s (rJay p 4)) 55 0 else 0
def replayLag (s : State) : Nat := 256 * partLag s s.part

/-- TIME (R126): global time as the strand's partition observes it. -/
def timeOf (s : State) : Nat := s.now - replayLag s

/-- The wheel DEADLINE fields are compared with (R247, R548). -/
def seenWheel (s : State) : Nat := timeOf s / 256

/-- Pending interrupts (R121, R399): TIMER, MBOX of the endpoints the strand armed with INT, SOFT. -/
def timerPending (s : State) (x : Strand) : Bool := decide (x.timecmp.toNat ≤ timeOf s)
def mboxPending (s : State) (k : Fin 16) : Option (Fin 64) :=
  (List.finRange 64).find? fun e =>
    let ep := s.core.recv[e]
    ep.pend && (match ep.arming with | some a => a.int && a.strand = k | none => false)
def ipend (s : State) (k : Fin 16) : Word :=
  flag (s.strand k).soft 2 ||| flag (mboxPending s k).isSome 1 ||| flag (timerPending s (s.strand k)) 0

/-- STRANDID (R124). -/
def strandId (s : State) (k : Fin 16) : Word :=
  word (pkgNo s <<< 24 ||| (s.core.gcore % 0x4000) <<< 4 ||| k.val)

/-- CTSTAT (R126). -/
def ctstat (s : State) : Word :=
  let es := s.core.table.toList
  word ((es.filter (·.state = .filled)).length <<< 8 ||| (es.filter (·.state = .free)).length)

/-- FPOR (R123): the modelled strands' flags 16 cycles before, with what the cluster's other cores add (free, log 15). -/
def fpor (s : State) : Word :=
  let own := (s.clu.flagsPast[15]?).getD 0
  own.zeroExtend 64 ||| (Config.freeWord s.fresh &&& 0x1F)

/-- LOOPNX, LOOPRM or LOOPCF (R128). -/
def loopReg (s : State) (n : Nat) : Word :=
  let c := s.clu.loops[n % 8]'(Nat.mod_lt _ (by decide))
  if n < 0x218 then word c.next else if n < 0x220 then word c.remaining else word (c.minchunk <<< 16 ||| c.parts)

def sysRead (s : State) (k : Fin 16) (n : Nat) : Word :=
  let x := s.strand k
  match n with
  | 0x000 => x.mode
  | 0x001 => strandId s k
  | 0x002 => x.strole
  | 0x003 => x.tvec
  | 0x004 => x.tepc
  | 0x005 => x.tcause
  | 0x006 => x.tval
  | 0x007 => x.ien
  | 0x008 => ipend s k
  | 0x010 => x.fpmode
  | 0x011 => x.fpflags
  | 0x012 => x.sigthr
  | 0x018 => x.winbase
  | 0x019 => x.winstate
  | 0x01A => x.lvtbase
  | 0x01B => x.tagbase
  | 0x020 => x.timecmp
  | 0x021 => x.latcnt
  | 0x100 => word (timeOf s)
  | 0x101 => s.core.agelim
  | 0x102 => s.core.accmap
  | 0x103 => ctstat s
  | 0x104 => s.core.ptroot
  | 0x106 => s.core.fqcfg
  | 0x200 => fpor s
  | 0x400 => word s.dieNo
  | 0x401 => s.die.cecnt
  | n => if 0x210 ≤ n && n < 0x228 then loopReg s n else 0

/-! ## Writing -/

/-- The RW bits of a register (R81, R85, R118-R127, R197, R469); other bits keep their values (R334). -/
def sysMask (n : Nat) : Word :=
  match n with
  | 0x000 => 0xE
  | 0x002 => 0xC030
  | 0x003 | 0x004 => bitsMask 42 2
  | 0x005 => bitsMask 63 63 ||| bitsMask 7 0
  | 0x006 | 0x020 | 0x021 => bitsMask 63 0
  | 0x007 => 7
  | 0x010 => 0xF
  | 0x011 => 0x1F
  | 0x012 => 0x7F
  | 0x018 => bitsMask 48 39 ||| bitsMask 16 7
  | 0x019 => bitsMask 31 16 ||| bitsMask 6 0
  | 0x01A => bitsMask 42 3
  | 0x01B => bitsMask 42 0
  | 0x101 => bitsMask 12 0
  | 0x102 => 0x8F8F8F8F8F8F8F8F
  | 0x104 => bitsMask 63 48 ||| bitsMask 42 13
  | 0x106 => bitsMask 55 48 ||| bitsMask 16 6
  | _ => 0

/-- Values outside their range (R491). -/
def sysBad (n : Nat) (v : Word) : Bool :=
  match n with
  | 0x010 => decide (5 ≤ fld v 2 0)
  | 0x012 => decide (65 ≤ fld v 6 0)
  | 0x101 => decide (fld v 12 0 < 16) || decide (4096 < fld v 12 0)
  | 0x019 => fld v 6 4 = 0 || fld v 3 0 = 15
  | 0x106 => decide (0x20000 < fld v 16 6 * 64 + 64 + 64 * fld v 55 48)
  | n => if 0x220 ≤ n && n < 0x228 then fld v 39 16 = 0 || fld v 15 0 = 0 else false

/-- The register after a write under its map. -/
def masked (old v m : Word) : Word := (old &&& ~~~m) ||| (v &&& m)

/-- Stores a per-strand or per-core register; TLBINV and the loop registers are requests to other units (R198, R335). -/
def sysStore (s : State) (k : Fin 16) (n : Nat) (v : Word) : State :=
  let m := sysMask n
  match n with
  | 0x000 => s.modStrand k fun x => { x with mode := masked x.mode v m }
  | 0x002 => s.modStrand k fun x => { x with strole := masked x.strole v m }
  | 0x003 => s.modStrand k fun x => { x with tvec := masked x.tvec v m }
  | 0x004 => s.modStrand k fun x => { x with tepc := masked x.tepc v m }
  | 0x005 => s.modStrand k fun x => { x with tcause := masked x.tcause v m }
  | 0x006 => s.modStrand k fun x => { x with tval := masked x.tval v m }
  | 0x007 => s.modStrand k fun x => { x with ien := masked x.ien v m }
  | 0x008 => s.modStrand k fun x => { x with soft := v.getLsbD 2 }
  | 0x010 => s.modStrand k fun x => { x with fpmode := masked x.fpmode v m }
  | 0x011 => s.modStrand k fun x => { x with fpflags := masked x.fpflags v m }
  | 0x012 => s.modStrand k fun x => { x with sigthr := masked x.sigthr v m }
  | 0x018 => s.modStrand k fun x => { x with winbase := masked x.winbase v m }
  | 0x019 => s.modStrand k fun x => { x with winstate := masked x.winstate v m }
  | 0x01A => s.modStrand k fun x => { x with lvtbase := masked x.lvtbase v m }
  | 0x01B => s.modStrand k fun x => { x with tagbase := masked x.tagbase v m }
  | 0x020 => s.modStrand k fun x => { x with timecmp := masked x.timecmp v m }
  | 0x021 => s.modStrand k fun x => { x with latcnt := masked x.latcnt v m }
  | 0x101 => s.withCore fun c => { c with agelim := masked c.agelim v m }
  | 0x102 => s.withCore fun c => { c with accmap := masked c.accmap v m }
  | 0x104 => s.withCore fun c => { c with ptroot := masked c.ptroot v m }
  | 0x106 => s.withCore fun c => { c with fqcfg := masked c.fqcfg v m }
  | _ => s

/-! ## The debug window (R472-R474) -/

def Wait.code : Wait → Nat
  | .barrier _ _ _ _ _ => 1
  | .queueEmpty _ => 2
  | .queueFull _ => 3
  | .wordEmpty _ => 4
  | .wordFull _ => 5
  | .register _ => 6

def RunState.code : RunState → Nat
  | .ready => 0 | .stalled _ => 1 | .parked _ => 2 | .yielded => 2 | .dormant => 3 | .halted => 4 | .absent => 5
  | .frozen => 6

def RunState.waitCode : RunState → Nat
  | .parked w => w.code
  | _ => 0

/-- Is any fill or unfilled handle of the strand outstanding? -/
def boundPending (x : Strand) : Bool :=
  let p := fun (r : Reg) => !r.full && r.bind.isSome
  x.w.toList.any p || x.ring.toList.any p || x.o.toList.any p || p x.lat || x.v.toList.any (fun r => !r.full && r.bind.isSome)

def dstat (x : Strand) : Word :=
  word (x.cause.toNat <<< 56 ||| x.tpend.isSome.toNat <<< 9 ||| (boundPending x).toNat <<< 8 |||
    x.run.waitCode <<< 4 ||| x.run.code)

/-- The register a code 0-48 names; queue codes have none in a strand area. -/
def regOfCode (x : Strand) (c : Nat) : Option Loc := locOf x.frm (BitVec.ofNat 6 c)

/-- The register whose side byte stands at a code of 0-48; of a queue its head, and an empty queue has none (log 66). -/
def sideReg (s : State) (x : Strand) (c : Nat) : Option Reg :=
  match queueOf (BitVec.ofNat 6 c) with
  | some q => (s.core.queues[q]).head?
  | none => if c < 49 then (regOfCode x c).map x.reg else none

/-- A side byte: full in [7], tag in [6:0]. -/
def sideByte (s : State) (x : Strand) (c : Nat) : Nat :=
  match sideReg s x c with
  | some r => r.full.toNat * 128 + r.tag.val
  | none => 0

def sideWord (s : State) (x : Strand) (c0 : Nat) : Word :=
  word ((List.range 8).foldr (fun i a => sideByte s x (c0 + i) + 256 * a) 0)

/-- A word of a strand area (R473). -/
def strandAreaRead (s : State) (k : Fin 16) (o : Nat) : Word :=
  let x := s.strand k
  if o = 0 then dstat x
  else if o = 8 then x.pc.zeroExtend 64
  else if x.run != .frozen then 0
  else if 0x40 ≤ o && o < 0x180 then
    (match regOfCode x ((o - 0x40) / 8) with | some l => (x.reg l).val | none => 0)
  else if o = 0x180 then x.lat.val
  else if 0x1C0 ≤ o && o < 0x1F8 then sideWord s x (o - 0x1C0)
  else if 0x200 ≤ o && o < 0x400 then sysRead s k ((o - 0x200) / 8)
  else 0

/-- DSEL's strand and tile. -/
def dselStrand (s : State) : Fin 16 := ⟨fld s.core.dsel 3 0 % 16, Nat.mod_lt _ (by decide)⟩
def dselTile (s : State) : Fin 8 := ⟨fld s.core.dsel 10 8 % 8, Nat.mod_lt _ (by decide)⟩

/-- The owner ACCMAP gives a tile. -/
def tileOwner (accmap : Word) (n : Nat) : Option (Fin 16) :=
  if fld accmap (8 * n + 7) (8 * n + 7) = 1 then some ⟨fld accmap (8 * n + 3) (8 * n) % 16, Nat.mod_lt _ (by decide)⟩ else none

/-- Whether the selected tile may be seen: its owner is frozen. -/
def tileSeen (s : State) : Bool :=
  match tileOwner s.core.accmap (dselTile s).val with
  | some k => (s.strand k).run = .frozen
  | none => false

def centryWord (s : State) (e : CEntry) (i : Fin 128) : Word :=
  let st := match e.state with | .free => 0 | .pending => 1 | .filled => 2
  let x := s.strand e.strand
  let code := ((List.range 40).find? fun c => match regOfCode x c with
    | some l => (x.reg l).bind = some (.handle i)
    | none => false).getD 0
  word (st <<< 62 ||| code <<< 52 ||| e.strand.val <<< 48 ||| e.status.toNat <<< 16 ||| e.gen.toNat)

/-- Tags of eight groups or rows packed as bytes. -/
def packTags (f : Nat → Nat) : Word := word ((List.range 8).foldr (fun i a => f i + 256 * a) 0)

/-- Group tag i of vector n. -/
def groupTag (x : Strand) (i : Nat) : Nat :=
  (((x.v.toList[i / 16]?).map (fun r => (r.lanes.tags.toList[i % 16]?).map (·.val))).join).getD 0

/-- An 8-byte word of the window; none at an unlisted offset, a hole. -/
def debugRead (s : State) (off : Nat) : Option Word :=
  let k := dselStrand s
  let x := s.strand k
  let seen : Bool := x.run = .frozen
  if off < 0x8000 then some (strandAreaRead s ⟨off / 0x800 % 16, Nat.mod_lt _ (by decide)⟩ (off % 0x800))
  else if off < 0x8800 then
    some (if seen then ((x.v.toList[(off - 0x8000) / 64]?).map
      (fun r => r.lanes.bits.extractLsb' (64 * (off % 64 / 8)) 64)).getD 0 else 0)
  else if off < 0x8A00 then some (if seen then packTags (fun i => groupTag x (off - 0x8800 + i)) else 0)
  else if off = 0x8A00 then
    some (if seen then word ((List.range 32).foldr (fun i a => ((x.v.toList[i]?).map (·.full.toNat)).getD 0 + 2 * a) 0) else 0)
  else if 0x8A40 ≤ off && off < 0x8A80 then 
    some (if !seen then 0 else if (off - 0x8A40) / 8 = 0 then word (2 ^ 64 - 1) else (x.m.toList[(off - 0x8A40) / 8]?).getD 0)
  else if 0xC000 ≤ off && off < 0xD000 then
    (let t := s.core.acc[dselTile s]
     let el := fun j => ((t.rows.toList[(off - 0xC000) / 128]?).map (fun r => (r.toList[j]?).getD 0)).getD (0 : BitVec 32)
     let j := (off - 0xC000) % 128 / 4
     some (if tileSeen s then (el (j + 1)).zeroExtend 64 <<< 32 ||| (el j).zeroExtend 64 else 0))
  else if 0xD000 ≤ off && off < 0xD020 then
    some (if tileSeen s then packTags (fun i => (((s.core.acc[dselTile s]).tags.toList[off - 0xD000 + i]?).map (·.val)).getD 0)
          else 0)
  else if off = 0xE000 then some s.core.dsel
  else if 0xE100 ≤ off && off < 0xE500 then
    some (let i : Fin 128 := ⟨(off - 0xE100) / 8 % 128, Nat.mod_lt _ (by decide)⟩
          centryWord s s.core.table[i] i)
  else if 0xE800 ≤ off && off < 0xEA00 then
    some ((((s.core.queues.toList[(off - 0xE800) / 64]?).map (fun q => (q[off % 64 / 8]?).map (·.val))).join).getD 0)
  else none

/-- A word of the tile view holds a poisoned element (R528). -/
def debugPoison (s : State) (off : Nat) : Bool :=
  decide (0xC000 ≤ off) && decide (off < 0xD000) && tileSeen s &&
    ((s.core.acc[dselTile s]).poison.any fun e => e.1.val = (off - 0xC000) / 128 && e.2.val / 2 = (off - 0xC000) % 128 / 8)

/-- A write to a register of a frozen strand; one bound to a pending fill is not written. -/
def pokeReg (x : Strand) (c : Nat) (f : Reg → Reg) : Strand :=
  match regOfCode x c with
  | some l => if !(x.reg l).full && (x.reg l).bind.isSome then x else x.setReg l (f (x.reg l))
  | none => x

/-- A write to the head of a queue that is not bound to a pending fill. -/
def pokeHead (s : State) (q : Fin 8) (f : Reg → Reg) : State :=
  match s.core.queues[q] with
  | r :: rest => if !r.full && r.bind.isSome then s else s.withCore fun c => { c with queues := c.queues.set q (f r :: rest) }
  | [] => s

/-- Eight side bytes; a tag above 64 is stored as 64. -/
def pokeSides (s : State) (k : Fin 16) (c0 : Nat) (v : Word) : State :=
  (List.range 8).foldl (fun s i =>
    let f := fun (r : Reg) => { r with tag := Tag.ofNat (fld v (8 * i + 6) (8 * i)), full := v.getLsbD (8 * i + 7) }
    match queueOf (BitVec.ofNat 6 (c0 + i)) with
    | some q => pokeHead s q f
    | none => if c0 + i < 49 then s.modStrand k fun x => pokeReg x (c0 + i) f else s) s

/-- A write of a register's value: discarded under a pending fill, and one over a filled handle frees its entry (R112, R473). -/
def pokeVal (s : State) (k : Fin 16) (c : Nat) (v : Word) : State :=
  let x := s.strand k
  match regOfCode x c with
  | some l =>
    if !(x.reg l).full && (x.reg l).bind.isSome then s
    else (dropHandle s (x.reg l)).setStrand k (x.setReg l { x.reg l with val := v, bind := none })
  | none => s

/-- A write of a strand area (R473); DCTL's command goes on the agenda (R474). -/
def strandAreaWrite (s : State) (k : Fin 16) (o : Nat) (v : Word) : State :=
  let x := s.strand k
  if x.run != .frozen then s
  else if o = 8 then s.setStrand k { x with pc := pcOf v }
  else if o = 0x10 then
    (if v = 1 then s.at s.now (.dctlResume k)
     else if v = 2 then s.at s.now (.dctlHalt k)
     else if v = 3 then s.at s.now (.dctlKill k) else s)
  else if 0x40 ≤ o && o < 0x180 then pokeVal s k ((o - 0x40) / 8) v
  else if o = 0x180 then pokeVal s k 48 v
  else if 0x1C0 ≤ o && o < 0x1F8 then pokeSides s k (o - 0x1C0) v
  else if 0x200 ≤ o && o < 0x400 then
    (let n := (o - 0x200) / 8
     if sysExists n && !sysBad n v then sysStore s k n v else s)
  else s

/-- Replaces bits [64 j + 63 : 64 j] of a vector register. -/
def pokeLane (b : BitVec 512) (j : Nat) (v : Word) : BitVec 512 :=
  (b &&& ~~~(((0xFFFFFFFFFFFFFFFF : BitVec 64).zeroExtend 512) <<< (64 * j))) ||| (v.zeroExtend 512 <<< (64 * j))

/-- Changes the element at a place, if the place exists. -/
def vmodify {α : Type} {n : Nat} (v : Vector α n) (i : Nat) (f : α → α) : Vector α n :=
  Vector.ofFn fun j => if j.val = i then f v[j] else v[j]

/-- Sets eight tags from the bytes of a word. -/
def pokeTags {n : Nat} (ts : Vector Tag n) (i0 : Nat) (v : Word) : Vector Tag n :=
  (List.range 8).foldl (fun t i => vmodify t (i0 + i) fun _ => Tag.ofNat (fld v (8 * i + 6) (8 * i))) ts

/-- Changes a vector register that is not bound to a pending fill. -/
def pokeVec (s : State) (k : Fin 16) (n : Nat) (f : VReg → VReg) : State :=
  let g : VReg → VReg := fun r => if !r.full && r.bind.isSome then r else f r
  s.modStrand k fun x => { x with v := vmodify x.v n g }

/-- Changes the selected tile. -/
def pokeTile (s : State) (f : Acc → Acc) : State :=
  s.withCore fun c => { c with acc := vmodify c.acc (dselTile s).val f }

/-- Two elements of a row. -/
def pokeRow (t : Acc) (i j : Nat) (v : Word) : Acc :=
  let g : Vector (BitVec 32) 32 → Vector (BitVec 32) 32 := fun r =>
    vmodify (vmodify r j fun _ => v.extractLsb' 0 32) (j + 1) fun _ => v.extractLsb' 32 32
  { t with rows := vmodify t.rows i g }

/-- An 8-byte write of the window. -/
def debugWrite (s : State) (off : Nat) (v : Word) : State :=
  let k := dselStrand s
  let seen : Bool := (s.strand k).run = .frozen
  if off < 0x8000 then strandAreaWrite s ⟨off / 0x800 % 16, Nat.mod_lt _ (by decide)⟩ (off % 0x800) v
  else if off < 0x8800 then
    (if seen then pokeVec s k ((off - 0x8000) / 64) fun r =>
      { r with lanes := { r.lanes with bits := pokeLane r.lanes.bits (off % 64 / 8) v } } else s)
  else if off < 0x8A00 then
    (if seen then pokeVec s k ((off - 0x8800) / 16) fun r =>
      { r with lanes := { r.lanes with tags := pokeTags r.lanes.tags (off % 16) v } } else s)
  else if off = 0x8A00 then
    (if seen then (List.range 32).foldl (fun s i => pokeVec s k i fun r => { r with full := v.getLsbD i }) s else s)
  else if 0x8A48 ≤ off && off < 0x8A80 then
    (if seen then s.modStrand k fun x => { x with m := vmodify x.m ((off - 0x8A40) / 8) fun _ => v } else s)
  else if 0xC000 ≤ off && off < 0xD000 then
    (if tileSeen s then pokeTile s fun t => pokeRow t ((off - 0xC000) / 128) ((off - 0xC000) % 128 / 4) v else s)
  else if 0xD000 ≤ off && off < 0xD020 then
    (if tileSeen s then pokeTile s fun t => { t with tags := pokeTags t.tags (off - 0xD000) v } else s)
  else if off = 0xE000 then s.withCore fun c => { c with dsel := v &&& 0x70F }
  else s

end Sys2Proof.Machine
end

