-- ==== Sys2Proof/Machine/Access.lean ====
section
/-! DEFINITION. Stores on their way: the store buffer (R201), the private cache (R184-R187), the die boundary buffer and the
write-back queue (R206), what a store does at its home, and the waiters of full/empty words (R174, R191). -/

namespace Sys2Proof.Machine

/-! ## Where an address lies (R184, R200) -/

def onDie (s : State) (pa : Nat) : Bool :=
  match home s pa with
  | .tcm c _ | .tagView c _ | .feView c _ | .debug c _ => c / 1536 = s.dieNo
  | .spad cl _ => cl / 96 = s.dieNo
  | .sram d _ => d = s.dieNo
  | _ => false

/-- The issuing core's own TCM region (R171, R385). -/
def ownTcm (s : State) (pa : Nat) : Bool :=
  match home s pa with
  | .tcm c _ | .tagView c _ | .feView c _ | .debug c _ => c = s.core.gcore
  | _ => false

/-- What the private cache may hold (R184). -/
def cacheable (s : State) (pa : Nat) (nc : Bool) : Bool :=
  !nc && match home s pa with
  | .hbm | .host => true
  | .sram d _ => d != s.dieNo
  | _ => false

/-! ## What an access reaches -/

/-- The address by which a request is placed. -/
def Access.pa : Access → Nat
  | .load p _ _ _ => p.pa
  | .acquire p _ => p.pa
  | .vector ps _ _ _ _ => (ps.head?.map fun x => x.2.1.pa).getD 0
  | .amo p _ _ => p.pa
  | .cas p _ _ => p.pa
  | .ldf pa _ => pa
  | .stf pa _ => pa
  | .write x _ => x.pa

def Access.piece : Access → Piece
  | .amo p _ _ | .cas p _ _ | .load p _ _ _ | .acquire p _ => p
  | a => ⟨a.pa, 8, true, false⟩

/-- Every piece of memory an access reads. -/
def Access.pieces : Access → List Piece
  | .vector ps _ _ _ _ => ps.map (·.2.1)
  | a => [a.piece]

/-- The memory a tag is read from (R165). -/
def TagRead.piece : TagRead → List Piece
  | .memory p => [p]
  | _ => []

/-- The pieces of the tags of an access. -/
def Access.tagPieces : Access → List Piece
  | .load _ _ t _ => t.piece
  | .vector ps _ _ _ _ => ps.flatMap (·.2.2.piece)
  | _ => []

/-! ## Order among a strand's requests (R202, R176) -/

/-- Classes of R202. -/
inductive Kind where
  | onDie | offDie | relaxed | acquire | atomic | write
deriving DecidableEq, Repr

/-- The class of an access by its data. -/
def Access.kind (s : State) : Access → Kind
  | .load p _ _ r => if r then .relaxed else if onDie s p.pa then .onDie else .offDie
  | .acquire _ _ => .acquire
  | .vector ps _ _ _ _ => if ps.any (fun x => onDie s x.2.1.pa) then .onDie else .offDie
  | .amo _ _ _ | .cas _ _ _ => .atomic
  | .ldf pa _ | .stf pa _ => if onDie s pa then .onDie else .offDie
  | .write _ _ => .write

/-- Every class an access has: a vector and a tagged access are plain accesses of each of their words (R202, R203). -/
def Access.kinds (s : State) (a : Access) : List Kind :=
  let plain := fun (p : Piece) => if onDie s p.pa then Kind.onDie else .offDie
  (match a with
   | .vector ps _ _ _ _ => ps.map fun x => plain x.2.1
   | a => [a.kind s]) ++ a.tagPieces.map plain

/-- Is a later access of the kind ordered after an earlier request (R202)? An atomic is a relaxed load and a relaxed store; a store holds later
stores only. -/
def ordersAfter (earlier later : Kind) : Bool :=
  match later with
  | .atomic | .write => true
  | .offDie => earlier = .relaxed || earlier = .acquire || earlier = .atomic
  | _ => earlier != .offDie && earlier != .write

/-- Earlier requests that an access of the core's own TCM is ordered after (R385, R202). -/
def ownTurn (s : State) (k : Fin 16) (store : Bool) : Bool :=
  !(s.core.reqs.any fun r => r.strand = k && (store || (r.acc.kinds s).any (fun e => e != .offDie && e != .write)))

/-- A relaxed load of the strand was served from an entry not yet acknowledged: its later stores wait (R208). -/
def servedHolds (s : State) (k : Fin 16) : Bool := s.die.dbb.any fun e => (s.strand k).served.contains e.id


/-! ## Full/empty words and their waiters (R174, R191) -/

def State.modRecv (s : State) (e : Fin 64) (f : RecvEp → RecvEp) : State :=
  s.withCore fun c => { c with recv := c.recv.set e (f c.recv[e]) }

/-- READY turned from full to empty: its slot becomes the reader slot (R191). -/
def readyTaken (s : State) (off : Nat) : State :=
  (List.finRange 64).foldl (fun s e =>
    match s.core.recv[e].arming with
    | some a =>
      if a.kind = .latest && a.base = off then
        s.modRecv e fun r => { r with reader := fld (wordAt s (tcmPa s.core.gcore off)) 1 0 }
      else s
    | none => s) s

/-- Sets an own TCM word empty, with what follows for a LATEST mailbox. -/
def emptyWord (s : State) (off : Nat) : State :=
  let pa := tcmPa s.core.gcore off
  if feAt s pa then setFe (readyTaken s off) pa false else s

def fillWord (s : State) (off : Nat) : State := setFe s (tcmPa s.core.gcore off) true

def dropWaiter (s : State) (w : Waiter) : State :=
  s.withCore fun c => { c with waiters := c.waiters.filter (· != w) }

/-- A strand whose LDF, LDW or STF is satisfied completes it (R389): D and lat take the word, the PC advances. -/
def waiterDone (s : State) (k : Fin 16) (d : Option Opd) (ticket : Nat) (v : Word) : State :=
  let cur := s.cur
  let t := { s with cur := k }
  let r := Reg.of v Tag.full
  let t := match d with
    | some d =>
      if (queueOf d).isSome then (fillReg t k ticket v Tag.full).mod (·.setReg .lat r)
      else match writeDest t d r with
        | .ok t => t
        | .error _ => t
    | none => t
  { (retire t).setRun k .ready with cur := cur }

/-- A place reserved in a queue is given up. -/
def unreserve (s : State) (ticket : Nat) : State :=
  let keep : Reg → Bool := fun r => !(!r.full && r.bind = some (.fill ticket))
  s.withCore fun c => { c with queues := vmap (·.filter keep) c.queues }

/-- The word at a strand's PC, for a fault packet (R470). -/
def wordAtPc (s : State) (k : Fin 16) : BitVec 32 := match fetchAt s k with | .word w => w | _ => 0

/-- A waiter on a poisoned word ends in an error (R498). -/
def waiterPoison (s : State) (k : Fin 16) (ticket pa va : Nat) : State :=
  let pc := (s.strand k).pc
  freeze ((unreserve s ticket).modStrand k Strand.next) k cPOISON true pc (word va) (word pa) (wordAtPc s k)

/-- The reply of a request of another core goes back through the cluster gateway, from the core as its source (R175, R179). -/
def queueReply (s : State) (flits : Nat) : State :=
  let gw := dieAgent s.dieNo (s.cluster % 96) 17
  ({ s with die := { s.die with gwMsgs := s.die.gwMsgs ++ [(⟨gw, s.core.gcore, flits⟩ : GwMsg)] } }).later none (.gatewaySend gw)

/-- One waiter is satisfied. -/
def satisfy (s : State) (w : Waiter) : State :=
  let pa := tcmPa s.core.gcore w.off
  let s := dropWaiter s w
  match w.by_ with
  | .remote _ => queueReply s (match w.kind with | .stf _ => 1 | _ => if poisoned s pa then 1 else 2)
  | .strand k d t =>
    if poisoned s pa then waiterPoison s k t pa w.va
    else match w.kind with
      | .stf _ => waiterDone s k none 0 0
      | _ => waiterDone s k (some d) t (wordAt s pa)

/-- The walk over a full word's waiters: every LDW, and the first LDF, which empties the word and ends the walk. -/
def walkFull (s : State) (off : Nat) : List Waiter → State × Bool
  | [] => (s, false)
  | w :: ws =>
    match w.kind with
    | .ldw => walkFull (satisfy s w) off ws
    | .ldf =>
      let bad := poisoned s (tcmPa s.core.gcore off)
      let s := satisfy s w
      (if bad then s else emptyWord s off, true)
    | .stf _ => walkFull s off ws

/-- Own TCM word waiters, in order of the cycle they began, strands before remote requests, then by number. -/
def waiterKey (w : Waiter) : Nat × Nat :=
  (w.began, match w.by_ with | .strand k _ _ => k.val | .remote g => 16 + g)

def waiterLe (a b : Waiter) : Bool :=
  let x := waiterKey a
  let y := waiterKey b
  x.1 < y.1 || (x.1 = y.1 && x.2 ≤ y.2)

/-- A request of another core. -/
def Waiter.isRemote (w : Waiter) : Bool := match w.by_ with | .remote _ => true | .strand _ _ _ => false

/-- A request of another core that began to wait in this cycle: strands of the core that issue in it come first (R174). -/
def Waiter.late (now : Nat) (w : Waiter) : Bool := match w.by_ with | .remote _ => w.began = now | .strand _ _ _ => false

/-- A strand's full/empty access of its own TCM comes after the accesses of the strand it is ordered after (R202, R208). -/
def Waiter.inTurn (s : State) (w : Waiter) : Bool :=
  match w.by_ with
  | .remote _ => true
  | .strand k _ _ =>
    let store := match w.kind with | .stf _ => true | _ => false
    ownTurn s k store && !(store && servedHolds s k)

/-- The walk of R174 on one word, at most one transition a cycle; all: the cycle's issue is over, and its remote requests count too. -/
def feWalkOf (s : State) (all : Bool) (off : Nat) : State :=
  if s.core.moved.contains off then s
  else
    let ws := s.core.waiters.filter fun w => w.off = off && w.inTurn s && (all || !w.late s.now)
    let pa := tcmPa s.core.gcore off
    if feAt s pa then
      (let r := walkFull s off ws
       if r.2 then r.1.withCore fun c => { c with moved := off :: c.moved } else r.1)
    else
      match ws.find? (fun w => match w.kind with | .stf _ => true | _ => false) with
      | some w =>
        let s := match w.kind with
          | .stf v => if poisoned s pa then s else fillWord (performStore s ⟨pa, v, 0xFF, 0x7F⟩) off
          | _ => s
        (satisfy s w).withCore fun c => { c with moved := off :: c.moved }
      | none => s

/-- The walk before the cycle's issue, and by it. -/
def feWalk (s : State) (off : Nat) : State := feWalkOf s false off

/-- Joins the waiters of a word. -/
def addWaiter (s : State) (w : Waiter) : State :=
  s.withCore fun c =>
    { c with waiters := (c.waiters.filter (waiterLe · w)) ++ w :: c.waiters.filter (fun v => !waiterLe v w) }

/-- A strand no longer waits (an interrupt took it, or it ended): it leaves the waiters and gives up a reserved place. -/
def dropWaits (s : State) (k : Fin 16) : State :=
  let mine : Waiter → Bool := fun w => match w.by_ with | .strand j _ _ => j = k | _ => false
  let tickets := (s.core.waiters.filter mine).map fun w => match w.by_ with | .strand _ _ t => t | _ => 0
  let s := s.withCore fun c => { c with waiters := c.waiters.filter (fun w => !mine w) }
  let s := tickets.foldl unreserve s
  match (s.strand k).run with
  | .parked (.barrier _ _ _ (some (_, t)) _) => unreserve s t
  | _ => s

/-! ## A store at its home -/

/-- The function's checkpoint holds this write until the granule has been copied (R538). -/
def ckptHolds (s : State) (f pa : Nat) : Bool :=
  let inScope := match home s pa with | .hbm | .sram _ _ => true | _ => false
  inScope && (hubGet s (rCkpt f 4)).getLsbD 63 &&
    (match s.hub.ckpts.find? (fun c => c.func.val = f) with
     | some c => !c.bits.contains (pa / 8192)
     | none => false)

/-- The function's checkpoint descriptor: USED and PSIZE in bytes (R536). -/
def poolUsed (s : State) (f : Nat) : Nat := (hubGet s (rCkpt f 2)).toNat
def poolSize (s : State) (f : Nat) : Nat := fld (hubGet s (rCkpt f 1)) 42 13 * 8192

/-- VALID := 0; the writes that waited go on, and no further write is held (R539). -/
def dropCkpt (s : State) (f : Nat) : State :=
  let s := hubPut s (rCkpt f 4) (setFld (hubGet s (rCkpt f 4)) 63 63 0)
  s.withHub fun h => { h with held := h.held.filter (·.func.val != f), ckpts := h.ckpts.filter (·.func.val != f) }

/-- The old content of a granule goes to the pool and its bit is set; a full pool ends the checkpoint (R538, R539). -/
def copyGranule (s : State) (f g : Nat) : State :=
  if poolSize s f < poolUsed s f + 8192 then
    dropCkpt (recoveryRecord s 0x0804 (fld (hubGet s (rCkpt f 4)) 15 0) (word (poolUsed s f)) f 0) f
  else
    let old := cellsIn s.mem (8192 * g) (8192 * (g + 1))
    let s := hubPut s (rCkpt f 2) (word (poolUsed s f + 8192))
    s.withHub fun h => { h with ckpts := h.ckpts.map fun c =>
      if c.func.val = f then { c with bits := c.bits ++ [g], pool := c.pool ++ [(g, old)] } else c }

/-- Where the next old granule goes in the pool (R536). -/
def poolNext (s : State) (f : Nat) : Nat := fld (hubGet s (rCkpt f 0)) 42 13 * 8192 + poolUsed s f

/-- The 16 units at each of its 8 pseudo-channels that moving a granule takes, in class 14, which serves under this ticket (R219, R538). -/
def granuleUnits (s : State) (ticket pa : Nat) (write : Bool) : State :=
  ((List.range 8).map fun i => pa / 8192 * 8192 + 1024 * i).foldl (fun t a => if isHbm a then hbmAsk t ticket none 14 a 16 write else t) s

/-- A granule copied at once, for a write that may not wait; its units of class 14 follow (R219, R538). -/
def copyNow (s : State) (f pa : Nat) : State :=
  copyGranule (granuleUnits (granuleUnits { s with ticket := s.ticket + 1 } s.ticket pa false) s.ticket (poolNext s f) true) f (pa / 8192)

/-- A write of a function waits for its granule's copy, which is set going once (R538). -/
def needCopyFor (s : State) (f : Fin 17) (pa : Nat) : State :=
  if !ckptHolds s f.val pa || s.hub.held.any (fun h => h.func = f && h.granule = pa / 8192) then s
  else
    let t := ({ s with ticket := s.ticket + 1 } : State).withHub fun h => { h with held := h.held ++ [⟨f, pa / 8192, s.ticket, false⟩] }
    (granuleUnits t s.ticket pa false).later none (.heldWriteCopy (pa / 8192))

/-- The same for the core's own function. -/
def needCopy (s : State) (pa : Nat) : State := needCopyFor s ⟨s.func % 17, Nat.mod_lt _ (by decide)⟩ pa

/-- A plain write performed at its home. Who makes it has waited for the checkpoint's copy; a write that may not wait copies its granule first
(R538). -/
def homeStore (s : State) (x : WordStore) : State :=
  match home s x.pa with
  | .debug c off => if c = s.core.gcore && x.en = 0xFF then debugWrite s off x.data else s
  | .feView _ _ => setBytes s x.pa x.data x.en 8
  | .hbm => performStore (cancelScrub (if ckptHolds s s.func x.pa then copyNow s s.func x.pa else s) x.pa) x
  | _ => performStore (if ckptHolds s s.func x.pa then copyNow s s.func x.pa else s) x

/-! ## The private cache (R185) -/

def lineOf (pa : Nat) : Nat := pa / 64
def wordIx (pa : Nat) : Fin 8 := ⟨pa / 8 % 8, Nat.mod_lt _ (by decide)⟩

def cacheFind (s : State) (line : Nat) : Option CLine := s.core.cache.find? (·.line = line)

/-- The word of a line, if valid. -/
def cacheWord (s : State) (pa : Nat) : Option CWord :=
  match cacheFind s (lineOf pa) with
  | some l => if (l.words[wordIx pa]).valid then some l.words[wordIx pa] else none
  | none => none

/-- The lines in order of use, latest last: writes a line back as the latest. -/
def cachePut (s : State) (l : CLine) : State :=
  s.withCore fun c => { c with cache := c.cache.filter (·.line != l.line) ++ [l] }

def cacheTouch (s : State) (line : Nat) : State :=
  match cacheFind s line with
  | some l => cachePut s l
  | none => s

def cacheDrop (s : State) (line : Nat) : State :=
  s.withCore fun c => { c with cache := c.cache.filter (·.line != line) }

/-- A write enters its bank of the boundary buffer, or waits in the write-back queue while the bank is full or an earlier write
of the core to that bank waits there (R206). -/
def pushDbb (s : State) (k : Fin 16) (kind : DbbKind) (x : WordStore) (bad : Bool := false) : State :=
  let e : DbbEntry := ⟨s.ticket, s.core.gcore, k, kind, x, false, bad⟩
  let s := { s with ticket := s.ticket + 1 }
  let b := bankOf x.pa
  let here := (s.die.dbb.filter fun y => bankOf y.x.pa = b).length
  if here < 32 && !(s.core.wbq.any fun y => bankOf y.x.pa = b) then
    ({ s with die := { s.die with dbb := s.die.dbb ++ [e] } }).later none
      (.dbbEntryAck ⟨b % 16, Nat.mod_lt _ (by decide)⟩)
  else s.withCore fun c => { c with wbq := c.wbq ++ [e] }

/-- There is room for n write-throughs of the line an address lies in: its words go to one bank, and what the bank cannot take waits in the
write-back queue of 64 (R206). -/
def roomFor (s : State) (pa n : Nat) : Bool :=
  let b := bankOf pa
  let here := (s.die.dbb.filter fun y => bankOf y.x.pa = b).length
  let now := if s.core.wbq.any fun y => bankOf y.x.pa = b then 0 else 32 - here
  decide (n ≤ now + (64 - s.core.wbq.length))

/-- Writes through the dirty words of a line, which stay valid and clean (R185, R186). -/
def writeThrough (s : State) (k : Fin 16) (l : CLine) : State :=
  let s := (List.finRange 8).foldl (fun s i =>
    let w := l.words[i]
    if w.valid && w.dirty then pushDbb s k .through ⟨l.line * 64 + 8 * i.val, w.data, 0xFF, 0x7F⟩ w.poison else s) s
  s.withCore fun c =>
    { c with cache := c.cache.map fun m =>
        if m.line = l.line then { m with words := vmap (fun w => { w with dirty := false }) m.words } else m }

/-- Writes through the dirty words of the cache, line by line, as far as there is room for them (R186, R206). -/
def writeThroughAll (s : State) (k : Fin 16) : State :=
  s.core.cache.foldl (fun s l => if roomFor s (l.line * 64) l.dirty then writeThrough s k l else s) s

/-- Dirty words are left in the cache. -/
def anyDirty (s : State) : Bool := s.core.cache.any fun l => l.dirty != 0

/-- An acquire's invalidation: every line not taken from a page with RO = 1 (R186). -/
def invalidateLines (s : State) : State := s.withCore fun c => { c with cache := c.cache.filter (·.ro) }

/-- The line that must leave the set of an absent line: the least recently used of eight. -/
def victim (s : State) (line : Nat) : Option CLine :=
  if (cacheFind s line).isSome then none
  else
    let set := s.core.cache.filter fun l => l.line % 64 = line % 64
    if set.length < 8 then none else set.head?

/-- There is room for what fetching or storing to the line would evict. -/
def evictRoom (s : State) (line : Nat) : Bool :=
  match victim s line with
  | some l => roomFor s (l.line * 64) l.dirty
  | none => true

def emptyLine (line : Nat) (ro : Bool) : CLine := ⟨line, Vector.replicate 8 ⟨false, false, 0, false⟩, ro⟩

/-- Makes room for a line and has it present, latest used. -/
def cacheRoom (s : State) (k : Fin 16) (line : Nat) (ro : Bool) : State :=
  let s := match victim s line with
    | some v => cacheDrop (writeThrough s k v) v.line
    | none => s
  match cacheFind s line with
  | some l => cachePut s l
  | none => cachePut s (emptyLine line ro)

/-- An 8-byte store: valid and dirty (R185). -/
def cacheStore (s : State) (k : Fin 16) (x : WordStore) : State :=
  let s := cacheRoom s k (lineOf x.pa) false
  match cacheFind s (lineOf x.pa) with
  | some l => cachePut s { l with words := l.words.set (wordIx x.pa) ⟨true, true, x.data, false⟩ }
  | none => s

/-- Bytes of a word replaced under byte enables. -/
def mergeWord (old new : Word) (en : BitVec 8) : Word :=
  (List.range 8).foldl (fun w i =>
    if en.getLsbD i then setFld w (8 * i + 7) (8 * i) (wordByte new i).toNat else w) old

/-- Updates a present copy, leaving its dirty bit (R185). -/
def cacheUpdate (s : State) (x : WordStore) : State :=
  match cacheFind s (lineOf x.pa) with
  | some l =>
    let w := l.words[wordIx x.pa]
    if w.valid then cachePut s { l with words := l.words.set (wordIx x.pa) { w with data := mergeWord w.data x.data x.en } }
    else s
  | none => s

/-- A write-through of this core to the line has not been acknowledged (R185). -/
def lineBusy (s : State) (line : Nat) : Bool :=
  s.die.dbb.any (fun e => lineOf e.x.pa = line && e.kind = .through) || s.core.wbq.any (fun e => lineOf e.x.pa = line)

/-- Starts the fetch of a line for a strand, once; one from HBM takes a unit of the queue's class (R218). -/
def startFetch (s : State) (k : Fin 16) (line : Nat) (ro : Bool) : State :=
  if s.core.fetches.any (·.line = line) then s
  else
    let t := ({ s with ticket := s.ticket + 1 } : State).withCore fun c => { c with fetches := c.fetches ++ [⟨line, ro, s.ticket, k⟩] }
    (askLines t s.ticket none (loadClass s) false [64 * line]).later none (.cacheLineFill line)

/-- The words of a line that are invalid take memory's (R185). -/
def fillLine (s : State) (line : Nat) : State :=
  match cacheFind s line with
  | some l =>
    cachePut s { l with words := Vector.ofFn fun (i : Fin 8) =>
      let w := l.words[i]
      let pa := line * 64 + 8 * i.val
      if w.valid then w else ⟨true, false, wordAt s pa, poisoned s pa⟩ }
  | none => s

/-! ## The store buffer (R201) -/

/-- Appends a store and sets its leaving going; seq orders it after every access already made. -/
def pushStore (s : State) (x : WordStore) (nc relaxed : Bool) : State :=
  (({ s with ticket := s.ticket + 1 }).mod fun t => { t with sb := t.sb ++ [SbItem.store s.ticket x nc relaxed] }).later none
    (.storeLeave s.cur)

/-- Appends a release. -/
def pushRelease (s : State) (sc : Scope) (sig : Signal) (full : Bool) : State :=
  (({ s with ticket := s.ticket + 1 }).mod fun t => { t with sb := t.sb ++ [SbItem.release s.ticket sc sig false full] }).later none
    (.releaseComplete s.cur)

/-- Byte enables of a part of a word. -/
def enables (pa size : Nat) : BitVec 8 := BitVec.ofNat 8 ((2 ^ size - 1) * 2 ^ (pa % 8))

/-- The store of a value of the given size at an aligned physical address. -/
def storeOf (pa size : Nat) (v : Word) (tagb : BitVec 8) : WordStore :=
  ⟨pa / 8 * 8, v <<< (8 * (pa % 8)), enables pa size, tagb⟩

/-- What the store buffer has for a load: nothing, the newest store that covers it, or an overlap in part. -/
inductive Fwd where
  | none
  | hit (v : Nat) (tagb : BitVec 8)
  | overlap
deriving DecidableEq, Repr

/-- The store an item holds, with its number. -/
def SbItem.held : SbItem → Nat × Option WordStore
  | .store n x _ _ => (n, some x)
  | .release n _ (.store x _) _ _ => (n, some x)
  | .release n _ _ _ _ => (n, .none)

/-- The newest of the stores older than seq that touches the bytes, in a buffer listed oldest first. -/
def forward (pa size seq : Nat) (sb : List SbItem) : Fwd :=
  sb.foldl (fun f i =>
    match i.held with
    | (n, some x) =>
      let m := enables pa size
      if n < seq && x.pa = pa / 8 * 8 && x.en &&& m != 0 then
        (if x.en &&& m = m then .hit (x.data.toNat / 2 ^ (8 * (pa % 8)) % 2 ^ (8 * size)) x.tagb else .overlap)
      else f
    | (_, .none) => f) .none

/-- Is the request one of the memory network (R179)? -/
def Access.remote (s : State) (a : Access) : Bool := a.pieces.any fun p => !ownTcm s p.pa

/-- Is the access a store? -/
def Access.isWrite : Access → Bool
  | .write _ _ => true
  | _ => false

/-- Remote requests of the core outstanding (R179): its reads and atomics, its stores on their way to an on-die home or at a bank, and its writes
that have left the die. -/
def outstanding (s : State) : Nat :=
  (s.core.reqs.filter fun r => r.acc.remote s).length +
  ((List.finRange 16).filter fun k => match (s.strand k).sb with
    | .store seq _ _ _ :: _ => atBank s (.store k seq)
    | _ => false).length +
  (s.die.dbb.filter fun e => e.gcore = s.core.gcore && e.sent && (match e.kind with | .atomic _ | .stf _ => false | _ => true)).length

/-- A store goes out on the memory network itself: to an on-die home outside the own TCM, or past the private cache (R176, R205). -/
def storeRemote (s : State) (x : WordStore) (nc : Bool) : Bool :=
  !ownTcm s x.pa && (onDie s x.pa || !cacheable s x.pa nc)

/-- The head store may leave (R201, R208, R538): earlier loads returned and, for one to on-die memory, earlier stores to it acknowledged, the
relaxed loads' sources acknowledged, no checkpoint copying its granule, fewer than 32 remote requests outstanding (R179), and room where it
goes. -/
def mayLeave (s : State) (k : Fin 16) (seq : Nat) (x : WordStore) (nc relaxed : Bool) : Bool :=
  !(s.core.reqs.any fun r => r.strand = k && r.ticket < seq && (onDie s x.pa || !r.acc.isWrite)) && !servedHolds s k &&
  (if onDie s x.pa then !ckptHolds s s.func x.pa && (ownTcm s x.pa || atBank s (.store k seq) || s.clu.bankDone.contains seq || outstanding s < 32)
   else if cacheable s x.pa nc && !relaxed then
     (if x.en = 0xFF then evictRoom s (lineOf x.pa) else roomFor s x.pa 1)
   else !bankFull s x.pa)

/-- A store goes to an on-die home over the memory network; the home performs it and answers (R176). -/
def sendStore (s : State) (k : Fin 16) (seq : Nat) (x : WordStore) : State :=
  (s.withCore fun c => { c with reqs := c.reqs ++ [⟨seq, k, 0, .write x none, false, none, 0, []⟩] }).later none (.remoteReplyArrive seq)

/-- The store leaves: to its on-die home, the cache, or the boundary buffer (R201, R205, R206). -/
def leave (s : State) (k : Fin 16) (seq : Nat) (x : WordStore) (nc relaxed : Bool) : State :=
  if onDie s x.pa then (if ownTcm s x.pa || ownBank s x.pa then homeStore s x else sendStore s k seq x)
  else if cacheable s x.pa nc && !relaxed then
    (if x.en = 0xFF then cacheStore s k x else pushDbb (cacheUpdate s x) k .through x)
  else pushDbb (cacheUpdate s x) k (if relaxed then .relaxed else .plain) x

/-! ## Gates before an access -/

/-- An acquire in progress holds every later access of its strand, or of the whole core (R209, R112); a FULL fence holds later
loads (R211). -/
def acquireHolds (s : State) (k : Fin 16) : Bool :=
  (s.strand k).acq.isSome || s.core.strands.toList.any fun t => match t.acq with | some a => a.whole | none => false

def fullHolds (s : State) (k : Fin 16) : Bool :=
  (s.strand k).sb.any fun i => match i with | .release _ _ _ _ full => full | _ => false

/-- An instruction that makes an access issues only when no acquire holds it; one that first reads a filled handle begins that
acquire and waits for it (R209). before is the state it started from, s the state after it read its sources. -/
def accessGate (before s : State) (srcs : List Opd) : Res Unit :=
  if acquireHolds before before.cur then .error (.stall .acquirePending)
  else if acquireHolds s s.cur then .error (.handles srcs)
  else .ok ()

def loadGate (before s : State) (srcs : List Opd) : Res Unit := do
  accessGate before s srcs
  if fullHolds s s.cur then .error (.stall .acquirePending) else .ok ()

/-- A release of the strand with a number below seq has not ended: what an engine reads and a message carries come after it (R212, R215). -/
def earlierRelease (s : State) (k : Fin 16) (seq : Nat) : Bool :=
  (s.strand k).sb.any fun i => match i with | .release n _ _ _ _ => decide (n < seq) | _ => false

/-- A release or an acquire that writes through lines whose bank is full, while the write-back queue is (R206). -/
def throughGate (s : State) (sc : Scope) : Res Unit :=
  if 4 ≤ Scope.rank sc && throughFull s then .error (.stall .writeBackFull) else .ok ()

/-- A plain store that will write through, or whose line would evict dirty words, while the write-back queue is full (R206); and one that goes out
on the memory network while 32 remote requests are outstanding (R179). -/
def storeGate (s : State) (x : WordStore) (nc : Bool) : Res Unit := do
  if storeRemote s x nc && 32 ≤ outstanding s then .error (.stall .remoteLimit)
  wbGate s (!onDie s x.pa && cacheable s x.pa nc && (if x.en = 0xFF then !evictRoom s (lineOf x.pa) else bankFull s x.pa))

/-- A full/empty access, or an atomic to on-die memory, waits for an empty store buffer (R389, R202). -/
def drainGate (s : State) : Res Unit :=
  if s.st.sb.isEmpty then .ok () else .error (.stall .storesLeaving)

end Sys2Proof.Machine
end

