-- ==== Sys2Proof/WellFormed.lean ====
section
/-! DEFINITION. Which terms of Instr an encoding can stand for: the types each instruction accepts (R366, R372, R374-R381,
R393, R394, R483) and the two literal fields with a range. Operand codes and operand values are no part of it: those faults are
OPERAND and are found when the instruction runs (R485, R490). -/

namespace Sys2Proof

/-- Float types 8-13. -/
def Ty.isFloat : Ty → Bool
  | .f64 | .f32 | .f16 | .bf16 | .f8a | .f8b => true
  | _ => false

/-- Signed integer types 0-3. -/
def Ty.isSigned : Ty → Bool
  | .i8 | .i16 | .i32 | .i64 => true
  | _ => false

/-- Unsigned integer types 4-7. -/
def Ty.isUnsigned : Ty → Bool
  | .n8 | .n16 | .n32 | .n64 => true
  | _ => false

/-- Integer types 0-7. -/
def Ty.isInt (t : Ty) : Bool := t.isSigned || t.isUnsigned

/-- Types 0-13: every type with a scalar form. -/
def Ty.isPlain (t : Ty) : Bool := t.isInt || t.isFloat

/-- Types VABS and VNEG accept (R366). -/
def Ty.isSignedOrFloat (t : Ty) : Bool := t.isSigned || t.isFloat

/-- Types VSCLA accepts (R366). -/
def Ty.isScale (t : Ty) : Bool := t == .f64 || t == .f32

/-- Width of an element in bits (R350). -/
def Ty.width : Ty → Nat
  | .i8 | .n8 | .f8a | .f8b => 8
  | .i16 | .n16 | .f16 | .bf16 => 16
  | .i32 | .n32 | .f32 => 32
  | .i64 | .n64 | .f64 => 64
  | .i4x => 4

/-- Which types a reduction accepts (R374). -/
def RedOp.accepts : RedOp → Ty → Bool
  | .add, t => t.isPlain
  | .min, t | .max, t => t.isSignedOrFloat
  | .minn, t | .maxn, t => t.isUnsigned
  | .and, t | .or, t | .xor, t => t.isInt

/-- The encodable terms. An event or a command is never fetched, so nothing is asked of it. -/
def Instr.wf : Instr → Bool
  | .vadd _ _ _ _ t | .vsub _ _ _ _ t | .vmul _ _ _ _ t => t.isPlain
  | .vmin _ _ _ _ t | .vmax _ _ _ _ t => t.isPlain
  | .vfma _ _ _ _ t | .vdiv _ _ _ _ t => t.isFloat
  | .vsqrt _ _ _ t | .vrsq _ _ _ t => t.isFloat
  | .vand _ _ _ _ t | .vor _ _ _ _ t | .vxor _ _ _ _ t => t.isInt
  | .vnot _ _ _ t => t.isInt
  | .vshl _ _ _ _ t | .vshr _ _ _ _ t | .vsra _ _ _ _ t => t.isInt
  | .vcmp _ _ _ _ t _ => t.isPlain
  | .vsel _ _ _ m t => t.isPlain && m != 0
  | .vabs _ _ _ t | .vneg _ _ _ t => t.isSignedOrFloat
  | .vred op _ _ _ t => op.accepts t
  | .vcvt _ _ _ _ _ => true
  | .vperm _ _ _ _ t => t.isPlain
  | .vbcast _ _ _ t => t.isPlain
  | .vgath _ _ _ _ t | .vscat _ _ _ _ t => t.isPlain
  | .vmovx _ _ _ t | .vins _ _ _ t => t.isPlain
  | .mpop _ _ t => t.isPlain
  | .vscla _ _ _ _ t | .vsclab _ _ _ _ t => t.isScale
  | .fadd _ _ _ _ _ t | .fsub _ _ _ _ _ t | .fmul _ _ _ _ _ t | .fdiv _ _ _ _ _ t => t.isFloat
  | .fma _ _ _ _ _ t | .fms _ _ _ _ _ t | .fnma _ _ _ _ _ t | .fscl _ _ _ _ _ t => t.isFloat
  | .fsqrt _ _ _ t | .fclass _ _ _ t => t.isFloat
  | .fmin _ _ _ t | .fmax _ _ _ t | .feq _ _ _ t | .flt _ _ _ t | .fle _ _ _ t => t.isFloat
  | .funord _ _ _ t | .fcps _ _ _ t => t.isFloat
  | .fneg _ _ t | .fabs _ _ t | .frnd _ _ t => t.isFloat
  | .fcvt _ _ _ s t => s.isPlain && t.isPlain
  | .fcincn v _ _ => decide (2 ≤ v.toNat) && decide (v.toNat ≤ 31)
  | _ => true

end Sys2Proof
end

