-- ==== Sys2Proof/Machine/Flags.lean ====
section
/-! DEFINITION. Number formats (R130-R138), rounding and flags (R139-R147) and significance tags (R152-R158), on exact values: a
finite number is a sign, a natural significand and a power of two. -/

namespace Sys2Proof.Machine

/-! ## Formats (R130) -/

/-- A float format: exponent field width and precision P. -/
structure Fmt where
  ew : Nat
  p : Nat
deriving DecidableEq, Repr

def Fmt.width (f : Fmt) : Nat := f.ew + f.p
def Fmt.bias (f : Fmt) : Nat := 2 ^ (f.ew - 1) - 1
def Fmt.emin (f : Fmt) : Int := 1 - f.bias
def Fmt.emax (f : Fmt) : Int := f.bias
/-- The exponent of the last place of a subnormal. -/
def Fmt.qmin (f : Fmt) : Int := f.emin - f.p + 1

def fF64 : Fmt := ⟨11, 53⟩
def fF32 : Fmt := ⟨8, 24⟩
def fF16 : Fmt := ⟨5, 11⟩
def fBF16 : Fmt := ⟨8, 8⟩
def fF8A : Fmt := ⟨4, 4⟩
def fF8B : Fmt := ⟨5, 3⟩

/-- The format of a float type; F64 for the others, which no float operation names. -/
def fmtOf : Ty → Fmt
  | .f32 => fF32 | .f16 => fF16 | .bf16 => fBF16 | .f8a => fF8A | .f8b => fF8B | _ => fF64

/-- A float value (R131). -/
inductive FVal where
  | nan (signalling : Bool)
  | inf (neg : Bool)
  | fin (neg : Bool) (m : Nat) (q : Int)
deriving DecidableEq, Repr

/-- Decodes the low bits of a word (R131). -/
def unpack (f : Fmt) (b : Nat) : FVal :=
  let frac := b % 2 ^ (f.p - 1)
  let ex := b / 2 ^ (f.p - 1) % 2 ^ f.ew
  let neg := b / 2 ^ (f.width - 1) % 2 = 1
  if ex = 2 ^ f.ew - 1 then (if frac = 0 then .inf neg else .nan (frac / 2 ^ (f.p - 2) = 0))
  else if ex = 0 then .fin neg frac f.qmin
  else .fin neg (frac + 2 ^ (f.p - 1)) ((ex : Int) - f.bias - f.p + 1)

def signBit (f : Fmt) (neg : Bool) : Nat := if neg then 2 ^ (f.width - 1) else 0

/-- The canonical NaN (R132). -/
def canonNan (f : Fmt) : Nat := (2 ^ f.ew - 1) * 2 ^ (f.p - 1) + 2 ^ (f.p - 2)
def infBits (f : Fmt) (neg : Bool) : Nat := signBit f neg + (2 ^ f.ew - 1) * 2 ^ (f.p - 1)
def maxBits (f : Fmt) (neg : Bool) : Nat := infBits f neg - 1

/-- Encodes n × 2^q, where n has at most P bits and q is at least qmin, or n = 0. -/
def packFin (f : Fmt) (neg : Bool) (n : Nat) (q : Int) : Nat :=
  if n = 0 then signBit f neg
  else
    let n' := if n = 2 ^ f.p then 2 ^ (f.p - 1) else n
    let q' := if n = 2 ^ f.p then q + 1 else q
    if n' < 2 ^ (f.p - 1) then signBit f neg + n'
    else signBit f neg + (q' + f.p - 1 + f.bias).toNat * 2 ^ (f.p - 1) + (n' - 2 ^ (f.p - 1))

/-! ## Flags (R122, R142) -/

abbrev FFlags := BitVec 5

def fNV : FFlags := 16
def fDZ : FFlags := 8
def fOF : FFlags := 4
def fUF : FFlags := 2
def fNX : FFlags := 1

/-! ## Rounding (R139-R141) -/

/-- FPMODE.RM. -/
inductive RMode where
  | rne | rtz | rpi | rni | rna
deriving DecidableEq, Repr

def rmOf : Nat → RMode
  | 1 => .rtz | 2 => .rpi | 3 => .rni | 4 => .rna | _ => .rne

/-- m / 2^k as a floor with what is left: 0 nothing, 1 below a half, 2 a half, 3 above. sticky adds a little to what is left. -/
def shrink (m k : Nat) (sticky : Bool) : Nat × Nat :=
  if k = 0 then (m, if sticky then 1 else 0)
  else if m.log2 + 1 < k then (0, if m = 0 && !sticky then 0 else 1)
  else
    let n := m / 2 ^ k
    let r := m % 2 ^ k
    let half := 2 ^ (k - 1)
    (n, if r = 0 && !sticky then 0 else if r < half then 1 else if r = half && !sticky then 2 else 3)

/-- Does the mode take the greater neighbour? -/
def roundsUp (mode : RMode) (neg : Bool) (n rest : Nat) : Bool :=
  match mode with
  | .rne => rest = 3 || (rest = 2 && n % 2 = 1)
  | .rna => 2 ≤ rest
  | .rtz => false
  | .rpi => !neg && rest != 0
  | .rni => neg && rest != 0

/-- An exponent's place: floor(log2 (m × 2^q)) for m nonzero. -/
def topExp (m : Nat) (q : Int) : Int := m.log2 + q

/-- Rounds m at weight q' (at or above q): neighbour and what was left. -/
def roundAt (mode : RMode) (neg : Bool) (m : Nat) (q q' : Int) (sticky : Bool) : Nat × Nat :=
  if q' ≤ q then (m * 2 ^ (q - q').toNat, if sticky then 1 else 0)
  else
    let r := shrink m (q' - q).toNat sticky
    (if roundsUp mode neg r.1 r.2 then r.1 + 1 else r.1, r.2)

/-- A rounded result: its bits, its value as the tag rules see it (magnitude n × 2^q, zero, infinity), and its flags. -/
structure Rounded where
  bits : Nat
  n : Nat
  q : Int
  inf : Bool
  flags : FFlags
deriving DecidableEq, Repr

/-- The overflow result of R140: infinity or the largest finite. -/
def overflowsToInf (mode : RMode) (neg : Bool) : Bool :=
  match mode with
  | .rne | .rna => true
  | .rtz => false
  | .rpi => !neg
  | .rni => neg

/-- round(±(m × 2^q + a little), fmt, mode) of R139; m = 0 only for an exact zero. -/
def roundTo (f : Fmt) (mode : RMode) (neg : Bool) (m : Nat) (q : Int) (sticky : Bool) : Rounded :=
  if m = 0 then ⟨signBit f neg, 0, 0, false, 0⟩
  else
    let e := topExp m q
    let q' := max e f.emin - f.p + 1
    let r := roundAt mode neg m q q' sticky
    if r.1 != 0 && f.emax < topExp r.1 q' then
      (if overflowsToInf mode neg then ⟨infBits f neg, 0, 0, true, fOF ||| fNX⟩
       else ⟨maxBits f neg, 2 ^ f.p - 1, f.emax - f.p + 1, false, fOF ||| fNX⟩)
    else
      let free := roundAt mode neg m q (e - f.p + 1) sticky
      let tiny := decide (topExp free.1 (e - f.p + 1) < f.emin)
      let inexact := r.2 != 0
      ⟨packFin f neg r.1 q', r.1, q', false,
        (if inexact then fNX else 0) ||| (if tiny && inexact then fUF else 0)⟩

/-! ## Significance (R152-R154) -/

/-- What the tag rules know of an operand: finite nonzero with e and s; a zero, exact or spent, with its s; an exact group sum
with its u and the bound spent zeros put on it (R157); or none of these. -/
inductive Sig where
  | num (e : Int) (s : Nat)
  | zero (s : Nat) (exact : Bool)
  | sum (u : Option Int) (cap : Nat)
  | none
deriving DecidableEq, Repr

/-- An operand of format f with its tag as read by R99. -/
def sigOf (f : Fmt) (v : FVal) (tag : Nat) : Sig :=
  let s := min tag f.p
  match v with
  | .fin _ 0 _ => .zero s (s = f.p)
  | .fin _ m q => .num (topExp m q) s
  | _ => .none

/-- u: none stands for minus infinity. -/
def Sig.u : Sig → Option Int
  | .num e s => some (e - s + 1)
  | .sum u _ => u
  | _ => Option.none

/-- The bound a spent zero puts on a result (R154). -/
def Sig.cap (p : Nat) : Sig → Nat
  | .zero s false => s
  | .sum _ c => min c p
  | _ => p

/-- s as the multiply rule takes it. -/
def Sig.s : Sig → Nat
  | .num _ s => s
  | .zero s _ => s
  | _ => 0

def uMax (a b : Option Int) : Option Int :=
  match a, b with
  | some x, some y => some (max x y)
  | some x, Option.none => some x
  | Option.none, y => y

/-- clamp(x, 0, P). -/
def clampTag (p : Nat) (x : Int) : Nat := min p x.toNat

/-- The rules every rounded result shares: infinity 0, a nonzero result rounded to zero 0, a subnormal at most its bits. -/
def settle (f : Fmt) (r : Rounded) (exactZero : Bool) (tag : Nat) : Nat :=
  if r.inf then 0
  else if r.n = 0 then (if exactZero then tag else 0)
  else
    let e := topExp r.n r.q
    if e < f.emin then min tag (clampTag f.p (e - f.qmin + 1)) else tag

/-- The add rule (R152, R154) for operands whose sum rounded to r; exactZero: the exact sum was zero. -/
def addTag (f : Fmt) (x y : Sig) (r : Rounded) (exactZero : Bool) : Nat :=
  let u := uMax x.u y.u
  let base :=
    if r.n = 0 then (if u = Option.none then f.p else 0)
    else
      let e := topExp r.n r.q
      match uMax u (some (e - f.p + 1)) with
      | some uz => clampTag f.p (e - uz + 1)
      | Option.none => f.p
  min (settle f r exactZero base) (min (x.cap f.p) (y.cap f.p))

/-- s of a product or quotient before it is rounded. -/
def mulS (p a b : Nat) : Nat := min p (if a = b then a - 1 else min a b)

/-- Is the operand an exact zero? -/
def Sig.exact : Sig → Bool
  | .zero _ e => e
  | _ => false

/-- The multiply rule. -/
def mulTag (f : Fmt) (x y : Sig) (r : Rounded) (exactZero : Bool) : Nat :=
  if (x.exact || y.exact) && exactZero then f.p else settle f r exactZero (mulS f.p x.s y.s)

/-! ## Float arithmetic -/

/-- A float operand: its value and its tag, read by R99. -/
structure FOp where
  v : FVal
  tag : Nat
deriving DecidableEq, Repr

def fop (f : Fmt) (bits tag : Nat) : FOp := ⟨unpack f (bits % 2 ^ f.width), min tag f.p⟩

/-- A result: bits, tag, flags. -/
structure FRes where
  bits : Nat
  tag : Nat
  flags : FFlags
deriving DecidableEq, Repr

def FVal.isNan : FVal → Bool | .nan _ => true | _ => false
def FVal.isSnan : FVal → Bool | .nan b => b | _ => false
def FVal.isZero : FVal → Bool | .fin _ 0 _ => true | _ => false
def FVal.isInf : FVal → Bool | .inf _ => true | _ => false
def FVal.neg : FVal → Bool | .fin n _ _ => n | .inf n => n | .nan _ => false
def FVal.negate : FVal → FVal | .fin n m q => .fin (!n) m q | .inf n => .inf (!n) | v => v

def nanRes (f : Fmt) (fl : FFlags) : FRes := ⟨canonNan f, 0, fl⟩
def infRes (f : Fmt) (neg : Bool) (fl : FFlags) : FRes := ⟨infBits f neg, 0, fl⟩
def nvIf (b : Bool) : FFlags := if b then fNV else 0

/-- The signed integer of a finite value at weight q (at or below its own). -/
def scaled (neg : Bool) (m : Nat) (q q0 : Int) : Int :=
  let x : Int := m * 2 ^ (q - q0).toNat
  if neg then -x else x

/-- The exact sum of two finite values; the sign of a zero sum by R139. -/
def addFin (mode : RMode) (n1 : Bool) (m1 : Nat) (q1 : Int) (n2 : Bool) (m2 : Nat) (q2 : Int) : Bool × Nat × Int :=
  if m1 = 0 && m2 = 0 then (if n1 = n2 then n1 else mode = .rni, 0, 0)
  else if m1 = 0 then (n2, m2, q2)
  else if m2 = 0 then (n1, m1, q1)
  else
    let q := min q1 q2
    let t := scaled n1 m1 q1 q + scaled n2 m2 q2 q
    if t = 0 then (mode = .rni, 0, 0) else (decide (t < 0), t.natAbs, q)

/-- Add (R152, R358); the operands come with what the tag rules know of them. -/
def addV (f : Fmt) (mode : RMode) (x y : FVal) (sx sy : Sig) (nv : Bool) : FRes :=
  match x, y with
  | .nan _, _ => nanRes f (nvIf nv)
  | _, .nan _ => nanRes f (nvIf nv)
  | .inf a, .inf b => if a = b then infRes f a (nvIf nv) else nanRes f fNV
  | .inf a, _ => infRes f a (nvIf nv)
  | _, .inf b => infRes f b (nvIf nv)
  | .fin n1 m1 q1, .fin n2 m2 q2 =>
    let z := addFin mode n1 m1 q1 n2 m2 q2
    let r := roundTo f mode z.1 z.2.1 z.2.2 false
    ⟨r.bits, addTag f sx sy r (z.2.1 = 0), r.flags ||| nvIf nv⟩

def fAdd (f : Fmt) (mode : RMode) (x y : FOp) : FRes :=
  addV f mode x.v y.v (sigOf f x.v x.tag) (sigOf f y.v y.tag) (x.v.isSnan || y.v.isSnan)

def fSub (f : Fmt) (mode : RMode) (x y : FOp) : FRes := fAdd f mode x ⟨y.v.negate, y.tag⟩

def fMul (f : Fmt) (mode : RMode) (x y : FOp) : FRes :=
  let nv := nvIf (x.v.isSnan || y.v.isSnan)
  let neg := x.v.neg != y.v.neg
  if x.v.isNan || y.v.isNan then nanRes f nv
  else match x.v, y.v with
    | .fin _ m1 q1, .fin _ m2 q2 =>
      let r := roundTo f mode neg (m1 * m2) (q1 + q2) false
      ⟨r.bits, mulTag f (sigOf f x.v x.tag) (sigOf f y.v y.tag) r (m1 * m2 = 0), r.flags⟩
    | a, b => if a.isZero || b.isZero then nanRes f fNV else infRes f neg 0

/-- The quotient of two significands to P + 4 bits, with what is left. -/
def quotient (p m1 m2 : Nat) (q1 q2 : Int) : Nat × Int × Bool :=
  let sh := p + 4 + m2.log2
  (m1 * 2 ^ sh / m2, q1 - q2 - sh, m1 * 2 ^ sh % m2 != 0)

def fDiv (f : Fmt) (mode : RMode) (x y : FOp) : FRes :=
  let nv := nvIf (x.v.isSnan || y.v.isSnan)
  let neg := x.v.neg != y.v.neg
  let sx := sigOf f x.v x.tag
  let s := mulS f.p x.tag y.tag
  if x.v.isNan || y.v.isNan then nanRes f nv
  else match x.v, y.v with
    | .inf _, .inf _ => nanRes f fNV
    | .inf _, _ => infRes f neg 0
    | .fin _ _ _, .inf _ => ⟨signBit f neg, s, 0⟩
    | .fin _ m1 q1, .fin _ m2 q2 =>
      if m2 = 0 then (if m1 = 0 then nanRes f fNV else infRes f neg fDZ)
      else if m1 = 0 then ⟨signBit f neg, if sx.exact then f.p else s, 0⟩
      else
        let d := quotient f.p m1 m2 q1 q2
        let r := roundTo f mode neg d.1 d.2.1 d.2.2
        ⟨r.bits, settle f r false s, r.flags⟩
    | _, _ => nanRes f nv

/-- floor of the square root of m below 4^k, bit by bit. -/
def isqrt (m : Nat) : (k : Nat) → (r : Nat) → Nat
  | 0, r => r
  | k + 1, r => isqrt m k (if (r + 2 ^ k) * (r + 2 ^ k) ≤ m then r + 2 ^ k else r)

/-- A significand with an even exponent, and at least 2 P + 6 bits. -/
def widenEven (p m : Nat) (q : Int) : Nat × Int :=
  let m1 := if q % 2 = 0 then m else 2 * m
  let q1 := if q % 2 = 0 then q else q - 1
  (m1 * 4 ^ (p + 3), q1 - 2 * (p + 3))

/-- The tag of a square root. -/
def sqrtTag (f : Fmt) (tag : Nat) : Nat := min f.p (tag + 1)

def fSqrt (f : Fmt) (mode : RMode) (x : FOp) : FRes :=
  match x.v with
  | .nan b => nanRes f (nvIf b)
  | .inf true => nanRes f fNV
  | .inf false => infRes f false 0
  | .fin neg m q =>
    if m = 0 then ⟨signBit f neg, sqrtTag f x.tag, 0⟩
    else if neg then nanRes f fNV
    else
      let w := widenEven f.p m q
      let n := isqrt w.1 (w.1.log2 / 2 + 1) 0
      let r := roundTo f mode false n (w.2 / 2) (n * n != w.1)
      ⟨r.bits, settle f r false (sqrtTag f x.tag), r.flags⟩

/-- 1 / √x, rounded once (R367). -/
def fRsq (f : Fmt) (mode : RMode) (x : FOp) : FRes :=
  match x.v with
  | .nan b => nanRes f (nvIf b)
  | .inf true => nanRes f fNV
  | .inf false => ⟨0, sqrtTag f x.tag, 0⟩
  | .fin neg m q =>
    if m = 0 then infRes f neg fDZ
    else if neg then nanRes f fNV
    else
      let m1 := if q % 2 = 0 then m else 2 * m
      let q1 := if q % 2 = 0 then q else q - 1
      let j := f.p + 4 + m1.log2
      let n := isqrt (4 ^ j / m1) (j + 1) 0
      let r := roundTo f mode false n (-(q1 / 2) - j) (n * n * m1 != 4 ^ j)
      ⟨r.bits, settle f r false (sqrtTag f x.tag), r.flags⟩

/-- What the tag rules know of an exact product (R153, R154). -/
def prodSig (f : Fmt) (x y : FOp) (m : Nat) (q : Int) (s : Nat) : Sig :=
  if m = 0 then
    (let ex := (sigOf f x.v x.tag).exact || (sigOf f y.v y.tag).exact
     .zero (if ex then f.p else s) ex)
  else .num (topExp m q) s

/-- x × y + z with one rounding (R358); s is the product's s by the multiply rule, or VSCLA's (R382). -/
def fmaWith (f : Fmt) (mode : RMode) (x y z : FOp) (negP : Bool) (ps : Sig → Sig) : FRes :=
  let neg := (x.v.neg != y.v.neg) != negP
  let snan := x.v.isSnan || y.v.isSnan || z.v.isSnan
  let zeroInf := (x.v.isZero && y.v.isInf) || (x.v.isInf && y.v.isZero)
  if zeroInf then nanRes f fNV
  else if x.v.isNan || y.v.isNan || z.v.isNan then nanRes f (nvIf snan)
  else match x.v, y.v with
    | .fin _ m1 q1, .fin _ m2 q2 =>
      addV f mode (.fin neg (m1 * m2) (q1 + q2)) z.v
        (ps (prodSig f x y (m1 * m2) (q1 + q2) (mulS f.p x.tag y.tag))) (sigOf f z.v z.tag) false
    | _, _ => addV f mode (.inf neg) z.v .none (sigOf f z.v z.tag) false

def fFma (f : Fmt) (mode : RMode) (x y z : FOp) (negP negZ : Bool) : FRes :=
  fmaWith f mode x y (if negZ then ⟨z.v.negate, z.tag⟩ else z) negP id

/-- acc + x × c, the scale c exact (R382, R428): the product takes x's s, and a zero scale or an exact-zero x is an exact zero. -/
def fScaleAdd (f : Fmt) (acc x c : FOp) : FRes :=
  let ps : Sig → Sig := fun p => match p with
    | .num e _ => .num e x.tag
    | .zero _ ex => if c.v.isZero || ex then .zero f.p true else .zero x.tag false
    | p => p
  fmaWith f .rne x c acc false ps

/-! ## Order -/

/-- Compares finite values or infinities: a < b, a = b (−0 equals +0). -/
def cmpFin (a b : FVal) : Ordering :=
  match a, b with
  | .inf x, .inf y => if x = y then .eq else if x then .lt else .gt
  | .inf x, _ => if x then .lt else .gt
  | _, .inf y => if y then .gt else .lt
  | .fin n1 m1 q1, .fin n2 m2 q2 =>
    let q := min q1 q2
    compare (scaled n1 m1 q1 q) (scaled n2 m2 q2 q)
  | _, _ => .eq

/-- FMIN and FMAX (R359): bits come in, so that the operand delivered keeps its own. −0 lies below +0. -/
def fMinMax (f : Fmt) (isMax : Bool) (bx by_ : Nat) (tx ty : Nat) : FRes :=
  let x := fop f bx tx
  let y := fop f by_ ty
  let fl := nvIf (x.v.isSnan || y.v.isSnan)
  let rx : FRes := ⟨bx % 2 ^ f.width, x.tag, fl⟩
  let ry : FRes := ⟨by_ % 2 ^ f.width, y.tag, fl⟩
  match x.v.isNan, y.v.isNan with
  | true, true => nanRes f fl
  | true, false => ry
  | false, true => rx
  | false, false =>
    if rx.bits = ry.bits then ⟨rx.bits, min x.tag y.tag, fl⟩
    else
      let xLess := match cmpFin x.v y.v with | .lt => true | .gt => false | .eq => x.v.neg
      if xLess != isMax then rx else ry

/-- Compares: eq, lt, le, unordered (R360). -/
def fEq (x y : FVal) : Bool × FFlags :=
  (!x.isNan && !y.isNan && cmpFin x y = .eq, nvIf (x.isSnan || y.isSnan))
def fLt (x y : FVal) : Bool × FFlags :=
  (!x.isNan && !y.isNan && cmpFin x y = .lt, nvIf (x.isNan || y.isNan))
def fLe (x y : FVal) : Bool × FFlags :=
  (!x.isNan && !y.isNan && cmpFin x y != .gt, nvIf (x.isNan || y.isNan))
def fUn (x y : FVal) : Bool × FFlags := (x.isNan || y.isNan, nvIf (x.isSnan || y.isSnan))

/-- FCLASS (R361). -/
def fClass (f : Fmt) (x : FOp) : Nat :=
  let bit := match x.v with
    | .inf true => 0
    | .inf false => 7
    | .nan true => 8
    | .nan false => 9
    | .fin n m q =>
      let sub := decide (topExp m q < f.emin)
      if m = 0 then (if n then 3 else 4)
      else if n then (if sub then 2 else 1) else (if sub then 5 else 6)
  2 ^ bit + (if x.tag < f.p then 1024 else 0)

/-- FSCL (R363). -/
def fScl (f : Fmt) (mode : RMode) (x : FOp) (k : Int) : FRes :=
  match x.v with
  | .nan b => nanRes f (nvIf b)
  | .inf n => infRes f n 0
  | .fin n m q =>
    if m = 0 then ⟨signBit f n, x.tag, 0⟩
    else
      let r := roundTo f mode n m (q + k) false
      ⟨r.bits, settle f r false x.tag, r.flags⟩

/-- An integral value nearest to a finite one in the mode, and whether it changed. -/
def toIntegral (mode : RMode) (n : Bool) (m : Nat) (q : Int) : Nat × Bool :=
  if 0 ≤ q then (m * 2 ^ q.toNat, false)
  else
    let r := roundAt mode n m q 0 false
    (r.1, r.2 != 0)

/-- FRND (R364): the add rule with u at least 0, so a spent zero ends with tag 0 and an exact zero stays exact. -/
def fRnd (f : Fmt) (mode : RMode) (x : FOp) : FRes :=
  match x.v with
  | .nan b => nanRes f (nvIf b)
  | .inf n => infRes f n 0
  | .fin n m q =>
    if m = 0 then ⟨signBit f n, if x.tag = f.p then f.p else 0, 0⟩
    else if 0 ≤ q then
      (let r := roundTo f mode n m q false
       ⟨r.bits, addTag f (sigOf f x.v x.tag) (.num 0 1) r false, 0⟩)
    else
      let i := toIntegral mode n m q
      let r := roundTo f mode n i.1 0 false
      ⟨r.bits, if i.1 = 0 then 0 else addTag f (sigOf f x.v x.tag) (.num 0 1) r false, if i.2 then fNX else 0⟩

/-! ## Conversions (R144-R147, R365) -/

/-- Float to float; sat8: FPMODE.SATF8. DEDUCED (R153, log 69): an exact zero takes the target's tag whatever the two formats are, so BF16 to F16 and
F8B to F8A count as widening. -/
def cvtFF (src tgt : Fmt) (mode : RMode) (sat8 : Bool) (x : FOp) : FRes :=
  let sat := sat8 && tgt.width = 8
  match x.v with
  | .nan b => nanRes tgt (nvIf b)
  | .inf n => if sat then ⟨maxBits tgt n, min x.tag tgt.p, 0⟩ else infRes tgt n 0
  | .fin n m q =>
    let z := m = 0
    let r := roundTo tgt mode n m q false
    let tag :=
      if z then (if x.tag = src.p then tgt.p else min x.tag tgt.p)
      else settle tgt r false (min x.tag tgt.p)
    if sat && r.inf then ⟨maxBits tgt n, min x.tag tgt.p, r.flags⟩ else ⟨r.bits, tag, r.flags⟩

/-- Integer bounds of an integer type and of I4X. -/
def intRange (t : Ty) : Int × Int :=
  match t with
  | .i4x => (-7, 7)
  | t => if t.isSigned then (-(2 ^ (t.width - 1) : Int), (2 ^ (t.width - 1) : Int) - 1) else (0, (2 ^ t.width : Int) - 1)

/-- Float to integer (R145): the integer and its flags. -/
def cvtFI (tgt : Ty) (mode : RMode) (v : FVal) : Int × FFlags :=
  let rg := intRange tgt
  match v with
  | .nan _ => (0, fNV)
  | .inf n => (if n then rg.1 else rg.2, fNV)
  | .fin n m q =>
    let i := toIntegral mode n m q
    let x : Int := if n then -(i.1 : Int) else i.1
    if x < rg.1 then (rg.1, fNV) else if rg.2 < x then (rg.2, fNV) else (x, if i.2 then fNX else 0)

/-- Integer to float (R146). DEDUCED (log 69): R144 speaks of conversions of a float, so SATF8 is ignored here. -/
def cvtIF (tgt : Fmt) (mode : RMode) (i : Int) : FRes :=
  let r := roundTo tgt mode (decide (i < 0)) i.natAbs 0 false
  ⟨r.bits, if r.inf then 0 else tgt.p, r.flags⟩

/-- An integer of width w from its bits. -/
def intOf (t : Ty) (bits : Nat) : Int :=
  let w := t.width
  let b := bits % 2 ^ w
  if t.isSigned && 2 ^ (w - 1) ≤ b then (b : Int) - 2 ^ w else b

/-- The low n bits of an integer. -/
def intBits (n : Nat) (i : Int) : Nat := (i % (2 ^ n : Int)).toNat

/-- I4X saturates an integer (R146). -/
def satI4 (i : Int) : Int := max (-7) (min 7 i)

/-- A conversion between plain types, and to I4X, of one element; the tag is 64 for an integer result (R365, R372).
DEDUCED (log 69): from a format to itself an infinity keeps its value, as R365 says, whatever SATF8 holds. -/
def convert (src tgt : Ty) (mode : RMode) (sat8 : Bool) (bits tag : Nat) : FRes :=
  match src.isFloat, tgt.isFloat with
  | true, true =>
    if src = tgt then
      (let f := fmtOf src
       let x := fop f bits tag
       match x.v with
       | .nan b => nanRes f (nvIf b)
       | .inf n => infRes f n 0
       | _ => ⟨bits % 2 ^ f.width, x.tag, 0⟩)
    else cvtFF (fmtOf src) (fmtOf tgt) mode sat8 (fop (fmtOf src) bits tag)
  | true, false =>
    let r := cvtFI tgt mode (unpack (fmtOf src) (bits % 2 ^ (fmtOf src).width))
    ⟨intBits tgt.width r.1, 64, r.2⟩
  | false, true => cvtIF (fmtOf tgt) mode (intOf src bits)
  | false, false =>
    let i := intOf src bits
    ⟨intBits tgt.width (if tgt = .i4x then satI4 i else i), 64, 0⟩

/-! ## I4X (R135-R137) -/

/-- An element of a decoded word: an integer, or an outlier with its F8A bits. -/
inductive I4El where
  | int (i : Int)
  | out (bits : Nat)
deriving DecidableEq, Repr

/-- Slot k of a word. -/
def i4Slot (w k : Nat) : Nat := w / 16 ^ k % 16

def sext4 (c : Nat) : Int := if 8 ≤ c then (c : Int) - 16 else c

/-- Decodes from slot k on, where n slots are left. -/
def i4Decode (w : Nat) : (n : Nat) → (skip : Nat) → List I4El
  | 0, _ => []
  | n + 1, skip =>
    let k := 7 - n
    if skip != 0 then .int 0 :: i4Decode w n (skip - 1)
    else if i4Slot w k = 8 && k ≤ 5 then
      .out (i4Slot w (k + 1) * 16 + i4Slot w (k + 2)) :: i4Decode w n 2
    else .int (sext4 (i4Slot w k)) :: i4Decode w n 0

/-- The eight elements of a word. -/
def i4Word (w : Nat) : List I4El := i4Decode w 8 0

/-- An I4X element converted (R147, R373): an outlier as an F8A with tag min(group tag, 4), an integer as I8. -/
def convertI4 (tgt : Ty) (mode : RMode) (sat8 : Bool) (e : I4El) (tag : Nat) : FRes :=
  match e with
  | .int i => convert .i8 tgt mode sat8 (intBits 8 i) 64
  | .out b => convert .f8a tgt mode sat8 b (min tag 4)

end Sys2Proof.Machine
end

