-- ==== Sys2Proof/Machine/Operands.lean ====
section
/-! DEFINITION. Operand forms: scalar sources and results by format (R293, R294, R319), vector registers, masks and elements
(R350-R352), group tags (R156), the sticky flags (R143) and the SIGLOSS test (R159, R356). -/

namespace Sys2Proof.Machine

/-! ## Scalar sources -/

/-- Two sources, S1 then S2. -/
def read2 (s : State) (a b : Opd) (ta tb : Bool) : Res (Reg × Reg × State) := do
  let x ← readSrc s a ta
  let y ← readSrc x.2 b tb
  .ok (x.1, y.1, y.2)

/-- Three sources: S1, S2, then D, which blocks. -/
def read3 (s : State) (a b d : Opd) (ta tb : Bool) : Res (Reg × Reg × Reg × State) := do
  let x ← read2 s a b ta tb
  let z ← readSrc x.2.2 d false
  .ok (x.1, x.2.1, z.1, z.2)

/-- An integer instruction of two sources (R319). -/
def int2 (s : State) (d a b : Opd) (ta tb : Bool) (f : Word → Word → Word) : Res State := do
  checkCodes [(0, d), (1, a), (2, b)]
  let x ← read2 s a b ta tb
  let t ← writeDest x.2.2 d (Reg.of (f x.1.val x.2.1.val) Tag.full)
  .ok (retire t)

/-- An integer instruction of one source. -/
def int1 (s : State) (d a : Opd) (ta : Bool) (f : Word → Word) : Res State := do
  checkCodes [(0, d), (1, a)]
  let x ← readSrc s a ta
  let t ← writeDest x.2 d (Reg.of (f x.1.val) Tag.full)
  .ok (retire t)

/-- An instruction with no source. -/
def int0 (s : State) (d : Opd) (v : Word) : Res State := do
  checkCodes [(0, d)]
  let t ← writeDest s d (Reg.of v Tag.full)
  .ok (retire t)

/-! ## FPMODE, flags and SIGLOSS -/

def Strand.rm (x : Strand) : RMode := rmOf (fld x.fpmode 2 0)
def Strand.satF8 (x : Strand) : Bool := x.fpmode.getLsbD 3
def Strand.thr (x : Strand) : Nat := fld x.sigthr 6 0

/-- Flags are sticky (R143). -/
def Strand.raiseFlags (x : Strand) (f : FFlags) : Strand := { x with fpflags := x.fpflags ||| f.zeroExtend 64 }

/-- One test of R159: the lane group, its result tag and the operand tags it had (none where there is no such operand). -/
structure LossTest where
  lane : Nat
  res : Nat
  s1 : Option Nat
  s2 : Option Nat
  s3 : Option Nat
deriving DecidableEq, Repr

def LossTest.fires (thr : Nat) (c : LossTest) : Bool :=
  decide (c.res < thr) && decide (thr ≤ min (c.s1.getD 64) (min (c.s2.getD 64) (c.s3.getD 64)))

/-- TVAL of SIGLOSS (R120). -/
def LossTest.tval (c : LossTest) : Word :=
  word (c.lane <<< 34 ||| (c.s3.getD 0) <<< 24 ||| (c.s2.getD 0) <<< 16 ||| (c.s1.getD 0) <<< 8 ||| c.res)

/-- The lowest trapping lane's TVAL, in user mode with THR nonzero. -/
def lossOf (x : Strand) (cs : List LossTest) : Option Word :=
  if x.thr = 0 || x.kernel then none else (cs.find? (·.fires x.thr)).map (·.tval)

/-- Takes SIGLOSS after the instruction, before the next one (R160). -/
def takeLoss (s : State) (k : Fin 16) (loss : Option Word) : State :=
  match loss with
  | some v => raiseTrap s k tcSigloss v
  | none => s

/-- A float instruction ends: its flags, the PC, and SIGLOSS. -/
def floatEnd (s : State) (fl : FFlags) (cs : List LossTest) : State :=
  takeLoss (retire (s.mod (·.raiseFlags fl))) s.cur (lossOf s.st cs)

/-- A division-type instruction has marked its destination: the fill is due after n cycles, and with THR nonzero the strand is
stalled until then (R353, R354). -/
def divideStart (s : State) (ticket n : Nat) (r : DivResult) : State :=
  let t := (retire s).at (s.now + n) (.fpDivideFill s.cur ticket r)
  if s.st.thr = 0 then t else t.setRun t.cur (.stalled (.division ticket))

/-! ## Vector registers -/

/-- Reads a vector register, which always blocks (R101, R293). -/
def readVec (s : State) (n : VIdx) : Res Lanes :=
  let r := s.st.v[n.toFin]
  if r.full then .ok r.lanes else .error (.park (.register (64 + n.toNat)))

/-- A vector destination that still waits for a fill parks the strand (R100). -/
def vecFree (s : State) (n : VIdx) : Res Unit :=
  let r := s.st.v[n.toFin]
  if !r.full && r.bind.isSome then .error (.park (.register (64 + n.toNat))) else .ok ()

def setVec (s : State) (n : VIdx) (r : VReg) : State := s.mod fun x => { x with v := x.v.set n.toFin r }

/-- Writes a vector register, full. -/
def writeVec (s : State) (n : VIdx) (l : Lanes) : Res State := do
  vecFree s n
  .ok (setVec s n ⟨l, true, none⟩)

/-- Marks a vector register empty and bound to a fill; its bits are kept. -/
def writeVecPending (s : State) (n : VIdx) (ticket : Nat) : Res State := do
  vecFree s n
  .ok (setVec s n ⟨(s.st.v[n.toFin]).lanes, false, some ticket⟩)

/-! ## Masks and elements -/

/-- m0 reads all ones (R107). -/
def maskOf (x : Strand) (m : MIdx) : Word := if m = 0 then BitVec.allOnes 64 else x.m[m.toFin]

/-- A write to m0 is discarded. -/
def setMask (s : State) (m : MIdx) (v : Word) : State :=
  if m = 0 then s else s.mod fun x => { x with m := x.m.set m.toFin v }

/-- Elements of a type in a register (R350). -/
def laneCount (t : Ty) : Nat := 512 / t.width

/-- Is element i of width w active? -/
def active (mask : Word) (w i : Nat) : Bool := mask.getLsbD (w * i / 8)

/-- Element i of width w. -/
def elem (b : BitVec 512) (w i : Nat) : Nat := b.toNat / 2 ^ (w * i) % 2 ^ w

/-- The group tag of element i; the lesser of an F64 element's two, which are equal (R106). -/
def groupTagAt (l : Lanes) (w i : Nat) : Nat :=
  let g := w * i / 32
  let at_ := fun j => ((l.tags.toList[j]?).getD Tag.full).val
  if w = 64 then min (at_ g) (at_ (g + 1)) else at_ g

/-- P of a float type; 64 for an integer (R99, R352). -/
def tyP (t : Ty) : Nat := if t.isFloat then (fmtOf t).p else 64

/-- The operand tag of element i (R352). -/
def elemTag (l : Lanes) (t : Ty) (i : Nat) : Nat := if t.isFloat then min (groupTagAt l t.width i) (tyP t) else 64

/-- The operand tag of group g for a float type. -/
def groupP (l : Lanes) (t : Ty) (g : Nat) : Nat := min ((l.tags.toList[g]?).getD Tag.full).val (tyP t)

/-- Elements of width w that lie in group g. -/
def groupElems (w g : Nat) : List Nat := if w = 64 then [g / 2] else (List.range (32 / w)).map (g * (32 / w) + ·)

/-- The bits of a merged register: element i takes its result, or keeps the old one. -/
def mergeBits (old : BitVec 512) (w : Nat) (res : Nat → Option (Nat × Nat)) : BitVec 512 :=
  BitVec.ofNat 512 ((List.range (512 / w)).foldr
    (fun i a => (match res i with | some r => r.1 % 2 ^ w | none => elem old w i) + 2 ^ w * a) 0)

/-- A group's tag from its elements (R156). -/
def mergeTag (old : Tag) (es : List (Option (Nat × Nat))) : Tag :=
  let new := es.filterMap id
  if new.isEmpty then old
  else
    let t := new.foldl (fun t r => min t r.2) 64
    Tag.ofNat (if new.length = es.length then t else min t old.val)

/-- A merged register (R351, R156). -/
def merge (old : Lanes) (w : Nat) (res : Nat → Option (Nat × Nat)) : Lanes :=
  ⟨mergeBits old.bits w res, Vector.ofFn fun g => mergeTag old.tags[g] ((groupElems w g.val).map res)⟩

/-- Does group g hold an active element? -/
def groupActive (mask : Word) (w g : Nat) : Bool := (groupElems w g).any (active mask w)

/-- The SIGLOSS tests of a vector result over its active groups (R356). -/
def vecLoss (mask : Word) (t : Ty) (res : Lanes) (s1 s2 s3 : Option Lanes) : List LossTest :=
  ((List.range 16).filter (groupActive mask t.width)).map fun g =>
    ⟨g, ((res.tags.toList[g]?).getD Tag.full).val, s1.map (groupP · t g), s2.map (groupP · t g), s3.map (groupP · t g)⟩

/-- A value placed in a scalar register by its type: a signed integer is sign-extended, anything else zero-extended (R357,
R365). -/
def place (t : Ty) (bits : Nat) : Word :=
  if t.isSigned then BitVec.ofInt 64 (intOf t bits) else word (bits % 2 ^ t.width)

/-- The OR of the flags of the active elements (R355). -/
def flagsOf (rs : List (Option FRes)) : FFlags :=
  rs.foldl (fun f r => match r with | some r => f ||| r.flags | none => f) 0

end Sys2Proof.Machine
end

