-- ==== Sys2Proof/Machine/Loads.lean ====
section
/-! DEFINITION. How accesses that have issued are performed (R202, R205-R210, R385): loads, acquires, releases, the store buffer
and the die boundary buffer, line fetches, and the walks of translation (R195, R196). -/

namespace Sys2Proof.Machine

/-! ## What a load finds -/

/-- How a load is served (R205, R207). -/
inductive Serve where
  | plain | relaxed | acquire
deriving DecidableEq, Repr

/-- A value with its tag byte and the buffer entry that served it; not yet, and the line it needs; a poisoned word; a hole. -/
inductive Got where
  | val (v : Nat) (tagb : BitVec 8) (served : Option Nat)
  | wait (line : Option (Nat × Bool))
  | bad (pa : Nat)
  | hole (pa : Nat)
deriving DecidableEq, Repr

/-- A debug window of the modelled core, or another core's, whose content is not held (log 17). -/
def debugValue (s : State) (core off : Nat) : Option Word :=
  if core = s.core.gcore then debugRead s off else some (Config.freeWord s.fresh)

/-- Reads at the home. -/
def homeRead (s : State) (p : Piece) : Got :=
  if poisoned s p.pa then .bad p.pa
  else match home s p.pa with
    | .debug c off =>
      if c = s.core.gcore && debugPoison s off then .bad p.pa
      else (match debugValue s c off with
      | some v => .val v.toNat 0x7F none
      | none => .hole p.pa)
    | .hole => .hole p.pa
    | _ => .val (bytesAt s p.pa p.size) (tagByteAt s p.pa) none

/-- Entries of the boundary buffer and the write-back queue for the word of an address. -/
def entriesFor (s : State) (pa : Nat) : List DbbEntry :=
  (s.die.dbb ++ s.core.wbq).filter fun e => decide (e.x.pa = pa / 8 * 8)

/-- The strand's own writes to the word, still on their way. -/
def ownEntries (s : State) (k : Fin 16) (pa : Nat) : Bool :=
  (entriesFor s pa).any fun e => e.gcore = s.core.gcore && e.strand = k

/-- The newest relaxed store in the boundary buffer that covers the bytes (R207). -/
def relaxedHit (s : State) (pa size : Nat) : Option DbbEntry :=
  let m := enables pa size
  ((s.die.dbb.filter fun e => e.kind = .relaxed && decide (e.x.pa = pa / 8 * 8) && e.x.en &&& m = m)).getLast?

/-- The bytes of a word's store, as a number. -/
def storedAt (x : WordStore) (pa size : Nat) : Nat := x.data.toNat / 2 ^ (8 * (pa % 8)) % 2 ^ (8 * size)

/-- What a load of strand k, ordered by seq, finds for one piece. -/
def readPiece (s : State) (k : Fin 16) (seq : Nat) (p : Piece) (how : Serve) : Got :=
  match forward p.pa p.size seq (s.strand k).sb with
  | .overlap => .wait none
  | .hit v t => .val v t none
  | .none =>
    if onDie s p.pa then homeRead s p
    else match how with
      | .acquire => if (entriesFor s p.pa).isEmpty then homeRead s p else .wait none
      | .relaxed =>
        (match relaxedHit s p.pa p.size with
         | some e => .val (storedAt e.x p.pa p.size) 0x7F (some e.id)
         | none => if ownEntries s k p.pa then .wait none else homeRead s p)
      | .plain =>
        if cacheable s p.pa p.nc then
          (match cacheWord s p.pa with
           | some w => if w.poison then .bad p.pa else .val (w.data.toNat / 2 ^ (8 * (p.pa % 8)) % 2 ^ (8 * p.size)) 0x7F none
           | none => .wait (some (lineOf p.pa, p.ro)))
        else if ownEntries s k p.pa then .wait none else homeRead s p

/-- A byte of the tag plane or of memory as LDT takes it (R162, R388). -/
def tagOfByte (b : Nat) (absent : Nat) : Tag :=
  let n := b % 128
  if n = 127 then Tag.ofNat absent else if n ≤ 64 then Tag.ofNat n else Tag.full

/-- The tag of a piece whose value has been found with tag byte tagb; none while its own access waits. -/
def readTag (s : State) (k : Fin 16) (seq : Nat) (t : TagRead) (tagb : BitVec 8) (absent : Nat) : Except Got Tag :=
  match t with
  | .full => .ok (Tag.ofNat absent)
  | .plane => .ok (tagOfByte tagb.toNat absent)
  | .memory p => match readPiece s k seq p .plain with
    | .val v _ _ => .ok (tagOfByte v absent)
    | g => .error g

/-! ## Order at one home (R176) -/

/-- The unit that serves an address, for the order of R176. -/
def homeKey (s : State) (pa : Nat) : Nat × Nat :=
  match home s pa with
  | .hbm => (0, pa / 1024 % 512)
  | .sram d _ => (1, d)
  | .spad c _ => (2, c)
  | .tcm c _ | .tagView c _ | .feView c _ | .debug c _ => (3, c)
  | .hub => (4, 0)
  | .host => (5, 0)
  | .hole => (6, 0)

/-- May a request ordered by seq perform with respect to the strand's earlier ones? -/
def turn (s : State) (k : Fin 16) (seq : Nat) (a : Access) : Bool :=
  !(s.core.reqs.any fun r => r.strand = k && decide (r.ticket < seq) &&
    ((r.acc.kinds s).any (fun e => (a.kinds s).any (ordersAfter e)) ||
      ((r.acc.kind s = .offDie || r.acc.isWrite) && homeKey s r.acc.pa = homeKey s a.pa)))

/-! ## Replies -/

def dropReq (s : State) (ticket : Nat) : State :=
  s.withCore fun c => { c with reqs := c.reqs.filter (·.ticket != ticket) }

def retry (s : State) (a : Act) : State := s.at (s.now + 1) a

/-- A request of strand k asks for the line it misses, once no write-through to it is on its way (R185). -/
def wantLine (s : State) (k : Fin 16) (line : Option (Nat × Bool)) : State :=
  match line with
  | some (l, ro) => if lineBusy s l then s else startFetch s k l ro
  | none => s

/-- The virtual address of a physical one of the request, for its fault packet; zero if it named none (R470). -/
def Req.va (r : Req) (pa : Nat) : Word := word (((r.vas.find? (·.1 = pa)).map (·.2)).getD 0)

/-- An error reply (R465): the destination loses its binding; the strand freezes, or, when it holds no context, nothing more. One that is frozen
stays so, with the cause of this fault as its last (R467, R473). -/
def deferred (s : State) (r : Req) (cause : BitVec 8) (pa : Nat) : State :=
  let t := unbindFill (dropReq s r.ticket) r.strand r.ticket
  let t := match r.acc with
    | .acquire _ _ => t.modStrand r.strand fun x =>
        { x with acq := x.acq.bind fun a => if 4 ≤ Scope.rank a.sc then some { a with load := false } else none }
    | _ => t
  match (t.strand r.strand).run with
  | .halted | .absent => t
  | .frozen => sendPacket (t.modStrand r.strand fun x => { x with cause := cause })
      (t.packet (packetWords t cause true true (t.strand r.strand).kernel (t.gstrand r.strand) r.pc (r.va pa) (word pa) r.ins))
  | _ => freeze (dropWaits t r.strand) r.strand cause true r.pc (r.va pa) (word pa) r.ins

/-- What a reply does when its piece waits, is poisoned or found a hole. -/
def notYet (s : State) (r : Req) : Got → State
  | .wait line => retry (wantLine s r.strand line) (.remoteReplyArrive r.ticket)
  | .bad pa => deferred s r cPOISON pa
  | .hole pa => deferred s r cHOLE pa
  | .val _ _ _ => s

/-- The cycles of refresh an HBM read met reach LATCNT with its fill (R225). -/
def creditLat (s : State) (ticket : Nat) (k : Fin 16) : State :=
  let n := ((s.core.refWaits.filter (·.1 = ticket)).map (·.2)).foldl (· + ·) 0
  (s.withCore fun c => { c with refWaits := c.refWaits.filter (·.1 != ticket) }).modStrand k fun x =>
    { x with latcnt := x.latcnt + word n }

def addLatcnt (s : State) (r : Req) : State := creditLat s r.ticket r.strand

/-- What a read brings in from a host window is an input of the core's partition, which the jay logs (R285, KIND 4). -/
def logHostRead (s : State) (pa len : Nat) (ws : List Word) : State :=
  match home s pa with
  | .host => jayLog s s.part 4 len (word pa) ws
  | _ => s

/-- A piece of a load that is read at its home, and neither in the strand's store buffer nor in the cache. -/
def readsHome (s : State) (r : Req) (p : Piece) (plain : Bool) : Bool :=
  (match forward p.pa p.size r.ticket (s.strand r.strand).sb with | .none => true | _ => false) && !(plain && cacheable s p.pa p.nc)

/-- The reply fills the destination. -/
def reply (s : State) (r : Req) (v : Word) (t : Tag) : State :=
  fillReg (addLatcnt (dropReq s r.ticket) r) r.strand r.ticket v t

/-- A value of size bytes extended (R387). -/
def extend (v size : Nat) (signed : Bool) : Word :=
  if signed && decide (2 ^ (8 * size - 1) ≤ v) then BitVec.ofInt 64 ((v : Int) - 2 ^ (8 * size)) else word v

/-- A relaxed load served from a buffer entry holds the strand's later stores (R208). -/
def noteServed (s : State) (k : Fin 16) (e : Option Nat) : State :=
  match e with
  | some id => s.modStrand k fun x => { x with served := x.served ++ [id] }
  | none => s

/-- The lines that served plain loads become the latest used (R185). -/
def useLines (s : State) (ps : List Piece) : State :=
  (ps.filter fun p => cacheable s p.pa p.nc).foldl (fun s p => cacheTouch s (lineOf p.pa)) s

/-- A scalar load performs. -/
def performLoad (s : State) (r : Req) (p : Piece) (signed : Bool) (tag : TagRead) (relaxed : Bool) : State :=
  match readPiece s r.strand r.ticket p (if relaxed then .relaxed else .plain) with
  | .val v tagb e =>
    (match readTag s r.strand r.ticket tag tagb 64 with
     | .ok t =>
       let s := if readsHome s r p (!relaxed) then logHostRead s p.pa p.size [word v] else s
       reply (noteServed { useLines s (if relaxed then tag.piece else p :: tag.piece) with fresh := s.fresh + 1 } r.strand e) r
         (extend v p.size signed) t
     | .error g => notYet s r g)
  | g => notYet s r g

/-- An acquire's load performs (R209): at scopes 4 and 5 the value, and with it LATCNT's count (R225), waits for the acquire to complete. -/
def performAcquire (s : State) (r : Req) (p : Piece) (sc : Scope) : State :=
  match readPiece s r.strand r.ticket p .acquire with
  | .val v _ _ =>
    let s := if readsHome s r p false then logHostRead s p.pa p.size [word v] else s
    let s := { s with fresh := s.fresh + 1 }
    if 4 ≤ Scope.rank sc then
      (dropReq s r.ticket).modStrand r.strand fun x =>
        { x with acq := x.acq.map fun a => { a with fill := some (r.ticket, word v), load := false } }
    else
      (reply s r (word v) Tag.full).modStrand r.strand fun x =>
        { x with acq := x.acq.bind fun a => if 4 ≤ Scope.rank a.sc then some { a with load := false } else none }
  | g => notYet s r g

/-- The pieces of a vector load, read together; the first that is not to be had ends it. -/
def readPieces (s : State) (k : Fin 16) (seq absent : Nat) : List (Nat × Piece × TagRead) → Except Got (List (Nat × Nat × Nat × Tag))
  | [] => .ok []
  | (at_, p, t) :: ps =>
    match readPiece s k seq p .plain with
    | .val v tagb _ =>
      (match readTag s k seq t tagb absent with
       | .ok g => (readPieces s k seq absent ps).map fun rest => (at_, p.size, v, g) :: rest
       | .error g => .error g)
    | g => .error g

/-- The register a vector load writes (R393, R394). -/
def vecLoaded (t : Ty) (mask : Word) (tagged : Bool) (old : Lanes) (got : List (Nat × Nat × Nat × Tag)) : Lanes :=
  let bits := got.foldl (fun b g => b ||| BitVec.ofNat 512 (g.2.2.1 * 2 ^ (8 * g.1))) (0 : BitVec 512)
  let w := t.width
  let tagAt := fun i => ((got.find? fun g => g.1 / 8 = w * i / 64).map fun g => g.2.2.2.val).getD 64
  merge old w fun i => if active mask w i then some (elem bits w i, if tagged then min (tagAt i) (tyP t) else 64) else none

def performVector (s : State) (r : Req) (ps : List (Nat × Piece × TagRead)) (t : Ty) (mask : Word) (tagged : Bool) (old : Lanes) :
    State :=
  match readPieces s r.strand r.ticket (tyP t) ps with
  | .ok got =>
    let s := (ps.zip got).foldl (fun t g =>
      if readsHome s r g.1.2.1 true then logHostRead t g.1.2.1.pa g.1.2.1.size [word g.2.2.2.1] else t) s
    fillVec (addLatcnt (dropReq { useLines s (r.acc.pieces ++ r.acc.tagPieces) with fresh := s.fresh + 1 } r.ticket) r) r.strand r.ticket (vecLoaded t mask tagged old got)
  | .error g => notYet s r g

/-! ## Atomics (R188, R391) -/

/-- The new word and the flags, from the old. -/
def amoNew (fn : BitVec 4) (old src : Word) : Word × FFlags :=
  let fl := fun (f : Fmt) => fAdd f .rne (fop f old.toNat f.p) (fop f src.toNat f.p)
  match fn.toNat with
  | 0 => (old + src, 0)
  | 1 => (old &&& src, 0)
  | 2 => (old ||| src, 0)
  | 3 => (old ^^^ src, 0)
  | 4 => (if old.toInt ≤ src.toInt then old else src, 0)
  | 5 => (if old.toInt ≤ src.toInt then src else old, 0)
  | 6 => (if old.toNat ≤ src.toNat then old else src, 0)
  | 7 => (if old.toNat ≤ src.toNat then src else old, 0)
  | 8 => (src, 0)
  | 9 => (word (fl fF32).bits, (fl fF32).flags)
  | _ => (word (fl fF64).bits, (fl fF64).flags)

/-- An atomic at its home: the old value, the machine after, and its flags; none when the word is poisoned. -/
def atomicAt (s : State) (p : Piece) (f : Word → Word × FFlags) : Option (Word × FFlags × State) :=
  if poisoned s p.pa then none
  else
    let old := word (bytesAt s p.pa p.size)
    let n := f old
    some (old, n.2, homeStore s (storeOf p.pa p.size n.1 0x7F))

/-- The function of an atomic request; CAS compares and writes the low bytes. -/
def Access.update : Access → Word → Word × FFlags
  | .amo _ fn src, old => amoNew fn old src
  | .cas p cmp new, old =>
    (if old.toNat = cmp.toNat % 2 ^ (8 * p.size) then word (new.toNat % 2 ^ (8 * p.size)) else old, 0)
  | _, old => (old, 0)

/-- An atomic performs and replies; its flags are raised as D fills. A granule a checkpoint still holds is copied first (R538). -/
def performAtomic (s : State) (r : Req) (again : Act) : State :=
  let p := r.acc.piece
  if ckptHolds s s.func p.pa then retry (needCopy s p.pa) again
  else match atomicAt s p r.acc.update with
    | some (old, fl, t) => (reply t r old Tag.full).modStrand r.strand (·.raiseFlags fl)
    | none => deferred s r cPOISON p.pa

/-- An off-die atomic leaves the core (R187, R206): the line is written through and invalidated, and the request enters the
boundary buffer. It leaves after the strand's earlier stores to the line and its earlier releases, and when its line's words and it
find room. -/
def atomicSent (s : State) (ticket : Nat) : Bool := (s.die.dbb ++ s.core.wbq).any fun e => e.kind = .atomic ticket

def atomicMayLeave (s : State) (r : Req) : Bool :=
  let pa := r.acc.pa
  let dirty := match cacheFind s (lineOf pa) with | some l => l.dirty | none => 0
  roomFor s pa (dirty + 1) && !((s.strand r.strand).sb.any fun i => match i with
    | .release n _ _ _ _ => decide (n < r.ticket)
    | .store n x _ _ => decide (n < r.ticket) && lineOf x.pa = lineOf pa)

def sendAtomic (s : State) (r : Req) : State :=
  let pa := r.acc.pa
  let s := match cacheFind s (lineOf pa) with
    | some l => cacheDrop (writeThrough s r.strand l) l.line
    | none => s
  pushDbb s r.strand (.atomic r.ticket) ⟨pa / 8 * 8, 0, 0, 0x7F⟩

/-- The cluster the address's scratchpad belongs to, when it is the core's own (R189). -/
def ownSpad (s : State) (pa : Nat) : Bool :=
  match home s pa with | .spad c _ => c = s.cluster | _ => false

/-- An atomic's next move: at an on-die home at once, to the cluster engine, or out through the boundary buffer. -/
def stepAtomic (s : State) (r : Req) : State :=
  let again := Act.remoteReplyArrive r.ticket
  if !turn s r.strand r.ticket r.acc || servedHolds s r.strand then retry s again
  else if ownSpad s r.acc.pa then
    (if s.clu.atomReqs.any (fun q => match q.op with | .own _ => true | _ => false) then retry s again
     else atomArrive s ⟨s.now, s.core.gcore, .own r⟩)
  else if onDie s r.acc.pa then performAtomic s r again
  else if atomicSent s r.ticket then s
  else if atomicMayLeave s r then sendAtomic s r
  else retry s again

/-- The request the engine serves: the earliest to arrive, then the lowest core (R189). -/
def atomHead (s : State) : Option AtomReq :=
  s.clu.atomReqs.foldl (fun b r => match b with
    | none => some r
    | some x => if r.arrive < x.arrive || (r.arrive = x.arrive && r.gcore < x.gcore) then some r else some x) none

def AtomOp.line : AtomOp → Nat
  | .own r => lineOf r.acc.pa
  | .plain l _ => l
  | .other a => lineOf a.pa

/-- An atomic of another core at the scratchpad. -/
def otherAtomic (s : State) (a : Access) : State :=
  match atomicAt s a.piece a.update with
  | some r => r.2.2
  | none => s

/-- R189: the engine serves one request every 2 cycles; its line becomes the latest of the 64 it holds. -/
def execAtomicEngineServe (s : State) : Host.Outcome State Fault Refusal :=
  if s.now < s.clu.atomNext then done (if s.clu.atomReqs.isEmpty then s else s.atOnce s.clu.atomNext .atomicEngineServe)
  else match atomHead s with
  | none => done s
  | some q =>
    let lines := s.clu.atomLines.filter (· != q.op.line) ++ [q.op.line]
    let t := s.withClu fun u => { u with
      atomReqs := u.atomReqs.erase q, atomLines := lines.drop (lines.length - 64), atomNext := s.now + 2 }
    let t := if t.clu.atomReqs.isEmpty then t else t.atOnce (t.now + 2) .atomicEngineServe
    match q.op with
    | .own r => done (if t.core.reqs.any (·.ticket = r.ticket) then performAtomic t r (.remoteReplyArrive r.ticket) else t)
    | .plain _ u => done (bankServed t u)
    | .other a => done (otherAtomic t a)

/-! ## Full/empty accesses of another core's TCM (R175) -/

/-- A request that joined the word's waiters before r (R174). -/
def joinedBefore (r q : Req) : Bool :=
  match q.joined, r.joined with
  | some a, some b => a < b || (a = b && q.ticket < r.ticket)
  | some _, none => true
  | _, _ => false

/-- The request joins the waiters of its word as it arrives there. -/
def joinHome (s : State) (r : Req) : State :=
  if r.joined.isSome then s
  else s.withCore fun c => { c with reqs := c.reqs.map fun q => if q.ticket = r.ticket then { q with joined := some s.now } else q }

/-- A waiter of this core before r that would change the word as r's kind does: an LDF for a full word, an STF for an empty one (R174). -/
def frontWaiter (s : State) (r : Req) (pa : Nat) (stf : Bool) : Bool :=
  !(s.core.reqs.any fun q => q.ticket != r.ticket && joinedBefore r q && (match q.acc with
    | .ldf a keep => a = pa && !keep && !stf
    | .stf a _ => a = pa && stf
    | _ => false)) && !s.core.moved.contains pa

/-- The word has made its transition of the cycle. -/
def noteMoved (s : State) (pa : Nat) : State := s.withCore fun c => { c with moved := pa :: c.moved }

def performLdf (s : State) (r : Req) (pa : Nat) (keep : Bool) : State :=
  if poisoned s pa then deferred s r cPOISON pa
  else if feAt s pa && frontWaiter s r pa false then
    (let t := reply s r (wordAt s pa) Tag.full
     if keep then t else noteMoved (setFe t pa false) pa)
  else retry (joinHome s r) (.remoteReplyArrive r.ticket)

def performStf (s : State) (r : Req) (pa : Nat) (data : Word) : State :=
  let ready := fun (t : State) =>
    if (t.strand r.strand).run = .stalled (.remoteStf r.ticket) then t.setRun r.strand .ready else t
  if servedHolds s r.strand then retry s (.remoteReplyArrive r.ticket)
  else if !onDie s pa && r.joined.isNone then
    (if bankFull s pa then retry s (.remoteReplyArrive r.ticket) else pushDbb s r.strand (.stf r.ticket) ⟨pa, data, 0xFF, 0x7F⟩)
  else if poisoned s pa then deferred (ready s) r cPOISON pa
  else if feAt s pa || !frontWaiter s r pa true then retry (joinHome s r) (.remoteReplyArrive r.ticket)
  else noteMoved (ready (dropReq (setFe (performStore s ⟨pa, data, 0xFF, 0x7F⟩) pa true) r.ticket)) pa

/-- A full/empty bit changes at a word's home. -/
def fillHome (s : State) (pa : Nat) : State :=
  if ownTcm s pa then fillWord s (pa - tcmPa s.core.gcore 0) else setFe s pa true
def emptyHome (s : State) (pa : Nat) : State :=
  if ownTcm s pa then emptyWord s (pa - tcmPa s.core.gcore 0) else setFe s pa false

/-- STFF and CLRE at the word's home (R389). -/
def feHome (s : State) (full : Bool) (x : WordStore) : State := if full then fillHome (performStore s x) x.pa else emptyHome s x.pa

/-- A store, STFF or CLRE performs at its on-die home (R176); an STFF or CLRE of another die's TCM leaves through the boundary buffer (R206),
when its bank has room. -/
def performWrite (s : State) (r : Req) (x : WordStore) (fe : Option Bool) : State :=
  let again := Act.remoteReplyArrive r.ticket
  if servedHolds s r.strand then retry s again
  else if onDie s x.pa then
    (if ckptHolds s s.func x.pa then retry (needCopy s x.pa) again
     else match fe with
      | some full => feHome (dropReq s r.ticket) full x
      | none => homeStore (dropReq s r.ticket) x)
  else if bankFull s x.pa then retry s again
  else pushDbb (dropReq s r.ticket) r.strand (.fe (fe.getD true)) x

/-- The request of an STF is still in the boundary buffer (R206). -/
def stfLeaving (s : State) (ticket : Nat) : Bool := (s.die.dbb ++ s.core.wbq).any fun e => e.kind = .stf ticket

/-- R385: a request performs when its turn has come, and its reply fills the destination. -/
def execRemoteReplyArrive (ticket : Nat) (s : State) : Host.Outcome State Fault Refusal :=
  match s.core.reqs.find? (·.ticket = ticket) with
  | none => done s
  | some r =>
    if hbmPending s ticket || bankPending s ticket || stfLeaving s ticket then done (retry s (.remoteReplyArrive ticket))
    else match r.acc with
    | .amo _ _ _ | .cas _ _ _ => done (stepAtomic s r)
    | .load p sg t rel => done (if turn s r.strand ticket r.acc then performLoad s r p sg t rel else retry s (.remoteReplyArrive ticket))
    | .acquire p sc => done (if turn s r.strand ticket r.acc then performAcquire s r p sc else retry s (.remoteReplyArrive ticket))
    | .vector ps t m g old =>
      done (if turn s r.strand ticket r.acc then performVector s r ps t m g old else retry s (.remoteReplyArrive ticket))
    | .ldf pa keep => done (if turn s r.strand ticket r.acc then performLdf s r pa keep else retry s (.remoteReplyArrive ticket))
    | .stf pa v => done (if turn s r.strand ticket r.acc then performStf s r pa v else retry s (.remoteReplyArrive ticket))
    | .write x fe => done (if turn s r.strand ticket r.acc then performWrite s r x fe else retry s (.remoteReplyArrive ticket))

/-! ## Lines, stores and entries on their way -/

/-- R185: a fetched line fills its invalid words, unless a write-through of the core to it is still on its way. -/
def execCacheLineFill (line : Nat) (s : State) : Host.Outcome State Fault Refusal :=
  match s.core.fetches.find? (·.line = line) with
  | none => done s
  | some f =>
    if lineBusy s line || hbmPending s f.ticket || !evictRoom s line then done (retry s (.cacheLineFill line))
    else
      let s := creditLat s f.ticket f.strand
      let s := s.withCore fun c => { c with fetches := c.fetches.filter (·.line != line) }
      let s := cacheRoom s f.strand line f.ro
      let s := logHostRead s (64 * line) 64 ((List.range 8).map fun i => wordAt s (64 * line + 8 * i))
      done (fillLine s line)

/-- R201: the head store of the buffer leaves once its conditions hold; one to the own scratchpad or SRAM as its bank serves it (R180, R182). -/
def execStoreLeave (k : Fin 16) (s : State) : Host.Outcome State Fault Refusal :=
  match (s.strand k).sb with
  | [] => done s
  | .store seq x nc rel :: rest =>
    if !mayLeave s k seq x nc rel then done (retry (if onDie s x.pa then needCopy s x.pa else s) (.storeLeave k))
    else if ownBank s x.pa && !s.clu.bankDone.contains seq then
      done (retry (if atBank s (.store k seq) then s else bankArrive s (.store k seq) x.pa) (.storeLeave k))
    else
      let t := s.withClu fun u => { u with bankDone := u.bankDone.filter (· != seq) }
      done (leave (t.modStrand k fun t => { t with sb := rest }) k seq x nc rel)
  | .release _ _ _ _ _ :: _ => done (retry s (.storeLeave k))

/-- The first entry of a bank leaves the write-back queue as room comes (R206). -/
def promote (s : State) (bank : Nat) : State :=
  let here := (s.die.dbb.filter fun y => bankOf y.x.pa = bank).length
  match s.core.wbq.find? (fun y => bankOf y.x.pa = bank) with
  | some e =>
    if here < 32 then
      ({ s with die := { s.die with dbb := s.die.dbb ++ [e] } }.withCore fun c => { c with wbq := c.wbq.erase e }).later none
        (.dbbEntryAck ⟨bank % 16, Nat.mod_lt _ (by decide)⟩)
    else s
  | none => s

/-- The request of an STF that has left the die waits at the word's home (R175). -/
def stfArrives (s : State) (ticket : Nat) : State :=
  match s.core.reqs.find? (·.ticket = ticket) with
  | some r => retry (joinHome s r) (.remoteReplyArrive ticket)
  | none => s

/-- An entry is performed at its home, where a poisoned word arrives as such (R475); an STF's request waits there (R175). -/
def performEntry (s : State) (e : DbbEntry) : State :=
  match e.kind with
  | .atomic t =>
    (match s.core.reqs.find? (·.ticket = t) with
     | some r => performAtomic s r (.dbbEntryAck ⟨bankOf e.x.pa % 16, Nat.mod_lt _ (by decide)⟩)
     | none => s)
  | .stf t => stfArrives s t
  | .fe full => feHome s full e.x
  | _ => if e.bad then markPoison (homeStore s e.x) e.x.pa else homeStore s e.x

/-- Does the entry wait for a granule that must be copied first (R538)? -/
def entryHeld (s : State) (e : DbbEntry) : Bool := ckptHolds s s.func e.x.pa

/-- The ticket under which an entry's unit is asked for: an atomic's own, whose reply may have waited for refresh (R225). -/
def DbbEntry.ticket (e : DbbEntry) : Nat := match e.kind with | .atomic t => t | _ => e.id

/-- The entry's request goes to its pseudo-channel, an atomic's as a read (R218). -/
def sendEntry (s : State) (e : DbbEntry) : State :=
  let atomic := match e.kind with | .atomic _ => true | _ => false
  let t := { s with die := { s.die with dbb := s.die.dbb.map fun y => if y.id = e.id then { y with sent := true } else y } }
  askLines t e.ticket none (loadClass s) (!atomic) [e.x.pa]

/-- R206: the bank's first entry is performed at its home and leaves; strands it held by R208 go on. -/
def execDbbEntryAck (bank : Fin 16) (s : State) : Host.Outcome State Fault Refusal :=
  match s.die.dbb.find? (fun y => bankOf y.x.pa = bank.val) with
  | none => done s
  | some e =>
    if entryHeld s e then done (retry (needCopy s e.x.pa) (.dbbEntryAck bank))
    else if isHbm e.x.pa && !e.sent then done (retry (sendEntry s e) (.dbbEntryAck bank))
    else if hbmPending s e.ticket then done (retry s (.dbbEntryAck bank))
    else
      let s := performEntry s e
      let s := { s with die := { s.die with dbb := s.die.dbb.filter (·.id != e.id) } }
      let drop : Strand → Strand := fun x => { x with served := x.served.filter (· != e.id) }
      let s := s.withCore fun c => { c with strands := vmap drop c.strands }
      done (promote s bank.val)

/-! ## Acquires and releases -/

/-- A write-through of the core still on its way. -/
def throughPending (s : State) : Bool := (s.die.dbb ++ s.core.wbq).any fun e => e.kind = .through && e.gcore = s.core.gcore

/-- R209, R186, R211: after its load, and the release of a FULL fence, dirty words are written through and lines invalidated; it completes when they are acknowledged. -/
def execAcquireComplete (k : Fin 16) (s : State) : Host.Outcome State Fault Refusal :=
  match (s.strand k).acq with
  | none => done s
  | some a =>
    if a.load || fullHolds s k then done (retry s (.acquireComplete k))
    else if !a.wrote then
      let t := writeThroughAll s k
      if anyDirty t then done (retry t (.acquireComplete k))
      else done (retry ((invalidateLines t).modStrand k fun x => { x with acq := some { a with wrote := true } }) (.acquireComplete k))
    else if throughPending s then done (retry s (.acquireComplete k))
    else
      let t := match a.fill with
        | some (n, v) => fillReg (creditLat s n k) k n v Tag.full
        | none => s
      done (t.modStrand k fun x => { x with acq := none })

/-- A write of the strand still on its way out of the die (R210). -/
def strandWrites (s : State) (k : Fin 16) : Bool :=
  (s.die.dbb ++ s.core.wbq).any fun e => e.gcore = s.core.gcore && e.strand = k && (match e.kind with | .atomic _ => false | _ => true)

/-- The address of fence counter i's VALUE (R255) and of its whole entry. -/
def fenceAddr (s : State) (f i : Nat) : Nat := fld (hubGet s (rFunc f 2)) 42 0 + 16 * i

/-- The die atomic engine adds to a fence counter (R255, R412); cores and the dispatcher are told at the next wheel. -/
def fenceAdd (s : State) (f i : Nat) (n : Word) : State :=
  let pa := fenceAddr s f i
  let s := if ckptHolds s f pa then copyNow s f pa else s
  (putWord s pa (wordAt s pa + n)).at s.nextDieWheel (.fenceCounterNotify ⟨f % 17, Nat.mod_lt _ (by decide)⟩ i)

/-- What a release of number seq lets out. A store to an on-die home outside the core leaves as the buffer's head does, by its bank or over the
memory network (R176, R180, R182). -/
def releaseSignal (s : State) (k : Fin 16) (seq : Nat) : Signal → State
  | .none => s
  | .store x nc =>
    if ownTcm s x.pa then homeStore s x
    else if onDie s x.pa then (s.modStrand k fun t => { t with sb := .store seq x nc false :: t.sb }).later none (.storeLeave k)
    else pushDbb (cacheUpdate s x) k .release x
  | .fcinc f i n vec =>
    let t := fenceAdd s f i n
    (match vec with | some v => raiseMsix t f v.toNat | none => t)
  | .launch h q pa =>
    let t := askLines { s with ticket := s.ticket + 1 } s.ticket (some h) (loadClass s) false [pa]
    t.later none (.launchEnqueue h q (Vector.ofFn fun i => wordAt s (pa + 8 * i.val)))

/-- Where a release's own write goes. -/
def signalPa (s : State) : Signal → Nat
  | .store x _ => x.pa
  | .fcinc f i _ _ => fenceAddr s f i
  | _ => 0

/-- The release's own write waits: for room in its bank of the boundary buffer (R206), or for a checkpoint's copy (R538). -/
def signalWaits (s : State) : Signal → Bool
  | .store x _ => if onDie s x.pa then ckptHolds s s.func x.pa else bankFull s x.pa
  | .fcinc f i _ _ => ckptHolds s f (fenceAddr s f i)
  | _ => false

/-- R210: the waits of the release at the head of the buffer end, and what it lets out leaves. -/
def execReleaseComplete (k : Fin 16) (s : State) : Host.Outcome State Fault Refusal :=
  match (s.strand k).sb with
  | .release seq sc sig wrote full :: rest =>
    if s.core.reqs.any (fun r => r.strand = k && decide (r.ticket < seq)) then done (retry s (.releaseComplete k))
    else if 4 ≤ Scope.rank sc && !wrote then
      let t := writeThroughAll s k
      if anyDirty t then done (retry t (.releaseComplete k))
      else done (retry (t.modStrand k fun x => { x with sb := .release seq sc sig true full :: rest }) (.releaseComplete k))
    else if 4 ≤ Scope.rank sc && (throughPending s || strandWrites s k) then done (retry s (.releaseComplete k))
    else if servedHolds s k then done (retry s (.releaseComplete k))
    else if signalWaits s sig then done (retry (needCopy s (signalPa s sig)) (.releaseComplete k))
    else done (releaseSignal (s.modStrand k fun x => { x with sb := rest }) k seq sig)
  | .store _ _ _ _ :: _ => done (retry s (.releaseComplete k))
  | [] => done s

/-! ## Walks (R195, R196) -/

def sameWalk (s : State) (vpn : Nat) (w : Walk) : Bool := w.vpn = vpn && w.asid = s.asid && w.vmid = s.vmid

def joinWalk (s : State) (vpn : Nat) (k : Fin 16) (w : Walk) : Walk :=
  if sameWalk s vpn w && !w.waiters.contains k then { w with waiters := w.waiters ++ [k] } else w

/-- A walk is pending for the strands that wait on it, until one of the die's walkers takes it; when one is free of the walks of other clusters
is left open (R195, log 1). -/
def newWalk (s : State) (vpn : Nat) (ks : List (Fin 16)) : State :=
  (({ s with ticket := s.ticket + 1 } : State).withClu fun u =>
    { u with walks := u.walks ++ [⟨vpn, s.asid, s.vmid, ks, s.ticket, false⟩] }).later none (.walkComplete vpn)

/-- A walker takes a walk, the cluster's in the order they came (R195); its table reads in HBM take units of the queue's class (R218). -/
def takeWalk (s : State) (w : Walk) : State :=
  let t := s.withClu fun u => { u with walks := u.walks.map fun x => if x = w then { x with started := true } else x }
  (askLines t w.ticket none (loadClass s) false (walkReads s s.func s.core.ptroot (w.vpn * 2 ^ 13))).later none (.walkComplete w.vpn)

/-- An earlier walk of the cluster has no walker yet. -/
def walkBehind (s : State) (w : Walk) : Bool := (s.clu.walks.takeWhile (· != w)).any fun x => !x.started

/-- R195, R196: a miss joins the pending walk of its page, or starts one while fewer than 16 are pending. -/
def execTlbWalkStart (vpn : Nat) (k : Fin 16) (s : State) : Host.Outcome State Fault Refusal :=
  if s.clu.walks.any (sameWalk s vpn) then
    done (s.withClu fun u => { u with walks := u.walks.map (joinWalk s vpn k) })
  else if s.clu.walks.length < 16 then done (newWalk s vpn [k])
  else done (retry s (.tlbWalkStart vpn k))

/-- A strand whose walk is over issues again, with the walk's fault if it had one. -/
def wakeMiss (s : State) (k : Fin 16) (f : Option WalkFault) : State :=
  s.modStrand k fun x => if x.run = .stalled .translation then { x with run := .ready, walked := x.walked ++ f.toList } else x

/-- R196, R525: the walk ends; every pending miss its page covers is answered. -/
def execWalkComplete (vpn : Nat) (s : State) : Host.Outcome State Fault Refusal :=
  match s.clu.walks.find? (·.vpn = vpn) with
  | none => done s
  | some w =>
    if hbmPending s w.ticket || (!w.started && walkBehind s w) then done (retry s (.walkComplete vpn))
    else if !w.started then done (takeWalk s w)
    else match walkVa s s.func s.core.ptroot (vpn * 2 ^ 13) with
    | .ok e =>
      let hit := fun (x : Walk) => x.asid = w.asid && x.vmid = w.vmid && e.covers e.asid e.vmid (x.vpn * 2 ^ 13)
      let who := (s.clu.walks.filter fun x => x.vpn = vpn || hit x).flatMap (·.waiters)
      let t := tlbFill (s.withClu fun u => { u with walks := u.walks.filter fun x => !(x.vpn = vpn || hit x) }) e
      done (who.foldl (fun t k => wakeMiss t k none) t)
    | .error f =>
      let t := s.withClu fun u => { u with walks := u.walks.erase w }
      let t := match (walkReads s s.func s.core.ptroot (vpn * 2 ^ 13)).find? (poisoned s) with
        | some pa => uncorrRecord t pa
        | none => t
      done (w.waiters.foldl (fun t k => wakeMiss t k (some f)) t)

end Sys2Proof.Machine
end

