-- ==== Sys2Proof/Machine/MemInstr.lean ====
section
/-! DEFINITION. Loads, stores, full/empty and ordered accesses (R384-R390), cache operations (R392) and vector memory accesses
(R393-R395). -/

namespace Sys2Proof.Machine

/-! ## Issue of a load -/

/-- A core with 32 remote requests outstanding stalls (R179). -/
def remoteOk (s : State) (a : Access) : Res Unit :=
  if a.remote s && 32 ≤ outstanding s then .error (.stall .remoteLimit) else .ok ()

/-- Does the access read HBM itself (R225)? A plain access of a page the cache may hold is served by its line's fetch, a relaxed load by an
entry of the boundary buffer (R207), and an atomic asks when it leaves that buffer. -/
def Access.asks (s : State) (k : Fin 16) (seq : Nat) (a : Access) : List Nat :=
  let open_ := fun (p : Piece) => forward p.pa p.size seq (s.strand k).sb = .none
  match a with
  | .amo _ _ _ | .cas _ _ _ | .ldf _ _ | .stf _ _ | .write _ _ => []
  | .acquire p _ => if open_ p then [p.pa] else []
  | .load p _ t rel =>
    (if open_ p && (if rel then (relaxedHit s p.pa p.size).isNone else !cacheable s p.pa p.nc) then [p.pa] else []) ++
      (t.piece.filter fun p => !cacheable s p.pa p.nc).map (·.pa)
  | a => ((a.pieces ++ a.tagPieces).filter fun p => !cacheable s p.pa p.nc && open_ p).map (·.pa)

def Access.far (s : State) (k : Fin 16) (seq : Nat) (a : Access) : Bool := (a.asks s k seq).any isHbm

/-- Lines a plain access must have fetched. -/
def Access.lines (s : State) (a : Access) : List (Nat × Bool) :=
  let ps := match a with
    | .load p _ t rel => (if rel then [] else [p]) ++ t.piece
    | .vector .. => a.pieces ++ a.tagPieces
    | _ => []
  (ps.filter fun p => cacheable s p.pa p.nc && (cacheWord s p.pa).isNone).map fun p => (lineOf p.pa, p.ro)

/-- Enters a request under its ticket, with the virtual addresses it names (R470); its reply comes at a time the manual leaves open (log 3). -/
def pushReq (s : State) (ticket : Nat) (a : Access) (vas : List (Nat × Nat)) : State :=
  let far := a.far s s.cur ticket
  let s := askLines s ticket none (loadClass s) false (a.asks s s.cur ticket)
  let s := (a.lines s).foldl (fun s l => wantLine s s.cur (some l)) s
  let s := if reads a then a.pieces.foldl (fun s p => bankArrive s (.load ticket) p.pa) s else s
  (s.withCore fun c => { c with reqs := c.reqs ++ [⟨ticket, s.cur, s.st.pc, a, far, none, s.word, vas⟩] }).later none (.remoteReplyArrive ticket)
where
  /-- Accesses a bank serves by itself; atomics go to an engine. -/
  reads : Access → Bool
    | .load _ _ _ _ | .acquire _ _ | .vector _ _ _ _ _ => true
    | _ => false

/-- A line the access fetches would evict dirty words for which there is no room, while the write-back queue is full (R206). -/
def evictGate (s : State) (a : Access) : Res Unit := wbGate s ((a.lines s).any fun l => !evictRoom s l.1)

/-- A scalar access that does not complete in the core marks its destination empty (R385). -/
def pendScalar (s : State) (d : Opd) (a : Access) (vas : List (Nat × Nat)) : Res State := do
  remoteOk s a
  evictGate s a
  let n := s.newTicket
  let t ← writePending n.2 d n.1
  .ok (retire (pushReq t n.1 a vas))

/-- May the load be served in the core now: its own TCM, and nothing it is ordered after outstanding? -/
def inCore (s : State) (a : Access) : Bool := a.pieces.all (fun p => ownTcm s p.pa) && ownTurn s s.cur false

/-- A poisoned word of the own TCM or of the private cache faults at issue, be the load held behind an earlier access or not (R464, R498). -/
def cachePoison (s : State) (k : Fin 16) (p : Piece) : Bool :=
  (ownTcm s p.pa || (!onDie s p.pa && cacheable s p.pa p.nc)) && (match readPiece s k s.ticket p .plain with | .bad _ => true | _ => false)

def poisonStop {α : Type} (pa va : Nat) : Res α := .error (.freeze cPOISON (word pa) (word va))
def holeStop {α : Type} (pa va : Nat) : Res α := .error (.freeze cHOLE (word pa) (word va))

/-- Where the tag of the word at va lies outside TCM; none when TAGBASE is zero (R165). -/
def tagAddr (s : State) (va : Nat) : Option Nat :=
  if s.st.tagbase = 0 then none else some ((s.st.tagbase.toNat + va / 8) % 2 ^ 43)

/-- The virtual address of a physical one, among those an instruction named. -/
def vaFor (vas : List (Nat × Nat)) (pa : Nat) : Nat := ((vas.find? (·.1 = pa)).map (·.2)).getD 0

/-- The addresses a piece and its tag name. -/
def pieceVas (s : State) (va : Nat) (p : Piece) (tag : TagRead) : List (Nat × Nat) :=
  (p.pa, va) :: tag.piece.map fun q => (q.pa, (tagAddr s va).getD 0)

/-- A scalar load of the issuing strand from va. -/
def issueLoad (s : State) (d : Opd) (va : Nat) (p : Piece) (signed : Bool) (tag : TagRead) (relaxed : Bool) : Res State :=
  let a := Access.load p signed tag relaxed
  let vas := pieceVas s va p tag
  let how := if relaxed then Serve.relaxed else .plain
  if inCore s a then
    match readPiece s s.cur s.ticket p how with
    | .val v tagb _ =>
      (match readTag s s.cur s.ticket tag tagb 64 with
       | .ok t => do
         let t ← writeDest { s with fresh := s.fresh + 1 } d (Reg.of (extend v p.size signed) t)
         .ok (retire t)
       | .error (.bad pa) => poisonStop pa (vaFor vas pa)
       | .error _ => pendScalar s d a vas)
    | .wait _ => pendScalar s d a vas
    | .bad pa => poisonStop pa va
    | .hole pa => holeStop pa va
  else match ((if relaxed && !ownTcm s p.pa then [] else [p]) ++ tag.piece).find? (cachePoison s s.cur) with
    | some q => poisonStop q.pa (vaFor vas q.pa)
    | none => pendScalar s d a vas

/-- Is the address in a TCM region, whose words keep their tags in its plane (R165)? -/
def inTcm (s : State) (pa : Nat) : Bool :=
  match home s pa with
  | .tcm _ _ | .tagView _ _ | .feView _ _ | .debug _ _ => true
  | _ => false

/-- The accesses of a word and, in a tagged instruction, of its tag outside TCM (R165), for their common check (R462). -/
def reaches (s : State) (va : Nat) (w : Want) (sh : Shape) (tagged : Bool) : List (Nat × Want × Shape) :=
  (va, w, sh) :: (match tagged, lookup s s.cur va w, tagAddr s va with
    | true, .ok y, some ta => if inTcm s y.2.pa then [] else [(ta, w, .scalar 1)]
    | _, _, _ => [])

/-- How a tagged load forms its tag. -/
def tagSource (s : State) (va pa : Nat) : Res TagRead :=
  if inTcm s pa then .ok .plane
  else match tagAddr s va with
    | none => .ok .full
    | some ta => do
      let y ← reachOne s ta .read (.scalar 1)
      .ok (.memory ⟨y.pa, 1, y.nc, y.ro⟩)

/-- The loads of R387 and LDT (R388). -/
def loadOp (s : State) (d a : Opd) (ta : Bool) (imm : BitVec 11) (z : Nat) (signed tagged : Bool) : Res State := do
  checkCodes [(0, d), (1, a)]
  let x ← readSrc s a ta
  loadGate s x.2 [a]
  let ad := x.1.val + imm.signExtend 64 * word z
  aligned ad z
  reachCheck x.2 (reaches x.2 (vaOf ad) .read (.scalar z) tagged)
  let y ← reachOne x.2 (vaOf ad) .read (.scalar z)
  let t ← if tagged then tagSource x.2 (vaOf ad) y.pa else .ok .full
  issueLoad x.2 d (vaOf ad) ⟨y.pa, z, y.nc, y.ro⟩ signed t false

/-- R387. -/
def execLd8 (d a : Opd) (ta : Bool) (imm : BitVec 11) (s : State) := finish s (loadOp s d a ta imm 1 true false)
/-- R387. -/
def execLd8n (d a : Opd) (ta : Bool) (imm : BitVec 11) (s : State) := finish s (loadOp s d a ta imm 1 false false)
/-- R387. -/
def execLd16 (d a : Opd) (ta : Bool) (imm : BitVec 11) (s : State) := finish s (loadOp s d a ta imm 2 true false)
/-- R387. -/
def execLd16n (d a : Opd) (ta : Bool) (imm : BitVec 11) (s : State) := finish s (loadOp s d a ta imm 2 false false)
/-- R387. -/
def execLd32 (d a : Opd) (ta : Bool) (imm : BitVec 11) (s : State) := finish s (loadOp s d a ta imm 4 true false)
/-- R387. -/
def execLd32n (d a : Opd) (ta : Bool) (imm : BitVec 11) (s : State) := finish s (loadOp s d a ta imm 4 false false)
/-- R387. -/
def execLd64 (d a : Opd) (ta : Bool) (imm : BitVec 11) (s : State) := finish s (loadOp s d a ta imm 8 false false)
/-- R388. -/
def execLdt (d a : Opd) (ta : Bool) (imm : BitVec 11) (s : State) := finish s (loadOp s d a ta imm 8 false true)

/-! ## Stores -/

/-- The tag access of a tagged store outside TCM (R165). -/
def pushTag (s : State) (va pa : Nat) (tag : Nat) : Res State :=
  if inTcm s pa then .ok s
  else match tagAddr s va with
    | none => .ok s
    | some ta => do
      let y ← reachOne s ta .write (.scalar 1)
      storeGate s (storeOf y.pa 1 (word tag) 0x7F) y.nc
      .ok (pushStore s (storeOf y.pa 1 (word tag) 0x7F) y.nc false)

/-- A store waits for room in the store buffer, whose size the manual leaves open; an empty one takes whatever one instruction stores (R73, R201,
log 38). -/
def storeRoom (s : State) (n : Nat) : Res Unit :=
  if s.st.sb.isEmpty || decide (s.st.sb.length + n ≤ Config.storeBuffer) then .ok () else .error (.stall .storeBuffer)

/-- The stores of R387 and STT (R388): S1 and D are both governed by EB (R293). -/
def storeOp (s : State) (d a : Opd) (ta : Bool) (imm : BitVec 11) (z : Nat) (tagged : Bool) : Res State := do
  checkCodes [(0, d), (1, a)]
  let x ← read2 s a d ta ta
  accessGate s x.2.2 [a, d]
  storeRoom s (if tagged then 2 else 1)
  let ad := x.1.val + imm.signExtend 64 * word z
  aligned ad z
  reachCheck x.2.2 (reaches x.2.2 (vaOf ad) .write (.scalar z) tagged)
  let y ← reachOne x.2.2 (vaOf ad) .write (.scalar z)
  let r := x.2.1
  let tb := if tagged && inTcm x.2.2 y.pa then BitVec.ofNat 8 r.tag.val else 0x7F
  storeGate x.2.2 (storeOf y.pa z r.val tb) y.nc
  let t := pushStore x.2.2 (storeOf y.pa z r.val tb) y.nc false
  let t ← if tagged then pushTag t (vaOf ad) y.pa r.tag.val else .ok t
  .ok (retire t)

/-- R387. -/
def execSt8 (d a : Opd) (ta : Bool) (imm : BitVec 11) (s : State) := finish s (storeOp s d a ta imm 1 false)
/-- R387. -/
def execSt16 (d a : Opd) (ta : Bool) (imm : BitVec 11) (s : State) := finish s (storeOp s d a ta imm 2 false)
/-- R387. -/
def execSt32 (d a : Opd) (ta : Bool) (imm : BitVec 11) (s : State) := finish s (storeOp s d a ta imm 4 false)
/-- R387. -/
def execSt64 (d a : Opd) (ta : Bool) (imm : BitVec 11) (s : State) := finish s (storeOp s d a ta imm 8 false)
/-- R388. -/
def execStt (d a : Opd) (ta : Bool) (imm : BitVec 11) (s : State) := finish s (storeOp s d a ta imm 8 true)

/-! ## Full/empty accesses (R389) -/

/-- Address and home of a full/empty access. -/
def feReach (s : State) (a : Word) (w : Want) : Res Nat := do
  aligned a 8
  let y ← reachOne s (vaOf a) w .fullEmpty
  .ok y.pa

/-- LDF and LDW at the own TCM: the strand joins the word's waiters, and the walk of R174 serves it at once when it can. -/
def ldfOwn (s : State) (d : Opd) (va pa : Nat) (kind : WaiterKind) (wait : Nat → Wait) : Res State := do
  let off := pa - tcmPa s.core.gcore 0
  let t ← barPlace s d
  .ok (feWalk ((addWaiter t.1 ⟨off, s.now, .strand s.cur d t.2, kind, va⟩).setRun s.cur (.parked (wait off))) off)
where
  /-- A queue's tail entry is reserved (R83); a register must not await a fill (R100). -/
  barPlace (s : State) (d : Opd) : Res (State × Nat) :=
    match queueOf d with
    | some _ => do
      let n := s.newTicket
      let t ← putDest n.2 d ⟨0, Tag.full, false, some (.fill n.1)⟩
      .ok (t, n.1)
    | none => do
      match locOf s.st.frm d with
      | some l => destFree (s.st.reg l) d.toNat
      | none => .ok ()
      .ok (s, 0)

/-- LDF and LDW (R389). -/
def ldfOp (s : State) (d a : Opd) (ta : Bool) (imm : BitVec 11) (keep : Bool) : Res State := do
  checkCodes [(0, d), (1, a)]
  let x ← readSrc s a ta
  loadGate s x.2 [a]
  drainGate x.2
  let ad := x.1.val + imm.signExtend 64 * 8
  let pa ← feReach x.2 ad .read
  if ownTcm x.2 pa then ldfOwn x.2 d (vaOf ad) pa (if keep then .ldw else .ldf) .wordEmpty
  else pendScalar x.2 d (.ldf pa keep) [(pa, vaOf ad)]

/-- R389. -/
def execLdf (d a : Opd) (ta : Bool) (imm : BitVec 11) (s : State) := finish s (ldfOp s d a ta imm false)
/-- R389. -/
def execLdw (d a : Opd) (ta : Bool) (imm : BitVec 11) (s : State) := finish s (ldfOp s d a ta imm true)

/-- Addresses, virtual and physical, and value of STF and STFF. -/
def stfOperands (s : State) (d a : Opd) (ta : Bool) (imm : BitVec 11) : Res (Nat × Nat × Word × State) := do
  checkCodes [(0, d), (1, a)]
  let x ← read2 s a d ta ta
  accessGate s x.2.2 [a, d]
  drainGate x.2.2
  let ad := x.1.val + imm.signExtend 64 * 8
  let pa ← feReach x.2.2 ad .write
  .ok (vaOf ad, pa, x.2.1.val, x.2.2)

/-- R389: at another core's TCM the strand stays stalled until the home replies. -/
def execStf (d a : Opd) (ta : Bool) (imm : BitVec 11) (s : State) := finish s (do
  let (va, pa, v, t) ← stfOperands s d a ta imm
  if ownTcm t pa then ldfOwn t 49 va pa (.stf v) .wordFull
  else
    remoteOk t (.stf pa v)
    let n := t.newTicket
    .ok ((retire (pushReq n.2 n.1 (.stf pa v) [(pa, va)])).setRun s.cur (.stalled (.remoteStf n.1))))

/-- STFF and CLRE: at the own TCM at once, unless the strand's order holds them; else, and then, as a request to the word's home (R176, R389,
R202, R208). -/
def feWrite (s : State) (full : Bool) (va : Nat) (x : WordStore) : Res State := do
  if ownTcm s x.pa && ownTurn s s.cur true && !servedHolds s s.cur then .ok (feHome (retire s) full x)
  else
    let a := Access.write x (some full)
    remoteOk s a
    let n := s.newTicket
    .ok (retire (pushReq n.2 n.1 a [(x.pa, va)]))

/-- R389. -/
def execStff (d a : Opd) (ta : Bool) (imm : BitVec 11) (s : State) := finish s (do
  let (va, pa, v, t) ← stfOperands s d a ta imm
  feWrite t true va ⟨pa, v, 0xFF, 0x7F⟩)

/-- R389. -/
def execClre (a : Opd) (ta : Bool) (imm : BitVec 11) (s : State) := finish s (do
  checkCodes [(1, a)]
  let x ← readSrc s a ta
  accessGate s x.2 [a]
  drainGate x.2
  let ad := x.1.val + imm.signExtend 64 * 8
  let pa ← feReach x.2 ad .write
  feWrite x.2 false (vaOf ad) ⟨pa, 0, 0, 0x7F⟩)

/-! ## Ordered accesses (R390) -/

/-- An acquire with its load outstanding (R209). -/
def startAcquire (s : State) (sc : Scope) : State :=
  let t := s.mod fun x => { x with acq := some { joinAcquire x.acq sc false with load := true } }
  if 4 ≤ Scope.rank sc then t.later none (.acquireComplete s.cur) else t

/-- LDAQ at scopes 1-5. -/
def issueAcquire (s : State) (d : Opd) (va : Nat) (p : Piece) (sc : Scope) : Res State :=
  let a := Access.acquire p sc
  if inCore s a && !decide (4 ≤ Scope.rank sc) then
    match readPiece s s.cur s.ticket p .acquire with
    | .val v _ _ => do
      let t ← writeDest { s with fresh := s.fresh + 1 } d (Reg.of (word v) Tag.full)
      .ok (retire t)
    | .wait _ => do
      let t ← pendScalar s d a [(p.pa, va)]
      .ok (startAcquire t sc)
    | .bad pa => poisonStop pa va
    | .hole pa => holeStop pa va
  else do
    if ownTcm s p.pa && poisoned s p.pa && (forward p.pa p.size s.ticket s.st.sb) = .none then poisonStop p.pa va
    let t ← pendScalar s d a [(p.pa, va)]
    .ok (startAcquire t sc)

def execLdaq (d a : Opd) (ta : Bool) (wide : Bool) (sc : Scope) (s : State) := finish s (do
  checkCodes [(0, d), (1, a)]
  let x ← readSrc s a ta
  loadGate s x.2 [a]
  let z := if wide then 8 else 4
  aligned x.1.val z
  let va := vaOf x.1.val
  let y ← reachOne x.2 va .read (.scalar z)
  throughGate x.2 sc
  if sc = .strand then issueLoad x.2 d va ⟨y.pa, z, y.nc, y.ro⟩ false .full true
  else issueAcquire x.2 d va ⟨y.pa, z, y.nc, y.ro⟩ sc)

/-- R390: EB [5] governs S1 and D. -/
def execStrl (d a : Opd) (ta : Bool) (wide : Bool) (sc : Scope) (s : State) := finish s (do
  checkCodes [(0, d), (1, a)]
  let x ← read2 s a d ta ta
  accessGate s x.2.2 [a, d]
  let z := if wide then 8 else 4
  aligned x.1.val z
  let y ← reachOne x.2.2 (vaOf x.1.val) .write (.scalar z)
  storeRoom s 1
  throughGate x.2.2 sc
  if storeRemote x.2.2 (storeOf y.pa z x.2.1.val 0x7F) y.nc && 32 ≤ outstanding x.2.2 then .error (.stall .remoteLimit)
  let st := storeOf y.pa z x.2.1.val 0x7F
  .ok (retire (if sc = .strand then pushStore x.2.2 st y.nc true else pushRelease x.2.2 sc (.store st y.nc) false)))

/-! ## Cache operations (R392) -/

/-- The line of S1, when the cache may hold it. -/
def cacheOperand (s : State) (a : Opd) : Res (State × Option (Nat × Bool)) := do
  checkCodes [(1, a)]
  let x ← readSrc s a false
  let y ← translate x.2 s.cur (vaOf x.1.val) .read
  .ok (x.2, if cacheable x.2 y.pa y.nc then some (lineOf y.pa, y.ro) else none)

/-- The write-throughs of a line find no room (R206). -/
def lineGate (s : State) (line : Nat) : Res Unit :=
  match cacheFind s line with
  | some l => if roomFor s (line * 64) l.dirty then .ok () else .error (.stall .writeBackFull)
  | none => .ok ()

def throughLine (s : State) (line : Nat) : State :=
  match cacheFind s line with | some l => writeThrough s s.cur l | none => s

/-- R392. -/
def execCinv (a : Opd) (s : State) := finish s (do
  let x ← cacheOperand s a
  .ok (retire (match x.2 with | some l => cacheDrop x.1 l.1 | none => x.1)))

/-- R392. -/
def execCwb (a : Opd) (s : State) := finish s (do
  let x ← cacheOperand s a
  match x.2 with
  | some l => do
    lineGate x.1 l.1
    .ok (retire (throughLine x.1 l.1))
  | none => .ok (retire x.1))

/-- R392. -/
def execCwbi (a : Opd) (s : State) := finish s (do
  let x ← cacheOperand s a
  match x.2 with
  | some l => do
    lineGate x.1 l.1
    .ok (retire (cacheDrop (throughLine x.1 l.1) l.1))
  | none => .ok (retire x.1))

/-- R392: an address that would fail translation or permission is ignored. -/
def execPref (a : Opd) (s : State) := finish s (do
  checkCodes [(1, a)]
  let x ← readSrc s a false
  match translate x.2 s.cur (vaOf x.1.val) .read with
  | .ok y => .ok (retire (if cacheable x.2 y.pa y.nc && (cacheFind x.2 (lineOf y.pa)).isNone
      then startFetch x.2 s.cur (lineOf y.pa) y.ro else x.2))
  | .error (.freeze _ _ _) => .ok (retire x.2)
  | .error e => .error e)

/-! ## Vector memory (R393-R395) -/

/-- Is byte b of the register governed by a set mask bit (R350)? -/
def byteActive (mask : Word) (w b : Nat) : Bool := mask.getLsbD (if w < 8 then b else w * (8 * b / w) / 8)

/-- Byte enables of word j of the 64-byte range. -/
def wordEnables (mask : Word) (w j : Nat) : BitVec 8 :=
  BitVec.ofNat 8 ((List.range 8).foldl (fun e i => if byteActive mask w (8 * j + i) then e + 2 ^ i else e) 0)

/-- The words a vector access reaches. -/
def vecWords (mask : Word) (w : Nat) : List Nat := (List.range 8).filter fun j => wordEnables mask w j != 0

/-- Translates a list of addresses whose checks have passed. -/
def translateAll (s : State) (w : Want) : List Nat → Res (List (Nat × Xlat))
  | [] => .ok []
  | va :: vs => do
    let y ← translate s s.cur va w
    let ys ← translateAll s w vs
    .ok ((va, y) :: ys)

/-- Translates a list of addresses; the stop R462 puts first, among those of all, ends the instruction. -/
def reachAll (s : State) (w : Want) (vas : List Nat) : Res (List (Nat × Xlat)) := do
  reachCheck s (vas.map fun va => (va, w, .vector))
  translateAll s w vas

/-- Base address of a vector access. -/
def vecBase (s : State) (a b : Opd) : Res (Word × State) := do
  let x ← read2 s a b false false
  .ok (x.1.val + x.2.1.val, x.2.2)

/-- The tag sources of a tagged vector load. -/
def vecTags (s : State) (tagged : Bool) : List (Nat × Xlat) → Res (List TagRead)
  | [] => .ok []
  | (va, y) :: ys => do
    let t ← if tagged then tagSource s va y.pa else .ok .full
    let ts ← vecTags s tagged ys
    .ok (t :: ts)

/-- A vector load of the given pieces, with their virtual addresses, into VD. -/
def issueVector (s : State) (d : VIdx) (ps : List (Nat × Piece × TagRead)) (vas : List (Nat × Nat)) (t : Ty) (mask : Word) (tagged : Bool)
    (old : Lanes) : Res State :=
  let a := Access.vector ps t mask tagged old
  let pend : Res State := do
    remoteOk s a
    evictGate s a
    let n := s.newTicket
    let u ← writeVecPending n.2 d n.1
    .ok (retire (pushReq u n.1 a vas))
  if inCore s a then
    match readPieces s s.cur s.ticket (tyP t) ps with
    | .ok got => do
      let u ← writeVec s d (vecLoaded t mask tagged old got)
      .ok (retire u)
    | .error (.bad pa) => poisonStop pa (vaFor vas pa)
    | .error (.hole pa) => holeStop pa (vaFor vas pa)
    | .error _ => pend
  else match (a.pieces ++ a.tagPieces).find? (cachePoison s s.cur) with
    | some p => poisonStop p.pa (vaFor vas p.pa)
    | none => pend

/-- VLD and VLDT. -/
def vecLoad (s : State) (d : VIdx) (a b : Opd) (m : MIdx) (t : Ty) (tagged : Bool) : Res State := do
  checkCodes [(1, a), (2, b)]
  let x ← vecBase s a b
  let old ← readVec x.2 d
  loadGate s x.2 [a, b]
  aligned x.1 8
  let mask := maskOf x.2.st m
  let js := vecWords mask t.width
  if tagged then reachCheck x.2 (js.flatMap fun j => reaches x.2 (vaOf (x.1 + word (8 * j))) .read .vector true)
  let ys ← reachAll x.2 .read (js.map fun j => vaOf (x.1 + word (8 * j)))
  let ts ← vecTags x.2 tagged ys
  let ps := (js.zip (ys.zip ts)).map fun z => (8 * z.1, (⟨z.2.1.2.pa, 8, z.2.1.2.nc, z.2.1.2.ro⟩ : Piece), z.2.2)
  let vas := ((ys.zip ps).map fun z => pieceVas x.2 z.1.1 z.2.2.1 z.2.2.2).flatten
  issueVector x.2 d ps vas t mask tagged old

/-- R393. -/
def execVld (d : VIdx) (a b : Opd) (m : MIdx) (t : Ty) (s : State) := finish s (vecLoad s d a b m t false)
/-- R393. -/
def execVldt (d : VIdx) (a b : Opd) (m : MIdx) (t : Ty) (s : State) := finish s (vecLoad s d a b m t true)

/-- The lesser group tag of word j (R163). -/
def wordTag (l : Lanes) (j : Nat) : Nat := groupTagAt l 64 j

/-- The stores of a vector, word by word. -/
def vecPush (s : State) (l : Lanes) (mask : Word) (w : Nat) (tagged : Bool) : List (Nat × Nat × Xlat) → Res State
  | [] => .ok s
  | (j, va, y) :: ys => do
    let tb := if tagged && inTcm s y.pa then BitVec.ofNat 8 (wordTag l j) else 0x7F
    storeGate s ⟨y.pa, l.bits.extractLsb' (64 * j) 64, wordEnables mask w j, tb⟩ y.nc
    let t := pushStore s ⟨y.pa, l.bits.extractLsb' (64 * j) 64, wordEnables mask w j, tb⟩ y.nc false
    let t ← if tagged then pushTag t va y.pa (wordTag l j) else .ok t
    vecPush t l mask w tagged ys

/-- VST and VSTT: VD is read whole before any byte is stored. -/
def vecStore (s : State) (d : VIdx) (a b : Opd) (m : MIdx) (t : Ty) (tagged : Bool) : Res State := do
  checkCodes [(1, a), (2, b)]
  let x ← vecBase s a b
  let l ← readVec x.2 d
  accessGate s x.2 [a, b]
  aligned x.1 8
  let mask := maskOf x.2.st m
  let js := vecWords mask t.width
  storeRoom s (if tagged then 2 * js.length else js.length)
  if tagged then reachCheck x.2 (js.flatMap fun j => reaches x.2 (vaOf (x.1 + word (8 * j))) .write .vector true)
  let ys ← reachAll x.2 .write (js.map fun j => vaOf (x.1 + word (8 * j)))
  let u ← vecPush x.2 l mask t.width tagged (js.zip ys)
  .ok (retire u)

/-- R393. -/
def execVst (d : VIdx) (a b : Opd) (m : MIdx) (t : Ty) (s : State) := finish s (vecStore s d a b m t false)
/-- R393. -/
def execVstt (d : VIdx) (a b : Opd) (m : MIdx) (t : Ty) (s : State) := finish s (vecStore s d a b m t true)

/-- Active elements and their addresses (R394). -/
def elemAddrs (base : Word) (idx : Lanes) (mask : Word) (w : Nat) : List (Nat × Word) :=
  ((List.range (512 / w)).filter (active mask w)).map fun i =>
    let v := elem idx.bits w i
    let k : Int := if 2 ^ (w - 1) ≤ v then (v : Int) - 2 ^ w else v
    (i, base + BitVec.ofInt 64 (k * (w / 8 : Nat)))

def alignedAll (n : Nat) : List (Nat × Word) → Res Unit
  | [] => .ok ()
  | (_, a) :: as => do
    aligned a n
    alignedAll n as

/-- Operands of VGATH and VSCAT: addresses, the element places, and VD. -/
def gatherOperands (s : State) (d : VIdx) (a : Opd) (k : VIdx) (m : MIdx) (t : Ty) (load : Bool) :
    Res (State × List (Nat × Nat × Xlat) × Lanes) := do
  checkCodes [(1, a)]
  let x ← readSrc s a false
  let idx ← readVec x.2 k
  let old ← readVec x.2 d
  if load then loadGate s x.2 [a] else accessGate s x.2 [a]
  let es := elemAddrs x.1.val idx (maskOf x.2.st m) t.width
  alignedAll (t.width / 8) es
  let ys ← reachAll x.2 (if load then .read else .write) (es.map fun e => vaOf e.2)
  .ok (x.2, (es.zip ys).map (fun z => (z.1.1, z.2.1, z.2.2)), old)

/-- R394. -/
def execVgath (d : VIdx) (a : Opd) (k : VIdx) (m : MIdx) (t : Ty) (s : State) := finish s (do
  let x ← gatherOperands s d a k m t true
  let ps := x.2.1.map fun z => (z.1 * t.width / 8, (⟨z.2.2.pa, t.width / 8, z.2.2.nc, z.2.2.ro⟩ : Piece), TagRead.full)
  issueVector x.1 d ps (x.2.1.map fun z => (z.2.2.pa, z.2.1)) t (maskOf s.st m) false x.2.2)

/-- R394: in ascending element order, so that the higher element's value stands. -/
def execVscat (d : VIdx) (a : Opd) (k : VIdx) (m : MIdx) (t : Ty) (s : State) := finish s (do
  let x ← gatherOperands s d a k m t false
  storeRoom s x.2.1.length
  scatGate x.1 t.width x.2.2 x.2.1
  let u := x.2.1.foldl (fun u z =>
    pushStore u (storeOf z.2.2.pa (t.width / 8) (word (elem x.2.2.bits t.width z.1)) 0x7F) z.2.2.nc false) x.1
  .ok (retire u))
where
  /-- Every element's store may enter (R179, R206). -/
  scatGate (s : State) (w : Nat) (l : Lanes) : List (Nat × Nat × Xlat) → Res Unit
    | [] => .ok ()
    | z :: zs => do
      storeGate s (storeOf z.2.2.pa (w / 8) (word (elem l.bits w z.1)) 0x7F) z.2.2.nc
      scatGate s w l zs

end Sys2Proof.Machine
end

