-- ==== Sys2Proof/Machine/Atomics.lean ====
section
/-! DEFINITION. Atomic memory operations and compare-and-swap (R391, R188, R202). -/

namespace Sys2Proof.Machine

/-- Translation and home of an atomic: it reads and writes its word, so both rights are asked, and a failed walk counts as a
write's. -/
def atomicReach (s : State) (va : Nat) : Res Xlat := do
  reachCheck s [(va, .write, .atomic), (va, .read, .atomic)]
  translate s s.cur va .write

/-- An atomic of the issuing strand: s has read its operands; mk forms the request from its piece. On-die memory waits for an
empty store buffer (R202); the own TCM is its home in the core, and a poisoned word there a deferred fault (R498). -/
def issueAtomic (before s : State) (srcs : List Opd) (d : Opd) (addr : Word) (z : Nat) (mk : Piece → Access) : Res State := do
  loadGate before s srcs
  aligned addr z
  let va := vaOf addr
  let y ← atomicReach s va
  let a := mk ⟨y.pa, z, y.nc, y.ro⟩
  if onDie s y.pa then drainGate s else wbGate s (bankFull s y.pa)
  if ownTcm s y.pa && ownTurn s s.cur true && !servedHolds s s.cur then
    match atomicAt s a.piece a.update with
    | none => do
      let u ← pendScalar s d a [(y.pa, va)]
      .ok (match u.core.reqs.find? (·.ticket = s.ticket) with
        | some r => deferred u r cPOISON y.pa
        | none => u)
    | some (old, fl, t) => do
      let t ← writeDest t d (Reg.of old Tag.full)
      .ok (retire (t.mod (·.raiseFlags fl)))
  else pendScalar s d a [(y.pa, va)]

/-- The atomics of 0x5C. -/
def amoOp (s : State) (d a b : Opd) (ta tb : Bool) (fn : BitVec 4) (z : Nat) : Res State := do
  checkCodes [(0, d), (1, a), (2, b)]
  let x ← read2 s a b ta tb
  issueAtomic s x.2.2 [a, b] d x.1.val z fun p => .amo p fn x.2.1.val

/-- R391. -/
def execAmoAdd (d a b : Opd) (ta tb : Bool) (s : State) := finish s (amoOp s d a b ta tb 0 8)
/-- R391. -/
def execAmoAnd (d a b : Opd) (ta tb : Bool) (s : State) := finish s (amoOp s d a b ta tb 1 8)
/-- R391. -/
def execAmoOr (d a b : Opd) (ta tb : Bool) (s : State) := finish s (amoOp s d a b ta tb 2 8)
/-- R391. -/
def execAmoXor (d a b : Opd) (ta tb : Bool) (s : State) := finish s (amoOp s d a b ta tb 3 8)
/-- R391. -/
def execAmoMin (d a b : Opd) (ta tb : Bool) (s : State) := finish s (amoOp s d a b ta tb 4 8)
/-- R391. -/
def execAmoMax (d a b : Opd) (ta tb : Bool) (s : State) := finish s (amoOp s d a b ta tb 5 8)
/-- R391. -/
def execAmoMinn (d a b : Opd) (ta tb : Bool) (s : State) := finish s (amoOp s d a b ta tb 6 8)
/-- R391. -/
def execAmoMaxn (d a b : Opd) (ta tb : Bool) (s : State) := finish s (amoOp s d a b ta tb 7 8)
/-- R391. -/
def execAmoSwap (d a b : Opd) (ta tb : Bool) (s : State) := finish s (amoOp s d a b ta tb 8 8)
/-- R391. -/
def execAmoFadd32 (d a b : Opd) (ta tb : Bool) (s : State) := finish s (amoOp s d a b ta tb 9 4)
/-- R391. -/
def execAmoFadd64 (d a b : Opd) (ta tb : Bool) (s : State) := finish s (amoOp s d a b ta tb 10 8)

/-- R391: D, the compared value, is read last and blocks. -/
def execCas (d a b : Opd) (ta tb : Bool) (narrow : Bool) (s : State) := finish s (do
  checkCodes [(0, d), (1, a), (2, b)]
  let x ← read3 s a b d ta tb
  issueAtomic s x.2.2.2 [a, b, d] d x.1.val (if narrow then 4 else 8) fun p => .cas p x.2.2.1.val x.2.1.val)

end Sys2Proof.Machine
end

