-- ==== Sys2Proof/Machine/Control.lean ====
section
/-! DEFINITION. Branches, jumps, calls and returns (R327-R333), the window unit (R102-R105), traps on request and strand control
(R337, R338). -/

namespace Sys2Proof.Machine

/-! ## The PC -/

def State.goto (s : State) (pc : Addr) : State := s.mod fun x => { x with pc := pc, walked := [] }

/-- PC plus four times an offset in instructions (log 8). -/
def relPc (pc : Addr) (off : Addr) : Addr := pc + off <<< 2

/-- A format C branch: the PC by the condition. -/
def branch (s : State) (taken : Bool) (off : BitVec 12) : State :=
  if taken then s.goto (relPc s.st.pc (off.signExtend 43)) else retire s

/-- A compare branch (R327). -/
def cmpBranch (s : State) (a b : Opd) (off : BitVec 12) (f : Word → Word → Bool) : Res State := do
  checkCodes [(1, a), (2, b)]
  let x ← read2 s a b false false
  .ok (branch x.2.2 (f x.1.val x.2.1.val) off)

/-- A jump target or return address (R487, R488). -/
def jumpTarget (w : Word) : Res Addr := do
  check (decide (w.toNat < 2 ^ 43)) cOPERAND 1
  aligned w 4
  .ok (w.setWidth 43)

/-- R327. -/
def execBeq (a b : Opd) (off : BitVec 12) (s : State) := finish s (cmpBranch s a b off fun x y => x == y)
/-- R327. -/
def execBne (a b : Opd) (off : BitVec 12) (s : State) := finish s (cmpBranch s a b off fun x y => x != y)
/-- R327. -/
def execBlt (a b : Opd) (off : BitVec 12) (s : State) :=
  finish s (cmpBranch s a b off fun x y => decide (x.toInt < y.toInt))
/-- R327. -/
def execBge (a b : Opd) (off : BitVec 12) (s : State) :=
  finish s (cmpBranch s a b off fun x y => decide (y.toInt ≤ x.toInt))
/-- R327. -/
def execBlo (a b : Opd) (off : BitVec 12) (s : State) :=
  finish s (cmpBranch s a b off fun x y => decide (x.toNat < y.toNat))
/-- R327. -/
def execBhs (a b : Opd) (off : BitVec 12) (s : State) :=
  finish s (cmpBranch s a b off fun x y => decide (y.toNat ≤ x.toNat))

/-- R328: the tag as held. -/
def execBsig (a : Opd) (thr : BitVec 6) (off : BitVec 12) (s : State) := finish s (do
  checkCodes [(1, a)]
  let x ← readSrc s a false
  .ok (branch x.2 (decide (x.1.tag.val < thr.toNat)) off))

/-- Is the operand empty, as BEMP tests it (R329)? -/
def isEmptyOpd (s : State) (c : Opd) : Bool :=
  match queueOf c with
  | some q => (match s.core.queues[q] with | r :: _ => !r.full | [] => true)
  | none => (match locOf s.st.frm c with | some l => !(s.st.reg l).full | none => false)

/-- R329. -/
def execBemp (a : Opd) (off : BitVec 12) (s : State) := finish s (do
  checkCodes [(1, a)]
  .ok (branch s (isEmptyOpd s a) off))

/-- R330. -/
def execJmp (off : BitVec 24) (s : State) := finish s (.ok (s.goto (relPc s.st.pc (off.signExtend 43))))

/-- R330. -/
def execJmpr (a : Opd) (ta : Bool) (s : State) := finish s (do
  checkCodes [(1, a)]
  let x ← readSrc s a ta
  let t ← jumpTarget x.1.val
  .ok (x.2.goto t))

/-! ## The window unit (R102-R105) -/

/-- Ring entry i of the group that begins at frame f's received group. -/
def groupIx (f i : Nat) : Fin 120 := ⟨(f * 16 + i) % 120, Nat.mod_lt _ (by decide)⟩

/-- Is the word of a spill record? -/
def inRecord (s : State) (x : Strand) (rec pa : Nat) : Bool := decide (spillPa s x rec 0 ≤ pa) && decide (pa < spillPa s x rec 16)

/-- Does a byte reach a word of the record, or through a view of the own TCM its tag byte or full/empty bit (R172)? -/
def reachesRecord (s : State) (x : Strand) (rec pa : Nat) : Bool :=
  match home s pa with
  | .tagView c off => inRecord s x rec (tcmPa c (8 * off))
  | .feView c off => (List.range 8).any fun i => inRecord s x rec (tcmPa c (8 * (8 * off + i)))
  | _ => inRecord s x rec (pa / 8 * 8)

/-- The record is not yet to be moved (R104): the strand's store buffer holds a store that covers a byte of it, or an earlier access of the strand
to it, its tags among them, has not been performed. -/
def recordBusy (s : State) (k : Fin 16) (x : Strand) (rec : Nat) : Bool :=
  (x.sb.any fun i => match i.held with
    | (_, some w) => (List.range 8).any fun j => w.en.getLsbD j && reachesRecord s x rec (w.pa + j)
    | (_, none) => false) ||
  s.core.reqs.any fun r => r.strand = k && (r.acc.pieces ++ r.acc.tagPieces).any fun p =>
    (List.range p.size).any fun j => reachesRecord s x rec (p.pa + j)

/-- Moves one entry to its place in a record: value, tag and full/empty bit; its binding is kept with the record. -/
def spillEntry (s : State) (k : Fin 16) (rec : Nat) (f i : Nat) : State :=
  let x := s.strand k
  let r := x.ring[groupIx f i]
  let pa := spillPa s x rec i
  let s := performStore s ⟨pa, r.val, 0xFF, BitVec.ofNat 8 r.tag.val⟩
  let off := pa - tcmPa s.core.gcore 0
  let s := if r.full then fillWord s off else emptyWord s off
  s.modStrand k fun x =>
    { x with
      ring := x.ring.set (groupIx f i) { r with bind := none }
      spilled := match r.bind with | some b => x.spilled ++ [⟨rec, i, pa, b⟩] | none => x.spilled }

/-- Spills frame f's received and own groups to a record. -/
def spillFrame (s : State) (k : Fin 16) (rec f : Nat) : State :=
  (List.range 16).foldl (fun s i => spillEntry s k rec f i) s

/-- A tag byte as a register takes it back (R103). -/
def regTag (b : BitVec 8) : Tag :=
  let n := b.toNat % 128
  if n ≤ 64 then Tag.ofNat n else Tag.full

/-- Brings one entry back; an entry still empty is bound again to its pending fill (R105), a filled handle to its entry (R114). A binding the ring
entry still held goes, and its completion entry stays filled: the manual gives no fate (R112; DESIGN CHOICE, log 57). -/
def fillEntry (s : State) (k : Fin 16) (rec f i : Nat) : State :=
  let x := s.strand k
  let pa := spillPa s x rec i
  let full := feAt s pa
  let b := (x.spilled.find? fun e => e.pa = pa).map (·.b)
  let bind := match b with
    | some (.fill t) => if full then none else some (Bind.fill t)
    | b => b
  let r : Reg := ⟨wordAt s pa, regTag (tagByteAt s pa), full, bind⟩
  s.modStrand k fun x =>
    { x with
      ring := x.ring.set (groupIx f i) r
      spilled := x.spilled.filter fun e => e.pa != pa }

/-- Fills frame f's received and own groups from a record. -/
def fillFrame (s : State) (k : Fin 16) (rec f : Nat) : State :=
  (List.range 16).foldl (fun s i => fillEntry s k rec f i) s

/-- The move the last CALL or RET of the strand still owes: the record and the frame. -/
def owedSpill (x : Strand) : Nat × Nat := (x.spilledCount - 1, x.frm + 8)
def owedFill (x : Strand) : Nat × Nat := (x.spilledCount, x.frm)

def winFreeze {α : Type} (x : Strand) : Res α := .error (.freeze cWINDOW x.winstate 0)

/-- CALL's advance (R102): the frame to spill, when one must be, is checked against WINBASE.LIMIT before anything moves. -/
def advanceOk (before s : State) (srcs : List Opd) : Res Unit :=
  let x := s.st
  if x.res = 7 then do
    accessGate before s srcs
    if fld x.winbase 16 0 + 128 * x.spilledCount + 128 ≤ fld x.winbase 48 32 then .ok () else winFreeze x
  else .ok ()

/-- WINSTATE after CALL. -/
def winCall (x : Strand) : Strand :=
  let w := if x.res = 7 then setFld x.winstate 31 16 (x.spilledCount + 1) else setFld x.winstate 6 4 (x.res + 1)
  { x with winstate := setFld w 3 0 ((x.frm + 1) % 15) }

/-- WINSTATE after RET. -/
def winRet (x : Strand) : Strand :=
  let w := if x.res = 1 then setFld x.winstate 31 16 (x.spilledCount - 1) else setFld x.winstate 6 4 (x.res - 1)
  { x with winstate := setFld w 3 0 ((x.frm + 14) % 15) }

/-- The strand waits for its window move; a frozen one stays frozen (R466). -/
def Strand.owe (x : Strand) (m : WindowMove) : Strand :=
  { x with owed := some m, run := if x.run = .frozen then .frozen else .stalled .windowStores }

/-- The window move is made. -/
def Strand.paid (x : Strand) : Strand :=
  { x with owed := none, run := if x.run = .stalled .windowStores then .ready else x.run }

/-- The spill CALL owes, at once or when the buffered stores to the record have left (R104). -/
def spillOwed (s : State) (k : Fin 16) : State :=
  let o := owedSpill (s.strand k)
  if recordBusy s k (s.strand k) o.1 then (s.modStrand k (·.owe .spill)).at (s.now + 1) (.windowSpill k)
  else spillFrame (s.modStrand k Strand.paid) k o.1 o.2

/-- A poisoned word of a record. -/
def recordPoison (s : State) (x : Strand) (rec : Nat) : Option Nat :=
  (List.range 16).find? fun i => poisoned s (spillPa s x rec i)

/-- A RET that has a precise fault at its fill is undone (R464). -/
def unRet (x : Strand) (pc : Addr) : Strand :=
  { x with pc := pc, winstate := setFld (setFld x.winstate 31 16 (x.spilledCount + 1)) 3 0 ((x.frm + 1) % 15) }

/-- The fill a RET at pc owes. A poisoned word of the record is a precise fault of that RET (R464, R498). -/
def fillOwed (s : State) (k : Fin 16) (pc : Addr) (ins : BitVec 32) : State :=
  let o := owedFill (s.strand k)
  if recordBusy s k (s.strand k) o.1 then (s.modStrand k (·.owe (.fill pc ins))).at (s.now + 1) (.windowFill k)
  else
    let t := s.modStrand k Strand.paid
    match recordPoison s (s.strand k) o.1 with
    | some i =>
      let pa := spillPa s (s.strand k) o.1 i
      freeze (t.modStrand k (unRet · pc)) k cPOISON false pc (word (pa - tcmPa s.core.gcore 0)) (word pa) ins
    | none => fillFrame t k o.1 o.2

/-- CALL and CALLR (R331): s has read the target; w31 of the caller is w15 of the callee. -/
def callTo (before s : State) (srcs : List Opd) (target : Addr) : Res State := do
  advanceOk before s srcs
  let l := Loc.ring (ringIx s.st.frm 31)
  destFree (s.st.reg l) 31
  let spill := s.st.res = 7
  let link := Reg.of ((s.st.pc + 4).zeroExtend 64) Tag.full
  let t := ((dropHandle s (s.st.reg l)).mod (·.setReg l link)).mod winCall
  .ok ((if spill then spillOwed t t.cur else t).goto target)

/-- R331. -/
def execCall (off : BitVec 24) (s : State) :=
  finish s (callTo s s [] (relPc s.st.pc (off.signExtend 43)))

/-- R331. -/
def execCallr (a : Opd) (ta : Bool) (s : State) := finish s (do
  checkCodes [(1, a)]
  let x ← readSrc s a ta
  let t ← jumpTarget x.1.val
  callTo s x.2 [a] t)

/-- R332. Whether a fill past a lowered WINBASE.LIMIT freezes is left open: R493 names CALL alone, and the model checks no limit here (DESIGN
CHOICE, log 63). -/
def execRet (s : State) := finish s (do
  let x ← readSrc s 15 false
  let t ← jumpTarget x.1.val
  let z := x.2.st
  let fill : Bool := z.res = 1
  if fill then
    if z.spilledCount = 0 then winFreeze z
    loadGate s x.2 [15]
    match if recordBusy s s.cur z (z.spilledCount - 1) then none else recordPoison s z (z.spilledCount - 1) with
    | some i =>
      .error (.freeze cPOISON (word (spillPa s z (z.spilledCount - 1) i))
        (word (spillPa s z (z.spilledCount - 1) i - tcmPa s.core.gcore 0)))
    | none => .ok ()
  let u := (x.2.mod winRet).goto t
  .ok (if fill then fillOwed u u.cur s.st.pc s.word else u))

/-- R104: the spill that waited for buffered stores. -/
def execWindowSpill (k : Fin 16) (s : State) : Host.Outcome State Fault Refusal :=
  done (match (s.strand k).owed with
    | some .spill => spillOwed s k
    | _ => s)

/-- R104: the fill that waited for buffered stores. -/
def execWindowFill (k : Fin 16) (s : State) : Host.Outcome State Fault Refusal :=
  done (match (s.strand k).owed with
    | some (.fill pc ins) => fillOwed s k pc ins
    | _ => s)

/-! ## Traps (R333, R337) -/

/-- R333; kernel mode only (R486). -/
def execTret (s : State) := finish s (do
  check s.st.kernel cPRIV 0
  .ok (s.mod returnFromTrap))

/-- R337. -/
def execSys (imm : BitVec 24) (s : State) := finish s (.ok (raiseTrap (retire s) s.cur tcSys (imm.zeroExtend 64)))
/-- R337. -/
def execBrk (imm : BitVec 24) (s : State) := finish s (.ok (raiseTrap (retire s) s.cur tcBrk (imm.zeroExtend 64)))

/-! ## Strand control (R338, R74, R90) -/

/-- Every entry strand has halted and no handler strand runs a handler (R74). -/
def cellDone (s : State) : Bool :=
  match s.core.cell with
  | some c => (List.finRange 16).all fun k =>
      if k.val < c.n - c.handlers then (s.strand k).run = .halted
      else if k.val < c.n then (s.strand k).run = .halted || (s.strand k).run = .dormant
      else true
  | none => false

/-- The cell ends in the cycle after. -/
def noteCellEnd (s : State) : State := if cellDone s then s.at (s.now + 1) .cellEnd else s

/-- Messages that wait for a dormant strand claim it from the next cycle, in ascending endpoint number (R90, R91). -/
def wakeClaims (s : State) : State :=
  (List.finRange 64).foldl (fun s e =>
    let r := s.core.recv[e]
    let waits := !r.queue.isEmpty && (match r.arming with | some a => a.act | none => false)
    if waits then s.at (s.now + 1) (.activeMessageClaim e) else s) s

/-- A register of a halted strand loses its binding (R338). -/
def Reg.dropFill (r : Reg) : Reg := { r with bind := none }

/-- The strand halts: pending fills are discarded, and its registers are no longer bound to its table entries, which stay (R338). -/
def haltStrand (s : State) (k : Fin 16) : State :=
  let s := s.modStrand k fun x =>
    { x with
      run := .halted
      w := vmap Reg.dropFill x.w
      ring := vmap Reg.dropFill x.ring
      o := vmap Reg.dropFill x.o
      lat := x.lat.dropFill
      v := vmap (fun (r : VReg) => { r with bind := none }) x.v
      chunk := none
      singular := []
      tpend := none
      spilled := []
      walked := []
      owed := none
      back := none }
  noteCellEnd s

/-- R338. -/
def execYield (s : State) := finish s (.ok ((retire s).setRun s.cur .yielded))

/-- R338, R91; legal only with STROLE.HE (R486). -/
def execIdle (s : State) := finish s (do
  check (s.st.strole.getLsbD 15) cPRIV 2
  .ok (wakeClaims (noteCellEnd ((retire s).setRun s.cur .dormant))))

/-- R338. -/
def execHalt (s : State) := finish s (.ok (haltStrand (retire s) s.cur))

end Sys2Proof.Machine
end

