-- ==== Sys2Proof/Machine/FloatScalar.lean ====
section
/-! DEFINITION. Scalar float instructions (R357-R365) and the fills of the float divide unit (R353, R354). -/

namespace Sys2Proof.Machine

/-- A register as a float operand of type t (R357). -/
def floatOf (t : Ty) (r : Reg) : FOp := fop (fmtOf t) r.val.toNat r.tag.val

/-- The tag of a source as R99 reads it. -/
def readTagOf (t : Ty) (r : Reg) : Nat := if t.isFloat then min r.tag.val (tyP t) else 64

/-- A float result in a register. -/
def FRes.reg (r : FRes) : Reg := Reg.of (word r.bits) (Tag.ofNat r.tag)

/-- A two-source arithmetic instruction. -/
def float2 (s : State) (d a b : Opd) (ta tb : Bool) (t : Ty) (f : Fmt → RMode → FOp → FOp → FRes) : Res State := do
  checkCodes [(0, d), (1, a), (2, b)]
  let x ← read2 s a b ta tb
  let r := f (fmtOf t) s.st.rm (floatOf t x.1) (floatOf t x.2.1)
  let u ← writeDest x.2.2 d r.reg
  .ok (floatEnd u r.flags [⟨0, r.tag, some (readTagOf t x.1), some (readTagOf t x.2.1), none⟩])

/-- The FMA forms read D last, blocking (R294, R358). -/
def float3 (s : State) (d a b : Opd) (ta tb : Bool) (t : Ty) (negP negZ : Bool) : Res State := do
  checkCodes [(0, d), (1, a), (2, b)]
  let x ← read3 s a b d ta tb
  let z := x.2.2.1
  let r := fFma (fmtOf t) s.st.rm (floatOf t x.1) (floatOf t x.2.1) (floatOf t z) negP negZ
  let u ← writeDest x.2.2.2 d r.reg
  .ok (floatEnd u r.flags [⟨0, r.tag, some (readTagOf t x.1), some (readTagOf t x.2.1), some (readTagOf t z)⟩])

/-- R358. -/
def execFadd (d a b : Opd) (ta tb : Bool) (t : Ty) (s : State) := finish s (float2 s d a b ta tb t fAdd)
/-- R358. -/
def execFsub (d a b : Opd) (ta tb : Bool) (t : Ty) (s : State) := finish s (float2 s d a b ta tb t fSub)
/-- R358. -/
def execFmul (d a b : Opd) (ta tb : Bool) (t : Ty) (s : State) := finish s (float2 s d a b ta tb t fMul)

/-- Cycles of a scalar division or square root (R353). -/
def divCycles (t : Ty) : Nat :=
  match t with
  | .f64 => 28
  | .f32 => 18
  | _ => 12

/-- The float divide unit's result for a scalar: its fill, and the trap it may lead to. -/
def divResult (s : State) (r : FRes) (c : LossTest) : DivResult :=
  ⟨word r.bits, Tag.ofNat r.tag, none, r.flags, lossOf s.st [c]⟩

/-- R358, R353. -/
def execFdiv (d a b : Opd) (ta tb : Bool) (t : Ty) (s : State) := finish s (do
  checkCodes [(0, d), (1, a), (2, b)]
  let x ← read2 s a b ta tb
  let r := fDiv (fmtOf t) s.st.rm (floatOf t x.1) (floatOf t x.2.1)
  let n := x.2.2.newTicket
  let u ← writePending n.2 d n.1
  .ok (divideStart u n.1 (divCycles t)
    (divResult s r ⟨0, r.tag, some (readTagOf t x.1), some (readTagOf t x.2.1), none⟩)))

/-- R358, R353. -/
def execFsqrt (d a : Opd) (ta : Bool) (t : Ty) (s : State) := finish s (do
  checkCodes [(0, d), (1, a)]
  let x ← readSrc s a ta
  let r := fSqrt (fmtOf t) s.st.rm (floatOf t x.1)
  let n := x.2.newTicket
  let u ← writePending n.2 d n.1
  .ok (divideStart u n.1 (divCycles t) (divResult s r ⟨0, r.tag, some (readTagOf t x.1), none, none⟩)))

/-- R358. -/
def execFma (d a b : Opd) (ta tb : Bool) (t : Ty) (s : State) := finish s (float3 s d a b ta tb t false false)
/-- R358. -/
def execFms (d a b : Opd) (ta tb : Bool) (t : Ty) (s : State) := finish s (float3 s d a b ta tb t false true)
/-- R358. -/
def execFnma (d a b : Opd) (ta tb : Bool) (t : Ty) (s : State) := finish s (float3 s d a b ta tb t true false)

/-- FMIN and FMAX (R359). -/
def floatMinMax (s : State) (d a b : Opd) (t : Ty) (isMax : Bool) : Res State := do
  checkCodes [(0, d), (1, a), (2, b)]
  let x ← read2 s a b false false
  let r := fMinMax (fmtOf t) isMax x.1.val.toNat x.2.1.val.toNat x.1.tag.val x.2.1.tag.val
  let u ← writeDest x.2.2 d r.reg
  .ok (floatEnd u r.flags [⟨0, r.tag, some (readTagOf t x.1), some (readTagOf t x.2.1), none⟩])

/-- R359. -/
def execFmin (d a b : Opd) (t : Ty) (s : State) := finish s (floatMinMax s d a b t false)
/-- R359. -/
def execFmax (d a b : Opd) (t : Ty) (s : State) := finish s (floatMinMax s d a b t true)

/-- A compare (R360): 1 or 0 with tag 64. -/
def floatCompare (s : State) (d a b : Opd) (t : Ty) (f : FVal → FVal → Bool × FFlags) : Res State := do
  checkCodes [(0, d), (1, a), (2, b)]
  let x ← read2 s a b false false
  let r := f (floatOf t x.1).v (floatOf t x.2.1).v
  let u ← writeDest x.2.2 d (Reg.of (if r.1 then 1 else 0) Tag.full)
  .ok (floatEnd u r.2 [])

/-- R360. -/
def execFeq (d a b : Opd) (t : Ty) (s : State) := finish s (floatCompare s d a b t fEq)
/-- R360. -/
def execFlt (d a b : Opd) (t : Ty) (s : State) := finish s (floatCompare s d a b t fLt)
/-- R360. -/
def execFle (d a b : Opd) (t : Ty) (s : State) := finish s (floatCompare s d a b t fLe)
/-- R360. -/
def execFunord (d a b : Opd) (t : Ty) (s : State) := finish s (floatCompare s d a b t fUn)

/-- The register a conversion writes: an integer result has tag 64 (R365). -/
def convReg (tgt : Ty) (r : FRes) : Reg := Reg.of (place tgt r.bits) (if tgt.isFloat then Tag.ofNat r.tag else Tag.full)

/-- R365: tested for SIGLOSS with a float target (R159). -/
def execFcvt (d a : Opd) (ta : Bool) (src tgt : Ty) (s : State) := finish s (do
  checkCodes [(0, d), (1, a)]
  let x ← readSrc s a ta
  let r := convert src tgt s.st.rm s.st.satF8 x.1.val.toNat x.1.tag.val
  let same := src = tgt && !src.isFloat
  let u ← writeDest x.2 d (if same then Reg.of (place tgt r.bits) x.1.tag else convReg tgt r)
  .ok (floatEnd u r.flags (if tgt.isFloat then [⟨0, r.tag, some (readTagOf src x.1), none, none⟩] else [])))

/-- R361. -/
def execFclass (d a : Opd) (ta : Bool) (t : Ty) (s : State) := finish s (do
  checkCodes [(0, d), (1, a)]
  let x ← readSrc s a ta
  let u ← writeDest x.2 d (Reg.of (word (fClass (fmtOf t) (floatOf t x.1))) Tag.full)
  .ok (retire u))

/-- The sign bit's weight in type t. -/
def signOf (t : Ty) : Nat := 2 ^ (t.width - 1)

/-- A bit operation on the sign (R362); the tag is S1's, read by R99. -/
def signResult (t : Ty) (r : Reg) (f : Nat → Nat) : Reg :=
  Reg.of (word (f (r.val.toNat % 2 ^ t.width))) (Tag.ofNat (readTagOf t r))

/-- S1 with the sign of S2. -/
def copySign (t : Ty) (x y : Nat) : Nat := x % signOf t + (y / signOf t % 2) * signOf t

/-- R362. -/
def execFcps (d a b : Opd) (t : Ty) (s : State) := finish s (do
  checkCodes [(0, d), (1, a), (2, b)]
  let x ← read2 s a b false false
  let u ← writeDest x.2.2 d (signResult t x.1 fun v => copySign t v x.2.1.val.toNat)
  .ok (retire u))

/-- FNEG and FABS. -/
def signOp (s : State) (d a : Opd) (t : Ty) (f : Nat → Nat) : Res State := do
  checkCodes [(0, d), (1, a)]
  let x ← readSrc s a false
  let u ← writeDest x.2 d (signResult t x.1 f)
  .ok (retire u)

/-- The sign inverted, and cleared. -/
def negBits (t : Ty) (v : Nat) : Nat := v % signOf t + (1 - v / signOf t % 2) * signOf t
def absBits (t : Ty) (v : Nat) : Nat := v % signOf t

/-- R362. -/
def execFneg (d a : Opd) (t : Ty) (s : State) := finish s (signOp s d a t (negBits t))
/-- R362. -/
def execFabs (d a : Opd) (t : Ty) (s : State) := finish s (signOp s d a t (absBits t))

/-- A power of two that scales every finite value of every format out of range; the rounded result does not change beyond. -/
def sclBound (k : Int) : Int := max (-8192) (min 8192 k)

/-- R363: S2 is a whole signed word. -/
def execFscl (d a b : Opd) (ta tb : Bool) (t : Ty) (s : State) := finish s (do
  checkCodes [(0, d), (1, a), (2, b)]
  let x ← read2 s a b ta tb
  let r := fScl (fmtOf t) s.st.rm (floatOf t x.1) (sclBound x.2.1.val.toInt)
  let u ← writeDest x.2.2 d r.reg
  .ok (floatEnd u r.flags [⟨0, r.tag, some (readTagOf t x.1), some (readTagOf t x.2.1), none⟩]))

/-- R364. -/
def execFrnd (d a : Opd) (t : Ty) (s : State) := finish s (do
  checkCodes [(0, d), (1, a)]
  let x ← readSrc s a false
  let r := fRnd (fmtOf t) s.st.rm (floatOf t x.1)
  let u ← writeDest x.2 d r.reg
  .ok (floatEnd u r.flags [⟨0, r.tag, some (readTagOf t x.1), none, none⟩]))

/-- R353, R354: the destination fills, the flags are raised, a strand stalled for the division goes on, and SIGLOSS is taken. -/
def execFpDivideFill (k : Fin 16) (ticket : Nat) (r : DivResult) (s : State) : Host.Outcome State Fault Refusal :=
  let t := match r.lanes with
    | some l => fillVec s k ticket l
    | none => fillReg s k ticket r.val r.tag
  let t := t.modStrand k (·.raiseFlags r.flags)
  let t := if (t.strand k).run = .stalled (.division ticket) then t.setRun k .ready else t
  done (takeLoss t k r.loss)

end Sys2Proof.Machine
end

