-- ==== Sys2Proof/Machine/System.lean ====
section
/-! DEFINITION. System register instructions (R334-R336), the TLB removal TLBINV asks for (R198) and writes of the loop unit's
registers (R128). -/

namespace Sys2Proof.Machine

/-- Does the number name a loop unit register (R128)? -/
def isLoopReg (n : Nat) : Bool := decide (0x210 ≤ n) && decide (n < 0x228)

/-- A request to the loop unit, which arrives 2 cycles on (R346). -/
def askLoop (s : State) (c : Fin 8) (kind : LoopReqKind) : State :=
  let q : LoopReq := ⟨s.now + 2, s.core.gcore, s.cur, c, kind⟩
  (s.withClu fun u => { u with loopReqs := u.loopReqs ++ [q] }).atOnce (s.now + 2) .loopUnitService

/-! ## TLBINV (R198) -/

/-- Does an entry match the request? -/
def tlbMatches (vmid : BitVec 16) (v : Word) (e : TlbEntry) : Bool :=
  e.asid = v.extractLsb' 48 16 && e.vmid = vmid &&
    (v.getLsbD 0 || e.covers e.asid e.vmid (fld v 42 13 * 2 ^ 13))

/-- Cycles of a removal: from 2 to 64, by the entries of both levels and the walks it finds (R198, log 6). -/
def removalCycles (s : State) : Nat := 2 + Config.removalTime s.core.utlb.length s.clu.tlb.length s.clu.walks.length % 63

/-- Entries that match go from both levels, and pending walks are discarded; the misses of strands and of engines walk again. -/
def tlbDrop (s : State) (vmid : BitVec 16) (v : Word) : State :=
  let keep := fun (e : TlbEntry) => !tlbMatches vmid v e
  let again := s.clu.walks.flatMap fun w => w.waiters.map fun j => (w.vpn, j)
  let t := (s.withCore fun c =>
    { c with utlb := c.utlb.filter keep, table := vmap (fun (e : CEntry) => { e with missed := false }) c.table }).withClu fun u =>
    { u with tlb := u.tlb.filter keep, walks := [] }
  again.foldl (fun t w => t.at t.now (.tlbWalkStart w.1 w.2)) t

/-- A write to TLBINV; the strand is held for 2 to 64 cycles from it. -/
def tlbRemove (s : State) (k : Fin 16) (v : Word) : State :=
  ((tlbDrop s s.vmid v).setRun k (.stalled .tlbRemoval)).at (s.now + removalCycles s) (.tlbinvDone k)

/-- A read of FPOR takes a fresh value for the other cores' flags (log 15). -/
def afterRead (s : State) (n : Nat) : State := if n = 0x200 then { s with fresh := s.fresh + 1 } else s

/-- Writes a system register, in the unit that holds it. -/
def sysWrite (s : State) (reg : BitVec 12) (v : Word) : State :=
  let n := reg.toNat
  if n = 0x105 then tlbRemove s s.cur v
  else if isLoopReg n then askLoop s ⟨n % 8, Nat.mod_lt _ (by decide)⟩ (.reg reg v)
  else sysStore s s.cur n v

/-- The value a write leaves outside its range fails (R491). -/
def sysValue (n : Nat) (v : Word) : Res Unit := check (!sysBad n v) cOPERAND 0

/-- R334. -/
def execSrr (d : Opd) (reg : BitVec 12) (s : State) := finish s (do
  sysCheck s.st reg.toNat true false s.word
  checkCodes [(0, d)]
  let t ← writeDest (afterRead s reg.toNat) d (Reg.of (sysRead s s.cur reg.toNat) Tag.full)
  .ok (retire t))

/-- R334. -/
def execSrw (d : Opd) (reg : BitVec 12) (s : State) := finish s (do
  sysCheck s.st reg.toNat false true s.word
  checkCodes [(0, d)]
  let x ← readSrc s d false
  sysValue reg.toNat x.1.val
  .ok (sysWrite (retire x.2) reg x.1.val))

/-- An exchange with a system register (R334). With a register of the loop unit D waits for the unit, which reads and writes the register and
fills D in one cycle. -/
def srx (s : State) (d : Opd) (reg : BitVec 12) (op : RegOp) : Res State := do
  sysCheck s.st reg.toNat true true s.word
  checkCodes [(0, d)]
  let x ← readSrc s d false
  let old := sysRead s s.cur reg.toNat
  sysValue reg.toNat (op.apply old x.1.val)
  if isLoopReg reg.toNat then
    let n := x.2.newTicket
    let t ← writePending n.2 d n.1
    .ok (askLoop (retire t) ⟨reg.toNat % 8, Nat.mod_lt _ (by decide)⟩ (.xchg reg op x.1.val n.1))
  else
  let t ← writeDest (afterRead x.2 reg.toNat) d (Reg.of old Tag.full)
  .ok (sysWrite (retire t) reg (op.apply old x.1.val))

/-- R334. -/
def execSrxSwap (d : Opd) (reg : BitVec 12) (s : State) := finish s (srx s d reg .swap)
/-- R334. -/
def execSrxSet (d : Opd) (reg : BitVec 12) (s : State) := finish s (srx s d reg .set)
/-- R334. -/
def execSrxClr (d : Opd) (reg : BitVec 12) (s : State) := finish s (srx s d reg .clr)

/-! ## TLBINV (R198) -/

/-- R198: the write reaches the TLBs. -/
def execTlbinvWrite (k : Fin 16) (v : Word) (s : State) : Host.Outcome State Fault Refusal := done (tlbRemove s k v)

/-- R198: another core of the cluster writes TLBINV, for a strand whose function has this virtual machine id. -/
def execTlbinvOther (vmid : BitVec 16) (v : Word) (s : State) : Host.Outcome State Fault Refusal := done (tlbDrop s vmid v)

/-- R198. -/
def execTlbinvDone (k : Fin 16) (s : State) : Host.Outcome State Fault Refusal :=
  done (if (s.strand k).run = .stalled .tlbRemoval then s.setRun k .ready else s)

/-! ## Loop unit registers (R128) -/

/-- A write of LOOPNX, LOOPRM or LOOPCF as the unit serves it. -/
def loopStore (s : State) (reg : BitVec 12) (v : Word) : State :=
  let n := reg.toNat
  let f : LoopCtr → LoopCtr := fun c =>
    if n < 0x218 then { c with next := fld v 39 0 }
    else if n < 0x220 then { c with remaining := fld v 39 0 }
    else { c with parts := fld v 15 0, minchunk := fld v 39 16 }
  if isLoopReg n then s.withClu fun u => { u with loops := vmodify u.loops (n % 8) f } else s

/-- R128. -/
def execLoopRegWrite (reg : BitVec 12) (v : Word) (s : State) : Host.Outcome State Fault Refusal := done (loopStore s reg v)

end Sys2Proof.Machine
end

