-- ==== Sys2Proof/Machine/Sync.lean ====
section
/-! DEFINITION. Fences (R211, R340), barriers (R341-R345, R509), the loop unit (R87, R88, R346) and MOVP (R347). -/

namespace Sys2Proof.Machine

/-! ## Fences -/

/-- Has the scope cache maintenance (R200)? -/
def Scope.wide (c : Scope) : Bool := decide (4 ≤ Scope.rank c)

/-- An acquire with no load: at scopes 1-3 it waits for nothing (R209). -/
def fenceAcquire (s : State) (sc : Scope) : State :=
  if Scope.wide sc then beginAcquire s s.cur sc false else s

/-- R211. -/
def execFenceAcq (sc : Scope) (s : State) := finish s (do
  throughGate s sc
  .ok (fenceAcquire (retire s) sc))

/-- R211. -/
def execFenceRel (sc : Scope) (s : State) := finish s (do
  throughGate s sc
  .ok (if sc = .strand then retire s else pushRelease (retire s) sc .none false))

/-- R211: both; later loads wait until the release's waits end. -/
def execFenceFull (sc : Scope) (s : State) := finish s (do
  throughGate s sc
  .ok (if sc = .strand then retire s else fenceAcquire (pushRelease (retire s) sc .none true) sc))

/-! ## Barriers -/

/-- The generations that complete, in order (R343). -/
def Barrier.run (b : Barrier) : (fuel : Nat) → Barrier × List (BitVec 8)
  | 0 => (b, [])
  | n + 1 =>
    if b.cnt != 0 && b.count ≤ b.cnt then
      let r := Barrier.run ⟨b.cur + 1, b.nxt, 0, b.ncount, b.ncount⟩ n
      (r.1, b.cur :: r.2)
    else (b, [])

/-- What an arrival comes to. -/
inductive Arrival where
  | counted (b : Barrier) (g : BitVec 8) (finished : List (BitVec 8))
  | overrun
  | mismatch (latched : Nat)
deriving DecidableEq, Repr

/-- An arrival with generation ng and a count (R343, R509). -/
def Barrier.arrive (b : Barrier) (ng : BitVec 8) (count : Nat) : Arrival :=
  let d0 := ng - b.cur
  let g := if 128 ≤ d0.toNat then b.cur else ng
  let d := if 128 ≤ d0.toNat then 0 else d0.toNat
  if d = 0 then
    (if b.cnt != 0 && b.count != count then .mismatch b.count
     else
      let r := Barrier.run { b with cnt := b.cnt + 1, count := count } 3
      .counted r.1 g r.2)
  else if d = 1 then
    (if b.nxt != 0 && b.ncount != count then .mismatch b.ncount
     else
      let r := Barrier.run { b with nxt := b.nxt + 1, ncount := count } 3
      .counted r.1 g r.2)
  else .overrun

/-- A barrier of the core, or of the gang's barrier unit: when another cluster holds the gang's cell 0, its unit is reached at once all the same,
not over the memory circuits of R341 (DESIGN CHOICE, log 55). -/
def State.barrier (s : State) (gang : Bool) (b : Fin 16) : Barrier := if gang then s.clu.bars[b] else s.core.bars[b]

def State.setBarrier (s : State) (gang : Bool) (b : Fin 16) (v : Barrier) : State :=
  if gang then s.withClu fun u => { u with bars := u.bars.set b v } else s.withCore fun c => { c with bars := c.bars.set b v }

/-- The wait of a strand at a barrier ends with a result for BARWT (R344): D and lat, tag 64, and the PC advances. -/
def barrierEnd (s : State) (k : Fin 16) (dest : Option (Opd × Nat)) (v : Word) : State :=
  let cur := s.cur
  let t := { s with cur := k }
  let r := Reg.of v Tag.full
  let t := match dest with
    | none => t
    | some (d, n) =>
      if (queueOf d).isSome then (fillReg t k n v Tag.full).mod (·.setReg .lat r)
      else match writeDest t d r with
        | .ok t => t
        | .error _ => t
  { (retire t).setRun k .ready with cur := cur }

/-- Strands that wait on a generation that completed become ready. -/
def barrierWake (s : State) (gang : Bool) (b : Fin 16) (gs : List (BitVec 8)) : State :=
  (List.finRange 16).foldl (fun s k =>
    match (s.strand k).run with
    | .parked (.barrier g' b' gen dest _) =>
      if g' = gang && b' = b && gs.contains gen then barrierEnd s k dest 0 else s
    | _ => s) s

/-- The place of a barrier among the strand's 32 generation counters. -/
def ngIx (gang : Bool) (b : Fin 16) : Fin 32 := ⟨(if gang then 16 else 0) + b.val, by split <;> omega⟩

/-- An arrival of the issuing strand: op is the barrier operand, for BAR_OVERRUN. The answer says whether its own generation has
completed, and which it is. -/
def arriveAt (s : State) (op : Word) (gang : Bool) (b : Fin 16) (count : Nat) : Res (State × BitVec 8 × Bool) :=
  match (s.barrier gang b).arrive (s.st.ng[ngIx gang b]) count with
  | .overrun => freezeWith cOVERRUN op
  | .mismatch c => freezeWith cMISMATCH (word (c <<< 32 ||| count))
  | .counted v g fs =>
    let t := (s.setBarrier gang b v).mod fun x => { x with ng := x.ng.set (ngIx gang b) (g + 1) }
    .ok (barrierWake t gang b fs, g, fs.contains g)

/-- Barrier and kind of a barrier operand (R342). -/
def barOf (op : Word) : Bool × Fin 16 := (op.getLsbD 4, ⟨fld op 3 0 % 16, Nat.mod_lt _ (by decide)⟩)

/-- BARW and BARA share their operands (R342, R490). -/
def barOperands (s : State) (a b : Opd) (ta tb : Bool) : Res (Word × Nat × State) := do
  checkCodes [(1, a), (2, b)]
  let x ← read2 s a b ta tb
  check (decide (x.1.val.toNat < 32)) cOPERAND 1
  check (decide (x.2.1.val.toNat < 2 ^ 20) && x.2.1.val != 0) cOPERAND 2
  .ok (x.1.val, x.2.1.val.toNat, x.2.2)

/-- R343. -/
def execBarw (a b : Opd) (ta tb : Bool) (s : State) := finish s (do
  let x ← barOperands s a b ta tb
  let n := barOf x.1
  let r ← arriveAt x.2.2 x.1 n.1 n.2 x.2.1
  .ok (if r.2.2 then retire r.1 else r.1.setRun s.cur (.parked (.barrier n.1 n.2 r.2.1 none none))))

/-- R343. -/
def execBara (a b : Opd) (ta tb : Bool) (s : State) := finish s (do
  let x ← barOperands s a b ta tb
  let n := barOf x.1
  let r ← arriveAt x.2.2 x.1 n.1 n.2 x.2.1
  .ok (retire r.1))

/-- The place of BARWT's result: a queue's tail entry is reserved at issue (R83), a register must not await a fill (R100). -/
def barDest (s : State) (d : Opd) : Res (State × Nat) :=
  match queueOf d with
  | some _ => do
    let n := s.newTicket
    let t ← putDest n.2 d ⟨0, Tag.full, false, some (.fill n.1)⟩
    .ok (t, n.1)
  | none => do
    match locOf s.st.frm d with
    | some l => destFree (s.st.reg l) d.toNat
    | none => .ok ()
    .ok (s, 0)

/-- R344: the deadline is a wheel as the partition observes time (R548). -/
def execBarwt (d a b : Opd) (ta tb : Bool) (s : State) := finish s (do
  checkCodes [(0, d), (1, a), (2, b)]
  let x ← read2 s a b ta tb
  let op := x.1.val
  check (op &&& ~~~(bitsMask 51 32 ||| 0x1F) = 0 && fld op 51 32 != 0) cOPERAND 1
  check (decide (x.2.1.val.toNat < 2 ^ 56)) cOPERAND 2
  let n := barOf op
  let t ← barDest x.2.2 d
  let r ← arriveAt t.1 op n.1 n.2 (fld op 51 32)
  let due := x.2.1.val.toNat * 256 + replayLag s
  let dest := some (d, t.2)
  .ok (if r.2.2 then barrierEnd r.1 s.cur dest 0
    else if due ≤ s.now then barrierEnd r.1 s.cur dest 1
    else (r.1.setRun s.cur (.parked (.barrier n.1 n.2 r.2.1 dest (some x.2.1.val.toNat)))).at due (.barwtDeadline s.cur)))

/-- Would strand k take the slot of this cycle if it were ready (R77)? -/
def wouldIssue (s : State) (k : Fin 16) : Bool :=
  let i := s.now % 16
  let owner := s.strand ⟨i, Nat.mod_lt _ (by decide)⟩
  k.val = i || (k.val = (i ^^^ 8) && owner.run != .ready)

/-- R344: arrivals of the cycle are applied before the deadline, the arrival issued in it included when the strand itself would
not issue then. -/
def execBarwtDeadline (k : Fin 16) (s : State) : Host.Outcome State Fault Refusal :=
  match (s.strand k).run with
  | .parked (.barrier _ _ _ dest (some w)) =>
    let due := w * 256 + replayLag s
    if s.now < due then done s
    else if s.agenda.any (fun e => decide (e.1 ≤ s.now) && (match e.2 with | .barwtDeadline _ => false | _ => true)) then
      done (s.at s.now (.barwtDeadline k))
    else if s.now = due && !wouldIssue s k then done (s.at (s.now + 1) (.barwtLate k))
    else done (barrierEnd s k dest 1)
  | _ => done s

/-- R344: the deadline of the cycle before, once the arrival issued in that cycle has been applied; before anything of this cycle. -/
def execBarwtLate (k : Fin 16) (s : State) : Host.Outcome State Fault Refusal :=
  match (s.strand k).run with
  | .parked (.barrier _ _ _ dest (some w)) => done (if w * 256 + replayLag s < s.now then barrierEnd s k dest 1 else s)
  | _ => done s

/-- R341: an arrival from another cluster reaches the barrier unit, with the generation its strand holds. A fault of it is its own
core's (R509). -/
def execGangBarrierArrive (b : Fin 16) (gen : BitVec 8) (count : BitVec 20) (s : State) : Host.Outcome State Fault Refusal :=
  match (s.clu.bars[b]).arrive gen count.toNat with
  | .counted v _ fs => done (barrierWake (s.setBarrier true b v) true b fs)
  | _ => done s

/-! ## The loop unit -/

/-- R346: the request reaches the unit 2 cycles on; D and lat stay empty until the result. Every operand blocks, whatever its EB bit. -/
def execGetchunk (d a : Opd) (_ta : Bool) (s : State) := finish s (do
  checkCodes [(0, d), (1, a)]
  if s.st.chunk.isSome then .error (.stall .chunkPending)
  let x ← readSrc s a false
  check (decide (x.1.val.toNat < 8)) cOPERAND 1
  let n := x.2.newTicket
  let t ← writePending n.2 d n.1
  let t := (retire t).mod fun z => { z with chunk := some n.1 }
  .ok (askLoop t ⟨x.1.val.toNat % 8, Nat.mod_lt _ (by decide)⟩ (.get n.1)))

/-- R346; every operand blocks, whatever its EB bit. -/
def execChunkset (d a b : Opd) (_ta _tb : Bool) (s : State) := finish s (do
  checkCodes [(0, d), (1, a), (2, b)]
  let x ← read3 s a b d false false
  let v := x.2.2.1.val
  check (fld v 63 40 != 0 && fld v 39 16 = 0 && fld v 15 0 != 0) cOPERAND 0
  check (decide (x.1.val.toNat < 8)) cOPERAND 1
  check (x.2.1.val != 0 && decide (x.2.1.val.toNat < 2 ^ 40)) cOPERAND 2
  .ok (askLoop (retire x.2.2.2) ⟨x.1.val.toNat % 8, Nat.mod_lt _ (by decide)⟩
    (.set x.2.1.val.toNat (fld v 15 0) (fld v 63 40))))

/-- GETCHUNK on a counter (R87): the result and the counter after. PARTS 0, which no CHUNKSET leaves, divides to a free value
(log 16). -/
def LoopCtr.draw (c : LoopCtr) (free : Nat) : Word × LoopCtr :=
  if c.remaining = 0 then (word (c.next <<< 24), c)
  else
    let part := if c.parts = 0 then free else (c.remaining + c.parts - 1) / c.parts
    let len := min (max c.minchunk part) (min c.remaining (2 ^ 24 - 1))
    (word (c.next <<< 24 ||| len), { c with next := (c.next + len) % 2 ^ 40, remaining := c.remaining - len })

/-- The order of service (R88). -/
def loopLe (a b : LoopReq) : Bool :=
  a.arrive < b.arrive || (a.arrive = b.arrive && (a.gcore < b.gcore || (a.gcore = b.gcore && a.strand ≤ b.strand)))

/-- The first of the requests that have arrived. -/
def loopNext (s : State) : Option LoopReq :=
  (s.clu.loopReqs.filter (fun q => decide (q.arrive ≤ s.now))).foldl
    (fun b q => match b with | none => some q | some b => if loopLe b q then some b else some q) none

/-- Does one request; a GETCHUNK of this core fills two cycles on, an exchange as the register changes (R334). -/
def loopServe (s : State) (q : LoopReq) : State :=
  match q.kind with
  | .set total parts mc => s.withClu fun u => { u with loops := u.loops.set q.ctr ⟨0, total, parts, mc⟩ }
  | .get ticket =>
    let r := (s.clu.loops[q.ctr]).draw (Config.freeWord s.fresh).toNat
    let t := { s with fresh := s.fresh + 1 }.withClu fun u => { u with loops := u.loops.set q.ctr r.2 }
    if q.gcore = s.core.gcore then t.at (s.now + 2) (.chunkFill q.strand ticket r.1) else t
  | .reg r v => loopStore s r v
  | .xchg r op v ticket =>
    let old := sysRead s q.strand r.toNat
    let t := loopStore s r (op.apply old v)
    if q.gcore = s.core.gcore then fillReg t q.strand ticket old Tag.full else t

/-- R88: one request in a cycle; the unit goes on in the next while one that has arrived waits. -/
def execLoopUnitService (s : State) : Host.Outcome State Fault Refusal :=
  match loopNext s with
  | some q =>
    let t := loopServe (s.withClu fun u => { u with loopReqs := u.loopReqs.erase q }) q
    done (if (loopNext t).isSome then t.atOnce (t.now + 1) .loopUnitService else t)
  | none => done s

/-- A request of another core of the cluster comes to the loop unit (R88). -/
def execLoopRequest (q : LoopReq) (s : State) : Host.Outcome State Fault Refusal :=
  done ((s.withClu fun u => { u with loopReqs := u.loopReqs ++ [q] }).atOnce (max s.now q.arrive) .loopUnitService)

/-- The result reaches the strand (R346). -/
def chunkFill (s : State) (k : Fin 16) (ticket : Nat) (v : Word) : State :=
  (fillReg s k ticket v Tag.full).modStrand k fun x =>
    { x with chunk := if x.chunk = some ticket then none else x.chunk }

/-! ## MOVP -/

/-- MOVP and CANCELH name w0-w31 or o0-o7 (R485). -/
def handleCodes : List (Nat × Opd) → Res Unit
  | [] => .ok ()
  | (f, c) :: cs => if handleCode c then handleCodes cs else freezeWith cOPERAND (word f)

/-- R347. -/
def execMovp (d a : Opd) (s : State) := finish s (do
  handleCodes [(0, d), (1, a)]
  match locOf s.st.frm d, locOf s.st.frm a with
  | some ld, some la =>
    let x := s.st.reg ld
    let y := s.st.reg la
    .ok (retire (((s.mod (·.setReg la x)).mod (·.setReg ld y)).mod (·.setReg .lat (Reg.of y.val y.tag))))
  | _, _ => .ok (retire s))

end Sys2Proof.Machine
end

