-- ==== Sys2Proof/Machine/Jobs.lean ====
section
/-! DEFINITION. Queue descriptors (R250), job records (R251), the fence table (R255) and effective priority (R260). -/

namespace Sys2Proof.Machine

/-! ## Queues -/

def qWord (s : State) (q i : Nat) : Word := hubGet s (rQueue q i)
def qPri (s : State) (q : Nat) : Nat := fld (qWord s q 0) 63 61
def qClass (s : State) (q : Nat) : Nat := fld (qWord s q 0) 60 57
def qProc (s : State) (q : Nat) : Nat := fld (qWord s q 0) 56 53
def qFunc (s : State) (q : Nat) : Nat := fld (qWord s q 0) 52 48
def qValid (s : State) (q : Nat) : Bool := (qWord s q 0).getLsbD 47
/-- Records of the ring. -/
def qSize (s : State) (q : Nat) : Nat := 2 ^ (fld (qWord s q 0) 46 43 + 4)
def qBase (s : State) (q : Nat) : Nat := fld (qWord s q 0) 42 0
def qHead (s : State) (q : Nat) : Nat := fld (qWord s q 1) 63 32
def qTail (s : State) (q : Nat) : Nat := fld (qWord s q 1) 31 0

/-- TAIL - HEAD, counted in 32 bits. -/
def qCount (s : State) (q : Nat) : Nat := (qTail s q + 2 ^ 32 - qHead s q) % 2 ^ 32

/-- The address of record n of a queue's ring. -/
def qRecord (s : State) (q n : Nat) : Nat := qBase s q + 64 * (n % qSize s q)

/-- The queues whose descriptor holds anything, ascending. -/
def liveQueues (s : State) : List Nat :=
  s.hub.regs.filterMap fun r =>
    if rQueue 0 0 ≤ r.1 && r.1 < rQueue 4096 0 && r.1 % 0x80 = 0 && r.2.getLsbD 47 then some ((r.1 - rQueue 0 0) / 0x80) else none

/-! ## Job records -/

abbrev Job := Vector Word 8

def gjob (g : Gang) : Job := g.job
def rjob (j : JobRun) : Job := j.job

def readJob (s : State) (pa : Nat) : Job := Vector.ofFn fun i => wordAt s (pa + 8 * i.val)
def headJob (s : State) (q : Nat) : Job := readJob s (qRecord s q (qHead s q))

def Job.entry (j : Job) : Word := j[0]
def Job.args (j : Job) : Word := j[1]
def Job.handlers (j : Job) : Nat := fld j[2] 63 59
def Job.strands (j : Job) : Nat := fld j[2] 58 54
def Job.cells (j : Job) : Nat := fld j[2] 47 32
def Job.gangs (j : Job) : Nat := fld j[2] 31 0
def Job.accn (j : Job) : Nat := fld j[3] 63 60
def Job.accs (j : Job) : Nat := fld j[3] 59 56
def Job.homeDie (j : Job) : Option Nat := if j[3].getLsbD 50 then some (fld j[3] 2 0) else none
def Job.recomp (j : Job) : Bool := j[3].getLsbD 49
def Job.ckpt (j : Job) : Bool := j[3].getLsbD 48
def Job.wait (j : Job) : Option (Nat × Nat) := if j[4].getLsbD 47 then some (fld j[4] 63 48, fld j[4] 46 0) else none
def Job.signal (j : Job) : Option Nat := if j[5].getLsbD 47 then some (fld j[5] 63 48) else none
def Job.restart (j : Job) : Word := j[5] &&& bitsMask 42 0
def Job.lvt (j : Job) : Word := j[6]
def Job.img (j : Job) : Nat := j[7].toNat

/-- Reserved bits zero and every field within its limits (R251); cores is what a gang may hold. -/
def Job.legal (j : Job) (cores : Nat) : Bool :=
  (j[0] &&& ~~~(bitsMask 42 0)) = 0 && (j[1] &&& ~~~(bitsMask 42 0)) = 0 &&
  (j[2] &&& bitsMask 53 48) = 0 && (j[3] &&& (bitsMask 55 51 ||| bitsMask 47 3)) = 0 &&
  (j[5] &&& bitsMask 46 43) = 0 && (j[6] &&& ~~~(bitsMask 42 0)) = 0 && (j[7] &&& ~~~(bitsMask 42 0)) = 0 &&
  1 ≤ j.strands && j.strands ≤ 16 && j.handlers ≤ j.strands &&
  1 ≤ j.cells && j.cells ≤ cores && 1 ≤ j.gangs &&
  [0, 1, 2, 4, 8].contains j.accn && j.accn * j.accs ≤ 8

/-! ## Fence counters -/

def fcCount (s : State) (f : Nat) : Nat := fld (hubGet s (rFunc f 2)) 63 48

/-- Where counter i of a function lies (R255). -/
def counterPa (s : State) (f i : Nat) : Nat := fld (hubGet s (rFunc f 2)) 42 0 + 16 * i
def counterValue (s : State) (f i : Nat) : Word := wordAt s (counterPa s f i)

/-- Does the job's wait hold (R253)? A counter the function does not have is never reached. -/
def Job.ready (s : State) (f : Nat) (j : Job) : Bool :=
  match j.wait with
  | none => true
  | some (c, v) => decide (c < fcCount s f) && decide (v ≤ (counterValue s f c).toNat)

/-- The queue expected to release queue q's waiting head job; a counter past the table has no owner (R255). A queue with gangs of a fired job
still to start waits for none. -/
def waitsFor (s : State) (q : Nat) : Option Nat :=
  if qValid s q && 0 < qCount s q && !(s.hub.deps.any fun d => d.queue.toNat = q && decide (d.lo < d.hi)) then
    let j := headJob s q
    match j.wait with
    | some (c, _) =>
      if j.ready s (qFunc s q) || fcCount s (qFunc s q) ≤ c then none
      else
        let w := wordAt s (counterPa s (qFunc s q) c + 8)
        if w.getLsbD 63 then some (fld w 11 0) else none
    | none => none
  else none

/-- The waits as they stand now, each queue with the one it waits for. -/
def waitsNow (s : State) : List (Nat × Nat) := (liveQueues s).filterMap fun q => (waitsFor s q).map fun o => (q, o)

/-- The queues that wait, directly or through others, on the given ones, as noted for the present wheel (R260). -/
def waitersOf (s : State) : (fuel : Nat) → List Nat → List Nat
  | 0, qs => qs
  | n + 1, qs =>
    waitersOf s n (qs ++ (liveQueues s).filter fun q =>
      !qs.contains q && s.hub.waits.any fun w => w.1 = q && qs.contains w.2)

/-- R260: the highest PRI of the queue and of all that wait on it. -/
def effectivePriority (s : State) (q : Nat) : Nat :=
  ((waitersOf s (liveQueues s).length [q]).map (qPri s)).foldl max 0

/-- The mode-device a queue belongs to, and the one that holds a partition (R279, R281). -/
def queueDevice (s : State) (q : Nat) : Nat := match sysMode s with | 1 => q / 2048 | 2 => q / 512 | _ => 0
def partDevice (s : State) (p : Nat) : Nat := fld (hubGet s (rPart p 0)) 61 59

/-- Cores of the clusters of a partition (R281). -/
def partClusters (s : State) (p : Nat) : List Nat :=
  (List.range Config.clusterCount).filter fun c => (hubGet s (rPart p (1 + c / 64))).getLsbD (c % 64)

end Sys2Proof.Machine
end

