-- ==== Sys2Proof/Machine/Handles.lean ====
section
/-! DEFINITION. Handles (R110-R114): how an instruction takes a completion-table entry, how a completion fills its register, and
the bytes of the own TCM as an instruction reads them. -/

namespace Sys2Proof.Machine

/-! ## Taking an entry -/

/-- Is an entry pending in the table of a context a den holds? -/
def DenCtx.owes (d : DenCtx) (e : Fin 128) : Bool :=
  match d.core with
  | some c => c.table[e].state = .pending
  | none => false

/-- The free entries (R110). -/
def freeEntries (s : State) : List (Fin 128) := (List.finRange 128).filter fun e => s.core.table[e].state = .free

/-- The entries from which one is taken; which is left open (log 20). One whose number a saved context still owes comes only when there is no
other, so that a completion finds its own table. -/
def entryPool (s : State) : List (Fin 128) :=
  let fresh := (freeEntries s).filter fun e => !s.hub.dens.any (·.owes e)
  if fresh.isEmpty then freeEntries s else fresh

/-- The handle id of an entry (R110). -/
def handleId (gen : BitVec 9) (e : Fin 128) : BitVec 16 := gen.append (BitVec.ofNat 7 e.val)

/-- D of an instruction that returns a handle (R111): the id, status 0xFF, empty and bound; lat takes the same value, full. -/
def takeHandle (s : State) (d : Opd) (owner : Owner) (strap : Bool) : Res (Fin 128 × State) :=
  match entryPool s, locOf s.st.frm d with
  | e0 :: es, some l => do
    let e := ((e0 :: es)[Config.freeChoice s.fresh % (es.length + 1)]?).getD e0
    let old := s.st.reg l
    destFree old d.toNat
    let t := dropHandle { s with fresh := s.fresh + 1 } old
    let en := t.core.table[e]
    let v : Word := (handleId en.gen e).zeroExtend 64 ||| 0xFF0000
    let t := t.withCore fun c => { c with table := c.table.set e { en with
      state := .pending, strand := s.cur, owner := owner, started := false, status := 0xFF, strap := strap, vdst := [],
      dead := false, wait := 0, ask := none, missed := false } }
    let t := t.mod fun x => (x.setReg l ⟨v, Tag.full, false, some (.handle e)⟩).setReg .lat (Reg.of v Tag.full)
    .ok (e, t)
  | _, _ => .error (.stall .tableFull)

/-- A completion due at a time. -/
def completeAt (s : State) (t : Nat) (h : Fin 128) (status : Nat) : State :=
  s.at t (.completion h ⟨BitVec.ofNat 8 status, 0, 0⟩)

/-- Statuses of R401 and R463. -/
def stDone : Nat := 0
def stPartial : Nat := 1
def stLate : Nat := 2
def stCancelled : Nat := 3
def stPoison : Nat := 4
def stSingular : Nat := 5
def stHole : Nat := 0x47
def stIllcmd : Nat := 0x4E
def stAlign : Nat := 0x43

/-- Changes an entry. -/
def State.modEntry (s : State) (h : Fin 128) (f : CEntry → CEntry) : State :=
  s.withCore fun c => { c with table := c.table.set h (f c.table[h]) }

/-- Marks the operation of an entry as started (R349). -/
def startEntry (s : State) (h : Fin 128) : State := s.modEntry h fun e => { e with started := true }

/-! ## What an engine waits for before a beat (R196, R212, R218) -/

/-- Pages of a beat whose translations are not held. -/
def engineMisses (s : State) (vas : List Nat) : List Nat :=
  ((vas.filter fun va => decide (Config.tcmBytes ≤ va % 2 ^ 43) && (tlbFind s s.asid s.vmid (va % 2 ^ 43)).isNone).map
    fun va => va % 2 ^ 43 / 2 ^ 13).eraseDups

/-- A walk of a page of the beat, or a unit of it, is under way. -/
def engineBlocked (s : State) (c : EngCmd) (vas : List Nat) : Bool :=
  (match (s.core.table[c.handle]).ask with | some t => hbmPending s t || atBank s (.engine t) | none => false) ||
  (engineMisses s vas).any fun v => s.clu.walks.any (sameWalk s v)

/-- Walks for the pages of a beat, as far as there is room for 16 (R196, R525). -/
def engineWalks (s : State) (vs : List Nat) : State :=
  vs.foldl (fun t v => if t.clu.walks.any (sameWalk t v) || 16 ≤ t.clu.walks.length then t else newWalk t v []) s

/-- The units of HBM a beat reads and writes, in the class of the issuing queue (R219), and its words at the banks of the own scratchpad and
die SRAM (R180, R182); with its first one the operation has started (R349). -/
def engineUnits (s : State) (c : EngCmd) (reads writes : List Nat) : State :=
  let at_ := fun (vs : List Nat) => vs.filterMap fun va =>
    match engineXlat s (va % 2 ^ 43) .read (!c.kernel) with | .ok pa => some pa | .error _ => none
  let t := ({ s with ticket := s.ticket + 1 } : State).modEntry c.handle fun e => { e with ask := some s.ticket, started := true }
  let t := askLines (askLines t s.ticket (some c.handle) (loadClass s) false (at_ reads)) s.ticket (some c.handle) (loadClass s) true
    (at_ writes)
  (at_ (reads ++ writes)).foldl (fun t pa => bankArrive t (.engine s.ticket) pa) t

/-- The machine in which a beat that reaches these virtual addresses still waits; none: it may move. Its misses are walked first, and then
its units are served. -/
def engineWait (s : State) (c : EngCmd) (reads writes : List Nat) : Option State :=
  let vas := reads ++ writes
  let en := s.core.table[c.handle]
  let miss := engineMisses s vas
  if engineBlocked s c vas then some s
  else if !en.missed && !miss.isEmpty then
    let t := engineWalks s miss
    some (if miss.all fun v => t.clu.walks.any (sameWalk t v) then t.modEntry c.handle fun e => { e with missed := true } else t)
  else if en.ask.isNone then
    let t := engineUnits s c reads writes
    if hbmPending t s.ticket || atBank t (.engine s.ticket) then some t else none
  else none

/-- A beat moves: what it waited for is over. -/
def engineGo (s : State) (c : EngCmd) : State := s.modEntry c.handle fun e => { e with ask := none, missed := false }

/-- The addresses of n words from one on. -/
def wordSpan (va n : Nat) : List Nat := (List.range n).map fun i => va + 8 * i

/-! ## Completion -/

/-- The value of a completed handle (R111, R416, R515). -/
def handleValue (en : CEntry) (h : Fin 128) (st : Completion) : Word :=
  (st.hi ++ st.detail ++ st.status ++ handleId en.gen h : BitVec 64)

/-- A register bound to the entry fills and keeps the binding until its first read. -/
def Reg.complete (r : Reg) (h : Fin 128) (v : Word) : Reg :=
  if r.bind = some (.handle h) && !r.full then { r with val := v, tag := Tag.full, full := true } else r

/-- The places of strand k bound to the entry take the value; a spilled one in its record (R105, R114). -/
def fillHandle (s : State) (k : Fin 16) (h : Fin 128) (v : Word) : State :=
  let x := s.strand k
  let s := (x.spilled.filter (fun e => e.b = .handle h)).foldl (fun s e =>
    setFe (performStore s ⟨e.pa, v, 0xFF, 64⟩) e.pa true) s
  s.modStrand k fun x =>
    { x with
      w := vmap (·.complete h v) x.w
      ring := vmap (·.complete h v) x.ring
      o := vmap (·.complete h v) x.o }

/-- A vector destination of a tile command fills with its handle (R419). -/
def fillTileVecs (s : State) (k : Fin 16) (vs : List (Fin 32 × Nat × Lanes)) : State :=
  vs.foldl (fun s v => fillVec s k v.2.1 v.2.2) s

/-- CREL withdrawn: its endpoint reopens as the handle fills (R58). -/
def reopen (s : State) (ep : Fin 32) : State :=
  s.withCore fun c => { c with send := c.send.set ep { c.send[ep] with closed := false } }

/-- What the end of a CREL does to its endpoint: released, it holds no circuit and may be named in an OPEN (R409); withdrawn, it reopens (R58).
The manual says nothing of one answered BUSY; the model leaves it closed (log 52). -/
def endCrel (s : State) (ep : Fin 32) (status : BitVec 8) : State :=
  if status = 3 then reopen s ep
  else if status = 0 then s.withCore fun c => { c with send := c.send.set ep SendEp.idle }
  else s

/-- R111: the entry is filled; one whose cell has ended is freed (R74), and a halted strand has no register bound to it (R338).
A SINGULAR completion with STRAP raises its trap (R269, R417), and the refresh cycles of the engine's reads reach LATCNT (R225). -/
def completeHandle (s : State) (h : Fin 128) (st : Completion) : State :=
  let en := s.core.table[h]
  if en.state != .pending then s
  else
    let s := match en.owner with
      | .crel ep => endCrel s ep st.status
      | _ => s
    let s := fillTileVecs s en.strand en.vdst
    if en.dead then s.freeEntry h
    else
      let s := s.modStrand en.strand fun x => { x with latcnt := x.latcnt + word en.wait }
      let s := fillHandle s en.strand h (handleValue en h st)
      let s := s.modEntry h fun e => { e with state := .filled, status := st.status, vdst := [] }
      if en.strap && st.status = 5 then
        s.modStrand en.strand fun x => { x with singular := x.singular ++ [handleId en.gen h] }
      else s

/-- A completion for a saved context goes to its table, registers and memory (R265). -/
def completeSaved (s : State) (h : Fin 128) (st : Completion) (d : DenCtx) (c : Core) : State :=
  let t := completeHandle { s with core := c, mem := d.img.mem, tags := d.img.tags, fe := d.img.fe, poison := d.img.poison } h st
  let d' : DenCtx := { d with core := some t.core, img := { d.img with mem := t.mem, tags := t.tags, fe := t.fe, poison := t.poison } }
  s.withHub fun b => { b with dens := b.dens.map fun x => if x = d then d' else x }

/-- R111; every access of the operation has been served by then (R212). -/
def execCompletion (h : Fin 128) (st : Completion) (s : State) : Host.Outcome State Fault Refusal :=
  if hbmBusy s h then done (s.at (s.now + 1) (.completion h st))
  else if s.core.table[h].state = .pending then done (completeHandle s h st)
  else match s.hub.dens.find? (·.owes h) with
    | some d => (match d.core with
      | some c => done (completeSaved s h st d c)
      | none => done s)
    | none => done s

/-! ## The own TCM as an instruction reads it -/

/-- One word of the own TCM through the strand's store buffer (R201); a load of it waits for the strand's earlier loads (R202), for which R73 names
no stall (DESIGN CHOICE, log 64). -/
def ownWord (s : State) (off : Nat) : Res Word :=
  let pa := tcmPa s.core.gcore off
  if !ownTurn s s.cur false then .error (.stall .ownOrder)
  else match readPiece s s.cur s.ticket ⟨pa, 8, false, false⟩ .plain with
    | .val v _ _ => .ok (word v)
    | .bad pa => .error (.freeze cPOISON (word pa) (word off))
    | _ => .error (.stall .ownOrder)

/-- n words from an offset. -/
def ownWords (s : State) (off : Nat) : Nat → Res (List Word)
  | 0 => .ok []
  | n + 1 => do
    let w ← ownWord s off
    let ws ← ownWords s (off + 8) n
    .ok (w :: ws)

/-- A check that comes before the poison a read meets (R462). -/
def beforePoison {α : Type} (c : Res Unit) (r : Res α) : Res α :=
  match r with
  | .error (.freeze k e v) => do
    c
    .error (.freeze k e v)
  | r => r

/-- A byte range that must lie in the own TCM data (R488). -/
def inTcmData (off : Word) (len : Nat) (field : Nat) : Res Unit :=
  check (decide (off.toNat + len ≤ 0x20000)) cOPERAND field

/-- A destination field that must be w0-w31 or o0-o7 (R485). -/
def handleDest (d : Opd) : Res Unit := check (handleCode d) cOPERAND 0

end Sys2Proof.Machine
end

