-- ==== Sys2Proof/Machine/Tables.lean ====
section
/-! DEFINITION. Slot tables (R28, R42), endpoint ids (R56), agents (R63) and circuits as Badger knows them. -/

namespace Sys2Proof.Machine

/-! ## Agents (R63) -/

/-- The NI of a core, and its cluster router. -/
def niAgent (core : Nat) : AgentId := dieAgent (core / 1536) (core / 16 % 96) (core % 16)
def routerAgent (cl : Nat) : AgentId := dieAgent (cl / 96) (cl % 96) 16
/-- A unit of a memory die: 0-127 the NIs, 128 the switch, 129 the gateway. -/
def memAgent (mdie unit : Nat) : AgentId := BitVec.ofNat 19 (1 * 2 ^ 17 + mdie * 2 ^ 15 + unit)
/-- The hub crossbar, and the NI of the block at a crossbar port. -/
def hubAgent : AgentId := BitVec.ofNat 19 (2 * 2 ^ 17)
def hubNi (port : Nat) : AgentId := BitVec.ofNat 19 (2 * 2 ^ 17 + 2 ^ 16 + port)

/-- Kinds of table. -/
def tSwitch : BitVec 2 := 0
def tSend : BitVec 2 := 1
def tRecv : BitVec 2 := 2

/-- Does an agent count die time (R32, R64)? -/
def onSpoke (a : AgentId) : Bool := a.extractLsb' 17 2 != 2

/-- Slot and wheel at a global time, as an agent counts them. -/
def slotAt (a : AgentId) (t : Nat) : Nat := if onSpoke a then (t + 128) % 256 else t % 256
def wheelAt (a : AgentId) (t : Nat) : Nat := if onSpoke a then dieWheel t else t / 256 % 2 ^ 56

/-- The first cycle of a wheel, in global time. -/
def wheelStart (a : AgentId) (w : Nat) : Nat := if onSpoke a then 256 * w + 128 else 256 * w

/-- The first cycle of the agent's next wheel after a global time. -/
def nextStart (a : AgentId) (t : Nat) : Nat := if onSpoke a then (t + 128) / 256 * 256 + 128 else (t / 256 + 1) * 256

/-! ## Entries -/

def tableFind (s : State) (a : AgentId) (t : BitVec 2) (port slot : Nat) : Option TEntry :=
  s.fab.tables.find? fun e => e.agent = a && e.table = t && e.port = port && e.slot = slot

/-- The live half in force; an entry not listed, or one whose check bits failed (R500), is idle. Entry 0 of a switch's outputs holds the
configuration tree instead (treeEntry). -/
def liveEntry (s : State) (a : AgentId) (t : BitVec 2) (port slot : Nat) : BitVec 16 :=
  match tableFind s a t port slot with
  | some e => if e.lost then 0 else e.live
  | none => 0

def entryValid (v : BitVec 16) : Bool := v.getLsbD 15

/-- Changes an entry; one that is idle in both halves is not listed. -/
def tableSet (s : State) (a : AgentId) (t : BitVec 2) (port slot : Nat) (f : TEntry → TEntry) : State :=
  let old := (tableFind s a t port slot).getD ⟨a, t, port, slot, 0, 0, false, false⟩
  let new := f old
  let rest := s.fab.tables.filter fun e => !(e.agent = a && e.table = t && e.port = port && e.slot = slot)
  let idle := new.live = 0 && new.staged = 0 && !new.spend && !new.lost
  s.withFab fun x => { x with tables := if idle then rest else rest ++ [new] }

/-- The endpoint an NI entry names. -/
def entryEp (v : BitVec 16) : Nat := (v.extractLsb' 0 6).toNat

/-- An entry of a reverse circuit at an NI: the model marks it in reserved bit 14, with the receiver's number in [9:6] (log 24). -/
def entryReverse (v : BitVec 16) : Bool := v.getLsbD 14
def entryRecv (v : BitVec 16) : Nat := (v.extractLsb' 6 4).toNat

/-- The owned slots of an endpoint, ascending (R42), on its circuit or on the reverse circuit of one that ends at it. -/
def ownedBy (s : State) (a : AgentId) (t : BitVec 2) (ep : Nat) (rev : Bool) : List Nat :=
  (List.range 256).filter fun k =>
    let v := liveEntry s a t 0 k
    entryValid v && entryReverse v == rev && entryEp v = ep

abbrev ownedSlots (s : State) (a : AgentId) (t : BitVec 2) (ep : Nat) : List Nat := ownedBy s a t ep false

/-- The global time of the n-th owned slot from time t on; n = 0 is the first at or after t. -/
def nthOwned (a : AgentId) (slots : List Nat) (t n : Nat) : Option Nat :=
  let here := slotAt a t
  let order := (slots.filter (here ≤ ·)) ++ (slots.filter (· < here)).map (· + 256)
  if slots.isEmpty then none
  else ((order[n % slots.length]?).map fun k => t + (k - here) + 256 * (n / slots.length))

/-! ## The sideband (R31): CHK is the code over the data and V, F, L and P -/

def flitCode (f : Flit) : BitVec 12 := Config.secded f.data true f.first f.last f.poison

/-- The flit with its check bits set, as an NI injects it. -/
def sealFlit (f : Flit) : Flit := { f with chk := flitCode f }

/-- Its check bits agree. -/
def soundFlit (f : Flit) : Bool := f.chk = flitCode f

/-! ## Endpoint ids (R56) -/

abbrev EpId := BitVec 32

def epKind (e : EpId) : Nat := (e.extractLsb' 30 2).toNat
def epNumber (e : EpId) : Nat := (e.extractLsb' 16 14).toNat
def epEp (e : EpId) : Nat := (e.extractLsb' 0 6).toNat
def coreEp (core ep : Nat) : EpId := BitVec.ofNat 32 (core * 2 ^ 16 + ep)

/-- A destination of a known kind and number (R494): a core, a pseudo-channel, or a hub block by its crossbar port 376-419 (R15, R27). KIND 3
is Badger's own. DEDUCED (log 41): of a DST's EP the spec says only how many endpoints each block has; the model refuses an EP above a
pseudo-channel's 15 and takes endpoint 63 of a core, which R176 keeps for memory circuits. -/
def epLegal (e : EpId) : Bool :=
  e.extractLsb' 6 10 = 0 &&
  (match epKind e with
   | 0 => decide (epNumber e < Config.coreCount)
   | 1 => decide (epNumber e < 512) && decide (epEp e < 16)
   | 2 => decide (376 ≤ epNumber e) && decide (epNumber e < 420)
   | _ => false)

/-! ## Circuits -/

def circuitOf (s : State) (src : EpId) : Option Circuit := s.fab.circuits.find? (·.src = src)

/-- The circuit that ends at a receive endpoint. -/
def circuitTo (s : State) (dst : EpId) : Option Circuit := s.fab.circuits.find? fun c => c.dsts.any (·.1 = dst)

/-- The send endpoint of the modelled core, when an id names one. -/
def ownSend (s : State) (e : EpId) : Option (Fin 32) :=
  if epKind e = 0 && epNumber e = s.core.gcore then some ⟨epEp e % 32, Nat.mod_lt _ (by decide)⟩ else none

/-- The receive endpoint of the modelled core, when an id names one. -/
def ownRecv (s : State) (e : EpId) : Option (Fin 64) :=
  if epKind e = 0 && epNumber e = s.core.gcore then some ⟨epEp e % 64, Nat.mod_lt _ (by decide)⟩ else none

def State.modSend (s : State) (e : Fin 32) (f : SendEp → SendEp) : State :=
  s.withCore fun c => { c with send := c.send.set e (f c.send[e]) }

end Sys2Proof.Machine
end

