-- ==== Sys2Proof/Machine/Messaging.lean ====
section
/-! DEFINITION. Messages: SEND (R396), endpoints and windows (R43-R45, R501), mailboxes (R190, R191, R397-R399, R510) and active
messages (R89-R91). -/

namespace Sys2Proof.Machine

/-! ## SEND -/

/-- Flits committed and not yet sent. -/
def SendEp.load (e : SendEp) : Nat := (e.buf.map (·.flits.length)).foldl (· + ·) 0 + e.rest.length

/-- The flits of a payload of eight words each. -/
def flitsOf (ws : List Word) (n : Nat) : List Flit :=
  (List.range n).map fun i => ⟨flitOf (ws.drop (8 * i) |>.take 8), i = 0, i + 1 = n, false, 0, 0⟩

/-- R396, R494, R488. -/
def sendOp (s : State) (a b : Opd) (ta tb : Bool) (n : Nat) : Res State := do
  checkCodes [(1, a), (2, b)]
  let x ← read2 s a b ta tb
  check (decide (x.2.1.val.toNat < 32)) cOPERAND 2
  inTcmData x.1.val (64 * n) 1
  aligned x.1.val 64
  let ep : Fin 32 := ⟨x.2.1.val.toNat % 32, Nat.mod_lt _ (by decide)⟩
  let e := s.core.send[ep]
  check (decide (ep.val < 30) && e.circuit) cENDPOINT ep.val
  if e.closed then .error (.stall (.closedEndpoint ep))
  if 16 < e.load + n then .error (.stall (.sendBuffer ep n))
  loadGate s x.2.2 [a, b]
  let ws ← ownWords x.2.2 x.1.val.toNat (8 * n)
  let t := x.2.2.modSend ep fun e => { e with buf := e.buf ++ [⟨flitsOf ws n, s.now, s.cur, s.ticket⟩] }
  .ok (retire (t.atOnce (s.now + 1) (.messageStart ep)))

/-- R396. -/
def execSend (a b : Opd) (ta tb : Bool) (n : BitVec 4) (s : State) := finish s (sendOp s a b ta tb (n.toNat + 1))

/-! ## A message leaves (R43, R44) -/

/-- Every receiver's window admits n more flits. -/
def SendEp.admits (e : SendEp) (n : Nat) : Bool := e.wins.all fun w => decide ((w.sent - w.returned).toNat + n ≤ 16)

/-- Slots of the endpoint whose removal is staged for a wheel (R66). -/
def removedAt (s : State) (a : AgentId) (slots : List Nat) (t : Nat) : Bool :=
  slots.contains (slotAt a t) && (match tableFind s a tSend 0 (slotAt a t) with
    | some e => e.spend && !entryValid e.staged &&
        s.fab.commits.any (fun c => c.1 = a && decide (wheelStart a c.2 ≤ t))
    | none => false)

/-- May the message start in the slot of time t (R43, R66, R504)? Every earlier release of its strand has ended (R215), and its last flit's slot must not be held or removed by then. -/
def mayStart (s : State) (ep : Fin 32) (m : Message) (t : Nat) : Bool :=
  let e := s.core.send[ep]
  let a := niAgent s.core.gcore
  let slots := ownedSlots s a tSend ep.val
  m.at_ < t && !earlierRelease s m.strand m.seq && e.admits m.flits.length && slots.contains (slotAt a t) &&
    (match nthOwned a slots t (m.flits.length - 1) with
     | some l =>
       !removedAt s a slots l && (match e.hold with | some w => decide (l < wheelStart a w) | none => true)
     | none => false)

/-- A management slot (R39). -/
def mgmtSlot (k : Nat) : Bool := 128 ≤ k && k ≤ 131

/-- When a flit that arrives at a switch may leave it: in the next slot, or in the same slot of the next wheel (R29, R41). -/
def leaveTime (a : AgentId) (slot arrive : Nat) : Nat := if mgmtSlot slot then nextStart a (arrive - 1) + slot else arrive

/-- A flit leaves the NI for its cluster router, numbered with its slot, with its check bits (R28, R31, R33). -/
def sendFlit (s : State) (f : Flit) : State :=
  let r := routerAgent s.cluster
  let g : Flit := { f with slot := dieSlot s.now }
  let t := leaveTime r g.slot.val (s.now + 1)
  let q : InFlit := ⟨r, s.core.gcore % 16, t, sealFlit g⟩
  (s.withFab fun x => { x with flits := x.flits ++ [q] }).atOnce t (.switchSlot r)

/-- One flit of the message in progress leaves, and counts for every window. -/
def sendNext (s : State) (ep : Fin 32) : State :=
  match (s.core.send[ep]).rest with
  | [] => s
  | f :: fs =>
    sendFlit (s.modSend ep fun e =>
      { e with rest := fs, wins := e.wins.map fun w => { w with sent := w.sent + 1 } }) f

/-- A flit that may carry a window return reaches this core's NI in this cycle. -/
def returnDue (s : State) : Bool := s.agenda.any fun e => decide (e.1 ≤ s.now) && (match e.2 with
  | .flitReceive _ _ | .windowReturnArrive _ _ _ => true
  | _ => false)

/-- R43: in each owned slot a flit of the message in progress leaves; with none in progress the oldest committed message starts
when it may. Returns that arrive in the same cycle come first (R44). -/
def execMessageStart (ep : Fin 32) (s : State) : Host.Outcome State Fault Refusal :=
  if returnDue s then done (s.at s.now (.messageStart ep)) else
  let a := niAgent s.core.gcore
  let e := s.core.send[ep]
  let owned := (ownedSlots s a tSend ep.val).contains (slotAt a s.now)
  let t :=
    if !e.rest.isEmpty then (if owned then sendNext s ep else s)
    else match e.buf with
      | m :: ms =>
        if mayStart s ep m s.now then sendNext (s.modSend ep fun e => { e with buf := ms, rest := m.flits }) ep else s
      | [] => s
  let left := t.core.send[ep]
  done (if left.rest.isEmpty && left.buf.isEmpty then t else t.at (s.now + 1) (.messageStart ep))

/-- R44: a window return reaches the send endpoint. recv counts the circuit's receivers from zero. -/
def windowArrive (s : State) (ep : Fin 32) (recv : Nat) (count : BitVec 16) : State :=
  s.modSend ep fun e => { e with wins := e.wins.mapIdx fun i w => if i = recv then { w with returned := count } else w }

def execWindowReturnArrive (ep : Fin 32) (recv : Nat) (count : BitVec 16) (s : State) : Host.Outcome State Fault Refusal :=
  done (windowArrive s ep recv count)

/-! ## A flit arrives (R45, R501) -/

/-- The endpoint records BREAK with reason 2, drops what it holds and is broken until Badger breaks the circuit (R501, R502). -/
def breakRecv (s : State) (ep : Fin 64) : State :=
  let me := coreEp s.core.gcore ep.val
  let src := match circuitTo s me with | some c => c.src | none => 0
  let s := s.modRecv ep fun r => { r with broken := true, openMsg := false }
  let s := fabricRecord s 0x0703 2 (src.zeroExtend 64) s.func
  match circuitTo s me with
  | some c => s.later none (.circuitBreak c.src 2)
  | none => s

/-- The next owned receive slot after that of an arrival is checked while a message is open; its flit arrives a cycle after the slot, and the
check follows. -/
def watchGap (s : State) (ep : Fin 64) : State :=
  let a := niAgent s.core.gcore
  match nthOwned a (ownedSlots s a tRecv ep.val) s.now 0 with
  | some t => s.at (t + 2) (.gapCheck ep (s.core.recv[ep]).got)
  | none => s

/-- R501: an owned receive slot carried no flit while a message was open. -/
def gapCheck (s : State) (ep : Fin 64) (got : Nat) : State :=
  let r := s.core.recv[ep]
  if r.openMsg && !r.broken && r.got = got then breakRecv s ep else s

/-- The act that deposits what an endpoint holds. -/
def depositAct (ep : Fin 64) (r : RecvEp) : Option Act :=
  match r.arming with
  | some a =>
    if a.act then some (.activeMessageClaim ep)
    else match a.kind with
      | .queue => some (.mailboxQueueDeposit ep)
      | .latest => some (.mailboxLatestDeposit ep)
  | none => none

/-- Sets an endpoint's deposits going, from the cycle after an arrival (R45). -/
def depositSoon (s : State) (ep : Fin 64) : State :=
  match depositAct ep (s.core.recv[ep]) with
  | some a => s.atOnce (s.now + 1) a
  | none => s

/-- The payload flits still to be taken before the next header at endpoint 62. -/
def credAhead (s : State) : Nat := (s.core.copy.order.map (·.left)).foldl (· + ·) 0

/-- R444: at endpoint 62, while no MBOX has armed it, the copy engine looks at a header as soon as it stands behind the payload of earlier
packets; payload stays in the queue until its stage takes it. -/
def gatherCred (s : State) (ep : Fin 64) : State :=
  let r := s.core.recv[ep]
  if ep.val = 62 && r.arming.isNone && (r.queue[credAhead s]?).isSome then s.atOnce (s.now + 1) .credLook else s

/-- R501: the flit joins its endpoint, or shows a gap. -/
def receiveAt (s : State) (ep : Fin 64) (f : Flit) : State :=
  let r := s.core.recv[ep]
  if r.broken then s
  else if f.first = r.openMsg then breakRecv s ep
  else if r.drop then
    let s := (s.modRecv ep fun r => { r with count := r.count + 1, openMsg := !f.last, got := r.got + 1, drop := !f.last }).atOnce (s.now + 1)
      (.windowReturnSend ep)
    if f.last then s else watchGap s ep
  else
    let s := s.modRecv ep fun r => { r with queue := r.queue ++ [f], openMsg := !f.last, got := r.got + 1 }
    let s := if f.last then s else watchGap s ep
    depositSoon (gatherCred s ep) ep

/-- A saved context has the endpoint. -/
def DenCtx.holds (d : DenCtx) (ep : Fin 64) : Bool :=
  match d.core with
  | some c => (c.recv[ep]).arming.isSome || !(c.recv[ep]).queue.isEmpty
  | none => false

/-- The flit is payload of a packet that a channel of the copy engine has met. -/
def streamOpen (s : State) (ep : Fin 64) : Bool :=
  ep.val = 62 && decide ((s.core.recv[ep]).queue.length < credAhead s) && (match s.core.copy.order.getLast? with
    | some o => s.core.copy.chans.any fun c => match c.kind with
        | .credHop _ _ _ p _ => (p.header[0]).extractLsb' 48 16 = o.crid && (p.header[0]).extractLsb' 32 8 = o.round
        | _ => false
    | none => false)

/-- The function of the circuit that owns a receive slot. -/
def slotFunc (s : State) (ep : Fin 64) : Option Nat :=
  (s.fab.circuits.find? fun c => !c.fixed && c.dsts.any fun d => d.1 = coreEp s.core.gcore ep.val).map fun c =>
    fld (hubGet s (rQueue c.qid.toNat 0)) 52 48

/-- A saved context of the function whose circuit the flit came on, or, when that is not known, one that has the endpoint while no cell has
armed it. -/
def ringOf (s : State) (ep : Fin 64) : Option DenCtx :=
  match slotFunc s ep with
  | some f => s.hub.dens.find? fun d => d.core.isSome && d.func.val = f
  | none => if (s.core.recv[ep]).arming.isNone then s.hub.dens.find? (·.holds ep) else none

/-- R265: a flit for a stopped or saved cell goes to the spill ring; one that a running engine operation takes does not. -/
def deliver (s : State) (ep : Fin 64) (f : Flit) : State :=
  match s.core.spill with
  | some fs => if streamOpen s ep then receiveAt s ep f else s.withCore fun c => { c with spill := some (fs ++ [(ep, f)]) }
  | none =>
    match ringOf s ep with
    | some d => s.withHub fun h => { h with dens := h.dens.map fun x => if x = d then { d with ring := d.ring ++ [(ep, f)] } else x }
    | none => receiveAt s ep f

/-- R45, R501: the flit goes to the endpoint its entry v names; in an owned slot of a reverse circuit it is a window return (R44), whose count
stands in bits [15:0] of its data (log 54). -/
def receive (s : State) (f : Flit) (v : BitVec 16) : State :=
  if !entryValid v then fabricRecord s 0x0702 f.slot.val ((niAgent s.core.gcore).zeroExtend 64) s.func
  else if entryReverse v then windowArrive s ⟨entryEp v % 32, Nat.mod_lt _ (by decide)⟩ (entryRecv v) (f.data.setWidth 16)
  else deliver s ⟨entryEp v, by simp [entryEp]; exact (v.extractLsb' 0 6).isLt⟩ f

/-- R45: the entry a flit meets is the live one of its number. -/
def execFlitReceive (f : Flit) (s : State) : Host.Outcome State Fault Refusal :=
  done (receive s f (liveEntry s (niAgent s.core.gcore) tRecv 0 f.slot.val))

/-- R44: the count goes back as one flit in the first owned reverse slot; while the endpoint owns none there is no circuit to return it on, and
while a link of the reverse path is held it waits (R504). -/
def execWindowReturnSend (ep : Fin 64) (s : State) : Host.Outcome State Fault Refusal :=
  let r := s.core.recv[ep]
  let a := niAgent s.core.gcore
  let slots := ownedBy s a tSend ep.val true
  if r.broken || r.count = r.returned || slots.isEmpty then done s
  else if r.hold.any fun w => decide (wheelStart a w ≤ s.now) then done (s.at (s.now + 1) (.windowReturnSend ep))
  else if slots.contains (slotAt a s.now) then
    done (sendFlit (s.modRecv ep fun r => { r with returned := r.count }) ⟨r.count.zeroExtend 512, true, true, false, 0, 0⟩)
  else done (s.atOnce (s.now + 1) (.windowReturnSend ep))

/-! ## Mailboxes -/

/-- Where slot n of a mailbox begins. -/
def Arming.slotAddr (a : Arming) (n : Nat) : Nat := a.base + 64 + n * (64 * a.f)

/-- A word of the own TCM is deposited; the cycle's walk serves its waiters (R174, R190). -/
def depositOwn (s : State) (off : Nat) (w : Word) (bad : Bool) : State :=
  depositWord s (tcmPa s.core.gcore off) w bad

/-- A flit's eight words. -/
def depositFlit (s : State) (off : Nat) (f : Flit) : State :=
  ((flitWords f.data).zip (List.range 8)).foldl (fun s w => depositOwn s (off + 8 * w.2) w.1 f.poison) s

/-- Takes the head flit off the receive queue and counts it (R44). -/
def takeFlit (s : State) (ep : Fin 64) : State :=
  (s.modRecv ep fun r => { r with queue := r.queue.drop 1, count := r.count + 1, part := r.part + 1 }).atOnce (s.now + 1)
    (.windowReturnSend ep)

/-- The mailbox admits the message whose first flit is at the head (R190). -/
def mboxRoom (s : State) (a : Arming) : Bool :=
  match a.kind with
  | .queue =>
    decide ((wordAt s (tcmPa s.core.gcore a.base) - wordAt s (tcmPa s.core.gcore (a.base + 8))).toNat < a.slots)
  | .latest => true

/-- The slot a message starting now is deposited into (R190, R191). -/
def pickSlot (a : Arming) (r : RecvEp) : Nat :=
  match a.kind with
  | .queue => r.seq % a.slots
  | .latest => (([0, 1, 2] : List Nat).find? fun n => n != r.ready && n != r.reader).getD 0

/-- After the last flit (R190, R191): TAIL or READY. -/
def finishDeposit (s : State) (ep : Fin 64) (a : Arming) : State :=
  let r := s.core.recv[ep]
  match a.kind with
  | .queue => depositOwn s a.base (word (r.seq + 1)) false
  | .latest =>
    let s := if feAt s (tcmPa s.core.gcore a.base) then
        depositOwn s (a.base + 8) (wordAt s (tcmPa s.core.gcore (a.base + 8)) + 1) false
      else s
    let s := s.modRecv ep fun r => { r with ready := r.slot }
    depositOwn s a.base (word ((r.seq % 2 ^ 32) * 2 ^ 32 + r.slot)) false

/-- The MSGLONG packet of a message of n flits (R510). -/
def msgLong (s : State) (ep : Fin 64) (a : Arming) (n : Nat) : State :=
  sendPacket s (s.packet (packetWords s cMSGLONG false false (s.strand a.strand).kernel (s.gstrand a.strand) 0 0
    (word (n * 256 + ep.val)) 0))

/-- A deposit is complete: header word, MSGLONG, the interrupt bit, and a waiting arming takes effect. -/
def endDeposit (s : State) (ep : Fin 64) (a : Arming) : State :=
  let n := (s.core.recv[ep]).part
  let s := finishDeposit s ep a
  let s := if a.f < n then msgLong s ep a n else s
  let s := s.modRecv ep fun r => { r with part := 0, seq := r.seq + 1, pend := r.pend || a.int }
  if (s.core.recv[ep]).next.isSome then s.at s.now (.mboxArmEffect ep) else s

/-- Deposits the head flit, which may start a message or go past the slot's F flits. -/
def depositHead (s : State) (ep : Fin 64) (a : Arming) (f : Flit) : State :=
  let s := if (s.core.recv[ep]).part = 0 then s.modRecv ep fun r => { r with slot := pickSlot a r } else s
  let r := s.core.recv[ep]
  let s := if r.part < a.f then depositFlit s (a.slotAddr r.slot + 64 * r.part) f else s
  let s := takeFlit s ep
  if f.last then endDeposit s ep a else s

/-- Deposits queued flits while there is room and no arming waits at a boundary. -/
def depositAll (s : State) (ep : Fin 64) (a : Arming) : (fuel : Nat) → State
  | 0 => s
  | n + 1 =>
    let r := s.core.recv[ep]
    if r.part = 0 && r.next.isSome then s
    else match r.queue with
      | [] => s
      | f :: _ =>
        if r.part = 0 && !mboxRoom s a then s.atOnce (s.now + 1) (.mailboxQueueDeposit ep)
        else depositAll (depositHead s ep a f) ep a n

/-- R190; an active endpoint's messages are deposited as they claim (R89, R90). -/
def execMailboxQueueDeposit (ep : Fin 64) (s : State) : Host.Outcome State Fault Refusal :=
  match (s.core.recv[ep]).arming with
  | some a => done (if a.kind = .queue && !a.act then depositAll s ep a (s.core.recv[ep]).queue.length else s)
  | none => done s

/-- R191. -/
def execMailboxLatestDeposit (ep : Fin 64) (s : State) : Host.Outcome State Fault Refusal :=
  match (s.core.recv[ep]).arming with
  | some a => done (if a.kind = .latest && !a.act then depositAll s ep a (s.core.recv[ep]).queue.length else s)
  | none => done s

/-! ## Active messages (R89-R91, R399) -/

/-- The lowest-numbered dormant strand with HE; none of a cell that ends in this cycle, whose dormant strands end with it (R74). -/
def eligible (s : State) : Option (Fin 16) :=
  if cellDone s then none
  else (List.finRange 16).find? fun k => (s.strand k).run = .dormant && (s.strand k).strole.getLsbD 15

/-- The flits of the head message, when all of it has arrived. -/
def headMessage (q : List Flit) : Option (List Flit) :=
  if q.any (·.last) then some (q.take (q.findIdx (·.last) + 1)) else none

/-- The claim: w8-w15 take the first payload words and the PC the handler's; poison, deposited at off, freezes the strand at once (R498). -/
def claim (s : State) (k : Fin 16) (hpc : Addr) (f : Flit) (off : Nat) : State :=
  let s := (List.range 8).foldl (fun s i => dropHandle s ((s.strand k).reg (.ring (ringIx (s.strand k).frm (8 + i))))) s
  let s := s.modStrand k fun x =>
    let x := ((flitWords f.data).zip (List.range 8)).foldl
      (fun x w => x.setReg (.ring (ringIx x.frm (8 + w.2))) (Reg.of w.1 Tag.full)) x
    { x with pc := hpc, run := .ready, walked := [] }
  if f.poison then freeze s k cPOISON false hpc (word off) (word (tcmPa s.core.gcore off)) 0 else s

/-- Of the endpoints whose messages claim in this cycle the lowest goes first (R90): it takes the turn of ep, whose own claim stays due. -/
def claimTurn (s : State) (ep : Fin 64) : Fin 64 × State :=
  match (List.finRange 64).find? fun e => e < ep && s.agenda.any fun x => decide (x.1 ≤ s.now) && decide (x.2 = .activeMessageClaim e) with
  | some e => (e, (dropActs s fun a => a = .activeMessageClaim e).at s.now (.activeMessageClaim ep))
  | none => (ep, s)

/-- R89, R90: the head message is deposited and claims a strand, when it is whole, has room and a strand is eligible. -/
def execActiveMessageClaim (ep : Fin 64) (s : State) : Host.Outcome State Fault Refusal :=
  let turn := claimTurn s ep
  let ep := turn.1
  let s := turn.2
  let r := s.core.recv[ep]
  match r.arming, headMessage r.queue, eligible s with
  | some a, some ms, some k =>
    if !a.act || r.next.isSome then done s
    else if !mboxRoom s a then done (s.atOnce (s.now + 1) (.activeMessageClaim ep))
    else
      let t := ms.foldl (fun t f => depositHead t ep a f) s
      let t := claim t k a.hpc (ms.headD ⟨0, true, true, false, 0, 0⟩) (a.slotAddr (pickSlot a r))
      done (if (t.core.recv[ep]).queue.isEmpty then t else t.atOnce (s.now + 1) (.activeMessageClaim ep))
  | _, _, _ => done s

/-! ## MBOX (R397, R398, R490) -/

/-- An arming record. -/
def armingOf (w0 w1 : Word) (kind : MboxKind) (act int : Bool) (k : Fin 16) : Arming :=
  ⟨kind, act, int, w0.setWidth 43, fld w1 47 32, fld w1 27 24 + 1, fld w1 16 0, k⟩

/-- The mailbox's slots. -/
def Arming.count (a : Arming) : Nat := match a.kind with | .queue => a.slots | .latest => 3

/-- The values R490 refuses. -/
def armingBad (w0 w1 : Word) (a : Arming) : Bool :=
  (w0 &&& bitsMask 63 43) != 0 || (w1 &&& (bitsMask 63 48 ||| bitsMask 31 28 ||| bitsMask 23 17)) != 0 ||
  a.base % 64 != 0 || (a.kind = .queue && a.slots = 0) || (a.kind = .latest && a.slots != 0) ||
  (a.act && a.hpc = 0) || (!a.act && a.hpc != 0) || (a.hpc &&& 3) != 0

/-- A request to the endpoint, which acts at its next message boundary. -/
def requestArm (s : State) (ep : Fin 64) (q : ArmReq) : State :=
  let s := s.modRecv ep fun r => { r with next := some q }
  if (s.core.recv[ep]).part = 0 then s.at s.now (.mboxArmEffect ep) else s

/-- Arming a QUEUE or LATEST mailbox. -/
def mboxOp (s : State) (a b : Opd) (ta tb : Bool) (kind : MboxKind) (int act : Bool) : Res State := do
  checkCodes [(1, a), (2, b)]
  let x ← read2 s a b ta tb
  check (decide (x.1.val.toNat < 64)) cOPERAND 1
  inTcmData x.2.1.val 16 2
  aligned x.2.1.val 8
  loadGate s x.2.2 [a, b]
  let named := check (decide (x.1.val.toNat < 63)) cENDPOINT x.1.val.toNat
  let ws ← beforePoison named (ownWords x.2.2 x.2.1.val.toNat 2)
  let w0 := ws.headD 0
  let w1 := (ws.drop 1).headD 0
  let r := armingOf w0 w1 kind act int s.cur
  check (!armingBad w0 w1 r && decide (r.slotAddr r.count ≤ 0x20000)) cOPERAND 2
  named
  .ok (retire (requestArm x.2.2 ⟨x.1.val.toNat % 64, Nat.mod_lt _ (by decide)⟩ (.arm r)))

/-- R397. -/
def execMboxQueue (a b : Opd) (ta tb : Bool) (int act : Bool) (s : State) := finish s (mboxOp s a b ta tb .queue int act)
/-- R397. -/
def execMboxLatest (a b : Opd) (ta tb : Bool) (int act : Bool) (s : State) := finish s (mboxOp s a b ta tb .latest int act)

/-- R397. -/
def execMboxClose (a : Opd) (ta : Bool) (s : State) := finish s (do
  checkCodes [(1, a)]
  let x ← readSrc s a ta
  check (decide (x.1.val.toNat < 64)) cOPERAND 1
  check (decide (x.1.val.toNat < 63)) cENDPOINT x.1.val.toNat
  .ok (retire (requestArm x.2 ⟨x.1.val.toNat % 64, Nat.mod_lt _ (by decide)⟩ .close)))

/-- The endpoint takes its arming at a boundary (R398); a LATEST mailbox's sequence starts at a value left open (log 19).
DEDUCED (R399, log 68): a pending bit belongs to the strand whose arming set it, so it stays only where that strand arms again with INT. -/
def armNow (s : State) (ep : Fin 64) (a : Arming) : State :=
  let pa := tcmPa s.core.gcore a.base
  let s := s.modRecv ep fun r => { r with pend := r.pend && match r.arming with | some b => b.int && a.int && b.strand = a.strand | none => false }
  match a.kind with
  | .queue =>
    let k := (wordAt s pa).toNat
    s.modRecv ep fun r => { r with arming := some a, next := none, seq := k }
  | .latest =>
    let n := (Config.freeWord s.fresh).toNat % 2 ^ 32
    let t := setFe (putWord { s with fresh := s.fresh + 1 } pa 0) pa false
    t.modRecv ep fun r => { r with arming := some a, next := none, seq := n, ready := 1, reader := 2 }

/-- R398. -/
def execMboxArmEffect (ep : Fin 64) (s : State) : Host.Outcome State Fault Refusal :=
  let r := s.core.recv[ep]
  if r.part != 0 then done s
  else match r.next with
    | some (.arm a) => done (depositSoon (armNow s ep a) ep)
    | some .close => done (s.modRecv ep fun r => { r with arming := none, next := none })
    | none => done s

end Sys2Proof.Machine
end

