-- ==== Sys2Proof/Machine/EngineIssue.lean ====
section
/-! DEFINITION. ISSUE (R400, R413, R419), circuits (R408, R409, R494), exchange posts (R410), LAUNCH (R411), fence counters (R412)
and CANCELH (R348, R349). -/

namespace Sys2Proof.Machine

/-! ## Command words (R302-R305) -/

def cmdCode (c : EngCmd) : Nat := fld c.w0 7 0
def cmdFlags (c : EngCmd) : Nat := fld c.w0 15 8
def cmdAfmt (c : EngCmd) : Nat := fld c.w0 19 16
def cmdBfmt (c : EngCmd) : Nat := fld c.w0 23 20
def cmdCfmt (c : EngCmd) : Nat := fld c.w0 27 24
def cmdRole (c : EngCmd) : Nat := fld c.w0 29 28
def cmdDeadline (c : EngCmd) : Nat := fld c.w0 63 32
def cmdStrap (c : EngCmd) : Bool := c.w0.getLsbD 15

/-- The four words at VC with S1 and S2 in place of words 1 and 2 unless they name zr (R305). -/
def commandWords (s : State) (vc : BitVec 4) (a b : Opd) : Res (Vector Word 4 × State) := do
  checkCodes [(1, a), (2, b)]
  let l ← readVec s (vc.setWidth 5)
  let w := fun i => l.bits.extractLsb' (64 * i) 64
  let x ← if a.toNat = codeZr then .ok (Reg.of (w 1) Tag.full, s) else readSrc s a false
  let y ← if b.toNat = codeZr then .ok (Reg.of (w 2) Tag.full, x.2) else readSrc x.2 b false
  .ok (#v[w 0, x.1.val, y.1.val, w 3], y.2)

/-- A command of the issuing strand, not yet under a handle. -/
def rawCommand (s : State) (ws : Vector Word 4) : EngCmd :=
  ⟨s.cur, 0, ws[0], ws[1], ws[2], ws[3], s.st.fpmode, s.st.thr, [], s.ticket, s.st.kernel⟩

/-! ## The tile engine (R413, R419) -/

def descKind (w : Word) : Nat := fld w 63 60
def descBase (w : Word) : Nat := fld w 31 0

/-- The accumulator format of a tile command: CFMT where the accumulator is C's or the only one, else AFMT. -/
def accFormat (c : EngCmd) : Nat := if [1, 2, 3, 4, 9].contains (cmdCode c) then cmdCfmt c else cmdAfmt c

/-- The first tile a descriptor names that the strand does not own (R495). -/
def unownedIn (s : State) (c : EngCmd) (w : Word) : Option Nat :=
  if descKind w != 3 then none
  else
    let n := descBase w % 8
    let names := if accFormat c = 8 then [n, n / 2 * 2 + 1] else [n]
    names.find? fun t => tileOwner s.core.accmap t != some s.cur

def unowned (s : State) (c : EngCmd) : Option Nat :=
  ([c.w1, c.w2, c.w3].filterMap (unownedIn s c)).head?

/-- Vector registers a command reads at ISSUE: TSCAL's scales. -/
def tileReads (c : EngCmd) : List (Fin 32) :=
  let n := descBase c.w2
  if cmdCode c = 5 && descKind c.w2 = 0 && fld c.w2 59 32 = 0 && n % 4 = 0 && n < 32 then
    (List.range 4).map fun i => ⟨(n + i) % 32, Nat.mod_lt _ (by decide)⟩
  else []

/-- Vector registers a command writes: TSIG's pair. -/
def tileWrites (c : EngCmd) : List (Fin 32) :=
  let n := descBase c.w3
  if cmdCode c = 9 && descKind c.w3 = 0 && fld c.w3 59 32 = 0 && n % 2 = 0 && n < 32 then
    (List.range 2).map fun i => ⟨(n + i) % 32, Nat.mod_lt _ (by decide)⟩
  else []

def readVecs (s : State) : List (Fin 32) → Res (List Lanes)
  | [] => .ok []
  | v :: vs => do
    let l ← readVec s (BitVec.ofFin v)
    let ls ← readVecs s vs
    .ok (l :: ls)

/-- Marks the destinations empty; each keeps its contents for a command that fails (R419). -/
def pendVecs (s : State) (ticket : Nat) : List (Fin 32) → Res (State × List (Fin 32 × Nat × Lanes))
  | [] => .ok (s, [])
  | v :: vs => do
    let l := s.st.v[v].lanes
    let t ← writeVecPending s (BitVec.ofFin v) ticket
    let r ← pendVecs t (ticket + 1) vs
    .ok (r.1, (v, ticket, l) :: r.2)

/-- R413, R400: one pending command per strand in the front end. -/
def execIssueTile (d : Opd) (vc : BitVec 4) (a b : Opd) (s : State) := finish s (do
  handleDest d
  let x ← commandWords s vc a b
  let c := rawCommand s x.1
  let vin ← readVecs x.2 (tileReads c)
  (match unowned s c with | some t => check false cTILE t | none => .ok ())
  if s.core.tile.pend.any (fun p => p.1.strand = s.cur) then .error (.stall .tilePending)
  let u ← pendVecs { x.2 with ticket := x.2.ticket + 3 } (x.2.ticket + 1) (tileWrites c)
  let h ← takeHandle u.1 d .tile (cmdStrap c)
  let t := h.2.modEntry h.1 fun e => { e with vdst := u.2 }
  let c := { c with handle := h.1, vin := vin }
  let t := t.withCore fun k => { k with tile := { k.tile with pend := k.tile.pend ++ [(c, s.now)] } }
  .ok (retire (t.at (s.now + 1) .tileFrontEndAccept)))

/-! ## The other engines (R400) -/

/-- ENDPOINT at ISSUE of a CRED (R497): SEP 30 or 31; FIRST, with hops to go, on an endpoint with no circuit. -/
def credEndpoint (s : State) (c : EngCmd) : Res Unit :=
  let sep : Fin 32 := ⟨fld c.w3 28 24 % 32, Nat.mod_lt _ (by decide)⟩
  let rblk := fld c.w3 17 0
  if cmdCode c != 4 then .ok ()
  else do
    check (decide (sep.val < 30)) cENDPOINT sep.val
    let first := cmdFlags c % 2 = 1
    let hops := fld (wordAt s (tcmPa s.core.gcore rblk)) 39 32
    check (!(first && rblk % 8 = 0 && rblk + 48 ≤ 0x20000 && 0 < hops) || (s.core.send[sep]).circuit) cENDPOINT sep.val

/-- Channels the copy engine holds, its intake included (R247). -/
def copyHeld (s : State) : Nat := s.core.copy.intake.length + s.core.copy.chans.length

/-- Hands a command to an engine's intake, to be taken by its act. -/
def issueTo (s : State) (d : Opd) (vc : BitVec 4) (a b : Opd) (eng : BitVec 2) (owner : Owner) (full : Bool)
    (put : Core → EngCmd → Core) (delay : State → EngCmd → State) : Res State := do
  handleDest d
  let x ← commandWords s vc a b
  let c := rawCommand s x.1
  (if eng = 1 then credEndpoint s c else .ok ())
  if full then .error (.stall (.intakeFull eng))
  let h ← takeHandle { x.2 with ticket := x.2.ticket + 1 } d owner false
  let c := { c with handle := h.1 }
  .ok (retire (delay (h.2.withCore fun k => put k c) c))

/-- R400. -/
def execIssueCopy (d : Opd) (vc : BitVec 4) (a b : Opd) (s : State) :=
  finish s (issueTo s d vc a b 1 .copy (decide (96 ≤ copyHeld s))
    (fun k c => { k with copy := { k.copy with intake := k.copy.intake ++ [c] } }) (fun t c => t.at (t.now + 1) (.command c)))

/-- R400. -/
def execIssueMem (d : Opd) (vc : BitVec 4) (a b : Opd) (s : State) :=
  finish s (issueTo s d vc a b 2 .mem (decide (8 ≤ s.core.memIntake.length))
    (fun k c => { k with memIntake := k.memIntake ++ [c] }) (fun t c => t.later none (.command c)))

/-- R400. -/
def execIssueXchg (d : Opd) (vc : BitVec 4) (a b : Opd) (s : State) :=
  finish s (issueTo s d vc a b 3 .xchg (decide (8 ≤ s.core.xchgIntake.length))
    (fun k c => { k with xchgIntake := k.xchgIntake ++ [c] }) (fun t c => t.later none (.command c)))

/-! ## Circuits (R408, R409, R494) -/

/-- A word as the strand sees it at issue: its own buffered store, the core's cache, else memory. -/
def viewWord (s : State) (pa : Nat) : Word :=
  match forward pa 8 s.ticket s.st.sb with
  | .hit v _ => word v
  | _ => match cacheWord s pa with
    | some w => w.data
    | none => wordAt s pa

/-- The ids of a multicast list: the words up to a zero, at most 17 of them. The manual does not say how the list is read; the model reads it
as the strand's loads would, through its store buffer, at the offset as it stands (log 49). -/
def mcastList (s : State) (off : Nat) : (fuel : Nat) → List Word
  | 0 => []
  | n + 1 =>
    let w := viewWord s (tcmPa s.core.gcore off)
    if w = 0 then [] else w :: mcastList s (off + 8) n

/-- The destinations of a request, when they are well formed. -/
def destinations (s : State) (w0 w2 : Word) : Option (List EpId) :=
  let ws := if w0.getLsbD 9 then mcastList s (fld w2 31 0) 17 else [w2]
  let ids := ws.map (·.setWidth 32)
  if 1 ≤ ws.length && ws.length ≤ 16 && ws.all (fun w => fld w 63 32 = 0) && ids.all epLegal then some ids else none

/-- A request whose handle fills at once with 0x4E. DEDUCED (log 41): R494 does not say which commands test which word, and R56 gives NSLOTS a
meaning for OPEN, WIDEN and NARROW only and DST, its KIND 3 and the MCAST list a meaning for OPEN only; the model tests each field on the
commands that give it one. -/
def creqBad (s : State) (w0 w1 w2 w3 : Word) : Bool :=
  let cmd := fld w0 7 0
  let nslots := fld w3 25 18
  let rslots := fld w3 33 26
  let ep : Fin 32 := ⟨epEp (w1.setWidth 32) % 32, Nat.mod_lt _ (by decide)⟩
  cmd = 0 || 4 < cmd || (w0 &&& ~~~(0x3FF : Word)) != 0 || fld w1 63 32 != 0 || fld w1 15 6 != 0 ||
  fld w2 63 32 != 0 || fld w3 44 34 != 0 || 4096 ≤ fld w3 63 48 || fld w3 5 0 != 0 ||
  (cmd != 4 && (nslots = 0 || 246 < nslots || (cmd = 1 && (rslots = 0 || 16 < rslots)) ||
    (cmd = 1 && ((destinations s w0 w2).isNone || (s.core.send[ep]).circuit)) ||
    (cmd != 1 && !(s.core.send[ep]).circuit)))

/-- CREL on an endpoint (R409, R67): it closes, and Badger is told when its buffer is empty. -/
def closeEndpoint (s : State) (d : Opd) (ep : Fin 32) (w0 w1 w2 w3 : Word) : Res State := do
  let h ← takeHandle s d (.crel ep) false
  if !(s.core.send[ep]).circuit then .ok (retire (completeAt h.2 s.now h.1 1))
  else
    let r : CircReq := ⟨s.core.gcore, some h.1, w0, w1, w2, w3, [], true, 0⟩
    .ok (retire ((h.2.modSend ep fun e => { e with closed := true }).at (s.now + 1) (.sendBufferEmpty ep r)))

/-- R408. A SRC that names anything but a send endpoint 0-29 of this core freezes with ENDPOINT. -/
def execCreq (d : Opd) (vc : BitVec 4) (a b : Opd) (s : State) := finish s (do
  handleDest d
  let x ← commandWords s vc a b
  let w0 := x.1[0]
  let w1 := x.1[1]
  let w2 := x.1[2]
  let pri := if s.core.cell.isSome then s.core.pri else 0
  let w3 := setFld x.1[3] 47 45 (max (fld x.1[3] 47 45) pri)
  let src : EpId := w1.setWidth 32
  check (epKind src = 3 || (epKind src = 0 && epNumber src = s.core.gcore && epEp src < 30)) cENDPOINT (epEp src)
  if epKind src = 3 || creqBad x.2 w0 w1 w2 w3 then
    let h ← takeHandle x.2 d .creq false
    .ok (retire (completeAt h.2 s.now h.1 stIllcmd))
  else if fld w0 7 0 = 4 then closeEndpoint x.2 d ⟨epEp src % 32, Nat.mod_lt _ (by decide)⟩ w0 w1 w2 w3
  else
    let h ← takeHandle x.2 d .creq false
    let dsts := if fld w0 7 0 = 1 then (destinations x.2 w0 w2).getD [] else []
    .ok (retire (h.2.later none (.badgerRequestArrive ⟨s.core.gcore, some h.1, w0, w1, w2, w3, dsts, false, 0⟩))))

/-- R409. -/
def execCrel (d a : Opd) (ta : Bool) (s : State) := finish s (do
  handleDest d
  checkCodes [(1, a)]
  let x ← readSrc s a ta
  check (decide (x.1.val.toNat < 32)) cOPERAND 1
  check (decide (x.1.val.toNat < 30)) cENDPOINT x.1.val.toNat
  closeEndpoint x.2 d ⟨x.1.val.toNat % 32, Nat.mod_lt _ (by decide)⟩ 4
    ((coreEp s.core.gcore x.1.val.toNat).zeroExtend 64) 0 0)

/-! ## Posts (R410, R230, R494) -/

/-- RSIZE of a record-size code. -/
def rsize (rcode : Nat) : Nat := 64 * 2 ^ rcode

/-- A post record is refused with 0x4E. -/
def postBad (cap : Bool) (w0 w1 : Word) (rest : List Word) : Bool :=
  let n := fld w0 47 40
  let rc := fld w0 39 36
  w0.getLsbD 63 || 4 < rc || fld w0 35 0 != 0 || fld w1 63 56 != 0 ||
  (if cap then n != 0 || fld (rest.headD 0) 63 32 != 0 || fld (rest.getD 1 0) 63 43 != 0 || fld (rest.getD 1 0) 42 0 % rsize rc != 0
   else n = 0 || 64 < n || rest.any (fun w => fld w 63 40 != 0 || w.toNat % rsize rc != 0))

/-- The post a record makes. -/
def postOf (cap : Bool) (h : Fin 128) (w0 w1 : Word) (rest : List Word) : Post :=
  ⟨cap, w0.extractLsb' 48 16, w0.extractLsb' 36 4, w1.setWidth 56, if cap then [] else rest.map (·.toNat),
    if cap then (rest.headD 0).toNat else 0, if cap then (rest.getD 1 0).setWidth 43 else 0, some h⟩

/-- The post as the hub takes it: its CLOSE is a wheel the partition observes (R548). -/
def laterPost (p : Post) (n : Nat) : Post := { p with close := p.close + BitVec.ofNat 56 n }

/-- A dem record's size is known once its word 0 is read, so its range is tested then, before its other words are (R480). -/
def dpostOp (s : State) (d a : Opd) (ta : Bool) (cap : Bool) : Res State := do
  handleDest d
  checkCodes [(1, a)]
  let x ← readSrc s a ta
  inTcmData x.1.val (if cap then 32 else 16) 1
  aligned x.1.val 8
  loadGate s x.2 [a]
  let w0 ← ownWord x.2 x.1.val.toNat
  let n := if cap then 2 else min (fld w0 47 40) 64
  inTcmData x.1.val (16 + 8 * n) 1
  let ws ← ownWords x.2 (x.1.val.toNat + 8) (n + 1)
  let w1 := ws.headD 0
  let rest := ws.drop 1
  let round := fld w0 63 48
  let h ← takeHandle x.2 d (.post (BitVec.ofNat 16 round) cap) false
  if postBad cap w0 w1 rest then .ok (retire (completeAt h.2 s.now h.1 stIllcmd))
  else .ok (retire (h.2.later none (.postArrive (laterPost (postOf cap h.1 w0 w1 rest) (partLag s s.part)))))

/-- R410. -/
def execDpostDem (d a : Opd) (ta : Bool) (s : State) := finish s (dpostOp s d a ta false)
/-- R410. -/
def execDpostCap (d a : Opd) (ta : Bool) (s : State) := finish s (dpostOp s d a ta true)

/-! ## LAUNCH (R411) -/

/-- R411, R490, R494. -/
def execLaunch (d a b : Opd) (ta tb : Bool) (s : State) := finish s (do
  handleDest d
  checkCodes [(1, a), (2, b)]
  let x ← read2 s a b ta tb
  let q := x.2.1.val.toNat
  check (decide (q < 4096) && qValid s q && qFunc s q = s.func) cOPERAND 2
  aligned x.1.val 64
  loadGate s x.2.2 [a, b]
  let y ← reachOne x.2.2 (vaOf x.1.val) .read .vector
  throughGate x.2.2 .device
  let job : Job := Vector.ofFn fun i => viewWord x.2.2 (y.pa + 8 * i.val)
  let h ← takeHandle x.2.2 d .launch false
  if job.legal (16 * (partClusters s s.part).length) then
    .ok (retire (pushRelease h.2 .device (.launch h.1 (BitVec.ofNat 12 q) y.pa) false))
  else .ok (retire (completeAt h.2 s.now h.1 stIllcmd)))

/-! ## Fence counters (R412) -/

/-- A counter of the issuing function (R490). -/
def counterOf (s : State) (w : Word) : Res Nat := do
  check (decide (w.toNat < fcCount s s.func)) cOPERAND 1
  .ok w.toNat

def fcincOp (s : State) (a b : Opd) (vec : Option (BitVec 6)) : Res State := do
  checkCodes [(1, a), (2, b)]
  let x ← read2 s a b false false
  let i ← counterOf s x.1.val
  throughGate x.2.2 .device
  .ok (retire (pushRelease x.2.2 .device (.fcinc s.func i x.2.1.val vec) false))

/-- R412. -/
def execFcinc (a b : Opd) (s : State) := finish s (fcincOp s a b none)
/-- R412. -/
def execFcincn (vec : BitVec 6) (a b : Opd) (s : State) := finish s (fcincOp s a b (some vec))

/-- R412: tested at issue, and then when a new value is told. -/
def execFcwait (a b : Opd) (s : State) := finish s (do
  checkCodes [(1, a), (2, b)]
  let x ← read2 s a b false false
  let i ← counterOf s x.1.val
  if x.2.1.val.toNat ≤ (counterValue s s.func i).toNat then do
    throughGate x.2.2 .device
    .ok (beginAcquire (retire x.2.2) s.cur .device false)
  else .ok (x.2.2.setRun s.cur (.stalled (.fcwait i x.2.1.val))))

/-- A strand that waited for a counter goes on with its acquire. -/
def fcwaitEnd (s : State) (k : Fin 16) : State :=
  beginAcquire ((s.modStrand k Strand.next).setRun k .ready) k .device false

/-- R412: waiting strands are told of the value at the wheel after an increment; they stay stalled while the acquire would add to a full write-back
queue (R206). -/
def execFenceCounterNotify (f : Fin 17) (i : Nat) (s : State) : Host.Outcome State Fault Refusal :=
  done (if s.func = f.val && throughFull s then s.atOnce (s.now + 1) (.fenceCounterNotify f i)
  else if s.func = f.val then
    (List.finRange 16).foldl (fun s k =>
      match (s.strand k).run with
      | .stalled (.fcwait j n) => if j = i && n.toNat ≤ (counterValue s f.val i).toNat then fcwaitEnd s k else s
      | _ => s) s
  else s)

/-! ## CANCELH (R348, R349, R58) -/

/-- The command of an entry has left no trace in the engines. -/
def withdrawCommand (s : State) (h : Fin 128) : State :=
  let keep := fun (c : EngCmd) => c.handle != h
  let t := dropActs s fun a => match a with | .command c => c.handle = h | .completion g _ => g = h | _ => false
  let t := t.withHub fun b => { b with rounds := b.rounds.map fun r => match r.run with
    | some c => if c.handle = h then { r with run := none } else r
    | none => r }
  t.withCore fun c =>
    { c with
      tile := { c.tile with pend := c.tile.pend.filter fun p => keep p.1 }
      copy := { c.copy with intake := c.copy.intake.filter keep, chans := c.copy.chans.filter fun x => keep x.cmd }
      memIntake := c.memIntake.filter keep
      xchgIntake := c.xchgIntake.filter keep }

/-- Badger's CANCELLED answer record (R58, R62). -/
def cancelledRecord (s : State) (w3 : Word) : State :=
  putWords s (tcmPa s.core.gcore (fld w3 17 0)) [word (3 * 2 ^ 56), 0, 0, 0, 0, 0, 0, 0]

/-- Is the act a circuit request under the handle, on its way to Badger or waiting for its search? -/
def isRequest (h : Fin 128) : Act → Bool
  | .badgerRequestArrive r | .circuit r => r.handle = some h
  | _ => false

/-- Is it a CREL still waiting for its buffer? -/
def isClosing (h : Fin 128) : Act → Bool
  | .sendBufferEmpty _ r => r.handle = some h
  | _ => false

/-- Withdraws a circuit request Badger has not begun to search. -/
def withdrawCircuit (s : State) (h : Fin 128) : State :=
  let mine : CircReq → Bool := fun p => p.handle = some h
  let reqs := (s.agenda.filterMap fun e => match e.2 with
      | .badgerRequestArrive r => if r.handle = some h then some r else none
      | _ => none) ++ s.fab.pending.filter mine
  if s.agenda.any (fun e => isClosing h e.2) then completeAt (dropActs s (isClosing h)) (s.now + 2) h stCancelled
  else match reqs with
    | [] => s
    | r :: _ =>
      let t := (dropActs s (isRequest h)).withFab fun f => { f with pending := f.pending.filter fun p => !mine p }
      let t := if r.crel then t else cancelledRecord t r.w3
      let n := if s.fab.pending.any mine then max 1 (256 * (r.wheel + 8) - s.now) else 2048
      t.later (some n) (.completion h ⟨3, 0, 0⟩)

/-- Withdraws a post the hub has not counted. -/
def withdrawPost (s : State) (h : Fin 128) : State :=
  let mine : Act → Bool := fun a => match a with | .postArrive p => p.handle = some h | _ => false
  if s.agenda.any (fun e => mine e.2) then (dropActs s mine).later (some 512) (.completion h ⟨3, 0, 0⟩) else s

/-- The store buffer without the launch of an entry; its release still happens. -/
def unlaunch (h : Fin 128) : SbItem → SbItem
  | .release n sc (.launch g q pa) wr f => .release n sc (if g = h then .none else .launch g q pa) wr f
  | i => i

/-- Withdraws a launch the hub has not performed. -/
def withdrawLaunch (s : State) (h : Fin 128) : State :=
  let mine : Act → Bool := fun a => match a with | .launchEnqueue g _ _ => g = h | _ => false
  let t := dropActs s mine
  let drop : Strand → Strand := fun x => { x with sb := x.sb.map (unlaunch h) }
  let t := t.withCore fun c => { c with strands := vmap drop c.strands }
  t.later (some 512) (.completion h ⟨3, 0, 0⟩)

/-- Is the launch of an entry still to be performed? -/
def launchPending (s : State) (h : Fin 128) : Bool :=
  s.agenda.any (fun e => match e.2 with | .launchEnqueue g _ _ => g = h | _ => false) ||
  s.core.strands.toList.any fun x => x.sb.any fun i => match i with
    | .release _ _ (.launch g _ _) _ _ => g = h
    | _ => false

/-- The withdrawal of the operation of a pending entry that has not started. -/
def withdraw (s : State) (h : Fin 128) : State :=
  let e := s.core.table[h]
  if e.state != .pending || e.started then s
  else match e.owner with
    | .tile | .copy | .mem | .xchg => completeAt (withdrawCommand (startEntry s h) h) (s.now + 2) h stCancelled
    | .creq | .crel _ => withdrawCircuit s h
    | .post _ _ => withdrawPost s h
    | .launch => if launchPending s h then withdrawLaunch (forgetUnits (startEntry s h) h) h else s

/-- R348. -/
def execCancelh (a : Opd) (s : State) := finish s (do
  handleCodes [(1, a)]
  match locOf s.st.frm a with
  | some l =>
    match (s.st.reg l).bind with
    | some (.handle h) => .ok (retire (withdraw s h))
    | _ => .ok (retire s)
  | none => .ok (retire s))

end Sys2Proof.Machine
end

