-- ==== Sys2Proof/Machine/Vector.lean ====
section
/-! DEFINITION. Vector instructions (R350-R383): element-wise arithmetic, compares, selection, conversion, reduction, permutes,
masks, tags and scale-and-accumulate. -/

namespace Sys2Proof.Machine

/-! ## Elements -/

/-- Element i as a float operand. -/
def fopAt (l : Lanes) (t : Ty) (i : Nat) : FOp := fop (fmtOf t) (elem l.bits t.width i) (groupTagAt l t.width i)

/-- The results of the active elements. -/
def elemResults (mask : Word) (t : Ty) (f : Nat → FRes) : List (Option FRes) :=
  (List.range (laneCount t)).map fun i => if active mask t.width i then some (f i) else none

/-- Element i of a list of results, for merging. -/
def resAt (rs : List (Option FRes)) (i : Nat) : Option (Nat × Nat) := (rs[i]?).join.map fun r => (r.bits, r.tag)

/-- An integer result: it wraps, and its tag is 64. -/
def intRes (t : Ty) (x : Int) : FRes := ⟨intBits t.width x, 64, 0⟩

/-- An instruction that merges ends (R351, R355, R356). -/
def vecEnd (s : State) (d : VIdx) (old : Lanes) (t : Ty) (mask : Word) (rs : List (Option FRes)) (s1 s2 s3 : Option Lanes) :
    Res State := do
  let l := merge old t.width (resAt rs)
  let u ← writeVec s d l
  .ok (floatEnd u (flagsOf rs) (if t.isFloat then vecLoss mask t l s1 s2 s3 else []))

/-- How an element of a two-source instruction is computed, from the mode, the two registers and the element's number. -/
abbrev Elem2 := RMode → Lanes → Lanes → Nat → FRes

/-- An element operation on floats, and on integers. -/
def elemF (t : Ty) (f : Fmt → RMode → FOp → FOp → FRes) : Elem2 := fun rm x y i => f (fmtOf t) rm (fopAt x t i) (fopAt y t i)
def elemI (t : Ty) (f : Int → Int → Int) : Elem2 := fun _ x y i =>
  intRes t (f (intOf t (elem x.bits t.width i)) (intOf t (elem y.bits t.width i)))

/-- VS1 op VS2 merged into VD. -/
def vec2 (s : State) (d a b : VIdx) (m : MIdx) (t : Ty) (f : Elem2) : Res State := do
  let x ← readVec s a
  let y ← readVec s b
  let old ← readVec s d
  let mask := maskOf s.st m
  vecEnd s d old t mask (elemResults mask t (f s.st.rm x y)) (some x) (some y) none

/-- An operation on VS1 merged into VD. -/
def vec1 (s : State) (d a : VIdx) (m : MIdx) (t : Ty) (f : RMode → Lanes → Nat → FRes) : Res State := do
  let x ← readVec s a
  let old ← readVec s d
  let mask := maskOf s.st m
  vecEnd s d old t mask (elemResults mask t (f s.st.rm x)) (some x) none none

/-! ## Arithmetic (R367) -/

/-- R367. -/
def execVadd (d a b : VIdx) (m : MIdx) (t : Ty) (s : State) :=
  finish s (vec2 s d a b m t (if t.isFloat then elemF t fAdd else elemI t (· + ·)))
/-- R367. -/
def execVsub (d a b : VIdx) (m : MIdx) (t : Ty) (s : State) :=
  finish s (vec2 s d a b m t (if t.isFloat then elemF t fSub else elemI t (· - ·)))
/-- R367. -/
def execVmul (d a b : VIdx) (m : MIdx) (t : Ty) (s : State) :=
  finish s (vec2 s d a b m t (if t.isFloat then elemF t fMul else elemI t (· * ·)))

/-- R367: VD is the addend, and its tags count as operand tags. -/
def execVfma (d a b : VIdx) (m : MIdx) (t : Ty) (s : State) := finish s (do
  let x ← readVec s a
  let y ← readVec s b
  let z ← readVec s d
  let mask := maskOf s.st m
  let rs := elemResults mask t fun i => fFma (fmtOf t) s.st.rm (fopAt x t i) (fopAt y t i) (fopAt z t i) false false
  vecEnd s d z t mask rs (some x) (some y) (some z))

/-- The lesser or greater of two elements. -/
def elemMinMax (t : Ty) (isMax : Bool) : Elem2 := fun rm x y i =>
  if t.isFloat then
    fMinMax (fmtOf t) isMax (elem x.bits t.width i) (elem y.bits t.width i) (groupTagAt x t.width i) (groupTagAt y t.width i)
  else elemI t (if isMax then max else min) rm x y i

/-- R367. -/
def execVmin (d a b : VIdx) (m : MIdx) (t : Ty) (s : State) := finish s (vec2 s d a b m t (elemMinMax t false))
/-- R367. -/
def execVmax (d a b : VIdx) (m : MIdx) (t : Ty) (s : State) := finish s (vec2 s d a b m t (elemMinMax t true))

/-! ## Logic and shifts (R368) -/

/-- A bit operation on elements. -/
def elemBits (t : Ty) (f : Nat → Nat → Nat) : Elem2 := fun _ x y i =>
  ⟨f (elem x.bits t.width i) (elem y.bits t.width i) % 2 ^ t.width, 64, 0⟩

/-- R368. -/
def execVand (d a b : VIdx) (m : MIdx) (t : Ty) (s : State) := finish s (vec2 s d a b m t (elemBits t (· &&& ·)))
/-- R368. -/
def execVor (d a b : VIdx) (m : MIdx) (t : Ty) (s : State) := finish s (vec2 s d a b m t (elemBits t (· ||| ·)))
/-- R368. -/
def execVxor (d a b : VIdx) (m : MIdx) (t : Ty) (s : State) := finish s (vec2 s d a b m t (elemBits t (· ^^^ ·)))
/-- R368. -/
def execVnot (d a : VIdx) (m : MIdx) (t : Ty) (s : State) :=
  finish s (vec1 s d a m t fun _ x i => ⟨2 ^ t.width - 1 - elem x.bits t.width i, 64, 0⟩)

/-- The count of a shift: the low log2 w bits. -/
def shiftCount (t : Ty) (y : Nat) : Nat := y % t.width

/-- R368. -/
def execVshl (d a b : VIdx) (m : MIdx) (t : Ty) (s : State) :=
  finish s (vec2 s d a b m t (elemBits t fun x y => x * 2 ^ shiftCount t y))
/-- R368. -/
def execVshr (d a b : VIdx) (m : MIdx) (t : Ty) (s : State) :=
  finish s (vec2 s d a b m t (elemBits t fun x y => x / 2 ^ shiftCount t y))

/-- The value of a w-bit pattern as signed. -/
def signedOf (w x : Nat) : Int := if 2 ^ (w - 1) ≤ x then (x : Int) - 2 ^ w else x

/-- R368: sign fill, whatever the signedness of t. -/
def execVsra (d a b : VIdx) (m : MIdx) (t : Ty) (s : State) :=
  finish s (vec2 s d a b m t (elemBits t fun x y => intBits t.width (signedOf t.width x / 2 ^ shiftCount t y)))

/-! ## Compare and select (R369, R370) -/

/-- The outcome of a comparison of two elements. -/
def elemCompare (t : Ty) (c : VCond) (x y : Lanes) (i : Nat) : Bool × FFlags :=
  if t.isFloat then
    (let p := (fopAt x t i).v
     let q := (fopAt y t i).v
     match c with | .eq => fEq p q | .lt => fLt p q | .le => fLe p q | .neun => fUn p q)
  else
    (let p := intOf t (elem x.bits t.width i)
     let q := intOf t (elem y.bits t.width i)
     (match c with | .eq => p == q | .lt => decide (p < q) | .le => decide (p ≤ q) | .neun => p != q, 0))

/-- R369. -/
def execVcmp (k : MIdx) (a b : VIdx) (m : MIdx) (t : Ty) (c : VCond) (s : State) := finish s (do
  let x ← readVec s a
  let y ← readVec s b
  let mask := maskOf s.st m
  let rs := (List.range (laneCount t)).map fun i => if active mask t.width i then elemCompare t c x y i else (false, 0)
  let n := t.width / 8
  let out := (rs.zip (List.range (laneCount t))).foldl (fun o r => if r.1.1 then o + (2 ^ n - 1) * 2 ^ (n * r.2) else o) 0
  .ok (floatEnd (setMask s k (word out)) (rs.foldl (fun f r => f ||| r.2) 0) []))

/-- R370: every element is written; VD is not read. -/
def execVsel (d a b : VIdx) (m : MIdx) (t : Ty) (s : State) := finish s (do
  let x ← readVec s a
  let y ← readVec s b
  let mask := maskOf s.st m
  let l := merge x t.width fun i =>
    let z := if active mask t.width i then x else y
    some (elem z.bits t.width i, elemTag z t i)
  let u ← writeVec s d l
  .ok (retire u))

/-! ## Division-type instructions (R353, R354, R371) -/

/-- Cycles of a vector division, square root or reciprocal square root. -/
def vdivCycles (t : Ty) : Nat :=
  match t with
  | .f64 => 36
  | .f32 => 24
  | _ => 16

/-- VD is marked empty; the fill writes all of it, the merged elements as they were at issue. -/
def vecDivide (s : State) (d : VIdx) (old : Lanes) (t : Ty) (mask : Word) (rs : List (Option FRes)) (s1 s2 : Option Lanes) :
    Res State := do
  let l := merge old t.width (resAt rs)
  let n := s.newTicket
  let u ← writeVecPending n.2 d n.1
  .ok (divideStart u n.1 (vdivCycles t) ⟨0, Tag.full, some l, flagsOf rs, lossOf s.st (vecLoss mask t l s1 s2 none)⟩)

/-- R367. -/
def execVdiv (d a b : VIdx) (m : MIdx) (t : Ty) (s : State) := finish s (do
  let x ← readVec s a
  let y ← readVec s b
  let old ← readVec s d
  let mask := maskOf s.st m
  vecDivide s d old t mask (elemResults mask t (elemF t fDiv s.st.rm x y)) (some x) (some y))

/-- VSQRT and VRSQ. -/
def vecRoot (s : State) (d a : VIdx) (m : MIdx) (t : Ty) (f : Fmt → RMode → FOp → FRes) : Res State := do
  let x ← readVec s a
  let old ← readVec s d
  let mask := maskOf s.st m
  vecDivide s d old t mask (elemResults mask t fun i => f (fmtOf t) s.st.rm (fopAt x t i)) (some x) none

/-- R367. -/
def execVsqrt (d a : VIdx) (m : MIdx) (t : Ty) (s : State) := finish s (vecRoot s d a m t fSqrt)
/-- R367. -/
def execVrsq (d a : VIdx) (m : MIdx) (t : Ty) (s : State) := finish s (vecRoot s d a m t fRsq)

/-! ## Absolute value and negation (R367, R362) -/

/-- VABS: a float's sign bit cleared; the least integer stays as it is. -/
def elemAbs (t : Ty) : RMode → Lanes → Nat → FRes := fun _ x i =>
  let b := elem x.bits t.width i
  if t.isFloat then ⟨absBits t b, elemTag x t i, 0⟩ else intRes t (intOf t b).natAbs

/-- VNEG: a float's sign bit inverted; an integer wraps. -/
def elemNeg (t : Ty) : RMode → Lanes → Nat → FRes := fun _ x i =>
  let b := elem x.bits t.width i
  if t.isFloat then ⟨negBits t b, elemTag x t i, 0⟩ else intRes t (-(intOf t b))

/-- R367. -/
def execVabs (d a : VIdx) (m : MIdx) (t : Ty) (s : State) := finish s (vec1 s d a m t (elemAbs t))
/-- R367. -/
def execVneg (d a : VIdx) (m : MIdx) (t : Ty) (s : State) := finish s (vec1 s d a m t (elemNeg t))

/-! ## Reduction (R374, R150) -/

/-- One level of the tree: pairs combine, the lower lane on the left; a lone value passes. -/
def pairUp (f : FRes → FRes → FRes) : List (Option FRes) → List (Option FRes)
  | x :: y :: rest =>
    (match x, y with
     | none, y => y
     | x, none => x
     | some x, some y => some (f x y)) :: pairUp f rest
  | xs => xs

def reduceTree (f : FRes → FRes → FRes) : (levels : Nat) → List (Option FRes) → List (Option FRes)
  | 0, xs => xs
  | n + 1, xs => reduceTree f n (pairUp f xs)

/-- Two partial results combine; flags gather. -/
def combine (op : RedOp) (t : Ty) (rm : RMode) (x y : FRes) : FRes :=
  let f := fmtOf t
  let z : FRes :=
    if t.isFloat then
      (match op with
       | .min | .minn => fMinMax f false x.bits y.bits x.tag y.tag
       | .max | .maxn => fMinMax f true x.bits y.bits x.tag y.tag
       | _ => fAdd f rm (fop f x.bits x.tag) (fop f y.bits y.tag))
    else
      (let p := intOf t x.bits
       let q := intOf t y.bits
       match op with
       | .add => intRes t (p + q)
       | .min | .minn => intRes t (min p q)
       | .max | .maxn => intRes t (max p q)
       | .and => ⟨x.bits &&& y.bits, 64, 0⟩
       | .or => ⟨x.bits ||| y.bits, 64, 0⟩
       | .xor => ⟨x.bits ^^^ y.bits, 64, 0⟩)
  { z with flags := x.flags ||| y.flags ||| z.flags }

/-- The identity when no element is active. -/
def redIdentity (op : RedOp) (t : Ty) : FRes :=
  let f := fmtOf t
  match op, t.isFloat with
  | .min, true | .minn, true => infRes f false 0
  | .max, true | .maxn, true => infRes f true 0
  | _, true => ⟨0, f.p, 0⟩
  | .min, false => intRes t (2 ^ (t.width - 1) - 1)
  | .max, false => intRes t (-(2 ^ (t.width - 1)))
  | .minn, false | .and, false => ⟨2 ^ t.width - 1, 64, 0⟩
  | _, false => ⟨0, 64, 0⟩

/-- A NaN delivered is the canonical NaN, and a signalling one raises NV, also when it only passes through the tree (R355,
log 18). -/
def redNan (t : Ty) (r : FRes) : FRes :=
  if t.isFloat then
    match unpack (fmtOf t) r.bits with
    | .nan b => nanRes (fmtOf t) (r.flags ||| nvIf b)
    | _ => r
  else r

/-- The result of a reduction. -/
def reduce (op : RedOp) (t : Ty) (rm : RMode) (l : Lanes) (mask : Word) : FRes :=
  let leaf := fun i => (⟨elem l.bits t.width i, elemTag l t i, 0⟩ : FRes)
  match (reduceTree (combine op t rm) (Nat.log2 (laneCount t)) (elemResults mask t leaf)).head? with
  | some (some r) => redNan t r
  | _ => redIdentity op t

/-- The one SIGLOSS test of a reduction: the least operand tag over the active groups, lane 0 (R356). -/
def redLoss (t : Ty) (r : FRes) (l : Lanes) (mask : Word) : List LossTest :=
  let gs := (List.range 16).filter (groupActive mask t.width)
  if t.isFloat && !gs.isEmpty then [⟨0, r.tag, some (gs.foldl (fun a g => min a (groupP l t g)) 64), none, none⟩] else []

/-- R374. -/
def execVred (op : RedOp) (a : VIdx) (sd : Opd) (m : MIdx) (t : Ty) (s : State) := finish s (do
  checkCodes [(2, sd)]
  let x ← readVec s a
  let mask := maskOf s.st m
  let r := reduce op t s.st.rm x mask
  let u ← writeDest s sd (Reg.of (place t r.bits) (Tag.ofNat r.tag))
  .ok (floatEnd u r.flags (redLoss t r x mask)))

/-! ## Conversion (R372, R373) -/

/-- The converted source element i with the operand tag it brought. -/
def convElem (src tgt : Ty) (rm : RMode) (sat8 : Bool) (l : Lanes) (i : Nat) : FRes × Nat :=
  if src = .i4x then
    (let e := ((i4Word (elem l.bits 32 (i / 8)))[i % 8]?).getD (.int 0)
     let g := ((l.tags.toList[i / 8]?).getD Tag.full).val
     (convertI4 tgt rm sat8 e g, match e with | .int _ => 64 | .out _ => min g 4))
  else (convert src tgt rm sat8 (elem l.bits src.width i) (elemTag l src i), elemTag l src i)

/-- R372: elements past the shorter count are zero with tag 64. -/
def execVcvt (d a : VIdx) (tgt : Ty) (m : MIdx) (t : Ty) (s : State) := finish s (do
  let x ← readVec s a
  let old ← readVec s d
  let mask := maskOf s.st m
  let w := tgt.width
  let n := 512 / max t.width w
  let rs := (List.range n).map fun i =>
    if active mask w i then some (convElem t tgt s.st.rm s.st.satF8 x i) else none
  let l := merge old w fun i => if n ≤ i then some (0, 64) else (rs[i]?).join.map fun r => (r.1.bits, r.1.tag)
  let u ← writeVec s d l
  let tests := (rs.zip (List.range n)).filterMap fun r => r.1.map fun c => (⟨w * r.2 / 32, c.1.tag, some c.2, none, none⟩ : LossTest)
  .ok (floatEnd u (flagsOf (rs.map (·.map (·.1)))) (if tgt.isFloat then tests else [])))

/-! ## Moves (R375-R378): bits unchanged, no flag -/

/-- R375. DEDUCED (R159, log 69): permutes, broadcasts, inserts, selects and VMOVX move elements and are not among the vector float instructions
tested for SIGLOSS. -/
def execVperm (d a b : VIdx) (m : MIdx) (t : Ty) (s : State) := finish s (do
  let x ← readVec s a
  let y ← readVec s b
  let old ← readVec s d
  let mask := maskOf s.st m
  let l := merge old t.width fun i =>
    if active mask t.width i then
      (let j := elem y.bits t.width i % laneCount t
       some (elem x.bits t.width j, elemTag x t j))
    else none
  let u ← writeVec s d l
  .ok (retire u))

/-- R376. -/
def execVbcast (d : VIdx) (sa : Opd) (m : MIdx) (t : Ty) (s : State) := finish s (do
  checkCodes [(2, sa)]
  let x ← readSrc s sa false
  let old ← readVec x.2 d
  let mask := maskOf s.st m
  let l := merge old t.width fun i =>
    if active mask t.width i then some (x.1.val.toNat % 2 ^ t.width, x.1.tag.val) else none
  let u ← writeVec x.2 d l
  .ok (retire u))

/-- The tag of an element as a move delivers it: of a float, the group tag as R99 reads it (R155, R377). -/
def moveTag (t : Ty) (g : Nat) : Nat := if t.isFloat then min g (tyP t) else g

/-- R377. -/
def execVmovx (d : Opd) (v : VIdx) (j : Opd) (t : Ty) (s : State) := finish s (do
  checkCodes [(1, d), (2, j)]
  let x ← readSrc s j false
  let l ← readVec x.2 v
  let i := x.1.val.toNat % laneCount t
  let u ← writeDest x.2 d (Reg.of (place t (elem l.bits t.width i)) (Tag.ofNat (moveTag t (groupTagAt l t.width i))))
  .ok (retire u))

/-- R378. -/
def execVins (v : VIdx) (a j : Opd) (t : Ty) (s : State) := finish s (do
  checkCodes [(1, a), (2, j)]
  let x ← read2 s a j false false
  let old ← readVec x.2.2 v
  let i := x.2.1.val.toNat % laneCount t
  let l := merge old t.width fun k => if k = i then some (x.1.val.toNat % 2 ^ t.width, x.1.tag.val) else none
  let u ← writeVec x.2.2 v l
  .ok (retire u))

/-! ## Masks (R379, R380) -/

def maskOp (s : State) (d a b : MIdx) (f : Word → Word → Word) : Res State :=
  .ok (retire (setMask s d (f (maskOf s.st a) (maskOf s.st b))))

/-- R379. -/
def execMand (d a b : MIdx) (s : State) := finish s (maskOp s d a b (· &&& ·))
/-- R379. -/
def execMor (d a b : MIdx) (s : State) := finish s (maskOp s d a b (· ||| ·))
/-- R379. -/
def execMxor (d a b : MIdx) (s : State) := finish s (maskOp s d a b (· ^^^ ·))
/-- R379. -/
def execMnot (d a : MIdx) (s : State) := finish s (maskOp s d a a fun x _ => ~~~x)

/-- R380. -/
def execMpop (sd : Opd) (a : MIdx) (t : Ty) (s : State) := finish s (do
  checkCodes [(2, sd)]
  let n := ((List.range (laneCount t)).filter (active (maskOf s.st a) t.width)).length
  let u ← writeDest s sd (Reg.of (word n) Tag.full)
  .ok (retire u))

/-! ## Tags (R381): a group is active when mask bit 4g is set -/

/-- R381. -/
def execVsigmin (sd : Opd) (a : VIdx) (m : MIdx) (s : State) := finish s (do
  checkCodes [(2, sd)]
  let x ← readVec s a
  let gs := (List.range 16).filter (active (maskOf s.st m) 32)
  let least := gs.foldl (fun t g => min t (groupTagAt x 32 g)) 64
  let u ← writeDest s sd (Reg.of (word least) Tag.full)
  .ok (retire u))

/-- R381. -/
def execVsigset (d a : VIdx) (sa : Opd) (m : MIdx) (s : State) := finish s (do
  checkCodes [(2, sa)]
  let x ← readVec s a
  let y ← readSrc s sa false
  let old ← readVec y.2 d
  let mask := maskOf s.st m
  let l := merge old 32 fun g => if active mask 32 g then some (elem x.bits 32 g, min y.1.val.toNat 64) else none
  let u ← writeVec y.2 d l
  .ok (retire u))

/-! ## Scale and accumulate (R382) -/

/-- VSCLA, and VSCLAB with the scale of element 0: RNE whatever the mode; only VD's and VS1's tags are operand tags. -/
def vecScale (s : State) (d a b : VIdx) (m : MIdx) (t : Ty) (place : Nat → Nat) : Res State := do
  let x ← readVec s a
  let y ← readVec s b
  let z ← readVec s d
  let mask := maskOf s.st m
  let rs := elemResults mask t fun i => fScaleAdd (fmtOf t) (fopAt z t i) (fopAt x t i) (fopAt y t (place i))
  vecEnd s d z t mask rs (some x) none (some z)

/-- R382. -/
def execVscla (d a b : VIdx) (m : MIdx) (t : Ty) (s : State) := finish s (vecScale s d a b m t id)
/-- R382. -/
def execVsclab (d a b : VIdx) (m : MIdx) (t : Ty) (s : State) := finish s (vecScale s d a b m t fun _ => 0)

end Sys2Proof.Machine
end

