-- ==== Sys2Proof/Machine/Tile.lean ====
section
/-! DEFINITION. The tile engine (R84, R413-R429, R495, R496, R527): the front end, the checks of a command word, its operands in
TCM, scratchpad and accumulators, and the block product, movement, conversion and scaling commands. A command's effects take
place when it reaches the head of the queue; the engine is busy for the cycles of R415 (log 21). -/

namespace Sys2Proof.Machine

/-! ## What a command ends in -/

/-- A command that passed its checks: the machine after its writes, status, detail, handle bits [63:32], flags, cycles, and the
vector registers it fills. -/
structure TileOut where
  st : State
  status : Nat
  detail : Nat
  hi : Nat
  flags : FFlags
  cycles : Nat
  lanes : List Lanes

def tileDone (s : State) (fl : FFlags) (cycles : Nat) : TileOut := ⟨s, stDone, 0, 0, fl, cycles, []⟩

/-- Raises the flags of a command into its strand, before its handle fills (R143, R417). -/
def cmdFlagsTo (s : State) (c : EngCmd) (fl : FFlags) : State :=
  if s.core.table[c.handle].dead then s else s.modStrand c.strand (·.raiseFlags fl)

/-- The contents a command's vector destinations will take. -/
def fillLanes : List (Fin 32 × Nat × Lanes) → List Lanes → List (Fin 32 × Nat × Lanes)
  | v :: vs, l :: ls => (v.1, v.2.1, l) :: fillLanes vs ls
  | vs, _ => vs

/-- The command at the head occupies the engine for n cycles, then the next one comes to the head. -/
def tileBusy (s : State) (n : Nat) : State :=
  (s.withCore fun k => { k with tile := { k.tile with till := some (s.now + n) } }).at (s.now + n) .tileFrontEndAccept

/-- How a command ends: a failed check fills the handle 2 cycles later and does nothing else (R495); otherwise its handle fills 2
cycles after its last cycle (R415). -/
def tileEnd (s : State) (c : EngCmd) (fail : Option Nat) (out : TileOut) : Host.Outcome State Fault Refusal :=
  match fail with
  | some st => done (completeAt (tileBusy s 1) (s.now + 2) c.handle st)
  | none =>
    let t := cmdFlagsTo out.st c out.flags
    let t := t.modEntry c.handle fun e => { e with vdst := fillLanes e.vdst out.lanes }
    done ((tileBusy t out.cycles).at (s.now + out.cycles + 1)
      (.completion c.handle ⟨BitVec.ofNat 8 out.status, BitVec.ofNat 8 out.detail, BitVec.ofNat 32 out.hi⟩))

/-- The failure a command reports: fields first, then alignment, then what the headers show (R495). -/
def firstFail (fields alignment headers : Bool) : Option Nat :=
  if fields then some stIllcmd else if alignment then some stAlign else if headers then some stIllcmd else none

/-! ## The front end (R84, R414) -/

def tileRoom (s : State) : Bool := decide (s.core.tile.queue.length < 4)

/-- Has strand k arrived at the barrier in the generation that is not complete, or banked an arrival for the next (R343)? -/
def arrived (s : State) (gang : Bool) (b : Fin 16) (k : Fin 16) : Bool :=
  let d := ((s.strand k).ng[ngIx gang b] - (s.barrier gang b).cur).toNat
  (s.barrier gang b).cnt != 0 && (d = 1 || d = 2) && (s.strand k).run != .absent

/-- STROLE.ROLE of a strand. -/
def roleOf (s : State) (k : Fin 16) : Nat := fld (s.strand k).strole 5 4

/-- The role of a strand's tile commands: its own, or, of a laggard, the highest of the core's arrived members of the barrier (R261). The manual
does not say which strands are members; the model takes every strand of the cell for one (log 55). -/
def lentRole (s : State) (k : Fin 16) : Nat :=
  ([false, true].flatMap fun g => (List.finRange 16).flatMap fun b =>
    if (s.barrier g b).cnt = 0 || arrived s g b k then []
    else ((List.finRange 16).filter (arrived s g b)).map (roleOf s)).foldl max (roleOf s k)

/-- The effective role of a pending command; STROLE is read as the front end chooses, which the manual leaves open (log 55). -/
def effectiveRole (s : State) (c : EngCmd) : Nat := min (cmdRole c) (lentRole s c.strand)

/-- Is p taken before q, among commands all aged or all not? -/
def takenBefore (s : State) (aged : Bool) (p q : EngCmd × Nat) : Bool :=
  if !aged && effectiveRole s p.1 != effectiveRole s q.1 then decide (effectiveRole s q.1 < effectiveRole s p.1)
  else if p.2 != q.2 then decide (p.2 < q.2)
  else decide (p.1.strand.val < q.1.strand.val)

/-- The pending command to accept. -/
def chooseTile (s : State) : Option (EngCmd × Nat) :=
  let old := s.core.tile.pend.filter fun p => decide (s.core.agelim.toNat ≤ s.now - p.2)
  let aged := !old.isEmpty
  match if aged then old else s.core.tile.pend with
  | [] => none
  | p :: ps => some (ps.foldl (fun best q => if takenBefore s aged q best then q else best) p)

/-- Accepts a command into the execution queue. -/
def acceptTile (s : State) : State :=
  match chooseTile s with
  | none => s
  | some p =>
    let t := startEntry s p.1.handle
    t.withCore fun k => { k with tile := { k.tile with
      pend := k.tile.pend.filter (fun q => q.1.handle != p.1.handle), queue := k.tile.queue ++ [p.1], last := some s.now } }

/-- May the front end accept in this cycle? -/
def mayAccept (s : State) : Bool :=
  tileRoom s && (match s.core.tile.last with | some l => decide (l + 8 ≤ s.now) | none => true)

/-- A command that has finished leaves the queue. -/
def leaveTile (s : State) : State :=
  match s.core.tile.till with
  | some t =>
    if t ≤ s.now then s.withCore fun k => { k with tile := { k.tile with queue := k.tile.queue.drop 1, till := none } } else s
  | none => s

/-- The command at the head begins, when none is under way and no earlier release of its strand is (R212). -/
def beginTile (s : State) : State :=
  match s.core.tile.till, s.core.tile.queue with
  | none, c :: _ =>
    if earlierRelease s c.strand c.seq then s.atOnce (s.now + 1) .tileFrontEndAccept else s.atOnce s.now (.command c)
  | _, _ => s

/-- R84, R414. -/
def execTileFrontEndAccept (s : State) : Host.Outcome State Fault Refusal :=
  let t := leaveTile s
  let t := if mayAccept t then acceptTile t else t
  let t := beginTile t
  done (if t.core.tile.pend.isEmpty || !tileRoom t then t
    else t.atOnce (match t.core.tile.last with | some l => max (t.now + 1) (l + 8) | none => t.now + 1) .tileFrontEndAccept)

/-! ## Checks (R495, R496) -/

/-- The header outside its formats: reserved bits, DEADLINE, and FLAGS bits other than STRAP and those allowed. -/
def headerBad (c : EngCmd) (allowed : Nat) : Bool :=
  fld c.w0 31 30 != 0 || cmdDeadline c != 0 || cmdFlags c &&& (0x7F - allowed) != 0

def formatsAre (c : EngCmd) (ok : Nat → Nat → Nat → Bool) : Bool := ok (cmdAfmt c) (cmdBfmt c) (cmdCfmt c)

def descRot (w : Word) : Nat := fld w 59 56
def descTp (w : Word) : Nat := fld w 55 44
def descRp (w : Word) : Nat := fld w 43 32

/-- A descriptor in memory. -/
def isMem (w : Word) : Bool := descKind w = 1 || descKind w = 2

/-- The bytes of the memory a KIND names. -/
def kindBytes (w : Word) : Nat := if descKind w = 1 then 0x20000 else 0x200000

/-- The byte offset of word j of row i of tile t (R418, R181). -/
def matWord (w : Word) (t i j : Nat) : Nat :=
  descBase w + 64 * descTp w * t + 64 * descRp w * i + 8 * ((j + i * descRot w) % (8 * descRp w))

/-- Words of a row of n bytes. -/
def rowWords (rowBytes : Nat) : Nat := (rowBytes + 7) / 8

/-- The word offsets of the 32 rows of a tile. -/
def tileWords (w : Word) (t rowBytes : Nat) : List Nat :=
  (List.range 32).flatMap fun i => (List.range (rowWords rowBytes)).map (matWord w t i)

/-- A matrix operand that fails a field or range check. -/
def matBad (w : Word) (tiles rowBytes : Nat) : Bool :=
  !isMem w || (descKind w = 1 && descRot w != 0) || 64 * descRp w < rowBytes || (1 < tiles && descTp w < 32) ||
  (List.range tiles).any fun t => (tileWords w t rowBytes).any fun o => kindBytes w < o + 8

/-- A memory operand whose BASE is not 8-byte aligned. -/
def baseOff (w : Word) : Bool := isMem w && descBase w % 8 != 0

/-- An accumulator operand that fails. -/
def accBad (fmt : Nat) (w : Word) : Bool :=
  descKind w != 3 || fld w 59 3 != 0 || (fmt = 8 && w.getLsbD 0)

/-- A vector operand of n registers that fails. -/
def vecBad (n : Nat) (w : Word) : Bool :=
  descKind w != 0 || 32 ≤ (w.toNat % 2 ^ 60) || w.toNat % n != 0

/-! ## Memory operands -/

/-- The physical address of an offset of an operand. -/
def kindPa (s : State) (w : Word) (off : Nat) : Nat :=
  if descKind w = 1 then tcmPa s.core.gcore off else spadPa s.cluster off

/-- The tag of a word of an operand read for precision p (R420). -/
def kindTag (s : State) (w : Word) (off p : Nat) : Nat :=
  if descKind w = 1 then min (tagOfByte (tagByteAt s (kindPa s w off)).toNat p).val p else p

/-- Bits and tag of element e of row i of tile t, of type ty. -/
def matElem (s : State) (w : Word) (ty : Ty) (t i e : Nat) : Nat × Nat :=
  let off := matWord w t i (ty.width * e / 64)
  ((wordAt s (kindPa s w off)).toNat / 2 ^ (ty.width * e % 64) % 2 ^ ty.width,
    if ty.isFloat then kindTag s w off (tyP ty) else 64)

/-- Writes a word of an operand with its tag; a scratchpad has none. -/
def kindPut (s : State) (w : Word) (off : Nat) (v tag : Nat) : State :=
  performStore s ⟨kindPa s w off, word v, 0xFF, BitVec.ofNat 8 tag⟩

/-- A row as words of packed elements, each with the least tag of the elements in it (R420). -/
def packRow (width : Nat) (row : List (Nat × Nat)) : List (Nat × Nat) :=
  let per := 64 / width
  (List.range ((row.length + per - 1) / per)).map fun k =>
    let es := row.drop (k * per) |>.take per
    (es.foldr (fun e a => e.1 % 2 ^ width + 2 ^ width * a) 0, es.foldl (fun t e => min t e.2) 64)

/-- Writes the 32 rows of a tile. -/
def putTile (s : State) (w : Word) (width : Nat) (rows : Nat → List (Nat × Nat)) : State :=
  (List.range 32).foldl (fun s i =>
    ((packRow width (rows i)).zip (List.range 64)).foldl
      (fun s x => kindPut s w (matWord w 0 i x.2) x.1.1 x.1.2) s) s

/-! ## Accumulators (R108, R528) -/

/-- Element bits of 32 rows with their row tags. -/
abbrev TileVal := Vector (Vector Nat 32 × Nat) 32

def accIx (w : Word) (odd : Nat) : Fin 8 := ⟨(descBase w + odd) % 8, Nat.mod_lt _ (by decide)⟩

/-- What an accumulator operand holds in a format, row tags read by R99. -/
def accRead (s : State) (fmt : Nat) (w : Word) : TileVal :=
  let lo := s.core.acc[accIx w 0]
  let hi := s.core.acc[accIx w 1]
  Vector.ofFn fun i =>
    (Vector.ofFn fun j => (lo.rows[i][j]).toNat + (if fmt = 8 then (hi.rows[i][j]).toNat * 2 ^ 32 else 0),
      min (lo.tags[i]).val (if fmt = 8 then 53 else 24))

/-- One tile of the value written. -/
def accTile (v : TileVal) (shift : Nat) : Acc :=
  ⟨Vector.ofFn fun i => Vector.ofFn fun j => BitVec.ofNat 32 (v[i].1[j] / 2 ^ shift), Vector.ofFn fun i => Tag.ofNat v[i].2, []⟩

/-- Writes whole elements, which clears their poison. -/
def accWrite (s : State) (fmt : Nat) (w : Word) (v : TileVal) : State :=
  s.withCore fun k =>
    let a := k.acc.set (accIx w 0) (accTile v 0)
    { k with acc := if fmt = 8 then a.set (accIx w 1) (accTile v 32) else a }

/-- Rows of results: the row tag is the least of its elements' (R420). -/
def rowsOf (f : Fin 32 → Fin 32 → FRes) : TileVal :=
  Vector.ofFn fun i =>
    let rs := Vector.ofFn (f i)
    (vmap (·.bits) rs, rs.toList.foldl (fun t r => min t r.tag) 64)

/-- The OR of the flags of 32 × 32 results. -/
def gridFlags (f : Fin 32 → Fin 32 → FRes) : FFlags :=
  (List.finRange 32).foldl (fun a i => (List.finRange 32).foldl (fun a j => a ||| (f i j).flags) a) 0

/-! ## Poison (R527) -/

/-- The handle bits of a poisoned word or element. -/
def poisonHi (op kind off : Nat) : Nat := op * 2 ^ 30 + kind * 2 ^ 28 + off

/-- The first poisoned word among offsets of an operand. -/
def memPoison (s : State) (op : Nat) (w : Word) (offs : List Nat) : Option Nat :=
  (offs.find? fun o => poisoned s (kindPa s w o)).map (poisonHi op (descKind w))

/-- The first poisoned element of an accumulator operand, by row and column. -/
def accPoison (s : State) (op fmt : Nat) (w : Word) : Option Nat :=
  let tiles := if fmt = 8 then [accIx w 0, accIx w 1] else [accIx w 0]
  ((List.finRange 32).findSome? fun i => (List.finRange 32).findSome? fun j =>
    (tiles.find? fun t => (s.core.acc[t]).poison.contains (i, j)).map fun t => t.val * 1024 + i.val * 32 + j.val).map
      (poisonHi op 3)

/-- A side of a command: the poison of its whole source. -/
def sidePoison (s : State) (op fmt : Nat) (w : Word) (offs : List Nat) : Option Nat :=
  if descKind w = 3 then accPoison s op fmt w else memPoison s op w offs

/-- Ends with POISON when a source held some, else with the result. -/
def orPoison (s : State) (p : Option Nat) (cycles : Nat) (out : TileOut) : TileOut :=
  match p with
  | some hi => ⟨s, stPoison, 0, hi, 0, cycles, []⟩
  | none => out

/-- Cycles the scratchpad accesses of a command wait at their banks: not fixed by one core's state (R180, R415, log 21). -/
def bankWait (s : State) (n : Nat) : Nat := if n = 0 then 0 else Config.freeDelay s.fresh % (15 * n + 1)

/-- Scratchpad words among the operands of a command. -/
def spadWords (w : Word) (n : Nat) : Nat := if descKind w = 2 then n else 0

/-- A command's end with the waits of n scratchpad accesses. -/
def tileEndWait (s : State) (c : EngCmd) (fail : Option Nat) (out : TileOut) (n : Nat) : Host.Outcome State Fault Refusal :=
  if n = 0 then tileEnd s c fail out
  else tileEnd s c fail { out with st := { out.st with fresh := out.st.fresh + 1 }, cycles := out.cycles + bankWait s n }

/-! ## Movement (R425) -/

/-- The float type of a code; only codes 8-13 are asked. -/
def tyOf : Nat → Ty
  | 0 => .i8 | 1 => .i16 | 2 => .i32 | 3 => .i64 | 4 => .n8 | 5 => .n16 | 6 => .n32 | 7 => .n64
  | 8 => .f64 | 9 => .f32 | 10 => .f16 | 11 => .bf16 | 12 => .f8a | 13 => .f8b | _ => .i4x

/-- Bytes of a row of 32 elements. -/
def rowBytes (t : Ty) : Nat := if t = .i4x then 16 else 32 * t.width / 8

/-- Cycles of a movement of rows of n bytes. -/
def moveCycles (n : Nat) : Nat := 16 + 32 * ((n + 63) / 64)

/-- R425. -/
def execTld (c : EngCmd) (s : State) : Host.Outcome State Fault Refusal :=
  let src := tyOf (cmdAfmt c)
  let fmt := cmdCfmt c
  let ill := headerBad c 0 || c.w2 != 0 ||
    !(formatsAre c fun a b z => b = 0 && ((z = 9 && 9 ≤ a && a ≤ 13) || (z = 8 && (a = 8 || a = 9)))) ||
    matBad c.w1 1 (rowBytes src) || accBad fmt c.w3
  let f := fun (i j : Fin 32) =>
    let e := matElem s c.w1 src 0 i.val j.val
    convert src (tyOf fmt) .rne false e.1 e.2
  let out := orPoison s (memPoison s 1 c.w1 (tileWords c.w1 0 (rowBytes src))) (moveCycles (rowBytes src))
    (tileDone (accWrite s fmt c.w3 (rowsOf f)) (gridFlags f) (moveCycles (rowBytes src)))
  tileEndWait s c (firstFail ill (baseOff c.w1) false) out (spadWords c.w1 (32 * rowWords (rowBytes src)))

/-- R425. -/
def execTst (c : EngCmd) (s : State) : Host.Outcome State Fault Refusal :=
  let fmt := cmdCfmt c
  let n := rowBytes (tyOf fmt)
  let ill := headerBad c 0 || c.w2 != 0 || !(formatsAre c fun a b z => a = 0 && b = 0 && (z = 8 || z = 9)) ||
    accBad fmt c.w1 || matBad c.w3 1 n
  let v := accRead s fmt c.w1
  let row := fun i => match v[i]? with
    | some r => r.1.toList.map fun b => (b, r.2)
    | none => []
  let out := orPoison s (accPoison s 1 fmt c.w1) (moveCycles n)
    (tileDone (putTile s c.w3 (tyOf fmt).width row) 0 (moveCycles n))
  tileEndWait s c (firstFail ill (baseOff c.w3) false) out (spadWords c.w3 (32 * rowWords n))

/-- R425. -/
def execTzero (c : EngCmd) (s : State) : Host.Outcome State Fault Refusal :=
  let fmt := cmdCfmt c
  let ill := headerBad c 0 || c.w1 != 0 || c.w2 != 0 || !(formatsAre c fun a b z => a = 0 && b = 0 && (z = 8 || z = 9)) ||
    accBad fmt c.w3
  tileEnd s c (firstFail ill false false)
    (tileDone (accWrite s fmt c.w3 (rowsOf fun _ _ => ⟨0, 64, 0⟩)) 0 (if fmt = 8 then 8 else 4))

/-- R425: the row tags as held. -/
def execTsig (c : EngCmd) (s : State) : Host.Outcome State Fault Refusal :=
  let fmt := cmdCfmt c
  let ill := headerBad c 0 || c.w2 != 0 || !(formatsAre c fun a b z => a = 0 && b = 0 && (z = 8 || z = 9)) ||
    accBad fmt c.w1 || vecBad 2 c.w3
  let tags := s.core.acc[accIx c.w1 0].tags.toList
  let half := fun n => (⟨BitVec.ofNat 512 (((tags.drop n).take 16).foldr (fun t a => t.val + 2 ^ 32 * a) 0),
    Vector.replicate 16 Tag.full⟩ : Lanes)
  let out := orPoison s (accPoison s 1 fmt c.w1) 4 { tileDone s 0 4 with lanes := [half 0, half 16] }
  tileEnd s c (firstFail ill false false) out

/-! ## Conversion (R426) -/

/-- An accumulator element converted under the modes read at ISSUE. -/
def tcvtElem (c : EngCmd) (src tgt : Ty) (bits tag : Nat) : FRes :=
  convert src tgt (rmOf (fld c.fpmode 2 0)) (c.fpmode.getLsbD 3) bits tag

/-- R426. -/
def execTcvt (c : EngCmd) (s : State) : Host.Outcome State Fault Refusal :=
  let fmt := cmdAfmt c
  let tgt := tyOf (cmdCfmt c)
  let n := rowBytes tgt
  let w := if tgt = .i4x then 4 else tgt.width
  let ill := headerBad c 0 || c.w2 != 0 ||
    !(formatsAre c fun a b z => b = 0 && (a = 8 || a = 9) && ([0, 2, 10, 11, 12, 13, 14].contains z || (z = 9 && a = 8))) ||
    accBad fmt c.w1 || matBad c.w3 1 n
  let v := accRead s fmt c.w1
  let f := fun (i j : Fin 32) => tcvtElem c (tyOf fmt) tgt (v[i].1[j]) v[i].2
  let row := fun (i : Nat) => if h : i < 32 then (List.finRange 32).map (fun j => ((f ⟨i, h⟩ j).bits, (f ⟨i, h⟩ j).tag)) else []
  let out := orPoison s (accPoison s 1 fmt c.w1) (moveCycles n) (tileDone (putTile s c.w3 w row) (gridFlags f) (moveCycles n))
  tileEndWait s c (firstFail ill (baseOff c.w3) false) out (spadWords c.w3 (32 * rowWords n))

/-! ## Transpose (R427) -/

/-- Source and destination share a tile or a byte. -/
def ttrnOverlap (ty : Ty) (a z : Word) : Bool :=
  if descKind a = 3 && descKind z = 3 then
    (if ty = .f64 then descBase a / 2 = descBase z / 2 else descBase a = descBase z)
  else if descKind a = descKind z then
    (let zs := tileWords z 0 (rowBytes ty)
     (tileWords a 0 (rowBytes ty)).any fun x => zs.any fun y => x < y + 8 && y < x + 8)
  else false

/-- A side of TTRN that fails. -/
def ttrnBad (ty : Ty) (w : Word) : Bool :=
  if descKind w = 3 then !(ty = .f32 || ty = .f64) || accBad (if ty = .f64 then 8 else 9) w else matBad w 1 (rowBytes ty)

/-- R427. -/
def execTtrn (c : EngCmd) (s : State) : Host.Outcome State Fault Refusal :=
  let ty := tyOf (cmdAfmt c)
  let fmt := cmdAfmt c
  let n := rowBytes ty
  let ill := headerBad c 0 || c.w2 != 0 || !(formatsAre c fun a b z => b = 0 && a = z && a ≤ 13) ||
    ttrnBad ty c.w1 || ttrnBad ty c.w3 || ttrnOverlap ty c.w1 c.w3
  let v := accRead s fmt c.w1
  let src := fun (i j : Fin 32) => if descKind c.w1 = 3 then (v[i].1[j], v[i].2) else matElem s c.w1 ty 0 i.val j.val
  let f := fun (i j : Fin 32) => (⟨(src j i).1, (src j i).2, 0⟩ : FRes)
  let row := fun (i : Nat) => if h : i < 32 then (List.finRange 32).map fun j => src j ⟨i, h⟩ else []
  let t := if descKind c.w3 = 3 then accWrite s fmt c.w3 (rowsOf f) else putTile s c.w3 ty.width row
  let cyc := if isMem c.w1 || isMem c.w3 then moveCycles n else moveCycles 128
  let out := orPoison s (sidePoison s 1 fmt c.w1 (tileWords c.w1 0 n)) cyc (tileDone t 0 cyc)
  tileEndWait s c (firstFail ill (baseOff c.w1 || baseOff c.w3) false) out
    (spadWords c.w1 (32 * rowWords n) + spadWords c.w3 (32 * rowWords n))

/-! ## Scaling and adding (R428, R429) -/

/-- acc + x × r × c, one rounding; the scales are exact (R428, R382). -/
def scaleAdd (f : Fmt) (acc x : FOp) (r c : FVal) : FRes :=
  let facs := [x.v, r, c]
  let neg := (x.v.neg != r.neg) != c.neg
  let snan := acc.v.isSnan || facs.any (·.isSnan)
  if facs.any (·.isInf) && facs.any (·.isZero) then nanRes f fNV
  else if acc.v.isNan || facs.any (·.isNan) then nanRes f (nvIf snan)
  else
    let sz := sigOf f acc.v acc.tag
    match x.v, r, c with
    | .fin _ m1 q1, .fin _ m2 q2, .fin _ m3 q3 =>
      let m := m1 * m2 * m3
      let q := q1 + q2 + q3
      let ps : Sig :=
        if m != 0 then .num (topExp m q) x.tag
        else if r.isZero || c.isZero || (sigOf f x.v x.tag).exact then .zero f.p true
        else .zero x.tag false
      addV f .rne acc.v (.fin neg m q) sz ps false
    | _, _, _ => addV f .rne acc.v (.inf neg) sz .none false

/-- Entry n of the scale block: 32 row scales, then 32 column scales. -/
def scaleAt (s : State) (c : EngCmd) (n : Nat) : FVal :=
  let b := if descKind c.w2 = 0 then
      (match c.vin[n / 16]? with | some l => elem l.bits 32 (n % 16) | none => 0)
    else (wordAt s (kindPa s c.w2 (descBase c.w2 + 8 * (n / 2)))).toNat / 2 ^ (32 * (n % 2)) % 2 ^ 32
  unpack fF32 b

/-- The scale block fails. -/
def scaleBad (w : Word) : Bool :=
  if descKind w = 0 then vecBad 4 w
  else !isMem w || (descKind w = 1 && descRot w != 0) || kindBytes w < descBase w + 256

/-- R428. -/
def execTscal (c : EngCmd) (s : State) : Host.Outcome State Fault Refusal :=
  let fmt := cmdAfmt c
  let f := fmtOf (tyOf fmt)
  let ill := headerBad c 3 || !(formatsAre c fun a b z => a = z && (a = 8 || a = 9) && b = 9) ||
    accBad fmt c.w1 || scaleBad c.w2 || accBad fmt c.w3
  let a := accRead s fmt c.w1
  let z := accRead s fmt c.w3
  let one : FVal := .fin false 1 0
  let r := fun (i : Fin 32) => if cmdFlags c / 2 % 2 = 1 then scaleAt s c i.val else one
  let k := fun (j : Fin 32) => if cmdFlags c % 2 = 1 then scaleAt s c (32 + j.val) else one
  let g := fun (i j : Fin 32) => scaleAdd f (fop f (z[i].1[j]) z[i].2) (fop f (a[i].1[j]) a[i].2) (r i) (k j)
  let cyc := if fmt = 8 then 72 else 40
  let offs := if isMem c.w2 then (List.range 32).map (descBase c.w2 + 8 * ·) else []
  let p := (accPoison s 1 fmt c.w1).orElse fun _ => (memPoison s 2 c.w2 offs).orElse fun _ => accPoison s 3 fmt c.w3
  let out := orPoison s p cyc (tileDone (accWrite s fmt c.w3 (rowsOf g)) (gridFlags g) cyc)
  tileEndWait s c (firstFail ill (baseOff c.w2) false) out (spadWords c.w2 32)

/-- R429. -/
def execTadd (c : EngCmd) (s : State) : Host.Outcome State Fault Refusal :=
  let fmt := cmdAfmt c
  let f := fmtOf (tyOf fmt)
  let ill := headerBad c 0 || !(formatsAre c fun a b z => a = z && b = z && (a = 8 || a = 9)) ||
    accBad fmt c.w1 || accBad fmt c.w2 || accBad fmt c.w3
  let a := accRead s fmt c.w1
  let b := accRead s fmt c.w2
  let g := fun (i j : Fin 32) => fAdd f .rne (fop f (a[i].1[j]) a[i].2) (fop f (b[i].1[j]) b[i].2)
  let cyc := if fmt = 8 then 72 else 40
  let p := (accPoison s 1 fmt c.w1).orElse fun _ => accPoison s 2 fmt c.w2
  tileEnd s c (firstFail ill false false) (orPoison s p cyc (tileDone (accWrite s fmt c.w3 (rowsOf g)) (gridFlags g) cyc))

/-! ## Block product (R149, R157, R422, R423) -/

/-- An operand element of a product: its value, its tag, whether it is an exact zero, and whether it is an integer. -/
structure MEl where
  v : FVal
  tag : Nat
  exact : Bool
  int : Bool
deriving DecidableEq, Repr

def mInt (i : Int) : MEl := ⟨.fin (decide (i < 0)) i.natAbs 0, 64, i = 0, true⟩

/-- An element of an I4X word whose word tag is at most 64 (R136). -/
def mI4 (tag : Nat) : I4El → MEl
  | .int i => mInt i
  | .out b =>
    let x := fop fF8A b tag
    ⟨x.v, x.tag, (sigOf fF8A x.v x.tag).exact, false⟩

/-- The eight elements of k-group g of row i of an operand. -/
def mGroup (s : State) (w : Word) (ty : Ty) (i g : Nat) : List MEl :=
  if ty = .i4x then
    (let t := g / 16
     let j := g % 16
     let off := matWord w t i (j / 2)
     (i4Word ((wordAt s (kindPa s w off)).toNat / 2 ^ (32 * (j % 2)) % 2 ^ 32)).map (mI4 (kindTag s w off 4)))
  else
    (let per := 512 / ty.width
     (List.range 8).map fun e =>
       let k := 8 * g + e
       let b := matElem s w ty (k / per) i (k % per)
       let x := fop (fmtOf ty) b.1 b.2
       ⟨x.v, x.tag, (sigOf (fmtOf ty) x.v x.tag).exact, false⟩)

/-- A product: its value, what the tag rules know of it, and its flags; p is the accumulator's P. -/
def mProduct (p : Nat) (x y : MEl) : FVal × Sig × FFlags :=
  let neg := x.v.neg != y.v.neg
  if x.v.isSnan || y.v.isSnan then (.nan false, .none, fNV)
  else if x.v.isNan || y.v.isNan then (.nan false, .none, 0)
  else match x.v, y.v with
    | .fin _ m1 q1, .fin _ m2 q2 =>
      let st := mulS p (min x.tag p) (min y.tag p)
      if m1 * m2 = 0 then
        (.fin (neg && !(x.int || y.int)) 0 0, .sum none (if x.exact || y.exact then p else st), 0)
      else (.fin neg (m1 * m2) (q1 + q2), .sum (some (topExp (m1 * m2) (q1 + q2) - st + 1)) p, 0)
    | a, b => if a.isZero || b.isZero then (.nan false, .none, fNV) else (.inf neg, .none, 0)

/-- The exact sum of finite values. -/
def mAdd (x y : FVal) : FVal :=
  match x, y with
  | .fin n1 m1 q1, .fin n2 m2 q2 =>
    let z := addFin .rne n1 m1 q1 n2 m2 q2
    .fin z.1 z.2.1 z.2.2
  | x, _ => x

/-- The group sum t: a NaN, ∞ − ∞, an infinity, or the exact sum, with its u and the flags. -/
def mSum (p : Nat) (ps : List (FVal × Sig × FFlags)) : FVal × Sig × FFlags :=
  let fl := ps.foldl (fun f x => f ||| x.2.2) 0
  let u := ps.foldl (fun u x => uMax u x.2.1.u) none
  let cap := ps.foldl (fun c x => min c (x.2.1.cap p)) p
  if ps.any (·.1.isNan) then (.nan false, .none, fl)
  else if ps.any (fun x => x.1 = .inf true) && ps.any (fun x => x.1 = .inf false) then (.nan false, .none, fl ||| fNV)
  else match ps.find? (·.1.isInf) with
    | some x => (x.1, .none, fl)
    | none => ((ps.drop 1).foldl (fun a x => mAdd a x.1) (match ps with | x :: _ => x.1 | [] => .fin false 0 0), .sum u cap, fl)

/-- One element after a k-group. -/
def mStep (f : Fmt) (acc tag : Nat) (xs ys : List MEl) : FRes :=
  let t := mSum f.p ((xs.zip ys).map fun z => mProduct f.p z.1 z.2)
  let a := fop f acc tag
  let r := addV f .rne a.v t.1 (sigOf f a.v a.tag) t.2.1 a.v.isSnan
  { r with flags := r.flags ||| t.2.2 }

/-- The word offsets of k-group g in row i of an operand. -/
def mOffsets (w : Word) (ty : Ty) (g i : Nat) : List Nat :=
  if ty = .i4x then [matWord w (g / 16) i (g % 16 / 2)]
  else
    let per := 512 / ty.width
    ((List.range 8).map fun e => matWord w ((8 * g + e) / per) i (ty.width * ((8 * g + e) % per) / 64)).eraseDups

/-- Poison met by k-group g: A, then B, then C. -/
def mPoison (s : State) (c : EngCmd) (g : Nat) : Option Nat :=
  let offs := fun w ty => (List.range 32).flatMap (mOffsets w ty g)
  (memPoison s 1 c.w1 (offs c.w1 (tyOf (cmdAfmt c)))).orElse fun _ =>
    (memPoison s 2 c.w2 (offs c.w2 (tyOf (cmdBfmt c)))).orElse fun _ => accPoison s 3 (cmdCfmt c) c.w3

/-- One k-group over the accumulator. -/
def mUpdate (s : State) (c : EngCmd) (f : Fmt) (g : Nat) (v : TileVal) : TileVal × FFlags :=
  let xs : Vector (List MEl) 32 := Vector.ofFn fun i => mGroup s c.w1 (tyOf (cmdAfmt c)) i.val g
  let ys : Vector (List MEl) 32 := Vector.ofFn fun j => mGroup s c.w2 (tyOf (cmdBfmt c)) j.val g
  let rs : Vector (Vector FRes 32) 32 := Vector.ofFn fun i => Vector.ofFn fun j => mStep f (v[i].1[j]) v[i].2 xs[i] ys[j]
  (rowsOf fun i j => rs[i][j], gridFlags fun i j => rs[i][j])

/-- Groups from g on, n of them: the sums, the flags, and where poison stopped them. -/
def mGroups (s : State) (c : EngCmd) (f : Fmt) : (n : Nat) → (g : Nat) → TileVal → FFlags → TileVal × FFlags × Option (Nat × Nat)
  | 0, _, v, fl => (v, fl, none)
  | n + 1, g, v, fl =>
    match mPoison s c g with
    | some hi => (v, fl, some (g, hi))
    | none =>
      let r := mUpdate s c f g v
      mGroups s c f n (g + 1) r.1 (fl ||| r.2)

/-- KT, and K of a format. -/
def cmdKt (c : EngCmd) : Nat := cmdFlags c % 16 + 1
def kOf (t : Ty) : Nat := if t = .i4x then 128 else 512 / t.width

def mmaFormats (a b z : Nat) : Bool :=
  (z = 9 && ((a = 14 && b = 14) || ((a = 12 || a = 13) && (b = 12 || b = 13)) || (a = b && (a = 9 || a = 10 || a = 11)))) ||
  (z = 8 && a = 8 && b = 8)

/-- R422, R423. -/
def execTmma (c : EngCmd) (s : State) : Host.Outcome State Fault Refusal :=
  let fmt := cmdCfmt c
  let ty := tyOf (cmdAfmt c)
  let kt := cmdKt c
  let ill := headerBad c 0xF || !formatsAre c mmaFormats || matBad c.w1 kt 64 || matBad c.w2 kt 64 || accBad fmt c.w3
  let r := mGroups s c (fmtOf (tyOf fmt)) (kt * kOf ty / 8) 0 (accRead s fmt c.w3) 0
  let cyc := 16 + kt * (if ty = .f64 then 512 else if ty = .f32 then 256 else 128)
  let out : TileOut := match r.2.2 with
    | some p => ⟨if p.1 = 0 then s else accWrite s fmt c.w3 r.1, stPoison, p.1, p.2, r.2.1, cyc, []⟩
    | none => tileDone (accWrite s fmt c.w3 r.1) r.2.1 cyc
  tileEndWait s c (firstFail ill (baseOff c.w1 || baseOff c.w2) false) out
    (spadWords c.w1 (256 * kt) + spadWords c.w2 (256 * kt))

/-- A tile command whose code R303 does not list. -/
def tileIllegal (s : State) (c : EngCmd) : Host.Outcome State Fault Refusal :=
  tileEnd s c (some stIllcmd) (tileDone s 0 0)

end Sys2Proof.Machine
end

