-- ==== Sys2Proof/Machine/Gaussian.lean ====
section
/-! DEFINITION. The Gaussian message commands of the tile engine (R306, R430-R435): blocks of d variables in information form, their
checks, the element-wise commands, the elimination and the mean. -/

namespace Sys2Proof.Machine

/-! ## Blocks (R306) -/

/-- Elements of a block of d variables, and the entry of Λ(i, j) with i at most j. -/
def blockCount (d : Nat) : Nat := d + d * (d + 1) / 2
def triIx (d i j : Nat) : Nat := i * d - i * (i - 1) / 2 + (j - i)

/-- The element number of Λ(i, j) for any i and j: η comes first. -/
def lamIx (d i j : Nat) : Nat := d + triIx d (min i j) (max i j)

/-- A block as read: its header words and its elements with their tags. -/
structure Block where
  h0 : Word
  h1 : Word
  els : List (Nat × Nat)

def hdrDim (h0 : Word) : Nat := fld h0 7 0
def hdrType (h0 : Word) : Nat := fld h0 11 8
def hdrBeta (h0 : Word) : Nat := fld h0 31 16
def hdrSing (h0 : Word) : Bool := h0.getLsbD 32

/-- Bytes of n elements of a type, padded to words. -/
def packedBytes (ty : Ty) (n : Nat) : Nat := (n * (ty.width / 8) + 7) / 8 * 8

/-- Bytes of a block of d variables. -/
def blockBytes (ty : Ty) (d : Nat) : Nat := 16 + packedBytes ty (blockCount d)

def hdr (s : State) (w : Word) : Word := wordAt s (kindPa s w (descBase w))

/-- Reads a block of d variables. -/
def readBlock (s : State) (w : Word) (ty : Ty) (d : Nat) : Block :=
  ⟨hdr s w, wordAt s (kindPa s w (descBase w + 8)),
    (List.range (blockCount d)).map fun e =>
      let off := descBase w + 16 + 8 * (e * ty.width / 64)
      ((wordAt s (kindPa s w off)).toNat / 2 ^ (e * ty.width % 64) % 2 ^ ty.width, kindTag s w off (tyP ty))⟩

/-- Writes words of packed elements from an offset. -/
def putPacked (s : State) (w : Word) (off : Nat) (ty : Ty) (els : List (Nat × Nat)) : State :=
  ((packRow ty.width els).zip (List.range 64)).foldl (fun s x => kindPut s w (off + 8 * x.2) x.1.1 x.1.2) s

/-- Writes a block; header words take tag byte 0x7F (R430). -/
def putBlock (s : State) (w : Word) (ty : Ty) (b : Block) : State :=
  let s := kindPut s w (descBase w) b.h0.toNat 0x7F
  let s := kindPut s w (descBase w + 8) b.h1.toNat 0x7F
  putPacked s w (descBase w + 16) ty b.els

/-! ## Checks (R430, R496) -/

/-- A Gaussian operand that fails before its header is read. -/
def gaussBad (w : Word) : Bool := !isMem w || fld w 59 32 != 0 || kindBytes w < descBase w + 16

/-- Header and formats common to the Gaussian commands. -/
def gaussHeaderBad (c : EngCmd) (allowed : Nat) : Bool :=
  headerBad c allowed || !(formatsAre c fun a b z => (a = 8 || a = 9) && b = 0 && z = 0)

/-- β lies in [0, 1] and is finite. -/
def betaOk (b : Nat) : Bool :=
  match unpack fF16 b with
  | .fin n m q => m = 0 || (!n && cmpFin (.fin false m q) (.fin false 1 0) != .gt)
  | _ => false

/-- A source header that fails, or whose block passes the end of its memory. -/
def sourceBad (s : State) (c : EngCmd) (w : Word) : Bool :=
  let h := hdr s w
  let h1 := wordAt s (kindPa s w (descBase w + 8))
  hdrType h != cmdAfmt c || hdrDim h = 0 || 8 < hdrDim h || !betaOk (hdrBeta h) ||
  fld h 63 48 != 0 || fld h 47 33 != 0 || fld h 15 12 != 0 || fld h1 63 32 != 0 ||
  kindBytes w < descBase w + blockBytes (tyOf (cmdAfmt c)) (hdrDim h)

/-- A destination of n bytes that passes the end of its memory. -/
def targetBad (w : Word) (n : Nat) : Bool := kindBytes w < descBase w + n

/-- The word offsets of an operand of n bytes. -/
def spanOffsets (w : Word) (n : Nat) : List Nat := (List.range (n / 8)).map fun i => descBase w + 8 * i

/-- Poison in a source block: its header, then its elements. -/
def blockPoison (s : State) (op : Nat) (w : Word) (ty : Ty) : Option Nat :=
  memPoison s op w (spanOffsets w (blockBytes ty (hdrDim (hdr s w))))

def headerPoison (s : State) (op : Nat) (w : Word) : Option Nat := memPoison s op w (spanOffsets w 16)

/-- A Gaussian command ends: field and alignment failures first, then poison met in a header, then the headers, then poison in the
blocks (R495, R527). -/
def gaussEnd (s : State) (c : EngCmd) (fields alignment : Bool) (hp : Option Nat) (headers : Bool) (p : Option Nat) (cycles n : Nat)
    (out : TileOut) : Host.Outcome State Fault Refusal :=
  tileEndWait s c (firstFail fields alignment (headers && hp.isNone)) (orPoison s (hp.orElse fun _ => p) cycles out) n

/-! ## Element-wise commands (R431) -/

/-- C's header: A's, with SING of either. -/
def joinHeader (a b : Word) : Word := a ||| (b &&& word (2 ^ 32))

/-- A and B combined element by element into C. -/
def gaussPair (c : EngCmd) (s : State) (f : Word → FOp → FOp → FRes) : Host.Outcome State Fault Refusal :=
  let ty := tyOf (cmdAfmt c)
  let fm := fmtOf ty
  let d := hdrDim (hdr s c.w1)
  let fields := gaussHeaderBad c 0 || gaussBad c.w1 || gaussBad c.w2 || gaussBad c.w3
  let headers := sourceBad s c c.w1 || sourceBad s c c.w2 || hdrDim (hdr s c.w2) != d || targetBad c.w3 (blockBytes ty d)
  let a := readBlock s c.w1 ty d
  let b := readBlock s c.w2 ty d
  let rs := (a.els.zip b.els).map fun x => f a.h0 (fop fm x.1.1 x.1.2) (fop fm x.2.1 x.2.2)
  let z : Block := ⟨joinHeader a.h0 b.h0, a.h1, rs.map fun r => (r.bits, r.tag)⟩
  let cyc := 12 + blockCount d
  let n := blockBytes ty d / 8
  gaussEnd s c fields (baseOff c.w1 || baseOff c.w2 || baseOff c.w3)
    ((headerPoison s 1 c.w1).orElse fun _ => headerPoison s 2 c.w2) headers
    ((blockPoison s 1 c.w1 ty).orElse fun _ => blockPoison s 2 c.w2 ty) cyc
    (spadWords c.w1 n + spadWords c.w2 n + spadWords c.w3 n)
    (tileDone (putBlock s c.w3 ty z) (rs.foldl (fun f r => f ||| r.flags) 0) cyc)

/-- R431. -/
def execGacc (c : EngCmd) (s : State) : Host.Outcome State Fault Refusal :=
  gaussPair c s fun _ x y => fAdd (fmtOf (tyOf (cmdAfmt c))) .rne x y

/-- R431. -/
def execGsub (c : EngCmd) (s : State) : Host.Outcome State Fault Refusal :=
  gaussPair c s fun _ x y => fSub (fmtOf (tyOf (cmdAfmt c))) .rne x y

/-- A term of GDAMP: an element times a nonzero weight wm × 2^wq, with the element's s. -/
def dampTerm (f : Fmt) (x : FOp) (wm : Nat) (wq : Int) : FVal × Sig :=
  match x.v with
  | .fin n m q =>
    let sg := sigOf f x.v x.tag
    (.fin n (m * wm) (q + wq), match sg with | .num _ k => .num (topExp (m * wm) (q + wq)) k | z => z)
  | v => (v, .none)

/-- (1 − β) × A + β × B, exact before the rounding; a term of weight zero is left out, and NV comes of a signalling NaN alone. -/
def gdamp (f : Fmt) (h0 : Word) (x y : FOp) : FRes :=
  match unpack fF16 (hdrBeta h0) with
  | .fin _ m q =>
    let one : Nat := 2 ^ (-q).toNat
    let wa := one - m * 2 ^ q.toNat
    let lone := fun (z : FOp) => addV f .rne z.v (.fin z.v.neg 0 0) (sigOf f z.v z.tag) (.zero f.p true) z.v.isSnan
    if m = 0 then lone x
    else if wa = 0 then lone y
    else
      let a := dampTerm f x wa (min q 0)
      let b := dampTerm f y m q
      let snan := x.v.isSnan || y.v.isSnan
      let r := addV f .rne a.1 b.1 a.2 b.2 snan
      { r with flags := if snan then r.flags else r.flags &&& ~~~fNV }
  | _ => nanRes f 0

/-- R431. -/
def execGdamp (c : EngCmd) (s : State) : Host.Outcome State Fault Refusal :=
  gaussPair c s (gdamp (fmtOf (tyOf (cmdAfmt c))))

/-! ## Elimination (R432) -/

/-- The working copy during an elimination: elements, flags, and the pivot that failed. -/
structure Elim where
  els : List (Nat × Nat)
  flags : FFlags
  failed : Option Nat

def Elim.at (e : Elim) (f : Fmt) (i : Nat) : FOp :=
  match e.els[i]? with
  | some x => fop f x.1 x.2
  | none => ⟨.fin false 0 0, 0⟩

/-- Writes a result into an element. -/
def Elim.put (e : Elim) (i : Nat) (r : FRes) : Elim :=
  { e with els := e.els.set i (r.bits, r.tag), flags := e.flags ||| r.flags }

/-- z − w × y, one rounding. -/
def fNegMulAdd (f : Fmt) (z w y : FOp) : FRes := fFma f .rne w y z true false

/-- Is the pivot good? -/
def pivotOk (thr : Nat) (x : FOp) : Bool :=
  !x.v.isNan && cmpFin (.fin false 0 0) x.v = .lt && (thr = 0 || decide (thr ≤ x.tag))

/-- Row i of pivot p: M[i][j] for each j of the rows still there, then h[i]. -/
def elimRow (f : Fmt) (d p : Nat) (rows : List Nat) (e : Elim) (iw : Nat × FOp) : Elim :=
  let i := iw.1
  let e := (rows.filter (i ≤ ·)).foldl (fun e j =>
    e.put (lamIx d i j) (fNegMulAdd f (e.at f (lamIx d i j)) iw.2 (e.at f (lamIx d p j)))) e
  e.put i (fNegMulAdd f (e.at f i) iw.2 (e.at f p))

/-- One pivot: the weights of all rows first, then the rows. -/
def elimPivot (f : Fmt) (d first thr : Nat) (e : Elim) (p : Nat) : Elim :=
  if e.failed.isSome then e
  else
    let piv := e.at f (lamIx d p p)
    if !pivotOk thr piv then { e with failed := some p }
    else
      let rows := (List.range d).filter fun i => i < first || p < i
      let ws := rows.map fun i => (i, fDiv f .rne (e.at f (lamIx d i p)) piv)
      let e := { e with flags := ws.foldl (fun fl w => fl ||| w.2.flags) e.flags }
      (ws.map fun w => (w.1, fop f w.2.bits w.2.tag)).foldl (elimRow f d p rows) e

/-- The elimination of the variables from first on. -/
def eliminate (f : Fmt) (d first thr : Nat) (els : List (Nat × Nat)) : Elim :=
  ((List.range d).drop first).foldl (elimPivot f d first thr) ⟨els, 0, none⟩

/-- Status and detail of an elimination. -/
def elimEnd (s : State) (e : Elim) (cycles : Nat) : TileOut :=
  match e.failed with
  | some p => ⟨s, stSingular, p, 0, e.flags, cycles, []⟩
  | none => tileDone s e.flags cycles

/-- The kept variables' part of a block of d variables. -/
def keptPart (d k : Nat) (els : List (Nat × Nat)) : List (Nat × Nat) :=
  let get := fun i => (els[i]?).getD (0, 0)
  (List.range k).map get ++
    (List.range k).flatMap fun i => ((List.range k).filter (i ≤ ·)).map fun j => get (lamIx d i j)

/-- R432, R433. -/
def execGschur (c : EngCmd) (s : State) : Host.Outcome State Fault Refusal :=
  let ty := tyOf (cmdAfmt c)
  let d := hdrDim (hdr s c.w1)
  let k := cmdFlags c % 16
  let fields := gaussHeaderBad c 0xF || gaussBad c.w1 || c.w2 != 0 || gaussBad c.w3 || k = 0 || targetBad c.w3 (blockBytes ty k)
  let headers := sourceBad s c c.w1 || d ≤ k
  let a := readBlock s c.w1 ty d
  let e := eliminate (fmtOf ty) d k c.thr a.els
  let kept := keptPart d k e.els
  let h0 := setFld (setFld a.h0 7 0 k) 32 32 (if e.failed.isSome || hdrSing a.h0 then 1 else 0)
  let z : Block := ⟨h0, a.h1, if e.failed.isSome then kept.map fun x => (x.1, 0) else kept⟩
  let cyc := 16 + 20 * (d * (d - k))
  gaussEnd s c fields (baseOff c.w1 || baseOff c.w3) (headerPoison s 1 c.w1) headers (blockPoison s 1 c.w1 ty) cyc
    (spadWords c.w1 (blockBytes ty d / 8) + spadWords c.w3 (blockBytes ty k / 8))
    (elimEnd (putBlock s c.w3 ty z) e cyc)

/-! ## The mean (R434) -/

/-- μ[i] from the later ones; mu lists μ[i+1 … d−1], ascending. -/
def backStep (f : Fmt) (d : Nat) (e : Elim) (i : Nat) (mu : List FOp) (fl : FFlags) : FRes × FFlags :=
  let js := ((mu.zip (List.range mu.length)).map fun x => (i + 1 + x.2, x.1)).reverse
  let t := js.foldl (fun (t : FOp × FFlags) j =>
    let r := fNegMulAdd f t.1 (e.at f (lamIx d i j.1)) j.2
    (fop f r.bits r.tag, t.2 ||| r.flags)) (e.at f i, fl)
  let r := fDiv f .rne t.1 (e.at f (lamIx d i i))
  (r, t.2 ||| r.flags)

/-- μ[i … d−1] after n steps from the end. -/
def backward (f : Fmt) (d : Nat) (e : Elim) : (n : Nat) → List (Nat × Nat) × FFlags
  | 0 => ([], e.flags)
  | n + 1 =>
    let r := backward f d e n
    let x := backStep f d e (d - (n + 1)) (r.1.map fun z => fop f z.1 z.2) r.2
    ((x.1.bits, x.1.tag) :: r.1, x.2)

/-- R432, R434. -/
def execGmean (c : EngCmd) (s : State) : Host.Outcome State Fault Refusal :=
  let ty := tyOf (cmdAfmt c)
  let f := fmtOf ty
  let d := hdrDim (hdr s c.w1)
  let fields := gaussHeaderBad c 0 || gaussBad c.w1 || c.w2 != 0 || !isMem c.w3 || fld c.w3 59 32 != 0 || targetBad c.w3 8
  let headers := sourceBad s c c.w1 || targetBad c.w3 (packedBytes ty d)
  let a := readBlock s c.w1 ty d
  let e := eliminate f d 0 c.thr a.els
  let r := backward f d e d
  let mu := if e.failed.isSome then List.replicate d (canonNan f, 0) else r.1
  let e := if e.failed.isSome then e else { e with flags := r.2 }
  let cyc := 16 + 20 * (d * d)
  gaussEnd s c fields (baseOff c.w1 || baseOff c.w3) (headerPoison s 1 c.w1) headers (blockPoison s 1 c.w1 ty) cyc
    (spadWords c.w1 (blockBytes ty d / 8) + spadWords c.w3 (packedBytes ty d / 8))
    (elimEnd (putPacked s c.w3 (descBase c.w3) ty mu) e cyc)

end Sys2Proof.Machine
end

