-- ==== Sys2Proof/Machine/Copy.lean ====
section
/-! DEFINITION. The copy engine (R151, R244-R248, R402-R405, R497, R512-R515) and the memory-side SCAN (R406): commands, channels, beats,
chain reductions, flushes and late messages. An engine reads and writes at the homes (R212); a beat moves at a time the manual
leaves to the fabric (log 3). -/

namespace Sys2Proof.Machine

/-! ## An engine's words -/

/-- The physical addresses of n words from a virtual address (R400), or the status of the first fault (R463). -/
def engAddrs (s : State) (c : EngCmd) (w : Want) (va : Nat) : Nat → Except Nat (List Nat)
  | 0 => .ok []
  | n + 1 =>
    match engineXlat s (va % 2 ^ 43) w (!c.kernel) with
    | .error st => .error st.toNat
    | .ok pa => do
      let rest ← engAddrs s c w (va + 8) n
      .ok (pa :: rest)

/-- An engine's write that waits for a checkpoint's copy of its granule (R538). -/
def copyFirst (s : State) (c : EngCmd) (vas : List Nat) : Option Nat :=
  (vas.filterMap fun va => match engineXlat s (va % 2 ^ 43) .write (!c.kernel) with
    | .ok pa => some pa
    | .error _ => none).find? (ckptHolds s s.func)

/-- Reads words; poison ends the operation (R476). -/
def engRead (s : State) (pas : List Nat) : Except Nat (List Word) :=
  if pas.any (poisoned s) then .error stPoison else .ok (pas.map (wordAt s))

/-- Plain writes of words at their homes; a TCM word's tag byte becomes 0x7F (R163). -/
def engWrite (s : State) : List Nat → List Word → State
  | pa :: pas, w :: ws => engWrite (homeStore s ⟨pa, w, 0xFF, 0x7F⟩) pas ws
  | _, _ => s

/-- A beat's writes: one that covers a 64-byte granule clears its poison (R476). -/
def engBeat (s : State) (pas : List Nat) (ws : List Word) : State :=
  (pas.filter fun pa => pa % 64 = 0 && (List.range 8).all fun i => pas.contains (pa + 8 * i)).foldl clearGranule (engWrite s pas ws)

/-- An F32 half or an F64 word combined; the left operand comes first (R402, R245). -/
def combineWord (max f64 : Bool) (x y : Word) : Word × FFlags :=
  let one := fun (f : Fmt) (a b : Nat) => if max then fMinMax f true a b 64 64 else fAdd f .rne (fop f a 64) (fop f b 64)
  if f64 then
    (let r := one fF64 x.toNat y.toNat
     (word r.bits, r.flags))
  else
    (let lo := one fF32 (fld x 31 0) (fld y 31 0)
     let hi := one fF32 (fld x 63 32) (fld y 63 32)
     (word (hi.bits * 2 ^ 32 + lo.bits), lo.flags ||| hi.flags))

/-- What RED makes of a destination and a source word (R402). -/
def redWord (red : Nat) (dst src : Word) : Word × FFlags :=
  match red with
  | 1 => combineWord false false dst src
  | 2 => combineWord false true dst src
  | 3 => combineWord true false dst src
  | 4 => combineWord true true dst src
  | _ => (src, 0)

/-! ## Deadlines (R247, R248) -/

/-- A deadline less the wheel observed, as a signed difference mod 2³² (R247, R548). -/
def untilWheel (w dl : Nat) : Int := (((dl + 2 ^ 31 + (2 ^ 32 - w % 2 ^ 32)) % 2 ^ 32 : Nat) : Int) - 2 ^ 31

/-- The first slot of a deadline's wheel has begun. -/
def duePast (w dl : Nat) : Bool := dl != 0 && decide (untilWheel w dl ≤ 0)

/-! ## Channels -/

def State.modCopy (s : State) (f : CopyEngine → CopyEngine) : State := s.withCore fun c => { c with copy := f c.copy }

def mapChan (h : Fin 128) (f : Chan → Chan) (cs : List Chan) : List Chan := cs.map fun c => if c.cmd.handle = h then f c else c

/-- Takes a command's channel or intake entry away. -/
def dropChan (s : State) (h : Fin 128) : State :=
  s.modCopy fun e => { e with intake := e.intake.filter (·.handle != h), chans := e.chans.filter (·.cmd.handle != h) }

/-- A command that fails ends two cycles later (R495, R463). -/
def copyFail (s : State) (c : EngCmd) (st : Nat) : State := completeAt (dropChan s c.handle) (s.now + 2) c.handle st

/-- A command that is done completes once its homes have acknowledged: before its deadline when its channel is feasible and time is left, and LATE
whenever it completes after it (R248). -/
def copyEnd (s : State) (c : EngCmd) (feas : Bool) (st hi : Nat) : State :=
  let free := Config.freeDelay s.fresh
  let room := 256 * (s.wheel + (untilWheel (seenWheel s) (cmdDeadline c)).toNat) - s.now - 1
  let t := s.now + 1 + (if feas then free % max 1 room else free)
  let st := if st = stDone && duePast ((t - replayLag s) / 256) (cmdDeadline c) then stLate else st
  let u := dropChan { s with fresh := s.fresh + 1 } c.handle
  u.at t (.completion c.handle ⟨BitVec.ofNat 8 st, 0, BitVec.ofNat 32 hi⟩)

/-- Does a channel wait for its packet? -/
def Chan.waiting (c : Chan) : Bool := match c.kind with | .credWait .. => true | _ => false

/-- Sets the next beat going, unless one is on its way or every channel waits; while a channel has a deadline it can meet, without delay
(R248). -/
def kickCopy (s : State) : State :=
  if s.agenda.any (fun e => decide (e.2 = .copyEngineBeat)) || s.core.copy.chans.all (·.waiting) then s
  else if s.core.copy.chans.any (·.feas) then s.at (s.now + 1) .copyEngineBeat
  else s.later none .copyEngineBeat

/-- Words of beat b of a range of len bytes. -/
def beatWords (len b : Nat) : Nat := min 8 ((len - 64 * b) / 8)
def beatCount (len : Nat) : Nat := (len + 63) / 64

/-- The words a channel's next beat reads and writes (R400, R402); of a SCRUB's bitmap one word of each 64 bytes, whose unit it charges (R229,
R405). -/
def Chan.reach (c : Chan) : List Nat × List Nat :=
  match c.kind with
  | .linear src dst len red =>
    let n := beatWords len c.beat
    let d := wordSpan (dst + 64 * c.beat) n
    (wordSpan (src + 64 * c.beat) n ++ (if red = 0 then [] else d), d)
  | .rows src dst sp dp _ len red =>
    let per := beatCount len
    let r := c.beat / per
    let b := c.beat % per
    let n := beatWords len b
    let d := wordSpan (dst + dp * r + 64 * b) n
    (wordSpan (src + sp * r + 64 * b) n ++ (if red = 0 then [] else d), d)
  | .zero dst len => ([], wordSpan (dst + 64 * c.beat) (beatWords len c.beat))
  | .scrub src dst _ =>
    let w := dst + 8 * (c.beat / 32)
    ([src + 64 * c.beat], if c.beat % 32 = 0 && (c.beat = 0 || w % 64 = 0) then [w] else [])
  | .credSend src p out => (if out.length = 16 || c.beat = fld p.header[0] 31 0 / 64 then [] else wordSpan (src + 64 * c.beat) 8, [])
  | .credHop src dst op p out =>
    let k := op.toNat % 4
    if (fld p.header[0] 47 40 != 0 && out.length = 16) || c.beat = fld p.header[0] 31 0 / 64 then ([], [])
    else (if k = 1 || k = 2 then wordSpan (src + 64 * c.beat) 8 else [],
      if op.getLsbD 3 then wordSpan (dst + 64 * c.beat) 8 else [])
  | .credWait .. => ([], [])

/-! ## Feasible channels (R248) -/

/-- The beats of a channel's work, the header of a forwarded stream among them. -/
def ChanKind.total : ChanKind → Nat
  | .linear _ _ len _ | .zero _ len => beatCount len
  | .rows _ _ _ _ n len _ => n * beatCount len
  | .scrub _ _ len => len / 64
  | .credSend _ p _ => 1 + fld p.header[0] 31 0 / 64
  | .credHop _ _ _ p _ => (if fld p.header[0] 47 40 = 0 then 0 else 1) + fld p.header[0] 31 0 / 64
  | .credWait .. => 0

/-- A CRED's send endpoint. -/
def credSep (c : EngCmd) : Fin 32 := ⟨fld c.w3 28 24 % 32, Nat.mod_lt _ (by decide)⟩

/-- The addresses of HBM a channel's work reaches. -/
def Chan.hbmReach (s : State) (c : Chan) : List Nat :=
  ((List.range c.kind.total).flatMap fun b => ({ c with beat := b }).reach.1 ++ ({ c with beat := b }).reach.2).filterMap fun va =>
    match engineXlat s (va % 2 ^ 43) .read (!c.cmd.kernel) with
    | .ok pa => if isHbm pa then some pa else none
    | .error _ => none

/-- Beats a wheel that the issuing queue's reservation delivers: a forwarded stream's owned slots, and the units of the queue's class on the
pseudo-channel of the work that has fewest; on the die one beat a cycle. How the manual joins the two is not said (log 22). -/
def Chan.rate (s : State) (c : Chan) : Nat :=
  let slots := match c.kind with
    | .credSend .. => (ownedSlots s (niAgent s.core.gcore) tSend (credSep c.cmd).val).length
    | .credHop _ _ _ p _ => if fld p.header[0] 47 40 = 0 then 256 else (ownedSlots s (niAgent s.core.gcore) tSend (credSep c.cmd).val).length
    | _ => 256
  (c.hbmReach s).foldl (fun n pa => min n (unitsOf s (channelOf s pa) (loadClass s))) slots

/-- The wheels a channel's remaining beats take, in 65,536ths; none: they never fit. -/
def Chan.need (s : State) (c : Chan) : Option Nat :=
  if c.rate s = 0 then (if c.kind.total ≤ c.beat then some 0 else none) else some ((65536 * (c.kind.total - c.beat) + c.rate s - 1) / c.rate s)

/-- Sums the needs of channels. -/
def sumNeeds (s : State) : List Chan → Option Nat
  | [] => some 0
  | c :: cs => match c.need s, sumNeeds s cs with
    | some a, some b => some (a + b)
    | _, _ => none

/-- R248: for every deadline among the engine's channels and this one, the beats due by then fit in what the reservation delivers before it. -/
def Chan.feasible (s : State) (c : Chan) : Bool :=
  let dl := fun (x : Chan) => cmdDeadline x.cmd
  let all := (c :: s.core.copy.chans.filter fun x => x.cmd.handle != c.cmd.handle).filter fun x => dl x != 0
  dl c != 0 && all.all fun x => match sumNeeds s (all.filter fun y => decide (untilWheel (dl x % 2 ^ 32) (dl y) ≤ 0)) with
    | some n => decide (n ≤ 65536 * (untilWheel (seenWheel s) (dl x)).toNat)
    | none => false

/-- A command leaves the intake and holds a channel; which channels are feasible is found again with it (R248). -/
def openChan (s : State) (c : EngCmd) (k : ChanKind) : State :=
  let t := (dropChan s c.handle).modCopy fun e => { e with chans := e.chans ++ [⟨c, k, 0, false⟩] }
  kickCopy (t.modCopy fun e => { e with chans := e.chans.map fun x => { x with feas := x.feasible t } })

/-! ## CPY, CPYS, CPYZ (R402, R403, R497) -/

/-- Header fields every copy command keeps zero; mask: FLAGS bits it uses. -/
def copyHeaderBad (c : EngCmd) (mask : Nat) : Bool :=
  fld c.w0 31 30 != 0 || fld c.w0 27 16 != 0 || cmdFlags c &&& (0xFF - mask) != 0

def addrBad (w : Word) : Bool := fld w 63 43 != 0

/-- A length that R402 does not allow. -/
def lenBad (n : Nat) : Bool := n = 0 || n % 8 != 0

/-- The command's fields pass, then its alignment; its channel opens. -/
def copyTake (s : State) (c : EngCmd) (fields alignment : Bool) (k : ChanKind) : Host.Outcome State Fault Refusal :=
  match firstFail fields alignment false with
  | some st => done (copyFail s c st)
  | none => done (openChan s c k)

def redOf (c : EngCmd) : BitVec 3 := BitVec.ofNat 3 (cmdFlags c % 16)

/-- R402, R403. -/
def execCpy (c : EngCmd) (s : State) : Host.Outcome State Fault Refusal :=
  copyTake s c
    (copyHeaderBad c 0xF || 4 < cmdFlags c % 16 || addrBad c.w1 || addrBad c.w2 || fld c.w3 63 32 != 0 || lenBad (fld c.w3 31 0))
    (c.w1.toNat % 8 != 0 || c.w2.toNat % 8 != 0)
    (.linear c.w1.toNat c.w2.toNat (fld c.w3 31 0) (redOf c))

/-- R402, R403. -/
def execCpys (c : EngCmd) (s : State) : Host.Outcome State Fault Refusal :=
  copyTake s c
    (copyHeaderBad c 0xF || 4 < cmdFlags c % 16 || addrBad c.w1 || addrBad c.w2 || fld c.w3 31 16 = 0 || lenBad (fld c.w3 15 0))
    (c.w1.toNat % 8 != 0 || c.w2.toNat % 8 != 0)
    (.rows c.w1.toNat c.w2.toNat (8 * fld c.w3 47 32) (8 * fld c.w3 63 48) (fld c.w3 31 16) (fld c.w3 15 0) (redOf c))

/-- R402, R403. -/
def execCpyz (c : EngCmd) (s : State) : Host.Outcome State Fault Refusal :=
  copyTake s c
    (copyHeaderBad c 0 || c.w1 != 0 || addrBad c.w2 || fld c.w3 63 32 != 0 || lenBad (fld c.w3 31 0))
    (c.w2.toNat % 8 != 0)
    (.zero c.w2.toNat (fld c.w3 31 0))

/-! ## SCRUB (R405) -/

/-- A page of a range translates to a place outside HBM, also that of an empty one; a fault is left to the access (R497). -/
def outsideHbm (s : State) (c : EngCmd) (va len : Nat) : Bool :=
  ((List.range ((va % 8192 + max 1 len + 8191) / 8192)).map fun i => max va (va / 8192 * 8192 + 8192 * i)).any fun a =>
    match engineXlat s (a % 2 ^ 43) .read (!c.kernel) with
    | .ok pa => home s pa != .hbm
    | .error _ => false

/-- A SCRUB that fails a field check (R497). -/
def scrubBad (s : State) (c : EngCmd) : Bool :=
  copyHeaderBad c 0 || addrBad c.w1 || addrBad c.w2 || fld c.w3 63 32 != 0 || fld c.w3 31 0 % 64 != 0 ||
    outsideHbm s c c.w1.toNat (fld c.w3 31 0)

/-- R405, R497. R497 lists LEN 0 as a failure of CPY and CPYZ alone, so a SCRUB of no granule is done at once. -/
def execScrub (c : EngCmd) (s : State) : Host.Outcome State Fault Refusal :=
  if !scrubBad s c && c.w1.toNat % 64 = 0 && c.w2.toNat % 8 = 0 && fld c.w3 31 0 = 0 then done (copyEnd s c false stDone 0)
  else copyTake s c (scrubBad s c) (c.w1.toNat % 64 != 0 || c.w2.toNat % 8 != 0) (.scrub c.w1.toNat c.w2.toNat (fld c.w3 31 0))

/-! ## A beat of a copy -/

/-- Moves n words: all are read before any is written (R402). -/
def moveWords (s : State) (c : EngCmd) (src dst n red : Nat) : Except Nat State := do
  let sp ← engAddrs s c .read src n
  let dp ← engAddrs s c .write dst n
  let xs ← engRead s sp
  let ds ← if red = 0 then .ok (xs.map fun _ => (0 : Word)) else engRead s dp
  let rs := (ds.zip xs).map fun z => redWord red z.1 z.2
  let t := engBeat s dp (rs.map (·.1))
  .ok (cmdFlagsTo t c (rs.foldl (fun f r => f ||| r.2) 0))

/-- The two bits of granule g go into the bitmap; the write-back of a corrected one is owed, in the class of the issuing queue, and a demand write
cancels it (R228, R405, R521). Whether an error was corrected, and the bits of a last word past the bitmap, are open (log 22). A page that has left
HBM since the command was taken is a HOLE. -/
def scrubBeat (s : State) (c : EngCmd) (src dst g : Nat) : Except Nat State := do
  let sp ← engAddrs s c .read (src + 64 * g) 1
  let dp ← engAddrs s c .write (dst + 8 * (g / 32)) 1
  let pa := sp.headD 0
  if home s pa != .hbm then .error stHole
  let n := Config.freeChoice s.fresh
  let found := if poisoned s pa then 2 else n % 2
  let old : Word := if g % 32 = 0 then Config.freeWord s.fresh else wordAt s (dp.headD 0)
  let p : Fin 512 := ⟨channelOf s pa % 512, Nat.mod_lt _ (by decide)⟩
  let t : State := { s with fresh := s.fresh + 1 }
  let t := if found = 1 then
      oweScrub (countLane t (p.val / 2) (n / 2 % 72)) p (granuleOf s pa) ⟨loadClass s % 16, Nat.mod_lt _ (by decide)⟩ (some c.handle)
    else t
  .ok (engWrite t dp [(old &&& ~~~(word (3 * 4 ^ (g % 32)))) ||| word (found * 4 ^ (g % 32))])

/-! ## Streams of a chain reduction (R244-R246) -/

end Sys2Proof.Machine

namespace Sys2Proof

open Sys2Proof.Machine

def CredPacket.crid (p : CredPacket) : BitVec 16 := (p.header[0]).extractLsb' 48 16
def CredPacket.round (p : CredPacket) : BitVec 8 := (p.header[0]).extractLsb' 32 8
def CredPacket.hops (p : CredPacket) : Nat := fld p.header[0] 47 40
def CredPacket.length (p : CredPacket) : Nat := fld p.header[0] 31 0
def CredPacket.cmask (p : CredPacket) : Nat := fld p.header[6] 15 0
def CredPacket.orig (p : CredPacket) : Nat := fld p.header[6] 23 16
def CredPacket.deadline (p : CredPacket) : Nat := fld p.header[7] 31 0
/-- The current entry of ROUTE, and entry n. -/
def CredPacket.next (p : CredPacket) : Nat := fld p.header[2] 13 0

/-- ROUTE as one number, entry 0 lowest. -/
def CredPacket.route (p : CredPacket) : Nat :=
  p.header[2].toNat + 2 ^ 64 * (p.header[3].toNat + 2 ^ 64 * (p.header[4].toNat + 2 ^ 64 * p.header[5].toNat))

/-- Pops the op and the route entry (R245). -/
def CredPacket.pop (p : CredPacket) : BitVec 4 × CredPacket :=
  let r := p.route / 2 ^ 16
  let h := p.header
  ((h[1]).extractLsb' 0 4,
    { p with header := #v[setFld h[0] 47 40 (p.hops - 1), h[1] >>> 4, word r, word (r / 2 ^ 64), word (r / 2 ^ 128),
      word (r / 2 ^ 192), h[6], h[7]] })

/-- Sets the CMASK bit of the hop just popped (R512). -/
def CredPacket.mark (p : CredPacket) : CredPacket :=
  { p with header := p.header.set 6 (p.header[6] ||| word (2 ^ (p.orig - p.hops))) }

/-- The last core of the route that remains, or this one. -/
def CredPacket.lastCore (p : CredPacket) (own : Nat) : Nat :=
  if p.hops = 0 then own else p.route / 2 ^ (16 * (p.hops - 1)) % 2 ^ 14

def flitFrom (ws : List Word) (bad : Bool) : Flit := ⟨flitOf ws, false, false, bad, 0, 0⟩

def CredPacket.headFlit (p : CredPacket) : Flit := flitFrom p.header.toList false

/-- The words of payload flit b. -/
def CredPacket.beat (p : CredPacket) (b : Nat) : List Word := (p.payload.drop (8 * b)).take 8

end Sys2Proof

namespace Sys2Proof.Machine

/-- Marks the first and last flit of a message. -/
def asMessage (fs : List Flit) : List Flit :=
  (fs.zip (List.range fs.length)).map fun f => { f.1 with first := f.2 = 0, last := f.2 + 1 = fs.length }

/-- Commits flits as one message of a send endpoint, after the releases of strand k numbered below seq. -/
def commitFlits (s : State) (ep : Fin 32) (k : Fin 16) (seq : Nat) (fs : List Flit) : State :=
  (s.modSend ep fun e => { e with buf := e.buf ++ [⟨asMessage fs, s.now, k, seq⟩] }).atOnce (s.now + 1) (.messageStart ep)

/-- Room for a message at an endpoint. -/
def sendRoom (s : State) (ep : Fin 32) (n : Nat) : Bool :=
  let e := s.core.send[ep]
  e.circuit && !e.closed && e.load + n ≤ 16

/-- Everything sent has been taken by every receiver (R246). -/
def sendDrained (s : State) (ep : Fin 32) : Bool :=
  let e := s.core.send[ep]
  e.load = 0 && e.wins.all fun w => w.sent = w.returned

/-- The CRED_DROP record (R499). -/
def credDrop (s : State) (crid : BitVec 16) (round : BitVec 8) (code : Nat) : State :=
  fabricRecord s 0x0707 (crid.toNat * 2 ^ 16 + round.toNat * 2 ^ 8 + code) (word s.core.gcore) s.func

/-! ## Payload at endpoint 62 (R444) -/

def InPkt.isOf (o : InPkt) (crid : BitVec 16) (round : BitVec 8) : Bool := o.crid = crid && o.round = round

/-- The first packet of the kind, with where its payload begins in the queue. -/
def findIn (m : InPkt → Bool) : (at_ : Nat) → List InPkt → Option (Nat × InPkt)
  | _, [] => none
  | n, o :: os => if m o then some (n, o) else findIn m (n + o.left) os

/-- The next payload flit of a packet, when it has come, with its place in the queue. -/
def nextPayload (s : State) (m : InPkt → Bool) : Option (Nat × InPkt × Flit) :=
  match findIn m 0 s.core.copy.order with
  | some (i, o) => if o.left = 0 then none else ((s.core.recv[(62 : Fin 64)]).queue[i]?).map fun f => (i, o, f)
  | none => none

/-- The engine takes a flit of endpoint 62, which counts as deposited there (R246). -/
def takeAt (s : State) (i : Nat) : State :=
  (s.modRecv 62 fun r => { r with queue := r.queue.eraseIdx i, count := r.count + 1 }).atOnce (s.now + 1) (.windowReturnSend 62)

/-- An entry of the order changes; one with nothing left leaves it. -/
def setOrder (s : State) (o o' : InPkt) : State :=
  s.modCopy fun e => { e with order := (e.order.replace o o').filter fun x => x.left != 0 || x.flush.isSome }

/-- Takes the next payload flit of a packet. -/
def takePayload (s : State) (x : Nat × InPkt × Flit) : State := setOrder (takeAt s x.1) x.2.1 { x.2.1 with left := x.2.1.left - 1 }

/-- What is still to come of a packet is discarded (R497). -/
def dropStream (s : State) (crid : BitVec 16) (round : BitVec 8) : State :=
  match s.core.copy.order.find? (·.isOf crid round) with
  | some o => (setOrder s o { o with flush := some (none, []) }).at (s.now + 1) (.credFlush crid round)
  | none => s

/-! ## CRED commands (R404, R497) -/

def credFirst (c : EngCmd) : Bool := cmdFlags c % 2 = 1
def credRblk (c : EngCmd) : Nat := fld c.w3 17 0
def routeWord (s : State) (c : EngCmd) (i : Nat) : Word := wordAt s (tcmPa s.core.gcore (credRblk c + 8 * i))

/-- A route block that fails. -/
def routeBad (s : State) (c : EngCmd) : Bool :=
  let w := routeWord s c 0
  16 < fld w 39 32 || fld w 31 0 = 0 || fld w 31 0 % 64 != 0

/-- A CRED that fails a field check. -/
def credBad (s : State) (c : EngCmd) : Bool :=
  copyHeaderBad c 1 || addrBad c.w1 || addrBad c.w2 || fld c.w3 39 29 != 0 || fld c.w3 23 18 != 0 ||
  (!credFirst c && credRblk c != 0) || 0x20000 < credRblk c + 48 ||
  (credFirst c && routeBad s c)

def credCrid (c : EngCmd) : BitVec 16 := c.w3.extractLsb' 48 16
def credRound (c : EngCmd) : BitVec 8 := c.w3.extractLsb' 40 8

/-- The packet a first core starts (R244, R512). -/
def firstPacket (s : State) (c : EngCmd) : CredPacket :=
  let w0 := routeWord s c 0
  let hops := fld w0 39 32
  ⟨#v[word ((credCrid c).toNat * 2 ^ 48 + hops * 2 ^ 40 + (credRound c).toNat * 2 ^ 32 + fld w0 31 0), routeWord s c 1,
      routeWord s c 2, routeWord s c 3, routeWord s c 4, routeWord s c 5, word (hops * 2 ^ 16 + 1), word (cmdDeadline c)], [], []⟩

/-- A first core's CRED. -/
def startFirst (s : State) (c : EngCmd) : State :=
  let t := startEntry s c.handle
  if (List.range 6).any fun i => poisoned s (tcmPa s.core.gcore (credRblk c + 8 * i)) then copyFail t c stPoison
  else
    let p := firstPacket s c
    if p.hops = 0 then (dropChan t c.handle).at (t.now + 2) (.completion c.handle ⟨0, 0, 1⟩)
    else openChan t c (.credSend c.w1.toNat p [p.headFlit])

/-- A local command meets its packet (R245, R246, R497). -/
def bindCred (s : State) (c : EngCmd) (p0 : CredPacket) : State :=
  let x := p0.pop
  let p := x.2
  let k := x.1.toNat % 4
  let p := if k = 1 || k = 2 then p.mark else p
  let t := startEntry s c.handle
  if p.hops != 0 && !(s.core.send[credSep c]).circuit then copyFail (dropStream t p.crid p.round) c stIllcmd
  else openChan t c (.credHop c.w1.toNat c.w2.toNat x.1 p (if p.hops = 0 then [] else [p.headFlit]))

/-- The late message (R514) as a flit. -/
def lateFlit (s : State) (c : EngCmd) (r : FlushRec) : Flit :=
  { flitFrom [word (r.crid.toNat * 2 ^ 48 + r.round.toNat * 2 ^ 40 + s.core.gcore % 2 ^ 14), word (c.w1.toNat % 2 ^ 43), word r.len,
      0, 0, 0, 0, 0] false with first := true, last := true }

/-- A late message at endpoint 61 of this core, over the memory circuits: deposited when the endpoint is armed, else discarded and recorded
(R514). -/
def lateAt (s : State) (crid : BitVec 16) (round : BitVec 8) (f : Flit) : State :=
  let ep : Fin 64 := 61
  if (s.core.recv[ep]).arming.isSome then depositSoon (s.modRecv ep fun e => { e with queue := e.queue ++ [f] }) ep
  else credDrop s crid round 2

/-- A late contribution is told to the route's last core; another core than this takes it outside the model (log 1). -/
def sendLate (s : State) (c : EngCmd) (r : FlushRec) : State :=
  if r.last = s.core.gcore then lateAt s r.crid r.round (lateFlit s c r) else s

/-- A later hop's CRED: a flush record, a packet held, or neither (R246, R514). -/
def startLocal (s : State) (c : EngCmd) : State :=
  match s.core.copy.flushed.find? (fun r => r.crid = credCrid c && r.round = credRound c) with
  | some r =>
    let t := startEntry (s.modCopy fun e => { e with flushed := e.flushed.filter (· != r) }) c.handle
    (dropChan (sendLate t c r) c.handle).later none (.completion c.handle ⟨2, 0, 0⟩)
  | none =>
    match s.core.copy.early.find? (fun p => p.crid = credCrid c && p.round = credRound c) with
    | some p => bindCred (s.modCopy fun e => { e with early := e.early.erase p }) c p
    | none => openChan s c (.credWait c.w1.toNat c.w2.toNat (credCrid c) (credRound c))

/-- R404, R497. -/
def execCred (c : EngCmd) (s : State) : Host.Outcome State Fault Refusal :=
  match firstFail (credBad s c) (c.w1.toNat % 8 != 0 || c.w2.toNat % 8 != 0 || credRblk c % 8 != 0) false with
  | some st => done (copyFail s c st)
  | none => done (if credFirst c then startFirst s c else startLocal s c)

/-! ## Packets arriving (R246, R444, R511, R513) -/

/-- The send endpoint whose circuit reaches endpoint 62 of a core. -/
def circuitToCred (s : State) (core : Nat) : Option (Fin 32) :=
  (List.finRange 32).find? fun ep => match circuitOf s (coreEp s.core.gcore ep.val) with
    | some k => k.dsts.any fun d => d.1 = coreEp core 62
    | none => false

/-- The flits of a packet: its header, and the payload it carries. -/
def packetFlits (p : CredPacket) : List Flit :=
  p.headFlit :: (List.range (p.payload.length / 8)).map fun b => flitFrom (p.beat b) (p.bad.contains b)

/-- R513: a packet whose header has been taken is flushed: its flush record, and the way its stream takes. -/
def startFlush (s : State) (p0 : CredPacket) : State :=
  let p := p0.pop.2
  let r : FlushRec := ⟨p.crid, p.round, p.lastCore s.core.gcore, p.length⟩
  let s := s.modCopy fun e => { e with flushed := (e.flushed ++ [r]).drop ((e.flushed.length + 1) - 16) }
  let ep := if p.hops = 0 then none else circuitToCred s p.next
  let s := if ep.isNone then credDrop s p.crid p.round 1 else s
  let fl := some (ep, if ep.isNone then [] else [p.headFlit])
  let s := match s.core.copy.order.find? (·.isOf p.crid p.round) with
    | some o => setOrder s o { o with flush := fl }
    | none => s.modCopy fun e => { e with order := e.order ++ [(⟨p.crid, p.round, 0, fl⟩ : InPkt)] }
  s.at (s.now + 1) (.credFlush p.crid p.round)

/-- A flush moves on: a message leaves when its endpoint is open and has room (R67), a flit is taken, or the rest is discarded. -/
def flushStep (s : State) (o : InPkt) (ep : Option (Fin 32)) (out : List Flit) : State :=
  let next := nextPayload s fun x => x = o
  match ep.filter fun e => (s.core.send[e]).circuit with
  | some e =>
    if out.length = 16 || (o.left = 0 && !out.isEmpty) then
      (if sendRoom s e out.length then setOrder (commitFlits s e 0 0 out) o { o with flush := if o.left = 0 then none else some (some e, []) }
       else s)
    else match next with
      | some (i, _, f) =>
        setOrder (takeAt s i) o { o with left := o.left - 1, flush := some (some e, out ++ [flitFrom (flitWords f.data) f.poison]) }
      | none => s
  | none => match next with
    | some (i, _, _) => setOrder (takeAt s i) o { o with left := o.left - 1, flush := if o.left = 1 then none else some (none, []) }
    | none => if o.left = 0 then setOrder s o { o with flush := none } else s

/-- A flush goes on until its stream has been taken. -/
def flushOn (s : State) (crid : BitVec 16) (round : BitVec 8) : State :=
  match s.core.copy.order.find? fun o => o.isOf crid round && o.flush.isSome with
  | some o =>
    let t := match o.flush with
      | some (ep, out) => flushStep s o ep out
      | none => s
    if t.core.copy.order.any fun x => x.isOf crid round && x.flush.isSome then t.atOnce (t.now + 1) (.credFlush crid round)
    else gatherCred t 62
  | none => s

/-- The header at its place in the queue is taken, and its payload is to follow. -/
def takeHeader (s : State) (p : CredPacket) : State :=
  let i := credAhead s
  (takeAt s i).modCopy fun e => { e with order := e.order ++ (if p.length / 64 = 0 then [] else [(⟨p.crid, p.round, p.length / 64, none⟩ : InPkt)]) }

/-- The packet's header stands next in the queue of endpoint 62. -/
def headerNext (s : State) (p : CredPacket) : Bool :=
  match (s.core.recv[(62 : Fin 64)]).queue[credAhead s]? with
  | some f => flitWords f.data = p.header.toList
  | none => false

/-- A header that stands next meets its local CRED, is flushed, or goes to the early buffer; while that is full it waits in the queue (R246,
R511, R513). -/
def meetHeader (s : State) (p : CredPacket) : State :=
  match s.core.copy.chans.find? (fun c => match c.kind with
    | .credWait _ _ k r => k = p.crid && r = p.round
    | _ => false) with
  | some c => gatherCred (bindCred (takeHeader s p) c.cmd p) 62
  | none =>
    if duePast (seenWheel s) p.deadline then gatherCred (startFlush (takeHeader s p) p) 62
    else if s.core.copy.early.length < 16 then
      let t := (takeHeader s p).modCopy fun e => { e with early := e.early ++ [p] }
      gatherCred (if p.deadline = 0 then t
        else t.at (256 * (s.wheel + (untilWheel (seenWheel s) p.deadline).toNat)) (.credFlush p.crid p.round)) 62
    else s.atOnce (s.now + 1) .credLook

/-- R246, R444: the copy engine looks at the header that stands next in the queue of endpoint 62. -/
def execCredLook (s : State) : Host.Outcome State Fault Refusal :=
  let r := s.core.recv[(62 : Fin 64)]
  match r.queue[credAhead s]? with
  | some h => done (if r.arming.isSome then s else meetHeader s ⟨Vector.ofFn fun i => (flitWords h.data).getD i.val 0, [], []⟩)
  | none => done s

/-- R246, R444: a header that stands next is looked at; a packet that comes whole joins the queue first. While an MBOX has armed endpoint 62 it is
deposited as messages. -/
def execCredPacketArrive (p : CredPacket) (s : State) : Host.Outcome State Fault Refusal :=
  let ep : Fin 64 := 62
  if (s.core.recv[ep]).arming.isSome then
    let fs := packetFlits p
    let ms := (List.range ((fs.length + 15) / 16)).flatMap fun i => asMessage ((fs.drop (16 * i)).take 16)
    done (depositSoon (s.modRecv ep fun r => { r with queue := r.queue ++ ms, got := r.got + ms.length }) ep)
  else
    let s := if headerNext s p then s
      else s.modRecv ep fun r => { r with queue := r.queue ++ packetFlits p, got := r.got + (packetFlits p).length }
    done (if headerNext s p then meetHeader s { p with payload := [], bad := [] } else s)

/-- R513: the deadline of a packet held, or a flush that goes on. -/
def execCredFlush (crid : BitVec 16) (round : BitVec 8) (s : State) : Host.Outcome State Fault Refusal :=
  match s.core.copy.early.find? (fun p => p.crid = crid && p.round = round && duePast (seenWheel s) p.deadline) with
  | some p => done (startFlush (s.modCopy fun e => { e with early := e.early.erase p }) p)
  | none => done (flushOn s crid round)

/-! ## Beats (R247, R402, R245) -/

/-- A write of the channel's next beat waits for a checkpoint's copy (R538). -/
def Chan.copied (s : State) (c : Chan) : Option Nat := copyFirst s c.cmd c.reach.2

/-- May the channel move a beat? -/
def Chan.canMove (s : State) (c : Chan) : Bool :=
  let stream := fun (n : Nat) (out : List Flit) =>
    if out.length = 16 || (c.beat = n && !out.isEmpty) then sendRoom s (credSep c.cmd) out.length
    else decide (c.beat < n) || sendDrained s (credSep c.cmd)
  !engineBlocked s c.cmd (c.reach.1 ++ c.reach.2) && match c.kind with
  | .credWait .. => false
  | .credSend _ p out => stream (p.length / 64) out
  | .credHop _ _ _ p out =>
    if c.beat < p.length / 64 && (p.hops = 0 || out.length != 16) then (nextPayload s (·.isOf p.crid p.round)).isSome
    else p.hops = 0 || stream (p.length / 64) out
  | _ => true

/-- Is x served before y (R247)? -/
def Chan.before (w : Nat) (x y : Chan) : Bool :=
  let dx := cmdDeadline x.cmd
  let dy := cmdDeadline y.cmd
  if (dx = 0) != (dy = 0) then dx != 0
  else if dx != dy && untilWheel w dx != untilWheel w dy then decide (untilWheel w dx < untilWheel w dy)
  else if x.cmd.seq != y.cmd.seq then decide (x.cmd.seq < y.cmd.seq)
  else decide (x.cmd.strand.val < y.cmd.strand.val)

/-- The channel to serve. -/
def chooseChan (s : State) : Option Chan :=
  match s.core.copy.chans.filter (·.canMove s) with
  | [] => none
  | c :: cs => some (cs.foldl (fun b x => if x.before (seenWheel s) b then x else b) c)

/-- The channel's work moved on by one beat. -/
def setChan (s : State) (c : Chan) : State := s.modCopy fun e => { e with chans := mapChan c.cmd.handle (fun _ => c) e.chans }

/-- A beat of a copy of n beats: it moves, and ends after its last. -/
def copyBeat (s : State) (c : Chan) (n : Nat) (r : Except Nat State) : State :=
  match r with
  | .error st => copyFail s c.cmd st
  | .ok t => if c.beat + 1 = n then copyEnd t c.cmd c.feas stDone 0 else setChan t { c with beat := c.beat + 1 }

/-- A first core's beat: a message leaves, a beat is read, or the stream has been taken. -/
def sendBeat (s : State) (c : Chan) (src : Nat) (p : CredPacket) (out : List Flit) : State :=
  let n := p.length / 64
  if out.length = 16 || (c.beat = n && !out.isEmpty) then
    setChan (commitFlits s (credSep c.cmd) c.cmd.strand c.cmd.seq out) { c with kind := .credSend src p [] }
  else if c.beat < n then
    match (do let sp ← engAddrs s c.cmd .read (src + 64 * c.beat) 8
              engRead s sp) with
    | .error st => copyFail s c.cmd st
    | .ok ws => setChan s { c with kind := .credSend src p (out ++ [flitFrom ws false]), beat := c.beat + 1 }
  else copyEnd s c.cmd c.feas stDone 0

/-- The combined words of a hop's beat (R245, R151), written when DLV asks. -/
def hopWords (s : State) (c : Chan) (src dst : Nat) (op : BitVec 4) (f : Flit) : Except Nat (State × List Word × Bool) := do
  let k := op.toNat % 4
  let arr := flitWords f.data
  let bad := f.poison
  if bad && (op.getLsbD 3 || k = 1 || k = 2) then .error stPoison
  let zs ← if k = 1 || k = 2 then
      (do let sp ← engAddrs s c.cmd .read (src + 64 * c.beat) 8
          let ls ← engRead s sp
          .ok ((arr.zip ls).map fun z => combineWord (k = 2) (op.getLsbD 2) z.1 z.2))
    else .ok (arr.map fun w => (w, (0 : FFlags)))
  let s := cmdFlagsTo s c.cmd (zs.foldl (fun f z => f ||| z.2) 0)
  let ws := zs.map (·.1)
  if op.getLsbD 3 then do
    let dp ← engAddrs s c.cmd .write (dst + 64 * c.beat) 8
    .ok (engBeat s dp ws, ws, bad)
  else .ok (s, ws, bad)

/-- A hop's end (R515): the last core tells the final CMASK, PARTIAL when it is not complete. -/
def hopEnd (s : State) (c : Chan) (p : CredPacket) : State :=
  if p.hops = 0 then
    copyEnd s c.cmd c.feas (if p.cmask = 2 ^ (p.orig + 1) - 1 then stDone else stPartial) p.cmask
  else copyEnd s c.cmd c.feas stDone 0

/-- A hop's beat. A CRED that fails takes no more of its stream, and leaves its sender stopped by the window (R497). -/
def hopBeat (s : State) (c : Chan) (src dst : Nat) (op : BitVec 4) (p : CredPacket) (out : List Flit) : State :=
  let n := p.length / 64
  if p.hops != 0 && (out.length = 16 || (c.beat = n && !out.isEmpty)) then
    setChan (commitFlits s (credSep c.cmd) c.cmd.strand c.cmd.seq out) { c with kind := .credHop src dst op p [] }
  else if c.beat < n then
    match nextPayload s (·.isOf p.crid p.round) with
    | none => s
    | some x => match hopWords (takePayload s x) c src dst op x.2.2 with
    | .error st => copyFail s c.cmd st
    | .ok r =>
      setChan r.1 { c with
        kind := .credHop src dst op p (if p.hops = 0 then [] else out ++ [flitFrom r.2.1 r.2.2]), beat := c.beat + 1 }
  else hopEnd s c p

/-- One beat of a channel. -/
def chanBeat (s : State) (c : Chan) : State :=
  let t := startEntry s c.cmd.handle
  match c.kind with
  | .linear src dst len red =>
    copyBeat t c (beatCount len) (moveWords t c.cmd (src + 64 * c.beat) (dst + 64 * c.beat) (beatWords len c.beat) red.toNat)
  | .rows src dst sp dp rows len red =>
    let per := beatCount len
    let r := c.beat / per
    let b := c.beat % per
    copyBeat t c (rows * per) (moveWords t c.cmd (src + sp * r + 64 * b) (dst + dp * r + 64 * b) (beatWords len b) red.toNat)
  | .zero dst len =>
    copyBeat t c (beatCount len) (do
      let dp ← engAddrs t c.cmd .write (dst + 64 * c.beat) (beatWords len c.beat)
      .ok (engBeat t dp (dp.map fun _ => 0)))
  | .scrub src dst len => copyBeat t c (len / 64) (scrubBeat t c.cmd src dst c.beat)
  | .credSend src p out => sendBeat t c src p out
  | .credHop src dst op p out => hopBeat t c src dst op p out
  | .credWait .. => s

/-- R247: the beat of the channel to serve moves, once what it reaches is there (R196, R218, R538). -/
def execCopyEngineBeat (s : State) : Host.Outcome State Fault Refusal :=
  match chooseChan s with
  | some c =>
    match engineWait s c.cmd c.reach.1 c.reach.2, c.copied s with
    | some t, _ => done (kickCopy t)
    | none, some pa => done (kickCopy (needCopy s pa))
    | none, none => done (kickCopy (chanBeat (engineGo s c.cmd) c))
  | none => done (kickCopy s)

/-- A copy command whose code R303 does not list. -/
def copyIllegal (s : State) (c : EngCmd) : Host.Outcome State Fault Refusal := done (copyFail s c stIllcmd)

/-! ## SCAN (R406, R497) -/

/-- A memory-side command leaves its intake. -/
def dropMem (s : State) (h : Fin 128) : State := s.withCore fun c => { c with memIntake := c.memIntake.filter (·.handle != h) }

/-- Does an element qualify: strictly greater, no NaN? The comparison raises no flag, where R142 and R143 leave it open whether SCAN's does (DESIGN
CHOICE, log 58). -/
def scanHit (t : Ty) (th e : Nat) : Bool :=
  if t.isFloat then
    (let f := fmtOf t
     let x := unpack f e
     let y := unpack (if t = .f64 then fF32 else f) th
     !x.isNan && !y.isNan && cmpFin y x = .lt)
  else decide (intOf t th < intOf t e)

/-- The elements that qualify among count, with their indices; the first fault or poison ends the scan. -/
def scanFrom (s : State) (c : EngCmd) (t : Ty) (va th : Nat) : (n : Nat) → (i : Nat) → Except Nat (List (Nat × Nat))
  | 0, _ => .ok []
  | n + 1, i => do
    let bit := t.width * i
    let sp ← engAddrs s c .read (va + 8 * (bit / 64)) 1
    if home s (sp.headD 0) != .hbm then .error stHole
    let ws ← engRead s sp
    let e := (ws.headD 0).toNat / 2 ^ (bit % 64) % 2 ^ t.width
    let rest ← scanFrom s c t va th n (i + 1)
    .ok (if scanHit t th e then (i, e) :: rest else rest)

/-- Writes words at virtual addresses up to the first fault, and how many were written. -/
def engPut (s : State) (c : EngCmd) (va : Nat) : List Word → State × Nat × Option Nat
  | [] => (s, 0, none)
  | w :: ws =>
    match engAddrs s c .write va 1 with
    | .error st => (s, 0, some st)
    | .ok dp =>
      let r := engPut (engWrite s dp [w]) c (va + 8) ws
      (r.1, r.2.1 + 1, r.2.2)

/-- The types SCAN takes. -/
def scanTypes : List Nat := [2, 3, 6, 7, 8, 9, 10, 11]

/-- A SCAN that fails a field check. -/
def scanBad (s : State) (c : EngCmd) : Bool :=
  fld c.w0 31 30 != 0 || cmdFlags c != 0 || cmdBfmt c != 0 || cmdCfmt c != 0 || !scanTypes.contains (cmdAfmt c) ||
  fld c.w1 63 48 = 0 || fld c.w1 47 43 != 0 || addrBad c.w2 ||
  outsideHbm s c (fld c.w1 42 0) ((tyOf (cmdAfmt c)).width / 8 * fld c.w3 31 0)

/-- The scan's header, whose second word the manual does not state (log 22), and its first KMAX records. -/
def scanWords (open_ : Word) (kmax : Nat) (hits : List (Nat × Nat)) : List Word :=
  [word hits.length, open_] ++ (hits.take kmax).flatMap fun h => [word h.1, word h.2]

/-- The lines a scan reads. -/
def scanLines (c : EngCmd) : List Nat :=
  (List.range ((fld c.w3 31 0 * (tyOf (cmdAfmt c)).width / 8 + 63) / 64)).map fun i => fld c.w1 42 0 + 64 * i

/-- R406, R229: the units of its lines are served, then the scan is made as one act, and its results take theirs; a fault leaves what was
written before it (R463), which takes its units too. -/
def execScan (c : EngCmd) (s : State) : Host.Outcome State Fault Refusal :=
  match firstFail (scanBad s c) (fld c.w1 42 0 % 64 != 0 || fld c.w2 42 0 % 16 != 0) false with
  | some st => done (completeAt (dropMem s c.handle) (s.now + 2) c.handle st)
  | none =>
    match engineWait s c (scanLines c) [] with
    | some t => done (t.at (t.now + 1) (.command c))
    | none =>
    let t := dropMem (engineGo (startEntry s c.handle) c) c.handle
    match scanFrom s c (tyOf (cmdAfmt c)) (fld c.w1 42 0) (fld c.w3 63 32) (fld c.w3 31 0) 0 with
    | .error st => done (completeAt t (s.now + 2) c.handle st)
    | .ok hits =>
      let ws := scanWords (Config.freeWord t.fresh) (fld c.w1 63 48) hits
      match copyFirst s c (wordSpan (fld c.w2 42 0) ws.length) with
      | some pa => done ((needCopy (startEntry s c.handle) pa).at (s.now + 1) (.command c))
      | none =>
        let r := engPut { t with fresh := t.fresh + 1 } c (fld c.w2 42 0) ws
        let u := engineUnits r.1 c [] (wordSpan (fld c.w2 42 0) r.2.1)
        match r.2.2 with
        | some st => done (completeAt u (s.now + 2) c.handle st)
        | none => done (u.later none (.completion c.handle ⟨if fld c.w1 63 48 < hits.length then 1 else 0, 0, 0⟩))

/-- A memory-side command whose code R303 does not list. -/
def memIllegal (s : State) (c : EngCmd) : Host.Outcome State Fault Refusal :=
  done (completeAt (dropMem s c.handle) (s.now + 2) c.handle stIllcmd)

end Sys2Proof.Machine
end

