-- ==== Sys2Proof/Machine/Exchange.lean ====
section
/-! DEFINITION. The phased exchange (R230-R243, R407, R453, R516-R519) as one package sees it: posts at the hub, Owl's grants, phases and
calendars, XRUN with its lists, records sent and arriving, moved records and the second round, and the handles. Rows of other
packages and records from them come from the outside (log 23). -/

namespace Sys2Proof.Machine

/-! ## Rounds at the hub -/

/-- The second round of a first one (R241). -/
def secondOf (r : BitVec 16) : BitVec 16 := r ||| 0x8000
def firstOf (r : BitVec 16) : BitVec 16 := r &&& 0x7FFF
def isSecond (r : BitVec 16) : Bool := r.getLsbD 15

def Round.fresh (r : BitVec 16) : Round :=
  ⟨r, false, 0, 0, none, List.replicate 64 0, 0, [], [], none, false, none, none, List.replicate 64 0, List.replicate 64 0, [], 0, [], [], 0⟩

def findRound (s : State) (r : BitVec 16) : Option Round := s.hub.rounds.find? (·.round = r)

/-- Changes a round, listing it first when it is not there. -/
def modRound (s : State) (r : BitVec 16) (f : Round → Round) : State :=
  let base := (findRound s r).getD (Round.fresh r)
  s.withHub fun h => { h with rounds := h.rounds.filter (·.round != r) ++ [f base] }

/-- RSIZE of a round. -/
def rsizeOf (rcode : BitVec 4) : Nat := rsize rcode.toNat

/-- A list with n added at place i. -/
def addAt (xs : List Nat) (i n : Nat) : List Nat := xs.set i (xs.getD i 0 + n)

/-- Records demanded per destination by a demand post. -/
def postRecords (p : Post) : List Nat :=
  (List.range 64).map fun i => p.bytes.getD i 0 / rsizeOf p.rcode

/-- Fills handles with a status, when their operation was a post of this core. -/
def fillPosts (s : State) (hs : List (Fin 128)) (st : Nat) : State := hs.foldl (fun s h => completeAt s (s.now + 1) h st) s

/-- The ROUND record (R499). -/
def roundRecord (s : State) (reason : Nat) (r : BitVec 16) (fn : Nat) : State :=
  fabricRecord s 0x0709 (reason * 2 ^ 16 + r.toNat) (word (pkgNo s)) fn

/-- The function a post concerns. -/
def postFunc (s : State) (p : Post) : Nat := if p.handle.isSome then s.func else 16

/-- A post differs in CLOSE, RCODE or BUF from what the hub took (R516). -/
def postDiffers (r : Round) (p : Post) : Bool :=
  r.counted && (r.close != p.close.toNat || r.rcode != p.rcode ||
    (p.cap && (match r.buf with | some b => b != p.buf.toNat | none => false)))

/-- The hub counts a post (R231). -/
def countPost (s : State) (p : Post) : State :=
  let hs := p.handle.toList
  let first := !((findRound s p.round).map (·.counted)).getD false
  let s := hs.foldl startEntry s
  let s := modRound s p.round fun r =>
    let r := { r with counted := true, close := p.close.toNat, rcode := p.rcode }
    if p.cap then
      { r with buf := some (r.buf.getD p.buf.toNat), cap := r.cap + p.room, capHandles := r.capHandles ++ hs }
    else { r with demand := List.zipWith (· + ·) r.demand (postRecords p), demHandles := r.demHandles ++ hs }
  if first then
    (s.at (256 * p.close.toNat) (.roundClose p.round)).at (256 * (p.close.toNat + 32)) (.calendarTimeout p.round)
  else s

/-- R231, R516. -/
def execPostArrive (p : Post) (s : State) : Host.Outcome State Fault Refusal :=
  if p.close.toNat ≤ s.wheel then done (fillPosts s p.handle.toList stLate)
  else
    match findRound s p.round with
    | some r =>
      if postDiffers r p then done (fillPosts (roundRecord s 1 p.round (postFunc s p)) p.handle.toList stIllcmd)
      else done (countPost s p)
    | none => done (countPost s p)

/-! ## The row goes to Owl (R231, R237) -/

/-- Phase 0 starts 8 wheels after CLOSE, or after the wheel a failover begins (R235, R243). -/
def ownRow (s : State) (r : Round) (from_ : Nat) : OwlRow :=
  ⟨r.round, pkgNo s, r.close, r.rcode, r.demand, r.cap, from_ + 8, from_⟩

/-- The hub holds a domain's active Owl: the Owls of every package but 0 stay idle (R49). -/
def owlRuns (s : State) : Bool := s.hub.owlActive && pkgNo s = 0

/-- The last cycle of the wheel 4 after CLOSE (or after T), by which Owl uses the rows that reached it and holds the calendar (R237, R243, R516). -/
def formAt (lead : OwlRow) : Nat := 256 * (lead.start - 4) + 255

/-- Sends the row and entry; seen here when this package's hub holds the active Owl, which forms the calendar within 4 wheels of CLOSE. A row
already with this Owl is not used twice (R243). -/
def sendRow (s : State) (r : Round) (from_ : Nat) : State :=
  if owlRuns s && !s.hub.rows.any (fun x => x.round = r.round && x.pkg = pkgNo s && x.close = r.close) then
    (s.withHub fun h => { h with rows := h.rows ++ [ownRow s r from_] }).atOnce (formAt (ownRow s r from_)) (.owlCalendar r.round [])
  else s

/-- R231. -/
def execRoundClose (round : BitVec 16) (s : State) : Host.Outcome State Fault Refusal :=
  match findRound s round with
  | some r => done (if r.counted then sendRow s r r.close else s)
  | none => done s

/-! ## Owl (R233-R237, R516) -/

/-- Owl uses the first row it receives for CLOSE and RCODE; a row that differs or came past CLOSE + 4 counts as zero. -/
def rowUsed (lead x : OwlRow) : Bool := x.close = lead.close && x.rcode = lead.rcode && decide (x.arrive ≤ lead.start - 4)

/-- Grants of one column (R233): demand by package, ascending. -/
def grantColumn (cap : Nat) (ds : List (Nat × Nat)) : List (Nat × Nat) :=
  if (ds.map (·.2)).foldl (· + ·) 0 ≤ cap then ds
  else
    let n := (ds.filter fun d => 0 < d.2).length
    let base := ds.map fun d => (d.1, d.2, min d.2 (cap / n))
    let left := cap - (base.map (·.2.2)).foldl (· + ·) 0
    (base.foldl (fun (a : Nat × List (Nat × Nat)) d =>
      let add := min a.1 (d.2.1 - d.2.2)
      (a.1 - add, a.2 ++ [(d.1, d.2.2 + add)])) (left, [])).2

/-- Rows by ascending package. -/
def insertRow (x : OwlRow) : List OwlRow → List OwlRow
  | [] => [x]
  | y :: ys => if x.pkg ≤ y.pkg then x :: y :: ys else y :: insertRow x ys

/-- The grant matrix, nonzero entries. -/
def grantMatrix (rows : List OwlRow) : List ((Nat × Nat) × Nat) :=
  let rs := rows.foldr insertRow []
  (List.range 64).flatMap fun c =>
    let cap := ((rs.find? (·.pkg = c)).map (·.cap)).getD 0
    ((grantColumn cap (rs.map fun r => (r.pkg, r.demand.getD c 0))).filter fun g => g.2 != 0).map fun g => ((g.1, c), g.2)

/-- Sum of row r of a quanta list. -/
def quantaSum (q : List ((Nat × Nat) × Nat)) (r : Nat) : Nat := ((q.filter fun x => x.1.1 = r).map (·.2)).foldl (· + ·) 0

/-- Rows with anything left, by sum descending and package ascending. -/
def insertBySum (q : List ((Nat × Nat) × Nat)) (r : Nat) : List Nat → List Nat
  | [] => [r]
  | y :: ys =>
    if quantaSum q y < quantaSum q r || (quantaSum q r = quantaSum q y && r < y) then r :: y :: ys
    else y :: insertBySum q r ys

def rowOrder (q : List ((Nat × Nat) × Nat)) : List Nat :=
  ((List.range 64).filter fun r => 0 < quantaSum q r).foldr (insertBySum q) []

/-- The column row r takes: the largest quanta among free columns, ties by lowest. -/
def pickColumn (q : List ((Nat × Nat) × Nat)) (taken : List Nat) (r : Nat) : Option (Nat × Nat) :=
  let free := (List.range 64).filterMap fun c =>
    if taken.contains c then none
    else match q.find? (fun x => x.1 = (r, c)) with
      | some x => if x.2 = 0 then none else some (c, x.2)
      | none => none
  match free with
  | [] => none
  | x :: xs => some (xs.foldl (fun b y => if b.2 < y.2 then y else b) x)

/-- The pairs of one phase, with their quanta. -/
def phasePairs (q : List ((Nat × Nat) × Nat)) : List ((Nat × Nat) × Nat) :=
  ((rowOrder q).foldl (fun (a : List Nat × List ((Nat × Nat) × Nat)) r =>
    match pickColumn q a.1 r with
    | some x => (x.1 :: a.1, a.2 ++ [((r, x.1), x.2)])
    | none => a) ([], [])).2

/-- R234: the phases; every phase empties at least one entry. -/
def phasesOf : (fuel : Nat) → List ((Nat × Nat) × Nat) → List (List (Nat × Nat) × Nat)
  | 0, _ => []
  | n + 1, q =>
    match phasePairs q with
    | [] => []
    | p :: ps =>
      let len := ps.foldl (fun m x => min m x.2) p.2
      let on := (p :: ps).map (·.1)
      (on, len) :: phasesOf n (q.map fun x => if on.contains x.1 then (x.1, x.2 - len) else x)

/-- Span and pitch of a phase (R235). -/
def phaseSpan (len : Nat) : Nat := max 1 ((len * 4096 + 262143) / 262144)
def phasePitch (xgap len : Nat) : Nat := phaseSpan len + (phaseSpan len + 15) / 16 + xgap

/-- Phases with their start wheels, and the wheel in which the round ends. -/
def placePhases (xgap : Nat) : (start : Nat) → List (List (Nat × Nat) × Nat) → List Phase × Nat
  | start, [] => ([], start)
  | start, p :: ps =>
    let r := placePhases xgap (start + phasePitch xgap p.2) ps
    (⟨p.1, p.2, start⟩ :: r.1, r.2)

/-- The calendar Owl forms from its rows (R233-R235, R516). -/
def formCalendar (xgap : Nat) (lead : OwlRow) (rows : List OwlRow) : Calendar :=
  let used := rows.filter (rowUsed lead)
  let g := grantMatrix used
  let q := g.map fun x => (x.1, (x.2 * rsizeOf lead.rcode + 4095) / 4096)
  let ps := placePhases xgap lead.start (phasesOf q.length q)
  ⟨lead.round, lead.rcode, g, ps.1, ps.2, used.foldl (fun m x => m ||| (BitVec.ofNat 64 (2 ^ x.pkg))) 0⟩

/-- A calendar of the round was formed, and its phase 0 has not begun: a row that comes now is used no more (R243, R516). -/
def roundFormed (s : State) (round : BitVec 16) : Bool := s.hub.formed.any fun p => p.1 = round && decide (s.wheel < p.2)

/-- Wheels of a phase: from its start for its span and the sixteenth of slack (R235). -/
def phaseWheels (p : Phase) : List Nat := (List.range (phasePitch 0 p.quanta)).map fun i => p.start + i

/-- The circuit permutations of a calendar, which every plane takes from the active Owl in slot 131 (R51, R237). -/
def calendarPerms (c : Calendar) : List PlanePerm :=
  c.phases.flatMap fun p => (phaseWheels p).map fun w => ⟨w, p.pairs⟩

/-- Owl forms the calendar of a round from the rows that reached it and delivers it: to the hubs at a time left open before phase 0 (log 3), to the
planes' control agents in slot 131 of one of the wheels before it (R51, R237). -/
def formRound (s : State) (lead : OwlRow) (all : List OwlRow) : State :=
  let cal := formCalendar (fld (hubGet s rSyscfg) 57 54) lead all
  let t := (all.filter fun r => !rowUsed lead r).foldl (fun s _ => roundRecord s 2 lead.round 16) s
  let t := t.withHub fun h => { h with
    rows := h.rows.filter (·.round != lead.round),
    formed := (h.formed.filter fun p => p.1 != lead.round && decide (s.wheel < p.2)) ++ [(lead.round, lead.start)] }
  let t := t.later (some (256 * lead.start - s.now - 1)) (.calendarArrive cal)
  let w := s.wheel + 1 + Config.freeDelay t.fresh % (lead.start - s.wheel - 1)
  if (calendarPerms cal).isEmpty then t
  else { t with fresh := t.fresh + 1 }.at (256 * w + 131) (.planesSet (calendarPerms cal))

/-- R233-R237, R243, R516: rows lists what other packages' hubs sent, in the order received; this package's own row stands first. Rows that come
before the calendar is due wait with the Owl; one calendar is formed of a round, and a row that comes after it, or comes first and late, is used
in none. A silent Owl forms none. -/
def execOwlCalendar (round : BitVec 16) (rows : List OwlRow) (s : State) : Host.Outcome State Fault Refusal :=
  let rows := rows.filter fun r => r.round = round && r.pkg < 64
  let all := s.hub.rows.filter (·.round = round) ++ rows
  match all with
  | [] => done s
  | lead :: _ =>
    if !owlRuns s || !s.hub.owlUp then done s
    else if roundFormed s round || lead.start ≤ s.wheel + 1 then
      done ((rows.foldl (fun s _ => roundRecord s 2 round 16) s).withHub fun h => { h with rows := h.rows.filter (·.round != round) })
    else if s.now < formAt lead then
      done ((s.withHub fun h => { h with rows := h.rows ++ rows }).atOnce (formAt lead) (.owlCalendar round []))
    else done (formRound s lead all)

/-! ## Heartbeats and failover (R243, R517) -/

/-- R243. -/
def execOwlHeartbeat (s : State) : Host.Outcome State Fault Refusal := done (s.withHub fun h => { h with heartbeat := s.wheel })

/-- A round whose row must go to the new Owl. -/
def Round.awaits (r : Round) (w : Nat) : Bool := r.counted && r.cal.isNone && !r.lapsed && r.close ≤ w

/-- The standby has heard no heartbeat for 2 wheels. -/
def standbyDue (s : State) : Bool := owlRuns s && s.hub.owlStandby && decide (s.hub.heartbeat + 2 ≤ s.wheel)

/-- R243: the standby has heard nothing for 2 wheels, so it becomes active at the first slot of the next wheel T. -/
def execOwlFailover (s : State) : Host.Outcome State Fault Refusal :=
  done (if standbyDue s then s.atOnce (256 * (s.wheel + 1)) .owlTakeover else s)

/-- What an Owl that has fallen silent has not delivered: calendars it was to form or to send (R237, R243). -/
def undelivered (s : State) : State :=
  dropActs s fun a => match a with | .owlCalendar .. | .calendarArrive _ | .planesSet _ => true | _ => false

/-- R243: at the first slot of wheel T the standby is the active Owl, the rows and calendars the old one held are lost with it, and every hub
sends the row and entry of each round whose calendar it has not received. -/
def execOwlTakeover (s : State) : Host.Outcome State Fault Refusal :=
  if !standbyDue s then done s
  else
    let t := (undelivered s).withHub fun h => { h with
      owlStandby := false, owlUp := true, heartbeat := s.wheel, rows := [], formed := [] }
    done ((t.hub.rounds.filter (·.awaits s.wheel)).foldl (fun u r => sendRow u r s.wheel) t)

/-- What the Owls do as a wheel ends: the active one's heartbeat of the next wheel, or, when it is silent, the standby's failover (R243, R517). -/
def owlWheel (s : State) : State :=
  if !owlRuns s then s
  else if s.hub.owlUp then s.withHub fun h => { h with heartbeat := s.wheel + 1 }
  else if standbyDue s then s.atOnce (s.now + 1) .owlTakeover
  else s

/-! ## Grants of a pair -/

end Sys2Proof.Machine

namespace Sys2Proof

open Sys2Proof.Machine

def Calendar.grant (c : Calendar) (r d : Nat) : Nat := ((c.grants.find? (·.1 = (r, d))).map (·.2)).getD 0

/-- Records granted to a destination by sources below n. -/
def Calendar.below (c : Calendar) (n d : Nat) : Nat :=
  ((c.grants.filter fun g => g.1.1 < n && g.1.2 = d).map (·.2)).foldl (· + ·) 0

/-- Records of a pair carried by phases before phase i, and by phase i (R236). -/
def Calendar.bytesUpTo (c : Calendar) (r d : Nat) : (phases : List Phase) → Nat
  | [] => 0
  | ps =>
    let total := ((ps.filter fun p => p.pairs.contains (r, d)).map fun p => p.quanta * 4096).foldl (· + ·) 0
    min total (c.grant r d * rsizeOf c.rcode)

def Calendar.firstIn (c : Calendar) (r d i : Nat) : Nat := c.bytesUpTo r d (c.phases.take i) / rsizeOf c.rcode

end Sys2Proof

namespace Sys2Proof.Machine

/-! ## XRUN's lists (R238, R519) -/

/-- The first fault met is the one reported. -/
def noteFault (s : State) (r : BitVec 16) (st : Nat) : State :=
  modRound s r fun x => if x.fault = 0 then { x with fault := st } else x

/-- n words at a virtual address, for an engine, which poison stops (R476). -/
def engWords (s : State) (c : EngCmd) (va n : Nat) : Except Nat (List Word) := do
  let sp ← engAddrs s c .read va n
  if sp.any (poisoned s) then .error stPoison else .ok (sp.map (wordAt s))

/-- The exchange engine's units of HBM for words at virtual addresses, in the class of the queue of its XRUN (R218, R219). -/
def xchgUnits (s : State) (c : EngCmd) (vas : List Nat) : State :=
  askLines { s with ticket := s.ticket + 1 } s.ticket (some c.handle) (loadClass s) false (vas.filterMap fun va =>
    match engineXlat s (va % 2 ^ 43) .read (!c.kernel) with | .ok pa => some pa | .error _ => none)

/-- Reads the 64 descriptors, one at a time. -/
def readLists (s : State) (round : BitVec 16) (c : EngCmd) : State :=
  let rs := (List.range 64).map fun i => engWords s c (fld c.w1 42 0 + 16 * i) 2
  let ls := rs.map fun r => match r with
    | .ok ws => (⟨fld (ws.headD 0) 42 0, fld (ws.getD 1 0) 31 0, true⟩ : XList)
    | .error _ => ⟨0, 0, false⟩
  let s := rs.foldl (fun s r => match r with | .error st => noteFault s round st | .ok _ => s) s
  modRound (startEntry (xchgUnits s c (wordSpan (fld c.w1 42 0) 128)) c.handle) round fun x => { x with lists := some ls }

/-- Reads the lists of a round's XRUN when it has come and they have not been read. -/
def readListsOf (s : State) (round : BitVec 16) : State :=
  match findRound s round with
  | some r => (match r.run, r.lists with
    | some c, none => readLists s round c
    | _, _ => s)
  | none => s

def Round.list (r : Round) (d : Nat) : XList := (r.lists.getD []).getD d ⟨0, 0, false⟩

/-- A record of a list. -/
def readRecord (s : State) (c : EngCmd) (l : XList) (i : Nat) : Except Nat (Vector Word 4) := do
  let ws ← engWords s c (l.va + 32 * i) 4
  .ok (Vector.ofFn fun k => ws.getD k.val 0)

/-- A record R497 does not send. -/
def recordBad (rs : Nat) (x : Vector Word 4) : Bool :=
  fld x[0] 63 43 != 0 || fld x[1] 63 23 != 0 || rs - 16 < fld x[1] 15 0

/-- The payload as whole words, zero past LEN, and the 64-byte flits of the message that read poison. -/
def payload (s : State) (c : EngCmd) (x : Vector Word 4) (rs : Nat) : Except Nat (List Word × List Nat) := do
  let va := fld x[0] 42 0
  let len := fld x[1] 15 0
  let pas ← (List.range len).foldr (fun i r => do
      let rest ← r
      match engineXlat s ((va + i) % 2 ^ 43) .read (!c.kernel) with
      | .ok pa => .ok (pa :: rest)
      | .error st => .error st.toNat) (.ok [])
  let bytes := pas.map (byteAt s)
  let words := (List.range (rs / 8 - 2)).map fun k =>
    word (((List.range 8).foldr (fun j a => (bytes.getD (8 * k + j) 0).toNat + 256 * a) 0))
  let bad := ((pas.zip (List.range len)).filter fun p => poisoned s p.1).map fun p => (16 + p.2) / 64
  .ok (words, bad.eraseDups)

/-- The message of a record (R239). -/
def message (s : State) (second : Bool) (index : Nat) (x : Vector Word 4) (body : List Word) : List Word :=
  x[2] :: setFld x[3] 31 0 (pkgNo s * 2 ^ 26 + (if second then 2 else 1) * 2 ^ 24 + index % 2 ^ 24) :: body

/-! ## Records arriving (R52, R236, R241) -/

/-- The place in the buffer of a record of source r, in records. -/
def recordPlace (s : State) (round : BitVec 16) (cal : Calendar) (src index : Nat) : Nat :=
  let me := pkgNo s
  let before := if isSecond round then
      (match findRound s (firstOf round) with
       | some b => (match b.cal with | some c1 => c1.below 64 me | none => 0)
       | none => 0)
    else 0
  before + cal.below src me + index

/-- Granted to this package over both rounds, once the second calendar has come. -/
def grantedBoth (s : State) (base : BitVec 16) : Option Nat :=
  match (findRound s base).bind (·.cal), (findRound s (secondOf base)).bind (·.cal) with
  | some c1, some c2 => some (c1.below 64 (pkgNo s) + c2.below 64 (pkgNo s))
  | _, _ => none

/-- R453: the capacity handles complete when every record granted has arrived and its write has been served, and the second calendar is
known; while a write is at its controller the hub looks again in the next cycle. -/
def capacityCheck (s : State) (base : BitVec 16) : State :=
  match findRound s base, grantedBoth s base with
  | some r, some n =>
    if n ≤ r.arrived && !r.capHandles.isEmpty then
      if r.writes.any (hbmPending s) then s.atOnce (s.now + 1) (.capacityAck base)
      else fillPosts (modRound s base fun x => { x with capHandles := [] }) r.capHandles stDone
    else s
  | _, _ => s

/-- Marks the granules of poisoned flits. -/
def markFlits (s : State) (pa : Nat) (bad : List Nat) : State := bad.foldl (fun s i => markPoison s (pa + 64 * i)) s

/-- Clears the poison of granules written whole (R476). -/
def clearFlits (s : State) (pa n : Nat) : State := (List.range n).foldl (fun s i => clearGranule s (pa + 64 * i)) s

/-- A record of another package is an input of the core's partition, which the jay logs (R285). -/
def logArrival (s : State) (x : XRecord) (pa : Nat) (ws : List Word) : State :=
  if x.src = pkgNo s || s.core.cell.isNone then s else jayLog s s.part 2 (8 * ws.length) (word pa) ws

/-- A record is written to BUF. -/
def recordArrive (s : State) (x : XRecord) : State :=
  let base := firstOf x.round
  match findRound s base, (findRound s x.round).bind (·.cal) with
  | some r, some cal =>
    match r.buf with
    | some buf =>
      let rs := rsizeOf cal.rcode
      let pa := buf + rs * recordPlace s x.round cal x.src x.index
      let ws := x.words.take (rs / 8)
      let s := logArrival s x pa ws
      let n := s.ticket
      let s := askLines { s with ticket := n + 1 } n none (loadClass s) true ((List.range (rs / 64)).map fun i => pa + 64 * i)
      let t := engWrite (clearFlits s pa (rs / 64)) ((List.range ws.length).map fun i => pa + 8 * i) ws
      let t := markFlits t pa x.bad
      capacityCheck (modRound t base fun y => { y with arrived := y.arrived + 1, writes := y.writes ++ [n] }) base
    | none => s
  | _, _ => s

/-! ## Sending (R236, R239, R240) -/

/-- Sends one record, unless R497 or a fault forbids it. What goes to another package is kept as it left (R454). -/
def sendRecord (s : State) (round : BitVec 16) (cal : Calendar) (c : EngCmd) (d index : Nat) (x : Except Nat (Vector Word 4)) :
    State :=
  let base := firstOf round
  let rs := rsizeOf cal.rcode
  match x with
  | .error st => noteFault s base st
  | .ok x =>
    if recordBad rs x then s
    else match payload s c x rs with
      | .error st => noteFault s base st
      | .ok p =>
        let t := xchgUnits s c (wordSpan (fld x[0] 42 0) ((fld x[1] 15 0 + 7) / 8))
        let t := modRound t base fun r => { r with sent := addAt r.sent d 1 }
        let m : XRecord := ⟨round, pkgNo s, index, message s (isSecond round) index x p.1, p.2⟩
        if d = pkgNo s then recordArrive t m else modRound t base fun r => { r with out := r.out ++ [(d, m)] }

/-- Record i for destination d: of the list as it lies, or among the moved ones in the second round. -/
def recordFor (s : State) (r : Round) (second : Bool) (c : EngCmd) (d i : Nat) : Option (Except Nat (Vector Word 4)) :=
  if second then ((r.moved.filter (·.1 = d))[i]?).map fun m => .ok m.2
  else if i < (r.list d).count && i < r.demand.getD d 0 then some (readRecord s c (r.list d) i) else none

/-- A record for another package leaves on all 16 ports at once, so every one of them must be locked (R52, R506, log 23). -/
def portsCarry (s : State) (d : Nat) : Bool := d = pkgNo s || s.fab.ports.toList.all fun p => p.lock = 2

/-- The records of one phase for one destination; without the ports they stay unsent, and count as residue (R518). -/
def sendPhase (s : State) (round : BitVec 16) (cal : Calendar) (i d : Nat) : State :=
  let me := pkgNo s
  let lo := cal.firstIn me d i
  let hi := cal.firstIn me d (i + 1)
  if !portsCarry s d then s
  else (List.range (hi - lo)).foldl (fun s k =>
    match findRound s (firstOf round) with
    | some r =>
      (match r.run, r.lists with
       | some c, some _ =>
         (match recordFor s r (isSecond round) c d (lo + k) with
          | some x => sendRecord (if isSecond round then s else xchgUnits s c (wordSpan ((r.list d).va + 32 * (lo + k)) 4)) round cal c d (lo + k) x
          | none => s)
       | _, _ => s)
    | none => s) s

/-- A live record of another package is none of a replaying partition's inputs (R286). -/
def notLive (s : State) (x : XRecord) : Bool := x.src != pkgNo s && s.core.cell.isSome && replays s s.part

/-- R52, R236; a port that is not locked discards what comes (R506). -/
def execExchangeRecordArrive (x : XRecord) (s : State) : Host.Outcome State Fault Refusal :=
  done (if portsCarry s x.src && !notLive s x then recordArrive s x else s)

/-! ## XRUN ends (R242, R453, R519) -/

/-- Residue of list c over both rounds. -/
def residueOf (r : Round) (c : Nat) : Nat :=
  let listed := if (r.list c).read then (r.list c).count else r.demand.getD c 0
  listed + (r.moved.filter (·.1 = c)).length - r.movedOut.getD c 0 - r.sent.getD c 0

/-- The result record's words. -/
def resultWords (r : Round) (granted : Nat → Nat) : List Word :=
  (List.range 64).flatMap fun c =>
    [word (granted c * 2 ^ 32 + r.sent.getD c 0), word (r.movedOut.getD c 0 * 2 ^ 32 + residueOf r c)]

/-- The result record is written and the handle completes once all is acknowledged. -/
def xrunFinish (s : State) (base : BitVec 16) (residue : Bool) : State :=
  match findRound s base with
  | some r =>
    (match r.run with
     | some c =>
       let me := pkgNo s
       let gr := fun (o : Option Calendar) (d : Nat) => match o with | some k => k.grant me d | none => 0
       let c2 := (findRound s (secondOf base)).bind (·.cal)
       let ws := resultWords r fun d => gr r.cal d + gr c2 d
       let t := engWrite s ((List.range 128).map fun i => tcmPa s.core.gcore (fld c.w2 17 0 + 8 * i)) ws
       let left := residue || (List.range 64).any fun d => residueOf r d != 0
       let st := if r.fault != 0 then r.fault else if left then stPartial else stDone
       (modRound t base fun x => { x with run := none }).later none (.completion c.handle ⟨BitVec.ofNat 8 st, 0, 0⟩)
     | none => s)
  | none => s

/-- Has every phase of a calendar in which this package sends begun? -/
def sendsBegun (s : State) (cal : Calendar) : Bool :=
  cal.phases.all fun p => !(p.pairs.any fun x => x.1 = pkgNo s) || decide (256 * p.start ≤ s.now)

/-- XRUN completes when both calendars have come, the lists have been read and every phase of this package's has been served. -/
def xrunCheck (s : State) (base : BitVec 16) : State :=
  match findRound s base, (findRound s (secondOf base)).bind (·.cal) with
  | some r, some c2 =>
    if r.run.isSome && r.lists.isSome && sendsBegun s c2 then xrunFinish s base false else s
  | _, _ => s

/-- A command leaves the exchange engine's intake. -/
def dropXchg (s : State) (h : Fin 128) : State := s.withCore fun c => { c with xchgIntake := c.xchgIntake.filter (·.handle != h) }

/-- An XRUN that fails a field check (R407, R497). -/
def xrunBad (s : State) (c : EngCmd) : Bool :=
  let round := c.w3.extractLsb' 48 16
  fld c.w0 63 8 != 0 || addrBad c.w1 || fld c.w2 63 18 != 0 || fld c.w3 47 0 != 0 || isSecond round ||
  0x20000 < fld c.w2 17 0 + 1024 || ((findRound s round).map (fun r => r.run.isSome || r.lists.isSome)).getD false

/-- R238, R407: the lists are read at the first slot of phase 0, or now when that has passed. -/
def execXrun (c : EngCmd) (s : State) : Host.Outcome State Fault Refusal :=
  let u := dropXchg s c.handle
  match firstFail (xrunBad s c) (c.w1.toNat % 16 != 0 || c.w2.toNat % 8 != 0) false with
  | some st => done (completeAt u (s.now + 2) c.handle st)
  | none =>
    let round := c.w3.extractLsb' 48 16
    let t := modRound u round fun r => { r with run := some c }
    match (findRound t round).map fun r => (r.lapsed, r.cal, r.close) with
    | some (true, _, _) => done (xrunFinish (readLists t round c) round true)
    | some (_, some cal, close) =>
      let first := (cal.phases.head?.map (·.start)).getD (max cal.ends (close + 8))
      done (if 256 * first ≤ s.now then xrunCheck (readLists t round c) round else t)
    | _ => done t

/-- An exchange command whose code R303 does not list. -/
def xchgIllegal (s : State) (c : EngCmd) : Host.Outcome State Fault Refusal :=
  done (completeAt (dropXchg s c.handle) (s.now + 2) c.handle stIllcmd)

/-! ## Calendars and phases (R232, R236-R241, R516) -/

/-- The acts a calendar sets going. -/
def calendarActs (s : State) (c : Calendar) : State :=
  let s := (c.phases.zip (List.range c.phases.length)).foldl
    (fun s p => s.at (256 * p.1.start) (.exchangePhaseStart c.round p.2)) s
  if isSecond c.round then s.at (256 * (c.ends + 8)) (.capacityPostTimeout c.round)
  else s.at (256 * c.ends) (.secondRoundPost c.round)

/-- A hub that counted a post and was not used. -/
def notUsed (s : State) (r : Round) (c : Calendar) : Bool := r.counted && !c.used.getLsbD (pkgNo s)

/-- All 16 planes set the same permutations (R51). -/
def setPerms (s : State) (ps : List PlanePerm) : State :=
  s.withFab fun x => { x with perms := vmap (fun old => ps ++ old.filter fun p => !ps.any (·.wheel = p.wheel)) x.perms }

/-- R232, R237, R516; ignored once the round is over (R517). -/
def execCalendarArrive (c : Calendar) (s : State) : Host.Outcome State Fault Refusal :=
  let r := (findRound s c.round).getD (Round.fresh c.round)
  if r.lapsed || r.cal.isSome then done s
  else
    let bad := notUsed s r c
    let t := if bad then roundRecord s 2 c.round 16 else s
    let t := fillPosts t r.demHandles (if bad then stLate else stDone)
    let t := if bad then fillPosts t r.capHandles stLate else t
    let t := modRound t c.round fun x =>
      { x with cal := some c, demHandles := [], capHandles := if bad then [] else x.capHandles,
               rcode := c.rcode }
    let t := calendarActs t c
    done (xrunCheck (capacityCheck t (firstOf c.round)) (firstOf c.round))

/-- R236, R238-R240: the lists are read at the first slot of phase 0 of the first round. -/
def execExchangePhaseStart (round : BitVec 16) (phase : Nat) (s : State) : Host.Outcome State Fault Refusal :=
  let t := if phase = 0 && !isSecond round then readListsOf s round else s
  match (findRound t round).bind (·.cal) with
  | some cal =>
    let ds : List Nat := match cal.phases[phase]? with
      | some p => (p.pairs.filter fun (x : Nat × Nat) => x.1 = pkgNo t).map (fun (x : Nat × Nat) => x.2)
      | none => []
    done (xrunCheck (ds.foldl (fun s d => sendPhase s round cal phase d) t) (firstOf round))
  | none => done t

/-! ## The second round (R240, R241) -/

/-- Moves the records past list d's grant that name a fallback; each is read (R219). -/
def moveRecords (s : State) (base : BitVec 16) (cal : Calendar) (d : Nat) : State :=
  match findRound s base with
  | some r =>
    (match r.run, r.lists with
     | some c, some _ =>
       let g := cal.grant (pkgNo s) d
       let hi := min (r.list d).count (r.demand.getD d 0)
       (List.range (hi - g)).foldl (fun s k =>
         let s := xchgUnits s c (wordSpan ((r.list d).va + 32 * (g + k)) 4)
         match readRecord s c (r.list d) (g + k) with
         | .error st => noteFault s base st
         | .ok x =>
           if recordBad (rsizeOf cal.rcode) x || !(x[1]).getLsbD 22 then s
           else modRound s base fun y =>
             { y with moved := y.moved ++ [(fld x[1] 21 16, x)], movedOut := addAt y.movedOut d 1 }) s
     | _, _ => s)
  | none => s

/-- R241: at the first round's end every hub posts the second. -/
def execSecondRoundPost (round : BitVec 16) (s : State) : Host.Outcome State Fault Refusal :=
  let t := readListsOf s round
  match (findRound t round).bind (·.cal) with
  | some cal =>
    let t := (List.range 64).foldl (fun s d => moveRecords s round cal d) t
    let r := (findRound t round).getD (Round.fresh round)
    let used := cal.used.getLsbD (pkgNo t)
    let cap := if used then r.cap - cal.below 64 (pkgNo t) else 0
    let demand := (List.range 64).map fun d => (r.moved.filter (·.1 = d)).length
    let two := secondOf round
    let t := modRound t two fun _ =>
      { Round.fresh two with counted := true, close := cal.ends, rcode := cal.rcode, buf := r.buf, demand := demand, cap := cap }
    let t := t.at (256 * (cal.ends + 32)) (.calendarTimeout two)
    done (t.at t.now (.roundClose two))
  | none => done t

/-- R232, R453, R518: 8 wheels after the second round's end, with the records that have arrived. -/
def execCapacityPostTimeout (round : BitVec 16) (s : State) : Host.Outcome State Fault Refusal :=
  let base := firstOf round
  let t := capacityCheck s base
  match findRound t base with
  | some r => done (fillPosts (modRound t base fun x => { x with capHandles := [] }) r.capHandles stPartial)
  | none => done t

/-- R517: no calendar by CLOSE + 32. -/
def execCalendarTimeout (round : BitVec 16) (s : State) : Host.Outcome State Fault Refusal :=
  match findRound s round with
  | some r =>
    if r.cal.isSome || r.lapsed then done s
    else
      let base := firstOf round
      let t := roundRecord s 3 round 16
      let t := modRound t round fun x => { x with lapsed := true, demHandles := [] }
      let t := fillPosts t r.demHandles stLate
      let b := (findRound t base).getD (Round.fresh base)
      let t := fillPosts (modRound t base fun x => { x with capHandles := [] }) b.capHandles stLate
      done (xrunFinish (readListsOf t base) base true)
  | none => done s

end Sys2Proof.Machine
end

