-- ==== Sys2Proof/Machine/Paths.lean ====
section
/-! DEFINITION. The fixed paths (R16, R27, R33, R37, R38), the tree of the configuration circuit (R40), the table entries a circuit
owns (R59), and how Badger stages, commits and breaks (R63-R66, R502-R504). -/

namespace Sys2Proof.Machine

/-! ## Paths -/

/-- A switch on a path with the input and the output the path uses. -/
structure Hop where
  agent : AgentId
  inp : Nat
  out : Nat
deriving DecidableEq, Repr

/-- x and y of a cluster (R26). -/
def clusterX (cl : Nat) : Nat := cl % 96 % 12
def clusterY (cl : Nat) : Nat := cl % 96 / 12

/-- x and y of the hub-port cluster of a cluster, and its hub port (R16, R37). -/
def hubPortOf (cl : Nat) : Nat × Nat × Nat :=
  if clusterY cl ≤ 3 then (clusterX cl, 0, clusterX cl)
  else
    let x := max 2 (min 9 (clusterX cl))
    (x, 7, x + 10)

/-- XY on a die's mesh, all x steps first (R37): the routers from (x, y), entered at inp, to (x', y'), left at out. -/
def meshHops (die : Nat) : (fuel : Nat) → (x y x' y' inp out : Nat) → List Hop
  | 0, _, _, _, _, _, _ => []
  | n + 1, x, y, x', y', inp, out =>
    let r := routerAgent (die * 96 + y * 12 + x)
    if x < x' then ⟨r, inp, 17⟩ :: meshHops die n (x + 1) y x' y' 19 out
    else if x' < x then ⟨r, inp, 19⟩ :: meshHops die n (x - 1) y x' y' 17 out
    else if y < y' then ⟨r, inp, 16⟩ :: meshHops die n x (y + 1) x' y' 18 out
    else if y' < y then ⟨r, inp, 18⟩ :: meshHops die n x (y - 1) x' y' 16 out
    else [⟨r, inp, out⟩]

/-- The NI agent of an endpoint. -/
def epAgent (e : EpId) : AgentId :=
  match epKind e with
  | 0 => niAgent (epNumber e)
  | 1 => memAgent (epNumber e / 128) (epNumber e % 128)
  | 2 => hubNi (epNumber e)
  | _ => hubNi (352 + epNumber e)

/-- The cluster of a core endpoint. -/
def epCluster (e : EpId) : Nat := epNumber e / 16

/-- The hub link a pseudo-channel endpoint uses towards another end (R37). Towards a hub block the manual says "pseudo-channel number mod 48";
the model takes the global number of R25, as for two pseudo-channels (log 47). -/
def hubLinkTo (pc other : EpId) : Nat := if epKind other = 0 then epCluster other % 48 else epNumber pc % 48

/-- From an end to the hub crossbar: its hops, and the crossbar port it arrives at. -/
def toHub (e other : EpId) : List Hop × Nat :=
  match epKind e with
  | 0 =>
    let cl := epCluster e
    let h := hubPortOf cl
    (meshHops (cl / 96) 20 (clusterX cl) (clusterY cl) h.1 h.2.1 (epNumber e % 16) 20, cl / 96 * 20 + h.2.2)
  | 1 =>
    let m := epNumber e / 128
    let j := hubLinkTo e other
    ([⟨memAgent m 128, 48 + epNumber e % 128, j⟩], 160 + m * 48 + j)
  | 2 => ([], epNumber e)
  | _ => ([], 352 + epNumber e)

/-- From the hub crossbar to an end. -/
def fromHub (e other : EpId) : Nat × List Hop :=
  match epKind e with
  | 0 =>
    let cl := epCluster e
    let h := hubPortOf cl
    (cl / 96 * 20 + h.2.2, meshHops (cl / 96) 20 h.1 h.2.1 (clusterX cl) (clusterY cl) 20 (epNumber e % 16))
  | 1 =>
    let m := epNumber e / 128
    let j := hubLinkTo e other
    (160 + m * 48 + j, [⟨memAgent m 128, j, 48 + epNumber e % 128⟩])
  | 2 => (epNumber e, [])
  | _ => (352 + epNumber e, [])

/-- The path of R37. -/
def pathOf (src dst : EpId) : List Hop :=
  let cs := epCluster src
  let cd := epCluster dst
  if epKind src = 0 && epKind dst = 0 && cs / 96 = cd / 96 then
    meshHops (cs / 96) 20 (clusterX cs) (clusterY cs) (clusterX cd) (clusterY cd) (epNumber src % 16) (epNumber dst % 16)
  else if epKind src = 1 && epKind dst = 1 && epNumber src / 128 = epNumber dst / 128 then
    [⟨memAgent (epNumber src / 128) 128, 48 + epNumber src % 128, 48 + epNumber dst % 128⟩]
  else
    let a := toHub src dst
    let b := fromHub dst src
    a.1 ++ ⟨hubAgent, a.2, b.1⟩ :: b.2

/-! ## Where an output leads (R27, R33) -/

/-- The fields of an agent (R63). -/
def agentKind (a : AgentId) : Nat := (a.extractLsb' 17 2).toNat
def agentDie (a : AgentId) : Nat := (a.extractLsb' 14 3).toNat
def agentCluster (a : AgentId) : Nat := (a.extractLsb' 7 7).toNat
def agentUnit (a : AgentId) : Nat := (a.extractLsb' 0 7).toNat
def agentMem (a : AgentId) : Nat := (a.extractLsb' 15 2).toNat
def agentMemUnit (a : AgentId) : Nat := (a.extractLsb' 0 8).toNat

/-- What the far end of an output is: a switch input, reached after a transit; the NI of a core or of a pseudo-channel; the die SRAM and its
gateway (R177); a crossbar port of a hub block, the host or another package; or nothing, at the edge of the mesh. -/
inductive FarEnd where
  | switch (a : AgentId) (port transit : Nat)
  | core (n : Nat)
  | channel (p : Nat)
  | sram (die : Nat)
  | block (port : Nat)
  | none
deriving DecidableEq, Repr

/-- The router a crossbar port below 160 leads to. -/
def routerAtHub (p : Nat) : AgentId :=
  let q := p % 20
  routerAgent (p / 20 * 96 + (if q < 12 then q else 7 * 12 + (q - 10)))

def farEnd (a : AgentId) (out : Nat) : FarEnd :=
  match agentKind a with
  | 0 =>
    let cl := agentDie a * 96 + agentCluster a
    if out < 16 then .core (cl * 16 + out)
    else
      let x := clusterX cl
      let y := clusterY cl
      match out with
      | 16 => if y < 7 then .switch (routerAgent (cl + 12)) 18 1 else .none
      | 17 => if x < 11 then .switch (routerAgent (cl + 1)) 19 1 else .none
      | 18 => if 0 < y then .switch (routerAgent (cl - 12)) 16 1 else .none
      | 19 => if 0 < x then .switch (routerAgent (cl - 1)) 17 1 else .none
      | 20 =>
        if y = 0 then .switch hubAgent (cl / 96 * 20 + x) 129
        else if y = 7 && 2 ≤ x && x ≤ 9 then .switch hubAgent (cl / 96 * 20 + x + 10) 129
        else if (x = 5 || x = 6) && (y = 3 || y = 4) then .sram (cl / 96)
        else .none
      | _ => .none
  | 1 =>
    if out < 48 then .switch hubAgent (160 + agentMem a * 48 + out) 129
    else if out < 176 then .channel (agentMem a * 128 + (out - 48)) else .none
  | _ =>
    if out < 160 then .switch (routerAtHub out) 20 129
    else if out < 352 then .switch (memAgent ((out - 160) / 48) 128) ((out - 160) % 48) 129
    else if out < 420 then .block out else .none

/-! ## UCIe links (R34, R504, R505): link l is the one at crossbar port l -/

def Link.fresh (l : Nat) : Link := ⟨l, .up, false, []⟩

def linkAt (s : State) (l : Nat) : Link := (s.fab.links.find? (·.l = l)).getD (Link.fresh l)

def modLink (s : State) (l : Nat) (f : Link → Link) : State :=
  let n := f (linkAt s l)
  let rest := s.fab.links.filter (·.l != l)
  s.withFab fun x => { x with links := if n = Link.fresh l then rest else rest ++ [n] }

/-- The alignment register of a receiving end (R34). -/
def Align.zero (a : AgentId) (port : Nat) : Align := ⟨a, port, 0, false, 0, 0⟩

def alignAt (s : State) (a : AgentId) (port : Nat) : Align :=
  (s.fab.aligns.find? fun x => x.agent = a && x.port = port).getD (Align.zero a port)

def modAlign (s : State) (a : AgentId) (port : Nat) (f : Align → Align) : State :=
  let n := f (alignAt s a port)
  let rest := s.fab.aligns.filter fun x => !(x.agent = a && x.port = port)
  s.withFab fun x => { x with aligns := if n = Align.zero a port then rest else rest ++ [n] }

/-- The receiving end of link l away from the hub: the switch it leads to and its port. -/
def spokeEnd (l : Nat) : AgentId × Nat :=
  match farEnd hubAgent l with
  | .switch b p _ => (b, p)
  | _ => (hubAgent, l)

/-- The link a receiving end belongs to. -/
def linkOfEnd (a : AgentId) (port : Nat) : Nat :=
  if a = hubAgent then port
  else match farEnd a port with
    | .switch _ p _ => p
    | _ => port

/-- Does the link carry flits now? -/
def linkCarries (s : State) (l : Nat) : Bool :=
  match (linkAt s l).state with
  | .up => true
  | .training w => !(linkAt s l).lost && s.wheel < w
  | .down => false

/-- The link an output leads over. -/
def linkOver (a : AgentId) (out : Nat) : Option Nat :=
  if a = hubAgent then (if out < 352 then some out else none)
  else match farEnd a out with
    | .switch b p _ => if b = hubAgent then some p else none
    | _ => none

/-- The links a path crosses. -/
def linksOn (p : List Hop) : List Nat := (p.filterMap fun h => linkOver h.agent h.out)

/-- The number of the first hop that receives over a down link. -/
def downHop (s : State) (p : List Hop) : Option Nat :=
  (p.findIdx? fun h => match linkOver h.agent h.out with
    | some l => (linkAt s l).state = .down
    | none => false).map (· + 2)

/-- Does a circuit, its reverse circuit included, cross a link? -/
def circuitCrosses (c : Circuit) (l : Nat) : Bool :=
  c.dsts.any fun d => (linksOn (pathOf c.src d.1)).contains l || (linksOn (pathOf d.1 c.src)).contains l

/-- Does its forward path? -/
def forwardCrosses (c : Circuit) (l : Nat) : Bool := c.dsts.any fun d => (linksOn (pathOf c.src d.1)).contains l

/-! ## The configuration tree (R40) -/

/-- The agents from the hub crossbar down to an agent: the switches of R37, then the NI or gateway itself. A memory die has several hub links;
the model relays over its link 0 (log 48). -/
def treePath (a : AgentId) : List Hop :=
  match agentKind a with
  | 0 =>
    let cl := agentDie a * 96 + agentCluster a
    let h := hubPortOf cl
    let u := agentUnit a
    ⟨hubAgent, 376 + Config.freePort 0 % 44, cl / 96 * 20 + h.2.2⟩ ::
      meshHops (cl / 96) 20 h.1 h.2.1 (clusterX cl) (clusterY cl) 20 (if u < 16 then u else 21) ++
      (if u = 16 then [] else [⟨a, 0, 0⟩])
  | 1 =>
    ⟨hubAgent, 376 + Config.freePort 0 % 44, 160 + agentMem a * 48⟩ :: ⟨memAgent (agentMem a) 128, 0, 48 + agentMemUnit a⟩ ::
      (if agentMemUnit a = 128 then [] else [⟨a, 0, 0⟩])
  | _ => ⟨hubAgent, 376 + Config.freePort 0 % 44, (a.extractLsb' 0 9).toNat⟩ :: (if a = hubAgent then [] else [⟨a, 0, 0⟩])

/-- The agent below one on the way to another. -/
def nextDown (here target : AgentId) : Option AgentId :=
  ((((treePath target).map (·.agent)).dropWhile (· != here)).drop 1).head?

/-- Entry 0 of a switch's output holds the configuration tree (R28, R40): an output to a child is owned by the input from the parent. -/
def treeEntry (a : AgentId) (out : Nat) : BitVec 16 :=
  let down := fun (target : AgentId) =>
    match (treePath target).find? (·.agent = a) with
    | some h => if h.out = out && target != a then BitVec.ofNat 16 (0x8000 + h.inp) else 0
    | none => 0
  match farEnd a out with
  | .switch b _ _ => down b
  | .core n => down (niAgent n)
  | .channel p => down (memAgent (p / 128) (p % 128))
  | .block p => if 376 ≤ p then down (hubNi p) else 0
  | _ => 0

/-- An agent's depth: wheels from Badger to it. -/
def agentDepth (a : AgentId) : Nat :=
  match agentKind a with
  | 0 =>
    let cl := agentCluster a
    let h := hubPortOf cl
    let steps := (clusterX cl - h.1) + (h.1 - clusterX cl) + (clusterY cl - h.2.1) + (h.2.1 - clusterY cl)
    2 + steps + (if agentUnit a = 16 then 0 else 1)
  | 1 => if agentMemUnit a = 128 then 2 else 3
  | _ => if a = hubAgent then 1 else 2

/-! ## The entries a circuit owns -/

/-- An entry a circuit owns, and the hop it stands at. -/
structure Claim where
  hop : Nat
  agent : AgentId
  table : BitVec 2
  port : Nat
  slot : Nat
  value : BitVec 16
deriving DecidableEq, Repr

def Claim.sameEntry (c d : Claim) : Bool :=
  c.agent = d.agent && c.table = d.table && c.port = d.port && c.slot = d.slot

/-- The entries of one branch for source slot k (R36, R59). In a reverse circuit, rev is the number of the receiver whose returns it carries:
its entries at the NIs name that receive endpoint and the send endpoint, marked in reserved bits (log 24). -/
def branchClaims (src dst : EpId) (rev : Option Nat) (k : Nat) : List Claim :=
  let p := pathOf src dst
  let mark := match rev with | some i => 0xC000 + 64 * (i % 16) | none => 0x8000
  (⟨0, epAgent src, tSend, 0, k % 256, BitVec.ofNat 16 (mark + epEp src)⟩ ::
    (p.mapIdx fun i h => ⟨i + 1, h.agent, tSwitch, h.out, (k + i + 1) % 256, BitVec.ofNat 16 (0x8000 + h.inp)⟩)) ++
    [⟨p.length + 1, epAgent dst, tRecv, 0, (k + p.length) % 256, BitVec.ofNat 16 (mark + epEp dst)⟩]

/-- Entries of source slots of a circuit, and of the reverse slots of its receivers. -/
def slotClaims (src : EpId) (dsts : List EpId) (slots : List Nat) : List Claim :=
  (slots.flatMap fun k => dsts.flatMap fun d => branchClaims src d none k).eraseDups
def reverseClaims (src : EpId) (ds : List (EpId × List Nat)) : List Claim :=
  (ds.zipIdx.flatMap fun d => d.1.2.flatMap fun k => branchClaims d.1.1 src (some d.2) k).eraseDups

/-- Every entry of a circuit and its reverse circuit. -/
def circuitClaims (c : Circuit) : List Claim :=
  slotClaims c.src (c.dsts.map (·.1)) c.slots ++ reverseClaims c.src c.dsts

/-! ## Configuration flits (R63) -/

/-- Kinds of configuration flit. -/
def kEntries : Nat := 0
def kReadback : Nat := 1
def kDepth : Nat := 2
def kReply : Nat := 3

/-- Table 3 of a record: a link's alignment register. -/
def tAlign : BitVec 2 := 3

/-- A record in its word. -/
def cfgWord (r : CfgRec) : Word :=
  (1#1 ++ r.agent ++ r.table ++ r.port ++ r.slot ++ 0#9 ++ r.value : BitVec 64)

/-- The record a word holds, when its RV is set. -/
def cfgRec (w : Word) : Option CfgRec :=
  if w.getLsbD 63 then
    some ⟨w.extractLsb' 44 19, w.extractLsb' 42 2, w.extractLsb' 33 9, w.extractLsb' 25 8, w.extractLsb' 0 16⟩
  else none

/-- A configuration flit: its header, and up to seven records. -/
def cfgFlit (kind w : Nat) (recs : List CfgRec) : BitVec 512 :=
  flitOf (word (kind % 16 * 2 ^ 60 + w % 2 ^ 56) :: (List.range 7).map fun i => match recs[i]? with | some r => cfgWord r | none => 0)

def cfgKind (d : BitVec 512) : Nat := fld (d.extractLsb' 0 64) 63 60
def cfgWheel (d : BitVec 512) : Nat := fld (d.extractLsb' 0 64) 55 0
def cfgRecs (d : BitVec 512) : List CfgRec := ((flitWords d).drop 1).filterMap cfgRec

/-- The wheel in which a flit left Badger, from the time it reaches an agent (R40). -/
def leftAt (t : Nat) (here : AgentId) : Nat := (if onSpoke here then (t - 128) / 256 else t / 256) - agentDepth here

/-- Sends a configuration flit in a wheel: it reaches the hub crossbar's agent a wheel later (R40). -/
def sendConfig (s : State) (f : Nat) (d : BitVec 512) : State := s.at (256 * (f + 1)) (.configFlit hubAgent d)

/-! ## Changes and their commit wheels (R63-R66) -/

/-- The latest commit wheel pending at an agent, sent or on its way. -/
def pendingAt (s : State) (a : AgentId) : Nat :=
  let here := (s.fab.commits.filter (·.1 = a)).map (·.2)
  let coming := s.agenda.filterMap fun e => match e.2 with
    | .configFlit _ d =>
      if (cfgKind d = kEntries || cfgKind d = kDepth) && (cfgRecs d).any (·.agent = a) then some (cfgWheel d) else none
    | _ => none
  (here ++ coming).foldl max 0

/-- The wheel of a change's first flit: one flit a wheel, after the last flit of earlier changes, after the commits pending at its
agents, and late enough for a commit no sooner than least. -/
def firstFlit (s : State) (agents : List AgentId) (n least : Nat) : Nat :=
  let p := (agents.map fun a => pendingAt s a + 1).foldl max 0
  max (max (s.wheel + 1) (s.fab.lastFlit + 1)) (max p (least - (8 + n)))

/-- Flits that carry n records. -/
def flitsFor (n : Nat) : Nat := max 1 ((n + 6) / 7)

/-- Sends records in consecutive flits, seven in each. Answers W := L + 9 (R65). -/
def stageRecords (s : State) (recs : List CfgRec) (least : Nat) : State × Nat :=
  let n := flitsFor recs.length
  let f := firstFlit s (recs.map (·.agent)) n least
  let w := f + n + 8
  let t := (List.range n).foldl (fun s i => sendConfig s (f + i) (cfgFlit kEntries w ((recs.drop (7 * i)).take 7))) s
  (t.withFab fun x => { x with lastFlit := f + n - 1 }, w)

/-- The records that lay entries, and those that remove them. -/
def layRecords (cs : List Claim) : List CfgRec :=
  cs.map fun c => ⟨c.agent, c.table, BitVec.ofNat 9 c.port, BitVec.ofNat 8 c.slot, c.value⟩
def clearRecords (cs : List Claim) : List CfgRec :=
  cs.map fun c => ⟨c.agent, c.table, BitVec.ofNat 9 c.port, BitVec.ofNat 8 c.slot, 0⟩

/-- A commit wheel for n records to no particular agent (R502, R504). -/
def nameWheel (s : State) (n : Nat) : State × Nat :=
  let k := flitsFor n
  let f := firstFlit s [] k 0
  (s.withFab fun x => { x with lastFlit := f + k - 1 }, f + k + 8)

/-! ## Holds (R504) -/

/-- Sets the hold of every send endpoint from the links its circuit crosses, and of every receive endpoint from those of its returns. -/
def refreshHolds (s : State) : State :=
  let held := fun (e : Fin 32) =>
    match circuitOf s (coreEp s.core.gcore e.val) with
    | some c => ((s.fab.holds.filter fun h => forwardCrosses c h.1).map (·.2)).foldl
        (fun m w => match m with | some v => some (min v w) | none => some w) (none : Option Nat)
    | none => none
  let back := fun (e : Fin 64) =>
    let me := coreEp s.core.gcore e.val
    match circuitTo s me with
    | some c => ((s.fab.holds.filter fun h => (linksOn (pathOf me c.src)).contains h.1).map (·.2)).foldl
        (fun m w => match m with | some v => some (min v w) | none => some w) (none : Option Nat)
    | none => none
  s.withCore fun c => { c with
    send := Vector.ofFn fun e => { c.send[e] with hold := held e }
    recv := Vector.ofFn fun e => { c.recv[e] with hold := back e } }

/-! ## Breaking a circuit (R502, R503) -/

/-- A send endpoint of this core loses its circuit. -/
def dropSend (s : State) (e : EpId) : State :=
  match ownSend s e with
  | some ep => s.modSend ep fun _ => SendEp.idle
  | none => s.withFab fun f => { f with pcSend := f.pcSend.filter (·.1 != e) }

/-- A receive endpoint leaves the broken state and discards what it holds. -/
def clearRecv (r : RecvEp) : RecvEp :=
  { r with queue := [], count := 0, returned := 0, broken := false, part := 0, openMsg := false, drop := false }

/-- A receive endpoint loses its circuit: a packet under way at endpoint 62 is no longer awaited, and an arming that waited for a boundary takes
effect (R398, R502). -/
def dropRecv (s : State) (e : EpId) : State :=
  match ownRecv s e with
  | some ep =>
    let t := s.modRecv ep clearRecv
    let t := if ep.val = 62 then t.withCore fun c => { c with copy := { c.copy with order := [] } } else t
    if (t.core.recv[ep]).next.isSome then t.at t.now (.mboxArmEffect ep) else t
  | none => s.withFab fun f => { f with pcRecv := f.pcRecv.filter (·.1 != e) }

/-- Lays entries at once, and removes them at once. -/
def layNow (s : State) (cs : List Claim) : State :=
  cs.foldl (fun s c => tableSet s c.agent c.table c.port c.slot fun e => { e with live := c.value, lost := false }) s
def clearNow (s : State) (cs : List Claim) : State :=
  cs.foldl (fun s c => tableSet s c.agent c.table c.port c.slot fun e =>
    { e with live := 0, staged := 0, spend := false, lost := false }) s

/-- The function a circuit's event concerns. -/
def circuitFunc (s : State) (c : Circuit) : Nat :=
  if (ownSend s c.src).isSome || c.dsts.any (fun d => (ownRecv s d.1).isSome) then s.func else 16

/-- An end at an inter-package port is up while the port is locked (R506). -/
def portUp (s : State) (e : EpId) : Bool :=
  epKind e != 3 || (s.fab.ports[(⟨epNumber e % 16, Nat.mod_lt _ (by decide)⟩ : Fin 16)]).lock = 2

/-- Removes a circuit in one part; a fixed one whose path is up is laid again on its own slots. -/
def breakCircuit (s : State) (c : Circuit) (reason : Nat) : State :=
  let up := portUp s c.src && c.dsts.all fun d => portUp s d.1 && (downHop s (pathOf c.src d.1)).isNone && (downHop s (pathOf d.1 c.src)).isNone
  let s := if reason = 2 then s else fabricRecord s 0x0703 reason (c.src.zeroExtend 64) (circuitFunc s c)
  let s := clearNow s (circuitClaims c)
  let s := c.dsts.foldl (fun s d => dropRecv s d.1) (dropSend s c.src)
  let s := s.withFab fun f => { f with circuits := f.circuits.filter (·.src != c.src) }
  if c.fixed && up then
    let s := layNow (s.withFab fun f => { f with circuits := f.circuits ++ [c] }) (circuitClaims c)
    match ownSend s c.src with
    | some ep => s.modSend ep fun _ => { SendEp.idle with circuit := true, wins := c.dsts.map fun _ => ⟨0, 0⟩ }
    | none => s
  else s

/-- Names a wheel for breaking a circuit, and breaks it then. -/
def breakSoon (s : State) (c : Circuit) (reason : Nat) : State :=
  let n := nameWheel s (circuitClaims c).length
  n.1.at (256 * n.2) (.circuitBreak c.src reason)

/-! ## Lost entries (R500) -/

/-- The circuit one of whose entries is at a place. -/
def circuitOwning (s : State) (e : TEntry) : Option Circuit :=
  s.fab.circuits.find? fun c => (circuitClaims c).any fun k =>
    k.agent = e.agent && k.table = e.table && k.port = e.port && k.slot = e.slot

/-- The unit records TABLE_UE; Badger writes back its copy of what it staged last, after a commit that is pending there (R65), and breaks the
circuit it names at that wheel. -/
def tableError (s : State) (e : TEntry) : State :=
  let s := fabricRecord s 0x0701 (e.table.toNat * 2 ^ 25 + e.port * 2 ^ 16 + e.slot) (e.agent.zeroExtend 64) 16
  let copy := if e.spend then e.staged else e.live
  let r := stageRecords s [⟨e.agent, e.table, BitVec.ofNat 9 e.port, BitVec.ofNat 8 e.slot, copy⟩] 0
  match circuitOwning r.1 e with
  | some c => r.1.at (256 * r.2) (.circuitBreak c.src 1)
  | none => r.1

end Sys2Proof.Machine
end

