-- ==== Sys2Proof/Machine/Badger.lean ====
section
/-! DEFINITION. Badger (R55-R62, R66, R67, R254, R505): requests in order, the search, answers, and the four changes. -/

namespace Sys2Proof.Machine

/-! ## The search (R59, R60) -/

/-- Entries that are not idle: in the tables, live or staged, and of circuits whose records are on their way. -/
def takenEntries (s : State) : List Claim :=
  (s.fab.tables.filterMap fun e =>
    if (entryValid e.live && !e.lost) || e.spend then some ⟨0, e.agent, e.table, e.port, e.slot, e.live⟩ else none) ++
  s.fab.circuits.flatMap circuitClaims

/-- Slots no ordinary circuit owns (R39). -/
def reservedSlot (k : Nat) : Bool := k = 0 || (128 ≤ k && k ≤ 131)

/-- A slot that circuits own on an inter-package port (R47). -/
def circuitSlot (k : Nat) : Bool := (3 ≤ k && k ≤ 127) || (132 ≤ k && k ≤ 252)

/-- The entry stands at an inter-package port (R27), in a slot no circuit owns there (R59). -/
def offPort (c : Claim) : Bool :=
  c.table = tSwitch && c.agent = hubAgent && 352 ≤ c.port && c.port < 368 && !circuitSlot c.slot

/-- One entry of a candidate is blocked. -/
def claimBlocked (taken mine : List Claim) (downs : List Nat) (c : Claim) : Bool :=
  reservedSlot c.slot || offPort c || downs.contains c.hop || taken.any c.sameEntry ||
  Config.freeTrunk c.agent.toNat c.table.toNat c.port c.slot ||
  mine.any fun d => c.sameEntry d && d.value != c.value

/-- The first blocked entry, in ascending order of hops. -/
def firstBlocked (taken : List Claim) (downs : List Nat) : (mine todo : List Claim) → Option Claim
  | _, [] => none
  | mine, c :: cs => if claimBlocked taken mine downs c then some c else firstBlocked taken downs (c :: mine) cs

/-- Entries in ascending order of hops. -/
def byHop (cs : List Claim) : List Claim := (List.range 64).flatMap fun i => cs.filter (·.hop = i)

/-- A search: the branches it lays, and in the reverse one the number of its receiver. -/
structure Search where
  branches : List (EpId × EpId)
  rev : Option Nat
deriving DecidableEq, Repr

def Search.claims (q : Search) (k : Nat) : List Claim :=
  byHop (q.branches.flatMap fun b => branchClaims b.1 b.2 q.rev k)

/-- Tests one candidate. -/
def Search.test (s : State) (q : Search) (taken : List Claim) (k : Nat) : Option Claim :=
  firstBlocked taken (q.branches.filterMap fun b => downHop s (pathOf b.1 b.2)) [] (q.claims k)

/-- Where a search was refused: the candidate, and its blocking entry when it has one. -/
structure Refused where
  slot : Nat
  entry : Option Claim
deriving DecidableEq, Repr

/-- The 256 candidates from a start. -/
def candidates (start : Nat) : List Nat := (List.range 256).map fun i => (start + i) % 256

/-- The state of a free search: the slots chosen, the entries taken, and what blocked the last candidate tested. -/
structure Found where
  slots : List Nat
  taken : List Claim
  block : Option Claim
deriving DecidableEq, Repr

/-- The first n acceptable candidates, with the entries they take; else the last candidate tested, with what blocked it when it was
tested (R61). -/
def searchFree (s : State) (q : Search) (start n : Nat) (taken : List Claim) : Except Refused (List Nat) :=
  let r := (candidates start).foldl (fun (a : Found) k =>
    if n ≤ a.slots.length then a
    else match Search.test s q a.taken k with
      | none => ⟨a.slots ++ [k], q.claims k ++ a.taken, none⟩
      | some c => { a with block := some c }) ⟨[], taken, none⟩
  if n ≤ r.slots.length then .ok r.slots else .error ⟨(start + 255) % 256, r.block⟩

/-- The first run of n acceptable candidates in the order tested; else the starting candidate. -/
def searchRun (s : State) (q : Search) (start n : Nat) (taken : List Claim) : Except Refused (List Nat) :=
  let cs := (candidates start).map fun k => (k, (Search.test s q taken k).isNone)
  match (List.range (257 - n)).find? fun i => ((cs.drop i).take n).all (·.2) with
  | some i => .ok (((cs.drop i).take n).map (·.1))
  | none => .error ⟨start, Search.test s q taken start⟩

/-- The n slots past the highest owned one, as long as each is acceptable. -/
def searchAfter (s : State) (q : Search) (top : Nat) (taken : List Claim) : (n : Nat) → Except Refused (List Nat)
  | 0 => .ok []
  | n + 1 =>
    let k := (top + 1) % 256
    match Search.test s q taken k with
    | some c => .error ⟨k, some c⟩
    | none => do
      let ks ← searchAfter s q (top + 1) taken n
      .ok (k :: ks)

/-- Reverse slots for every receiver, each search seeing what the earlier ones took. -/
def searchReverse (s : State) (src : EpId) (start n : Nat) (taken : List Claim) :
    (i : Nat) → List EpId → Except Refused (List (EpId × List Nat))
  | _, [] => .ok []
  | i, d :: ds => do
    let q : Search := ⟨[(d, src)], some i⟩
    let ks ← searchFree s q start n taken
    let rest ← searchReverse s src start n (ks.flatMap q.claims ++ taken) (i + 1) ds
    .ok ((d, ks) :: rest)

/-! ## Answers (R61, R62) -/

/-- Fills the handle of a request of this core, within 8 wheels of its arrival (R57). -/
def answerHandle (s : State) (r : CircReq) (status : Nat) : State :=
  match r.handle with
  | some h => s.later (some (max 1 (256 * (r.wheel + 8) - s.now))) (.completion h ⟨BitVec.ofNat 8 status, 0, 0⟩)
  | none => s

/-- Writes the answer record in the requesting core's TCM. The manual bounds ANS by its 18 bits only; at or past 0x2_0000 the record goes to
the address the offset names all the same (log 49). -/
def writeAnswer (s : State) (r : CircReq) (ws : List Word) : State := putWords s (tcmPa r.gcore (fld r.w3 17 0)) ws

/-- The partition of a core that asks. -/
def coreLag (s : State) (gcore : Nat) : Nat :=
  ((List.range 16).find? fun p => (partClusters s p).contains (gcore / 16)).elim 0 (partLag s)

/-- GRANTED, with the commit wheel as the partition observes it (R548), and the slots owned after it. -/
def answerGranted (s : State) (r : CircReq) (w : Nat) (slots : List Nat) : State :=
  let map := slots.foldl (fun m k => m ||| 2 ^ (k % 256)) 0
  let ws := [word ((w + 2 ^ 56 - coreLag s r.gcore) % 2 ^ 56), 0, 0, 0] ++ (List.range 4).map fun i => word (map / 2 ^ (64 * i))
  answerHandle (writeAnswer s r ws) r 0

/-- REFUSED; none: every field of the block is zero. The block of a candidate that was itself acceptable is left open (log 24). -/
def answerRefused (s : State) (r : CircReq) (rev : Bool) (why : Option Refused) : State :=
  let f := (Config.freeWord s.fresh).toNat
  let x := match why with
    | none => (0, 0, 0)
    | some ⟨k, some c⟩ => (c.hop, c.slot, k)
    | some ⟨k, none⟩ => (f % 256, f / 256 % 256, k)
  let ws := [word (2 ^ 56), word ((if rev then 256 else 0) + x.1), word (x.2.1 * 256 + x.2.2), 0, 0, 0, 0, 0]
  answerHandle (writeAnswer { s with fresh := s.fresh + 1 } r ws) r 1

/-- BUSY at once. -/
def answerBusy (s : State) (r : CircReq) : State :=
  let s := if r.crel then s else writeAnswer s r [word (2 * 2 ^ 56), 0, 0, 0, 0, 0, 0, 0]
  match r.handle with
  | some h => completeAt s (s.now + 1) h 2
  | none => s

/-! ## Changes -/

/-- The source slots a queue owns, fixed circuits apart (R254). -/
def queueSlots (s : State) (q : Nat) : Nat :=
  ((s.fab.circuits.filter fun c => c.qid.toNat = q && !c.fixed).map (·.slots.length)).foldl (· + ·) 0

/-- FSLOTS of a queue (R250). -/
def qFslots (s : State) (q : Nat) : Nat := fld (hubGet s (rQueue q 2)) 63 48

/-- Slots granted by a forward search (R60). -/
def searchForward (s : State) (r : CircReq) (c : Option Circuit) (dsts : List EpId) (taken : List Claim) :
    Except Refused (List Nat) :=
  let q : Search := ⟨dsts.map fun d => (r.w1.setWidth 32, d), none⟩
  let n := fld r.w3 25 18
  let start := fld r.w3 63 48 * 17 % 256
  match c, r.w0.getLsbD 8 with
  | none, true => searchRun s q start n taken
  | some c, true => searchAfter s q (c.slots.foldl max 0) taken n
  | _, false => searchFree s q start n taken

/-- A pseudo-channel's send endpoint holds a circuit (R42); the manual gives nothing that commits a message there. -/
def openSender (s : State) (src : EpId) (n : Nat) : State :=
  if epKind src = 1 then
    s.withFab fun f => { f with pcSend := f.pcSend.filter (·.1 != src) ++
      [(src, { SendEp.idle with circuit := true, wins := List.replicate n ⟨0, 0⟩ })] }
  else s

/-- A pseudo-channel's receive endpoint holds a circuit (R42). -/
def openChannel (s : State) (d : EpId) : State :=
  if epKind d = 1 then s.withFab fun f => { f with pcRecv := f.pcRecv.filter (·.1 != d) ++ [(d, RecvEp.idle)] } else s

/-- Opens the endpoints that a granted OPEN names, of this core and of pseudo-channels. -/
def openEnds (s : State) (src : EpId) (dsts : List EpId) : State :=
  let s := match ownSend s src with
    | some ep => s.modSend ep fun _ => { SendEp.idle with circuit := true, wins := dsts.map fun _ => ⟨0, 0⟩ }
    | none => openSender s src dsts.length
  refreshHolds (dsts.foldl (fun s d => match ownRecv s d with
    | some ep => s.modRecv ep fun x => { x with count := 0, returned := 0 }
    | none => openChannel s d) s)

/-- R60: OPEN. An endpoint that already holds a circuit when Badger searches is refused with no block (log 24). -/
def openCircuit (s : State) (r : CircReq) : State :=
  let src : EpId := r.w1.setWidth 32
  let n := fld r.w3 25 18
  let qid := fld r.w3 63 48
  let taken := takenEntries s
  if (circuitOf s src).isSome || qFslots s qid < queueSlots s qid + n then answerRefused s r false none
  else match searchForward s r none r.dsts taken with
    | .error e => answerRefused s r false (some e)
    | .ok ks =>
      let now := slotClaims src r.dsts ks
      match searchReverse s src (qid * 17 % 256) (fld r.w3 33 26) (now ++ taken) 0 r.dsts with
      | .error e => answerRefused s r true (some e)
      | .ok ds =>
        let c : Circuit := ⟨src, ds, BitVec.ofNat 16 qid, ks, false⟩
        let t := stageRecords s (layRecords (circuitClaims c)) 0
        let u := t.1.withFab fun f => { f with circuits := f.circuits ++ [c] }
        answerGranted (openEnds u src r.dsts) r t.2 ks

/-- R60: WIDEN. -/
def widenCircuit (s : State) (r : CircReq) : State :=
  let src : EpId := r.w1.setWidth 32
  let n := fld r.w3 25 18
  match circuitOf s src with
  | none => answerRefused s r false none
  | some c =>
    let dsts := c.dsts.map (·.1)
    if qFslots s c.qid.toNat < queueSlots s c.qid.toNat + n then answerRefused s r false none
    else match searchForward s r (some c) dsts (takenEntries s) with
      | .error e => answerRefused s r false (some e)
      | .ok ks =>
        let t := stageRecords s (layRecords (slotClaims src dsts ks)) 0
        let c' := { c with slots := c.slots ++ ks }
        let u := t.1.withFab fun f => { f with circuits := f.circuits.map fun x => if x.src = src then c' else x }
        answerGranted u r t.2 c'.slots

/-- The highest n slots of a list. -/
def highest (slots : List Nat) (n : Nat) : List Nat :=
  let order := (List.range 256).filter slots.contains
  order.drop (order.length - n)

/-- The wheels a removal waits beyond its first commit (R66): three, and the alignment of the inter-package port it comes from. -/
def removalGap (s : State) (src : EpId) : Nat :=
  3 + (if epKind src = 3 then (s.fab.ports[epNumber src % 16]).k.toNat else 0)

/-- Removes entries in two parts (R66): the source NI's send entries at W, the rest at W + 3 or later. The manual names no part for the reverse
circuit; its entries go in the second (log 50). Answers both commit wheels. -/
def removeEntries (s : State) (src : EpId) (cs : List Claim) : State × Nat × Nat :=
  let sends := cs.filter fun c => c.table = tSend && !entryReverse c.value
  let rest := cs.filter fun c => !(c.table = tSend && !entryReverse c.value)
  let a := stageRecords s (clearRecords sends) 0
  let b := stageRecords a.1 (clearRecords rest) (a.2 + removalGap s src)
  (b.1, a.2, b.2)

/-- R60, R66: NARROW; a refusal for its count tests no candidate, so it reports none. -/
def narrowCircuit (s : State) (r : CircReq) : State :=
  let src : EpId := r.w1.setWidth 32
  let n := fld r.w3 25 18
  match circuitOf s src with
  | none => answerRefused s r false none
  | some c =>
    if c.slots.length ≤ n then answerRefused s r false none
    else
      let gone := highest c.slots n
      let keep := c.slots.filter fun k => !gone.contains k
      let t := removeEntries s src (slotClaims src (c.dsts.map (·.1)) gone)
      let u := t.1.withFab fun f => { f with circuits := f.circuits.map fun x =>
        if x.src = src then { x with slots := keep } else x }
      answerGranted u r t.2.1 keep

/-- R409: the handle of a CREL fills at the first slot of the second commit wheel, when the entries of the dies have gone too. -/
def answerRelease (s : State) (r : CircReq) (w : Nat) : State :=
  match r.handle with
  | some h => completeAt s (256 * w + 128) h 0
  | none => s

/-- R66, R67, R409: RELEASE; a CREL has no answer record. -/
def releaseCircuit (s : State) (r : CircReq) : State :=
  let src : EpId := r.w1.setWidth 32
  match circuitOf s src with
  | none => if r.crel then answerHandle s r 1 else answerRefused s r false none
  | some c =>
    let t := removeEntries s src (circuitClaims c)
    let u := t.1.withFab fun f => { f with circuits := f.circuits.filter (·.src != src), pcSend := f.pcSend.filter (·.1 != src) }
    if r.crel then answerRelease u r t.2.2 else answerGranted u r t.2.1 []

/-- The request leaves Badger's list as it is searched. -/
def takeRequest (s : State) (r : CircReq) : State := s.withFab fun f => { f with pending := f.pending.filter (· != r) }

/-- R60. -/
def execCircOpen (r : CircReq) (s : State) : Host.Outcome State Fault Refusal := done (openCircuit (takeRequest s r) r)
/-- R60. -/
def execCircWiden (r : CircReq) (s : State) : Host.Outcome State Fault Refusal := done (widenCircuit (takeRequest s r) r)
/-- R60, R66. -/
def execCircNarrow (r : CircReq) (s : State) : Host.Outcome State Fault Refusal := done (narrowCircuit (takeRequest s r) r)
/-- R66, R67. -/
def execCircRelease (r : CircReq) (s : State) : Host.Outcome State Fault Refusal := done (releaseCircuit (takeRequest s r) r)

/-! ## Arrival (R57, R67) -/

/-- Badger's order: wheel of arrival, then PRI descending, then global core. -/
def servedBefore (a b : CircReq) : Bool :=
  if a.wheel != b.wheel then decide (a.wheel < b.wheel)
  else if fld a.w3 47 45 != fld b.w3 47 45 then decide (fld b.w3 47 45 < fld a.w3 47 45)
  else decide (a.gcore ≤ b.gcore)

def insertRequest (r : CircReq) : List CircReq → List CircReq
  | [] => [r]
  | x :: xs => if servedBefore x r then x :: insertRequest r xs else r :: x :: xs

/-- The search of a request stands on the agenda for this cycle. -/
def searchDue (s : State) (r : CircReq) : Bool := s.agenda.any fun e => decide (e.1 ≤ s.now) && e.2 = .circuit r

/-- Sets the searches, eight a wheel, in the last cycle of a wheel, so that all requests of the wheel stand in R57's order. The manual bounds
the wheel of a search and does not name it; the model begins in the wheel of arrival, as the run of chapter 18 does (log 51). -/
def planSearches (s : State) : State :=
  let w := (s.now + 1) / 256
  let wait := s.fab.pending.filter fun r => !searchDue s r
  let s := { s with agenda := s.agenda.filter fun e => match e.2 with
    | .circuit _ => decide (e.1 ≤ s.now)
    | _ => true }
  (wait.zip (List.range wait.length)).foldl (fun s r => s.at (256 * (w + r.2 / 8) + 255) (.circuit r.1)) s

/-- R57. -/
def execBadgerRequestArrive (r : CircReq) (s : State) : Host.Outcome State Fault Refusal :=
  if 64 ≤ s.fab.pending.length then done (answerBusy s r)
  else
    let r := { r with wheel := s.wheel }
    done (planSearches (s.withFab fun f => { f with pending := insertRequest r f.pending }))

/-- R67: when the buffer of the closed endpoint is empty the NI tells Badger. -/
def execSendBufferEmpty (ep : Fin 32) (r : CircReq) (s : State) : Host.Outcome State Fault Refusal :=
  let e := s.core.send[ep]
  if e.buf.isEmpty && e.rest.isEmpty then done (s.later none (.badgerRequestArrive r))
  else done (s.at (s.now + 1) (.sendBufferEmpty ep r))

end Sys2Proof.Machine
end

