-- ==== Sys2Proof/Machine/Fabric.lean ====
section
/-! DEFINITION. The fabric at work: switches (R29, R500, R501), management flits (R41), configuration agents (R63-R65), realignment
(R68), UCIe links (R504, R505), inter-package ports and planes (R47-R51, R506). -/

namespace Sys2Proof.Machine

/-! ## Switches -/

/-! ## The sideband (R31, R475) -/

/-- The bits the code covers and the check bits, with one of them turned over: 0-511 the data, then F, L, P, then CHK. -/
def flipFlit (f : Flit) (i : Nat) : Flit :=
  if i < 512 then { f with data := f.data ^^^ BitVec.ofNat 512 (2 ^ i) }
  else if i = 512 then { f with first := !f.first }
  else if i = 513 then { f with last := !f.last }
  else if i = 514 then { f with poison := !f.poison }
  else { f with chk := f.chk ^^^ BitVec.ofNat 12 (2 ^ (i - 515)) }

/-- A flit that one turned bit makes sound. -/
def repairFlit (f : Flit) : Option Flit := ((List.range 527).map (flipFlit f)).find? soundFlit

/-- CEFLIT counts a corrected flit of the links of the die an agent stands on; the hub die has no CECNT (R63, R477). -/
def countFlit (s : State) (a : AgentId) : State :=
  match (a.extractLsb' 17 2).toNat with
  | 0 => countCe s (a.extractLsb' 14 3).toNat true
  | 1 => countCe s (8 + (a.extractLsb' 15 2).toNat) true
  | _ => s

/-- A flit as it is checked at a switch: a single error is corrected and counted; with an uncorrectable one it goes on as received with P
set (R475, R501). -/
def checkFlit (s : State) (a : AgentId) (f : Flit) : Flit × State :=
  if soundFlit f then (f, s)
  else match repairFlit f with
    | some g => (g, countFlit s a)
    | none => (sealFlit { f with poison := true }, s)

/-! ## The NI of a pseudo-channel (R42) -/

/-- A receive endpoint of a pseudo-channel's NI finds a gap: it records BREAK, and Badger breaks the circuit (R501, R502). -/
def breakChannel (s : State) (e : EpId) : State :=
  let c := circuitTo s e
  let s := s.withFab fun x => { x with pcRecv := x.pcRecv.map fun r =>
    if r.1 = e then (e, { r.2 with broken := true, openMsg := false }) else r }
  match c with
  | some c => (fabricRecord s 0x0703 2 (c.src.zeroExtend 64) 16).later none (.circuitBreak c.src 2)
  | none => fabricRecord s 0x0703 2 0 16

/-- R501: an owned receive slot carried no flit while a message was open. -/
def channelGap (s : State) (e : BitVec 32) (got : Nat) : State :=
  if s.fab.pcRecv.any fun r => r.1 = e && r.2.openMsg && !r.2.broken && r.2.got = got then breakChannel s e else s

/-- A flit reaches a pseudo-channel's NI: its endpoint's receive queue takes it; no rule says where it would deposit it, so it waits there, no
count changes, and the window closes (R44, R45). While a message is open the next owned slot is watched. -/
def channelReceive (s : State) (p : Nat) (f : Flit) : State :=
  let a := memAgent (p / 128) (p % 128)
  let v := liveEntry s a tRecv 0 f.slot.val
  if !entryValid v then fabricRecord s 0x0702 f.slot.val (a.zeroExtend 64) 16
  else
    let e : EpId := BitVec.ofNat 32 (2 ^ 30 + p * 2 ^ 16 + entryEp v)
    match s.fab.pcRecv.find? (·.1 = e) with
    | none => s
    | some q =>
      if q.2.broken then s
      else if f.first = q.2.openMsg then breakChannel s e
      else
        let s := s.withFab fun x => { x with pcRecv := x.pcRecv.map fun r =>
          if r.1 = e then (e, { r.2 with queue := r.2.queue ++ [f], openMsg := !f.last, got := r.2.got + 1 }) else r }
        match nthOwned a (ownedSlots s a tRecv (entryEp v)) (s.now + 1) 0 with
        | some t => if f.last then s else s.at (t + 1) (.channelGap e (q.2.got + 1))
        | none => s

/-- A flit waits at a switch input. -/
def placeFlit (s : State) (a : AgentId) (port time : Nat) (f : Flit) : State :=
  (s.withFab fun x => { x with flits := x.flits ++ [⟨a, port, time, f⟩] }).atOnce time (.switchSlot a)

/-- Does the output's link carry a flit now (R504, R505)? -/
def outputCarries (s : State) (a : AgentId) (out : Nat) : Bool :=
  match linkOver a out with
  | some l => linkCarries s l
  | none => true

/-- A flit meets an NI other than the core's own: one whose entry for its number is idle drops it and records DROP (R501). -/
def dropAt (s : State) (ni : AgentId) (f : Flit) : State :=
  if entryValid (liveEntry s ni tRecv 0 f.slot.val) || Config.freeTrunk ni.toNat tRecv.toNat 0 f.slot.val then s
  else fabricRecord s 0x0702 f.slot.val (ni.zeroExtend 64) 16

/-- Sends a flit on an output. It reaches an NI a cycle later, where it meets the receive entry in force as it left (R33, R45). DESIGN CHOICE
(log 67): R33's table gives no transit for the link from a memory die's switch to a pseudo-channel's NI, which takes the flit in the cycle it leaves
the switch. -/
def sendOn (s : State) (a : AgentId) (out : Nat) (f : Flit) : State :=
  if !outputCarries s a out then s
  else match farEnd a out with
    | .switch b p t => placeFlit s b p (leaveTime b f.slot.val (s.now + t)) f
    | .core n =>
      if n = s.core.gcore then s.at (s.now + 1) (.flitReceive f (liveEntry s (niAgent n) tRecv 0 f.slot.val)) else dropAt s (niAgent n) f
    | .channel p => channelReceive s p f
    | .block p => if 376 ≤ p then dropAt s (hubNi p) f else s
    | _ => s

/-- The slot of an agent, as a flit's number. -/
def slotFin (a : AgentId) (t : Nat) : Fin 256 := ⟨slotAt a t % 256, Nat.mod_lt _ (by decide)⟩

/-- The outputs whose entry in a slot names an input. Entry 0 of every output holds the configuration tree (R28). -/
def outputsFor (s : State) (a : AgentId) (port slot : Nat) : List Nat :=
  let listed := (s.fab.tables.filter fun e =>
    e.agent = a && e.table = tSwitch && e.slot = slot && !e.lost && entryValid e.live && (e.live.extractLsb' 0 9).toNat = port).map (·.port)
  if slot = 0 then
    (List.range 420).filter fun o => listed.contains o || ((tableFind s a tSwitch o 0).isNone && treeEntry a o = BitVec.ofNat 16 (0x8000 + port))
  else listed

/-- One flit meets the entries of its slot; a flit no output takes is dropped and recorded. -/
def switchFlit (s : State) (q : InFlit) : State :=
  let k := slotFin q.agent s.now
  let x := checkFlit s q.agent q.flit
  match outputsFor x.2 q.agent q.port k.val with
  | [] => fabricRecord x.2 0x0702 (q.port * 2 ^ 16 + q.flit.slot.val) (q.agent.zeroExtend 64) 16
  | os => os.foldl (fun s o => sendOn s q.agent o { x.1 with slot := k }) x.2

/-- R29. -/
def execSwitchSlot (agent : AgentId) (s : State) : Host.Outcome State Fault Refusal :=
  let due := s.fab.flits.filter fun q => q.agent = agent && decide (q.time ≤ s.now)
  let s := s.withFab fun x => { x with flits := x.flits.filter fun q => !(q.agent = agent && decide (q.time ≤ s.now)) }
  done (due.foldl switchFlit s)

/-- R41: a management flit leaves in its own slot of the next wheel. -/
def execMgmtFlitRelay (agent : AgentId) (port : Nat) (f : Flit) (s : State) : Host.Outcome State Fault Refusal :=
  done (placeFlit s agent port (nextStart agent s.now + f.slot.val) f)

/-! ## Configuration agents (R63, R64) -/

/-- An agent's commit register takes W, and it commits at that wheel's first slot. -/
def armCommit (s : State) (a : AgentId) (w : Nat) : State :=
  (s.withFab fun f => { f with commits := f.commits.filter (·.1 != a) ++ [(a, w)] }).atOnce
    (max (wheelStart a w) s.now) (.stagedCommit a)

/-- One record is staged. -/
def stageRecord (w : Nat) (s : State) (r : CfgRec) : State :=
  armCommit (tableSet s r.agent r.table r.port.toNat r.slot.toNat fun e => { e with staged := r.value, spend := true }) r.agent w

/-- R63, KIND 0. -/
def execConfigStageEntries (w : Nat) (recs : List CfgRec) (s : State) : Host.Outcome State Fault Refusal :=
  done (recs.foldl (stageRecord w) s)

/-- R68, KIND 2. -/
def execConfigStageDepth (agent : AgentId) (port w : Nat) (sdepth : BitVec 7) (s : State) :
    Host.Outcome State Fault Refusal :=
  done (armCommit (modAlign s agent port fun l => { l with sdepth := sdepth, apend := true }) agent w)

/-- A send endpoint of the core to which Proah has given a management slot holds a circuit with a window (R41). -/
def openManaged (s : State) : State :=
  let a := niAgent s.core.gcore
  ([128, 129, 130, 131] : List Nat).foldl (fun s k =>
    let v := liveEntry s a tSend 0 k
    let ep : Fin 32 := ⟨entryEp v % 32, Nat.mod_lt _ (by decide)⟩
    if entryValid v && !entryReverse v && !(s.core.send[ep]).circuit then
      s.modSend ep fun _ => { SendEp.idle with circuit := true, wins := [⟨0, 0⟩] }
    else s) s

/-- The agent's tables after its commit; the staged half of an entry that has committed reads zero (R440). -/
def commitTables (s : State) (a : AgentId) : State :=
  let t := s.withFab fun f => { f with
    tables := (f.tables.map fun e => if e.agent = a && e.spend then { e with live := e.staged, staged := 0, spend := false, lost := false } else e).filter
      fun e => !(e.live = 0 && e.staged = 0 && !e.spend && !e.lost)
    commits := f.commits.filter (·.1 != a) }
  if a = niAgent s.core.gcore then openManaged t else t

/-- A receiving end takes its staged depth (R34, R441); the link whose last end this is carries flits again, and its hold is lifted (R504). -/
def realign (s : State) (x : Align) : State :=
  let l := linkOfEnd x.agent x.port
  let s := modAlign s x.agent x.port fun a => { a with depth := a.sdepth, sdepth := 0, apend := false }
  let s := modLink s l fun k => { k with waits := k.waits.filter (· != x.agent) }
  if !(linkAt s l).waits.isEmpty then s
  else
    let s := modLink s l fun k => { k with state := .up, lost := false }
    let s := s.withFab fun f => { f with holds := f.holds.filter (·.1 != l) }
    fabricRecord (refreshHolds s) 0x0704 (x.measd.toNat * 2 ^ 24) (x.agent.zeroExtend 64) 16

/-- R30, R34, R64. -/
def execStagedCommit (agent : AgentId) (s : State) : Host.Outcome State Fault Refusal :=
  match s.fab.commits.find? (·.1 = agent) with
  | some c =>
    if s.now < wheelStart agent c.2 then done (s.atOnce (wheelStart agent c.2) (.stagedCommit agent))
    else
      let t := commitTables s agent
      done ((t.fab.aligns.filter fun x => x.agent = agent && x.apend).foldl realign t)
  | none => done s

/-- R503: accesses whose request or reply was lost receive their NI's error reply and end in HOLE. -/
def lostAccesses (s : State) : State :=
  s.core.reqs.foldl (fun s r =>
    if r.far && !(s.agenda.any fun e => e.2 = .remoteReplyArrive r.ticket) && !(s.clu.atomReqs.any fun q => q.op = .own r) then
      deferred s r cHOLE (r.acc.pa)
    else s) s

/-- R503: of the CREQs and CRELs on their way to Badger on a broken control circuit those that were lost complete BUSY; which were is left open
(log 25). -/
def lostRequests (s : State) : State :=
  s.agenda.foldl (fun s e => match e.2 with
    | .badgerRequestArrive r =>
      let t := { s with fresh := s.fresh + 1 }
      if r.gcore = s.core.gcore && r.handle.isSome && Config.freeChoice s.fresh % 2 = 1 then
        answerBusy (dropActs t fun a => a = .badgerRequestArrive r) r
      else t
    | _ => s) s

/-- R502: at the first slot of a wheel. The break of the core memory circuit stands for the trunks its accesses use (log 25). -/
def execCircuitBreak (src : BitVec 32) (reason : Nat) (s : State) : Host.Outcome State Fault Refusal :=
  if s.now % 256 != 0 then done (s.at s.nextWheel (.circuitBreak src reason))
  else
    let t := match circuitOf s src with
      | some c => breakCircuit s c reason
      | none => s
    done (if src = coreEp s.core.gcore 31 then lostAccesses t else if src = coreEp s.core.gcore 30 then lostRequests t else t)

/-! ## Read-backs and realignment (R40, R68) -/

/-- The read-back at the head of the queue leaves Badger, in the present wheel when no other flit of its has left in it (R441). -/
def sendReadback (s : State) : State :=
  match s.fab.readbacks with
  | [] => s
  | r :: _ =>
    let f := max s.wheel (s.fab.lastFlit + 1)
    sendConfig (s.withFab fun x => { x with lastFlit := f }) f (cfgFlit kReadback 0 [⟨r.1, tAlign, BitVec.ofNat 9 r.2, 0, 0⟩])

/-- Asks for a link's MEASD; Badger has one read-back out at a time. -/
def askReadback (s : State) (a : AgentId) (port : Nat) : State :=
  let t := s.withFab fun x => { x with readbacks := x.readbacks ++ [(a, port)] }
  if s.fab.readbacks.isEmpty then sendReadback t else t

/-- The upward reply of an agent, KIND 3: MEASD stands in VALUE [7:0], where the manual names no place (log 48). -/
def replyFlit (agent : AgentId) (port : Nat) (measd : BitVec 8) : BitVec 512 :=
  cfgFlit kReply 0 [⟨agent, tAlign, BitVec.ofNat 9 port, 0, measd.zeroExtend 16⟩]

/-- What a read-back record asks for: an entry's live half, or for TABLE 3 a link's MEASD (R63). -/
def readRecord63 (s : State) (here : AgentId) (r : CfgRec) : CfgRec :=
  let v : BitVec 16 :=
    if r.table = tAlign then (alignAt s here r.port.toNat).measd.zeroExtend 16
    else match tableFind s here r.table r.port.toNat r.slot.toNat with
      | some e => if e.lost then 0 else e.live
      | none => if r.slot = 0 && r.table = tSwitch then treeEntry here r.port.toNat else 0
  { r with value := v }

/-- R63, KIND 1: the reply goes up one link a wheel (R40). -/
def execConfigReadback (agent : AgentId) (port : Nat) (s : State) : Host.Outcome State Fault Refusal :=
  done (s.at (s.now + 256) (.configUp (agentDepth agent) (replyFlit agent port (alignAt s agent port).measd)))

/-- Commit wheels of changes of which a flit has left. -/
def begun (s : State) (w : Nat) : Bool :=
  s.fab.commits.any (·.2 = w) || s.agenda.any fun e => match e.2 with
    | .configFlit here d => cfgKind d = kEntries && cfgWheel d = w && decide (leftAt e.1 here ≤ s.wheel)
    | _ => false

/-- The flits of changes whose first flit has not left: commit wheel, the wheel each leaves in, and the agents of its records. -/
def unsentFlits (s : State) : List (Nat × Nat × List AgentId) := s.agenda.filterMap fun e => match e.2 with
  | .configFlit here x =>
    if cfgKind x = kEntries && !begun s (cfgWheel x) then some (cfgWheel x, leftAt e.1 here, (cfgRecs x).map (·.agent)) else none
  | _ => none

/-- How far such changes, by commit wheel in the order they leave, must be put off for a first flit in wheel cur or later, after the commits in
hold of agents they touch (R65). -/
def putOff (flits : List (Nat × Nat × List AgentId)) : (ws : List Nat) → (cur : Nat) → (hold : List (AgentId × Nat)) → List (Nat × Nat)
  | [], _, _ => []
  | w :: ws, cur, hold =>
    let mine := flits.filter (·.1 = w)
    let first := (mine.map (·.2.1)).foldl min (w - 9)
    let last := (mine.map (·.2.1)).foldl max first
    let touched := mine.flatMap (·.2.2)
    let start := max (max first cur) (((hold.filter fun h => touched.contains h.1).map fun h => h.2 + 1).foldl max 0)
    let d := start - first
    (w, d) :: putOff flits ws (last + d + 1) (hold ++ touched.map fun a => (a, w + d))

/-- Changes whose first flit has not left make way for a flit in wheel k whose agent commits at w, each put off no further than it must be. -/
def delayChanges (s : State) (k : Nat) (agent : AgentId) (w : Nat) : State :=
  let flits := unsentFlits s
  let ds := putOff flits ((flits.map (·.1)).eraseDups.insertionSort (· ≤ ·)) (k + 1) [(agent, w)]
  let put := fun (v : Nat) => ((ds.find? (·.1 = v)).map (·.2)).getD 0
  let last := (flits.map fun f => f.2.1 + put f.1).foldl max k
  { s with
    agenda := s.agenda.map fun e => match e.2 with
      | .configFlit here x =>
        if cfgKind x != kEntries || begun s (cfgWheel x) then e
        else (e.1 + 256 * put (cfgWheel x), .configFlit here (cfgFlit kEntries (cfgWheel x + put (cfgWheel x)) (cfgRecs x)))
      | _ => e
    fab := { s.fab with lastFlit := max s.fab.lastFlit last } }

/-- R68: the KIND 2 flit goes before the changes whose first flit has not left; a change to the same agent waits for the depth's commit
(R65). -/
def stageDepth (s : State) (agent : AgentId) (port : Nat) (measd : BitVec 8) : State :=
  let flits := s.agenda.filterMap fun e => match e.2 with
    | .configFlit here x =>
      if cfgKind x = kEntries then some (cfgWheel x, leftAt e.1 here, (cfgRecs x).any (·.agent = agent)) else none
    | _ => none
  let sent := flits.filter fun x => begun s x.1
  let held := ((s.fab.commits.filter (·.1 = agent)).map (·.2) ++ ((sent.filter (·.2.2)).map (·.1))).foldl max 0
  let k := max (max (s.wheel + 1) (held + 1)) ((sent.map (·.2.1 + 1)).foldl max 0)
  let w := k + 9
  sendConfig (delayChanges s k agent w) k (cfgFlit kDepth w [⟨agent, tAlign, BitVec.ofNat 9 port, 0, BitVec.ofNat 16 (129 - measd.toNat)⟩])

/-- R40: the reply comes up one link a wheel. At Badger it stages the depth and lets the next read-back go. -/
def execConfigReply (agent : AgentId) (port depth : Nat) (measd : BitVec 8) (s : State) :
    Host.Outcome State Fault Refusal :=
  if 1 < depth then done (s.at (s.now + 256) (.configUp (depth - 1) (replyFlit agent port measd)))
  else
    let t := s.withFab fun x => { x with readbacks := x.readbacks.drop 1 }
    done (sendReadback (stageDepth t agent port measd))

/-- A reply flit on its way up. At Badger each MEASD it brings stages a depth, and the next read-back goes. -/
def configUp (depth : Nat) (d : BitVec 512) (s : State) : Host.Outcome State Fault Refusal :=
  if 1 < depth then done (s.at (s.now + 256) (.configUp (depth - 1) d))
  else
    let t := s.withFab fun x => { x with readbacks := x.readbacks.drop 1 }
    done (sendReadback ((cfgRecs d).foldl (fun t r =>
      if r.table = tAlign then stageDepth t r.agent r.port.toNat (r.value.setWidth 8) else t) t))

/-- An agent acts on the records of a configuration flit that name it (R40, R63). -/
def agentTakes (here : AgentId) (d : BitVec 512) (s : State) : Host.Outcome State Fault Refusal :=
  let mine := (cfgRecs d).filter (·.agent = here)
  match mine with
  | [] => done s
  | r :: _ =>
    if cfgKind d = kEntries then execConfigStageEntries (cfgWheel d) mine s
    else if cfgKind d = kReadback then
      done (s.at (s.now + 256) (.configUp (agentDepth here) (cfgFlit kReply 0 (mine.map (readRecord63 s here)))))
    else if cfgKind d = kDepth then execConfigStageDepth here r.port.toNat (cfgWheel d) (r.value.setWidth 7) s
    else done s

/-- R40: the agent takes a flit of slot 0, acts on it, and re-sends it on its child links in slot 0 of the next wheel; the model follows the
links that lead to an agent a record names, since the others' agents do nothing. -/
def configFlit (here : AgentId) (d : BitVec 512) (s : State) : Host.Outcome State Fault Refusal :=
  let next := (((cfgRecs d).map (·.agent)).filterMap (nextDown here)).eraseDups
  let t := next.foldl (fun t b => t.at (wheelStart b ((s.now + (if onSpoke here then 128 else 256)) / 256)) (.configFlit b d)) s
  agentTakes here d t

/-! ## UCIe links (R504, R505) -/

/-- A link trains from a wheel, for 64 wheels at most. -/
def trainFrom (s : State) (l : Fin 352) (w : Nat) (lost : Bool) : State :=
  (modLink s l.val fun x => { x with state := .training w, lost := lost }).at (256 * (w + 64)) (.linkTrainTimeout l)

/-- R504: the hold wheel, and training three wheels after it. -/
def execLinkRetrainRequest (l : Fin 352) (s : State) : Host.Outcome State Fault Refusal :=
  if (linkAt s l.val).state != .up then done s
  else
    let n := nameWheel s 1
    let t := n.1.withFab fun f => { f with holds := f.holds ++ [(l.val, n.2)] }
    done (trainFrom (refreshHolds t) l (n.2 + 3) false)

/-- Breaks every circuit over a link. -/
def breakOver (s : State) (l : Nat) (reason : Nat) : State :=
  (s.fab.circuits.filter (circuitCrosses · l)).foldl (fun s c => breakSoon s c reason) s

/-- R505: the link is down, as the receiving end found it; it is tried again after 4,096 wheels. -/
def linkDown (s : State) (l : Fin 352) (e : AgentId × Nat) : State :=
  let s := modLink s l.val fun x => { x with state := .down, lost := true, waits := [] }
  let s := refreshHolds (s.withFab fun f => { f with holds := f.holds.filter (·.1 != l.val) })
  let s := fabricRecord s 0x0704 ((alignAt s e.1 e.2).measd.toNat * 2 ^ 24 + 2 ^ 16) (e.1.zeroExtend 64) 16
  (breakOver s l.val 3).at (256 * (s.wheel + 4096)) (.linkRetry l)

/-- A measured delay a link can work with (R33). -/
def goodDelay (d : BitVec 8) : Bool := 2 ≤ d.toNat && d.toNat ≤ 128

/-- R68, R505: the end of a training under way, with D as it measured it at both ends. Badger reads back and realigns the ends
whose D changed, and the die's end when neither did, so that the hold ends with a commit (R35, R504). -/
def execLinkTrained (l : Fin 352) (d : LinkDelays) (s : State) : Host.Outcome State Fault Refusal :=
  match (linkAt s l.val).state with
  | .training _ =>
    let e := spokeEnd l.val
    let ends := (if (alignAt s hubAgent l.val).measd = d.up then [] else [(hubAgent, l.val)]) ++
      (if (alignAt s e.1 e.2).measd = d.down then [] else [e])
    let ends := if ends.isEmpty then [e] else ends
    let t := modAlign (modAlign s hubAgent l.val fun x => { x with measd := d.up }) e.1 e.2 fun x => { x with measd := d.down }
    let t := dropActs t fun a => a = .linkTrainTimeout l
    if goodDelay d.up && goodDelay d.down then
      done (ends.foldl (fun t x => askReadback t x.1 x.2) (modLink t l.val fun k => { k with waits := ends.map (·.1) }))
    else done (linkDown t l (if goodDelay d.up then e else (hubAgent, l.val)))
  | _ => done s

/-- R505: 64 wheels have passed. -/
def execLinkTrainTimeout (l : Fin 352) (s : State) : Host.Outcome State Fault Refusal :=
  match (linkAt s l.val).state with
  | .training w => done (if 256 * (w + 64) ≤ s.now then linkDown s l (hubAgent, l.val) else s)
  | _ => done s

/-- R505. -/
def execLinkRetry (l : Fin 352) (s : State) : Host.Outcome State Fault Refusal :=
  done (if (linkAt s l.val).state = .down then trainFrom s l s.wheel true else s)

/-- Flits on the link are lost. -/
def loseFlits (s : State) (l : Nat) : State :=
  let onLink := fun (q : InFlit) => decide (s.now < q.time) &&
    ((q.agent = hubAgent && q.port = l) || (match farEnd hubAgent l with | .switch b p _ => q.agent = b && q.port = p | _ => false))
  s.withFab fun f => { f with flits := f.flits.filter fun q => !onLink q }

/-- The links the memory accesses of the core cross: of its cluster to the hub, and from there to the memory dies (R37, R177). -/
def memoryLink (s : State) (l : Nat) : Bool :=
  l = s.cluster / 96 * 20 + (hubPortOf s.cluster).2.2 || (160 ≤ l && (l - 160) % 48 = s.cluster % 48)

/-- The link the core's requests to Badger cross: of its die gateway's router to the hub, which stands at cluster (5, 3), (6, 3), (5, 4) or (6, 4)
(R177). -/
def controlLink (s : State) (l : Nat) : Bool :=
  let x := if clusterX s.cluster ≤ 5 then 5 else 6
  let y := if clusterY s.cluster ≤ 3 then 3 else 4
  l = s.cluster / 96 * 20 + (hubPortOf (s.cluster / 96 * 96 + 12 * y + x)).2.2

/-- R503, R505: requests to HBM or their replies may have been on the link; which were is left open (log 25). -/
def loseReplies (s : State) (l : Nat) : State :=
  if memoryLink s l then
    s.core.reqs.foldl (fun s r =>
      let t := { s with fresh := s.fresh + 1 }
      if r.far && Config.freeChoice s.fresh % 2 = 1 then dropActs t fun a => a = .remoteReplyArrive r.ticket else t) s
  else s

/-- R505: circuits over the link break at the first wheel Badger can name, the core's fixed ones where it carries them, and it trains three wheels
after. -/
def execLinkSignalLoss (l : Fin 352) (s : State) : Host.Outcome State Fault Refusal :=
  if (linkAt s l.val).state = .down then done s
  else
    let t := dropActs (loseReplies (loseFlits s l.val) l.val) fun a => a = .linkTrainTimeout l
    let n := nameWheel t 1
    let t := breakOver n.1 l.val 3
    let t := if memoryLink s l.val then t.at (256 * n.2) (.circuitBreak (coreEp s.core.gcore 31) 3) else t
    let t := if controlLink s l.val then t.at (256 * n.2) (.circuitBreak (coreEp s.core.gcore 30) 3) else t
    done (trainFrom t l (n.2 + 3) true)

/-! ## Inter-package ports (R47-R50, R506) -/

def modPort (s : State) (p : Fin 16) (f : Port → Port) : State :=
  s.withFab fun x => { x with ports := x.ports.set p (f x.ports[p]) }

/-- K of a measured delay (R48). -/
def portK (measd : Nat) : Nat := (measd + 4 + 255) / 256

/-- The endpoints of a port and of the exchange routing engine for it. The engine serves 16 ports at once, so it has a crossbar port for each;
which of 376-419 they are is left open (log 25). -/
def portEp (p : Fin 16) : EpId := BitVec.ofNat 32 (3 * 2 ^ 30 + p.val * 2 ^ 16)
def engineEp (p : Fin 16) : EpId := BitVec.ofNat 32 (2 * 2 ^ 30 + (376 + Config.freePort (p.val + 1) % 44) * 2 ^ 16 + p.val)

/-- The circuits of a locked port (R52): from the engine to the port and from the port to the engine, in all 246 circuit slots of the port. They
count against no queue; no hop lies outside the hub, and the records they carry are not cut into flits (log 23). -/
def exchangeCircuits (p : Fin 16) : List Circuit :=
  let slots := (List.range 256).filter circuitSlot
  [⟨engineEp p, [(portEp p, [])], 0, slots.map (· - 1), true⟩, ⟨portEp p, [(engineEp p, [])], 0, slots, true⟩]

/-- Lays the exchange circuits of a port that has locked (R52). -/
def layExchange (s : State) (p : Fin 16) : State :=
  (exchangeCircuits p).foldl (fun s c =>
    layNow (s.withFab fun f => { f with circuits := f.circuits.filter (·.src != c.src) ++ [c] }) (circuitClaims c)) s

/-- Badger breaks the exchange circuits of a port that has lost its lock, at a wheel it names (R52, R502, R506). -/
def breakExchange (s : State) (p : Fin 16) : State := (exchangeCircuits p).foldl (fun s c => breakSoon s c 4) s

/-- R506: the port drops to acquiring. -/
def loseLock (s : State) (p : Fin 16) : State :=
  let s := modPort s p fun x => { x with lock := 1, good := 0, bad := 0 }
  breakExchange (fabricRecord s 0x0705 (256 + p.val) (word (pkgNo s)) 16) p

/-- R506: two bad exchanges, or 256 wheels without a complete one. -/
def execPortLockLoss (port : Fin 16) (s : State) : Host.Outcome State Fault Refusal :=
  let p := s.fab.ports[port]
  done (if p.lock = 2 && (2 ≤ p.bad || p.lastWheel + 256 ≤ s.wheel) then loseLock s port else s)

/-- Offset within two slots of the master. -/
def inTime (offset : BitVec 16) : Bool := decide (-2 ≤ offset.toInt) && decide (offset.toInt ≤ 2)

/-- The counts of an exchange, and the lock after 16 good ones (R49). -/
def afterExchange (p : Port) (good : Bool) : Port :=
  let p := if good then { p with good := p.good + 1, bad := 0 } else { p with good := 0, bad := p.bad + 1 }
  if p.lock != 2 then { p with lock := if 16 ≤ p.good then 2 else 1 } else p

/-- The offset and the one-way delay of an IEEE 1588 exchange (R49) from its stamps: the sync leaves the master at t1 and arrives at t2, the
delay request leaves at t3 and reaches the master at t4. The manual gives no formula (log 53). -/
def syncOffset (t1 t2 t3 t4 : BitVec 64) : Int := ((t2 - t1).toInt - (t4 - t3).toInt) / 2
def syncDelay (t1 t2 t3 t4 : BitVec 64) : Int := ((t2 - t1).toInt + (t4 - t3).toInt) / 2

/-- R49, R506; a MEASD that needs K above 2 takes the port down, and it is tried again after 4,096 wheels (R505). The clock is trimmed, which State.now, the time kept in step, does not
show (log 53). -/
def execTimeSyncExchange (port : Fin 16) (sync request : Stamps) (s : State) : Host.Outcome State Fault Refusal :=
  let offset := BitVec.ofInt 16 (syncOffset sync.sent sync.arrived request.sent request.arrived)
  let measd := BitVec.ofInt 16 (syncDelay sync.sent sync.arrived request.sent request.arrived)
  let k := portK measd.toNat
  let was := s.fab.ports[port]
  if s.wheel < was.retry then done s
  else
  let s := modPort s port fun p => { p with measd := measd, k := BitVec.ofNat 8 k, offset := offset, lastWheel := s.wheel }
  if 2 < k then
    let t := fabricRecord s 0x0704 (fld (measd.zeroExtend 64) 7 0 * 2 ^ 24 + 2 ^ 16) (hubAgent.zeroExtend 64) 16
    let t := modPort t port fun p => { p with lock := 0, good := 0, bad := 0, retry := s.wheel + 4096 }
    done (if was.lock = 2 then breakExchange t port else t)
  else
    let t := modPort s port fun p => afterExchange p (inTime offset)
    let p := t.fab.ports[port]
    let t := t.at (256 * (s.wheel + 256)) (.portQuiet port)
    done (if p.lock = 2 && 2 ≤ p.bad then loseLock t port
      else if p.lock = 2 && was.lock != 2 then layExchange t port else t)

/-- A slot that management flits use on an inter-package port (R47). -/
def timeSlot (k : Nat) : Bool := 128 ≤ k && k ≤ 130

/-- R48: a flit of the sender's wheel w is numbered in wheel w + K here; an unlocked port discards circuit flits (R506). -/
def portArrive (s : State) (port : Fin 16) (f : Flit) (w : Nat) : State :=
  let p := s.fab.ports[port]
  let v := w + p.k.toNat
  let k := f.slot.val
  if circuitSlot k then
    (if p.lock = 2 then placeFlit s hubAgent (352 + port.val) (max (s.now + 1) (256 * v + k + 1)) f else s)
  else if timeSlot k then placeFlit s hubAgent (352 + port.val) (max (s.now + 1) (256 * (v + 1) + k)) f
  else s

/-- R48. -/
def execInterpkgFlitArrive (port : Fin 16) (f : Flit) (w : Nat) (s : State) : Host.Outcome State Fault Refusal :=
  done (portArrive s port f w)

/-! ## Domain planes (R51) -/

/-- The package a plane sends a flit to. -/
def planeOut (perms : List PlanePerm) (pkg slot w : Nat) : Option Nat :=
  if timeSlot slot then some (pkg ^^^ (w % 64))
  else if circuitSlot slot then
    (perms.find? (·.wheel = w)).bind fun p => (p.pairs.find? (·.1 = pkg)).map (·.2)
  else none

/-- R51: of the flits a plane relays, those for this package arrive at its port of the plane's number. -/
def execPlaneRelay (plane : Fin 16) (pkg : Fin 64) (f : Flit) (w : Nat) (s : State) : Host.Outcome State Fault Refusal :=
  let dest := planeOut s.fab.perms[plane] pkg.val f.slot.val w
  done (if dest = some (pkgNo s) && pkg.val != pkgNo s then portArrive s plane f w else s)

/-- R51: only package 0 holds the active Owl (R49), and all 16 planes hold the same permutations, so the flit to one stands for those to all. -/
def execPlaneControlFlit (_plane : Fin 16) (pkg : Fin 64) (perms : List PlanePerm) (s : State) :
    Host.Outcome State Fault Refusal :=
  done (if pkg.val != 0 then s else setPerms s perms)

end Sys2Proof.Machine
end

