-- ==== Sys2Proof/Machine/Sched.lean ====
section
/-! DEFINITION. From launch to issue slot (R70-R74, R249-R273, R529): enqueues, the dispatcher, placement, stealing, slices, the start of
gangs and the end of cells, gangs and jobs. -/

namespace Sys2Proof.Machine

/-! ## The function table and the partitions (R249, R281) -/

def fnMask (s : State) (f : Nat) : Word := hubGet s (rFunc f 0)
def fnSlice (s : State) (f : Nat) : Nat := fld (hubGet s (rFunc f 0)) 31 0
def fnDrain (s : State) (f : Nat) : Nat := fld (hubGet s (rFunc f 1)) 31 0
/-- WEIGHT of a process. -/
def fnWeight (s : State) (f p : Nat) : Nat := fld (hubGet s (rFunc f (3 + p / 8))) (8 * (p % 8) + 7) (8 * (p % 8))

def partValid (s : State) (p : Nat) : Bool := (hubGet s (rPart p 0)).getLsbD 63
def partExact (s : State) (p : Nat) : Bool := (hubGet s (rPart p 0)).getLsbD 62

/-- The partition's cores, ascending. -/
def partCores (s : State) (p : Nat) : List Nat := (partClusters s p).flatMap fun c => (List.range 16).map fun i => 16 * c + i

/-- The dies that hold clusters of the partition, ascending. -/
def partDies (s : State) (p : Nat) : List Nat :=
  let cs := partClusters s p
  (List.range 8).filter fun d => cs.any fun c => c / 96 = d

/-- The functions the partition rotates among (R252). -/
def eligibleFns (s : State) (p : Nat) : List (Fin 17) :=
  (List.finRange 17).filter fun f => (fnMask s f.val).getLsbD (48 + p) && fnSlice s f.val != 0

def fin17 (n : Nat) : Fin 17 := ⟨n % 17, Nat.mod_lt _ (by decide)⟩
def fin16 (n : Nat) : Fin 16 := ⟨n % 16, Nat.mod_lt _ (by decide)⟩
def fin8 (n : Nat) : Fin 8 := ⟨n % 8, Nat.mod_lt _ (by decide)⟩

/-- The function's checkpoint or rollback is in progress (R536), or the function is in reset (R542). -/
def fnHeld (s : State) (f : Fin 17) : Bool :=
  (hubGet s (rCkpt f.val 4)).getLsbD 62 || s.hub.resetting.any (·.1 = f)

def modPart (s : State) (p : Fin 16) (f : PartRun → PartRun) : State :=
  s.withHub fun h => { h with parts := h.parts.set p (f h.parts[p]) }

/-! ## Enqueue (R250, R259, R276, R411) -/

/-- The dispatcher looks at a partition at a die wheel: its dies in ascending order, the lowest first. -/
def planDispatch (s : State) (p : Fin 16) (t : Nat) : State :=
  (partDies s p.val).foldl (fun s d => s.atOnce t (.dispatchGang p (fin8 d))) s

/-- The die wheel that begins at least 256 and fewer than 512 cycles on. -/
def launchWheel (s : State) : Nat := (s.now + 383) / 256 * 256 + 128

/-- The partitions a function may run on. -/
def fnParts (s : State) (f : Nat) : List (Fin 16) :=
  (List.finRange 16).filter fun p => (fnMask s f).getLsbD (48 + p.val) && partValid s p.val

/-- An advance of TAIL by n records: none of them starts before the launch wheel, in which the dispatcher looks at the function's partitions
(R259). -/
def enqueued (s : State) (q n : Nat) : State :=
  let e := (BitVec.ofNat 12 q, (qTail s q + 2 ^ 32 - n) % 2 ^ 32, n, launchWheel s)
  let s := s.withHub fun h => { h with enq := (h.enq.filter fun x => decide (s.now < x.2.2.2)) ++ [e] }
  (fnParts s (qFunc s q)).foldl (fun s p => planDispatch s p (launchWheel s)) s

/-- A record whose launch wheel is still to come. -/
def tooEarly (s : State) (q n : Nat) : Bool :=
  s.hub.enq.any fun x => x.1.toNat = q && decide ((n + 2 ^ 32 - x.2.1) % 2 ^ 32 < x.2.2.1) && decide (s.now < x.2.2.2)

/-- R276: a TAIL that moves backwards, or past the ring, is ignored. Jobs of the host are inputs the jay logs (R285). -/
def hostEnqueue (s : State) (q : BitVec 12) (tail : BitVec 32) : State :=
  let n := q.toNat
  let w := hubGet s (rQueue n 1)
  let old := qTail s n
  let step := (tail.toNat + 2 ^ 32 - old) % 2 ^ 32
  if qCount s n + step ≤ qSize s n then
    let s := hubPut s (rQueue n 1) (setFld w 31 0 tail.toNat)
    let s := (fnParts s (qFunc s n)).foldl (fun s p => jayLog s p.val 1 8 (word (Config.hubBase + rQueue n 1)) [tail.zeroExtend 64]) s
    if step = 0 then s else enqueued s n step
  else s

/-- A host's write to TAIL; while a partition of the queue's function replays, the jay's copy of it alone counts (R286). -/
def liveEnqueue (s : State) (q : BitVec 12) (tail : BitVec 32) : State :=
  if (fnParts s (qFunc s q.toNat)).any (fun p => replays s p.val) then s else hostEnqueue s q tail

/-- A write of a virtual function that is discarded, at its physical address (R275, R478, R479); while the function is reset it leaves no record (R542). -/
def discardVf (s : State) (f : Fin 17) (pa : Nat) : State :=
  if s.hub.resetting.any (·.1 = f) then s
  else setFstat (errRecord s 4 0 0 0 (word pa) f.val 0 []) f.val fstatVfwrite

/-- R275, R276. -/
def execEnqueue (q : BitVec 12) (tail : BitVec 32) (f : Fin 17) (s : State) : Host.Outcome State Fault Refusal :=
  if s.hub.resetting.any (·.1 = f) then done s
  else if f.val = 16 || qFunc s q.toNat = f.val then done (liveEnqueue s q tail)
  else done (discardVf s f (Config.hubBase + rQueue q.toNat 1))

/-- R411: the hub writes the record at TAIL, once it has read it; a full ring makes the handle PARTIAL. A function in reset launches nothing
(R544). The record's read is charged to the issuing queue's class and its write to the class of the queue it joins (log 65). -/
def execLaunchEnqueue (h : Fin 128) (q : BitVec 12) (job : Vector Word 8) (s : State) : Host.Outcome State Fault Refusal :=
  let n := q.toNat
  if hbmBusy s h then done (s.at (s.now + 1) (.launchEnqueue h q job))
  else
  let s := startEntry s h
  if s.hub.resetting.any (fun f => f.1.val = qFunc s n) then done (completeAt s (s.now + 1) h stCancelled)
  else if qCount s n < qSize s n then
    let pa := qRecord s n (qTail s n)
    let t := askLines { s with ticket := s.ticket + 1 } s.ticket (some h) (qClass s n) true [pa]
    let t := putWords t pa job.toList
    let w := hubGet t (rQueue n 1)
    let t := hubPut t (rQueue n 1) (setFld w 31 0 (qTail s n + 1))
    done (completeAt (enqueued t n 1) (s.now + 1) h stDone)
  else done (completeAt s (s.now + 1) h stPartial)

/-! ## Jobs that are refused (R529) -/

/-- The image table of a job and both images read as R272 asks, through the job's stage-1 translation. -/
def imageOk (s : State) (f : Nat) (job : Job) (ptroot : Word) : Bool :=
  let rd := fun va => match walkVa s f ptroot va with
    | .ok e => e.r && e.r2 && (match home s (e.pa va) with | .hole | .hub => false | _ => true)
    | .error _ => false
  let at_ := fun va => match walkVa s f ptroot va with | .ok e => wordAt s (e.pa va) | .error _ => 0
  let span := fun (va n : Nat) => (List.range ((n + 4095) / 4096)).all (fun i => rd (va + 4096 * i)) && (n = 0 || rd (va + n - 1))
  job.img = 0 ||
    ((List.range 4).all (fun i => rd (job.img + 8 * i)) &&
     (let w := fun i => at_ (job.img + 8 * i)
      fld (w 0) 63 43 = 0 && fld (w 1) 63 18 = 0 && fld (w 2) 63 43 = 0 && fld (w 3) 63 22 = 0 &&
      (w 1).toNat % 8 = 0 && (w 1).toNat ≤ 0x20000 && (w 3).toNat % 8 = 0 && (w 3).toNat ≤ 0x200000 &&
      span (w 0).toNat (w 1).toNat && span (w 2).toNat (w 3).toNat))

/-- A word of the context block of a queue (R270). -/
def ctxWord (s : State) (q i : Nat) : Word := wordAt s (fld (hubGet s (rQueue q 3)) 42 0 + 8 * i)

/-- R251, R272, R529. -/
def jobRefused (s : State) (p f q : Nat) (job : Job) : Bool :=
  !job.legal (partCores s p).length || (16 < job.cells && job.accs != 0 && !job.recomp) ||
    (job.recomp && job.restart = 0) || !imageOk s f job (ctxWord s q 1)

/-- HEAD of a queue. -/
def setHead (s : State) (q n : Nat) : State := hubPut s (rQueue q 1) (setFld (hubGet s (rQueue q 1)) 63 32 n)

/-- A CLASS 3 record: detail 1 a killed gang, 2 a refused record (R478, R529). -/
def killedRecord (s : State) (detail f p q index : Nat) : State :=
  setFstat (errRecord s 3 0 0 detail (word (q * 2 ^ 32 + index % 2 ^ 32)) f p []) f fstatKilled

/-! ## Heads and placement (R253, R257) -/

/-- A job a die could start a gang of: its queue, record, and the gang's number. -/
structure Cand where
  queue : Nat
  index : Nat
  job : Job
  gang : Nat
deriving DecidableEq, Repr

/-- The firing die (R256, R529). -/
def firingDie (s : State) (p : Nat) (job : Job) : Nat :=
  let ds := partDies s p
  match job.homeDie with
  | some d => if ds.contains d then d else ds.headD 0
  | none => ds.headD 0

/-- Undispatched gangs of a queue's job. -/
def openDeps (s : State) (q : Nat) : List Dep := s.hub.deps.filter fun d => d.queue.toNat = q && decide (d.lo < d.hi)

/-- The function's queues of the partition's mode-device (R279). -/
def queuesOn (s : State) (p f : Nat) : List Nat := (liveQueues s).filter fun q => qFunc s q = f && queueDevice s q = partDevice s p

/-- The next gangs of die d's table, in the order of their queues. -/
def headsOf (s : State) (p f d : Nat) : List Cand :=
  (queuesOn s p f).filterMap fun q =>
    match (openDeps s q).find? fun x => x.part.val = p && x.die = d with
    | some x => (s.hub.jobs.find? fun j => j.queue.toNat = q && j.index = x.index).map fun j => ⟨q, x.index, j.job, x.lo⟩
    | none => none

/-- The ranges SAVE of a queue holds: die, lo and hi (R264). -/
def savedRanges (s : State) (q : Nat) : List (Nat × Nat × Nat) := (List.range 8).filterMap fun d =>
  let w := hubGet s (rQueue q (4 + d))
  if fld w 31 0 < fld w 63 32 then some (d, fld w 31 0, fld w 63 32) else none

/-- The records at the heads of the function's queues that have not been taken, whose wait is over and whose launch wheel has come; a process of
WEIGHT 0 is not scheduled (R249), and a record with ranges in SAVE waits for the function's next slice (R264). -/
def freshHeads (s : State) (p f : Nat) : List Cand :=
  (queuesOn s p f).filterMap fun q =>
    if (openDeps s q).isEmpty && 0 < qCount s q && !tooEarly s q (qHead s q) && 0 < fnWeight s f (qProc s q) && (savedRanges s q).isEmpty &&
        (headJob s q).ready s f then
      some ⟨q, qHead s q, headJob s q, 0⟩
    else none

/-- Cores that hold a cell, or get one back from a den in this slice (R267). -/
def busyCores (s : State) : List Nat :=
  s.hub.gangs.flatMap (·.cores) ++
    (s.hub.dens.filter fun d => (s.hub.parts[d.part]).func = some d.func).flatMap fun d => d.gangs.flatMap (·.cores)

/-- R257: the first run of free cores from the firing die's first core on, wrapping. -/
def placeJob (s : State) (p d : Nat) (job : Job) : Option (List Nat) :=
  let cs := partCores s p
  let n := cs.length
  let from_ := (cs.findIdx? fun c => c / 1536 = d).getD 0
  let busy := busyCores s
  if n < job.cells then none
  else (List.range n).findSome? fun i =>
    let run := (List.range job.cells).map fun j => cs.getD ((from_ + i + j) % n) 0
    let one := job.accs = 0 || job.recomp || run.all (fun c => c / 16 = run.headD 0 / 16)
    if one && run.all (fun c => !busy.contains c) then some run else none

/-! ## The choice (R253) -/

def passOf (s : State) (f p : Nat) : Nat :=
  ((s.hub.pass.find? fun x => x.1.1.val = f && x.1.2.val = p).map (·.2)).getD 0

def setPass (s : State) (f p n : Nat) : State :=
  s.withHub fun h => { h with pass := h.pass.filter (fun x => !(x.1.1.val = f && x.1.2.val = p)) ++ [((fin17 f, fin16 p), n)] }

/-- A process that joins takes the lowest PASS among those it joins, if that is higher. -/
def joinProcs (s : State) (part f : Nat) (ps : List Nat) : State :=
  let was := fun p => s.hub.among.contains (fin16 part, fin17 f, fin16 p)
  let old := (ps.filter was).map (passOf s f)
  let low := match old with | [] => 0 | x :: xs => xs.foldl min x
  let s := (ps.filter fun p => !was p).foldl (fun s p => setPass s f p (max (passOf s f p) low)) s
  s.withHub fun h => { h with among := h.among.filter (fun x => x.1.val != part) ++ ps.map fun p => (fin16 part, fin17 f, fin16 p) }

/-- The least by a measure, the first of equals. -/
def leastBy {α : Type} (m : α → Nat) : List α → Option α
  | [] => none
  | x :: xs => match leastBy m xs with
    | none => some x
    | some y => if m x ≤ m y then some x else some y

/-- The chosen candidate: the process of lowest PASS, and of its queues the one of highest effective priority. -/
def choose (s : State) (f : Nat) (cs : List Cand) : Option Cand :=
  let ps := ((List.range 16).filter fun p => 0 < fnWeight s f p && cs.any fun c => qProc s c.queue = p)
  match leastBy (passOf s f) ps with
  | none => none
  | some p => leastBy (fun c => 7 - effectivePriority s c.queue) (cs.filter fun c => qProc s c.queue = p)

/-! ## A gang is dispatched -/

/-- A job fires (R256): the record is taken, so HEAD advances, the job is under way, and its gangs stand in the firing die's table. -/
def takeJob (s : State) (p : Fin 16) (f : Fin 17) (c : Cand) : State :=
  let q := BitVec.ofNat 12 c.queue
  let s := setHead s c.queue (qHead s c.queue + 1)
  let known := s.hub.jobs.any fun j => j.queue = q && j.index = c.index
  s.withHub fun h => { h with
    jobs := if known then h.jobs else h.jobs ++ [⟨p, f, q, c.index, c.job, 0, false, false⟩]
    deps := h.deps ++ [⟨p, firingDie s p.val c.job, q, c.index, 0, c.job.gangs⟩] }

/-- The die's range loses its lowest gang; an empty range leaves the table. -/
def takeGang (s : State) (p : Fin 16) (d : Nat) (q : BitVec 12) : State :=
  s.withHub fun h => { h with deps := (h.deps.map fun x =>
      if x.part = p && x.die = d && x.queue = q then { x with lo := x.lo + 1 } else x).filter fun x => x.lo < x.hi }

/-- The function that last used a core, and a cluster (R273). -/
def coreLast (s : State) (c : Nat) : Option (Fin 17) :=
  if c = s.core.gcore then s.core.lastFn else (s.hub.coreUser.find? (·.1 = c)).map (·.2)
def clusterLast (s : State) (c : Nat) : Option (Fin 17) := (s.hub.clusterUser.find? (·.1 = c)).map (·.2)

/-- Cycles a start waits for: the clearing on a change of function, which the manual does not time (log 3), and the image copy, one
cycle per 64 bytes (R259, R272, R273). -/
def setupTime (s : State) (f : Fin 17) (q : Nat) (job : Job) (cores : List Nat) : Nat :=
  let clear := if cores.all fun c => coreLast s c = some f && clusterLast s (c / 16) = some f then 0 else Config.freeDelay s.fresh
  let copy := if job.img = 0 then 0
    else match walkVa s f.val (ctxWord s q 1) job.img with
      | .ok e => ((wordAt s (e.pa job.img + 8)).toNat + (wordAt s (e.pa job.img + 24)).toNat + 63) / 64
      | .error _ => 0
  clear + copy

/-- The first slot of the die wheel at or after a time. -/
def dieWheelFrom (t : Nat) : Nat := (t + 128 + 255) / 256 * 256 - 128

/-- Starts a gang of the candidate on the cores. -/
def startGang (s : State) (p : Fin 16) (f : Fin 17) (d : Nat) (c : Cand) (cores : List Nat) : State :=
  let q := BitVec.ofNat 12 c.queue
  let s := takeGang s p d q
  let t := dieWheelFrom (s.now + setupTime s f c.queue c.job cores)
  let g : Gang := ⟨c.job, f, p, q, c.gang, cores, dieWheel t⟩
  let own := cores.contains s.core.gcore
  let s := { s with fresh := s.fresh + 1 }.withHub fun h => { h with
    gangs := h.gangs ++ [(⟨p, f, q, c.index, c.gang, cores, own, cores.any (· != s.core.gcore)⟩ : GangRun)] }
  let mine := fun (t : Try) => t.queue = q && t.index = c.index && t.gang = c.gang
  let s := modPart s p fun x => { x with
    tries := x.tries.filter fun t => !mine t
    pinned := if x.pinned = some (q, c.index, c.gang) then none else x.pinned
    busy := true }
  let s := if cores.any (· != s.core.gcore) then s.later none (.othersEnd q c.index c.gang) else s
  s.at (max t s.now) (.gangStart g)

/-- PASS of the chosen process advances. -/
def advancePass (s : State) (f : Nat) (c : Cand) : State :=
  let p := qProc s c.queue
  let w := max 1 (fnWeight s f p)
  setPass s f p (passOf s f p + (65536 + w - 1) / w * c.job.cells)

/-- A head record the dispatcher refuses (R529): HEAD moves past it. -/
def refuseJob (s : State) (p f : Nat) (c : Cand) : State :=
  killedRecord (setHead s c.queue (qHead s c.queue + 1)) 2 f p c.queue c.index

/-- A checkpoint is to be taken before the candidate's job (R537). -/
def wantsCkpt (s : State) (f : Nat) (c : Cand) : Bool :=
  c.job.ckpt && fld (hubGet s (rCkpt f 0)) 42 13 != 0 && !s.hub.ckptDone.contains (BitVec.ofNat 12 c.queue, c.index)

/-- BUSY is set and the engine waits until no gang of the function runs. -/
def beginCkpt (s : State) (f : Fin 17) : State :=
  let w := hubGet s (rCkpt f.val 4)
  (hubPut s (rCkpt f.val 4) (w ||| bitsMask 62 62)).atOnce s.nextDieWheel (.checkpointTake f)

/-- The heads of the function's queues at a wheel's first slot: refusals, checkpoints, and the jobs that fire (R256, R529, R537). -/
def fireJobs (s : State) (p : Fin 16) (f : Fin 17) : State :=
  if fnHeld s f then s
  else
    let cs := freshHeads s p.val f.val
    let bad := cs.filter fun c => jobRefused s p.val f.val c.queue c.job
    let good := cs.filter fun c => !jobRefused s p.val f.val c.queue c.job
    let s := bad.foldl (fun s c => refuseJob s p.val f.val c) s
    if good.any (wantsCkpt s f.val) then beginCkpt s f
    else good.foldl (fun s c => takeJob s p f c) s

/-- Die d can place the candidate. -/
def fits (s : State) (p d : Nat) (c : Cand) : Bool := (placeJob s p d c.job).isSome

/-- The processes with a dispatchable job on any die of the partition (R253). -/
def readyProcs (s : State) (p f : Nat) : List Nat :=
  let cs := (partDies s p).flatMap fun d => (headsOf s p f d).filter (fits s p d)
  (List.range 16).filter fun i => 0 < fnWeight s f i && cs.any fun c => qProc s c.queue = i

/-- Does a try concern the candidate? -/
def Try.isOf (t : Try) (c : Cand) : Bool := t.queue.toNat = c.queue && t.index = c.index && t.gang = c.gang

/-- R258: a wheel in which the candidate, chosen now or before, is not placed; each wheel counts once. -/
def noteTry (s : State) (p : Fin 16) (c : Cand) : State :=
  let w := dieWheel s.now
  let old := (s.hub.parts[p]).tries
  match old.find? (·.isOf c) with
  | some t => if t.last = w then s else modPart s p fun x => { x with tries := x.tries.map fun y => if y = t then { t with count := t.count + 1, last := w } else y }
  | none => modPart s p fun x => { x with tries := x.tries ++ [⟨BitVec.ofNat 12 c.queue, c.index, c.gang, 1, w⟩] }

/-- The first gang that 64 wheels have not placed. -/
def stuckTry (x : PartRun) : Option Try := if x.pinned.isSome then none else x.tries.find? fun t => decide (64 ≤ t.count)

/-- While a gang is pinned no other starts on the partition (R258). -/
def unpinned (x : PartRun) (cs : List Cand) : List Cand := cs.filter fun c => match x.pinned with
  | some t => (BitVec.ofNat 12 c.queue, c.index, c.gang) = t
  | none => true

/-- Die d's turn in a wheel: at most one gang, and while one is pinned only that one. -/
def dispatchDie (s : State) (p : Fin 16) (f : Fin 17) (d : Nat) : State :=
  let x := s.hub.parts[p]
  let cs := unpinned x (headsOf s p.val f.val d)
  let s := joinProcs s p.val f.val (readyProcs s p.val f.val)
  let s := match choose s f.val cs with
    | some c => if fits s p.val d c then s else noteTry s p c
    | none => s
  let s := (cs.filter fun c => x.tries.any (·.isOf c) && !fits s p.val d c).foldl (fun s c => noteTry s p c) s
  let s := if (stuckTry s.hub.parts[p]).isSome then s.at s.now (.gangPinned p) else s
  match choose s f.val (cs.filter (fits s p.val d)) with
  | some c =>
    (match placeJob s p.val d c.job with
     | some cores => advancePass (startGang s p f d c cores) f.val c
     | none => s)
  | none => s

/-! ## Stealing (R256) -/

/-- The range a thief takes: the upper half of the largest one, ties to the lowest die. -/
def stealFrom (s : State) (p : Fin 16) (d : Nat) : Option Dep :=
  match leastBy (fun (x : Dep) => (2 ^ 32 - (x.hi - x.lo)) * 8 + x.die) (s.hub.deps.filter fun x => x.part = p && x.die != d) with
  | some x => if 2 ≤ x.hi - x.lo then some x else none
  | none => none

/-- An idle die steals once; exact partitions do not (R286). -/
def steal (s : State) (p : Fin 16) (d : Nat) : State :=
  let idle := (partDies s p.val).contains d && !s.hub.deps.any fun x => x.die = d && decide (x.lo < x.hi)
  if !idle || partExact s p.val then s
  else match stealFrom s p d with
    | some v =>
      let n := (v.hi - v.lo) / 2
      s.withHub fun h => { h with deps := (h.deps.map fun x => if x = v then { x with hi := x.hi - n } else x) ++
        [{ v with die := d, lo := v.hi - n, hi := v.hi }] }
    | none => s

/-- R256. -/
def execDieSteal (part : Fin 16) (die : Fin 8) (s : State) : Host.Outcome State Fault Refusal := done (steal s part die.val)

/-! ## Cores and clusters that pass on (R273), and their images (R265, R267, R537, R540) -/

/-- A core's TCM as a clearing leaves it: zero, full, with tag byte 0x7F. -/
def wipeTcm (s : State) (c : Nat) : State :=
  let a := tcmPa c 0
  { s with
    mem := cellsClear s.mem a (a + Config.tcmBytes)
    tags := cellsClear s.tags (wordNo a) (wordNo a + 16384)
    fe := cellsClear s.fe (wordNo a) (wordNo a + 16384)
    poison := s.poison.filter fun w => !(wordNo a ≤ w && w < wordNo a + 16384) }

/-- A cluster's scratchpad, zero. -/
def wipeSpad (s : State) (g : Nat) : State :=
  let b := spadPa g 0
  { s with
    mem := cellsClear s.mem b (b + Config.spadBytes)
    poison := s.poison.filter fun w => !(wordNo b ≤ w && w < wordNo b + Config.spadBytes / 8) }

/-- A core is cleared: its TCM, and the modelled core's translations (R273). -/
def clearCoreOf (s : State) (c : Nat) : State :=
  let s := wipeTcm s c
  if c = s.core.gcore then s.withCore fun x => { x with utlb := [] } else s

/-- A cluster is cleared: its scratchpad, and the loop counters and TLBs of the modelled core's (R273). -/
def clearClusterOf (s : State) (g : Nat) : State :=
  let s := wipeSpad s g
  if g = s.cluster then
    (s.withClu fun u => { u with loops := vmap (fun _ => ⟨0, 0, 0, 0⟩) u.loops, tlb := [], walks := [] }).withCore fun x => { x with utlb := [] }
  else s

/-- Notes who used a core or a cluster last. -/
def useCore (s : State) (f : Fin 17) (c : Nat) : State :=
  if c = s.core.gcore then s.withCore fun x => { x with lastFn := some f }
  else s.withHub fun h => { h with coreUser := h.coreUser.filter (·.1 != c) ++ [(c, f)] }
def useCluster (s : State) (f : Fin 17) (g : Nat) : State :=
  s.withHub fun h => { h with clusterUser := h.clusterUser.filter (·.1 != g) ++ [(g, f)] }

/-- Cores and clusters pass to a function: each is cleared that another used last (R273). -/
def passTo (s : State) (f : Fin 17) (cores clusters : List Nat) : State :=
  let s := cores.foldl (fun s c => useCore (if coreLast s c = some f then s else clearCoreOf s c) f c) s
  clusters.foldl (fun s g => useCluster (if clusterLast s g = some f then s else clearClusterOf s g) f g) s

/-- The clusters of cores. -/
def clustersOf (cores : List Nat) : List Nat := (cores.map (· / 16)).eraseDups

/-- Cores and clusters a function used last. -/
def usedCores (s : State) (f : Fin 17) : List Nat :=
  (if s.core.lastFn = some f then [s.core.gcore] else []) ++ (s.hub.coreUser.filter fun x => x.2 = f && x.1 != s.core.gcore).map (·.1)
def usedClusters (s : State) (f : Fin 17) : List Nat := (s.hub.clusterUser.filter (·.2 = f)).map (·.1)

/-- Does an address lie in the TCM of one of the cores, or in the scratchpad of one of the clusters? -/
def onChip (cores clusters : List Nat) (pa : Nat) : Bool :=
  match homeOf Config.hbmBytes pa with
  | .tcm c _ => cores.contains c
  | .spad g _ => clusters.contains g
  | _ => false

/-- The image of cores and clusters. -/
def takeImage (s : State) (cores clusters : List Nat) : Image :=
  let on := onChip cores clusters
  ⟨cores, clusters, s.mem.filter fun c => on c.1, s.tags.filter fun c => on (8 * c.1), s.fe.filter fun c => on (8 * c.1),
    s.poison.filter fun w => on (8 * w), if clusters.contains s.cluster then s.clu.loops else Vector.replicate 8 ⟨0, 0, 0, 0⟩⟩

/-- The part of an image that lies in given clusters. -/
def Image.within (i : Image) (gs : List Nat) : Image :=
  let cores := i.cores.filter fun c => gs.contains (c / 16)
  let clusters := i.clusters.filter gs.contains
  let on := onChip cores clusters
  { i with
    cores := cores
    clusters := clusters
    mem := i.mem.filter fun c => on c.1
    tags := i.tags.filter fun c => on (8 * c.1)
    fe := i.fe.filter fun c => on (8 * c.1)
    poison := i.poison.filter fun w => on (8 * w) }

/-- An image in place of what its cores and clusters held. -/
def putImage (s : State) (f : Fin 17) (i : Image) : State :=
  let s := passTo s f i.cores i.clusters
  let on := onChip i.cores i.clusters
  { s with
    mem := cellsPut memDflt (s.mem.filter fun c => !on c.1) i.mem
    tags := cellsPut tagDflt (s.tags.filter fun c => !on (8 * c.1)) i.tags
    fe := cellsPut feDflt (s.fe.filter fun c => !on (8 * c.1)) i.fe
    poison := (s.poison.filter fun w => !on (8 * w)) ++ i.poison
    clu := if i.clusters.contains s.cluster then { s.clu with loops := i.loops } else s.clu }

/-- After a rollback, at the start of the function's next slice on a partition: the checkpoint's image takes the place of what the function left on
the partition's cores and clusters; those it had not used by then count as used by no function (R540). -/
def restoreImage (s : State) (p : Fin 16) (f : Fin 17) : State :=
  if !s.hub.restoring.contains (f, p) then s
  else
    let gs := partClusters s p.val
    let s := s.withHub fun h => { h with
      restoring := h.restoring.filter (· != (f, p))
      coreUser := h.coreUser.filter fun x => !(x.2 = f && gs.contains (x.1 / 16))
      clusterUser := h.clusterUser.filter fun x => !(x.2 = f && gs.contains x.1) }
    let s := if s.core.lastFn = some f && gs.contains s.cluster then s.withCore fun c => { c with lastFn := none } else s
    match s.hub.ckpts.find? (·.func = f) with
    | some c => putImage s f (c.img.within gs)
    | none => s

/-! ## Slices (R252, R264) -/

/-- SAVE words of a function's queues become ranges again, and their records are taken (R264). -/
def resumeSaved (s : State) (p : Fin 16) (f : Fin 17) : State :=
  (liveQueues s).foldl (fun s q =>
    let ranges := savedRanges s q
    if qFunc s q != f.val || queueDevice s q != partDevice s p.val || ranges.isEmpty || !(openDeps s q).isEmpty || qCount s q = 0 then s
    else
      let ix := qHead s q
      let bq := BitVec.ofNat 12 q
      let known := s.hub.jobs.any fun j => j.queue = bq && j.index = ix
      let job := headJob s q
      let s := setHead s q (ix + 1)
      let s := (List.range 8).foldl (fun s d => hubPut s (rQueue q (4 + d)) 0) s
      s.withHub fun h => { h with
        jobs := if known then h.jobs else h.jobs ++ [⟨p, f, bq, ix, job, 0, false, false⟩]
        deps := h.deps ++ ranges.map fun r => ⟨p, r.1, bq, ix, r.2.1, r.2.2⟩ }) s

/-- The function after the present one. -/
def nextFn (s : State) (p : Nat) (f : Option (Fin 17)) : Option (Fin 17) :=
  let fs := eligibleFns s p
  match f with
  | none => fs.head?
  | some f => match fs.find? (fun g => f.val < g.val) with
    | some g => some g
    | none => fs.head?

/-- A slice begins at a wheel: saved ranges and saved contexts come back, and after a rollback the checkpoint's image (R264, R267, R540). -/
def beginSlice (s : State) (p : Fin 16) (f : Fin 17) : State :=
  let s := modPart s p fun x => { x.rest with func := some f, sliceAt := dieWheel s.now, busy := true }
  let s := restoreImage (resumeSaved s p f) p f
  let s := if s.hub.dens.any fun d => d.part = p && d.func = f then s.at s.now (.swapResume p) else s
  s.at (s.now + 256 * fnSlice s f.val) (.sliceEnd p)

/-- Running gangs of a function on a partition. -/
def gangsOn (s : State) (p : Fin 16) (f : Fin 17) : List GangRun := s.hub.gangs.filter fun g => g.part = p && g.func = f

/-- Undispatched ranges go to SAVE, and HEAD back to their records (R264). -/
def saveRanges (s : State) (p : Fin 16) (f : Fin 17) : State :=
  let mine := s.hub.deps.filter fun d => d.part = p && decide (d.lo < d.hi) && qFunc s d.queue.toNat = f.val
  let qs := (mine.map fun d => (d.queue, d.index)).eraseDups
  let s := qs.foldl (fun s q =>
    let s := setHead s q.1.toNat q.2
    (List.range 8).foldl (fun s d =>
      let r := mine.find? fun x => x.queue = q.1 && x.die = d
      hubPut s (rQueue q.1.toNat (4 + d)) (match r with | some x => word (x.hi * 2 ^ 32 + x.lo) | none => 0)) s) s
  s.withHub fun h => { h with deps := h.deps.filter fun d => !(mine.contains d) }

/-- The slice is over; its gangs drain, for DRAIN wheels at most. -/
def endSlice (s : State) (p : Fin 16) (f : Fin 17) : State :=
  let s := saveRanges s p f
  let w := dieWheel s.now
  let s := modPart s p fun x => { x with drainFrom := some w }
  if (gangsOn s p f).isEmpty then s else s.at (s.now + 256 * max 1 (fnDrain s f.val)) (.forcedSwap p)

/-- When the drained function has no gang left the next slice begins. -/
def afterDrain (s : State) (p : Fin 16) (f : Fin 17) : State :=
  if (gangsOn s p f).isEmpty then
    match nextFn s p.val (some f) with
    | some g => beginSlice s p g
    | none => modPart s p PartRun.rest
  else s

/-- R252, R264: a function alone on its partition goes on, and one whose SLICE has been raised has the rest of it. -/
def execSliceEnd (part : Fin 16) (s : State) : Host.Outcome State Fault Refusal :=
  let x := s.hub.parts[part]
  match x.func, x.drainFrom with
  | some f, none =>
    if eligibleFns s part.val = [f] then done (s.at (s.now + 256 * max 1 (fnSlice s f.val)) (.sliceEnd part))
    else if dieWheel s.now < x.sliceAt + fnSlice s f.val then
      done (s.atOnce (s.now + 256 * (x.sliceAt + fnSlice s f.val - dieWheel s.now)) (.sliceEnd part))
    else done (planDispatch (endSlice s part f) part s.nextDieWheel)
  | _, _ => done s

/-- What a partition does at the first slot of a wheel, before any gang starts. -/
def partWheel (s : State) (p : Fin 16) : State :=
  let x := s.hub.parts[p]
  let s := match x.func with
    | none => (match nextFn s p.val none with
      | some f => beginSlice s p f
      | none => s)
    | some f =>
      match x.drainFrom with
      | some _ => afterDrain s p f
      | none =>
        let fs := eligibleFns s p.val
        if !fs.contains f || ((!x.busy || x.sliceAt + fnSlice s f.val ≤ dieWheel s.now) && fs.any (· != f)) then afterDrain (endSlice s p f) p f else s
  let s := match (s.hub.parts[p]).func, (s.hub.parts[p]).drainFrom with
    | some f, none => fireJobs s p f
    | _, _ => s
  (partDies s p.val).foldl (fun s d => steal s p d) s

/-- Anything the dispatcher still has to look at on the partition. -/
def partWork (s : State) (p : Fin 16) : Bool :=
  s.hub.deps.any (·.part = p) || (liveQueues s).any (fun q => 0 < qCount s q && (fnMask s (qFunc s q)).getLsbD (48 + p.val)) ||
    s.hub.dens.any (·.part = p) || s.hub.gangs.any (·.part = p)

/-- The function has a running gang, one that comes back from a den, or a dispatchable job on the partition (R252). -/
def partBusy (s : State) (p : Fin 16) (f : Fin 17) : Bool :=
  !(gangsOn s p f).isEmpty || (s.hub.dens.any fun d => d.part = p && d.func = f) ||
    (partDies s p.val).any fun d => (unpinned (s.hub.parts[p]) (headsOf s p.val f.val d)).any (fits s p.val d)

/-- R253: once per wheel per die; the lowest die's turn begins the partition's wheel. -/
def execDispatchGang (part : Fin 16) (die : Fin 8) (s : State) : Host.Outcome State Fault Refusal :=
  if !partValid s part.val then done s
  else
    let low := (partDies s part.val).headD 0 = die.val
    let s := if low then partWheel s part else s
    let x := s.hub.parts[part]
    let t := match x.func, x.drainFrom with
      | some f, none =>
        let s := if low then modPart s part fun x => { x with busy := partBusy s part f } else s
        if fnHeld s f then s else dispatchDie s part f die.val
      | _, _ => s
    done (if partWork t part then t.atOnce t.nextDieWheel (.dispatchGang part die) else t)

/-- R258: the chosen gang holds every other back until it is placed. -/
def execGangPinned (part : Fin 16) (s : State) : Host.Outcome State Fault Refusal :=
  let x := s.hub.parts[part]
  match stuckTry x with
  | some t => done (modPart s part fun x => { x with pinned := some (t.queue, t.index, t.gang) })
  | none => done s

end Sys2Proof.Machine
end

