-- ==== Sys2Proof/Machine/Cells.lean ====
section
/-! DEFINITION. Cells, gangs and jobs from their start to their end (R70-R74, R270-R273, R474, R507, R508, R530), and fault packets at
their queue (R468-R471, R474). -/

namespace Sys2Proof.Machine

/-! ## State at launch (R109, R270-R272) -/

/-- ACCMAP from ACCN and ACCS (R109, R127). -/
def launchAccmap (job : Job) : Word :=
  word (((List.range 8).map fun t =>
    if t < job.accn * job.accs then (0x80 + t / job.accn) * 256 ^ t else 0).foldl (· + ·) 0)

/-- A strand as the context engine sets it. DESIGN CHOICE (log 61): the bits of THR and RM are taken as they stand; RM 5-7, which R122 reserves,
round as RNE. -/
def launchStrand (s : State) (g : Gang) (cell k : Nat) : Strand :=
  let c := ctxWord s g.queue.toNat
  let n := (gjob g).strands
  let entries := n - (gjob g).handlers
  let x := { Strand.absent with
    run := if k < entries then .ready else if k < n then .dormant else .absent
    pc := if k < entries then pcOf (gjob g).entry else 0
    mode := flag ((c 4).getLsbD 16) 2
    strole := flag (entries ≤ k && k < n) 15
    tvec := c 0 &&& bitsMask 42 2
    tagbase := c 2 &&& bitsMask 42 0
    winbase := c 3 &&& (bitsMask 48 39 ||| bitsMask 16 7)
    fpmode := c 4 &&& 0xF
    sigthr := word (fld (c 4) 14 8)
    lvtbase := (gjob g).lvt &&& bitsMask 42 3 }
  if k < entries then
    ((x.setReg (.ring (ringIx 0 8)) (Reg.of (gjob g).args Tag.full)).setReg (.ring (ringIx 0 9)) (Reg.of (word g.index) Tag.full)).setReg
      (.ring (ringIx 0 10)) (Reg.of (word cell) Tag.full)
  else x

/-- A receive endpoint at launch: closed; its circuit's counts stay, and what is still to come of an open message is discarded as it comes
(R74). -/
def RecvEp.closed (r : RecvEp) : RecvEp :=
  { RecvEp.idle with count := r.count, returned := r.returned, got := r.got, openMsg := r.openMsg, drop := r.openMsg }

/-- A receive endpoint at launch: not armed; what has come for the cell waits in it. -/
def RecvEp.unarmed (r : RecvEp) : RecvEp := { r with arming := none, next := none, pend := false }

/-- Copies words of an image to consecutive words, as deposits leave them in TCM (R272). -/
def copyImage (s : State) (g : Gang) (src dst n : Nat) (tcm : Bool) : State :=
  (List.range (n / 8)).foldl (fun s i =>
    match walkVa s g.func.val (ctxWord s g.queue.toNat 1) (src + 8 * i) with
    | .ok e =>
      let w := wordAt s (e.pa (src + 8 * i))
      if tcm then depositWord s (dst + 8 * i) w false else putWord s (dst + 8 * i) w
    | .error _ => s) s

/-- The context engine's reads of HBM at a launch, a unit a line (R218): the context block, the image table and the images; charged to the
class of the job's queue (DESIGN CHOICE, log 65). -/
def launchUnits (s : State) (g : Gang) : State :=
  let q := g.queue.toNat
  let at_ := fun (va n : Nat) => ((List.range (n / 8)).map fun i => va + 8 * i).filterMap fun va =>
    match walkVa s g.func.val (ctxWord s q 1) va with | .ok e => some (e.pa va) | .error _ => none
  let img := if (gjob g).img = 0 then [] else match walkVa s g.func.val (ctxWord s q 1) (gjob g).img with
    | .ok e =>
      let w := fun i => (wordAt s (e.pa (gjob g).img + 8 * i)).toNat
      at_ (gjob g).img 32 ++ at_ (w 0) (w 1) ++ at_ (w 2) (w 3)
    | .error _ => []
  askLines { s with ticket := s.ticket + 1 } s.ticket none (qClass s q) false (fld (hubGet s (rQueue q 3)) 42 0 :: img)

/-- The images of a job reach every cell's TCM and the scratchpad of every cluster that holds a cell of the gang (R272). -/
def launchImages (s : State) (g : Gang) : State :=
  if (gjob g).img = 0 then s
  else match walkVa s g.func.val (ctxWord s g.queue.toNat 1) (gjob g).img with
    | .ok e =>
      let w := fun i => wordAt s (e.pa (gjob g).img + 8 * i)
      let t := g.cores.foldl (fun t c => copyImage t g (w 0).toNat (tcmPa c 0) (w 1).toNat true) s
      (clustersOf g.cores).foldl (fun t u => copyImage t g (w 2).toNat (spadPa u 0) (w 3).toNat false) t
    | .error _ => s

/-- A gang's cores and clusters pass to its function, and its images reach them (R272, R273). -/
def launchOn (s : State) (g : Gang) : State :=
  launchImages (launchUnits (passTo s g.func g.cores (clustersOf g.cores)) g) g

/-- The completion table at launch: entries of operations still running from an ended cell stay until those end (R74). -/
def launchTable (t : Vector CEntry 128) : Vector CEntry 128 :=
  vmap (fun (e : CEntry) => if e.state = .pending then { e with dead := true } else if e.state = .free then e else e.release) t

/-- Sets the core up for a cell of a gang (R270-R273). -/
def setupCell (s : State) (g : Gang) (cell : Nat) : State :=
  let s := launchOn s g
  let strands := Vector.ofFn fun k : Fin 16 =>
    { launchStrand s g cell k.val with sb := (s.strand k).sb, served := (s.strand k).served }
  let s := s.withCore fun c => { c with
    cell := some ⟨g, cell, (gjob g).strands, (gjob g).handlers, false⟩
    strands := strands
    queues := Vector.replicate 8 []
    ptroot := ctxWord s g.queue.toNat 1
    accmap := launchAccmap (gjob g)
    acc := Vector.replicate 8 Acc.zero
    table := launchTable c.table
    bars := Vector.replicate 16 Barrier.zero
    waiters := c.waiters.filter Waiter.isRemote
    recv := vmap RecvEp.unarmed c.recv
    spill := none
    pri := effectivePriority s g.queue.toNat }
  s.withClu fun u => { u with bars := Vector.replicate 16 Barrier.zero }

/-- R70, R259, R271: the cell of this core starts; a job's cores acquire before their first instruction (R411). Of a gang with no cell here only
what reaches its memory shows (log 1). -/
def execGangStart (g : Gang) (s : State) : Host.Outcome State Fault Refusal :=
  match g.cores.findIdx? (· = s.core.gcore) with
  | some i => done (if s.core.cell.isSome then s else noteCellEnd (beginAcquire (setupCell s g i) 0 .device true))
  | none => done (launchOn s g)

/-! ## The end of cells, gangs and jobs (R74) -/

/-- Endpoint 62 as it closes: a packet that a started CRED has met is still taken; what else is queued there is discarded (R74, R444). -/
def closeCred (s : State) : State :=
  let met := fun (o : InPkt) => s.core.copy.chans.any fun c => match c.kind with
    | .credHop _ _ _ p _ => p.crid = o.crid && p.round = o.round
    | _ => false
  let s := s.core.copy.order.foldl (fun s o => if met o then s else s.at (s.now + 1) (.credFlush o.crid o.round)) s
  s.modCopy fun e => { e with
    early := []
    order := e.order.map fun o => if met o then o else { o with flush := some (none, []) } }

/-- A receive endpoint closes: what is queued counts as deposited, and its window reopens. -/
def closeRecv (s : State) (e : Fin 64) : State :=
  if e.val = 62 && !s.core.copy.order.isEmpty then closeCred s else
  let r := s.core.recv[e]
  let n := r.queue.length
  let s := s.modRecv e fun r => { RecvEp.closed r with count := r.count + BitVec.ofNat 16 n, broken := r.broken }
  if n = 0 then s else s.atOnce (s.now + 1) (.windowReturnSend e)

/-- The handles of the cell: operations not started are cancelled, filled entries are freed, the others end by themselves. -/
def endHandles (s : State) : State :=
  let s := (List.finRange 128).foldl withdraw s
  s.withCore fun c => { c with table := launchTable c.table }

/-- A strand of no cell any longer: stores already buffered still leave. -/
def Strand.leave (x : Strand) : Strand :=
  { x with run := .absent, acq := none, chunk := none, singular := [], tpend := none, walked := [], owed := none, back := none }

/-- The job's completion adds 1 to SFC, or, when a gang of it was killed, is recorded instead (R74, R474, R530). -/
def jobComplete (s : State) (j : JobRun) : State :=
  let t := s.withHub fun h => { h with jobs := h.jobs.filter (· != j) }
  let t := if j.killed then killedRecord t 1 j.func.val j.part.val j.queue.toNat j.index else t
  match (rjob j).signal with
  | some c => if j.killed || fcCount s j.func.val ≤ c then t else fenceAdd t j.func.val c 1
  | none => t

/-- Writes of ended cells, buffered, asked of a home or owed by engine operations, that the release of a job's completion waits for. -/
def owesWrites (s : State) (bound : Nat) : Bool :=
  s.core.strands.any (fun x => x.sb.any fun i => decide (i.held.1 < bound)) ||
  s.core.reqs.any (fun r => decide (r.ticket < bound) && (match r.acc with | .amo .. | .cas .. | .stf .. | .write .. => true | _ => false)) ||
    s.core.table.any fun e => e.state = .pending && e.dead

/-- R213: the completion is a release at scope 4 of what the job's cell on the modelled core wrote, before it is counted. -/
def execJobRelease (q : BitVec 12) (index bound : Nat) (wrote : Bool) (s : State) : Host.Outcome State Fault Refusal :=
  match s.hub.jobs.find? fun j => j.queue = q && j.index = index with
  | none => done s
  | some j =>
    if wrote then
      if (s.die.dbb ++ s.core.wbq).any fun e => e.gcore = s.core.gcore && decide (e.id < bound) then
        done (retry s (.jobRelease q index bound true))
      else if (match (rjob j).signal with | some c => ckptHolds s j.func.val (counterPa s j.func.val c) | none => false) then
        done (retry (needCopyFor s j.func (counterPa s j.func.val (((rjob j).signal).getD 0))) (.jobRelease q index bound true))
      else done (jobComplete s j)
    else if owesWrites s bound then done (retry s (.jobRelease q index bound false))
    else
      let t := writeThroughAll s 0
      done (retry t (if anyDirty t then .jobRelease q index bound false else .jobRelease q index t.ticket true))

/-- The job of a gang that has ended; with its last gang the job completes. -/
def jobGangEnd (s : State) (q : BitVec 12) (index : Nat) (killed here : Bool) : State :=
  match s.hub.jobs.find? fun j => j.queue = q && j.index = index with
  | none => s
  | some j =>
    let j' := { j with ended := j.ended + 1, killed := j.killed || killed, here := j.here || here }
    let t := s.withHub fun h => { h with jobs := h.jobs.filter (· != j) ++ [j'] }
    if j'.ended < (rjob j).gangs then t
    else if j'.here then t.at s.now (.jobRelease q index s.ticket false)
    else jobComplete t j'

/-- Part of a gang has ended; with its last cell the gang ends. -/
def gangPartEnd (s : State) (m : GangRun → Bool) (f : GangRun → GangRun) (killed : Bool) : State :=
  match s.hub.gangs.find? m with
  | none => s
  | some g =>
    let g' := f g
    let rest := s.hub.gangs.filter (· != g)
    if g'.own || g'.others then s.withHub fun h => { h with gangs := rest ++ [g'] }
    else
      let t := jobGangEnd (s.withHub fun h => { h with gangs := rest }) g.queue g.index killed (g.cores.contains s.core.gcore)
      planDispatch t g.part t.nextDieWheel

/-- The flits of the spill ring reach their endpoints, in order (R266). -/
def replaySpill (s : State) : State :=
  match s.core.spill with
  | some fs => fs.foldl (fun t x => receiveAt t x.1 x.2) (s.withCore fun c => { c with spill := none })
  | none => s

/-- The cell of the core ends. -/
def endCell (s : State) (killed : Bool) : State :=
  let s := replaySpill s
  let s := (List.finRange 16).foldl (fun s k => dropWaits s k) s
  let s := endHandles ((List.finRange 64).foldl closeRecv s)
  let s := s.withCore fun c => { c with cell := none, strands := vmap Strand.leave c.strands, waiters := c.waiters.filter Waiter.isRemote }
  gangPartEnd s (·.own) (fun g => { g with own := false }) killed

/-- R74. -/
def execCellEnd (s : State) : Host.Outcome State Fault Refusal := done (if cellDone s then endCell s false else s)

/-- The cells of a gang on cores outside the model have ended (log 1). -/
def othersEnd (s : State) (q : BitVec 12) (index gang : Nat) : State :=
  gangPartEnd s (fun g => g.queue = q && g.index = index && g.gang = gang && g.others) (fun g => { g with others := false }) false

/-! ## Killing (R474, R530) -/

/-- Orders the gang of the core's cell to end, by the second wheel boundary. -/
def killGang (s : State) : State :=
  match s.core.cell with
  | some c =>
    (s.withCore fun x => { x with cell := some { c with killed := true } }).later (some (s.nextWheel + 256 - s.now))
      .killedGangEnd
  | none => s

/-- R474: every cell of the gang has ended, with every strand halted; the job's completion records it. -/
def execKilledGangEnd (s : State) : Host.Outcome State Fault Refusal :=
  match s.core.cell with
  | some c =>
    if !c.killed then done s
    else
      let t := (List.finRange 16).foldl (fun t k => if (t.strand k).run = .absent then t else haltStrand t k) s
      let t := t.withHub fun h => { h with gangs := h.gangs.map fun g => if g.own then { g with others := false } else g }
      done (endCell (dropActs t fun a => a = .cellEnd) true)
  | none => done s

/-- A gang with no cell on this core ends as killed. -/
def killOthers (s : State) (g : GangRun) : State :=
  gangPartEnd s (· = g) (fun g => { g with others := false }) true

/-- The gang that holds a global strand. -/
def gangHolding (s : State) (gs : Nat) : Option GangRun := s.hub.gangs.find? fun g => g.cores.contains (gs / 16)

/-- Kills a gang by a global strand of it. -/
def killStrand (s : State) (gs : Nat) : State :=
  match gangHolding s gs with
  | some g => if g.own then killGang s else killOthers s g
  | none => s

/-- R530. -/
def execGkill (v : Word) (s : State) : Host.Outcome State Fault Refusal :=
  done (if v.getLsbD 63 then killStrand s (fld v 17 0) else s)

/-! ## The debug window's commands (R467, R474) -/

/-- R474: the strand takes its pending trap, or issues at DPC, once a window move it owes is made (R104). -/
def execDctlResume (k : Fin 16) (s : State) : Host.Outcome State Fault Refusal :=
  let free := fun (t : State) => t.setRun k (if (s.strand k).owed.isSome then .stalled .windowStores else .ready)
  if (s.strand k).run != .frozen then done s
  else match (s.strand k).tpend with
    | some (c, v) => done (free (s.modStrand k fun x => takeTrap { x with tpend := none } x.pc c v))
    | none => done (free s)

/-- R474. -/
def execDctlHalt (k : Fin 16) (s : State) : Host.Outcome State Fault Refusal :=
  done (if (s.strand k).run = .frozen then haltStrand s k else s)

/-- R474. -/
def execDctlKill (k : Fin 16) (s : State) : Host.Outcome State Fault Refusal :=
  done (if (s.strand k).run = .frozen then killGang s else s)

/-! ## Fault packets (R468-R471, R550) -/

/-- The pairing byte of a core. -/
def pairByte (s : State) (gcore : Nat) : Nat :=
  let c := gcore % 16
  fld (hubGet s (rPair (gcore / 16) (c / 8))) (8 * (c % 8) + 7) (8 * (c % 8))

/-- Packets written to a core's fault queue. -/
def packetsTo (s : State) (b : Nat) : Nat := ((s.clu.seqs.find? (·.1 = b)).map (·.2)).getD 0

/-- The first packet leaves the path. -/
def dropPacket (s : State) : State :=
  let t := s.withClu fun u => { u with path := u.path.drop 1 }
  if t.clu.path.isEmpty then t else t.atOnce (s.now + 1) .faultPacketDeposit

/-- Deposits a packet in this core's fault queue: packet k, as TAIL counts them, in slot k mod N, and TAIL := k + 1 (R190, R471). -/
def depositPacket (s : State) (p : Packet) : State :=
  let base := fld s.core.fqcfg 16 0
  let n := packetsTo s s.core.gcore
  let w0 := setFld (p.words.headD 0) 47 32 (n % 65536)
  let slot := base + 64 + 64 * ((wordAt s (tcmPa s.core.gcore base)).toNat % fld s.core.fqcfg 55 48)
  let t := ((w0 :: p.words.drop 1).zip (List.range 8)).foldl (fun t w => depositOwn t (slot + 8 * w.2) w.1 false) s
  let t := depositOwn t base (wordAt s (tcmPa s.core.gcore base) + 1) false
  t.withClu fun u => { u with seqs := u.seqs.filter (·.1 != s.core.gcore) ++ [(s.core.gcore, n + 1)] }

/-- R471: the buddy's queue, the hub's record, or a wait while the queue is full. Whether a buddy other than the modelled core has armed its
queue and holds a cell of the function is left open, and its queue is outside the model (log 1). -/
def execFaultPacketDeposit (s : State) : Host.Outcome State Fault Refusal :=
  match s.clu.path with
  | [] => done s
  | p :: _ =>
    let b := pairByte s p.gcore
    let buddy := p.gcore / 16 * 16 + b % 16
    let slots := fld s.core.fqcfg 55 48
    if b < 128 then done (dropPacket (escalate s p 1 fstatEsc))
    else if buddy != s.core.gcore then
      let t := { s with fresh := s.fresh + 1 }
      done (dropPacket (if Config.freeChoice s.fresh % 2 = 1 then escalate t p 1 fstatEsc else t))
    else if slots = 0 || s.core.cell.isNone || s.func != p.func then done (dropPacket (escalate s p 1 fstatEsc))
    else
      let base := tcmPa s.core.gcore (fld s.core.fqcfg 16 0)
      if slots ≤ (wordAt s base - wordAt s (base + 8)).toNat then done (s.atOnce (s.now + 1) .faultPacketDeposit)
      else done (dropPacket (depositPacket s p))

/-! ## Gangs that wait on themselves (R507, R508) -/

/-- Wait code and operand of a parked strand in a STALL record. -/
def stallDetail (s : State) (k : Fin 16) : Option Nat :=
  match (s.strand k).run with
  | .parked (.barrier g b n _ _) => some (2 ^ 24 + (if g then 4096 else 0) + b.val * 256 + n.toNat)
  | .parked (.queueEmpty q) => some (2 * 2 ^ 24 + q.val)
  | .parked (.queueFull q) => some (3 * 2 ^ 24 + q.val)
  | .parked (.wordEmpty o) => some (4 * 2 ^ 24 + o % 2 ^ 17)
  | .parked (.wordFull o) => some (5 * 2 ^ 24 + o % 2 ^ 17)
  | .parked (.register c) => (credOf s k c).map fun n => 6 * 2 ^ 24 + n
  | _ => none
where
  /-- The CRID of the CRED whose handle a register waits for, while that CRED waits for its packet. -/
  credOf (s : State) (k : Fin 16) (c : Nat) : Option Nat :=
    match locOf (s.strand k).frm (BitVec.ofNat 6 c) with
    | some l => match ((s.strand k).reg l).bind with
      | some (.handle h) => s.core.copy.chans.findSome? fun x =>
          match x.kind with
          | .credWait _ _ n _ => if x.cmd.handle = h then some n.toNat else none
          | _ => none
      | _ => none
    | none => none

/-- What a strand of a quiescent gang may be doing. -/
def quietStrand (s : State) (k : Fin 16) : Bool :=
  match (s.strand k).run with
  | .dormant | .halted | .absent => true
  | .parked (.barrier _ _ _ _ d) => d.isNone && !((s.strand k).ie && (s.strand k).ien.getLsbD 0)
  | .parked _ => (stallDetail s k).isSome && !((s.strand k).ie && (s.strand k).ien.getLsbD 0)
  | _ => false

/-- Handles of CREDs that wait for their packets. -/
def waitingCreds (s : State) : List (Fin 128) :=
  s.core.copy.chans.filterMap fun x => match x.kind with | .credWait _ _ _ _ => some x.cmd.handle | _ => none

/-- The conditions of R507 as they stand at the end of the fourth wheel. -/
def quiescent (s : State) : Bool :=
  s.core.cell.isSome && (List.finRange 16).all (quietStrand s) && s.core.reqs.isEmpty &&
    (List.finRange 128).all fun h => s.core.table[h].state != .pending || (waitingCreds s).contains h

/-- Cells of the gang on other cores still run: whether their strands are quiescent too is left open (log 1). -/
def othersRun (s : State) : Bool := s.hub.gangs.any fun g => g.own && g.others

/-- R508: the packet to the buddy of the gang's lowest core, and a STALL record for every parked strand of the modelled core (log 1). -/
def execGangStall (s : State) : Host.Outcome State Fault Refusal :=
  match s.core.cell with
  | some c =>
    if !quiescent s then done s
    else if othersRun s && Config.freeChoice s.fresh % 2 = 1 then done { s with fresh := s.fresh + 1 }
    else
      let low := c.gang.cores.foldl min s.core.gcore
      let p : Packet := { s.packet (packetWords s cGANGSTALL false false false (low * 16) 0 0 (word ((s.now - 1) / 256)) 0) with gcore := low }
      let t := if low / 16 = s.cluster then sendPacket s p else s
      done ((List.finRange 16).foldl (fun t k => match stallDetail s k with
        | some d => fabricRecord t 0x0706 d (word (s.gstrand k)) s.func
        | none => t) t)
  | none => done s

end Sys2Proof.Machine
end

