-- ==== Sys2Proof/Machine/Recovery.lean ====
section
/-! DEFINITION. Forced swaps and the contexts dens hold (R264-R267, R274, R531-R535), checkpoints and rollback (R536-R541), and
function-level reset (R542-R544). -/

namespace Sys2Proof.Machine

/-! ## Save areas (R270, R533) -/

/-- The save area of the first of the gangs' context blocks, and the bytes the gangs' clusters take. -/
def saveBase (s : State) (gs : List GangRun) : Nat :=
  match gs with
  | g :: _ => fld (ctxWord s g.queue.toNat 5) 42 0
  | [] => 0
def saveSpan (gs : List GangRun) : Nat :=
  0x10000 + 0x300000 * (clustersOf (gs.flatMap (·.cores))).length

/-- The level of a walk that ends in a page of the given size. -/
def levelOf (bits : Nat) : BitVec 2 := if bits = 33 then 1 else if bits = 23 then 2 else 3

/-- What is wrong with a page of a save area, if anything. -/
def savePage (s : State) (f gpa : Nat) : Option SaveFault :=
  match stage2 s f gpa with
  | .error e => some ⟨BitVec.ofNat 43 gpa, if e.hole.isSome then 0 else e.level, if e.hole.isSome then 0 else 2⟩
  | .ok l =>
    let pa := if l.bits = 43 then gpa else l.base + gpa % 2 ^ l.bits
    if !l.w then some ⟨BitVec.ofNat 43 gpa, levelOf l.bits, 2⟩
    else match home s pa with
      | .hbm => none
      | _ => some ⟨BitVec.ofNat 43 gpa, 0, 0⟩

/-- The first page that fails. -/
def preflight (s : State) (f base span : Nat) : Option SaveFault :=
  (List.range ((base % 8192 + span + 8191) / 8192)).findSome? fun i => savePage s f (base / 8192 * 8192 + 8192 * i)

/-- The context status word takes a fault, with one of its top bits (R532). -/
def saveFailed (s : State) (p f bit : Nat) (e : SaveFault) : State :=
  let w := hubGet s (rCtx p 0) &&& bitsMask 63 62
  hubPut s (rCtx p 0) (w ||| word (2 ^ bit + f * 2 ^ 48 + e.addr.toNat / 8192 * 8192 + e.level.toNat * 4 + e.stage.toNat))

/-- DETAIL of PREFLIGHT and SAVEFAIL (R531). -/
def saveDetail (e : SaveFault) : Nat := e.level.toNat * 4 + e.stage.toNat

def denHeld (s : State) (p : Nat) : Bool := (hubGet s (rCtx p 0)).getLsbD 63
def clearDenHeld (s : State) (p : Nat) : State := hubPut s (rCtx p 0) (hubGet s (rCtx p 0) &&& ~~~(bitsMask 63 63))

/-! ## A forced swap (R264, R265, R533, R534) -/

/-- The 8 KiB granules a list of bytes lies in. -/
def granulesOf (m : List Host.Cell) : Nat := ((m.map fun c => c.1 / 8192).eraseDups).length

/-- The bytes of a cluster's scratchpad and of its cores' TCMs. -/
def clusterCells (s : State) (g : Nat) : List Host.Cell :=
  cellsIn s.mem (spadPa g 0) (spadPa g 0 + Config.spadBytes) ++ cellsIn s.mem (tcmPa (16 * g) 0) (tcmPa (16 * g + 16) 0)

/-- A den holds 3 MiB (R17, R20). -/
def denBytes : Nat := 0x300000

/-- What an image takes in a cluster's den: 8 KiB for each granule that holds anything, the tag and full/empty planes of R172 for each of its
cores, and the loop unit's 24 registers. DESIGN CHOICE (log 28): a granule written with the cleared value takes nothing, and the registers of
strands, to which no rule gives a size, are not counted. -/
def footprint (s : State) (m : List Host.Cell) (cores clusters : List Nat) (g : Nat) : Nat :=
  let here := cores.filter (· / 16 = g)
  if here.isEmpty && !clusters.contains g then 0
  else 8192 * granulesOf ((clusterCells { s with mem := m } g).filter fun c => onChip here clusters c.1) + 18432 * here.length + 192

/-- What the den of a cluster holds already: contexts not yet written out (R274), and images on their way to a pool (R537). -/
def denUsed (s : State) (g : Nat) : Nat :=
  (((s.hub.dens.filter (!·.written)).map (·.img) ++ (s.hub.ckpts.filter (·.inDen)).map (·.img)).map fun i =>
    footprint s i.mem i.cores i.clusters g).foldl (· + ·) 0

/-- What these cores and clusters would take beside what the cluster's den holds. -/
def denNeed (s : State) (cores clusters : List Nat) (g : Nat) : Nat := denUsed s g + footprint s s.mem cores clusters g

/-- It exceeds the den. -/
def overDen (s : State) (cores clusters : List Nat) (g : Nat) : Bool := decide (denBytes < denNeed s cores clusters g)

/-- Clusters of gangs. -/
def gangClusters (gs : List GangRun) : List Nat := clustersOf (gs.flatMap (·.cores))

/-- A context whose save failed holds den slots of the gangs' clusters, so that the gangs' own may not fit (R534, log 28). -/
def denTight (s : State) (gs : List GangRun) (f : Fin 17) : Bool :=
  s.hub.dens.any fun d => d.func != f && !d.written && denHeld s d.part.val &&
    (d.gangs.flatMap (·.cores)).any fun c => (gangClusters gs).contains (c / 16)

/-- The partition still drains, and DRAIN wheels of it are over. -/
def drainOver (s : State) (x : PartRun) (f : Fin 17) : Bool :=
  fnDrain s f.val != 0 && (match x.drainFrom with
    | some w => decide (w + fnDrain s f.val ≤ dieWheel s.now)
    | none => false)

/-- R533: the preflight, and the stop wheel. While DRAIN wheels have not passed, as when DRAIN has been raised, it is looked at again. -/
def execForcedSwap (part : Fin 16) (s : State) : Host.Outcome State Fault Refusal :=
  let x := s.hub.parts[part]
  match x.func with
  | some f =>
    let gs := gangsOn s part f
    if gs.isEmpty || x.drainFrom.isNone then done s
    else if !drainOver s x f then done (s.atOnce s.nextDieWheel (.forcedSwap part))
    else if denTight s gs f && (gangClusters gs).any (overDen s (gs.flatMap (·.cores)) (gangClusters gs)) then done s
    else match preflight s f.val (saveBase s gs) (saveSpan gs) with
      | some e =>
        let t := saveFailed s part.val f.val 62 e
        let t := recoveryRecord t 0x0801 (saveDetail e) (e.addr.zeroExtend 64) f.val part.val
        done (t.at (t.now + 256 * fnDrain t f.val) (.forcedSwap part))
      | none => done (s.at (s.nextDieWheel + 256) (.swapStop part))
  | none => done s

/-- The gang is larger than a cluster (R266). -/
def GangRun.big (g : GangRun) : Bool := g.cores.any fun c => c / 16 != g.cores.headD 0 / 16

/-- Queued and pending tile commands end CANCELLED, and the engine is idle. -/
def cancelTile (s : State) : State :=
  let cs := s.core.tile.pend.map (·.1) ++ s.core.tile.queue
  let s := dropActs s fun a => match a with
    | .tileFrontEndAccept => true
    | .command c => cs.any (·.handle = c.handle)
    | .completion h _ => cs.any (·.handle = h)
    | _ => false
  let s := cs.foldl (fun s c => completeAt s s.now c.handle stCancelled) s
  s.withCore fun c => { c with tile := ⟨[], [], none, none⟩, acc := Vector.replicate 8 Acc.zero }

/-- An act that is part of what a strand or an engine of the core still has to finish. -/
def Act.unfinished : Act → Bool
  | .intDivideFill _ _ _ | .fpDivideFill _ _ _ | .storeLeave _ | .acquireComplete _ | .releaseComplete _ | .windowSpill _ | .windowFill _
  | .chunkFill _ _ _ | .tileFrontEndAccept | .tlbinvDone _ | .command _ | .killedGangEnd | .cellEnd | .mboxArmEffect _ => true
  | _ => false

/-- A request that waits for another core's full/empty word, which a swap saves as it stands. -/
def Req.waitsWord (r : Req) : Bool :=
  match r.acc with
  | .ldf _ _ | .stf _ _ => true
  | _ => false

def ChanKind.waits : ChanKind → Bool
  | .credWait _ _ _ _ => true
  | _ => false

/-- Nothing of the stopped cell is under way but what waits for others; a tile command's fill lands before its entry is saved. -/
def coreIdle (s : State) : Bool :=
  s.core.reqs.all Req.waitsWord && s.core.copy.intake.isEmpty && s.core.copy.chans.all (·.kind.waits) &&
  s.core.memIntake.isEmpty && s.core.tile.pend.isEmpty && s.core.tile.queue.isEmpty &&
  s.core.strands.toList.all (fun x => x.sb.isEmpty && x.acq.isNone) &&
  !s.agenda.any (fun e => e.2.unfinished || match e.2 with
    | .completion h _ => s.core.table[h].owner = .tile && s.core.table[h].state = .pending
    | _ => false)

/-- The core's cell stops issuing; in a gang larger than a cluster the tile engine stops with it. -/
def stopOwn (s : State) (big : Bool) : State :=
  let s := s.withCore fun c => { c with spill := some [] }
  if big then cancelTile s else s

/-! ### What a swap keeps of a strand (R115, R116) -/

/-- A word of a liveness table. -/
def lvtWord (s : State) (f : Nat) (ptroot : Word) (va : Nat) : Option Word :=
  match walkVa s f ptroot va with
  | .ok e => some (wordAt s (e.pa va))
  | .error _ => none

/-- Masks of the entry that covers a PC: words 2 and 3. A table that cannot be read covers nothing. -/
def liveMasks (s : State) (f : Nat) (ptroot lvt : Word) (pc : Addr) : Option (Word × Word) :=
  let base := lvt.toNat
  if base = 0 then none
  else match lvtWord s f ptroot base with
    | none => none
    | some h => (List.range (fld h 15 0)).findSome? fun i =>
      let a := base + 8 + 32 * i
      match lvtWord s f ptroot a, lvtWord s f ptroot (a + 8), lvtWord s f ptroot (a + 16), lvtWord s f ptroot (a + 24) with
      | some st, some en, some w2, some w3 =>
        if st.toNat ≤ pc.toNat && pc.toNat < en.toNat then some (w2, w3) else none
      | _, _, _, _ => none

/-- A register not saved reads zero, unless it is bound (R116). -/
def Reg.kept (r : Reg) (live : Bool) : Reg := if live || r.bind.isSome then r else Reg.zero

/-- What is saved of the ring: of the current window, w8 to w31, what is live, and the received and own groups of the other resident frames, of
which there are RES - 1 before FRM. -/
def windowLive (x : Strand) (wmask : Nat) (i : Fin 120) : Bool :=
  match (List.range 24).find? fun n => ringIx x.frm (8 + n) = i with
  | some n => wmask.testBit (8 + n)
  | none => (List.range (x.res - 1)).any fun j => (List.range 16).any fun n => groupIx (x.frm + 14 - j) n = i

/-- The strand under the masks. -/
def Strand.masked (x : Strand) (w2 w3 : Word) : Strand :=
  let wm := fld w2 31 0
  { x with
    w := Vector.ofFn fun i => (x.w[i]).kept (wm.testBit i.val)
    ring := Vector.ofFn fun i => (x.ring[i]).kept (windowLive x wm i)
    o := Vector.ofFn fun i => (x.o[i]).kept (w3.getLsbD i.val)
    v := Vector.ofFn fun i => if w2.getLsbD (32 + i.val) || (x.v[i]).bind.isSome then x.v[i] else VReg.zero
    m := Vector.ofFn fun i => if w3.getLsbD (8 + i.val) then x.m[i] else 0 }

/-- What is saved of a strand; one that waited for a walk issues again. -/
def savedStrand (s : State) (x : Strand) : Strand :=
  let x := if x.run = .stalled .translation then { x with run := .ready } else x
  if x.run = .absent then x
  else match liveMasks s s.func s.core.ptroot x.lvtbase x.pc with
    | some m => x.masked m.1 m.2
    | none => x

/-- The acts that belong to a saved context and are made again when it resumes. -/
def Act.ofContext (gs : List GangRun) : Act → Bool
  | .othersEnd q i g => gs.any fun x => x.queue = q && x.index = i && x.gang = g
  | _ => false
def Act.ofCore : Act → Bool
  | .barwtDeadline _ | .remoteReplyArrive _ | .tlbWalkStart _ _ => true
  | _ => false

/-- The gangs and the core's context go to the den, and the partition is free for the next function. The emptied core's completion table stands as
at reset, every entry free with generation 0, which the manual does not say (R110; DESIGN CHOICE, log 57). -/
def saveContext (s : State) (p : Fin 16) (f : Fin 17) (gs : List GangRun) : State :=
  let own := gs.any (·.own)
  let big := gs.any fun g => g.own && g.big
  let core := { s.core with strands := vmap (savedStrand s) s.core.strands, spill := none }
  let d : DenCtx := ⟨p, f, gs, if own then some core else none, big, takeImage s (gs.flatMap (·.cores)) (gangClusters gs), s.clu.bars,
    if own then s.core.spill.getD [] else [], false, none⟩
  let t := s.withHub fun h => { h with dens := h.dens ++ [d], gangs := h.gangs.filter fun g => !gs.contains g }
  let t := dropActs t fun a => a.ofContext gs || (own && a.ofCore)
  let t := if own then
      (t.withCore fun c => { c with
        cell := none, strands := Vector.replicate 16 Strand.absent, queues := Vector.replicate 8 [], waiters := [], reqs := [], refWaits := []
        table := Vector.replicate 128 CEntry.free, recv := vmap RecvEp.closed c.recv, spill := none
        copy := CopyEngine.idle }).withClu fun u => { u with walks := [] }
    else t
  planDispatch (t.later none (.saveAreaWriteback p none)) p t.nextDieWheel

/-- R265: at the stop wheel the cells stop; once the core's operations have run to completion its context is saved. -/
def execSwapStop (part : Fin 16) (s : State) : Host.Outcome State Fault Refusal :=
  match (s.hub.parts[part]).func with
  | none => done s
  | some f =>
    let gs := gangsOn s part f
    let own := gs.any (·.own)
    if gs.isEmpty || !drainOver s (s.hub.parts[part]) f then done s
    else if own && s.core.spill.isNone then done ((stopOwn s (gs.any fun g => g.own && g.big)).at (s.now + 256) (.swapStop part))
    else if own && !coreIdle s then done (s.at (s.now + 256) (.swapStop part))
    else done (saveContext s part f gs)

/-! ## The save area (R274, R534) -/

/-- The context of a partition still to be written. -/
def unwritten (s : State) (p : Fin 16) : Option DenCtx := s.hub.dens.find? fun d => d.part = p && !d.written

def setWritten (s : State) (d : DenCtx) : State :=
  s.withHub fun h => { h with dens := h.dens.map fun x => if x = d then { x with written := true } else x }

/-- The device address of a byte of a save area. -/
def savePa (s : State) (f gpa : Nat) : Nat :=
  match stage2 s f gpa with
  | .ok l => if l.bits = 43 then gpa else l.base + gpa % 2 ^ l.bits
  | .error _ => gpa

/-- The units of class 14 the write to a save area takes (R274). -/
def askSave (s : State) (d : DenCtx) : State :=
  let t := ({ s with ticket := s.ticket + 1 } : State).withHub fun h => { h with dens := h.dens.map fun x => if x = d then { x with saving := some s.ticket } else x }
  (List.range (saveSpan d.gangs / 1024)).foldl (fun t i =>
    let a := savePa s d.func.val (saveBase s d.gangs + 1024 * i)
    if isHbm a then hbmAsk t s.ticket none 14 a 16 true else t) t

/-- The context goes to its save area. The manual gives the bytes no layout, so each word of the span takes a free value (log 29). -/
def writeSave (s : State) (d : DenCtx) : State :=
  let n := saveSpan d.gangs / 8
  (List.range n).foldl (fun t i => putWord t (savePa s d.func.val (saveBase s d.gangs + 8 * i)) (Config.freeWord (s.fresh + i)))
    { s with fresh := s.fresh + n }

/-- R274, R534: the background write takes its units and ends, or meets a fault and leaves the context held in the den. -/
def execSaveAreaWriteback (part : Fin 16) (bad : Option SaveFault) (s : State) : Host.Outcome State Fault Refusal :=
  match unwritten s part with
  | none => done s
  | some d =>
    match bad.orElse fun _ => preflight s d.func.val (saveBase s d.gangs) (saveSpan d.gangs) with
    | some e =>
      let t := saveFailed s part.val d.func.val 63 e
      done (recoveryRecord t 0x0802 (saveDetail e) (e.addr.zeroExtend 64) d.func.val part.val)
    | none => match d.saving with
      | none => done ((askSave s d).at (s.now + 1) (.saveAreaWriteback part none))
      | some t =>
        if hbmPending s t then done (s.at (s.now + 1) (.saveAreaWriteback part none))
        else done (clearDenHeld (setWritten (writeSave s d) d) part.val)

/-- R535: a new preflight, then the write goes on. -/
def execCtxRetry (part : Fin 16) (s : State) : Host.Outcome State Fault Refusal :=
  if !denHeld s part.val then done s
  else match unwritten s part with
    | none => done s
    | some d =>
      match preflight s d.func.val (saveBase s d.gangs) (saveSpan d.gangs) with
      | some e =>
        let t := saveFailed s part.val d.func.val 63 e
        done (recoveryRecord t 0x0801 (saveDetail e) (e.addr.zeroExtend 64) d.func.val part.val)
      | none => done (s.later none (.saveAreaWriteback part none))

/-- A context given up: its gangs have no cells any longer. -/
def DenCtx.lost (d : DenCtx) : DenCtx :=
  { d with gangs := d.gangs.map fun g => { g with own := false, others := false }, core := none, img := ⟨[], [], [], [], [], [], d.img.loops⟩
           ring := [], written := true }

/-- R535: the held context is lost; its gangs end as killed ones at the function's next slice. -/
def execCtxDiscard (part : Fin 16) (s : State) : Host.Outcome State Fault Refusal :=
  if !denHeld s part.val then done s
  else match unwritten s part with
    | none => done s
    | some d => done (clearDenHeld (s.withHub fun h => { h with dens := h.dens.map fun x => if x = d then x.lost else x }) part.val)

/-! ## Resuming (R266, R267) -/

/-- An entry strand of a gang larger than a cluster begins again at RESTART; a frozen one is still frozen there (R466). -/
def restartStrand (c : Cell) (k : Fin 16) (x : Strand) : Strand :=
  if k.val < c.n - c.handlers && x.run != .absent && x.run != .halted then
    { x with tepc := x.pc.zeroExtend 64, pc := pcOf (gjob c.gang).restart, run := if x.run = .frozen then .frozen else .ready, walked := [] }
  else x

/-- A saved core in place of the present one, whose caches, translations, circuits and ways out stay. -/
def restoreCore (s : State) (d : DenCtx) (c : Core) : Core :=
  let now := s.core
  let strands := match c.cell, d.big with
    | some x, true => Vector.ofFn fun k => restartStrand x k c.strands[k]
    | _, _ => c.strands
  { c with
    strands := strands
    acc := if d.big then Vector.replicate 8 Acc.zero else c.acc
    cache := now.cache
    fetches := now.fetches
    wbq := now.wbq
    utlb := now.utlb
    moved := []
    send := now.send
    recv := Vector.ofFn fun e => if d.holds e then c.recv[e] else now.recv[e]
    spill := none
    lastFn := some d.func }

/-- What the saved strands waited for is set going again. -/
def rewait (s : State) (k : Fin 16) : State :=
  match (s.strand k).run with
  | .parked (.barrier _ _ _ _ (some w)) => s.at (max s.now (w * 256 + replayLag s)) (.barwtDeadline k)
  | .stalled (.fcwait i n) => if n.toNat ≤ (counterValue s s.func i).toNat then fcwaitEnd s k else s
  | _ => s

/-- The core's cell comes back, with the spill ring replayed before any strand issues. -/
def resumeOwn (s : State) (d : DenCtx) (c : Core) : State :=
  let s := { s with core := restoreCore s d c, clu := { s.clu with bars := d.bars } }
  let s := if d.big then (List.finRange 16).foldl (fun s k => if (s.strand k).run = .ready then dropWaits s k else s) s else s
  let s := (List.finRange 16).foldl rewait s
  let s := s.core.reqs.foldl (fun s r => s.later none (.remoteReplyArrive r.ticket)) s
  d.ring.foldl (fun s x => receiveAt s x.1 x.2) s

/-- A gang returns; one of a lost context ends as a killed gang does. -/
def resumeGang (s : State) (g : GangRun) : State :=
  let t := s.withHub fun h => { h with gangs := h.gangs ++ [g] }
  if !g.own && !g.others then killOthers t g
  else if g.others then t.later none (.othersEnd g.queue g.index g.gang)
  else t

/-- A saved context leaves the den, its image comes back, and its cells start. -/
def resumeContext (s : State) (d : DenCtx) : State :=
  let s := putImage s d.func d.img
  let s := s.withHub fun h => { h with dens := h.dens.filter (· != d) }
  let s := if !d.written then clearDenHeld s d.part.val else s
  let s := match d.core with
    | some c => resumeOwn s d c
    | none => s
  d.gangs.foldl resumeGang s

/-- R267: at the start of the function's slice every context of it comes back. -/
def execSwapResume (part : Fin 16) (s : State) : Host.Outcome State Fault Refusal :=
  match (s.hub.parts[part]).func with
  | none => done s
  | some f => done ((s.hub.dens.filter fun d => d.part = part && d.func = f).foldl resumeContext s)

/-! ## Checkpoints (R536-R539) -/

def setCkpt (s : State) (f i hi lo v : Nat) : State := hubPut s (rCkpt f i) (setFld (hubGet s (rCkpt f i)) hi lo v)

/-- The words of a function's fence table, by address (R255). -/
def fenceWords (s : State) (f : Nat) : List (Nat × Word) :=
  (List.range (fcCount s f)).flatMap fun i => [(counterPa s f i, wordAt s (counterPa s f i)), (counterPa s f i + 8, wordAt s (counterPa s f i + 8))]

/-- HEAD and SAVE of its queues. -/
def queueWords (s : State) (f : Nat) : List (Nat × Word) :=
  ((liveQueues s).filter fun q => qFunc s q = f).flatMap fun q =>
    (1 :: (List.range 8).map (4 + ·)).map fun i => (rQueue q i, hubGet s (rQueue q i))

/-- JAYPOS: 16 bits of WR for each partition of PMASK, four at most. -/
def jayPos (s : State) (f : Nat) : Word :=
  let ps := ((List.range 16).filter fun p => (fnMask s f).getLsbD (48 + p)).take 4
  word ((ps.zip (List.range 4)).foldl (fun n x => n + fld (hubGet s (rJay x.1 2)) 15 0 * 65536 ^ x.2) 0)

/-- The job that asked for the checkpoint: the first head record that wants one. -/
def ckptJob (s : State) (f : Fin 17) : Option Cand :=
  ((fnParts s f.val).flatMap fun p => freshHeads s p.val f.val).find? (wantsCkpt s f.val)

/-- The job may dispatch, and BUSY clears. -/
def ckptOver (s : State) (f : Fin 17) : State :=
  let s := match ckptJob s f with
    | some c => s.withHub fun h => { h with ckptDone := h.ckptDone ++ [(BitVec.ofNat 12 c.queue, c.index)] }
    | none => s
  setCkpt s f.val 4 62 62 0

/-- The image and words are taken, and the write of the image to the pool asks its units. The pool bytes they take are left open, since the manual gives them no layout (log 28). -/
def takeCkpt (s : State) (f : Fin 17) : State :=
  let c : Ckpt := ⟨f, takeImage s (usedCores s f) (usedClusters s f), fenceWords s f.val, queueWords s f.val, [], [], true, s.ticket⟩
  let s := { s with ticket := s.ticket + 1 }
  let t := s.withHub fun h => { h with ckpts := h.ckpts.filter (·.func != f) ++ [c] }
  let t := hubPut t (rCkpt f.val 2) (word ((Config.freeWord t.fresh).toNat % (poolSize t f.val + 1)))
  let t := { t with fresh := t.fresh + 1 }
  let t := hubPut t (rCkpt f.val 3) (word (t.wheel % 2 ^ 56))
  let t := hubPut t (rCkpt f.val 5) (jayPos t f.val)
  let t := setCkpt t f.val 4 63 63 1
  let t := setCkpt t f.val 4 15 0 (fld (hubGet t (rCkpt f.val 4)) 15 0 + 1)
  let pool := fld (hubGet t (rCkpt f.val 0)) 42 13 * 8192
  let t := ((List.range (granulesOf c.img.mem)).flatMap fun i => (List.range 8).map fun j => pool + 8192 * i + 1024 * j).foldl
    (fun t a => if isHbm a then hbmAsk t c.ticket none 14 a 16 true else t) t
  ckptOver (t.later none (.ckptPoolWriteDone f)) f

/-- R537: taken once no gang of the function runs, unless a cluster's image does not fit in its den's 3 MiB. -/
def execCheckpointTake (f : Fin 17) (s : State) : Host.Outcome State Fault Refusal :=
  if !(hubGet s (rCkpt f.val 4)).getLsbD 62 then done s
  else if s.hub.gangs.any (·.func = f) then done (s.atOnce s.nextDieWheel (.checkpointTake f))
  else
    let cs := (fnParts s f.val).flatMap fun p => partClusters s p.val
    match cs.find? (overDen s (usedCores s f) (usedClusters s f)) with
    | some g => done (ckptOver (recoveryRecord s 0x0803 (denNeed s (usedCores s f) (usedClusters s f) g) (word g) f.val 0) f)
    | none => done (takeCkpt s f)

/-- R537: the image is in the pool once its units of class 14 are served. -/
def execCkptPoolWriteDone (f : Fin 17) (s : State) : Host.Outcome State Fault Refusal :=
  if s.hub.ckpts.any fun c => c.func = f && hbmPending s c.ticket then done (s.at (s.now + 1) (.ckptPoolWriteDone f))
  else done (s.withHub fun h => { h with ckpts := h.ckpts.map fun c => if c.func = f then { c with inDen := false } else c })

/-- The old content of a granule that has been read goes to the pool: 16 units at each of its 8 pseudo-channels (R538). -/
def poolWrite (s : State) (h : Held) : State :=
  let t := ({ s with ticket := s.ticket + 1 } : State).withHub fun b =>
    { b with held := b.held.map fun x => if x = h then { x with ticket := s.ticket, write := true } else x }
  granuleUnits t s.ticket (poolNext s h.func.val) true

/-- The copy of a granule is made: its bit is set, and the writes that wait go on. -/
def endCopy (s : State) (h : Held) : State :=
  let t := s.withHub fun b => { b with held := b.held.filter (· != h) }
  if ckptHolds t h.func.val (8192 * h.granule) then copyGranule t h.func.val h.granule else t

/-- R538: the checkpoint engine reads the granule, writes it to the pool, both in units of class 14, and lets its writes go on. -/
def execHeldWriteCopy (granule : Nat) (s : State) : Host.Outcome State Fault Refusal :=
  match s.hub.held.find? (·.granule = granule) with
  | none => done s
  | some h =>
    if hbmPending s h.ticket then done (s.at (s.now + 1) (.heldWriteCopy granule))
    else if h.write then done (endCopy s h)
    else done ((poolWrite s h).at (s.now + 1) (.heldWriteCopy granule))

/-- R539. -/
def execCheckpointDrop (f : Fin 17) (s : State) : Host.Outcome State Fault Refusal := done (dropCkpt s f.val)

/-! ## Ending everything of a function (R540, R542) -/

/-- Circuits whose QID is a queue of the function; fixed circuits stay. -/
def circuitsOf (s : State) (f : Nat) : List Circuit := s.fab.circuits.filter fun c => !c.fixed && qFunc s c.qid.toNat = f

/-- The core serves the function. -/
def serves (s : State) (f : Fin 17) : Bool := s.func = f.val

/-- Writes of the core on their way out of the die are performed; in a rollback those a checkpoint holds are discarded (R541). -/
def flushWrites (s : State) (f : Fin 17) : State :=
  let plain := fun (e : DbbEntry) => match e.kind with | .atomic _ => false | _ => true
  let back := s.hub.rolling.any (·.func = f)
  let mine := ((s.die.dbb.filter plain) ++ (s.core.wbq.filter plain)).filter fun e => !(back && ckptHolds s f.val e.x.pa)
  let t := mine.foldl (fun t e => homeStore t e.x) s
  { t with die := { t.die with dbb := t.die.dbb.filter fun e => !plain e } }.withCore fun c => { c with wbq := c.wbq.filter fun e => !plain e }

/-- Jobs, gangs, ranges and contexts of the function are gone; a killed gang's cells on other cores end with it. -/
def forgetJobs (s : State) (f : Fin 17) : State :=
  s.withHub fun h => { h with
    jobs := h.jobs.filter (·.func != f)
    gangs := h.gangs.filter (·.func != f)
    deps := h.deps.filter fun d => qFunc s d.queue.toNat != f.val
    dens := h.dens.filter (·.func != f)
    held := h.held.filter (·.func != f)
    rolling := h.rolling.filter (·.func != f)
    ckptDone := h.ckptDone.filter fun x => qFunc s x.1.toNat != f.val
    parts := vmap (fun (x : PartRun) => { x with
      tries := x.tries.filter fun t => qFunc s t.queue.toNat != f.val
      pinned := x.pinned.bind fun t => if qFunc s t.1.toNat = f.val then none else some t }) h.parts }

/-- The core's cell of the function ends with nothing recorded; stores not yet out of its buffers are discarded, and so are the words of
its cache. -/
def dropCell (s : State) (f : Fin 17) : State :=
  let s := s.withCore fun c => { c with strands := vmap (fun (x : Strand) => { x with sb := [] }) c.strands }
  let s := endCell (dropActs s fun a => a = .cellEnd || a = .killedGangEnd) true
  flushWrites (s.withCore fun c => { c with cache := [], reqs := [], refWaits := [] }) f

/-- The function stops: its cell issues nothing more, its stores are discarded, its engines stop, its packets on the path go, and so do its
requests of Badger and the hub that have not been taken; its gangs on other cores no longer end by themselves (R542, step 2). -/
def stopFn (s : State) (f : Fin 17) : State :=
  let s := dropActs s (Act.ofContext (s.hub.gangs.filter (·.func = f)))
  if !serves s f then s
  else
    let s := s.withCore fun c => { c with
      spill := some (c.spill.getD [])
      strands := vmap (fun (x : Strand) => { x with sb := [] }) c.strands
      copy := CopyEngine.idle
      memIntake := []
      xchgIntake := []
      tile := ⟨[], [], none, none⟩ }
    let s := dropActs s fun a => match a with
      | .command _ | .tileFrontEndAccept | .copyEngineBeat | .storeLeave _ | .releaseComplete _ | .launchEnqueue _ _ _ | .postArrive _
      | .sendBufferEmpty _ _ | .badgerRequestArrive _ => true
      | _ => false
    s.withClu fun u => { u with path := u.path.filter (·.gcore != s.core.gcore) }

/-- Requests of the function remain; those of the core to full/empty words of other cores end with the drain. -/
def fnPending (s : State) (f : Fin 17) : Bool :=
  serves s f && (!s.core.reqs.all Req.waitsWord || s.die.dbb.any (fun e => e.gcore = s.core.gcore) || !s.core.wbq.isEmpty ||
    s.fab.pending.any (fun r => r.gcore = s.core.gcore))

/-- The cycle of the commit wheel at which the function's circuits go, in one part: with none there is nothing to stage, and it is the wheel that
begins now (R551). -/
def releaseWheel (s : State) (f : Fin 17) : State × Nat :=
  if (circuitsOf s f.val).isEmpty then (s, s.now)
  else
    let n := nameWheel s ((circuitsOf s f.val).flatMap circuitClaims).length
    (n.1, 256 * n.2)

/-! ## Rollback (R540, R541) -/

/-- The granules of the pool go back. -/
def writeBack (s : State) (c : Ckpt) : State :=
  let s := c.pool.foldl (fun s g => { s with
    mem := cellsPut memDflt (cellsClear s.mem (8192 * g.1) (8192 * (g.1 + 1))) g.2
    poison := s.poison.filter fun w => !(1024 * g.1 ≤ w && w < 1024 * (g.1 + 1)) }) s
  s.withHub fun h => { h with ckpts := h.ckpts.map fun x => if x.func = c.func then { x with bits := [], pool := [] } else x }

/-- HEAD and SAVE come back; TAIL stays. -/
def restoreQueue (s : State) (x : Nat × Word) : State :=
  if (x.1 - rQueue 0 0) % 0x80 = 8 then hubPut s x.1 (setFld (hubGet s x.1) 63 32 (fld x.2 63 32)) else hubPut s x.1 x.2

def setRolling (s : State) (f : Fin 17) (step : Fin 4) (n : Nat) : State :=
  s.withHub fun h => { h with rolling := h.rolling.filter (·.func != f) ++ [⟨f, step, n⟩] }

/-- Step 1: no gang of the function starts, its gangs stop, and its contexts in dens are discarded. -/
def rollBegin (s : State) (f : Fin 17) : State :=
  let t := stopFn (setCkpt s f.val 4 62 62 1) f
  let t := t.withHub fun h => { h with dens := h.dens.filter (·.func != f) }
  (setRolling t f 1 (s.wheel + 64)).at s.nextWheel (.rollbackStep f)

/-- Step 3 and the start of step 4: the circuits go, and the write-back asks its units: 16 at each pseudo-channel of a granule and of its copy. -/
def rollAsk (s : State) (f : Fin 17) : State :=
  let t := (circuitsOf s f.val).foldl (fun t x => breakCircuit t x 2) s
  let t := (setRolling { t with ticket := t.ticket + 1 } f 3 s.ticket).at (s.now + 1) (.rollbackStep f)
  let pool := fld (hubGet s (rCkpt f.val 0)) 42 13 * 8192
  let gs := ((s.hub.ckpts.find? (·.func = f)).map (·.pool)).getD []
  let as := (gs.zip (List.range gs.length)).flatMap fun x => (List.range 8).flatMap fun i => [(pool + 8192 * x.2 + 1024 * i, false), (8192 * x.1.1 + 1024 * i, true)]
  as.foldl (fun t a => if isHbm a.1 then hbmAsk t s.ticket none 14 a.1 16 a.2 else t) t

/-- Steps 4 and 5 are over: the granules, the fence table, HEAD and SAVE are as at CKW, ROLLBACK is recorded and BUSY clears. The slice of the
function ends on each of its partitions, so that the image comes back at its next one (log 31). -/
def rollEnd (s : State) (f : Fin 17) : State :=
  let t := match s.hub.ckpts.find? (·.func = f) with
    | some c =>
      let t := writeBack s c
      let t := hubPut t (rCkpt f.val 2) (word (poolUsed t f.val - 8192 * c.pool.length))
      let t := c.queues.foldl restoreQueue (c.fence.foldl (fun t x => putWord t x.1 x.2) t)
      let t := t.withHub fun h => { h with
        restoring := h.restoring.filter (·.1 != f) ++ (fnParts s f.val).map fun p => (f, p) }
      recoveryRecord t 0x0805 c.pool.length (hubGet t (rCkpt f.val 3)) f.val 0
    | none => s
  let t := setCkpt t f.val 4 62 62 0
  let t := t.withHub fun h => { h with rolling := h.rolling.filter (·.func != f) }
  (fnParts t f.val).foldl (fun t p =>
    let t := if (t.hub.parts[p]).func = some f then modPart t p fun x => { x with drainFrom := some (dieWheel t.now) } else t
    planDispatch t p t.nextDieWheel) t

/-- R540: the write to ROLLBACK begins one while a checkpoint is held and BUSY is 0. -/
def execCheckpointRollback (f : Fin 17) (s : State) : Host.Outcome State Fault Refusal :=
  let w := hubGet s (rCkpt f.val 4)
  done (if s.hub.ckpts.any (·.func = f) && w.getLsbD 63 && !w.getLsbD 62 then rollBegin s f else s)

/-- The drain is over: the writes that were held are discarded, everything of the function ends, and Badger names the wheel at which its circuits
go. -/
def rollForget (s : State) (f : Fin 17) : State :=
  let n := releaseWheel (forgetJobs (if serves s f then dropCell s f else s) f) f
  (setRolling n.1 f 2 n.2).at n.2 (.rollbackStep f)

/-- R540, R541: the drain, which lasts 64 wheels at most, the circuits' commit wheel, and the write-back. -/
def execRollbackStep (f : Fin 17) (s : State) : Host.Outcome State Fault Refusal :=
  match s.hub.rolling.find? (·.func = f) with
  | none => done s
  | some r =>
    if r.step = 1 then done (if fnPending s f && s.wheel < r.n then s.at s.nextWheel (.rollbackStep f) else rollForget s f)
    else if r.step = 2 then done (rollAsk s f)
    else done (if hbmPending s r.n then s.at (s.now + 1) (.rollbackStep f) else rollEnd s f)

/-! ## Function-level reset (R542-R544) -/

def setFlr (s : State) (f busy step : Nat) : State := hubPut s (rFlr f) (word (busy * 2 ^ 63 + step))
def flrStep (s : State) (f : Nat) : Nat := fld (hubGet s (rFlr f)) 2 0

/-- The wheel F of a reset in progress. -/
def flrWheel (s : State) (f : Fin 17) : Nat := ((s.hub.resetting.find? (·.1 = f)).map (·.2)).getD 0

/-- R542, step 1; the physical function's reset is the package's, which HostEvents gives. -/
def flrBegin (s : State) (f : Fin 17) : State :=
  if s.hub.resetting.any (·.1 = f) then s
  else
    let w := s.wheel + 1
    (setFlr (s.withHub fun h => { h with resetting := h.resetting ++ [(f, w)] }) f.val 1 1).at (256 * (w + 2)) (.flrDrainEnd f)

/-- The core's own part of the machine as R552 leaves it; its circuits that are not the function's stay. -/
def clearCore (s : State) : State :=
  s.withCore fun c => { Core.reset with
    gcore := c.gcore
    send := c.send
    recv := vmap RecvEp.closed c.recv }

/-- Every core and cluster the function used, or holds with a gang, as R273 leaves them; they count as used by no function. -/
def clearUsed (s : State) (f : Fin 17) : State :=
  let mine := (s.hub.gangs.filter (·.func = f)).flatMap (·.cores)
  let s := (usedCores s f ++ mine).eraseDups.foldl clearCoreOf s
  let s := (usedClusters s f ++ clustersOf mine).eraseDups.foldl clearClusterOf s
  s.withHub fun h => { h with coreUser := h.coreUser.filter (·.2 != f), clusterUser := h.clusterUser.filter (·.2 != f) }

/-- Steps 3 to 5, at the commit wheel. -/
def flrClear (s : State) (f : Fin 17) : State :=
  let mine : Bool := serves s f || s.core.lastFn = some f
  let s := if serves s f then dropCell s f else s
  let s := (circuitsOf s f.val).foldl (fun s c => breakCircuit s c 2) s
  let s := forgetJobs (clearUsed s f) f
  let s := if mine then clearCore s else s
  let s := ((liveQueues s).filter fun q => qFunc s q = f.val).foldl (fun s q =>
    (List.range 8).foldl (fun s d => hubPut s (rQueue q (4 + d)) 0) (hubPut s (rQueue q 1) 0)) s
  let s := (List.range (fcCount s f.val)).foldl (fun s i => putWord (putWord s (counterPa s f.val i) 0) (counterPa s f.val i + 8) 0) s
  let s := dropCkpt (setCkpt (hubPut s (rFstat f.val) 0) f.val 4 62 62 0) f.val
  let s := (List.range 16).foldl (fun s p =>
    if denHeld s p && fld (hubGet s (rCtx p 0)) 52 48 = f.val then clearDenHeld s p else s) s
  let s := s.withHub fun h => { h with resetting := h.resetting.filter (·.1 != f), restoring := h.restoring.filter (·.1 != f) }
  recoveryRecord (setFlr s f.val 0 0) 0x0806 0 (word s.wheel) f.val 0

/-- R542: steps 2 to 5. The drain lasts 64 wheels at most, and the clearing falls on the commit wheel at which Badger releases the
circuits; with none it is the first wheel after the drain (R551). -/
def execFlrDrainEnd (f : Fin 17) (s : State) : Host.Outcome State Fault Refusal :=
  let w := flrWheel s f
  if !s.hub.resetting.any (·.1 = f) then done s
  else if s.wheel < w + 2 then done (s.at (256 * (w + 2)) (.flrDrainEnd f))
  else match flrStep s f.val with
    | 1 => done ((stopFn (setFlr s f.val 1 2) f).at s.nextWheel (.flrDrainEnd f))
    | 2 =>
      if fnPending s f && s.wheel < w + 66 then done (s.at s.nextWheel (.flrDrainEnd f))
      else
        let n := releaseWheel (setFlr s f.val 1 3) f
        done (n.1.at n.2 (.flrDrainEnd f))
    | _ => done (flrClear s f)

end Sys2Proof.Machine
end

