-- ==== Sys2Proof/Machine/CoreEvents.lean ====
section
/-! DEFINITION. Events at a strand's boundary and at the core's homes: interrupts (R121, R268, R269), refused words and fetches (R483,
R492), requests of other cores (R174-R176), gateways (R179) and banks (R180, R182). -/

namespace Sys2Proof.Machine

/-! ## Interrupts (R121, R268, R269) -/

/-- An interrupt the strand would take: pending, enabled, with IE set. -/
def dueInterrupt (s : State) (k : Fin 16) : Bool :=
  (s.strand k).ie && (ipend s k &&& (s.strand k).ien) != 0

/-- R121, R269: TIMER reads pending from here on; enabled, it makes a parked strand ready. -/
def execTimerExpiry (k : Fin 16) (s : State) : Host.Outcome State Fault Refusal :=
  match (s.strand k).run with
  | .parked _ => done (if dueInterrupt s k then (dropWaits s k).setRun k .ready else s)
  | _ => done s

/-- The strand enters TVEC and is ready. -/
def enterTrap (s : State) (k : Fin 16) (cause tval : Word) : State :=
  ((dropWaits s k).modStrand k fun x => takeTrap x x.pc cause tval).setRun k .ready

/-- A pending event the strand may take at its boundary: SINGULAR whatever IE says, or an interrupt; a parked strand is made ready by an interrupt
only, and where a trap has just been taken none is (R269). -/
def boundaryDue (s : State) (k : Fin 16) : Bool :=
  match (s.strand k).run with
  | .ready | .yielded => !(s.strand k).taken && (!(s.strand k).singular.isEmpty || dueInterrupt s k)
  | .parked _ => !(s.strand k).taken && dueInterrupt s k
  | _ => false

/-- R269, items 2 and 3: SINGULAR, then TIMER, MBOX and SOFT. -/
def execInterruptEntry (k : Fin 16) (s : State) : Host.Outcome State Fault Refusal :=
  let x := s.strand k
  if !boundaryDue s k then done s
  else match x.singular with
    | h :: rest => done (enterTrap (s.modStrand k fun x => { x with singular := rest }) k tcSingular (h.zeroExtend 64))
    | [] =>
      if !dueInterrupt s k then done s
      else
        let due := ipend s k &&& x.ien
        if due.getLsbD 0 then done (enterTrap s k tcTimer 0)
        else if due.getLsbD 1 then
          match mboxPending s k with
          | some e => done (enterTrap (s.modRecv e fun r => { r with pend := false }) k tcMbox (word e.val))
          | none => done s
        else done (enterTrap s k tcSoft 0)

/-! ## Words and fetches that are refused (R483, R492) -/

/-- R483: the word is kept in EXTRA. -/
def execIllins (w : BitVec 32) (s : State) : Host.Outcome State Fault Refusal :=
  done (freeze { s with word := w } s.cur cILLINS false s.st.pc 0 (w.zeroExtend 64) w)

/-- R492: EXTRA says translation or permission; the manual gives no value for a hole (log 6). -/
def execFetchFault (why : FetchWhy) (s : State) : Host.Outcome State Fault Refusal :=
  let va := s.st.pc.zeroExtend 64
  match why with
  | .xlate => done (freeze s s.cur cFETCH false s.st.pc va 0 0)
  | .perm => done (freeze s s.cur cFETCH false s.st.pc va 1 0)
  | .hole => done (freeze { s with fresh := s.fresh + 1 } s.cur cFETCH false s.st.pc va (Config.freeWord s.fresh) 0)
  | .poison pa => done (freeze s s.cur cPOISON false s.st.pc va (pa.zeroExtend 64) 0)

/-! ## Requests of other cores at the own TCM (R174-R176, R188) -/

/-- A request joins the waiters of its word while fewer than 32 remote ones wait (R175); the walk at the cycle's end serves it (R174). -/
def joinRemote (s : State) (q : RemoteReq) (kind : WaiterKind) : Option State :=
  let n := (s.core.waiters.filter fun w => match w.by_ with | .remote _ => true | _ => false).length
  if 32 ≤ n then none else some (addWaiter s ⟨q.off / 8 * 8, s.now, .remote q.gcore, kind, 0⟩)

/-- A request at the core's TCM unit; none: it must wait in the receive queue. -/
def serveRemote (s : State) (q : RemoteReq) : Option State :=
  let pa := tcmPa s.core.gcore q.off
  let p : Piece := ⟨pa, q.size, true, false⟩
  match q.kind with
  | .load => some (queueReply s 2)
  | .store => some (queueReply (homeStore s (storeOf pa q.size q.data q.tag)) 1)
  | .amo fn => (match atomicAt s p (amoNew fn · q.data) with
    | some r => some (queueReply r.2.2 2)
    | none => some (queueReply s 1))
  | .cas => (match atomicAt s p ((Access.cas p q.cmp q.data).update) with
    | some r => some (queueReply r.2.2 2)
    | none => some (queueReply s 1))
  | .ldf => joinRemote s q .ldf
  | .ldw => joinRemote s q .ldw
  | .stf => joinRemote s q (.stf q.data)
  | .stff => some (queueReply (fillHome (performStore s ⟨pa, q.data, 0xFF, 0x7F⟩) pa) 1)
  | .clre => some (queueReply (emptyHome s pa) 1)

/-- A request of a lower core arrives in the same cycle (R176). -/
def lowerArrives (s : State) (q : RemoteReq) : Bool := s.agenda.any fun e => decide (e.1 ≤ s.now) && (match e.2 with
  | .remoteRequestArrive p | .event (.remoteRequestArrive p) => p.gcore < q.gcore
  | _ => false)

/-- R175, R176: requests are served in the order of arrival, then by global core; one that finds 32 waiters waits in the receive queue with all
behind it. -/
def execRemoteRequestArrive (q : RemoteReq) (s : State) : Host.Outcome State Fault Refusal :=
  if lowerArrives s q then done (s.at s.now (.remoteRequestArrive q))
  else match if s.core.remoteQ.isEmpty then serveRemote s q else none with
    | some t => done t
    | none => done (s.withCore fun c => { c with remoteQ := c.remoteQ ++ [q] })

/-- Requests that wait in the receive queue go on as waiters become free. -/
def drainRemote (s : State) : (fuel : Nat) → State
  | 0 => s
  | n + 1 => match s.core.remoteQ with
    | [] => s
    | q :: rest => match serveRemote s q with
      | some t => drainRemote (t.withCore fun c => { c with remoteQ := rest }) n
      | none => s

/-! ## Gateways (R179) -/

/-- The source a gateway serves next: the least above the one served last, else the least. -/
def nextSource (s : State) (gw : AgentId) : Option Nat :=
  let srcs := (s.die.gwMsgs.filter (·.gw = gw)).map (·.source)
  let last := ((s.die.gwNext.find? (·.1 = gw)).map (·.2))
  let least := fun (xs : List Nat) => match xs with | [] => none | x :: xs => some (xs.foldl min x)
  match last with
  | some n => (least (srcs.filter (n < ·))).orElse fun _ => least srcs
  | none => least srcs

/-- R179: the head message of the next source leaves whole. -/
def execGatewaySend (gw : AgentId) (s : State) : Host.Outcome State Fault Refusal :=
  match nextSource s gw with
  | none => done s
  | some n =>
    match s.die.gwMsgs.find? fun m => m.gw = gw && m.source = n with
    | some m => done { s with die := { s.die with
        gwMsgs := s.die.gwMsgs.erase m
        gwNext := s.die.gwNext.filter (·.1 != gw) ++ [(gw, n)] } }
    | none => done s

/-! ## Banks (R180, R182) -/

/-- R180: the first port at or after the pointer with an access at the bank is served, and the pointer moves past it. A bank with more to serve
goes on in the next cycle. -/
def execScratchpadBankAccess (bank : Fin 64) (s : State) : Host.Outcome State Fault Refusal :=
  let from_ := (s.clu.bankNext[bank]).val
  let ports := (List.range 16).map fun i => (from_ + i) % 16
  match ports.findSome? (portHead s bank.val) with
  | some r =>
    let t := s.withClu fun u => { u with
      bankReqs := u.bankReqs.erase r
      bankNext := u.bankNext.set bank ⟨(r.port + 1) % 16, Nat.mod_lt _ (by decide)⟩ }
    let t := if t.clu.bankReqs.any (·.bank = bank.val) then t.atOnce (t.now + 1) (.scratchpadBankAccess bank) else t
    done (bankServed t r.user)
  | none => done s

/-- The access a bank of the die SRAM serves: the earliest to arrive, then the lowest core (R176). -/
def sramHead (s : State) (bank : Nat) : Option SramReq :=
  (s.die.sramReqs.filter fun r => r.bank = bank && decide (r.arrive ≤ s.now)).foldl (fun b r => match b with
    | none => some r
    | some x => if r.arrive < x.arrive || (r.arrive = x.arrive && r.gcore < x.gcore) then some r else some x) none

/-- R182: one access in a cycle, in the order of arrival. -/
def execDieSramBankAccess (bank : Fin 64) (s : State) : Host.Outcome State Fault Refusal :=
  match sramHead s bank.val with
  | some r =>
    let t := { s with die := { s.die with sramReqs := s.die.sramReqs.erase r } }
    let t := if t.die.sramReqs.any fun q => q.bank = bank.val && decide (q.arrive ≤ t.now) then
      t.atOnce (t.now + 1) (.dieSramBankAccess bank) else t
    done (bankServed t r.user)
  | none => done s

/-! ## Accesses of other cores and of the host at homes of this package -/

/-- An access of another core of the cluster, on that core's port, or of another cluster through the gateway, on port b mod 16, comes to bank b of
the scratchpad, which serves it in the next cycle or later (R180); one to a line the atomic engine holds goes to the engine (R189). -/
def execBankRequest (gcore pa : Nat) (s : State) : Host.Outcome State Fault Refusal :=
  match home s pa with
  | .spad cl off =>
    let b : Fin 64 := ⟨off / 8 % 64, Nat.mod_lt _ (by decide)⟩
    if cl != s.cluster then done s
    else if s.clu.atomLines.contains (lineOf pa) then done (atomArrive s ⟨s.now, gcore, .plain (lineOf pa) .other⟩)
    else
      let port := if gcore / 16 = s.cluster then gcore % 16 else b.val % 16
      done ((s.withClu fun u => { u with bankReqs := u.bankReqs ++ [⟨b.val, port, .other⟩] }).atOnce (s.now + 1) (.scratchpadBankAccess b))
  | _ => done s

/-- An access of another core comes to a bank of the die SRAM, which serves it in the next cycle or later (R182). -/
def execSramRequest (gcore pa : Nat) (s : State) : Host.Outcome State Fault Refusal :=
  match home s pa with
  | .sram d off =>
    let b : Fin 64 := ⟨off / 64 % 64, Nat.mod_lt _ (by decide)⟩
    if d != s.core.gcore / 1536 then done s
    else
      let q : SramReq := ⟨b.val, s.now, gcore, .other⟩
      let t : State := { s with die := { s.die with sramReqs := s.die.sramReqs ++ [q] } }
      done (t.atOnce (s.now + 1) (.dieSramBankAccess b))
  | _ => done s

/-- The source an atomic of another core counts under at the engine: the core, or for all other clusters the gateway. -/
def atomSource (s : State) (gcore : Nat) : Option Nat := if gcore / 16 = s.cluster then some gcore else none

/-- The active Owl falls silent: what it had not delivered it delivers no more (R243). -/
def execOwlFails (s : State) : Host.Outcome State Fault Refusal := done ((undelivered s).withHub fun h => { h with owlUp := false })

/-- An atomic of another core, or of another cluster through the gateway, comes to the cluster atomic engine once no other of its source is
there (R189). -/
def execAtomicRequest (gcore : Nat) (a : Access) (s : State) : Host.Outcome State Fault Refusal :=
  let there := s.clu.atomReqs.any fun r => match r.op with | .other _ => atomSource s r.gcore = atomSource s gcore | _ => false
  done (if there then s.at (s.now + 1) (.atomicRequest gcore a) else atomArrive s ⟨s.now, gcore, .other a⟩)

/-- A write from outside the core is performed at its home. -/
def outsideStore (s : State) (x : WordStore) : State := performStore (if isHbm x.pa then cancelScrub s x.pa else s) x

/-! ## Errors check bits find (R475, R477, R500, R523, R528) -/

/-- A corrected word of a memory on a compute die counts there. -/
def countMem (s : State) (pa : Nat) : State :=
  match memDie pa with
  | some d => countCe s d false
  | none => s

/-- An error in memory: a corrected one counts at its unit, and in HBM for its lane; an uncorrectable one poisons the word or the granule, is
recorded, and in HBM has its lane repaired. -/
def execMemoryError (pa lane : Nat) (fatal : Bool) (s : State) : Host.Outcome State Fault Refusal :=
  let c := channelOf s pa / 2
  if !fatal then done (if isHbm pa then countLane s c (lane % 72) else countMem s pa)
  else
    let t := uncorrRecord (markPoison s pa) pa
    done (if h : isHbm pa ∧ c < 256 then t.at t.now (.laneRepair ⟨c, h.2⟩ (BitVec.ofNat 8 (lane % 72))) else t)

/-- An error in a word of the private cache. -/
def execCacheError (pa : Nat) (fatal : Bool) (s : State) : Host.Outcome State Fault Refusal :=
  if !fatal then done (countCe s (s.core.gcore / 1536) false)
  else
    let i : Fin 8 := ⟨pa / 8 % 8, Nat.mod_lt _ (by decide)⟩
    let bad := fun (l : CLine) => if l.line = pa / 64 then { l with words := l.words.set i { l.words[i] with poison := true } } else l
    done (uncorrRecord (s.withCore fun c => { c with cache := c.cache.map bad }) pa)

/-- An error in the den's copy of a word of a function's context (R475): the copy carries the poison until the context is restored. -/
def execDenError (part : Fin 16) (func : Fin 17) (pa : Nat) (fatal : Bool) (s : State) : Host.Outcome State Fault Refusal :=
  if !fatal then done (countMem s pa)
  else
    let bad := fun (d : DenCtx) =>
      if d.part = part && d.func = func && !d.img.poison.contains (wordNo pa) then
        { d with img := { d.img with poison := d.img.poison ++ [wordNo pa] } }
      else d
    done (uncorrRecord (s.withHub fun h => { h with dens := h.dens.map bad }) pa)

/-- An uncorrectable error in an accumulator element. -/
def execAccError (t : Fin 8) (i j : Fin 32) (s : State) : Host.Outcome State Fault Refusal :=
  done (s.withCore fun c => { c with acc := c.acc.set t { c.acc[t] with poison := (i, j) :: c.acc[t].poison } })

/-- An error in a slot-table entry as it is read: corrected and counted, or the entry acts as idle until Badger's copy is back (R500). -/
def execEntryError (a : AgentId) (t : BitVec 2) (port slot : Nat) (fatal : Bool) (s : State) : Host.Outcome State Fault Refusal :=
  if !fatal then done (countFlit s a)
  else
    let tree := if slot = 0 && t = tSwitch then treeEntry a port else 0
    let e := (tableFind s a t port slot).getD ⟨a, t, port, slot, tree, 0, false, false⟩
    done (if e.lost then s else tableError (tableSet s a t port slot fun x => { x with live := e.live, lost := true }) { e with lost := true })

/-- Bits of flit n under way turn over (R31, R501). -/
def execFlitError (n : Nat) (bits : List Nat) (s : State) : Host.Outcome State Fault Refusal :=
  done (s.withFab fun f => { f with flits := f.flits.modify n fun q => { q with flit := bits.foldl flipFlit q.flit } })

/-- The host registers a window, or takes it back (R168, R275). -/
def execHostWindow (f : Fin 17) (base len : Nat) (on : Bool) (s : State) : Host.Outcome State Fault Refusal :=
  let rest := s.hub.windows.filter (· != (f, base, len))
  done (s.withHub fun h => { h with windows := if on then rest ++ [(f, base, len)] else rest })

end Sys2Proof.Machine
end

