-- ==== Sys2Proof/Machine/HostEvents.lean ====
section
/-! DEFINITION. What the host, Proah and the package as a whole do: hub register writes (R8, R275-R289), layout commits (R283, R284, R545),
the jay (R285, R286), the power cap (R288), firmware (R289, R546, R547) and package reset (R273, R178). -/

namespace Sys2Proof.Machine

/-! ## SYSCFG and PWRCAP (R278, R288) -/

def anyPartition (s : State) : Bool := (List.range 16).any (partValid s)
def anyPortLocked (s : State) : Bool := s.fab.ports.toList.any fun p => p.lock = 2

/-- R278: MODE stays while a partition is valid, and a reserved MODE is not taken (log 13); PKGNO and XGAP stay while a port is locked. -/
def execSyscfgWrite (v : Word) (s : State) : Host.Outcome State Fault Refusal :=
  let old := hubGet s rSyscfg
  let mode := if anyPartition s || fld v 1 0 = 3 then fld old 1 0 else fld v 1 0
  let hi := if anyPortLocked s then old else v
  done (hubPut s rSyscfg ((hi &&& bitsMask 63 54) ||| word mode))

/-- R288: clamped to 1,200-2,600 W. -/
def execPwrcapWrite (v : Word) (s : State) : Host.Outcome State Fault Refusal :=
  done (hubPut s rPwrcap (word (min 2600 (max 1200 (fld v 11 0)))))

/-- Partitions still to be withheld in a wheel before an exact one may be. -/
def othersFirst (s : State) (part : Fin 16) (w : Nat) : Bool :=
  partExact s part.val && (List.finRange 16).any fun p =>
    partValid s p.val && !partExact s p.val && !s.hub.withheld.contains (w, p)

/-- R288, R285, R286: the next wheel of the partition is withheld, non-exact partitions first; the jay logs it, and withholds a replaying
partition's itself. -/
def execPowerCapWithhold (part : Fin 16) (s : State) : Host.Outcome State Fault Refusal :=
  let w := s.wheel + 1
  if !partValid s part.val || othersFirst s part w || replays s part.val then done s
  else
    let t := s.withHub fun h => { h with withheld := (h.withheld.filter fun x => s.wheel ≤ x.1 && x != (w, part)) ++ [(w, part)] }
    done (jayLog t part.val 5 8 0 [word w])

/-! ## Stage-2 removal (R280) -/

/-- Every translation of a VMID goes, and the walks pending for it are made again. -/
def dropVmid (s : State) (v : BitVec 16) : State :=
  let gone := s.clu.walks.filter (·.vmid = v)
  let t := s.withClu fun u => { u with tlb := u.tlb.filter (·.vmid != v), walks := u.walks.filter (·.vmid != v) }
  let t := t.withCore fun c => { c with utlb := c.utlb.filter (·.vmid != v) }
  (gone.flatMap (·.waiters)).foldl (fun t k => wakeMiss t k none) t

/-- R280. -/
def execS2invGo (f : Fin 17) (s : State) : Host.Outcome State Fault Refusal :=
  done ((hubPut (dropVmid s (vmidOf s f.val)) (rS2inv f.val) 2).later (some 511) (.s2invDone f))

/-- R280: nothing of the VMID is left as BUSY clears. -/
def execS2invDone (f : Fin 17) (s : State) : Host.Outcome State Fault Refusal :=
  done (hubPut (dropVmid s (vmidOf s f.val)) (rS2inv f.val) 0)

/-! ## Layout commits (R283, R284, R545) -/

/-- LCOMMIT.STAGED, whose bit the manual does not place (log 13), and the refusal bit. -/
def bStaged : Nat := 32
def staged (s : State) : Bool := (hubGet s rLcommit).getLsbD bStaged
def setLcommit (s : State) (bit v : Nat) : State := hubPut s rLcommit (setFld (hubGet s rLcommit) bit bit v)

/-- R283. -/
def execLstageWrite (nonce : BitVec 32) (s : State) : Host.Outcome State Fault Refusal :=
  let t := s.withHub fun h => { h with nonce := nonce }
  done (setLcommit (hubPut t rLstage (nonce.zeroExtend 64)) bStaged 1)

/-- R283, R545: TOKEN is compared as word 1 is written. -/
def execLcommitArm (cw : BitVec 56) (s : State) : Host.Outcome State Fault Refusal :=
  if staged s && (hubGet s rLcommit).setWidth 32 = s.hub.nonce then
    let w := max cw.toNat (s.wheel + 2)
    let halves := (List.range 16).flatMap fun p => (List.range 13).map fun i => (rPart p i, hubGet s (rPartStaged p i))
    done ((s.withHub fun h => { h with armed := some w, armedHalves := halves }).at (256 * w) .layoutFlip)
  else done s

/-- The clusters of a partition, live and under the armed halves. -/
abbrev liveHas := partHolds
def armedWord (s : State) (p i : Nat) : Word := ((s.hub.armedHalves.find? (·.1 = rPart p i)).map (·.2)).getD (hubGet s (rPart p i))
def armedHas (s : State) (p g : Nat) : Bool := (armedWord s p 0).getLsbD 63 && (armedWord s p (1 + g / 64)).getLsbD (g % 64)

/-- Clusters that leave or join a partition. -/
def movedClusters (s : State) : List Nat :=
  (List.range Config.clusterCount).filter fun g => (List.range 16).any fun p => liveHas s p g != armedHas s p g

/-- The mode-device of a cluster (R279). -/
def clusterDevice (s : State) (g : Nat) : Nat := match sysMode s with | 1 => g / 96 / 4 | 2 => g / 96 | _ => 0

/-- R281: the armed layout puts no cluster in two valid partitions, and none outside its partition's mode-device. -/
def layoutSound (s : State) : Bool :=
  (List.range Config.clusterCount).all fun g =>
    let ps := (List.range 16).filter fun p => armedHas s p g
    decide (ps.length ≤ 1) && ps.all fun p => fld (armedWord s p 0) 61 59 = clusterDevice s g

/-- Clusters that hold a cell or a saved context. -/
def heldClusters (s : State) : List Nat :=
  clustersOf ((s.hub.gangs ++ s.hub.dens.flatMap (·.gangs)).flatMap (·.cores))

/-- The fixed circuits of the core (R282). -/
def layFixed (s : State) : State :=
  if !(List.range 16).any (fun p => liveHas s p s.cluster) then s
  else [30, 31].foldl (fun s e =>
    let src := coreEp s.core.gcore e
    if (circuitOf s src).isSome then s
    else
      let s := s.withFab fun f => { f with circuits := f.circuits ++ [⟨src, [], 0, [], true⟩] }
      s.withCore fun c => { c with send := vmodify c.send e fun _ => { SendEp.idle with circuit := true } }) s

/-- The dispatcher looks at every partition again. -/
def planAll (s : State) : State := (List.finRange 16).foldl (fun s p => if partValid s p.val then planDispatch s p s.nextDieWheel else s) s

/-- R284, R282: the halves that were staged when the commit was armed become live, or nothing changes and LCOMMIT [63] is set; so too for a
layout that R281 rules out, whose fate the manual does not give (log 13). -/
def execLayoutFlip (s : State) : Host.Outcome State Fault Refusal :=
  match s.hub.armed with
  | none => done s
  | some w =>
    if s.wheel < w then done s
    else
      let t := s.withHub fun h => { h with armed := none }
      if (movedClusters s).any (heldClusters s).contains || !layoutSound s then done (setLcommit t 63 1)
      else
        let t := (List.range 16).foldl (fun t p =>
          (List.range 13).foldl (fun t i => hubPut t (rPart p i) (armedWord s p i)) t) t
        let u := planAll (layFixed (setLcommit t bStaged 0))
        done ((List.finRange 512).foldl (fun u p => if exactPc s p.val != exactPc u p.val then replanRefresh u p else u) u)

/-! ## The jay (R285, R286) -/

/-- Words of record n of a partition's ring. -/
def jayRecord (s : State) (p n : Nat) : List Word :=
  let size := max 1 (hubGet s (rJay p 1)).toNat
  (List.range 4).map fun i => wordAt s (fld (hubGet s (rJay p 0)) 42 0 + 32 * (n % size) + 8 * i)

/-- The payload of a record: its first 8 bytes, then the 32-byte units that follow. -/
def jayPayload (s : State) (p n len : Nat) : List Word :=
  ((jayRecord s p n).drop 3 ++ (List.range ((len - 8 + 31) / 32)).flatMap fun i => jayRecord s p (n + 1 + i)).take ((len + 7) / 8)

/-- The bytes of a logged write that fall in word i of its target. -/
def replayStore (a len i : Nat) (w : Word) : WordStore :=
  ⟨a / 8 * 8 + 8 * i, w <<< (8 * (a % 8)), BitVec.ofNat 8 ((2 ^ min 8 (len - 8 * i) - 1) * 2 ^ (a % 8)), 0x7F⟩

/-- A logged record of another package arrives again: its words name its source, round of the two and index (R239), its target the place in
BUF. -/
def replayRecord (s : State) (a : Nat) (ws : List Word) : State :=
  let w1 := ws.getD 1 0
  let round := fun (b : BitVec 16) => if fld w1 25 24 = 2 then secondOf b else b
  match s.hub.rounds.find? fun r => !isSecond r.round && (match r.buf, (findRound s (round r.round)).bind (·.cal) with
    | some buf, some cal => decide (buf + rsizeOf cal.rcode * recordPlace s (round r.round) cal (fld w1 31 26) (fld w1 23 0) = a)
    | _, _ => false) with
  | some r => recordArrive s ⟨round r.round, fld w1 31 26, fld w1 23 0, ws, []⟩
  | none => s

/-! ## Proah (R289, R545-R547) -/

/-- Proah's core runs: its image passed, and HOLD is 0. -/
def proahRuns (s : State) : Bool := hubGet s rBoot = 0 && !(hubGet s rPctl).getLsbD 0

def pwPeriod (s : State) : Nat := fld (hubGet s rPwdog) 15 0

/-- The watchdog counts PERIOD wheels from the last kick; PERIOD 0 is off. -/
def watchFrom (s : State) (w : Nat) : State :=
  let t := (dropActs s fun a => a = .pwdogExpiry).withHub fun h => { h with kickAt := w }
  if pwPeriod s = 0 then t else t.at (max s.now (256 * (w + pwPeriod s))) .pwdogExpiry

/-- 512 bits the manual leaves open: a measurement (log 6). -/
def freeBits (s : State) : BitVec 512 := flitOf ((List.range 8).map fun i => Config.freeWord (s.fresh + i))

/-- A stage's measurement extends a register; the manual does not say which (log 6). -/
def measure (s : State) (stage : Nat) : State :=
  { s with fresh := s.fresh + 8 }.withHub fun h =>
    { h with meas := vmodify h.meas (Config.measRegister stage).val fun m => Config.extendMeasure m (freeBits s) }

/-- Proah's boot: the image is measured and checked. -/
def bootProah (s : State) : State :=
  let t := measure s 0
  { hubPut t rBoot (Config.freeWord t.fresh) with fresh := t.fresh + 1 }

/-- A reset of Proah clears STAGED and every staged half (R284). -/
def resetProah (s : State) : State :=
  let t := (List.range 16).foldl (fun t p => (List.range 16).foldl (fun t i => hubPut t (rPartStaged p i) 0) t) s
  setLcommit t bStaged 0

/-- R546. -/
def execPwdogKick (s : State) : Host.Outcome State Fault Refusal := done (watchFrom s s.wheel)

/-- R546: the record, and Proah's reset and boot. -/
def execPwdogExpiry (s : State) : Host.Outcome State Fault Refusal :=
  if pwPeriod s = 0 then done s
  else if s.wheel < s.hub.kickAt + pwPeriod s then done (watchFrom s s.hub.kickAt)
  else
    let t := recoveryRecord s 0x0807 0 (word s.wheel) 16 0
    done (watchFrom (bootProah (resetProah t)) s.wheel)

/-- R547: HOLD keeps Proah's core in reset; it boots as HOLD ends. -/
def execPctlHold (hold : Bool) (s : State) : Host.Outcome State Fault Refusal :=
  let was := (hubGet s rPctl).getLsbD 0
  let t := hubPut s rPctl (if hold then 1 else 0)
  done (if hold && !was then resetProah t else if was && !hold then bootProah t else t)

/-- R547. -/
def execPctlClrlim (s : State) : Host.Outcome State Fault Refusal := done (hubPut s rLimstat 0)

/-- R289: one die at a time; a memory die's channels serve nothing meanwhile. -/
def execFirmwareUpdate (die : Nat) (fin : Bool) (s : State) : Host.Outcome State Fault Refusal :=
  match s.hub.fwDie, fin with
  | none, false => done (s.withHub fun h => { h with fwDie := some die })
  | some d, true =>
    if d = die then
      let t := (measure s (1 + die)).withHub fun h => { h with fwDie := none }
      done ((List.finRange 512).foldl (fun t p => if t.hbm.any (·.p = p.val) then t.atOnce t.now (.hbmServiceUnit p) else t) t)
    else done s
  | _, _ => done s

/-! ## Package reset (R273, R178, R289, R554) -/

/-- The reset values of MNET stand in force when one of its fields is 0, or when Badger cannot lay what was written, which is left open
(log 12). -/
def mnetAfter (s : State) : Word :=
  let w := hubGet s rMnet
  let zero := (List.range 6).any fun i => fld w (8 * i + 7) (8 * i) = 0
  let bad : Bool := w &&& bitsMask 47 0 != 0x0000150808080204 && (zero || Config.freeChoice s.fresh % 2 = 1)
  setFld w 63 63 (if bad then 1 else 0)

/-- Memory the reset does not clear: HBM, die SRAM and the host's (log 13). -/
def outlives (a : Nat) : Bool := a < Config.spadBase || Config.hostBase ≤ a

/-- What a package reset leaves: the state of State.reset but for global time, the core's number, memory, MNET, and what the outside still has
to do. Training ends within 4,096 wheels. -/
def resetPackage (s : State) : State :=
  let outside := s.agenda.filter fun e => match e.2 with | .event _ => true | _ => false
  let t := { State.reset with
    now := s.now
    fresh := s.fresh + 1
    ticket := s.ticket
    agenda := outside
    mem := s.mem.filter fun c => outlives c.1
    poison := s.poison.filter fun w => outlives (8 * w)
    core := { Core.reset with gcore := s.core.gcore } }
  let t := hubPut t rMnet (mnetAfter s)
  let t := { t with fresh := t.fresh + 512, agenda := t.agenda ++ trainings t.now t.fresh }
  watchFrom (bootProah t) s.wheel

/-- R273. -/
def execPackageReset (s : State) : Host.Outcome State Fault Refusal := done (resetPackage s)

/-- R542; a reset of the physical function is the package's. -/
def execFlrRequest (f : Fin 17) (s : State) : Host.Outcome State Fault Refusal :=
  done (if f.val = 16 then resetPackage s else flrBegin s f)

/-! ## Register writes (R8, R275, R287, R545-R547) -/

/-- Runs one effect after another. -/
def thenDo (r : Host.Outcome State Fault Refusal) (f : State → Host.Outcome State Fault Refusal) : Host.Outcome State Fault Refusal :=
  match r with
  | .next s => f s
  | x => x

/-- A write of the physical function to a queue descriptor. -/
def writeQueue (s : State) (a : Nat) (v : Word) : State :=
  if (a - rQueue 0 0) % 0x80 = 8 then liveEnqueue s (BitVec.ofNat 12 ((a - rQueue 0 0) / 0x80)) (v.setWidth 32)
  else planAll (hubWrite s a v)

/-- The commit word of a budget table: the controller commits at CW, or at the next die wheel when that has passed (R220). -/
def writeBudgetCommit (s : State) (a : Nat) (v : Word) : State :=
  let g : Fin 512 := ⟨(a - 0x200000) / 0x100 % 512, Nat.mod_lt _ (by decide)⟩
  let t := hubWrite s a v
  if v.getLsbD 63 then t.atOnce (max (256 * fld v 55 0 + 128) t.nextDieWheel) (.budgetCommit g) else t

/-- PCTL: HOLD, and CLRLIM. -/
def writePctl (s : State) (v : Word) : Host.Outcome State Fault Refusal :=
  thenDo (execPctlHold (v.getLsbD 0) s) fun t => if v.getLsbD 1 then execPctlClrlim t else done t

/-- A write of the physical function. -/
def writePf (s : State) (a : Nat) (v : Word) : Host.Outcome State Fault Refusal :=
  if a = rSyscfg then execSyscfgWrite v s
  else if a = rLstage then execLcommitArm (v.setWidth 56) s
  else if a = rPwrcap then execPwrcapWrite v s
  else if a = rPctl then writePctl s v
  else if a = rPwdog then done (watchFrom (hubWrite s a v) s.hub.kickAt)
  else if a = rGkill then execGkill v s
  else if 0x200000 ≤ a && a < 0x220000 && a % 0x100 = 0x80 then done (writeBudgetCommit s a v)
  else if 0x200000 ≤ a && a < 0x220000 && a % 0x100 = 0x88 then
    done (idleFrom (hubWrite s a v) ⟨(a - 0x200000) / 0x100 % 512, Nat.mod_lt _ (by decide)⟩)
  else if rS2root 0 ≤ a && a < rS2root 17 && a % 16 = 8 then
    (if v.getLsbD 0 then execS2invGo (fin17 ((a - rS2root 0) / 16)) s else done s)
  else if rCkpt 0 0 ≤ a && a < rCkpt 17 0 && a % 0x40 = 0x30 then
    (let f := fin17 ((a - rCkpt 0 0) / 0x40)
     thenDo (if v.getLsbD 1 then execCheckpointDrop f s else done s) fun t => if v.getLsbD 0 then execCheckpointRollback f t else done t)
  else if rQueue 0 0 ≤ a && a < rQueue 4096 0 then done (writeQueue s a v)
  else if rCtx 0 0 ≤ a && a < rCtx 16 0 && a % 16 = 8 then
    (let p := fin16 ((a - rCtx 0 0) / 16)
     thenDo (if v.getLsbD 0 then execCtxRetry p s else done s) fun t => if v.getLsbD 1 then execCtxDiscard p t else done t)
  else if rFunc 0 0 ≤ a && a < rFunc 17 0 then done (planAll (hubWrite s a v))
  else done (hubWrite s a v)

/-- ROFF of a partition, in wheels (R548). -/
def replayLag48 (s : State) (p : Fin 16) : Nat := fld (hubGet s (rJay p.val 4)) 55 0

/-- One logged input again: a host write or DMA data goes to its target, a record arrives, a withheld wheel is withheld. An interrupt from
outside carries no layout the manual gives (log 14). -/
def replayInput (s : State) (p : Fin 16) (kind len : Nat) (target : Word) (ws : List Word) : State :=
  let a := target.toNat
  if kind = 1 || kind = 4 then
    (if Config.hubBase ≤ a && a < Config.hubBase + Config.hubBytes then
      (let r := a - Config.hubBase
       if rQueue 0 0 ≤ r && r < rQueue 4096 0 && (r - rQueue 0 0) % 0x80 = 8 then
         hostEnqueue s (BitVec.ofNat 12 ((r - rQueue 0 0) / 0x80)) ((ws.headD 0).setWidth 32)
       else match writePf s r (ws.headD 0) with
         | .next t => t
         | _ => s)
     else
       (ws.zip (List.range ws.length)).foldl (fun s x =>
         homeStore s (replayStore a len x.2 x.1)) s)
  else if kind = 2 then replayRecord s a ws
  else if kind = 5 then s.withHub fun h => { h with withheld := h.withheld ++ [((ws.headD 0).toNat + replayLag48 s p, p)] }
  else s

/-- Where a partition's replay stands: the first record not yet supplied. -/
def replayNext (s : State) (p : Fin 16) : Nat :=
  ((s.hub.replayAt.find? (·.1 = p)).map (·.2)).getD (fld (hubGet s (rJay p.val 3)) 61 0)

/-- The time at which a partition's next record is due, when there is one. -/
def replayDue (s : State) (p : Fin 16) : Option Nat :=
  let n := replayNext s p
  if !replays s p.val || (hubGet s (rJay p.val 2)).toNat ≤ n then none
  else some (((jayRecord s p.val n).headD 0).toNat + 256 * replayLag48 s p)

/-- The jay supplies the next record when it is due. -/
def replaySoon (s : State) (p : Fin 16) : State :=
  match replayDue s p with
  | some t => s.atOnce (max s.now t) (.jayReplay p)
  | none => s

/-- R286, R548: under REPLAY the next record is supplied at its logged time plus ROFF, and then the one after it. -/
def execJayReplayInput (p : Fin 16) (s : State) : Host.Outcome State Fault Refusal :=
  match replayDue s p with
  | none => done s
  | some t =>
    if s.now < t then done s
    else
      let n := replayNext s p
      let r := jayRecord s p.val n
      let len := fld (r.getD 1 0) 31 0
      let s' := s.withHub fun h => { h with replayAt := h.replayAt.filter (·.1 != p) ++ [(p, n + 1 + (len - 8 + 31) / 32)] }
      done (replaySoon (replayInput s' p (fld (r.getD 1 0) 63 56) len (r.getD 2 0) (jayPayload s p.val n len)) p)

/-- The partitions whose input a register is: those of a queue's or a function's PMASK, or the one named. -/
def regParts (s : State) (a : Nat) : List (Fin 16) :=
  if rQueue 0 0 ≤ a && a < rQueue 4096 0 then fnParts s (qFunc s ((a - rQueue 0 0) / 0x80))
  else if rFunc 0 0 ≤ a && a < rFunc 17 0 then fnParts s ((a - rFunc 0 0) / (rFunc 1 0 - rFunc 0 0))
  else if rCkpt 0 0 ≤ a && a < rCkpt 17 0 then fnParts s ((a - rCkpt 0 0) / 0x40)
  else if rCtx 0 0 ≤ a && a < rCtx 16 0 then [fin16 ((a - rCtx 0 0) / 16)]
  else []

/-- A write of the physical function as the host makes it: logged for the partitions it is an input of, and not made while one of them replays
(R285, R286); TAIL words log as they are taken (R276). A write to a ring's descriptor may set REPLAY going. -/
def hostPf (s : State) (a : Nat) (v : Word) : Host.Outcome State Fault Refusal :=
  if rQueue 0 0 ≤ a && a < rQueue 4096 0 && (a - rQueue 0 0) % 0x80 = 8 then writePf s a v
  else
    let ps := regParts s a
    if ps.any fun p => replays s p.val then done s
    else thenDo (writePf (ps.foldl (fun s p => jayLog s p.val 1 8 (word (Config.hubBase + a)) [v]) s) a v) fun t =>
      done (if rJay 0 0 ≤ a && a < rJay 16 0 then replaySoon t (fin16 ((a - rJay 0 0) / 0x40)) else t)

/-- A write of a virtual function: the TAIL of its own queues, else discarded (R275). -/
def writeVf (s : State) (f : Fin 16) (a : Nat) (v : Word) : Host.Outcome State Fault Refusal :=
  let f' := fin17 f.val
  if rQueue 0 0 ≤ a && a < rQueue 4096 0 && (a - rQueue 0 0) % 0x80 = 8 then
    execEnqueue (BitVec.ofNat 12 ((a - rQueue 0 0) / 0x80)) (v.setWidth 32) f' s
  else done (discardVf s f' (Config.hubBase + a))

/-- The first byte a store writes, and how many. -/
def storeSpan (x : WordStore) : Nat × Nat :=
  let on := (List.range 8).filter fun i => x.en.getLsbD i
  (on.headD 0, on.length)

/-- A function reaches device memory through its host windows alone (R275). -/
def hostReach (s : State) (f : Fin 17) (pa : Nat) : Bool :=
  s.hub.windows.any fun w => w.1 = f && decide (w.2.1 ≤ pa) && decide (pa < w.2.1 + w.2.2)

/-- A host's write is an input of the partitions its function may run on: the jay logs it, and of a replaying one it alone supplies it (R285,
R286); so a job record reaches its ring (R276). Proah writes no tenant's memory, and the host's inside registered windows only (R287). -/
def execOutsideWrite (by_ : Outside) (x : WordStore) (s : State) : Host.Outcome State Fault Refusal :=
  match by_ with
  | .core => done (outsideStore s x)
  | .host f =>
    let ps := fnParts s f.val
    if ps.any (fun p => replays s p.val) then done s
    else if !hostReach s f x.pa then done (if f.val < 16 then discardVf s f x.pa else s)
    else
      let b := storeSpan x
      done (outsideStore (ps.foldl (fun s p => jayLog s p.val 1 b.2 (word (x.pa + b.1)) [x.data >>> (8 * b.1)]) s) x)
  | .proah =>
    if !proahRuns s then done s
    else if x.pa < Config.hostBase then done (limitDiscard s 7 0 x.pa)
    else if home s x.pa = .host then done (outsideStore s x)
    else done (limitDiscard s 23 16 x.pa)

/-- R41, R287: Proah lays entries 128-131 of the slot tables, and no other. DESIGN CHOICE (log 67): how and when such an entry takes force is not
stated; it goes out as a configuration change of Badger's does, with a commit wheel of its own. -/
def execProahSlot (a : AgentId) (t : BitVec 2) (port slot : Nat) (v : BitVec 16) (s : State) : Host.Outcome State Fault Refusal :=
  if !proahRuns s then done s
  else if 128 ≤ slot && slot ≤ 131 then done (stageRecords s (layRecords [⟨0, a, t, port, slot, v⟩]) 0).1
  else done (limitDiscard s 15 8 0)

/-- A write of Proah under the limit unit (R287, R545, R546). -/
def writeProah (s : State) (a : Nat) (v : Word) : Host.Outcome State Fault Refusal :=
  if !proahRuns s then done s
  else if a = rSyscfg then done (limitDiscard s 39 32 (Config.hubBase + a))
  else if a = rLstage then execLstageWrite (v.setWidth 32) s
  else if a = rPwrcap then done (if 2600 < fld v 11 0 then limitDiscard s 47 40 (Config.hubBase + a) else s)
  else if a = rPwdog then
    thenDo (if v.getLsbD 63 then execPwdogKick s else done s) fun t =>
      if !v.getLsbD 63 || fld v 15 0 != 0 then done (limitDiscard t 39 32 (Config.hubBase + a)) else done t
  else if rPart 0 0 ≤ a && a < rPart 16 0 then
    (if a % 0x100 < 0x80 then done (limitDiscard s 31 24 (Config.hubBase + a))
     else if s.hub.armed.isSome then done (limitDiscard s 39 32 (Config.hubBase + a))
     else done (hubPut s a ((hubGet s a &&& ~~~(hubProahRw a)) ||| (v &&& hubProahRw a))))
  else done s

/-- R8, R275, R287. -/
def execRegisterWrite (addr : Nat) (v : Word) (by_ : Writer) (s : State) : Host.Outcome State Fault Refusal :=
  match by_ with
  | .pf => hostPf s addr v
  | .vf f => writeVf s f addr v
  | .proah => writeProah s addr v

end Sys2Proof.Machine
end

