-- ==== Sys2Proof/Machine/ScalarInt.lean ====
section
/-! DEFINITION. Scalar integer instructions (R319-R326, R339): arithmetic, logic, shifts, divisions, immediates, constants and
the tag moves. -/

namespace Sys2Proof.Machine

/-! ## The functions of R320-R322 -/

/-- sh: the low six bits of S2 (R320). -/
def shCount (y : Word) : Nat := y.toNat % 64

/-- Bits [127:64] of an exact product. -/
def mulHigh (x y : Int) : Word := BitVec.ofInt 64 (x * y / 2 ^ 64)

/-- 1 or 0. -/
def truth (b : Bool) : Word := if b then 1 else 0

/-- Leading zero bits from bit n - 1 down. -/
def leadZeros (x : Word) : Nat → Nat
  | 0 => 0
  | n + 1 => if x.getLsbD n then 0 else leadZeros x n + 1

/-- Trailing zero bits from bit 64 - n up. -/
def trailZeros (x : Word) : Nat → Nat
  | 0 => 0
  | n + 1 => if x.getLsbD (63 - n) then 0 else trailZeros x n + 1

/-- One bits among the low n. -/
def ones (x : Word) : Nat → Nat
  | 0 => 0
  | n + 1 => ones x n + (x.getLsbD n).toNat

/-- Bit i to bit 63 - i, for the low n bits. -/
def bitRev (x : Word) : Nat → Word
  | 0 => 0
  | n + 1 => bitRev x n ||| flag (x.getLsbD n) (63 - n)

/-- Byte i to byte 7 - i. -/
def byteSwap (x : Word) : Word :=
  wordByte x 0 ++ wordByte x 1 ++ wordByte x 2 ++ wordByte x 3 ++ wordByte x 4 ++ wordByte x 5 ++ wordByte x 6 ++ wordByte x 7

/-- R322, with its cases for a zero divisor and the signed overflow. -/
def divS (x y : Word) : Word := if y = 0 then BitVec.allOnes 64 else BitVec.ofInt 64 (x.toInt.tdiv y.toInt)
def remS (x y : Word) : Word := if y = 0 then x else BitVec.ofInt 64 (x.toInt.tmod y.toInt)
def divU (x y : Word) : Word := if y = 0 then BitVec.allOnes 64 else word (x.toNat / y.toNat)
def remU (x y : Word) : Word := if y = 0 then x else word (x.toNat % y.toNat)

/-- A division: D and lat are empty until the fill 18 cycles on (R322). -/
def divide (s : State) (d a b : Opd) (ta tb : Bool) (f : Word → Word → Word) : Res State := do
  checkCodes [(0, d), (1, a), (2, b)]
  let x ← read2 s a b ta tb
  let n := x.2.2.newTicket
  let t ← writePending n.2 d n.1
  .ok ((retire t).at (s.now + 18) (.intDivideFill s.cur n.1 (f x.1.val x.2.1.val)))

/-- Sign extension of the immediates (R320, R324). -/
def immB (i : BitVec 11) : Word := i.signExtend 64
def immL (i : BitVec 18) : Word := i.signExtend 64

/-! ## Meanings, in the order of R321 -/

/-- R321. -/
def execAdd (d a b : Opd) (ta tb : Bool) (s : State) := finish s (int2 s d a b ta tb fun x y => x + y)
/-- R321. -/
def execSub (d a b : Opd) (ta tb : Bool) (s : State) := finish s (int2 s d a b ta tb fun x y => x - y)
/-- R321. -/
def execAnd (d a b : Opd) (ta tb : Bool) (s : State) := finish s (int2 s d a b ta tb fun x y => x &&& y)
/-- R321. -/
def execOr (d a b : Opd) (ta tb : Bool) (s : State) := finish s (int2 s d a b ta tb fun x y => x ||| y)
/-- R321. -/
def execXor (d a b : Opd) (ta tb : Bool) (s : State) := finish s (int2 s d a b ta tb fun x y => x ^^^ y)
/-- R321. -/
def execSll (d a b : Opd) (ta tb : Bool) (s : State) := finish s (int2 s d a b ta tb fun x y => x <<< shCount y)
/-- R321. -/
def execSrl (d a b : Opd) (ta tb : Bool) (s : State) := finish s (int2 s d a b ta tb fun x y => x >>> shCount y)
/-- R321. -/
def execSra (d a b : Opd) (ta tb : Bool) (s : State) :=
  finish s (int2 s d a b ta tb fun x y => x.sshiftRight (shCount y))
/-- R321. -/
def execMul (d a b : Opd) (ta tb : Bool) (s : State) := finish s (int2 s d a b ta tb fun x y => x * y)
/-- R321. -/
def execMulh (d a b : Opd) (ta tb : Bool) (s : State) := finish s (int2 s d a b ta tb fun x y => mulHigh x.toInt y.toInt)
/-- R321. -/
def execMulhn (d a b : Opd) (ta tb : Bool) (s : State) := finish s (int2 s d a b ta tb fun x y => mulHigh x.toNat y.toNat)
/-- R321. -/
def execMulhsn (d a b : Opd) (ta tb : Bool) (s : State) := finish s (int2 s d a b ta tb fun x y => mulHigh x.toInt y.toNat)
/-- R322. -/
def execDiv (d a b : Opd) (ta tb : Bool) (s : State) := finish s (divide s d a b ta tb divS)
/-- R322. -/
def execDivn (d a b : Opd) (ta tb : Bool) (s : State) := finish s (divide s d a b ta tb divU)
/-- R322. -/
def execRem (d a b : Opd) (ta tb : Bool) (s : State) := finish s (divide s d a b ta tb remS)
/-- R322. -/
def execRemn (d a b : Opd) (ta tb : Bool) (s : State) := finish s (divide s d a b ta tb remU)
/-- R321. -/
def execMin (d a b : Opd) (ta tb : Bool) (s : State) :=
  finish s (int2 s d a b ta tb fun x y => if x.toInt ≤ y.toInt then x else y)
/-- R321. -/
def execMax (d a b : Opd) (ta tb : Bool) (s : State) :=
  finish s (int2 s d a b ta tb fun x y => if x.toInt ≤ y.toInt then y else x)
/-- R321. -/
def execMinn (d a b : Opd) (ta tb : Bool) (s : State) :=
  finish s (int2 s d a b ta tb fun x y => if x.toNat ≤ y.toNat then x else y)
/-- R321. -/
def execMaxn (d a b : Opd) (ta tb : Bool) (s : State) :=
  finish s (int2 s d a b ta tb fun x y => if x.toNat ≤ y.toNat then y else x)
/-- R321. -/
def execSlt (d a b : Opd) (ta tb : Bool) (s : State) :=
  finish s (int2 s d a b ta tb fun x y => truth (decide (x.toInt < y.toInt)))
/-- R321. -/
def execSltn (d a b : Opd) (ta tb : Bool) (s : State) :=
  finish s (int2 s d a b ta tb fun x y => truth (decide (x.toNat < y.toNat)))
/-- R321. -/
def execSeq (d a b : Opd) (ta tb : Bool) (s : State) := finish s (int2 s d a b ta tb fun x y => truth (x == y))
/-- R321. -/
def execSne (d a b : Opd) (ta tb : Bool) (s : State) := finish s (int2 s d a b ta tb fun x y => truth (x != y))
/-- R321. -/
def execClz (d a : Opd) (ta : Bool) (s : State) := finish s (int1 s d a ta fun x => word (leadZeros x 64))
/-- R321. -/
def execCtz (d a : Opd) (ta : Bool) (s : State) := finish s (int1 s d a ta fun x => word (trailZeros x 64))
/-- R321. -/
def execPopc (d a : Opd) (ta : Bool) (s : State) := finish s (int1 s d a ta fun x => word (ones x 64))
/-- R321. -/
def execBrev (d a : Opd) (ta : Bool) (s : State) := finish s (int1 s d a ta fun x => bitRev x 64)
/-- R321. -/
def execBswap (d a : Opd) (ta : Bool) (s : State) := finish s (int1 s d a ta byteSwap)

/-- R326: the latch as it stood, then S1 and S2; D takes the delivered operand whole. -/
def selOp (s : State) (d a b : Opd) (ta tb : Bool) : Res State := do
  checkCodes [(0, d), (1, a), (2, b)]
  let l ← readSrc s 48 false
  let x ← read2 l.2 a b ta tb
  let r := if l.1.val = 0 then x.2.1 else x.1
  let t ← writeDest x.2.2 d (Reg.of r.val r.tag)
  .ok (retire t)
def execSel (d a b : Opd) (ta tb : Bool) (s : State) := finish s (selOp s d a b ta tb)

/-- R325. -/
def execLea (d a b : Opd) (ta tb : Bool) (sh : BitVec 4) (s : State) :=
  finish s (int2 s d a b ta tb fun x y => x + y <<< sh.toNat)
/-- R321. -/
def execRol (d a b : Opd) (ta tb : Bool) (s : State) := finish s (int2 s d a b ta tb fun x y => x.rotateLeft (shCount y))
/-- R321. -/
def execRor (d a b : Opd) (ta tb : Bool) (s : State) := finish s (int2 s d a b ta tb fun x y => x.rotateRight (shCount y))

/-! ## Immediates (R323, R324) -/

/-- R323. -/
def execAddi (d a : Opd) (ta : Bool) (imm : BitVec 11) (s : State) := finish s (int1 s d a ta fun x => x + immB imm)
/-- R323. -/
def execAndi (d a : Opd) (ta : Bool) (imm : BitVec 11) (s : State) := finish s (int1 s d a ta fun x => x &&& immB imm)
/-- R323. -/
def execOri (d a : Opd) (ta : Bool) (imm : BitVec 11) (s : State) := finish s (int1 s d a ta fun x => x ||| immB imm)
/-- R323. -/
def execXori (d a : Opd) (ta : Bool) (imm : BitVec 11) (s : State) := finish s (int1 s d a ta fun x => x ^^^ immB imm)
/-- R323. -/
def execSlli (d a : Opd) (ta : Bool) (sh : BitVec 6) (s : State) := finish s (int1 s d a ta fun x => x <<< sh.toNat)
/-- R323. -/
def execSrli (d a : Opd) (ta : Bool) (sh : BitVec 6) (s : State) := finish s (int1 s d a ta fun x => x >>> sh.toNat)
/-- R323. -/
def execSrai (d a : Opd) (ta : Bool) (sh : BitVec 6) (s : State) := finish s (int1 s d a ta fun x => x.sshiftRight sh.toNat)
/-- R323. -/
def execSlti (d a : Opd) (ta : Bool) (imm : BitVec 11) (s : State) :=
  finish s (int1 s d a ta fun x => truth (decide (x.toInt < imm.toInt)))
/-- R323. -/
def execSltni (d a : Opd) (ta : Bool) (imm : BitVec 11) (s : State) :=
  finish s (int1 s d a ta fun x => truth (decide (x.toNat < (immB imm).toNat)))
/-- R323. -/
def execMuli (d a : Opd) (ta : Bool) (imm : BitVec 11) (s : State) := finish s (int1 s d a ta fun x => x * immB imm)
/-- R324. -/
def execLdi (d : Opd) (imm : BitVec 18) (s : State) := finish s (int0 s d (immL imm))
/-- R324: D is read, blocking, then written. -/
def execLdk (d : Opd) (imm : BitVec 18) (s : State) :=
  finish s (int1 s d d false fun x => x <<< 18 ||| imm.zeroExtend 64)
/-- R324: PC is the address of the addpc. -/
def execAddpc (d : Opd) (imm : BitVec 18) (s : State) :=
  finish s (int0 s d (s.st.pc.zeroExtend 64 + immL imm <<< 2))

/-! ## Tags (R339) -/

def execSigget (d a : Opd) (ta : Bool) (s : State) := finish s (do
  checkCodes [(0, d), (1, a)]
  let x ← readSrc s a ta
  let t ← writeDest x.2 d (Reg.of (word x.1.tag.val) Tag.full)
  .ok (retire t))

def execSigset (d a b : Opd) (ta tb : Bool) (s : State) := finish s (do
  checkCodes [(0, d), (1, a), (2, b)]
  let x ← read2 s a b ta tb
  let t ← writeDest x.2.2 d (Reg.of x.1.val (Tag.ofNat x.2.1.val.toNat))
  .ok (retire t))

/-- R322: the divide unit fills D and lat. -/
def execIntDivideFill (k : Fin 16) (ticket : Nat) (v : Word) (s : State) : Host.Outcome State Fault Refusal :=
  done (fillReg s k ticket v Tag.full)

end Sys2Proof.Machine
end

