-- ==== Sys2Proof/Machine/Acts.lean ====
section
/-! DEFINITION. What each act of the agenda runs: the meaning of the row of the same name. -/

namespace Sys2Proof.Machine

/-- A command at the head of its engine, by its code (R303). -/
def runTile (c : EngCmd) (s : State) : Host.Outcome State Fault Refusal :=
  match cmdCode c with
  | 0x01 => execTld c s
  | 0x02 => execTst c s
  | 0x03 => execTzero c s
  | 0x04 => execTmma c s
  | 0x05 => execTscal c s
  | 0x06 => execTcvt c s
  | 0x07 => execTtrn c s
  | 0x08 => execTadd c s
  | 0x09 => execTsig c s
  | 0x10 => execGacc c s
  | 0x11 => execGsub c s
  | 0x12 => execGschur c s
  | 0x13 => execGdamp c s
  | 0x14 => execGmean c s
  | _ => tileIllegal s c

/-- The copy engine's commands (R303). -/
def runCopy (c : EngCmd) (s : State) : Host.Outcome State Fault Refusal :=
  match cmdCode c with
  | 0x01 => execCpy c s
  | 0x02 => execCpys c s
  | 0x03 => execCpyz c s
  | 0x04 => execCred c s
  | 0x05 => execScrub c s
  | _ => copyIllegal s c

/-- A command, at the engine its completion entry names, once the releases before it have ended (R212). -/
def runCommand (c : EngCmd) (s : State) : Host.Outcome State Fault Refusal :=
  if earlierRelease s c.strand c.seq then done (retry s (.command c))
  else match (s.core.table[c.handle]).owner with
  | .tile => runTile c s
  | .copy => runCopy c s
  | .mem => if cmdCode c = 1 then execScan c s else memIllegal s c
  | .xchg => if cmdCode c = 1 then execXrun c s else xchgIllegal s c
  | _ => done s

/-- A circuit request as Badger searches it, by its CMD (R55). -/
def runCircuit (r : CircReq) (s : State) : Host.Outcome State Fault Refusal :=
  match fld r.w0 7 0 with
  | 1 => execCircOpen r s
  | 2 => execCircWiden r s
  | 3 => execCircNarrow r s
  | _ => execCircRelease r s

/-- An act of the machine's own; an event is run by step. -/
def runAct (a : Act) (s : State) : Host.Outcome State Fault Refusal :=
  match a with
  | .event _ => done s
  | .command c => runCommand c s
  | .circuit r => runCircuit r s
  | .completion h st => execCompletion h st s
  | .intDivideFill k t v => execIntDivideFill k t v s
  | .fpDivideFill k t r => execFpDivideFill k t r s
  | .remoteReplyArrive t => execRemoteReplyArrive t s
  | .cacheLineFill l => execCacheLineFill l s
  | .storeLeave k => execStoreLeave k s
  | .dbbEntryAck b => execDbbEntryAck b s
  | .acquireComplete k => execAcquireComplete k s
  | .releaseComplete k => execReleaseComplete k s
  | .tlbWalkStart v k => execTlbWalkStart v k s
  | .walkComplete v => execWalkComplete v s
  | .tlbinvWrite k v => execTlbinvWrite k v s
  | .tlbinvDone k => execTlbinvDone k s
  | .windowSpill k => execWindowSpill k s
  | .windowFill k => execWindowFill k s
  | .barwtDeadline k => execBarwtDeadline k s
  | .barwtLate k => execBarwtLate k s
  | .portQuiet p => execPortLockLoss p s
  | .jayReplay p => execJayReplayInput p s
  | .channelGap e n => done (channelGap s e n)
  | .tlbinvOther m v => execTlbinvOther m v s
  | .capacityAck r => done (capacityCheck s r)
  | .fenceCounterNotify f i => execFenceCounterNotify f i s
  | .launchEnqueue h q j => execLaunchEnqueue h q j s
  | .postArrive p => execPostArrive p s
  | .roundClose r => execRoundClose r s
  | .owlCalendar r rows => execOwlCalendar r rows s
  | .calendarArrive c => execCalendarArrive c s
  | .calendarTimeout r => execCalendarTimeout r s
  | .exchangePhaseStart r p => execExchangePhaseStart r p s
  | .secondRoundPost r => execSecondRoundPost r s
  | .capacityPostTimeout r => execCapacityPostTimeout r s
  | .badgerRequestArrive r => execBadgerRequestArrive r s
  | .sendBufferEmpty ep r => execSendBufferEmpty ep r s
  | .mailboxQueueDeposit ep => execMailboxQueueDeposit ep s
  | .mailboxLatestDeposit ep => execMailboxLatestDeposit ep s
  | .mboxArmEffect ep => execMboxArmEffect ep s
  | .activeMessageClaim ep => execActiveMessageClaim ep s
  | .messageStart ep => execMessageStart ep s
  | .windowReturnSend ep => execWindowReturnSend ep s
  | .windowReturnArrive ep r c => execWindowReturnArrive ep r c s
  | .gapCheck ep got => done (gapCheck s ep got)
  | .loopRegWrite r v => execLoopRegWrite r v s
  | .loopUnitService => execLoopUnitService s
  | .chunkFill k t v => done (chunkFill s k t v)
  | .dctlResume k => execDctlResume k s
  | .dctlHalt k => execDctlHalt k s
  | .dctlKill k => execDctlKill k s
  | .killedGangEnd => execKilledGangEnd s
  | .cellEnd => execCellEnd s
  | .tileFrontEndAccept => execTileFrontEndAccept s
  | .copyEngineBeat => execCopyEngineBeat s
  | .atomicEngineServe => execAtomicEngineServe s
  | .faultPacketDeposit => execFaultPacketDeposit s
  | .credLook => execCredLook s
  | .credFlush c r => execCredFlush c r s
  | .stagedCommit a => execStagedCommit a s
  | .configFlit a d => configFlit a d s
  | .configUp n d => configUp n d s
  | .circuitBreak src r => execCircuitBreak src r s
  | .linkTrained l d => execLinkTrained l d s
  | .linkTrainTimeout l => execLinkTrainTimeout l s
  | .linkRetry l => execLinkRetry l s
  | .switchSlot a => execSwitchSlot a s
  | .flitReceive f v => done (receive s f v)
  | .s2invDone f => execS2invDone f s
  | .budgetCommit p => execBudgetCommit p s
  | .hbmServiceUnit p => execHbmServiceUnit p s
  | .refreshTick p => execRefreshTick p s
  | .selfRefreshEntry p => execSelfRefreshEntry p s
  | .laneRepair c l => execLaneRepair c l s
  | .refreshEnd p b => execRefreshEnd p b s
  | .scrubWriteback p g => execScrubWriteback p g s
  | .selfRefreshExit p => execSelfRefreshExit p s
  | .laneTrainingEnd c => execLaneTrainingEnd c s
  | .laneWindow c => execLaneErrorWindow c s
  | .heldWriteCopy g => execHeldWriteCopy g s
  | .ckptPoolWriteDone f => execCkptPoolWriteDone f s
  | .rollbackStep f => execRollbackStep f s
  | .checkpointTake f => execCheckpointTake f s
  | .saveAreaWriteback p b => execSaveAreaWriteback p b s
  | .swapStop p => execSwapStop p s
  | .swapResume p => execSwapResume p s
  | .gangStart g => execGangStart g s
  | .flrDrainEnd f => execFlrDrainEnd f s
  | .layoutFlip => execLayoutFlip s
  | .dispatchGang p d => execDispatchGang p d s
  | .gangPinned p => execGangPinned p s
  | .sliceEnd p => execSliceEnd p s
  | .forcedSwap p => execForcedSwap p s
  | .othersEnd q i g => done (othersEnd s q i g)
  | .jobRelease q i b w => execJobRelease q i b w s
  | .pseudoChannelTrainingEnd p => execPseudoChannelTrainingEnd p s
  | .hbmRequest c g a w => execHbmRequest c g a w s
  | .pwdogExpiry => execPwdogExpiry s
  | .gatewaySend g => execGatewaySend g s
  | .scratchpadBankAccess b => execScratchpadBankAccess b s
  | .dieSramBankAccess b => execDieSramBankAccess b s
  | .remoteRequestArrive q => execRemoteRequestArrive q s
  | .gangStall => execGangStall s
  | .bankRequest g pa => execBankRequest g pa s
  | .sramRequest g pa => execSramRequest g pa s
  | .atomicRequest g a => execAtomicRequest g a s
  | .outsideWrite b x => execOutsideWrite b x s
  | .proahSlot a t port slot v => execProahSlot a t port slot v s
  | .hostWindow f b n on => execHostWindow f b n on s
  | .memoryError pa l f => execMemoryError pa l f s
  | .cacheError pa f => execCacheError pa f s
  | .denError p g pa f => execDenError p g pa f s
  | .accError t i j => execAccError t i j s
  | .entryError a t p k f => execEntryError a t p k f s
  | .flitError n bs => execFlitError n bs s
  | .packetArrive p => done (sendPacket s p)
  | .loopRequest q => execLoopRequest q s
  | .lateArrive c r f => done (lateAt s c r f)
  | .owlFails => execOwlFails s
  | .owlTakeover => execOwlTakeover s
  | .planesSet ps => done (setPerms s ps)

/-- Events at the core that end a gang's quiescence: a flit or a reply arrives, a register or word fills, a barrier may complete (R507). -/
def stirsCore : Instr → Bool
  | .flitReceive _ | .windowReturnArrive .. | .remoteRequestArrive _ | .remoteReplyArrive _ | .gangBarrierArrive .. | .intDivideFill ..
  | .fpDivideFill .. | .loopRegWrite .. | .credPacketArrive _ | .dctlResume _ | .gangStart _ | .swapResume _ | .windowFill _ | .acquireComplete _ => true
  | _ => false

/-- Acts that end a gang's quiescence (R507): a fill, deposit, claim, barrier completion or flit at the core. -/
def Act.stirs : Act → Bool
  | .event i => stirsCore i
  | .completion _ _ | .intDivideFill _ _ _ | .fpDivideFill _ _ _ | .windowReturnArrive _ _ _ | .chunkFill _ _ _ | .barwtDeadline _
  | .flitReceive _ _ | .remoteRequestArrive _ | .dctlResume _ | .gangStart _ | .swapResume _ => true
  | _ => false

/-- What an act has moved at the core, for one that may find nothing to do: a message, a deposit, a claim, an access performed. -/
def stirred (s t : State) : Bool :=
  t.core.recv != s.core.recv || t.core.send != s.core.send || t.core.reqs.length != s.core.reqs.length

/-- The order of the acts of one cycle, which the agenda otherwise keeps as listed: first the end of a cell, before a claim can find it (R74),
the commit of a layout's budgets (R54), arrivals at banks and controllers, window returns, which carry the counts of earlier cycles (R44), and fills, before a write of the debug window (R79, R473); then a
refresh tick, which sees the requests of its cycle (R224); then the rest; then what serves the requests of the cycle; and last a deadline, after
the arrivals of its cycle (R344). -/
def Act.turn : Act → Nat
  | .barwtLate _ | .windowReturnSend _ => 0
  | .cellEnd | .budgetCommit _ | .hbmRequest _ _ _ _ | .bankRequest _ _ | .sramRequest _ _ | .atomicRequest _ _ | .intDivideFill _ _ _
  | .fpDivideFill _ _ _ | .chunkFill _ _ _ | .completion _ _ | .remoteReplyArrive _ | .cacheLineFill _ | .acquireComplete _ | .windowFill _ => 0
  | .refreshTick _ => 1
  | .hbmServiceUnit _ | .scratchpadBankAccess _ | .dieSramBankAccess _ | .atomicEngineServe => 3
  | .barwtDeadline _ => 4
  | _ => 2

end Sys2Proof.Machine
end

