-- ==== Sys2Proof/Machine/Dispatch.lean ====
section
/-! DEFINITION. One arm per constructor of Instr. -/

namespace Sys2Proof.Machine

def exec (i : Instr) (s : State) : Host.Outcome State Fault Refusal :=
  match i with
  | .add d a b ta tb => Sys2Proof.Machine.execAdd d a b ta tb s
  | .sub d a b ta tb => Sys2Proof.Machine.execSub d a b ta tb s
  | .and d a b ta tb => Sys2Proof.Machine.execAnd d a b ta tb s
  | .or d a b ta tb => Sys2Proof.Machine.execOr d a b ta tb s
  | .xor d a b ta tb => Sys2Proof.Machine.execXor d a b ta tb s
  | .sll d a b ta tb => Sys2Proof.Machine.execSll d a b ta tb s
  | .srl d a b ta tb => Sys2Proof.Machine.execSrl d a b ta tb s
  | .sra d a b ta tb => Sys2Proof.Machine.execSra d a b ta tb s
  | .mul d a b ta tb => Sys2Proof.Machine.execMul d a b ta tb s
  | .mulh d a b ta tb => Sys2Proof.Machine.execMulh d a b ta tb s
  | .mulhn d a b ta tb => Sys2Proof.Machine.execMulhn d a b ta tb s
  | .mulhsn d a b ta tb => Sys2Proof.Machine.execMulhsn d a b ta tb s
  | .div d a b ta tb => Sys2Proof.Machine.execDiv d a b ta tb s
  | .divn d a b ta tb => Sys2Proof.Machine.execDivn d a b ta tb s
  | .rem d a b ta tb => Sys2Proof.Machine.execRem d a b ta tb s
  | .remn d a b ta tb => Sys2Proof.Machine.execRemn d a b ta tb s
  | .min d a b ta tb => Sys2Proof.Machine.execMin d a b ta tb s
  | .max d a b ta tb => Sys2Proof.Machine.execMax d a b ta tb s
  | .minn d a b ta tb => Sys2Proof.Machine.execMinn d a b ta tb s
  | .maxn d a b ta tb => Sys2Proof.Machine.execMaxn d a b ta tb s
  | .slt d a b ta tb => Sys2Proof.Machine.execSlt d a b ta tb s
  | .sltn d a b ta tb => Sys2Proof.Machine.execSltn d a b ta tb s
  | .seq d a b ta tb => Sys2Proof.Machine.execSeq d a b ta tb s
  | .sne d a b ta tb => Sys2Proof.Machine.execSne d a b ta tb s
  | .clz d a ta => Sys2Proof.Machine.execClz d a ta s
  | .ctz d a ta => Sys2Proof.Machine.execCtz d a ta s
  | .popc d a ta => Sys2Proof.Machine.execPopc d a ta s
  | .brev d a ta => Sys2Proof.Machine.execBrev d a ta s
  | .bswap d a ta => Sys2Proof.Machine.execBswap d a ta s
  | .sel d a b ta tb => Sys2Proof.Machine.execSel d a b ta tb s
  | .lea d a b ta tb sh => Sys2Proof.Machine.execLea d a b ta tb sh s
  | .rol d a b ta tb => Sys2Proof.Machine.execRol d a b ta tb s
  | .ror d a b ta tb => Sys2Proof.Machine.execRor d a b ta tb s
  | .addi d a ta imm => Sys2Proof.Machine.execAddi d a ta imm s
  | .andi d a ta imm => Sys2Proof.Machine.execAndi d a ta imm s
  | .ori d a ta imm => Sys2Proof.Machine.execOri d a ta imm s
  | .xori d a ta imm => Sys2Proof.Machine.execXori d a ta imm s
  | .slli d a ta sh => Sys2Proof.Machine.execSlli d a ta sh s
  | .srli d a ta sh => Sys2Proof.Machine.execSrli d a ta sh s
  | .srai d a ta sh => Sys2Proof.Machine.execSrai d a ta sh s
  | .slti d a ta imm => Sys2Proof.Machine.execSlti d a ta imm s
  | .sltni d a ta imm => Sys2Proof.Machine.execSltni d a ta imm s
  | .muli d a ta imm => Sys2Proof.Machine.execMuli d a ta imm s
  | .ldi d imm => Sys2Proof.Machine.execLdi d imm s
  | .ldk d imm => Sys2Proof.Machine.execLdk d imm s
  | .addpc d imm => Sys2Proof.Machine.execAddpc d imm s
  | .beq a b off => Sys2Proof.Machine.execBeq a b off s
  | .bne a b off => Sys2Proof.Machine.execBne a b off s
  | .blt a b off => Sys2Proof.Machine.execBlt a b off s
  | .bge a b off => Sys2Proof.Machine.execBge a b off s
  | .blo a b off => Sys2Proof.Machine.execBlo a b off s
  | .bhs a b off => Sys2Proof.Machine.execBhs a b off s
  | .bsig a thr off => Sys2Proof.Machine.execBsig a thr off s
  | .bemp a off => Sys2Proof.Machine.execBemp a off s
  | .jmp off => Sys2Proof.Machine.execJmp off s
  | .call off => Sys2Proof.Machine.execCall off s
  | .jmpr a ta => Sys2Proof.Machine.execJmpr a ta s
  | .callr a ta => Sys2Proof.Machine.execCallr a ta s
  | .ret => Sys2Proof.Machine.execRet s
  | .tret => Sys2Proof.Machine.execTret s
  | .srr d reg => Sys2Proof.Machine.execSrr d reg s
  | .srw d reg => Sys2Proof.Machine.execSrw d reg s
  | .srxSwap d reg => Sys2Proof.Machine.execSrxSwap d reg s
  | .srxSet d reg => Sys2Proof.Machine.execSrxSet d reg s
  | .srxClr d reg => Sys2Proof.Machine.execSrxClr d reg s
  | .sys imm => Sys2Proof.Machine.execSys imm s
  | .brk imm => Sys2Proof.Machine.execBrk imm s
  | .yield => Sys2Proof.Machine.execYield s
  | .idle => Sys2Proof.Machine.execIdle s
  | .halt => Sys2Proof.Machine.execHalt s
  | .sigget d a ta => Sys2Proof.Machine.execSigget d a ta s
  | .sigset d a b ta tb => Sys2Proof.Machine.execSigset d a b ta tb s
  | .fenceAcq sc => Sys2Proof.Machine.execFenceAcq sc s
  | .fenceRel sc => Sys2Proof.Machine.execFenceRel sc s
  | .fenceFull sc => Sys2Proof.Machine.execFenceFull sc s
  | .barw a b ta tb => Sys2Proof.Machine.execBarw a b ta tb s
  | .bara a b ta tb => Sys2Proof.Machine.execBara a b ta tb s
  | .barwt d a b ta tb => Sys2Proof.Machine.execBarwt d a b ta tb s
  | .getchunk d a ta => Sys2Proof.Machine.execGetchunk d a ta s
  | .chunkset d a b ta tb => Sys2Proof.Machine.execChunkset d a b ta tb s
  | .movp d a => Sys2Proof.Machine.execMovp d a s
  | .cancelh a => Sys2Proof.Machine.execCancelh a s
  | .ld8 d a ta imm => Sys2Proof.Machine.execLd8 d a ta imm s
  | .ld8n d a ta imm => Sys2Proof.Machine.execLd8n d a ta imm s
  | .ld16 d a ta imm => Sys2Proof.Machine.execLd16 d a ta imm s
  | .ld16n d a ta imm => Sys2Proof.Machine.execLd16n d a ta imm s
  | .ld32 d a ta imm => Sys2Proof.Machine.execLd32 d a ta imm s
  | .ld32n d a ta imm => Sys2Proof.Machine.execLd32n d a ta imm s
  | .ld64 d a ta imm => Sys2Proof.Machine.execLd64 d a ta imm s
  | .ldt d a ta imm => Sys2Proof.Machine.execLdt d a ta imm s
  | .st8 d a ta imm => Sys2Proof.Machine.execSt8 d a ta imm s
  | .st16 d a ta imm => Sys2Proof.Machine.execSt16 d a ta imm s
  | .st32 d a ta imm => Sys2Proof.Machine.execSt32 d a ta imm s
  | .st64 d a ta imm => Sys2Proof.Machine.execSt64 d a ta imm s
  | .stt d a ta imm => Sys2Proof.Machine.execStt d a ta imm s
  | .ldf d a ta imm => Sys2Proof.Machine.execLdf d a ta imm s
  | .ldw d a ta imm => Sys2Proof.Machine.execLdw d a ta imm s
  | .stf d a ta imm => Sys2Proof.Machine.execStf d a ta imm s
  | .stff d a ta imm => Sys2Proof.Machine.execStff d a ta imm s
  | .clre a ta imm => Sys2Proof.Machine.execClre a ta imm s
  | .ldaq d a ta wide sc => Sys2Proof.Machine.execLdaq d a ta wide sc s
  | .strl d a ta wide sc => Sys2Proof.Machine.execStrl d a ta wide sc s
  | .amoAdd d a b ta tb => Sys2Proof.Machine.execAmoAdd d a b ta tb s
  | .amoAnd d a b ta tb => Sys2Proof.Machine.execAmoAnd d a b ta tb s
  | .amoOr d a b ta tb => Sys2Proof.Machine.execAmoOr d a b ta tb s
  | .amoXor d a b ta tb => Sys2Proof.Machine.execAmoXor d a b ta tb s
  | .amoMin d a b ta tb => Sys2Proof.Machine.execAmoMin d a b ta tb s
  | .amoMax d a b ta tb => Sys2Proof.Machine.execAmoMax d a b ta tb s
  | .amoMinn d a b ta tb => Sys2Proof.Machine.execAmoMinn d a b ta tb s
  | .amoMaxn d a b ta tb => Sys2Proof.Machine.execAmoMaxn d a b ta tb s
  | .amoSwap d a b ta tb => Sys2Proof.Machine.execAmoSwap d a b ta tb s
  | .amoFadd32 d a b ta tb => Sys2Proof.Machine.execAmoFadd32 d a b ta tb s
  | .amoFadd64 d a b ta tb => Sys2Proof.Machine.execAmoFadd64 d a b ta tb s
  | .cas d a b ta tb narrow => Sys2Proof.Machine.execCas d a b ta tb narrow s
  | .cinv a => Sys2Proof.Machine.execCinv a s
  | .cwb a => Sys2Proof.Machine.execCwb a s
  | .cwbi a => Sys2Proof.Machine.execCwbi a s
  | .pref a => Sys2Proof.Machine.execPref a s
  | .vadd d a b m t => Sys2Proof.Machine.execVadd d a b m t s
  | .vsub d a b m t => Sys2Proof.Machine.execVsub d a b m t s
  | .vmul d a b m t => Sys2Proof.Machine.execVmul d a b m t s
  | .vfma d a b m t => Sys2Proof.Machine.execVfma d a b m t s
  | .vmin d a b m t => Sys2Proof.Machine.execVmin d a b m t s
  | .vmax d a b m t => Sys2Proof.Machine.execVmax d a b m t s
  | .vand d a b m t => Sys2Proof.Machine.execVand d a b m t s
  | .vor d a b m t => Sys2Proof.Machine.execVor d a b m t s
  | .vxor d a b m t => Sys2Proof.Machine.execVxor d a b m t s
  | .vnot d a m t => Sys2Proof.Machine.execVnot d a m t s
  | .vshl d a b m t => Sys2Proof.Machine.execVshl d a b m t s
  | .vshr d a b m t => Sys2Proof.Machine.execVshr d a b m t s
  | .vsra d a b m t => Sys2Proof.Machine.execVsra d a b m t s
  | .vcmp k a b m t c => Sys2Proof.Machine.execVcmp k a b m t c s
  | .vsel d a b m t => Sys2Proof.Machine.execVsel d a b m t s
  | .vdiv d a b m t => Sys2Proof.Machine.execVdiv d a b m t s
  | .vsqrt d a m t => Sys2Proof.Machine.execVsqrt d a m t s
  | .vrsq d a m t => Sys2Proof.Machine.execVrsq d a m t s
  | .vabs d a m t => Sys2Proof.Machine.execVabs d a m t s
  | .vneg d a m t => Sys2Proof.Machine.execVneg d a m t s
  | .vred op a r0 m t => Sys2Proof.Machine.execVred op a r0 m t s
  | .vcvt d a tgt m t => Sys2Proof.Machine.execVcvt d a tgt m t s
  | .vperm d a b m t => Sys2Proof.Machine.execVperm d a b m t s
  | .vbcast d r0 m t => Sys2Proof.Machine.execVbcast d r0 m t s
  | .vld d a b m t => Sys2Proof.Machine.execVld d a b m t s
  | .vst d a b m t => Sys2Proof.Machine.execVst d a b m t s
  | .vldt d a b m t => Sys2Proof.Machine.execVldt d a b m t s
  | .vstt d a b m t => Sys2Proof.Machine.execVstt d a b m t s
  | .vgath d a k m t => Sys2Proof.Machine.execVgath d a k m t s
  | .vscat d a k m t => Sys2Proof.Machine.execVscat d a k m t s
  | .vmovx d v j t => Sys2Proof.Machine.execVmovx d v j t s
  | .vins v a j t => Sys2Proof.Machine.execVins v a j t s
  | .mand d a b => Sys2Proof.Machine.execMand d a b s
  | .mor d a b => Sys2Proof.Machine.execMor d a b s
  | .mxor d a b => Sys2Proof.Machine.execMxor d a b s
  | .mnot d a => Sys2Proof.Machine.execMnot d a s
  | .mpop r0 a t => Sys2Proof.Machine.execMpop r0 a t s
  | .vsigmin r0 a m => Sys2Proof.Machine.execVsigmin r0 a m s
  | .vsigset d a r0 m => Sys2Proof.Machine.execVsigset d a r0 m s
  | .vscla d a b m t => Sys2Proof.Machine.execVscla d a b m t s
  | .vsclab d a b m t => Sys2Proof.Machine.execVsclab d a b m t s
  | .fadd d a b ta tb t => Sys2Proof.Machine.execFadd d a b ta tb t s
  | .fsub d a b ta tb t => Sys2Proof.Machine.execFsub d a b ta tb t s
  | .fmul d a b ta tb t => Sys2Proof.Machine.execFmul d a b ta tb t s
  | .fdiv d a b ta tb t => Sys2Proof.Machine.execFdiv d a b ta tb t s
  | .fsqrt d a ta t => Sys2Proof.Machine.execFsqrt d a ta t s
  | .fma d a b ta tb t => Sys2Proof.Machine.execFma d a b ta tb t s
  | .fms d a b ta tb t => Sys2Proof.Machine.execFms d a b ta tb t s
  | .fnma d a b ta tb t => Sys2Proof.Machine.execFnma d a b ta tb t s
  | .fmin d a b t => Sys2Proof.Machine.execFmin d a b t s
  | .fmax d a b t => Sys2Proof.Machine.execFmax d a b t s
  | .feq d a b t => Sys2Proof.Machine.execFeq d a b t s
  | .flt d a b t => Sys2Proof.Machine.execFlt d a b t s
  | .fle d a b t => Sys2Proof.Machine.execFle d a b t s
  | .funord d a b t => Sys2Proof.Machine.execFunord d a b t s
  | .fcvt d a ta src tgt => Sys2Proof.Machine.execFcvt d a ta src tgt s
  | .fclass d a ta t => Sys2Proof.Machine.execFclass d a ta t s
  | .fcps d a b t => Sys2Proof.Machine.execFcps d a b t s
  | .fneg d a t => Sys2Proof.Machine.execFneg d a t s
  | .fabs d a t => Sys2Proof.Machine.execFabs d a t s
  | .fscl d a b ta tb t => Sys2Proof.Machine.execFscl d a b ta tb t s
  | .frnd d a t => Sys2Proof.Machine.execFrnd d a t s
  | .issueTile d vc a b => Sys2Proof.Machine.execIssueTile d vc a b s
  | .issueCopy d vc a b => Sys2Proof.Machine.execIssueCopy d vc a b s
  | .issueMem d vc a b => Sys2Proof.Machine.execIssueMem d vc a b s
  | .issueXchg d vc a b => Sys2Proof.Machine.execIssueXchg d vc a b s
  | .send a b ta tb n => Sys2Proof.Machine.execSend a b ta tb n s
  | .creq d vc a b => Sys2Proof.Machine.execCreq d vc a b s
  | .crel d a ta => Sys2Proof.Machine.execCrel d a ta s
  | .dpostDem d a ta => Sys2Proof.Machine.execDpostDem d a ta s
  | .dpostCap d a ta => Sys2Proof.Machine.execDpostCap d a ta s
  | .mboxQueue a b ta tb int act => Sys2Proof.Machine.execMboxQueue a b ta tb int act s
  | .mboxLatest a b ta tb int act => Sys2Proof.Machine.execMboxLatest a b ta tb int act s
  | .mboxClose a ta => Sys2Proof.Machine.execMboxClose a ta s
  | .launch d a b ta tb => Sys2Proof.Machine.execLaunch d a b ta tb s
  | .fcinc a b => Sys2Proof.Machine.execFcinc a b s
  | .fcwait a b => Sys2Proof.Machine.execFcwait a b s
  | .fcincn vec a b => Sys2Proof.Machine.execFcincn vec a b s
  | .tld c => Sys2Proof.Machine.execTld c s
  | .tst c => Sys2Proof.Machine.execTst c s
  | .tzero c => Sys2Proof.Machine.execTzero c s
  | .tmma c => Sys2Proof.Machine.execTmma c s
  | .tscal c => Sys2Proof.Machine.execTscal c s
  | .tcvt c => Sys2Proof.Machine.execTcvt c s
  | .ttrn c => Sys2Proof.Machine.execTtrn c s
  | .tadd c => Sys2Proof.Machine.execTadd c s
  | .tsig c => Sys2Proof.Machine.execTsig c s
  | .gacc c => Sys2Proof.Machine.execGacc c s
  | .gsub c => Sys2Proof.Machine.execGsub c s
  | .gschur c => Sys2Proof.Machine.execGschur c s
  | .gdamp c => Sys2Proof.Machine.execGdamp c s
  | .gmean c => Sys2Proof.Machine.execGmean c s
  | .cpy c => Sys2Proof.Machine.execCpy c s
  | .cpys c => Sys2Proof.Machine.execCpys c s
  | .cpyz c => Sys2Proof.Machine.execCpyz c s
  | .cred c => Sys2Proof.Machine.execCred c s
  | .scrub c => Sys2Proof.Machine.execScrub c s
  | .scan c => Sys2Proof.Machine.execScan c s
  | .xrun c => Sys2Proof.Machine.execXrun c s
  | .circOpen r => Sys2Proof.Machine.execCircOpen r s
  | .circWiden r => Sys2Proof.Machine.execCircWiden r s
  | .circNarrow r => Sys2Proof.Machine.execCircNarrow r s
  | .circRelease r => Sys2Proof.Machine.execCircRelease r s
  | .badgerRequestArrive r => Sys2Proof.Machine.execBadgerRequestArrive r s
  | .sendBufferEmpty ep r => Sys2Proof.Machine.execSendBufferEmpty ep r s
  | .completion h st => Sys2Proof.Machine.execCompletion h st s
  | .tileFrontEndAccept => Sys2Proof.Machine.execTileFrontEndAccept s
  | .switchSlot agent => Sys2Proof.Machine.execSwitchSlot agent s
  | .messageStart ep => Sys2Proof.Machine.execMessageStart ep s
  | .flitReceive f => Sys2Proof.Machine.execFlitReceive f s
  | .windowReturnSend ep => Sys2Proof.Machine.execWindowReturnSend ep s
  | .windowReturnArrive ep recv count => Sys2Proof.Machine.execWindowReturnArrive ep recv count s
  | .configStageEntries w recs => Sys2Proof.Machine.execConfigStageEntries w recs s
  | .configReadback agent port => Sys2Proof.Machine.execConfigReadback agent port s
  | .configStageDepth agent port w sdepth => Sys2Proof.Machine.execConfigStageDepth agent port w sdepth s
  | .configReply agent port depth measd => Sys2Proof.Machine.execConfigReply agent port depth measd s
  | .mgmtFlitRelay agent port f => Sys2Proof.Machine.execMgmtFlitRelay agent port f s
  | .stagedCommit agent => Sys2Proof.Machine.execStagedCommit agent s
  | .circuitBreak src reason => Sys2Proof.Machine.execCircuitBreak src reason s
  | .linkRetrainRequest l => Sys2Proof.Machine.execLinkRetrainRequest l s
  | .linkTrained l d => Sys2Proof.Machine.execLinkTrained l d s
  | .linkSignalLoss l => Sys2Proof.Machine.execLinkSignalLoss l s
  | .linkTrainTimeout l => Sys2Proof.Machine.execLinkTrainTimeout l s
  | .linkRetry l => Sys2Proof.Machine.execLinkRetry l s
  | .interpkgFlitArrive port f w => Sys2Proof.Machine.execInterpkgFlitArrive port f w s
  | .timeSyncExchange port sync request => Sys2Proof.Machine.execTimeSyncExchange port sync request s
  | .portLockLoss port => Sys2Proof.Machine.execPortLockLoss port s
  | .planeRelay plane pkg f w => Sys2Proof.Machine.execPlaneRelay plane pkg f w s
  | .planeControlFlit plane pkg perms => Sys2Proof.Machine.execPlaneControlFlit plane pkg perms s
  | .wheelBudgetRestart => Sys2Proof.Machine.execWheelBudgetRestart s
  | .gangStart g => Sys2Proof.Machine.execGangStart g s
  | .cellEnd => Sys2Proof.Machine.execCellEnd s
  | .activeMessageClaim ep => Sys2Proof.Machine.execActiveMessageClaim ep s
  | .loopUnitService => Sys2Proof.Machine.execLoopUnitService s
  | .loopRegWrite reg v => Sys2Proof.Machine.execLoopRegWrite reg v s
  | .intDivideFill k ticket v => Sys2Proof.Machine.execIntDivideFill k ticket v s
  | .fpDivideFill k ticket r => Sys2Proof.Machine.execFpDivideFill k ticket r s
  | .timerExpiry k => Sys2Proof.Machine.execTimerExpiry k s
  | .interruptEntry k => Sys2Proof.Machine.execInterruptEntry k s
  | .windowSpill k => Sys2Proof.Machine.execWindowSpill k s
  | .windowFill k => Sys2Proof.Machine.execWindowFill k s
  | .remoteRequestArrive q => Sys2Proof.Machine.execRemoteRequestArrive q s
  | .remoteReplyArrive ticket => Sys2Proof.Machine.execRemoteReplyArrive ticket s
  | .gatewaySend gw => Sys2Proof.Machine.execGatewaySend gw s
  | .scratchpadBankAccess bank => Sys2Proof.Machine.execScratchpadBankAccess bank s
  | .dieSramBankAccess bank => Sys2Proof.Machine.execDieSramBankAccess bank s
  | .atomicEngineServe => Sys2Proof.Machine.execAtomicEngineServe s
  | .mailboxQueueDeposit ep => Sys2Proof.Machine.execMailboxQueueDeposit ep s
  | .mailboxLatestDeposit ep => Sys2Proof.Machine.execMailboxLatestDeposit ep s
  | .mboxArmEffect ep => Sys2Proof.Machine.execMboxArmEffect ep s
  | .cacheLineFill line => Sys2Proof.Machine.execCacheLineFill line s
  | .storeLeave k => Sys2Proof.Machine.execStoreLeave k s
  | .dbbEntryAck bank => Sys2Proof.Machine.execDbbEntryAck bank s
  | .acquireComplete k => Sys2Proof.Machine.execAcquireComplete k s
  | .releaseComplete k => Sys2Proof.Machine.execReleaseComplete k s
  | .tlbWalkStart vpn k => Sys2Proof.Machine.execTlbWalkStart vpn k s
  | .walkComplete vpn => Sys2Proof.Machine.execWalkComplete vpn s
  | .tlbinvWrite k v => Sys2Proof.Machine.execTlbinvWrite k v s
  | .tlbinvDone k => Sys2Proof.Machine.execTlbinvDone k s
  | .hbmServiceUnit p => Sys2Proof.Machine.execHbmServiceUnit p s
  | .scrubWriteback p granule => Sys2Proof.Machine.execScrubWriteback p granule s
  | .budgetCommit p => Sys2Proof.Machine.execBudgetCommit p s
  | .refreshTick p => Sys2Proof.Machine.execRefreshTick p s
  | .refreshEnd p bank => Sys2Proof.Machine.execRefreshEnd p bank s
  | .selfRefreshEntry p => Sys2Proof.Machine.execSelfRefreshEntry p s
  | .selfRefreshExit p => Sys2Proof.Machine.execSelfRefreshExit p s
  | .laneRepair c lane => Sys2Proof.Machine.execLaneRepair c lane s
  | .laneTrainingEnd c => Sys2Proof.Machine.execLaneTrainingEnd c s
  | .postArrive p => Sys2Proof.Machine.execPostArrive p s
  | .roundClose round => Sys2Proof.Machine.execRoundClose round s
  | .owlCalendar round rows => Sys2Proof.Machine.execOwlCalendar round rows s
  | .calendarArrive c => Sys2Proof.Machine.execCalendarArrive c s
  | .exchangePhaseStart round phase => Sys2Proof.Machine.execExchangePhaseStart round phase s
  | .exchangeRecordArrive r => Sys2Proof.Machine.execExchangeRecordArrive r s
  | .secondRoundPost round => Sys2Proof.Machine.execSecondRoundPost round s
  | .capacityPostTimeout round => Sys2Proof.Machine.execCapacityPostTimeout round s
  | .owlHeartbeat => Sys2Proof.Machine.execOwlHeartbeat s
  | .owlFailover => Sys2Proof.Machine.execOwlFailover s
  | .calendarTimeout round => Sys2Proof.Machine.execCalendarTimeout round s
  | .credPacketArrive p => Sys2Proof.Machine.execCredPacketArrive p s
  | .credFlush crid round => Sys2Proof.Machine.execCredFlush crid round s
  | .copyEngineBeat => Sys2Proof.Machine.execCopyEngineBeat s
  | .dispatchGang part die => Sys2Proof.Machine.execDispatchGang part die s
  | .gangPinned part => Sys2Proof.Machine.execGangPinned part s
  | .dieSteal part die => Sys2Proof.Machine.execDieSteal part die s
  | .fenceCounterNotify f c => Sys2Proof.Machine.execFenceCounterNotify f c s
  | .launchEnqueue h q job => Sys2Proof.Machine.execLaunchEnqueue h q job s
  | .enqueue q tail f => Sys2Proof.Machine.execEnqueue q tail f s
  | .sliceEnd part => Sys2Proof.Machine.execSliceEnd part s
  | .forcedSwap part => Sys2Proof.Machine.execForcedSwap part s
  | .swapStop part => Sys2Proof.Machine.execSwapStop part s
  | .saveAreaWriteback part bad => Sys2Proof.Machine.execSaveAreaWriteback part bad s
  | .swapResume part => Sys2Proof.Machine.execSwapResume part s
  | .powerCapWithhold part => Sys2Proof.Machine.execPowerCapWithhold part s
  | .syscfgWrite v => Sys2Proof.Machine.execSyscfgWrite v s
  | .pwrcapWrite v => Sys2Proof.Machine.execPwrcapWrite v s
  | .s2invGo f => Sys2Proof.Machine.execS2invGo f s
  | .s2invDone f => Sys2Proof.Machine.execS2invDone f s
  | .lstageWrite nonce => Sys2Proof.Machine.execLstageWrite nonce s
  | .lcommitArm cw => Sys2Proof.Machine.execLcommitArm cw s
  | .layoutFlip => Sys2Proof.Machine.execLayoutFlip s
  | .jayReplayInput p => Sys2Proof.Machine.execJayReplayInput p s
  | .packageReset => Sys2Proof.Machine.execPackageReset s
  | .gangBarrierArrive b gen count => Sys2Proof.Machine.execGangBarrierArrive b gen count s
  | .barwtDeadline k => Sys2Proof.Machine.execBarwtDeadline k s
  | .faultPacketDeposit => Sys2Proof.Machine.execFaultPacketDeposit s
  | .dctlResume k => Sys2Proof.Machine.execDctlResume k s
  | .dctlHalt k => Sys2Proof.Machine.execDctlHalt k s
  | .dctlKill k => Sys2Proof.Machine.execDctlKill k s
  | .killedGangEnd => Sys2Proof.Machine.execKilledGangEnd s
  | .gangStall => Sys2Proof.Machine.execGangStall s
  | .gkill v => Sys2Proof.Machine.execGkill v s
  | .ctxRetry part => Sys2Proof.Machine.execCtxRetry part s
  | .ctxDiscard part => Sys2Proof.Machine.execCtxDiscard part s
  | .checkpointTake f => Sys2Proof.Machine.execCheckpointTake f s
  | .heldWriteCopy granule => Sys2Proof.Machine.execHeldWriteCopy granule s
  | .checkpointDrop f => Sys2Proof.Machine.execCheckpointDrop f s
  | .checkpointRollback f => Sys2Proof.Machine.execCheckpointRollback f s
  | .flrRequest f => Sys2Proof.Machine.execFlrRequest f s
  | .flrDrainEnd f => Sys2Proof.Machine.execFlrDrainEnd f s
  | .pwdogKick => Sys2Proof.Machine.execPwdogKick s
  | .pwdogExpiry => Sys2Proof.Machine.execPwdogExpiry s
  | .pctlHold hold => Sys2Proof.Machine.execPctlHold hold s
  | .pctlClrlim => Sys2Proof.Machine.execPctlClrlim s
  | .registerWrite addr v by_ => Sys2Proof.Machine.execRegisterWrite addr v by_ s
  | .illins w => Sys2Proof.Machine.execIllins w s
  | .fetchFault why => Sys2Proof.Machine.execFetchFault why s
  | .pseudoChannelTrainingEnd p => Sys2Proof.Machine.execPseudoChannelTrainingEnd p s
  | .laneErrorWindow c => Sys2Proof.Machine.execLaneErrorWindow c s
  | .ckptPoolWriteDone f => Sys2Proof.Machine.execCkptPoolWriteDone f s
  | .firmwareUpdate die done => Sys2Proof.Machine.execFirmwareUpdate die done s

end Sys2Proof.Machine
end

