-- ==== Sys2Proof/Decode.lean ====
section
/-! DEFINITION. The decoder (R291-R301, R483, R484), total on every word and rejecting by name, and after it the encoder. Both
are written from the format and opcode tables. -/

namespace Sys2Proof

/-- Why a word is no instruction; every one of them is ILLINS (R480, R483, R484). -/
inductive DecodeError where
  | opcode     -- major opcode R296-R300 do not list
  | function   -- FN, EB variant, ENG, scope or operation not listed
  | type       -- type code the instruction does not accept
  | reserved   -- a reserved field that is not zero (R484)
  | unused     -- an unused field that breaks R295
  | command    -- encode only: the term is a command or an event and has no word
deriving DecidableEq, Repr

def Ty.code : Ty → BitVec 4
  | .i8 => 0 | .i16 => 1 | .i32 => 2 | .i64 => 3 | .n8 => 4 | .n16 => 5 | .n32 => 6 | .n64 => 7
  | .f64 => 8 | .f32 => 9 | .f16 => 10 | .bf16 => 11 | .f8a => 12 | .f8b => 13 | .i4x => 14

def Ty.ofCode (c : BitVec 4) : Option Ty :=
  match c.toNat with
  | 0 => some .i8 | 1 => some .i16 | 2 => some .i32 | 3 => some .i64
  | 4 => some .n8 | 5 => some .n16 | 6 => some .n32 | 7 => some .n64
  | 8 => some .f64 | 9 => some .f32 | 10 => some .f16 | 11 => some .bf16
  | 12 => some .f8a | 13 => some .f8b | 14 => some .i4x | _ => none

def Scope.code : Scope → BitVec 3
  | .strand => 0 | .core => 1 | .cluster => 2 | .die => 3 | .device => 4 | .system => 5

def Scope.ofCode (c : BitVec 3) : Option Scope :=
  match c.toNat with
  | 0 => some .strand | 1 => some .core | 2 => some .cluster | 3 => some .die | 4 => some .device | 5 => some .system
  | _ => none

def VCond.code : VCond → BitVec 2
  | .eq => 0 | .lt => 1 | .le => 2 | .neun => 3

def VCond.ofCode (c : BitVec 2) : VCond :=
  match c.toNat with
  | 0 => .eq | 1 => .lt | 2 => .le | _ => .neun

def RedOp.code : RedOp → BitVec 3
  | .add => 0 | .min => 1 | .max => 2 | .minn => 3 | .maxn => 4 | .and => 5 | .or => 6 | .xor => 7

def RedOp.ofCode (c : BitVec 3) : RedOp :=
  match c.toNat with
  | 0 => .add | 1 => .min | 2 => .max | 3 => .minn | 4 => .maxn | 5 => .and | 6 => .or | _ => .xor

/-! ## Fields of a word (R291) -/

def fOp (w : BitVec 32) : BitVec 8 := w.extractLsb' 24 8
def fD (w : BitVec 32) : Opd := w.extractLsb' 18 6
def fS1 (w : BitVec 32) : Opd := w.extractLsb' 12 6
def fS2 (w : BitVec 32) : Opd := w.extractLsb' 6 6
def fE1 (w : BitVec 32) : Bool := w.getLsbD 5
def fE0 (w : BitVec 32) : Bool := w.getLsbD 4
def fEB (w : BitVec 32) : BitVec 2 := w.extractLsb' 4 2
def fFN (w : BitVec 32) : BitVec 4 := w.extractLsb' 0 4
def fEbB (w : BitVec 32) : Bool := w.getLsbD 11
def fImmB (w : BitVec 32) : BitVec 11 := w.extractLsb' 0 11
def fS2C (w : BitVec 32) : Opd := w.extractLsb' 12 6
def fOffC (w : BitVec 32) : BitVec 12 := w.extractLsb' 0 12
def fOffJ (w : BitVec 32) : BitVec 24 := w.extractLsb' 0 24
def fImmL (w : BitVec 32) : BitVec 18 := w.extractLsb' 0 18
def fReg (w : BitVec 32) : BitVec 12 := w.extractLsb' 6 12
def fFnS (w : BitVec 32) : BitVec 6 := w.extractLsb' 0 6
def fVD (w : BitVec 32) : VIdx := w.extractLsb' 19 5
def fVS1 (w : BitVec 32) : VIdx := w.extractLsb' 14 5
def fVS2 (w : BitVec 32) : VIdx := w.extractLsb' 9 5
def fMV (w : BitVec 32) : MIdx := w.extractLsb' 6 3
def fTV (w : BitVec 32) : BitVec 4 := w.extractLsb' 2 4
def fFnV (w : BitVec 32) : BitVec 2 := w.extractLsb' 0 2
def fS2X (w : BitVec 32) : Opd := w.extractLsb' 8 6
def fMX (w : BitVec 32) : MIdx := w.extractLsb' 5 3
def fTX (w : BitVec 32) : BitVec 4 := w.extractLsb' 1 4
def fFnX (w : BitVec 32) : BitVec 1 := w.extractLsb' 0 1
def fS1M (w : BitVec 32) : Opd := w.extractLsb' 13 6
def fS2M (w : BitVec 32) : Opd := w.extractLsb' 7 6
def fMM (w : BitVec 32) : MIdx := w.extractLsb' 4 3
def fTM (w : BitVec 32) : BitVec 4 := w.extractLsb' 0 4
def fVC (w : BitVec 32) : BitVec 4 := w.extractLsb' 14 4
def fS1T (w : BitVec 32) : Opd := w.extractLsb' 8 6
def fS2T (w : BitVec 32) : Opd := w.extractLsb' 2 6
def fEng (w : BitVec 32) : BitVec 2 := w.extractLsb' 0 2

/-- Operand code 49, zr, which an unused scalar field holds (R295). -/
def zr : Opd := 49#6

abbrev Dec := Except DecodeError Instr

/-- The instruction if the check holds, else the named refusal. -/
def need (c : Bool) (e : DecodeError) (k : Dec) : Dec := if c then k else .error e

/-- The type of a T or FN field, if the instruction accepts it. -/
def withTy (c : BitVec 4) (ok : Ty → Bool) (k : Ty → Instr) : Dec :=
  match Ty.ofCode c with
  | some t => if ok t then .ok (k t) else .error .type
  | none => .error .type

def withScope (c : BitVec 3) (k : Scope → Instr) : Dec :=
  match Scope.ofCode c with
  | some s => .ok (k s)
  | none => .error .function

/-! ## Format A -/

/-- D, S1, S2 and both EB bits (R291, R293). -/
def decA (w : BitVec 32) (k : Opd → Opd → Opd → Bool → Bool → Instr) : Dec :=
  .ok (k (fD w) (fS1 w) (fS2 w) (fE1 w) (fE0 w))

/-- D and S1 only: S2 holds 49 and EB [4] holds 0 (R295). -/
def decA1 (w : BitVec 32) (k : Opd → Opd → Bool → Instr) : Dec :=
  need (fS2 w == zr && !fE0 w) .unused (.ok (k (fD w) (fS1 w) (fE1 w)))

/-- S1 and S2 with D unused. -/
def decAab (w : BitVec 32) (k : Opd → Opd → Bool → Bool → Instr) : Dec :=
  need (fD w == zr) .unused (.ok (k (fS1 w) (fS2 w) (fE1 w) (fE0 w)))

/-- S1 alone. -/
def decAa (w : BitVec 32) (k : Opd → Bool → Instr) : Dec :=
  need (fD w == zr && fS2 w == zr && !fE0 w) .unused (.ok (k (fS1 w) (fE1 w)))

/-- No operand. -/
def decA0 (w : BitVec 32) (i : Instr) : Dec :=
  need (fD w == zr && fS1 w == zr && fS2 w == zr && fEB w == 0) .unused (.ok i)

/-- S1 alone with EB zero (CANCELH and the cache operations). -/
def decAaNoEb (w : BitVec 32) (k : Opd → Instr) : Dec :=
  need (fD w == zr && fS2 w == zr && fEB w == 0) .unused (.ok (k (fS1 w)))

/-- Scalar float with two sources and empty behaviour; FN is the type. -/
def decF3 (w : BitVec 32) (k : Opd → Opd → Opd → Bool → Bool → Ty → Instr) : Dec :=
  withTy (fFN w) Ty.isFloat (k (fD w) (fS1 w) (fS2 w) (fE1 w) (fE0 w))

def decF2 (w : BitVec 32) (k : Opd → Opd → Bool → Ty → Instr) : Dec :=
  need (fS2 w == zr && !fE0 w) .unused (withTy (fFN w) Ty.isFloat (k (fD w) (fS1 w) (fE1 w)))

/-- Scalar float whose EB holds a variant. -/
def decFv (w : BitVec 32) (k : Opd → Opd → Opd → Ty → Instr) : Dec :=
  withTy (fFN w) Ty.isFloat (k (fD w) (fS1 w) (fS2 w))

def decFv1 (w : BitVec 32) (k : Opd → Opd → Ty → Instr) : Dec :=
  need (fS2 w == zr) .unused (withTy (fFN w) Ty.isFloat (k (fD w) (fS1 w)))

/-- Integer, immediate and constant opcodes (R296). -/
def decodeInt (op : Nat) (w : BitVec 32) : Dec :=
  match op, (fFN w).toNat with
  | 0x01, 0 => decA w .add
  | 0x02, 0 => decA w .sub
  | 0x03, 0 => decA w .and
  | 0x04, 0 => decA w .or
  | 0x05, 0 => decA w .xor
  | 0x06, 0 => decA w .sll
  | 0x07, 0 => decA w .srl
  | 0x08, 0 => decA w .sra
  | 0x09, 0 => decA w .mul
  | 0x0A, 0 => decA w .mulh
  | 0x0A, 1 => decA w .mulhn
  | 0x0A, 2 => decA w .mulhsn
  | 0x0B, 0 => decA w .div
  | 0x0B, 1 => decA w .divn
  | 0x0C, 0 => decA w .rem
  | 0x0C, 1 => decA w .remn
  | 0x0D, 0 => decA w .min
  | 0x0D, 1 => decA w .max
  | 0x0D, 2 => decA w .minn
  | 0x0D, 3 => decA w .maxn
  | 0x0E, 0 => decA w .slt
  | 0x0E, 1 => decA w .sltn
  | 0x0E, 2 => decA w .seq
  | 0x0E, 3 => decA w .sne
  | 0x0F, 0 => decA1 w .clz
  | 0x0F, 1 => decA1 w .ctz
  | 0x0F, 2 => decA1 w .popc
  | 0x0F, 3 => decA1 w .brev
  | 0x0F, 4 => decA1 w .bswap
  | 0x10, 0 => decA w .sel
  | 0x11, _ => .ok (.lea (fD w) (fS1 w) (fS2 w) (fE1 w) (fE0 w) (fFN w))
  | 0x12, 0 => decA w .rol
  | 0x12, 1 => decA w .ror
  | _, _ => .error .function

/-- Format B with the whole immediate. -/
def decB (w : BitVec 32) (k : Opd → Opd → Bool → BitVec 11 → Instr) : Dec :=
  .ok (k (fD w) (fS1 w) (fEbB w) (fImmB w))

/-- Shift immediates: IMM [10:6] zero (R292, R484). -/
def decBsh (w : BitVec 32) (k : Opd → Opd → Bool → BitVec 6 → Instr) : Dec :=
  need (w.extractLsb' 6 5 == 0) .reserved (.ok (k (fD w) (fS1 w) (fEbB w) (w.extractLsb' 0 6)))

def decodeImm (op : Nat) (w : BitVec 32) : Dec :=
  match op with
  | 0x18 => decB w .addi
  | 0x19 => decB w .andi
  | 0x1A => decB w .ori
  | 0x1B => decB w .xori
  | 0x1C => decBsh w .slli
  | 0x1D => decBsh w .srli
  | 0x1E => decBsh w .srai
  | 0x1F => decB w .slti
  | 0x20 => decB w .sltni
  | 0x21 => decB w .muli
  | 0x24 => .ok (.ldi (fD w) (fImmL w))
  | 0x25 => .ok (.ldk (fD w) (fImmL w))
  | 0x26 => .ok (.addpc (fD w) (fImmL w))
  | _ => .error .opcode

/-- Format C branches: S1 [23:18], S2 [17:12], OFF [11:0]. -/
def decC (w : BitVec 32) (k : Opd → Opd → BitVec 12 → Instr) : Dec := .ok (k (fD w) (fS2C w) (fOffC w))

/-- Branch, jump and system opcodes (R296). -/
def decodeControl (op : Nat) (w : BitVec 32) : Dec :=
  match op, (fFN w).toNat with
  | 0x28, _ => decC w .beq
  | 0x29, _ => decC w .bne
  | 0x2A, _ => decC w .blt
  | 0x2B, _ => decC w .bge
  | 0x2C, _ => decC w .blo
  | 0x2D, _ => decC w .bhs
  | 0x2E, _ => decC w .bsig
  | 0x2F, _ => need (fS2C w == zr) .unused (.ok (.bemp (fD w) (fOffC w)))
  | 0x30, _ => .ok (.jmp (fOffJ w))
  | 0x31, _ => .ok (.call (fOffJ w))
  | 0x32, 0 => decAa w .jmpr
  | 0x33, 0 => decAa w .callr
  | 0x34, 0 => decA0 w .ret
  | 0x34, 1 => decA0 w .tret
  | 0x38, _ => need (fFnS w == 0) .function (.ok (.srr (fD w) (fReg w)))
  | 0x39, _ => need (fFnS w == 0) .function (.ok (.srw (fD w) (fReg w)))
  | 0x3A, _ =>
    match (fFnS w).toNat with
    | 0 => .ok (.srxSwap (fD w) (fReg w))
    | 1 => .ok (.srxSet (fD w) (fReg w))
    | 2 => .ok (.srxClr (fD w) (fReg w))
    | _ => .error .function
  | 0x3B, _ => .ok (.sys (fOffJ w))
  | 0x3C, _ => .ok (.brk (fOffJ w))
  | 0x3D, 0 => decA0 w .yield
  | 0x3D, 1 => decA0 w .idle
  | 0x3D, 2 => decA0 w .halt
  | 0x3E, 0 => decA1 w .sigget
  | 0x3E, 1 => decA w .sigset
  | 0x3F, n =>
    need (fD w == zr && fS1 w == zr && fEB w == 0) .unused <|
    need (w.extractLsb' 9 3 == 0) .reserved <|
    match n with
    | 1 => withScope (w.extractLsb' 6 3) .fenceAcq
    | 2 => withScope (w.extractLsb' 6 3) .fenceRel
    | 3 => withScope (w.extractLsb' 6 3) .fenceFull
    | _ => .error .function
  | _, _ => .error .function

/-- LDAQ and STRL: FN [3] size, [2:0] scope; S2 49 and EB [4] 0 (R390). -/
def decOrd (w : BitVec 32) (k : Opd → Opd → Bool → Bool → Scope → Instr) : Dec :=
  need (fS2 w == zr && !fE0 w) .unused
    (withScope (w.extractLsb' 0 3) (k (fD w) (fS1 w) (fE1 w) (w.getLsbD 3)))

/-- Synchronisation, memory and ordered-access opcodes (R297). -/
def decodeMem (op : Nat) (w : BitVec 32) : Dec :=
  match op, (fFN w).toNat with
  | 0x40, 0 => decAab w .barw
  | 0x40, 1 => decAab w .bara
  | 0x40, 2 => decA w .barwt
  | 0x41, 0 => decA1 w .getchunk
  | 0x41, 1 => decA w .chunkset
  | 0x42, 0 => need (fS2 w == zr && fEB w == 0) .unused (.ok (.movp (fD w) (fS1 w)))
  | 0x43, 0 => decAaNoEb w .cancelh
  | 0x48, _ => decB w .ld8
  | 0x49, _ => decB w .ld8n
  | 0x4A, _ => decB w .ld16
  | 0x4B, _ => decB w .ld16n
  | 0x4C, _ => decB w .ld32
  | 0x4D, _ => decB w .ld32n
  | 0x4E, _ => decB w .ld64
  | 0x4F, _ => decB w .ldt
  | 0x50, _ => decB w .st8
  | 0x51, _ => decB w .st16
  | 0x52, _ => decB w .st32
  | 0x53, _ => decB w .st64
  | 0x54, _ => decB w .stt
  | 0x55, _ => decB w .ldf
  | 0x56, _ => decB w .ldw
  | 0x57, _ => decB w .stf
  | 0x58, _ => decB w .stff
  | 0x59, _ => need (fD w == zr) .unused (.ok (.clre (fS1 w) (fEbB w) (fImmB w)))
  | 0x5A, _ => decOrd w .ldaq
  | 0x5B, _ => decOrd w .strl
  | 0x5C, 0 => decA w .amoAdd
  | 0x5C, 1 => decA w .amoAnd
  | 0x5C, 2 => decA w .amoOr
  | 0x5C, 3 => decA w .amoXor
  | 0x5C, 4 => decA w .amoMin
  | 0x5C, 5 => decA w .amoMax
  | 0x5C, 6 => decA w .amoMinn
  | 0x5C, 7 => decA w .amoMaxn
  | 0x5C, 8 => decA w .amoSwap
  | 0x5C, 9 => decA w .amoFadd32
  | 0x5C, 10 => decA w .amoFadd64
  | 0x5D, 0 => .ok (.cas (fD w) (fS1 w) (fS2 w) (fE1 w) (fE0 w) false)
  | 0x5D, 1 => .ok (.cas (fD w) (fS1 w) (fS2 w) (fE1 w) (fE0 w) true)
  | 0x5E, 0 => decAaNoEb w .cinv
  | 0x5E, 1 => decAaNoEb w .cwb
  | 0x5E, 2 => decAaNoEb w .cwbi
  | 0x5E, 3 => decAaNoEb w .pref
  | _, _ => .error .function

/-! ## Vector formats -/

def decV (w : BitVec 32) (ok : Ty → Bool) (k : VIdx → VIdx → VIdx → MIdx → Ty → Instr) : Dec :=
  withTy (fTV w) ok (k (fVD w) (fVS1 w) (fVS2 w) (fMV w))

/-- One-source form: the VS2 field is 0 (R367). -/
def decV1 (w : BitVec 32) (ok : Ty → Bool) (k : VIdx → VIdx → MIdx → Ty → Instr) : Dec :=
  need (fVS2 w == 0) .unused (withTy (fTV w) ok (k (fVD w) (fVS1 w) (fMV w)))

def decVM (w : BitVec 32) (k : VIdx → Opd → Opd → MIdx → Ty → Instr) : Dec :=
  withTy (fTM w) (fun _ => true) (k (fVD w) (fS1M w) (fS2M w) (fMM w))

/-- Gather and scatter: vk in S2 [11:7], S2 [12] zero (R394, R484). -/
def decVG (w : BitVec 32) (k : VIdx → Opd → VIdx → MIdx → Ty → Instr) : Dec :=
  need (w.extractLsb' 12 1 == 0) .reserved
    (withTy (fTM w) Ty.isPlain (k (fVD w) (fS1M w) (w.extractLsb' 7 5) (fMM w)))

/-- Mask operations: masks in [2:0] of VD, VS1, VS2, every other field zero (R379, R484). -/
def decMask (w : BitVec 32) (k : MIdx → MIdx → MIdx → Instr) : Dec :=
  need (w.extractLsb' 22 2 == 0 && w.extractLsb' 17 2 == 0 && w.extractLsb' 12 2 == 0 && fMV w == 0 && fTV w == 0)
    .reserved (.ok (k (w.extractLsb' 19 3) (w.extractLsb' 14 3) (w.extractLsb' 9 3)))

/-- Vector and mask opcodes (R298, R366). -/
def decodeVec (op : Nat) (w : BitVec 32) : Dec :=
  match op, (fFnV w).toNat with
  | 0x60, 0 => decV w Ty.isPlain .vadd
  | 0x61, 0 => decV w Ty.isPlain .vsub
  | 0x62, 0 => decV w Ty.isPlain .vmul
  | 0x63, 0 => decV w Ty.isFloat .vfma
  | 0x64, 0 => decV w Ty.isPlain .vmin
  | 0x64, 1 => decV w Ty.isPlain .vmax
  | 0x65, 0 => decV w Ty.isInt .vand
  | 0x65, 1 => decV w Ty.isInt .vor
  | 0x65, 2 => decV w Ty.isInt .vxor
  | 0x65, 3 => decV1 w Ty.isInt .vnot
  | 0x66, 0 => decV w Ty.isInt .vshl
  | 0x66, 1 => decV w Ty.isInt .vshr
  | 0x66, 2 => decV w Ty.isInt .vsra
  | 0x67, _ =>
    need (w.extractLsb' 22 2 == 0) .reserved
      (withTy (fTV w) Ty.isPlain
        (fun t => .vcmp (w.extractLsb' 19 3) (fVS1 w) (fVS2 w) (fMV w) t (VCond.ofCode (fFnV w))))
  | 0x68, 0 => need (fMV w != 0) .function (decV w Ty.isPlain .vsel)
  | 0x69, 0 => decV w Ty.isFloat .vdiv
  | 0x6A, 0 => decV1 w Ty.isFloat .vsqrt
  | 0x6A, 1 => decV1 w Ty.isFloat .vrsq
  | 0x6B, 0 => decV1 w Ty.isSignedOrFloat .vabs
  | 0x6B, 1 => decV1 w Ty.isSignedOrFloat .vneg
  | 0x6D, 0 =>
    match Ty.ofCode (w.extractLsb' 9 4) with
    | some g => need (w.extractLsb' 13 1 == 0) .type
        (withTy (fTV w) (fun _ => true) (fun t => .vcvt (fVD w) (fVS1 w) g (fMV w) t))
    | none => .error .type
  | 0x6E, 0 => decV w Ty.isPlain .vperm
  | 0x70, _ => decVM w .vld
  | 0x71, _ => decVM w .vst
  | 0x72, _ => decVM w .vldt
  | 0x73, _ => decVM w .vstt
  | 0x74, _ => decVG w .vgath
  | 0x75, _ => decVG w .vscat
  | 0x76, _ => need (fMM w == 0) .reserved
      (withTy (fTM w) Ty.isPlain (fun t => .vmovx (fS1M w) (fVD w) (fS2M w) t))
  | 0x77, _ => need (fMM w == 0) .reserved
      (withTy (fTM w) Ty.isPlain (fun t => .vins (fVD w) (fS1M w) (fS2M w) t))
  | 0x78, 0 => decMask w .mand
  | 0x78, 1 => decMask w .mor
  | 0x78, 2 => decMask w .mxor
  | 0x78, 3 => need (fVS2 w == 0) .unused (decMask w (fun d a _ => .mnot d a))
  | 0x7B, 0 => decV w Ty.isScale .vscla
  | 0x7B, 1 => decV w Ty.isScale .vsclab
  | _, _ => .error .function

/-- Format VX opcodes (R298). -/
def decodeVX (op : Nat) (w : BitVec 32) : Dec :=
  match op, (fFnX w).toNat with
  | 0x6C, 0 =>
    need (w.extractLsb' 22 2 == 0) .reserved
      (withTy (fTX w) (RedOp.ofCode (w.extractLsb' 19 3)).accepts
        (fun t => .vred (RedOp.ofCode (w.extractLsb' 19 3)) (fVS1 w) (fS2X w) (fMX w) t))
  | 0x6F, 0 => need (fVS1 w == 0) .unused
      (withTy (fTX w) Ty.isPlain (fun t => .vbcast (fVD w) (fS2X w) (fMX w) t))
  | 0x79, 0 =>
    need (fVD w == 0 && w.extractLsb' 17 2 == 0 && fMX w == 0) .reserved
      (withTy (fTX w) Ty.isPlain (fun t => .mpop (fS2X w) (w.extractLsb' 14 3) t))
  | 0x7A, 0 => need (fVD w == 0 && fTX w == 0) .reserved (.ok (.vsigmin (fS2X w) (fVS1 w) (fMX w)))
  | 0x7A, 1 => need (fTX w == 0) .reserved (.ok (.vsigset (fVD w) (fVS1 w) (fS2X w) (fMX w)))
  | _, _ => .error .function

/-- Scalar float opcodes (R299). -/
def decodeFloat (op : Nat) (w : BitVec 32) : Dec :=
  match op, (fEB w).toNat with
  | 0x80, _ => decF3 w .fadd
  | 0x81, _ => decF3 w .fsub
  | 0x82, _ => decF3 w .fmul
  | 0x83, _ => decF3 w .fdiv
  | 0x84, _ => decF2 w .fsqrt
  | 0x85, _ => decF3 w .fma
  | 0x86, _ => decF3 w .fms
  | 0x87, _ => decF3 w .fnma
  | 0x88, 0 => decFv w .fmin
  | 0x88, 1 => decFv w .fmax
  | 0x89, 0 => decFv w .feq
  | 0x89, 1 => decFv w .flt
  | 0x89, 2 => decFv w .fle
  | 0x89, 3 => decFv w .funord
  | 0x8A, _ =>
    need (!fE0 w) .unused <|
    match Ty.ofCode (w.extractLsb' 6 4) with
    | some g => need (w.extractLsb' 10 2 == 0 && g.isPlain) .type
        (withTy (fFN w) Ty.isPlain (fun t => .fcvt (fD w) (fS1 w) (fE1 w) t g))
    | none => .error .type
  | 0x8B, _ => decF2 w .fclass
  | 0x8C, 0 => decFv w .fcps
  | 0x8C, 1 => decFv1 w .fneg
  | 0x8C, 2 => decFv1 w .fabs
  | 0x8D, _ => decF3 w .fscl
  | 0x8E, 0 => decFv1 w .frnd
  | _, _ => .error .function

/-- Format T (R291). -/
def decT (w : BitVec 32) (k : Opd → BitVec 4 → Opd → Opd → Instr) : Dec :=
  .ok (k (fD w) (fVC w) (fS1T w) (fS2T w))

/-- MBOX arming forms: FN [3] INT, [2] ACT (R397). -/
def decMbox (w : BitVec 32) (k : Opd → Opd → Bool → Bool → Bool → Bool → Instr) : Dec :=
  need (fD w == zr) .unused (.ok (k (fS1 w) (fS2 w) (fE1 w) (fE0 w) (w.getLsbD 3) (w.getLsbD 2)))

/-- Engine and messaging opcodes (R300). -/
def decodeEngine (op : Nat) (w : BitVec 32) : Dec :=
  match op, (fFN w).toNat with
  | 0x90, _ =>
    match (fEng w).toNat with
    | 0 => decT w .issueTile
    | 1 => decT w .issueCopy
    | 2 => decT w .issueMem
    | _ => decT w .issueXchg
  | 0x91, _ => need (fD w == zr) .unused (.ok (.send (fS1 w) (fS2 w) (fE1 w) (fE0 w) (fFN w)))
  | 0x92, _ => need (fEng w == 0) .function (decT w .creq)
  | 0x93, 0 => decA1 w .crel
  | 0x94, 0 => decA1 w .dpostDem
  | 0x94, 1 => decA1 w .dpostCap
  | 0x95, n =>
    match n % 4, n / 4 with
    | 0, _ => decMbox w .mboxQueue
    | 1, _ => decMbox w .mboxLatest
    | 2, 0 => decAa w .mboxClose
    | _, _ => .error .function
  | 0x96, 0 => decA w .launch
  | 0x97, 0 => need (fD w == zr && fEB w == 0) .unused (.ok (.fcinc (fS1 w) (fS2 w)))
  | 0x97, 1 => need (fD w == zr && fEB w == 0) .unused (.ok (.fcwait (fS1 w) (fS2 w)))
  | 0x97, 2 => need (fEB w == 0) .unused <|
      need (decide (2 ≤ (fD w).toNat) && decide ((fD w).toNat ≤ 31)) .function (.ok (.fcincn (fD w) (fS1 w) (fS2 w)))
  | _, _ => .error .function

/-- Which table an opcode belongs to. -/
inductive OpGroup where
  | int | imm | control | mem | vec | vx | float | engine | none
deriving DecidableEq, Repr

/-- The opcode map (R296-R301): every opcode not listed is unassigned. -/
def opGroup (op : Nat) : OpGroup :=
  if 0x01 ≤ op ∧ op ≤ 0x12 then .int
  else if (0x18 ≤ op ∧ op ≤ 0x21) ∨ (0x24 ≤ op ∧ op ≤ 0x26) then .imm
  else if (0x28 ≤ op ∧ op ≤ 0x34) ∨ (0x38 ≤ op ∧ op ≤ 0x3F) then .control
  else if (0x40 ≤ op ∧ op ≤ 0x43) ∨ (0x48 ≤ op ∧ op ≤ 0x5E) then .mem
  else if op = 0x6C ∨ op = 0x6F ∨ op = 0x79 ∨ op = 0x7A then .vx
  else if 0x60 ≤ op ∧ op ≤ 0x7B then .vec
  else if 0x80 ≤ op ∧ op ≤ 0x8E then .float
  else if 0x90 ≤ op ∧ op ≤ 0x97 then .engine
  else .none

/-- The decoder: an instruction, or the name of what makes the word none (R301, R483, R484). -/
def decode (w : BitVec 32) : Dec :=
  let op := (fOp w).toNat
  match opGroup op with
  | .int => decodeInt op w
  | .imm => decodeImm op w
  | .control => decodeControl op w
  | .mem => decodeMem op w
  | .vec => decodeVec op w
  | .vx => decodeVX op w
  | .float => decodeFloat op w
  | .engine => decodeEngine op w
  | .none => .error .opcode

/-- Four bytes, least significant first (R5, R290), as one word. -/
def wordOfBytes (b0 b1 b2 b3 : BitVec 8) : BitVec 32 := b3 ++ b2 ++ b1 ++ b0

/-- The decoder on bytes as the machine stores them. -/
def decodeBytes : List (BitVec 8) → Dec
  | [b0, b1, b2, b3] => decode (wordOfBytes b0 b1 b2 b3)
  | _ => .error .opcode

/-- The table's numbering of an instruction's bits is that of the word itself: bit 0 least significant. -/
def decodeTableWord (nbits w : Nat) : Option Instr :=
  if nbits ≤ 32 then
    let v := BitVec.ofNat 32 w
    match decodeBytes [v.extractLsb' 0 8, v.extractLsb' 8 8, v.extractLsb' 16 8, v.extractLsb' 24 8] with
    | .ok i => some i
    | .error _ => none
  else none

/-! ## The encoder -/

def bit (b : Bool) : BitVec 1 := BitVec.ofBool b

def mkA (op : BitVec 8) (d a b : Opd) (e1 e0 : Bool) (fn : BitVec 4) : BitVec 32 :=
  op ++ d ++ a ++ b ++ bit e1 ++ bit e0 ++ fn
def mkB (op : BitVec 8) (d a : Opd) (e : Bool) (imm : BitVec 11) : BitVec 32 := op ++ d ++ a ++ bit e ++ imm
def mkC (op : BitVec 8) (a b : Opd) (off : BitVec 12) : BitVec 32 := op ++ a ++ b ++ off
def mkJ (op : BitVec 8) (off : BitVec 24) : BitVec 32 := op ++ off
def mkL (op : BitVec 8) (d : Opd) (imm : BitVec 18) : BitVec 32 := op ++ d ++ imm
def mkS (op : BitVec 8) (d : Opd) (reg : BitVec 12) (fn : BitVec 6) : BitVec 32 := op ++ d ++ reg ++ fn
def mkV (op : BitVec 8) (d a b : VIdx) (m : MIdx) (t : BitVec 4) (fn : BitVec 2) : BitVec 32 :=
  op ++ d ++ a ++ b ++ m ++ t ++ fn
def mkVX (op : BitVec 8) (d a : VIdx) (s : Opd) (m : MIdx) (t : BitVec 4) (fn : BitVec 1) : BitVec 32 :=
  op ++ d ++ a ++ s ++ m ++ t ++ fn
def mkVM (op : BitVec 8) (d : VIdx) (a b : Opd) (m : MIdx) (t : BitVec 4) : BitVec 32 := op ++ d ++ a ++ b ++ m ++ t
def mkT (op : BitVec 8) (d : Opd) (vc : BitVec 4) (a b : Opd) (eng : BitVec 2) : BitVec 32 :=
  op ++ d ++ vc ++ a ++ b ++ eng

/-- The word of an encoded instruction; a command or an event has none. -/
def encode : Instr → Except DecodeError (BitVec 32)
  | .add d a b ta tb => .ok (mkA 0x01 d a b ta tb 0)
  | .sub d a b ta tb => .ok (mkA 0x02 d a b ta tb 0)
  | .and d a b ta tb => .ok (mkA 0x03 d a b ta tb 0)
  | .or d a b ta tb => .ok (mkA 0x04 d a b ta tb 0)
  | .xor d a b ta tb => .ok (mkA 0x05 d a b ta tb 0)
  | .sll d a b ta tb => .ok (mkA 0x06 d a b ta tb 0)
  | .srl d a b ta tb => .ok (mkA 0x07 d a b ta tb 0)
  | .sra d a b ta tb => .ok (mkA 0x08 d a b ta tb 0)
  | .mul d a b ta tb => .ok (mkA 0x09 d a b ta tb 0)
  | .mulh d a b ta tb => .ok (mkA 0x0A d a b ta tb 0)
  | .mulhn d a b ta tb => .ok (mkA 0x0A d a b ta tb 1)
  | .mulhsn d a b ta tb => .ok (mkA 0x0A d a b ta tb 2)
  | .div d a b ta tb => .ok (mkA 0x0B d a b ta tb 0)
  | .divn d a b ta tb => .ok (mkA 0x0B d a b ta tb 1)
  | .rem d a b ta tb => .ok (mkA 0x0C d a b ta tb 0)
  | .remn d a b ta tb => .ok (mkA 0x0C d a b ta tb 1)
  | .min d a b ta tb => .ok (mkA 0x0D d a b ta tb 0)
  | .max d a b ta tb => .ok (mkA 0x0D d a b ta tb 1)
  | .minn d a b ta tb => .ok (mkA 0x0D d a b ta tb 2)
  | .maxn d a b ta tb => .ok (mkA 0x0D d a b ta tb 3)
  | .slt d a b ta tb => .ok (mkA 0x0E d a b ta tb 0)
  | .sltn d a b ta tb => .ok (mkA 0x0E d a b ta tb 1)
  | .seq d a b ta tb => .ok (mkA 0x0E d a b ta tb 2)
  | .sne d a b ta tb => .ok (mkA 0x0E d a b ta tb 3)
  | .clz d a ta => .ok (mkA 0x0F d a zr ta false 0)
  | .ctz d a ta => .ok (mkA 0x0F d a zr ta false 1)
  | .popc d a ta => .ok (mkA 0x0F d a zr ta false 2)
  | .brev d a ta => .ok (mkA 0x0F d a zr ta false 3)
  | .bswap d a ta => .ok (mkA 0x0F d a zr ta false 4)
  | .sel d a b ta tb => .ok (mkA 0x10 d a b ta tb 0)
  | .lea d a b ta tb sh => .ok (mkA 0x11 d a b ta tb sh)
  | .rol d a b ta tb => .ok (mkA 0x12 d a b ta tb 0)
  | .ror d a b ta tb => .ok (mkA 0x12 d a b ta tb 1)
  | .addi d a ta imm => .ok (mkB 0x18 d a ta imm)
  | .andi d a ta imm => .ok (mkB 0x19 d a ta imm)
  | .ori d a ta imm => .ok (mkB 0x1A d a ta imm)
  | .xori d a ta imm => .ok (mkB 0x1B d a ta imm)
  | .slli d a ta sh => .ok (mkB 0x1C d a ta (0#5 ++ sh))
  | .srli d a ta sh => .ok (mkB 0x1D d a ta (0#5 ++ sh))
  | .srai d a ta sh => .ok (mkB 0x1E d a ta (0#5 ++ sh))
  | .slti d a ta imm => .ok (mkB 0x1F d a ta imm)
  | .sltni d a ta imm => .ok (mkB 0x20 d a ta imm)
  | .muli d a ta imm => .ok (mkB 0x21 d a ta imm)
  | .ldi d imm => .ok (mkL 0x24 d imm)
  | .ldk d imm => .ok (mkL 0x25 d imm)
  | .addpc d imm => .ok (mkL 0x26 d imm)
  | .beq a b off => .ok (mkC 0x28 a b off)
  | .bne a b off => .ok (mkC 0x29 a b off)
  | .blt a b off => .ok (mkC 0x2A a b off)
  | .bge a b off => .ok (mkC 0x2B a b off)
  | .blo a b off => .ok (mkC 0x2C a b off)
  | .bhs a b off => .ok (mkC 0x2D a b off)
  | .bsig a thr off => .ok (mkC 0x2E a thr off)
  | .bemp a off => .ok (mkC 0x2F a zr off)
  | .jmp off => .ok (mkJ 0x30 off)
  | .call off => .ok (mkJ 0x31 off)
  | .jmpr a ta => .ok (mkA 0x32 zr a zr ta false 0)
  | .callr a ta => .ok (mkA 0x33 zr a zr ta false 0)
  | .ret => .ok (mkA 0x34 zr zr zr false false 0)
  | .tret => .ok (mkA 0x34 zr zr zr false false 1)
  | .srr d reg => .ok (mkS 0x38 d reg 0)
  | .srw d reg => .ok (mkS 0x39 d reg 0)
  | .srxSwap d reg => .ok (mkS 0x3A d reg 0)
  | .srxSet d reg => .ok (mkS 0x3A d reg 1)
  | .srxClr d reg => .ok (mkS 0x3A d reg 2)
  | .sys imm => .ok (mkJ 0x3B imm)
  | .brk imm => .ok (mkJ 0x3C imm)
  | .yield => .ok (mkA 0x3D zr zr zr false false 0)
  | .idle => .ok (mkA 0x3D zr zr zr false false 1)
  | .halt => .ok (mkA 0x3D zr zr zr false false 2)
  | .sigget d a ta => .ok (mkA 0x3E d a zr ta false 0)
  | .sigset d a b ta tb => .ok (mkA 0x3E d a b ta tb 1)
  | .fenceAcq sc => .ok (mkA 0x3F zr zr (0#3 ++ sc.code) false false 1)
  | .fenceRel sc => .ok (mkA 0x3F zr zr (0#3 ++ sc.code) false false 2)
  | .fenceFull sc => .ok (mkA 0x3F zr zr (0#3 ++ sc.code) false false 3)
  | .barw a b ta tb => .ok (mkA 0x40 zr a b ta tb 0)
  | .bara a b ta tb => .ok (mkA 0x40 zr a b ta tb 1)
  | .barwt d a b ta tb => .ok (mkA 0x40 d a b ta tb 2)
  | .getchunk d a ta => .ok (mkA 0x41 d a zr ta false 0)
  | .chunkset d a b ta tb => .ok (mkA 0x41 d a b ta tb 1)
  | .movp d a => .ok (mkA 0x42 d a zr false false 0)
  | .cancelh a => .ok (mkA 0x43 zr a zr false false 0)
  | .ld8 d a ta imm => .ok (mkB 0x48 d a ta imm)
  | .ld8n d a ta imm => .ok (mkB 0x49 d a ta imm)
  | .ld16 d a ta imm => .ok (mkB 0x4A d a ta imm)
  | .ld16n d a ta imm => .ok (mkB 0x4B d a ta imm)
  | .ld32 d a ta imm => .ok (mkB 0x4C d a ta imm)
  | .ld32n d a ta imm => .ok (mkB 0x4D d a ta imm)
  | .ld64 d a ta imm => .ok (mkB 0x4E d a ta imm)
  | .ldt d a ta imm => .ok (mkB 0x4F d a ta imm)
  | .st8 d a ta imm => .ok (mkB 0x50 d a ta imm)
  | .st16 d a ta imm => .ok (mkB 0x51 d a ta imm)
  | .st32 d a ta imm => .ok (mkB 0x52 d a ta imm)
  | .st64 d a ta imm => .ok (mkB 0x53 d a ta imm)
  | .stt d a ta imm => .ok (mkB 0x54 d a ta imm)
  | .ldf d a ta imm => .ok (mkB 0x55 d a ta imm)
  | .ldw d a ta imm => .ok (mkB 0x56 d a ta imm)
  | .stf d a ta imm => .ok (mkB 0x57 d a ta imm)
  | .stff d a ta imm => .ok (mkB 0x58 d a ta imm)
  | .clre a ta imm => .ok (mkB 0x59 zr a ta imm)
  | .ldaq d a ta wide sc => .ok (mkA 0x5A d a zr ta false (bit wide ++ sc.code))
  | .strl d a ta wide sc => .ok (mkA 0x5B d a zr ta false (bit wide ++ sc.code))
  | .amoAdd d a b ta tb => .ok (mkA 0x5C d a b ta tb 0)
  | .amoAnd d a b ta tb => .ok (mkA 0x5C d a b ta tb 1)
  | .amoOr d a b ta tb => .ok (mkA 0x5C d a b ta tb 2)
  | .amoXor d a b ta tb => .ok (mkA 0x5C d a b ta tb 3)
  | .amoMin d a b ta tb => .ok (mkA 0x5C d a b ta tb 4)
  | .amoMax d a b ta tb => .ok (mkA 0x5C d a b ta tb 5)
  | .amoMinn d a b ta tb => .ok (mkA 0x5C d a b ta tb 6)
  | .amoMaxn d a b ta tb => .ok (mkA 0x5C d a b ta tb 7)
  | .amoSwap d a b ta tb => .ok (mkA 0x5C d a b ta tb 8)
  | .amoFadd32 d a b ta tb => .ok (mkA 0x5C d a b ta tb 9)
  | .amoFadd64 d a b ta tb => .ok (mkA 0x5C d a b ta tb 10)
  | .cas d a b ta tb narrow => .ok (mkA 0x5D d a b ta tb (0#3 ++ bit narrow))
  | .cinv a => .ok (mkA 0x5E zr a zr false false 0)
  | .cwb a => .ok (mkA 0x5E zr a zr false false 1)
  | .cwbi a => .ok (mkA 0x5E zr a zr false false 2)
  | .pref a => .ok (mkA 0x5E zr a zr false false 3)
  | .vadd d a b m t => .ok (mkV 0x60 d a b m t.code 0)
  | .vsub d a b m t => .ok (mkV 0x61 d a b m t.code 0)
  | .vmul d a b m t => .ok (mkV 0x62 d a b m t.code 0)
  | .vfma d a b m t => .ok (mkV 0x63 d a b m t.code 0)
  | .vmin d a b m t => .ok (mkV 0x64 d a b m t.code 0)
  | .vmax d a b m t => .ok (mkV 0x64 d a b m t.code 1)
  | .vand d a b m t => .ok (mkV 0x65 d a b m t.code 0)
  | .vor d a b m t => .ok (mkV 0x65 d a b m t.code 1)
  | .vxor d a b m t => .ok (mkV 0x65 d a b m t.code 2)
  | .vnot d a m t => .ok (mkV 0x65 d a 0 m t.code 3)
  | .vshl d a b m t => .ok (mkV 0x66 d a b m t.code 0)
  | .vshr d a b m t => .ok (mkV 0x66 d a b m t.code 1)
  | .vsra d a b m t => .ok (mkV 0x66 d a b m t.code 2)
  | .vcmp k a b m t c => .ok (mkV 0x67 (0#2 ++ k) a b m t.code c.code)
  | .vsel d a b m t => .ok (mkV 0x68 d a b m t.code 0)
  | .vdiv d a b m t => .ok (mkV 0x69 d a b m t.code 0)
  | .vsqrt d a m t => .ok (mkV 0x6A d a 0 m t.code 0)
  | .vrsq d a m t => .ok (mkV 0x6A d a 0 m t.code 1)
  | .vabs d a m t => .ok (mkV 0x6B d a 0 m t.code 0)
  | .vneg d a m t => .ok (mkV 0x6B d a 0 m t.code 1)
  | .vred op a s m t => .ok (mkVX 0x6C (0#2 ++ op.code) a s m t.code 0)
  | .vcvt d a tgt m t => .ok (mkV 0x6D d a (0#1 ++ tgt.code) m t.code 0)
  | .vperm d a b m t => .ok (mkV 0x6E d a b m t.code 0)
  | .vbcast d s m t => .ok (mkVX 0x6F d 0 s m t.code 0)
  | .vld d a b m t => .ok (mkVM 0x70 d a b m t.code)
  | .vst d a b m t => .ok (mkVM 0x71 d a b m t.code)
  | .vldt d a b m t => .ok (mkVM 0x72 d a b m t.code)
  | .vstt d a b m t => .ok (mkVM 0x73 d a b m t.code)
  | .vgath d a k m t => .ok (mkVM 0x74 d a (0#1 ++ k) m t.code)
  | .vscat d a k m t => .ok (mkVM 0x75 d a (0#1 ++ k) m t.code)
  | .vmovx d v j t => .ok (mkVM 0x76 v d j 0 t.code)
  | .vins v a j t => .ok (mkVM 0x77 v a j 0 t.code)
  | .mand d a b => .ok (mkV 0x78 (0#2 ++ d) (0#2 ++ a) (0#2 ++ b) 0 0 0)
  | .mor d a b => .ok (mkV 0x78 (0#2 ++ d) (0#2 ++ a) (0#2 ++ b) 0 0 1)
  | .mxor d a b => .ok (mkV 0x78 (0#2 ++ d) (0#2 ++ a) (0#2 ++ b) 0 0 2)
  | .mnot d a => .ok (mkV 0x78 (0#2 ++ d) (0#2 ++ a) 0 0 0 3)
  | .mpop s a t => .ok (mkVX 0x79 0 (0#2 ++ a) s 0 t.code 0)
  | .vsigmin s a m => .ok (mkVX 0x7A 0 a s m 0 0)
  | .vsigset d a s m => .ok (mkVX 0x7A d a s m 0 1)
  | .vscla d a b m t => .ok (mkV 0x7B d a b m t.code 0)
  | .vsclab d a b m t => .ok (mkV 0x7B d a b m t.code 1)
  | .fadd d a b ta tb t => .ok (mkA 0x80 d a b ta tb t.code)
  | .fsub d a b ta tb t => .ok (mkA 0x81 d a b ta tb t.code)
  | .fmul d a b ta tb t => .ok (mkA 0x82 d a b ta tb t.code)
  | .fdiv d a b ta tb t => .ok (mkA 0x83 d a b ta tb t.code)
  | .fsqrt d a ta t => .ok (mkA 0x84 d a zr ta false t.code)
  | .fma d a b ta tb t => .ok (mkA 0x85 d a b ta tb t.code)
  | .fms d a b ta tb t => .ok (mkA 0x86 d a b ta tb t.code)
  | .fnma d a b ta tb t => .ok (mkA 0x87 d a b ta tb t.code)
  | .fmin d a b t => .ok (mkA 0x88 d a b false false t.code)
  | .fmax d a b t => .ok (mkA 0x88 d a b false true t.code)
  | .feq d a b t => .ok (mkA 0x89 d a b false false t.code)
  | .flt d a b t => .ok (mkA 0x89 d a b false true t.code)
  | .fle d a b t => .ok (mkA 0x89 d a b true false t.code)
  | .funord d a b t => .ok (mkA 0x89 d a b true true t.code)
  | .fcvt d a ta src tgt => .ok (mkA 0x8A d a (0#2 ++ tgt.code) ta false src.code)
  | .fclass d a ta t => .ok (mkA 0x8B d a zr ta false t.code)
  | .fcps d a b t => .ok (mkA 0x8C d a b false false t.code)
  | .fneg d a t => .ok (mkA 0x8C d a zr false true t.code)
  | .fabs d a t => .ok (mkA 0x8C d a zr true false t.code)
  | .fscl d a b ta tb t => .ok (mkA 0x8D d a b ta tb t.code)
  | .frnd d a t => .ok (mkA 0x8E d a zr false false t.code)
  | .issueTile d vc a b => .ok (mkT 0x90 d vc a b 0)
  | .issueCopy d vc a b => .ok (mkT 0x90 d vc a b 1)
  | .issueMem d vc a b => .ok (mkT 0x90 d vc a b 2)
  | .issueXchg d vc a b => .ok (mkT 0x90 d vc a b 3)
  | .send a b ta tb n => .ok (mkA 0x91 zr a b ta tb n)
  | .creq d vc a b => .ok (mkT 0x92 d vc a b 0)
  | .crel d a ta => .ok (mkA 0x93 d a zr ta false 0)
  | .dpostDem d a ta => .ok (mkA 0x94 d a zr ta false 0)
  | .dpostCap d a ta => .ok (mkA 0x94 d a zr ta false 1)
  | .mboxQueue a b ta tb int act => .ok (mkA 0x95 zr a b ta tb (bit int ++ bit act ++ 0#2))
  | .mboxLatest a b ta tb int act => .ok (mkA 0x95 zr a b ta tb (bit int ++ bit act ++ 1#2))
  | .mboxClose a ta => .ok (mkA 0x95 zr a zr ta false 2)
  | .launch d a b ta tb => .ok (mkA 0x96 d a b ta tb 0)
  | .fcinc a b => .ok (mkA 0x97 zr a b false false 0)
  | .fcwait a b => .ok (mkA 0x97 zr a b false false 1)
  | .fcincn vec a b => .ok (mkA 0x97 vec a b false false 2)
  | _ => .error .command

end Sys2Proof
end

