-- ==== Sys2Proof/Machine/Front.lean ====
section
/-! DEFINITION. One cycle of the core: what ends a wait (R73, R78, R79), who issues (R75-R77, R82, R338), what follows the issue, and how an
instruction is placed where the next fetch finds it. -/

namespace Sys2Proof.Machine

/-! ## The end of waits and stalls -/

/-- A wait condition that holds no longer; barriers and words end by their own acts. -/
def waitOver (s : State) (k : Fin 16) : Wait → Bool
  | .queueEmpty q => (match s.core.queues[q] with
    | r :: _ => r.full
    | [] => false)
  | .queueFull q => decide ((s.core.queues[q]).length < 8)
  | .register c =>
    if c < 64 then
      (match locOf (s.strand k).frm (BitVec.ofNat 6 c) with
       | some l => ((s.strand k).reg l).full
       | none => true)
    else ((s.strand k).v[c % 32]'(Nat.mod_lt _ (by decide))).full
  | .barrier _ _ _ _ _ | .wordEmpty _ | .wordFull _ => false

/-- The intake of an engine has room (R400). -/
def intakeRoom (s : State) (eng : BitVec 2) : Bool :=
  if eng = 1 then decide (copyHeld s < 96)
  else if eng = 2 then decide (s.core.memIntake.length < 8)
  else decide (s.core.xchgIntake.length < 8)

/-- A structural stall whose block has cleared; the others end by their own acts. -/
def stallOver (s : State) (k : Fin 16) : Stall → Bool
  | .sendBuffer ep n => !(s.core.send[ep]).circuit || decide ((s.core.send[ep]).load + n ≤ 16)
  | .closedEndpoint ep => !(s.core.send[ep]).circuit || !(s.core.send[ep]).closed
  | .tilePending => !s.core.tile.pend.any fun p => p.1.strand = k
  | .chunkPending => (s.strand k).chunk.isNone
  | .intakeFull eng => intakeRoom s eng
  | .tableFull => !(freeEntries s).isEmpty
  | .storesLeaving => (s.strand k).sb.isEmpty
  | .ownOrder => (s.strand k).sb.isEmpty && ownTurn s k false
  | .storeBuffer => (s.strand k).sb.isEmpty || decide ((s.strand k).sb.length < Config.storeBuffer)
  | .remoteLimit => decide (outstanding s < 32)
  | .writeBackFull => decide (s.core.wbq.length < 64)
  | .acquirePending => !acquireHolds s k && !fullHolds s k
  | .remoteStf _ | .division _ | .fcwait _ _ | .tlbRemoval | .windowStores | .translation => false

/-- A strand whose block has ended is ready in this cycle (R79). -/
def refresh (s : State) (k : Fin 16) : State :=
  match (s.strand k).run with
  | .parked w => if waitOver s k w then s.setRun k .ready else s
  | .stalled w => if stallOver s k w then s.setRun k .ready else s
  | _ => s

/-- The words that are waited for, then the strands. -/
def prepare (s : State) : State :=
  (List.finRange 16).foldl refresh (((s.core.waiters.map (·.off)).eraseDups).foldl feWalk s)

/-! ## The barrel (R75-R77, R82) -/

/-- No strand of the core issues: a forced swap or a reset holds its cell, or the power cap its partition (R80, R265, R288). -/
def held (s : State) : Bool := s.core.spill.isSome || (s.core.cell.isSome && s.hub.withheld.any fun x => x.1 = s.wheel && x.2.val = s.part)

def slotOwner (s : State) : Fin 16 := ⟨s.now % 16, Nat.mod_lt _ (by decide)⟩
def opposite (k : Fin 16) : Fin 16 := ⟨(k.val + 8) % 16, Nat.mod_lt _ (by decide)⟩

/-- A slot-sharing pair (R82). -/
def paired (s : State) (i : Fin 16) : Bool := (s.strand i).strole.getLsbD 14 && (s.strand (opposite i)).strole.getLsbD 14

/-- States in which an owner lends its slot (R77); yielding and frozen count as parked (R338, R466). -/
def RunState.lends : RunState → Bool
  | .parked _ | .yielded | .dormant | .halted | .absent | .frozen => true
  | _ => false

/-- The strand that issues in this cycle. -/
def issuer (s : State) : Option (Fin 16) :=
  let i := slotOwner s
  let j := opposite i
  if held s then none
  else if (s.strand i).run = .ready then some i
  else if (paired s i || (s.strand i).run.lends) && (s.strand j).run = .ready then some j
  else none

/-- The strand that takes a trap or an interrupt before its next issue (R269). -/
def trapDue (s : State) : Option (Fin 16) :=
  if held s then none
  else (List.finRange 16).find? (boundaryDue s)

/-! ## The end of a cycle -/

/-- The OR of the strands' flags, for FPOR 16 cycles on (R123). -/
def noteFlags (s : State) : State :=
  let f := s.core.strands.toList.foldl (fun f x => f ||| x.fpflags.setWidth 5) (0 : BitVec 5)
  s.withClu fun u => { u with flagsPast := (f :: u.flagsPast).take 16 }

/-- A wheel ends: another quiescent one, or none (R507, R508). -/
def countQuiet (s : State) : State :=
  let n := if s.core.stirred || !quiescent s then 0 else s.core.quiet + 1
  let t := s.withCore fun c => { c with quiet := n, stirred := false }
  if n = 4 then t.at t.now .gangStall else t

/-- The walk at the end of a cycle, after its fills and its issue (R174). -/
def walkAll (s : State) : State := ((s.core.waiters.map (·.off)).eraseDups).foldl (feWalkOf · true ·) s

/-- A strand whose instruction did not complete is still at the boundary of the trap it took (R269). -/
def keepTaken (before s : State) (k : Fin 16) : State :=
  let waits := match (s.strand k).run with | .parked _ | .stalled _ => true | _ => false
  if (before.strand k).taken && waits && (s.strand k).pc = (before.strand k).pc then s.modStrand k fun x => { x with taken := true } else s

/-- Waits that have begun or ended count from the first slot of the wheel (R260), and with them the effective priority of the cell's queue. -/
def notePriority (s : State) : State :=
  let s := s.withHub fun h => { h with waits := waitsNow s }
  match s.core.cell with
  | some c => s.withCore fun x => { x with pri := effectivePriority s c.gang.queue.toNat }
  | none => s

/-- A strand that had yielded is ready after the offer of its own slot (R338). -/
def yieldOver (before s : State) : State :=
  let i := slotOwner before
  if (before.strand i).run = .yielded && (s.strand i).run = .yielded then s.setRun i .ready else s

/-- What a cycle's end does to words and their waiters (R174, R175): nothing else of it touches memory. -/
def settleWords (before s : State) : State :=
  let s := walkAll (yieldOver before s)
  drainRemote s s.core.remoteQ.length

/-- The next cycle. -/
def tick (before s : State) : State :=
  let s := (noteFlags (settleWords before s)).withCore fun c => { c with moved := [] }
  let s := (List.finRange 16).foldl (keepTaken before) s
  let s := if s.now % 256 = 255 then owlWheel (countQuiet s) else s
  let s := if s.now % 256 = 127 then notePriority s else s
  { s with now := s.now + 1 }

/-- The first act that is due whose turn it is, and the machine without it. -/
def takeDue (s : State) : Option (Act × State) :=
  match (List.range 5).findSome? fun n => s.agenda.find? fun e => decide (e.1 ≤ s.now) && e.2.turn = n with
  | some e => some (e.2, { s with agenda := s.agenda.erase e })
  | none => none

/-- The machine as strand k issues the word w. -/
def issuing (s : State) (k : Fin 16) (w : BitVec 32) : State :=
  let t := s.modStrand k fun x => { x with taken := false, back := none }
  { t with cur := k, word := w, core := { t.core with stirred := true } }

/-- An encoded instruction is no event. -/
def isEncoded (i : Instr) : Bool :=
  match encode i with
  | .ok _ => true
  | .error _ => false

/-! ## Placing an instruction -/

/-- Where withFetchWord places its word: virtual and physical. -/
def placePc : Nat := 0x100000

/-- The translation the fetch needs. -/
def placeEntry (s : State) : TlbEntry :=
  ⟨0, s.vmid, placePc, 13, placePc, false, false, true, true, false, true, true, true, true⟩

/-- The machine with w as strand 0's next instruction: nothing is due, the slot is strand 0's, and no other strand takes a trap first. -/
def placeWord (s : State) (w : BitVec 32) : State :=
  let s := { s with
    agenda := []
    now := (s.now + 15) / 16 * 16
    core := { s.core with ptroot := 0x2000, utlb := [placeEntry s], spill := none }
    hub := { s.hub with withheld := [] }
    poison := s.poison.filter (· != placePc / 8)
    mem := (List.range 4).foldl (fun m i => cellSet memDflt m (placePc + i) (w.extractLsb' (8 * i) 8)) s.mem }
  let s := s.modStrand 0 fun x =>
    { x with
      run := .ready, pc := BitVec.ofNat 43 placePc, mode := x.mode &&& ~~~(4 : Word), singular := [], tpend := none, walked := [],
      taken := false, owed := none, back := none }
  (List.finRange 16).foldl (fun s k => if k != 0 && (s.strand k).run != .absent && (s.strand k).run != .halted then s.setRun k .dormant else s) s

end Sys2Proof.Machine
end

