-- ==== Sys2Proof/Machine/Step.lean ====
section
/-! DEFINITION. One step of the machine: the first act that is due; else, before a strand's next issue, a trap or an interrupt (R269); else one
offer of the barrel (R77), with which the cycle ends. -/

namespace Sys2Proof.Machine

/-- An act or an event runs; it stirs the cell or not (R507). -/
def runDue (a : Act) (s : State) : Host.Outcome State Fault Refusal :=
  let r : Host.Outcome State Fault Refusal := match a with
    | .event i => if isEncoded i then .fault .agendaHoldsInstruction else exec i s
    | a => runAct a s
  match r with
  | .next t => .next (if a.stirs || stirred s t then { t with core := { t.core with stirred := true } } else t)
  | r => r

/-- Strand k fetches and issues (R290, R483, R492). -/
def issue (s : State) (k : Fin 16) : Host.Outcome State Fault Refusal :=
  match fetchAt s k with
  | .miss vpn => .next (stopped { s with cur := k } (.miss vpn))
  | .fault why => execFetchFault why { s with cur := k }
  | .word w =>
    match decode w with
    | .ok i => exec i (issuing s k w)
    | .error _ => execIllins w { s with cur := k }

/-- The cycle ends after an issue. -/
def endCycle (before : State) (r : Host.Outcome State Fault Refusal) : Host.Outcome State Fault Refusal :=
  match r with
  | .next t => .next (tick before t)
  | x => x

def step (s : State) : Host.Outcome State Fault Refusal :=
  match takeDue s with
  | some a => runDue a.1 a.2
  | none =>
    let t := prepare s
    match trapDue t with
    | some k => execInterruptEntry k t
    | none =>
      match issuer t with
      | none => .next (tick t t)
      | some k => endCycle t (issue t k)

/-- The machine with the instruction at strand 0's next fetch (log 5). Every instruction has 32 bits. -/
def State.withFetchWord (s : State) (nbits w : Nat) : State := placeWord s (BitVec.ofNat 32 (w % 2 ^ nbits))

end Sys2Proof.Machine
end

