-- ==== Sys2Proof/Safety.lean ====
section
/-! DEFINITION. What counts as a safe run: the machine's own faults are next states, so a run is safe while every step answers one and the
memories stay in their canonical form. -/

namespace Sys2Proof

open Machine

/-- A step answers a next state. -/
def StepGoesOn (s : State) : Prop := ∃ t, step s = .next t

/-- States some number of steps from another. -/
inductive Reaches : State → State → Prop where
  | refl (s : State) : Reaches s s
  | step {s t u : State} (h : Reaches s t) (e : Machine.step t = .next u) : Reaches s u

/-- Every state of a run from s goes on and keeps memory canonical. -/
def SafeFrom (s : State) : Prop := ∀ t, Reaches s t → StepGoesOn t ∧ Memory.wf t = true

end Sys2Proof
end

