-- ==== Sys2Proof/Certificates/Slice0/Vocabulary.lean ====
section
/-! DEFINITION. The words the statements are written in: what stays as it was (frames), what an operand names, and which instructions share
one shape. -/

namespace Sys2Proof.Claims

open Sys2Proof.Machine

/-! ## What stays as it was -/

/-- Every byte of memory, tag byte, full/empty bit and poison mark reads as before. -/
def SameMemory (s t : State) : Prop :=
  ∀ pa, byteAt t pa = byteAt s pa ∧ tagByteAt t pa = tagByteAt s pa ∧ feAt t pa = feAt s pa ∧ poisoned t pa = poisoned s pa

/-- A byte of memory outside the views of a TCM region. -/
def dataAt (s : State) (pa : Nat) : BitVec 8 := cellGet memDflt s.mem pa

/-- Every byte but those of [lo, hi) reads as before, and so do the tag byte, full/empty bit and poison mark of every word that holds none of
them. -/
def SameMemoryBut (s t : State) (lo hi : Nat) : Prop :=
  (∀ pa, (pa < lo ∨ hi ≤ pa) → dataAt t pa = dataAt s pa) ∧
    ∀ pa, (pa / 8 < lo / 8 ∨ hi ≤ pa / 8 * 8) →
      tagByteAt t pa = tagByteAt s pa ∧ feAt t pa = feAt s pa ∧ poisoned t pa = poisoned s pa

/-- The special registers of a strand, in the order of their numbers (R118). -/
def specials (x : Strand) : List Word :=
  [x.mode, x.strole, x.tvec, x.tepc, x.tcause, x.tval, x.ien, x.fpmode, x.fpflags, x.sigthr, x.winbase, x.winstate, x.lvtbase,
    x.tagbase, x.timecmp, x.latcnt]

/-- The special registers but FPFLAGS. -/
def specialsButFlags (x : Strand) : List Word :=
  [x.mode, x.strole, x.tvec, x.tepc, x.tcause, x.tval, x.ien, x.fpmode, x.sigthr, x.winbase, x.winstate, x.lvtbase,
    x.tagbase, x.timecmp, x.latcnt]

/-- Value, tag and full/empty bit of a register; the first read of a filled handle unbinds it (R112), which is none of the three. -/
def SameContent (a b : Reg) : Prop := b.val = a.val ∧ b.tag = a.tag ∧ b.full = a.full

/-- The other strands of the core, its accumulators, barriers and per-core registers, the cluster, the die, the fabric, the controllers
and the hub are as before. -/
def SameAround (s t : State) : Prop :=
  t.cur = s.cur ∧ t.now = s.now ∧ (∀ k, k ≠ s.cur → t.strand k = s.strand k) ∧ t.core.acc = s.core.acc ∧ t.core.bars = s.core.bars ∧
    t.core.agelim = s.core.agelim ∧ t.core.accmap = s.core.accmap ∧ t.core.ptroot = s.core.ptroot ∧ t.core.fqcfg = s.core.fqcfg ∧
    t.clu = s.clu ∧ t.die = s.die ∧ t.fab = s.fab ∧ t.hbm = s.hbm ∧ t.hub = s.hub

/-- No scalar register but those named, and no queue but those of the listed operand codes, changes its content. -/
def SameScalars (s t : State) (writes : Loc → Prop) (codes : List Opd) : Prop :=
  (∀ l, ¬ writes l → SameContent (s.st.reg l) (t.st.reg l)) ∧
    ∀ q : Fin 8, (∀ c ∈ codes, queueOf c ≠ some q) → t.core.queues[q] = s.core.queues[q]

/-- What a register-only instruction leaves alone: memory, the rest of the machine, vector and mask registers, special registers, and every
scalar register and queue but those named. -/
def ScalarFrame (s t : State) (writes : Loc → Prop) (codes : List Opd) : Prop :=
  SameMemory s t ∧ SameAround s t ∧ specials t.st = specials s.st ∧ t.st.v = s.st.v ∧ t.st.m = s.st.m ∧ SameScalars s t writes codes

/-- The registers a result goes to: the one D names, and lat (R96). -/
def toDest (s : State) (d : Opd) (l : Loc) : Prop := l = .lat ∨ locOf s.st.frm d = some l

/-- No register. -/
def toNone (_ : Loc) : Prop := False

/-! ## Conditions on the state and the operands alone -/

/-- No source holds a filled handle that nobody has read, so reading them begins no acquire (R112). -/
def NoHandles (s : State) (cs : List Opd) : Prop := ∀ c ∈ cs, ∀ l, locOf s.st.frm c = some l → ∀ e, (s.st.reg l).bind ≠ some (.handle e)

/-- Writing the cache through adds no entry to a full write-back queue: the queue of 64 has room, or no dirty line has its bank full (R206, R73). -/
def ThroughRoom (s : State) : Prop := s.core.wbq.length < 64 ∨ ∀ l ∈ s.core.cache, l.dirty = 0 ∨ bankFull s (l.line * 64) = false

/-- An access that leaves the core finds room: fewer than 32 remote requests are outstanding, and fewer than 64 entries wait in the write-back
queue (R73, R179, R206). -/
def AccessRoom (s : State) : Prop := outstanding s < 32 ∧ s.core.wbq.length < 64

/-- What an instruction reads is there (R101, R294, R83): legal codes, full registers, and in every queue as many full heads as codes name it;
where a source is a filled handle, the acquire of its first read finds room to write the cache through (R112, R206). -/
def SourcesFull (s : State) (cs : List Opd) : Prop :=
  (NoHandles s cs ∨ ThroughRoom s) ∧ (∀ c ∈ cs, legalCode c = true ∧ ∀ l, locOf s.st.frm c = some l → (s.st.reg l).full = true) ∧
    ∀ q : Fin 8, cs.countP (fun c => queueOf c == some q) ≤ (s.core.queues[q]).length ∧
      ∀ r ∈ (s.core.queues[q]).take (cs.countP fun c => queueOf c == some q), r.full = true

/-- A result can be taken (R100, R83): a legal code whose register waits for no fill, or whose queue holds fewer than 8 entries. -/
def DestFree (s : State) (d : Opd) : Prop :=
  legalCode d = true ∧ (∀ l, locOf s.st.frm d = some l → (s.st.reg l).full = true ∨ (s.st.reg l).bind = none) ∧
    ∀ q, queueOf d = some q → (s.core.queues[q]).length < 8

/-- Vector registers that are full (R101). -/
def VecsFull (s : State) (vs : List VIdx) : Prop := ∀ v ∈ vs, (s.st.v[v.toFin]).full = true

/-- The mode may read or write the system register (R126, R486). -/
def SysMay (s : State) (reg : BitVec 12) (rd wr : Bool) : Prop :=
  reg.toNat < 0x800 ∧ sysExists reg.toNat = true ∧
    (s.st.kernel = true ∨ ((rd = true → sysUserRead reg.toNat = true) ∧ (wr = true → sysUserWrite reg.toNat = true)))

/-- A free entry in the completion table (R110). -/
def HandleFree (s : State) : Prop := freeEntries s ≠ []

/-! ## Instructions of one shape -/

/-- The integer instructions of two sources and what D takes (R320, R321, R325). -/
def intBinary (d a b : Opd) (ta tb : Bool) : List (Instr × (Word → Word → Word)) :=
  [(.add d a b ta tb, fun x y => x + y),
   (.sub d a b ta tb, fun x y => x - y),
   (.and d a b ta tb, fun x y => x &&& y),
   (.or d a b ta tb, fun x y => x ||| y),
   (.xor d a b ta tb, fun x y => x ^^^ y),
   (.sll d a b ta tb, fun x y => x <<< (y.toNat % 64)),
   (.srl d a b ta tb, fun x y => word (x.toNat / 2 ^ (y.toNat % 64))),
   (.sra d a b ta tb, fun x y => BitVec.ofInt 64 (x.toInt / 2 ^ (y.toNat % 64))),
   (.mul d a b ta tb, fun x y => word (x.toNat * y.toNat)),
   (.mulh d a b ta tb, fun x y => BitVec.ofInt 64 (x.toInt * y.toInt / 2 ^ 64)),
   (.mulhn d a b ta tb, fun x y => word (x.toNat * y.toNat / 2 ^ 64)),
   (.mulhsn d a b ta tb, fun x y => BitVec.ofInt 64 (x.toInt * (y.toNat : Int) / 2 ^ 64)),
   (.min d a b ta tb, fun x y => BitVec.ofInt 64 (min x.toInt y.toInt)),
   (.max d a b ta tb, fun x y => BitVec.ofInt 64 (max x.toInt y.toInt)),
   (.minn d a b ta tb, fun x y => word (min x.toNat y.toNat)),
   (.maxn d a b ta tb, fun x y => word (max x.toNat y.toNat)),
   (.slt d a b ta tb, fun x y => if x.toInt < y.toInt then 1 else 0),
   (.sltn d a b ta tb, fun x y => if x.toNat < y.toNat then 1 else 0),
   (.seq d a b ta tb, fun x y => if x = y then 1 else 0),
   (.sne d a b ta tb, fun x y => if x = y then 0 else 1),
   (.rol d a b ta tb, fun x y => x.rotateLeft (y.toNat % 64)),
   (.ror d a b ta tb, fun x y => x.rotateRight (y.toNat % 64))]

/-- The instructions of opcode 0x0F and what D takes (R321). -/
def bitOps (d a : Opd) (ta : Bool) : List (Instr × (Word → Word)) :=
  [(.clz d a ta, fun x => word ((List.range 64).takeWhile fun i => !x.getLsbD (63 - i)).length),
   (.ctz d a ta, fun x => word ((List.range 64).takeWhile fun i => !x.getLsbD i).length),
   (.popc d a ta, fun x => word ((List.range 64).countP fun i => x.getLsbD i)),
   (.brev d a ta, fun x => x.reverse),
   (.bswap d a ta, fun x => (List.range 8).foldl (fun w i => w ||| (x >>> (8 * i) &&& 0xFF) <<< (8 * (7 - i))) 0)]

/-- The immediate forms and what D takes (R323). -/
def immOps (d a : Opd) (ta : Bool) (imm : BitVec 11) (sh : BitVec 6) : List (Instr × (Word → Word)) :=
  [(.addi d a ta imm, fun x => x + imm.signExtend 64),
   (.andi d a ta imm, fun x => x &&& imm.signExtend 64),
   (.ori d a ta imm, fun x => x ||| imm.signExtend 64),
   (.xori d a ta imm, fun x => x ^^^ imm.signExtend 64),
   (.slli d a ta sh, fun x => x <<< sh.toNat),
   (.srli d a ta sh, fun x => word (x.toNat / 2 ^ sh.toNat)),
   (.srai d a ta sh, fun x => BitVec.ofInt 64 (x.toInt / 2 ^ sh.toNat)),
   (.slti d a ta imm, fun x => if x.toInt < imm.toInt then 1 else 0),
   (.sltni d a ta imm, fun x => if x.toNat < (imm.signExtend 64 : Word).toNat then 1 else 0),
   (.muli d a ta imm, fun x => x * imm.signExtend 64)]

/-- Division and remainder as R322's table has them. -/
def divTable (d a b : Opd) (ta tb : Bool) : List (Instr × (Word → Word → Word)) :=
  [(.div d a b ta tb, fun x y =>
     if y = 0 then BitVec.allOnes 64 else if x = BitVec.ofNat 64 (2 ^ 63) ∧ y = BitVec.allOnes 64 then BitVec.ofNat 64 (2 ^ 63)
     else BitVec.ofInt 64 (x.toInt.tdiv y.toInt)),
   (.rem d a b ta tb, fun x y =>
     if y = 0 then x else if x = BitVec.ofNat 64 (2 ^ 63) ∧ y = BitVec.allOnes 64 then 0
     else BitVec.ofInt 64 (x.toInt - x.toInt.tdiv y.toInt * y.toInt)),
   (.divn d a b ta tb, fun x y => if y = 0 then BitVec.allOnes 64 else word (x.toNat / y.toNat)),
   (.remn d a b ta tb, fun x y => if y = 0 then x else word (x.toNat % y.toNat))]

/-- The compare branches and when they are taken (R327). -/
def branches (a b : Opd) (off : BitVec 12) : List (Instr × (Word → Word → Prop)) :=
  [(.beq a b off, fun x y => x = y),
   (.bne a b off, fun x y => x ≠ y),
   (.blt a b off, fun x y => x.toInt < y.toInt),
   (.bge a b off, fun x y => y.toInt ≤ x.toInt),
   (.blo a b off, fun x y => x.toNat < y.toNat),
   (.bhs a b off, fun x y => y.toNat ≤ x.toNat)]

/-- The scalar register instructions that move on by one and give D a result, now or with a later fill, each with the sources it reads. -/
def scalarForms (d a b : Opd) (ta tb : Bool) (imm : BitVec 11) (sh : BitVec 6) (im : BitVec 18) (sc : BitVec 4) (t u : Ty) :
    List (Instr × List Opd) :=
  (intBinary d a b ta tb).map (fun p => (p.1, [a, b])) ++ (divTable d a b ta tb).map (fun p => (p.1, [a, b])) ++
    (bitOps d a ta).map (fun p => (p.1, [a])) ++ (immOps d a ta imm sh).map (fun p => (p.1, [a])) ++
    [(.ldi d im, []), (.ldk d im, [d]), (.addpc d im, []), (.lea d a b ta tb sc, [a, b]), (.sel d a b ta tb, [48, a, b]),
     (.sigget d a ta, [a]), (.sigset d a b ta tb, [a, b]), (.fadd d a b ta tb t, [a, b]), (.fsub d a b ta tb t, [a, b]),
     (.fmul d a b ta tb t, [a, b]), (.fdiv d a b ta tb t, [a, b]), (.fsqrt d a ta t, [a]), (.fma d a b ta tb t, [a, b, d]),
     (.fms d a b ta tb t, [a, b, d]), (.fnma d a b ta tb t, [a, b, d]), (.fmin d a b t, [a, b]), (.fmax d a b t, [a, b]),
     (.feq d a b t, [a, b]), (.flt d a b t, [a, b]), (.fle d a b t, [a, b]), (.funord d a b t, [a, b]), (.fcvt d a ta t u, [a]),
     (.fclass d a ta t, [a]), (.fcps d a b t, [a, b]), (.fneg d a t, [a]), (.fabs d a t, [a]), (.fscl d a b ta tb t, [a, b]),
     (.frnd d a t, [a])]

/-- The vector instructions that give VD a result, now or with a later fill: the vector registers and the scalar codes each reads. -/
def vectorForms (d a b : VIdx) (m : MIdx) (x y : Opd) (t u : Ty) : List (Instr × List VIdx × List Opd) :=
  [(.vadd d a b m t, [a, b, d], []), (.vsub d a b m t, [a, b, d], []), (.vmul d a b m t, [a, b, d], []), (.vfma d a b m t, [a, b, d], []),
   (.vmin d a b m t, [a, b, d], []), (.vmax d a b m t, [a, b, d], []), (.vand d a b m t, [a, b, d], []), (.vor d a b m t, [a, b, d], []),
   (.vxor d a b m t, [a, b, d], []), (.vnot d a m t, [a, d], []), (.vshl d a b m t, [a, b, d], []), (.vshr d a b m t, [a, b, d], []),
   (.vsra d a b m t, [a, b, d], []), (.vsel d a b m t, [a, b, d], []), (.vdiv d a b m t, [a, b, d], []), (.vsqrt d a m t, [a, d], []),
   (.vrsq d a m t, [a, d], []), (.vabs d a m t, [a, d], []), (.vneg d a m t, [a, d], []), (.vcvt d a t m u, [a, d], []),
   (.vperm d a b m t, [a, b, d], []), (.vbcast d x m t, [d], [x]), (.vins d x y t, [d], [x, y]), (.vsigset d a x m, [a, d], [x]),
   (.vscla d a b m t, [a, b, d], []), (.vsclab d a b m t, [a, b, d], [])]

/-- The vector instructions that give a scalar register a result. -/
def vectorToScalar (d x : Opd) (a : VIdx) (k m : MIdx) (op : RedOp) (t : Ty) : List (Instr × List VIdx × List Opd) :=
  [(.vred op a d m t, [a], []), (.vmovx d a x t, [a], [x]), (.mpop d k t, [], []), (.vsigmin d a m, [a], [])]

/-! ## Accesses -/

/-- The loads with their size in bytes and whether they are signed (R387). -/
def loads (d a : Opd) (ta : Bool) (imm : BitVec 11) : List (Instr × Nat × Bool) :=
  [(.ld8 d a ta imm, 1, true), (.ld8n d a ta imm, 1, false), (.ld16 d a ta imm, 2, true), (.ld16n d a ta imm, 2, false),
   (.ld32 d a ta imm, 4, true), (.ld32n d a ta imm, 4, false), (.ld64 d a ta imm, 8, false)]

/-- The stores with their size in bytes (R387). -/
def stores (d a : Opd) (ta : Bool) (imm : BitVec 11) : List (Instr × Nat) :=
  [(.st8 d a ta imm, 1), (.st16 d a ta imm, 2), (.st32 d a ta imm, 4), (.st64 d a ta imm, 8)]

/-- The atomics of 0x5C with their FN and size in bytes (R391). -/
def amos (d a b : Opd) (ta tb : Bool) : List (Instr × BitVec 4 × Nat) :=
  [(.amoAdd d a b ta tb, 0, 8), (.amoAnd d a b ta tb, 1, 8), (.amoOr d a b ta tb, 2, 8), (.amoXor d a b ta tb, 3, 8),
   (.amoMin d a b ta tb, 4, 8), (.amoMax d a b ta tb, 5, 8), (.amoMinn d a b ta tb, 6, 8), (.amoMaxn d a b ta tb, 7, 8),
   (.amoSwap d a b ta tb, 8, 8), (.amoFadd32 d a b ta tb, 9, 4), (.amoFadd64 d a b ta tb, 10, 8)]

/-- An address of the own core's TCM with n bytes there, none poisoned (R170, R172). -/
def OwnWord (s : State) (va n : Nat) : Prop :=
  s.core.gcore < 12288 ∧ va + n ≤ 0x20000 ∧ poisoned s (tcmPa s.core.gcore va) = false

/-- Nothing holds an access of the issuing strand: no acquire, before and after its sources are read, no FULL fence, no store of its own
buffered, no request of its own outstanding, and no relaxed load of its own served from an entry still on its way (R208). -/
def NothingHolds (s s1 : State) : Prop :=
  acquireHolds s s.cur = false ∧ acquireHolds s1 s1.cur = false ∧ s1.st.sb = [] ∧ (∀ r ∈ s1.core.reqs, r.strand ≠ s1.cur) ∧
    servedHolds s1 s1.cur = false

/-- The store buffer takes n more stores (R73, R201); its size is left open (log 38). -/
def BufferRoom (s : State) (n : Nat) : Prop := s.st.sb = [] ∨ s.st.sb.length + n ≤ Config.storeBuffer

/-- A loaded value: z bytes, little-endian, sign- or zero-extended (R387). -/
def loaded (s : State) (pa z : Nat) (signed : Bool) : Word :=
  if signed then (BitVec.ofNat (8 * z) (bytesAt s pa z)).signExtend 64 else word (bytesAt s pa z)

/-- A tag byte as a register takes it, absent bytes as 64 (R162). -/
def tagLoaded (b : BitVec 8) : Nat := if b.toNat % 128 ≤ 64 then b.toNat % 128 else 64

/-! ## Float and vector instructions -/

/-- No SIGLOSS can be taken: THR is zero or the strand is in kernel mode (R159). -/
def NoLoss (s : State) : Prop := s.st.thr = 0 ∨ s.st.kernel = true

/-- The two-source float instructions and their functions (R358). -/
def floats2 (d a b : Opd) (ta tb : Bool) (t : Ty) : List (Instr × (Fmt → RMode → FOp → FOp → FRes)) :=
  [(.fadd d a b ta tb t, fAdd), (.fsub d a b ta tb t, fSub), (.fmul d a b ta tb t, fMul)]

/-- The FMA forms: is the product negated, is the addend (R358)? -/
def floats3 (d a b : Opd) (ta tb : Bool) (t : Ty) : List (Instr × Bool × Bool) :=
  [(.fma d a b ta tb t, false, false), (.fms d a b ta tb t, false, true), (.fnma d a b ta tb t, true, false)]

/-- The compares and their relations (R360). -/
def floatCompares (d a b : Opd) (t : Ty) : List (Instr × (FVal → FVal → Bool × FFlags)) :=
  [(.feq d a b t, fEq), (.flt d a b t, fLt), (.fle d a b t, fLe), (.funord d a b t, fUn)]

/-- A register's low bits and tag as an operand of type t (R357, R99). -/
def operandOf (t : Ty) (r : Reg) : FOp := fop (fmtOf t) r.val.toNat r.tag.val

/-- What a vector instruction leaves alone: memory, the rest of the machine, every scalar register and queue but those named, special
registers but FPFLAGS, the masks, and every vector register but VD. -/
def VectorFrame (s t : State) (d : VIdx) (codes : List Opd) : Prop :=
  SameMemory s t ∧ SameAround s t ∧ specialsButFlags t.st = specialsButFlags s.st ∧ t.st.m = s.st.m ∧ SameScalars s t toNone codes ∧
    ∀ n : Fin 32, n ≠ d.toFin → t.st.v[n] = s.st.v[n]

/-- Element-wise merging: active elements take the result, the others keep the old register's (R351). -/
def Merged (t : Ty) (mask : Word) (old new : Lanes) (res : Nat → Nat) : Prop :=
  ∀ j, j < 512 / t.width →
    elem new.bits t.width j = if active mask t.width j then res j % 2 ^ t.width else elem old.bits t.width j

/-- The two-source integer forms on elements of width w (R367, R368). -/
def vecInts2 (d a b : VIdx) (m : MIdx) (t : Ty) : List (Instr × (Nat → Nat → Nat)) :=
  let w := t.width
  let low := fun (x y : Nat) => if t.isSigned then decide ((BitVec.ofNat w x).toInt ≤ (BitVec.ofNat w y).toInt) else decide (x ≤ y)
  [(.vadd d a b m t, fun x y => x + y), (.vsub d a b m t, fun x y => x + (2 ^ w - y)), (.vmul d a b m t, fun x y => x * y),
   (.vmin d a b m t, fun x y => if low x y then x else y), (.vmax d a b m t, fun x y => if low x y then y else x),
   (.vand d a b m t, fun x y => x &&& y), (.vor d a b m t, fun x y => x ||| y), (.vxor d a b m t, fun x y => x ^^^ y),
   (.vshl d a b m t, fun x y => x * 2 ^ (y % w)), (.vshr d a b m t, fun x y => x / 2 ^ (y % w)),
   (.vsra d a b m t, fun x y => ((BitVec.ofNat w x).sshiftRight (y % w)).toNat)]

/-- The one-source integer forms (R367, R368). -/
def vecInts1 (d a : VIdx) (m : MIdx) (t : Ty) : List (Instr × (Nat → Nat)) :=
  let w := t.width
  [(.vnot d a m t, fun x => 2 ^ w - 1 - x), (.vabs d a m t, fun x => (BitVec.ofNat w x).toInt.natAbs), (.vneg d a m t, fun x => 2 ^ w - x)]

/-- The two-source float forms (R367). -/
def vecFloats2 (d a b : VIdx) (m : MIdx) (t : Ty) : List (Instr × (RMode → Lanes → Lanes → Nat → FRes)) :=
  [(.vadd d a b m t, fun rm x y j => fAdd (fmtOf t) rm (fopAt x t j) (fopAt y t j)),
   (.vsub d a b m t, fun rm x y j => fSub (fmtOf t) rm (fopAt x t j) (fopAt y t j)),
   (.vmul d a b m t, fun rm x y j => fMul (fmtOf t) rm (fopAt x t j) (fopAt y t j)),
   (.vmin d a b m t, fun _ x y j => fMinMax (fmtOf t) false (elem x.bits t.width j) (elem y.bits t.width j)
     (groupTagAt x t.width j) (groupTagAt y t.width j)),
   (.vmax d a b m t, fun _ x y j => fMinMax (fmtOf t) true (elem x.bits t.width j) (elem y.bits t.width j)
     (groupTagAt x t.width j) (groupTagAt y t.width j))]

/-! ## Engine commands -/

/-- Every byte, tag byte and poison mark of the words not listed reads as before, and every full/empty bit does. -/
def SameWordsBut (s t : State) (ws : List Nat) : Prop :=
  ∀ pa, feAt t pa = feAt s pa ∧
    ((∀ w ∈ ws, pa / 8 ≠ w / 8) → dataAt t pa = dataAt s pa ∧ tagByteAt t pa = tagByteAt s pa ∧ poisoned t pa = poisoned s pa)

/-- A tile command at the head holds the engine for its cycles, longer only when an operand is in the scratchpad (R180, R415), and its
handle fills 2 cycles after the last one. -/
def TileEnds (s t : State) (c : EngCmd) (cycles : Nat) (st : Completion) : Prop :=
  ∃ n, cycles ≤ n ∧ (descKind c.w1 ≠ 2 → descKind c.w2 ≠ 2 → descKind c.w3 ≠ 2 → n = cycles) ∧
    t.core.tile.till = some (s.now + n) ∧ (s.now + n, Act.tileFrontEndAccept) ∈ t.agenda ∧
    (s.now + n + 1, Act.completion c.handle st) ∈ t.agenda

/-- The strands after a command: its own has the flags the command raised, unless its cell has ended (R74, R143). -/
def CmdFlags (s t : State) (c : EngCmd) (fl : FFlags) : Prop :=
  ∀ k, t.strand k = if k = c.strand ∧ (s.core.table[c.handle]).dead = false then (s.strand k).raiseFlags fl else s.strand k

/-- What a tile command leaves alone beside memory and accumulators. -/
def TileAround (s t : State) : Prop :=
  t.now = s.now ∧ t.core.queues = s.core.queues ∧ t.core.bars = s.core.bars ∧ t.core.send = s.core.send ∧ t.core.recv = s.core.recv ∧
    t.core.tile.queue = s.core.tile.queue ∧ t.core.tile.pend = s.core.tile.pend ∧ t.clu = s.clu ∧ t.die = s.die ∧ t.fab = s.fab ∧
    t.hbm = s.hbm ∧ t.hub = s.hub

/-- The accumulators after a command that writes operand w: element (i, j) and the row tags, which are the least of the row's (R420); the
other accumulators are as before. -/
def AccHolds (s t : State) (fmt : Nat) (w : Word) (f : Fin 32 → Fin 32 → FRes) : Prop :=
  (∀ i j, ((t.core.acc[accIx w 0]).rows[i])[j] = BitVec.ofNat 32 (f i j).bits) ∧
    (∀ i, (t.core.acc[accIx w 0]).tags[i] = Tag.ofNat (((List.finRange 32).map fun j => (f i j).tag).foldl min 64)) ∧
    (fmt = 8 → ∀ i j, ((t.core.acc[accIx w 1]).rows[i])[j] = BitVec.ofNat 32 ((f i j).bits / 2 ^ 32)) ∧
    ∀ a : Fin 8, a ≠ accIx w 0 → (fmt = 8 → a ≠ accIx w 1) → t.core.acc[a] = s.core.acc[a]

/-- Consecutive words of an operand hold packed elements; a TCM word has the least tag of its elements (R420). -/
def WordsStored (t : State) (w : Word) (offs : Nat → Nat) (ws : List (Nat × Nat)) : Prop :=
  ∀ k v, ws[k]? = some v → wordAt t (kindPa t w (offs k)) = word v.1 ∧
    (descKind w = 1 → tagByteAt t (kindPa t w (offs k)) = BitVec.ofNat 8 v.2)

/-- A tile command whose checks pass: the header, and KIND, ranges and alignment of its operands (R495, R496). -/
def CmdFits (c : EngCmd) (allowed : Nat) (fmts : Bool) (operands : List Bool) : Prop :=
  headerBad c allowed = false ∧ fmts = true ∧ (∀ b ∈ operands, b = false) ∧
    (∀ w ∈ [c.w1, c.w2, c.w3], baseOff w = false)

/-- The commands of the tile engine. -/
def tileCommands (c : EngCmd) : List Instr :=
  [.tld c, .tst c, .tzero c, .tmma c, .tscal c, .tcvt c, .ttrn c, .tadd c, .tsig c, .gacc c, .gsub c, .gschur c, .gdamp c, .gmean c]

end Sys2Proof.Claims
end

