-- ==== Sys2Proof/Certificates/Slice0/Obligations.lean ====
section
/-! DEFINITION. The statements for the provers, each formalising what the manual's rules say; its docstring names them. -/

open Sys2Proof Sys2Proof.Machine Sys2Proof.Claims

/-! ## The machine as a whole -/

/-- R290, R480, R489, R492: when nothing is due and no trap or interrupt comes first, the strand that has the slot fetches the four bytes at its
PC, lowest address in the lowest byte, from a home that a load of its own may reach; when they decode, the step is that instruction's exec, and
then the cycle ends. That acts due come before the issue is the model's (log 2). -/
def Obligations.StepRunsTheDecodedInstruction : Prop :=
  ∀ (s t : State) (k : Fin 16) (x : Xlat) (i : Instr),
    takeDue s = none → trapDue (prepare s) = none → issuer (prepare s) = some k →
    translate (prepare s) k ((prepare s).strand k).pc.toNat .fetch = .ok x →
    homeStop (prepare s) k x.pa .vector = none → poisoned (prepare s) x.pa = false →
    decode (byteAt (prepare s) (x.pa + 3) ++ byteAt (prepare s) (x.pa + 2) ++ byteAt (prepare s) (x.pa + 1) ++ byteAt (prepare s) x.pa) =
      .ok i →
    exec i (issuing (prepare s) k
      (byteAt (prepare s) (x.pa + 3) ++ byteAt (prepare s) (x.pa + 2) ++ byteAt (prepare s) (x.pa + 1) ++ byteAt (prepare s) x.pa)) =
      .next t →
    step s = .next (tick (prepare s) t)

/-- R290-R300: encoding a well-formed instruction and decoding the word gives the instruction back, with every operand. -/
def Obligations.DecodeOfEncodeIsTheInstruction : Prop :=
  ∀ (i : Instr) (w : BitVec 32), i.wf = true → encode i = .ok w → decode w = .ok i

/-- R295, R301, R483, R484: a word that decodes is the one encoding of a well-formed instruction, so no field is ignored. -/
def Obligations.DecodedWordsAreCanonical : Prop :=
  ∀ (w : BitVec 32) (i : Instr), decode w = .ok i → i.wf = true ∧ encode i = .ok w

/-- Words that the manual writes out (R295, R322, R327, R333, R340 and the tables of the instruction chapters). -/
def Obligations.WordsOfTheManualDecode : Prop :=
  decode 0x0128_8240 = .ok (.add 10 8 9 false false) ∧
  decode 0x4E24_4002 = .ok (.ld64 9 4 false 2) ∧
  decode 0x8028_92E9 = .ok (.fadd 10 9 11 true false .f32) ∧
  decode 0x292B_1FFE = .ok (.bne 10 49 0xFFE) ∧
  decode 0x3100_0010 = .ok (.call 0x10) ∧
  decode 0x34C7_1C40 = .ok .ret ∧
  decode 0x3FC7_1102 = .ok (.fenceRel .device) ∧
  decode 0x5D28_42C0 = .ok (.cas 10 4 11 false false false) ∧
  decode 0x6320_4464 = .ok (.vfma 4 1 2 1 .f32) ∧
  decode 0x9051_31C5 = .ok (.issueCopy 20 4 49 49) ∧
  decode 0x0000_0000 = .error .opcode ∧ decode 0x3FC7_1181 = .error .function ∧ decode 0x1C20_8040 = .error .reserved ∧
  decode 0x8028_8243 = .error .type

/-- The three planes of memory keep their canonical form under every step: addresses rising, and no entry that says what an unlisted address
reads as. The form is the model's own (log 4). -/
def Obligations.StepKeepsMemoryCanonical : Prop :=
  ∀ s t : State, Memory.wf s = true → step s = .next t → Memory.wf t = true

/-- The planes have that form at reset. The form is the model's own (log 4). -/
def Obligations.ResetMemoryIsCanonical : Prop :=
  Memory.wf State.reset = true

/-- R118, R271, R273, R546: what reset leaves where the manual gives a value. Storage is clear and full with absent tags; no strand holds a
context; WINSTATE has one resident frame and AGELIM 256; the watchdog counts 0x1000 wheels. -/
def Obligations.ResetLeaves : Prop :=
  State.reset.now = 0 ∧
  (∀ k, (State.reset.strand k).run = .absent ∧ specials (State.reset.strand k) =
    [0, 0, 0, 0, 0, 0, 0, 0, 0, 0, 0, 0x10, 0, 0, 0, 0]) ∧
  (∀ k l, (State.reset.strand k).reg l = ⟨0, Tag.full, true, none⟩) ∧
  (∀ pa, tagByteAt State.reset pa = 0x7F ∧ feAt State.reset pa = true ∧ poisoned State.reset pa = false) ∧
  State.reset.core.agelim = 256 ∧ State.reset.core.queues = Vector.replicate 8 [] ∧
  (∀ e : Fin 128, (State.reset.core.table[e]).state = .free) ∧
  (0x1000 * 256, Act.pwdogExpiry) ∈ State.reset.agenda ∧ ∀ e ∈ State.reset.agenda, 0 < e.1

/-! ## Operands -/

/-- R294, R101, R97, R83, R481, R112, R206: what reading a source does. A full register gives its content; the first read of one that holds a
filled handle frees the entry and begins an acquire, and stalls while that would write lines through into a full write-back queue. zr gives
zero. A queue gives its head and loses it. An empty operand parks, or in trap form is reported. -/
def Obligations.SourcesRead : Prop :=
  ∀ (s : State) (c : Opd) (trap : Bool),
    (∀ l, locOf s.st.frm c = some l →
      ((s.st.reg l).full = false → readSrc s c trap = .error (if trap then .empty c.toNat else .park (.register c.toNat))) ∧
      ((s.st.reg l).full = true → ∀ e : Fin 128, (s.st.reg l).bind = some (.handle e) → ¬ ThroughRoom s →
        readSrc s c trap = .error (.stall .writeBackFull)) ∧
      ((s.st.reg l).full = true → ((∀ e, (s.st.reg l).bind ≠ some (.handle e)) ∨ ThroughRoom s) →
        ∃ t, readSrc s c trap = .ok (⟨(s.st.reg l).val, (s.st.reg l).tag, true, none⟩, t) ∧
          ((∀ e, (s.st.reg l).bind ≠ some (.handle e)) → t = s) ∧
          ∀ e : Fin 128, (s.st.reg l).bind = some (.handle e) →
            (t.core.table[e]).state = .free ∧ (t.core.table[e]).gen = (s.core.table[e]).gen + 1 ∧ t.st.acq.isSome = true)) ∧
    (c = 49 → readSrc s c trap = .ok (⟨0, Tag.full, true, none⟩, s)) ∧
    (∀ q, queueOf c = some q →
      (∀ r rest, s.core.queues[q] = r :: rest → r.full = true →
        readSrc s c trap = .ok (r, s.withCore fun x => { x with queues := x.queues.set q rest })) ∧
      ((s.core.queues[q] = [] ∨ ∃ r rest, s.core.queues[q] = r :: rest ∧ r.full = false) →
        readSrc s c trap = .error (if trap then .empty c.toNat else .park (.queueEmpty q))))

/-- R96, R97, R83, R100: what writing a result does. D takes the register and lat the same; a D of zr discards it and a D of lat writes lat
alone; a queue takes it at the tail, and a full one parks; a register that waits for a fill parks. -/
def Obligations.ResultsWritten : Prop :=
  ∀ (s : State) (d : Opd) (r : Reg),
    (∀ l, locOf s.st.frm d = some l →
      ((s.st.reg l).full = false → (s.st.reg l).bind.isSome = true → writeDest s d r = .error (.park (.register d.toNat))) ∧
      (((s.st.reg l).full = true ∨ (s.st.reg l).bind = none) →
        ∃ t, writeDest s d r = .ok t ∧ t.st.reg l = r ∧ t.st.lat = r ∧ ScalarFrame s t (toDest s d) [])) ∧
    (d = 49 → ∃ t, writeDest s d r = .ok t ∧ t.st.lat = r ∧ ScalarFrame s t (toDest s d) []) ∧
    (∀ q, queueOf d = some q →
      ((s.core.queues[q]).length < 8 → ∃ t, writeDest s d r = .ok t ∧ t.core.queues[q] = s.core.queues[q] ++ [r] ∧ t.st.lat = r ∧
        ScalarFrame s t (toDest s d) [d]) ∧
      (8 ≤ (s.core.queues[q]).length → writeDest s d r = .error (.park (.queueFull q))))

/-- R479-R481, R485, R464, R78, R268: how a format A integer instruction that cannot issue ends. A reserved code freezes the strand with
OPERAND and the field's number, D first; an empty blocking source parks it; an empty trap-form source takes the local trap with TEPC at the
instruction. Nothing is read or written. R96, R290, R319, R322, R353, R357: with its sources full and D free, every scalar register
instruction completes, whatever values it reads: it moves on by one and changes D, lat, FPFLAGS and the queues it names alone. These are ADD
SUB AND OR XOR SLL SRL SRA MUL MULH MULHN MULHSN MIN MAX MINN MAXN SLT SLTN SEQ SNE ROL ROR, DIV DIVN REM REMN, CLZ CTZ POPC BREV BSWAP,
the immediate forms, LDI LDK ADDPC LEA, SEL SIGGET SIGSET, and the scalar float instructions. -/
def Obligations.OperandsThatStopAnInstruction : Prop :=
  (∀ (s : State) (d a b : Opd) (ta tb : Bool) (i : Instr) (f : Word → Word → Word), (i, f) ∈ intBinary d a b ta tb →
    (legalCode d = false → exec i s = .next (freeze s s.cur 0x04 false s.st.pc 0 0 s.word)) ∧
    (legalCode d = true → legalCode a = false → exec i s = .next (freeze s s.cur 0x04 false s.st.pc 0 1 s.word)) ∧
    (legalCode d = true → legalCode a = true → legalCode b = false → exec i s = .next (freeze s s.cur 0x04 false s.st.pc 0 2 s.word)) ∧
    (legalCode d = true → legalCode a = true → legalCode b = true →
      (∀ w, readSrc s a ta = .error (.park w) → exec i s = .next (s.setRun s.cur (.parked w))) ∧
      (∀ n, readSrc s a ta = .error (.empty n) →
        ∃ t, exec i s = .next t ∧ t.st.tepc = s.st.pc.zeroExtend 64 ∧ t.st.tcause = 2 ∧ t.st.tval = word n ∧ t.st.pc = pcOf s.st.tvec ∧
          t.st.kernel = true ∧ SameMemory s t ∧ SameAround s t ∧ SameScalars s t toNone []))) ∧
  ∀ (s : State) (d a b : Opd) (ta tb : Bool) (imm : BitVec 11) (sh : BitVec 6) (im : BitVec 18) (sc : BitVec 4) (ty u : Ty) (i : Instr)
    (cs : List Opd), (i, cs) ∈ scalarForms d a b ta tb imm sh im sc ty u → i.wf = true → SourcesFull s cs → DestFree s d → NoLoss s →
    ∃ t, exec i s = .next t ∧ t.st.pc = s.st.pc + 4 ∧ specialsButFlags t.st = specialsButFlags s.st ∧ t.st.v = s.st.v ∧ t.st.m = s.st.m ∧
      SameMemory s t ∧ SameAround s t ∧ SameScalars s t (toDest s d) (d :: cs)

/-- R79, R100: a fill reaches every register of the strand that is bound to it and still empty, and no other. -/
def Obligations.FillsReachTheirRegisters : Prop :=
  ∀ (s : State) (k : Fin 16) (n : Nat) (v : Word) (g : Tag) (l : Loc),
    ((s.strand k).spilled = [] →
      ((fillReg s k n v g).strand k).reg l =
        if ((s.strand k).reg l).bind = some (.fill n) ∧ ((s.strand k).reg l).full = false then ⟨v, g, true, none⟩ else (s.strand k).reg l)

/-! ## Scalar integer instructions -/

/-- R321: the results of opcodes 0x01-0x0F and 0x12; the frame of the family; an FN that is not listed is no instruction, and neither is a
word of opcode 0x0F whose S2 field is not 49 or whose EB [4] is 1. -/
def Obligations.IntegerResults : Prop :=
  (∀ (s s2 t : State) (d a b : Opd) (ta tb : Bool) (x y : Reg) (i : Instr) (f : Word → Word → Word),
    (i, f) ∈ intBinary d a b ta tb → legalCode d = true → legalCode a = true → legalCode b = true →
    read2 s a b ta tb = .ok (x, y, s2) → writeDest s2 d ⟨f x.val y.val, Tag.full, true, none⟩ = .ok t →
    exec i s = .next (retire t) ∧ ScalarFrame s (retire t) (toDest s d) [d, a, b]) ∧
  (∀ (s s1 t : State) (d a : Opd) (ta : Bool) (x : Reg) (i : Instr) (f : Word → Word),
    (i, f) ∈ bitOps d a ta → legalCode d = true → legalCode a = true →
    readSrc s a ta = .ok (x, s1) → writeDest s1 d ⟨f x.val, Tag.full, true, none⟩ = .ok t →
    exec i s = .next (retire t) ∧ ScalarFrame s (retire t) (toDest s d) [d, a]) ∧
  ∀ w : BitVec 32,
    let op := (w.extractLsb' 24 8).toNat
    let fn := (w.extractLsb' 0 4).toNat
    let listed := if op = 0x0A then 3 else if op = 0x0D ∨ op = 0x0E then 4 else if op = 0x0F then 5 else if op = 0x12 then 2 else 1
    (1 ≤ op ∧ op ≤ 0x0F ∨ op = 0x12) → op ≠ 0x0B → op ≠ 0x0C →
      (listed ≤ fn → decode w = .error .function) ∧
      (op = 0x0F → fn < listed → (w.extractLsb' 6 6 ≠ 49 ∨ w.getLsbD 4 = true) → decode w = .error .unused)

/-- R323: the immediate forms; a shift whose IMM [10:6] is not zero is no instruction. R324, R325: LDI, LDK, ADDPC and LEA. -/
def Obligations.ImmediatesConstantsAndLea : Prop :=
  ((∀ (s s1 t : State) (d a : Opd) (ta : Bool) (imm : BitVec 11) (sh : BitVec 6) (x : Reg) (i : Instr) (f : Word → Word),
    (i, f) ∈ immOps d a ta imm sh → legalCode d = true → legalCode a = true →
    readSrc s a ta = .ok (x, s1) → writeDest s1 d ⟨f x.val, Tag.full, true, none⟩ = .ok t →
    exec i s = .next (retire t) ∧ ScalarFrame s (retire t) (toDest s d) [d, a]) ∧
  ∀ w : BitVec 32, w.extractLsb' 24 8 ∈ [0x1C, 0x1D, 0x1E] → w.extractLsb' 6 5 ≠ 0 → decode w = .error .reserved) ∧
  (∀ (s s1 t : State) (d a b : Opd) (ta tb : Bool) (imm : BitVec 18) (sh : BitVec 4) (x y : Reg), legalCode d = true →
    (writeDest s d ⟨imm.signExtend 64, Tag.full, true, none⟩ = .ok t →
      exec (.ldi d imm) s = .next (retire t) ∧ ScalarFrame s (retire t) (toDest s d) [d]) ∧
    (readSrc s d false = .ok (x, s1) → writeDest s1 d ⟨word (x.val.toNat * 2 ^ 18 + imm.toNat), Tag.full, true, none⟩ = .ok t →
      exec (.ldk d imm) s = .next (retire t) ∧ ScalarFrame s (retire t) (toDest s d) [d]) ∧
    (writeDest s d ⟨s.st.pc.zeroExtend 64 + 4 * imm.signExtend 64, Tag.full, true, none⟩ = .ok t →
      exec (.addpc d imm) s = .next (retire t) ∧ ScalarFrame s (retire t) (toDest s d) [d]) ∧
    (legalCode a = true → legalCode b = true → read2 s a b ta tb = .ok (x, y, s1) →
      writeDest s1 d ⟨word (x.val.toNat + y.val.toNat * 2 ^ sh.toNat), Tag.full, true, none⟩ = .ok t →
      exec (.lea d a b ta tb sh) s = .next (retire t) ∧ ScalarFrame s (retire t) (toDest s d) [d, a, b]))

/-- R322: a division empties D and lat, and the divide unit fills both exactly 18 cycles after the issue with the result of the table. R353,
R354: a scalar or vector division-type instruction empties its destination, and the float divide unit fills it exactly after the cycles of
the table; with THR nonzero the strand is stalled until then. The fill raises the flags. -/
def Obligations.DivisionsFillLater : Prop :=
  ((∀ (s s2 t : State) (d a b : Opd) (ta tb : Bool) (x y : Reg) (i : Instr) (f : Word → Word → Word),
    (i, f) ∈ divTable d a b ta tb → legalCode d = true → legalCode a = true → legalCode b = true →
    read2 s a b ta tb = .ok (x, y, s2) → writePending { s2 with ticket := s2.ticket + 1 } d s2.ticket = .ok t →
    exec i s = .next ((retire t).at (s.now + 18) (.intDivideFill s.cur s2.ticket (f x.val y.val))) ∧
    t.st.lat.full = false ∧ t.st.lat.bind = some (.fill s2.ticket) ∧
    (∀ l, locOf s.st.frm d = some l → (t.st.reg l).full = false ∧ (t.st.reg l).bind = some (.fill s2.ticket)) ∧
    ScalarFrame s (retire t) (toDest s d) [d, a, b]) ∧
  ∀ (s : State) (k : Fin 16) (n : Nat) (v : Word), exec (.intDivideFill k n v) s = .next (fillReg s k n v Tag.full)) ∧
  ((∀ (s s2 u : State) (d a b : Opd) (ta tb : Bool) (t : Ty) (x y : Reg) (n : Nat),
    (t, n) ∈ [(Ty.f64, 28), (.f32, 18), (.f16, 12), (.bf16, 12), (.f8a, 12), (.f8b, 12)] →
    legalCode d = true → legalCode a = true → legalCode b = true → read2 s a b ta tb = .ok (x, y, s2) →
    writePending { s2 with ticket := s2.ticket + 1 } d s2.ticket = .ok u →
    let r := fDiv (fmtOf t) s.st.rm (operandOf t x) (operandOf t y)
    ∃ v l, exec (.fdiv d a b ta tb t) s = .next v ∧ v.st.pc = s.st.pc + 4 ∧ v.st.lat.full = false ∧
      (s.now + n, Act.fpDivideFill s.cur s2.ticket ⟨word r.bits, Tag.ofNat r.tag, none, r.flags, l⟩) ∈ v.agenda ∧ (s.st.thr = 0 → l = none) ∧
      (s.st.thr ≠ 0 → v.st.run = .stalled (.division s2.ticket)) ∧ v.st.fpflags = s.st.fpflags ∧ SameMemory s v ∧
      SameScalars s v (toDest s d) [d, a, b]) ∧
  (∀ (s s1 u : State) (d a : Opd) (ta : Bool) (t : Ty) (x : Reg) (n : Nat),
    (t, n) ∈ [(Ty.f64, 28), (.f32, 18), (.f16, 12), (.bf16, 12), (.f8a, 12), (.f8b, 12)] →
    legalCode d = true → legalCode a = true → readSrc s a ta = .ok (x, s1) →
    writePending { s1 with ticket := s1.ticket + 1 } d s1.ticket = .ok u →
    let r := fSqrt (fmtOf t) s.st.rm (operandOf t x)
    ∃ v l, exec (.fsqrt d a ta t) s = .next v ∧ v.st.pc = s.st.pc + 4 ∧ v.st.lat.full = false ∧
      (s.now + n, Act.fpDivideFill s.cur s1.ticket ⟨word r.bits, Tag.ofNat r.tag, none, r.flags, l⟩) ∈ v.agenda ∧ (s.st.thr = 0 → l = none) ∧
      v.st.fpflags = s.st.fpflags ∧ SameMemory s v ∧ SameScalars s v (toDest s d) [d, a]) ∧
  (∀ (s : State) (d a b : VIdx) (m : MIdx) (t : Ty) (x y old : Lanes) (n : Nat) (i : Instr) (f : Nat → FRes),
    (t, n) ∈ [(Ty.f64, 36), (.f32, 24), (.f16, 16), (.bf16, 16), (.f8a, 16), (.f8b, 16)] →
    readVec s a = .ok x → readVec s d = .ok old →
    ((i, f) = (Instr.vdiv d a b m t, fun j => fDiv (fmtOf t) s.st.rm (fopAt x t j) (fopAt y t j)) ∧ readVec s b = .ok y ∨
      (i, f) = (Instr.vsqrt d a m t, fun j => fSqrt (fmtOf t) s.st.rm (fopAt x t j)) ∨
      (i, f) = (Instr.vrsq d a m t, fun j => fRsq (fmtOf t) s.st.rm (fopAt x t j))) →
    ∃ v r, exec i s = .next v ∧ v.st.pc = s.st.pc + 4 ∧ (v.st.v[d.toFin]).full = false ∧
      (v.st.v[d.toFin]).bind = some s.ticket ∧ (s.now + n, Act.fpDivideFill s.cur s.ticket r) ∈ v.agenda ∧
      (∃ l, r.lanes = some l ∧ Merged t (maskOf s.st m) old l fun j => (f j).bits) ∧ VectorFrame s v d []) ∧
  ∀ (s : State) (k : Fin 16) (n : Nat) (r : DivResult),
    ∃ v, exec (.fpDivideFill k n r) s = .next v ∧ (v.strand k).fpflags = (s.strand k).fpflags ||| r.flags.zeroExtend 64 ∧
      (r.loss = none → (s.strand k).spilled = [] → r.lanes = none → ∀ l, ((s.strand k).reg l).bind = some (.fill n) → ((s.strand k).reg l).full = false →
        (v.strand k).reg l = ⟨r.val, r.tag, true, none⟩) ∧
      (∀ l j, r.lanes = some l → ((s.strand k).v[(j : Fin 32)]).bind = some n → ((s.strand k).v[j]).full = false →
        (v.strand k).v[j] = ⟨l, true, none⟩) ∧
      (∀ x, r.loss = some x → (s.strand k).run ≠ .frozen → (v.strand k).tcause = 1 ∧ (v.strand k).tval = x ∧
        (v.strand k).tepc = (s.strand k).pc.zeroExtend 64 ∧ (v.strand k).pc = pcOf (s.strand k).tvec) ∧
      ((s.strand k).run = .stalled (.division n) → (v.strand k).run = .ready))

/-- R326, R339: SEL delivers S1 when the latch it found is nonzero and S2 otherwise, with the tag delivered; SIGGET gives the tag S1
carried; SIGSET gives S1's value the tag min(S2, 64). R347: MOVP exchanges the two registers whole, bindings included, and lat takes what
went into D, full and unbound. -/
def Obligations.SelectTagsAndExchange : Prop :=
  ((∀ (s s0 s2 t : State) (d a b : Opd) (ta tb : Bool) (l x y : Reg), legalCode d = true → legalCode a = true → legalCode b = true →
    readSrc s 48 false = .ok (l, s0) → read2 s0 a b ta tb = .ok (x, y, s2) →
    writeDest s2 d ⟨(if l.val = 0 then y else x).val, (if l.val = 0 then y else x).tag, true, none⟩ = .ok t →
    exec (.sel d a b ta tb) s = .next (retire t) ∧ ScalarFrame s (retire t) (toDest s d) [d, a, b]) ∧
  (∀ (s s1 t : State) (d a : Opd) (ta : Bool) (x : Reg), legalCode d = true → legalCode a = true →
    readSrc s a ta = .ok (x, s1) → writeDest s1 d ⟨word x.tag.val, Tag.full, true, none⟩ = .ok t →
    exec (.sigget d a ta) s = .next (retire t) ∧ ScalarFrame s (retire t) (toDest s d) [d, a]) ∧
  (∀ (s s2 t : State) (d a b : Opd) (ta tb : Bool) (x y : Reg) (g : Tag), legalCode d = true → legalCode a = true → legalCode b = true →
    read2 s a b ta tb = .ok (x, y, s2) → g.val = min y.val.toNat 64 → writeDest s2 d ⟨x.val, g, true, none⟩ = .ok t →
    exec (.sigset d a b ta tb) s = .next (retire t) ∧ ScalarFrame s (retire t) (toDest s d) [d, a, b])) ∧
  (∀ (s : State) (d a : Opd) (ld la : Loc), handleCode d = true → handleCode a = true →
    locOf s.st.frm d = some ld → locOf s.st.frm a = some la →
    ∃ t, exec (.movp d a) s = .next t ∧ t.st.reg ld = s.st.reg la ∧ t.st.reg la = s.st.reg ld ∧
      t.st.lat = ⟨(s.st.reg la).val, (s.st.reg la).tag, true, none⟩ ∧ t.st.pc = s.st.pc + 4 ∧ t.core.table = s.core.table ∧
      ScalarFrame s t (fun l => l = .lat ∨ l = ld ∨ l = la) [])

/-! ## Control -/

/-- R327-R330: the compare branches, BSIG, BEMP, JMP and JMPR set the PC by their condition and write nothing. -/
def Obligations.BranchesSetThePc : Prop :=
  (∀ (s s2 : State) (a b : Opd) (off : BitVec 12) (x y : Reg) (i : Instr) (p : Word → Word → Prop), (i, p) ∈ branches a b off →
    legalCode a = true → legalCode b = true → read2 s a b false false = .ok (x, y, s2) →
    ∃ t, exec i s = .next t ∧ (p x.val y.val → t.st.pc = s.st.pc + 4 * off.signExtend 43) ∧ (¬ p x.val y.val → t.st.pc = s.st.pc + 4) ∧
      ScalarFrame s t toNone [a, b]) ∧
  (∀ (s s1 : State) (a : Opd) (thr : BitVec 6) (off : BitVec 12) (x : Reg), legalCode a = true → readSrc s a false = .ok (x, s1) →
    ∃ t, exec (.bsig a thr off) s = .next t ∧
      t.st.pc = (if x.tag.val < thr.toNat then s.st.pc + 4 * off.signExtend 43 else s.st.pc + 4) ∧ ScalarFrame s t toNone [a]) ∧
  (∀ (s : State) (a : Opd) (off : BitVec 12), legalCode a = true →
    ∃ t, exec (.bemp a off) s = .next t ∧
      t.st.pc = (if isEmptyOpd s a then s.st.pc + 4 * off.signExtend 43 else s.st.pc + 4) ∧ ScalarFrame s t toNone []) ∧
  (∀ (s : State) (off : BitVec 24),
    ∃ t, exec (.jmp off) s = .next t ∧ t.st.pc = s.st.pc + 4 * off.signExtend 43 ∧ ScalarFrame s t toNone []) ∧
  ∀ (s s1 : State) (a : Opd) (ta : Bool) (x : Reg), legalCode a = true → readSrc s a ta = .ok (x, s1) →
    x.val.extractLsb' 43 21 = 0 → x.val.extractLsb' 0 2 = 0 →
    ∃ t, exec (.jmpr a ta) s = .next t ∧ t.st.pc = x.val.setWidth 43 ∧ ScalarFrame s t toNone [a]

/-- R102, R331, R332: a call with fewer than seven resident frames and a return with more than one move no memory: FRM and RES move by one,
the call leaves PC + 4 in w15 of the new window and lat as it was, the return goes where w15 says. A link register that waits for a fill is
left out: there the call parks by the model's reading (log 37). R102-R105: a call with seven resident frames and room below LIMIT completes
too: it counts SPILLED up and spills the oldest frame to the record SPILLED at WINBASE.BASE, value, tag byte and full/empty bit of each of
its sixteen entries; a return past the last resident frame counts SPILLED down and fills that record back; a move whose record an earlier
access of the strand still covers waits for it. CALL, CALLR and RET so complete at every count of resident frames. -/
def Obligations.CallsWindowsAndRecords : Prop :=
  ((∀ (s s1 : State) (a : Opd) (ta : Bool) (x : Reg) (off : BitVec 24), fld s.st.winstate 6 4 < 7 → fld s.st.winstate 3 0 < 15 →
    let link := Loc.ring (ringIx (fld s.st.winstate 3 0) 31)
    (((s.st.reg link).full = true ∨ (s.st.reg link).bind = none) →
      ∃ t, exec (.call off) s = .next t ∧ t.st.pc = s.st.pc + 4 * off.signExtend 43 ∧
        fld t.st.winstate 3 0 = (fld s.st.winstate 3 0 + 1) % 15 ∧ fld t.st.winstate 6 4 = fld s.st.winstate 6 4 + 1 ∧
        fld t.st.winstate 31 16 = fld s.st.winstate 31 16 ∧ locOf t.st.frm 15 = some link ∧
        t.st.reg link = ⟨(s.st.pc + 4).zeroExtend 64, Tag.full, true, none⟩ ∧ SameMemory s t ∧ SameAround s t ∧
        SameScalars s t (· = link) []) ∧
    (legalCode a = true → readSrc s a ta = .ok (x, s1) → x.val.extractLsb' 43 21 = 0 → x.val.extractLsb' 0 2 = 0 →
      ((s1.st.reg link).full = true ∨ (s1.st.reg link).bind = none) →
      ∃ t, exec (.callr a ta) s = .next t ∧ t.st.pc = x.val.setWidth 43 ∧
        fld t.st.winstate 3 0 = (fld s.st.winstate 3 0 + 1) % 15 ∧ fld t.st.winstate 6 4 = fld s.st.winstate 6 4 + 1 ∧
        t.st.reg link = ⟨(s.st.pc + 4).zeroExtend 64, Tag.full, true, none⟩ ∧ SameMemory s t ∧ SameAround s t ∧
        SameScalars s t (· = link) [a])) ∧
  (∀ (s s1 : State) (x : Reg), 1 < fld s.st.winstate 6 4 → fld s.st.winstate 3 0 < 15 → readSrc s 15 false = .ok (x, s1) →
    x.val.extractLsb' 43 21 = 0 → x.val.extractLsb' 0 2 = 0 →
    ∃ t, exec .ret s = .next t ∧ t.st.pc = x.val.setWidth 43 ∧ fld t.st.winstate 3 0 = (fld s.st.winstate 3 0 + 14) % 15 ∧
      fld t.st.winstate 6 4 = fld s.st.winstate 6 4 - 1 ∧ fld t.st.winstate 31 16 = fld s.st.winstate 31 16 ∧ SameMemory s t ∧
      SameAround s t ∧ SameScalars s t toNone []) ∧
  (∀ (s : State) (a : Opd) (ta : Bool) (off : BitVec 24) (i : Instr) (x : Reg) (s1 : State) (pc : Addr),
    (i = .call off ∧ s1 = s ∧ pc = s.st.pc + 4 * off.signExtend 43 ∨
      i = .callr a ta ∧ legalCode a = true ∧ readSrc s a ta = .ok (x, s1) ∧ x.val.extractLsb' 43 21 = 0 ∧ x.val.extractLsb' 0 2 = 0 ∧
        pc = x.val.setWidth 43) →
    fld s.st.winstate 6 4 = 7 → fld s.st.winstate 3 0 < 15 → acquireHolds s s.cur = false → acquireHolds s1 s1.cur = false →
    s.st.run ≠ .frozen → fld s.st.winbase 16 0 + 128 * fld s.st.winstate 31 16 + 128 ≤ fld s.st.winbase 48 32 →
    let link := Loc.ring (ringIx (fld s.st.winstate 3 0) 31)
    ((s1.st.reg link).full = true ∨ (s1.st.reg link).bind = none) →
    ∃ t u, exec i s = .next t ∧ t.st.pc = pc ∧ fld t.st.winstate 3 0 = (fld s.st.winstate 3 0 + 1) % 15 ∧ fld t.st.winstate 6 4 = 7 ∧
      fld t.st.winstate 31 16 = (fld s.st.winstate 31 16 + 1) % 2 ^ 16 ∧
      t.st.reg link = ⟨(s.st.pc + 4).zeroExtend 64, Tag.full, true, none⟩ ∧
      u = s1.mod (·.setReg link ⟨(s.st.pc + 4).zeroExtend 64, Tag.full, true, none⟩) ∧
      (recordBusy s1 s.cur s1.st (fld s.st.winstate 31 16) = false →
        SameMemory (spillFrame u s.cur (fld s.st.winstate 31 16) ((fld s.st.winstate 3 0 + 1) % 15 + 8)) t) ∧
      (recordBusy s1 s.cur s1.st (fld s.st.winstate 31 16) = true → t.st.run = .stalled .windowStores ∧
        (s.now + 1, Act.windowSpill s.cur) ∈ t.agenda ∧ SameMemory s t)) ∧
  ∀ (s : State), s.st.run ≠ .frozen → fld s.st.winstate 6 4 = 1 → fld s.st.winstate 3 0 < 15 → fld s.st.winstate 31 16 ≠ 0 →
    let w15 := s.st.reg (.ring (ringIx (fld s.st.winstate 3 0) 15))
    let rec_ := fld s.st.winstate 31 16 - 1
    w15.full = true → w15.bind = none → w15.val.extractLsb' 43 21 = 0 → w15.val.extractLsb' 0 2 = 0 → acquireHolds s s.cur = false →
    fullHolds s s.cur = false → (recordBusy s s.cur s.st rec_ = true ∨ recordPoison s s.st rec_ = none) →
    ∃ t, exec .ret s = .next t ∧ t.st.pc = w15.val.setWidth 43 ∧ fld t.st.winstate 3 0 = (fld s.st.winstate 3 0 + 14) % 15 ∧
      fld t.st.winstate 6 4 = 1 ∧ fld t.st.winstate 31 16 = rec_ ∧ SameMemory s t ∧
      (recordBusy s s.cur s.st rec_ = true → t.st.run = .stalled .windowStores ∧ (s.now + 1, Act.windowFill s.cur) ∈ t.agenda) ∧
      (recordBusy s s.cur s.st rec_ = false → s.st.spilled = [] → ∀ i : Fin 16, t.st.ring[groupIx ((fld s.st.winstate 3 0 + 14) % 15) i.val] =
        ⟨wordAt s (spillPa s s.st rec_ i.val), regTag (tagByteAt s (spillPa s s.st rec_ i.val)), feAt s (spillPa s s.st rec_ i.val), none⟩)) ∧
  ((∀ (s : State) (k : Fin 16) (n f : Nat) (i : Fin 16), Memory.wf s = true → s.core.gcore < 12288 →
    fld (s.strand k).winbase 16 0 + 128 * n + 128 ≤ 0x20000 →
    let pa := spillPa s (s.strand k) n i.val
    let r := (s.strand k).ring[groupIx f i.val]
    wordAt (spillFrame s k n f) pa = r.val ∧ tagByteAt (spillFrame s k n f) pa = BitVec.ofNat 8 r.tag.val ∧
      feAt (spillFrame s k n f) pa = r.full) ∧
  ∀ (s : State) (k : Fin 16) (n f : Nat) (i : Fin 16), (s.strand k).spilled = [] →
    let pa := spillPa s (s.strand k) n i.val
    ((fillFrame s k n f).strand k).ring[groupIx f i.val] =
      ⟨wordAt s pa, regTag (tagByteAt s pa), feAt s pa, none⟩ ∧ SameMemory s (fillFrame s k n f))

/-- R337, R268: SYS and BRK complete and then take their local trap: TEPC is the next instruction, TCAUSE and TVAL say which and with what
immediate, K and PK, IE and PIE move, and the PC is TVEC's. A frozen strand does not issue, so no case is left out. R333, R486: TRET in
kernel mode brings PC, K and IE back from TEPC, PK and PIE, and leaves the rest; in user mode it freezes the strand with PRIV and EXTRA 0.
R338, R73, R486: YIELD, IDLE and HALT change the strand's state and move the PC on; IDLE asks for STROLE.HE. HALT discards the fills its
registers wait for; what is already in the store buffer stays there. -/
def Obligations.TrapsReturnsAndYields : Prop :=
  (∀ (s : State) (imm : BitVec 24) (i : Instr) (c : Word), ((i, c) = (.sys imm, 3) ∨ (i, c) = (.brk imm, 4)) → s.st.run ≠ .frozen →
    ∃ t, exec i s = .next t ∧ t.st.tepc = (s.st.pc + 4).zeroExtend 64 ∧ t.st.tcause = c ∧ t.st.tval = imm.zeroExtend 64 ∧
      t.st.mode.getLsbD 0 = true ∧ t.st.mode.getLsbD 1 = s.st.mode.getLsbD 0 ∧ t.st.mode.getLsbD 2 = false ∧
      t.st.mode.getLsbD 3 = s.st.mode.getLsbD 2 ∧ t.st.pc = pcOf s.st.tvec ∧ SameMemory s t ∧ SameAround s t ∧ SameScalars s t toNone [] ∧
      t.st.tvec = s.st.tvec ∧ t.st.fpflags = s.st.fpflags ∧ t.st.winstate = s.st.winstate) ∧
  ((∀ s : State, s.st.mode.getLsbD 0 = true →
    ∃ t, exec .tret s = .next t ∧ t.st.pc = pcOf s.st.tepc ∧ t.st.mode.getLsbD 0 = s.st.mode.getLsbD 1 ∧
      t.st.mode.getLsbD 2 = s.st.mode.getLsbD 3 ∧ t.st.mode.getLsbD 1 = s.st.mode.getLsbD 1 ∧
      t.st.mode.getLsbD 3 = s.st.mode.getLsbD 3 ∧ t.st.tepc = s.st.tepc ∧ t.st.tcause = s.st.tcause ∧ t.st.tval = s.st.tval ∧
      t.st.winstate = s.st.winstate ∧ SameMemory s t ∧ SameAround s t ∧ SameScalars s t toNone []) ∧
  ∀ s : State, s.st.mode.getLsbD 0 = false → exec .tret s = .next (freeze s s.cur 0x02 false s.st.pc 0 0 s.word)) ∧
  ((∀ s : State, ∃ t, exec .yield s = .next t ∧ t.st.run = .yielded ∧ t.st.pc = s.st.pc + 4 ∧ ScalarFrame s t toNone []) ∧
  (∀ s : State, s.st.strole.getLsbD 15 = true →
    ∃ t, exec .idle s = .next t ∧ t.st.run = .dormant ∧ t.st.pc = s.st.pc + 4 ∧ ScalarFrame s t toNone []) ∧
  (∀ s : State, s.st.strole.getLsbD 15 = false → exec .idle s = .next (freeze s s.cur 0x02 false s.st.pc 0 2 s.word)) ∧
  ∀ s : State, ∃ t, exec .halt s = .next t ∧ t.st.run = .halted ∧ t.st.pc = s.st.pc + 4 ∧ t.st.sb = s.st.sb ∧
    t.core.table = s.core.table ∧ t.core.send = s.core.send ∧ (∀ l, (t.st.reg l).bind = none) ∧ (∀ n : Fin 32, (t.st.v[n]).bind = none) ∧
    SameMemory s t ∧ SameAround s t ∧ specials t.st = specials s.st ∧ t.st.m = s.st.m ∧ SameScalars s t toNone [])

/-! ## System registers -/

/-- R334, R118, R126, R486, R491: SRR reads a register the mode may read; SRW and SRX write the bits of its map that are RW and leave the
others, and SRX gives D the old value in the same step. A number of 0x800 and above, or a missing right, freezes the strand with PRIV and
the number. The per-strand registers are named one by one; TLBINV and the loop unit's registers go to their units: there SRX leaves D and lat
empty, and its request, which reaches the unit two cycles on, exchanges the register and fills them in one cycle. SRR, SRW, SRX.SWAP,
SRX.SET and SRX.CLR complete for every register the mode may access, with D full or free and a value that leaves no field outside its range. -/
def Obligations.SystemRegistersMove : Prop :=
  (∀ (s : State) (d : Opd) (reg : BitVec 12),
    (SysMay s reg true false → DestFree s d → ∃ t, exec (.srr d reg) s = .next t ∧ t.st.pc = s.st.pc + 4 ∧ t.st.lat.val = sysRead s s.cur reg.toNat ∧
      ScalarFrame s t (toDest s d) [d]) ∧
    (SysMay s reg false true → SourcesFull s [d] → (∀ r u, readSrc s d false = .ok (r, u) → sysBad reg.toNat r.val = false) →
      ∃ t, exec (.srw d reg) s = .next t ∧ t.st.pc = s.st.pc + 4 ∧ SameMemory s t ∧ SameScalars s t toNone [d]) ∧
    ∀ (i : Instr) (f : Word → Word → Word),
      (i, f) ∈ [(Instr.srxSwap d reg, fun _ w => w), (.srxSet d reg, fun old w => old ||| w), (.srxClr d reg, fun old w => old &&& ~~~w)] →
      SysMay s reg true true → SourcesFull s [d] → DestFree s d →
      (∀ r u, readSrc s d false = .ok (r, u) → sysBad reg.toNat (f (sysRead s s.cur reg.toNat) r.val) = false) →
      ∃ t, exec i s = .next t ∧ t.st.pc = s.st.pc + 4 ∧ SameMemory s t ∧ SameScalars s t (toDest s d) [d] ∧
        (isLoopReg reg.toNat = false → t.st.lat.val = sysRead s s.cur reg.toNat) ∧
        (isLoopReg reg.toNat = true → t.st.lat.full = false ∧ (s.now + 2, Act.loopUnitService) ∈ t.agenda)) ∧
  (∀ (s t : State) (d : Opd) (reg : BitVec 12), SysMay s reg true false → legalCode d = true →
    writeDest (if reg = 0x200 then { s with fresh := s.fresh + 1 } else s) d ⟨sysRead s s.cur reg.toNat, Tag.full, true, none⟩ = .ok t →
    exec (.srr d reg) s = .next (retire t) ∧ ScalarFrame s (retire t) (toDest s d) [d]) ∧
  (∀ (s s1 : State) (d : Opd) (reg : BitVec 12) (x : Reg), SysMay s reg false true → legalCode d = true →
    readSrc s d false = .ok (x, s1) → sysBad reg.toNat x.val = false →
    ∃ t, exec (.srw d reg) s = .next t ∧ t.st.pc = s.st.pc + 4 ∧
      SameMemory s t ∧ t.st.v = s.st.v ∧ t.st.m = s.st.m ∧ SameScalars s t toNone [d] ∧
      (reg ≠ 0x008 → reg ≠ 0x103 → reg ≠ 0x105 → reg ≠ 0x200 → isLoopReg reg.toNat = false →
        sysRead t t.cur reg.toNat = (sysRead s1 s1.cur reg.toNat &&& ~~~(sysMask reg.toNat)) ||| (x.val &&& sysMask reg.toNat)) ∧
      (reg = 0x008 → t.st.soft = x.val.getLsbD 2) ∧
      (reg = 0x105 → t.st.run = .stalled .tlbRemoval ∧ (∃ n, 2 ≤ n ∧ n ≤ 64 ∧ (s.now + n, Act.tlbinvDone s.cur) ∈ t.agenda) ∧
        (∀ e, e ∈ t.core.utlb ↔ e ∈ s.core.utlb ∧ tlbMatches s.vmid x.val e = false) ∧
        ∀ e, e ∈ t.clu.tlb ↔ e ∈ s.clu.tlb ∧ tlbMatches s.vmid x.val e = false) ∧
      (isLoopReg reg.toNat = true → ∃ q ∈ t.clu.loopReqs, q.kind = .reg reg x.val ∧ q.arrive = s.now + 2)) ∧
  (∀ (s s1 t : State) (d : Opd) (reg : BitVec 12) (x : Reg) (i : Instr) (f : Word → Word → Word),
    (i, f) ∈ [(Instr.srxSwap d reg, fun _ v => v), (Instr.srxSet d reg, fun old v => old ||| v), (Instr.srxClr d reg, fun old v => old &&& ~~~v)] →
    SysMay s reg true true → isLoopReg reg.toNat = false → legalCode d = true → readSrc s d false = .ok (x, s1) →
    sysBad reg.toNat (f (sysRead s s.cur reg.toNat) x.val) = false →
    writeDest (if reg = 0x200 then { s1 with fresh := s1.fresh + 1 } else s1) d ⟨sysRead s s.cur reg.toNat, Tag.full, true, none⟩ = .ok t →
    exec i s = .next (sysWrite (retire t) reg (f (sysRead s s.cur reg.toNat) x.val))) ∧
  ((∀ (s s1 t : State) (d : Opd) (reg : BitVec 12) (x : Reg) (i : Instr) (op : RegOp),
    (i, op) ∈ [(Instr.srxSwap d reg, RegOp.swap), (.srxSet d reg, .set), (.srxClr d reg, .clr)] → SysMay s reg true true →
    isLoopReg reg.toNat = true → legalCode d = true → readSrc s d false = .ok (x, s1) →
    sysBad reg.toNat (op.apply (sysRead s s.cur reg.toNat) x.val) = false →
    writePending { s1 with ticket := s1.ticket + 1 } d s1.ticket = .ok t →
    ∃ u, exec i s = .next u ∧ u.st.pc = s.st.pc + 4 ∧ u.st.lat.full = false ∧
      (∃ q ∈ u.clu.loopReqs, q.arrive = s.now + 2 ∧ q.gcore = s.core.gcore ∧ q.strand = s.cur ∧ q.kind = .xchg reg op x.val s1.ticket) ∧
      SameMemory s u ∧ SameScalars s u (toDest s d) [d]) ∧
  ∀ (s : State) (q : LoopReq) (reg : BitVec 12) (op : RegOp) (v : Word) (n : Nat), loopNext s = some q → q.kind = .xchg reg op v n →
    isLoopReg reg.toNat = true → q.gcore = s.core.gcore → (s.strand q.strand).spilled = [] →
    ∃ t u, exec .loopUnitService s = .next t ∧ exec (.loopRegWrite reg (op.apply (sysRead s q.strand reg.toNat) v)) s = .next u ∧
      t.clu.loops = u.clu.loops ∧ SameMemory s t ∧
      ∀ l, ((s.strand q.strand).reg l).bind = some (.fill n) → ((s.strand q.strand).reg l).full = false →
        (t.strand q.strand).reg l = ⟨sysRead s q.strand reg.toNat, Tag.full, true, none⟩) ∧
  ∀ (s : State) (d : Opd) (reg : BitVec 12) (i : Instr), i ∈ [Instr.srr d reg, .srw d reg, .srxSwap d reg, .srxSet d reg, .srxClr d reg] →
    (0x800 ≤ reg.toNat → exec i s = .next (freeze s s.cur 0x02 false s.st.pc 0 (word reg.toNat) s.word)) ∧
    (reg.toNat < 0x800 → sysExists reg.toNat = false → exec i s = .next (freeze s s.cur 0x01 false s.st.pc 0 (s.word.zeroExtend 64) s.word)) ∧
    (sysExists reg.toNat = true → s.st.mode.getLsbD 0 = false → sysUserRead reg.toNat = false → sysUserWrite reg.toNat = false →
      exec i s = .next (freeze s s.cur 0x02 false s.st.pc 0 (word reg.toNat) s.word))

/-- R211, R210, R209, R340: fences complete at once for the strand and write no register. ACQ at scope 4 and 5 begins an acquire, REL at
scope 1 to 5 appends a release to the store buffer, FULL does both; at scope 0 a fence only moves the PC on. R206, R73: one at scope 4 or 5
that would write through lines whose bank is full stalls while the write-back queue of 64 is full. -/
def Obligations.FencesOrder : Prop :=
  (∀ (s : State) (sc : Scope) (i : Instr), i ∈ [Instr.fenceAcq sc, .fenceRel sc, .fenceFull sc] → 4 ≤ Scope.rank sc →
    64 ≤ s.core.wbq.length → (∃ l ∈ s.core.cache, l.dirty ≠ 0 ∧ bankFull s (l.line * 64) = true) →
    exec i s = .next (s.setRun s.cur (.stalled .writeBackFull))) ∧
  ∀ (s : State) (sc : Scope), (Scope.rank sc < 4 ∨ s.core.wbq.length < 64 ∨ ∀ l ∈ s.core.cache, l.dirty = 0 ∨ bankFull s (l.line * 64) = false) →
    (∃ t, exec (.fenceAcq sc) s = .next t ∧ t.st.pc = s.st.pc + 4 ∧ (4 ≤ Scope.rank sc → t.st.acq.isSome = true) ∧
      (Scope.rank sc < 4 → t = retire s) ∧ ScalarFrame s t toNone []) ∧
    (∃ t, exec (.fenceRel sc) s = .next t ∧ t.st.pc = s.st.pc + 4 ∧
      (sc ≠ .strand → t.st.sb = s.st.sb ++ [.release s.ticket sc .none false false]) ∧ (sc = .strand → t = retire s) ∧
      t.st.acq = s.st.acq ∧ ScalarFrame s t toNone []) ∧
    (∃ t, exec (.fenceFull sc) s = .next t ∧ t.st.pc = s.st.pc + 4 ∧
      (sc ≠ .strand → t.st.sb = s.st.sb ++ [.release s.ticket sc .none false true]) ∧ (4 ≤ Scope.rank sc → t.st.acq.isSome = true) ∧
      (sc = .strand → t = retire s) ∧ ScalarFrame s t toNone [])

/-! ## Barriers, the loop unit and handles -/

/-- R341-R345, R509: an arrival counts to its generation or to the next, the generation completes with its last arrival, BARW waits for it
and BARA does not; BARWT writes 0 when it completes and 1 at its deadline; an arrival two ahead is BAR_OVERRUN, a different count
BAR_MISMATCH. BARW, BARA and BARWT complete when their arrival is the last of the current generation; BARA completes at every arrival that
is counted, and there BARW and BARWT wait. -/
def Obligations.BarriersCountGenerations : Prop :=
  (∀ (s s2 : State) (d a b : Opd) (ta tb : Bool) (x y : Reg) (i : Instr) (op : Word) (n : Nat),
    legalCode a = true → legalCode b = true → read2 s a b ta tb = .ok (x, y, s2) → s.st.run = .ready → op = x.val → n < 2 ^ 20 → 0 < n →
    (i ∈ [Instr.barw a b ta tb, .bara a b ta tb] ∧ x.val.toNat < 32 ∧ y.val = word n ∨
      i = .barwt d a b ta tb ∧ DestFree s2 d ∧ x.val.extractLsb' 52 12 = 0 ∧ x.val.extractLsb' 5 27 = 0 ∧
        (x.val.extractLsb' 32 20).toNat = n ∧ y.val.toNat < 2 ^ 56) →
    let g := op.getLsbD 4
    let bar := s.barrier g (barOf op).2
    s.st.ng[ngIx g (barOf op).2] = bar.cur → bar.nxt = 0 → (bar.cnt = 0 ∨ bar.count = n) →
    (bar.cnt + 1 = n → ∃ t, exec i s = .next t ∧ t.st.pc = s.st.pc + 4 ∧ t.st.run = .ready ∧ (t.barrier g (barOf op).2).cur = bar.cur + 1 ∧
      t.st.ng[ngIx g (barOf op).2] = bar.cur + 1 ∧ (i = .barwt d a b ta tb → t.st.lat = ⟨0, Tag.full, true, none⟩)) ∧
    (bar.cnt + 1 < n → i ∈ [Instr.barw a b ta tb, .bara a b ta tb] → ∃ t, exec i s = .next t ∧ (t.barrier g (barOf op).2).cnt = bar.cnt + 1 ∧
      (t.barrier g (barOf op).2).cur = bar.cur ∧ t.st.ng[ngIx g (barOf op).2] = bar.cur + 1 ∧ SameMemory s t ∧
      (i = .bara a b ta tb → t.st.pc = s.st.pc + 4 ∧ t.st.run = .ready) ∧
      (i = .barw a b ta tb → t.st.pc = s.st.pc ∧ t.st.run = .parked (.barrier g (barOf op).2 bar.cur none none)))) ∧
  (∀ (s s2 : State) (a b : Opd) (ta tb : Bool) (op : Word) (n : Nat), barOperands s a b ta tb = .ok (op, n, s2) →
    (∀ r : State × BitVec 8 × Bool, arriveAt s2 op (op.getLsbD 4) (barOf op).2 n = .ok r →
      exec (.bara a b ta tb) s = .next (retire r.1) ∧
      (r.2.2 = true → exec (.barw a b ta tb) s = .next (retire r.1)) ∧
      (r.2.2 = false → exec (.barw a b ta tb) s =
        .next (r.1.setRun s.cur (.parked (.barrier (op.getLsbD 4) (barOf op).2 r.2.1 none none)))))) ∧
  (∀ (bar : Barrier) (g : BitVec 8) (n : Nat), 0 < n →
    (g = bar.cur → bar.cnt = 0 → bar.nxt = 0 → 1 < n → bar.arrive g n = .counted { bar with cnt := 1, count := n } g []) ∧
    (g = bar.cur → bar.cnt = 0 → bar.nxt = 0 → n = 1 →
      bar.arrive g n = .counted ⟨bar.cur + 1, 0, 0, bar.ncount, bar.ncount⟩ g [bar.cur]) ∧
    (g = bar.cur → 0 < bar.cnt → bar.count = n → bar.cnt + 1 < n → bar.arrive g n = .counted { bar with cnt := bar.cnt + 1 } g []) ∧
    (g = bar.cur → 0 < bar.cnt → bar.count = n → bar.cnt + 1 = n → bar.nxt = 0 →
      bar.arrive g n = .counted ⟨bar.cur + 1, 0, 0, bar.ncount, bar.ncount⟩ g [bar.cur]) ∧
    (g = bar.cur → 0 < bar.cnt → bar.count ≠ n → bar.arrive g n = .mismatch bar.count) ∧
    (g = bar.cur + 1 → bar.nxt = 0 → bar.cnt < bar.count →
      bar.arrive g n = .counted { bar with nxt := 1, ncount := n } g []) ∧
    (2 ≤ (g - bar.cur).toNat → (g - bar.cur).toNat < 128 → bar.arrive g n = .overrun) ∧
    (128 ≤ (g - bar.cur).toNat → bar.arrive g n = bar.arrive bar.cur n)) ∧
  (∀ (s s2 : State) (d a b : Opd) (ta tb : Bool) (x y : Reg) (r : State × BitVec 8 × Bool), legalCode d = true → legalCode a = true →
    legalCode b = true → read2 s a b ta tb = .ok (x, y, s2) → (queueOf d = none) →
    (∀ l, locOf s2.st.frm d = some l → (s2.st.reg l).full = true) →
    x.val.extractLsb' 52 12 = 0 → x.val.extractLsb' 5 27 = 0 → x.val.extractLsb' 32 20 ≠ 0 → y.val.extractLsb' 56 8 = 0 →
    arriveAt s2 x.val (x.val.getLsbD 4) (barOf x.val).2 (x.val.extractLsb' 32 20).toNat = .ok r →
    let due := y.val.toNat * 256 + replayLag s
    (r.2.2 = true → exec (.barwt d a b ta tb) s = .next (barrierEnd r.1 s.cur (some (d, 0)) 0)) ∧
    (r.2.2 = false → due ≤ s.now → exec (.barwt d a b ta tb) s = .next (barrierEnd r.1 s.cur (some (d, 0)) 1)) ∧
    (r.2.2 = false → s.now < due → ∃ t, exec (.barwt d a b ta tb) s = .next t ∧
      t.st.run = .parked (.barrier (x.val.getLsbD 4) (barOf x.val).2 r.2.1 (some (d, 0)) (some y.val.toNat)) ∧
      (due, Act.barwtDeadline s.cur) ∈ t.agenda)) ∧
  (∀ (s : State) (k : Fin 16) (g : Bool) (b : Fin 16) (gen : BitVec 8) (dest : Option (Opd × Nat)) (w : Nat),
    (s.strand k).run = .parked (.barrier g b gen dest (some w)) → w * 256 + replayLag s < s.now → (∀ e ∈ s.agenda, s.now < e.1) →
    exec (.barwtDeadline k) s = .next (barrierEnd s k dest 1)) ∧
  ∀ (s : State) (b : Fin 16) (gen : BitVec 8) (n : BitVec 20) (v : Barrier) (g : BitVec 8) (fs : List (BitVec 8)),
    (s.clu.bars[b]).arrive gen n.toNat = .counted v g fs →
    ∃ t, exec (.gangBarrierArrive b gen n) s = .next t ∧ t.clu.bars[b] = v ∧
      ∀ k dest w, gen ∈ fs → (s.strand k).run = .parked (.barrier true b gen dest w) → (t.strand k).run = .ready

/-- R87, R88, R346, R128: GETCHUNK and CHUNKSET send their request, which reaches the loop unit two cycles on; the unit serves the earliest
request, one in a cycle, draws a chunk of at least MINCHUNK and at least an equal part of what remains, and answers two cycles on; a
register write that joins the order takes the register's fields. -/
def Obligations.LoopUnitServes : Prop :=
  (∀ (s s1 : State) (d a : Opd) (ta : Bool) (x : Reg) (c : Fin 8), DestFree s1 d → legalCode a = true → s.st.chunk = none →
    readSrc s a ta = .ok (x, s1) → x.val = word c.val →
    ∃ u, exec (.getchunk d a ta) s = .next u ∧ u.st.chunk = some s1.ticket ∧ u.st.pc = s.st.pc + 4 ∧
      u.clu.loopReqs = s.clu.loopReqs ++ [⟨s.now + 2, s.core.gcore, s.cur, c, .get s1.ticket⟩] ∧
      (s.now + 2, Act.loopUnitService) ∈ u.agenda ∧ SameMemory s u) ∧
  (∀ (s s3 : State) (d a b : Opd) (ta tb : Bool) (x y z : Reg) (c : Fin 8), legalCode d = true → legalCode a = true → legalCode b = true →
    read3 s a b d ta tb = .ok (x, y, z, s3) → x.val = word c.val → 0 < y.val.toNat → y.val.toNat < 2 ^ 40 →
    0 < fld z.val 63 40 → fld z.val 39 16 = 0 → 0 < fld z.val 15 0 →
    ∃ u, exec (.chunkset d a b ta tb) s = .next u ∧ u.st.pc = s.st.pc + 4 ∧
      u.clu.loopReqs = s.clu.loopReqs ++ [⟨s.now + 2, s.core.gcore, s.cur, c, .set y.val.toNat (fld z.val 15 0) (fld z.val 63 40)⟩] ∧
      SameMemory s u ∧ SameScalars s u toNone [d, a, b]) ∧
  (∀ s : State, loopNext s = none → exec .loopUnitService s = .next s) ∧
  (∀ (s : State) (q : LoopReq), loopNext s = some q →
    (∃ t, exec .loopUnitService s = .next t ∧ t.clu.loopReqs = s.clu.loopReqs.erase q ∧ SameMemory s t ∧
      ∀ r ∈ s.clu.loopReqs.erase q, r.arrive ≤ s.now → (s.now + 1, Act.loopUnitService) ∈ t.agenda) ∧
    (∀ total parts mc, q.kind = .set total parts mc →
      ∃ t, exec .loopUnitService s = .next t ∧ t.clu.loops[q.ctr] = ⟨0, total, parts, mc⟩ ∧ t.clu.loopReqs = s.clu.loopReqs.erase q) ∧
    (∀ n, q.kind = .get n → 0 < (s.clu.loops[q.ctr]).parts →
      let c := s.clu.loops[q.ctr]
      let len := min (max c.minchunk ((c.remaining + c.parts - 1) / c.parts)) (min c.remaining (2 ^ 24 - 1))
      ∃ t, exec .loopUnitService s = .next t ∧ t.clu.loopReqs = s.clu.loopReqs.erase q ∧
        (0 < c.remaining → t.clu.loops[q.ctr] = { c with next := (c.next + len) % 2 ^ 40, remaining := c.remaining - len } ∧
          (q.gcore = s.core.gcore → (s.now + 2, Act.chunkFill q.strand n (word (c.next <<< 24 ||| len))) ∈ t.agenda)) ∧
        (c.remaining = 0 → t.clu.loops[q.ctr] = c ∧
          (q.gcore = s.core.gcore → (s.now + 2, Act.chunkFill q.strand n (word (c.next <<< 24))) ∈ t.agenda)))) ∧
  ∀ (s : State) (c : Fin 8) (v : Word),
    (∃ t, exec (.loopRegWrite (BitVec.ofNat 12 (0x210 + c.val)) v) s = .next t ∧
      t.clu.loops[c] = { s.clu.loops[c] with next := fld v 39 0 } ∧ t.core = s.core ∧ SameMemory s t) ∧
    (∃ t, exec (.loopRegWrite (BitVec.ofNat 12 (0x218 + c.val)) v) s = .next t ∧
      t.clu.loops[c] = { s.clu.loops[c] with remaining := fld v 39 0 } ∧ t.core = s.core ∧ SameMemory s t) ∧
    ∃ t, exec (.loopRegWrite (BitVec.ofNat 12 (0x220 + c.val)) v) s = .next t ∧
      t.clu.loops[c] = { s.clu.loops[c] with parts := fld v 15 0, minchunk := fld v 39 16 } ∧ t.core = s.core ∧ SameMemory s t

/-! ## Memory accesses -/

/-- R384-R388, R5: a load from the core's own TCM completes in the step: D takes the bytes at S1 + imm × size, little-endian and extended;
LDT takes the word's tag with it. Memory and every other register stay. A misaligned address freezes the strand with ALIGN, EXTRA the size
and VADDR the address. R385, R179, R206, R100: a load that the core cannot serve, with fewer than 32 requests outstanding and room in the
write-back queue, empties D and lat, bound to its fill, and the request stands
among the core's until its reply; a reply from a home that is not cached fills both with the bytes there. That the bytes are those at the
reply is the model's reading (log 10). -/
def Obligations.LoadsFillTheirRegisters : Prop :=
  ((∀ (s s1 t : State) (d a : Opd) (ta : Bool) (imm : BitVec 11) (x : Reg) (i : Instr) (z va : Nat) (g : Bool),
    (i, z, g) ∈ loads d a ta imm → legalCode d = true → legalCode a = true → readSrc s a ta = .ok (x, s1) → NothingHolds s s1 →
    fullHolds s1 s1.cur = false → va = (x.val + imm.signExtend 64 * word z).toNat % 2 ^ 43 → va % z = 0 → OwnWord s1 va z →
    writeDest { s1 with fresh := s1.fresh + 1 } d ⟨loaded s (tcmPa s.core.gcore va) z g, Tag.full, true, none⟩ = .ok t →
    exec i s = .next (retire t) ∧ ScalarFrame s (retire t) (toDest s d) [d, a]) ∧
  (∀ (s s1 t : State) (d a : Opd) (ta : Bool) (imm : BitVec 11) (x : Reg) (va : Nat) (g : Tag),
    legalCode d = true → legalCode a = true → readSrc s a ta = .ok (x, s1) → NothingHolds s s1 →
    fullHolds s1 s1.cur = false → va = (x.val + imm.signExtend 64 * 8).toNat % 2 ^ 43 → va % 8 = 0 → OwnWord s1 va 8 →
    g.val = tagLoaded (tagByteAt s (tcmPa s.core.gcore va)) →
    writeDest { s1 with fresh := s1.fresh + 1 } d ⟨wordAt s (tcmPa s.core.gcore va), g, true, none⟩ = .ok t →
    exec (.ldt d a ta imm) s = .next (retire t) ∧ ScalarFrame s (retire t) (toDest s d) [d, a]) ∧
  ∀ (s s1 : State) (d a : Opd) (ta : Bool) (imm : BitVec 11) (x : Reg) (i : Instr) (z : Nat) (g : Bool),
    (i, z, g) ∈ loads d a ta imm → legalCode d = true → legalCode a = true → readSrc s a ta = .ok (x, s1) → NothingHolds s s1 →
    fullHolds s1 s1.cur = false → (x.val + imm.signExtend 64 * word z).toNat % z ≠ 0 →
    exec i s = .next (freeze s s.cur 0x03 false s.st.pc ((x.val + imm.signExtend 64 * word z) &&& bitsMask 42 0) (word z) s.word)) ∧
  ((∀ (s s1 : State) (d a : Opd) (ta : Bool) (imm : BitVec 11) (x : Reg) (i : Instr) (z va : Nat) (g : Bool) (y : Xlat),
    (i, z, g) ∈ loads d a ta imm → legalCode a = true → readSrc s a ta = .ok (x, s1) → NothingHolds s s1 →
    fullHolds s1 s1.cur = false → va = (x.val + imm.signExtend 64 * word z).toNat % 2 ^ 43 → va % z = 0 →
    reachOne s1 va .read (.scalar z) = .ok y → ownTcm s1 y.pa = false → cachePoison s1 s1.cur ⟨y.pa, z, y.nc, y.ro⟩ = false →
    outstanding s1 < 32 → s1.core.wbq.length < 64 → DestFree s1 d →
    ∃ u, exec i s = .next u ∧ u.st.pc = s.st.pc + 4 ∧ u.st.lat.full = false ∧
      (∃ r ∈ u.core.reqs, r.ticket = s1.ticket ∧ r.strand = s.cur ∧ r.acc = .load ⟨y.pa, z, y.nc, y.ro⟩ g .full false) ∧
      (∃ n, s.now < n ∧ (n, Act.remoteReplyArrive s1.ticket) ∈ u.agenda) ∧ SameMemory s u ∧ SameScalars s u (toDest s d) [d, a]) ∧
  (∀ (s : State) (n : Nat), (∀ r ∈ s.core.reqs, r.ticket ≠ n) → exec (.remoteReplyArrive n) s = .next s) ∧
  (∀ (s : State) (r : Req), s.core.reqs.find? (·.ticket = r.ticket) = some r →
    (hbmPending s r.ticket = true ∨ bankPending s r.ticket = true ∨ turn s r.strand r.ticket r.acc = false) →
    exec (.remoteReplyArrive r.ticket) s = .next (s.at (s.now + 1) (.remoteReplyArrive r.ticket))) ∧
  ∀ (s : State) (r : Req) (p : Piece) (g : Bool) (l : Loc), s.core.reqs.find? (·.ticket = r.ticket) = some r →
    r.acc = .load p g .full false → hbmPending s r.ticket = false → bankPending s r.ticket = false → stfLeaving s r.ticket = false →
    turn s r.strand r.ticket r.acc = true → (s.strand r.strand).sb = [] → (s.strand r.strand).spilled = [] →
    (onDie s p.pa = true ∨ (cacheable s p.pa p.nc = false ∧ ownEntries s r.strand p.pa = false)) → poisoned s p.pa = false →
    (∀ c off, home s p.pa ≠ .debug c off) → home s p.pa ≠ .hole → p.size ∈ [1, 2, 4, 8] →
    ((s.strand r.strand).reg l).bind = some (.fill r.ticket) → ((s.strand r.strand).reg l).full = false →
    ∃ t, exec (.remoteReplyArrive r.ticket) s = .next t ∧
      (t.strand r.strand).reg l = ⟨loaded s p.pa p.size g, Tag.full, true, none⟩ ∧ (∀ q ∈ t.core.reqs, q.ticket ≠ r.ticket))

/-- R387, R388, R201: a store enters the strand's store buffer with its bytes, size and address, and the PC moves on; memory is as it was; with
no room in the buffer it stalls (R73), as it does with 32 remote requests outstanding when it goes out on the memory network (R179). One that leaves for a home off the die goes to the cache when it is a whole plain word there, and else
to the boundary buffer. When it leaves for the own TCM, or for the own scratchpad once its bank has served it, exactly its enabled bytes change, a TCM word takes its tag byte, and nothing else does. -/
def Obligations.StoresEnterAndLeaveTheBuffer : Prop :=
  (∀ (s s2 : State) (d a : Opd) (ta : Bool) (imm : BitVec 11) (x y : Reg) (i : Instr) (z va : Nat) (q : Xlat),
    (i, z) ∈ stores d a ta imm → legalCode d = true → legalCode a = true → read2 s a d ta ta = .ok (x, y, s2) →
    acquireHolds s s.cur = false → acquireHolds s2 s2.cur = false →
    va = (x.val + imm.signExtend 64 * word z).toNat % 2 ^ 43 → va % z = 0 → reachOne s2 va .write (.scalar z) = .ok q → BufferRoom s 1 →
    AccessRoom s2 →
    ∃ t, exec i s = .next t ∧ t.st.pc = s.st.pc + 4 ∧
      t.st.sb = s.st.sb ++ [.store s2.ticket ⟨q.pa / 8 * 8, y.val <<< (8 * (q.pa % 8)), enables q.pa z, 0x7F⟩ q.nc false] ∧
      (∃ n, s.now < n ∧ (n, Act.storeLeave s.cur) ∈ t.agenda) ∧ ScalarFrame s t toNone [d, a]) ∧
  (∀ (s s2 : State) (d a : Opd) (ta : Bool) (imm : BitVec 11) (x y : Reg) (va : Nat), s.core.gcore < 12288 →
    legalCode d = true → legalCode a = true → read2 s a d ta ta = .ok (x, y, s2) →
    acquireHolds s s.cur = false → acquireHolds s2 s2.cur = false →
    va = (x.val + imm.signExtend 64 * 8).toNat % 2 ^ 43 → va % 8 = 0 → va < 0x20000 → BufferRoom s 2 →
    ∃ t, exec (.stt d a ta imm) s = .next t ∧ t.st.pc = s.st.pc + 4 ∧
      t.st.sb = s.st.sb ++ [.store s2.ticket ⟨tcmPa s.core.gcore va, y.val, 0xFF, BitVec.ofNat 8 y.tag.val⟩ false false] ∧
      ScalarFrame s t toNone [d, a]) ∧
  (∀ (s s2 : State) (d a : Opd) (ta : Bool) (imm : BitVec 11) (x y : Reg) (i : Instr) (z : Nat),
    (i, z) ∈ stores d a ta imm → legalCode d = true → legalCode a = true → read2 s a d ta ta = .ok (x, y, s2) →
    acquireHolds s s.cur = false → acquireHolds s2 s2.cur = false → BufferRoom s 1 → (x.val + imm.signExtend 64 * word z).toNat % z ≠ 0 →
    exec i s = .next (freeze s s.cur 0x03 false s.st.pc ((x.val + imm.signExtend 64 * word z) &&& bitsMask 42 0) (word z) s.word)) ∧
  (∀ (s s2 : State) (d a : Opd) (ta : Bool) (imm : BitVec 11) (x y : Reg) (i : Instr) (z : Nat),
    (i, z) ∈ stores d a ta imm → legalCode d = true → legalCode a = true → read2 s a d ta ta = .ok (x, y, s2) →
    acquireHolds s s.cur = false → acquireHolds s2 s2.cur = false → ¬ BufferRoom s 1 → exec i s = .next (s.setRun s.cur (.stalled .storeBuffer))) ∧
  (∀ (s s2 : State) (d a : Opd) (ta : Bool) (imm : BitVec 11) (x y : Reg) (i : Instr) (z va : Nat) (q : Xlat),
    (i, z) ∈ stores d a ta imm → legalCode d = true → legalCode a = true → read2 s a d ta ta = .ok (x, y, s2) →
    acquireHolds s s.cur = false → acquireHolds s2 s2.cur = false → BufferRoom s 1 →
    va = (x.val + imm.signExtend 64 * word z).toNat % 2 ^ 43 → va % z = 0 → reachOne s2 va .write (.scalar z) = .ok q →
    storeRemote s2 ⟨q.pa / 8 * 8, y.val <<< (8 * (q.pa % 8)), enables q.pa z, 0x7F⟩ q.nc = true → 32 ≤ outstanding s2 →
    exec i s = .next (s.setRun s.cur (.stalled .remoteLimit))) ∧
  (∀ (s : State) (k : Fin 16) (n : Nat) (x : WordStore) (nc rel : Bool) (rest : List SbItem),
    (s.strand k).sb = .store n x nc rel :: rest →
    (mayLeave s k n x nc rel = false → ∃ t m, exec (.storeLeave k) s = .next t ∧ (t.strand k).sb = (s.strand k).sb ∧ SameMemory s t ∧
      s.now < m ∧ (m, Act.storeLeave k) ∈ t.agenda) ∧
    (mayLeave s k n x nc rel = true → onDie s x.pa = false → ∃ t, exec (.storeLeave k) s = .next t ∧ (t.strand k).sb = rest ∧ SameMemory s t ∧
      (cacheable s x.pa nc = true → rel = false → x.en = 0xFF → cacheWord t x.pa = some ⟨true, true, x.data, false⟩) ∧
      (cacheable s x.pa nc = false ∨ rel = true ∨ x.en ≠ 0xFF → ∃ e ∈ t.die.dbb ++ t.core.wbq, e.x = x ∧ e.strand = k))) ∧
  ∀ (s : State) (k : Fin 16) (n : Nat) (x : WordStore) (nc rel : Bool) (rest : List SbItem),
    (s.strand k).sb = .store n x nc rel :: rest → Memory.wf s = true → mayLeave s k n x nc rel = true → x.pa % 8 = 0 →
    ((∃ o, home s x.pa = .tcm s.core.gcore o) ∨ (∃ o, home s x.pa = .spad s.cluster o) ∧ n ∈ s.clu.bankDone) →
    ∃ t, exec (.storeLeave k) s = .next t ∧ (t.strand k).sb = rest ∧
      (∀ j : Fin 8, dataAt t (x.pa + j.val) = if x.en.getLsbD j.val then wordByte x.data j.val else dataAt s (x.pa + j.val)) ∧
      SameMemoryBut s t x.pa (x.pa + 8) ∧ feAt t x.pa = feAt s x.pa ∧
      ((∃ o, home s x.pa = .tcm s.core.gcore o) → x.en ≠ 0 → tagByteAt t x.pa = x.tagb) ∧ t.hub = s.hub ∧ t.fab = s.fab ∧
      ∀ j l, (t.strand j).reg l = (s.strand j).reg l

/-- R389, R174, R173: at a full word of the own TCM with no other waiter LDF takes the word and leaves it empty, LDW takes it and leaves it
full; at an empty one both park. STF fills an empty word and parks at a full one; STFF writes and fills whatever the bit, CLRE empties. At
another core's TCM LDF and LDW empty D until the reply and STF stalls until it; STFF and CLRE move on, their request on its way (R176), and
what it does at a word of the own die is the same. -/
def Obligations.FullEmptyAccesses : Prop :=
  (∀ (s s1 : State) (d a : Opd) (ta keep : Bool) (imm : BitVec 11) (x : Reg) (y : Xlat) (i : Instr),
    (i, keep) ∈ [(Instr.ldf d a ta imm, false), (.ldw d a ta imm, true)] → legalCode a = true → readSrc s a ta = .ok (x, s1) →
    NothingHolds s s1 → fullHolds s1 s1.cur = false → DestFree s1 d → (x.val + imm.signExtend 64 * 8).toNat % 8 = 0 →
    reachOne s1 ((x.val + imm.signExtend 64 * 8).toNat % 2 ^ 43) .read .fullEmpty = .ok y → ownTcm s1 y.pa = false → outstanding s1 < 32 →
    ∃ u, exec i s = .next u ∧ u.st.pc = s.st.pc + 4 ∧ u.st.lat.full = false ∧ SameMemory s u ∧
      (∃ r ∈ u.core.reqs, r.ticket = s1.ticket ∧ r.strand = s.cur ∧ r.acc = .ldf y.pa keep) ∧
      ∃ n, s.now < n ∧ (n, Act.remoteReplyArrive s1.ticket) ∈ u.agenda) ∧
  (∀ (s s1 : State) (d a : Opd) (ta : Bool) (imm : BitVec 11) (x v : Reg) (y : Xlat), legalCode d = true → legalCode a = true →
    read2 s a d ta ta = .ok (x, v, s1) → NothingHolds s s1 → (x.val + imm.signExtend 64 * 8).toNat % 8 = 0 →
    reachOne s1 ((x.val + imm.signExtend 64 * 8).toNat % 2 ^ 43) .write .fullEmpty = .ok y → ownTcm s1 y.pa = false → outstanding s1 < 32 →
    (∃ u, exec (.stf d a ta imm) s = .next u ∧ u.st.pc = s.st.pc + 4 ∧ u.st.run = .stalled (.remoteStf s1.ticket) ∧
      SameMemory s u ∧ ∃ r ∈ u.core.reqs, r.ticket = s1.ticket ∧ r.strand = s.cur ∧ r.acc = .stf y.pa v.val) ∧
    ∃ u, exec (.stff d a ta imm) s = .next u ∧ u.st.pc = s.st.pc + 4 ∧ SameMemory s u ∧
      (∃ r ∈ u.core.reqs, r.ticket = s1.ticket ∧ r.strand = s.cur ∧ r.acc = .write ⟨y.pa, v.val, 0xFF, 0x7F⟩ (some true)) ∧
      ∃ n, s.now < n ∧ (n, Act.remoteReplyArrive s1.ticket) ∈ u.agenda) ∧
  (∀ (s : State) (r : Req) (x : WordStore) (full : Bool), s.core.reqs.find? (·.ticket = r.ticket) = some r → r.acc = .write x (some full) →
    hbmPending s r.ticket = false → bankPending s r.ticket = false → stfLeaving s r.ticket = false →
    turn s r.strand r.ticket r.acc = true → servedHolds s r.strand = false → onDie s x.pa = true → ownTcm s x.pa = false →
    ckptHolds s s.func x.pa = false →
    ∃ t, exec (.remoteReplyArrive r.ticket) s = .next t ∧ (∀ q ∈ t.core.reqs, q.ticket ≠ r.ticket) ∧
      SameMemory (setFe (if full then performStore s x else s) x.pa full) t) ∧
  (∀ (s s1 : State) (a : Opd) (ta : Bool) (imm : BitVec 11) (x : Reg) (y : Xlat), legalCode a = true →
    readSrc s a ta = .ok (x, s1) → NothingHolds s s1 → (x.val + imm.signExtend 64 * 8).toNat % 8 = 0 →
    reachOne s1 ((x.val + imm.signExtend 64 * 8).toNat % 2 ^ 43) .write .fullEmpty = .ok y → ownTcm s1 y.pa = false → outstanding s1 < 32 →
    ∃ u, exec (.clre a ta imm) s = .next u ∧ u.st.pc = s.st.pc + 4 ∧ SameMemory s u ∧
      ∃ r ∈ u.core.reqs, r.ticket = s1.ticket ∧ r.strand = s.cur ∧ r.acc = .write ⟨y.pa, 0, 0, 0x7F⟩ (some false)) ∧
  ∀ (s s1 : State) (d a : Opd) (ta : Bool) (imm : BitVec 11) (x y : Reg) (va : Nat), legalCode d = true → legalCode a = true →
    va = (x.val + imm.signExtend 64 * 8).toNat % 2 ^ 43 → va % 8 = 0 → NothingHolds s s1 → OwnWord s1 va 8 → Memory.wf s = true →
    s1.core.waiters = [] → s1.core.moved = [] → (∀ e : Fin 64, (s1.core.recv[e]).arming = none) →
    let pa := tcmPa s.core.gcore va
    (readSrc s a ta = .ok (x, s1) → fullHolds s1 s1.cur = false → queueOf d = none →
      (∀ l, locOf s1.st.frm d = some l → (s1.st.reg l).full = true) →
      (feAt s pa = true →
        (∃ t, exec (.ldf d a ta imm) s = .next t ∧ (∀ l, locOf s.st.frm d = some l → t.st.reg l = ⟨wordAt s pa, Tag.full, true, none⟩) ∧
          t.st.lat = ⟨wordAt s pa, Tag.full, true, none⟩ ∧ feAt t pa = false ∧ t.st.pc = s.st.pc + 4 ∧ t.st.run = .ready ∧
          (∀ b, dataAt t b = dataAt s b)) ∧
        (∃ t, exec (.ldw d a ta imm) s = .next t ∧ (∀ l, locOf s.st.frm d = some l → t.st.reg l = ⟨wordAt s pa, Tag.full, true, none⟩) ∧
          t.st.lat = ⟨wordAt s pa, Tag.full, true, none⟩ ∧ t.st.pc = s.st.pc + 4 ∧ t.st.run = .ready ∧ SameMemory s t)) ∧
      (feAt s pa = false → ∀ i ∈ [Instr.ldf d a ta imm, .ldw d a ta imm],
        ∃ t, exec i s = .next t ∧ t.st.run = .parked (.wordEmpty va) ∧ t.st.pc = s.st.pc ∧ SameMemory s t)) ∧
    (read2 s a d ta ta = .ok (x, y, s1) →
      (feAt s pa = false →
        ∃ t, exec (.stf d a ta imm) s = .next t ∧ feAt t pa = true ∧ wordAt t pa = y.val ∧ t.st.pc = s.st.pc + 4 ∧
          SameMemoryBut s t pa (pa + 8) ∧ SameScalars s t toNone [a, d]) ∧
      (feAt s pa = true →
        ∃ t, exec (.stf d a ta imm) s = .next t ∧ t.st.run = .parked (.wordFull va) ∧ t.st.pc = s.st.pc ∧ SameMemory s t) ∧
      ∃ t, exec (.stff d a ta imm) s = .next t ∧ feAt t pa = true ∧ wordAt t pa = y.val ∧ t.st.pc = s.st.pc + 4 ∧
        SameMemoryBut s t pa (pa + 8) ∧ SameScalars s t toNone [a, d]) ∧
    (readSrc s a ta = .ok (x, s1) →
      ∃ t, exec (.clre a ta imm) s = .next t ∧ feAt t pa = false ∧ t.st.pc = s.st.pc + 4 ∧ (∀ b, dataAt t b = dataAt s b) ∧
        SameScalars s t toNone [a])

/-- R390, R209, R210: LDAQ at the own TCM at scopes 0 to 3 completes with the bytes zero-extended; at scopes 4 and 5 D waits and the acquire
is under way. STRL at scope 0 is a relaxed store; at scopes 1 to 5 it enters the buffer as a release with its store. What joins or waits for
an acquire is the model's reading where R209 leaves it open (log 38). R391, R188: an atomic at the own TCM is one act: D takes the old word,
memory the new one of its FN, FPFLAGS the flags of an FADD. CAS writes when the old word is D's. At any other home it is a request, and D
waits. An atomic that must wait for buffered stores is the model's reading (log 38). -/
def Obligations.OrderedAndAtomicAccesses : Prop :=
  ((∀ (s s1 t : State) (d a : Opd) (ta wide : Bool) (sc : Scope) (x : Reg), legalCode d = true → legalCode a = true →
    readSrc s a ta = .ok (x, s1) → NothingHolds s s1 → fullHolds s1 s1.cur = false → Scope.rank sc < 4 →
    let z := if wide then 8 else 4
    let va := x.val.toNat % 2 ^ 43
    va % z = 0 → OwnWord s1 va z →
    writeDest { s1 with fresh := s1.fresh + 1 } d ⟨word (bytesAt s (tcmPa s.core.gcore va) z), Tag.full, true, none⟩ = .ok t →
    exec (.ldaq d a ta wide sc) s = .next (retire t) ∧ ScalarFrame s (retire t) (toDest s d) [d, a]) ∧
  (∀ (s s1 : State) (d a : Opd) (ta wide : Bool) (sc : Scope) (x : Reg) (y : Xlat), legalCode a = true →
    readSrc s a ta = .ok (x, s1) → NothingHolds s s1 → fullHolds s1 s1.cur = false → 4 ≤ Scope.rank sc →
    let z := if wide then 8 else 4
    let va := x.val.toNat % 2 ^ 43
    va % z = 0 → reachOne s1 va .read (.scalar z) = .ok y → poisoned s1 y.pa = false →
    outstanding s1 < 32 → s1.core.wbq.length < 64 → DestFree s1 d →
    ∃ u, exec (.ldaq d a ta wide sc) s = .next u ∧ u.st.pc = s.st.pc + 4 ∧ u.st.lat.full = false ∧ u.st.acq.isSome = true ∧
      (∃ r ∈ u.core.reqs, r.ticket = s1.ticket ∧ r.acc = .acquire ⟨y.pa, z, y.nc, y.ro⟩ sc) ∧ SameMemory s u) ∧
  (∀ (s s1 : State) (d a : Opd) (ta wide : Bool) (sc : Scope) (x : Reg) (y : Xlat), legalCode a = true →
    readSrc s a ta = .ok (x, s1) → NothingHolds s s1 → fullHolds s1 s1.cur = false → Scope.rank sc < 4 →
    let z := if wide then 8 else 4
    let va := x.val.toNat % 2 ^ 43
    va % z = 0 → reachOne s1 va .read (.scalar z) = .ok y → ownTcm s1 y.pa = false → outstanding s1 < 32 → DestFree s1 d →
    ∃ u, exec (.ldaq d a ta wide sc) s = .next u ∧ u.st.pc = s.st.pc + 4 ∧ u.st.lat.full = false ∧ (sc ≠ .strand → u.st.acq.isSome = true) ∧
      (∃ r ∈ u.core.reqs, r.ticket = s1.ticket ∧
        r.acc = if sc = .strand then .load ⟨y.pa, z, y.nc, y.ro⟩ false .full true else .acquire ⟨y.pa, z, y.nc, y.ro⟩ sc) ∧ SameMemory s u) ∧
  ∀ (s s2 : State) (d a : Opd) (ta wide : Bool) (sc : Scope) (x v : Reg) (y : Xlat), legalCode d = true → legalCode a = true →
    read2 s a d ta ta = .ok (x, v, s2) → acquireHolds s s.cur = false → acquireHolds s2 s2.cur = false →
    let z := if wide then 8 else 4
    let va := x.val.toNat % 2 ^ 43
    let st : WordStore := ⟨y.pa / 8 * 8, v.val <<< (8 * (y.pa % 8)), enables y.pa z, 0x7F⟩
    va % z = 0 → reachOne s2 va .write (.scalar z) = .ok y → BufferRoom s 1 → AccessRoom s2 →
    ∃ u, exec (.strl d a ta wide sc) s = .next u ∧ u.st.pc = s.st.pc + 4 ∧
      u.st.sb = s.st.sb ++ [if sc = .strand then .store s2.ticket st y.nc true else .release s2.ticket sc (.store st y.nc) false false] ∧
      ScalarFrame s u toNone [d, a]) ∧
  ((∀ (s s2 t : State) (d a b : Opd) (ta tb : Bool) (x y : Reg) (i : Instr) (fn : BitVec 4) (z va : Nat), (i, fn, z) ∈ amos d a b ta tb →
    legalCode d = true → legalCode a = true → legalCode b = true → read2 s a b ta tb = .ok (x, y, s2) → NothingHolds s s2 →
    va = x.val.toNat % 2 ^ 43 → va % z = 0 → OwnWord s2 va z → Memory.wf s = true →
    let pa := tcmPa s.core.gcore va
    let old := word (bytesAt s pa z)
    let m := homeStore s2 (storeOf pa z (amoNew fn old y.val).1 0x7F)
    writeDest m d ⟨old, Tag.full, true, none⟩ = .ok t →
    exec i s = .next (retire (t.mod fun k => { k with fpflags := k.fpflags ||| (amoNew fn old y.val).2.zeroExtend 64 })) ∧
      bytesAt m pa z = (amoNew fn old y.val).1.toNat % 2 ^ (8 * z) ∧ SameMemoryBut s m pa (pa + z)) ∧
  (∀ (s s3 t : State) (d a b : Opd) (ta tb narrow : Bool) (x y c : Reg) (va : Nat),
    legalCode d = true → legalCode a = true → legalCode b = true → read3 s a b d ta tb = .ok (x, y, c, s3) → NothingHolds s s3 →
    let z := if narrow then 4 else 8
    va = x.val.toNat % 2 ^ 43 → va % z = 0 → OwnWord s3 va z → Memory.wf s = true →
    let pa := tcmPa s.core.gcore va
    let old := bytesAt s pa z
    let new := if old = c.val.toNat % 2 ^ (8 * z) then y.val.toNat % 2 ^ (8 * z) else old
    let m := homeStore s3 (storeOf pa z (word new) 0x7F)
    writeDest m d ⟨word old, Tag.full, true, none⟩ = .ok t →
    (∃ u, exec (.cas d a b ta tb narrow) s = .next u ∧ u.st.pc = s.st.pc + 4 ∧ u.st.lat = ⟨word old, Tag.full, true, none⟩ ∧
      u.mem = m.mem) ∧ bytesAt m pa z = new ∧ SameMemoryBut s m pa (pa + z)) ∧
  (∀ old src : Word, (amoNew 0 old src).1 = old + src ∧ (amoNew 1 old src).1 = old &&& src ∧ (amoNew 2 old src).1 = old ||| src ∧
    (amoNew 3 old src).1 = old ^^^ src ∧ (amoNew 4 old src).1.toInt = min old.toInt src.toInt ∧
    (amoNew 5 old src).1.toInt = max old.toInt src.toInt ∧ (amoNew 6 old src).1.toNat = min old.toNat src.toNat ∧
    (amoNew 7 old src).1.toNat = max old.toNat src.toNat ∧ (amoNew 8 old src).1 = src) ∧
  (∀ (s s2 : State) (d a b : Opd) (ta tb : Bool) (x y : Reg) (i : Instr) (fn : BitVec 4) (z va : Nat) (q : Xlat),
    (i, fn, z) ∈ amos d a b ta tb → legalCode a = true → legalCode b = true →
    read2 s a b ta tb = .ok (x, y, s2) → NothingHolds s s2 → fullHolds s2 s2.cur = false → va = x.val.toNat % 2 ^ 43 → va % z = 0 →
    atomicReach s2 va = .ok q → ownTcm s2 q.pa = false → (onDie s2 q.pa = true ∨ bankFull s2 q.pa = false) →
    outstanding s2 < 32 → DestFree s2 d →
    ∃ u, exec i s = .next u ∧ u.st.pc = s.st.pc + 4 ∧ u.st.lat.full = false ∧
      (∃ r ∈ u.core.reqs, r.ticket = s2.ticket ∧ r.acc = .amo ⟨q.pa, z, q.nc, q.ro⟩ fn y.val) ∧ SameMemory s u) ∧
  (∀ (s s3 : State) (d a b : Opd) (ta tb narrow : Bool) (x y c : Reg) (va : Nat) (q : Xlat),
    legalCode a = true → legalCode b = true → read3 s a b d ta tb = .ok (x, y, c, s3) → NothingHolds s s3 → fullHolds s3 s3.cur = false →
    let z := if narrow then 4 else 8
    va = x.val.toNat % 2 ^ 43 → va % z = 0 → atomicReach s3 va = .ok q → ownTcm s3 q.pa = false →
    (onDie s3 q.pa = true ∨ bankFull s3 q.pa = false) → outstanding s3 < 32 → DestFree s3 d →
    ∃ u, exec (.cas d a b ta tb narrow) s = .next u ∧ u.st.pc = s.st.pc + 4 ∧ u.st.lat.full = false ∧
      (∃ r ∈ u.core.reqs, r.ticket = s3.ticket ∧ r.acc = .cas ⟨q.pa, z, q.nc, q.ro⟩ c.val y.val) ∧ SameMemory s u) ∧
  ∀ (s : State) (r : Req), s.core.reqs.find? (·.ticket = r.ticket) = some r →
    ((∃ p fn src, r.acc = .amo p fn src) ∨ ∃ p cmp new, r.acc = .cas p cmp new) → hbmPending s r.ticket = false →
    bankPending s r.ticket = false → stfLeaving s r.ticket = false → turn s r.strand r.ticket r.acc = true → servedHolds s r.strand = false →
    onDie s r.acc.pa = true → ownSpad s r.acc.pa = false → ckptHolds s s.func r.acc.pa = false → poisoned s r.acc.pa = false →
    let old := word (bytesAt s r.acc.pa r.acc.piece.size)
    ∃ t, exec (.remoteReplyArrive r.ticket) s = .next t ∧ (∀ q ∈ t.core.reqs, q.ticket ≠ r.ticket) ∧
      ((s.strand r.strand).spilled = [] →
        SameMemory (homeStore s (storeOf r.acc.pa r.acc.piece.size (r.acc.update old).1 0x7F)) t ∧
        ∀ l, ((s.strand r.strand).reg l).bind = some (.fill r.ticket) → ((s.strand r.strand).reg l).full = false →
          (t.strand r.strand).reg l = ⟨old, Tag.full, true, none⟩))

/-- R392, R185, R186: CINV drops the line of S1 unwritten, CWB writes its dirty words through and keeps it clean, CWBI does both, and PREF
starts a fetch; an address that fails for PREF is ignored. None writes a register. That they translate as a load does is the model's reading
(log 38). -/
def Obligations.CacheOperations : Prop :=
  (∀ (s s1 : State) (a : Opd) (x : Reg) (y : Xlat) (line : Nat), legalCode a = true → readSrc s a false = .ok (x, s1) →
    translate s1 s1.cur (x.val.toNat % 2 ^ 43) .read = .ok y → cacheable s1 y.pa y.nc = true → line = y.pa / 64 →
    (∀ l, cacheFind s1 line = some l → roomFor s1 (line * 64) l.dirty = true) →
    (∃ t, exec (.cinv a) s = .next t ∧ t.st.pc = s.st.pc + 4 ∧ cacheFind t line = none ∧ t.die.dbb = s.die.dbb ∧ t.core.wbq = s.core.wbq ∧
      SameMemory s t ∧ SameScalars s t toNone [a]) ∧
    (∃ t, exec (.cwb a) s = .next t ∧ t.st.pc = s.st.pc + 4 ∧ (∀ l, cacheFind t line = some l → ∀ j : Fin 8, (l.words[j]).dirty = false) ∧
      (∀ l, cacheFind s line = some l → ∀ j : Fin 8, (l.words[j]).valid = true → (l.words[j]).dirty = true →
        ∃ e ∈ t.die.dbb ++ t.core.wbq, e.kind = .through ∧ e.x = ⟨line * 64 + 8 * j.val, (l.words[j]).data, 0xFF, 0x7F⟩) ∧
      SameMemory s t ∧ SameScalars s t toNone [a]) ∧
    (∃ t, exec (.cwbi a) s = .next t ∧ t.st.pc = s.st.pc + 4 ∧ cacheFind t line = none ∧
      (∀ l, cacheFind s line = some l → ∀ j : Fin 8, (l.words[j]).valid = true → (l.words[j]).dirty = true →
        ∃ e ∈ t.die.dbb ++ t.core.wbq, e.kind = .through ∧ e.x = ⟨line * 64 + 8 * j.val, (l.words[j]).data, 0xFF, 0x7F⟩) ∧
      SameMemory s t ∧ SameScalars s t toNone [a])) ∧
  (∀ (s s1 : State) (a : Opd) (x : Reg) (y : Xlat) (i : Instr), i ∈ [Instr.cinv a, .cwb a, .cwbi a] → legalCode a = true →
    readSrc s a false = .ok (x, s1) → translate s1 s1.cur (x.val.toNat % 2 ^ 43) .read = .ok y → cacheable s1 y.pa y.nc = false →
    ∃ t, exec i s = .next t ∧ t.st.pc = s.st.pc + 4 ∧ t.core.cache = s.core.cache ∧ SameMemory s t ∧ SameScalars s t toNone [a]) ∧
  ∀ (s s1 : State) (a : Opd) (x : Reg), legalCode a = true → readSrc s a false = .ok (x, s1) →
    (∀ y, translate s1 s1.cur (x.val.toNat % 2 ^ 43) .read = .ok y → cacheable s1 y.pa y.nc = true → cacheFind s1 (y.pa / 64) = none →
      ∃ t, exec (.pref a) s = .next t ∧ t.st.pc = s.st.pc + 4 ∧ (∃ f ∈ t.core.fetches, f.line = y.pa / 64) ∧ t.core.cache = s.core.cache ∧
        SameMemory s t ∧ SameScalars s t toNone [a]) ∧
    ∀ c e v, translate s1 s1.cur (x.val.toNat % 2 ^ 43) .read = .error (.freeze c e v) →
      ∃ t, exec (.pref a) s = .next t ∧ t.st.pc = s.st.pc + 4 ∧ t.core.fetches = s.core.fetches ∧ SameMemory s t ∧
        SameScalars s t toNone [a]

/-! ## Float and vector instructions -/

/-- R357-R359, R364, R96, R143: a scalar float instruction with no SIGLOSS to take reads its sources' low bits with their tags capped at P,
gives D and lat its result zero-extended with its tag, adds its flags to FPFLAGS and moves on; the rest stays. The FMA forms read D last. -/
def Obligations.FloatResults : Prop :=
  (∀ (s s2 u : State) (d a b : Opd) (ta tb : Bool) (t : Ty) (x y : Reg) (i : Instr) (f : Fmt → RMode → FOp → FOp → FRes),
    (i, f) ∈ floats2 d a b ta tb t → legalCode d = true → legalCode a = true → legalCode b = true → NoLoss s →
    read2 s a b ta tb = .ok (x, y, s2) →
    let r := f (fmtOf t) s.st.rm (operandOf t x) (operandOf t y)
    writeDest s2 d ⟨word r.bits, Tag.ofNat r.tag, true, none⟩ = .ok u →
    ∃ v, exec i s = .next v ∧ v.st.pc = s.st.pc + 4 ∧ v.st.fpflags = s.st.fpflags ||| r.flags.zeroExtend 64 ∧ v.st.lat = u.st.lat ∧
      (∀ l, v.st.reg l = u.st.reg l) ∧ v.core.queues = u.core.queues ∧ specialsButFlags v.st = specialsButFlags s.st ∧
      v.st.v = s.st.v ∧ v.st.m = s.st.m ∧ SameMemory s v ∧ SameAround s v ∧ SameScalars s v (toDest s d) [d, a, b]) ∧
  (∀ (s s3 u : State) (d a b : Opd) (ta tb : Bool) (t : Ty) (x y z : Reg) (i : Instr) (np nz : Bool),
    (i, np, nz) ∈ floats3 d a b ta tb t → legalCode d = true → legalCode a = true → legalCode b = true → NoLoss s →
    read3 s a b d ta tb = .ok (x, y, z, s3) →
    let r := fFma (fmtOf t) s.st.rm (operandOf t x) (operandOf t y) (operandOf t z) np nz
    writeDest s3 d ⟨word r.bits, Tag.ofNat r.tag, true, none⟩ = .ok u →
    ∃ v, exec i s = .next v ∧ v.st.pc = s.st.pc + 4 ∧ v.st.fpflags = s.st.fpflags ||| r.flags.zeroExtend 64 ∧
      (∀ l, v.st.reg l = u.st.reg l) ∧ SameMemory s v ∧ SameAround s v ∧ SameScalars s v (toDest s d) [d, a, b]) ∧
  (∀ (s s2 u : State) (d a b : Opd) (t : Ty) (x y : Reg) (i : Instr) (g : Bool), (i, g) ∈ [(Instr.fmin d a b t, false), (.fmax d a b t, true)] →
    legalCode d = true → legalCode a = true → legalCode b = true → NoLoss s → read2 s a b false false = .ok (x, y, s2) →
    let r := fMinMax (fmtOf t) g x.val.toNat y.val.toNat x.tag.val y.tag.val
    writeDest s2 d ⟨word r.bits, Tag.ofNat r.tag, true, none⟩ = .ok u →
    ∃ v, exec i s = .next v ∧ v.st.pc = s.st.pc + 4 ∧ v.st.fpflags = s.st.fpflags ||| r.flags.zeroExtend 64 ∧
      (∀ l, v.st.reg l = u.st.reg l) ∧ SameMemory s v ∧ SameAround s v ∧ SameScalars s v (toDest s d) [d, a, b]) ∧
  (∀ (s s2 u : State) (d a b : Opd) (ta tb : Bool) (t : Ty) (x y : Reg), legalCode d = true → legalCode a = true → legalCode b = true →
    NoLoss s → read2 s a b ta tb = .ok (x, y, s2) →
    let r := fScl (fmtOf t) s.st.rm (operandOf t x) (sclBound y.val.toInt)
    writeDest s2 d ⟨word r.bits, Tag.ofNat r.tag, true, none⟩ = .ok u →
    ∃ v, exec (.fscl d a b ta tb t) s = .next v ∧ v.st.pc = s.st.pc + 4 ∧ v.st.fpflags = s.st.fpflags ||| r.flags.zeroExtend 64 ∧
      (∀ l, v.st.reg l = u.st.reg l) ∧ SameMemory s v ∧ SameAround s v ∧ SameScalars s v (toDest s d) [d, a, b]) ∧
  ∀ (s s1 u : State) (d a : Opd) (t : Ty) (x : Reg), legalCode d = true → legalCode a = true → NoLoss s → readSrc s a false = .ok (x, s1) →
    let r := fRnd (fmtOf t) s.st.rm (operandOf t x)
    writeDest s1 d ⟨word r.bits, Tag.ofNat r.tag, true, none⟩ = .ok u →
    ∃ v, exec (.frnd d a t) s = .next v ∧ v.st.pc = s.st.pc + 4 ∧ v.st.fpflags = s.st.fpflags ||| r.flags.zeroExtend 64 ∧
      (∀ l, v.st.reg l = u.st.reg l) ∧ SameMemory s v ∧ SameAround s v ∧ SameScalars s v (toDest s d) [d, a]

/-- R360-R362, R365: compares write 1 or 0 with tag 64 and raise their NV; FCLASS sets the bit of the class; FCPS, FNEG and FABS change the
sign bit alone, keep the tag S1 had up to P and raise nothing; FCVT converts under FPMODE and extends an integer result by its signedness.
R132, R142, R355, R358: a NaN operand gives the canonical NaN with tag 0, NV only for a signalling one; the invalid sums, products and
quotients give it with NV; a finite nonzero dividend over zero gives infinity with DZ. R159-R161, R120: a float result whose tag falls below
THR while every operand's tag reached it is still written, with its flags, and the strand then takes SIGLOSS with the tags in TVAL, in user
mode only. -/
def Obligations.FloatComparesConversionsAndTraps : Prop :=
  ((∀ (s s2 u : State) (d a b : Opd) (t : Ty) (x y : Reg) (i : Instr) (f : FVal → FVal → Bool × FFlags), (i, f) ∈ floatCompares d a b t →
    legalCode d = true → legalCode a = true → legalCode b = true → read2 s a b false false = .ok (x, y, s2) →
    let r := f (operandOf t x).v (operandOf t y).v
    writeDest s2 d ⟨if r.1 then 1 else 0, Tag.full, true, none⟩ = .ok u →
    ∃ v, exec i s = .next v ∧ v.st.pc = s.st.pc + 4 ∧ v.st.fpflags = s.st.fpflags ||| r.2.zeroExtend 64 ∧
      (∀ l, v.st.reg l = u.st.reg l) ∧ SameMemory s v ∧ SameAround s v ∧ SameScalars s v (toDest s d) [d, a, b]) ∧
  (∀ (s s1 u : State) (d a : Opd) (ta : Bool) (t : Ty) (x : Reg), legalCode d = true → legalCode a = true → readSrc s a ta = .ok (x, s1) →
    writeDest s1 d ⟨word (fClass (fmtOf t) (operandOf t x)), Tag.full, true, none⟩ = .ok u →
    exec (.fclass d a ta t) s = .next (retire u) ∧ ScalarFrame s (retire u) (toDest s d) [d, a]) ∧
  (∀ (s s2 u : State) (d a b : Opd) (t : Ty) (x y : Reg) (g : Tag), t.isFloat = true → legalCode d = true → legalCode a = true →
    legalCode b = true → read2 s a b false false = .ok (x, y, s2) → g.val = min x.tag.val (fmtOf t).p →
    let w := t.width
    let n := x.val.toNat % 2 ^ w
    writeDest s2 d ⟨word (n % 2 ^ (w - 1) + 2 ^ (w - 1) * (y.val.toNat / 2 ^ (w - 1) % 2)), g, true, none⟩ = .ok u →
    exec (.fcps d a b t) s = .next (retire u) ∧ ScalarFrame s (retire u) (toDest s d) [d, a, b]) ∧
  (∀ (s s1 u : State) (d a : Opd) (t : Ty) (x : Reg) (g : Tag), t.isFloat = true → legalCode d = true → legalCode a = true →
    readSrc s a false = .ok (x, s1) → g.val = min x.tag.val (fmtOf t).p →
    let w := t.width
    let n := x.val.toNat % 2 ^ w
    (writeDest s1 d ⟨word (n % 2 ^ (w - 1) + 2 ^ (w - 1) * (1 - n / 2 ^ (w - 1))), g, true, none⟩ = .ok u →
      exec (.fneg d a t) s = .next (retire u) ∧ ScalarFrame s (retire u) (toDest s d) [d, a]) ∧
    (writeDest s1 d ⟨word (n % 2 ^ (w - 1)), g, true, none⟩ = .ok u →
      exec (.fabs d a t) s = .next (retire u) ∧ ScalarFrame s (retire u) (toDest s d) [d, a])) ∧
  ∀ (s s1 u : State) (d a : Opd) (ta : Bool) (src tgt : Ty) (x : Reg), src.isPlain = true → tgt.isPlain = true →
    legalCode d = true → legalCode a = true → NoLoss s → readSrc s a ta = .ok (x, s1) →
    let r := convert src tgt s.st.rm s.st.satF8 x.val.toNat x.tag.val
    writeDest s1 d ⟨if tgt.isSigned then (BitVec.ofNat tgt.width r.bits).signExtend 64 else word (r.bits % 2 ^ tgt.width),
      if tgt.isFloat then Tag.ofNat r.tag else if src = tgt then x.tag else Tag.full, true, none⟩ = .ok u →
    ∃ v, exec (.fcvt d a ta src tgt) s = .next v ∧ v.st.pc = s.st.pc + 4 ∧ v.st.fpflags = s.st.fpflags ||| r.flags.zeroExtend 64 ∧
      (∀ l, v.st.reg l = u.st.reg l) ∧ SameMemory s v ∧ SameAround s v ∧ SameScalars s v (toDest s d) [d, a]) ∧
  (∀ (f : Fmt) (rm : RMode) (x y : FOp),
    ((x.v.isNan = true ∨ y.v.isNan = true) →
      ∀ g ∈ [fAdd, fMul, fDiv], g f rm x y = ⟨canonNan f, 0, if x.v.isSnan || y.v.isSnan then 0x10 else 0⟩) ∧
    (∀ n, x.v = .inf n → y.v = .inf (!n) → fAdd f rm x y = ⟨canonNan f, 0, 0x10⟩) ∧
    (∀ n, x.v = .inf n → y.v.isZero = true → fMul f rm x y = ⟨canonNan f, 0, 0x10⟩) ∧
    (∀ n k, x.v = .inf n → y.v = .inf k → fDiv f rm x y = ⟨canonNan f, 0, 0x10⟩) ∧
    (x.v.isZero = true → y.v.isZero = true → fDiv f rm x y = ⟨canonNan f, 0, 0x10⟩) ∧
    ∀ n m q k p e, x.v = .fin n m q → m ≠ 0 → y.v = .fin k p e → p = 0 → fDiv f rm x y = ⟨infBits f (n != k), 0, 8⟩) ∧
  (∀ (s s2 u : State) (d a b : Opd) (ta tb : Bool) (t : Ty) (x y : Reg) (i : Instr) (f : Fmt → RMode → FOp → FOp → FRes),
    (i, f) ∈ floats2 d a b ta tb t → t.isFloat = true → legalCode d = true → legalCode a = true → legalCode b = true →
    read2 s a b ta tb = .ok (x, y, s2) → s.st.kernel = false → s.st.run ≠ .frozen →
    let r := f (fmtOf t) s.st.rm (operandOf t x) (operandOf t y)
    let ga := min x.tag.val (fmtOf t).p
    let gb := min y.tag.val (fmtOf t).p
    writeDest s2 d ⟨word r.bits, Tag.ofNat r.tag, true, none⟩ = .ok u →
    (r.tag < s.st.thr ∧ s.st.thr ≤ min ga gb →
      ∃ v, exec i s = .next v ∧ v.st.tepc = (s.st.pc + 4).zeroExtend 64 ∧ v.st.tcause = 1 ∧
        v.st.tval = word (gb * 2 ^ 16 + ga * 2 ^ 8 + r.tag) ∧ v.st.pc = pcOf s.st.tvec ∧ v.st.kernel = true ∧
        v.st.fpflags = s.st.fpflags ||| r.flags.zeroExtend 64 ∧ (∀ l, v.st.reg l = u.st.reg l) ∧ SameMemory s v) ∧
    ((s.st.thr ≤ r.tag ∨ min ga gb < s.st.thr) →
      ∃ v, exec i s = .next v ∧ v.st.pc = s.st.pc + 4 ∧ v.st.tcause = s.st.tcause ∧ (∀ l, v.st.reg l = u.st.reg l) ∧ SameMemory s v))

/-- R350-R352, R367, R368: element-wise integer instructions merge, wrap modulo 2^w, raise no flag and give wholly active groups tag 64.
R351, R355, R367, R371, R382: element-wise float instructions that complete in the core merge their results and raise the OR of the active
elements' flags; VFMA, VSCLA and VSCLAB take VD as addend, VSCLAB with the scale of element 0; VABS and VNEG change sign bits. R353, R356:
with its vector and scalar sources full, every vector instruction that gives VD a result completes, whatever its elements and types: it moves
on by one and changes VD, FPFLAGS and the queues it names alone. These are VADD VSUB VMUL VFMA VMIN VMAX VAND VOR VXOR VNOT VSHL VSHR VSRA
VSEL VDIV VSQRT VRSQ VABS VNEG VCVT VPERM VBCAST VINS VSIGSET VSCLA VSCLAB. -/
def Obligations.VectorArithmetic : Prop :=
  (∀ (s : State) (d a b : VIdx) (m : MIdx) (x y : Opd) (t u : Ty) (i : Instr) (vs : List VIdx) (cs : List Opd),
    (i, vs, cs) ∈ vectorForms d a b m x y t u → i.wf = true → VecsFull s vs → SourcesFull s cs → (t.isFloat = true ∨ u.isFloat = true → NoLoss s) →
    ∃ v, exec i s = .next v ∧ v.st.pc = s.st.pc + 4 ∧ VectorFrame s v d cs) ∧
  ((∀ (s : State) (d a b : VIdx) (m : MIdx) (t : Ty) (x y old : Lanes) (i : Instr) (f : Nat → Nat → Nat), (i, f) ∈ vecInts2 d a b m t →
    t.isInt = true → readVec s a = .ok x → readVec s b = .ok y → readVec s d = .ok old →
    ∃ v new, exec i s = .next v ∧ v.st.v[d.toFin] = ⟨new, true, none⟩ ∧ v.st.pc = s.st.pc + 4 ∧ v.st.fpflags = s.st.fpflags ∧
      Merged t (maskOf s.st m) old new (fun j => f (elem x.bits t.width j) (elem y.bits t.width j)) ∧
      (m = 0 → new.tags = Vector.replicate 16 Tag.full) ∧ VectorFrame s v d []) ∧
  ∀ (s : State) (d a : VIdx) (m : MIdx) (t : Ty) (x old : Lanes) (i : Instr) (f : Nat → Nat), (i, f) ∈ vecInts1 d a m t →
    t.isInt = true → i.wf = true → readVec s a = .ok x → readVec s d = .ok old →
    ∃ v new, exec i s = .next v ∧ v.st.v[d.toFin] = ⟨new, true, none⟩ ∧ v.st.pc = s.st.pc + 4 ∧ v.st.fpflags = s.st.fpflags ∧
      Merged t (maskOf s.st m) old new (fun j => f (elem x.bits t.width j)) ∧
      (m = 0 → new.tags = Vector.replicate 16 Tag.full) ∧ VectorFrame s v d []) ∧
  ((∀ (s : State) (d a b : VIdx) (m : MIdx) (t : Ty) (x y old : Lanes) (i : Instr) (f : RMode → Lanes → Lanes → Nat → FRes),
    (i, f) ∈ vecFloats2 d a b m t → t.isFloat = true → NoLoss s → readVec s a = .ok x → readVec s b = .ok y → readVec s d = .ok old →
    ∃ v new, exec i s = .next v ∧ v.st.v[d.toFin] = ⟨new, true, none⟩ ∧ v.st.pc = s.st.pc + 4 ∧
      Merged t (maskOf s.st m) old new (fun j => (f s.st.rm x y j).bits) ∧
      (∀ j, j < 512 / t.width → active (maskOf s.st m) t.width j = true →
        v.st.fpflags &&& (f s.st.rm x y j).flags.zeroExtend 64 = (f s.st.rm x y j).flags.zeroExtend 64) ∧ VectorFrame s v d []) ∧
  (∀ (s : State) (d a b : VIdx) (m : MIdx) (t : Ty) (x y z : Lanes) (i : Instr) (f : Nat → FRes),
    ((i, f) = (Instr.vfma d a b m t, fun j => fFma (fmtOf t) s.st.rm (fopAt x t j) (fopAt y t j) (fopAt z t j) false false) ∨
     (i, f) = (Instr.vscla d a b m t, fun j => fScaleAdd (fmtOf t) (fopAt z t j) (fopAt x t j) (fopAt y t j)) ∨
     (i, f) = (Instr.vsclab d a b m t, fun j => fScaleAdd (fmtOf t) (fopAt z t j) (fopAt x t j) (fopAt y t 0))) →
    t.isFloat = true → NoLoss s → readVec s a = .ok x → readVec s b = .ok y → readVec s d = .ok z →
    ∃ v new, exec i s = .next v ∧ v.st.v[d.toFin] = ⟨new, true, none⟩ ∧ v.st.pc = s.st.pc + 4 ∧
      Merged t (maskOf s.st m) z new (fun j => (f j).bits) ∧ VectorFrame s v d []) ∧
  ∀ (s : State) (d a : VIdx) (m : MIdx) (t : Ty) (x old : Lanes), t.isFloat = true → NoLoss s →
    readVec s a = .ok x → readVec s d = .ok old →
    let h := 2 ^ (t.width - 1)
    (∃ v new, exec (.vabs d a m t) s = .next v ∧ v.st.v[d.toFin] = ⟨new, true, none⟩ ∧ v.st.pc = s.st.pc + 4 ∧ v.st.fpflags = s.st.fpflags ∧
      Merged t (maskOf s.st m) old new (fun j => elem x.bits t.width j % h) ∧ VectorFrame s v d []) ∧
    ∃ v new, exec (.vneg d a m t) s = .next v ∧ v.st.v[d.toFin] = ⟨new, true, none⟩ ∧ v.st.pc = s.st.pc + 4 ∧ v.st.fpflags = s.st.fpflags ∧
      Merged t (maskOf s.st m) old new (fun j => elem x.bits t.width j % h + (1 - elem x.bits t.width j / h) * h) ∧ VectorFrame s v d [])

/-- R369, R370, R372, R375: VCMP sets every mask bit of an active element's bytes to the outcome and clears the others; VSEL takes VS1 where
active and VS2 elsewhere; VCVT converts the elements both types have and clears the rest; VPERM takes the element its index names. R374,
R376-R381: the moves between vector, scalar and mask registers. VRED gives the reduction of the active elements (for integer add, their
sum), VBCAST the scalar to every active element, VMOVX one element by its signedness with its group tag as R99 reads it (R155), VINS one
element; mask logic never writes m0, MPOP counts, VSIGMIN gives the least tag of the active groups, VSIGSET stamps them. With its sources
full and D free each of VRED, VMOVX, MPOP and VSIGMIN completes, whatever it reads. R367, R368, R382: so does each of VADD, VSUB, VMUL, VFMA,
VMIN, VMAX, VAND, VOR, VXOR, VNOT, VSHL, VSHR, VSRA, VABS, VNEG, VSCLA and VSCLAB with its vector registers full, and leaves VD full. -/
def Obligations.VectorComparesConvertsAndMoves : Prop :=
  (∀ (s : State) (d x : Opd) (a : VIdx) (k m : MIdx) (op : RedOp) (t : Ty) (i : Instr) (vs : List VIdx) (cs : List Opd),
    (i, vs, cs) ∈ vectorToScalar d x a k m op t → i.wf = true → VecsFull s vs → SourcesFull s cs → DestFree s d →
    (i = .vred op a d m t → t.isFloat = true → NoLoss s) →
    ∃ v, exec i s = .next v ∧ v.st.pc = s.st.pc + 4 ∧ specialsButFlags v.st = specialsButFlags s.st ∧ v.st.v = s.st.v ∧ v.st.m = s.st.m ∧
      SameMemory s v ∧ SameAround s v ∧ SameScalars s v (toDest s d) (d :: cs)) ∧
  (∀ (s : State) (d a b : VIdx) (m : MIdx) (t : Ty) (i : Instr), i.wf = true → (s.st.v[a.toFin]).full = true → (s.st.v[d.toFin]).full = true →
    (t.isFloat = true → NoLoss s) →
    (i ∈ [Instr.vadd d a b m t, .vsub d a b m t, .vmul d a b m t, .vfma d a b m t, .vmin d a b m t, .vmax d a b m t, .vand d a b m t,
        .vor d a b m t, .vxor d a b m t, .vshl d a b m t, .vshr d a b m t, .vsra d a b m t, .vscla d a b m t, .vsclab d a b m t] ∧
        (s.st.v[b.toFin]).full = true ∨
      i ∈ [Instr.vnot d a m t, .vabs d a m t, .vneg d a m t]) →
    ∃ v new, exec i s = .next v ∧ v.st.v[d.toFin] = ⟨new, true, none⟩ ∧ v.st.pc = s.st.pc + 4 ∧ VectorFrame s v d []) ∧
  ((∀ (s : State) (k : MIdx) (a b : VIdx) (m : MIdx) (t : Ty) (c : VCond) (x y : Lanes), t.isPlain = true →
    readVec s a = .ok x → readVec s b = .ok y →
    ∃ v, exec (.vcmp k a b m t c) s = .next v ∧ v.st.pc = s.st.pc + 4 ∧ v.st.v = s.st.v ∧ (k = 0 → v.st.m = s.st.m) ∧
      (k ≠ 0 → ∀ j, j < 64 → (v.st.m[k.toFin]).getLsbD j =
        (active (maskOf s.st m) t.width (8 * j / t.width) && (elemCompare t c x y (8 * j / t.width)).1)) ∧
      (∀ n : Fin 8, n ≠ k.toFin → v.st.m[n] = s.st.m[n]) ∧ SameMemory s v ∧ SameAround s v ∧ SameScalars s v toNone []) ∧
  (∀ (s : State) (d a b : VIdx) (m : MIdx) (t : Ty) (x y : Lanes), t.isPlain = true → m ≠ 0 →
    readVec s a = .ok x → readVec s b = .ok y → ((s.st.v[d.toFin]).full = true ∨ (s.st.v[d.toFin]).bind = none) →
    ∃ v new, exec (.vsel d a b m t) s = .next v ∧ v.st.v[d.toFin] = ⟨new, true, none⟩ ∧ v.st.pc = s.st.pc + 4 ∧ v.st.fpflags = s.st.fpflags ∧
      Merged t (maskOf s.st m) y new (fun j => elem x.bits t.width j) ∧ VectorFrame s v d []) ∧
  (∀ (s : State) (d a : VIdx) (src tgt : Ty) (m : MIdx) (x old : Lanes), NoLoss s → readVec s a = .ok x → readVec s d = .ok old →
    ∃ v new, exec (.vcvt d a tgt m src) s = .next v ∧ v.st.v[d.toFin] = ⟨new, true, none⟩ ∧ v.st.pc = s.st.pc + 4 ∧
      (∀ j, j < 512 / tgt.width → elem new.bits tgt.width j =
        if 512 / max src.width tgt.width ≤ j then 0
        else if active (maskOf s.st m) tgt.width j then (convElem src tgt s.st.rm s.st.satF8 x j).1.bits % 2 ^ tgt.width
        else elem old.bits tgt.width j) ∧ VectorFrame s v d []) ∧
  ∀ (s : State) (d a b : VIdx) (m : MIdx) (t : Ty) (x y old : Lanes), t.isPlain = true → readVec s a = .ok x → readVec s b = .ok y →
    readVec s d = .ok old →
    ∃ v new, exec (.vperm d a b m t) s = .next v ∧ v.st.v[d.toFin] = ⟨new, true, none⟩ ∧ v.st.pc = s.st.pc + 4 ∧ v.st.fpflags = s.st.fpflags ∧
      Merged t (maskOf s.st m) old new (fun j => elem x.bits t.width (elem y.bits t.width j % (512 / t.width))) ∧ VectorFrame s v d []) ∧
  ((∀ (s u : State) (op : RedOp) (a : VIdx) (d : Opd) (m : MIdx) (t : Ty) (x : Lanes), op.accepts t = true → legalCode d = true → NoLoss s →
    readVec s a = .ok x →
    let r := reduce op t s.st.rm x (maskOf s.st m)
    writeDest s d ⟨if t.isSigned then (BitVec.ofNat t.width r.bits).signExtend 64 else word (r.bits % 2 ^ t.width), Tag.ofNat r.tag, true, none⟩ =
      .ok u →
    (∃ v, exec (.vred op a d m t) s = .next v ∧ v.st.pc = s.st.pc + 4 ∧ (∀ l, v.st.reg l = u.st.reg l) ∧
      v.st.fpflags = s.st.fpflags ||| r.flags.zeroExtend 64 ∧ v.st.v = s.st.v ∧ v.st.m = s.st.m ∧ SameMemory s v ∧ SameAround s v) ∧
    (op = .add → t.isInt = true → r.bits % 2 ^ t.width =
      ((List.range (512 / t.width)).foldl (fun n j => if active (maskOf s.st m) t.width j then n + elem x.bits t.width j else n) 0) % 2 ^ t.width)) ∧
  (∀ (s s1 : State) (d : VIdx) (a : Opd) (m : MIdx) (t : Ty) (x : Reg) (old : Lanes), t.isPlain = true → legalCode a = true →
    readSrc s a false = .ok (x, s1) → readVec s1 d = .ok old →
    ∃ v new, exec (.vbcast d a m t) s = .next v ∧ v.st.v[d.toFin] = ⟨new, true, none⟩ ∧ v.st.pc = s.st.pc + 4 ∧ v.st.fpflags = s.st.fpflags ∧
      Merged t (maskOf s.st m) old new (fun _ => x.val.toNat) ∧ VectorFrame s v d [a]) ∧
  (∀ (s s1 u : State) (d j : Opd) (a : VIdx) (t : Ty) (x : Reg) (l : Lanes), t.isPlain = true → legalCode d = true → legalCode j = true →
    readSrc s j false = .ok (x, s1) → readVec s1 a = .ok l →
    let n := x.val.toNat % (512 / t.width)
    let e := elem l.bits t.width n
    writeDest s1 d ⟨if t.isSigned then (BitVec.ofNat t.width e).signExtend 64 else word e, Tag.ofNat (if t.isFloat then min (groupTagAt l t.width n) (fmtOf t).p else groupTagAt l t.width n), true, none⟩ =
      .ok u →
    exec (.vmovx d a j t) s = .next (retire u) ∧ ScalarFrame s (retire u) (toDest s d) [d, j]) ∧
  (∀ (s s2 : State) (d : VIdx) (a j : Opd) (t : Ty) (x n : Reg) (old : Lanes), t.isPlain = true → legalCode a = true → legalCode j = true →
    read2 s a j false false = .ok (x, n, s2) → readVec s2 d = .ok old →
    ∃ v new, exec (.vins d a j t) s = .next v ∧ v.st.v[d.toFin] = ⟨new, true, none⟩ ∧ v.st.pc = s.st.pc + 4 ∧ v.st.fpflags = s.st.fpflags ∧
      (∀ e, e < 512 / t.width → elem new.bits t.width e =
        if e = n.val.toNat % (512 / t.width) then x.val.toNat % 2 ^ t.width else elem old.bits t.width e) ∧ VectorFrame s v d [a, j]) ∧
  (∀ (s : State) (d a b : MIdx) (i : Instr) (f : Word → Word → Word),
    (i, f) ∈ [(Instr.mand d a b, fun x y => x &&& y), (.mor d a b, fun x y => x ||| y), (.mxor d a b, fun x y => x ^^^ y),
      (.mnot d a, fun x _ => ~~~x)] →
    ∃ v, exec i s = .next v ∧ v.st.pc = s.st.pc + 4 ∧ (d = 0 → v.st.m = s.st.m) ∧
      (d ≠ 0 → v.st.m[d.toFin] = f (maskOf s.st a) (maskOf s.st b)) ∧ (∀ n : Fin 8, n ≠ d.toFin → v.st.m[n] = s.st.m[n]) ∧ v.st.v = s.st.v ∧
      SameMemory s v ∧ SameAround s v ∧ specials v.st = specials s.st ∧ SameScalars s v toNone []) ∧
  (∀ (s u : State) (d : Opd) (a : MIdx) (t : Ty), t.isPlain = true → legalCode d = true →
    writeDest s d ⟨word ((List.range (512 / t.width)).countP fun j => (maskOf s.st a).getLsbD (t.width * j / 8)), Tag.full, true, none⟩ = .ok u →
    exec (.mpop d a t) s = .next (retire u) ∧ ScalarFrame s (retire u) (toDest s d) [d]) ∧
  (∀ (s u : State) (d : Opd) (a : VIdx) (m : MIdx) (x : Lanes) (g : Nat), legalCode d = true → readVec s a = .ok x → g ≤ 64 →
    (∀ j : Fin 16, (maskOf s.st m).getLsbD (4 * j.val) = true → g ≤ (x.tags[j]).val) →
    (g = 64 ∨ ∃ j : Fin 16, (maskOf s.st m).getLsbD (4 * j.val) = true ∧ (x.tags[j]).val = g) →
    writeDest s d ⟨word g, Tag.full, true, none⟩ = .ok u →
    exec (.vsigmin d a m) s = .next (retire u) ∧ ScalarFrame s (retire u) (toDest s d) [d]) ∧
  ∀ (s s1 : State) (d a : VIdx) (b : Opd) (m : MIdx) (y : Reg) (x old : Lanes), legalCode b = true → readVec s a = .ok x →
    readSrc s b false = .ok (y, s1) → readVec s1 d = .ok old →
    ∃ v new, exec (.vsigset d a b m) s = .next v ∧ v.st.v[d.toFin] = ⟨new, true, none⟩ ∧ v.st.pc = s.st.pc + 4 ∧ v.st.fpflags = s.st.fpflags ∧
      (∀ j : Fin 16, elem new.bits 32 j.val = (if (maskOf s.st m).getLsbD (4 * j.val) then elem x.bits 32 j.val else elem old.bits 32 j.val) ∧
        (new.tags[j]).val = if (maskOf s.st m).getLsbD (4 * j.val) then min y.val.toNat 64 else (old.tags[j]).val) ∧ VectorFrame s v d [b])

/-- R393-R395: from and to the own TCM with nothing outstanding. VLD and VLDT take each active element from its place in the 64 bytes, VST
and VSTT buffer one store a word with its active bytes enabled; VGATH and VSCAT do the same element by element at S1 + index × size. The PC
moves on and memory waits for the stores to leave. R385, R179: a vector load that reaches past the own TCM empties VD until its reply and is
one request; VST and VSCAT take room in the store buffer for their words at any home (log 38), with room on the memory network and in the
write-back queue (R206). -/
def Obligations.VectorMemoryAccesses : Prop :=
  (∀ (s s1 : State) (d : VIdx) (a b : Opd) (k : VIdx) (m : MIdx) (t : Ty) (base : Word) (x : Reg) (idx old : Lanes) (ys : List (Nat × Xlat))
    (i : Instr), legalCode a = true → legalCode b = true → readVec s1 d = .ok old → NothingHolds s s1 → fullHolds s1 s1.cur = false →
    (i ∈ [Instr.vld d a b m t, .vldt d a b m t] ∧ (i = .vldt d a b m t → s.st.tagbase = 0) ∧ vecBase s a b = .ok (base, s1) ∧
        base.toNat % 8 = 0 ∧
        reachAll s1 .read ((vecWords (maskOf s.st m) t.width).map fun j => vaOf (base + word (8 * j))) = .ok ys ∨
      i = .vgath d a k m t ∧ readSrc s a false = .ok (x, s1) ∧ readVec s1 k = .ok idx ∧
        (∀ e ∈ elemAddrs x.val idx (maskOf s.st m) t.width, e.2.toNat % (t.width / 8) = 0) ∧
        reachAll s1 .read ((elemAddrs x.val idx (maskOf s.st m) t.width).map fun e => vaOf e.2) = .ok ys) →
    (∃ y ∈ ys, ownTcm s1 y.2.pa = false) → (∀ y ∈ ys, ∀ z, cachePoison s1 s1.cur ⟨y.2.pa, z, y.2.nc, y.2.ro⟩ = false) →
    outstanding s1 < 32 → s1.core.wbq.length < 64 →
    ∃ u, exec i s = .next u ∧ u.st.pc = s.st.pc + 4 ∧ (u.st.v[d.toFin]).full = false ∧ (u.st.v[d.toFin]).bind = some s1.ticket ∧
      (∃ r ∈ u.core.reqs, r.ticket = s1.ticket ∧ r.strand = s.cur ∧ r.acc.pieces.map (·.pa) = ys.map (·.2.pa)) ∧
      (∃ n, s.now < n ∧ (n, Act.remoteReplyArrive s1.ticket) ∈ u.agenda) ∧ SameMemory s u ∧ SameScalars s u toNone [a, b]) ∧
  (∀ (s s1 : State) (d : VIdx) (a b : Opd) (k : VIdx) (m : MIdx) (t : Ty) (base : Word) (x : Reg) (idx l : Lanes) (ys : List (Nat × Xlat)) (i : Instr),
    legalCode a = true → legalCode b = true → readVec s1 d = .ok l → acquireHolds s s.cur = false → acquireHolds s1 s1.cur = false →
    (i = .vst d a b m t ∧ vecBase s a b = .ok (base, s1) ∧ base.toNat % 8 = 0 ∧
        reachAll s1 .write ((vecWords (maskOf s.st m) t.width).map fun j => vaOf (base + word (8 * j))) = .ok ys ∨
      i = .vscat d a k m t ∧ readSrc s a false = .ok (x, s1) ∧ readVec s1 k = .ok idx ∧
        (∀ e ∈ elemAddrs x.val idx (maskOf s.st m) t.width, e.2.toNat % (t.width / 8) = 0) ∧
        reachAll s1 .write ((elemAddrs x.val idx (maskOf s.st m) t.width).map fun e => vaOf e.2) = .ok ys) →
    BufferRoom s ys.length → AccessRoom s1 →
    ∃ u, exec i s = .next u ∧ u.st.pc = s.st.pc + 4 ∧ u.st.sb.length = s.st.sb.length + ys.length ∧ u.st.v = s.st.v ∧ SameMemory s u ∧
      SameScalars s u toNone [a, b]) ∧
  (∀ (s s1 : State) (d : VIdx) (a b : Opd) (m : MIdx) (t : Ty) (base : Word) (old : Lanes) (va : Nat) (i : Instr),
    i ∈ [Instr.vld d a b m t, .vldt d a b m t] → t ≠ .i4x → legalCode a = true → legalCode b = true → vecBase s a b = .ok (base, s1) →
    readVec s1 d = .ok old → NothingHolds s s1 → fullHolds s1 s1.cur = false → base.toNat = va → va % 8 = 0 → va + 64 ≤ 0x20000 →
    s.core.gcore < 12288 → (∀ j : Fin 8, poisoned s (tcmPa s.core.gcore (va + 8 * j.val)) = false) →
    ∃ v new, exec i s = .next v ∧ v.st.v[d.toFin] = ⟨new, true, none⟩ ∧ v.st.pc = s.st.pc + 4 ∧
      Merged t (maskOf s.st m) old new (fun j => elem (BitVec.ofNat 512 (bytesAt s (tcmPa s.core.gcore va) 64)) t.width j) ∧
      VectorFrame s v d [a, b]) ∧
  (∀ (s s1 : State) (d : VIdx) (a b : Opd) (m : MIdx) (t : Ty) (base : Word) (l : Lanes) (va : Nat) (i : Instr) (tagged : Bool),
    (i, tagged) ∈ [(Instr.vst d a b m t, false), (.vstt d a b m t, true)] → legalCode a = true → legalCode b = true →
    vecBase s a b = .ok (base, s1) → readVec s1 d = .ok l → acquireHolds s s.cur = false → acquireHolds s1 s1.cur = false →
    base.toNat = va → va % 8 = 0 → va + 64 ≤ 0x20000 → s.core.gcore < 12288 →
    BufferRoom s ((if tagged then 2 else 1) * (vecWords (maskOf s.st m) t.width).length) →
    ∃ v, exec i s = .next v ∧ v.st.pc = s.st.pc + 4 ∧
      v.st.sb = s.st.sb ++ (vecWords (maskOf s.st m) t.width).zipIdx.map (fun j => SbItem.store (s1.ticket + j.2)
        ⟨tcmPa s.core.gcore (va + 8 * j.1), l.bits.extractLsb' (64 * j.1) 64, wordEnables (maskOf s.st m) t.width j.1,
          if tagged then BitVec.ofNat 8 (wordTag l j.1) else 0x7F⟩ false false) ∧ v.st.v = s.st.v ∧
      SameMemory s v ∧ SameAround s v ∧ specials v.st = specials s.st ∧ SameScalars s v toNone [a, b]) ∧
  (∀ (s s1 : State) (d : VIdx) (a : Opd) (k : VIdx) (m : MIdx) (t : Ty) (x : Reg) (idx old : Lanes), t.isPlain = true → legalCode a = true →
    readSrc s a false = .ok (x, s1) → readVec s1 k = .ok idx → readVec s1 d = .ok old → NothingHolds s s1 → fullHolds s1 s1.cur = false →
    s.core.gcore < 12288 →
    (∀ e ∈ elemAddrs x.val idx (maskOf s.st m) t.width, e.2.toNat % (t.width / 8) = 0 ∧ e.2.toNat + 8 ≤ 0x20000 ∧
      poisoned s (tcmPa s.core.gcore e.2.toNat) = false) →
    ∃ v new, exec (.vgath d a k m t) s = .next v ∧ v.st.v[d.toFin] = ⟨new, true, none⟩ ∧ v.st.pc = s.st.pc + 4 ∧
      (∀ e ∈ elemAddrs x.val idx (maskOf s.st m) t.width,
        elem new.bits t.width e.1 = bytesAt s (tcmPa s.core.gcore e.2.toNat) (t.width / 8)) ∧
      (∀ j, j < 512 / t.width → active (maskOf s.st m) t.width j = false → elem new.bits t.width j = elem old.bits t.width j) ∧
      VectorFrame s v d [a]) ∧
  ∀ (s s1 : State) (d : VIdx) (a : Opd) (k : VIdx) (m : MIdx) (t : Ty) (x : Reg) (idx l : Lanes), t.isPlain = true → legalCode a = true →
    readSrc s a false = .ok (x, s1) → readVec s1 k = .ok idx → readVec s1 d = .ok l → acquireHolds s s.cur = false →
    acquireHolds s1 s1.cur = false → s.core.gcore < 12288 →
    (∀ e ∈ elemAddrs x.val idx (maskOf s.st m) t.width, e.2.toNat % (t.width / 8) = 0 ∧ e.2.toNat + 8 ≤ 0x20000) →
    BufferRoom s (elemAddrs x.val idx (maskOf s.st m) t.width).length →
    ∃ v, exec (.vscat d a k m t) s = .next v ∧ v.st.pc = s.st.pc + 4 ∧
      v.st.sb = s.st.sb ++ (elemAddrs x.val idx (maskOf s.st m) t.width).zipIdx.map (fun e => SbItem.store (s1.ticket + e.2)
        (storeOf (tcmPa s.core.gcore e.1.2.toNat) (t.width / 8) (word (elem l.bits t.width e.1.1)) 0x7F) false false) ∧ v.st.v = s.st.v ∧
      SameMemory s v ∧ SameAround s v ∧ SameScalars s v toNone [a]

/-! ## Handles, engines and messages -/

/-- R110, R111, R96, R269: an instruction that returns a handle takes a free entry; D holds the id with status 0xFF, empty and bound to the
entry, and lat the same value full. The completion fills the registers of the strand that are bound to it, and the entry is filled. Which
free entry is taken is left open (log 20). R400, R413, R302-R305: ISSUE takes a handle and hands the command, words 1 and 2 replaced by S1
and S2 where they are not zr, to its engine's intake; the tile engine's front end accepts it later, the copy engine at the next cycle. A
tile the strand does not own is TILE, and a full intake stalls. So with their sources full, D free, a free entry and room in the intake
ISSUE.TILE, ISSUE.COPY, ISSUE.MEM and ISSUE.XCHG complete; CANCELH completes whatever its register holds, and withdraws only what has not
started (R348, R349). A completion whose operation still waits at a controller is taken when it has been served (R212). -/
def Obligations.HandlesBindAndCommandsIssue : Prop :=
  ((∀ (s : State) (d : Opd) (o : Owner) (strap : Bool), handleCode d = true → DestFree s d → HandleFree s →
    ∃ h t, takeHandle s d o strap = .ok (h, t)) ∧
  (∀ (s : State) (d a b : Opd) (vc : BitVec 4), handleCode d = true → SourcesFull s [a, b] → (s.st.v[(vc.setWidth 5 : VIdx).toFin]).full = true →
    DestFree s d → HandleFree s →
    ((∀ ws s1, commandWords s vc a b = .ok (ws, s1) → unowned s (rawCommand s ws) = none ∧
        (∀ v ∈ tileReads (rawCommand s ws), (s.st.v[v]).full = true) ∧ ∀ v ∈ tileWrites (rawCommand s ws), (s.st.v[v]).full = true) →
      (∀ p ∈ s.core.tile.pend, p.1.strand ≠ s.cur) →
      ∃ v c, exec (.issueTile d vc a b) s = .next v ∧ v.st.pc = s.st.pc + 4 ∧ v.core.tile.pend = s.core.tile.pend ++ [(c, s.now)] ∧
        c.strand = s.cur ∧ (s.now + 1, Act.tileFrontEndAccept) ∈ v.agenda ∧ SameMemory s v ∧ SameScalars s v (toDest s d) [a, b]) ∧
    ((∀ ws s1, commandWords s vc a b = .ok (ws, s1) → credEndpoint s (rawCommand s ws) = .ok ()) → copyHeld s < 96 →
      ∃ v c, exec (.issueCopy d vc a b) s = .next v ∧ v.st.pc = s.st.pc + 4 ∧ v.core.copy.intake = s.core.copy.intake ++ [c] ∧
        c.strand = s.cur ∧ (s.now + 1, Act.command c) ∈ v.agenda ∧ SameMemory s v ∧ SameScalars s v (toDest s d) [a, b]) ∧
    (s.core.memIntake.length < 8 →
      ∃ v c n, exec (.issueMem d vc a b) s = .next v ∧ v.st.pc = s.st.pc + 4 ∧ v.core.memIntake = s.core.memIntake ++ [c] ∧
        c.strand = s.cur ∧ s.now < n ∧ (n, Act.command c) ∈ v.agenda ∧ SameMemory s v ∧ SameScalars s v (toDest s d) [a, b]) ∧
    (s.core.xchgIntake.length < 8 →
      ∃ v c n, exec (.issueXchg d vc a b) s = .next v ∧ v.st.pc = s.st.pc + 4 ∧ v.core.xchgIntake = s.core.xchgIntake ++ [c] ∧
        c.strand = s.cur ∧ s.now < n ∧ (n, Act.command c) ∈ v.agenda ∧ SameMemory s v ∧ SameScalars s v (toDest s d) [a, b])) ∧
  (∀ (s : State) (a : Opd), handleCode a = true →
    ∃ t, exec (.cancelh a) s = .next t ∧ t.st.pc = s.st.pc + 4 ∧ SameScalars s t toNone []) ∧
  ∀ (s : State) (h : Fin 128) (st : Completion), hbmBusy s h = true →
    exec (.completion h st) s = .next (s.at (s.now + 1) (.completion h st))) ∧
  ((∀ (s t : State) (d : Opd) (o : Owner) (strap : Bool) (l : Loc) (h : Fin 128), handleCode d = true → locOf s.st.frm d = some l →
    takeHandle s d o strap = .ok (h, t) →
    let v : Word := word (0xFF0000 + (t.core.table[h]).gen.toNat * 128 + h.val)
    (s.core.table[h]).state = .free ∧ (t.core.table[h]).state = .pending ∧ (t.core.table[h]).owner = o ∧ (t.core.table[h]).strand = s.cur ∧
      t.st.reg l = ⟨v, Tag.full, false, some (.handle h)⟩ ∧ t.st.lat = ⟨v, Tag.full, true, none⟩ ∧ ScalarFrame s t (toDest s d) []) ∧
  (∀ (s : State) (h : Fin 128) (st : Completion) (l : Loc), (s.core.table[h]).state = .pending → (s.core.table[h]).dead = false →
    hbmBusy s h = false → (s.core.table[h]).vdst = [] → (s.strand (s.core.table[h]).strand).spilled = [] → l ≠ .lat →
    ∃ t, exec (.completion h st) s = .next t ∧ (t.core.table[h]).state = .filled ∧ (t.core.table[h]).status = st.status ∧ SameMemory s t ∧
      ((((s.strand (s.core.table[h]).strand).reg l).bind = some (.handle h) ∧ ((s.strand (s.core.table[h]).strand).reg l).full = false) →
        (t.strand (s.core.table[h]).strand).reg l =
          ⟨word (st.hi.toNat * 2 ^ 32 + st.detail.toNat * 2 ^ 24 + st.status.toNat * 2 ^ 16 + (s.core.table[h]).gen.toNat * 128 + h.val),
            Tag.full, true, some (.handle h)⟩) ∧
      ((s.core.table[h]).strap = true → st.status = 5 → (t.strand (s.core.table[h]).strand).singular ≠ [])) ∧
  ∀ (s : State) (a : Opd) (l : Loc) (h : Fin 128), handleCode a = true → locOf s.st.frm a = some l →
    ((s.st.reg l).bind = some (.handle h) → (s.core.table[h]).state = .pending → (s.core.table[h]).started = false →
      (s.core.table[h]).owner ∈ [.tile, .copy, .mem, .xchg] →
      ∃ t, exec (.cancelh a) s = .next t ∧ t.st.pc = s.st.pc + 4 ∧ (s.now + 2, Act.completion h ⟨3, 0, 0⟩) ∈ t.agenda ∧
        (∀ c ∈ t.core.copy.intake ++ t.core.memIntake ++ t.core.xchgIntake ++ t.core.tile.pend.map (·.1), c.handle ≠ h) ∧
        ScalarFrame { s with hub := t.hub } t toNone []) ∧
    ((∀ e, (s.st.reg l).bind ≠ some (.handle e)) → exec (.cancelh a) s = .next (retire s)) ∧
    (∀ e : Fin 128, (s.st.reg l).bind = some (.handle e) → ((s.core.table[e]).state ≠ .pending ∨ (s.core.table[e]).started = true) →
      exec (.cancelh a) s = .next (retire s))) ∧
  ((∀ (s s1 u t : State) (d a b : Opd) (vc : BitVec 4) (ws : Vector Word 4) (vin : List Lanes) (vd : List (Fin 32 × Nat × Lanes)) (h : Fin 128),
    handleCode d = true → commandWords s vc a b = .ok (ws, s1) → readVecs s1 (tileReads (rawCommand s ws)) = .ok vin →
    (∀ n, unowned s (rawCommand s ws) = some n → exec (.issueTile d vc a b) s = .next (freeze s s.cur 0x0B false s.st.pc 0 (word n) s.word)) ∧
    (unowned s (rawCommand s ws) = none → (∀ p ∈ s.core.tile.pend, p.1.strand ≠ s.cur) →
      pendVecs { s1 with ticket := s1.ticket + 3 } (s1.ticket + 1) (tileWrites (rawCommand s ws)) = .ok (u, vd) →
      takeHandle u d .tile (cmdStrap (rawCommand s ws)) = .ok (h, t) →
      ∃ v, exec (.issueTile d vc a b) s = .next v ∧ v.st.pc = s.st.pc + 4 ∧
        v.core.tile.pend = s.core.tile.pend ++ [({ rawCommand s ws with handle := h, vin := vin }, s.now)] ∧
        (s.now + 1, Act.tileFrontEndAccept) ∈ v.agenda ∧ v.st.lat = t.st.lat ∧ SameMemory s v ∧ SameScalars s v (toDest s d) [a, b])) ∧
  (∀ (s s1 t : State) (d a b : Opd) (vc : BitVec 4) (ws : Vector Word 4) (h : Fin 128), handleCode d = true →
    commandWords s vc a b = .ok (ws, s1) →
    (credEndpoint s (rawCommand s ws) = .ok () → copyHeld s < 96 → takeHandle { s1 with ticket := s1.ticket + 1 } d .copy false = .ok (h, t) →
      ∃ v, exec (.issueCopy d vc a b) s = .next v ∧ v.st.pc = s.st.pc + 4 ∧
        v.core.copy.intake = s.core.copy.intake ++ [{ rawCommand s ws with handle := h }] ∧
        (s.now + 1, Act.command { rawCommand s ws with handle := h }) ∈ v.agenda ∧ SameMemory s v ∧ SameScalars s v (toDest s d) [a, b]) ∧
    (credEndpoint s (rawCommand s ws) = .ok () → 96 ≤ copyHeld s →
      exec (.issueCopy d vc a b) s = .next (s.setRun s.cur (.stalled (.intakeFull 1)))) ∧
    (s.core.memIntake.length < 8 → takeHandle { s1 with ticket := s1.ticket + 1 } d .mem false = .ok (h, t) →
      ∃ v n, exec (.issueMem d vc a b) s = .next v ∧ v.st.pc = s.st.pc + 4 ∧
        v.core.memIntake = s.core.memIntake ++ [{ rawCommand s ws with handle := h }] ∧ s.now < n ∧
        (n, Act.command { rawCommand s ws with handle := h }) ∈ v.agenda ∧ SameMemory s v ∧ SameScalars s v (toDest s d) [a, b]) ∧
    (s.core.xchgIntake.length < 8 → takeHandle { s1 with ticket := s1.ticket + 1 } d .xchg false = .ok (h, t) →
      ∃ v n, exec (.issueXchg d vc a b) s = .next v ∧ v.st.pc = s.st.pc + 4 ∧
        v.core.xchgIntake = s.core.xchgIntake ++ [{ rawCommand s ws with handle := h }] ∧ s.now < n ∧
        (n, Act.command { rawCommand s ws with handle := h }) ∈ v.agenda ∧ SameMemory s v ∧ SameScalars s v (toDest s d) [a, b])) ∧
  ∀ (s : State) (w0 w1 w2 w3 : Word) (vc : BitVec 4) (a b : Opd) (x y : Reg) (s1 s2 : State) (l : Lanes), legalCode a = true → legalCode b = true →
    readVec s (vc.setWidth 5) = .ok l →
    w0 = l.bits.extractLsb' 0 64 → w1 = l.bits.extractLsb' 64 64 → w2 = l.bits.extractLsb' 128 64 → w3 = l.bits.extractLsb' 192 64 →
    (a = 49 → b = 49 → commandWords s vc a b = .ok (#v[w0, w1, w2, w3], s)) ∧
    (a ≠ 49 → b ≠ 49 → readSrc s a false = .ok (x, s1) → readSrc s1 b false = .ok (y, s2) →
      commandWords s vc a b = .ok (#v[w0, x.val, y.val, w3], s2)))

/-- R396, R43, R215, R494: SEND reads its payload from the TCM at its commit and commits the message, marked with its strand and order, to the
endpoint's buffer; an endpoint with no circuit is ENDPOINT, a closed one and a full buffer stall. -/
def Obligations.SendCommitsTheMessage : Prop :=
  ∀ (s s2 : State) (a b : Opd) (ta tb : Bool) (n : BitVec 4) (x y : Reg) (ep : Fin 32),
    legalCode a = true → legalCode b = true → read2 s a b ta tb = .ok (x, y, s2) → y.val = word ep.val →
    x.val.toNat + 64 * (n.toNat + 1) ≤ 0x20000 → x.val.toNat % 64 = 0 →
    let at_ := fun (i : Nat) => tcmPa s.core.gcore (x.val.toNat + 8 * i)
    ((ep.val < 30 ∧ (s.core.send[ep]).circuit = true ∧ (s.core.send[ep]).closed = false ∧ (s.core.send[ep]).load + (n.toNat + 1) ≤ 16 ∧
        NothingHolds s s2 ∧ fullHolds s2 s2.cur = false ∧ s.core.gcore < 12288 ∧ ∀ i, i < 8 * (n.toNat + 1) → poisoned s (at_ i) = false) →
      ∃ t, exec (.send a b ta tb n) s = .next t ∧ t.st.pc = s.st.pc + 4 ∧
        (t.core.send[ep]).buf = (s.core.send[ep]).buf ++
          [⟨flitsOf ((List.range (8 * (n.toNat + 1))).map fun i => wordAt s (at_ i)) (n.toNat + 1), s.now, s.cur, s.ticket⟩] ∧
        (s.now + 1, Act.messageStart ep) ∈ t.agenda ∧ ScalarFrame s t toNone [a, b]) ∧
    ((30 ≤ ep.val ∨ (s.core.send[ep]).circuit = false) →
      exec (.send a b ta tb n) s = .next (freeze s s.cur 0x0C false s.st.pc 0 (word ep.val) s.word)) ∧
    (ep.val < 30 → (s.core.send[ep]).circuit = true → (s.core.send[ep]).closed = true →
      exec (.send a b ta tb n) s = .next (s.setRun s.cur (.stalled (.closedEndpoint ep)))) ∧
    (ep.val < 30 → (s.core.send[ep]).circuit = true → (s.core.send[ep]).closed = false → 16 < (s.core.send[ep]).load + (n.toNat + 1) →
      exec (.send a b ta tb n) s = .next (s.setRun s.cur (.stalled (.sendBuffer ep (n.toNat + 1)))))

/-- R408-R410, R67, R230: CREQ sends its request to Badger with the greater of its own and the queue's priority; CREL closes its endpoint
and tells Badger when the buffer is empty; a demand or capacity post reads its record from TCM and is posted. Each returns a handle.
R411-R412, R213, R210: LAUNCH, FCINC and FCINCN enter the store buffer as releases at scope 4 that carry the launch or the increment; FCWAIT
on a value already reached acquires and goes on, and otherwise holds the strand; the increment is told at the next wheel, and a strand whose
value it reaches goes on. -/
def Obligations.RequestsLaunchesAndCounters : Prop :=
  ((∀ (s s1 : State) (d a b : Opd) (vc : BitVec 4) (ws : Vector Word 4), handleCode d = true →
    commandWords s vc a b = .ok (ws, s1) →
    let src : BitVec 32 := (ws[1]).setWidth 32
    let w3 := setFld ws[3] 47 45 (max (fld ws[3] 47 45) (if s.core.cell.isSome then s.core.pri else 0))
    epKind src = 0 → epNumber src = s.core.gcore → epEp src < 30 → DestFree s1 d → HandleFree s1 →
    (creqBad s1 ws[0] ws[1] ws[2] w3 = false → fld ws[0] 7 0 = 4 → ∀ ep : Fin 32, ep.val = epEp src →
      ∃ v h, exec (.creq d vc a b) s = .next v ∧ v.st.pc = s.st.pc + 4 ∧ (v.core.table[(h : Fin 128)]).state = .pending ∧ SameMemory s v ∧
        SameScalars s v (toDest s d) [d, a, b] ∧
        ((s.core.send[ep]).circuit = true → (v.core.send[ep]).closed = true ∧ ∃ r : CircReq, r.handle = some h ∧ r.crel = true ∧
          (s.now + 1, Act.sendBufferEmpty ep r) ∈ v.agenda) ∧
        ((s.core.send[ep]).circuit = false → (s.now, Act.completion h ⟨1, 0, 0⟩) ∈ v.agenda)) ∧
    (creqBad s1 ws[0] ws[1] ws[2] w3 = false → fld ws[0] 7 0 ≠ 4 →
      ∃ v n h r, exec (.creq d vc a b) s = .next v ∧ v.st.pc = s.st.pc + 4 ∧ s.now < n ∧ (n, Act.badgerRequestArrive r) ∈ v.agenda ∧
        r.handle = some (h : Fin 128) ∧ (v.core.table[h]).state = .pending ∧ r.gcore = s.core.gcore ∧ r.w0 = ws[0] ∧ r.w1 = ws[1] ∧
        r.w2 = ws[2] ∧ r.w3 = w3 ∧ SameMemory s v ∧ SameScalars s v (toDest s d) [d, a, b]) ∧
    (creqBad s1 ws[0] ws[1] ws[2] w3 = true →
      ∃ v h, exec (.creq d vc a b) s = .next v ∧ v.st.pc = s.st.pc + 4 ∧ (s.now, Act.completion h ⟨0x4E, 0, 0⟩) ∈ v.agenda)) ∧
  (∀ (s s1 : State) (d a : Opd) (ta : Bool) (x : Reg) (ep : Fin 32), handleCode d = true → legalCode a = true →
    readSrc s a ta = .ok (x, s1) → x.val = word ep.val → ep.val < 30 → DestFree s1 d → HandleFree s1 →
    ((s.core.send[ep]).circuit = true →
      ∃ v h r, exec (.crel d a ta) s = .next v ∧ v.st.pc = s.st.pc + 4 ∧ (v.core.send[ep]).closed = true ∧
        (s.now + 1, Act.sendBufferEmpty ep r) ∈ v.agenda ∧ r.handle = some (h : Fin 128) ∧ r.crel = true ∧ SameMemory s v ∧
        SameScalars s v (toDest s d) [d, a]) ∧
    ((s.core.send[ep]).circuit = false →
      ∃ v h, exec (.crel d a ta) s = .next v ∧ v.st.pc = s.st.pc + 4 ∧ (s.now, Act.completion h ⟨1, 0, 0⟩) ∈ v.agenda)) ∧
  (∀ (s s1 : State) (d a : Opd) (ta : Bool) (x : Reg) (n : Nat) (cap : Bool) (i : Instr),
    let w := fun (j : Nat) => wordAt s (tcmPa s.core.gcore (x.val.toNat + 8 * j))
    (i, cap, n) ∈ [(Instr.dpostDem d a ta, false, min (fld (w 0) 47 40) 64), (Instr.dpostCap d a ta, true, 2)] → handleCode d = true →
    legalCode a = true → readSrc s a ta = .ok (x, s1) → x.val.toNat % 8 = 0 → x.val.toNat + (16 + 8 * n) ≤ 0x20000 →
    NothingHolds s s1 → fullHolds s1 s1.cur = false → s.core.gcore < 12288 → DestFree s1 d → HandleFree s1 →
    (∀ j, j < 2 + n → poisoned s (tcmPa s.core.gcore (x.val.toNat + 8 * j)) = false) →
    (postBad cap (w 0) (w 1) ((List.range n).map fun j => w (2 + j)) = false →
      ∃ v m p h, exec i s = .next v ∧ v.st.pc = s.st.pc + 4 ∧ s.now < m ∧ (m, Act.postArrive p) ∈ v.agenda ∧
        p = laterPost (postOf cap h (w 0) (w 1) ((List.range n).map fun j => w (2 + j))) (partLag s s.part) ∧ SameMemory s v ∧ SameScalars s v (toDest s d) [d, a]) ∧
    (postBad cap (w 0) (w 1) ((List.range n).map fun j => w (2 + j)) = true →
      ∃ v h, exec i s = .next v ∧ v.st.pc = s.st.pc + 4 ∧ (s.now, Act.completion h ⟨0x4E, 0, 0⟩) ∈ v.agenda))) ∧
  ((∀ (s s2 : State) (d a b : Opd) (ta tb : Bool) (x y : Reg) (q : BitVec 12) (z : Xlat), handleCode d = true →
    legalCode a = true → legalCode b = true → read2 s a b ta tb = .ok (x, y, s2) → y.val = q.zeroExtend 64 → qValid s q.toNat = true →
    qFunc s q.toNat = s.func → x.val.toNat % 64 = 0 → acquireHolds s s.cur = false → acquireHolds s2 s2.cur = false → fullHolds s2 s2.cur = false →
    reachOne s2 (x.val.toNat % 2 ^ 43) .read .vector = .ok z → s2.core.wbq.length < 64 → DestFree s2 d → HandleFree s2 →
    let job : Job := Vector.ofFn fun i => viewWord s2 (z.pa + 8 * i.val)
    (job.legal (16 * (partClusters s2 s2.part).length) = true →
      ∃ v h, exec (.launch d a b ta tb) s = .next v ∧ v.st.pc = s.st.pc + 4 ∧
        v.st.sb = s.st.sb ++ [.release s2.ticket .device (.launch h q z.pa) false false] ∧ SameMemory s v ∧ SameScalars s v (toDest s d) [a, b]) ∧
    (job.legal (16 * (partClusters s2 s2.part).length) = false →
      ∃ v h, exec (.launch d a b ta tb) s = .next v ∧ v.st.pc = s.st.pc + 4 ∧ (s.now, Act.completion h ⟨0x4E, 0, 0⟩) ∈ v.agenda)) ∧
  (∀ (s s2 : State) (a b : Opd) (vec : BitVec 6) (x y : Reg) (i : Instr) (w : Option (BitVec 6)),
    (i, w) ∈ [(Instr.fcinc a b, none), (.fcincn vec a b, some vec)] → legalCode a = true → legalCode b = true →
    read2 s a b false false = .ok (x, y, s2) → s2.core.wbq.length < 64 →
    (x.val.toNat < fcCount s s.func →
      ∃ t, exec i s = .next t ∧ t.st.pc = s.st.pc + 4 ∧
        t.st.sb = s.st.sb ++ [.release s2.ticket .device (.fcinc s.func x.val.toNat y.val w) false false] ∧ ScalarFrame s t toNone [a, b]) ∧
    (fcCount s s.func ≤ x.val.toNat → exec i s = .next (freeze s s.cur 0x04 false s.st.pc 0 1 s.word))) ∧
  (∀ (s s2 : State) (a b : Opd) (x y : Reg), legalCode a = true → legalCode b = true → read2 s a b false false = .ok (x, y, s2) →
    x.val.toNat < fcCount s s.func →
    (y.val.toNat ≤ (counterValue s s.func x.val.toNat).toNat → ThroughRoom s2 →
      ∃ t, exec (.fcwait a b) s = .next t ∧ t.st.pc = s.st.pc + 4 ∧ t.st.acq.isSome = true ∧ ScalarFrame s t toNone [a, b]) ∧
    ((counterValue s s.func x.val.toNat).toNat < y.val.toNat →
      ∃ t, exec (.fcwait a b) s = .next t ∧ t.st.pc = s.st.pc ∧ t.st.run = .stalled (.fcwait x.val.toNat y.val) ∧ SameMemory s t)) ∧
  ∀ (s : State) (f : Fin 17) (i : Nat),
    ∃ t, exec (.fenceCounterNotify f i) s = .next t ∧ SameMemory s t ∧ t.hub = s.hub ∧
      ∀ k n, s.func = f.val → ThroughRoom s → (s.strand k).run = .stalled (.fcwait i n) → n.toNat ≤ (counterValue s f.val i).toNat →
        (t.strand k).run = .ready ∧ (t.strand k).pc = (s.strand k).pc + 4 ∧ (t.strand k).acq.isSome = true)

/-- R397, R398, R490: MBOX reads its record from TCM and asks its endpoint to arm as a QUEUE or LATEST mailbox, or to close, at the next
message boundary. R190, R191, R397-R399, R89, R90, R510: a QUEUE mailbox deposits a message in its next slot and advances TAIL; a LATEST one
deposits in the slot that is neither ready nor reader and names it in READY; an arming takes effect between messages; an active message is
deposited, and its first eight words and its handler's address go to a dormant strand. -/
def Obligations.MailboxesArmDepositAndClaim : Prop :=
  ((∀ (s s2 : State) (a b : Opd) (ta tb int act : Bool) (x y : Reg) (ep : Fin 64) (w0 w1 : Word) (i : Instr) (k : MboxKind),
    (i, k) ∈ [(Instr.mboxQueue a b ta tb int act, .queue), (.mboxLatest a b ta tb int act, .latest)] → legalCode a = true → legalCode b = true →
    read2 s a b ta tb = .ok (x, y, s2) → x.val = word ep.val → ep.val < 63 → y.val.toNat + 16 ≤ 0x20000 → y.val.toNat % 8 = 0 →
    NothingHolds s s2 → fullHolds s2 s2.cur = false → OwnWord s y.val.toNat 16 → poisoned s (tcmPa s.core.gcore (y.val.toNat + 8)) = false →
    w0 = wordAt s (tcmPa s.core.gcore y.val.toNat) → w1 = wordAt s (tcmPa s.core.gcore (y.val.toNat + 8)) →
    armingBad w0 w1 (armingOf w0 w1 k act int s.cur) = false →
    (armingOf w0 w1 k act int s.cur).slotAddr (armingOf w0 w1 k act int s.cur).count ≤ 0x20000 →
    ∃ t, exec i s = .next t ∧ t.st.pc = s.st.pc + 4 ∧ (t.core.recv[ep]).next = some (.arm (armingOf w0 w1 k act int s.cur)) ∧
      ((s.core.recv[ep]).part = 0 → (s.now, Act.mboxArmEffect ep) ∈ t.agenda) ∧ ScalarFrame s t toNone [a, b]) ∧
  ∀ (s s1 : State) (a : Opd) (ta : Bool) (x : Reg) (ep : Fin 64), legalCode a = true → readSrc s a ta = .ok (x, s1) → x.val = word ep.val →
    (ep.val < 63 → ∃ t, exec (.mboxClose a ta) s = .next t ∧ t.st.pc = s.st.pc + 4 ∧ (t.core.recv[ep]).next = some .close ∧
      ((s.core.recv[ep]).part = 0 → (s.now, Act.mboxArmEffect ep) ∈ t.agenda) ∧ ScalarFrame s t toNone [a]) ∧
    (ep.val = 63 → exec (.mboxClose a ta) s = .next (freeze s s.cur 0x0C false s.st.pc 0 63 s.word))) ∧
  ((∀ (s : State) (ep : Fin 64) (a : Arming) (f : Flit), (s.core.recv[ep]).arming = some a → (s.core.recv[ep]).queue = [f] →
    (s.core.recv[ep]).part = 0 → (s.core.recv[ep]).next = none → f.last = true → s.core.waiters = [] → Memory.wf s = true → s.core.gcore < 12288 →
    a.base % 64 = 0 → 1 ≤ a.f → a.slotAddr a.count ≤ 0x20000 →
    let at_ := fun (o : Nat) => tcmPa s.core.gcore o
    let room := (wordAt s (at_ a.base) - wordAt s (at_ (a.base + 8))).toNat < a.slots
    let lies := fun (t : State) (n : Nat) => ∀ i : Nat, i < 8 →
      wordAt t (at_ (a.slotAddr n + 8 * i)) = f.data.extractLsb' (64 * i) 64 ∧ feAt t (at_ (a.slotAddr n + 8 * i)) = true ∧
        tagByteAt t (at_ (a.slotAddr n + 8 * i)) = 0x7F ∧ poisoned t (at_ (a.slotAddr n + 8 * i)) = f.poison
    let taken := fun (t : State) => (t.core.recv[ep]).queue = [] ∧ (t.core.recv[ep]).count = (s.core.recv[ep]).count + 1 ∧
      (t.core.recv[ep]).seq = (s.core.recv[ep]).seq + 1 ∧ (t.core.recv[ep]).part = 0 ∧
      (t.core.recv[ep]).pend = ((s.core.recv[ep]).pend || a.int) ∧ (s.now + 1, Act.windowReturnSend ep) ∈ t.agenda
    (a.kind = .queue → a.act = false → room → ∃ t, exec (.mailboxQueueDeposit ep) s = .next t ∧
      lies t ((s.core.recv[ep]).seq % a.slots) ∧ wordAt t (at_ a.base) = word ((s.core.recv[ep]).seq + 1) ∧ taken t) ∧
    (a.kind = .queue → a.act = false → ¬ room → ∃ t, exec (.mailboxQueueDeposit ep) s = .next t ∧ SameMemory s t ∧ t.core = s.core ∧
      (s.now + 1, Act.mailboxQueueDeposit ep) ∈ t.agenda) ∧
    (a.kind = .latest → a.act = false → ∃ t n, exec (.mailboxLatestDeposit ep) s = .next t ∧ n ≠ (s.core.recv[ep]).reader ∧
      n ≠ (s.core.recv[ep]).ready ∧ n ≤ 2 ∧ lies t n ∧ (t.core.recv[ep]).ready = n ∧ taken t ∧
      wordAt t (at_ a.base) = word ((s.core.recv[ep]).seq % 2 ^ 32 * 2 ^ 32 + n) ∧ feAt t (at_ a.base) = true ∧
      wordAt t (at_ (a.base + 8)) = if feAt s (at_ a.base) then wordAt s (at_ (a.base + 8)) + 1 else wordAt s (at_ (a.base + 8))) ∧
    (a.act = true → a.kind = .queue → room → f.poison = false →
      (∀ e < ep, ∀ p ∈ s.agenda, p.1 ≤ s.now → p.2 ≠ .activeMessageClaim e) → ∀ k : Fin 16, eligible s = some k →
      ∃ t, exec (.activeMessageClaim ep) s = .next t ∧ lies t ((s.core.recv[ep]).seq % a.slots) ∧ taken t ∧ (t.strand k).run = .ready ∧
        (t.strand k).pc = a.hpc ∧ (∀ i : Nat, i < 8 → (t.strand k).reg (.ring (ringIx (s.strand k).frm (8 + i))) =
          ⟨f.data.extractLsb' (64 * i) 64, Tag.full, true, none⟩) ∧
        ∀ j, j ≠ k → t.strand j = s.strand j)) ∧
  (∀ (s : State) (ep : Fin 64), (s.core.recv[ep]).part = 0 →
    (∀ a, (s.core.recv[ep]).next = some (.arm a) → a.kind = .queue → ∃ t, exec (.mboxArmEffect ep) s = .next t ∧ SameMemory s t ∧
      (t.core.recv[ep]).arming = some a ∧ (t.core.recv[ep]).next = none ∧
      (t.core.recv[ep]).seq = (wordAt s (tcmPa s.core.gcore a.base)).toNat) ∧
    (∀ a, (s.core.recv[ep]).next = some (.arm a) → a.kind = .latest → Memory.wf s = true → s.core.gcore < 12288 → a.base % 64 = 0 → a.base < 0x20000 →
      ∃ t, exec (.mboxArmEffect ep) s = .next t ∧ (t.core.recv[ep]).arming = some a ∧ (t.core.recv[ep]).next = none ∧
        (t.core.recv[ep]).ready = 1 ∧ (t.core.recv[ep]).reader = 2 ∧ wordAt t (tcmPa s.core.gcore a.base) = 0 ∧
        feAt t (tcmPa s.core.gcore a.base) = false) ∧
    ((s.core.recv[ep]).next = some .close → ∃ t, exec (.mboxArmEffect ep) s = .next t ∧ SameMemory s t ∧
      (t.core.recv[ep]).arming = none ∧ (t.core.recv[ep]).next = none)) ∧
  ∀ (s : State) (ep : Fin 64), (s.core.recv[ep]).part ≠ 0 → exec (.mboxArmEffect ep) s = .next s)

/-! ## Engine commands -/

/-- R425, R426, R420, R415, R143: TLD converts its rows into an accumulator, TST and TCVT write an accumulator's rows to memory, TZERO
clears, TSIG gives the row tags to two vector registers; other accumulators, memory words and registers stay. That a command's effects fall
in one step is the model's reading (log 21). -/
def Obligations.TileMovesConvertsAndClears : Prop :=
  ∀ (s : State) (c : EngCmd), s.core.gcore < 12288 → Memory.wf s = true →
    (let src := tyOf (cmdAfmt c)
     let f := fun (i j : Fin 32) => convert src (tyOf (cmdCfmt c)) .rne false (matElem s c.w1 src 0 i.val j.val).1 (matElem s c.w1 src 0 i.val j.val).2
     CmdFits c 0 (decide (cmdBfmt c = 0 ∧ c.w2 = 0 ∧ (cmdCfmt c = 9 ∧ 9 ≤ cmdAfmt c ∧ cmdAfmt c ≤ 13 ∨ cmdCfmt c = 8 ∧ 8 ≤ cmdAfmt c ∧ cmdAfmt c ≤ 9)))
       [matBad c.w1 1 (rowBytes src), accBad (cmdCfmt c) c.w3] →
     (∀ o ∈ tileWords c.w1 0 (rowBytes src), poisoned s (kindPa s c.w1 o) = false) →
     ∃ t, exec (.tld c) s = .next t ∧ AccHolds s t (cmdCfmt c) c.w3 f ∧ SameMemory s t ∧ TileAround s t ∧ CmdFlags s t c (gridFlags f) ∧
       TileEnds s t c (moveCycles (rowBytes src)) ⟨0, 0, 0⟩) ∧
    (let n := rowBytes (tyOf (cmdCfmt c))
     CmdFits c 0 (decide (cmdAfmt c = 0 ∧ cmdBfmt c = 0 ∧ c.w2 = 0 ∧ 8 ≤ cmdCfmt c ∧ cmdCfmt c ≤ 9)) [accBad (cmdCfmt c) c.w1, matBad c.w3 1 n] →
     accPoison s 1 (cmdCfmt c) c.w1 = none →
     ∃ t, exec (.tst c) s = .next t ∧ t.core.acc = s.core.acc ∧
       (∀ i : Fin 32, WordsStored t c.w3 (matWord c.w3 0 i.val) (packRow (tyOf (cmdCfmt c)).width
         (((accRead s (cmdCfmt c) c.w1)[i]).1.toList.map fun b => (b, ((accRead s (cmdCfmt c) c.w1)[i]).2)))) ∧
       SameWordsBut s t ((tileWords c.w3 0 n).map (kindPa s c.w3)) ∧ TileAround s t ∧ CmdFlags s t c 0 ∧ TileEnds s t c (moveCycles n) ⟨0, 0, 0⟩) ∧
    (CmdFits c 0 (decide (cmdAfmt c = 0 ∧ cmdBfmt c = 0 ∧ c.w1 = 0 ∧ c.w2 = 0 ∧ 8 ≤ cmdCfmt c ∧ cmdCfmt c ≤ 9)) [accBad (cmdCfmt c) c.w3] →
     ∃ t, exec (.tzero c) s = .next t ∧ AccHolds s t (cmdCfmt c) c.w3 (fun _ _ => ⟨0, 64, 0⟩) ∧ SameMemory s t ∧ TileAround s t ∧
       CmdFlags s t c 0 ∧ TileEnds s t c (if cmdCfmt c = 8 then 8 else 4) ⟨0, 0, 0⟩) ∧
    (CmdFits c 0 (decide (cmdAfmt c = 0 ∧ cmdBfmt c = 0 ∧ c.w2 = 0 ∧ 8 ≤ cmdCfmt c ∧ cmdCfmt c ≤ 9)) [accBad (cmdCfmt c) c.w1, vecBad 2 c.w3] →
     accPoison s 1 (cmdCfmt c) c.w1 = none →
     ∃ t x y, exec (.tsig c) s = .next t ∧ (t.core.table[c.handle]).vdst = fillLanes (s.core.table[c.handle]).vdst [x, y] ∧
       (∀ i : Fin 16, elem x.bits 32 i.val = ((s.core.acc[accIx c.w1 0]).tags[i.val]).val ∧
         elem y.bits 32 i.val = ((s.core.acc[accIx c.w1 0]).tags[16 + i.val]).val) ∧
       t.core.acc = s.core.acc ∧ SameMemory s t ∧ TileAround s t ∧ CmdFlags s t c 0 ∧ TileEnds s t c 4 ⟨0, 0, 0⟩) ∧
    (let tgt := tyOf (cmdCfmt c)
     let v := accRead s (cmdAfmt c) c.w1
     let f := fun (i j : Fin 32) => convert (tyOf (cmdAfmt c)) tgt (rmOf (fld c.fpmode 2 0)) (c.fpmode.getLsbD 3) (v[i].1[j]) v[i].2
     CmdFits c 0 (decide (cmdBfmt c = 0 ∧ c.w2 = 0 ∧ 8 ≤ cmdAfmt c ∧ cmdAfmt c ≤ 9 ∧
         (cmdCfmt c ∈ [0, 2, 10, 11, 12, 13, 14] ∨ cmdCfmt c = 9 ∧ cmdAfmt c = 8)))
       [accBad (cmdAfmt c) c.w1, matBad c.w3 1 (rowBytes tgt)] →
     accPoison s 1 (cmdAfmt c) c.w1 = none →
     ∃ t, exec (.tcvt c) s = .next t ∧ t.core.acc = s.core.acc ∧
       (∀ i : Fin 32, WordsStored t c.w3 (matWord c.w3 0 i.val) (packRow (if tgt = .i4x then 4 else tgt.width)
         ((List.finRange 32).map fun j => ((f i j).bits, (f i j).tag)))) ∧
       SameWordsBut s t ((tileWords c.w3 0 (rowBytes tgt)).map (kindPa s c.w3)) ∧ TileAround s t ∧ CmdFlags s t c (gridFlags f) ∧
       TileEnds s t c (moveCycles (rowBytes tgt)) ⟨0, 0, 0⟩)

/-- R427, R428, R429, R422, R423, R157: TTRN transposes, TSCAL adds a scaled accumulator, TADD adds two, TMMA adds KT tiles of products in
groups of eight; other accumulators and memory words stay, and the flags raised are those of the elements. That a command's effects fall in
one step is the model's reading (log 21), as are the corners of log 42. -/
def Obligations.TileTransposesScalesAndMultiplies : Prop :=
  ∀ (s : State) (c : EngCmd), s.core.gcore < 12288 → Memory.wf s = true →
    (let fmt := cmdAfmt c
     let ty := tyOf fmt
     let n := rowBytes ty
     let src := fun (i j : Fin 32) =>
       if descKind c.w1 = 3 then ((accRead s fmt c.w1)[i].1[j], (accRead s fmt c.w1)[i].2) else matElem s c.w1 ty 0 i.val j.val
     CmdFits c 0 (decide (cmdBfmt c = 0 ∧ c.w2 = 0 ∧ fmt = cmdCfmt c ∧ fmt ≤ 13)) [ttrnBad ty c.w1, ttrnBad ty c.w3, ttrnOverlap ty c.w1 c.w3] →
     sidePoison s 1 fmt c.w1 (tileWords c.w1 0 n) = none →
     ∃ t, exec (.ttrn c) s = .next t ∧ TileAround s t ∧ CmdFlags s t c 0 ∧
       TileEnds s t c (if isMem c.w1 || isMem c.w3 then moveCycles n else moveCycles 128) ⟨0, 0, 0⟩ ∧
       (descKind c.w3 = 3 → AccHolds s t fmt c.w3 (fun i j => ⟨(src j i).1, (src j i).2, 0⟩) ∧ SameMemory s t) ∧
       (descKind c.w3 ≠ 3 → (∀ i : Fin 32, WordsStored t c.w3 (matWord c.w3 0 i.val) (packRow ty.width ((List.finRange 32).map fun j => src j i))) ∧
         SameWordsBut s t ((tileWords c.w3 0 n).map (kindPa s c.w3)) ∧ t.core.acc = s.core.acc)) ∧
    (let fmt := cmdAfmt c
     let f := fmtOf (tyOf fmt)
     let a := accRead s fmt c.w1
     let z := accRead s fmt c.w3
     let g := fun (i j : Fin 32) => scaleAdd f (fop f (z[i].1[j]) z[i].2) (fop f (a[i].1[j]) a[i].2)
       (if cmdFlags c / 2 % 2 = 1 then scaleAt s c i.val else .fin false 1 0) (if cmdFlags c % 2 = 1 then scaleAt s c (32 + j.val) else .fin false 1 0)
     CmdFits c 3 (decide (8 ≤ fmt ∧ fmt ≤ 9 ∧ cmdBfmt c = 9 ∧ cmdCfmt c = fmt)) [accBad fmt c.w1, scaleBad c.w2, accBad fmt c.w3] →
     accPoison s 1 fmt c.w1 = none → accPoison s 3 fmt c.w3 = none →
     (isMem c.w2 = true → ∀ i : Fin 32, poisoned s (kindPa s c.w2 (descBase c.w2 + 8 * i.val)) = false) →
     ∃ t, exec (.tscal c) s = .next t ∧ AccHolds s t fmt c.w3 g ∧ SameMemory s t ∧ TileAround s t ∧ CmdFlags s t c (gridFlags g) ∧
       TileEnds s t c (if fmt = 8 then 72 else 40) ⟨0, 0, 0⟩) ∧
    (let fmt := cmdAfmt c
     let f := fmtOf (tyOf fmt)
     let a := accRead s fmt c.w1
     let b := accRead s fmt c.w2
     let g := fun (i j : Fin 32) => fAdd f .rne (fop f (a[i].1[j]) a[i].2) (fop f (b[i].1[j]) b[i].2)
     CmdFits c 0 (decide (8 ≤ fmt ∧ fmt ≤ 9 ∧ cmdBfmt c = fmt ∧ cmdCfmt c = fmt)) [accBad fmt c.w1, accBad fmt c.w2, accBad fmt c.w3] →
     accPoison s 1 fmt c.w1 = none → accPoison s 2 fmt c.w2 = none →
     ∃ t, exec (.tadd c) s = .next t ∧ AccHolds s t fmt c.w3 g ∧ SameMemory s t ∧ TileAround s t ∧ CmdFlags s t c (gridFlags g) ∧
       TileEnds s t c (if fmt = 8 then 72 else 40) ⟨0, 0, 0⟩) ∧
    (let fmt := cmdCfmt c
     let ty := tyOf (cmdAfmt c)
     let kt := cmdKt c
     let r := mGroups s c (fmtOf (tyOf fmt)) (kt * kOf ty / 8) 0 (accRead s fmt c.w3) 0
     CmdFits c 0xF (mmaFormats (cmdAfmt c) (cmdBfmt c) fmt) [matBad c.w1 kt 64, matBad c.w2 kt 64, accBad fmt c.w3] →
     r.2.2 = none →
     ∃ t, exec (.tmma c) s = .next t ∧
       (∀ i j : Fin 32, ((t.core.acc[accIx c.w3 0]).rows[i])[j] = BitVec.ofNat 32 (r.1[i].1[j])) ∧
       (∀ i : Fin 32, (t.core.acc[accIx c.w3 0]).tags[i] = Tag.ofNat r.1[i].2) ∧
       (fmt = 8 → ∀ i j : Fin 32, ((t.core.acc[accIx c.w3 1]).rows[i])[j] = BitVec.ofNat 32 (r.1[i].1[j] / 2 ^ 32)) ∧
       (∀ a : Fin 8, a ≠ accIx c.w3 0 → (fmt = 8 → a ≠ accIx c.w3 1) → t.core.acc[a] = s.core.acc[a]) ∧ SameMemory s t ∧ TileAround s t ∧
       CmdFlags s t c r.2.1 ∧ TileEnds s t c (16 + kt * (if ty = .f64 then 512 else if ty = .f32 then 256 else 128)) ⟨0, 0, 0⟩)

/-- R431-R434, R430: GACC, GSUB and GDAMP combine two blocks element by element; GSCHUR eliminates the variables after the first k and
writes the rest's block; GMEAN writes the mean. A pivot that fails ends with SINGULAR and its number; words outside the result stay. That a
command's effects fall in one step is the model's reading (log 21). -/
def Obligations.GaussianCommandsWriteTheirBlocks : Prop :=
  ∀ (s : State) (c : EngCmd), s.core.gcore < 12288 → Memory.wf s = true →
    let ty := tyOf (cmdAfmt c)
    let f := fmtOf ty
    let d := hdrDim (hdr s c.w1)
    let a := readBlock s c.w1 ty d
    let fmts := decide (8 ≤ cmdAfmt c ∧ cmdAfmt c ≤ 9 ∧ cmdBfmt c = 0 ∧ cmdCfmt c = 0)
    (∀ (i : Instr) (g : FOp → FOp → FRes),
      (i, g) ∈ [(Instr.gacc c, fAdd f .rne), (.gsub c, fSub f .rne), (.gdamp c, gdamp f a.h0)] →
      CmdFits c 0 fmts [gaussBad c.w1, gaussBad c.w2, gaussBad c.w3] → sourceBad s c c.w1 = false → sourceBad s c c.w2 = false →
      hdrDim (hdr s c.w2) = d → targetBad c.w3 (blockBytes ty d) = false →
      (∀ o ∈ spanOffsets c.w1 (blockBytes ty d), poisoned s (kindPa s c.w1 o) = false) →
      (∀ o ∈ spanOffsets c.w2 (blockBytes ty d), poisoned s (kindPa s c.w2 o) = false) →
      let b := readBlock s c.w2 ty d
      let rs := (a.els.zip b.els).map fun x => g (fop f x.1.1 x.1.2) (fop f x.2.1 x.2.2)
      ∃ t, exec i s = .next t ∧
        WordsStored t c.w3 (fun k => descBase c.w3 + 8 * k)
          ([((joinHeader a.h0 b.h0).toNat, 0x7F), (a.h1.toNat, 0x7F)] ++ packRow ty.width (rs.map fun r => (r.bits, r.tag))) ∧
        SameWordsBut s t ((spanOffsets c.w3 (blockBytes ty d)).map (kindPa s c.w3)) ∧ t.core.acc = s.core.acc ∧ TileAround s t ∧
        CmdFlags s t c (rs.foldl (fun x r => x ||| r.flags) 0) ∧ TileEnds s t c (12 + blockCount d) ⟨0, 0, 0⟩) ∧
    (let k := cmdFlags c % 16
     let e := eliminate f d k c.thr a.els
     CmdFits c 0xF fmts [gaussBad c.w1, gaussBad c.w3] → c.w2 = 0 → 0 < k → k < d → sourceBad s c c.w1 = false →
     targetBad c.w3 (blockBytes ty k) = false → (∀ o ∈ spanOffsets c.w1 (blockBytes ty d), poisoned s (kindPa s c.w1 o) = false) →
     ∃ t, exec (.gschur c) s = .next t ∧
       WordsStored t c.w3 (fun j => descBase c.w3 + 8 * j)
         ([((setFld (setFld a.h0 7 0 k) 32 32 (if e.failed.isSome || a.h0.getLsbD 32 then 1 else 0)).toNat, 0x7F), (a.h1.toNat, 0x7F)] ++
           packRow ty.width ((keptPart d k e.els).map fun x => (x.1, if e.failed.isSome then 0 else x.2))) ∧
       SameWordsBut s t ((spanOffsets c.w3 (blockBytes ty k)).map (kindPa s c.w3)) ∧ t.core.acc = s.core.acc ∧ TileAround s t ∧
       CmdFlags s t c e.flags ∧
       TileEnds s t c (16 + 20 * (d * (d - k))) (match e.failed with | some p => ⟨5, BitVec.ofNat 8 p, 0⟩ | none => ⟨0, 0, 0⟩)) ∧
    (let e := eliminate f d 0 c.thr a.els
     CmdFits c 0 fmts [gaussBad c.w1] → isMem c.w3 = true → fld c.w3 59 32 = 0 → c.w2 = 0 → sourceBad s c c.w1 = false →
     targetBad c.w3 (packedBytes ty d) = false → (∀ o ∈ spanOffsets c.w1 (blockBytes ty d), poisoned s (kindPa s c.w1 o) = false) →
     ∃ t, exec (.gmean c) s = .next t ∧
       WordsStored t c.w3 (fun j => descBase c.w3 + 8 * j)
         (packRow ty.width (if e.failed.isSome then List.replicate d (canonNan f, 0) else (backward f d e d).1)) ∧
       SameWordsBut s t ((spanOffsets c.w3 (packedBytes ty d)).map (kindPa s c.w3)) ∧ t.core.acc = s.core.acc ∧ TileAround s t ∧
       CmdFlags s t c (if e.failed.isSome then e.flags else (backward f d e d).2) ∧
       TileEnds s t c (16 + 20 * (d * d)) (match e.failed with | some p => ⟨5, BitVec.ofNat 8 p, 0⟩ | none => ⟨0, 0, 0⟩)) ∧
    (∀ i ∈ tileCommands c, fld c.w0 31 30 ≠ 0 ∨ cmdDeadline c ≠ 0 →
      ∃ t, exec i s = .next t ∧ (s.now + 2, Act.completion c.handle ⟨0x4E, 0, 0⟩) ∈ t.agenda ∧ t.core.acc = s.core.acc ∧ SameMemory s t ∧
        TileAround s t ∧ t.core.strands = s.core.strands)

/-- R402-R405, R497, R247, R248: a copy command whose fields pass leaves the intake for a channel, feasible or not as its deadline and the other
channels' are, and beats follow; a beat serves the chosen channel once its translations and units are there (R196, R218), and the command
completes after its last one. When beats move is left open (log 3). R244, R246, R404, R444, R512-R515: a first core's CRED sends its packet,
or ends at once where its route names no further core; a later hop waits for its packet, takes one held, or reports late where it was
flushed; a packet's flits stand in the queue of endpoint 62, its header meets the waiting channel, is held, waits while 16 are held, or past
its deadline is flushed, and its payload is taken flit by flit. The corners of log 43 are the model's reading. R84, R414, R406, R497, R407, R238: the tile front end accepts the chosen command, which begins when the queue was empty;
SCAN writes its header and records; XRUN joins its round. Word 1 of a SCAN header is left open (log 22). -/
def Obligations.EnginesCopyChainScanAndExchange : Prop :=
  ((∀ (s : State) (c : EngCmd) (i : Instr) (k : ChanKind), fld c.w0 31 30 = 0 → fld c.w0 27 16 = 0 → c.w2.toNat % 8 = 0 → addrBad c.w2 = false →
    (i = .cpy c ∧ k = .linear c.w1.toNat c.w2.toNat (fld c.w3 31 0) (redOf c) ∧ cmdFlags c ≤ 4 ∧ addrBad c.w1 = false ∧ c.w1.toNat % 8 = 0 ∧
        fld c.w3 63 32 = 0 ∧ lenBad (fld c.w3 31 0) = false ∨
      i = .cpys c ∧ k = .rows c.w1.toNat c.w2.toNat (8 * fld c.w3 47 32) (8 * fld c.w3 63 48) (fld c.w3 31 16) (fld c.w3 15 0) (redOf c) ∧
        cmdFlags c ≤ 4 ∧ addrBad c.w1 = false ∧ c.w1.toNat % 8 = 0 ∧ fld c.w3 31 16 ≠ 0 ∧ lenBad (fld c.w3 15 0) = false ∨
      i = .cpyz c ∧ k = .zero c.w2.toNat (fld c.w3 31 0) ∧ cmdFlags c = 0 ∧ c.w1 = 0 ∧ fld c.w3 63 32 = 0 ∧ lenBad (fld c.w3 31 0) = false ∨
      i = .scrub c ∧ k = .scrub c.w1.toNat c.w2.toNat (fld c.w3 31 0) ∧ cmdFlags c = 0 ∧ addrBad c.w1 = false ∧ c.w1.toNat % 64 = 0 ∧
        fld c.w3 63 32 = 0 ∧ fld c.w3 31 0 ≠ 0 ∧ fld c.w3 31 0 % 64 = 0 ∧ outsideHbm s c c.w1.toNat (fld c.w3 31 0) = false) →
    let x : Chan := ⟨c, k, 0, false⟩
    let u := (dropChan s c.handle).modCopy fun e => { e with chans := e.chans ++ [x] }
    ∃ t n, exec i s = .next t ∧
      t.core.copy.chans = (s.core.copy.chans.filter (·.cmd.handle != c.handle) ++ [x]).map (fun y => { y with feas := y.feasible u }) ∧
      t.core.copy.intake = s.core.copy.intake.filter (·.handle != c.handle) ∧ (n, Act.copyEngineBeat) ∈ t.agenda ∧ SameMemory s t ∧
      t.core.strands = s.core.strands) ∧
  (∀ (s : State) (c : EngCmd), scrubBad s c = false → c.w1.toNat % 64 = 0 → c.w2.toNat % 8 = 0 → fld c.w3 31 0 = 0 →
    ∃ t n st, exec (.scrub c) s = .next t ∧ (st = 0 ∨ st = 2) ∧ s.now < n ∧ (n, Act.completion c.handle ⟨st, 0, 0⟩) ∈ t.agenda ∧ SameMemory s t) ∧
  (∀ s : State, chooseChan s = none → exec .copyEngineBeat s = .next (kickCopy s)) ∧
  (∀ (s : State) (c : Chan) (pa : Nat), chooseChan s = some c → engineWait s c.cmd c.reach.1 c.reach.2 = none → c.copied s = some pa →
    exec .copyEngineBeat s = .next (kickCopy (needCopy s pa))) ∧
  (∀ (s t : State) (c : Chan), chooseChan s = some c → engineWait s c.cmd c.reach.1 c.reach.2 = some t →
    exec .copyEngineBeat s = .next (kickCopy t)) ∧
  (∀ (s u : State) (c : Chan) (n src dst len : Nat), chooseChan s = some c → engineWait s c.cmd c.reach.1 c.reach.2 = none → c.copied s = none →
    let t0 := startEntry (engineGo s c.cmd) c.cmd.handle
    (∃ red, c.kind = .linear src dst len red ∧
        moveWords t0 c.cmd (src + 64 * c.beat) (dst + 64 * c.beat) (min 8 ((len - 64 * c.beat) / 8)) red.toNat = .ok u ∨
      c.kind = .zero dst len ∧ (∃ dp, engAddrs t0 c.cmd .write (dst + 64 * c.beat) (min 8 ((len - 64 * c.beat) / 8)) = .ok dp ∧
        u = engBeat t0 dp (dp.map fun _ => 0))) →
    n = (len + 63) / 64 →
    ∃ t, exec .copyEngineBeat s = .next t ∧ SameMemory u t ∧
      (c.beat + 1 ≠ n → t.core.copy.chans = u.core.copy.chans.map fun x => if x.cmd.handle = c.cmd.handle then { c with beat := c.beat + 1 } else x) ∧
      (c.beat + 1 = n → t.core.copy.chans = u.core.copy.chans.filter (·.cmd.handle != c.cmd.handle) ∧
        ∃ m st, (st = 0 ∨ st = 2) ∧ s.now < m ∧ (m, Act.completion c.cmd.handle ⟨st, 0, 0⟩) ∈ t.agenda)) ∧
  (∀ (s : State) (c : EngCmd) (src dst n : Nat) (sp dp : List Nat), engAddrs s c .read src n = .ok sp → engAddrs s c .write dst n = .ok dp →
    ((∀ pa ∈ sp, poisoned s pa = false) → moveWords s c src dst n 0 = .ok (cmdFlagsTo (engBeat s dp (sp.map (wordAt s))) c 0)) ∧
    ((∃ pa ∈ sp, poisoned s pa = true) → moveWords s c src dst n 0 = .error 4)) ∧
  ∀ (s : State) (c : EngCmd) (i : Instr), i ∈ [Instr.cpy c, .cpys c, .cpyz c, .cred c, .scrub c] → fld c.w0 31 30 ≠ 0 ∨ fld c.w0 27 16 ≠ 0 →
    ∃ t, exec i s = .next t ∧ (s.now + 2, Act.completion c.handle ⟨0x4E, 0, 0⟩) ∈ t.agenda ∧ SameMemory s t ∧ t.core.strands = s.core.strands) ∧
  ((∀ (s : State) (c : EngCmd), credBad s c = false → c.w1.toNat % 8 = 0 → c.w2.toNat % 8 = 0 → credRblk c % 8 = 0 →
    (credFirst c = true → (∀ i, i < 6 → poisoned s (tcmPa s.core.gcore (credRblk c + 8 * i)) = false) →
      ((firstPacket s c).hops = 0 → ∃ t, exec (.cred c) s = .next t ∧ (s.now + 2, Act.completion c.handle ⟨0, 0, 1⟩) ∈ t.agenda ∧ SameMemory s t) ∧
      ((firstPacket s c).hops ≠ 0 → ∃ t x, exec (.cred c) s = .next t ∧ x ∈ t.core.copy.chans ∧ x.cmd = c ∧ x.beat = 0 ∧
        x.kind = .credSend c.w1.toNat (firstPacket s c) [(firstPacket s c).headFlit] ∧ SameMemory s t)) ∧
    (credFirst c = false →
      (∀ r ∈ s.core.copy.flushed, ¬ (r.crid = credCrid c ∧ r.round = credRound c)) →
      (∀ p ∈ s.core.copy.early, ¬ (p.crid = credCrid c ∧ p.round = credRound c)) →
      let x : Chan := ⟨c, .credWait c.w1.toNat c.w2.toNat (credCrid c) (credRound c), 0, false⟩
      let u := (dropChan s c.handle).modCopy fun e => { e with chans := e.chans ++ [x] }
      ∃ t, exec (.cred c) s = .next t ∧ SameMemory s t ∧
        t.core.copy.chans = (s.core.copy.chans.filter (·.cmd.handle != c.handle) ++ [x]).map fun y => { y with feas := y.feasible u }) ∧
    (credFirst c = false → (∃ r ∈ s.core.copy.flushed, r.crid = credCrid c ∧ r.round = credRound c) →
      ∃ t n, exec (.cred c) s = .next t ∧ s.now < n ∧ (n, Act.completion c.handle ⟨2, 0, 0⟩) ∈ t.agenda)) ∧
  (∀ (s : State) (p : CredPacket),
    ((s.core.recv[(62 : Fin 64)]).arming.isSome = true → ∃ t, exec (.credPacketArrive p) s = .next t ∧ SameMemory s t ∧ t.core.copy = s.core.copy ∧
      (t.core.recv[(62 : Fin 64)]).queue.length = (s.core.recv[(62 : Fin 64)]).queue.length + (packetFlits p).length) ∧
    ((s.core.recv[(62 : Fin 64)]).arming = none → headerNext s p = false →
      let u := s.modRecv 62 fun r => { r with queue := r.queue ++ packetFlits p, got := r.got + (packetFlits p).length }
      (headerNext u p = false → ∃ t, exec (.credPacketArrive p) s = .next t ∧ SameMemory s t ∧ t.core.copy = s.core.copy ∧
        (t.core.recv[(62 : Fin 64)]).queue = (s.core.recv[(62 : Fin 64)]).queue ++ packetFlits p) ∧
      (headerNext u p = true → exec (.credPacketArrive p) s = exec (.credPacketArrive p) u))) ∧
  (∀ (s : State) (p : CredPacket), (s.core.recv[(62 : Fin 64)]).arming = none → headerNext s p = true → p.payload = [] → p.bad = [] →
    (∀ w c, s.core.copy.chans = [w] → w.cmd = c → (∃ src dst, w.kind = .credWait src dst p.crid p.round) →
      (p.pop.2.hops = 0 ∨ (s.core.send[credSep c]).circuit = true) →
      ∃ t x, exec (.credPacketArrive p) s = .next t ∧ SameMemory s t ∧
        (t.core.recv[(62 : Fin 64)]).queue = (s.core.recv[(62 : Fin 64)]).queue.eraseIdx (credAhead s) ∧ t.core.copy.chans = [x] ∧ x.cmd = c ∧ x.beat = 0 ∧
        x.kind = .credHop c.w1.toNat c.w2.toNat p.pop.1
          (if p.pop.1.toNat % 4 = 1 ∨ p.pop.1.toNat % 4 = 2 then p.pop.2.mark else p.pop.2)
          (if p.pop.2.hops = 0 then []
           else [(if p.pop.1.toNat % 4 = 1 ∨ p.pop.1.toNat % 4 = 2 then p.pop.2.mark else p.pop.2).headFlit])) ∧
    (s.core.copy.chans = [] → duePast (seenWheel s) p.deadline = false → s.core.copy.early.length < 16 →
      ∃ t, exec (.credPacketArrive p) s = .next t ∧ SameMemory s t ∧ t.core.copy.early = s.core.copy.early ++ [p] ∧
        (p.deadline ≠ 0 → (256 * (s.wheel + (untilWheel (seenWheel s) p.deadline).toNat), Act.credFlush p.crid p.round) ∈ t.agenda)) ∧
    (s.core.copy.chans = [] → duePast (seenWheel s) p.deadline = false → 16 ≤ s.core.copy.early.length →
      exec (.credPacketArrive p) s = .next (s.atOnce (s.now + 1) .credLook)) ∧
    (s.core.copy.chans = [] → duePast (seenWheel s) p.deadline = true →
      ∃ t, exec (.credPacketArrive p) s = .next t ∧ t.core.strands = s.core.strands ∧
        t.core.copy.flushed.getLast? = some ⟨p.pop.2.crid, p.pop.2.round, p.pop.2.lastCore s.core.gcore, p.pop.2.length⟩)) ∧
  (∀ (s : State) (crid : BitVec 16) (round : BitVec 8) (n : Nat) (f : Flit) (fs : List Flit), s.core.copy.early = [] →
    s.core.copy.order = [⟨crid, round, n + 1, some (none, [])⟩] → (s.core.recv[(62 : Fin 64)]).queue = f :: fs →
    ∃ t, exec (.credFlush crid round) s = .next t ∧ SameMemory s t ∧ (t.core.recv[(62 : Fin 64)]).queue = fs ∧
      (t.core.recv[(62 : Fin 64)]).count = (s.core.recv[(62 : Fin 64)]).count + 1 ∧
      (n = 0 → t.core.copy.order = []) ∧
      (n ≠ 0 → t.core.copy.order = [⟨crid, round, n, some (none, [])⟩] ∧ (s.now + 1, Act.credFlush crid round) ∈ t.agenda)) ∧
  ∀ (s : State) (p : CredPacket), s.core.copy.early = [p] → duePast (seenWheel s) p.deadline = true →
    ∃ t, exec (.credFlush p.crid p.round) s = .next t ∧ t.core.strands = s.core.strands ∧ t.core.copy.early = [] ∧
      t.core.copy.flushed.getLast? = some ⟨p.pop.2.crid, p.pop.2.round, p.pop.2.lastCore s.core.gcore, p.pop.2.length⟩) ∧
  ((∀ (s : State) (p : EngCmd × Nat), s.core.tile.till = none → s.core.tile.queue.length < 4 →
    (∀ l, s.core.tile.last = some l → l + 8 ≤ s.now) → chooseTile s = some p →
    ∃ t, exec .tileFrontEndAccept s = .next t ∧ t.core.tile.queue = s.core.tile.queue ++ [p.1] ∧
      t.core.tile.pend = s.core.tile.pend.filter (fun q => q.1.handle != p.1.handle) ∧ t.core.tile.last = some s.now ∧
      (t.core.table[p.1.handle]).started = true ∧ (s.core.tile.queue = [] → earlierRelease s p.1.strand p.1.seq = false → (s.now, Act.command p.1) ∈ t.agenda) ∧ SameMemory s t ∧
      t.core.strands = s.core.strands) ∧
  (∀ (s : State) (p q : EngCmd × Nat), s.core.tile.pend = [p, q] → s.now - p.2 < s.core.agelim.toNat → s.now - q.2 < s.core.agelim.toNat →
    chooseTile s = some (if effectiveRole s q.1 < effectiveRole s p.1 then p else if effectiveRole s p.1 < effectiveRole s q.1 then q
      else if p.2 < q.2 then p else if q.2 < p.2 then q else if q.1.strand.val < p.1.strand.val then q else p)) ∧
  (∀ (s u : State) (c : EngCmd) (hits : List (Nat × Nat)), scanBad s c = false → fld c.w1 42 0 % 64 = 0 → fld c.w2 42 0 % 16 = 0 →
    engineWait s c (scanLines c) [] = none →
    let t0 := dropMem (engineGo (startEntry s c.handle) c) c.handle
    scanFrom t0 c (tyOf (cmdAfmt c)) (fld c.w1 42 0) (fld c.w3 63 32) (fld c.w3 31 0) 0 = .ok hits →
    let ws := scanWords (Config.freeWord t0.fresh) (fld c.w1 63 48) hits
    copyFirst s c (wordSpan (fld c.w2 42 0) ws.length) = none →
    (engPut { t0 with fresh := t0.fresh + 1 } c (fld c.w2 42 0) ws).2.2 = none →
    u = (engPut { t0 with fresh := t0.fresh + 1 } c (fld c.w2 42 0) ws).1 →
    ∃ t n, exec (.scan c) s = .next t ∧ SameMemory u t ∧ t.core.memIntake = s.core.memIntake.filter (·.handle != c.handle) ∧ s.now < n ∧
      (n, Act.completion c.handle ⟨if fld c.w1 63 48 < hits.length then 1 else 0, 0, 0⟩) ∈ t.agenda) ∧
  (∀ (open_ : Word) (kmax : Nat) (hits : List (Nat × Nat)) (i : Nat) (h : Nat × Nat), i < kmax → hits[i]? = some h →
    (scanWords open_ kmax hits)[0]? = some (word hits.length) ∧ (scanWords open_ kmax hits)[2 + 2 * i]? = some (word h.1) ∧
      (scanWords open_ kmax hits)[3 + 2 * i]? = some (word h.2)) ∧
  ∀ (s : State) (c : EngCmd) (r : Round), xrunBad s c = false → c.w1.toNat % 16 = 0 → c.w2.toNat % 8 = 0 →
    findRound s (c.w3.extractLsb' 48 16) = some r → r.lapsed = false → r.cal = none →
    ∃ t x, exec (.xrun c) s = .next t ∧ SameMemory s t ∧ t.core.xchgIntake = s.core.xchgIntake.filter (·.handle != c.handle) ∧
      findRound t (c.w3.extractLsb' 48 16) = some x ∧ x = { r with run := some c })

/-! ## Badger and the fabric -/

/-- R57, R60-R62, R66, R67, R254, R502: Badger takes 64 requests and answers BUSY past them; a granted OPEN lists its circuit with the slots
found, WIDEN adds slots, NARROW keeps the lower ones, RELEASE removes the circuit; each answer names its commit wheel and slots, and fills
the handle, a CREL's at its second commit wheel (R409); what a budget, an end in use or a missing circuit forbids is refused. Which slots
trunks own, and what an unstated refusal reports, are the model's (log 24), as is the wheel of a search (log 51). R63, R64, R68, R504, R505:
every act of its configuration flits and of the links completes: a depth is staged, a commit leaves nothing staged at its agent, a request
takes an up link into training, and a lost signal or 64 wheels take it out of use. -/
def Obligations.BadgerAnswersRequests : Prop :=
  (∀ (s : State) (r : CircReq),
    (s.fab.pending.length < 64 → ∃ t n, exec (.badgerRequestArrive r) s = .next t ∧ { r with wheel := s.wheel } ∈ t.fab.pending ∧
      t.fab.pending.length = s.fab.pending.length + 1 ∧ n ≤ s.now + 2048 ∧ (n, Act.circuit { r with wheel := s.wheel }) ∈ t.agenda ∧
      SameMemory s t ∧ t.core = s.core) ∧
    (64 ≤ s.fab.pending.length → ∃ t, exec (.badgerRequestArrive r) s = .next t ∧ t.fab = s.fab ∧
      ∀ h, r.handle = some h → (s.now + 1, Act.completion h ⟨2, 0, 0⟩) ∈ t.agenda) ∧
    (∀ ep, (s.core.send[ep]).buf = [] → (s.core.send[ep]).rest = [] →
      ∃ t n, exec (.sendBufferEmpty ep r) s = .next t ∧ s.now < n ∧ (n, Act.badgerRequestArrive r) ∈ t.agenda ∧ t.core = s.core) ∧
    (∀ ep, ¬ ((s.core.send[ep]).buf = [] ∧ (s.core.send[ep]).rest = []) →
      exec (.sendBufferEmpty ep r) s = .next (s.at (s.now + 1) (.sendBufferEmpty ep r)))) ∧
  ∀ (s : State) (r : CircReq), Memory.wf s = true → r.gcore < 12288 → fld r.w3 17 0 % 8 = 0 → fld r.w3 17 0 + 64 ≤ 0x20000 →
    let src : EpId := r.w1.setWidth 32
    let u := takeRequest s r
    let n := fld r.w3 25 18
    let answer := fun (t : State) (i : Nat) => wordAt t (tcmPa r.gcore (fld r.w3 17 0 + 8 * i))
    let told := fun (t : State) (st : BitVec 8) => ∀ h, r.handle = some h →
      ∃ m, s.now < m ∧ m ≤ max (s.now + 1) (256 * (r.wheel + 8)) ∧ (m, Act.completion h ⟨st, 0, 0⟩) ∈ t.agenda
    let granted := fun (t : State) (slots : List Nat) => told t 0 ∧ (∃ w, s.wheel < w ∧ answer t 0 = word ((w + 2 ^ 56 - coreLag s r.gcore) % 2 ^ 56)) ∧
      ∀ k, k < 256 → ((answer t (4 + k / 64)).getLsbD (k % 64) = true ↔ ∃ j ∈ slots, j % 256 = k)
    (∀ ks ds, circuitOf u src = none → queueSlots u (fld r.w3 63 48) + n ≤ qFslots u (fld r.w3 63 48) →
      searchForward u r none r.dsts (takenEntries u) = .ok ks →
      searchReverse u src (fld r.w3 63 48 * 17 % 256) (fld r.w3 33 26) (slotClaims src r.dsts ks ++ takenEntries u) 0 r.dsts = .ok ds →
      ∃ t, exec (.circOpen r) s = .next t ∧ t.fab.circuits = s.fab.circuits ++ [⟨src, ds, BitVec.ofNat 16 (fld r.w3 63 48), ks, false⟩] ∧
        granted t ks ∧ ∀ ep, ownSend s src = some ep → (t.core.send[ep]).circuit = true ∧ (t.core.send[ep]).wins = r.dsts.map fun _ => ⟨0, 0⟩) ∧
    ((circuitOf u src ≠ none ∨ qFslots u (fld r.w3 63 48) < queueSlots u (fld r.w3 63 48) + n) →
      ∃ t, exec (.circOpen r) s = .next t ∧ told t 1 ∧ answer t 0 = word (2 ^ 56) ∧ t.fab = u.fab) ∧
    (∀ c ks, circuitOf u src = some c → queueSlots u c.qid.toNat + n ≤ qFslots u c.qid.toNat →
      searchForward u r (some c) (c.dsts.map (·.1)) (takenEntries u) = .ok ks →
      ∃ t, exec (.circWiden r) s = .next t ∧ granted t (c.slots ++ ks) ∧
        t.fab.circuits = s.fab.circuits.map fun x => if x.src = src then { c with slots := c.slots ++ ks } else x) ∧
    (∀ c, circuitOf u src = some c → n < c.slots.length →
      ∃ t keep, exec (.circNarrow r) s = .next t ∧ granted t keep ∧ keep = c.slots.filter (fun k => !(highest c.slots n).contains k) ∧
        t.fab.circuits = s.fab.circuits.map fun x => if x.src = src then { x with slots := keep } else x) ∧
    (∀ c, circuitOf u src = some c →
      ∃ t, exec (.circRelease r) s = .next t ∧ t.fab.circuits = s.fab.circuits.filter (·.src != src) ∧
        (r.crel = false → granted t []) ∧ (r.crel = true → SameMemory s t ∧ ∀ h, r.handle = some h → ∃ m, s.now < m ∧ (m, Act.completion h ⟨0, 0, 0⟩) ∈ t.agenda)) ∧
    (circuitOf u src = none → r.crel = false → ∀ i ∈ [Instr.circWiden r, .circNarrow r, .circRelease r],
      ∃ t, exec i s = .next t ∧ told t 1 ∧ answer t 0 = word (2 ^ 56) ∧ t.fab = u.fab) ∧
    (∀ (w : Nat) (recs : List CfgRec), ∃ t, exec (.configStageEntries w recs) s = .next t ∧ SameMemory s t ∧ t.core = s.core) ∧
    (∀ (a : AgentId) (port w d : Nat) (x : BitVec 7) (m : BitVec 8),
      (∃ t, exec (.configStageDepth a port w x) s = .next t ∧ (alignAt t a port).sdepth = x ∧ (alignAt t a port).apend = true) ∧
      (∃ t, exec (.configReadback a port) s = .next t ∧ t.fab = s.fab ∧ t.core = s.core) ∧
      (∃ t, exec (.configReply a port d m) s = .next t ∧ SameMemory s t ∧ t.core = s.core) ∧
      ∃ t, exec (.stagedCommit a) s = .next t ∧ ∀ c, s.fab.commits.find? (·.1 = a) = some c → wheelStart a c.2 ≤ s.now →
        ∀ e ∈ t.fab.tables, e.agent = a → e.spend = false) ∧
    ∀ (l : Fin 352) (x : LinkDelays),
      (∃ t, exec (.linkRetrainRequest l) s = .next t ∧ (linkAt t l.val).state ≠ .up) ∧
      (∃ t, exec (.linkTrained l x) s = .next t ∧ ∀ w, (linkAt s l.val).state = .training w → (alignAt t hubAgent l.val).measd = x.up) ∧
      (∃ t, exec (.linkTrainTimeout l) s = .next t ∧
        ∀ w, (linkAt s l.val).state = .training w → 256 * (w + 64) ≤ s.now → (linkAt t l.val).state = .down) ∧
      (∃ t, exec (.linkRetry l) s = .next t ∧ (linkAt t l.val).state ≠ .down) ∧
      ∃ t, exec (.linkSignalLoss l) s = .next t ∧ linkCarries t l.val = false

/-- R28, R29, R31, R33, R41, R43-R45, R475, R501-R503: a message starts in an owned slot its windows admit and sends a flit with its check bits
in each; a switch checks a flit, corrects one error or marks it poisoned, and moves it to the outputs whose entries name its input; a flit
joins the endpoint its entry names, or shows a gap; window counts go back in the reverse circuit's slots, once no hold keeps them (R504), and arrive; a break removes its
circuit. The break that follows a gap is the model's reading (log 41), and the form of a window return is (log 54). R47-R51, R506: every act of
the inter-package ports and planes completes: a flit that comes in, an exchange of time, a lock lost, a flit relayed and new permutations. -/
def Obligations.FlitsMoveBetweenEndpoints : Prop :=
  (∀ (s : State) (ep : Fin 32) (m : Message) (f : Flit) (fs : List Flit) (rest : List Message),
    returnDue s = false → (s.core.send[ep]).rest = [] → (s.core.send[ep]).buf = m :: rest → m.flits = f :: fs → mayStart s ep m s.now = true →
    ∃ t, exec (.messageStart ep) s = .next t ∧ SameMemory s t ∧ t.core.strands = s.core.strands ∧ (t.core.send[ep]).buf = rest ∧
      (t.core.send[ep]).rest = fs ∧ (t.core.send[ep]).wins = (s.core.send[ep]).wins.map (fun w => { w with sent := w.sent + 1 }) ∧
      t.fab.flits = s.fab.flits ++ [⟨routerAgent s.cluster, s.core.gcore % 16, leaveTime (routerAgent s.cluster) (dieSlot s.now).val (s.now + 1),
        sealFlit { f with slot := dieSlot s.now }⟩] ∧
      ((fs ≠ [] ∨ rest ≠ []) → (s.now + 1, Act.messageStart ep) ∈ t.agenda)) ∧
  (∀ (s : State) (ep : Fin 32) (f : Flit) (fs : List Flit), (s.core.send[ep]).rest = f :: fs →
    (returnDue s = true → exec (.messageStart ep) s = .next (s.at s.now (.messageStart ep))) ∧
    (returnDue s = false → slotAt (niAgent s.core.gcore) s.now ∉ ownedSlots s (niAgent s.core.gcore) 1 ep.val →
      exec (.messageStart ep) s = .next (s.at (s.now + 1) (.messageStart ep))) ∧
    (returnDue s = false → slotAt (niAgent s.core.gcore) s.now ∈ ownedSlots s (niAgent s.core.gcore) 1 ep.val →
      ∃ t, exec (.messageStart ep) s = .next t ∧ SameMemory s t ∧ (t.core.send[ep]).rest = fs ∧ (t.core.send[ep]).buf = (s.core.send[ep]).buf ∧
        (t.core.send[ep]).wins = (s.core.send[ep]).wins.map fun w => { w with sent := w.sent + 1 })) ∧
  (∀ (s : State) (a : AgentId) (q : InFlit), s.fab.flits = [q] → q.agent = a → q.time ≤ s.now →
    (∀ e ∈ s.fab.tables, e.agent = a → e.lost = false) →
    let k := slotFin a s.now
    let outs := outputsFor s a q.port k.val
    (k.val ≠ 0 → outs = (s.fab.tables.filter fun e => e.agent = q.agent && e.table = 0 && e.slot = k.val && !e.lost && entryValid e.live &&
      (e.live.extractLsb' 0 9).toNat = q.port).map (·.port)) ∧
    (outs = [] → ∃ t, exec (.switchSlot a) s = .next t ∧ t.fab.flits = []) ∧
    (∀ o g, outs = [o] → outputCarries s a o = true →
      (soundFlit q.flit = true ∧ g = q.flit ∨ soundFlit q.flit = false ∧ repairFlit q.flit = some g ∨
        soundFlit q.flit = false ∧ repairFlit q.flit = none ∧ g = sealFlit { q.flit with poison := true }) →
      ∃ t, exec (.switchSlot a) s = .next t ∧ SameMemory s t ∧
        (∀ b p d, farEnd a o = .switch b p d →
          t.fab.flits = [⟨b, p, leaveTime b k.val (s.now + d), { g with slot := k }⟩]) ∧
        (farEnd a o = .core s.core.gcore →
          (s.now + 1, Act.flitReceive { g with slot := k } (liveEntry s (niAgent s.core.gcore) 2 0 k.val)) ∈ t.agenda ∧ t.fab.flits = []))) ∧
  (∀ (s : State) (a : AgentId) (p : Nat) (f : Flit),
    ∃ t, exec (.mgmtFlitRelay a p f) s = .next t ∧ SameMemory s t ∧
      t.fab.flits = s.fab.flits ++
        [⟨a, p, (if onSpoke a then (s.now + 128) / 256 * 256 + 128 else (s.now / 256 + 1) * 256) + f.slot.val, f⟩]) ∧
  (∀ (s : State) (f : Flit) (ep : Fin 64), liveEntry s (niAgent s.core.gcore) 2 0 f.slot.val = BitVec.ofNat 16 (0x8000 + ep.val) →
    s.core.spill = none → ringOf s ep = none → (s.core.recv[ep]).broken = false → ep.val ≠ 62 →
    (f.first ≠ (s.core.recv[ep]).openMsg → (s.core.recv[ep]).drop = false → ∃ t, exec (.flitReceive f) s = .next t ∧ SameMemory s t ∧
      (t.core.recv[ep]).queue = (s.core.recv[ep]).queue ++ [f] ∧ (t.core.recv[ep]).openMsg = !f.last ∧
      (∀ a, (s.core.recv[ep]).arming = some a → a.act = false → a.kind = .queue → (s.now + 1, Act.mailboxQueueDeposit ep) ∈ t.agenda)) ∧
    (f.first = (s.core.recv[ep]).openMsg → ∃ t, exec (.flitReceive f) s = .next t ∧ (t.core.recv[ep]).broken = true ∧
      (t.core.recv[ep]).queue = (s.core.recv[ep]).queue)) ∧
  (∀ (s : State) (f : Flit) (sep : Fin 32) (i : Nat) (w : Window), i < 16 → (s.core.send[sep]).wins[i]? = some w →
    liveEntry s (niAgent s.core.gcore) 2 0 f.slot.val = BitVec.ofNat 16 (0xC000 + 64 * i + sep.val) →
    ∃ t, exec (.flitReceive f) s = .next t ∧ SameMemory s t ∧ (t.core.send[sep]).wins[i]? = some { w with returned := f.data.setWidth 16 }) ∧
  (∀ (s : State) (f : Flit), entryValid (liveEntry s (niAgent s.core.gcore) 2 0 f.slot.val) = false →
    ∃ t, exec (.flitReceive f) s = .next t ∧ ∀ ep : Fin 64, (t.core.recv[ep]).queue = (s.core.recv[ep]).queue) ∧
  (∀ (s : State) (ep : Fin 64), (s.core.recv[ep]).broken = false → (s.core.recv[ep]).count ≠ (s.core.recv[ep]).returned →
    let slots := ownedBy s (niAgent s.core.gcore) 1 ep.val true
    (slots ≠ [] → ∀ w, (s.core.recv[ep]).hold = some w → wheelStart (niAgent s.core.gcore) w ≤ s.now →
      exec (.windowReturnSend ep) s = .next (s.at (s.now + 1) (.windowReturnSend ep))) ∧
    ((∀ w, (s.core.recv[ep]).hold = some w → s.now < wheelStart (niAgent s.core.gcore) w) →
    (slotAt (niAgent s.core.gcore) s.now ∈ slots → ∃ t, exec (.windowReturnSend ep) s = .next t ∧
      (t.core.recv[ep]).returned = (s.core.recv[ep]).count ∧ SameMemory s t ∧
      t.fab.flits = s.fab.flits ++ [⟨routerAgent s.cluster, s.core.gcore % 16, leaveTime (routerAgent s.cluster) (dieSlot s.now).val (s.now + 1),
        sealFlit ⟨(s.core.recv[ep]).count.zeroExtend 512, true, true, false, dieSlot s.now, 0⟩⟩]) ∧
    (slots ≠ [] → slotAt (niAgent s.core.gcore) s.now ∉ slots → ∃ t, exec (.windowReturnSend ep) s = .next t ∧ t.core = s.core ∧
      (s.now + 1, Act.windowReturnSend ep) ∈ t.agenda)) ∧
    (slots = [] → exec (.windowReturnSend ep) s = .next s)) ∧
  (∀ (s : State) (ep : Fin 32) (recv : Nat) (n : BitVec 16) (w : Window), (s.core.send[ep]).wins[recv]? = some w →
    ∃ t, exec (.windowReturnArrive ep recv n) s = .next t ∧ SameMemory s t ∧ (t.core.send[ep]).wins[recv]? = some { w with returned := n } ∧
      ∀ i, i ≠ recv → (t.core.send[ep]).wins[i]? = (s.core.send[ep]).wins[i]?) ∧
  ∀ (s : State) (src : BitVec 32) (reason : Nat),
    (s.now % 256 ≠ 0 → exec (.circuitBreak src reason) s = .next (s.at s.nextWheel (.circuitBreak src reason))) ∧
    (s.now % 256 = 0 → ∀ c, circuitOf s src = some c → c.fixed = false → src ≠ coreEp s.core.gcore 31 →
      ∃ t, exec (.circuitBreak src reason) s = .next t ∧ t.fab.circuits = s.fab.circuits.filter (·.src != src) ∧
        (∀ k ∈ circuitClaims c, liveEntry t k.agent k.table k.port k.slot = 0) ∧ ∀ ep, ownSend s src = some ep → t.core.send[ep] = SendEp.idle) ∧
    ∀ (p : Fin 16) (g : Fin 64) (f : Flit) (w : Nat) (x y : Stamps) (perms : List PlanePerm),
      (∃ t, exec (.interpkgFlitArrive p f w) s = .next t ∧ SameMemory s t ∧ t.core = s.core) ∧
      (∃ t, exec (.planeRelay p g f w) s = .next t ∧ SameMemory s t ∧ t.core = s.core) ∧
      (∃ t, exec (.planeControlFlit p g perms) s = .next t ∧ SameMemory s t ∧
        (g = 0 → t.fab.perms[p] = perms ++ (s.fab.perms[p]).filter fun o => !perms.any (·.wheel = o.wheel))) ∧
      (∃ t, exec (.timeSyncExchange p x y) s = .next t ∧ ((s.fab.ports[p]).retry ≤ s.wheel → (t.fab.ports[p]).lastWheel = s.wheel)) ∧
      ∃ t, exec (.portLockLoss p) s = .next t ∧ (2 ≤ (s.fab.ports[p]).bad → (t.fab.ports[p]).lock ≠ 2)

/-- R30, R34, R40, R63-R65, R68: records are staged with their commit wheel, and at that wheel the agent's staged entries become live; a
read-back returns up the tree and stages the receiving end's depth of 129 - MEASD in a flit from Badger; the agent's commit realigns that
end, and the last end of a link lifts its hold. When a hold ends is the model's reading (log 44). R504, R505: a request holds an up link from a named wheel and trains it three wheels later; a training
that ends well reads back, one that fails or lasts 64 wheels takes the link down, and a down link is tried again after 4,096 wheels; a lost
signal breaks the circuits and trains. R47-R51, R506: a port counts its exchanges and locks after 16 good ones, loses its lock after two bad
ones or when the master says so (the offset and delay are IEEE 1588's, log 53), and numbers an arriving flit in wheel w + K; a plane relays to the package its permutation or the wheel
names, and takes permutations from package 0 alone. What a plane with no permutation does is the model's (log 12). -/
def Obligations.FabricConfiguresTrainsAndCarries : Prop :=
  ((∀ (s : State) (w : Nat) (r : CfgRec),
    ∃ t e, exec (.configStageEntries w [r]) s = .next t ∧ SameMemory s t ∧ t.core = s.core ∧
      tableFind t r.agent r.table r.port.toNat r.slot.toNat = some e ∧ e.staged = r.value ∧ e.spend = true ∧
      e.live = (match tableFind s r.agent r.table r.port.toNat r.slot.toNat with | some o => o.live | none => 0) ∧
      (r.agent, w) ∈ t.fab.commits ∧ (max (wheelStart r.agent w) s.now, Act.stagedCommit r.agent) ∈ t.agenda) ∧
  (∀ (s : State) (a : AgentId) (port w : Nat) (d : BitVec 7),
    ∃ t, exec (.configStageDepth a port w d) s = .next t ∧ SameMemory s t ∧ t.core = s.core ∧
      alignAt t a port = { alignAt s a port with sdepth := d, apend := true } ∧ (a, w) ∈ t.fab.commits ∧
      (max (wheelStart a w) s.now, Act.stagedCommit a) ∈ t.agenda) ∧
  (∀ (s : State) (a : AgentId) (w : Nat), s.fab.commits.find? (·.1 = a) = some (a, w) →
    (s.now < wheelStart a w → ∃ t, exec (.stagedCommit a) s = .next t ∧ (wheelStart a w, Act.stagedCommit a) ∈ t.agenda ∧ t.fab = s.fab) ∧
    (wheelStart a w ≤ s.now → ∃ t, exec (.stagedCommit a) s = .next t ∧ (∀ c ∈ t.fab.commits, c.1 ≠ a) ∧
      (∀ e ∈ s.fab.tables, e.agent = a → e.spend = true → entryValid e.staged = true →
        { e with live := e.staged, staged := 0, spend := false, lost := false } ∈ t.fab.tables) ∧
      (∀ e ∈ t.fab.tables, e.agent = a → e.spend = false) ∧
      (∀ e ∈ s.fab.tables, e.agent ≠ a → entryValid e.live = true → e ∈ t.fab.tables) ∧
      (∀ x, s.fab.aligns = [x] → x.agent = a → x.apend = true →
        let l := linkOfEnd a x.port
        alignAt t a x.port = { x with depth := x.sdepth, sdepth := 0, apend := false } ∧
        ((∀ b ∈ (linkAt s l).waits, b = a) → (linkAt t l).state = .up ∧ (linkAt t l).lost = false ∧ ∀ h ∈ t.fab.holds, h.1 ≠ l) ∧
        ((∃ b ∈ (linkAt s l).waits, b ≠ a) → (linkAt t l).state = (linkAt s l).state ∧ t.fab.holds = s.fab.holds)))) ∧
  (∀ (s : State) (a : AgentId) (port : Nat),
    ∃ t, exec (.configReadback a port) s = .next t ∧ SameMemory s t ∧ t.core = s.core ∧ t.fab = s.fab ∧
      (s.now + 256, Act.configUp (agentDepth a) (replyFlit a port (alignAt s a port).measd)) ∈ t.agenda) ∧
  ∀ (s : State) (a : AgentId) (port d : Nat) (m : BitVec 8),
    (1 < d → exec (.configReply a port d m) s = .next (s.at (s.now + 256) (.configUp (d - 1) (replyFlit a port m)))) ∧
    (d ≤ 1 → s.agenda = [] → s.fab.commits = [] → s.fab.readbacks = [(a, port)] →
      ∃ t, exec (.configReply a port d m) s = .next t ∧ SameMemory s t ∧ t.fab.readbacks = [] ∧
        (256 * (s.wheel + 2), Act.configFlit hubAgent (cfgFlit 2 (s.wheel + 10)
          [⟨a, 3, BitVec.ofNat 9 port, 0, BitVec.ofNat 16 (129 - m.toNat)⟩])) ∈ t.agenda)) ∧
  (∀ (s : State) (l : Fin 352),
    ((linkAt s l.val).state = .up → ∃ t w, exec (.linkRetrainRequest l) s = .next t ∧ SameMemory s t ∧ s.wheel < w ∧ (l.val, w) ∈ t.fab.holds ∧
      linkAt t l.val = { linkAt s l.val with state := .training (w + 3), lost := false } ∧
      (256 * (w + 3 + 64), Act.linkTrainTimeout l) ∈ t.agenda) ∧
    (∀ u d : BitVec 8, ∀ w, (linkAt s l.val).state = .training w → 2 ≤ u.toNat → u.toNat ≤ 128 → 2 ≤ d.toNat → d.toNat ≤ 128 →
      let far := spokeEnd l.val
      let changed := (if (alignAt s hubAgent l.val).measd = u then [] else [(hubAgent, l.val)]) ++
        (if (alignAt s far.1 far.2).measd = d then [] else [far])
      let ends := if changed = [] then [far] else changed
      ∃ t, exec (.linkTrained l ⟨u, d⟩) s = .next t ∧ SameMemory s t ∧ linkAt t l.val = { linkAt s l.val with waits := ends.map (·.1) } ∧
        (alignAt t hubAgent l.val).measd = u ∧ (alignAt t far.1 far.2).measd = d ∧
        t.fab.readbacks = s.fab.readbacks ++ ends ∧ ∀ e ∈ t.agenda, e.2 ≠ .linkTrainTimeout l) ∧
    (∀ u d : BitVec 8, ∀ w, (linkAt s l.val).state = .training w → ¬ (2 ≤ u.toNat ∧ u.toNat ≤ 128 ∧ 2 ≤ d.toNat ∧ d.toNat ≤ 128) →
      ∃ t, exec (.linkTrained l ⟨u, d⟩) s = .next t ∧ (linkAt t l.val).state = .down ∧ (alignAt t hubAgent l.val).measd = u ∧
        (alignAt t (spokeEnd l.val).1 (spokeEnd l.val).2).measd = d ∧
        (256 * (s.wheel + 4096), Act.linkRetry l) ∈ t.agenda) ∧
    (∀ w, (linkAt s l.val).state = .training w →
      (256 * (w + 64) ≤ s.now → ∃ t, exec (.linkTrainTimeout l) s = .next t ∧ (linkAt t l.val).state = .down ∧
        (256 * (s.wheel + 4096), Act.linkRetry l) ∈ t.agenda) ∧
      (s.now < 256 * (w + 64) → exec (.linkTrainTimeout l) s = .next s)) ∧
    ((linkAt s l.val).state = .down → ∃ t, exec (.linkRetry l) s = .next t ∧ SameMemory s t ∧
      linkAt t l.val = { linkAt s l.val with state := .training s.wheel, lost := true } ∧
      (256 * (s.wheel + 64), Act.linkTrainTimeout l) ∈ t.agenda) ∧
    ((linkAt s l.val).state ≠ .down → ∃ t w, exec (.linkSignalLoss l) s = .next t ∧ SameMemory s t ∧ s.wheel < w ∧
      (linkAt t l.val).state = .training (w + 3) ∧ (linkAt t l.val).lost = true ∧ linkCarries t l.val = false ∧
      (256 * (w + 67), Act.linkTrainTimeout l) ∈ t.agenda ∧
      ∀ c ∈ s.fab.circuits, circuitCrosses c l.val = true → ∃ n, (n, Act.circuitBreak c.src 3) ∈ t.agenda)) ∧
  ((∀ (s : State) (p : Fin 16) (t1 t2 t3 t4 : BitVec 64),
    let off := BitVec.ofInt 16 (((t2 - t1).toInt - (t4 - t3).toInt) / 2)
    let m := BitVec.ofInt 16 (((t2 - t1).toInt + (t4 - t3).toInt) / 2)
    (m.toNat + 4 + 255) / 256 ≤ 2 → (s.fab.ports[p]).retry ≤ s.wheel →
    let q := s.fab.ports[p]
    let good := decide (-2 ≤ off.toInt ∧ off.toInt ≤ 2)
    (good = true → ∃ t, exec (.timeSyncExchange p ⟨t1, t2⟩ ⟨t3, t4⟩) s = .next t ∧ SameMemory s t ∧ t.core = s.core ∧
      (t.fab.ports[p]).measd = m ∧ (t.fab.ports[p]).k = BitVec.ofNat 8 ((m.toNat + 4 + 255) / 256) ∧ (t.fab.ports[p]).offset = off ∧
      (t.fab.ports[p]).lastWheel = s.wheel ∧ (t.fab.ports[p]).good = q.good + 1 ∧ (t.fab.ports[p]).bad = 0 ∧
      (t.fab.ports[p]).lock = if q.lock = 2 ∨ 16 ≤ q.good + 1 then 2 else 1) ∧
    (good = false → q.lock = 2 → 1 ≤ q.bad → ∃ t, exec (.timeSyncExchange p ⟨t1, t2⟩ ⟨t3, t4⟩) s = .next t ∧ (t.fab.ports[p]).lock = 1 ∧ (t.fab.ports[p]).good = 0) ∧
    (good = false → q.lock = 2 → q.bad = 0 → ∃ t, exec (.timeSyncExchange p ⟨t1, t2⟩ ⟨t3, t4⟩) s = .next t ∧ (t.fab.ports[p]).lock = 2 ∧ (t.fab.ports[p]).bad = 1)) ∧
  (∀ (s : State) (p : Fin 16) (t1 t2 t3 t4 : BitVec 64),
    (s.wheel < (s.fab.ports[p]).retry → exec (.timeSyncExchange p ⟨t1, t2⟩ ⟨t3, t4⟩) s = .next s) ∧
    ((s.fab.ports[p]).retry ≤ s.wheel → 2 < ((BitVec.ofInt 16 (((t2 - t1).toInt + (t4 - t3).toInt) / 2)).toNat + 4 + 255) / 256 →
      ∃ t, exec (.timeSyncExchange p ⟨t1, t2⟩ ⟨t3, t4⟩) s = .next t ∧ (t.fab.ports[p]).lock = 0 ∧ (t.fab.ports[p]).retry = s.wheel + 4096)) ∧
  (∀ (s : State) (p : Fin 16),
    ((s.fab.ports[p]).lock = 2 → 2 ≤ (s.fab.ports[p]).bad ∨ (s.fab.ports[p]).lastWheel + 256 ≤ s.wheel →
      ∃ t, exec (.portLockLoss p) s = .next t ∧ (t.fab.ports[p]).lock = 1 ∧ (t.fab.ports[p]).good = 0 ∧ (t.fab.ports[p]).bad = 0 ∧
        ∀ r, r ≠ p → t.fab.ports[r] = s.fab.ports[r]) ∧
    (¬ ((s.fab.ports[p]).lock = 2 ∧ (2 ≤ (s.fab.ports[p]).bad ∨ (s.fab.ports[p]).lastWheel + 256 ≤ s.wheel)) →
      exec (.portLockLoss p) s = .next s)) ∧
  (∀ (s : State) (p : Fin 16) (f : Flit) (w : Nat),
    let k := f.slot.val
    let v := w + (s.fab.ports[p]).k.toNat
    (circuitSlot k = true → (s.fab.ports[p]).lock = 2 → ∃ t, exec (.interpkgFlitArrive p f w) s = .next t ∧ SameMemory s t ∧
      t.fab.flits = s.fab.flits ++ [⟨hubAgent, 352 + p.val, max (s.now + 1) (256 * v + k + 1), f⟩]) ∧
    (circuitSlot k = true → (s.fab.ports[p]).lock ≠ 2 → exec (.interpkgFlitArrive p f w) s = .next s) ∧
    (timeSlot k = true → ∃ t, exec (.interpkgFlitArrive p f w) s = .next t ∧ SameMemory s t ∧
      t.fab.flits = s.fab.flits ++ [⟨hubAgent, 352 + p.val, max (s.now + 1) (256 * (v + 1) + k), f⟩])) ∧
  (∀ (s : State) (p : Fin 16) (g : Fin 64) (f : Flit) (w : Nat), ∃ t, exec (.planeRelay p g f w) s = .next t ∧ SameMemory s t ∧ t.core = s.core ∧
    (g.val = pkgNo s → t = s)) ∧
  (∀ (s : State) (p : Fin 16) (g : Fin 64) (f : Flit) (w : Nat) (perm : PlanePerm),
    g.val ≠ pkgNo s → circuitSlot f.slot.val = true → (s.fab.perms[p]).find? (·.wheel = w) = some perm →
    (∀ n, perm.pairs.find? (·.1 = g.val) = some (g.val, n) →
      exec (.planeRelay p g f w) s = if n = pkgNo s then exec (.interpkgFlitArrive p f w) s else .next s)) ∧
  (∀ (s : State) (p : Fin 16) (g : Fin 64) (f : Flit) (w : Nat), timeSlot f.slot.val = true → g.val ^^^ (w % 64) = pkgNo s → g.val ≠ pkgNo s →
    exec (.planeRelay p g f w) s = exec (.interpkgFlitArrive p f w) s) ∧
  ∀ (s : State) (p : Fin 16) (perms : List PlanePerm),
    (∃ t, exec (.planeControlFlit p 0 perms) s = .next t ∧ SameMemory s t ∧ t.core = s.core ∧
      ∀ q : Fin 16, t.fab.perms[q] = perms ++ (s.fab.perms[q]).filter fun o => !perms.any (·.wheel = o.wheel)) ∧
    ∀ g : Fin 64, g ≠ 0 → exec (.planeControlFlit p g perms) s = .next s)

/-! ## Mailboxes, cells and interrupts -/

/-- R70, R259, R271, R74, R474: a cell starts with its entry strands ready at the entry with w8-w10 set, its handler strands dormant and the
others absent; a cell that is done, or of a killed gang, ends with every strand absent. What cells on other cores do is outside the model
(log 1). R121, R268, R269, R120: before its next issue a ready strand takes SINGULAR first, then an enabled TIMER, MBOX or SOFT in that
order: TEPC, TCAUSE, TVAL, MODE and PC change as R268 says, memory and the other strands stay; a timer makes a parked strand ready; and a
spill or fill that waited for stores is made when they have left, and a poisoned record freezes the strand at its RET. Which run states take a trap is the model's reading where R269 leaves it
open (log 36). -/
def Obligations.CellsRunAndAreInterrupted : Prop :=
  ((∀ (s : State) (g : Gang) (i : Nat), g.cores.findIdx? (· = s.core.gcore) = some i → s.core.cell = none →
    let n := (gjob g).strands
    let e := n - (gjob g).handlers
    ∃ t, exec (.gangStart g) s = .next t ∧ t.core.cell = some ⟨g, i, n, (gjob g).handlers, false⟩ ∧
      (∀ k : Fin 16, k.val < e → (t.strand k).run = .ready ∧ (t.strand k).pc = pcOf (gjob g).entry ∧ (t.strand k).kernel = false ∧
        (t.strand k).reg (.ring (ringIx 0 8)) = ⟨(gjob g).args, Tag.full, true, none⟩ ∧
        (t.strand k).reg (.ring (ringIx 0 9)) = ⟨word g.index, Tag.full, true, none⟩ ∧
        (t.strand k).reg (.ring (ringIx 0 10)) = ⟨word i, Tag.full, true, none⟩ ∧ (t.strand k).winstate = 0x10) ∧
      (∀ k : Fin 16, e ≤ k.val → k.val < n → (t.strand k).run = .dormant ∧ (t.strand k).strole = word (2 ^ 15)) ∧
      (∀ k : Fin 16, e ≤ k.val → n ≤ k.val → (t.strand k).run = .absent) ∧
      (∀ q : Fin 8, t.core.queues[q] = []) ∧ (∀ b : Fin 16, t.core.bars[b] = Barrier.zero) ∧ (∀ a : Fin 8, t.core.acc[a] = Acc.zero) ∧
      (t.strand 0).acq.isSome = true ∧ t.core.lastFn = some g.func) ∧
  (∀ (s : State) (i : Instr), (i = .cellEnd ∧ cellDone s = true ∨ i = .killedGangEnd ∧ ∃ c, s.core.cell = some c ∧ c.killed = true) →
    ∃ t, exec i s = .next t ∧ t.core.cell = none ∧ ∀ k, (t.strand k).run = .absent) ∧
  ∀ s : State, (cellDone s = false → exec .cellEnd s = .next s) ∧
    (∀ c, s.core.cell = some c → c.killed = false → exec .killedGangEnd s = .next s)) ∧
  ((∀ (s : State) (k : Fin 16), (s.strand k).run = .ready ∨ (s.strand k).run = .yielded ∨ (∃ w, (s.strand k).run = .parked w ∧ dueInterrupt s k = true) →
    let x := s.strand k
    let due := ipend s k &&& x.ien
    (x.taken = true → exec (.interruptEntry k) s = .next s) ∧
    (x.taken = false →
    let enters := fun (cause tval : Word) => ∃ t, exec (.interruptEntry k) s = .next t ∧ (t.strand k).run = .ready ∧ (t.strand k).taken = true ∧
      (t.strand k).tepc = x.pc.zeroExtend 64 ∧ (t.strand k).tcause = cause ∧ (t.strand k).tval = tval ∧
      (t.strand k).pc = (x.tvec.extractLsb' 0 43) &&& ~~~3 ∧ (t.strand k).mode.getLsbD 0 = true ∧ (t.strand k).mode.getLsbD 1 = x.mode.getLsbD 0 ∧
      (t.strand k).mode.getLsbD 2 = false ∧ (t.strand k).mode.getLsbD 3 = x.mode.getLsbD 2 ∧ (t.strand k).w = x.w ∧ (t.strand k).ring = x.ring ∧
      (t.strand k).lat = x.lat ∧ (t.strand k).v = x.v ∧ SameMemory s t ∧ (∀ j, j ≠ k → t.strand j = s.strand j)
    (∀ h hs, x.singular = h :: hs → enters 5 (h.zeroExtend 64)) ∧
    (x.singular = [] → x.mode.getLsbD 2 = true →
      (due.getLsbD 0 = true → enters 0x8000000000000010 0) ∧
      (due.getLsbD 0 = false → due.getLsbD 1 = true → ∀ e, mboxPending s k = some e → enters 0x8000000000000011 (word e.val)) ∧
      (due.getLsbD 0 = false → due.getLsbD 1 = false → due.getLsbD 2 = true → enters 0x8000000000000012 0) ∧
      (due = 0 → exec (.interruptEntry k) s = .next s)) ∧
    (x.singular = [] → x.mode.getLsbD 2 = false → exec (.interruptEntry k) s = .next s))) ∧
  (∀ (s : State) (k : Fin 16) (w : Wait), (s.strand k).run = .parked w → dueInterrupt s k = false →
    exec (.interruptEntry k) s = .next s) ∧
  (∀ (s : State) (k : Fin 16) (w : Wait), (s.strand k).run = .parked w →
    (dueInterrupt s k = true → ∃ t, exec (.timerExpiry k) s = .next t ∧ (t.strand k).run = .ready ∧ (t.strand k).pc = (s.strand k).pc ∧
      SameMemory s t ∧ ∀ v ∈ t.core.waiters, v ∈ s.core.waiters ∧ ∀ d n, v.by_ ≠ .strand k d n) ∧
    (dueInterrupt s k = false → exec (.timerExpiry k) s = .next s)) ∧
  (∀ (s : State) (k : Fin 16), (s.strand k).run = .stalled .windowStores →
    let o := owedSpill (s.strand k)
    let f := owedFill (s.strand k)
    let paid := { s.strand k with run := .ready, owed := none }
    ((s.strand k).owed = none → exec (.windowSpill k) s = .next s ∧ exec (.windowFill k) s = .next s) ∧
    ((s.strand k).owed = some .spill →
      (recordBusy s k (s.strand k) o.1 = false → ∃ t, exec (.windowSpill k) s = .next t ∧ (t.strand k).run = .ready ∧
        t = spillFrame (s.setStrand k paid) k o.1 o.2) ∧
      (recordBusy s k (s.strand k) o.1 = true → ∃ t, exec (.windowSpill k) s = .next t ∧ t.strand k = s.strand k ∧
        (s.now + 1, Act.windowSpill k) ∈ t.agenda ∧ SameMemory s t)) ∧
    ∀ pc ins, (s.strand k).owed = some (.fill pc ins) →
      (recordBusy s k (s.strand k) f.1 = false → recordPoison s (s.strand k) f.1 = none →
        ∃ t, exec (.windowFill k) s = .next t ∧ (t.strand k).run = .ready ∧ t = fillFrame (s.setStrand k paid) k f.1 f.2 ∧ SameMemory s t) ∧
      (∀ i, recordBusy s k (s.strand k) f.1 = false → recordPoison s (s.strand k) f.1 = some i → s.clu.path.length < 32 →
        ∃ t, exec (.windowFill k) s = .next t ∧ (t.strand k).run = .frozen ∧ (t.strand k).cause = 0x08 ∧ (t.strand k).pc = pc ∧
          SameMemory s t) ∧
      (recordBusy s k (s.strand k) f.1 = true → ∃ t, exec (.windowFill k) s = .next t ∧ t.strand k = s.strand k ∧
        (s.now + 1, Act.windowFill k) ∈ t.agenda ∧ SameMemory s t)))

/-- R464, R465, R467, R470, R461, R483, R492: a strand that freezes keeps its context, and a deferred fault leaves the trap of the instruction
just completed pending; its packet, with the cause, its mode, global strand, PC,
VADDR, EXTRA, the time and the word, joins the cluster's path. A refused word and a refused fetch freeze the strand with ILLINS, FETCH or
POISON. EXTRA of a fetch from a hole is left open (log 6). -/
def Obligations.FaultsFreezeAndSendPackets : Prop :=
  (∀ (s : State) (k : Fin 16) (cause : BitVec 8) (dfr : Bool) (pc : Addr) (va ex : Word) (ins : BitVec 32), s.clu.path.length < 32 →
    let t := freeze s k cause dfr pc va ex ins
    let w0 : Word := word (cause.toNat * 2 ^ 56 + 2 ^ 55 + (if dfr then 2 ^ 54 else 0) +
      (if (if dfr then (s.strand k).keepTrap else s.strand k).kernel then 2 ^ 53 else 0) +
      (s.core.gcore * 16 + k.val) % 2 ^ 18)
    let x := if dfr then (s.strand k).keepTrap else s.strand k
    t.strand k = { x with run := .frozen, cause := cause, walked := [] } ∧ (∀ j, j ≠ k → t.strand j = s.strand j) ∧ SameMemory s t ∧
      t.clu.path = joinPath
        ⟨s.core.gcore, [w0, pc.zeroExtend 64, va &&& word (2 ^ 43 - 1), ex, word s.now, ins.zeroExtend 64, 0, 0], s.func, s.part⟩ s.clu.path ∧
      (s.now + 1, Act.faultPacketDeposit) ∈ t.agenda ∧ t.hub = s.hub) ∧
  (∀ (s : State) (w : BitVec 32), exec (.illins w) s = .next (freeze { s with word := w } s.cur 0x01 false s.st.pc 0 (w.zeroExtend 64) w)) ∧
  ∀ s : State,
    (exec (.fetchFault .xlate) s = .next (freeze s s.cur 0x09 false s.st.pc (s.st.pc.zeroExtend 64) 0 0)) ∧
    (exec (.fetchFault .perm) s = .next (freeze s s.cur 0x09 false s.st.pc (s.st.pc.zeroExtend 64) 1 0)) ∧
    (∃ x, exec (.fetchFault .hole) s = .next (freeze { s with fresh := s.fresh + 1 } s.cur 0x09 false s.st.pc (s.st.pc.zeroExtend 64) x 0)) ∧
    ∀ pa, exec (.fetchFault (.poison pa)) s = .next (freeze s s.cur 0x08 false s.st.pc (s.st.pc.zeroExtend 64) (pa.zeroExtend 64) 0)

/-! ## The memory system -/

/-- R185, R206, R209, R210, R186: a fetched line fills what was invalid; the boundary buffer performs its first write at its home; an
acquire writes through, drops lines not read-only, and then completes; a release lets out its store, increment or launch when its waits have
ended. -/
def Obligations.CacheBuffersAndReleases : Prop :=
  (∀ (s : State) (line n : Nat) (ro : Bool) (k : Fin 16), s.core.fetches = [⟨line, ro, n, k⟩] → lineBusy s line = false →
    hbmPending s n = false → evictRoom s line = true → cacheFind s line = none →
    ∃ t l, exec (.cacheLineFill line) s = .next t ∧ cacheFind t line = some l ∧ l.ro = ro ∧ t.core.fetches = [] ∧
      (s.core.refWaits = [] → (t.strand k).latcnt = (s.strand k).latcnt) ∧
      (∀ c, s.core.refWaits = [(n, c)] → (t.strand k).latcnt = (s.strand k).latcnt + word c ∧ t.core.refWaits = []) ∧
      (home s (64 * line) ≠ .host → SameMemory s t ∧
        ∀ i : Fin 8, l.words[i] = ⟨true, false, wordAt s (line * 64 + 8 * i.val), poisoned s (line * 64 + 8 * i.val)⟩)) ∧
  (∀ (s : State) (line n : Nat) (ro : Bool) (k : Fin 16) (l0 : CLine), s.core.fetches = [⟨line, ro, n, k⟩] → lineBusy s line = false →
    hbmPending s n = false → evictRoom s line = true → cacheFind s line = some l0 →
    ∃ t l, exec (.cacheLineFill line) s = .next t ∧ cacheFind t line = some l ∧
      ∀ i : Fin 8, (l.words[i]).valid = true ∧ ((l0.words[i]).valid = true → l.words[i] = l0.words[i])) ∧
  (∀ (s : State) (line n : Nat) (ro : Bool) (k : Fin 16), s.core.fetches = [⟨line, ro, n, k⟩] →
    (lineBusy s line = true ∨ hbmPending s n = true ∨ evictRoom s line = false) →
    exec (.cacheLineFill line) s = .next (s.at (s.now + 1) (.cacheLineFill line))) ∧
  (∀ (s : State) (bank : Fin 16) (e : DbbEntry), s.die.dbb.find? (fun y => bankOf y.x.pa = bank.val) = some e →
    let leaves := fun (before t : State) => SameMemory before t ∧ (∀ k, e.id ∉ (t.strand k).served) ∧
      (s.core.wbq = [] → ∀ y ∈ t.die.dbb, y.id ≠ e.id)
    let waits := fun (t : State) => SameMemory s t ∧ (s.now + 1, Act.dbbEntryAck bank) ∈ t.agenda ∧ t.die.dbb.map (·.id) = s.die.dbb.map (·.id)
    let atHome : State := match e.kind with
      | .fe full => feHome s full e.x
      | .stf _ => s
      | _ => if e.bad then markPoison (homeStore s e.x) e.x.pa else homeStore s e.x
    (ckptHolds s s.func e.x.pa = true → ∃ t, exec (.dbbEntryAck bank) s = .next t ∧ waits t ∧
      ∃ h ∈ t.hub.held, h.func.val = s.func % 17 ∧ h.granule = e.x.pa / 8192) ∧
    (ckptHolds s s.func e.x.pa = false → (∀ n, e.kind ≠ .atomic n) →
      (isHbm e.x.pa = true → e.sent = false → ∃ t, exec (.dbbEntryAck bank) s = .next t ∧ waits t ∧
        ∀ y ∈ t.die.dbb, y.id = e.id → y.sent = true) ∧
      ((isHbm e.x.pa = true → e.sent = true) → hbmPending s e.id = true → ∃ t, exec (.dbbEntryAck bank) s = .next t ∧ waits t) ∧
      ((isHbm e.x.pa = true → e.sent = true) → hbmPending s e.id = false → ∃ t, exec (.dbbEntryAck bank) s = .next t ∧ leaves atHome t)) ∧
    (∀ n r, ckptHolds s s.func e.x.pa = false → e.kind = .atomic n → s.core.reqs.find? (·.ticket = n) = some r →
      (isHbm e.x.pa = true → e.sent = true) → hbmPending s n = false →
      ∃ t, exec (.dbbEntryAck bank) s = .next t ∧ leaves (performAtomic s r (.dbbEntryAck bank)) t)) ∧
  (∀ (s : State) (k : Fin 16), (s.strand k).acq = none → exec (.acquireComplete k) s = .next s) ∧
  (∀ (s : State) (k : Fin 16) (a : Acq), (s.strand k).acq = some a →
    let again := exec (.acquireComplete k) s = .next (s.at (s.now + 1) (.acquireComplete k))
    let through := writeThroughAll s k
    ((a.load = true ∨ fullHolds s k = true) → again) ∧
    (a.load = false → fullHolds s k = false → a.wrote = false → anyDirty through = true → ∃ t, exec (.acquireComplete k) s = .next t ∧
      SameMemory s t ∧ (t.strand k).acq = some a ∧ (s.now + 1, Act.acquireComplete k) ∈ t.agenda) ∧
    (a.load = false → fullHolds s k = false → a.wrote = false → anyDirty through = false → ∃ t, exec (.acquireComplete k) s = .next t ∧
      SameMemory s t ∧ (∀ l ∈ t.core.cache, l.ro = true) ∧
      (t.strand k).acq = some { a with wrote := true } ∧ (s.now + 1, Act.acquireComplete k) ∈ t.agenda) ∧
    (a.load = false → fullHolds s k = false → a.wrote = true → throughPending s = true → again) ∧
    (a.load = false → fullHolds s k = false → a.wrote = true → throughPending s = false → (s.strand k).spilled = [] →
      ∃ t, exec (.acquireComplete k) s = .next t ∧ (t.strand k).acq = none ∧ SameMemory s t ∧
        ∀ n v l, a.fill = some (n, v) → ((s.strand k).reg l).bind = some (.fill n) → ((s.strand k).reg l).full = false →
          (t.strand k).reg l = ⟨v, Tag.full, true, none⟩)) ∧
  ∀ (s : State) (k : Fin 16) (n : Nat) (sc : Scope) (sig : Signal) (wrote full : Bool) (rest : List SbItem),
    (s.strand k).sb = .release n sc sig wrote full :: rest →
    let again := exec (.releaseComplete k) s = .next (s.at (s.now + 1) (.releaseComplete k))
    let wide := sc = .device ∨ sc = .system
    let earlier := ∃ r ∈ s.core.reqs, r.strand = k ∧ r.ticket < n
    let through := writeThroughAll s k
    (earlier → again) ∧
    (¬ earlier → wide → wrote = false → anyDirty through = true → ∃ t, exec (.releaseComplete k) s = .next t ∧ SameMemory s t ∧
      (t.strand k).sb = (s.strand k).sb ∧ (s.now + 1, Act.releaseComplete k) ∈ t.agenda) ∧
    (¬ earlier → wide → wrote = false → anyDirty through = false → ∃ t, exec (.releaseComplete k) s = .next t ∧ SameMemory s t ∧
      (t.strand k).sb = .release n sc sig true full :: rest ∧ (s.now + 1, Act.releaseComplete k) ∈ t.agenda ∧
      ∀ l ∈ t.core.cache, ∀ i : Fin 8, (l.words[i]).valid = true → (l.words[i]).dirty = false) ∧
    (¬ earlier → wide → wrote = true → (throughPending s = true ∨ strandWrites s k = true) → again) ∧
    (¬ earlier → (¬ wide ∨ wrote = true ∧ throughPending s = false ∧ strandWrites s k = false) → servedHolds s k = true → again) ∧
    (¬ earlier → (¬ wide ∨ wrote = true ∧ throughPending s = false ∧ strandWrites s k = false) → servedHolds s k = false →
      (signalWaits s sig = true → ∃ t, exec (.releaseComplete k) s = .next t ∧ SameMemory s t ∧ (t.strand k).sb = (s.strand k).sb ∧
        (s.now + 1, Act.releaseComplete k) ∈ t.agenda) ∧
      (sig = .none → ∃ t, exec (.releaseComplete k) s = .next t ∧ (t.strand k).sb = rest ∧ SameMemory s t) ∧
      (∀ x nc, sig = .store x nc → ownTcm s x.pa = true → signalWaits s sig = false → ∃ t, exec (.releaseComplete k) s = .next t ∧
        t = homeStore (s.modStrand k fun y => { y with sb := rest }) x) ∧
      (∀ x nc, sig = .store x nc → ownTcm s x.pa = false → onDie s x.pa = true → signalWaits s sig = false →
        ∃ t m, exec (.releaseComplete k) s = .next t ∧ (t.strand k).sb = .store n x nc false :: rest ∧ SameMemory s t ∧ s.now < m ∧
          (m, Act.storeLeave k) ∈ t.agenda) ∧
      (∀ x nc, sig = .store x nc → ownTcm s x.pa = false → onDie s x.pa = false → signalWaits s sig = false → ∃ t, exec (.releaseComplete k) s = .next t ∧
        (t.strand k).sb = rest ∧ SameMemory s t ∧ ∃ e ∈ t.die.dbb, e.kind = .release ∧ e.x = x ∧ e.strand = k ∧ e.gcore = s.core.gcore) ∧
      (∀ f i m vec, sig = .fcinc f i m vec → signalWaits s sig = false → ∃ t, exec (.releaseComplete k) s = .next t ∧
        (s.nextDieWheel, Act.fenceCounterNotify ⟨f % 17, Nat.mod_lt _ (by decide)⟩ i) ∈ t.agenda) ∧
      (∀ h q pa, sig = .launch h q pa → ∃ t m, exec (.releaseComplete k) s = .next t ∧ SameMemory s t ∧ s.now < m ∧
        (m, Act.launchEnqueue h q (Vector.ofFn fun i => wordAt s (pa + 8 * i.val))) ∈ t.agenda))

/-- R192-R198, R280, R461, R489, R525: the own TCM needs no translation and has no fetch right; an entry of either TLB translates by its
offset and refuses what its rights do not allow; with no root the walk faults at level 1; a miss waits for a walker and walks, and its end
fills both levels or tells the strand its fault; an invalidation removes the matching entries. -/
def Obligations.TranslationFindsWalksAndInvalidates : Prop :=
  (∀ (s : State) (k : Fin 16) (va : Nat) (w : Want), va < 2 ^ 43 →
    (va < 0x20000 → w ≠ .fetch → translate s k va w = .ok ⟨tcmPa s.core.gcore va, false, false⟩) ∧
    (va < 0x20000 → w = .fetch → translate s k va w = .error (.freeze 0x06 1 (word va))) ∧
    (0x20000 ≤ va → fld s.core.ptroot 42 13 = 0 →
      translate s k va w = .error (.freeze 0x05 (word ((if w = .write then 0x100 else 0) + 5)) (word va))) ∧
    (0x20000 ≤ va → fld s.core.ptroot 42 13 ≠ 0 → s.core.utlb = [] → s.clu.tlb = [] → (s.strand k).walked = [] →
      translate s k va w = .error (.miss (va / 2 ^ 13))) ∧
    (∀ e : TlbEntry, 0x20000 ≤ va → fld s.core.ptroot 42 13 ≠ 0 → s.core.utlb = [e] → e.asid = s.asid → e.vmid = s.vmid → e.vbase ≤ va →
      va < e.vbase + 2 ^ e.bits →
      let right := match w with | .read => e.r | .write => e.w && !e.ro | .fetch => e.x
      let right2 := match w with | .read => e.r2 | .write => e.w2 | .fetch => e.x2
      let may := right && ((s.strand k).kernel || e.u)
      (may = true → right2 = true → translate s k va w = .ok ⟨e.pbase + (va - e.vbase), e.nc, e.ro⟩) ∧
      (may = false → translate s k va w = .error (.freeze 0x06 (word ((if w = .write then 0x100 else 0) + 1)) (word va))) ∧
      (may = true → right2 = false → translate s k va w = .error (.freeze 0x06 (word ((if w = .write then 0x100 else 0) + 2)) (word va))))) ∧
  (∀ (s : State) (vpn : Nat) (k : Fin 16), s.clu.walks = [] →
    ∃ t n, exec (.tlbWalkStart vpn k) s = .next t ∧ SameMemory s t ∧ t.clu.walks = [⟨vpn, s.asid, s.vmid, [k], s.ticket, false⟩] ∧ s.now < n ∧
      (n, Act.walkComplete vpn) ∈ t.agenda) ∧
  (∀ (s : State) (vpn : Nat) (k : Fin 16) (w : Walk), s.clu.walks = [w] → sameWalk s vpn w = true →
    ∃ t, exec (.tlbWalkStart vpn k) s = .next t ∧ SameMemory s t ∧ t.core = s.core ∧ ∃ v, t.clu.walks = [v] ∧ sameWalk s vpn v = true ∧
      ∀ j, j ∈ v.waiters ↔ j ∈ w.waiters ∨ j = k) ∧
  (∀ (s : State) (vpn : Nat) (k : Fin 16), (∀ w ∈ s.clu.walks, sameWalk s vpn w = false) → 16 ≤ s.clu.walks.length →
    exec (.tlbWalkStart vpn k) s = .next (s.at (s.now + 1) (.tlbWalkStart vpn k))) ∧
  (∀ (s : State) (vpn n : Nat) (k : Fin 16) (begun_ : Bool), s.clu.walks = [⟨vpn, s.asid, s.vmid, [k], n, begun_⟩] →
    (hbmPending s n = true → exec (.walkComplete vpn) s = .next (s.at (s.now + 1) (.walkComplete vpn))) ∧
    (hbmPending s n = false → begun_ = false → ∃ t m, exec (.walkComplete vpn) s = .next t ∧ SameMemory s t ∧
      t.clu.walks = [⟨vpn, s.asid, s.vmid, [k], n, true⟩] ∧ s.now < m ∧ (m, Act.walkComplete vpn) ∈ t.agenda)) ∧
  (∀ (s : State) (vpn n : Nat) (k : Fin 16), s.clu.walks = [⟨vpn, s.asid, s.vmid, [k], n, true⟩] → hbmPending s n = false →
    (s.strand k).run = .stalled .translation →
    (∀ e, walkVa s s.func s.core.ptroot (vpn * 2 ^ 13) = .ok e → ∃ t, exec (.walkComplete vpn) s = .next t ∧ SameMemory s t ∧
      e ∈ t.core.utlb ∧ e ∈ t.clu.tlb ∧ t.core.utlb.length ≤ max 32 s.core.utlb.length ∧ (t.strand k).run = .ready ∧
      (t.strand k).walked = (s.strand k).walked ∧ t.clu.walks = []) ∧
    (∀ f, walkVa s s.func s.core.ptroot (vpn * 2 ^ 13) = .error f → ∃ t, exec (.walkComplete vpn) s = .next t ∧
      ((∀ pa ∈ walkReads s s.func s.core.ptroot (vpn * 2 ^ 13), poisoned s pa = false) → SameMemory s t) ∧
      (t.strand k).run = .ready ∧ (t.strand k).walked = (s.strand k).walked ++ [f] ∧ t.core.utlb = s.core.utlb ∧ t.clu.tlb = s.clu.tlb)) ∧
  (∀ (s : State) (k : Fin 16) (v : Word),
    ∃ t n, exec (.tlbinvWrite k v) s = .next t ∧ SameMemory s t ∧ 2 ≤ n ∧ n ≤ 64 ∧ (s.now + n, Act.tlbinvDone k) ∈ t.agenda ∧ t.clu.walks = [] ∧
      (∀ e, e ∈ t.core.utlb ↔ e ∈ s.core.utlb ∧ tlbMatches s.vmid v e = false) ∧ (∀ e, e ∈ t.clu.tlb ↔ e ∈ s.clu.tlb ∧ tlbMatches s.vmid v e = false) ∧
      ∀ w ∈ s.clu.walks, ∀ j ∈ w.waiters, (s.now, Act.tlbWalkStart w.vpn j) ∈ t.agenda) ∧
  ∀ (s : State) (k : Fin 16), (s.strand k).run = .stalled .tlbRemoval → exec (.tlbinvDone k) s = .next (s.setRun k .ready)

/-- R174-R176, R179, R180, R182, R188, R189: a request of another core loads, stores, updates or waits at this core's TCM and its reply
queues at the gateway, which serves its sources in turn; a scratchpad bank serves the first port from its pointer, an SRAM bank the first to
arrive, and the cluster's atomic engine its first request every 2 cycles. That a gateway sends a message whole is the model's reading (log 35). -/
def Obligations.UnitsServeRequests : Prop :=
  (∀ (s : State) (q : RemoteReq), lowerArrives s q = true →
    exec (.remoteRequestArrive q) s = .next (s.at s.now (.remoteRequestArrive q))) ∧
  (∀ (s : State) (q : RemoteReq), lowerArrives s q = false → s.core.remoteQ ≠ [] →
    exec (.remoteRequestArrive q) s = .next (s.withCore fun c => { c with remoteQ := c.remoteQ ++ [q] })) ∧
  (∀ (s : State) (q : RemoteReq), lowerArrives s q = false → s.core.remoteQ = [] →
    let pa := tcmPa s.core.gcore q.off
    let replies := fun (t : State) (n : Nat) =>
      t.die.gwMsgs = s.die.gwMsgs ++ [⟨dieAgent s.dieNo (s.cluster % 96) 17, s.core.gcore, n⟩] ∧
        ∃ m, s.now < m ∧ (m, Act.gatewaySend (dieAgent s.dieNo (s.cluster % 96) 17)) ∈ t.agenda
    (q.kind = .load → ∃ t, exec (.remoteRequestArrive q) s = .next t ∧ replies t 2 ∧ SameMemory s t) ∧
    (q.off < 0x20000 → s.core.gcore < 12288 → q.kind = .store →
      ∃ t, exec (.remoteRequestArrive q) s = .next t ∧ replies t 1 ∧ SameMemory (performStore s (storeOf pa q.size q.data q.tag)) t) ∧
    (∀ fn, q.off < 0x20000 → s.core.gcore < 12288 → q.kind = .amo fn → poisoned s pa = false →
      ∃ t, exec (.remoteRequestArrive q) s = .next t ∧ replies t 2 ∧
        SameMemory (performStore s (storeOf pa q.size (amoNew fn (word (bytesAt s pa q.size)) q.data).1 0x7F)) t) ∧
    (∀ (full : Bool), q.off < 0x20000 → s.core.gcore < 12288 → (q.kind = .stff ∧ full = true ∨ q.kind = .clre ∧ full = false) → s.core.waiters = [] →
      ∃ t, exec (.remoteRequestArrive q) s = .next t ∧ replies t 1 ∧ feAt t pa = full ∧ (full = true → q.off % 8 = 0 → wordAt t pa = q.data)) ∧
    (∀ kind w, (q.kind = .ldf ∧ kind = .ldf ∨ q.kind = .ldw ∧ kind = .ldw ∨ q.kind = .stf ∧ kind = .stf q.data) → s.core.waiters = [] →
      w = (⟨q.off / 8 * 8, s.now, .remote q.gcore, kind, 0⟩ : Waiter) →
      ∃ t, exec (.remoteRequestArrive q) s = .next t ∧ t = addWaiter s w) ∧
    ((q.kind = .ldf ∨ q.kind = .ldw ∨ q.kind = .stf) → 32 ≤ (s.core.waiters.filter Waiter.isRemote).length →
      ∃ t, exec (.remoteRequestArrive q) s = .next t ∧ SameMemory s t ∧ t.core.remoteQ = [q] ∧ t.core.waiters = s.core.waiters)) ∧
  (∀ (s : State) (gw : AgentId) (n : Nat) (m : GwMsg), nextSource s gw = some n →
    s.die.gwMsgs.find? (fun m => m.gw = gw && m.source = n) = some m →
    ∃ t, exec (.gatewaySend gw) s = .next t ∧ SameMemory s t ∧ t.die.gwMsgs = s.die.gwMsgs.erase m ∧
      t.die.gwNext = s.die.gwNext.filter (·.1 != gw) ++ [(gw, n)]) ∧
  (∀ (s : State) (gw : AgentId) (n : Nat) (x : GwMsg), (gw, n) ∈ s.die.gwNext → s.die.gwNext.find? (·.1 = gw) = some (gw, n) →
    x ∈ s.die.gwMsgs → x.gw = gw → n < x.source → ∃ m, nextSource s gw = some m ∧ n < m ∧ m ≤ x.source) ∧
  (∀ (s : State) (bank : Fin 64) (p : Nat) (u : BankUser), s.clu.bankReqs = [⟨bank.val, p, u⟩] → p < 16 →
    ∃ t, exec (.scratchpadBankAccess bank) s = .next t ∧ SameMemory s t ∧ t.clu.bankReqs = [] ∧ (t.clu.bankNext[bank]).val = (p + 1) % 16 ∧
      (∀ n, u = .load n → (s.now, Act.remoteReplyArrive n) ∈ t.agenda) ∧
      ∀ k n, u = .store k n → n ∈ t.clu.bankDone ∧ (s.now, Act.storeLeave k) ∈ t.agenda) ∧
  (∀ (s : State) (bank : Fin 64) (p q : Nat) (u v : BankUser), s.clu.bankReqs = [⟨bank.val, p, u⟩, ⟨bank.val, q, v⟩] → p < 16 → q < 16 →
    let behind := fun n => (n + 16 - (s.clu.bankNext[bank]).val) % 16
    let served := fun (t : State) (x : BankReq) => SameMemory s t ∧ t.clu.bankReqs = [x] ∧
      (s.now + 1, Act.scratchpadBankAccess bank) ∈ t.agenda
    (behind p < behind q → ∃ t, exec (.scratchpadBankAccess bank) s = .next t ∧ served t ⟨bank.val, q, v⟩ ∧
      (t.clu.bankNext[bank]).val = (p + 1) % 16) ∧
    (behind q < behind p → ∃ t, exec (.scratchpadBankAccess bank) s = .next t ∧ served t ⟨bank.val, p, u⟩ ∧
      (t.clu.bankNext[bank]).val = (q + 1) % 16) ∧
    (p = q → u.rank < v.rank → ∃ t, exec (.scratchpadBankAccess bank) s = .next t ∧ served t ⟨bank.val, q, v⟩)) ∧
  (∀ (s : State) (bank : Fin 64), s.clu.bankReqs = [] → exec (.scratchpadBankAccess bank) s = .next s) ∧
  (∀ (s : State) (bank : Fin 64) (r : SramReq), r.bank = bank.val →
    (s.die.sramReqs = [r] → s.now < r.arrive → exec (.dieSramBankAccess bank) s = .next s) ∧
    (s.die.sramReqs = [r] → r.arrive ≤ s.now → ∃ t, exec (.dieSramBankAccess bank) s = .next t ∧ SameMemory s t ∧ t.die.sramReqs = []) ∧
    ∀ q : SramReq, q.bank = bank.val → r.arrive ≤ s.now → (r.arrive < q.arrive ∨ r.arrive = q.arrive ∧ r.gcore < q.gcore) →
      (s.die.sramReqs = [r, q] ∨ s.die.sramReqs = [q, r]) →
      ∃ t, exec (.dieSramBankAccess bank) s = .next t ∧ SameMemory s t ∧ t.die.sramReqs = [q] ∧
        (q.arrive ≤ s.now → (s.now + 1, Act.dieSramBankAccess bank) ∈ t.agenda)) ∧
  (∀ s : State, s.now < s.clu.atomNext → s.clu.atomReqs ≠ [] →
    exec .atomicEngineServe s = .next (s.atOnce s.clu.atomNext .atomicEngineServe)) ∧
  (∀ (s : State) (r q : AtomReq), s.clu.atomNext ≤ s.now → s.clu.atomReqs = [r, q] ∨ s.clu.atomReqs = [q, r] →
    (r.arrive < q.arrive ∨ r.arrive = q.arrive ∧ r.gcore < q.gcore) → (∀ l u, r.op = .plain l u → ∃ t, exec .atomicEngineServe s = .next t ∧
      SameMemory s t ∧ t.clu.atomReqs = [q] ∧ t.clu.atomNext = s.now + 2 ∧ (s.now + 2, Act.atomicEngineServe) ∈ t.agenda)) ∧
  ∀ (s : State) (q : AtomReq), s.clu.atomNext ≤ s.now → s.clu.atomReqs = [q] →
    let last := fun (t : State) => t.clu.atomReqs = [] ∧ t.clu.atomNext = s.now + 2 ∧ t.clu.atomLines.getLast? = some q.op.line ∧
      t.clu.atomLines.length ≤ 64
    (∀ r, q.op = .own r → s.core.reqs = [] → ∃ t, exec .atomicEngineServe s = .next t ∧ SameMemory s t ∧ last t) ∧
    (∀ r, q.op = .own r → (∃ x ∈ s.core.reqs, x.ticket = r.ticket) → ∃ t u, exec .atomicEngineServe s = .next t ∧ last u ∧
      t = performAtomic u r (.remoteReplyArrive r.ticket) ∧ u.mem = s.mem ∧ u.core = s.core) ∧
    (∀ l n, q.op = .plain l (.load n) → ∃ t, exec .atomicEngineServe s = .next t ∧ SameMemory s t ∧ last t ∧
      (s.now, Act.remoteReplyArrive n) ∈ t.agenda) ∧
    (∀ l k n, q.op = .plain l (.store k n) → ∃ t, exec .atomicEngineServe s = .next t ∧ SameMemory s t ∧ last t ∧ n ∈ t.clu.bankDone ∧
      (s.now, Act.storeLeave k) ∈ t.agenda) ∧
    ∀ a, q.op = .other a → poisoned s a.pa = false →
      ∃ t, exec .atomicEngineServe s = .next t ∧ SameMemory (homeStore s (storeOf a.pa a.piece.size (a.update (word (bytesAt s a.pa a.piece.size))).1 0x7F)) t

/-! ## HBM, the exchange and scheduling -/

/-- R218, R221, R227, R228, R225, R521: a controller serves in pass 1 the lowest class with a request and units left and charges it, reads
its patrol granule in class 13's turn, serves in pass 2 from the units nothing can claim, and in exact mode only what came in an earlier
wheel. A held channel serves nothing. Requests of other cores come from outside (log 26). R220, R520, R522: at its wheel a staged
budget table comes into force, unless its units are more than 96 or class 12 has none; then the record is made and the table in force stays.
A commit not armed, or not yet due, does nothing. -/
def Obligations.ControllersServeByBudget : Prop :=
  ((∀ (s : State) (p : Fin 512),
    let x := (findPc s p.val).roll (dieWheel s.now)
    let after := fun (t : State) => findPc t p.val
    (pcHeld s x = true → ∃ t, exec (.hbmServiceUnit p) s = .next t ∧ SameMemory s t ∧ after t = x ∧ t.core = s.core) ∧
    (∀ (r : HReq), pcHeld s x = false → x.reqs = [r] → readyReq s x r = true → x.used < 96 → x.charged[r.cls] < unitsOf s p.val r.cls.val →
      (r.cls.val ≤ 13 ∨ unitsOf s p.val 13 ≤ x.charged[13]) → ∃ t, exec (.hbmServiceUnit p) s = .next t ∧ SameMemory s t ∧
        (after t).reqs = (if r.units ≤ 1 ∨ x.isScrub r = true then [] else [{ r with units := r.units - 1 }]) ∧
        (after t).used = x.used + 1 ∧ (after t).charged[r.cls] = x.charged[r.cls] + 1 ∧
        (∀ c : Fin 16, c ≠ r.cls → (after t).charged[c] = x.charged[c]) ∧
        (r.units ≤ 1 → r.write = false → r.handle = none → r.gcore = s.core.gcore → (∃ q ∈ s.core.reqs, q.ticket = r.ticket) →
          t.core.refWaits = s.core.refWaits ++ [(r.ticket, r.wait)]) ∧
        ∀ h : Fin 128, r.units ≤ 1 → r.write = false → r.handle = some h → (t.core.table[h]).wait = (s.core.table[h]).wait + r.wait) ∧
    (pcHeld s x = false → x.reqs = [] → x.used < 96 → x.charged[13] < unitsOf s p.val 13 →
      (x.busy[hbmBank s (granuleAddr s p.val x.scrub)] ≤ s.now → ∃ t, exec (.hbmServiceUnit p) s = .next t ∧
        (after t).scrub = (x.scrub + 1) % pcGranules ∧ (after t).used = x.used + 1 ∧ (after t).charged[13] = x.charged[13] + 1) ∧
      (s.now < x.busy[hbmBank s (granuleAddr s p.val x.scrub)] → ∃ t, exec (.hbmServiceUnit p) s = .next t ∧
        (after t).scrub = x.scrub ∧ (after t).used = x.used ∧ SameMemory s t)) ∧
    (∀ (r : HReq), pcHeld s x = false → x.reqs = [r] → readyReq s x r = true → x.used < 96 → unitsOf s p.val r.cls.val ≤ x.charged[r.cls] →
      unitsOf s p.val 13 ≤ x.charged[13] → claimsLeft s x ≤ 96 - (x.used + 1) →
      (exactPc s p.val = false ∨ dieTurn r.arrive < dieTurn s.now → ∃ t, exec (.hbmServiceUnit p) s = .next t ∧ SameMemory s t ∧
        (after t).reqs = (if r.units ≤ 1 ∨ x.isScrub r = true then [] else [{ r with units := r.units - 1 }]) ∧ (after t).used = x.used + 1 ∧ (after t).charged = x.charged) ∧
      (exactPc s p.val = true → dieTurn r.arrive = dieTurn s.now → ∃ t, exec (.hbmServiceUnit p) s = .next t ∧ SameMemory s t ∧
        (after t).reqs = [r] ∧ (after t).used = x.used ∧ (s.nextDieWheel, Act.hbmServiceUnit p) ∈ t.agenda))) ∧
  (∀ (s : State) (p : Fin 512) (g : Nat),
    let x := findPc s p.val
    let owed := x.scrubRead.find? fun e => e.granule = g && !x.reqs.any fun r => r.ticket = e.ticket
    (∀ e, owed = some e → ∃ t, exec (.scrubWriteback p g) s = .next t ∧ SameMemory s t ∧ (findPc t p.val).scrubRead = x.scrubRead ∧
      ∃ r, (findPc t p.val).reqs = x.reqs ++ [r] ∧ r.cls = e.cls ∧ r.units = 1 ∧ r.write = true ∧ r.arrive = s.now ∧ r.ticket = e.ticket ∧
        r.addr = granuleAddr s p.val g) ∧
    (owed = none → exec (.scrubWriteback p g) s = .next s)) ∧
  ∀ s : State, ∃ t, exec .wheelBudgetRestart s = .next t ∧ SameMemory s t ∧
    t.hbm.map (fun x => (x.p, x.reqs, x.owed, x.tick)) = s.hbm.map (fun x => (x.p, x.reqs, x.owed, x.tick)) ∧
    ∀ x ∈ t.hbm, x.used = 0 ∧ x.wheel = dieWheel s.now ∧ x.charged = Vector.replicate 16 0) ∧
  (∀ (s : State) (p : Fin 512),
    let cw := hubGet s (rBudgetCommit p.val)
    let sum := ((List.range 16).map (stagedOf s p.val)).foldl (· + ·) 0
    (cw.getLsbD 63 = false ∨ s.now < 256 * fld cw 55 0 + 128 → exec (.budgetCommit p) s = .next s) ∧
    (cw.getLsbD 63 = true → 256 * fld cw 55 0 + 128 ≤ s.now →
      (sum ≤ 96 → stagedOf s p.val 12 ≠ 0 → ∃ t, exec (.budgetCommit p) s = .next t ∧ SameMemory s t ∧
        (∀ c < 16, unitsOf t p.val c = stagedOf s p.val c) ∧ (hubGet t (rBudgetCommit p.val)).getLsbD 63 = false ∧
        ((findPc s p.val).selfRef = true → (findPc s p.val).exitAt = none → (∃ c < 16, c ≠ 12 ∧ c ≠ 13 ∧ stagedOf s p.val c ≠ 0) →
          (findPc t p.val).exitAt = some (s.now + 768) ∧ (s.now + 768, Act.selfRefreshExit p) ∈ t.agenda)) ∧
      (96 < sum ∨ stagedOf s p.val 12 = 0 → ∃ t, exec (.budgetCommit p) s = .next t ∧
        (∀ c < 16, unitsOf t p.val c = unitsOf s p.val c) ∧ (hubGet t (rBudgetCommit p.val)).getLsbD 63 = false ∧
        t.hub.msix = s.hub.msix ++ [(16, 0)] ∧ t.hbm = s.hbm)))

/-- R223, R224, R226, R227, R456, R457, R522: a tick refreshes its bank for 224 cycles, or is owed while a request waits there, and with
eight owed all banks are refreshed for 560; in exact mode the bank of the wheel is. Self-refresh begins after SRIDLE quiet wheels and ends
with the ticks that fell in its exit. R523, R524, R554, R456, R499: a failing lane goes to a free spare and its channel's two pseudo-channels
train; with no spare only the record is made. A training ends with new ticks, after a repair with an all-bank refresh, and the next window
of 2^20 wheels counts from zero; when a window begins is the model's (log 26). -/
def Obligations.RefreshAndTraining : Prop :=
  ((∀ (s : State) (p : Fin 512),
    let x := (findPc s p.val).roll (dieWheel s.now)
    let after := fun (t : State) => findPc t p.val
    let b : Fin 16 := ⟨x.tick % 16, Nat.mod_lt _ (by decide)⟩
    let next := max (s.now + 1) ((hubGet s (rReforg p.val) + 128).toNat + 1952 * (x.tick + 1) / 5)
    (x.training = true → ∃ t, exec (.refreshTick p) s = .next t ∧ SameMemory s t ∧ after t = x ∧ t.agenda = s.agenda) ∧
    (x.training = false → x.selfRef = false → exactPc s p.val = false →
      (pendingBank s x b = false → x.owedList = [] → ∃ t, exec (.refreshTick p) s = .next t ∧ SameMemory s t ∧
        (after t).busy[b] = max x.busy[b] (s.now + 224) ∧ (∀ c : Fin 16, c ≠ b → (after t).busy[c] = x.busy[c]) ∧ (after t).owed = x.owed ∧
        (after t).tick = x.tick + 1 ∧ (s.now + 224, Act.refreshEnd p b) ∈ t.agenda ∧ (next, Act.refreshTick p) ∈ t.agenda) ∧
      (∀ (o : Fin 16) (os : List Nat), o ≠ b → pendingBank s x b = false → pendingAny s x = false → x.owedList = o.val :: os →
        ∃ t, exec (.refreshTick p) s = .next t ∧ SameMemory s t ∧ (after t).owed = x.owed - 1 ∧ (after t).owedList = os ∧
          (after t).busy[b] = max x.busy[b] (s.now + 224) ∧ (after t).busy[o] = max x.busy[o] (s.now + 224)) ∧
      (pendingBank s x b = true → x.owed < 8 → ∃ t, exec (.refreshTick p) s = .next t ∧ SameMemory s t ∧ (after t).owed = x.owed + 1 ∧
        (after t).owedList = x.owedList ++ [b.val] ∧ (after t).busy = x.busy ∧ (after t).tick = x.tick + 1 ∧
        (next, Act.refreshTick p) ∈ t.agenda) ∧
      (pendingBank s x b = true → 8 ≤ x.owed → ∃ t, exec (.refreshTick p) s = .next t ∧ SameMemory s t ∧ (after t).owed = 0 ∧
        (after t).owedList = [] ∧ ∀ c : Fin 16, s.now + 560 ≤ (after t).busy[c] ∧ (s.now + 560, Act.refreshEnd p c) ∈ t.agenda)) ∧
    (∀ c : Fin 16, c.val = dieWheel s.now % 16 → x.training = false → x.selfRef = false → exactPc s p.val = true →
      ∃ t, exec (.refreshTick p) s = .next t ∧ SameMemory s t ∧ (after t).busy[c] = max x.busy[c] (s.now + 224) ∧
        (s.nextDieWheel, Act.refreshTick p) ∈ t.agenda) ∧
    (x.training = false → x.selfRef = true → exactPc s p.val = false → ∃ t, exec (.refreshTick p) s = .next t ∧ SameMemory s t ∧
      (after t).busy = x.busy ∧ (after t).tick = x.tick + 1 ∧
      (after t).lateTick = if ∃ e, x.exitAt = some e ∧ e ≤ s.now + 768 then x.lateTick ++ [b.val] else x.lateTick)) ∧
  (∀ (s : State) (p : Fin 512) (b : Fin 16), ∃ t, exec (.refreshEnd p b) s = .next t ∧ SameMemory s t ∧ t.hbm = s.hbm ∧
    (s.now, Act.hbmServiceUnit p) ∈ t.agenda) ∧
  (∀ (s : State) (p : Fin 512),
    let x := findPc s p.val
    let n := fld (hubGet s (rSridle p.val)) 7 0
    let may := n ≠ 0 ∧ (∀ c < 16, c ≠ 12 → c ≠ 13 → unitsOf s p.val c = 0) ∧ exactPc s p.val = false ∧ x.training = false ∧ x.selfRef = false ∧
      waitingAny s x = false ∧ x.idle + 256 * n ≤ s.now
    (may → ∃ t, exec (.selfRefreshEntry p) s = .next t ∧ SameMemory s t ∧ (findPc t p.val).selfRef = true ∧ (findPc t p.val).tick = x.tick) ∧
    (¬ may → exec (.selfRefreshEntry p) s = .next s)) ∧
  ∀ (s : State) (p : Fin 512),
    let x := findPc s p.val
    ((x.selfRef = false ∨ ∀ e, x.exitAt = some e → s.now < e) → exec (.selfRefreshExit p) s = .next s) ∧
    (x.selfRef = true → (∃ e, x.exitAt = some e ∧ e ≤ s.now) → ∃ t, exec (.selfRefreshExit p) s = .next t ∧ SameMemory s t ∧ (findPc t p.val).selfRef = false ∧
      (findPc t p.val).exitAt = none ∧ (findPc t p.val).lateTick = [] ∧ (s.now, Act.hbmServiceUnit p) ∈ t.agenda ∧
      (x.lateTick = [] → (findPc t p.val).busy = x.busy) ∧
      ∀ b : Fin 16, b.val ∈ x.lateTick → (findPc t p.val).busy[b] = max x.busy[b] (s.now + 224) ∧ (findPc t p.val).owed = 0)) ∧
  ((∀ (s : State) (c : Fin 256) (lane : BitVec 8),
    let r := hubGet s (rLane c.val)
    let repaired := fun (t : State) =>
      (∀ p ∈ pairOf c, (findPc t p.val).training = true) ∧ ∃ n, s.now < n ∧ n < s.now + 4096 ∧ (n, Act.laneTrainingEnd c) ∈ t.agenda
    (fld r 23 16 = 0xFF → ∃ t, exec (.laneRepair c lane) s = .next t ∧ repaired t ∧ fld (hubGet t (rLane c.val)) 23 16 = lane.toNat ∧
      fld (hubGet t (rLane c.val)) 31 24 = fld r 31 24) ∧
    (fld r 23 16 ≠ 0xFF → fld r 31 24 = 0xFF → ∃ t, exec (.laneRepair c lane) s = .next t ∧ repaired t ∧
      fld (hubGet t (rLane c.val)) 31 24 = lane.toNat ∧ fld (hubGet t (rLane c.val)) 23 16 = fld r 23 16) ∧
    (fld r 23 16 ≠ 0xFF → fld r 31 24 ≠ 0xFF → ∃ t, exec (.laneRepair c lane) s = .next t ∧ t.hbm = s.hbm ∧
      hubGet t (rLane c.val) = r ∧ t.hub.msix = s.hub.msix ++ [(16, 0)])) ∧
  (∀ (s : State) (c : Fin 256), ∃ t, exec (.laneTrainingEnd c) s = .next t ∧ SameMemory s t ∧ ∀ p ∈ pairOf c,
    (findPc t p.val).training = false ∧ (findPc t p.val).owed = 0 ∧ (findPc t p.val).tick = 0 ∧
    (∀ b : Fin 16, s.now + 560 ≤ (findPc t p.val).busy[b]) ∧ hubGet t (rReforg p.val) + 128 = word s.now ∧
    (s.now, Act.hbmServiceUnit p) ∈ t.agenda) ∧
  (∀ (s : State) (p : Fin 512), ∃ t, exec (.pseudoChannelTrainingEnd p) s = .next t ∧ SameMemory s t ∧ (findPc t p.val).training = false ∧
    (findPc t p.val).tick = 0 ∧ (findPc t p.val).reqs = (findPc s p.val).reqs ∧ hubGet t (rReforg p.val) + 128 = word s.now ∧
    (s.now, Act.hbmServiceUnit p) ∈ t.agenda ∧
    (exactPc s p.val = false → (s.now, Act.refreshTick p) ∈ t.agenda)) ∧
  ∀ (s : State) (c : Fin 256), ∃ t, exec (.laneErrorWindow c) s = .next t ∧ SameMemory s t ∧ t.hbm = s.hbm ∧
    (s.now + 256 * 2 ^ 20, Act.laneWindow c) ∈ t.agenda ∧
    (∀ lane, laneErrs t c.val lane = 0) ∧ (∀ (d : Nat) lane, d ≠ c.val → laneErrs t d lane = laneErrs s d lane) ∧
    fld (hubGet t (rLane c.val)) 15 0 = 0 ∧ fld (hubGet t (rLane c.val)) 31 16 = fld (hubGet s (rLane c.val)) 31 16)

/-- R231, R232, R453, R516: a post after CLOSE is late; one that differs from what the hub took is refused with a record; any other is
counted, the first with its acts at CLOSE and 32 wheels later. At CLOSE the row goes to the active Owl. Eight wheels after the second
round's end the capacity handles complete. R233-R235, R237, R516: within a column's capacity everything is granted; beyond it each gets an
equal share and the rest goes by ascending package, so that no grant exceeds its demand and the whole capacity is used. Owl's calendar is
formed of the rows that came in the four wheels after CLOSE, one for a round, and delivered to the hubs before its first phase and to the
planes in slot 131 of such a wheel; a silent Owl forms none. R243, R517: a heartbeat is noted; two wheels without one make the standby the
active Owl at the next wheel T, and the rounds that wait for a calendar go to it, with phase 0 in wheel T + 8. That the calendar is formed at
the end of that time, and that calendars not delivered are formed again, is the model's (log 23). -/
def Obligations.ExchangePostsAndGrants : Prop :=
  ((∀ (s : State) (p : Post),
    (p.close.toNat ≤ s.wheel → exec (.postArrive p) s = .next (fillPosts s p.handle.toList stLate)) ∧
    (∀ r : Round, s.wheel < p.close.toNat → findRound s p.round = some r → postDiffers r p = true → ∃ t, exec (.postArrive p) s = .next t ∧
      t.hub.rounds = s.hub.rounds ∧ t.hub.msix = s.hub.msix ++ [(16, 0)] ∧ ∀ h ∈ p.handle, (s.now + 1, Act.completion h ⟨0x4E, 0, 0⟩) ∈ t.agenda) ∧
    (s.wheel < p.close.toNat → (∀ r, findRound s p.round = some r → postDiffers r p = false) →
      ∃ t r, exec (.postArrive p) s = .next t ∧ SameMemory s t ∧ findRound t p.round = some r ∧ r.counted = true ∧ r.close = p.close.toNat ∧
        r.rcode = p.rcode ∧
        (findRound s p.round = none → (256 * p.close.toNat, Act.roundClose p.round) ∈ t.agenda ∧
          (256 * (p.close.toNat + 32), Act.calendarTimeout p.round) ∈ t.agenda ∧
          (p.cap = true → r.buf = some p.buf.toNat ∧ r.cap = p.room ∧ r.capHandles = p.handle.toList) ∧
          (p.cap = false → r.demHandles = p.handle.toList ∧
            ∀ i < 64, r.demand.getD i 0 = p.bytes.getD i 0 / rsize p.rcode.toNat)) ∧
        ∀ q, findRound s p.round = some q → p.cap = true → r.cap = q.cap + p.room ∧ r.capHandles = q.capHandles ++ p.handle.toList)) ∧
  (∀ (s : State) (n : BitVec 16),
    (∀ r, findRound s n = some r → r.round = n → r.counted = true → owlRuns s = true →
      (∀ x ∈ s.hub.rows, ¬ (x.round = n ∧ x.pkg = pkgNo s ∧ x.close = r.close)) →
      ∃ t, exec (.roundClose n) s = .next t ∧ SameMemory s t ∧
        t.hub.rows = s.hub.rows ++ [⟨n, pkgNo s, r.close, r.rcode, r.demand, r.cap, r.close + 8, r.close⟩] ∧
        (256 * (r.close + 4) + 255, Act.owlCalendar n []) ∈ t.agenda) ∧
    (∀ r, findRound s n = some r → r.round = n → (∃ x ∈ s.hub.rows, x.round = n ∧ x.pkg = pkgNo s ∧ x.close = r.close) →
      exec (.roundClose n) s = .next s) ∧
    (∀ r, findRound s n = some r → r.counted = false → exec (.roundClose n) s = .next s) ∧
    (findRound s n = none ∨ owlRuns s = false → exec (.roundClose n) s = .next s)) ∧
  ∀ (s : State) (n : BitVec 16),
    (findRound s (firstOf n) = none → exec (.capacityPostTimeout n) s = .next s) ∧
    ∀ r, findRound s (firstOf n) = some r → ∃ t q, exec (.capacityPostTimeout n) s = .next t ∧ SameMemory s t ∧
      findRound t (firstOf n) = some q ∧ q.capHandles = [] ∧
      ∀ k, grantedBoth s (firstOf n) = some k → ∀ h ∈ r.capHandles,
        (s.now + 1, Act.completion h ⟨if k ≤ r.arrived ∧ r.writes.any (hbmPending s) = false then 0 else 1, 0, 0⟩) ∈ t.agenda) ∧
  ((∀ (cap : Nat) (ds : List (Nat × Nat)),
    let g := grantColumn cap ds
    g.map (·.1) = ds.map (·.1) ∧ (g.map (·.2)).sum = min cap (ds.map (·.2)).sum ∧
      ∀ (i : Nat) (x y : Nat × Nat), ds[i]? = some x → g[i]? = some y → y.2 ≤ x.2 ∧ (cap < (ds.map (·.2)).sum → min x.2 (cap / (ds.filter (0 < ·.2)).length) ≤ y.2)) ∧
  (∀ len : Nat, phaseSpan len = max 1 ((len * 4096 + 262143) / 262144) ∧
    ∀ gap, phasePitch gap len = phaseSpan len + (phaseSpan len + 15) / 16 + gap) ∧
  ∀ (s : State) (n : BitVec 16) (rows : List OwlRow),
    let all := s.hub.rows.filter (·.round = n) ++ rows.filter (fun r => r.round = n && r.pkg < 64)
    (all = [] ∨ owlRuns s = false ∨ s.hub.owlUp = false → exec (.owlCalendar n rows) s = .next s) ∧
    ∀ lead rest, all = lead :: rest → owlRuns s = true → s.hub.owlUp = true →
      let cal := formCalendar (fld (hubGet s rSyscfg) 57 54) lead all
      (roundFormed s n = true ∨ lead.start ≤ s.wheel + 1 → ∃ t, exec (.owlCalendar n rows) s = .next t ∧
        (∀ r, r ∈ t.hub.rows ↔ r ∈ s.hub.rows ∧ r.round ≠ n) ∧ t.hub.formed = s.hub.formed ∧
        ∀ e ∈ t.agenda, ∀ c, e.2 = .calendarArrive c → e ∈ s.agenda) ∧
      (roundFormed s n = false → s.wheel + 1 < lead.start → s.now < 256 * (lead.start - 4) + 255 →
        ∃ t, exec (.owlCalendar n rows) s = .next t ∧ SameMemory s t ∧
          t.hub.rows = s.hub.rows ++ rows.filter (fun r => r.round = n && r.pkg < 64) ∧
          (256 * (lead.start - 4) + 255, Act.owlCalendar n []) ∈ t.agenda ∧
          ∀ e ∈ t.agenda, e ∈ s.agenda ∨ e = (256 * (lead.start - 4) + 255, Act.owlCalendar n [])) ∧
      (roundFormed s n = false → s.wheel + 1 < lead.start → 256 * (lead.start - 4) + 255 ≤ s.now →
        ∃ t k, exec (.owlCalendar n rows) s = .next t ∧ (∀ r ∈ t.hub.rows, r.round ≠ n) ∧ (n, lead.start) ∈ t.hub.formed ∧ s.now < k ∧
          k < 256 * lead.start ∧ (k, Act.calendarArrive cal) ∈ t.agenda ∧
          (calendarPerms cal ≠ [] → ∃ w, s.wheel < w ∧ w < lead.start ∧ (256 * w + 131, Act.planesSet (calendarPerms cal)) ∈ t.agenda))) ∧
  ((∀ s : State, ∃ t, exec .owlHeartbeat s = .next t ∧ SameMemory s t ∧ t.hub.heartbeat = s.now / 256 ∧ t.hub.rounds = s.hub.rounds ∧
    t.core = s.core) ∧
  (∀ s : State, owlRuns s = (s.hub.owlActive && pkgNo s = 0)) ∧
  (∀ s : State,
    let may := owlRuns s = true ∧ s.hub.owlStandby = true ∧ s.hub.heartbeat + 2 ≤ s.now / 256
    (may → ∃ t, exec .owlFailover s = .next t ∧ SameMemory s t ∧ t.hub = s.hub ∧ (256 * (s.now / 256 + 1), Act.owlTakeover) ∈ t.agenda ∧
      ∀ e ∈ t.agenda, e ∈ s.agenda ∨ e = (256 * (s.now / 256 + 1), Act.owlTakeover)) ∧
    (¬ may → exec .owlFailover s = .next s ∧ runAct .owlTakeover s = .next s)) ∧
  ∀ s : State, owlRuns s = true → s.hub.owlStandby = true → s.hub.heartbeat + 2 ≤ s.now / 256 →
    ∃ t, runAct .owlTakeover s = .next t ∧ SameMemory s t ∧ t.hub.rounds = s.hub.rounds ∧
      t.hub.owlStandby = false ∧ t.hub.owlActive = true ∧ t.hub.owlUp = true ∧ t.hub.heartbeat = s.now / 256 ∧ t.hub.formed = [] ∧
      (∀ e ∈ t.agenda, ∀ c ps, e.2 ≠ .calendarArrive c ∧ e.2 ≠ .planesSet ps) ∧
      let waiting := s.hub.rounds.filter fun r => r.counted && r.cal.isNone && !r.lapsed && r.close ≤ s.now / 256
      let row := fun (r : Round) =>
        (⟨r.round, pkgNo s, r.close, r.rcode, r.demand, r.cap, s.now / 256 + 8, s.now / 256⟩ : OwlRow)
      (∀ r ∈ waiting, ∃ x ∈ t.hub.rows, x.round = r.round ∧ x.pkg = pkgNo s ∧ x.close = r.close ∧ x.start = s.now / 256 + 8) ∧
      ∀ x ∈ t.hub.rows, ∃ r ∈ waiting, x = row r)

/-- R236, R237, R239-R241, R516, R517: a calendar fills the demand handles and sets going the phases and the round's end, where every hub
posts the second round; a phase sends its pairs' records, and one that arrives is written whole at its place. With no calendar by CLOSE + 32
the round lapses. That a phase sends its records in one act is the model's (log 23). -/
def Obligations.CalendarsRunTheirRounds : Prop :=
  (∀ (s : State) (c : Calendar),
    let r := (findRound s c.round).getD (Round.fresh c.round)
    (r.lapsed = true ∨ r.cal.isSome = true → exec (.calendarArrive c) s = .next s) ∧
    (r.lapsed = false → r.cal = none → ∃ t q, exec (.calendarArrive c) s = .next t ∧ findRound t c.round = some q ∧ q.cal = some c ∧
      q.demHandles = [] ∧
      (∀ i, ∀ ph ∈ c.phases[i]?, (256 * ph.start, Act.exchangePhaseStart c.round i) ∈ t.agenda) ∧
      (isSecond c.round = false → (256 * c.ends, Act.secondRoundPost c.round) ∈ t.agenda) ∧
      (isSecond c.round = true → (256 * (c.ends + 8), Act.capacityPostTimeout c.round) ∈ t.agenda) ∧
      (∀ h ∈ r.demHandles, (s.now + 1, Act.completion h ⟨if notUsed s r c then 2 else 0, 0, 0⟩) ∈ t.agenda) ∧
      t.fab = s.fab)) ∧
  (∀ (s : State) (ps : List PlanePerm), ∃ t, runAct (.planesSet ps) s = .next t ∧ SameMemory s t ∧ t.hub = s.hub ∧ t.agenda = s.agenda ∧
    ∀ p : Fin 16, t.fab.perms[p] = ps ++ (s.fab.perms[p]).filter fun o => !ps.any (·.wheel = o.wheel)) ∧
  (∀ (s : State) (x : XRecord), portsCarry s x.src = false ∨ notLive s x = true → exec (.exchangeRecordArrive x) s = .next s) ∧
  (∀ (s : State) (n : BitVec 16) (cal : Calendar) (i d : Nat), portsCarry s d = false → sendPhase s n cal i d = s) ∧
  (∀ (s : State) (n : BitVec 16) (ph : Nat) (r : Round) (cal : Calendar) (x : Phase), findRound s n = some r → r.cal = some cal →
    cal.phases[ph]? = some x → (r.run = none ∨ r.lists.isSome = true ∨ ph ≠ 0 ∨ isSecond n = true) →
    ∃ t, exec (.exchangePhaseStart n ph) s = .next t ∧
      t = xrunCheck (((x.pairs.filter (·.1 = pkgNo s)).map (·.2)).foldl (fun u d => sendPhase u n cal ph d) s) (firstOf n)) ∧
  (∀ (s : State) (x : XRecord) (r q : Round) (buf : Nat) (cal : Calendar), Memory.wf s = true → s.hub.ckpts = [] →
    portsCarry s x.src = true → notLive s x = false →
    findRound s (firstOf x.round) = some r → r.buf = some buf → findRound s x.round = some q → q.cal = some cal →
    let pa := buf + rsizeOf cal.rcode * recordPlace s x.round cal x.src x.index
    pa + rsizeOf cal.rcode ≤ Config.sramBase → ∃ t u, exec (.exchangeRecordArrive x) s = .next t ∧ findRound t (firstOf x.round) = some u ∧
      u.arrived = r.arrived + 1 ∧ (∀ i, ∀ w ∈ (x.words.take (rsizeOf cal.rcode / 8))[i]?, wordAt t (pa + 8 * i) = w) ∧
      ∀ a, (a < pa ∨ pa + rsizeOf cal.rcode ≤ a) → dataAt t a = dataAt (logArrival s x pa (x.words.take (rsizeOf cal.rcode / 8))) a) ∧
  (∀ (s : State) (n : BitVec 16) (r : Round) (cal : Calendar), findRound s n = some r → r.cal = some cal →
    ∃ t q, exec (.secondRoundPost n) s = .next t ∧ findRound t (secondOf n) = some q ∧ q.counted = true ∧ q.close = cal.ends ∧
      q.rcode = cal.rcode ∧ q.buf = r.buf ∧
      q.cap = (if cal.used.getLsbD (pkgNo s) then r.cap - cal.below 64 (pkgNo s) else 0) ∧
      (256 * (cal.ends + 32), Act.calendarTimeout (secondOf n)) ∈ t.agenda ∧ (s.now, Act.roundClose (secondOf n)) ∈ t.agenda) ∧
  ∀ (s : State) (n : BitVec 16),
    (findRound s n = none → exec (.calendarTimeout n) s = .next s) ∧
    ∀ r, findRound s n = some r →
      (r.cal.isSome = true ∨ r.lapsed = true → exec (.calendarTimeout n) s = .next s) ∧
      (r.cal = none → r.lapsed = false → ∃ t q, exec (.calendarTimeout n) s = .next t ∧ findRound t n = some q ∧ q.lapsed = true ∧
        q.cal = none ∧ q.demHandles = [] ∧ ∀ h ∈ r.demHandles, (s.now + 1, Act.completion h ⟨2, 0, 0⟩) ∈ t.agenda)

/-- R250, R259, R275, R276, R411, R478, R529, R542, R544: a doorbell moves TAIL when the ring has room, and one that is not its function's
is discarded; a launch writes its record at TAIL, or ends PARTIAL with a full ring and CANCELLED in a reset. R253, R256-R259, R286: a die
starts the chosen gang on the first run of free cores at the next die wheel and charges its process; a gang that found no place for 64
wheels is pinned; an idle die steals the upper half of the largest range, but not in an exact partition. How tries are counted is the
model's reading (log 30). -/
def Obligations.GangsAreEnqueuedAndPlaced : Prop :=
  ((∀ (s : State) (q : BitVec 12) (tail : BitVec 32) (f : Fin 17),
    let n := q.toNat
    let step := (tail.toNat + 2 ^ 32 - qTail s n) % 2 ^ 32
    let held := s.hub.resetting.any (·.1 = f)
    let mine := f.val = 16 ∨ qFunc s n = f.val
    (held = true → exec (.enqueue q tail f) s = .next s) ∧
    let live := (fnParts s (qFunc s n)).any (fun p => replays s p.val) = false
    (held = false → mine → ¬ live → exec (.enqueue q tail f) s = .next s) ∧
    (held = false → mine → live → qCount s n + step ≤ qSize s n → ∃ t, exec (.enqueue q tail f) s = .next t ∧ qTail t n = tail.toNat ∧
      qHead t n = qHead s n ∧ ∀ p ∈ fnParts s (qFunc s n), step ≠ 0 → (∀ d ∈ partDies s p.val,
        (launchWheel s, Act.dispatchGang p (fin8 d)) ∈ t.agenda) ∧ ∀ i < step, tooEarly t n ((qTail s n + i) % 2 ^ 32) = true) ∧
    (held = false → mine → qSize s n < qCount s n + step → exec (.enqueue q tail f) s = .next s) ∧
    (held = false → ¬ mine → ∃ t, exec (.enqueue q tail f) s = .next t ∧ (hubGet t (rFstat f.val)).getLsbD fstatVfwrite = true ∧
      qTail t n = qTail s n)) ∧
  (∀ s : State, s.now + 256 ≤ launchWheel s ∧ launchWheel s < s.now + 512 ∧ launchWheel s % 256 = 128) ∧
  ∀ (s : State) (h : Fin 128) (q : BitVec 12) (job : Vector Word 8),
    let n := q.toNat
    let held := s.hub.resetting.any fun f => f.1.val = qFunc s n
    let ends := fun (st : Nat) => ∃ t, exec (.launchEnqueue h q job) s = .next t ∧ SameMemory s t ∧ t.hub = s.hub ∧
      (s.now + 1, Act.completion h ⟨BitVec.ofNat 8 st, 0, 0⟩) ∈ t.agenda
    (hbmBusy s h = true → exec (.launchEnqueue h q job) s = .next (s.at (s.now + 1) (.launchEnqueue h q job))) ∧
    (hbmBusy s h = false → held = true → ends 3) ∧
    (hbmBusy s h = false → held = false → qSize s n ≤ qCount s n → ends 1) ∧
    (hbmBusy s h = false → held = false → qCount s n < qSize s n → Memory.wf s = true → qRecord s n (qTail s n) + 64 ≤ Config.sramBase →
      ∃ t, exec (.launchEnqueue h q job) s = .next t ∧ qTail t n = (qTail s n + 1) % 2 ^ 32 ∧ qHead t n = qHead s n ∧
        (∀ i : Fin 8, wordAt t (qRecord s n (qTail s n) + 8 * i.val) = job[i]) ∧
        (∀ a, (a < qRecord s n (qTail s n) ∨ qRecord s n (qTail s n) + 64 ≤ a) → dataAt t a = dataAt s a) ∧
        (s.now + 1, Act.completion h ⟨0, 0, 0⟩) ∈ t.agenda)) ∧
  ((∀ (s : State) (p : Fin 16) (d : Fin 8), partValid s p.val = false → exec (.dispatchGang p d) s = .next s) ∧
  (∀ (s : State) (p : Fin 16) (d : Fin 8), partValid s p.val = true → (partDies s p.val).headD 0 ≠ d.val →
    ((s.hub.parts[p]).func = none ∨ (s.hub.parts[p]).drainFrom.isSome = true → ∃ t, exec (.dispatchGang p d) s = .next t ∧ SameMemory s t ∧
      t.hub = s.hub ∧ t.core = s.core) ∧
    (∀ (f : Fin 17) (x : BitVec 12 × Nat × Nat), (s.hub.parts[p]).func = some f → (s.hub.parts[p]).drainFrom = none →
      (s.hub.parts[p]).pinned = some x → (∀ c ∈ headsOf s p.val f.val d.val, (BitVec.ofNat 12 c.queue, c.index, c.gang) ≠ x) →
      ∃ t, exec (.dispatchGang p d) s = .next t ∧ SameMemory s t ∧ t.hub.gangs = s.hub.gangs) ∧
    ∀ (f : Fin 17) (c : Cand) (cores : List Nat), (s.hub.parts[p]).func = some f → (s.hub.parts[p]).drainFrom = none →
      (s.hub.parts[p]).pinned = none → fnHeld s f = false → headsOf s p.val f.val d.val = [c] →
      0 < fnWeight s f.val (qProc s c.queue) → placeJob s p.val d.val c.job = some cores →
      (fin16 p.val, f, fin16 (qProc s c.queue)) ∈ s.hub.among →
      ∃ t n, exec (.dispatchGang p d) s = .next t ∧ SameMemory s t ∧
        t.hub.gangs = s.hub.gangs ++ [⟨p, f, BitVec.ofNat 12 c.queue, c.index, c.gang, cores, cores.contains s.core.gcore,
          cores.any (· != s.core.gcore)⟩] ∧
        s.now ≤ n ∧ n % 256 = 128 ∧
        (n, Act.gangStart ⟨c.job, f, p, BitVec.ofNat 12 c.queue, c.gang, cores, dieWheel n⟩) ∈ t.agenda ∧
        passOf t f.val (qProc s c.queue) = passOf s f.val (qProc s c.queue) +
          (65536 + max 1 (fnWeight s f.val (qProc s c.queue)) - 1) / max 1 (fnWeight s f.val (qProc s c.queue)) * c.job.cells) ∧
  (∀ (s : State) (p : Fin 16),
    let x := s.hub.parts[p]
    (x.pinned.isSome = true ∨ (∀ y ∈ x.tries, y.count < 64) → exec (.gangPinned p) s = .next s) ∧
    (∀ y, x.pinned = none → x.tries.find? (fun z => decide (64 ≤ z.count)) = some y → ∃ t, exec (.gangPinned p) s = .next t ∧ SameMemory s t ∧
      (t.hub.parts[p]).pinned = some (y.queue, y.index, y.gang) ∧ t.hub.gangs = s.hub.gangs) ∧
    ∀ (c : Cand) (y : Try), x.tries = [y] → y.isOf c = true →
      ((noteTry s p c).hub.parts[p]).tries = [if y.last = dieWheel s.now then y else { y with count := y.count + 1, last := dieWheel s.now }]) ∧
  ∀ (s : State) (p : Fin 16) (d : Fin 8),
    (partExact s p.val = true → exec (.dieSteal p d) s = .next s) ∧
    (d.val ∉ partDies s p.val → exec (.dieSteal p d) s = .next s) ∧
    ∀ v : Dep, partExact s p.val = false → d.val ∈ partDies s p.val → s.hub.deps = [v] → v.part = p → v.die ≠ d.val →
      (2 ≤ v.hi - v.lo → ∃ t, exec (.dieSteal p d) s = .next t ∧ SameMemory s t ∧
        t.hub.deps = [{ v with hi := v.hi - (v.hi - v.lo) / 2 }, { v with die := d.val, lo := v.hi - (v.hi - v.lo) / 2 }]) ∧
      (v.hi - v.lo < 2 → exec (.dieSteal p d) s = .next s))

/-- R252, R264-R267, R274, R531-R534: at its slice's end a function saves its ranges and drains, and a swap is forced after DRAIN wheels
when its save area passes the preflight and the den has room. At the stop wheel its cells stop, are saved to the den, written to the save area, and come back at
its next slice. A function alone on its partition goes on. That the next slice waits for the drain is the model's reading (log 30), as are
the 256-cycle tries and the whole image; the words of the save area are left open (log 29). -/
def Obligations.SlicesEndSwapAndResume : Prop :=
  (∀ (s : State) (p : Fin 16),
    let x := s.hub.parts[p]
    (x.func = none ∨ x.drainFrom.isSome = true → exec (.sliceEnd p) s = .next s) ∧
    ∀ f, x.func = some f → x.drainFrom = none →
      (eligibleFns s p.val = [f] → exec (.sliceEnd p) s = .next (s.at (s.now + 256 * max 1 (fnSlice s f.val)) (.sliceEnd p))) ∧
      (eligibleFns s p.val ≠ [f] → dieWheel s.now < x.sliceAt + fnSlice s f.val → exec (.sliceEnd p) s =
        .next (s.atOnce (s.now + 256 * (x.sliceAt + fnSlice s f.val - dieWheel s.now)) (.sliceEnd p))) ∧
      (eligibleFns s p.val ≠ [f] → x.sliceAt + fnSlice s f.val ≤ dieWheel s.now → ∃ t, exec (.sliceEnd p) s = .next t ∧ SameMemory s t ∧
        (t.hub.parts[p]).func = some f ∧ (t.hub.parts[p]).drainFrom = some (dieWheel s.now) ∧ (t.hub.parts[p]).pinned = x.pinned ∧
        (t.hub.parts[p]).tries = x.tries ∧
        t.hub.gangs = s.hub.gangs ∧ (∀ d ∈ t.hub.deps, d.part = p → d.lo < d.hi → qFunc s d.queue.toNat ≠ f.val) ∧
        (gangsOn s p f ≠ [] → (s.now + 256 * max 1 (fnDrain s f.val), Act.forcedSwap p) ∈ t.agenda))) ∧
  (∀ (s : State) (p : Fin 16),
    let x := s.hub.parts[p]
    (x.func = none ∨ x.drainFrom = none → exec (.forcedSwap p) s = .next s) ∧
    ∀ f w, x.func = some f → x.drainFrom = some w →
      let gs := gangsOn s p f
      let full := denTight s gs f = true ∧ ∃ g ∈ gangClusters gs, overDen s (gs.flatMap (·.cores)) (gangClusters gs) g = true
      (gs = [] → exec (.forcedSwap p) s = .next s) ∧
      (gs ≠ [] → fnDrain s f.val = 0 ∨ dieWheel s.now < w + fnDrain s f.val →
        exec (.forcedSwap p) s = .next (s.atOnce s.nextDieWheel (.forcedSwap p))) ∧
      (gs ≠ [] → drainOver s x f = true → full → exec (.forcedSwap p) s = .next s) ∧
      (gs ≠ [] → drainOver s x f = true → ¬ full →
        (preflight s f.val (saveBase s (gangsOn s p f)) (saveSpan (gangsOn s p f)) = none →
          exec (.forcedSwap p) s = .next (s.at (s.nextDieWheel + 256) (.swapStop p))) ∧
        ∀ e, preflight s f.val (saveBase s (gangsOn s p f)) (saveSpan (gangsOn s p f)) = some e →
          ∃ t, exec (.forcedSwap p) s = .next t ∧ (hubGet t (rCtx p.val 0)).getLsbD 62 = true ∧ fld (hubGet t (rCtx p.val 0)) 52 48 = f.val ∧
            t.hub.gangs = s.hub.gangs ∧ t.hub.msix = s.hub.msix ++ [(16, 0)] ∧
            (s.now + 256 * fnDrain s f.val, Act.forcedSwap p) ∈ t.agenda)) ∧
  (∀ (s : State) (p : Fin 16),
    ((s.hub.parts[p]).func = none → exec (.swapStop p) s = .next s) ∧
    ∀ f, (s.hub.parts[p]).func = some f →
      let gs := gangsOn s p f
      let drained := drainOver s (s.hub.parts[p]) f = true
      (gs = [] ∨ ¬ drained → exec (.swapStop p) s = .next s) ∧
      (drained → (∃ g ∈ gs, g.own = true) → s.core.spill = none → ∃ t, exec (.swapStop p) s = .next t ∧ SameMemory s t ∧ t.core.spill = some [] ∧
        (s.now + 256, Act.swapStop p) ∈ t.agenda) ∧
      (drained → (∃ g ∈ gs, g.own = true) → s.core.spill.isSome = true → coreIdle s = false →
        exec (.swapStop p) s = .next (s.at (s.now + 256) (.swapStop p))) ∧
      (drained → gs ≠ [] → ((∀ g ∈ gs, g.own = false) ∨ s.core.spill.isSome = true ∧ coreIdle s = true) → ∃ t d, exec (.swapStop p) s = .next t ∧
        SameMemory s t ∧ t.hub.dens = s.hub.dens ++ [d] ∧ d.part = p ∧ d.func = f ∧ d.gangs = gs ∧ d.written = false ∧
        d.img = takeImage s (gs.flatMap (·.cores)) (gangClusters gs) ∧
        (∀ g ∈ t.hub.gangs, g.part ≠ p ∨ g.func ≠ f) ∧ (∃ n, s.now < n ∧ (n, Act.saveAreaWriteback p none) ∈ t.agenda) ∧
        ((∀ g ∈ gs, g.own = false) → t.core = s.core ∧ d.core = none) ∧
        ((∃ g ∈ gs, g.own = true) → t.core.cell = none ∧ (∀ k, (t.strand k).run = .absent) ∧
          ∃ c, d.core = some c ∧ c.cell = s.core.cell ∧ c.queues = s.core.queues ∧ c.bars = s.core.bars))) ∧
  (∀ (s : State) (p : Fin 16) (bad : Option SaveFault),
    (unwritten s p = none → exec (.saveAreaWriteback p bad) s = .next s) ∧
    ∀ d, unwritten s p = some d →
      (bad = none → preflight s d.func.val (saveBase s d.gangs) (saveSpan d.gangs) = none →
        (d.saving = none → ∃ t, exec (.saveAreaWriteback p bad) s = .next t ∧ SameMemory s t ∧ { d with saving := some s.ticket } ∈ t.hub.dens ∧
          (s.now + 1, Act.saveAreaWriteback p none) ∈ t.agenda) ∧
        (∀ n, d.saving = some n → hbmPending s n = true →
          exec (.saveAreaWriteback p bad) s = .next (s.at (s.now + 1) (.saveAreaWriteback p none))) ∧
        ∀ n, d.saving = some n → hbmPending s n = false → ∃ t, exec (.saveAreaWriteback p bad) s = .next t ∧ denHeld t p.val = false ∧
          { d with written := true } ∈ t.hub.dens ∧ d ∉ t.hub.dens ∧ t.core = s.core ∧
          ∀ a, (∀ i < saveSpan d.gangs / 8, a / 8 ≠ savePa s d.func.val (saveBase s d.gangs + 8 * i) / 8) → saveBase s d.gangs % 8 = 0 →
            dataAt t a = dataAt s a) ∧
      ∀ e, bad = some e → ∃ t, exec (.saveAreaWriteback p bad) s = .next t ∧ denHeld t p.val = true ∧ t.hub.dens = s.hub.dens ∧
        fld (hubGet t (rCtx p.val 0)) 52 48 = d.func.val) ∧
  ∀ (s : State) (p : Fin 16),
    ((s.hub.parts[p]).func = none → exec (.swapResume p) s = .next s) ∧
    ∀ f, (s.hub.parts[p]).func = some f →
      ((∀ d ∈ s.hub.dens, d.part = p → d.func ≠ f) → exec (.swapResume p) s = .next s) ∧
      (∀ d g, s.hub.dens = [d] → d.part = p → d.func = f → d.core = none → d.gangs = [g] → g.own = false → g.others = true →
        ∃ t n, exec (.swapResume p) s = .next t ∧ t.hub.dens = [] ∧ t.hub.gangs = s.hub.gangs ++ [g] ∧ t.core.strands = s.core.strands ∧
          s.now < n ∧ (n, Act.othersEnd g.queue g.index g.gang) ∈ t.agenda) ∧
      (∀ d, s.hub.dens = [d] → d.part = p → d.func = f → d.core = none → Memory.wf s = true → cellsWf memDflt d.img.mem = true →
        (∀ c ∈ d.img.cores, c < 12288) → (∀ g ∈ d.img.clusters, g < 768) →
        (∀ x ∈ d.img.mem, onChip d.img.cores d.img.clusters x.1 = true) → d.gangs = [] → ∃ t, exec (.swapResume p) s = .next t ∧
        (∀ a, onChip d.img.cores d.img.clusters a = true → dataAt t a = cellGet memDflt d.img.mem a) ∧
        ∀ a, onChip d.img.cores d.img.clusters a = false → dataAt t a = dataAt s a) ∧
      ∀ d g c, s.hub.dens = [d] → d.part = p → d.func = f → d.core = some c → d.big = false → d.ring = [] → c.reqs = [] →
        (∀ k : Fin 16, (c.strands[k]).run = .ready) → d.gangs = [g] → g.own = true → g.others = false →
        ∃ t, exec (.swapResume p) s = .next t ∧ t.hub.dens = [] ∧ t.hub.gangs = s.hub.gangs ++ [g] ∧ t.core.cell = c.cell ∧
          t.core.strands = c.strands ∧ t.core.queues = c.queues ∧ t.core.bars = c.bars ∧ t.core.acc = c.acc ∧ t.core.table = c.table ∧
          (s.core.gcore / 16 ∈ d.img.clusters → t.clu.loops = d.img.loops) ∧ t.clu.bars = d.bars ∧ t.core.spill = none

/-- R278, R288, R285: MODE stays while a partition is valid and is never the reserved one, PKGNO and XGAP stay while a port is locked; the
power cap is clamped to 1,200-2,600 W and withholds the next wheel of a partition, an exact one after the others. That a reserved MODE keeps
the old one is the model's choice (log 13). R280: an invalidation of a VMID removes its translations, reads BUSY, and ends within 512 cycles
with nothing of the VMID left. R281-R284, R545: a staged layout is armed by the nonce for its wheel, two wheels on at the earliest; then
every partition's half as it was staged becomes live, or, when a cluster that moves holds a cell or context, nothing changes and LCOMMIT
[63] is set. The bit of STAGED, and that a layout R281 rules out is refused in the same way, are the model's choices (log 13). -/
def Obligations.SystemAndLayoutChanges : Prop :=
  ((∀ (s : State) (v : Word), ∃ t, exec (.syscfgWrite v) s = .next t ∧ SameMemory s t ∧
    ((∃ p < 16, partValid s p = true) ∨ fld v 1 0 = 3 → fld (hubGet t rSyscfg) 1 0 = fld (hubGet s rSyscfg) 1 0) ∧
    ((∀ p < 16, partValid s p = false) → fld v 1 0 ≠ 3 → fld (hubGet t rSyscfg) 1 0 = fld v 1 0) ∧
    ((∃ p : Fin 16, (s.fab.ports[p]).lock = 2) → fld (hubGet t rSyscfg) 63 54 = fld (hubGet s rSyscfg) 63 54) ∧
    ((∀ p : Fin 16, (s.fab.ports[p]).lock ≠ 2) → fld (hubGet t rSyscfg) 63 54 = fld v 63 54)) ∧
  (∀ (s : State) (v : Word), ∃ t, exec (.pwrcapWrite v) s = .next t ∧ SameMemory s t ∧
    hubGet t rPwrcap = word (min 2600 (max 1200 (fld v 11 0)))) ∧
  ∀ (s : State) (p : Fin 16),
    let w := s.now / 256 + 1
    let first := partExact s p.val = true ∧ ∃ q : Fin 16, partValid s q.val = true ∧ partExact s q.val = false ∧ (w, q) ∉ s.hub.withheld
    (partValid s p.val = false ∨ first ∨ replays s p.val = true → exec (.powerCapWithhold p) s = .next s) ∧
    (partValid s p.val = true → ¬ first → replays s p.val = false → ∃ t, exec (.powerCapWithhold p) s = .next t ∧ (w, p) ∈ t.hub.withheld ∧ t.core = s.core)) ∧
  (∀ (s : State) (f : Fin 17),
    let none_ := fun (t : State) =>
      (∀ e, e ∈ t.core.utlb ↔ e ∈ s.core.utlb ∧ e.vmid ≠ vmidOf s f.val) ∧ (∀ e, e ∈ t.clu.tlb ↔ e ∈ s.clu.tlb ∧ e.vmid ≠ vmidOf s f.val) ∧
        (∀ w ∈ t.clu.walks, w.vmid ≠ vmidOf s f.val) ∧
        ∀ w ∈ s.clu.walks, w.vmid = vmidOf s f.val → ∀ k ∈ w.waiters, (s.strand k).run = .stalled .translation → (t.strand k).run = .ready
    (∃ t n, exec (.s2invGo f) s = .next t ∧ SameMemory s t ∧ none_ t ∧ hubGet t (rS2inv f.val) = 2 ∧ s.now < n ∧ n < s.now + 512 ∧
      (n, Act.s2invDone f) ∈ t.agenda) ∧
    ∃ t, exec (.s2invDone f) s = .next t ∧ SameMemory s t ∧ none_ t ∧ hubGet t (rS2inv f.val) = 0) ∧
  ((∀ (s : State) (nonce : BitVec 32), ∃ t, exec (.lstageWrite nonce) s = .next t ∧ SameMemory s t ∧ t.hub.nonce = nonce ∧ staged t = true ∧
    (∀ p < 16, ∀ i < 13, hubGet t (rPart p i) = hubGet s (rPart p i) ∧ hubGet t (rPartStaged p i) = hubGet s (rPartStaged p i))) ∧
  (∀ (s : State) (cw : BitVec 56),
    let ok := staged s = true ∧ (hubGet s rLcommit).setWidth 32 = s.hub.nonce
    let w := max cw.toNat (s.now / 256 + 2)
    (ok → ∃ t, exec (.lcommitArm cw) s = .next t ∧ SameMemory s t ∧ t.hub.armed = some w ∧ (256 * w, Act.layoutFlip) ∈ t.agenda ∧
      ∀ p < 16, ∀ i < 13, armedWord t p i = hubGet s (rPartStaged p i)) ∧
    (¬ ok → exec (.lcommitArm cw) s = .next s)) ∧
  ∀ s : State,
    (s.hub.armed = none → exec .layoutFlip s = .next s) ∧
    ∀ w, s.hub.armed = some w →
      let blocked := (∃ g ∈ movedClusters s, g ∈ heldClusters s) ∨ layoutSound s = false
      (s.now / 256 < w → exec .layoutFlip s = .next s) ∧
      (w ≤ s.now / 256 → ¬ blocked → ∃ t, exec .layoutFlip s = .next t ∧ SameMemory s t ∧ t.hub.armed = none ∧ staged t = false ∧
        ∀ p < 16, ∀ i < 13, hubGet t (rPart p i) = armedWord s p i) ∧
      (w ≤ s.now / 256 → blocked → ∃ t, exec .layoutFlip s = .next t ∧ SameMemory s t ∧ t.hub.armed = none ∧
        (hubGet t rLcommit).getLsbD 63 = true ∧ ∀ p < 16, ∀ i < 13, hubGet t (rPart p i) = hubGet s (rPart p i)))

/-! ## Recovery, the host and the package -/

/-- R285, R286, R548: under REPLAY the jay supplies its next record at its logged time plus ROFF and moves past its units; a withheld wheel
is withheld again, ROFF wheels later. Without REPLAY, before that time, or past the last record it supplies nothing. That kind 3 changes nothing here is the
model's choice (log 14). -/
def Obligations.JaysReplayTheirInputs : Prop :=
  ∀ (s : State) (p : Fin 16),
    let n := replayNext s p
    let r := jayRecord s p.val n
    let due := (r.headD 0).toNat + 256 * fld (hubGet s (rJay p.val 4)) 55 0
    let on := (hubGet s (rJay p.val 3)).getLsbD 62 = true ∧ n < (hubGet s (rJay p.val 2)).toNat ∧ due ≤ s.now
    (¬ on → exec (.jayReplayInput p) s = .next s) ∧
    (on → ∃ t, exec (.jayReplayInput p) s = .next t ∧ replayNext t p = n + 1 + (fld (r.getD 1 0) 31 0 - 8 + 31) / 32 ∧
      (fld (r.getD 1 0) 63 56 = 5 → SameMemory s t ∧
        t.hub.withheld = s.hub.withheld ++
          [(((jayPayload s p.val n (fld (r.getD 1 0) 31 0)).headD 0).toNat + fld (hubGet s (rJay p.val 4)) 55 0, p)]) ∧
      (fld (r.getD 1 0) 63 56 ∉ [1, 2, 4, 5] → SameMemory s t ∧ t.hub.withheld = s.hub.withheld))

/-- R273, R542-R544, R178: a package reset leaves global time, MNET and the memory that outlives it, and sets the core, its cluster and the
hub as at reset; a function's reset begins with its wheel F, drains, and ends with none of its gangs, jobs and ranges. That time, MNET's
fields and HBM outlive a package reset is the model's choice where the manual is silent (log 13, log 33); which cores a function's reset
clears is its reading (log 32). -/
def Obligations.ResetsClearPackageAndFunction : Prop :=
  (∀ s : State, Memory.wf s = true → ∃ t, exec .packageReset s = .next t ∧ t.now = s.now ∧ t.core = { Core.reset with gcore := s.core.gcore } ∧
    t.clu = State.reset.clu ∧ t.hub.gangs = [] ∧ t.hub.jobs = [] ∧ hubGet t rSyscfg = 0 ∧ fld (hubGet t rMnet) 47 0 = fld (hubGet s rMnet) 47 0 ∧
    (∀ pa, outlives pa = true → dataAt t pa = dataAt s pa) ∧ (∀ pa, outlives pa = false → dataAt t pa = 0) ∧
    ∀ p : Fin 512, ∃ n, s.now < n ∧ n ≤ s.now + 4096 * 256 ∧ (n, Act.pseudoChannelTrainingEnd p) ∈ t.agenda) ∧
  (∀ (s : State) (f : Fin 17),
    (f.val = 16 → exec (.flrRequest f) s = exec .packageReset s) ∧
    (f.val ≠ 16 → (∃ w, (f, w) ∈ s.hub.resetting) → exec (.flrRequest f) s = .next s) ∧
    (f.val ≠ 16 → (∀ w, (f, w) ∉ s.hub.resetting) → ∃ t, exec (.flrRequest f) s = .next t ∧ SameMemory s t ∧
      t.hub.resetting = s.hub.resetting ++ [(f, s.now / 256 + 1)] ∧ hubGet t (rFlr f.val) = word (2 ^ 63 + 1) ∧
      (256 * (s.now / 256 + 3), Act.flrDrainEnd f) ∈ t.agenda)) ∧
  ∀ (s : State) (f : Fin 17),
    ((∀ w, (f, w) ∉ s.hub.resetting) → exec (.flrDrainEnd f) s = .next s) ∧
    ∀ w, s.hub.resetting = [(f, w)] →
      (s.now / 256 < w + 2 → exec (.flrDrainEnd f) s = .next (s.at (256 * (w + 2)) (.flrDrainEnd f))) ∧
      (w + 2 ≤ s.now / 256 → flrStep s f.val = 1 → ∃ t, exec (.flrDrainEnd f) s = .next t ∧ SameMemory s t ∧
        hubGet t (rFlr f.val) = word (2 ^ 63 + 2) ∧ (s.nextWheel, Act.flrDrainEnd f) ∈ t.agenda ∧
        (s.func = f.val → t.core.spill.isSome = true ∧ (∀ k, (t.strand k).sb = []) ∧ t.core.copy = CopyEngine.idle ∧
          t.core.tile = ⟨[], [], none, none⟩)) ∧
      (w + 2 ≤ s.now / 256 → flrStep s f.val = 2 → fnPending s f = true → s.now / 256 < w + 66 →
        exec (.flrDrainEnd f) s = .next (s.at s.nextWheel (.flrDrainEnd f))) ∧
      (w + 2 ≤ s.now / 256 → flrStep s f.val = 2 → (fnPending s f = false ∨ w + 66 ≤ s.now / 256) → ∃ t n, exec (.flrDrainEnd f) s = .next t ∧
        SameMemory s t ∧ hubGet t (rFlr f.val) = word (2 ^ 63 + 3) ∧ (n, Act.flrDrainEnd f) ∈ t.agenda ∧
        (circuitsOf s f.val = [] → n = s.now) ∧ (circuitsOf s f.val ≠ [] → n % 256 = 0 ∧ s.now < n)) ∧
      (w + 2 ≤ s.now / 256 → flrStep s f.val = 3 → ∃ t, exec (.flrDrainEnd f) s = .next t ∧ hubGet t (rFlr f.val) = 0 ∧ t.hub.resetting = [] ∧
        (∀ g ∈ t.hub.gangs, g.func ≠ f) ∧ (∀ j ∈ t.hub.jobs, j.func ≠ f) ∧ (∀ d ∈ t.hub.dens, d.func ≠ f) ∧
        (hubGet t (rCkpt f.val 4)).getLsbD 63 = false)

/-- R461, R466, R467, R470, R471, R474, R507, R508, R530, R550: a packet leaves the path for its buddy's queue, which counts it and numbers
it, waits there while the queue is full, or goes to the hub's record; the debug window resumes, halts or kills a frozen strand, and a killed
gang's job completes with a record; a quiescent gang sends its packet. A buddy on another core, and whether a gang's cells there are quiescent,
is outside the model (log 1). -/
def Obligations.PacketsArriveAndStrandsAreDebugged : Prop :=
  (∀ s : State,
    (s.clu.path = [] → exec .faultPacketDeposit s = .next s) ∧
    ∀ p rest, s.clu.path = p :: rest →
      let b := pairByte s p.gcore
      let own := p.gcore / 16 * 16 + b % 16 = s.core.gcore
      let base := fld s.core.fqcfg 16 0
      let slots := fld s.core.fqcfg 55 48
      (b < 128 ∨ ¬ own ∨ slots = 0 ∨ s.core.cell = none ∨ s.func ≠ p.func → ∃ t, exec .faultPacketDeposit s = .next t ∧ t.clu.path = rest ∧
        t.core = s.core ∧ (b < 128 ∨ (own ∧ (slots = 0 ∨ s.core.cell = none ∨ s.func ≠ p.func)) → (hubGet t (rFstat p.func)).getLsbD 0 = true)) ∧
      (128 ≤ b → own → slots ≠ 0 → s.core.cell.isSome = true → s.func = p.func →
        slots ≤ (wordAt s (tcmPa s.core.gcore base) - wordAt s (tcmPa s.core.gcore base + 8)).toNat →
        ∃ t, exec .faultPacketDeposit s = .next t ∧ SameMemory s t ∧ t.clu.path = s.clu.path ∧ (s.now + 1, Act.faultPacketDeposit) ∈ t.agenda) ∧
      (128 ≤ b → own → slots ≠ 0 → s.core.cell.isSome = true → s.func = p.func →
        (wordAt s (tcmPa s.core.gcore base) - wordAt s (tcmPa s.core.gcore base + 8)).toNat < slots → Memory.wf s = true → s.core.gcore < 12288 →
        s.core.waiters = [] → base % 8 = 0 → base + 64 + 64 * slots ≤ 0x20000 → p.words.length = 8 →
        let slot := base + 64 + 64 * ((wordAt s (tcmPa s.core.gcore base)).toNat % slots)
        ∃ t, exec .faultPacketDeposit s = .next t ∧ t.clu.path = rest ∧ packetsTo t s.core.gcore = packetsTo s s.core.gcore + 1 ∧
          wordAt t (tcmPa s.core.gcore base) = wordAt s (tcmPa s.core.gcore base) + 1 ∧
          wordAt t (tcmPa s.core.gcore slot) = setFld (p.words.headD 0) 47 32 (packetsTo s s.core.gcore % 65536) ∧
          ∀ i, 1 ≤ i → i < 8 → wordAt t (tcmPa s.core.gcore (slot + 8 * i)) = p.words.getD i 0)) ∧
  (∀ (s : State) (k : Fin 16),
    let x := s.strand k
    (x.run ≠ .frozen → exec (.dctlResume k) s = .next s ∧ exec (.dctlHalt k) s = .next s ∧ exec (.dctlKill k) s = .next s) ∧
    (x.run = .frozen →
      let free : RunState := if x.owed.isSome then .stalled .windowStores else .ready
      (x.tpend = none → exec (.dctlResume k) s = .next (s.setRun k free)) ∧
      (∀ c v, x.tpend = some (c, v) → ∃ t, exec (.dctlResume k) s = .next t ∧ SameMemory s t ∧ (t.strand k).run = free ∧
        (t.strand k).tpend = none ∧ (t.strand k).tepc = x.pc.zeroExtend 64 ∧ (t.strand k).tcause = c ∧ (t.strand k).tval = v ∧
        (t.strand k).pc = (x.tvec.extractLsb' 0 43) &&& ~~~3 ∧ (t.strand k).kernel = true ∧ ∀ j, j ≠ k → t.strand j = s.strand j) ∧
      (∃ t, exec (.dctlHalt k) s = .next t ∧ SameMemory s t ∧ (t.strand k).run = .halted ∧ (t.strand k).w.toList.map (·.val) = x.w.toList.map (·.val) ∧
        ∀ j, j ≠ k → t.strand j = s.strand j) ∧
      (s.core.cell = none → exec (.dctlKill k) s = .next s) ∧
      ∀ c, s.core.cell = some c → ∃ t n, exec (.dctlKill k) s = .next t ∧ SameMemory s t ∧ t.core.cell = some { c with killed := true } ∧
        s.now < n ∧ n ≤ s.nextWheel + 256 ∧ (n, Act.killedGangEnd) ∈ t.agenda)) ∧
  (∀ (s : State) (v : Word),
    (v.getLsbD 63 = false ∨ gangHolding s (fld v 17 0) = none → exec (.gkill v) s = .next s) ∧
    ∀ g, v.getLsbD 63 = true → gangHolding s (fld v 17 0) = some g →
      (∀ c, g.own = true → s.core.cell = some c → ∃ t, exec (.gkill v) s = .next t ∧ SameMemory s t ∧
        t.core.cell = some { c with killed := true }) ∧
      (g.own = false → ∃ t, exec (.gkill v) s = .next t ∧ g ∉ t.hub.gangs ∧
        ∀ j, s.hub.jobs = [j] → j.queue = g.queue → j.index = g.index →
          (j.ended + 1 < (rjob j).gangs → ∃ x ∈ t.hub.jobs, x.index = j.index ∧ x.ended = j.ended + 1 ∧ x.killed = true) ∧
          ((rjob j).gangs ≤ j.ended + 1 → j.here = false → g.cores.contains s.core.gcore = false →
            t.hub.jobs = [] ∧ (hubGet t (rFstat j.func.val)).getLsbD fstatKilled = true))) ∧
  ∀ s : State,
    (s.core.cell = none ∨ quiescent s = false → exec .gangStall s = .next s) ∧
    ∀ c, s.core.cell = some c → quiescent s = true →
      let low := c.gang.cores.foldl min s.core.gcore
      (othersRun s = true → ∃ t, exec .gangStall s = .next t ∧ t.core = s.core) ∧
      (othersRun s = false → low / 16 = s.core.gcore / 16 → s.clu.path.length < 32 → ∃ t ws, exec .gangStall s = .next t ∧
        t.clu.path = joinPath ⟨low, ws, s.func, s.part⟩ s.clu.path ∧
        fld (ws.headD 0) 17 0 = low * 16 % 2 ^ 18 ∧ (ws.headD 0).getLsbD 55 = false ∧ ws.getD 3 0 = word ((s.now - 1) / 256) ∧
        t.core = s.core ∧ (s.now + 1, Act.faultPacketDeposit) ∈ t.agenda)

/-- R534-R541: a held context is tried again or given up; a checkpoint is taken or skipped once no gang of its function runs, its old
granules go to the pool before the writes that wait for them. A rollback sets BUSY, drains the function, leaves no gang or job of it, breaks its
circuits, writes the granules back once their units are served, and marks the function's partitions for restoring. What an image takes of the
den is the model's count (log 28), and when a rollback's steps follow each other is the model's reading (log 31). -/
def Obligations.ContextsAndCheckpointsRecover : Prop :=
  (∀ (s : State) (p : Fin 16),
    (denHeld s p.val = false → exec (.ctxRetry p) s = .next s ∧ exec (.ctxDiscard p) s = .next s) ∧
    ∀ d, denHeld s p.val = true → unwritten s p = some d →
      (preflight s d.func.val (saveBase s d.gangs) (saveSpan d.gangs) = none → ∃ t n, exec (.ctxRetry p) s = .next t ∧ SameMemory s t ∧
        t.hub = s.hub ∧ s.now < n ∧ (n, Act.saveAreaWriteback p none) ∈ t.agenda) ∧
      (∀ e, preflight s d.func.val (saveBase s d.gangs) (saveSpan d.gangs) = some e → ∃ t, exec (.ctxRetry p) s = .next t ∧
        denHeld t p.val = true ∧ t.hub.dens = s.hub.dens ∧ t.hub.msix = s.hub.msix ++ [(16, 0)]) ∧
      ∃ t, exec (.ctxDiscard p) s = .next t ∧ SameMemory s t ∧ denHeld t p.val = false ∧
        ∃ x ∈ t.hub.dens, x.part = p ∧ x.func = d.func ∧ x.core = none ∧ x.written = true ∧ ∀ g ∈ x.gangs, g.own = false ∧ g.others = false) ∧
  (∀ (s : State) (f : Fin 17),
    let busy := (hubGet s (rCkpt f.val 4)).getLsbD 62 = true
    (¬ busy → exec (.checkpointTake f) s = .next s) ∧
    (busy → (∃ g ∈ s.hub.gangs, g.func = f) → exec (.checkpointTake f) s = .next (s.atOnce s.nextDieWheel (.checkpointTake f))) ∧
    let full := ∃ p ∈ fnParts s f.val, ∃ g ∈ partClusters s p.val, overDen s (usedCores s f) (usedClusters s f) g = true
    (busy → (∀ g ∈ s.hub.gangs, g.func ≠ f) → ∃ t, exec (.checkpointTake f) s = .next t ∧ (hubGet t (rCkpt f.val 4)).getLsbD 62 = false ∧
      (full → t.hub.ckpts = s.hub.ckpts ∧ t.hub.msix = s.hub.msix ++ [(16, 0)]) ∧
      (¬ full →
        (SameMemory s t ∧ (hubGet t (rCkpt f.val 4)).getLsbD 63 = true ∧ hubGet t (rCkpt f.val 3) = word (s.now / 256 % 2 ^ 56) ∧
          (∃ c ∈ t.hub.ckpts, c.func = f ∧ c.fence = fenceWords s f.val ∧ c.bits = [] ∧ c.pool = [] ∧
            c.img = takeImage s (usedCores s f) (usedClusters s f)) ∧
          ∃ n, s.now < n ∧ (n, Act.ckptPoolWriteDone f) ∈ t.agenda)))) ∧
  (∀ (s : State) (f : Fin 17),
    let busy := ∃ c ∈ s.hub.ckpts, c.func = f ∧ hbmPending s c.ticket = true
    (busy → exec (.ckptPoolWriteDone f) s = .next (s.at (s.now + 1) (.ckptPoolWriteDone f))) ∧
    (¬ busy → ∃ t, exec (.ckptPoolWriteDone f) s = .next t ∧ SameMemory s t ∧ t.core = s.core ∧
      ∀ c ∈ t.hub.ckpts, c.func = f → c.inDen = false)) ∧
  (∀ (s : State) (g : Nat), (∀ h ∈ s.hub.held, h.granule ≠ g) → exec (.heldWriteCopy g) s = .next s) ∧
  (∀ (s : State) (h : Held), s.hub.held = [h] →
    let again := (s.now + 1, Act.heldWriteCopy h.granule)
    let holds := ckptHolds s h.func.val (8192 * h.granule)
    (hbmPending s h.ticket = true → exec (.heldWriteCopy h.granule) s = .next (s.at again.1 again.2)) ∧
    (hbmPending s h.ticket = false → h.write = false → ∃ t, exec (.heldWriteCopy h.granule) s = .next t ∧ SameMemory s t ∧
      t.hub.held = [{ h with ticket := s.ticket, write := true }] ∧ again ∈ t.agenda) ∧
    (hbmPending s h.ticket = false → h.write = true → holds = false → ∃ t, exec (.heldWriteCopy h.granule) s = .next t ∧ SameMemory s t ∧
      t.hub.held = [] ∧ t.hub.ckpts = s.hub.ckpts) ∧
    (hbmPending s h.ticket = false → h.write = true → holds = true → poolUsed s h.func.val + 8192 ≤ poolSize s h.func.val →
      ∃ t, exec (.heldWriteCopy h.granule) s = .next t ∧ SameMemory s t ∧ t.hub.held = [] ∧
        (∀ c ∈ t.hub.ckpts, c.func = h.func → h.granule ∈ c.bits ∧
          (h.granule, cellsIn s.mem (8192 * h.granule) (8192 * (h.granule + 1))) ∈ c.pool) ∧
        poolUsed t h.func.val = poolUsed s h.func.val + 8192)) ∧
  (∀ (s : State) (f : Fin 17), ∃ t, exec (.checkpointDrop f) s = .next t ∧ (hubGet t (rCkpt f.val 4)).getLsbD 63 = false ∧
    (∀ c ∈ t.hub.ckpts, c.func ≠ f) ∧ (∀ w ∈ t.hub.held, w.func ≠ f) ∧ SameMemory s t) ∧
  ∀ (s : State) (f : Fin 17),
    let w := hubGet s (rCkpt f.val 4)
    ((∀ c ∈ s.hub.ckpts, c.func ≠ f) ∨ w.getLsbD 63 = false ∨ w.getLsbD 62 = true → exec (.checkpointRollback f) s = .next s) ∧
    (∀ c ∈ s.hub.ckpts, c.func = f → w.getLsbD 63 = true → w.getLsbD 62 = false → ∃ t, exec (.checkpointRollback f) s = .next t ∧
      SameMemory s t ∧ (hubGet t (rCkpt f.val 4)).getLsbD 62 = true ∧ ⟨f, 1, s.now / 256 + 64⟩ ∈ t.hub.rolling ∧ fnHeld t f = true ∧
      (∀ d ∈ t.hub.dens, d.func ≠ f) ∧ (s.nextWheel, Act.rollbackStep f) ∈ t.agenda ∧
      (s.func = f.val → t.core.spill.isSome = true ∧ ∀ k, (t.strand k).sb = [])) ∧
    ∀ r, s.hub.rolling = [r] → r.func = f →
      (r.step = 1 → fnPending s f = true → s.now / 256 < r.n → execRollbackStep f s = .next (s.at s.nextWheel (.rollbackStep f))) ∧
      (r.step = 1 → (fnPending s f = false ∨ r.n ≤ s.now / 256) → ∃ t n, execRollbackStep f s = .next t ∧ ⟨f, 2, n⟩ ∈ t.hub.rolling ∧
        (n, Act.rollbackStep f) ∈ t.agenda ∧ (∀ g ∈ t.hub.gangs, g.func ≠ f) ∧ (∀ j ∈ t.hub.jobs, j.func ≠ f) ∧ (∀ d ∈ t.hub.dens, d.func ≠ f) ∧
        ∀ h ∈ t.hub.held, h.func ≠ f) ∧
      (r.step = 2 → ∃ t, execRollbackStep f s = .next t ∧ ⟨f, 3, s.ticket⟩ ∈ t.hub.rolling ∧ (s.now + 1, Act.rollbackStep f) ∈ t.agenda ∧
        ∀ c ∈ t.fab.circuits, c.fixed = true ∨ qFunc s c.qid.toNat ≠ f.val) ∧
      (r.step = 3 → hbmPending s r.n = true → execRollbackStep f s = .next (s.at (s.now + 1) (.rollbackStep f))) ∧
      (r.step = 3 → hbmPending s r.n = false → ∃ t, execRollbackStep f s = .next t ∧ (hubGet t (rCkpt f.val 4)).getLsbD 62 = false ∧
        t.hub.rolling = [] ∧ (∀ c ∈ t.hub.ckpts, c.func = f → c.bits = [] ∧ c.pool = []) ∧
        ((∃ c ∈ s.hub.ckpts, c.func = f) → ∀ p ∈ fnParts s f.val, (f, p) ∈ t.hub.restoring))

/-- R8, R275, R287, R289, R545-R547: a write of the physical function stores the RW bits of a plain register; a virtual function writes only
its own queues' TAIL; Proah's writes pass the limit unit. Proah's watchdog counts PERIOD wheels from a kick and then resets and boots Proah
with its staged halves cleared; HOLD keeps it in reset. A firmware update takes one die at a time. The watchdog's corners are the model's
reading (log 33). -/
def Obligations.HostAndProahWrite : Prop :=
  (∀ (s : State) (v : Word) (p : Fin 512), ∃ t, exec (.registerWrite (rSridle p.val) v .pf) s = .next t ∧ SameMemory s t ∧
    hubGet t (rSridle p.val) = (hubGet s (rSridle p.val) &&& ~~~(0xFF : Word)) ||| (v &&& 0xFF) ∧ t.core = s.core ∧
    ∀ a, a ≠ rSridle p.val → hubGet t a = hubGet s a) ∧
  (∀ (s : State) (v : Word) (f : Fin 16), (∀ w, (fin17 f.val, w) ∉ s.hub.resetting) →
    ∃ t, exec (.registerWrite rSyscfg v (.vf f)) s = .next t ∧ (hubGet t (rFstat f.val)).getLsbD fstatVfwrite = true ∧
      hubGet t rSyscfg = hubGet s rSyscfg) ∧
  (∀ (s : State) (v : Word) (f : Fin 16) (q : Fin 4096), exec (.registerWrite (rQueue q.val 1) v (.vf f)) s =
    exec (.enqueue (BitVec.ofNat 12 q.val) (v.setWidth 32) (fin17 f.val)) s) ∧
  (∀ (s : State) (v : Word) (a : Nat),
    (proahRuns s = false → exec (.registerWrite a v .proah) s = .next s) ∧
    (proahRuns s = true → exec (.registerWrite rLstage v .proah) s = exec (.lstageWrite (v.setWidth 32)) s ∧
      ∃ t, exec (.registerWrite rSyscfg v .proah) s = .next t ∧ hubGet t rSyscfg = hubGet s rSyscfg ∧
        fld (hubGet t rLimstat) 39 32 = min 255 (fld (hubGet s rLimstat) 39 32 + 1) ∧ (hubGet t (rFstat 16)).getLsbD fstatLimit = true)) ∧
  (∀ s : State, ∃ t, exec .pwdogKick s = .next t ∧ SameMemory s t ∧ t.hub.kickAt = s.now / 256 ∧
    (pwPeriod s ≠ 0 → (256 * (s.now / 256 + pwPeriod s), Act.pwdogExpiry) ∈ t.agenda)) ∧
  (∀ s : State,
    (pwPeriod s = 0 → exec .pwdogExpiry s = .next s) ∧
    (pwPeriod s ≠ 0 → s.now / 256 < s.hub.kickAt + pwPeriod s → ∃ t, exec .pwdogExpiry s = .next t ∧ SameMemory s t ∧
      t.hub.kickAt = s.hub.kickAt ∧ t.hub.regs = s.hub.regs ∧ (256 * (s.hub.kickAt + pwPeriod s), Act.pwdogExpiry) ∈ t.agenda) ∧
    (pwPeriod s ≠ 0 → s.hub.kickAt + pwPeriod s ≤ s.now / 256 → ∃ t, exec .pwdogExpiry s = .next t ∧ t.hub.kickAt = s.now / 256 ∧
      staged t = false ∧ (∀ p < 16, ∀ i < 16, hubGet t (rPartStaged p i) = 0) ∧ t.hub.msix = s.hub.msix ++ [(16, 0)] ∧ t.core = s.core)) ∧
  (∀ (s : State) (hold : Bool), ∃ t, exec (.pctlHold hold) s = .next t ∧ SameMemory s t ∧ hubGet t rPctl = (if hold then 1 else 0) ∧
    (hold = true → proahRuns t = false) ∧
    (hold = true → (hubGet s rPctl).getLsbD 0 = false → staged t = false ∧ ∀ p < 16, ∀ i < 16, hubGet t (rPartStaged p i) = 0)) ∧
  (∀ s : State, ∃ t, exec .pctlClrlim s = .next t ∧ SameMemory s t ∧ hubGet t rLimstat = 0 ∧ ∀ a, a ≠ rLimstat → hubGet t a = hubGet s a) ∧
  ∀ (s : State) (die : Nat) (fin : Bool),
    (s.hub.fwDie = none → fin = false → ∃ t, exec (.firmwareUpdate die fin) s = .next t ∧ SameMemory s t ∧ t.hub.fwDie = some die) ∧
    (s.hub.fwDie = some die → fin = true → ∃ t, exec (.firmwareUpdate die fin) s = .next t ∧ SameMemory s t ∧ t.hub.fwDie = none ∧
      (∀ i : Fin 8, i ≠ Config.measRegister (1 + die) → t.hub.meas[i] = s.hub.meas[i]) ∧
      ∃ m, t.hub.meas[Config.measRegister (1 + die)] = Config.extendMeasure s.hub.meas[Config.measRegister (1 + die)] m) ∧
    ((s.hub.fwDie = none ∧ fin = true) ∨ (∃ d, s.hub.fwDie = some d ∧ (fin = false ∨ d ≠ die)) → exec (.firmwareUpdate die fin) s = .next s)
end

