-- ==== Sys2Proof/Laws/Encoding.lean ====
section
/-! SUPPORT. The opcode field of the word each encoding builds (R291). -/

namespace Sys2Proof

/-- A field that lies above the lowest part of a word is a field of the rest. -/
theorem extract_high {n k : Nat} (x : BitVec n) (y : BitVec k) (start len : Nat) (h : k ≤ start) :
    (x ++ y).extractLsb' start len = x.extractLsb' (start - k) len := BitVec.extractLsb'_append_eq_of_le h

@[simp] theorem fOp_mkA (op : BitVec 8) (d a b : Opd) (e1 e0 : Bool) (fn : BitVec 4) : fOp (mkA op d a b e1 e0 fn) = op := by
  unfold fOp mkA
  iterate 6 refine (extract_high _ _ _ _ (by decide)).trans ?_
  simp

@[simp] theorem fOp_mkB (op : BitVec 8) (d a : Opd) (e : Bool) (imm : BitVec 11) : fOp (mkB op d a e imm) = op := by
  unfold fOp mkB
  iterate 4 refine (extract_high _ _ _ _ (by decide)).trans ?_
  simp

@[simp] theorem fOp_mkC (op : BitVec 8) (a b : Opd) (off : BitVec 12) : fOp (mkC op a b off) = op := by
  unfold fOp mkC
  iterate 3 refine (extract_high _ _ _ _ (by decide)).trans ?_
  simp

@[simp] theorem fOp_mkJ (op : BitVec 8) (off : BitVec 24) : fOp (mkJ op off) = op := by
  unfold fOp mkJ
  iterate 1 refine (extract_high _ _ _ _ (by decide)).trans ?_
  simp

@[simp] theorem fOp_mkL (op : BitVec 8) (d : Opd) (imm : BitVec 18) : fOp (mkL op d imm) = op := by
  unfold fOp mkL
  iterate 2 refine (extract_high _ _ _ _ (by decide)).trans ?_
  simp

@[simp] theorem fOp_mkS (op : BitVec 8) (d : Opd) (reg : BitVec 12) (fn : BitVec 6) : fOp (mkS op d reg fn) = op := by
  unfold fOp mkS
  iterate 3 refine (extract_high _ _ _ _ (by decide)).trans ?_
  simp

@[simp] theorem fOp_mkV (op : BitVec 8) (d a b : VIdx) (m : MIdx) (t : BitVec 4) (fn : BitVec 2) : fOp (mkV op d a b m t fn) = op := by
  unfold fOp mkV
  iterate 6 refine (extract_high _ _ _ _ (by decide)).trans ?_
  simp

@[simp] theorem fOp_mkVX (op : BitVec 8) (d a : VIdx) (s : Opd) (m : MIdx) (t : BitVec 4) (fn : BitVec 1) : fOp (mkVX op d a s m t fn) = op := by
  unfold fOp mkVX
  iterate 6 refine (extract_high _ _ _ _ (by decide)).trans ?_
  simp

@[simp] theorem fOp_mkVM (op : BitVec 8) (d : VIdx) (a b : Opd) (m : MIdx) (t : BitVec 4) : fOp (mkVM op d a b m t) = op := by
  unfold fOp mkVM
  iterate 5 refine (extract_high _ _ _ _ (by decide)).trans ?_
  simp

@[simp] theorem fOp_mkT (op : BitVec 8) (d : Opd) (vc : BitVec 4) (a b : Opd) (eng : BitVec 2) : fOp (mkT op d vc a b eng) = op := by
  unfold fOp mkT
  iterate 5 refine (extract_high _ _ _ _ (by decide)).trans ?_
  simp

end Sys2Proof
end

