-- ==== Sys2Proof/Laws/State.lean ====
section
/-! SUPPORT. What each update of the state leaves in each field. -/

namespace Sys2Proof.Machine

/-! ## setStrand -/

@[simp] theorem State.setStrand_now (s : State) (k : Fin 16) (x : Strand) : (s.setStrand k x).now = s.now := rfl
@[simp] theorem State.setStrand_cur (s : State) (k : Fin 16) (x : Strand) : (s.setStrand k x).cur = s.cur := rfl
@[simp] theorem State.setStrand_agenda (s : State) (k : Fin 16) (x : Strand) : (s.setStrand k x).agenda = s.agenda := rfl
@[simp] theorem State.setStrand_fresh (s : State) (k : Fin 16) (x : Strand) : (s.setStrand k x).fresh = s.fresh := rfl
@[simp] theorem State.setStrand_ticket (s : State) (k : Fin 16) (x : Strand) : (s.setStrand k x).ticket = s.ticket := rfl
@[simp] theorem State.setStrand_word (s : State) (k : Fin 16) (x : Strand) : (s.setStrand k x).word = s.word := rfl
@[simp] theorem State.setStrand_clu (s : State) (k : Fin 16) (x : Strand) : (s.setStrand k x).clu = s.clu := rfl
@[simp] theorem State.setStrand_die (s : State) (k : Fin 16) (x : Strand) : (s.setStrand k x).die = s.die := rfl
@[simp] theorem State.setStrand_mem (s : State) (k : Fin 16) (x : Strand) : (s.setStrand k x).mem = s.mem := rfl
@[simp] theorem State.setStrand_tags (s : State) (k : Fin 16) (x : Strand) : (s.setStrand k x).tags = s.tags := rfl
@[simp] theorem State.setStrand_fe (s : State) (k : Fin 16) (x : Strand) : (s.setStrand k x).fe = s.fe := rfl
@[simp] theorem State.setStrand_poison (s : State) (k : Fin 16) (x : Strand) : (s.setStrand k x).poison = s.poison := rfl
@[simp] theorem State.setStrand_fab (s : State) (k : Fin 16) (x : Strand) : (s.setStrand k x).fab = s.fab := rfl
@[simp] theorem State.setStrand_hbm (s : State) (k : Fin 16) (x : Strand) : (s.setStrand k x).hbm = s.hbm := rfl
@[simp] theorem State.setStrand_hub (s : State) (k : Fin 16) (x : Strand) : (s.setStrand k x).hub = s.hub := rfl

/-! ## modStrand -/

@[simp] theorem State.modStrand_now (s : State) (k : Fin 16) (f : Strand → Strand) : (s.modStrand k f).now = s.now := rfl
@[simp] theorem State.modStrand_cur (s : State) (k : Fin 16) (f : Strand → Strand) : (s.modStrand k f).cur = s.cur := rfl
@[simp] theorem State.modStrand_agenda (s : State) (k : Fin 16) (f : Strand → Strand) : (s.modStrand k f).agenda = s.agenda := rfl
@[simp] theorem State.modStrand_fresh (s : State) (k : Fin 16) (f : Strand → Strand) : (s.modStrand k f).fresh = s.fresh := rfl
@[simp] theorem State.modStrand_ticket (s : State) (k : Fin 16) (f : Strand → Strand) : (s.modStrand k f).ticket = s.ticket := rfl
@[simp] theorem State.modStrand_word (s : State) (k : Fin 16) (f : Strand → Strand) : (s.modStrand k f).word = s.word := rfl
@[simp] theorem State.modStrand_clu (s : State) (k : Fin 16) (f : Strand → Strand) : (s.modStrand k f).clu = s.clu := rfl
@[simp] theorem State.modStrand_die (s : State) (k : Fin 16) (f : Strand → Strand) : (s.modStrand k f).die = s.die := rfl
@[simp] theorem State.modStrand_mem (s : State) (k : Fin 16) (f : Strand → Strand) : (s.modStrand k f).mem = s.mem := rfl
@[simp] theorem State.modStrand_tags (s : State) (k : Fin 16) (f : Strand → Strand) : (s.modStrand k f).tags = s.tags := rfl
@[simp] theorem State.modStrand_fe (s : State) (k : Fin 16) (f : Strand → Strand) : (s.modStrand k f).fe = s.fe := rfl
@[simp] theorem State.modStrand_poison (s : State) (k : Fin 16) (f : Strand → Strand) : (s.modStrand k f).poison = s.poison := rfl
@[simp] theorem State.modStrand_fab (s : State) (k : Fin 16) (f : Strand → Strand) : (s.modStrand k f).fab = s.fab := rfl
@[simp] theorem State.modStrand_hbm (s : State) (k : Fin 16) (f : Strand → Strand) : (s.modStrand k f).hbm = s.hbm := rfl
@[simp] theorem State.modStrand_hub (s : State) (k : Fin 16) (f : Strand → Strand) : (s.modStrand k f).hub = s.hub := rfl

/-! ## setRun -/

@[simp] theorem State.setRun_now (s : State) (k : Fin 16) (r : RunState) : (s.setRun k r).now = s.now := rfl
@[simp] theorem State.setRun_cur (s : State) (k : Fin 16) (r : RunState) : (s.setRun k r).cur = s.cur := rfl
@[simp] theorem State.setRun_agenda (s : State) (k : Fin 16) (r : RunState) : (s.setRun k r).agenda = s.agenda := rfl
@[simp] theorem State.setRun_fresh (s : State) (k : Fin 16) (r : RunState) : (s.setRun k r).fresh = s.fresh := rfl
@[simp] theorem State.setRun_ticket (s : State) (k : Fin 16) (r : RunState) : (s.setRun k r).ticket = s.ticket := rfl
@[simp] theorem State.setRun_word (s : State) (k : Fin 16) (r : RunState) : (s.setRun k r).word = s.word := rfl
@[simp] theorem State.setRun_clu (s : State) (k : Fin 16) (r : RunState) : (s.setRun k r).clu = s.clu := rfl
@[simp] theorem State.setRun_die (s : State) (k : Fin 16) (r : RunState) : (s.setRun k r).die = s.die := rfl
@[simp] theorem State.setRun_mem (s : State) (k : Fin 16) (r : RunState) : (s.setRun k r).mem = s.mem := rfl
@[simp] theorem State.setRun_tags (s : State) (k : Fin 16) (r : RunState) : (s.setRun k r).tags = s.tags := rfl
@[simp] theorem State.setRun_fe (s : State) (k : Fin 16) (r : RunState) : (s.setRun k r).fe = s.fe := rfl
@[simp] theorem State.setRun_poison (s : State) (k : Fin 16) (r : RunState) : (s.setRun k r).poison = s.poison := rfl
@[simp] theorem State.setRun_fab (s : State) (k : Fin 16) (r : RunState) : (s.setRun k r).fab = s.fab := rfl
@[simp] theorem State.setRun_hbm (s : State) (k : Fin 16) (r : RunState) : (s.setRun k r).hbm = s.hbm := rfl
@[simp] theorem State.setRun_hub (s : State) (k : Fin 16) (r : RunState) : (s.setRun k r).hub = s.hub := rfl

/-! ## withCore -/

@[simp] theorem State.withCore_now (s : State) (f : Core → Core) : (s.withCore f).now = s.now := rfl
@[simp] theorem State.withCore_cur (s : State) (f : Core → Core) : (s.withCore f).cur = s.cur := rfl
@[simp] theorem State.withCore_agenda (s : State) (f : Core → Core) : (s.withCore f).agenda = s.agenda := rfl
@[simp] theorem State.withCore_fresh (s : State) (f : Core → Core) : (s.withCore f).fresh = s.fresh := rfl
@[simp] theorem State.withCore_ticket (s : State) (f : Core → Core) : (s.withCore f).ticket = s.ticket := rfl
@[simp] theorem State.withCore_word (s : State) (f : Core → Core) : (s.withCore f).word = s.word := rfl
@[simp] theorem State.withCore_clu (s : State) (f : Core → Core) : (s.withCore f).clu = s.clu := rfl
@[simp] theorem State.withCore_die (s : State) (f : Core → Core) : (s.withCore f).die = s.die := rfl
@[simp] theorem State.withCore_mem (s : State) (f : Core → Core) : (s.withCore f).mem = s.mem := rfl
@[simp] theorem State.withCore_tags (s : State) (f : Core → Core) : (s.withCore f).tags = s.tags := rfl
@[simp] theorem State.withCore_fe (s : State) (f : Core → Core) : (s.withCore f).fe = s.fe := rfl
@[simp] theorem State.withCore_poison (s : State) (f : Core → Core) : (s.withCore f).poison = s.poison := rfl
@[simp] theorem State.withCore_fab (s : State) (f : Core → Core) : (s.withCore f).fab = s.fab := rfl
@[simp] theorem State.withCore_hbm (s : State) (f : Core → Core) : (s.withCore f).hbm = s.hbm := rfl
@[simp] theorem State.withCore_hub (s : State) (f : Core → Core) : (s.withCore f).hub = s.hub := rfl
@[simp] theorem State.withCore_core (s : State) (f : Core → Core) : (s.withCore f).core = f s.core := rfl

/-! ## withClu -/

@[simp] theorem State.withClu_now (s : State) (f : Cluster → Cluster) : (s.withClu f).now = s.now := rfl
@[simp] theorem State.withClu_cur (s : State) (f : Cluster → Cluster) : (s.withClu f).cur = s.cur := rfl
@[simp] theorem State.withClu_agenda (s : State) (f : Cluster → Cluster) : (s.withClu f).agenda = s.agenda := rfl
@[simp] theorem State.withClu_fresh (s : State) (f : Cluster → Cluster) : (s.withClu f).fresh = s.fresh := rfl
@[simp] theorem State.withClu_ticket (s : State) (f : Cluster → Cluster) : (s.withClu f).ticket = s.ticket := rfl
@[simp] theorem State.withClu_word (s : State) (f : Cluster → Cluster) : (s.withClu f).word = s.word := rfl
@[simp] theorem State.withClu_core (s : State) (f : Cluster → Cluster) : (s.withClu f).core = s.core := rfl
@[simp] theorem State.withClu_die (s : State) (f : Cluster → Cluster) : (s.withClu f).die = s.die := rfl
@[simp] theorem State.withClu_mem (s : State) (f : Cluster → Cluster) : (s.withClu f).mem = s.mem := rfl
@[simp] theorem State.withClu_tags (s : State) (f : Cluster → Cluster) : (s.withClu f).tags = s.tags := rfl
@[simp] theorem State.withClu_fe (s : State) (f : Cluster → Cluster) : (s.withClu f).fe = s.fe := rfl
@[simp] theorem State.withClu_poison (s : State) (f : Cluster → Cluster) : (s.withClu f).poison = s.poison := rfl
@[simp] theorem State.withClu_fab (s : State) (f : Cluster → Cluster) : (s.withClu f).fab = s.fab := rfl
@[simp] theorem State.withClu_hbm (s : State) (f : Cluster → Cluster) : (s.withClu f).hbm = s.hbm := rfl
@[simp] theorem State.withClu_hub (s : State) (f : Cluster → Cluster) : (s.withClu f).hub = s.hub := rfl
@[simp] theorem State.withClu_clu (s : State) (f : Cluster → Cluster) : (s.withClu f).clu = f s.clu := rfl

/-! ## withHub -/

@[simp] theorem State.withHub_now (s : State) (f : Hub → Hub) : (s.withHub f).now = s.now := rfl
@[simp] theorem State.withHub_cur (s : State) (f : Hub → Hub) : (s.withHub f).cur = s.cur := rfl
@[simp] theorem State.withHub_agenda (s : State) (f : Hub → Hub) : (s.withHub f).agenda = s.agenda := rfl
@[simp] theorem State.withHub_fresh (s : State) (f : Hub → Hub) : (s.withHub f).fresh = s.fresh := rfl
@[simp] theorem State.withHub_ticket (s : State) (f : Hub → Hub) : (s.withHub f).ticket = s.ticket := rfl
@[simp] theorem State.withHub_word (s : State) (f : Hub → Hub) : (s.withHub f).word = s.word := rfl
@[simp] theorem State.withHub_core (s : State) (f : Hub → Hub) : (s.withHub f).core = s.core := rfl
@[simp] theorem State.withHub_clu (s : State) (f : Hub → Hub) : (s.withHub f).clu = s.clu := rfl
@[simp] theorem State.withHub_die (s : State) (f : Hub → Hub) : (s.withHub f).die = s.die := rfl
@[simp] theorem State.withHub_mem (s : State) (f : Hub → Hub) : (s.withHub f).mem = s.mem := rfl
@[simp] theorem State.withHub_tags (s : State) (f : Hub → Hub) : (s.withHub f).tags = s.tags := rfl
@[simp] theorem State.withHub_fe (s : State) (f : Hub → Hub) : (s.withHub f).fe = s.fe := rfl
@[simp] theorem State.withHub_poison (s : State) (f : Hub → Hub) : (s.withHub f).poison = s.poison := rfl
@[simp] theorem State.withHub_fab (s : State) (f : Hub → Hub) : (s.withHub f).fab = s.fab := rfl
@[simp] theorem State.withHub_hbm (s : State) (f : Hub → Hub) : (s.withHub f).hbm = s.hbm := rfl
@[simp] theorem State.withHub_hub (s : State) (f : Hub → Hub) : (s.withHub f).hub = f s.hub := rfl

/-! ## withFab -/

@[simp] theorem State.withFab_now (s : State) (f : Fabric → Fabric) : (s.withFab f).now = s.now := rfl
@[simp] theorem State.withFab_cur (s : State) (f : Fabric → Fabric) : (s.withFab f).cur = s.cur := rfl
@[simp] theorem State.withFab_agenda (s : State) (f : Fabric → Fabric) : (s.withFab f).agenda = s.agenda := rfl
@[simp] theorem State.withFab_fresh (s : State) (f : Fabric → Fabric) : (s.withFab f).fresh = s.fresh := rfl
@[simp] theorem State.withFab_ticket (s : State) (f : Fabric → Fabric) : (s.withFab f).ticket = s.ticket := rfl
@[simp] theorem State.withFab_word (s : State) (f : Fabric → Fabric) : (s.withFab f).word = s.word := rfl
@[simp] theorem State.withFab_core (s : State) (f : Fabric → Fabric) : (s.withFab f).core = s.core := rfl
@[simp] theorem State.withFab_clu (s : State) (f : Fabric → Fabric) : (s.withFab f).clu = s.clu := rfl
@[simp] theorem State.withFab_die (s : State) (f : Fabric → Fabric) : (s.withFab f).die = s.die := rfl
@[simp] theorem State.withFab_mem (s : State) (f : Fabric → Fabric) : (s.withFab f).mem = s.mem := rfl
@[simp] theorem State.withFab_tags (s : State) (f : Fabric → Fabric) : (s.withFab f).tags = s.tags := rfl
@[simp] theorem State.withFab_fe (s : State) (f : Fabric → Fabric) : (s.withFab f).fe = s.fe := rfl
@[simp] theorem State.withFab_poison (s : State) (f : Fabric → Fabric) : (s.withFab f).poison = s.poison := rfl
@[simp] theorem State.withFab_hbm (s : State) (f : Fabric → Fabric) : (s.withFab f).hbm = s.hbm := rfl
@[simp] theorem State.withFab_hub (s : State) (f : Fabric → Fabric) : (s.withFab f).hub = s.hub := rfl
@[simp] theorem State.withFab_fab (s : State) (f : Fabric → Fabric) : (s.withFab f).fab = f s.fab := rfl

/-! ## at -/

@[simp] theorem State.at_now (s : State) (t : Nat) (a : Act) : (s.at t a).now = s.now := rfl
@[simp] theorem State.at_cur (s : State) (t : Nat) (a : Act) : (s.at t a).cur = s.cur := rfl
@[simp] theorem State.at_fresh (s : State) (t : Nat) (a : Act) : (s.at t a).fresh = s.fresh := rfl
@[simp] theorem State.at_ticket (s : State) (t : Nat) (a : Act) : (s.at t a).ticket = s.ticket := rfl
@[simp] theorem State.at_word (s : State) (t : Nat) (a : Act) : (s.at t a).word = s.word := rfl
@[simp] theorem State.at_core (s : State) (t : Nat) (a : Act) : (s.at t a).core = s.core := rfl
@[simp] theorem State.at_clu (s : State) (t : Nat) (a : Act) : (s.at t a).clu = s.clu := rfl
@[simp] theorem State.at_die (s : State) (t : Nat) (a : Act) : (s.at t a).die = s.die := rfl
@[simp] theorem State.at_mem (s : State) (t : Nat) (a : Act) : (s.at t a).mem = s.mem := rfl
@[simp] theorem State.at_tags (s : State) (t : Nat) (a : Act) : (s.at t a).tags = s.tags := rfl
@[simp] theorem State.at_fe (s : State) (t : Nat) (a : Act) : (s.at t a).fe = s.fe := rfl
@[simp] theorem State.at_poison (s : State) (t : Nat) (a : Act) : (s.at t a).poison = s.poison := rfl
@[simp] theorem State.at_fab (s : State) (t : Nat) (a : Act) : (s.at t a).fab = s.fab := rfl
@[simp] theorem State.at_hbm (s : State) (t : Nat) (a : Act) : (s.at t a).hbm = s.hbm := rfl
@[simp] theorem State.at_hub (s : State) (t : Nat) (a : Act) : (s.at t a).hub = s.hub := rfl
@[simp] theorem State.at_agenda (s : State) (t : Nat) (a : Act) : (s.at t a).agenda = s.agenda ++ [(t, a)] := rfl

/-! ## later -/

@[simp] theorem State.later_now (s : State) (b : Option Nat) (a : Act) : (s.later b a).now = s.now := rfl
@[simp] theorem State.later_cur (s : State) (b : Option Nat) (a : Act) : (s.later b a).cur = s.cur := rfl
@[simp] theorem State.later_ticket (s : State) (b : Option Nat) (a : Act) : (s.later b a).ticket = s.ticket := rfl
@[simp] theorem State.later_word (s : State) (b : Option Nat) (a : Act) : (s.later b a).word = s.word := rfl
@[simp] theorem State.later_core (s : State) (b : Option Nat) (a : Act) : (s.later b a).core = s.core := rfl
@[simp] theorem State.later_clu (s : State) (b : Option Nat) (a : Act) : (s.later b a).clu = s.clu := rfl
@[simp] theorem State.later_die (s : State) (b : Option Nat) (a : Act) : (s.later b a).die = s.die := rfl
@[simp] theorem State.later_mem (s : State) (b : Option Nat) (a : Act) : (s.later b a).mem = s.mem := rfl
@[simp] theorem State.later_tags (s : State) (b : Option Nat) (a : Act) : (s.later b a).tags = s.tags := rfl
@[simp] theorem State.later_fe (s : State) (b : Option Nat) (a : Act) : (s.later b a).fe = s.fe := rfl
@[simp] theorem State.later_poison (s : State) (b : Option Nat) (a : Act) : (s.later b a).poison = s.poison := rfl
@[simp] theorem State.later_fab (s : State) (b : Option Nat) (a : Act) : (s.later b a).fab = s.fab := rfl
@[simp] theorem State.later_hbm (s : State) (b : Option Nat) (a : Act) : (s.later b a).hbm = s.hbm := rfl
@[simp] theorem State.later_hub (s : State) (b : Option Nat) (a : Act) : (s.later b a).hub = s.hub := rfl

/-! ## atOnce -/

@[simp] theorem State.atOnce_now (s : State) (t : Nat) (a : Act) : (s.atOnce t a).now = s.now := by unfold State.atOnce; split <;> rfl
@[simp] theorem State.atOnce_cur (s : State) (t : Nat) (a : Act) : (s.atOnce t a).cur = s.cur := by unfold State.atOnce; split <;> rfl
@[simp] theorem State.atOnce_fresh (s : State) (t : Nat) (a : Act) : (s.atOnce t a).fresh = s.fresh := by unfold State.atOnce; split <;> rfl
@[simp] theorem State.atOnce_ticket (s : State) (t : Nat) (a : Act) : (s.atOnce t a).ticket = s.ticket := by unfold State.atOnce; split <;> rfl
@[simp] theorem State.atOnce_word (s : State) (t : Nat) (a : Act) : (s.atOnce t a).word = s.word := by unfold State.atOnce; split <;> rfl
@[simp] theorem State.atOnce_core (s : State) (t : Nat) (a : Act) : (s.atOnce t a).core = s.core := by unfold State.atOnce; split <;> rfl
@[simp] theorem State.atOnce_clu (s : State) (t : Nat) (a : Act) : (s.atOnce t a).clu = s.clu := by unfold State.atOnce; split <;> rfl
@[simp] theorem State.atOnce_die (s : State) (t : Nat) (a : Act) : (s.atOnce t a).die = s.die := by unfold State.atOnce; split <;> rfl
@[simp] theorem State.atOnce_mem (s : State) (t : Nat) (a : Act) : (s.atOnce t a).mem = s.mem := by unfold State.atOnce; split <;> rfl
@[simp] theorem State.atOnce_tags (s : State) (t : Nat) (a : Act) : (s.atOnce t a).tags = s.tags := by unfold State.atOnce; split <;> rfl
@[simp] theorem State.atOnce_fe (s : State) (t : Nat) (a : Act) : (s.atOnce t a).fe = s.fe := by unfold State.atOnce; split <;> rfl
@[simp] theorem State.atOnce_poison (s : State) (t : Nat) (a : Act) : (s.atOnce t a).poison = s.poison := by unfold State.atOnce; split <;> rfl
@[simp] theorem State.atOnce_fab (s : State) (t : Nat) (a : Act) : (s.atOnce t a).fab = s.fab := by unfold State.atOnce; split <;> rfl
@[simp] theorem State.atOnce_hbm (s : State) (t : Nat) (a : Act) : (s.atOnce t a).hbm = s.hbm := by unfold State.atOnce; split <;> rfl
@[simp] theorem State.atOnce_hub (s : State) (t : Nat) (a : Act) : (s.atOnce t a).hub = s.hub := by unfold State.atOnce; split <;> rfl

/-! ## hubPut -/

@[simp] theorem hubPut_now (s : State) (a : Nat) (v : Word) : (hubPut s a v).now = s.now := rfl
@[simp] theorem hubPut_cur (s : State) (a : Nat) (v : Word) : (hubPut s a v).cur = s.cur := rfl
@[simp] theorem hubPut_agenda (s : State) (a : Nat) (v : Word) : (hubPut s a v).agenda = s.agenda := rfl
@[simp] theorem hubPut_fresh (s : State) (a : Nat) (v : Word) : (hubPut s a v).fresh = s.fresh := rfl
@[simp] theorem hubPut_ticket (s : State) (a : Nat) (v : Word) : (hubPut s a v).ticket = s.ticket := rfl
@[simp] theorem hubPut_word (s : State) (a : Nat) (v : Word) : (hubPut s a v).word = s.word := rfl
@[simp] theorem hubPut_core (s : State) (a : Nat) (v : Word) : (hubPut s a v).core = s.core := rfl
@[simp] theorem hubPut_clu (s : State) (a : Nat) (v : Word) : (hubPut s a v).clu = s.clu := rfl
@[simp] theorem hubPut_die (s : State) (a : Nat) (v : Word) : (hubPut s a v).die = s.die := rfl
@[simp] theorem hubPut_mem (s : State) (a : Nat) (v : Word) : (hubPut s a v).mem = s.mem := rfl
@[simp] theorem hubPut_tags (s : State) (a : Nat) (v : Word) : (hubPut s a v).tags = s.tags := rfl
@[simp] theorem hubPut_fe (s : State) (a : Nat) (v : Word) : (hubPut s a v).fe = s.fe := rfl
@[simp] theorem hubPut_poison (s : State) (a : Nat) (v : Word) : (hubPut s a v).poison = s.poison := rfl
@[simp] theorem hubPut_fab (s : State) (a : Nat) (v : Word) : (hubPut s a v).fab = s.fab := rfl
@[simp] theorem hubPut_hbm (s : State) (a : Nat) (v : Word) : (hubPut s a v).hbm = s.hbm := rfl

/-! ## Strands of the core -/

@[simp] theorem State.setStrand_core_gcore (s : State) (k : Fin 16) (x : Strand) : (s.setStrand k x).core.gcore = s.core.gcore := rfl
@[simp] theorem State.setStrand_core_cell (s : State) (k : Fin 16) (x : Strand) : (s.setStrand k x).core.cell = s.core.cell := rfl
@[simp] theorem State.setStrand_core_queues (s : State) (k : Fin 16) (x : Strand) : (s.setStrand k x).core.queues = s.core.queues := rfl
@[simp] theorem State.setStrand_core_agelim (s : State) (k : Fin 16) (x : Strand) : (s.setStrand k x).core.agelim = s.core.agelim := rfl
@[simp] theorem State.setStrand_core_accmap (s : State) (k : Fin 16) (x : Strand) : (s.setStrand k x).core.accmap = s.core.accmap := rfl
@[simp] theorem State.setStrand_core_ptroot (s : State) (k : Fin 16) (x : Strand) : (s.setStrand k x).core.ptroot = s.core.ptroot := rfl
@[simp] theorem State.setStrand_core_fqcfg (s : State) (k : Fin 16) (x : Strand) : (s.setStrand k x).core.fqcfg = s.core.fqcfg := rfl
@[simp] theorem State.setStrand_core_dsel (s : State) (k : Fin 16) (x : Strand) : (s.setStrand k x).core.dsel = s.core.dsel := rfl
@[simp] theorem State.setStrand_core_table (s : State) (k : Fin 16) (x : Strand) : (s.setStrand k x).core.table = s.core.table := rfl
@[simp] theorem State.setStrand_core_acc (s : State) (k : Fin 16) (x : Strand) : (s.setStrand k x).core.acc = s.core.acc := rfl
@[simp] theorem State.setStrand_core_tile (s : State) (k : Fin 16) (x : Strand) : (s.setStrand k x).core.tile = s.core.tile := rfl
@[simp] theorem State.setStrand_core_copy (s : State) (k : Fin 16) (x : Strand) : (s.setStrand k x).core.copy = s.core.copy := rfl
@[simp] theorem State.setStrand_core_memIntake (s : State) (k : Fin 16) (x : Strand) : (s.setStrand k x).core.memIntake = s.core.memIntake := rfl
@[simp] theorem State.setStrand_core_xchgIntake (s : State) (k : Fin 16) (x : Strand) : (s.setStrand k x).core.xchgIntake = s.core.xchgIntake := rfl
@[simp] theorem State.setStrand_core_cache (s : State) (k : Fin 16) (x : Strand) : (s.setStrand k x).core.cache = s.core.cache := rfl
@[simp] theorem State.setStrand_core_fetches (s : State) (k : Fin 16) (x : Strand) : (s.setStrand k x).core.fetches = s.core.fetches := rfl
@[simp] theorem State.setStrand_core_wbq (s : State) (k : Fin 16) (x : Strand) : (s.setStrand k x).core.wbq = s.core.wbq := rfl
@[simp] theorem State.setStrand_core_utlb (s : State) (k : Fin 16) (x : Strand) : (s.setStrand k x).core.utlb = s.core.utlb := rfl
@[simp] theorem State.setStrand_core_waiters (s : State) (k : Fin 16) (x : Strand) : (s.setStrand k x).core.waiters = s.core.waiters := rfl
@[simp] theorem State.setStrand_core_remoteQ (s : State) (k : Fin 16) (x : Strand) : (s.setStrand k x).core.remoteQ = s.core.remoteQ := rfl
@[simp] theorem State.setStrand_core_moved (s : State) (k : Fin 16) (x : Strand) : (s.setStrand k x).core.moved = s.core.moved := rfl
@[simp] theorem State.setStrand_core_bars (s : State) (k : Fin 16) (x : Strand) : (s.setStrand k x).core.bars = s.core.bars := rfl
@[simp] theorem State.setStrand_core_send (s : State) (k : Fin 16) (x : Strand) : (s.setStrand k x).core.send = s.core.send := rfl
@[simp] theorem State.setStrand_core_recv (s : State) (k : Fin 16) (x : Strand) : (s.setStrand k x).core.recv = s.core.recv := rfl
@[simp] theorem State.setStrand_core_reqs (s : State) (k : Fin 16) (x : Strand) : (s.setStrand k x).core.reqs = s.core.reqs := rfl
@[simp] theorem State.setStrand_core_refWaits (s : State) (k : Fin 16) (x : Strand) : (s.setStrand k x).core.refWaits = s.core.refWaits := rfl
@[simp] theorem State.setStrand_core_spill (s : State) (k : Fin 16) (x : Strand) : (s.setStrand k x).core.spill = s.core.spill := rfl
@[simp] theorem State.setStrand_core_lastFn (s : State) (k : Fin 16) (x : Strand) : (s.setStrand k x).core.lastFn = s.core.lastFn := rfl
@[simp] theorem State.setStrand_core_pri (s : State) (k : Fin 16) (x : Strand) : (s.setStrand k x).core.pri = s.core.pri := rfl
@[simp] theorem State.setStrand_core_quiet (s : State) (k : Fin 16) (x : Strand) : (s.setStrand k x).core.quiet = s.core.quiet := rfl
@[simp] theorem State.setStrand_core_stirred (s : State) (k : Fin 16) (x : Strand) : (s.setStrand k x).core.stirred = s.core.stirred := rfl

@[simp] theorem State.setStrand_strand_same (s : State) (k : Fin 16) (x : Strand) : (s.setStrand k x).strand k = x := by
  simp [State.setStrand, State.strand]
theorem State.setStrand_strand_other (s : State) {k j : Fin 16} (x : Strand) (h : j ≠ k) : (s.setStrand k x).strand j = s.strand j := by
  have : k.val ≠ j.val := fun e => h (Fin.ext e.symm)
  simp [State.setStrand, State.strand, this]
theorem State.modStrand_strand_same (s : State) (k : Fin 16) (f : Strand → Strand) : (s.modStrand k f).strand k = f (s.strand k) := by
  simp [State.modStrand]
theorem State.modStrand_strand_other (s : State) {k j : Fin 16} (f : Strand → Strand) (h : j ≠ k) :
    (s.modStrand k f).strand j = s.strand j := State.setStrand_strand_other s _ h

/-! ## A strand -/

@[simp] theorem Strand.setRun_pc (x : Strand) (r : RunState) : (x.setRun r).pc = x.pc := rfl
@[simp] theorem Strand.setRun_w (x : Strand) (r : RunState) : (x.setRun r).w = x.w := rfl
@[simp] theorem Strand.setRun_ring (x : Strand) (r : RunState) : (x.setRun r).ring = x.ring := rfl
@[simp] theorem Strand.setRun_o (x : Strand) (r : RunState) : (x.setRun r).o = x.o := rfl
@[simp] theorem Strand.setRun_lat (x : Strand) (r : RunState) : (x.setRun r).lat = x.lat := rfl
@[simp] theorem Strand.setRun_v (x : Strand) (r : RunState) : (x.setRun r).v = x.v := rfl
@[simp] theorem Strand.setRun_m (x : Strand) (r : RunState) : (x.setRun r).m = x.m := rfl
@[simp] theorem Strand.setRun_mode (x : Strand) (r : RunState) : (x.setRun r).mode = x.mode := rfl
@[simp] theorem Strand.setRun_strole (x : Strand) (r : RunState) : (x.setRun r).strole = x.strole := rfl
@[simp] theorem Strand.setRun_tvec (x : Strand) (r : RunState) : (x.setRun r).tvec = x.tvec := rfl
@[simp] theorem Strand.setRun_tepc (x : Strand) (r : RunState) : (x.setRun r).tepc = x.tepc := rfl
@[simp] theorem Strand.setRun_tcause (x : Strand) (r : RunState) : (x.setRun r).tcause = x.tcause := rfl
@[simp] theorem Strand.setRun_tval (x : Strand) (r : RunState) : (x.setRun r).tval = x.tval := rfl
@[simp] theorem Strand.setRun_ien (x : Strand) (r : RunState) : (x.setRun r).ien = x.ien := rfl
@[simp] theorem Strand.setRun_soft (x : Strand) (r : RunState) : (x.setRun r).soft = x.soft := rfl
@[simp] theorem Strand.setRun_fpmode (x : Strand) (r : RunState) : (x.setRun r).fpmode = x.fpmode := rfl
@[simp] theorem Strand.setRun_fpflags (x : Strand) (r : RunState) : (x.setRun r).fpflags = x.fpflags := rfl
@[simp] theorem Strand.setRun_sigthr (x : Strand) (r : RunState) : (x.setRun r).sigthr = x.sigthr := rfl
@[simp] theorem Strand.setRun_winbase (x : Strand) (r : RunState) : (x.setRun r).winbase = x.winbase := rfl
@[simp] theorem Strand.setRun_winstate (x : Strand) (r : RunState) : (x.setRun r).winstate = x.winstate := rfl
@[simp] theorem Strand.setRun_lvtbase (x : Strand) (r : RunState) : (x.setRun r).lvtbase = x.lvtbase := rfl
@[simp] theorem Strand.setRun_tagbase (x : Strand) (r : RunState) : (x.setRun r).tagbase = x.tagbase := rfl
@[simp] theorem Strand.setRun_timecmp (x : Strand) (r : RunState) : (x.setRun r).timecmp = x.timecmp := rfl
@[simp] theorem Strand.setRun_latcnt (x : Strand) (r : RunState) : (x.setRun r).latcnt = x.latcnt := rfl
@[simp] theorem Strand.setRun_ng (x : Strand) (r : RunState) : (x.setRun r).ng = x.ng := rfl
@[simp] theorem Strand.setRun_sb (x : Strand) (r : RunState) : (x.setRun r).sb = x.sb := rfl
@[simp] theorem Strand.setRun_acq (x : Strand) (r : RunState) : (x.setRun r).acq = x.acq := rfl
@[simp] theorem Strand.setRun_chunk (x : Strand) (r : RunState) : (x.setRun r).chunk = x.chunk := rfl
@[simp] theorem Strand.setRun_singular (x : Strand) (r : RunState) : (x.setRun r).singular = x.singular := rfl
@[simp] theorem Strand.setRun_tpend (x : Strand) (r : RunState) : (x.setRun r).tpend = x.tpend := rfl
@[simp] theorem Strand.setRun_cause (x : Strand) (r : RunState) : (x.setRun r).cause = x.cause := rfl
@[simp] theorem Strand.setRun_spilled (x : Strand) (r : RunState) : (x.setRun r).spilled = x.spilled := rfl
@[simp] theorem Strand.setRun_served (x : Strand) (r : RunState) : (x.setRun r).served = x.served := rfl
@[simp] theorem Strand.setRun_walked (x : Strand) (r : RunState) : (x.setRun r).walked = x.walked := rfl
@[simp] theorem Strand.setRun_owed (x : Strand) (r : RunState) : (x.setRun r).owed = x.owed := rfl
@[simp] theorem Strand.setRun_back (x : Strand) (r : RunState) : (x.setRun r).back = x.back := rfl
@[simp] theorem Strand.setRun_taken (x : Strand) (r : RunState) : (x.setRun r).taken = x.taken := rfl
@[simp] theorem Strand.setRun_run (x : Strand) (r : RunState) : (x.setRun r).run = r := rfl
@[simp] theorem Strand.next_run (x : Strand) : x.next.run = x.run := rfl
@[simp] theorem Strand.next_w (x : Strand) : x.next.w = x.w := rfl
@[simp] theorem Strand.next_ring (x : Strand) : x.next.ring = x.ring := rfl
@[simp] theorem Strand.next_o (x : Strand) : x.next.o = x.o := rfl
@[simp] theorem Strand.next_lat (x : Strand) : x.next.lat = x.lat := rfl
@[simp] theorem Strand.next_v (x : Strand) : x.next.v = x.v := rfl
@[simp] theorem Strand.next_m (x : Strand) : x.next.m = x.m := rfl
@[simp] theorem Strand.next_mode (x : Strand) : x.next.mode = x.mode := rfl
@[simp] theorem Strand.next_strole (x : Strand) : x.next.strole = x.strole := rfl
@[simp] theorem Strand.next_tvec (x : Strand) : x.next.tvec = x.tvec := rfl
@[simp] theorem Strand.next_tepc (x : Strand) : x.next.tepc = x.tepc := rfl
@[simp] theorem Strand.next_tcause (x : Strand) : x.next.tcause = x.tcause := rfl
@[simp] theorem Strand.next_tval (x : Strand) : x.next.tval = x.tval := rfl
@[simp] theorem Strand.next_ien (x : Strand) : x.next.ien = x.ien := rfl
@[simp] theorem Strand.next_soft (x : Strand) : x.next.soft = x.soft := rfl
@[simp] theorem Strand.next_fpmode (x : Strand) : x.next.fpmode = x.fpmode := rfl
@[simp] theorem Strand.next_fpflags (x : Strand) : x.next.fpflags = x.fpflags := rfl
@[simp] theorem Strand.next_sigthr (x : Strand) : x.next.sigthr = x.sigthr := rfl
@[simp] theorem Strand.next_winbase (x : Strand) : x.next.winbase = x.winbase := rfl
@[simp] theorem Strand.next_winstate (x : Strand) : x.next.winstate = x.winstate := rfl
@[simp] theorem Strand.next_lvtbase (x : Strand) : x.next.lvtbase = x.lvtbase := rfl
@[simp] theorem Strand.next_tagbase (x : Strand) : x.next.tagbase = x.tagbase := rfl
@[simp] theorem Strand.next_timecmp (x : Strand) : x.next.timecmp = x.timecmp := rfl
@[simp] theorem Strand.next_latcnt (x : Strand) : x.next.latcnt = x.latcnt := rfl
@[simp] theorem Strand.next_ng (x : Strand) : x.next.ng = x.ng := rfl
@[simp] theorem Strand.next_sb (x : Strand) : x.next.sb = x.sb := rfl
@[simp] theorem Strand.next_acq (x : Strand) : x.next.acq = x.acq := rfl
@[simp] theorem Strand.next_chunk (x : Strand) : x.next.chunk = x.chunk := rfl
@[simp] theorem Strand.next_singular (x : Strand) : x.next.singular = x.singular := rfl
@[simp] theorem Strand.next_tpend (x : Strand) : x.next.tpend = x.tpend := rfl
@[simp] theorem Strand.next_cause (x : Strand) : x.next.cause = x.cause := rfl
@[simp] theorem Strand.next_spilled (x : Strand) : x.next.spilled = x.spilled := rfl
@[simp] theorem Strand.next_served (x : Strand) : x.next.served = x.served := rfl
@[simp] theorem Strand.next_owed (x : Strand) : x.next.owed = x.owed := rfl
@[simp] theorem Strand.next_back (x : Strand) : x.next.back = x.back := rfl
@[simp] theorem Strand.next_taken (x : Strand) : x.next.taken = x.taken := rfl
@[simp] theorem Strand.next_pc (x : Strand) : x.next.pc = x.pc + 4 := rfl

@[simp] theorem Strand.setReg_reg_same (x : Strand) (l : Loc) (r : Reg) : (x.setReg l r).reg l = r := by
  cases l <;> simp [Strand.setReg, Strand.reg]
theorem Strand.setReg_reg_other (x : Strand) {l m : Loc} (r : Reg) (h : m ≠ l) : (x.setReg l r).reg m = x.reg m := by
  cases l <;> cases m <;> simp_all [Strand.setReg, Strand.reg, Vector.getElem_set] <;> intro e <;> exact absurd (Fin.ext e.symm) h

end Sys2Proof.Machine
end

