-- ==== Sys2Proof/Laws/Memory.lean ====
section
/-! SUPPORT. The laws of memory: the canonical form of a plane, reading after writing, and that every operation over memory keeps the form;
and the same of the hub's registers. -/

namespace Sys2Proof.Machine

/-! ## One plane -/

theorem cellsAbove_mono {d : BitVec 8} {lo hi : Nat} {m : List Host.Cell} (h : cellsAbove d hi m = true) (le : lo ≤ hi) :
    cellsAbove d lo m = true := by
  cases m with
  | nil => rfl
  | cons c cs =>
    simp only [cellsAbove, Bool.and_eq_true, decide_eq_true_eq] at h ⊢
    exact ⟨⟨le.trans h.1.1, h.1.2⟩, h.2⟩

/-- Below the first listed address every address reads as unlisted. -/
theorem cellGet_below {d : BitVec 8} {lo a : Nat} {m : List Host.Cell} (h : cellsAbove d lo m = true) (lt : a < lo) :
    cellGet d m a = d := by
  cases m with
  | nil => rfl
  | cons c cs =>
    simp only [cellsAbove, Bool.and_eq_true, decide_eq_true_eq] at h
    have := h.1.1
    simp [cellGet, show c.1 ≠ a by omega, show a < c.1 by omega]

theorem cellSet_above {d : BitVec 8} {lo a : Nat} {v : BitVec 8} {m : List Host.Cell} (h : cellsAbove d lo m = true) (le : lo ≤ a) :
    cellsAbove d lo (cellSet d m a v) = true := by
  induction m generalizing lo with
  | nil => by_cases hv : v = d <;> simp [cellSet, cellsAbove, hv, le]
  | cons c cs ih =>
    simp only [cellsAbove, Bool.and_eq_true, decide_eq_true_eq] at h
    obtain ⟨⟨h1, h2⟩, h3⟩ := h
    unfold cellSet
    split
    · split
      · exact cellsAbove_mono h3 (by omega)
      · simp_all [cellsAbove]
    · split
      · split
        · simp_all [cellsAbove]
        · rename_i hlt hv
          simp only [cellsAbove, Bool.and_eq_true, decide_eq_true_eq]
          exact ⟨⟨le, by simpa using hv⟩, ⟨hlt, h2⟩, h3⟩
      · simp only [cellsAbove, Bool.and_eq_true, decide_eq_true_eq]
        exact ⟨⟨h1, h2⟩, ih h3 (by omega)⟩

/-- A write keeps the canonical form. -/
theorem cellSet_wf {d : BitVec 8} {m : List Host.Cell} (h : cellsWf d m = true) (a : Nat) (v : BitVec 8) :
    cellsWf d (cellSet d m a v) = true := cellSet_above h (Nat.zero_le a)

theorem cellGet_cellSet_same_above {d : BitVec 8} {lo a : Nat} {v : BitVec 8} {m : List Host.Cell} (h : cellsAbove d lo m = true) :
    cellGet d (cellSet d m a v) a = v := by
  induction m generalizing lo with
  | nil => by_cases hv : v = d <;> simp [cellSet, cellGet, hv]
  | cons c cs ih =>
    simp only [cellsAbove, Bool.and_eq_true] at h
    unfold cellSet
    split
    · split
      · subst_vars
        exact cellGet_below h.2 (Nat.lt_succ_self _)
      · simp [cellGet]
    · split
      · rename_i hne hlt
        split
        · subst_vars
          simp [cellGet, hne, hlt]
        · simp [cellGet]
      · rename_i hne hlt
        simp [cellGet, hne, hlt, ih h.2]

/-- A read after a write to the same address gives the value written. -/
theorem cellGet_cellSet_same {d : BitVec 8} {m : List Host.Cell} (h : cellsWf d m = true) (a : Nat) (v : BitVec 8) :
    cellGet d (cellSet d m a v) a = v := cellGet_cellSet_same_above h

theorem cellGet_cellSet_other_above {d : BitVec 8} {lo a b : Nat} {v : BitVec 8} {m : List Host.Cell} (h : cellsAbove d lo m = true)
    (ne : b ≠ a) : cellGet d (cellSet d m a v) b = cellGet d m b := by
  induction m generalizing lo with
  | nil => by_cases hv : v = d <;> simp [cellSet, cellGet, hv, ne.symm]
  | cons c cs ih =>
    simp only [cellsAbove, Bool.and_eq_true] at h
    unfold cellSet
    split
    · rename_i he
      have hb : c.1 ≠ b := fun e => ne (e.symm.trans he)
      split
      · by_cases hlt : b < c.1
        · rw [cellGet_below h.2 (by omega)]
          simp [cellGet, hb, hlt]
        · simp [cellGet, hb, hlt]
      · simp [cellGet, he ▸ hb, he]
    · split
      · rename_i hlt
        split
        · rfl
        · by_cases hb : b < a
          · have : b < c.1 := by omega
            simp [cellGet, ne.symm, hb, this, show c.1 ≠ b by omega]
          · simp [cellGet, ne.symm, hb]
      · simp [cellGet, ih h.2]

/-- A write leaves every other address as it was. -/
theorem cellGet_cellSet_other {d : BitVec 8} {m : List Host.Cell} (h : cellsWf d m = true) {a b : Nat} (v : BitVec 8) (ne : b ≠ a) :
    cellGet d (cellSet d m a v) b = cellGet d m b := cellGet_cellSet_other_above h ne

theorem filter_above {d : BitVec 8} {lo : Nat} {m : List Host.Cell} (p : Host.Cell → Bool) (h : cellsAbove d lo m = true) :
    cellsAbove d lo (m.filter p) = true := by
  induction m generalizing lo with
  | nil => rfl
  | cons c cs ih =>
    simp only [cellsAbove, Bool.and_eq_true, decide_eq_true_eq] at h
    by_cases hp : p c
    · simp only [List.filter_cons, hp, if_true, cellsAbove, Bool.and_eq_true, decide_eq_true_eq]
      exact ⟨h.1, ih h.2⟩
    · simp only [List.filter_cons, hp, if_false, Bool.false_eq_true]
      exact cellsAbove_mono (ih h.2) (by omega)

/-- Forgetting some addresses keeps the form. -/
theorem filter_wf {d : BitVec 8} {m : List Host.Cell} (p : Host.Cell → Bool) (h : cellsWf d m = true) : cellsWf d (m.filter p) = true :=
  filter_above p h

theorem cellsClear_wf {d : BitVec 8} {m : List Host.Cell} (h : cellsWf d m = true) (lo hi : Nat) :
    cellsWf d (cellsClear m lo hi) = true := filter_wf _ h

theorem cellsPut_wf {d : BitVec 8} {m : List Host.Cell} (h : cellsWf d m = true) (bs : List Host.Cell) :
    cellsWf d (cellsPut d m bs) = true := by
  induction bs generalizing m with
  | nil => exact h
  | cons b bs ih => exact ih (cellSet_wf h _ _)

theorem cellGet_head {d : BitVec 8} (c : Host.Cell) (cs : List Host.Cell) : cellGet d (c :: cs) c.1 = c.2 := by simp [cellGet]

/-- Planes in canonical form that read alike are equal. -/
theorem cells_ext_above {d : BitVec 8} {lo : Nat} {m n : List Host.Cell} (hm : cellsAbove d lo m = true) (hn : cellsAbove d lo n = true)
    (h : ∀ a, cellGet d m a = cellGet d n a) : m = n := by
  induction m generalizing lo n with
  | nil =>
    cases n with
    | nil => rfl
    | cons c cs =>
      simp only [cellsAbove, Bool.and_eq_true, bne_iff_ne] at hn
      exact absurd ((cellGet_head c cs).symm.trans (h c.1).symm) hn.1.2
  | cons b bs ih =>
    simp only [cellsAbove, Bool.and_eq_true, bne_iff_ne, decide_eq_true_eq] at hm
    cases n with
    | nil => exact absurd ((cellGet_head b bs).symm.trans (h b.1)) hm.1.2
    | cons c cs =>
      simp only [cellsAbove, Bool.and_eq_true, bne_iff_ne, decide_eq_true_eq] at hn
      have e1 : b.1 = c.1 := by
        by_contra ne
        rcases Nat.lt_or_gt_of_ne ne with lt | lt
        · have := h b.1
          rw [cellGet_head] at this
          simp [cellGet, Ne.symm ne, lt] at this
          exact hm.1.2 this
        · have := h c.1
          rw [cellGet_head] at this
          simp [cellGet, ne, lt] at this
          exact hn.1.2 this.symm
      have e2 : b.2 = c.2 := by have := h b.1; rw [cellGet_head, e1, cellGet_head] at this; exact this
      have e : b = c := Prod.ext e1 e2
      subst e
      refine congrArg (b :: ·) (ih hm.2 hn.2 fun a => ?_)
      by_cases lt : a < b.1 + 1
      · rw [cellGet_below hm.2 lt, cellGet_below hn.2 lt]
      · have := h a
        simpa [cellGet, show b.1 ≠ a by omega, show ¬ a < b.1 by omega] using this

theorem cells_ext {d : BitVec 8} {m n : List Host.Cell} (hm : cellsWf d m = true) (hn : cellsWf d n = true)
    (h : ∀ a, cellGet d m a = cellGet d n a) : m = n := cells_ext_above hm hn h

/-! ## The three planes -/

theorem wf_iff (s : State) : Memory.wf s = true ↔ cellsWf memDflt s.mem = true ∧ cellsWf tagDflt s.tags = true ∧ cellsWf feDflt s.fe = true := by
  simp [Memory.wf, and_assoc]

/-- What changes no plane keeps the form. -/
theorem wf_congr {s t : State} (h : Memory.wf s = true) (hm : t.mem = s.mem) (ht : t.tags = s.tags) (hf : t.fe = s.fe) :
    Memory.wf t = true := by rw [wf_iff] at *; rw [hm, ht, hf]; exact h

theorem setTagByte_wf {s : State} (h : Memory.wf s = true) (pa : Nat) (b : BitVec 8) : Memory.wf (setTagByte s pa b) = true := by
  rw [wf_iff] at *; exact ⟨h.1, cellSet_wf h.2.1 _ _, h.2.2⟩

theorem setFe_wf {s : State} (h : Memory.wf s = true) (pa : Nat) (b : Bool) : Memory.wf (setFe s pa b) = true := by
  rw [wf_iff] at *; exact ⟨h.1, h.2.1, cellSet_wf h.2.2 _ _⟩

theorem setFeBits_wf {fe : List Host.Cell} (h : cellsWf feDflt fe = true) (w : Nat) (b : BitVec 8) (n : Nat) :
    cellsWf feDflt (setFeBits fe w b n) = true := by
  induction n with
  | zero => exact h
  | succ n ih => exact cellSet_wf ih _ _

theorem setByte_wf {s : State} (h : Memory.wf s = true) (pa : Nat) (b : BitVec 8) : Memory.wf (setByte s pa b) = true := by
  rw [wf_iff] at h
  unfold setByte
  split
  · exact (wf_iff _).mpr ⟨h.1, cellSet_wf h.2.1 _ _, h.2.2⟩
  · exact (wf_iff _).mpr ⟨h.1, h.2.1, setFeBits_wf h.2.2 _ _ _⟩
  · exact (wf_iff _).mpr ⟨cellSet_wf h.1 _ _, h.2⟩

theorem setBytes_wf {s : State} (h : Memory.wf s = true) (pa : Nat) (w : Word) (en : BitVec 8) (n : Nat) :
    Memory.wf (setBytes s pa w en n) = true := by
  induction n with
  | zero => exact h
  | succ n ih =>
    unfold setBytes
    dsimp only
    split
    · exact setByte_wf ih _ _
    · exact ih

theorem clearPoison_wf {s : State} (h : Memory.wf s = true) (pa : Nat) (en : BitVec 8) : Memory.wf (clearPoison s pa en) = true := by
  unfold clearPoison
  split
  · exact h
  · split
    · exact h
    · exact h

theorem performStore_wf {s : State} (h : Memory.wf s = true) (x : WordStore) : Memory.wf (performStore s x) = true := by
  have := setBytes_wf h x.pa x.data x.en 8
  refine clearPoison_wf ?_ _ _
  split
  · exact setTagByte_wf this _ _
  · exact this

theorem putWord_wf {s : State} (h : Memory.wf s = true) (pa : Nat) (w : Word) : Memory.wf (putWord s pa w) = true := performStore_wf h _

theorem putWords_wf {s : State} (h : Memory.wf s = true) (pa : Nat) (ws : List Word) : Memory.wf (putWords s pa ws) = true := by
  induction ws generalizing s pa with
  | nil => exact h
  | cons w ws ih => exact ih (putWord_wf h pa w) _

theorem markPoison_wf {s : State} (h : Memory.wf s = true) (pa : Nat) : Memory.wf (markPoison s pa) = true := h

theorem clearGranule_wf {s : State} (h : Memory.wf s = true) (pa : Nat) : Memory.wf (clearGranule s pa) = true := h

theorem depositWord_wf {s : State} (h : Memory.wf s = true) (pa : Nat) (w : Word) (bad : Bool) : Memory.wf (depositWord s pa w bad) = true := by
  have := setFe_wf (putWord_wf h pa w) pa true
  unfold depositWord
  dsimp only
  split
  · exact markPoison_wf this _
  · exact this

theorem depositWords_wf {s : State} (h : Memory.wf s = true) (pa : Nat) (bad : Bool) (ws : List Word) :
    Memory.wf (depositWords s pa bad ws) = true := by
  induction ws generalizing s pa with
  | nil => exact h
  | cons w ws ih => exact ih (depositWord_wf h pa w bad) _

/-- A fold of what keeps the form keeps it. -/
theorem foldl_wf {α : Type} {f : State → α → State} (hf : ∀ s a, Memory.wf s = true → Memory.wf (f s a) = true) (xs : List α) {s : State}
    (h : Memory.wf s = true) : Memory.wf (xs.foldl f s) = true := by
  induction xs generalizing s with
  | nil => exact h
  | cons x xs ih => exact ih (hf s x h)

/-! ## A byte of plain memory -/

theorem byteAt_setByte_same {s : State} (h : Memory.wf s = true) {pa : Nat} (b : BitVec 8) (hv : ∀ c o, homeOf Config.hbmBytes pa ≠ .tagView c o)
    (hf : ∀ c o, homeOf Config.hbmBytes pa ≠ .feView c o) : byteAt (setByte s pa b) pa = b := by
  rw [wf_iff] at h
  unfold byteAt setByte
  split
  · exact absurd ‹_› (hv _ _)
  · exact absurd ‹_› (hf _ _)
  · split
    · exact absurd ‹_› (hv _ _)
    · exact absurd ‹_› (hf _ _)
    · exact cellGet_cellSet_same h.1 _ _

/-! ## Hub registers -/

theorem regPlace_find_same (a : Nat) (v : Word) (rs : List (Nat × Word)) (h : ∀ c ∈ rs, c.1 ≠ a) :
    (regPlace a v rs).find? (·.1 = a) = some (a, v) := by
  induction rs with
  | nil => simp [regPlace]
  | cons c cs ih =>
    unfold regPlace
    split
    · simp
    · have := h c (by simp)
      simp [this, ih fun x hx => h x (by simp [hx])]

theorem regPlace_find_other {a b : Nat} (v : Word) (rs : List (Nat × Word)) (h : b ≠ a) :
    (regPlace a v rs).find? (·.1 = b) = rs.find? (·.1 = b) := by
  induction rs with
  | nil => simp [regPlace, h.symm]
  | cons c cs ih =>
    unfold regPlace
    split
    · simp [List.find?_cons, h.symm]
    · simp [List.find?_cons, ih]

theorem find_filter_other {a b : Nat} (rs : List (Nat × Word)) (h : b ≠ a) :
    (rs.filter (·.1 != a)).find? (·.1 = b) = rs.find? (·.1 = b) := by
  induction rs with
  | nil => rfl
  | cons c cs ih =>
    by_cases e : c.1 = a
    · have : c.1 ≠ b := fun x => h (x.symm.trans e)
      simpa [List.filter_cons, e, List.find?_cons, e ▸ this] using ih
    · simp [e, List.find?_cons, ih]

theorem find_filter_same (a : Nat) (rs : List (Nat × Word)) : (rs.filter (·.1 != a)).find? (·.1 = a) = none := by
  rw [List.find?_eq_none]
  intro c hc
  simpa using (List.mem_filter.mp hc).2

/-- A register reads what was put there. -/
@[simp] theorem hubGet_hubPut_same (s : State) (a : Nat) (v : Word) : hubGet (hubPut s a v) a = v := by
  unfold hubGet hubPut regLookup regInsert
  dsimp only
  split
  · rw [find_filter_same]; simp [*]
  · rw [regPlace_find_same a v _ fun c hc => by simpa using (List.mem_filter.mp hc).2]; rfl

/-- Every other register is as before. -/
theorem hubGet_hubPut_other (s : State) {a b : Nat} (v : Word) (h : b ≠ a) : hubGet (hubPut s a v) b = hubGet s b := by
  unfold hubGet hubPut regLookup regInsert
  dsimp only
  split
  · rw [find_filter_other _ h]
  · rw [regPlace_find_other v _ h, find_filter_other _ h]

end Sys2Proof.Machine
end

