-- ==== Sys2Proof/Laws/Ops.lean ====
section
/-! SUPPORT. What each shared operation can do, once: the agenda, how an instruction ends, traps, fills and packets. -/

namespace Sys2Proof.Machine

/-! ## The agenda -/

theorem State.mem_at (s : State) (t : Nat) (a : Act) : (t, a) ∈ (s.at t a).agenda := by simp

/-- What stands on the agenda stays when an act is added. -/
theorem State.at_keeps {s : State} {e : Nat × Act} (t : Nat) (a : Act) (h : e ∈ s.agenda) : e ∈ (s.at t a).agenda := by simp [h]

theorem State.mem_atOnce (s : State) (t : Nat) (a : Act) : (t, a) ∈ (s.atOnce t a).agenda := by
  unfold State.atOnce
  split
  · rename_i h
    obtain ⟨e, he, h⟩ := List.any_eq_true.mp h
    simp only [Bool.and_eq_true, decide_eq_true_eq] at h
    exact (Prod.ext h.1 h.2 : e = (t, a)) ▸ he
  · simp

theorem State.atOnce_keeps {s : State} {e : Nat × Act} (t : Nat) (a : Act) (h : e ∈ s.agenda) : e ∈ (s.atOnce t a).agenda := by
  unfold State.atOnce
  split <;> simp [h]

/-- An act at a free time stands in a later cycle. -/
theorem State.mem_later (s : State) (b : Option Nat) (a : Act) : ∃ n, s.now < n ∧ (n, a) ∈ (s.later b a).agenda := by
  unfold State.later
  exact ⟨_, Nat.lt_of_lt_of_le (Nat.lt_succ_self s.now) (Nat.le_add_right (s.now + 1) _), List.mem_append_right _ (List.mem_singleton.mpr rfl)⟩

/-- A bound on the free time holds whatever value it takes. -/
theorem State.mem_later_within (s : State) {b : Nat} (hb : 0 < b) (a : Act) :
    ∃ n, s.now < n ∧ n ≤ s.now + b ∧ (n, a) ∈ (s.later (some b) a).agenda := by
  have := Nat.mod_lt (Config.freeDelay s.fresh) hb
  refine ⟨s.now + 1 + Config.freeDelay s.fresh % b, by omega, by omega, ?_⟩
  simp [State.later]

theorem State.later_keeps {s : State} {e : Nat × Act} (b : Option Nat) (a : Act) (h : e ∈ s.agenda) : e ∈ (s.later b a).agenda := by
  simp [State.later, h]

/-! ## How an instruction ends -/

@[simp] theorem finish_ok (s t : State) : finish s (.ok t) = .next t := rfl
@[simp] theorem finish_error (s : State) (e : Stop) : finish s (.error e) = .next (stopped s e) := rfl

/-- What finishes always answers a next state. -/
theorem finish_next (s : State) (r : Res State) : ∃ t, finish s r = .next t := by cases r <;> exact ⟨_, rfl⟩

@[simp] theorem check_true (cause : BitVec 8) (extra : Nat) : check true cause extra = .ok () := rfl
@[simp] theorem check_false (cause : BitVec 8) (extra : Nat) : check false cause extra = .error (.freeze cause (word extra) 0) := rfl

/-- Reserved codes are found in the order of their fields. -/
theorem checkCodes_ok {cs : List (Nat × Opd)} : checkCodes cs = .ok () ↔ ∀ c ∈ cs, legalCode c.2 = true := by
  induction cs with
  | nil => simp [checkCodes]
  | cons c cs ih =>
    obtain ⟨f, c⟩ := c
    by_cases h : legalCode c <;> simp [checkCodes, h, ih, freezeWith]

/-! ## Traps (R268, R333) -/

@[simp] theorem takeTrap_tepc (x : Strand) (pc : Addr) (c v : Word) : (takeTrap x pc c v).tepc = pc.zeroExtend 64 := rfl
@[simp] theorem takeTrap_tcause (x : Strand) (pc : Addr) (c v : Word) : (takeTrap x pc c v).tcause = c := rfl
@[simp] theorem takeTrap_tval (x : Strand) (pc : Addr) (c v : Word) : (takeTrap x pc c v).tval = v := rfl
@[simp] theorem takeTrap_pc (x : Strand) (pc : Addr) (c v : Word) : (takeTrap x pc c v).pc = pcOf x.tvec := rfl
@[simp] theorem takeTrap_run (x : Strand) (pc : Addr) (c v : Word) : (takeTrap x pc c v).run = x.run := rfl
@[simp] theorem takeTrap_taken (x : Strand) (pc : Addr) (c v : Word) : (takeTrap x pc c v).taken = true := rfl
@[simp] theorem takeTrap_reg (x : Strand) (pc : Addr) (c v : Word) (l : Loc) : (takeTrap x pc c v).reg l = x.reg l := by cases l <;> rfl

/-- The bits of MODE after a trap: K set, IE clear, and both as they were in PK and PIE. -/
theorem takeTrap_mode (x : Strand) (pc : Addr) (c v : Word) :
    ((takeTrap x pc c v).mode.getLsbD 0 = true ∧ (takeTrap x pc c v).mode.getLsbD 1 = x.mode.getLsbD 0) ∧
      ((takeTrap x pc c v).mode.getLsbD 2 = false ∧ (takeTrap x pc c v).mode.getLsbD 3 = x.mode.getLsbD 2) := by
  unfold takeTrap
  dsimp only
  cases x.mode.getLsbD 2 <;> cases x.mode.getLsbD 0 <;> decide

@[simp] theorem returnFromTrap_pc (x : Strand) : (returnFromTrap x).pc = pcOf x.tepc := rfl
@[simp] theorem returnFromTrap_reg (x : Strand) (l : Loc) : (returnFromTrap x).reg l = x.reg l := by cases l <;> rfl

/-! ## The issuing strand -/

@[simp] theorem retire_pc (s : State) : (retire s).st.pc = s.st.pc + 4 := by
  show ((s.modStrand s.cur Strand.next).strand s.cur).pc = _
  rw [State.modStrand_strand_same]; rfl

theorem retire_other (s : State) {j : Fin 16} (h : j ≠ s.cur) : (retire s).strand j = s.strand j := State.modStrand_strand_other _ _ h

@[simp] theorem retire_reg (s : State) (l : Loc) : (retire s).st.reg l = s.st.reg l := by
  show ((s.modStrand s.cur Strand.next).strand s.cur).reg l = _
  rw [State.modStrand_strand_same]; cases l <;> rfl

/-! ## Fault packets (R471) -/

/-- A packet joins the path while it holds fewer than 32. -/
theorem sendPacket_joins {s : State} (p : Packet) (h : s.clu.path.length < 32) :
    sendPacket s p = (s.withClu fun c => { c with path := joinPath p c.path }).atOnce (s.now + 1) .faultPacketDeposit := by simp [sendPacket, h]

theorem ringAppend_wf {s : State} (h : Memory.wf s = true) (a : Nat) (ws : List Word) : Memory.wf (ringAppend s a ws).1 = true := by
  unfold ringAppend
  dsimp only
  split
  · exact wf_congr (foldl_wf (fun t i ht => putWords_wf ht _ _) _ h) rfl rfl rfl
  · exact h

theorem errRecord_wf {s : State} (h : Memory.wf s = true) (c u d e : Nat) (w : Word) (f p : Nat) (ws : List Word) :
    Memory.wf (errRecord s c u d e w f p ws) = true := ringAppend_wf h _ _

theorem setFstat_wf {s : State} (h : Memory.wf s = true) (f b : Nat) : Memory.wf (setFstat s f b) = true := by
  unfold setFstat
  dsimp only
  split <;> exact h

theorem sendPacket_wf {s : State} (h : Memory.wf s = true) (p : Packet) : Memory.wf (sendPacket s p) = true := by
  unfold sendPacket
  split
  · unfold State.atOnce; split <;> exact h
  · exact setFstat_wf (errRecord_wf h _ _ _ _ _ _ _ _) _ _

theorem freeze_wf {s : State} (h : Memory.wf s = true) (k : Fin 16) (c : BitVec 8) (d : Bool) (pc : Addr) (v e : Word) (i : BitVec 32) :
    Memory.wf (freeze s k c d pc v e i) = true := by
  have : ∀ x : Strand, Memory.wf (s.setStrand k x) = true := fun _ => h
  exact sendPacket_wf (this _) _

/-! ## Reads and ends of instructions keep the planes -/

theorem firstRead_mem (s : State) (k : Fin 16) (l : Loc) :
    (firstRead s k l).mem = s.mem ∧ (firstRead s k l).tags = s.tags ∧ (firstRead s k l).fe = s.fe := by
  unfold firstRead
  dsimp only
  split <;> exact ⟨rfl, rfl, rfl⟩

/-- Reading a source changes no plane. -/
theorem readSrc_mem {s t : State} {c : Opd} {trap : Bool} {r : Reg} (h : readSrc s c trap = .ok (r, t)) :
    t.mem = s.mem ∧ t.tags = s.tags ∧ t.fe = s.fe := by
  unfold readSrc at h
  dsimp only at h
  split at h
  · split at h
    · split at h
      · injection h with h; injection h with _ h; subst h; exact ⟨rfl, rfl, rfl⟩
      · split at h <;> exact nomatch h
    · split at h <;> exact nomatch h
  · split at h
    · rename_i l _
      split at h
      · cases hg : holdGate s (s.st.reg l) with
        | error e => rw [hg] at h; exact nomatch h
        | ok u => rw [hg] at h; injection h with h; injection h with _ h; subst h; exact firstRead_mem _ _ _
      · split at h <;> exact nomatch h
    · injection h with h; injection h with _ h; subst h; exact ⟨rfl, rfl, rfl⟩

theorem putDest_mem {s t : State} {d : Opd} {r : Reg} (h : putDest s d r = .ok t) : t.mem = s.mem ∧ t.tags = s.tags ∧ t.fe = s.fe := by
  unfold putDest at h
  repeat' split at h
  · cases h; exact ⟨rfl, rfl, rfl⟩
  · cases h
  · rename_i l _
    cases hf : destFree (s.st.reg l) d.toNat with
    | error e => rw [hf] at h; cases h
    | ok u =>
      rw [hf] at h
      cases h
      unfold dropHandle
      split <;> exact ⟨rfl, rfl, rfl⟩
  · cases h; exact ⟨rfl, rfl, rfl⟩

/-- Writing a result changes no plane. -/
theorem writeDest_mem {s t : State} {d : Opd} {r : Reg} (h : writeDest s d r = .ok t) : t.mem = s.mem ∧ t.tags = s.tags ∧ t.fe = s.fe := by
  unfold writeDest at h
  cases hp : putDest s d r with
  | error e => rw [hp] at h; cases h
  | ok u =>
    rw [hp] at h
    injection h with h
    subst h
    exact (putDest_mem hp :)

theorem stopped_wf {s : State} (h : Memory.wf s = true) (e : Stop) : Memory.wf (stopped s e) = true := by
  cases e with
  | freeze c x v => exact freeze_wf h _ _ _ _ _ _ _
  | handles cs =>
    refine wf_congr (s := cs.foldl _ s) ?_ rfl rfl rfl
    refine foldl_wf (fun t c ht => ?_) cs h
    split
    · have m := firstRead_mem t t.cur ‹_›
      exact wf_congr ht m.1 m.2.1 m.2.2
    · exact ht
  | _ => exact wf_congr h rfl rfl rfl

/-- An instruction keeps the planes' form when its completed result does. -/
theorem finish_wf {s t : State} {r : Res State} (h : Memory.wf s = true) (hr : ∀ u, r = .ok u → Memory.wf u = true) (ht : finish s r = .next t) :
    Memory.wf t = true := by
  cases r with
  | ok u => injection ht with e; exact e ▸ hr u rfl
  | error e => injection ht with e'; exact e' ▸ stopped_wf h e

end Sys2Proof.Machine
end

