-- ==== Sys2Proof/Laws/Frames.lean ====
section
/-! SUPPORT. What reading a source, writing a result and moving the PC on leave alone, in the words the statements use. -/

namespace Sys2Proof.Claims

open Sys2Proof.Machine

theorem SameMemory.refl (s : State) : SameMemory s s := fun _ => ⟨rfl, rfl, rfl, rfl⟩

theorem SameMemory.trans {s t u : State} (h : SameMemory s t) (g : SameMemory t u) : SameMemory s u := fun pa =>
  ⟨(g pa).1.trans (h pa).1, (g pa).2.1.trans (h pa).2.1, (g pa).2.2.1.trans (h pa).2.2.1, (g pa).2.2.2.trans (h pa).2.2.2⟩

/-- Memory is read through its four planes alone. -/
theorem sameMemory_of {s t : State} (hm : t.mem = s.mem) (ht : t.tags = s.tags) (hf : t.fe = s.fe) (hp : t.poison = s.poison) :
    SameMemory s t := by
  intro pa
  simp [byteAt, tagByteAt, feAt, feByte, poisoned, hm, ht, hf, hp]

theorem SameContent.refl (a : Reg) : SameContent a a := ⟨rfl, rfl, rfl⟩

theorem SameContent.trans {a b c : Reg} (h : SameContent a b) (g : SameContent b c) : SameContent a c :=
  ⟨g.1.trans h.1, g.2.1.trans h.2.1, g.2.2.trans h.2.2⟩

theorem SameAround.refl (s : State) : SameAround s s :=
  ⟨rfl, rfl, fun _ _ => rfl, rfl, rfl, rfl, rfl, rfl, rfl, rfl, rfl, rfl, rfl, rfl⟩

theorem SameAround.trans {s t u : State} (h : SameAround s t) (g : SameAround t u) : SameAround s u := by
  obtain ⟨a1, a2, a3, a4, a5, a6, a7, a8, a9, b1, b2, b3, b4, b5⟩ := h
  obtain ⟨c1, c2, c3, c4, c5, c6, c7, c8, c9, d1, d2, d3, d4, d5⟩ := g
  exact ⟨c1.trans a1, c2.trans a2, fun k hk => (c3 k (a1 ▸ hk)).trans (a3 k hk), c4.trans a4, c5.trans a5, c6.trans a6, c7.trans a7,
    c8.trans a8, c9.trans a9, d1.trans b1, d2.trans b2, d3.trans b3, d4.trans b4, d5.trans b5⟩

theorem ScalarFrame.refl (s : State) (w : Loc → Prop) (cs : List Opd) : ScalarFrame s s w cs :=
  ⟨SameMemory.refl s, SameAround.refl s, rfl, rfl, rfl, fun _ _ => SameContent.refl _, fun _ _ => rfl⟩

/-- Frames of two operations in turn. -/
theorem ScalarFrame.trans {s t u : State} {w w' : Loc → Prop} {cs cs' : List Opd} (h : ScalarFrame s t w cs) (g : ScalarFrame t u w' cs') :
    ScalarFrame s u (fun l => w l ∨ w' l) (cs ++ cs') := by
  obtain ⟨h1, h2, h3, h4, h5, h6, h7⟩ := h
  obtain ⟨g1, g2, g3, g4, g5, g6, g7⟩ := g
  refine ⟨h1.trans g1, h2.trans g2, g3.trans h3, g4.trans h4, g5.trans h5, fun l hl => ?_, fun q hq => ?_⟩
  · exact (h6 l fun x => hl (.inl x)).trans (g6 l fun x => hl (.inr x))
  · exact (g7 q fun c hc => hq c (List.mem_append_right _ hc)).trans (h7 q fun c hc => hq c (List.mem_append_left _ hc))

/-- A frame holds with more registers and more codes. -/
theorem ScalarFrame.mono {s t : State} {w w' : Loc → Prop} {cs cs' : List Opd} (h : ScalarFrame s t w cs) (hw : ∀ l, w l → w' l)
    (hc : ∀ c ∈ cs, c ∈ cs') : ScalarFrame s t w' cs' := by
  obtain ⟨h1, h2, h3, h4, h5, h6, h7⟩ := h
  exact ⟨h1, h2, h3, h4, h5, fun l hl => h6 l fun x => hl (hw l x), fun q hq => h7 q fun c hc' => hq c (hc c hc')⟩

theorem setReg_reg (x : Strand) (l l' : Loc) (r : Reg) : (x.setReg l r).reg l' = if l' = l then r else x.reg l' := by
  cases l <;> cases l' <;> simp [Strand.setReg, Strand.reg, Vector.getElem_set, Fin.ext_iff, eq_comm]

theorem specials_setReg (x : Strand) (l : Loc) (r : Reg) : specials (x.setReg l r) = specials x := by cases l <;> rfl
theorem setReg_v (x : Strand) (l : Loc) (r : Reg) : (x.setReg l r).v = x.v := by cases l <;> rfl
theorem setReg_m (x : Strand) (l : Loc) (r : Reg) : (x.setReg l r).m = x.m := by cases l <;> rfl
theorem setReg_pc (x : Strand) (l : Loc) (r : Reg) : (x.setReg l r).pc = x.pc := by cases l <;> rfl
theorem setReg_winstate (x : Strand) (l : Loc) (r : Reg) : (x.setReg l r).winstate = x.winstate := by cases l <;> rfl

/-- A change of the issuing strand alone that keeps its special, vector and mask registers. -/
theorem mod_frame (s : State) (f : Strand → Strand) (w : Loc → Prop) (h1 : specials (f s.st) = specials s.st) (h2 : (f s.st).v = s.st.v)
    (h3 : (f s.st).m = s.st.m) (h4 : ∀ l, ¬ w l → SameContent (s.st.reg l) ((f s.st).reg l)) : ScalarFrame s (s.mod f) w [] := by
  have hs : (s.mod f).st = f s.st := State.modStrand_strand_same _ _ _
  refine ⟨sameMemory_of rfl rfl rfl rfl, ⟨rfl, rfl, fun k hk => ?_, rfl, rfl, rfl, rfl, rfl, rfl, rfl, rfl, rfl, rfl, rfl⟩, ?_, ?_, ?_, ?_, fun _ _ => rfl⟩
  · exact State.modStrand_strand_other _ _ hk
  · rw [hs]; exact h1
  · rw [hs]; exact h2
  · rw [hs]; exact h3
  · rw [hs]; exact h4

/-- The first read of a register changes the content of none (R112). -/
theorem firstRead_frame (s : State) (l : Loc) : ScalarFrame s (firstRead s s.cur l) toNone [] := by
  unfold firstRead
  dsimp only
  split
  · rename_i e hf hb
    let f : Strand → Strand := fun x => x.setReg l { (s.strand s.cur).reg l with bind := none }
    let g : Strand → Strand := fun x => { x with acq := some (joinAcquire x.acq .device true) }
    have hst : (beginAcquire ((s.modStrand s.cur f).freeEntry e) s.cur .device true).strand s.cur = g (f (s.strand s.cur)) := by
      rw [← State.modStrand_strand_same s s.cur f]
      exact State.modStrand_strand_same ((s.modStrand s.cur f).freeEntry e) s.cur g
    have hot : ∀ k, k ≠ s.cur → (beginAcquire ((s.modStrand s.cur f).freeEntry e) s.cur .device true).strand k = s.strand k := fun k hk =>
      (State.modStrand_strand_other ((s.modStrand s.cur f).freeEntry e) g hk).trans (State.modStrand_strand_other s f hk)
    refine ⟨sameMemory_of rfl rfl rfl rfl, ⟨rfl, rfl, hot, rfl, rfl, rfl, rfl, rfl, rfl, rfl, rfl, rfl, rfl, rfl⟩, ?_, ?_, ?_, fun l' _ => ?_, fun _ _ => rfl⟩
    · exact (congrArg specials hst).trans (specials_setReg _ _ _)
    · exact (congrArg Strand.v hst).trans (setReg_v _ _ _)
    · exact (congrArg Strand.m hst).trans (setReg_m _ _ _)
    · have h : (beginAcquire ((s.modStrand s.cur f).freeEntry e) s.cur .device true).st.reg l' = (f (s.strand s.cur)).reg l' :=
        (congrArg (Strand.reg · l') hst).trans (by cases l' <;> rfl)
      show SameContent _ ((beginAcquire ((s.modStrand s.cur f).freeEntry e) s.cur .device true).st.reg l')
      rw [h, setReg_reg]
      split
      · rename_i he; subst he; exact ⟨rfl, rfl, rfl⟩
      · exact SameContent.refl _
  · exact ScalarFrame.refl _ _ _

/-- Reading a source changes nothing but the queue it names (R294, R112, R83). -/
theorem readSrc_frame {s t : State} {c : Opd} {trap : Bool} {r : Reg} (h : readSrc s c trap = .ok (r, t)) : ScalarFrame s t toNone [c] := by
  unfold readSrc at h
  dsimp only at h
  split at h
  · rename_i q hq
    split at h
    · split at h
      · injection h with h; injection h with _ h; subst h
        refine ⟨sameMemory_of rfl rfl rfl rfl, SameAround.refl s, rfl, rfl, rfl, fun _ _ => SameContent.refl _, fun q' hq' => ?_⟩
        have : q ≠ q' := fun e => hq' c (List.mem_singleton.2 rfl) (e ▸ hq)
        simp [Fin.ext_iff.not.1 this]
      · split at h <;> exact nomatch h
    · split at h <;> exact nomatch h
  · split at h
    · rename_i l _
      split at h
      · cases hg : holdGate s (s.st.reg l) with
        | error e => rw [hg] at h; exact nomatch h
        | ok u =>
          rw [hg] at h; injection h with h; injection h with _ h; subst h
          exact (firstRead_frame s _).mono (fun _ h => h) fun _ h => nomatch h
      · split at h <;> exact nomatch h
    · injection h with h; injection h with _ h; subst h
      exact ScalarFrame.refl _ _ _

/-- Both sources (R294). -/
theorem read2_frame {s t : State} {a b : Opd} {ta tb : Bool} {x y : Reg} (h : read2 s a b ta tb = .ok (x, y, t)) : ScalarFrame s t toNone [a, b] := by
  unfold read2 at h
  cases ha : readSrc s a ta with
  | error e => rw [ha] at h; exact nomatch h
  | ok p =>
    rw [ha] at h
    cases hb : readSrc p.2 b tb with
    | error e => simp [bind, Except.bind, hb] at h
    | ok q =>
      simp [bind, Except.bind, hb] at h
      obtain ⟨_, _, rfl⟩ := h
      exact ((readSrc_frame ha).trans (readSrc_frame hb)).mono (fun _ h => h.elim id id) fun _ h => h

/-- Writing D changes D's register or queue and nothing else (R97, R83, R112). -/
theorem putDest_frame {s t : State} {d : Opd} {r : Reg} (h : putDest s d r = .ok t) :
    ScalarFrame s t (fun l => locOf s.st.frm d = some l) [d] ∧ t.st.frm = s.st.frm := by
  unfold putDest at h
  split at h
  · rename_i q hq
    split at h
    · injection h with h; subst h
      refine ⟨⟨sameMemory_of rfl rfl rfl rfl, SameAround.refl s, rfl, rfl, rfl, fun _ _ => SameContent.refl _, fun q' hq' => ?_⟩, rfl⟩
      have : q ≠ q' := fun e => hq' d (List.mem_singleton.2 rfl) (e ▸ hq)
      simp [Fin.ext_iff.not.1 this]
    · exact nomatch h
  · split at h
    · rename_i l hl
      cases hf : destFree (s.st.reg l) d.toNat with
      | error e => rw [hf] at h; exact nomatch h
      | ok u =>
        rw [hf] at h
        injection h with h
        subst h
        have hd : ScalarFrame s (dropHandle s (s.st.reg l)) toNone [] ∧ (dropHandle s (s.st.reg l)).st = s.st := by
          unfold dropHandle
          split
          · exact ⟨⟨sameMemory_of rfl rfl rfl rfl, ⟨rfl, rfl, fun _ _ => rfl, rfl, rfl, rfl, rfl, rfl, rfl, rfl, rfl, rfl, rfl, rfl⟩, rfl, rfl, rfl,
              fun _ _ => SameContent.refl _, fun _ _ => rfl⟩, rfl⟩
          · exact ⟨ScalarFrame.refl _ _ _, rfl⟩
        have hm := mod_frame (dropHandle s (s.st.reg l)) (·.setReg l r) (· = l) (specials_setReg _ _ _) (setReg_v _ _ _) (setReg_m _ _ _)
          fun l' hl' => by rw [setReg_reg, if_neg hl']; exact SameContent.refl _
        constructor
        · refine (hd.1.trans hm).mono (fun l' h' => ?_) fun _ h' => by simp at h'
          rcases h' with h' | h'
          · exact h'.elim
          · rw [h']; exact hl
        · have : ((dropHandle s (s.st.reg l)).mod (·.setReg l r)).st = (dropHandle s (s.st.reg l)).st.setReg l r := State.modStrand_strand_same _ _ _
          rw [this, hd.2]; unfold Strand.frm; rw [setReg_winstate]
    · injection h with h; subst h
      exact ⟨ScalarFrame.refl _ _ _, rfl⟩

/-- Writing a result changes D and lat, or D's queue, and nothing else (R96). -/
theorem writeDest_frame {s t : State} {d : Opd} {r : Reg} (h : writeDest s d r = .ok t) : ScalarFrame s t (toDest s d) [d] := by
  unfold writeDest at h
  cases hp : putDest s d r with
  | error e => rw [hp] at h; exact nomatch h
  | ok u =>
    rw [hp] at h
    injection h with h
    subst h
    have hm := mod_frame u (·.setReg .lat r) (· = .lat) rfl rfl rfl fun l' hl' => by rw [setReg_reg, if_neg hl']; exact SameContent.refl _
    exact ((putDest_frame hp).1.trans hm).mono (fun l' h' => h'.elim .inr .inl) fun _ h' => by simpa using h'

/-- Moving the PC on (R290). -/
theorem retire_frame (s : State) : ScalarFrame s (retire s) toNone [] :=
  mod_frame s _ toNone rfl rfl rfl fun l _ => by cases l <;> exact SameContent.refl _

end Sys2Proof.Claims
end

