-- ==== Sys2Proof/Laws/PerInstr.lean ====
section
/-! SUPPORT. The statements made for every constructor of Instr. Encoding: an instruction that a strand fetches has a word whose opcode field
is one the manual assigns (R296-R301), whatever its operands; an engine command or an event has no word (R301, R303). -/

namespace Sys2Proof.Laws

/-- The opcodes the manual assigns (R296-R300). -/
def assigned (op : BitVec 8) : Bool :=
  let n := op.toNat
  (1 ≤ n && n ≤ 0x12) || (0x18 ≤ n && n ≤ 0x21) || (0x24 ≤ n && n ≤ 0x26) || (0x28 ≤ n && n ≤ 0x34) || (0x38 ≤ n && n ≤ 0x43) ||
    (0x48 ≤ n && n ≤ 0x5E) || (0x60 ≤ n && n ≤ 0x7B) || (0x80 ≤ n && n ≤ 0x8E) || (0x90 ≤ n && n ≤ 0x97)

def Encoding.Statement (i : Instr) : Prop :=
  encode i = .error .command ∨ ∃ op : BitVec 8, assigned op = true ∧ ∃ w, encode i = .ok w ∧ fOp w = op

theorem Encoding.add (d a b : Opd) (ta tb : Bool) : Encoding.Statement (.add d a b ta tb) := .inr ⟨0x01, rfl, _, rfl, fOp_mkA ..⟩
theorem Encoding.sub (d a b : Opd) (ta tb : Bool) : Encoding.Statement (.sub d a b ta tb) := .inr ⟨0x02, rfl, _, rfl, fOp_mkA ..⟩
theorem Encoding.and (d a b : Opd) (ta tb : Bool) : Encoding.Statement (.and d a b ta tb) := .inr ⟨0x03, rfl, _, rfl, fOp_mkA ..⟩
theorem Encoding.or (d a b : Opd) (ta tb : Bool) : Encoding.Statement (.or d a b ta tb) := .inr ⟨0x04, rfl, _, rfl, fOp_mkA ..⟩
theorem Encoding.xor (d a b : Opd) (ta tb : Bool) : Encoding.Statement (.xor d a b ta tb) := .inr ⟨0x05, rfl, _, rfl, fOp_mkA ..⟩
theorem Encoding.sll (d a b : Opd) (ta tb : Bool) : Encoding.Statement (.sll d a b ta tb) := .inr ⟨0x06, rfl, _, rfl, fOp_mkA ..⟩
theorem Encoding.srl (d a b : Opd) (ta tb : Bool) : Encoding.Statement (.srl d a b ta tb) := .inr ⟨0x07, rfl, _, rfl, fOp_mkA ..⟩
theorem Encoding.sra (d a b : Opd) (ta tb : Bool) : Encoding.Statement (.sra d a b ta tb) := .inr ⟨0x08, rfl, _, rfl, fOp_mkA ..⟩
theorem Encoding.mul (d a b : Opd) (ta tb : Bool) : Encoding.Statement (.mul d a b ta tb) := .inr ⟨0x09, rfl, _, rfl, fOp_mkA ..⟩
theorem Encoding.mulh (d a b : Opd) (ta tb : Bool) : Encoding.Statement (.mulh d a b ta tb) := .inr ⟨0x0A, rfl, _, rfl, fOp_mkA ..⟩
theorem Encoding.mulhn (d a b : Opd) (ta tb : Bool) : Encoding.Statement (.mulhn d a b ta tb) := .inr ⟨0x0A, rfl, _, rfl, fOp_mkA ..⟩
theorem Encoding.mulhsn (d a b : Opd) (ta tb : Bool) : Encoding.Statement (.mulhsn d a b ta tb) := .inr ⟨0x0A, rfl, _, rfl, fOp_mkA ..⟩
theorem Encoding.div (d a b : Opd) (ta tb : Bool) : Encoding.Statement (.div d a b ta tb) := .inr ⟨0x0B, rfl, _, rfl, fOp_mkA ..⟩
theorem Encoding.divn (d a b : Opd) (ta tb : Bool) : Encoding.Statement (.divn d a b ta tb) := .inr ⟨0x0B, rfl, _, rfl, fOp_mkA ..⟩
theorem Encoding.rem (d a b : Opd) (ta tb : Bool) : Encoding.Statement (.rem d a b ta tb) := .inr ⟨0x0C, rfl, _, rfl, fOp_mkA ..⟩
theorem Encoding.remn (d a b : Opd) (ta tb : Bool) : Encoding.Statement (.remn d a b ta tb) := .inr ⟨0x0C, rfl, _, rfl, fOp_mkA ..⟩
theorem Encoding.min (d a b : Opd) (ta tb : Bool) : Encoding.Statement (.min d a b ta tb) := .inr ⟨0x0D, rfl, _, rfl, fOp_mkA ..⟩
theorem Encoding.max (d a b : Opd) (ta tb : Bool) : Encoding.Statement (.max d a b ta tb) := .inr ⟨0x0D, rfl, _, rfl, fOp_mkA ..⟩
theorem Encoding.minn (d a b : Opd) (ta tb : Bool) : Encoding.Statement (.minn d a b ta tb) := .inr ⟨0x0D, rfl, _, rfl, fOp_mkA ..⟩
theorem Encoding.maxn (d a b : Opd) (ta tb : Bool) : Encoding.Statement (.maxn d a b ta tb) := .inr ⟨0x0D, rfl, _, rfl, fOp_mkA ..⟩
theorem Encoding.slt (d a b : Opd) (ta tb : Bool) : Encoding.Statement (.slt d a b ta tb) := .inr ⟨0x0E, rfl, _, rfl, fOp_mkA ..⟩
theorem Encoding.sltn (d a b : Opd) (ta tb : Bool) : Encoding.Statement (.sltn d a b ta tb) := .inr ⟨0x0E, rfl, _, rfl, fOp_mkA ..⟩
theorem Encoding.seq (d a b : Opd) (ta tb : Bool) : Encoding.Statement (.seq d a b ta tb) := .inr ⟨0x0E, rfl, _, rfl, fOp_mkA ..⟩
theorem Encoding.sne (d a b : Opd) (ta tb : Bool) : Encoding.Statement (.sne d a b ta tb) := .inr ⟨0x0E, rfl, _, rfl, fOp_mkA ..⟩
theorem Encoding.clz (d a : Opd) (ta : Bool) : Encoding.Statement (.clz d a ta) := .inr ⟨0x0F, rfl, _, rfl, fOp_mkA ..⟩
theorem Encoding.ctz (d a : Opd) (ta : Bool) : Encoding.Statement (.ctz d a ta) := .inr ⟨0x0F, rfl, _, rfl, fOp_mkA ..⟩
theorem Encoding.popc (d a : Opd) (ta : Bool) : Encoding.Statement (.popc d a ta) := .inr ⟨0x0F, rfl, _, rfl, fOp_mkA ..⟩
theorem Encoding.brev (d a : Opd) (ta : Bool) : Encoding.Statement (.brev d a ta) := .inr ⟨0x0F, rfl, _, rfl, fOp_mkA ..⟩
theorem Encoding.bswap (d a : Opd) (ta : Bool) : Encoding.Statement (.bswap d a ta) := .inr ⟨0x0F, rfl, _, rfl, fOp_mkA ..⟩
theorem Encoding.sel (d a b : Opd) (ta tb : Bool) : Encoding.Statement (.sel d a b ta tb) := .inr ⟨0x10, rfl, _, rfl, fOp_mkA ..⟩
theorem Encoding.lea (d a b : Opd) (ta tb : Bool) (sh : BitVec 4) : Encoding.Statement (.lea d a b ta tb sh) := .inr ⟨0x11, rfl, _, rfl, fOp_mkA ..⟩
theorem Encoding.rol (d a b : Opd) (ta tb : Bool) : Encoding.Statement (.rol d a b ta tb) := .inr ⟨0x12, rfl, _, rfl, fOp_mkA ..⟩
theorem Encoding.ror (d a b : Opd) (ta tb : Bool) : Encoding.Statement (.ror d a b ta tb) := .inr ⟨0x12, rfl, _, rfl, fOp_mkA ..⟩
theorem Encoding.addi (d a : Opd) (ta : Bool) (imm : BitVec 11) : Encoding.Statement (.addi d a ta imm) := .inr ⟨0x18, rfl, _, rfl, fOp_mkB ..⟩
theorem Encoding.andi (d a : Opd) (ta : Bool) (imm : BitVec 11) : Encoding.Statement (.andi d a ta imm) := .inr ⟨0x19, rfl, _, rfl, fOp_mkB ..⟩
theorem Encoding.ori (d a : Opd) (ta : Bool) (imm : BitVec 11) : Encoding.Statement (.ori d a ta imm) := .inr ⟨0x1A, rfl, _, rfl, fOp_mkB ..⟩
theorem Encoding.xori (d a : Opd) (ta : Bool) (imm : BitVec 11) : Encoding.Statement (.xori d a ta imm) := .inr ⟨0x1B, rfl, _, rfl, fOp_mkB ..⟩
theorem Encoding.slli (d a : Opd) (ta : Bool) (sh : BitVec 6) : Encoding.Statement (.slli d a ta sh) := .inr ⟨0x1C, rfl, _, rfl, fOp_mkB ..⟩
theorem Encoding.srli (d a : Opd) (ta : Bool) (sh : BitVec 6) : Encoding.Statement (.srli d a ta sh) := .inr ⟨0x1D, rfl, _, rfl, fOp_mkB ..⟩
theorem Encoding.srai (d a : Opd) (ta : Bool) (sh : BitVec 6) : Encoding.Statement (.srai d a ta sh) := .inr ⟨0x1E, rfl, _, rfl, fOp_mkB ..⟩
theorem Encoding.slti (d a : Opd) (ta : Bool) (imm : BitVec 11) : Encoding.Statement (.slti d a ta imm) := .inr ⟨0x1F, rfl, _, rfl, fOp_mkB ..⟩
theorem Encoding.sltni (d a : Opd) (ta : Bool) (imm : BitVec 11) : Encoding.Statement (.sltni d a ta imm) := .inr ⟨0x20, rfl, _, rfl, fOp_mkB ..⟩
theorem Encoding.muli (d a : Opd) (ta : Bool) (imm : BitVec 11) : Encoding.Statement (.muli d a ta imm) := .inr ⟨0x21, rfl, _, rfl, fOp_mkB ..⟩
theorem Encoding.ldi (d : Opd) (imm : BitVec 18) : Encoding.Statement (.ldi d imm) := .inr ⟨0x24, rfl, _, rfl, fOp_mkL ..⟩
theorem Encoding.ldk (d : Opd) (imm : BitVec 18) : Encoding.Statement (.ldk d imm) := .inr ⟨0x25, rfl, _, rfl, fOp_mkL ..⟩
theorem Encoding.addpc (d : Opd) (imm : BitVec 18) : Encoding.Statement (.addpc d imm) := .inr ⟨0x26, rfl, _, rfl, fOp_mkL ..⟩
theorem Encoding.beq (a b : Opd) (off : BitVec 12) : Encoding.Statement (.beq a b off) := .inr ⟨0x28, rfl, _, rfl, fOp_mkC ..⟩
theorem Encoding.bne (a b : Opd) (off : BitVec 12) : Encoding.Statement (.bne a b off) := .inr ⟨0x29, rfl, _, rfl, fOp_mkC ..⟩
theorem Encoding.blt (a b : Opd) (off : BitVec 12) : Encoding.Statement (.blt a b off) := .inr ⟨0x2A, rfl, _, rfl, fOp_mkC ..⟩
theorem Encoding.bge (a b : Opd) (off : BitVec 12) : Encoding.Statement (.bge a b off) := .inr ⟨0x2B, rfl, _, rfl, fOp_mkC ..⟩
theorem Encoding.blo (a b : Opd) (off : BitVec 12) : Encoding.Statement (.blo a b off) := .inr ⟨0x2C, rfl, _, rfl, fOp_mkC ..⟩
theorem Encoding.bhs (a b : Opd) (off : BitVec 12) : Encoding.Statement (.bhs a b off) := .inr ⟨0x2D, rfl, _, rfl, fOp_mkC ..⟩
theorem Encoding.bsig (a : Opd) (thr : BitVec 6) (off : BitVec 12) : Encoding.Statement (.bsig a thr off) := .inr ⟨0x2E, rfl, _, rfl, fOp_mkC ..⟩
theorem Encoding.bemp (a : Opd) (off : BitVec 12) : Encoding.Statement (.bemp a off) := .inr ⟨0x2F, rfl, _, rfl, fOp_mkC ..⟩
theorem Encoding.jmp (off : BitVec 24) : Encoding.Statement (.jmp off) := .inr ⟨0x30, rfl, _, rfl, fOp_mkJ ..⟩
theorem Encoding.call (off : BitVec 24) : Encoding.Statement (.call off) := .inr ⟨0x31, rfl, _, rfl, fOp_mkJ ..⟩
theorem Encoding.jmpr (a : Opd) (ta : Bool) : Encoding.Statement (.jmpr a ta) := .inr ⟨0x32, rfl, _, rfl, fOp_mkA ..⟩
theorem Encoding.callr (a : Opd) (ta : Bool) : Encoding.Statement (.callr a ta) := .inr ⟨0x33, rfl, _, rfl, fOp_mkA ..⟩
theorem Encoding.ret : Encoding.Statement (.ret) := .inr ⟨0x34, rfl, _, rfl, fOp_mkA ..⟩
theorem Encoding.tret : Encoding.Statement (.tret) := .inr ⟨0x34, rfl, _, rfl, fOp_mkA ..⟩
theorem Encoding.srr (d : Opd) (reg : BitVec 12) : Encoding.Statement (.srr d reg) := .inr ⟨0x38, rfl, _, rfl, fOp_mkS ..⟩
theorem Encoding.srw (d : Opd) (reg : BitVec 12) : Encoding.Statement (.srw d reg) := .inr ⟨0x39, rfl, _, rfl, fOp_mkS ..⟩
theorem Encoding.srxSwap (d : Opd) (reg : BitVec 12) : Encoding.Statement (.srxSwap d reg) := .inr ⟨0x3A, rfl, _, rfl, fOp_mkS ..⟩
theorem Encoding.srxSet (d : Opd) (reg : BitVec 12) : Encoding.Statement (.srxSet d reg) := .inr ⟨0x3A, rfl, _, rfl, fOp_mkS ..⟩
theorem Encoding.srxClr (d : Opd) (reg : BitVec 12) : Encoding.Statement (.srxClr d reg) := .inr ⟨0x3A, rfl, _, rfl, fOp_mkS ..⟩
theorem Encoding.sys (imm : BitVec 24) : Encoding.Statement (.sys imm) := .inr ⟨0x3B, rfl, _, rfl, fOp_mkJ ..⟩
theorem Encoding.brk (imm : BitVec 24) : Encoding.Statement (.brk imm) := .inr ⟨0x3C, rfl, _, rfl, fOp_mkJ ..⟩
theorem Encoding.yield : Encoding.Statement (.yield) := .inr ⟨0x3D, rfl, _, rfl, fOp_mkA ..⟩
theorem Encoding.idle : Encoding.Statement (.idle) := .inr ⟨0x3D, rfl, _, rfl, fOp_mkA ..⟩
theorem Encoding.halt : Encoding.Statement (.halt) := .inr ⟨0x3D, rfl, _, rfl, fOp_mkA ..⟩
theorem Encoding.sigget (d a : Opd) (ta : Bool) : Encoding.Statement (.sigget d a ta) := .inr ⟨0x3E, rfl, _, rfl, fOp_mkA ..⟩
theorem Encoding.sigset (d a b : Opd) (ta tb : Bool) : Encoding.Statement (.sigset d a b ta tb) := .inr ⟨0x3E, rfl, _, rfl, fOp_mkA ..⟩
theorem Encoding.fenceAcq (sc : Scope) : Encoding.Statement (.fenceAcq sc) := .inr ⟨0x3F, rfl, _, rfl, fOp_mkA ..⟩
theorem Encoding.fenceRel (sc : Scope) : Encoding.Statement (.fenceRel sc) := .inr ⟨0x3F, rfl, _, rfl, fOp_mkA ..⟩
theorem Encoding.fenceFull (sc : Scope) : Encoding.Statement (.fenceFull sc) := .inr ⟨0x3F, rfl, _, rfl, fOp_mkA ..⟩
theorem Encoding.barw (a b : Opd) (ta tb : Bool) : Encoding.Statement (.barw a b ta tb) := .inr ⟨0x40, rfl, _, rfl, fOp_mkA ..⟩
theorem Encoding.bara (a b : Opd) (ta tb : Bool) : Encoding.Statement (.bara a b ta tb) := .inr ⟨0x40, rfl, _, rfl, fOp_mkA ..⟩
theorem Encoding.barwt (d a b : Opd) (ta tb : Bool) : Encoding.Statement (.barwt d a b ta tb) := .inr ⟨0x40, rfl, _, rfl, fOp_mkA ..⟩
theorem Encoding.getchunk (d a : Opd) (ta : Bool) : Encoding.Statement (.getchunk d a ta) := .inr ⟨0x41, rfl, _, rfl, fOp_mkA ..⟩
theorem Encoding.chunkset (d a b : Opd) (ta tb : Bool) : Encoding.Statement (.chunkset d a b ta tb) := .inr ⟨0x41, rfl, _, rfl, fOp_mkA ..⟩
theorem Encoding.movp (d a : Opd) : Encoding.Statement (.movp d a) := .inr ⟨0x42, rfl, _, rfl, fOp_mkA ..⟩
theorem Encoding.cancelh (a : Opd) : Encoding.Statement (.cancelh a) := .inr ⟨0x43, rfl, _, rfl, fOp_mkA ..⟩
theorem Encoding.ld8 (d a : Opd) (ta : Bool) (imm : BitVec 11) : Encoding.Statement (.ld8 d a ta imm) := .inr ⟨0x48, rfl, _, rfl, fOp_mkB ..⟩
theorem Encoding.ld8n (d a : Opd) (ta : Bool) (imm : BitVec 11) : Encoding.Statement (.ld8n d a ta imm) := .inr ⟨0x49, rfl, _, rfl, fOp_mkB ..⟩
theorem Encoding.ld16 (d a : Opd) (ta : Bool) (imm : BitVec 11) : Encoding.Statement (.ld16 d a ta imm) := .inr ⟨0x4A, rfl, _, rfl, fOp_mkB ..⟩
theorem Encoding.ld16n (d a : Opd) (ta : Bool) (imm : BitVec 11) : Encoding.Statement (.ld16n d a ta imm) := .inr ⟨0x4B, rfl, _, rfl, fOp_mkB ..⟩
theorem Encoding.ld32 (d a : Opd) (ta : Bool) (imm : BitVec 11) : Encoding.Statement (.ld32 d a ta imm) := .inr ⟨0x4C, rfl, _, rfl, fOp_mkB ..⟩
theorem Encoding.ld32n (d a : Opd) (ta : Bool) (imm : BitVec 11) : Encoding.Statement (.ld32n d a ta imm) := .inr ⟨0x4D, rfl, _, rfl, fOp_mkB ..⟩
theorem Encoding.ld64 (d a : Opd) (ta : Bool) (imm : BitVec 11) : Encoding.Statement (.ld64 d a ta imm) := .inr ⟨0x4E, rfl, _, rfl, fOp_mkB ..⟩
theorem Encoding.ldt (d a : Opd) (ta : Bool) (imm : BitVec 11) : Encoding.Statement (.ldt d a ta imm) := .inr ⟨0x4F, rfl, _, rfl, fOp_mkB ..⟩
theorem Encoding.st8 (d a : Opd) (ta : Bool) (imm : BitVec 11) : Encoding.Statement (.st8 d a ta imm) := .inr ⟨0x50, rfl, _, rfl, fOp_mkB ..⟩
theorem Encoding.st16 (d a : Opd) (ta : Bool) (imm : BitVec 11) : Encoding.Statement (.st16 d a ta imm) := .inr ⟨0x51, rfl, _, rfl, fOp_mkB ..⟩
theorem Encoding.st32 (d a : Opd) (ta : Bool) (imm : BitVec 11) : Encoding.Statement (.st32 d a ta imm) := .inr ⟨0x52, rfl, _, rfl, fOp_mkB ..⟩
theorem Encoding.st64 (d a : Opd) (ta : Bool) (imm : BitVec 11) : Encoding.Statement (.st64 d a ta imm) := .inr ⟨0x53, rfl, _, rfl, fOp_mkB ..⟩
theorem Encoding.stt (d a : Opd) (ta : Bool) (imm : BitVec 11) : Encoding.Statement (.stt d a ta imm) := .inr ⟨0x54, rfl, _, rfl, fOp_mkB ..⟩
theorem Encoding.ldf (d a : Opd) (ta : Bool) (imm : BitVec 11) : Encoding.Statement (.ldf d a ta imm) := .inr ⟨0x55, rfl, _, rfl, fOp_mkB ..⟩
theorem Encoding.ldw (d a : Opd) (ta : Bool) (imm : BitVec 11) : Encoding.Statement (.ldw d a ta imm) := .inr ⟨0x56, rfl, _, rfl, fOp_mkB ..⟩
theorem Encoding.stf (d a : Opd) (ta : Bool) (imm : BitVec 11) : Encoding.Statement (.stf d a ta imm) := .inr ⟨0x57, rfl, _, rfl, fOp_mkB ..⟩
theorem Encoding.stff (d a : Opd) (ta : Bool) (imm : BitVec 11) : Encoding.Statement (.stff d a ta imm) := .inr ⟨0x58, rfl, _, rfl, fOp_mkB ..⟩
theorem Encoding.clre (a : Opd) (ta : Bool) (imm : BitVec 11) : Encoding.Statement (.clre a ta imm) := .inr ⟨0x59, rfl, _, rfl, fOp_mkB ..⟩
theorem Encoding.ldaq (d a : Opd) (ta : Bool) (wide : Bool) (sc : Scope) : Encoding.Statement (.ldaq d a ta wide sc) := .inr ⟨0x5A, rfl, _, rfl, fOp_mkA ..⟩
theorem Encoding.strl (d a : Opd) (ta : Bool) (wide : Bool) (sc : Scope) : Encoding.Statement (.strl d a ta wide sc) := .inr ⟨0x5B, rfl, _, rfl, fOp_mkA ..⟩
theorem Encoding.amoAdd (d a b : Opd) (ta tb : Bool) : Encoding.Statement (.amoAdd d a b ta tb) := .inr ⟨0x5C, rfl, _, rfl, fOp_mkA ..⟩
theorem Encoding.amoAnd (d a b : Opd) (ta tb : Bool) : Encoding.Statement (.amoAnd d a b ta tb) := .inr ⟨0x5C, rfl, _, rfl, fOp_mkA ..⟩
theorem Encoding.amoOr (d a b : Opd) (ta tb : Bool) : Encoding.Statement (.amoOr d a b ta tb) := .inr ⟨0x5C, rfl, _, rfl, fOp_mkA ..⟩
theorem Encoding.amoXor (d a b : Opd) (ta tb : Bool) : Encoding.Statement (.amoXor d a b ta tb) := .inr ⟨0x5C, rfl, _, rfl, fOp_mkA ..⟩
theorem Encoding.amoMin (d a b : Opd) (ta tb : Bool) : Encoding.Statement (.amoMin d a b ta tb) := .inr ⟨0x5C, rfl, _, rfl, fOp_mkA ..⟩
theorem Encoding.amoMax (d a b : Opd) (ta tb : Bool) : Encoding.Statement (.amoMax d a b ta tb) := .inr ⟨0x5C, rfl, _, rfl, fOp_mkA ..⟩
theorem Encoding.amoMinn (d a b : Opd) (ta tb : Bool) : Encoding.Statement (.amoMinn d a b ta tb) := .inr ⟨0x5C, rfl, _, rfl, fOp_mkA ..⟩
theorem Encoding.amoMaxn (d a b : Opd) (ta tb : Bool) : Encoding.Statement (.amoMaxn d a b ta tb) := .inr ⟨0x5C, rfl, _, rfl, fOp_mkA ..⟩
theorem Encoding.amoSwap (d a b : Opd) (ta tb : Bool) : Encoding.Statement (.amoSwap d a b ta tb) := .inr ⟨0x5C, rfl, _, rfl, fOp_mkA ..⟩
theorem Encoding.amoFadd32 (d a b : Opd) (ta tb : Bool) : Encoding.Statement (.amoFadd32 d a b ta tb) := .inr ⟨0x5C, rfl, _, rfl, fOp_mkA ..⟩
theorem Encoding.amoFadd64 (d a b : Opd) (ta tb : Bool) : Encoding.Statement (.amoFadd64 d a b ta tb) := .inr ⟨0x5C, rfl, _, rfl, fOp_mkA ..⟩
theorem Encoding.cas (d a b : Opd) (ta tb : Bool) (narrow : Bool) : Encoding.Statement (.cas d a b ta tb narrow) := .inr ⟨0x5D, rfl, _, rfl, fOp_mkA ..⟩
theorem Encoding.cinv (a : Opd) : Encoding.Statement (.cinv a) := .inr ⟨0x5E, rfl, _, rfl, fOp_mkA ..⟩
theorem Encoding.cwb (a : Opd) : Encoding.Statement (.cwb a) := .inr ⟨0x5E, rfl, _, rfl, fOp_mkA ..⟩
theorem Encoding.cwbi (a : Opd) : Encoding.Statement (.cwbi a) := .inr ⟨0x5E, rfl, _, rfl, fOp_mkA ..⟩
theorem Encoding.pref (a : Opd) : Encoding.Statement (.pref a) := .inr ⟨0x5E, rfl, _, rfl, fOp_mkA ..⟩
theorem Encoding.vadd (d a b : VIdx) (m : MIdx) (t : Ty) : Encoding.Statement (.vadd d a b m t) := .inr ⟨0x60, rfl, _, rfl, fOp_mkV ..⟩
theorem Encoding.vsub (d a b : VIdx) (m : MIdx) (t : Ty) : Encoding.Statement (.vsub d a b m t) := .inr ⟨0x61, rfl, _, rfl, fOp_mkV ..⟩
theorem Encoding.vmul (d a b : VIdx) (m : MIdx) (t : Ty) : Encoding.Statement (.vmul d a b m t) := .inr ⟨0x62, rfl, _, rfl, fOp_mkV ..⟩
theorem Encoding.vfma (d a b : VIdx) (m : MIdx) (t : Ty) : Encoding.Statement (.vfma d a b m t) := .inr ⟨0x63, rfl, _, rfl, fOp_mkV ..⟩
theorem Encoding.vmin (d a b : VIdx) (m : MIdx) (t : Ty) : Encoding.Statement (.vmin d a b m t) := .inr ⟨0x64, rfl, _, rfl, fOp_mkV ..⟩
theorem Encoding.vmax (d a b : VIdx) (m : MIdx) (t : Ty) : Encoding.Statement (.vmax d a b m t) := .inr ⟨0x64, rfl, _, rfl, fOp_mkV ..⟩
theorem Encoding.vand (d a b : VIdx) (m : MIdx) (t : Ty) : Encoding.Statement (.vand d a b m t) := .inr ⟨0x65, rfl, _, rfl, fOp_mkV ..⟩
theorem Encoding.vor (d a b : VIdx) (m : MIdx) (t : Ty) : Encoding.Statement (.vor d a b m t) := .inr ⟨0x65, rfl, _, rfl, fOp_mkV ..⟩
theorem Encoding.vxor (d a b : VIdx) (m : MIdx) (t : Ty) : Encoding.Statement (.vxor d a b m t) := .inr ⟨0x65, rfl, _, rfl, fOp_mkV ..⟩
theorem Encoding.vnot (d a : VIdx) (m : MIdx) (t : Ty) : Encoding.Statement (.vnot d a m t) := .inr ⟨0x65, rfl, _, rfl, fOp_mkV ..⟩
theorem Encoding.vshl (d a b : VIdx) (m : MIdx) (t : Ty) : Encoding.Statement (.vshl d a b m t) := .inr ⟨0x66, rfl, _, rfl, fOp_mkV ..⟩
theorem Encoding.vshr (d a b : VIdx) (m : MIdx) (t : Ty) : Encoding.Statement (.vshr d a b m t) := .inr ⟨0x66, rfl, _, rfl, fOp_mkV ..⟩
theorem Encoding.vsra (d a b : VIdx) (m : MIdx) (t : Ty) : Encoding.Statement (.vsra d a b m t) := .inr ⟨0x66, rfl, _, rfl, fOp_mkV ..⟩
theorem Encoding.vcmp (k : MIdx) (a b : VIdx) (m : MIdx) (t : Ty) (c : VCond) : Encoding.Statement (.vcmp k a b m t c) := .inr ⟨0x67, rfl, _, rfl, fOp_mkV ..⟩
theorem Encoding.vsel (d a b : VIdx) (m : MIdx) (t : Ty) : Encoding.Statement (.vsel d a b m t) := .inr ⟨0x68, rfl, _, rfl, fOp_mkV ..⟩
theorem Encoding.vdiv (d a b : VIdx) (m : MIdx) (t : Ty) : Encoding.Statement (.vdiv d a b m t) := .inr ⟨0x69, rfl, _, rfl, fOp_mkV ..⟩
theorem Encoding.vsqrt (d a : VIdx) (m : MIdx) (t : Ty) : Encoding.Statement (.vsqrt d a m t) := .inr ⟨0x6A, rfl, _, rfl, fOp_mkV ..⟩
theorem Encoding.vrsq (d a : VIdx) (m : MIdx) (t : Ty) : Encoding.Statement (.vrsq d a m t) := .inr ⟨0x6A, rfl, _, rfl, fOp_mkV ..⟩
theorem Encoding.vabs (d a : VIdx) (m : MIdx) (t : Ty) : Encoding.Statement (.vabs d a m t) := .inr ⟨0x6B, rfl, _, rfl, fOp_mkV ..⟩
theorem Encoding.vneg (d a : VIdx) (m : MIdx) (t : Ty) : Encoding.Statement (.vneg d a m t) := .inr ⟨0x6B, rfl, _, rfl, fOp_mkV ..⟩
theorem Encoding.vred (op : RedOp) (a : VIdx) (s : Opd) (m : MIdx) (t : Ty) : Encoding.Statement (.vred op a s m t) := .inr ⟨0x6C, rfl, _, rfl, fOp_mkVX ..⟩
theorem Encoding.vcvt (d a : VIdx) (tgt : Ty) (m : MIdx) (t : Ty) : Encoding.Statement (.vcvt d a tgt m t) := .inr ⟨0x6D, rfl, _, rfl, fOp_mkV ..⟩
theorem Encoding.vperm (d a b : VIdx) (m : MIdx) (t : Ty) : Encoding.Statement (.vperm d a b m t) := .inr ⟨0x6E, rfl, _, rfl, fOp_mkV ..⟩
theorem Encoding.vbcast (d : VIdx) (s : Opd) (m : MIdx) (t : Ty) : Encoding.Statement (.vbcast d s m t) := .inr ⟨0x6F, rfl, _, rfl, fOp_mkVX ..⟩
theorem Encoding.vld (d : VIdx) (a b : Opd) (m : MIdx) (t : Ty) : Encoding.Statement (.vld d a b m t) := .inr ⟨0x70, rfl, _, rfl, fOp_mkVM ..⟩
theorem Encoding.vst (d : VIdx) (a b : Opd) (m : MIdx) (t : Ty) : Encoding.Statement (.vst d a b m t) := .inr ⟨0x71, rfl, _, rfl, fOp_mkVM ..⟩
theorem Encoding.vldt (d : VIdx) (a b : Opd) (m : MIdx) (t : Ty) : Encoding.Statement (.vldt d a b m t) := .inr ⟨0x72, rfl, _, rfl, fOp_mkVM ..⟩
theorem Encoding.vstt (d : VIdx) (a b : Opd) (m : MIdx) (t : Ty) : Encoding.Statement (.vstt d a b m t) := .inr ⟨0x73, rfl, _, rfl, fOp_mkVM ..⟩
theorem Encoding.vgath (d : VIdx) (a : Opd) (k : VIdx) (m : MIdx) (t : Ty) : Encoding.Statement (.vgath d a k m t) := .inr ⟨0x74, rfl, _, rfl, fOp_mkVM ..⟩
theorem Encoding.vscat (d : VIdx) (a : Opd) (k : VIdx) (m : MIdx) (t : Ty) : Encoding.Statement (.vscat d a k m t) := .inr ⟨0x75, rfl, _, rfl, fOp_mkVM ..⟩
theorem Encoding.vmovx (d : Opd) (v : VIdx) (j : Opd) (t : Ty) : Encoding.Statement (.vmovx d v j t) := .inr ⟨0x76, rfl, _, rfl, fOp_mkVM ..⟩
theorem Encoding.vins (v : VIdx) (a j : Opd) (t : Ty) : Encoding.Statement (.vins v a j t) := .inr ⟨0x77, rfl, _, rfl, fOp_mkVM ..⟩
theorem Encoding.mand (d a b : MIdx) : Encoding.Statement (.mand d a b) := .inr ⟨0x78, rfl, _, rfl, fOp_mkV ..⟩
theorem Encoding.mor (d a b : MIdx) : Encoding.Statement (.mor d a b) := .inr ⟨0x78, rfl, _, rfl, fOp_mkV ..⟩
theorem Encoding.mxor (d a b : MIdx) : Encoding.Statement (.mxor d a b) := .inr ⟨0x78, rfl, _, rfl, fOp_mkV ..⟩
theorem Encoding.mnot (d a : MIdx) : Encoding.Statement (.mnot d a) := .inr ⟨0x78, rfl, _, rfl, fOp_mkV ..⟩
theorem Encoding.mpop (s : Opd) (a : MIdx) (t : Ty) : Encoding.Statement (.mpop s a t) := .inr ⟨0x79, rfl, _, rfl, fOp_mkVX ..⟩
theorem Encoding.vsigmin (s : Opd) (a : VIdx) (m : MIdx) : Encoding.Statement (.vsigmin s a m) := .inr ⟨0x7A, rfl, _, rfl, fOp_mkVX ..⟩
theorem Encoding.vsigset (d a : VIdx) (s : Opd) (m : MIdx) : Encoding.Statement (.vsigset d a s m) := .inr ⟨0x7A, rfl, _, rfl, fOp_mkVX ..⟩
theorem Encoding.vscla (d a b : VIdx) (m : MIdx) (t : Ty) : Encoding.Statement (.vscla d a b m t) := .inr ⟨0x7B, rfl, _, rfl, fOp_mkV ..⟩
theorem Encoding.vsclab (d a b : VIdx) (m : MIdx) (t : Ty) : Encoding.Statement (.vsclab d a b m t) := .inr ⟨0x7B, rfl, _, rfl, fOp_mkV ..⟩
theorem Encoding.fadd (d a b : Opd) (ta tb : Bool) (t : Ty) : Encoding.Statement (.fadd d a b ta tb t) := .inr ⟨0x80, rfl, _, rfl, fOp_mkA ..⟩
theorem Encoding.fsub (d a b : Opd) (ta tb : Bool) (t : Ty) : Encoding.Statement (.fsub d a b ta tb t) := .inr ⟨0x81, rfl, _, rfl, fOp_mkA ..⟩
theorem Encoding.fmul (d a b : Opd) (ta tb : Bool) (t : Ty) : Encoding.Statement (.fmul d a b ta tb t) := .inr ⟨0x82, rfl, _, rfl, fOp_mkA ..⟩
theorem Encoding.fdiv (d a b : Opd) (ta tb : Bool) (t : Ty) : Encoding.Statement (.fdiv d a b ta tb t) := .inr ⟨0x83, rfl, _, rfl, fOp_mkA ..⟩
theorem Encoding.fsqrt (d a : Opd) (ta : Bool) (t : Ty) : Encoding.Statement (.fsqrt d a ta t) := .inr ⟨0x84, rfl, _, rfl, fOp_mkA ..⟩
theorem Encoding.fma (d a b : Opd) (ta tb : Bool) (t : Ty) : Encoding.Statement (.fma d a b ta tb t) := .inr ⟨0x85, rfl, _, rfl, fOp_mkA ..⟩
theorem Encoding.fms (d a b : Opd) (ta tb : Bool) (t : Ty) : Encoding.Statement (.fms d a b ta tb t) := .inr ⟨0x86, rfl, _, rfl, fOp_mkA ..⟩
theorem Encoding.fnma (d a b : Opd) (ta tb : Bool) (t : Ty) : Encoding.Statement (.fnma d a b ta tb t) := .inr ⟨0x87, rfl, _, rfl, fOp_mkA ..⟩
theorem Encoding.fmin (d a b : Opd) (t : Ty) : Encoding.Statement (.fmin d a b t) := .inr ⟨0x88, rfl, _, rfl, fOp_mkA ..⟩
theorem Encoding.fmax (d a b : Opd) (t : Ty) : Encoding.Statement (.fmax d a b t) := .inr ⟨0x88, rfl, _, rfl, fOp_mkA ..⟩
theorem Encoding.feq (d a b : Opd) (t : Ty) : Encoding.Statement (.feq d a b t) := .inr ⟨0x89, rfl, _, rfl, fOp_mkA ..⟩
theorem Encoding.flt (d a b : Opd) (t : Ty) : Encoding.Statement (.flt d a b t) := .inr ⟨0x89, rfl, _, rfl, fOp_mkA ..⟩
theorem Encoding.fle (d a b : Opd) (t : Ty) : Encoding.Statement (.fle d a b t) := .inr ⟨0x89, rfl, _, rfl, fOp_mkA ..⟩
theorem Encoding.funord (d a b : Opd) (t : Ty) : Encoding.Statement (.funord d a b t) := .inr ⟨0x89, rfl, _, rfl, fOp_mkA ..⟩
theorem Encoding.fcvt (d a : Opd) (ta : Bool) (src tgt : Ty) : Encoding.Statement (.fcvt d a ta src tgt) := .inr ⟨0x8A, rfl, _, rfl, fOp_mkA ..⟩
theorem Encoding.fclass (d a : Opd) (ta : Bool) (t : Ty) : Encoding.Statement (.fclass d a ta t) := .inr ⟨0x8B, rfl, _, rfl, fOp_mkA ..⟩
theorem Encoding.fcps (d a b : Opd) (t : Ty) : Encoding.Statement (.fcps d a b t) := .inr ⟨0x8C, rfl, _, rfl, fOp_mkA ..⟩
theorem Encoding.fneg (d a : Opd) (t : Ty) : Encoding.Statement (.fneg d a t) := .inr ⟨0x8C, rfl, _, rfl, fOp_mkA ..⟩
theorem Encoding.fabs (d a : Opd) (t : Ty) : Encoding.Statement (.fabs d a t) := .inr ⟨0x8C, rfl, _, rfl, fOp_mkA ..⟩
theorem Encoding.fscl (d a b : Opd) (ta tb : Bool) (t : Ty) : Encoding.Statement (.fscl d a b ta tb t) := .inr ⟨0x8D, rfl, _, rfl, fOp_mkA ..⟩
theorem Encoding.frnd (d a : Opd) (t : Ty) : Encoding.Statement (.frnd d a t) := .inr ⟨0x8E, rfl, _, rfl, fOp_mkA ..⟩
theorem Encoding.issueTile (d : Opd) (vc : BitVec 4) (a b : Opd) : Encoding.Statement (.issueTile d vc a b) := .inr ⟨0x90, rfl, _, rfl, fOp_mkT ..⟩
theorem Encoding.issueCopy (d : Opd) (vc : BitVec 4) (a b : Opd) : Encoding.Statement (.issueCopy d vc a b) := .inr ⟨0x90, rfl, _, rfl, fOp_mkT ..⟩
theorem Encoding.issueMem (d : Opd) (vc : BitVec 4) (a b : Opd) : Encoding.Statement (.issueMem d vc a b) := .inr ⟨0x90, rfl, _, rfl, fOp_mkT ..⟩
theorem Encoding.issueXchg (d : Opd) (vc : BitVec 4) (a b : Opd) : Encoding.Statement (.issueXchg d vc a b) := .inr ⟨0x90, rfl, _, rfl, fOp_mkT ..⟩
theorem Encoding.send (a b : Opd) (ta tb : Bool) (n : BitVec 4) : Encoding.Statement (.send a b ta tb n) := .inr ⟨0x91, rfl, _, rfl, fOp_mkA ..⟩
theorem Encoding.creq (d : Opd) (vc : BitVec 4) (a b : Opd) : Encoding.Statement (.creq d vc a b) := .inr ⟨0x92, rfl, _, rfl, fOp_mkT ..⟩
theorem Encoding.crel (d a : Opd) (ta : Bool) : Encoding.Statement (.crel d a ta) := .inr ⟨0x93, rfl, _, rfl, fOp_mkA ..⟩
theorem Encoding.dpostDem (d a : Opd) (ta : Bool) : Encoding.Statement (.dpostDem d a ta) := .inr ⟨0x94, rfl, _, rfl, fOp_mkA ..⟩
theorem Encoding.dpostCap (d a : Opd) (ta : Bool) : Encoding.Statement (.dpostCap d a ta) := .inr ⟨0x94, rfl, _, rfl, fOp_mkA ..⟩
theorem Encoding.mboxQueue (a b : Opd) (ta tb : Bool) (int act : Bool) : Encoding.Statement (.mboxQueue a b ta tb int act) := .inr ⟨0x95, rfl, _, rfl, fOp_mkA ..⟩
theorem Encoding.mboxLatest (a b : Opd) (ta tb : Bool) (int act : Bool) : Encoding.Statement (.mboxLatest a b ta tb int act) := .inr ⟨0x95, rfl, _, rfl, fOp_mkA ..⟩
theorem Encoding.mboxClose (a : Opd) (ta : Bool) : Encoding.Statement (.mboxClose a ta) := .inr ⟨0x95, rfl, _, rfl, fOp_mkA ..⟩
theorem Encoding.launch (d a b : Opd) (ta tb : Bool) : Encoding.Statement (.launch d a b ta tb) := .inr ⟨0x96, rfl, _, rfl, fOp_mkA ..⟩
theorem Encoding.fcinc (a b : Opd) : Encoding.Statement (.fcinc a b) := .inr ⟨0x97, rfl, _, rfl, fOp_mkA ..⟩
theorem Encoding.fcwait (a b : Opd) : Encoding.Statement (.fcwait a b) := .inr ⟨0x97, rfl, _, rfl, fOp_mkA ..⟩
theorem Encoding.fcincn (vec : BitVec 6) (a b : Opd) : Encoding.Statement (.fcincn vec a b) := .inr ⟨0x97, rfl, _, rfl, fOp_mkA ..⟩
theorem Encoding.tld (c : EngCmd) : Encoding.Statement (.tld c) := .inl rfl
theorem Encoding.tst (c : EngCmd) : Encoding.Statement (.tst c) := .inl rfl
theorem Encoding.tzero (c : EngCmd) : Encoding.Statement (.tzero c) := .inl rfl
theorem Encoding.tmma (c : EngCmd) : Encoding.Statement (.tmma c) := .inl rfl
theorem Encoding.tscal (c : EngCmd) : Encoding.Statement (.tscal c) := .inl rfl
theorem Encoding.tcvt (c : EngCmd) : Encoding.Statement (.tcvt c) := .inl rfl
theorem Encoding.ttrn (c : EngCmd) : Encoding.Statement (.ttrn c) := .inl rfl
theorem Encoding.tadd (c : EngCmd) : Encoding.Statement (.tadd c) := .inl rfl
theorem Encoding.tsig (c : EngCmd) : Encoding.Statement (.tsig c) := .inl rfl
theorem Encoding.gacc (c : EngCmd) : Encoding.Statement (.gacc c) := .inl rfl
theorem Encoding.gsub (c : EngCmd) : Encoding.Statement (.gsub c) := .inl rfl
theorem Encoding.gschur (c : EngCmd) : Encoding.Statement (.gschur c) := .inl rfl
theorem Encoding.gdamp (c : EngCmd) : Encoding.Statement (.gdamp c) := .inl rfl
theorem Encoding.gmean (c : EngCmd) : Encoding.Statement (.gmean c) := .inl rfl
theorem Encoding.cpy (c : EngCmd) : Encoding.Statement (.cpy c) := .inl rfl
theorem Encoding.cpys (c : EngCmd) : Encoding.Statement (.cpys c) := .inl rfl
theorem Encoding.cpyz (c : EngCmd) : Encoding.Statement (.cpyz c) := .inl rfl
theorem Encoding.cred (c : EngCmd) : Encoding.Statement (.cred c) := .inl rfl
theorem Encoding.scrub (c : EngCmd) : Encoding.Statement (.scrub c) := .inl rfl
theorem Encoding.scan (c : EngCmd) : Encoding.Statement (.scan c) := .inl rfl
theorem Encoding.xrun (c : EngCmd) : Encoding.Statement (.xrun c) := .inl rfl
theorem Encoding.circOpen (r : CircReq) : Encoding.Statement (.circOpen r) := .inl rfl
theorem Encoding.circWiden (r : CircReq) : Encoding.Statement (.circWiden r) := .inl rfl
theorem Encoding.circNarrow (r : CircReq) : Encoding.Statement (.circNarrow r) := .inl rfl
theorem Encoding.circRelease (r : CircReq) : Encoding.Statement (.circRelease r) := .inl rfl
theorem Encoding.badgerRequestArrive (r : CircReq) : Encoding.Statement (.badgerRequestArrive r) := .inl rfl
theorem Encoding.sendBufferEmpty (ep : Fin 32) (r : CircReq) : Encoding.Statement (.sendBufferEmpty ep r) := .inl rfl
theorem Encoding.completion (h : Fin 128) (st : Completion) : Encoding.Statement (.completion h st) := .inl rfl
theorem Encoding.tileFrontEndAccept : Encoding.Statement (.tileFrontEndAccept) := .inl rfl
theorem Encoding.switchSlot (agent : AgentId) : Encoding.Statement (.switchSlot agent) := .inl rfl
theorem Encoding.messageStart (ep : Fin 32) : Encoding.Statement (.messageStart ep) := .inl rfl
theorem Encoding.flitReceive (f : Flit) : Encoding.Statement (.flitReceive f) := .inl rfl
theorem Encoding.windowReturnSend (ep : Fin 64) : Encoding.Statement (.windowReturnSend ep) := .inl rfl
theorem Encoding.windowReturnArrive (ep : Fin 32) (recv : Nat) (count : BitVec 16) : Encoding.Statement (.windowReturnArrive ep recv count) := .inl rfl
theorem Encoding.configStageEntries (w : Nat) (recs : List CfgRec) : Encoding.Statement (.configStageEntries w recs) := .inl rfl
theorem Encoding.configReadback (agent : AgentId) (port : Nat) : Encoding.Statement (.configReadback agent port) := .inl rfl
theorem Encoding.configStageDepth (agent : AgentId) (port : Nat) (w : Nat) (sdepth : BitVec 7) : Encoding.Statement (.configStageDepth agent port w sdepth) := .inl rfl
theorem Encoding.configReply (agent : AgentId) (port : Nat) (depth : Nat) (measd : BitVec 8) : Encoding.Statement (.configReply agent port depth measd) := .inl rfl
theorem Encoding.mgmtFlitRelay (agent : AgentId) (port : Nat) (f : Flit) : Encoding.Statement (.mgmtFlitRelay agent port f) := .inl rfl
theorem Encoding.stagedCommit (agent : AgentId) : Encoding.Statement (.stagedCommit agent) := .inl rfl
theorem Encoding.circuitBreak (src : BitVec 32) (reason : Nat) : Encoding.Statement (.circuitBreak src reason) := .inl rfl
theorem Encoding.linkRetrainRequest (l : Fin 352) : Encoding.Statement (.linkRetrainRequest l) := .inl rfl
theorem Encoding.linkTrained (l : Fin 352) (d : LinkDelays) : Encoding.Statement (.linkTrained l d) := .inl rfl
theorem Encoding.linkSignalLoss (l : Fin 352) : Encoding.Statement (.linkSignalLoss l) := .inl rfl
theorem Encoding.linkTrainTimeout (l : Fin 352) : Encoding.Statement (.linkTrainTimeout l) := .inl rfl
theorem Encoding.linkRetry (l : Fin 352) : Encoding.Statement (.linkRetry l) := .inl rfl
theorem Encoding.interpkgFlitArrive (port : Fin 16) (f : Flit) (w : Nat) : Encoding.Statement (.interpkgFlitArrive port f w) := .inl rfl
theorem Encoding.timeSyncExchange (port : Fin 16) (sync request : Stamps) : Encoding.Statement (.timeSyncExchange port sync request) := .inl rfl
theorem Encoding.portLockLoss (port : Fin 16) : Encoding.Statement (.portLockLoss port) := .inl rfl
theorem Encoding.planeRelay (plane : Fin 16) (pkg : Fin 64) (f : Flit) (w : Nat) : Encoding.Statement (.planeRelay plane pkg f w) := .inl rfl
theorem Encoding.planeControlFlit (plane : Fin 16) (pkg : Fin 64) (perms : List PlanePerm) : Encoding.Statement (.planeControlFlit plane pkg perms) := .inl rfl
theorem Encoding.wheelBudgetRestart : Encoding.Statement (.wheelBudgetRestart) := .inl rfl
theorem Encoding.gangStart (g : Gang) : Encoding.Statement (.gangStart g) := .inl rfl
theorem Encoding.cellEnd : Encoding.Statement (.cellEnd) := .inl rfl
theorem Encoding.activeMessageClaim (ep : Fin 64) : Encoding.Statement (.activeMessageClaim ep) := .inl rfl
theorem Encoding.loopUnitService : Encoding.Statement (.loopUnitService) := .inl rfl
theorem Encoding.loopRegWrite (reg : BitVec 12) (v : Word) : Encoding.Statement (.loopRegWrite reg v) := .inl rfl
theorem Encoding.intDivideFill (k : Fin 16) (ticket : Nat) (v : Word) : Encoding.Statement (.intDivideFill k ticket v) := .inl rfl
theorem Encoding.fpDivideFill (k : Fin 16) (ticket : Nat) (r : DivResult) : Encoding.Statement (.fpDivideFill k ticket r) := .inl rfl
theorem Encoding.timerExpiry (k : Fin 16) : Encoding.Statement (.timerExpiry k) := .inl rfl
theorem Encoding.interruptEntry (k : Fin 16) : Encoding.Statement (.interruptEntry k) := .inl rfl
theorem Encoding.windowSpill (k : Fin 16) : Encoding.Statement (.windowSpill k) := .inl rfl
theorem Encoding.windowFill (k : Fin 16) : Encoding.Statement (.windowFill k) := .inl rfl
theorem Encoding.remoteRequestArrive (q : RemoteReq) : Encoding.Statement (.remoteRequestArrive q) := .inl rfl
theorem Encoding.remoteReplyArrive (ticket : Nat) : Encoding.Statement (.remoteReplyArrive ticket) := .inl rfl
theorem Encoding.gatewaySend (gw : AgentId) : Encoding.Statement (.gatewaySend gw) := .inl rfl
theorem Encoding.scratchpadBankAccess (bank : Fin 64) : Encoding.Statement (.scratchpadBankAccess bank) := .inl rfl
theorem Encoding.dieSramBankAccess (bank : Fin 64) : Encoding.Statement (.dieSramBankAccess bank) := .inl rfl
theorem Encoding.atomicEngineServe : Encoding.Statement (.atomicEngineServe) := .inl rfl
theorem Encoding.mailboxQueueDeposit (ep : Fin 64) : Encoding.Statement (.mailboxQueueDeposit ep) := .inl rfl
theorem Encoding.mailboxLatestDeposit (ep : Fin 64) : Encoding.Statement (.mailboxLatestDeposit ep) := .inl rfl
theorem Encoding.mboxArmEffect (ep : Fin 64) : Encoding.Statement (.mboxArmEffect ep) := .inl rfl
theorem Encoding.cacheLineFill (line : Nat) : Encoding.Statement (.cacheLineFill line) := .inl rfl
theorem Encoding.storeLeave (k : Fin 16) : Encoding.Statement (.storeLeave k) := .inl rfl
theorem Encoding.dbbEntryAck (bank : Fin 16) : Encoding.Statement (.dbbEntryAck bank) := .inl rfl
theorem Encoding.acquireComplete (k : Fin 16) : Encoding.Statement (.acquireComplete k) := .inl rfl
theorem Encoding.releaseComplete (k : Fin 16) : Encoding.Statement (.releaseComplete k) := .inl rfl
theorem Encoding.tlbWalkStart (vpn : Nat) (k : Fin 16) : Encoding.Statement (.tlbWalkStart vpn k) := .inl rfl
theorem Encoding.walkComplete (vpn : Nat) : Encoding.Statement (.walkComplete vpn) := .inl rfl
theorem Encoding.tlbinvWrite (k : Fin 16) (v : Word) : Encoding.Statement (.tlbinvWrite k v) := .inl rfl
theorem Encoding.tlbinvDone (k : Fin 16) : Encoding.Statement (.tlbinvDone k) := .inl rfl
theorem Encoding.hbmServiceUnit (p : Fin 512) : Encoding.Statement (.hbmServiceUnit p) := .inl rfl
theorem Encoding.scrubWriteback (p : Fin 512) (granule : Nat) : Encoding.Statement (.scrubWriteback p granule) := .inl rfl
theorem Encoding.budgetCommit (p : Fin 512) : Encoding.Statement (.budgetCommit p) := .inl rfl
theorem Encoding.refreshTick (p : Fin 512) : Encoding.Statement (.refreshTick p) := .inl rfl
theorem Encoding.refreshEnd (p : Fin 512) (bank : Fin 16) : Encoding.Statement (.refreshEnd p bank) := .inl rfl
theorem Encoding.selfRefreshEntry (p : Fin 512) : Encoding.Statement (.selfRefreshEntry p) := .inl rfl
theorem Encoding.selfRefreshExit (p : Fin 512) : Encoding.Statement (.selfRefreshExit p) := .inl rfl
theorem Encoding.laneRepair (c : Fin 256) (lane : BitVec 8) : Encoding.Statement (.laneRepair c lane) := .inl rfl
theorem Encoding.laneTrainingEnd (c : Fin 256) : Encoding.Statement (.laneTrainingEnd c) := .inl rfl
theorem Encoding.postArrive (p : Post) : Encoding.Statement (.postArrive p) := .inl rfl
theorem Encoding.roundClose (round : BitVec 16) : Encoding.Statement (.roundClose round) := .inl rfl
theorem Encoding.owlCalendar (round : BitVec 16) (rows : List OwlRow) : Encoding.Statement (.owlCalendar round rows) := .inl rfl
theorem Encoding.calendarArrive (c : Calendar) : Encoding.Statement (.calendarArrive c) := .inl rfl
theorem Encoding.exchangePhaseStart (round : BitVec 16) (phase : Nat) : Encoding.Statement (.exchangePhaseStart round phase) := .inl rfl
theorem Encoding.exchangeRecordArrive (r : XRecord) : Encoding.Statement (.exchangeRecordArrive r) := .inl rfl
theorem Encoding.secondRoundPost (round : BitVec 16) : Encoding.Statement (.secondRoundPost round) := .inl rfl
theorem Encoding.capacityPostTimeout (round : BitVec 16) : Encoding.Statement (.capacityPostTimeout round) := .inl rfl
theorem Encoding.owlHeartbeat : Encoding.Statement (.owlHeartbeat) := .inl rfl
theorem Encoding.owlFailover : Encoding.Statement (.owlFailover) := .inl rfl
theorem Encoding.calendarTimeout (round : BitVec 16) : Encoding.Statement (.calendarTimeout round) := .inl rfl
theorem Encoding.credPacketArrive (p : CredPacket) : Encoding.Statement (.credPacketArrive p) := .inl rfl
theorem Encoding.credFlush (crid : BitVec 16) (round : BitVec 8) : Encoding.Statement (.credFlush crid round) := .inl rfl
theorem Encoding.copyEngineBeat : Encoding.Statement (.copyEngineBeat) := .inl rfl
theorem Encoding.dispatchGang (part : Fin 16) (die : Fin 8) : Encoding.Statement (.dispatchGang part die) := .inl rfl
theorem Encoding.gangPinned (part : Fin 16) : Encoding.Statement (.gangPinned part) := .inl rfl
theorem Encoding.dieSteal (part : Fin 16) (die : Fin 8) : Encoding.Statement (.dieSteal part die) := .inl rfl
theorem Encoding.fenceCounterNotify (f : Fin 17) (i : Nat) : Encoding.Statement (.fenceCounterNotify f i) := .inl rfl
theorem Encoding.launchEnqueue (h : Fin 128) (q : BitVec 12) (rec : Vector Word 8) : Encoding.Statement (.launchEnqueue h q rec) := .inl rfl
theorem Encoding.enqueue (q : BitVec 12) (tail : BitVec 32) (f : Fin 17) : Encoding.Statement (.enqueue q tail f) := .inl rfl
theorem Encoding.sliceEnd (part : Fin 16) : Encoding.Statement (.sliceEnd part) := .inl rfl
theorem Encoding.forcedSwap (part : Fin 16) : Encoding.Statement (.forcedSwap part) := .inl rfl
theorem Encoding.swapStop (part : Fin 16) : Encoding.Statement (.swapStop part) := .inl rfl
theorem Encoding.saveAreaWriteback (part : Fin 16) (bad : Option SaveFault) : Encoding.Statement (.saveAreaWriteback part bad) := .inl rfl
theorem Encoding.swapResume (part : Fin 16) : Encoding.Statement (.swapResume part) := .inl rfl
theorem Encoding.powerCapWithhold (part : Fin 16) : Encoding.Statement (.powerCapWithhold part) := .inl rfl
theorem Encoding.syscfgWrite (v : Word) : Encoding.Statement (.syscfgWrite v) := .inl rfl
theorem Encoding.pwrcapWrite (v : Word) : Encoding.Statement (.pwrcapWrite v) := .inl rfl
theorem Encoding.s2invGo (f : Fin 17) : Encoding.Statement (.s2invGo f) := .inl rfl
theorem Encoding.s2invDone (f : Fin 17) : Encoding.Statement (.s2invDone f) := .inl rfl
theorem Encoding.lstageWrite (nonce : BitVec 32) : Encoding.Statement (.lstageWrite nonce) := .inl rfl
theorem Encoding.lcommitArm (cw : BitVec 56) : Encoding.Statement (.lcommitArm cw) := .inl rfl
theorem Encoding.layoutFlip : Encoding.Statement (.layoutFlip) := .inl rfl
theorem Encoding.jayReplayInput (p : Fin 16) : Encoding.Statement (.jayReplayInput p) := .inl rfl
theorem Encoding.packageReset : Encoding.Statement (.packageReset) := .inl rfl
theorem Encoding.gangBarrierArrive (b : Fin 16) (gen : BitVec 8) (count : BitVec 20) : Encoding.Statement (.gangBarrierArrive b gen count) := .inl rfl
theorem Encoding.barwtDeadline (k : Fin 16) : Encoding.Statement (.barwtDeadline k) := .inl rfl
theorem Encoding.faultPacketDeposit : Encoding.Statement (.faultPacketDeposit) := .inl rfl
theorem Encoding.dctlResume (k : Fin 16) : Encoding.Statement (.dctlResume k) := .inl rfl
theorem Encoding.dctlHalt (k : Fin 16) : Encoding.Statement (.dctlHalt k) := .inl rfl
theorem Encoding.dctlKill (k : Fin 16) : Encoding.Statement (.dctlKill k) := .inl rfl
theorem Encoding.killedGangEnd : Encoding.Statement (.killedGangEnd) := .inl rfl
theorem Encoding.gangStall : Encoding.Statement (.gangStall) := .inl rfl
theorem Encoding.gkill (v : Word) : Encoding.Statement (.gkill v) := .inl rfl
theorem Encoding.ctxRetry (part : Fin 16) : Encoding.Statement (.ctxRetry part) := .inl rfl
theorem Encoding.ctxDiscard (part : Fin 16) : Encoding.Statement (.ctxDiscard part) := .inl rfl
theorem Encoding.checkpointTake (f : Fin 17) : Encoding.Statement (.checkpointTake f) := .inl rfl
theorem Encoding.heldWriteCopy (granule : Nat) : Encoding.Statement (.heldWriteCopy granule) := .inl rfl
theorem Encoding.checkpointDrop (f : Fin 17) : Encoding.Statement (.checkpointDrop f) := .inl rfl
theorem Encoding.checkpointRollback (f : Fin 17) : Encoding.Statement (.checkpointRollback f) := .inl rfl
theorem Encoding.flrRequest (f : Fin 17) : Encoding.Statement (.flrRequest f) := .inl rfl
theorem Encoding.flrDrainEnd (f : Fin 17) : Encoding.Statement (.flrDrainEnd f) := .inl rfl
theorem Encoding.pwdogKick : Encoding.Statement (.pwdogKick) := .inl rfl
theorem Encoding.pwdogExpiry : Encoding.Statement (.pwdogExpiry) := .inl rfl
theorem Encoding.pctlHold (hold : Bool) : Encoding.Statement (.pctlHold hold) := .inl rfl
theorem Encoding.pctlClrlim : Encoding.Statement (.pctlClrlim) := .inl rfl
theorem Encoding.registerWrite (addr : Nat) (v : Word) (by_ : Writer) : Encoding.Statement (.registerWrite addr v by_) := .inl rfl
theorem Encoding.illins (w : BitVec 32) : Encoding.Statement (.illins w) := .inl rfl
theorem Encoding.fetchFault (why : FetchWhy) : Encoding.Statement (.fetchFault why) := .inl rfl
theorem Encoding.pseudoChannelTrainingEnd (p : Fin 512) : Encoding.Statement (.pseudoChannelTrainingEnd p) := .inl rfl
theorem Encoding.laneErrorWindow (c : Fin 256) : Encoding.Statement (.laneErrorWindow c) := .inl rfl
theorem Encoding.ckptPoolWriteDone (f : Fin 17) : Encoding.Statement (.ckptPoolWriteDone f) := .inl rfl
theorem Encoding.firmwareUpdate (die : Nat) (done : Bool) : Encoding.Statement (.firmwareUpdate die done) := .inl rfl

end Sys2Proof.Laws
end

