-- ==== Sys2Proof/Laws/Step.lean ====
section
/-! SUPPORT. What one step can be: the acts due, a trap or interrupt, an idle cycle, or an issue with the end of its cycle. -/

namespace Sys2Proof.Machine

/-- Every next state of a step comes from one of four things. -/
theorem step_cases {s t : State} (h : step s = .next t) :
    (∃ a u, takeDue s = some (a, u) ∧ runDue a u = .next t) ∨
    (takeDue s = none ∧ ∃ k, trapDue (prepare s) = some k ∧ execInterruptEntry k (prepare s) = .next t) ∨
    (takeDue s = none ∧ trapDue (prepare s) = none ∧ issuer (prepare s) = none ∧ t = tick (prepare s) (prepare s)) ∨
    (takeDue s = none ∧ trapDue (prepare s) = none ∧ ∃ k u, issuer (prepare s) = some k ∧ issue (prepare s) k = .next u ∧
      t = tick (prepare s) u) := by
  unfold step at h
  cases hd : takeDue s with
  | some a => rw [hd] at h; exact .inl ⟨a.1, a.2, rfl, h⟩
  | none =>
    rw [hd] at h
    dsimp only at h
    cases ht : trapDue (prepare s) with
    | some k => rw [ht] at h; exact .inr (.inl ⟨rfl, k, rfl, h⟩)
    | none =>
      rw [ht] at h
      dsimp only at h
      cases hi : issuer (prepare s) with
      | none => rw [hi] at h; injection h with e; exact .inr (.inr (.inl ⟨rfl, rfl, rfl, e.symm⟩))
      | some k =>
        rw [hi] at h
        dsimp only at h
        cases hk : issue (prepare s) k with
        | next u => rw [hk] at h; injection h with e; exact .inr (.inr (.inr ⟨rfl, rfl, k, u, rfl, hk, e.symm⟩))
        | fault f => rw [hk] at h; exact nomatch h
        | refused f => rw [hk] at h; exact nomatch h

/-- An issue is a stall for a translation, a refused fetch, a refused word, or the decoded instruction. -/
theorem issue_cases {s t : State} {k : Fin 16} (h : issue s k = .next t) :
    (∃ vpn, fetchAt s k = .miss vpn ∧ t = stopped { s with cur := k } (.miss vpn)) ∨
    (∃ why, fetchAt s k = .fault why ∧ execFetchFault why { s with cur := k } = .next t) ∨
    (∃ w e, fetchAt s k = .word w ∧ decode w = .error e ∧ execIllins w { s with cur := k } = .next t) ∨
    (∃ w i, fetchAt s k = .word w ∧ decode w = .ok i ∧ exec i (issuing s k w) = .next t) := by
  unfold issue at h
  cases hf : fetchAt s k with
  | miss vpn => rw [hf] at h; injection h with e; exact .inl ⟨vpn, rfl, e.symm⟩
  | fault why => rw [hf] at h; exact .inr (.inl ⟨why, rfl, h⟩)
  | word w =>
    rw [hf] at h
    dsimp only at h
    cases hw : decode w with
    | ok i => rw [hw] at h; exact .inr (.inr (.inr ⟨w, i, rfl, hw, h⟩))
    | error e => rw [hw] at h; exact .inr (.inr (.inl ⟨w, e, rfl, hw, h⟩))

/-- The act that is taken is one of the agenda whose time has come, and nothing else changes. -/
theorem takeDue_rest {s u : State} {a : Act} (h : takeDue s = some (a, u)) :
    ∃ n, n ≤ s.now ∧ (n, a) ∈ s.agenda ∧ u = { s with agenda := s.agenda.erase (n, a) } := by
  unfold takeDue at h
  split at h
  · rename_i e he
    injection h with h; injection h with ha hu
    obtain ⟨_, _, he⟩ := List.exists_of_findSome?_eq_some he
    have hp := List.find?_some he
    simp only [Bool.and_eq_true, decide_eq_true_eq] at hp
    subst ha
    exact ⟨e.1, hp.1, List.mem_of_find?_eq_some he, hu.symm⟩
  · cases h

theorem takeDue_wf {s u : State} {a : Act} (h : takeDue s = some (a, u)) (hs : Memory.wf s = true) : Memory.wf u = true := by
  obtain ⟨_, _, _, rfl⟩ := takeDue_rest h; exact hs

theorem keepTaken_mem (b s : State) (k : Fin 16) :
    (keepTaken b s k).mem = s.mem ∧ (keepTaken b s k).tags = s.tags ∧ (keepTaken b s k).fe = s.fe := by
  unfold keepTaken
  dsimp only
  repeat' split
  all_goals exact ⟨rfl, rfl, rfl⟩

theorem foldl_keepTaken_mem (b : State) (ks : List (Fin 16)) (s : State) :
    (ks.foldl (keepTaken b) s).mem = s.mem ∧ (ks.foldl (keepTaken b) s).tags = s.tags ∧ (ks.foldl (keepTaken b) s).fe = s.fe := by
  induction ks generalizing s with
  | nil => exact ⟨rfl, rfl, rfl⟩
  | cons k ks ih =>
    have h := ih (keepTaken b s k)
    have g := keepTaken_mem b s k
    exact ⟨h.1.trans g.1, h.2.1.trans g.2.1, h.2.2.trans g.2.2⟩

theorem owlWheel_mem (s : State) : (owlWheel s).mem = s.mem ∧ (owlWheel s).tags = s.tags ∧ (owlWheel s).fe = s.fe := by
  unfold owlWheel State.atOnce
  repeat' split
  all_goals exact ⟨rfl, rfl, rfl⟩

theorem countQuiet_mem (s : State) : (countQuiet s).mem = s.mem ∧ (countQuiet s).tags = s.tags ∧ (countQuiet s).fe = s.fe := by
  unfold countQuiet
  dsimp only
  repeat' split
  all_goals exact ⟨rfl, rfl, rfl⟩

theorem notePriority_mem (s : State) : (notePriority s).mem = s.mem ∧ (notePriority s).tags = s.tags ∧ (notePriority s).fe = s.fe := by
  unfold notePriority
  dsimp only
  split <;> exact ⟨rfl, rfl, rfl⟩

/-- The end of a cycle changes planes only where words and their waiters settleWords. -/
theorem tick_mem (b s : State) : (tick b s).mem = (settleWords b s).mem ∧ (tick b s).tags = (settleWords b s).tags ∧ (tick b s).fe = (settleWords b s).fe := by
  have h := foldl_keepTaken_mem b (List.finRange 16) ((noteFlags (settleWords b s)).withCore fun c => { c with moved := [] })
  unfold tick
  dsimp only
  generalize (List.finRange 16).foldl (keepTaken b) _ = t at h ⊢
  have h : t.mem = (settleWords b s).mem ∧ t.tags = (settleWords b s).tags ∧ t.fe = (settleWords b s).fe := h
  have o := owlWheel_mem (countQuiet t)
  have c := countQuiet_mem t
  split <;> split
  all_goals first
    | exact h
    | (have n := notePriority_mem (owlWheel (countQuiet t))
       exact ⟨n.1.trans (o.1.trans (c.1.trans h.1)), n.2.1.trans (o.2.1.trans (c.2.1.trans h.2.1)), n.2.2.trans (o.2.2.trans (c.2.2.trans h.2.2))⟩)
    | exact ⟨o.1.trans (c.1.trans h.1), o.2.1.trans (c.2.1.trans h.2.1), o.2.2.trans (c.2.2.trans h.2.2)⟩
    | exact ⟨(notePriority_mem t).1.trans h.1, (notePriority_mem t).2.1.trans h.2.1, (notePriority_mem t).2.2.trans h.2.2⟩

theorem tick_wf {b s : State} (h : Memory.wf (settleWords b s) = true) : Memory.wf (tick b s) = true :=
  wf_congr h (tick_mem b s).1 (tick_mem b s).2.1 (tick_mem b s).2.2

end Sys2Proof.Machine
end

