-- ==== Sys2Proof/Tests/Slice0.lean ====
section
/-! SUPPORT. Tests of one step or less: ill-formed terms, words of the manual, instructions on small states, and for every statement with hypotheses
states and operands that meet them. Expected values come from the manual's examples and tables, or from its rules worked by hand. -/

namespace Sys2Proof.Tests

set_option maxRecDepth 40000
set_option exponentiation.threshold 600

open Sys2Proof.Machine Sys2Proof.Claims

/-! ## Helpers -/

/-- Reset, with nothing on the agenda. -/
def calm : State := { State.reset with agenda := [] }

/-- Strand 0 ready at 0x100000 in user mode. -/
def base : State := calm.modStrand 0 fun x => { x with run := .ready, pc := 0x100000 }

/-- Strand 0 in kernel mode. -/
def kern : State := base.modStrand 0 fun x => { x with mode := 1 }

/-- A word in a scalar register of strand 0, by operand code, with its tag. -/
def setW (s : State) (c : Opd) (v : Word) (t : Tag := Tag.full) : State :=
  match locOf s.st.frm c with
  | some l => s.mod (·.setReg l (Reg.of v t))
  | none => s

/-- The register of strand 0 a code names. -/
def getW (s : State) (c : Opd) : Reg :=
  match locOf s.st.frm c with
  | some l => s.st.reg l
  | none => Reg.zero

/-- The state an instruction gives, looked at. -/
def after (i : Instr) (s : State) (p : State → Bool) : Bool :=
  match exec i s with
  | .next t => p t
  | _ => false

/-- A register of an instruction's next state: value and tag. -/
def gives (i : Instr) (s : State) (c : Opd) (v : Word) (t : Nat := 64) : Bool :=
  after i s fun u => (getW u c).val == v && (getW u c).tag.val == t

/-- The completion cause of a freeze. -/
def freezes (i : Instr) (s : State) (cause : BitVec 8) : Bool := after i s fun u => u.st.run == .frozen && u.st.cause == cause

/-! ## Ill-formed terms -/

theorem test_illformed_vector_types :
    (Instr.vadd 1 2 3 0 .i4x).wf = false ∧ (Instr.vsub 1 2 3 0 .i4x).wf = false ∧ (Instr.vmul 1 2 3 0 .i4x).wf = false ∧
      (Instr.vmin 1 2 3 0 .i4x).wf = false ∧ (Instr.vmax 1 2 3 0 .i4x).wf = false ∧ (Instr.vfma 1 2 3 0 .i32).wf = false ∧
      (Instr.vdiv 1 2 3 0 .n8).wf = false ∧ (Instr.vsqrt 1 2 0 .i64).wf = false ∧ (Instr.vrsq 1 2 0 .i64).wf = false := by decide
theorem test_illformed_vector_logic :
    (Instr.vand 1 2 3 0 .f32).wf = false ∧ (Instr.vor 1 2 3 0 .f32).wf = false ∧ (Instr.vxor 1 2 3 0 .f64).wf = false ∧
      (Instr.vnot 1 2 0 .f16).wf = false ∧ (Instr.vshl 1 2 3 0 .f32).wf = false ∧ (Instr.vshr 1 2 3 0 .f32).wf = false ∧
      (Instr.vsra 1 2 3 0 .f32).wf = false ∧ (Instr.vcmp 1 2 3 0 .i4x .lt).wf = false := by decide
theorem test_illformed_vector_moves :
    (Instr.vsel 1 2 3 0 .f32).wf = false ∧ (Instr.vsel 1 2 3 1 .i4x).wf = false ∧ (Instr.vabs 1 2 0 .n32).wf = false ∧
      (Instr.vneg 1 2 0 .n8).wf = false ∧ (Instr.vperm 1 2 3 0 .i4x).wf = false ∧ (Instr.vbcast 1 8 0 .i4x).wf = false ∧
      (Instr.vgath 1 8 2 0 .i4x).wf = false ∧ (Instr.vscat 1 8 2 0 .i4x).wf = false ∧ (Instr.vmovx 8 1 9 .i4x).wf = false ∧
      (Instr.vins 1 8 9 .i4x).wf = false ∧ (Instr.mpop 8 1 .i4x).wf = false ∧ (Instr.vred .add 1 8 0 .i4x).wf = false ∧
      (Instr.vred .and 1 8 0 .f32).wf = false ∧ (Instr.vscla 1 2 3 0 .f16).wf = false ∧ (Instr.vsclab 1 2 3 0 .i32).wf = false := by decide
theorem test_illformed_float :
    (Instr.fadd 1 2 3 false false .i32).wf = false ∧ (Instr.fsub 1 2 3 false false .i32).wf = false ∧
      (Instr.fmul 1 2 3 false false .n8).wf = false ∧ (Instr.fdiv 1 2 3 false false .i64).wf = false ∧
      (Instr.fma 1 2 3 false false .i32).wf = false ∧ (Instr.fms 1 2 3 false false .i32).wf = false ∧
      (Instr.fnma 1 2 3 false false .i32).wf = false ∧ (Instr.fscl 1 2 3 false false .i32).wf = false ∧
      (Instr.fsqrt 1 2 false .n16).wf = false ∧ (Instr.fclass 1 2 false .i8).wf = false := by decide
theorem test_illformed_float_blocking :
    (Instr.fmin 1 2 3 .i32).wf = false ∧ (Instr.fmax 1 2 3 .i32).wf = false ∧ (Instr.feq 1 2 3 .i32).wf = false ∧
      (Instr.flt 1 2 3 .i32).wf = false ∧ (Instr.fle 1 2 3 .n32).wf = false ∧ (Instr.funord 1 2 3 .n32).wf = false ∧
      (Instr.fcps 1 2 3 .i4x).wf = false ∧ (Instr.fneg 1 2 .i32).wf = false ∧ (Instr.fabs 1 2 .i32).wf = false ∧
      (Instr.frnd 1 2 .i32).wf = false ∧ (Instr.fcvt 1 2 false .i4x .f32).wf = false ∧ (Instr.fcvt 1 2 false .f32 .i4x).wf = false := by decide
theorem test_illformed_fcincn : (Instr.fcincn 1 8 9).wf = false ∧ (Instr.fcincn 32 8 9).wf = false ∧ (Instr.fcincn 31 8 9).wf = true := by decide

/-! ## Words of the manual -/

theorem test_decode_integer : decode 0x0128_8240 = .ok (.add 10 8 9 false false) ∧ decode 0x0B30_A2C0 = .ok (.div 12 10 11 false false) ∧
    decode 0x1820_87FF = .ok (.addi 8 8 false 0x7FF) := by decide
theorem test_decode_constants : decode 0x2420_0004 = .ok (.ldi 8 4) ∧ decode 0x2522_3456 = .ok (.ldk 8 0x23456) := by decide
theorem test_decode_control : decode 0x292B_1FFE = .ok (.bne 10 49 0xFFE) ∧ decode 0x2E28_CFFD = .ok (.bsig 10 12 0xFFD) ∧
    decode 0x3100_0010 = .ok (.call 16) ∧ decode 0x34C7_1C40 = .ok .ret ∧ decode 0x34C7_1C41 = .ok .tret ∧ decode 0x3DC7_1C42 = .ok .halt := by
  decide
theorem test_decode_system : decode 0x3824_0040 = .ok (.srr 9 1) ∧ decode 0x3FC7_1001 = .ok (.fenceAcq .strand) ∧
    decode 0x3FC7_1102 = .ok (.fenceRel .device) ∧ decode 0x3FC7_1103 = .ok (.fenceFull .device) := by decide
theorem test_decode_sync : decode 0x40C4_8240 = .ok (.barw 8 9 false false) ∧ decode 0x5528_8000 = .ok (.ldf 10 8 false 0) := by decide
theorem test_decode_memory : decode 0x4E24_4002 = .ok (.ld64 9 4 false 2) ∧ decode 0x4C28_8001 = .ok (.ld32 10 8 false 1) ∧
    decode 0x5230_8002 = .ok (.st32 12 8 false 2) ∧ decode 0x5A24_4C4C = .ok (.ldaq 9 4 false true .device) ∧
    decode 0x5C28_42C0 = .ok (.amoAdd 10 4 11 false false) ∧ decode 0x5D28_42C0 = .ok (.cas 10 4 11 false false false) := by decide
theorem test_decode_vector : decode 0x6320_4464 = .ok (.vfma 4 1 2 1 .f32) ∧ decode 0x6710_4425 = .ok (.vcmp 2 1 2 0 .f32 .lt) ∧
    decode 0x6D30_D238 = .ok (.vcvt 6 3 .f32 0 .i4x) := by decide
theorem test_decode_vector_moves : decode 0x6C01_4C12 = .ok (.vred .add 5 12 0 .f32) ∧ decode 0x6F38_0A12 = .ok (.vbcast 7 10 0 .f32) ∧
    decode 0x7629_8489 = .ok (.vmovx 12 5 9 .f32) ∧ decode 0x7021_0489 = .ok (.vld 4 8 9 0 .f32) := by decide
theorem test_decode_float : decode 0x8028_92E9 = .ok (.fadd 10 9 11 true false .f32) ∧ decode 0x8028_8248 = .ok (.fadd 10 8 9 false false .f64) ∧
    decode 0x8530_A2C9 = .ok (.fma 12 10 11 false false .f32) ∧ decode 0x8830_A2D9 = .ok (.fmax 12 10 11 .f32) := by decide
theorem test_decode_engines : decode 0x9051_31C5 = .ok (.issueCopy 20 4 49 49) ∧ decode 0x9051_31C4 = .ok (.issueTile 20 4 49 49) ∧
    decode 0x91C5_0440 = .ok (.send 16 17 false false 0) ∧ decode 0x97C4_8240 = .ok (.fcinc 8 9) ∧
    decode 0x970B_18C2 = .ok (.fcincn 2 49 35) ∧ decode 0x95C5_3445 = .ok (.mboxLatest 19 17 false false false true) := by decide
theorem test_decode_refuses : decode 0x0000_0000 = .error .opcode ∧ decode 0x3FC7_1181 = .error .function ∧
    decode 0x1C20_8040 = .error .reserved ∧ decode 0x8028_8243 = .error .type := by decide

/-! ## Instructions on small states -/

/-- w8 = -8 and w9 = 3. -/
def sA : State := setW (setW base 8 0xFFFFFFFFFFFFFFF8) 9 3

theorem test_integer_arithmetic : ([(.add 10 8 9 false false, 0xFFFFFFFFFFFFFFFB), (.sub 10 8 9 false false, 0xFFFFFFFFFFFFFFF5),
    (.and 10 8 9 false false, 0), (.or 10 8 9 false false, 0xFFFFFFFFFFFFFFFB), (.xor 10 8 9 false false, 0xFFFFFFFFFFFFFFFB),
    (.mul 10 8 9 false false, 0xFFFFFFFFFFFFFFE8), (.mulh 10 8 9 false false, 0xFFFFFFFFFFFFFFFF), (.mulhn 10 8 9 false false, 2),
    (.mulhsn 10 8 9 false false, 0xFFFFFFFFFFFFFFFF), (.mulhsn 10 9 8 false false, 2)] : List (Instr × Word)).all
      (fun p => gives p.1 sA 10 p.2) = true := by decide
theorem test_integer_shifts : ([(.sll 10 8 9 false false, 0xFFFFFFFFFFFFFFC0), (.srl 10 8 9 false false, 0x1FFFFFFFFFFFFFFF),
    (.sra 10 8 9 false false, 0xFFFFFFFFFFFFFFFF), (.rol 10 8 9 false false, 0xFFFFFFFFFFFFFFC7),
    (.ror 10 8 9 false false, 0x1FFFFFFFFFFFFFFF)] : List (Instr × Word)).all (fun p => gives p.1 sA 10 p.2) = true := by decide
theorem test_integer_compares : ([(.min 10 8 9 false false, 0xFFFFFFFFFFFFFFF8), (.max 10 8 9 false false, 3), (.minn 10 8 9 false false, 3),
    (.maxn 10 8 9 false false, 0xFFFFFFFFFFFFFFF8), (.slt 10 8 9 false false, 1), (.sltn 10 8 9 false false, 0),
    (.seq 10 8 9 false false, 0), (.sne 10 8 9 false false, 1)] : List (Instr × Word)).all (fun p => gives p.1 sA 10 p.2) = true := by decide
theorem test_integer_bits : ([(.clz 10 9 false, 62), (.ctz 10 8 false, 3), (.popc 10 8 false, 61), (.brev 10 9 false, 0xC000000000000000),
    (.bswap 10 9 false, 0x0300000000000000), (.clz 10 49 false, 64)] : List (Instr × Word)).all (fun p => gives p.1 sA 10 p.2) = true := by
  decide
theorem test_immediates : ([(.addi 10 9 false 0x7FF, 2), (.andi 10 8 false 0x7FC, 0xFFFFFFFFFFFFFFF8), (.ori 10 9 false 0x400, 0xFFFFFFFFFFFFFC03),
    (.xori 10 9 false 1, 2), (.slli 10 9 false 63, 0x8000000000000000), (.srli 10 8 false 60, 15), (.srai 10 8 false 2, 0xFFFFFFFFFFFFFFFE),
    (.slti 10 8 false 0x7FF, 1), (.sltni 10 9 false 0x7FF, 1), (.muli 10 9 false 0x7FE, 0xFFFFFFFFFFFFFFFA)] : List (Instr × Word)).all
      (fun p => gives p.1 sA 10 p.2) = true := by decide
theorem test_constants : ([(.ldi 10 0x3FFFF, 0xFFFFFFFFFFFFFFFF), (.ldk 9 0x23456, 0xE3456), (.addpc 10 0x3FFFF, 0xFFFFC),
    (.lea 10 8 9 false false 4, 40)] : List (Instr × Word)).all (fun p => gives p.1 sA (if p.2 = 0xE3456 then 9 else 10) p.2) = true := by decide
/-- A quotient rounds toward zero; lat empties with D, and both fill 18 cycles on (R322). -/
theorem test_divisions : ([(.div 10 8 9 false false, 0xFFFFFFFFFFFFFFFE), (.rem 10 8 9 false false, 0xFFFFFFFFFFFFFFFE),
    (.divn 10 8 9 false false, 6148914691236517202), (.remn 10 8 9 false false, 2), (.div 10 8 49 false false, 0xFFFFFFFFFFFFFFFF),
    (.rem 10 8 49 false false, 0xFFFFFFFFFFFFFFF8)] : List (Instr × Word)).all (fun p => after p.1 sA fun t =>
      !(getW t 10).full && !t.st.lat.full && t.agenda.any fun e => e.1 = 18 && (match e.2 with | .intDivideFill 0 _ v => v == p.2 | _ => false)) =
      true := by decide
theorem test_select : gives (.sel 10 8 9 false false) (setW sA 9 3 (Tag.ofNat 5)) 10 3 5 = true ∧
    gives (.sel 10 8 9 false false) (sA.mod (·.setReg .lat (Reg.of 1 Tag.full))) 10 0xFFFFFFFFFFFFFFF8 = true := by decide
theorem test_tags : gives (.sigset 10 8 9 false false) sA 10 0xFFFFFFFFFFFFFFF8 3 = true ∧
    gives (.sigset 10 8 8 false false) sA 10 0xFFFFFFFFFFFFFFF8 64 = true ∧
    gives (.sigget 10 9 false) (setW sA 9 3 (Tag.ofNat 5)) 10 5 = true := by decide
theorem test_movp : after (.movp 8 9) sA (fun t => (getW t 8).val == 3 && (getW t 9).val == 0xFFFFFFFFFFFFFFF8 && t.st.lat.val == 3) = true := by
  decide
/-- A write to zr reaches lat alone (R97). -/
theorem test_zr : after (.add 49 8 9 false false) sA (fun t => t.st.lat.val == 0xFFFFFFFFFFFFFFFB && (getW t 10).val == 0) = true := by decide
theorem test_operand_code : freezes (.add 10 8 50 false false) sA 4 = true := by decide
theorem test_branches : ([(.beq 8 8 2, 0x100008), (.bne 8 8 2, 0x100004), (.blt 8 9 0xFFF, 0xFFFFC), (.bge 8 9 2, 0x100004),
    (.blo 8 9 2, 0x100004), (.bhs 8 9 2, 0x100008), (.bsig 8 63 2, 0x100004), (.bemp 8 2, 0x100004), (.jmp 0xFFFFFF, 0xFFFFC)] :
      List (Instr × Addr)).all (fun p => after p.1 sA fun t => t.st.pc == p.2) = true := by decide
theorem test_jumps : after (.jmpr 8 false) (setW base 8 0x2000) (fun t => t.st.pc == 0x2000) = true ∧
    freezes (.jmpr 8 false) (setW base 8 0x2002) 3 = true := by decide
/-- The call leaves PC + 4 in w15 of the next window (R331), and the return comes back to it (R332). -/
theorem test_call : after (.call 16) base (fun t => t.st.pc == 0x100040 && t.st.winstate == 0x21 && (getW t 15).val == 0x100004) = true ∧
    after (.callr 8 false) (setW base 8 0x2000) (fun t => t.st.pc == 0x2000 && (getW t 15).val == 0x100004) = true := by decide
theorem test_ret : after .ret (setW (base.modStrand 0 fun x => { x with winstate := 0x21 }) 15 0x2000)
    (fun t => t.st.pc == 0x2000 && t.st.winstate == 0x10) = true := by decide
theorem test_sys : after (.sys 7) base (fun t => t.st.tepc == 0x100004 && t.st.tcause == 3 && t.st.tval == 7 && t.st.mode == 1) = true ∧
    after (.brk 7) kern (fun t => t.st.tcause == 4 && t.st.mode == 3) = true := by decide
theorem test_tret : after .tret (kern.modStrand 0 fun x => { x with tepc := 0x2000, mode := 9 }) (fun t => t.st.pc == 0x2000 && t.st.mode == 12) =
    true ∧ freezes .tret base 2 = true := by decide
theorem test_yields : after .yield base (fun t => t.st.run == .yielded) = true ∧ after .halt base (fun t => t.st.run == .halted) = true ∧
    freezes .idle base 2 = true ∧
    after .idle (base.modStrand 0 fun x => { x with strole := 0x8000 }) (fun t => t.st.run == .dormant) = true := by decide
theorem test_system_registers : after (.srw 8 0x004) (setW kern 8 0xFFFFFFFFFFFFFFFF) (fun t => t.st.tepc == 0x7FFFFFFFFFC) = true ∧
    after (.srxSet 8 0x010) (setW kern 8 3) (fun t => t.st.fpmode == 3 && (getW t 8).val == 0) = true ∧
    freezes (.srw 8 0x003) base 2 = true := by decide
theorem test_fences : after (.fenceAcq .strand) base (fun t => t.st.acq.isNone) = true ∧
    after (.fenceRel .device) base (fun t => t.st.sb.length == 1) = true ∧
    after (.fenceFull .system) base (fun t => t.st.sb.length == 1 && t.st.acq.isSome) = true := by decide

/-- Words that are none: FN 1 of ADD, FN 5 and an S2 field of 48 and EB [4] of opcode 0x0F, IMM [6] of a shift (R296, R323). -/
theorem test_words_that_are_none : decode 0x01288241 = .error .function ∧ decode 0x0F288C45 = .error .function ∧ decode 0x0F288C00 = .error .unused ∧
    decode 0x0F288C50 = .error .unused ∧ decode 0x1C288040 = .error .reserved ∧ decode 0x1C28803F = .ok (.slli 10 8 false 63) := by decide

/-! ## States and operands that meet the hypotheses of the statements

One theorem per statement or group of its clauses; okAnd e p says that e answers a value, and one that meets p. -/

def okAnd {ε α : Type} (e : Except ε α) (p : α → Bool) : Bool :=
  match e with
  | .ok a => p a
  | .error _ => false

theorem okAnd_iff {ε α : Type} (e : Except ε α) (p : α → Bool) : okAnd e p = true ↔ ∃ a, e = .ok a ∧ p a = true := by
  cases e <;> simp [okAnd]

/-- The computation answers. -/
def isOk {ε α : Type} (e : Except ε α) : Bool := okAnd e fun _ => true

/-- The computation ends with this. -/
def isStop {α : Type} (e : Res α) (x : Stop) : Bool :=
  match e with
  | .ok _ => false
  | .error y => y == x

def someAnd {α : Type} (e : Option α) (p : α → Bool) : Bool :=
  match e with
  | some a => p a
  | none => false

def fullReg (v : Word) : Reg := Reg.of v Tag.full

def sourcesFull (s : State) (cs : List Opd) : Bool :=
  decide (s.core.wbq.length < 64) && ((cs.all fun c => legalCode c && (match locOf s.st.frm c with
    | some l => (s.st.reg l).full
    | none => true)) &&
  ((List.finRange 8).all fun q => decide (cs.countP (fun c => queueOf c == some q) ≤ (s.core.queues[q]).length) &&
    ((s.core.queues[q]).take (cs.countP fun c => queueOf c == some q)).all (·.full)))
theorem sourcesFull_spec (s : State) (cs : List Opd) (h : sourcesFull s cs = true) : SourcesFull s cs := by
  simp only [sourcesFull, Bool.and_eq_true, List.all_eq_true, decide_eq_true_eq] at h
  exact ⟨.inr (.inl h.1), fun c hc => ⟨(h.2.1 c hc).1, fun l hl => by simpa [hl] using (h.2.1 c hc).2⟩, fun q => h.2.2 q (List.mem_finRange q)⟩
def destFree (s : State) (d : Opd) : Bool :=
  legalCode d && (match locOf s.st.frm d with
    | some l => (s.st.reg l).full || (s.st.reg l).bind.isNone
    | none => true) && (match queueOf d with
    | some q => decide ((s.core.queues[q]).length < 8)
    | none => true)
theorem destFree_spec (s : State) (d : Opd) (h : destFree s d = true) : DestFree s d := by
  simp only [destFree, Bool.and_eq_true] at h
  exact ⟨h.1.1, fun l hl => by simpa [hl] using h.1.2, fun q hq => by simpa [hq] using h.2⟩

/-- A state with strand 0 changed. -/
def strand0 (s : State) (f : Strand → Strand) : State := s.modStrand 0 f

/-- Register c of strand 0 waits for fill 5. -/
def pendReg (s : State) (c : Opd) : State :=
  match locOf s.st.frm c with
  | some l => s.mod (·.setReg l ⟨0, Tag.full, false, some (.fill 5)⟩)
  | none => s

/-- Queue 0 holds n full entries. -/
def queued (s : State) (n : Nat) : State := s.withCore fun c => { c with queues := c.queues.set 0 (List.replicate n (fullReg 7)) }

def placed : State := State.reset.withFetchWord 32 0x01288240

theorem witness_StepRunsTheDecodedInstruction : ((takeDue placed).isNone && (trapDue (prepare placed)).isNone &&
    (issuer (prepare placed) == some 0) &&
    okAnd (translate (prepare placed) 0 ((prepare placed).strand 0).pc.toNat .fetch) (fun x =>
      (homeStop (prepare placed) 0 x.pa .vector).isNone && !poisoned (prepare placed) x.pa &&
      okAnd (decode (byteAt (prepare placed) (x.pa + 3) ++ byteAt (prepare placed) (x.pa + 2) ++ byteAt (prepare placed) (x.pa + 1) ++
        byteAt (prepare placed) x.pa)) (fun i => i == .add 10 8 9 false false &&
          after i (issuing (prepare placed) 0 0x01288240) fun _ => true))) = true := by decide
theorem witness_DecodeOfEncode : (Instr.fcincn 31 8 9).wf = true ∧ isOk (encode (.fcincn 31 8 9)) = true ∧
    (Instr.srr 63 0xFFF).wf = true ∧ isOk (encode (.srr 63 0xFFF)) = true := by decide
theorem witness_DecodedWordsAreCanonical : decode 0x0128_8240 = .ok (.add 10 8 9 false false) := by decide
theorem witness_StepKeepsMemoryCanonical : Memory.wf placed = true ∧ (match step placed with | .next _ => true | _ => false) = true := by decide

/-- Clauses in turn: an empty register, a full one that holds a handle, zr, a queue with a full head, an empty queue, a pending head. -/
theorem witness_SourcesRead : locOf base.st.frm 8 = some (.ring 0) ∧ ((pendReg base 8).st.reg (.ring 0)).full = false ∧
    (((base.mod (·.setReg (.ring 0) ⟨1, Tag.full, true, some (.handle 127)⟩)).st.reg (.ring 0)).bind == some (.handle 127)) = true ∧
    queueOf 40 = some 0 ∧ (queued base 1).core.queues[(0 : Fin 8)] = [fullReg 7] ∧ base.core.queues[(0 : Fin 8)] = [] := by decide
/-- A register full, one that waits, zr, a queue with one place left, a full queue. -/
theorem witness_ResultsWritten : (base.st.reg (.ring 0)).full = true ∧ ((pendReg base 8).st.reg (.ring 0)).full = false ∧
    ((pendReg base 8).st.reg (.ring 0)).bind.isSome = true ∧ ((queued base 7).core.queues[(0 : Fin 8)]).length < 8 ∧
    8 ≤ ((queued base 8).core.queues[(0 : Fin 8)]).length := by decide
theorem witness_OperandsThatStopAnInstruction :
    (Instr.add 10 8 9 true false, fun x y : Word => x + y) ∈ intBinary 10 8 9 true false ∧ legalCode 50 = false ∧ legalCode 49 = true ∧
      isStop (readSrc (pendReg base 8) 8 false) (.park (.register 8)) = true ∧ isStop (readSrc (pendReg base 8) 8 true) (.empty 8) = true :=
  ⟨by simp [intBinary], by decide, by decide, by decide, by decide⟩
theorem witness_FillsReachTheirRegisters : (base.strand 0).spilled = [] ∧ ((pendReg base 8).strand 0).spilled = [] := by decide

theorem witness_IntegerResults : (Instr.add 10 8 9 false false, fun x y : Word => x + y) ∈ intBinary 10 8 9 false false ∧
    (Instr.clz 49 8 true, fun x : Word => word ((List.range 64).takeWhile fun i => !x.getLsbD (63 - i)).length) ∈ bitOps 49 8 true ∧
    okAnd (read2 sA 8 9 false false) (fun r => isOk (writeDest r.2.2 10 (fullReg (r.1.val + r.2.1.val)))) = true ∧
    okAnd (read2 sA 8 9 false false) (fun r => isOk (writeDest r.2.2 49 (fullReg (r.1.val + r.2.1.val)))) = true ∧
    okAnd (readSrc sA 8 true) (fun r => isOk (writeDest r.2 49 (fullReg 0))) = true :=
  ⟨by simp [intBinary], by simp [bitOps], by decide, by decide, by decide⟩
theorem witness_ImmediateResults : (Instr.addi 10 9 false 0x7FF, fun x : Word => x + (0x7FF : BitVec 11).signExtend 64) ∈ immOps 10 9 false 0x7FF 63 ∧
    okAnd (readSrc sA 9 false) (fun r => isOk (writeDest r.2 10 (fullReg (r.1.val + (0x7FF : BitVec 11).signExtend 64)))) = true :=
  ⟨by simp [immOps], by decide⟩
theorem witness_ConstantsAndLea : isOk (writeDest base 10 (fullReg ((0x20000 : BitVec 18).signExtend 64))) = true ∧
    okAnd (readSrc sA 9 false) (fun r => isOk (writeDest r.2 9 (fullReg (word (r.1.val.toNat * 2 ^ 18 + 0x3FFFF))))) = true ∧
    isOk (writeDest base 10 (fullReg (base.st.pc.zeroExtend 64 + 4 * (0x1FFFF : BitVec 18).signExtend 64))) = true ∧
    okAnd (read2 sA 8 9 false false) (fun r => isOk (writeDest r.2.2 10 (fullReg (word (r.1.val.toNat + r.2.1.val.toNat * 2 ^ 15))))) = true := by
  decide
theorem witness_DivisionsFillAfter18Cycles : (∃ f, (Instr.divn 10 8 9 false false, f) ∈ divTable 10 8 9 false false) ∧
    okAnd (read2 sA 8 9 false false) (fun r => isOk (writePending { r.2.2 with ticket := r.2.2.ticket + 1 } 10 r.2.2.ticket)) = true :=
  ⟨⟨_, by simp [divTable]; rfl⟩, by decide⟩
theorem witness_SelectAndTags : okAnd (readSrc sA 48 false) (fun l => okAnd (read2 l.2 8 9 false false) fun r =>
      isOk (writeDest r.2.2 10 r.2.1)) = true ∧
    okAnd (readSrc sA 8 false) (fun r => isOk (writeDest r.2 10 (fullReg (word r.1.tag.val)))) = true ∧
    okAnd (read2 sA 8 9 false false) (fun r => (Tag.ofNat 3).val == min r.2.1.val.toNat 64 &&
      isOk (writeDest r.2.2 10 (Reg.of r.1.val (Tag.ofNat 3)))) = true := by decide
theorem witness_MovpExchanges : handleCode 8 = true ∧ handleCode 31 = true ∧ locOf base.st.frm 8 = some (.ring 0) ∧
    locOf base.st.frm 31 = some (.ring 23) := by decide
theorem witness_BranchesSetThePc : (∃ p, (Instr.beq 8 9 0x800, p) ∈ branches 8 9 0x800) ∧ isOk (read2 sA 8 9 false false) = true ∧
    okAnd (readSrc (setW base 8 0x7FFFFFFFFFC) 8 true) (fun r => r.1.val.extractLsb' 43 21 == 0 && r.1.val.extractLsb' 0 2 == 0) = true :=
  ⟨⟨_, by simp [branches]; rfl⟩, by decide, by decide⟩
/-- Six resident frames for the calls, two for the return. -/
theorem witness_CallsAndReturnsMoveTheWindow :
    (let s := setW (strand0 base fun x => { x with winstate := 0x6E }) 8 0x2000
     decide (fld s.st.winstate 6 4 < 7) && decide (fld s.st.winstate 3 0 < 15) &&
       (s.st.reg (.ring (ringIx (fld s.st.winstate 3 0) 31))).full &&
       okAnd (readSrc s 8 false) (fun r => r.1.val.extractLsb' 43 21 == 0 && r.1.val.extractLsb' 0 2 == 0 &&
         (r.2.st.reg (.ring (ringIx (fld s.st.winstate 3 0) 31))).full)) = true ∧
    (let s := setW (strand0 base fun x => { x with winstate := 0x20 }) 15 0x2000
     decide (1 < fld s.st.winstate 6 4) && decide (fld s.st.winstate 3 0 < 15) &&
       okAnd (readSrc s 15 false) (fun r => r.1.val.extractLsb' 43 21 == 0 && r.1.val.extractLsb' 0 2 == 0)) = true := by decide
theorem witness_WindowRecordsHoldTheFrame : base.core.gcore < 12288 ∧ fld (base.strand 0).winbase 16 0 + 128 * 1023 + 128 ≤ 0x20000 ∧
    (base.strand 0).spilled = [] ∧ Memory.wf base = true := by decide
theorem witness_SysAndBrkTrap : ((Instr.sys 7, (3 : Word)) = (.sys 7, 3) ∨ (Instr.sys 7, (3 : Word)) = (.brk 7, 4)) ∧ base.st.run ≠ .frozen := by decide
theorem witness_TretReturnsFromTheTrap : kern.st.mode.getLsbD 0 = true ∧ base.st.mode.getLsbD 0 = false := by decide
theorem witness_StrandsYieldIdleAndHalt : (strand0 base fun x => { x with strole := 0x8000 }).st.strole.getLsbD 15 = true ∧
    base.st.strole.getLsbD 15 = false := by decide
/-- SRR of TIMECMP and of the wheel counter; SRW of TEPC, IPI, TLBINV and a loop register; SRX of FPMODE; numbers no register has. -/
theorem witness_SystemRegistersMove : isOk (sysCheck kern.st 0x004 true false 0) = true ∧ isOk (writeDest kern 10 (fullReg 0)) = true ∧
    isOk (writeDest { kern with fresh := kern.fresh + 1 } 10 (fullReg (sysRead kern 0 0x200))) = true ∧
    ([0x004, 0x008, 0x105, 0x210].all fun r => isOk (sysCheck kern.st r false true 0)) = true ∧
    okAnd (readSrc kern 8 false) (fun r => !sysBad 0x004 r.1.val && !sysBad 0x008 r.1.val && !sysBad 0x105 r.1.val &&
      !sysBad 0x210 r.1.val) = true ∧
    isOk (sysCheck kern.st 0x010 true true 0) = true ∧ sysBad 0x010 (sysRead kern 0 0x010 ||| 3) = false ∧
    sysExists 0x7FF = false ∧ sysExists 0x004 = true ∧ sysUserRead 0x004 = false ∧ sysUserWrite 0x004 = false ∧
    base.st.mode.getLsbD 0 = false := by decide

/-- BARW and BARWT of a barrier of the core, count 1 (completes) and 2 (waits); deadlines passed and to come. -/
def barS (op n w : Word) : State := setW (setW base 8 (op + n * 2 ^ 32)) 9 w
theorem witness_BarriersArrive : okAnd (barOperands (setW (setW base 8 3) 9 1) 8 9 false false)
      (fun r => okAnd (arriveAt r.2.2 r.1 (r.1.getLsbD 4) (barOf r.1).2 r.2.1) fun a => a.2.2) = true ∧
    okAnd (barOperands (setW (setW base 8 31) 9 0xFFFFF) 8 9 false false)
      (fun r => okAnd (arriveAt r.2.2 r.1 (r.1.getLsbD 4) (barOf r.1).2 r.2.1) fun a => !a.2.2) = true ∧
    ([(barS 3 1 0, true), (barS 3 2 0, false), (barS 3 2 9, false)].all fun p => okAnd (read2 p.1 8 9 false false) fun r =>
      r.1.val.extractLsb' 52 12 == 0 && r.1.val.extractLsb' 5 27 == 0 && r.1.val.extractLsb' 32 20 != 0 && r.2.1.val.extractLsb' 56 8 == 0 &&
      okAnd (arriveAt r.2.2 r.1.val (r.1.val.getLsbD 4) (barOf r.1.val).2 (r.1.val.extractLsb' 32 20).toNat) fun a => a.2.2 == p.2) = true ∧
    (0 * 256 + replayLag base ≤ base.now ∧ base.now < 9 * 256 + replayLag base) ∧ queueOf 10 = none := by decide
/-- The eight cases of an arrival, in turn. -/
theorem witness_BarrierCases : (Barrier.zero.arrive 0 2 = .counted ⟨0, 1, 0, 2, 0⟩ 0 []) ∧
    (Barrier.zero.arrive 0 1 = .counted ⟨1, 0, 0, 0, 0⟩ 0 [0]) ∧ ((⟨0, 1, 0, 3, 0⟩ : Barrier).arrive 0 3 = .counted ⟨0, 2, 0, 3, 0⟩ 0 []) ∧
    ((⟨0, 2, 0, 3, 0⟩ : Barrier).arrive 0 3 = .counted ⟨1, 0, 0, 0, 0⟩ 0 [0]) ∧ ((⟨0, 2, 0, 3, 0⟩ : Barrier).arrive 0 4 = .mismatch 3) ∧
    ((⟨0, 2, 0, 3, 0⟩ : Barrier).arrive 1 3 = .counted ⟨0, 2, 1, 3, 3⟩ 1 []) ∧ ((⟨0, 2, 0, 3, 0⟩ : Barrier).arrive 2 3 = .overrun) ∧
    ((⟨0, 2, 0, 3, 0⟩ : Barrier).arrive 127 3 = .overrun) ∧
    ((⟨0, 2, 0, 4, 0⟩ : Barrier).arrive 128 4 = (⟨0, 2, 0, 4, 0⟩ : Barrier).arrive 0 4) := by decide
theorem witness_BarrierDeadline : (let s := { (base.setRun 0 (.parked (.barrier true 0 0 none (some 0)))) with now := 1, agenda := [] }
    (s.strand 0).run = .parked (.barrier true 0 0 none (some 0)) ∧ 0 * 256 + replayLag s < s.now ∧ (∀ e ∈ s.agenda, s.now < e.1)) ∧
    (base.clu.bars[(15 : Fin 16)]).arrive 0 (1 : BitVec 20).toNat = .counted ⟨1, 0, 0, 0, 0⟩ 0 [0] := by decide
/-- A GETCHUNK, a CHUNKSET, and the unit's two kinds of request at the loop unit. -/
theorem witness_LoopUnitServes :
    (base.st.chunk.isNone && okAnd (readSrc (setW base 8 7) 8 false) (fun r => r.1.val == word 7 &&
      isOk (writePending { r.2 with ticket := r.2.ticket + 1 } 10 r.2.ticket))) = true ∧
    okAnd (read3 (setW (setW (setW base 8 7) 9 0xFFFFFFFFFF) 10 0x0000010000000001) 8 9 10 false false) (fun r => r.1.val == word 7 &&
      decide (0 < r.2.1.val.toNat ∧ r.2.1.val.toNat < 2 ^ 40 ∧ 0 < fld r.2.2.1.val 63 40 ∧ fld r.2.2.1.val 39 16 = 0 ∧
        0 < fld r.2.2.1.val 15 0)) = true ∧
    (let q : LoopReq := ⟨0, 0, 0, 7, .set 100 4 4⟩
     let s := { base with clu := { base.clu with loopReqs := [q] } }
     loopNext s = some q ∧ q.gcore = s.core.gcore) ∧
    (let q : LoopReq := ⟨0, 0, 0, 7, .get 5⟩
     let s := { base with clu := { base.clu with loopReqs := [q], loops := base.clu.loops.set 7 ⟨0, 100, 4, 4⟩ } }
     loopNext s = some q ∧ q.gcore = s.core.gcore ∧ 0 < (s.clu.loops[(7 : Fin 8)]).parts ∧ 0 < (s.clu.loops[(7 : Fin 8)]).remaining) := by decide
/-- Sources full and D free: scalar registers, lat, a queue with a head, and as D a register that is empty and unbound, zr, a queue with a place. -/
theorem witness_OperandsThere : (Instr.sel 10 8 9 false false, [(48 : Opd), 8, 9]) ∈ scalarForms 10 8 9 false false 0 0 0 0 .f32 .f32 ∧
    (Instr.sel 10 8 9 false false).wf = true ∧ sourcesFull sA [48, 8, 9] = true ∧ sourcesFull (queued base 2) [40, 40] = true ∧
    sourcesFull (queued base 1) [40, 40] = false ∧ ([10, 49, 48].all fun d => destFree sA d) = true ∧ destFree (queued base 7) 40 = true ∧
    destFree (queued base 8) 40 = false ∧ destFree (pendReg base 8) 8 = false ∧ NoLoss base :=
  ⟨by simp [scalarForms, intBinary, divTable, bitOps, immOps], by decide, by decide, by decide, by decide, by decide, by decide, by decide, by decide,
    .inl (by decide)⟩
theorem witness_DivisionFills : (okAnd (read2 base 8 9 false false) fun r => isOk (writePending { r.2.2 with ticket := r.2.2.ticket + 1 } 10 r.2.2.ticket)) = true ∧
    (okAnd (readSrc base 8 false) fun r => isOk (writePending { r.2 with ticket := r.2.ticket + 1 } 10 r.2.ticket)) = true ∧
    isOk (readVec base 1) = true ∧ base.st.run ≠ .frozen ∧
    ((base.mod fun x => { x with v := x.v.set 3 ⟨⟨0, Vector.replicate 16 Tag.full⟩, false, some 7⟩ }).st.v[(3 : Fin 32)]).bind = some 7 ∧
    ((base.setRun 0 (.stalled (.division 7))).strand 0).run = .stalled (.division 7) := by decide
/-- A call with seven resident frames, its record free and under a buffered store; a return past the last frame, the same. -/
def frames (ws : Word) : State := strand0 base fun x => { x with winstate := ws, winbase := 0x1000000002000 }
theorem witness_CallsSpillAndReturnsFill : ((frames 0x1007E).st.run ≠ .frozen ∧ (frames 0x20010).st.run ≠ .frozen) ∧
    ([(frames 0x1007E, false), (strand0 (frames 0x1007E) fun x => { x with sb := [.store 0 ⟨tcmPa 0 0x2080, 1, 0xFF, 0x7F⟩ false false] }, true)].all fun p =>
      fld p.1.st.winstate 6 4 == 7 && decide (fld p.1.st.winstate 3 0 < 15) && !acquireHolds p.1 p.1.cur &&
      decide (fld p.1.st.winbase 16 0 + 128 * fld p.1.st.winstate 31 16 + 128 ≤ fld p.1.st.winbase 48 32) &&
      (p.1.st.reg (.ring (ringIx (fld p.1.st.winstate 3 0) 31))).full && recordBusy p.1 0 p.1.st (fld p.1.st.winstate 31 16) == p.2 &&
      okAnd (readSrc p.1 8 false) fun r => r.1.val == 0 && !acquireHolds r.2 r.2.cur) = true ∧
    ([(frames 0x20010, false), (strand0 (frames 0x20010) fun x => { x with sb := [.store 0 ⟨tcmPa 0 0x2080, 1, 0xFF, 0x7F⟩ false false] }, true)].all fun p =>
      fld p.1.st.winstate 6 4 == 1 && decide (fld p.1.st.winstate 3 0 < 15) && fld p.1.st.winstate 31 16 != 0 && !acquireHolds p.1 p.1.cur &&
      (p.1.st.reg (.ring (ringIx (fld p.1.st.winstate 3 0) 15))) == Reg.zero && !fullHolds p.1 p.1.cur && p.1.st.spilled.isEmpty &&
      recordBusy p.1 0 p.1.st (fld p.1.st.winstate 31 16 - 1) == p.2 && (recordPoison p.1 p.1.st (fld p.1.st.winstate 31 16 - 1)).isNone) = true := by decide
/-- Every special register of kernel mode read, written and exchanged; user mode at FPMODE. -/
theorem witness_SystemRegistersMayMove : (SysMay kern 0x004 true false ∧ SysMay kern 0x105 false true ∧ SysMay base 0x010 true true ∧ destFree kern 10 = true ∧
    isLoopReg (0x010 : BitVec 12).toNat = false ∧ sourcesFull kern [10] = true ∧ okAnd (readSrc kern 10 false) (fun r => !sysBad 0x010 (sysRead kern 0 0x010 ||| r.1.val)) = true) := by
  unfold SysMay; decide
/-- A loop register exchanged by a strand that may, and the request that does it at the unit. -/
theorem witness_LoopRegistersAreExchanged : (isLoopReg (0x210 : BitVec 12).toNat = true ∧ SysMay kern 0x210 true true ∧
    okAnd (readSrc kern 10 false) (fun r => !sysBad 0x210 (RegOp.swap.apply (sysRead kern 0 0x210) r.1.val) &&
      isOk (writePending { r.2 with ticket := r.2.ticket + 1 } 10 r.2.ticket)) = true ∧
    (let q : LoopReq := ⟨0, 0, 0, 0, .xchg 0x210 .swap 9 5⟩
     let s := { base with clu := { base.clu with loopReqs := [q] } }
     loopNext s = some q ∧ q.gcore = s.core.gcore ∧ (s.strand q.strand).spilled = [])) := by
  unfold SysMay; decide
/-- A filled handle read first by a core whose write-back queue has room, and by one whose queue and whose line's bank are full (R206). -/
theorem witness_FirstReadsWriteThrough : (let r : Reg := ⟨1, Tag.full, true, some (.handle 127)⟩
    let e : DbbEntry := ⟨0, 0, 0, .through, ⟨0x200000, 0, 0xFF, 0x7F⟩, false, false⟩
    let l : CLine := ⟨0x200000 / 64, Vector.replicate 8 ⟨true, true, 0, false⟩, false⟩
    let s := base.mod (·.setReg (.ring 0) r)
    let u := s.withCore fun c => { c with cache := [l], wbq := List.replicate 64 e }
    (s.st.reg (.ring 0)).bind = some (.handle 127) ∧ ThroughRoom s ∧ (u.st.reg (.ring 0)).full = true ∧
      (u.st.reg (.ring 0)).bind = some (.handle 127) ∧ ¬ ThroughRoom u) := by
  unfold ThroughRoom; decide
/-- The write-back queue full and a dirty line whose bank it also holds; a core with no line cached. -/
theorem witness_FencesOrder : (let e : DbbEntry := ⟨0, 0, 0, .through, ⟨0x200000, 0, 0xFF, 0x7F⟩, false, false⟩
    let l : CLine := ⟨0x200000 / 64, Vector.replicate 8 ⟨true, true, 0, false⟩, false⟩
    let s := base.withCore fun c => { c with cache := [l], wbq := List.replicate 64 e }
    64 ≤ s.core.wbq.length ∧ l ∈ s.core.cache ∧ l.dirty ≠ 0 ∧ bankFull s (l.line * 64) = true ∧ base.core.wbq.length < 64) := by decide
theorem witness_BarriersLast : (let s := setW (setW base 8 3) 9 1
    okAnd (read2 s 8 9 false false) (fun r => decide (r.1.val.toNat < 32) && r.2.1.val == word 1 && destFree r.2.2 10) = true ∧ s.st.run = .ready ∧
      s.st.ng[ngIx ((3 : Word).getLsbD 4) (barOf 3).2] = (s.barrier false 3).cur ∧ (s.barrier false 3).nxt = 0 ∧ (s.barrier false 3).cnt = 0) := by decide

/-! ## Memory: witnesses and tests -/

def nothingHolds (s s1 : State) : Bool :=
  !acquireHolds s s.cur && !acquireHolds s1 s1.cur && s1.st.sb.isEmpty && (s1.core.reqs.all fun r => r.strand != s1.cur) && !servedHolds s1 s1.cur
theorem nothingHolds_spec (s s1 : State) (h : nothingHolds s s1 = true) : NothingHolds s s1 := by
  simp [nothingHolds] at h
  exact ⟨h.1.1.1.1, h.1.1.1.2, h.1.1.2, h.1.2, h.2⟩
def ownWord (s : State) (va n : Nat) : Bool :=
  decide (s.core.gcore < 12288) && decide (va + n ≤ 0x20000) && !poisoned s (tcmPa s.core.gcore va)
theorem ownWord_spec (s : State) (va n : Nat) (h : ownWord s va n = true) : OwnWord s va n := by
  simp [ownWord] at h
  exact ⟨h.1.1, h.1.2, h.2⟩

/-- Virtual 0x200000-0x3FFFFF is that of HBM, with every right. -/
def mapped (nc : Bool) : State :=
  base.withCore fun c => { c with
    ptroot := 0x2000, utlb := [⟨0, base.vmid, 0x200000, 21, 0x200000, nc, false, true, true, true, true, true, true, true⟩] }

/-- Partition 0 holds clusters 0 and 96, and virtual 0x800000-0xFFFFFF is that of cores from n on, with every right: the TCM of the first begins
at 0x800000. -/
def mappedTcm (n : Nat) : State :=
  (hubPut (hubPut (hubPut base (rPart 0 0) 0x8000000000000000) (rPart 0 1) 1) (rPart 0 2) 0x100000000).withCore fun c => { c with
    ptroot := 0x2000, utlb := [⟨0, base.vmid, 0x800000, 23, tcmPa n 0, false, false, true, true, true, true, true, true, true⟩] }

/-- The word at TCM byte 0x40 is 0x8877665544332211 with tag byte 5. -/
def tcmS : State :=
  { base with
    mem := (List.range 8).map fun i => (tcmPa 0 0x40 + i, BitVec.ofNat 8 (0x11 * (i + 1)))
    tags := [(tcmPa 0 0x40 / 8, 5)] }
/-- The same, and the word is empty. -/
def tcmE : State := { tcmS with fe := [(tcmPa 0 0x40 / 8, 0)] }

/-- A word of TCM read as loads do: sign and zero extension by size, little-endian; LDT takes the tag byte (R387, R388). -/
theorem test_loads : ([(.ld8 10 8 false 7, 0xFFFFFFFFFFFFFF88), (.ld8n 10 8 false 7, 0x88), (.ld16 10 8 false 3, 0xFFFFFFFFFFFF8877),
    (.ld16n 10 8 false 0, 0x2211), (.ld32 10 8 false 1, 0xFFFFFFFF88776655), (.ld32n 10 8 false 0, 0x44332211),
    (.ld64 10 8 false 0, 0x8877665544332211)] : List (Instr × Word)).all (fun p => gives p.1 (setW tcmS 8 0x40) 10 p.2) = true ∧
    gives (.ldt 10 8 false 0) (setW tcmS 8 0x40) 10 0x8877665544332211 5 = true := by decide
/-- A store waits in the buffer; when it leaves, its bytes and its word's tag byte change (R163, R201). -/
theorem test_store : after (.st16 10 8 false 1) (setW (setW tcmS 8 0x40) 10 0xABCD) (fun t => (wordAt t (tcmPa 0 0x40) == 0x8877665544332211) &&
      (match exec (.storeLeave 0) t with
       | .next u => wordAt u (tcmPa 0 0x40) == 0x88776655ABCD2211 && tagByteAt u (tcmPa 0 0x40) == 0x7F && u.st.sb.isEmpty
       | _ => false)) = true := by decide
/-- R461's alignment example: 0x4E28_8000 with w8 = 0x1004 is ALIGN with EXTRA 8. -/
theorem test_align : after (.ld64 10 8 false 0) (setW base 8 0x1004) (fun t => t.st.run == .frozen && t.st.cause == 3) = true ∧
    decode 0x4E28_8000 = .ok (.ld64 10 8 false 0) := by decide
/-- R481's example: trap form with w8 empty is local trap 2 with TVAL 8. -/
theorem test_empty_operand : decode 0x4E28_8800 = .ok (.ld64 10 8 true 0) ∧
    after (.ld64 10 8 true 0) (pendReg base 8) (fun t => t.st.tcause == 2 && t.st.tval == 8 && t.st.tepc == 0x100000) = true := by decide
theorem test_full_empty : after (.ldf 10 8 false 0) (setW tcmS 8 0x40) (fun t => (getW t 10).val == 0x8877665544332211 && !feAt t (tcmPa 0 0x40)) =
      true ∧
    after (.ldw 10 8 false 0) (setW tcmE 8 0x40) (fun t => t.st.run == .parked (.wordEmpty 0x40)) = true ∧
    after (.stf 10 8 false 0) (setW (setW tcmE 8 0x40) 10 3) (fun t => wordAt t (tcmPa 0 0x40) == 3 && feAt t (tcmPa 0 0x40)) = true ∧
    after (.stf 10 8 false 0) (setW tcmS 8 0x40) (fun t => t.st.run == .parked (.wordFull 0x40)) = true := by decide
theorem test_full_empty_unasked : after (.stff 10 8 false 0) (setW (setW tcmS 8 0x40) 10 3) (fun t => wordAt t (tcmPa 0 0x40) == 3) = true ∧
    after (.clre 8 false 0) (setW tcmS 8 0x40) (fun t => !feAt t (tcmPa 0 0x40)) = true := by decide
/-- The old word in D, the new one in memory (R391): 0x8877665544332211 is negative, so MIN keeps it and MINN takes 7. -/
theorem test_atomics : ([(.amoAdd 10 8 9 false false, 0x8877665544332218), (.amoAnd 10 8 9 false false, 1), (.amoOr 10 8 9 false false, 0x8877665544332217),
    (.amoXor 10 8 9 false false, 0x8877665544332216), (.amoMin 10 8 9 false false, 0x8877665544332211), (.amoMax 10 8 9 false false, 7),
    (.amoMinn 10 8 9 false false, 7), (.amoMaxn 10 8 9 false false, 0x8877665544332211), (.amoSwap 10 8 9 false false, 7)] : List (Instr × Word)).all
      (fun p => after p.1 (setW (setW tcmS 8 0x40) 9 7) fun t =>
        (getW t 10).val == 0x8877665544332211 && wordAt t (tcmPa 0 0x40) == p.2) = true := by decide
theorem test_cas : after (.cas 10 8 9 false false true) (setW (setW (setW tcmS 8 0x40) 9 7) 10 0x44332211) (fun t =>
      wordAt t (tcmPa 0 0x40) == 0x8877665500000007 && (getW t 10).val == 0x44332211) = true ∧
    after (.cas 10 8 9 false false false) (setW (setW tcmS 8 0x40) 9 7) (fun t => wordAt t (tcmPa 0 0x40) == 0x8877665544332211) = true := by decide
theorem test_ordered : gives (.ldaq 10 8 false false .cluster) (setW tcmS 8 0x40) 10 0x44332211 = true ∧
    after (.strl 10 8 false true .system) (setW tcmS 8 0x40) (fun t => match t.st.sb with | [.release _ .system (.store _ _) _ _] => true | _ => false) = true := by
  decide

/-- The last word of TCM for each size; a misaligned address. -/
theorem witness_LoadsFromOwnTcm : ((Instr.ld8 10 8 false 0x3FF, 1, true) ∈ loads 10 8 false 0x3FF) ∧
    ([(1, 0x1FFFF), (2, 0x1FFFE), (4, 0x1FFFC), (8, 0x1FFF8)].all fun p => okAnd (readSrc (setW base 8 (word p.2)) 8 false) fun r =>
      nothingHolds (setW base 8 (word p.2)) r.2 && !fullHolds r.2 r.2.cur && decide (p.2 % p.1 = 0) && ownWord r.2 p.2 p.1 &&
      isOk (writeDest { r.2 with fresh := r.2.fresh + 1 } 10 (fullReg (loaded base (tcmPa 0 p.2) p.1 true)))) = true ∧
    tagLoaded (tagByteAt tcmS (tcmPa tcmS.core.gcore 0x40)) = 5 ∧
    okAnd (readSrc (setW base 8 3) 8 false) (fun r => nothingHolds (setW base 8 3) r.2 && !fullHolds r.2 r.2.cur &&
      decide ((r.1.val + (0 : BitVec 11).signExtend 64 * word 2).toNat % 2 ≠ 0)) = true :=
  ⟨by simp [loads], by decide, by decide, by decide⟩
/-- A load from HBM of the base page, and its reply. -/
theorem witness_RemoteLoadsFillLater : (let s := setW (mapped true) 8 0x3FFFF8
    okAnd (readSrc s 8 false) fun r => nothingHolds s r.2 && !fullHolds r.2 r.2.cur && okAnd (reachOne r.2 0x3FFFF8 .read (.scalar 8)) fun y =>
      !ownTcm r.2 y.pa && !cachePoison r.2 r.2.cur ⟨y.pa, 8, y.nc, y.ro⟩ &&
      decide (outstanding r.2 < 32 ∧ r.2.core.wbq.length < 64) &&
      isOk (writePending { r.2 with ticket := r.2.ticket + 1 } 10 r.2.ticket)) = true ∧
    (let p : Piece := ⟨0x3FFFF8, 8, true, false⟩
     let r : Req := ⟨5, 0, 0, .load p false .full false, true, none, 0, []⟩
     let s := (pendReg (mapped true) 8).withCore fun c => { c with reqs := [r] }
     s.core.reqs.find? (·.ticket = r.ticket) == some r && !hbmPending s 5 && !bankPending s 5 && !stfLeaving s 5 && turn s 0 5 r.acc &&
       (s.strand 0).sb.isEmpty && (s.strand 0).spilled.isEmpty && !cacheable s p.pa p.nc && !ownEntries s 0 p.pa && !poisoned s p.pa &&
       home s p.pa == .hbm && ((s.strand 0).reg (.ring 0)).bind == some (.fill 5) && !((s.strand 0).reg (.ring 0)).full) = true := by decide
/-- A store to the last byte of TCM, an STT, a misaligned store, and stores that leave for TCM and the scratchpad. -/
theorem witness_StoresEnterAndLeaveTheBuffer : ((Instr.st8 10 8 false 0, 1) ∈ stores 10 8 false 0) ∧
    (let s := setW base 8 0x1FFFF
     okAnd (read2 s 8 10 false false) fun r => !acquireHolds s s.cur && !acquireHolds r.2.2 r.2.2.cur &&
       isOk (reachOne r.2.2 0x1FFFF .write (.scalar 1)) && decide ((r.1.val + (0 : BitVec 11).signExtend 64 * word 2).toNat % 2 ≠ 0)) = true ∧
    (let s := setW base 8 0x1FFF8
     okAnd (read2 s 8 10 false false) fun r => !acquireHolds s s.cur && !acquireHolds r.2.2 r.2.2.cur &&
       decide (s.core.gcore < 12288 ∧ (r.1.val + (0 : BitVec 11).signExtend 64 * 8).toNat % 2 ^ 43 = 0x1FFF8)) = true ∧
    (([(tcmPa 0 0x1FFF8), spadPa 0 0].all fun pa =>
      let x : WordStore := ⟨pa, 1, 0x80, 0x7F⟩
      let s := (strand0 base fun t => { t with sb := [.store 1 x false false] }).withClu fun u => { u with bankDone := [1] }
      mayLeave s 0 1 x false false && decide (x.pa % 8 = 0) && Memory.wf s) = true) ∧
    home base (tcmPa 0 0x1FFF8) = .tcm base.core.gcore 0x1FFF8 ∧ home base (spadPa 0 0) = .spad base.cluster 0 ∧
    (let s := strand0 (mapped false) fun t => { t with sb := [.store 1 ⟨0x200000, 1, 0xFF, 0x7F⟩ false false] }
     mayLeave s 0 1 ⟨0x200000, 1, 0xFF, 0x7F⟩ false false = true ∧ onDie s 0x200000 = false ∧ cacheable s 0x200000 false = true) ∧
    (let s := (strand0 base fun t => { t with sb := [.store 9 ⟨tcmPa 0 0, 1, 1, 0x7F⟩ false false] }).withCore fun c =>
       { c with reqs := [⟨5, 0, 0, .load ⟨0x200000, 8, true, false⟩ false .full false, true, none, 0, []⟩] }
     mayLeave s 0 9 ⟨tcmPa 0 0, 1, 1, 0x7F⟩ false false = false) :=
  ⟨by simp [stores], by decide, by decide, by decide, by decide, by decide, by decide, by decide⟩
theorem witness_FullEmptyAccesses : ([(tcmS, true), (tcmE, false)].all fun p =>
      let s := setW p.1 8 0x40
      okAnd (readSrc s 8 false) (fun r => nothingHolds s r.2 && ownWord r.2 0x40 8 && r.2.core.waiters.isEmpty && r.2.core.moved.isEmpty &&
        !fullHolds r.2 r.2.cur && (queueOf 10).isNone && (r.2.st.reg (.ring 2)).full && feAt s (tcmPa s.core.gcore 0x40) == p.2) &&
      okAnd (read2 s 8 10 false false) fun r => nothingHolds s r.2.2 && ownWord r.2.2 0x40 8) = true ∧
    Memory.wf tcmS = true ∧ Memory.wf tcmE = true ∧ locOf base.st.frm 10 = some (.ring 2) ∧ ∀ e : Fin 64, (base.core.recv[e]).arming = none := by decide
/-- The TCM of another core of the die, and of one beyond it. -/
theorem witness_FullEmptyElsewhere : ([1, 1536].all fun n =>
      let s := setW (mappedTcm n) 8 0x800008
      okAnd (readSrc s 8 false) (fun r => nothingHolds s r.2 && !fullHolds r.2 r.2.cur && okAnd (reachOne r.2 0x800008 .read .fullEmpty) fun y =>
        !ownTcm r.2 y.pa && decide (outstanding r.2 < 32)) &&
      okAnd (read2 s 8 10 false false) fun r => nothingHolds s r.2.2 && okAnd (reachOne r.2.2 0x800008 .write .fullEmpty) fun y =>
        !ownTcm r.2.2 y.pa && onDie r.2.2 y.pa == (n == 1) && !bankFull r.2.2 y.pa) = true ∧
    (after (.stff 10 8 false 0) (setW (setW (mappedTcm 1) 8 0x800008) 10 3) fun t =>
      t.core.reqs.any fun r => r.acc == .write ⟨tcmPa 1 8, 3, 0xFF, 0x7F⟩ (some true)) = true ∧
    (after (.clre 8 false 0) (setW (mappedTcm 1) 8 0x800008) fun t =>
      t.core.reqs.any fun r => r.acc == .write ⟨tcmPa 1 8, 0, 0, 0x7F⟩ (some false)) = true := by decide
/-- The word's home performs an STFF and a CLRE. -/
theorem witness_RequestsWriteElsewhere : ([true, false].all fun full =>
    let r : Req := ⟨5, 0, 0, .write ⟨tcmPa 1 8, 3, 0xFF, 0x7F⟩ (some full), true, none, 0, []⟩
    let s := (mappedTcm 1).withCore fun c => { c with reqs := [r] }
    s.core.reqs.find? (·.ticket = r.ticket) == some r && !hbmPending s 5 && !bankPending s 5 && !stfLeaving s 5 && turn s 0 5 r.acc &&
      !servedHolds s 0 && onDie s (tcmPa 1 8) && !ownTcm s (tcmPa 1 8) && !ckptHolds s s.func (tcmPa 1 8) &&
      after (.remoteReplyArrive 5) s fun t => feAt t (tcmPa 1 8) == full && wordAt t (tcmPa 1 8) == (if full then 3 else 0)) = true := by decide
/-- A store to an uncached page of HBM, with no request outstanding and with 32. -/
theorem witness_RemoteStoresWaitForRoom : (let s := setW (mapped true) 8 0x200000
    let q : Req := ⟨5, 1, 0, .load ⟨0x300000, 8, true, false⟩ false .full false, true, none, 0, []⟩
    let u := s.withCore fun c => { c with reqs := List.replicate 32 q }
    decide (outstanding s < 32 ∧ s.core.wbq.length < 64) && ([s, u].all fun s => okAnd (read2 s 8 10 false false) fun r => !acquireHolds s s.cur && !acquireHolds r.2.2 r.2.2.cur &&
      r.1.val + (0 : BitVec 11).signExtend 64 * word 8 == 0x200000 && okAnd (reachOne r.2.2 0x200000 .write (.scalar 8)) fun y =>
        storeRemote r.2.2 ⟨y.pa / 8 * 8, r.2.1.val, 0xFF, 0x7F⟩ y.nc) && s.st.sb.isEmpty && decide (32 ≤ outstanding u)) = true := by decide
/-- LDAQ at the widest scope below the acquires and at the least of them, and STRL at either end. -/
theorem witness_OrderedAccesses : Scope.rank .die = 3 ∧ Scope.rank .device = 4 ∧ Scope.rank .strand = 0 ∧
    (let s := setW tcmS 8 0x40
     okAnd (readSrc s 8 false) (fun r => nothingHolds s r.2 && !fullHolds r.2 r.2.cur && ownWord r.2 0x40 8 &&
       isOk (writeDest { r.2 with fresh := r.2.fresh + 1 } 10 (fullReg (word (bytesAt s (tcmPa s.core.gcore 0x40) 8)))) &&
       okAnd (reachOne r.2 0x40 .read (.scalar 8)) (fun y => !poisoned r.2 y.pa) &&
       decide (outstanding r.2 < 32 ∧ r.2.core.wbq.length < 64) &&
       isOk (writePending { r.2 with ticket := r.2.ticket + 1 } 10 r.2.ticket)) &&
     okAnd (read2 s 8 10 false false) fun r => !acquireHolds s s.cur && !acquireHolds r.2.2 r.2.2.cur &&
       isOk (reachOne r.2.2 0x40 .write (.scalar 8))) = true := by decide
/-- An atomic at the own TCM, a CAS there, and an atomic at HBM. -/
theorem witness_AtomicsUpdateOnce : ((Instr.amoSwap 10 8 9 false false, (8 : BitVec 4), 8) ∈ amos 10 8 9 false false) ∧
    Memory.wf tcmS = true ∧
    (let s := setW tcmS 8 0x40
     okAnd (read2 s 8 9 false false) (fun r => nothingHolds s r.2.2 && ownWord r.2.2 0x40 8 &&
       isOk (writeDest (homeStore r.2.2 (storeOf (tcmPa 0 0x40) 8 r.2.1.val 0x7F)) 10 (fullReg (word (bytesAt s (tcmPa 0 0x40) 8))))) &&
     okAnd (read3 s 8 9 10 false false) (fun r => nothingHolds s r.2.2.2 && ownWord r.2.2.2 0x40 8 &&
       isOk (writeDest (homeStore r.2.2.2 (storeOf (tcmPa 0 0x40) 8 0 0x7F)) 10 (fullReg (word (bytesAt s (tcmPa 0 0x40) 8)))))) = true ∧
    (let s := setW (mapped false) 8 0x200000
     okAnd (read2 s 8 9 false false) fun r => nothingHolds s r.2.2 && okAnd (atomicReach r.2.2 0x200000) (fun q => !ownTcm r.2.2 q.pa &&
       !bankFull r.2.2 q.pa) && decide (outstanding r.2.2 < 32) &&
       isOk (writePending { r.2.2 with ticket := r.2.2.ticket + 1 } 10 r.2.2.ticket)) = true :=
  ⟨by simp [amos], by decide, by decide, by decide⟩
/-- The reply of an atomic at the TCM of another core of the die. -/
theorem witness_AtomicReplies : (let r : Req := ⟨5, 0, 0, .amo ⟨tcmPa 1 8, 8, false, false⟩ 0 7, true, none, 0, []⟩
    let s := (pendReg base 8).withCore fun c => { c with reqs := [r] }
    s.core.reqs.find? (·.ticket = r.ticket) = some r ∧ hbmPending s 5 = false ∧ bankPending s 5 = false ∧ stfLeaving s 5 = false ∧
      turn s 0 5 r.acc = true ∧ servedHolds s 0 = false ∧ onDie s r.acc.pa = true ∧ ownSpad s r.acc.pa = false ∧
      ckptHolds s s.func r.acc.pa = false ∧ poisoned s r.acc.pa = false ∧ (s.strand 0).spilled = [] ∧
      after (.remoteReplyArrive 5) s (fun t => wordAt t (tcmPa 1 8) == 7 && (getW t 8).full && t.core.reqs.isEmpty) = true) := by decide
/-- A cacheable line present with a dirty word, an address of TCM, a line that PREF fetches and an address that fails. -/
theorem witness_CacheOperations :
    (let l : CLine := ⟨0x200000 / 64, Vector.replicate 8 ⟨true, true, 3, false⟩, false⟩
     let s := (setW (mapped false) 8 0x200000).withCore fun c => { c with cache := [l] }
     okAnd (readSrc s 8 false) (fun r => okAnd (translate r.2 r.2.cur 0x200000 .read) fun y => cacheable r.2 y.pa y.nc &&
       cacheFind r.2 (y.pa / 64) == some l && roomFor r.2 (y.pa / 64 * 64) l.dirty)) = true ∧
    okAnd (readSrc (setW base 8 0x1FFF8) 8 false) (fun r => okAnd (translate r.2 r.2.cur 0x1FFF8 .read) fun y => !cacheable r.2 y.pa y.nc) = true ∧
    okAnd (readSrc (setW (mapped false) 8 0x3FFFF8) 8 false) (fun r => okAnd (translate r.2 r.2.cur 0x3FFFF8 .read) fun y =>
      cacheable r.2 y.pa y.nc && (cacheFind r.2 (y.pa / 64)).isNone) = true ∧
    okAnd (readSrc (setW base 8 0x20000) 8 false) (fun r => isStop (translate r.2 r.2.cur 0x20000 .read) (.freeze cXLATE 5 0x20000)) = true := by
  decide

/-! ## Float and vector instructions: tests and witnesses -/

/-- w8 = 1.5 and w9 = -2.25 in f32, w10 = 0.5, tags 24. -/
def sF : State := setW (setW (setW base 8 0x3FC00000 (Tag.ofNat 24)) 9 0xC0100000 (Tag.ofNat 24)) 10 0x3F000000 (Tag.ofNat 24)

/-- 1.5 - 2.25 = -0.75, 1.5 + 2.25 = 3.75, 1.5 × -2.25 = -3.375, and the FMA forms with 0.5 (R358). -/
theorem test_float_arithmetic : ([(.fadd 11 8 9 false false .f32, 0xBF400000), (.fsub 11 8 9 false false .f32, 0x40700000),
    (.fmul 11 8 9 false false .f32, 0xC0580000)] : List (Instr × Word)).all (fun p => after p.1 sF fun t => (getW t 11).val == p.2) = true ∧
    ([(.fma 10 8 9 false false .f32, 0xC0380000), (.fms 10 8 9 false false .f32, 0xC0780000),
      (.fnma 10 8 9 false false .f32, 0x40780000)] : List (Instr × Word)).all (fun p => after p.1 sF fun t => (getW t 10).val == p.2) = true := by
  decide
theorem test_float_selects : gives (.fmin 11 8 9 .f32) sF 11 0xC0100000 24 = true ∧ gives (.fmax 11 8 9 .f32) sF 11 0x3FC00000 24 = true ∧
    gives (.fcps 11 8 9 .f32) sF 11 0xBFC00000 24 = true ∧ gives (.fneg 11 9 .f32) sF 11 0x40100000 24 = true ∧
    gives (.fabs 11 9 .f32) sF 11 0x40100000 24 = true := by decide
theorem test_float_compares : gives (.feq 11 8 8 .f32) sF 11 1 = true ∧ gives (.flt 11 9 8 .f32) sF 11 1 = true ∧
    gives (.fle 11 8 9 .f32) sF 11 0 = true ∧ gives (.funord 11 8 9 .f32) sF 11 0 = true := by decide
/-- 1.5 × 2³; round to even of 1.5 is 2; FCVT of -2.25 toward the nearest is -2, sign-extended (R362). -/
theorem test_float_conversions : after (.fscl 11 8 12 false false .f32) (setW sF 12 3) (fun t => (getW t 11).val == 0x41400000) = true ∧
    after (.frnd 11 8 .f32) sF (fun t => (getW t 11).val == 0x40000000) = true ∧
    gives (.fcvt 11 9 false .f32 .i32) sF 11 0xFFFFFFFFFFFFFFFE = true ∧
    after (.fcvt 11 9 false .f32 .f64) sF (fun t => (getW t 11).val == 0xC002000000000000) = true := by decide
/-- 1/0 is infinity with DZ; the square root of 4 is 2; both 18 cycles on for f32 (R353). -/
theorem test_float_divisions : after (.fdiv 11 8 49 false false .f32) sF (fun t => t.agenda.any fun e => e.1 == 18 && match e.2 with
      | .fpDivideFill 0 _ r => r.val == 0x7F800000 && r.flags == 8
      | _ => false) = true ∧
    after (.fsqrt 11 8 false .f32) (setW base 8 0x40800000) (fun t => t.agenda.any fun e => e.1 == 18 && match e.2 with
      | .fpDivideFill 0 _ r => r.val == 0x40000000
      | _ => false) = true := by decide

/-- Strand 0 with a vector register of copies of a 32-bit element. -/
def setV (s : State) (n : Fin 32) (e : Nat) (g : Nat := 64) : State :=
  s.mod fun x => { x with v := x.v.set n ⟨⟨BitVec.ofNat 512 ((List.range 16).foldl (fun a _ => a * 0x100000000 + e) 0), Vector.replicate 16 (Tag.ofNat g)⟩, true, none⟩ }
def setM (s : State) (n : Fin 8) (v : Word) : State := s.mod fun x => { x with m := x.m.set n v }
/-- Element j of a vector register of strand 0, 32 bits wide. -/
def getE (s : State) (n : Fin 32) (j : Nat) : Nat := elem (s.st.v[n]).lanes.bits 32 j

/-- v1 = 7s, v2 = -3s, v3 = 100s; m1 has element 0 and not element 1. -/
def sV : State := setM (setV (setV (setV base 1 7) 2 0xFFFFFFFD) 3 100) 1 0x000F

theorem test_vector_integers : ([(.vadd 4 1 2 1 .i32, 4), (.vsub 4 1 2 1 .i32, 10), (.vmul 4 1 2 1 .i32, 0xFFFFFFEB), (.vmin 4 1 2 1 .i32, 0xFFFFFFFD),
    (.vmax 4 1 2 1 .i32, 7), (.vmax 4 1 2 1 .n32, 0xFFFFFFFD), (.vand 4 1 2 1 .i32, 5), (.vor 4 1 2 1 .i32, 0xFFFFFFFF),
    (.vxor 4 1 2 1 .i32, 0xFFFFFFFA), (.vshl 4 2 1 1 .i32, 0xFFFFFE80), (.vshr 4 2 1 1 .i32, 0x1FFFFFF), (.vsra 4 2 1 1 .i32, 0xFFFFFFFF),
    (.vnot 4 1 1 .i32, 0xFFFFFFF8), (.vabs 4 2 1 .i32, 3), (.vneg 4 2 1 .i32, 3)] : List (Instr × Nat)).all
      (fun p => after p.1 sV fun t => getE t 4 0 == p.2 && getE t 4 1 == 0) = true := by decide
theorem test_vector_moves : after (.vcmp 2 1 2 0 .i32 .lt) sV (fun t => t.st.m[(2 : Fin 8)] == 0) = true ∧
    after (.vcmp 2 2 1 1 .i32 .lt) sV (fun t => t.st.m[(2 : Fin 8)] == 0xF) = true ∧
    after (.vsel 4 1 3 1 .i32) sV (fun t => getE t 4 0 == 7 && getE t 4 1 == 100) = true ∧
    after (.vbcast 4 8 1 .i32) (setW sV 8 9) (fun t => getE t 4 0 == 9 && getE t 4 1 == 0) = true ∧
    after (.vins 3 8 9 .i32) (setW (setW sV 8 9) 9 17) (fun t => getE t 3 1 == 9 && getE t 3 0 == 100) = true ∧
    gives (.vmovx 10 2 9 .i32) sV 10 0xFFFFFFFFFFFFFFFD = true ∧ gives (.mpop 10 1 .i32) sV 10 1 = true := by decide
theorem test_vector_masks : after (.mand 3 1 0) sV (fun t => t.st.m[(3 : Fin 8)] == 0xF) = true ∧
    after (.mnot 3 1) sV (fun t => t.st.m[(3 : Fin 8)] == 0xFFFFFFFFFFFFFFF0) = true ∧ after (.mor 0 1 1) sV (fun t => t.st.m[(0 : Fin 8)] == 0) = true ∧
    after (.mxor 3 1 1) sV (fun t => t.st.m[(3 : Fin 8)] == 0) = true := by decide
theorem test_vector_tags : gives (.vsigmin 10 1 1) (setV sV 1 7 9) 10 9 = true ∧
    after (.vsigset 4 1 8 1) (setW sV 8 70) (fun t => (((t.st.v[(4 : Fin 32)]).lanes.tags[(0 : Fin 16)]).val == 64) && getE t 4 0 == 7) = true := by decide
/-- R374's example: 2²⁴, 1, 1, 1 in f32, the others inactive, add to 0x4B80_0001 with tag 24 and NX. -/
theorem test_reduction : after (.vred .add 1 10 1 .f32) (setM (base.mod fun x => { x with
      v := x.v.set 1 ⟨⟨0x3F8000003F8000003F8000004B800000, Vector.replicate 16 Tag.full⟩, true, none⟩ }) 1 0xFFFF)
    (fun t => (getW t 10).val == 0x4B800001 && (getW t 10).tag.val == 24 && t.st.fpflags == 1) = true := by decide
theorem test_vector_floats : after (.vfma 3 1 2 1 .f32) (setV (setV (setV sV 1 0x3FC00000) 2 0xC0100000) 3 0x3F000000)
      (fun t => getE t 3 0 == 0xC0380000 && getE t 3 1 == 0x3F000000) = true ∧
    after (.vadd 4 1 2 1 .f32) (setV (setV sV 1 0x3FC00000) 2 0xC0100000) (fun t => getE t 4 0 == 0xBF400000) = true ∧
    after (.vcvt 4 1 .f32 1 .i32) sV (fun t => getE t 4 0 == 0x40E00000 && getE t 4 1 == 0) = true ∧
    after (.vperm 4 2 1 1 .i32) sV (fun t => getE t 4 0 == 0xFFFFFFFD) = true := by decide
/-- The addresses of a vector load are S1 + S2; a gather's S1 + index × size (R393, R395). -/
theorem test_vector_memory : after (.vld 4 8 49 0 .i32) (setW tcmS 8 0x40) (fun t => getE t 4 0 == 0x44332211 && getE t 4 2 == 0) = true ∧
    after (.vgath 4 8 1 1 .i32) (setW (setV (setM tcmS 1 0xF) 1 1) 8 0x40) (fun t => getE t 4 0 == 0x88776655 && getE t 4 1 == 0) = true ∧
    after (.vst 1 8 49 1 .i32) (setW sV 8 0x40) (fun t => t.st.sb.length == 1) = true ∧
    after (.vscat 3 8 1 1 .i32) (setW sV 8 0x40) (fun t => match t.st.sb with | [.store _ x _ _] => x.pa == tcmPa 0 0x58 && x.en == 0xF0 | _ => false) = true := by
  decide

theorem witness_FloatResults : (Instr.fadd 11 8 9 false false .f8b, fAdd) ∈ floats2 11 8 9 false false .f8b ∧
    (Instr.fma 10 8 9 false false .f64, false, false) ∈ floats3 10 8 9 false false .f64 ∧ NoLoss sF ∧ NoLoss (strand0 kern fun x => { x with sigthr := 24 }) ∧
    isOk (read2 sF 8 9 false false) = true ∧ okAnd (read3 sF 8 9 10 false false) (fun r => isOk (writeDest r.2.2.2 10 (fullReg 0))) = true ∧
    okAnd (read2 sF 8 9 false false) (fun r => isOk (writeDest r.2.2 49 (Reg.of 0xBF400000 (Tag.ofNat 24)))) = true ∧
    okAnd (readSrc sF 8 false) (fun r => isOk (writeDest r.2 11 (fullReg 0))) = true :=
  ⟨by simp [floats2], by simp [floats3], .inl (by decide), .inr (by decide), by decide, by decide, by decide, by decide⟩
theorem witness_FloatComparesSignsAndConversions : (Instr.feq 11 8 9 .f32, fEq) ∈ floatCompares 11 8 9 .f32 ∧ Ty.f64.isFloat = true ∧
    okAnd (read2 sF 8 9 false false) (fun r => isOk (writeDest r.2.2 11 (fullReg 1)) && (Tag.ofNat 24).val == min r.1.tag.val (fmtOf .f32).p) = true ∧
    okAnd (readSrc sF 8 true) (fun r => isOk (writeDest r.2 11 (fullReg 1)) && (Tag.ofNat 24).val == min r.1.tag.val (fmtOf .f32).p) = true ∧
    Ty.i8.isPlain = true ∧ NoLoss sF := ⟨by simp [floatCompares], by decide, by decide, by decide, by decide, .inl (by decide)⟩
/-- A signalling NaN; infinities of either sign; infinity and zero; zeros; a finite number and zero. -/
theorem witness_FloatSpecialValues : ((fop (fmtOf .f32) 0x7F800001 24).v.isNan && (fop (fmtOf .f32) 0x7F800001 24).v.isSnan) = true ∧
    (fop (fmtOf .f32) 0x7F800000 24).v = .inf false ∧ (fop (fmtOf .f32) 0xFF800000 24).v = .inf true ∧ (fop (fmtOf .f32) 0 24).v.isZero = true ∧
    (∃ m e, (fop (fmtOf .f32) 0x3F800000 24).v = .fin false m e ∧ m ≠ 0) ∧ ∃ e, (fop (fmtOf .f32) 0x80000000 24).v = .fin true 0 e :=
  ⟨by decide, by decide, by decide, by decide, ⟨_, _, rfl, by decide⟩, ⟨_, rfl⟩⟩
theorem witness_FloatDivisions : ((Ty.f64, 28) ∈ [(Ty.f64, 28), (.f32, 18), (.f16, 12), (.bf16, 12), (.f8a, 12), (.f8b, 12)]) ∧
    okAnd (read2 sF 8 9 false false) (fun r => isOk (writePending { r.2.2 with ticket := r.2.2.ticket + 1 } 11 r.2.2.ticket)) = true ∧
    okAnd (readSrc sF 8 false) (fun r => isOk (writePending { r.2 with ticket := r.2.ticket + 1 } 11 r.2.ticket)) = true ∧
    isOk (readVec sV 1) = true ∧ isOk (readVec sV 2) = true ∧ isOk (readVec sV 31) = true ∧ (base.strand 0).spilled = [] ∧
    ((pendReg base 8).strand 0).spilled = [] ∧ base.st.thr = 0 ∧ (strand0 base fun x => { x with sigthr := 64 }).st.thr ≠ 0 := by decide
/-- A sum whose tag falls below THR (cancellation), and one whose does not. -/
theorem witness_SiglossTraps : (let s := strand0 (setW (setW base 8 0x3F800001 (Tag.ofNat 24)) 9 0xBF800000 (Tag.ofNat 24)) fun x => { x with sigthr := 8 }
    (!s.st.kernel && s.st.run != .frozen && okAnd (read2 s 8 9 false false) fun r =>
      let f := fAdd (fmtOf .f32) s.st.rm (operandOf .f32 r.1) (operandOf .f32 r.2.1)
      decide (f.tag < s.st.thr ∧ s.st.thr ≤ 24) && isOk (writeDest r.2.2 10 (Reg.of (word f.bits) (Tag.ofNat f.tag)))) = true) ∧
    (okAnd (read2 sF 8 9 false false) fun r => decide (sF.st.thr ≤ (fAdd (fmtOf .f32) sF.st.rm (operandOf .f32 r.1) (operandOf .f32 r.2.1)).tag)) = true ∧
    Ty.f32.isFloat = true := by decide
theorem witness_VectorArithmetic : (∃ f, (Instr.vadd 4 1 2 1 .i8, f) ∈ vecInts2 4 1 2 1 .i8) ∧ Ty.i8.isInt = true ∧
    (∃ f, (Instr.vabs 4 1 7 .i64, f) ∈ vecInts1 4 1 7 .i64) ∧ (Instr.vabs 4 1 7 .i64).wf = true ∧
    (∃ f, (Instr.vmax 4 1 2 0 .f8a, f) ∈ vecFloats2 4 1 2 0 .f8a) ∧ Ty.f8a.isFloat = true ∧ NoLoss sV ∧ isOk (readVec sV 1) = true ∧
    isOk (readVec sV 2) = true ∧ isOk (readVec sV 4) = true :=
  ⟨⟨_, by simp [vecInts2]; rfl⟩, by decide, ⟨_, by simp [vecInts1]; rfl⟩, by decide, ⟨_, by simp [vecFloats2]; rfl⟩, by decide, .inl (by decide), by decide,
    by decide, by decide⟩
theorem witness_VectorComparesSelectsAndConverts : Ty.n8.isPlain = true ∧ (7 : MIdx) ≠ 0 ∧ isOk (readVec sV 1) = true ∧ isOk (readVec sV 31) = true ∧
    (sV.st.v[(31 : Fin 32)]).full = true ∧ NoLoss sV := ⟨by decide, by decide, by decide, by decide, by decide, .inl (by decide)⟩
theorem witness_VectorScalarAndMaskMoves : RedOp.accepts .add .f32 = true ∧ RedOp.accepts .add .i8 = true ∧ Ty.i8.isInt = true ∧
    isOk (writeDest sV 10 (fullReg 0)) = true ∧ okAnd (readSrc sV 8 false) (fun r => isOk (readVec r.2 1) && isOk (writeDest r.2 10 (fullReg 7))) = true ∧
    okAnd (read2 sV 8 9 false false) (fun r => isOk (readVec r.2.2 31)) = true ∧
    (Instr.mand 7 1 2, fun x y : Word => x &&& y) ∈ [(Instr.mand 7 1 2, fun x y : Word => x &&& y), (.mor 7 1 2, fun x y => x ||| y)] ∧
    (∀ j : Fin 16, (maskOf sV.st 1).getLsbD (4 * j.val) = true → 64 ≤ (((sV.st.v[(1 : Fin 32)]).lanes).tags[j]).val) :=
  ⟨by decide, by decide, by decide, by decide, by decide, by decide, by simp, by decide⟩
/-- The last 64 bytes of TCM; element addresses up to its last word. -/
theorem witness_VectorMemoryAccesses : (let s := setW sV 8 0x1FFC0
    okAnd (vecBase s 8 49) fun r => isOk (readVec r.2 4) && nothingHolds s r.2 && !fullHolds r.2 r.2.cur && decide (r.1.toNat = 0x1FFC0) &&
      (List.range 8).all fun j => !poisoned s (tcmPa s.core.gcore (0x1FFC0 + 8 * j))) = true ∧
    (let s := setW sV 8 0x1FFDC
     okAnd (readSrc s 8 false) fun r => isOk (readVec r.2 1) && nothingHolds s r.2 && !fullHolds r.2 r.2.cur &&
       (elemAddrs r.1.val (s.st.v[(1 : Fin 32)]).lanes (maskOf s.st 1) 32).all fun e => e.2.toNat % 4 == 0 && decide (e.2.toNat + 8 ≤ 0x20000) &&
         !poisoned s (tcmPa s.core.gcore e.2.toNat)) = true ∧ base.core.gcore < 12288 := by decide
theorem witness_VectorOperandsThere : (Instr.vadd 4 1 2 1 .i8, [(1 : VIdx), 2, 4], []) ∈ vectorForms 4 1 2 1 8 9 .i8 .i8 ∧ (Instr.vadd 4 1 2 1 .i8).wf = true ∧
    VecsFull sV [1, 2, 4] ∧ (Instr.vmovx 10 1 8 .i8, [(1 : VIdx)], [(8 : Opd)]) ∈ vectorToScalar 10 8 1 1 1 .add .i8 ∧ (Instr.vmovx 10 1 8 .i8).wf = true ∧
    sourcesFull sV [8] = true ∧ destFree sV 10 = true ∧ NoLoss sV :=
  ⟨by simp [vectorForms], by decide, by unfold VecsFull; decide, by simp [vectorToScalar], by decide, by decide, by decide, .inl (by decide)⟩
/-- Two pages of HBM: a vector load and a gather with nothing cached, a vector store and a scatter with the buffer empty. -/
theorem witness_VectorMemoryElsewhere : (let s := setW (setV (setM (mapped false) 1 0xF) 1 1) 8 0x200008
    (okAnd (vecBase s 8 49) fun r => isOk (readVec r.2 4) && nothingHolds s r.2 && !fullHolds r.2 r.2.cur && decide (r.1.toNat % 8 = 0) &&
      decide (outstanding r.2 < 32) && decide (r.2.core.wbq.length < 64) && s.st.tagbase == 0 &&
      (okAnd (reachAll r.2 .read ((vecWords (maskOf s.st 1) 32).map fun j => vaOf (r.1 + word (8 * j)))) fun ys =>
        (ys.any fun y => !ownTcm r.2 y.2.pa) && ys.all fun y => !cachePoison r.2 r.2.cur ⟨y.2.pa, 4, y.2.nc, y.2.ro⟩) &&
      isOk (reachAll r.2 .write ((vecWords (maskOf s.st 1) 32).map fun j => vaOf (r.1 + word (8 * j))))) = true ∧
    (okAnd (readSrc s 8 false) fun r => okAnd (readVec r.2 1) fun idx =>
      ((elemAddrs r.1.val idx (maskOf s.st 1) 32).all fun e => e.2.toNat % 4 == 0) &&
      isOk (reachAll r.2 .write ((elemAddrs r.1.val idx (maskOf s.st 1) 32).map fun e => vaOf e.2)) &&
      okAnd (reachAll r.2 .read ((elemAddrs r.1.val idx (maskOf s.st 1) 32).map fun e => vaOf e.2)) fun ys => ys.any fun y => !ownTcm r.2 y.2.pa) = true ∧
    BufferRoom s 8) := ⟨by decide, by decide, .inl (by decide)⟩

/-! ## Handles, messages and engine commands: tests and witnesses -/

/-- A command of strand 0 under handle 0. -/
def cmd (w0 w1 w2 w3 : Word) (thr : Nat := 0) : EngCmd := ⟨0, 0, w0, w1, w2, w3, 0, thr, [], 0, false⟩

/-- Words from a TCM byte. -/
def putTcm (s : State) (off : Nat) (ws : List Word) : State :=
  (ws.zip (List.range 64)).foldl (fun s x => homeStore s ⟨tcmPa 0 (off + 8 * x.2), x.1, 0xFF, 0x7F⟩) s

/-- Entry 0 pending for strand 0. -/
def entryS (o : Owner) : State :=
  (base.modEntry 0 fun e => { e with state := .pending, owner := o }).mod (·.setReg (.ring 0) ⟨0xFF0000, Tag.full, false, some (.handle 0)⟩)

/-- Endpoint 3 holds a circuit. -/
def circS (s : State) : State := s.modSend 3 fun e => { e with circuit := true }

theorem test_handle : after (.issueMem 8 1 49 49) base (fun t => (getW t 8).full == false && t.core.memIntake.length == 1) = true ∧
    after (.issueXchg 8 1 49 49) base (fun t => t.core.xchgIntake.length == 1) = true ∧
    after (.issueCopy 8 1 49 49) base (fun t => t.core.copy.intake.length == 1) = true := by
  refine ⟨?_, ?_, ?_⟩ <;> rfl
/-- A done completion of entry 0, generation 0 (R111). -/
theorem test_completion : gives (.completion 0 ⟨0, 0, 0⟩) (entryS .mem) 8 0 = true ∧
    gives (.completion 0 ⟨5, 2, 0⟩) (entryS .tile) 8 0x02050000 = true := by decide
theorem test_cancel : after (.cancelh 8) (entryS .mem) (fun t => t.agenda.contains (2, .completion 0 ⟨3, 0, 0⟩)) = true := by decide
/-- A flit of eight words commits; no circuit is ENDPOINT (R43, R494). -/
theorem test_send : after (.send 8 9 false false 0) (setW (setW (circS (putTcm base 64 [1, 2, 3, 4, 5, 6, 7, 8])) 8 64) 9 3)
      (fun t => ((t.core.send[(3 : Fin 32)]).buf.length == 1)) = true ∧
    freezes (.send 8 9 false false 0) (setW base 9 3) 0x0C = true := by decide
theorem test_mailbox : after (.mboxQueue 8 9 false false false false) (setW (setW (putTcm base 64 [0, 0x100000080]) 8 62) 9 64)
      (fun t => ((t.core.recv[(62 : Fin 64)]).next.isSome)) = true ∧
    freezes (.mboxClose 8 false) (setW base 8 63) 0x0C = true := by decide

/-- TZERO of accumulator 1 in F32 takes 4 cycles; a bad header is 0x4E two cycles on. -/
theorem test_tzero : after (.tzero (cmd 0x09000003 0 0 0x3000000000000001)) { base with agenda := [] }
      (fun t => t.agenda.contains (5, .completion 0 ⟨0, 0, 0⟩)) = true ∧
    after (.tzero (cmd 0x49000003 0 0 0x3000000000000001)) { base with agenda := [] }
      (fun t => t.agenda.contains (2, .completion 0 ⟨0x4E, 0, 0⟩)) = true := by decide
/-- R424's example: the group sum 23 with tag 4. -/
theorem test_block_product : (let a := putTcm base 0 [0xF87EC583]
    let b := putTcm base 0 [0x11111111]
    let r := mStep (fmtOf .f32) 0 64 (mGroup a 0x1000000100000000 .i4x 0 0) (mGroup b 0x1000000100000000 .i4x 0 0)
    r.bits = 0x41B80000 ∧ r.tag = 4) := by decide
/-- Two variables, Λ = [4 1; 1 3], η = (1, 2), reduced to the first: 4 - 1/3 and 1 - 2/3 with one rounding each (R432). -/
theorem test_gschur : after (.gschur (cmd 0x00090112 0x1000000000000000 0 0x1000000000000028 12))
    (putTcm base 0 [0x34000902, 7, 0x400000003F800000, 0x3F80000040800000, 0x40400000])
    (fun t => wordAt t (tcmPa 0 0x28) == 0x34000901 && wordAt t (tcmPa 0 0x30) == 7 && wordAt t (tcmPa 0 0x38) == 0x406AAAAB3EAAAAAA) = true := by decide
theorem test_gadd : after (.gacc (cmd 0x00090010 0x1000000000000000 0x1000000000000000 0x1000000000000028))
    (putTcm base 0 [0x34000902, 7, 0x400000003F800000, 0x3F80000040800000, 0x40400000])
    (fun t => wordAt t (tcmPa 0 0x38) == 0x4080000040000000 && wordAt t (tcmPa 0 0x40) == 0x4000000041000000) = true := by decide

/-- Taking a handle; a completion of a pending entry; CANCELH of one not started, of none, and of a filled one. -/
theorem witness_HandlesBindAndFill : handleCode 31 = true ∧ locOf base.st.frm 31 = some (.ring 23) ∧
    destFree base 31 = true ∧ HandleFree base ∧ (∃ h t, takeHandle base 31 .mem false = .ok (h, t)) ∧ ((entryS .mem).core.table[(0 : Fin 128)]).state = .pending ∧
    ((entryS .mem).core.table[(0 : Fin 128)]).dead = false ∧ ((entryS .mem).core.table[(0 : Fin 128)]).vdst = [] ∧
    ((entryS .mem).core.table[(0 : Fin 128)]).started = false ∧ ((entryS .mem).core.table[(0 : Fin 128)]).owner = .mem ∧
    (((entryS .mem).st.reg (.ring 0)).bind = some (.handle 0)) ∧ (((entryS .mem).st.reg (.ring 0)).full = false) ∧ (base.st.reg (.ring 0)).bind = none ∧
    ((((entryS .mem).modEntry 0 fun e => { e with state := .filled }).core.table[(0 : Fin 128)]).state ≠ .pending) :=
  ⟨by decide, by decide, by decide, by unfold HandleFree; decide, ⟨_, _, rfl⟩, by decide, by decide, by decide, by decide, by decide, by decide, by decide, by decide, by decide⟩
/-- Commands to the four engines with words 1 and 2 as they are and replaced; a tile not owned; a full intake. -/
theorem witness_IssueHandsCommandsToEngines : sourcesFull base [49, 49] = true ∧ (base.st.v[(1 : Fin 32)]).full = true ∧ base.core.tile.pend = [] ∧
    hbmBusy { base with hbm := [{ Pc.init 0 with reqs := [⟨0, 0, 0, 0, 0, some 5, 0, 1, false⟩] }] } 5 = true ∧ hbmBusy base 5 = false ∧
    isOk (commandWords base 1 49 49) = true ∧ isOk (commandWords sA 15 8 9) = true ∧
    (let ws : Vector Word 4 := #v[0x09000003, 0, 0, 0x3000000000000001]
     (unowned base (rawCommand base ws)).isSome = true ∧
       isOk (readVecs base (tileReads (rawCommand base ws))) = true) ∧
    (let ws : Vector Word 4 := #v[0x000A0001, 0, 0, 0x1000000000000000]
     unowned base (rawCommand base ws) = none ∧ isOk (pendVecs base 1 (tileWrites (rawCommand base ws))) = true ∧
       isOk (credEndpoint base (rawCommand base ws)) = true) ∧
    (∃ h t, takeHandle { base with ticket := base.ticket + 1 } 8 .copy false = .ok (h, t)) ∧ copyHeld base < 96 ∧ base.core.memIntake.length < 8 ∧
    base.core.xchgIntake.length < 8 ∧
    96 ≤ copyHeld (base.withCore fun c => { c with copy := { c.copy with intake := List.replicate 96 (cmd 0 0 0 0) } }) :=
  ⟨by decide, by decide, by decide, by decide, by decide, by decide, by decide, by decide, by decide, ⟨_, _, rfl⟩, by decide, by decide, by decide, by decide⟩
theorem witness_SendCommitsTheMessage : (let s := setW (setW (circS base) 8 0x1FFC0) 9 3
    okAnd (read2 s 8 9 false false) fun r => r.2.1.val == word 3 && decide (r.1.val.toNat + 64 * (0 + 1) ≤ 0x20000) &&
      (s.core.send[(3 : Fin 32)]).circuit && !(s.core.send[(3 : Fin 32)]).closed && decide ((s.core.send[(3 : Fin 32)]).load + 1 ≤ 16) &&
      nothingHolds s r.2.2 && !fullHolds r.2.2 r.2.2.cur && decide (s.core.gcore < 12288) && decide (r.1.val.toNat % 64 = 0) &&
      (List.range 8).all fun i => !poisoned s (tcmPa s.core.gcore (r.1.val.toNat + 8 * i))) = true ∧
    (base.core.send[(3 : Fin 32)]).circuit = false ∧ 30 ≤ (31 : Fin 32).val ∧
    (let s := (circS base).modSend 3 fun e => { e with rest := List.replicate 16 ⟨0, false, false, false, 0, 0⟩ }
     16 < (s.core.send[(3 : Fin 32)]).load + (0 + 1) ∧ (s.core.send[(3 : Fin 32)]).closed = false) ∧
    (((circS base).modSend 3 fun e => { e with closed := true }).core.send[(3 : Fin 32)]).closed = true := by decide
/-- A CREQ of CMD 4 (RELEASE) of endpoint 3. -/
def cmd4 (s : State) : State :=
  s.mod fun x => { x with v := x.v.set 1 ⟨⟨BitVec.ofNat 512 (4 + 2 ^ 64 * (coreEp 0 3).toNat), Vector.replicate 16 Tag.full⟩, true, none⟩ }
/-- OPEN of endpoint 3 to core 1's endpoint 0 with one slot each way, well and ill formed; CREL with and without a circuit; both posts. -/
def openWs (w3 : Word) : State :=
  let n := 1 + 2 ^ 64 * (coreEp 0 3).toNat + 2 ^ 128 * (coreEp 1 0).toNat + 2 ^ 192 * w3.toNat
  base.mod fun x => { x with v := x.v.set 1 ⟨⟨BitVec.ofNat 512 n, Vector.replicate 16 Tag.full⟩, true, none⟩ }
theorem witness_RequestsToBadgerAndTheHub : ([(openWs 0x04040000, false), (openWs 0, true), (cmd4 base, false), (cmd4 (circS base), false)].all fun p =>
      okAnd (commandWords p.1 1 49 49) fun r =>
      epKind (r.1[1].setWidth 32) == 0 && epNumber (r.1[1].setWidth 32) == base.core.gcore && decide (epEp (r.1[1].setWidth 32) < 30) &&
      destFree r.2 8 && !(freeEntries r.2).isEmpty &&
      creqBad r.2 r.1[0] r.1[1] r.1[2] (setFld r.1[3] 47 45 (max (fld r.1[3] 47 45) 0)) == p.2) = true ∧
    okAnd (commandWords (openWs 0x04040000) 1 49 49) (fun r => fld r.1[0] 7 0 != 4) = true ∧
    okAnd (commandWords (cmd4 base) 1 49 49) (fun r => fld r.1[0] 7 0 == 4 && epEp (r.1[1].setWidth 32) == 3) = true ∧
    okAnd (readSrc (setW (circS base) 9 3) 9 false) (fun r => r.1.val == word 3 && destFree r.2 8 && !(freeEntries r.2).isEmpty) = true ∧
    ((circS base).core.send[(3 : Fin 32)]).circuit = true ∧ (base.core.send[(3 : Fin 32)]).circuit = false := by
  refine ⟨by decide, by decide, by decide, by decide, by decide, by decide⟩
/-- A demand of one record and a capacity, each well formed, and a demand of none. -/
theorem witness_Posts : ([(false, 1, [0x0001010000000000, 5, 0], false), (true, 2, [0x0001000000000000, 5, 9, 0], false),
      (false, 0, [0x0001000000000000, 5], true)].all fun p =>
    let s := setW (putTcm base 0x80 p.2.2.1) 9 0x80
    let w := fun (j : Nat) => wordAt s (tcmPa s.core.gcore (0x80 + 8 * j))
    okAnd (readSrc s 9 false) fun r => r.1.val == word 0x80 && nothingHolds s r.2 && !fullHolds r.2 r.2.cur && decide (s.core.gcore < 12288) &&
      destFree r.2 8 && !(freeEntries r.2).isEmpty && decide (p.2.1 = if p.1 then 2 else min (fld (w 0) 47 40) 64) &&
      ((List.range (2 + p.2.1)).all fun j => !poisoned s (tcmPa s.core.gcore (0x80 + 8 * j))) &&
      postBad p.1 (w 0) (w 1) ((List.range p.2.1).map fun j => w (2 + j)) == p.2.2.2) = true := by decide
theorem witness_MailboxesArm : ([(MboxKind.queue, 0x100000080), (.latest, 0x80)].all fun p =>
    let s := setW (setW (putTcm base 0x1FFF0 [0, p.2]) 8 62) 9 0x1FFF0
    okAnd (read2 s 8 9 false false) fun r => r.1.val == word 62 && decide (r.2.1.val.toNat + 16 ≤ 0x20000) && nothingHolds s r.2.2 &&
      !fullHolds r.2.2 r.2.2.cur && ownWord s 0x1FFF0 16 && !poisoned s (tcmPa s.core.gcore 0x1FFF8) && okAnd (ownWords r.2.2 0x1FFF0 2) fun w =>
        !armingBad (w.headD 0) (w.getD 1 0) (armingOf (w.headD 0) (w.getD 1 0) p.1 false false s.cur) &&
        decide ((armingOf (w.headD 0) (w.getD 1 0) p.1 false false s.cur).slotAddr (armingOf (w.headD 0) (w.getD 1 0) p.1 false false s.cur).count ≤ 0x20000) &&
        decide ((s.core.recv[(62 : Fin 64)]).part = 0)) = true ∧ okAnd (readSrc (setW base 8 63) 8 false) (fun r => r.1.val == word 63) = true := by decide

/-- Queue 5 of function 16, cluster 0 in the partition, one fence counter at 0x1000000. -/
def jobS : State := hubPut (hubPut (hubPut base (rQueue 5 0) 0x0010800000000000) (rPart 0 1) 1) (rFunc 16 2) 0x0001000001000000
/-- A job of one strand and one cell, and one of none. -/
theorem witness_LaunchAndFenceCounters : ([((0x0040000100000001 : Word), true), (0, false)].all fun p =>
    let s := setW (setW (putTcm jobS 0x40 [0x2000, 0, p.1]) 8 0x40) 9 5
    okAnd (read2 s 8 9 false false) fun r => r.2.1.val == 5 && qValid s 5 && qFunc s 5 == s.func && !acquireHolds s s.cur &&
      !acquireHolds r.2.2 r.2.2.cur && !fullHolds r.2.2 r.2.2.cur && decide (r.2.2.core.wbq.length < 64) && destFree r.2.2 10 &&
      !(freeEntries r.2.2).isEmpty && okAnd (reachOne r.2.2 0x40 .read .vector) fun z =>
        Job.legal (Vector.ofFn fun i => viewWord r.2.2 (z.pa + 8 * i.val)) (16 * (partClusters r.2.2 r.2.2.part).length) == p.2) = true ∧
    (∃ h t, takeHandle (setW jobS 9 5) 10 .launch false = .ok (h, t)) ∧ (0 < fcCount jobS jobS.func) ∧ (fcCount jobS jobS.func ≤ 1) ∧
    (0 ≤ (counterValue jobS jobS.func 0).toNat) ∧ (counterValue jobS jobS.func 0).toNat < 1 ∧
    (let s := jobS.setRun 0 (.stalled (.fcwait 0 0))
     s.func = (16 : Fin 17).val ∧ (s.strand 0).run = .stalled (.fcwait 0 0) ∧ (0 : Word).toNat ≤ (counterValue s (16 : Fin 17).val 0).toNat) := by
  refine ⟨by decide, ⟨_, _, rfl⟩, by decide, by decide, by decide, by decide, by decide⟩

/-! ### Tile and Gaussian commands -/

def fits (c : EngCmd) (allowed : Nat) (fmts : Bool) (operands : List Bool) : Bool :=
  !headerBad c allowed && fmts && operands.all (!·) && [c.w1, c.w2, c.w3].all (!baseOff ·)
theorem fits_spec (c : EngCmd) (a : Nat) (f : Bool) (o : List Bool) (h : fits c a f o = true) : CmdFits c a f o := by
  simp [fits] at h
  exact ⟨h.1.1.1, h.1.1.2, fun b hb => by cases b <;> simp_all, by simp [h.2]⟩
/-- Kind 1, one block of rows of n × 64 bytes from byte b; kind 3, accumulator a. -/
def memW (n b : Nat) : Word := word (2 ^ 60 + n * 2 ^ 32 + b)
def accW (a : Nat) : Word := word (3 * 2 ^ 60 + a)

/-- TLD, TST, TZERO, TSIG and TCVT. -/
theorem witness_TileMovesConvertsAndClears : Memory.wf base = true ∧
    fits (cmd 0x090A0001 (memW 1 0) 0 (accW 7)) 0 true [matBad (memW 1 0) 1 (rowBytes .f16), accBad 9 (accW 7)] = true ∧
    ((tileWords (memW 1 0) 0 (rowBytes .f16)).all fun o => !poisoned base (kindPa base (memW 1 0) o)) = true ∧
    fits (cmd 0x08000002 (accW 6) 0 (memW 4 0)) 0 true [accBad 8 (accW 6), matBad (memW 4 0) 1 (rowBytes .f64)] = true ∧
    accPoison base 1 8 (accW 6) = none ∧ fits (cmd 0x08000003 0 0 (accW 6)) 0 true [accBad 8 (accW 6)] = true ∧
    fits (cmd 0x09000009 (accW 7) 0 (word 30)) 0 true [accBad 9 (accW 7), vecBad 2 (word 30)] = true ∧
    fits (cmd 0x0E090006 (accW 7) 0 (memW 1 8)) 0 true [accBad 9 (accW 7), matBad (memW 1 8) 1 (rowBytes .i4x)] = true := by decide
/-- TTRN, TSCAL, TADD and TMMA. -/
theorem witness_TileTransposesScalesAndMultiplies : Memory.wf base = true ∧
    fits (cmd 0x09090007 (accW 0) 0 (memW 2 0)) 0 true [ttrnBad .f32 (accW 0), ttrnBad .f32 (memW 2 0), ttrnOverlap .f32 (accW 0) (memW 2 0)] = true ∧
    sidePoison base 1 9 (accW 0) [] = none ∧
    fits (cmd 0x09990305 (accW 0) (memW 0 0) (accW 1)) 3 true [accBad 9 (accW 0), scaleBad (memW 0 0), accBad 9 (accW 1)] = true ∧
    accPoison base 3 9 (accW 1) = none ∧
    fits (cmd 0x09990008 (accW 0) (accW 1) (accW 1)) 0 true [accBad 9 (accW 0), accBad 9 (accW 1), accBad 9 (accW 1)] = true ∧
    accPoison base 2 9 (accW 1) = none ∧
    fits (cmd 0x09EE0004 (memW 1 0) (memW 1 0x800) (accW 0)) 0xF (mmaFormats 14 14 9) [matBad (memW 1 0) 1 64, matBad (memW 1 0x800) 1 64, accBad 9 (accW 0)] =
      true := by decide
/-- Blocks of two variables, and a header that fails. -/
theorem witness_GaussianCommandsWriteTheirBlocks :
    (let s := putTcm base 0 [0x34000902, 7, 0x400000003F800000, 0x3F80000040800000, 0x40400000]
     let c := cmd 0x00090112 (memW 0 0) 0 (memW 0 0x28)
     let g := cmd 0x00090010 (memW 0 0) (memW 0 0) (memW 0 0x28)
     Memory.wf s = true ∧ hdrDim (hdr s (memW 0 0)) = 2 ∧ fits g 0 true [gaussBad g.w1, gaussBad g.w2, gaussBad g.w3] = true ∧ sourceBad s g g.w1 = false ∧
       targetBad g.w3 (blockBytes .f32 2) = false ∧ ((spanOffsets g.w1 (blockBytes .f32 2)).all fun o => !poisoned s (kindPa s g.w1 o)) = true ∧
       fits c 0xF true [gaussBad c.w1, gaussBad c.w3] = true ∧ c.w2 = 0 ∧ 0 < cmdFlags c % 16 ∧ cmdFlags c % 16 < 2 ∧
       targetBad c.w3 (blockBytes .f32 1) = false ∧ isMem c.w3 = true ∧ fld c.w3 59 32 = 0 ∧ targetBad c.w3 (packedBytes .f32 2) = false) ∧
    (fld (cmd 0x40000000 0 0 0).w0 31 30 ≠ 0) ∧ cmdDeadline (cmd 0x100000000 0 0 0) ≠ 0 := by decide

/-! ## Engines, Badger and the fabric: witnesses and tests -/

/-- CPY of 8 bytes (R402): the beat moves the word, and the handle fills with 0. -/
theorem test_copy : after (.cpy (cmd 1 0x40 0x80 8)) tcmS (fun t => t.core.copy.chans.length == 1 &&
    after .copyEngineBeat t (fun u => wordAt u (tcmPa 0 0x80) == 0x8877665544332211 && u.core.copy.chans.isEmpty)) = true := by decide
/-- A misaligned source is 0x43, reserved header bits 0x4E (R497). -/
theorem test_copy_checks : after (.cpy (cmd 1 0x41 0x80 8)) { base with agenda := [] } (fun t => t.agenda.contains (2, .completion 0 ⟨0x43, 0, 0⟩)) = true ∧
    after (.cpys (cmd 0x40000000 0x40 0x80 8)) { base with agenda := [] } (fun t => t.agenda.contains (2, .completion 0 ⟨0x4E, 0, 0⟩)) = true := by decide

/-- Well formed CPY, CPYS, CPYZ and SCRUB, by the fields the statement lists. -/
theorem witness_CopyCommandsTakeChannels :
    (let c := cmd 0x401 0x40 0x80 8
     fld c.w0 31 30 = 0 ∧ fld c.w0 27 16 = 0 ∧ c.w2.toNat % 8 = 0 ∧ addrBad c.w2 = false ∧ cmdFlags c ≤ 4 ∧ addrBad c.w1 = false ∧ c.w1.toNat % 8 = 0 ∧
       fld c.w3 63 32 = 0 ∧ lenBad (fld c.w3 31 0) = false) ∧
    (let c := cmd 0x002 0x40 0x80 0x000800080001FFF8
     cmdFlags c ≤ 4 ∧ addrBad c.w1 = false ∧ c.w1.toNat % 8 = 0 ∧ fld c.w3 31 16 ≠ 0 ∧ lenBad (fld c.w3 15 0) = false) ∧
    (let c := cmd 0x003 0 0x80 8
     cmdFlags c = 0 ∧ c.w1 = 0 ∧ fld c.w3 63 32 = 0 ∧ lenBad (fld c.w3 31 0) = false) ∧
    (let c := cmd 0x005 0x200000 0x80 64
     cmdFlags c = 0 ∧ addrBad c.w1 = false ∧ c.w1.toNat % 64 = 0 ∧ fld c.w3 63 32 = 0 ∧ fld c.w3 31 0 ≠ 0 ∧ fld c.w3 31 0 % 64 = 0 ∧
       outsideHbm (mapped false) c c.w1.toNat (fld c.w3 31 0) = false) ∧ fld (cmd 0x40000001 0 0 0).w0 31 30 ≠ 0 := by decide +kernel
def chanS (k : ChanKind) (b : Nat) : State := tcmS.modCopy fun e => { e with chans := [⟨cmd 1 0x40 0x80 128, k, b, false⟩] }
/-- The first of two beats, and the last; a clear; moves with and without poison. -/
theorem witness_CopyBeats : ([0, 1].all fun b => chooseChan (chanS (.linear 0x40 0x80 128 0) b) == some ⟨cmd 1 0x40 0x80 128, .linear 0x40 0x80 128 0, b, false⟩ &&
      (let s := chanS (.linear 0x40 0x80 128 0) b
       let x : Chan := ⟨cmd 1 0x40 0x80 128, .linear 0x40 0x80 128 0, b, false⟩
       (engineWait s x.cmd x.reach.1 x.reach.2).isNone && (x.copied s).isNone) &&
      isOk (moveWords (startEntry (engineGo (chanS (.linear 0x40 0x80 128 0) b) (cmd 1 0x40 0x80 128)) 0) (cmd 1 0x40 0x80 128) (0x40 + 64 * b) (0x80 + 64 * b) 8 0)) = true ∧
    chooseChan (chanS (.zero 0x80 64) 0) = some ⟨cmd 1 0x40 0x80 128, .zero 0x80 64, 0, false⟩ ∧
    (let x : Chan := ⟨cmd 1 0x40 0x80 128, .zero 0x80 64, 0, false⟩
     (engineWait (chanS x.kind 0) x.cmd x.reach.1 x.reach.2).isNone && (x.copied (chanS x.kind 0)).isNone) = true ∧ chooseChan base = none ∧
    isOk (engAddrs (startEntry (engineGo (chanS (.zero 0x80 64) 0) (cmd 1 0x40 0x80 128)) 0) (cmd 1 0x40 0x80 128) .write 0x80 8) = true ∧
    okAnd (engAddrs tcmS (cmd 1 0x40 0x80 8) .read 0x40 1) (fun sp => sp.all (fun pa => !poisoned tcmS pa) &&
      sp.any (fun pa => poisoned { tcmS with poison := [tcmPa 0 0x40 / 8] } pa)) = true := by decide

/-- A route block at byte 0x100: one further core, 64 bytes, op 0; and one with none. -/
def credS (hops : Word) : State := putTcm base 0x100 [hops * 2 ^ 32 + 64, 0, 1, 0, 0, 0]
theorem witness_ChainCommands : (let c := cmd 0x104 0x40 0x80 0x0005000003000100
     ([0, 1].all fun h => !credBad (credS h) c && credFirst c && decide (c.w1.toNat % 8 = 0 ∧ c.w2.toNat % 8 = 0 ∧ credRblk c % 8 = 0) &&
       (List.range 6).all (fun i => !poisoned (credS h) (tcmPa 0 (credRblk c + 8 * i))) && decide ((firstPacket (credS h) c).hops = h.toNat)) = true) ∧
    (let c := cmd 0x004 0x40 0x80 0x0005000003000000
     credBad base c = false ∧ credFirst c = false ∧ base.core.copy.flushed = [] ∧ base.core.copy.early = [] ∧
       (∃ r ∈ (base.modCopy fun e => { e with flushed := [⟨5, 0, 0, 64⟩] }).core.copy.flushed, r.crid = credCrid c ∧ r.round = credRound c)) := by decide
/-- A packet for core 0 of round 0, reduction 5, with no further core, with one, and with a deadline of wheel 1. -/
def credP (hops dl : Word) : CredPacket := ⟨#v[5 * 2 ^ 48 + hops * 2 ^ 40 + 64, 0, 0, 0, 0, 0, 0x10001, dl], List.replicate 8 0, []⟩
/-- The packet's header alone, in the queue of endpoint 62. -/
def credQ (s : State) (p : CredPacket) : State := s.modRecv 62 fun r => { r with queue := [p.headFlit] }
theorem witness_ChainPackets : (base.core.recv[(62 : Fin 64)]).arming = none ∧ headerNext base (credP 1 0) = false ∧
    (let p := { credP 1 0 with payload := [] }
     let w : Chan := ⟨cmd 0x004 0x40 0x80 0x0005000000000000, .credWait 0x40 0x80 p.crid p.round, 0, false⟩
     let s := credQ (base.modCopy fun e => { e with chans := [w] }) p
     headerNext s p = true ∧ p.pop.2.hops = 0 ∧ s.core.copy.chans = [w] ∧ (s.core.recv[(62 : Fin 64)]).arming = none) ∧
    (let p := { credP 1 1 with payload := [] }
     let s := credQ base p
     headerNext s p = true ∧ p.payload = [] ∧ p.bad = [] ∧ s.core.copy.chans = [] ∧ duePast (seenWheel s) p.deadline = false ∧ s.core.copy.early.length < 16 ∧
       16 ≤ ((s.modCopy fun e => { e with early := List.replicate 16 p }).core.copy.early).length) ∧
    (let s := { credQ base { credP 1 1 with payload := [] } with now := 512 }
     headerNext s { credP 1 1 with payload := [] } = true ∧ duePast (seenWheel s) (credP 1 1).deadline = true) ∧
    (let s := { base.modCopy fun e => { e with early := [credP 1 1] } with now := 512 }
     s.core.copy.early = [credP 1 1] ∧ duePast (seenWheel s) (credP 1 1).deadline = true) ∧
    (let s := credQ (base.modCopy fun e => { e with order := [⟨5, 0, 2, some (none, [])⟩] }) (credP 1 0)
     s.core.copy.early = [] ∧ s.core.copy.order = [⟨5, 0, 1 + 1, some (none, [])⟩] ∧ (s.core.recv[(62 : Fin 64)]).queue.length = 1) ∧
    (base.modRecv 62 fun r => { r with arming := some ⟨.queue, false, false, 0, 4, 1, 0x40, 0⟩ }).core.recv[(62 : Fin 64)].arming.isSome = true := by decide

/-- A packet of a header and a flit: it joins an empty queue, whose next header it is, and one that holds another header. -/
theorem witness_PacketsJoinTheQueue : (let u := fun (s : State) => s.modRecv 62 fun r =>
      { r with queue := r.queue ++ packetFlits (credP 1 0), got := r.got + (packetFlits (credP 1 0)).length }
    headerNext base (credP 1 0) = false ∧ headerNext (u base) (credP 1 0) = true ∧
      (let s := credQ base { credP 1 1 with payload := [] }
       headerNext s (credP 1 0) = false ∧ headerNext (u s) (credP 1 0) = false ∧ (s.core.recv[(62 : Fin 64)]).arming = none)) := by decide
/-- The next beat's granule waits for a checkpoint's copy; and a SCRUB of no byte. -/
theorem witness_BeatsWaitForCopies : (let x : Chan := ⟨cmd 1 0x40 0x200000 64, .zero 0x200000 64, 0, false⟩
    let s := ((hubPut (mapped false) (rCkpt 16 4) 0x8000000000000000).withHub fun h =>
      { h with ckpts := [⟨16, ⟨[], [], [], [], [], [], Vector.replicate 8 ⟨0, 0, 0, 0⟩⟩, [], [], [], [], false, 0⟩] }).modCopy fun e =>
        { e with chans := [x] }
    let u := s.modEntry 0 fun e => { e with ask := some 77 }
    chooseChan u = some x ∧ engineWait u x.cmd x.reach.1 x.reach.2 = none ∧ x.copied u = some 0x200000) ∧
    (let c := cmd 5 0x200000 0x80 0
     scrubBad base c = false ∧ c.w1.toNat % 64 = 0 ∧ c.w2.toNat % 8 = 0 ∧ fld c.w3 31 0 = 0) := by decide +kernel
def pendS (ps : List (EngCmd × Nat)) : State := base.withCore fun c => { c with tile := { c.tile with pend := ps } }
theorem witness_EnginesAccept : (let p := (cmd 0x09000003 0 0 (accW 0), 0)
     (pendS [p]).core.tile.till = none ∧ (pendS [p]).core.tile.queue.length < 4 ∧ (pendS [p]).core.tile.last = none ∧ chooseTile (pendS [p]) = some p ∧ earlierRelease (pendS [p]) p.1.strand p.1.seq = false) ∧
    (let p := (cmd 0x09000003 0 0 (accW 0), 0)
     let q := (cmd 0x19000003 0 0 (accW 1), 0)
     (pendS [p, q]).core.tile.pend = [p, q] ∧ (pendS [p, q]).now - p.2 < (pendS [p, q]).core.agelim.toNat) := by decide
/-- The scan's units have been served. -/
def scanS (s : State) (c : EngCmd) : State := s.modEntry c.handle fun e => { e with ask := some 77 }
/-- A scan of one F32 element of HBM for at least 0, and the round XRUN joins. -/
theorem witness_ScanAndExchange : (let c := cmd 0x00090001 0x0001000000200000 0x80 1
     let s := mapped false
     let t0 := dropMem (engineGo (startEntry s c.handle) c) c.handle
     engineWait (scanS s c) c (scanLines c) [] = none ∧ copyFirst s c (wordSpan (fld c.w2 42 0) 3) = none ∧ scanBad (mapped false) c = false ∧ fld c.w1 42 0 % 64 = 0 ∧ fld c.w2 42 0 % 16 = 0 ∧
       isOk (scanFrom t0 c (tyOf (cmdAfmt c)) (fld c.w1 42 0) (fld c.w3 63 32) (fld c.w3 31 0) 0) = true ∧
       (engPut { t0 with fresh := t0.fresh + 1 } c (fld c.w2 42 0) (scanWords (Config.freeWord 0) (fld c.w1 63 48) [(0, 0)])).2.2 = none) ∧
    (let c := cmd 1 0x40 0x80 0x0005000000000000
     let r := { Round.fresh 5 with counted := true }
     let s := base.withHub fun h => { h with rounds := [r] }
     xrunBad s c = false ∧ c.w1.toNat % 16 = 0 ∧ c.w2.toNat % 8 = 0 ∧ findRound s (c.w3.extractLsb' 48 16) = some r ∧ r.lapsed = false ∧ r.cal = none) ∧
    ([(0, 5)] : List (Nat × Nat))[0]? = some (0, 5) := by
  refine ⟨⟨by decide +kernel, by decide +kernel, by decide +kernel, by decide +kernel, by decide, by decide +kernel, rfl⟩, by decide, by decide⟩

/-- A request of core 0 for endpoint 3 and n slots, and its circuit with slots 5 and 9. The grants ask for no slot: which slots trunks own is a
free value, so no count above zero is granted whatever it is. -/
def reqOf (n : Word) : CircReq := ⟨0, some 0, 1, (coreEp 0 3).zeroExtend 64, (coreEp 1 0).zeroExtend 64, n * 2 ^ 18, [coreEp 1 0], false, 0⟩
def circuit3 : Circuit := ⟨coreEp 0 3, [(coreEp 1 0, [7])], 0, [5, 9], false⟩
def withCircuit : State := base.withFab fun f => { f with circuits := [circuit3] }
theorem witness_BadgerAnswersRequests : Memory.wf base = true ∧ base.fab.pending.length < 64 ∧ 64 ≤ (List.replicate 64 (reqOf 1)).length ∧
    (base.core.send[(3 : Fin 32)]).buf = [] ∧ (base.core.send[(3 : Fin 32)]).rest = [] ∧ (reqOf 1).gcore < 12288 ∧
    fld (reqOf 1).w3 17 0 % 8 = 0 ∧ fld (reqOf 1).w3 17 0 + 64 ≤ 0x20000 ∧
    (let u := takeRequest base (reqOf 0)
     circuitOf u (coreEp 0 3) = none ∧ queueSlots u 0 + 0 ≤ qFslots u 0 ∧ isOk (searchForward u (reqOf 0) none (reqOf 0).dsts (takenEntries u)) = true ∧
       isOk (searchReverse u (coreEp 0 3) 0 0 (slotClaims (coreEp 0 3) (reqOf 0).dsts [] ++ takenEntries u) 0 (reqOf 0).dsts) = true) ∧
    (qFslots base 0 < queueSlots base 0 + 1) ∧
    (let u := hubPut (takeRequest withCircuit (reqOf 0)) (rQueue 0 2) 0x0002000000000000
     circuitOf u (coreEp 0 3) = some circuit3 ∧ queueSlots u circuit3.qid.toNat + 0 ≤ qFslots u circuit3.qid.toNat ∧
       isOk (searchForward u (reqOf 0) (some circuit3) (circuit3.dsts.map (·.1)) (takenEntries u)) = true) ∧ 1 < circuit3.slots.length := by decide
/-- NARROW keeps the lower slot (R60). -/
theorem test_narrow : (match exec (.circNarrow (reqOf 1)) withCircuit with
    | .next t => t.fab.circuits == [{ circuit3 with slots := [5] }]
    | _ => false) = true := by decide

/-- Core 0 owns slot 129 of its die for endpoint 3, and a message of one flit waits since cycle 0. -/
def flitX : Flit := ⟨5, true, true, false, 0, 0⟩
def startS : State :=
  (({ base with now := 1 }.withFab fun f => { f with tables := [⟨niAgent 0, tSend, 0, slotAt (niAgent 0) 1, 0x8003, 0, false, false⟩] }).modSend 3
    fun e => { e with circuit := true, wins := [⟨0, 0⟩], buf := [⟨[flitX], 0, 0, 0⟩] })
/-- The rest of a message, its slot here, not here, and a return due in this cycle. -/
def restS : State := startS.modSend 3 fun e => { e with rest := [flitX], buf := [] }
def switchS (out : Nat) : State :=
  { base with now := 1 }.withFab fun f => { f with
    tables := [⟨routerAgent 0, tSwitch, out, slotAt (routerAgent 0) 1, 0x8000, 0, false, false⟩]
    flits := [⟨routerAgent 0, 0, 1, flitX⟩] }
theorem witness_FlitsLeaveAndCross : ((startS.core.send[(3 : Fin 32)]).rest = [] ∧ (startS.core.send[(3 : Fin 32)]).buf = [⟨[flitX], 0, 0, 0⟩] ∧
      mayStart startS 3 ⟨[flitX], 0, 0, 0⟩ startS.now = true ∧ returnDue startS = false) ∧
    ((restS.core.send[(3 : Fin 32)]).rest = [flitX] ∧ slotAt (niAgent restS.core.gcore) restS.now ∈ ownedSlots restS (niAgent restS.core.gcore) 1 3 ∧
      slotAt (niAgent restS.core.gcore) 2 ∉ ownedSlots { restS with now := 2 } (niAgent restS.core.gcore) 1 3 ∧
      returnDue (restS.at 1 (.windowReturnArrive 3 0 1)) = true) ∧
    ([17, 5].all fun out => (switchS out).fab.flits == [⟨routerAgent 0, 0, 1, flitX⟩] && (switchS out).fab.tables.all (!·.lost) &&
      outputsFor (switchS out) (routerAgent 0) 0 (slotFin (routerAgent 0) 1).val == [out] && outputCarries (switchS out) (routerAgent 0) out) = true ∧
    outputsFor ({ base with now := 1 } : State) (routerAgent 0) 0 (slotFin (routerAgent 0) 1).val = [] ∧
    farEnd (routerAgent 0) 17 = .switch (routerAgent 1) 19 1 ∧ farEnd (routerAgent 0) 0 = .core base.core.gcore ∧ base.fab.tables = [] := by decide
/-- Sealed flits are sound; with a check bit wrong, one is not. -/
theorem witness_FlitsAreChecked (f : Flit) : soundFlit (sealFlit f) = true ∧ soundFlit { f with chk := flitCode f + 1 } = false := by
  have h2 : flitCode f + 1 ≠ flitCode f := fun e => absurd (BitVec.add_right_eq_self.mp e) (by decide)
  exact ⟨by simp [soundFlit, sealFlit, flitCode], decide_eq_false h2⟩
/-- An entry for receive endpoint 4 in slot 0; an entry for a return of window counts to endpoint 3; a break. -/
def recvS (v : BitVec 16) : State := base.withFab fun f => { f with tables := [⟨niAgent 0, tRecv, 0, 0, v, 0, false, false⟩] }
def loopC : Circuit := ⟨coreEp 0 3, [(coreEp 0 4, [128])], 0, [5], false⟩
/-- Endpoint 4 has taken a flit and owns slot 128 on the reverse circuit. -/
def loopS : State :=
  (base.withFab fun f => { f with circuits := [loopC], tables := [⟨niAgent 0, tSend, 0, 128, 0xC004, 0, false, false⟩] }).modRecv 4 fun r =>
    { r with count := 1 }
theorem witness_FlitsArriveAndReturn : (let s := recvS 0x8004
      liveEntry s (niAgent s.core.gcore) 2 0 flitX.slot.val = BitVec.ofNat 16 (0x8000 + 4) ∧ s.core.spill = none ∧
      (ringOf s 4).isNone = true ∧ (s.core.recv[(4 : Fin 64)]).broken = false ∧ flitX.first ≠ (s.core.recv[(4 : Fin 64)]).openMsg ∧
      (s.core.recv[(4 : Fin 64)]).drop = false ∧
      flitX.first = ((s.modRecv 4 fun r => { r with openMsg := true }).core.recv[(4 : Fin 64)]).openMsg) ∧
    (let s := ((recvS 0xC043).modSend 3 fun e => { e with wins := [⟨0, 0⟩, ⟨7, 0⟩] });
      (s.core.send[(3 : Fin 32)]).wins[1]? = some ⟨7, 0⟩ ∧ liveEntry s (niAgent s.core.gcore) 2 0 flitX.slot.val = BitVec.ofNat 16 (0xC000 + 64 * 1 + (3 : Fin 32).val)) ∧
    entryValid (liveEntry base (niAgent base.core.gcore) 2 0 flitX.slot.val) = false ∧
    (let s := loopS
     (s.core.recv[(4 : Fin 64)]).broken = false ∧ (s.core.recv[(4 : Fin 64)]).count ≠ (s.core.recv[(4 : Fin 64)]).returned ∧
       slotAt (niAgent s.core.gcore) s.now ∈ ownedBy s (niAgent s.core.gcore) 1 4 true ∧
       slotAt (niAgent s.core.gcore) 1 ∉ ownedBy { s with now := 1 } (niAgent s.core.gcore) 1 4 true ∧
       ownedBy base (niAgent s.core.gcore) 1 4 true = [] ∧ (s.core.recv[(4 : Fin 64)]).hold = none ∧
       (let h := s.modRecv 4 fun r => { r with hold := some 0 }
        (h.core.recv[(4 : Fin 64)]).hold = some 0 ∧ wheelStart (niAgent h.core.gcore) 0 ≤ ({ h with now := 512 } : State).now ∧
          h.now < wheelStart (niAgent h.core.gcore) 1) ∧ circuitOf s loopC.src = some loopC ∧ loopC.fixed = false ∧
       loopC.src ≠ coreEp s.core.gcore 31 ∧ s.now % 256 = 0) ∧ (1 % 256 ≠ 0) ∧ (startS.core.send[(3 : Fin 32)]).wins[0]? = some ⟨0, 0⟩ := by decide

/-! ## Configuration, cells, memory units: witnesses and tests -/

/-- A staged entry commits at its wheel (R64). -/
theorem test_commit : after (.configStageEntries 0 [⟨hubAgent, 0, 5, 9, 0x8007⟩]) base (fun t => after (.stagedCommit hubAgent) t fun u =>
    liveEntry u hubAgent 0 5 9 == 0x8007) = true := by decide
theorem witness_ConfigurationStagesAndCommits : (let s := base.withFab fun f => { f with
      commits := [(hubAgent, 1)], tables := [⟨hubAgent, 0, 5, 9, 0x8001, 0x8007, true, false⟩, ⟨0, 0, 5, 9, 0x8001, 0, false, false⟩]
      aligns := [⟨hubAgent, 351, 2, true, 127, 0⟩]
      links := [⟨351, .training 0, true, [hubAgent]⟩] }
    s.fab.commits.find? (·.1 = hubAgent) = some (hubAgent, 1) ∧ s.now < wheelStart hubAgent 1 ∧ wheelStart hubAgent 1 ≤ ({ s with now := 512 } : State).now ∧
      linkOfEnd hubAgent 351 = 351 ∧ (linkAt s 351).waits.all (· == hubAgent) = true ∧
      (linkAt (modLink s 351 fun x => { x with waits := [0, hubAgent] }) 351).waits.any (· != hubAgent) = true) ∧
    (1 < 2) ∧ (let s := { base with agenda := [] }.withFab fun f => { f with readbacks := [(hubAgent, 5)] }
      s.agenda = [] ∧ s.fab.commits = [] ∧ s.fab.readbacks = [(hubAgent, 5)]) := by decide
def linkS (st : LinkState) : State := modLink base 351 fun x => { x with state := st }
theorem witness_LinksTrainAndFail : (linkAt base (351 : Fin 352).val).state = .up ∧ (linkAt (linkS (.training 0)) (351 : Fin 352).val).state = .training 0 ∧
    2 ≤ (2 : BitVec 8).toNat ∧ (128 : BitVec 8).toNat ≤ 128 ∧ ¬ (2 ≤ (129 : BitVec 8).toNat ∧ (129 : BitVec 8).toNat ≤ 128) ∧
    ¬ (2 ≤ (1 : BitVec 8).toNat ∧ (1 : BitVec 8).toNat ≤ 128) ∧ 256 * (0 + 64) ≤ ({ linkS (.training 0) with now := 16384 } : State).now ∧
    (linkS (.training 0)).now < 256 * (0 + 64) ∧ (linkAt (linkS .down) (351 : Fin 352).val).state = .down := by decide
def portS (lock : BitVec 2) (bad : Nat) : State := modPort base 15 fun p => { p with lock := lock, bad := bad }
theorem witness_PortsAndPlanesCarry : (let m := fun (t2 t4 : BitVec 64) => (BitVec.ofInt 16 ((t2.toInt + t4.toInt) / 2), BitVec.ofInt 16 ((t2.toInt - t4.toInt) / 2))
      m 506 510 = (508, 0xFFFE) ∧ m 512 506 = (509, 3)) ∧ ((508 : BitVec 16).toNat + 4 + 255) / 256 ≤ 2 ∧ 2 < ((509 : BitVec 16).toNat + 4 + 255) / 256 ∧
    (decide (-2 ≤ (0xFFFE : BitVec 16).toInt ∧ (0xFFFE : BitVec 16).toInt ≤ 2) = true) ∧ (decide (-2 ≤ (3 : BitVec 16).toInt ∧ (3 : BitVec 16).toInt ≤ 2) = false) ∧
    ((portS 2 1).fab.ports[(15 : Fin 16)]).lock = 2 ∧ 1 ≤ ((portS 2 1).fab.ports[(15 : Fin 16)]).bad ∧ ((portS 2 0).fab.ports[(15 : Fin 16)]).bad = 0 ∧
    2 ≤ ((portS 2 2).fab.ports[(15 : Fin 16)]).bad ∧ ((portS 2 0).fab.ports[(15 : Fin 16)]).lastWheel + 256 ≤ ({ portS 2 0 with now := 65536 } : State).wheel ∧
    ¬ ((portS 2 1).fab.ports[(15 : Fin 16)]).lastWheel + 256 ≤ (portS 2 1).wheel ∧ ((portS 2 1).fab.ports[(15 : Fin 16)]).retry ≤ (portS 2 1).wheel ∧
    (portS 2 1).wheel < ((modPort base 15 fun p => { p with retry := 4096 }).fab.ports[(15 : Fin 16)]).retry ∧
    circuitSlot 252 = true ∧ circuitSlot 3 = true ∧ timeSlot 130 = true ∧ (base.fab.ports[(15 : Fin 16)]).lock ≠ 2 ∧
    (let p : PlanePerm := ⟨7, [(63, 0), (5, 9)]⟩
     let s := base.withFab fun f => { f with perms := f.perms.set 3 [p] }
     (63 : Fin 64).val ≠ pkgNo s ∧ (s.fab.perms[(3 : Fin 16)]).find? (·.wheel = 7) = some p ∧ p.pairs.find? (·.1 = (63 : Fin 64).val) = some ((63 : Fin 64).val, 0)) ∧
    (63 : Fin 64).val ^^^ (63 % 64) = pkgNo base ∧ (63 : Fin 64) ≠ 0 := by decide

/-! ### Mailboxes -/

/-- Endpoint 5 armed with one flit waiting; two slots of one flit at byte 0x80. -/
def boxS (k : MboxKind) (act : Bool) : State := (strand0 base fun x => { x with run := .dormant, strole := 0x8000 }).modRecv 5 fun r =>
  { r with arming := some ⟨k, act, true, if act then 0x2000 else 0, if k = .latest then 0 else 2, 1, 0x80, 0⟩, queue := [flitX] }
/-- The flit lies in slot 0 and TAIL is 1; a LATEST mailbox names its slot in READY; an active message starts its handler. -/
theorem test_mailboxes : after (.mailboxQueueDeposit 5) (boxS .queue false) (fun t => wordAt t (tcmPa 0 0xC0) == 5 && wordAt t (tcmPa 0 0x80) == 1) = true ∧
    after (.mailboxLatestDeposit 5) (boxS .latest false) (fun t => wordAt t (tcmPa 0 0xC0) == 5 && (wordAt t (tcmPa 0 0x80)).toNat % 2 ^ 32 == 0) = true ∧
    after (.activeMessageClaim 5) (boxS .queue true) (fun t => t.st.pc == 0x2000 && t.st.run == .ready && (getW t 8).val == 5) = true := by decide
theorem witness_MailboxesDepositAndClaim : ([(MboxKind.queue, false), (.latest, false), (.queue, true)].all fun p =>
      let s := boxS p.1 p.2
      someAnd (s.core.recv[(5 : Fin 64)]).arming (fun a => a.kind == p.1 && a.act == p.2 && decide (a.base % 64 = 0) && decide (a.slotAddr a.count ≤ 0x20000) &&
        decide (1 ≤ a.f) && (p.1 == .latest || decide ((wordAt s (tcmPa 0 a.base) - wordAt s (tcmPa 0 (a.base + 8))).toNat < a.slots))) &&
      (s.core.recv[(5 : Fin 64)]).queue == [flitX] && decide ((s.core.recv[(5 : Fin 64)]).part = 0) && (s.core.recv[(5 : Fin 64)]).next.isNone &&
      s.core.waiters.isEmpty && Memory.wf s) = true ∧ flitX.last = true ∧ flitX.poison = false ∧ eligible (boxS .queue true) = some 0 ∧
    (let s := putTcm (boxS .queue false) 0x80 [2, 0]
     ¬ (wordAt s (tcmPa 0 0x80) - wordAt s (tcmPa 0 0x88)).toNat < 2) ∧
    (((boxS .queue false).modRecv 5 fun r => { r with next := some .close }).core.recv[(5 : Fin 64)]).next = some .close ∧
    (((boxS .queue false).modRecv 5 fun r => { r with next := some (.arm ⟨.latest, false, false, 0, 0, 1, 0x1FF00, 0⟩) }).core.recv[(5 : Fin 64)]).next =
      some (.arm ⟨.latest, false, false, 0, 0, 1, 0x1FF00, 0⟩) ∧ (((boxS .queue false).modRecv 5 fun r => { r with part := 1 }).core.recv[(5 : Fin 64)]).part ≠ 0 := by
  decide
theorem witness_LatestSlots : (let a : Arming := ⟨.latest, false, false, 0, 0, 1, 0x80, 0⟩
    1 ≤ a.f ∧ a.slotAddr a.count ≤ 0x20000 ∧ a.kind = .latest ∧ armingBad 0x80 0x01000000 a = false) ∧ Memory.wf (boxS .latest false) = true := by decide

/-! ### Cells, interrupts, faults -/

/-- A job of two strands of which one handles messages, entry 0x2000, argument 9, one cell on core 0. -/
def gangX : Gang := ⟨#v[0x2000, 9, 0x0880000100000001, 0, 0, 0, 0, 0], 1, 0, 5, 0, [0], 0⟩
theorem test_gang_start : after (.gangStart gangX) calm (fun t => t.st.run == .ready && t.st.pc == 0x2000 && (getW t 8).val == 9 &&
    (t.strand 1).run == .dormant && (t.strand 2).run == .absent) = true := by decide
theorem witness_CellsStartAndEnd : gangX.cores.findIdx? (· = calm.core.gcore) = some 0 ∧ calm.core.cell = none ∧
    (let s := (base.setRun 0 .halted).withCore fun c => { c with cell := some ⟨gangX, 0, 1, 0, true⟩ }
     cellDone s = true ∧ s.core.cell = some ⟨gangX, 0, 1, 0, true⟩) ∧ cellDone base = false := by decide
/-- Strand 0 with IE and every interrupt enabled; SOFT, MBOX, TIMER and SINGULAR pending in turn. -/
def intS : State := strand0 base fun x => { x with mode := 4, ien := 7, timecmp := 0xFFFFFFFFFFFFFFFF }
theorem test_interrupt : after (.interruptEntry 0) (strand0 intS fun x => { x with soft := true })
    (fun t => t.st.tepc == 0x100000 && t.st.tcause == 0x8000000000000012 && t.st.mode == 9) = true := by decide
theorem witness_InterruptsAndWindowMoves : (intS.strand 0).run = .ready ∧ (intS.strand 0).taken = false ∧ (strand0 intS fun x => { x with taken := true }).st.taken = true ∧ (strand0 intS fun x => { x with singular := [3] }).st.singular = [3] ∧
    intS.st.singular = [] ∧ intS.st.mode.getLsbD 2 = true ∧ base.st.mode.getLsbD 2 = false ∧
    ipend intS 0 = 0 ∧ (ipend (strand0 intS fun x => { x with soft := true }) 0).getLsbD 2 = true ∧
    (let s := intS.modRecv 9 fun r => { r with pend := true, arming := some ⟨.queue, false, true, 0, 1, 1, 0, 0⟩ }
     (ipend s 0).getLsbD 0 = false ∧ (ipend s 0).getLsbD 1 = true ∧ mboxPending s 0 = some 9) ∧ (ipend intS 0).getLsbD 1 = false ∧
    (ipend (strand0 intS fun x => { x with timecmp := 0 }) 0).getLsbD 0 = true ∧ ipend base 0 &&& base.st.ien = 0 ∧
    ((base.setRun 0 (.parked (.queueEmpty 0))).strand 0).run = .parked (.queueEmpty 0) ∧
    dueInterrupt ((strand0 intS fun x => { x with soft := true }).setRun 0 (.parked (.queueEmpty 0))) 0 = true ∧ dueInterrupt (base.setRun 0 (.parked (.queueEmpty 0))) 0 = false ∧
    (let s := strand0 (base.setRun 0 (.stalled .windowStores)) fun x => { x with winstate := 0x10070, owed := some .spill }
     (s.strand 0).run = .stalled .windowStores ∧ (s.strand 0).owed = some .spill ∧ (base.strand 0).owed = none ∧
       ((strand0 s fun x => { x with owed := some (.fill 0x2000 0) }).strand 0).owed = some (.fill 0x2000 0) ∧ recordBusy s 0 (s.strand 0) (owedSpill (s.strand 0)).1 = false ∧
       recordBusy s 0 (s.strand 0) (owedFill (s.strand 0)).1 = false ∧ recordPoison s (s.strand 0) (owedFill (s.strand 0)).1 = none ∧
       (let b := strand0 s fun x => { x with sb := [.store 1 ⟨tcmPa 0 0, 0, 1, 0x7F⟩ false false] }
        recordBusy b 0 (b.strand 0) (owedSpill (b.strand 0)).1 = true) ∧
       (let b := strand0 s fun x => { x with sb := [.store 1 ⟨tcmPa 0 128, 0, 1, 0x7F⟩ false false] }
        recordBusy b 0 (b.strand 0) (owedFill (b.strand 0)).1 = true)) := by decide
theorem witness_FaultsFreezeAndSendPackets : base.clu.path.length < 32 := by decide
/-- R461's packet: 0x4E28_8002 misaligned at PC 0x10_0040 on core 322 in strand 3 has GSTRAND 5155. -/
theorem test_packet : ((freeze { base with core := { base.core with gcore := 322 } } 3 5 true 0x100040 0 0 0x4E288002).clu.path.map fun p => p.words.headD 0) =
    [0x05C0000000001423] := by decide

/-! ### The memory system -/

def lineX : CLine := ⟨0x8000, Vector.replicate 8 ⟨true, true, 3, false⟩, false⟩
def fetchS (cache : List CLine) (dbb : List DbbEntry) : State :=
  { base with die := { base.die with dbb := dbb }, core := { base.core with fetches := [⟨0x8000, false, 7, 0⟩], cache := cache } }
def dbbX (kind : DbbKind) : DbbEntry := ⟨4, 0, 0, kind, ⟨0x200000, 5, 0xFF, 0x7F⟩, false, false⟩
def acqS (a : Acq) (dbb : List DbbEntry) : State := { (strand0 base fun x => { x with acq := some a }) with die := { base.die with dbb := dbb } }
def relS (sc : Scope) (sig : Signal) (wrote : Bool) (reqs : List Req) : State :=
  (strand0 base fun x => { x with sb := [.release 9 sc sig wrote false] }).withCore fun c => { c with reqs := reqs }
theorem test_line_fill : after (.cacheLineFill 0x8000) (fetchS [] []) (fun t => (cacheFind t 0x8000).isSome && t.core.fetches.isEmpty) = true := by decide
/-- Function 16 has a checkpoint that holds every granule of HBM still unwritten. -/
def ckptHeldS : State := (hubPut base (rCkpt 16 4) 0x8000000000000000).withHub fun h =>
  { h with ckpts := [⟨16, ⟨[], [], [], [], [], [], Vector.replicate 8 ⟨0, 0, 0, 0⟩⟩, [], [], [], [], false, 0⟩] }
/-- A controller with the units of ticket 4 still to serve. -/
def servingS (n : Nat) (s : State) : State := { s with hbm := [{ Pc.init 0 with reqs := [⟨0, 0, 0, 0, n, none, 0, 1, false⟩] }] }
theorem witness_LinesFill : (fetchS [] []).core.fetches = [⟨0x8000, false, 7, 0⟩] ∧ home (fetchS [] []) (64 * 0x8000) ≠ .host ∧ lineBusy (fetchS [] []) 0x8000 = false ∧
    hbmPending (fetchS [] []) 7 = false ∧ evictRoom (fetchS [] []) 0x8000 = true ∧ cacheFind (fetchS [] []) 0x8000 = none ∧ (fetchS [] []).core.refWaits = [] ∧
    cacheFind (fetchS [lineX] []) 0x8000 = some lineX ∧ lineBusy (fetchS [] [dbbX .through]) 0x8000 = true ∧ hbmPending (servingS 7 (fetchS [] [])) 7 = true := by
  decide
theorem witness_BoundaryBufferServes :
    ([DbbKind.plain, .fe true, .stf 9, .atomic 9].all fun d =>
      ((fetchS [] [dbbX d]).die.dbb.find? fun y => bankOf y.x.pa = (0 : Fin 16).val) == some (dbbX d)) = true ∧
    isHbm 0x200000 = true ∧ (dbbX .plain).sent = false ∧ ckptHolds base base.func 0x200000 = false ∧ ckptHolds ckptHeldS 16 0x200000 = true ∧
    base.func = 16 ∧ hbmPending base 4 = false ∧ hbmPending (servingS 4 base) 4 = true ∧ base.core.wbq = [] ∧
    (let r : Req := ⟨9, 0, 0, .amo ⟨0x200000, 8, false, false⟩ 0 1, true, none, 0, []⟩
     let s := base.withCore fun c => { c with reqs := [r] }
     s.core.reqs.find? (·.ticket = 9) = some r ∧ hbmPending s 9 = false) := by decide
theorem witness_AcquiresAndReleasesComplete :
    ([(true, false), (false, false), (false, true)].all fun p => ((acqS ⟨.device, false, none, p.1, p.2⟩ []).strand 0).acq == some ⟨.device, false, none, p.1, p.2⟩) = true ∧
    (base.strand 0).acq = none ∧ fullHolds base 0 = false ∧ anyDirty (writeThroughAll base 0) = false ∧
    anyDirty (writeThroughAll (base.withCore fun c => { c with cache := [lineX], wbq := List.replicate 64 (dbbX .through) }) 0) = true ∧
    throughPending (acqS ⟨.device, false, none, false, true⟩ [dbbX .through]) = true ∧ throughPending (acqS ⟨.device, false, none, false, true⟩ []) = false ∧
    ((acqS ⟨.device, false, none, false, true⟩ []).strand 0).spilled = [] ∧
    ([Signal.none, .store ⟨tcmPa 0 0, 1, 0xFF, 0x7F⟩ false, .store ⟨0x200000, 1, 0xFF, 0x7F⟩ false, .fcinc 16 0 1 none, .launch 0 5 0x40].all fun g =>
      ((relS .device g true []).strand 0).sb == [.release 9 .device g true false] && !signalWaits (relS .device g true []) g &&
      !servedHolds (relS .device g true []) 0 && !throughPending (relS .device g true []) && !strandWrites (relS .device g true []) 0) = true ∧
    ((relS .device .none false []).core.reqs = [] ∧ ((relS .device .none false []).strand 0).sb = [.release 9 .device .none false false]) ∧
    (∃ r ∈ (relS .core .none false [⟨5, 0, 0, .ldf 0 false, false, none, 0, []⟩]).core.reqs, r.strand = 0 ∧ r.ticket < 9) ∧
    signalWaits ({ relS .device (.store ⟨0x200000, 1, 0xFF, 0x7F⟩ false) true [] with core := { base.core with wbq := [dbbX .plain] } }) (.store ⟨0x200000, 1, 0xFF, 0x7F⟩ false) = true ∧
    onDie base (tcmPa 0 0) = true ∧ onDie base 0x200000 = false ∧ Scope.core ≠ .device ∧ Scope.core ≠ .system := by decide

/-- A root at 0x2000 whose first entry maps 8 GiB with every right. -/
def rootS (pte : BitVec 8) : State := { base with mem := [(0x2000, pte)], core := { base.core with ptroot := 0x2000 } }
theorem witness_TranslationFindsWalksAndInvalidates : fld base.core.ptroot 42 13 = 0 ∧ fld (rootS 0x3F).core.ptroot 42 13 ≠ 0 ∧ (rootS 0x3F).core.utlb = [] ∧
    (rootS 0x3F).clu.tlb = [] ∧ ((rootS 0x3F).strand 0).walked = [] ∧
    (∃ e, (mapped false).core.utlb = [e] ∧ e.asid = (mapped false).asid ∧ e.vmid = (mapped false).vmid ∧ e.vbase ≤ 0x3FFFFF ∧ 0x3FFFFF < e.vbase + 2 ^ e.bits) ∧
    base.clu.walks = [] ∧ (let s := { base with clu := { base.clu with walks := List.replicate 16 ⟨5, 0, 0, [1], 3, true⟩ } }
      (∀ w ∈ s.clu.walks, sameWalk s 0 w = false) ∧ 16 ≤ s.clu.walks.length) ∧
    isOk (walkVa (rootS 0x3F) (rootS 0x3F).func (rootS 0x3F).core.ptroot (0x100 * 2 ^ 13)) = true ∧
    (walkVa (rootS 0) (rootS 0).func (rootS 0).core.ptroot (0x100 * 2 ^ 13)) = .error ⟨0x100, none, 1, 1⟩ ∧
    ((base.setRun 0 (.stalled .translation)).strand 0).run = .stalled .translation ∧ ((base.setRun 0 (.stalled .tlbRemoval)).strand 0).run = .stalled .tlbRemoval := by
  refine ⟨by decide, by decide, by decide, by decide, by decide, ⟨_, rfl, by decide, by decide, by decide, by decide⟩, by decide, by decide, by decide, rfl, by decide, by decide⟩
theorem witness_UnitsServeRequests : (let q : RemoteReq := ⟨5, .amo 0, 0x1FFF8, 8, 1, 0, 0x7F⟩
    q.off < 0x20000 ∧ base.core.gcore < 12288 ∧ poisoned base (tcmPa base.core.gcore q.off) = false ∧ lowerArrives base q = false ∧
      lowerArrives (base.at 0 (.remoteRequestArrive ⟨3, .load, 0, 8, 0, 0, 0x7F⟩)) q = true ∧ base.core.remoteQ = [] ∧
      (base.withCore fun c => { c with remoteQ := [q] }).core.remoteQ ≠ [] ∧
      32 ≤ ((base.withCore fun c => { c with waiters := List.replicate 32 ⟨0, 0, .remote 3, .ldf, 0⟩ }).core.waiters.filter Waiter.isRemote).length) ∧
    base.core.waiters = [] ∧
    (let s := { base with die := { base.die with gwMsgs := [⟨17, 3, 2⟩, ⟨17, 6, 1⟩], gwNext := [(17, 3)] } }
     nextSource s 17 = some 6 ∧ s.die.gwMsgs.find? (fun m => m.gw = 17 && m.source = 6) = some ⟨17, 6, 1⟩ ∧ (17, 3) ∈ s.die.gwNext ∧
       s.die.gwNext.find? (·.1 = (17 : AgentId)) = some (17, 3) ∧ (⟨17, 6, 1⟩ : GwMsg) ∈ s.die.gwMsgs) ∧
    base.clu.bankReqs = [] ∧
    (([(15, 2), (2, 15), (3, 3)] : List (Nat × Nat)).all fun p =>
      let s := { base with clu := { base.clu with bankReqs := [⟨63, p.1, .load 5⟩, ⟨63, p.2, .engine 6⟩] } }
      let behind := fun (n : Nat) => (n + 16 - (s.clu.bankNext[(63 : Fin 64)]).val) % 16
      s.clu.bankReqs == [⟨(63 : Fin 64).val, p.1, .load 5⟩, ⟨(63 : Fin 64).val, p.2, .engine 6⟩] &&
        decide (behind p.2 < behind p.1 ∨ behind p.1 < behind p.2 ∨ p.1 = p.2 ∧ (BankUser.load 5).rank < (BankUser.engine 6).rank)) = true ∧
    (let r : SramReq := ⟨63, 0, 3, .load 5⟩
     let q : SramReq := ⟨63, 0, 4, .load 6⟩
     r.bank = (63 : Fin 64).val ∧ r.arrive ≤ base.now ∧ base.now < (⟨63, 1, 3, .load 5⟩ : SramReq).arrive ∧ (r.arrive = q.arrive ∧ r.gcore < q.gcore)) ∧
    (let r : Req := ⟨5, 0, 0, .amo ⟨0x200000, 8, false, false⟩ 0 1, true, none, 0, []⟩
     base.core.reqs = [] ∧ (∃ q ∈ (base.withCore fun c => { c with reqs := [r] }).core.reqs, q.ticket = r.ticket) ∧ poisoned base 0x200000 = false) ∧
    (base.clu.atomNext ≤ base.now ∧ (let s := { base with clu := { base.clu with atomNext := 2, atomReqs := [⟨0, 3, .plain 5 (.load 5)⟩] } }
      s.now < s.clu.atomNext ∧ s.clu.atomReqs ≠ [])) ∧
    ((⟨0, 3, .plain 5 (.load 5)⟩ : AtomReq).arrive < (⟨1, 2, .plain 6 (.load 5)⟩ : AtomReq).arrive) := by decide

/-! ## Controllers and the exchange: witnesses -/

def pcS (f : Pc → Pc) : State := modPc base 511 fun x => f { x with training := false }
/-- A class 3 read of core 0 at pseudo-channel 511 in bank 0, ready now. -/
def readX : HReq := ⟨3, 0, 0, 511 * 1024, 5, none, 0, 1, false⟩
/-- UNITS n for class 3 and m for class 13. -/
def unitS (s : State) (n m : Word) : State := hubPut (hubPut s (rBudget 511 3) n) (rBudget 511 13) m
def exactS (s : State) : State := hubPut s (rPart 0 0) 0xC000000000000000
theorem witness_ControllersServeByUnits :
    (let s := pcS fun x => { x with training := true }
     pcHeld s ((findPc s 511).roll (dieWheel s.now)) = true) ∧
    (let s := unitS (pcS fun x => { x with reqs := [readX] }) 1 0
     let x := (findPc s 511).roll (dieWheel s.now)
     pcHeld s x = false ∧ x.reqs = [readX] ∧ readyReq s x readX = true ∧ x.used < 96 ∧ x.charged[readX.cls] < unitsOf s 511 readX.cls.val ∧ readX.cls.val ≤ 13 ∧
       readX.units ≤ 1 ∧ readX.write = false ∧ readX.gcore = s.core.gcore) ∧
    (let s := unitS (pcS id) 0 1
     let x := (findPc s 511).roll (dieWheel s.now)
     pcHeld s x = false ∧ x.reqs = [] ∧ x.charged[(13 : Fin 16)] < unitsOf s 511 13) ∧
    (let s := unitS (pcS fun x => { x with reqs := [readX] }) 0 0
     let x := (findPc s 511).roll (dieWheel s.now)
     unitsOf s 511 3 ≤ x.charged[readX.cls] ∧ unitsOf s 511 13 ≤ x.charged[(13 : Fin 16)] ∧ claimsLeft s x ≤ 96 - (x.used + 1) ∧ exactPc s 511 = false ∧
       exactPc (exactS s) 511 = true ∧ dieTurn readX.arrive = dieTurn s.now ∧ dieTurn readX.arrive < dieTurn ({ s with now := 1024 } : State).now) ∧
    (let e : ScrubRead := ⟨7, 13, 5, none⟩
     let x := findPc (pcS fun x => { x with scrubRead := [e] }) 511
     (x.scrubRead.find? fun y => y.granule = 7 && !x.reqs.any fun r => r.ticket = y.ticket) = some e ∧ (findPc base 511).scrubRead = []) ∧
    (let s := unitS (pcS fun x => { x with busy := Vector.replicate 16 560 }) 0 1
     let x := (findPc s 511).roll (dieWheel s.now)
     s.now < x.busy[hbmBank s (granuleAddr s 511 x.scrub)] ∧ pcHeld s x = false ∧ x.charged[(13 : Fin 16)] < unitsOf s 511 13) := by decide
/-- A table of 96 units with a unit for class 12, one of 97, and one with none for class 12. -/
def budgetS (c12 c0 : Word) : State :=
  hubPut (hubPut (hubPut base (rBudget 511 12) (c12 <<< 8)) (rBudget 511 0) (c0 <<< 8)) (rBudgetCommit 511) 0x8000000000000000
theorem witness_BudgetsCommitAtTheirWheel : (hubGet base (rBudgetCommit 511)).getLsbD 63 = false ∧
    base.now < 256 * fld (hubGet (hubPut base (rBudgetCommit 511) 0x8000000000000001) (rBudgetCommit 511)) 55 0 + 128 ∧
    ((hubGet (budgetS 1 95) (rBudgetCommit 511)).getLsbD 63 = true ∧ 256 * fld (hubGet (budgetS 1 95) (rBudgetCommit 511)) 55 0 + 128 ≤ ({ budgetS 1 95 with now := 128 } : State).now) ∧
    96 < ((List.range 16).map (stagedOf (budgetS 60 60) 511)).foldl (· + ·) 0 ∧
    (((List.range 16).map (stagedOf (budgetS 1 (96 - (((List.range 16).map (stagedOf (budgetS 1 0) 511)).foldl (· + ·) 0 : Nat))) 511)).foldl (· + ·) 0 ≤ 96) ∧
    stagedOf (budgetS 1 95) 511 12 ≠ 0 ∧ stagedOf (budgetS 0 0) 511 12 = 0 ∧ stagedOf (budgetS 1 95) 511 0 ≠ 0 ∧
    (findPc (pcS fun x => { x with selfRef := true }) 511).selfRef = true ∧ (findPc (pcS fun x => { x with selfRef := true }) 511).exitAt = none := by decide
theorem witness_RefreshKeepsItsTicks :
    (let r := fun (s : State) => (findPc s 511).roll (dieWheel s.now)
     (r (pcS fun x => { x with training := true })).training = true ∧ (r (pcS id)).training = false ∧ (r (pcS id)).selfRef = false ∧ exactPc (pcS id) 511 = false ∧
       pendingBank (pcS id) (r (pcS id)) 0 = false ∧ pendingAny (pcS id) (r (pcS id)) = false ∧ (r (pcS id)).owedList = [] ∧
       (let s := pcS fun x => { x with owedList := [5], owed := 1 }
        (r s).owedList = [(5 : Fin 16).val] ∧ (5 : Fin 16) ≠ 0 ∧ pendingBank s (r s) 0 = false ∧ pendingAny s (r s) = false) ∧
       (let s := pcS fun x => { x with reqs := [readX], owed := 7 }
        pendingBank s (r s) 0 = true ∧ (r s).owed < 8) ∧ (let s := pcS fun x => { x with reqs := [readX], owed := 8 }
        pendingBank s (r s) 0 = true ∧ 8 ≤ (r s).owed) ∧ exactPc (exactS (pcS id)) 511 = true ∧
       (let s := pcS fun x => { x with selfRef := true, exitAt := some 768 }
        (r s).selfRef = true ∧ (r s).exitAt.isSome = true)) ∧
    (let s := { hubPut (unitS (pcS id) 0 0) (rSridle 511) 1 with now := 256 }
     fld (hubGet s (rSridle 511)) 7 0 ≠ 0 ∧ ((List.range 16).all fun c => c = 12 || c = 13 || unitsOf s 511 c = 0) = true ∧ waitingAny s (findPc s 511) = false ∧
       (findPc s 511).idle + 256 * fld (hubGet s (rSridle 511)) 7 0 ≤ s.now) ∧ ¬ (fld (hubGet base (rSridle 511)) 7 0 ≠ 0) ∧
    (let s := pcS fun x => { x with selfRef := true, lateTick := [5, 6] }
     (findPc s 511).selfRef = true ∧ (5 : Fin 16).val ∈ (findPc s 511).lateTick ∧ (findPc base 511).selfRef = false ∧
       (findPc (modPc s 511 fun x => { x with exitAt := some 0 }) 511).exitAt = some 0 ∧ 0 ≤ s.now ∧
       (findPc (modPc s 511 fun x => { x with exitAt := some 768 }) 511).exitAt = some 768 ∧ s.now < 768) ∧
    (findPc (pcS id) 511).training = false := by decide
theorem witness_LanesAreRepairedAndTrained : fld (hubGet base (rLane 255)) 23 16 = 0xFF ∧
    (let s := hubPut base (rLane 255) 0xFF050000
     fld (hubGet s (rLane 255)) 23 16 ≠ 0xFF ∧ fld (hubGet s (rLane 255)) 31 24 = 0xFF) ∧
    (let s := hubPut base (rLane 255) 0x06050000
     fld (hubGet s (rLane 255)) 23 16 ≠ 0xFF ∧ fld (hubGet s (rLane 255)) 31 24 ≠ 0xFF) ∧ exactPc base 511 = false := by decide

def postX (cap : Bool) (close : BitVec 56) : Post := ⟨cap, 5, 0, close, [64, 128], 4, 0x1000, some 7⟩
def roundX : Round := { Round.fresh 5 with counted := true, close := 1, buf := some 0x1000, demHandles := [3], capHandles := [7] }
def roundS (f : Round → Round) : State := base.withHub fun h => { h with rounds := [f roundX] }
def calX : Calendar := ⟨5, 0, [((0, 0), 2)], [⟨[(0, 0)], 1, 9⟩], 11, 1⟩
/-- The lowest CLOSE that is not late is 1. -/
theorem witness_PostsAreCountedAndClosed : ((postX true 0).close.toNat ≤ base.wheel) ∧ base.wheel < (postX true 1).close.toNat ∧ findRound base 5 = none ∧
    (findRound (roundS id) 5 = some roundX ∧ postDiffers roundX (postX true 1) = false ∧ postDiffers roundX (postX true 2) = true ∧ roundX.counted = true ∧
      owlRuns (roundS id) = true) ∧ owlRuns (base.withHub fun h => { h with owlActive := false }) = false ∧
    findRound base (firstOf 5) = none ∧
    (let s := base.withHub fun h => { h with rounds := [{ roundX with cal := some calX }, { Round.fresh 0x8005 with cal := some calX }] }
     findRound s (firstOf 0x8005) = some { roundX with cal := some calX } ∧ grantedBoth s (firstOf 0x8005) = some 4) := by decide
/-- R233's grants: 10, 3 and 7 asked of 9 give 4, 3 and 2... each its equal share first, the rest by ascending package. -/
theorem test_grants : grantColumn 9 [(0, 10), (1, 3), (2, 7)] = [(0, 3), (1, 3), (2, 3)] ∧ grantColumn 10 [(0, 10), (1, 3), (2, 7)] = [(0, 4), (1, 3), (2, 3)] ∧
    grantColumn 20 [(0, 10), (1, 3), (2, 7)] = [(0, 10), (1, 3), (2, 7)] := by decide
def rowX : OwlRow := ⟨5, 0, 1, 0, [2], 4, 9, 1⟩
theorem witness_OwlGrantsAndSchedules : ([(0, 10), (1, 3)] : List (Nat × Nat))[1]? = some (1, 3) ∧ (grantColumn 9 [(0, 10), (1, 3)])[1]? = some (1, 3) ∧
    9 < (([(0, 10), (1, 3)] : List (Nat × Nat)).map (·.2)).sum ∧
    (let s := base.withHub fun h => { h with rows := [rowX] }
     s.hub.rows.filter (·.round = 5) ++ ([] : List OwlRow).filter (fun r => r.round = 5 && r.pkg < 64) = [rowX] ∧ owlRuns s = true ∧ s.hub.owlUp = true ∧
       roundFormed s 5 = false ∧ s.wheel + 1 < rowX.start ∧ s.now < 256 * (rowX.start - 4) + 255 ∧
       256 * (rowX.start - 4) + 255 ≤ ({ s with now := 1535 } : State).now ∧ ({ s with now := 1535 } : State).wheel + 1 < rowX.start ∧
       rowX.start ≤ ({ s with now := 2048 } : State).wheel + 1 ∧ roundFormed (s.withHub fun h => { h with formed := [(5, 9)] }) 5 = true ∧
       (∃ x ∈ s.hub.rows, x.round = 5 ∧ x.pkg = pkgNo s ∧ x.close = roundX.close)) ∧ calendarPerms calX ≠ [] ∧
    (base.withHub fun h => { h with owlUp := false }).hub.owlUp = false ∧
    base.hub.rows.filter (·.round = 5) = [] := by decide
theorem witness_CalendarsRunTheirRounds : roundX.lapsed = false ∧ roundX.cal = none ∧ ({ roundX with lapsed := true } : Round).lapsed = true ∧
    ((roundS fun r => { r with cal := some calX }).hub.rounds = [{ roundX with cal := some calX }]) ∧ calX.phases[0]? = some ⟨[(0, 0)], 1, 9⟩ ∧
    roundX.run = none ∧ isSecond 5 = false ∧ isSecond 0x8005 = true ∧ findRound base 5 = none ∧
    (let s := roundS fun r => { r with cal := some calX }
     let x : XRecord := ⟨5, 0, 1, [1, 2], []⟩
     Memory.wf s = true ∧ s.hub.ckpts = [] ∧ portsCarry s x.src = true ∧ notLive s x = false ∧ portsCarry s 1 = false ∧ findRound s (firstOf x.round) = some { roundX with cal := some calX } ∧ roundX.buf = some 0x1000 ∧
       0x1000 + rsizeOf calX.rcode * recordPlace s x.round calX x.src x.index + rsizeOf calX.rcode ≤ Config.sramBase) := by decide
theorem witness_OwlFailsOver : (let s := { base with now := 512 }
    owlRuns s = true ∧ s.hub.owlStandby = true ∧ s.hub.heartbeat + 2 ≤ s.now / 256) ∧ ¬ (base.hub.heartbeat + 2 ≤ base.now / 256) := by decide

/-! ## Launch, slices and swaps: witnesses and tests -/

/-- A job of 1 cell and 4 gangs of one strand; one of 40 cells. -/
def jobQ (cells : Nat) : Vector Word 8 := #v[0x2000, 0, word (2 ^ 54 + cells * 2 ^ 32 + 4), 0, 0, 0, 0, 0]
/-- Queue 5 of function 1 and process 0, 16 records at 0x8000, with the given HEAD and TAIL; function 1 runs on partition 0 with weight 1, SLICE 2 and DRAIN 3;
partition 0 holds clusters 0 and 96, of dies 0 and 1. -/
def queueS (head tail : Nat) : State :=
  let s := hubPut base (rQueue 5 0) (word (2 ^ 47 + 2 ^ 48 + 0x8000))
  let s := hubPut s (rQueue 5 1) (word (head * 2 ^ 32 + tail))
  let s := hubPut s (rFunc 1 0) (word (2 ^ 48 + 2))
  let s := hubPut s (rFunc 1 1) 3
  let s := hubPut s (rFunc 1 3) 1
  let s := hubPut s (rPart 0 0) 0x8000000000000000
  let s := hubPut s (rPart 0 1) 1
  hubPut s (rPart 0 2) 0x100000000
/-- The same with function 2 on the partition too. -/
def twoS : State := hubPut (queueS 0 0) (rFunc 2 0) (word (2 ^ 48 + 2))
def runP (s : State) (f : PartRun → PartRun) : State := modPart s 0 fun x => f { x with func := some 1 }
def inReset (s : State) : State := s.withHub fun h => { h with resetting := [(1, 9)] }
def gangQ : GangRun := ⟨0, 1, 5, 0, 0, [0], false, true⟩
def gangO : GangRun := ⟨0, 1, 5, 0, 0, [0], true, false⟩
def withGang (g : GangRun) (s : State) : State := s.withHub fun h => { h with gangs := [g] }
/-- Gangs 0 to 3 of the job wait in die d's table. -/
def depS (d cells : Nat) : State := runP ((queueS 1 1).withHub fun h => { h with
  deps := [⟨0, d, 5, 0, 0, 4⟩], jobs := [⟨0, 1, 5, 0, jobQ cells, 0, false, false⟩], among := [(0, 1, 0)] }) id

/-- 16 records of the ring: with 16 in it nothing fits, and TAIL 3 moves to 16 at most (R276). -/
theorem test_enqueue : after (.enqueue 5 16 1) (queueS 0 3) (fun t => qTail t 5 == 16) = true ∧
    after (.enqueue 5 17 1) (queueS 0 3) (fun t => qTail t 5 == 3) = true := by decide +kernel
theorem witness_EnqueuesMoveTheTail : (inReset (queueS 0 0)).hub.resetting.any (·.1 = (1 : Fin 17)) = true ∧
    (queueS 0 0).hub.resetting.any (·.1 = (1 : Fin 17)) = false ∧ qFunc (queueS 0 0) 5 = (1 : Fin 17).val ∧
    qCount (queueS 4294967295 3) 5 + 12 = qSize (queueS 4294967295 3) 5 ∧ qSize (queueS 4294967295 3) 5 < qCount (queueS 4294967295 3) 5 + 13 ∧
    fnParts (queueS 0 0) 1 ≠ [] ∧ partDies (queueS 0 0) 0 = [0, 1] ∧ ((2 : Fin 17).val ≠ 16 ∧ qFunc (queueS 0 0) 5 ≠ (2 : Fin 17).val) ∧
    (inReset (queueS 0 0)).hub.resetting.any (fun f => f.1.val = qFunc (queueS 0 0) 5) = true ∧
    qSize (queueS 0 16) 5 ≤ qCount (queueS 0 16) 5 ∧ qCount (queueS 0 15) 5 < qSize (queueS 0 15) 5 ∧ Memory.wf (queueS 0 15) = true ∧
    qRecord (queueS 0 15) 5 15 + 64 ≤ Config.sramBase := by decide +kernel
theorem witness_DispatchersPlaceGangs : partValid base 0 = false ∧ partValid (depS 1 1) 0 = true ∧ (partDies (depS 1 1) 0).headD 0 ≠ 1 ∧
    ((base.hub.parts[(0 : Fin 16)]).func = none) ∧ ((runP base fun x => { x with drainFrom := some 0 }).hub.parts[(0 : Fin 16)]).drainFrom.isSome = true ∧
    (let s := depS 1 1
     let c : Cand := ⟨5, 0, jobQ 1, 0⟩
     (s.hub.parts[(0 : Fin 16)]).func = some 1 ∧ (s.hub.parts[(0 : Fin 16)]).drainFrom = none ∧ (s.hub.parts[(0 : Fin 16)]).pinned = none ∧ fnHeld s 1 = false ∧
       headsOf s 0 1 1 = [c] ∧ 0 < fnWeight s 1 (qProc s 5) ∧ placeJob s 0 1 (jobQ 1) = some [1536] ∧ (fin16 0, (1 : Fin 17), fin16 (qProc s 5)) ∈ s.hub.among) ∧
    (let s := depS 0 40
     headsOf s 0 1 0 = [⟨5, 0, jobQ 40, 0⟩] ∧ placeJob s 0 0 (jobQ 40) = none) ∧
    (let y : Try := ⟨5, 0, 0, 64, 9⟩
     let s := runP base fun x => { x with tries := [y] }
     (s.hub.parts[(0 : Fin 16)]).tries = [y] ∧ (s.hub.parts[(0 : Fin 16)]).pinned = none ∧ y.isOf ⟨5, 0, jobQ 40, 0⟩ = true ∧
       [y].find? (fun z => decide (64 ≤ z.count)) = some y ∧ (⟨5, 0, 0, 63, 9⟩ : Try).count < 64) ∧
    (let s := runP (depS 1 1) fun x => { x with pinned := some (6, 0, 0) }
     (s.hub.parts[(0 : Fin 16)]).pinned = some (6, 0, 0) ∧ headsOf s 0 1 1 = [⟨5, 0, jobQ 1, 0⟩]) ∧
    partExact (hubPut base (rPart 0 0) 0xC000000000000000) 0 = true ∧ (2 : Fin 8).val ∉ partDies (depS 1 1) 0 ∧ partExact (depS 1 1) 0 = false ∧
    (0 : Fin 8).val ∈ partDies (depS 1 1) 0 ∧ (depS 1 1).hub.deps = [⟨0, 1, 5, 0, 0, 4⟩] ∧ 2 ≤ 4 - 0 ∧ ¬ (2 ≤ 1 - 0) := by decide +kernel
/-- The upper half of gangs 0 to 3 is 2 and 3 (R256). -/
theorem test_steal : after (.dieSteal 0 0) (depS 1 1) (fun t => t.hub.deps == [⟨0, 1, 5, 0, 0, 2⟩, ⟨0, 0, 5, 0, 2, 4⟩]) = true := by decide +kernel

def denQ (c : Option Core) (gs : List GangRun) (written : Bool) : DenCtx :=
  ⟨0, 1, gs, c, false, ⟨[], [], [], [], [], [], State.reset.clu.loops⟩, State.reset.clu.bars, [], written, none⟩
def withDen (d : DenCtx) (s : State) : State := s.withHub fun h => { h with dens := [d] }
/-- The save area of queue 5 lies at an address in no memory. -/
def badArea (s : State) : State := { hubPut s (rQueue 5 3) 0x4000 with mem := [(0x4000 + 45, 0x07)] }
def heldS (s : State) : State := hubPut s (rCtx 0 0) 0x8000000000000000
theorem witness_SlicesEnd : (base.hub.parts[(0 : Fin 16)]).func = none ∧ (let s := runP (queueS 0 0) id
      eligibleFns s 0 = [1] ∧ (s.hub.parts[(0 : Fin 16)]).drainFrom = none) ∧
    (let s := runP twoS id
     eligibleFns s 0 ≠ [1] ∧ dieWheel 128 < (s.hub.parts[(0 : Fin 16)]).sliceAt + fnSlice s 1 ∧
       (s.hub.parts[(0 : Fin 16)]).sliceAt + fnSlice s 1 ≤ dieWheel 640 ∧ fnDrain s 1 ≠ 0 ∧
       gangsOn (withGang gangQ s) 0 1 ≠ []) := by decide +kernel
theorem witness_ForcedSwaps : (let s := runP (queueS 0 0) fun x => { x with drainFrom := some 7 }
     (s.hub.parts[(0 : Fin 16)]).drainFrom = some 7 ∧ gangsOn s 0 1 = [] ∧ gangsOn (withGang gangQ s) 0 1 = [gangQ] ∧
       denTight (withGang gangQ s) [gangQ] 1 = false ∧ saveBase (withGang gangQ s) [gangQ] = 0 ∧ savePage (withGang gangQ s) 1 0 = none ∧
       drainOver { s with now := 2688 } (s.hub.parts[(0 : Fin 16)]) 1 = true ∧ drainOver { s with now := 2432 } (s.hub.parts[(0 : Fin 16)]) 1 = false ∧
       (preflight (badArea (withGang gangQ s)) 1 (saveBase (badArea (withGang gangQ s)) [gangQ]) (saveSpan [gangQ])).isSome = true) ∧
    (let s := withGang gangO (runP base id)
     (∃ g ∈ gangsOn s 0 1, g.own = true) ∧ s.core.spill = none ∧ (let t := s.withCore fun c => { c with spill := some [] }
       t.core.spill.isSome = true ∧ coreIdle t = true ∧ coreIdle (t.withCore fun c => { c with reqs := [⟨5, 0, 0, .amo ⟨0x200000, 8, false, false⟩ 0 1, true, none, 0, []⟩] }) = false)) ∧
    (∀ g ∈ gangsOn (withGang gangQ (runP base id)) 0 1, g.own = false) := by decide +kernel
theorem witness_Preflight : (let s := runP (queueS 0 0) id
    preflight s 1 (saveBase s [gangQ]) (saveSpan [gangQ]) = none) := by decide +kernel
theorem witness_SaveAndResume : unwritten base 0 = none ∧ (let d := denQ none [gangQ] false
      let s := withDen d (queueS 0 0)
      unwritten s 0 = some d ∧ preflight s 1 (saveBase s d.gangs) (saveSpan d.gangs) = none) ∧
    (let d := denQ none [gangQ] true
     let s := withDen d (runP (queueS 0 0) id)
     (∀ d ∈ (runP (queueS 0 0) id).hub.dens, d.part = 0 → d.func ≠ 1) ∧ s.hub.dens = [d] ∧ d.gangs = [gangQ] ∧ gangQ.own = false ∧ gangQ.others = true) ∧
    (let c := { Core.reset with strands := Vector.replicate 16 { Strand.absent with run := .ready } }
     let d := denQ (some c) [gangO] true
     (withDen d (runP (queueS 0 0) id)).hub.dens = [d] ∧ d.big = false ∧ d.ring = [] ∧ c.reqs = [] ∧ (∀ k : Fin 16, (c.strands[k]).run = .ready) ∧
       gangO.own = true ∧ gangO.others = false) := by decide +kernel
theorem witness_SystemConfigurationAndPower : (∃ p < 16, partValid (queueS 0 0) p = true) ∧ (∀ p < 16, partValid base p = false) ∧ fld (2 : Word) 1 0 ≠ 3 ∧
    fld (3 : Word) 1 0 = 3 ∧ ((portS 2 1).fab.ports[(15 : Fin 16)]).lock = 2 ∧ (∀ p : Fin 16, (base.fab.ports[p]).lock ≠ 2) ∧
    (let s := hubPut (hubPut base (rPart 0 0) 0xC000000000000000) (rPart 15 0) 0x8000000000000000
     partExact s 0 = true ∧ partValid s (15 : Fin 16).val = true ∧ partExact s (15 : Fin 16).val = false ∧ (1, (15 : Fin 16)) ∉ s.hub.withheld) ∧
    partValid (queueS 0 0) (0 : Fin 16).val = true ∧ partExact (queueS 0 0) (0 : Fin 16).val = false := by decide +kernel
/-- The cap is clamped to 1,200-2,600 W (R288). -/
theorem test_pwrcap : after (.pwrcapWrite 100) base (fun t => hubGet t rPwrcap == 1200) = true ∧
    after (.pwrcapWrite 0xFFF) base (fun t => hubGet t rPwrcap == 2600) = true := by decide
/-- Another function's failed save holds 144 granules in the den of cluster 0, whose scratchpad holds 256. -/
def tightS : State :=
  let img : Image := ⟨[1], [0], (List.range 144).map fun i => (spadPa 0 (8192 * i), 1), [], [], [], State.reset.clu.loops⟩
  let s := heldS (withDen { denQ none [gangQ] false with func := 2, img := img } (withGang gangQ (runP (queueS 0 0) fun x => { x with drainFrom := some 7 })))
  { s with now := 2688, mem := (List.range 256).map fun i => (spadPa 0 (8192 * i), 1) }
theorem witness_DensAreTight : denTight tightS [gangQ] 1 = true ∧ gangClusters [gangQ] = [0] ∧ overDen tightS [0] [0] 0 = true ∧
    drainOver tightS (tightS.hub.parts[(0 : Fin 16)]) 1 = true ∧ gangsOn tightS 0 1 = [gangQ] := by decide +kernel
theorem witness_ImagesComeBack : (let d : DenCtx := { denQ none [] true with img := ⟨[0], [0], [(spadPa 0 8, 7), (tcmPa 0 0x40, 5)], [], [], [], State.reset.clu.loops⟩ }
    (withDen d (runP (queueS 0 0) id)).hub.dens = [d] ∧ d.core = none ∧ d.gangs = [] ∧ cellsWf memDflt d.img.mem = true ∧ Memory.wf (queueS 0 0) = true ∧
      (d.img.cores.all fun c => decide (c < 12288)) = true ∧ (d.img.clusters.all fun g => decide (g < 768)) = true ∧
      (d.img.mem.all fun x => onChip d.img.cores d.img.clusters x.1) = true) ∧
    (let d : DenCtx := { denQ none [gangQ] false with saving := some 4 }
     d.saving = some 4 ∧ hbmPending (servingS 4 base) 4 = true ∧ hbmPending base 4 = false ∧ (denQ none [gangQ] false).saving = none) := by decide +kernel

/-! ## Recovery, the host and the package: witnesses and tests -/

theorem test_s2inv : after (.s2invDone 1) (hubPut base (rS2inv 1) 2) (fun t => hubGet t (rS2inv 1) == 0) = true := by decide
theorem witness_StageTwoInvalidations : (let s := { base.setRun 3 (.stalled .translation) with clu := { base.clu with walks := [⟨5, 0, vmidOf base 1, [3], 0, true⟩] } }
    ∃ w ∈ s.clu.walks, w.vmid = vmidOf s 1 ∧ (3 : Fin 16) ∈ w.waiters ∧ (s.strand 3).run = .stalled .translation) :=
  ⟨⟨5, 0, vmidOf base 1, [3], 0, true⟩, by decide, by decide, by decide, by decide⟩

def nonceS (tok : Word) : State := (hubPut base rLcommit (tok ||| 0x100000000)).withHub fun h => { h with nonce := 7 }
def armedS (w : Nat) (s : State) : State := s.withHub fun h => { h with armed := some w }
/-- A token that is not the nonce arms nothing; the nonce arms the flip two wheels on (R283). -/
theorem test_layout : after (.lcommitArm 0) (nonceS 7) (fun t => t.hub.armed == some 2) = true ∧
    after (.lcommitArm 0) (nonceS 8) (fun t => t.hub.armed == none) = true := by decide
theorem witness_LayoutsAreStagedAndFlipped : (staged (nonceS 7) = true ∧ (hubGet (nonceS 7) rLcommit).setWidth 32 = (nonceS 7).hub.nonce) ∧
    ¬ (hubGet (nonceS 8) rLcommit).setWidth 32 = (nonceS 8).hub.nonce ∧ base.hub.armed = none ∧
    ((armedS 2 base).hub.armed = some 2 ∧ (armedS 2 base).now / 256 < 2 ∧ 2 ≤ ({ armedS 2 base with now := 512 } : State).now / 256) := by decide
/-- Partition 0 is armed to have no cluster; cluster 0 is armed for partition 1 too. -/
def movingS (s : State) : State := s.withHub fun h => { h with armed := some 2, armedHalves := [(rPart 0 0, 0)] }
def twiceS (s : State) : State := s.withHub fun h => { h with armed := some 2, armedHalves := [(rPart 1 0, 0x8000000000000000), (rPart 1 1, 1)] }
theorem witness_LayoutsMove : movedClusters base = [] ∧
    (let s := movingS (withGang gangQ (queueS 0 0))
     ∃ g ∈ movedClusters s, g ∈ heldClusters s) ∧ layoutSound (armedS 2 (queueS 0 0)) = true ∧
    layoutSound (twiceS (queueS 0 0)) = false := by
  refine ⟨by decide +kernel, ⟨0, by decide +kernel, by decide +kernel⟩, by decide +kernel, by decide +kernel⟩

/-- A jay of 4 records at 0x9000 under REPLAY, with one of a withheld wheel 6 logged at time 0 (R285). -/
def jayS (kind : Nat) : State :=
  let s := hubPut (hubPut (hubPut (hubPut base (rJay 15 0) 0x9000) (rJay 15 1) 4) (rJay 15 2) 1) (rJay 15 3) 0x4000000000000000
  { s with mem := [(0x9008, 8), (0x900F, BitVec.ofNat 8 kind), (0x9018, 6)] }
theorem test_replay : after (.jayReplayInput 15) (jayS 5) (fun t => t.hub.withheld == [(6, 15)]) = true := by decide
theorem witness_JaysReplayTheirInputs : (let s := jayS 5
    (hubGet s (rJay (15 : Fin 16).val 3)).getLsbD 62 = true ∧ replayNext s 15 < (hubGet s (rJay (15 : Fin 16).val 2)).toNat ∧
      ((jayRecord s (15 : Fin 16).val 0).headD 0).toNat + 256 * fld (hubGet s (rJay (15 : Fin 16).val 4)) 55 0 ≤ s.now ∧
      fld ((jayRecord s (15 : Fin 16).val 0).getD 1 0) 63 56 = 5) ∧ fld ((jayRecord (jayS 2) (15 : Fin 16).val 0).getD 1 0) 63 56 ∉ [1, 4, 5] ∧
    ¬ (hubGet base (rJay (15 : Fin 16).val 3)).getLsbD 62 = true := by decide

def flrS (w now step : Nat) : State := { hubPut (base.withHub fun h => { h with resetting := [(1, w)] }) (rFlr 1) (word (2 ^ 63 + step)) with now := now }
theorem test_flr : after (.flrRequest 1) base (fun t => hubGet t (rFlr 1) == 0x8000000000000001 && t.hub.resetting == [(1, 1)]) = true := by decide
theorem witness_ResetsClear : Memory.wf base = true ∧ outlives 0x8000 = true ∧ outlives Config.spadBase = false ∧ (16 : Fin 17).val = 16 ∧ (1 : Fin 17).val ≠ 16 ∧
    ((1, 9) ∈ (flrS 9 0 1).hub.resetting) ∧ base.hub.resetting = [] ∧ (flrS 9 0 1).hub.resetting = [(1, 9)] ∧ (flrS 9 0 1).now / 256 < 9 + 2 ∧
    (9 + 2 ≤ (flrS 9 2816 1).now / 256 ∧ flrStep (flrS 9 2816 1) 1 = 1 ∧ flrStep (flrS 9 2816 2) 1 = 2 ∧ flrStep (flrS 9 2816 3) 1 = 3 ∧
      fnPending (flrS 9 2816 2) 1 = false ∧ (flrS 9 2816 2).now / 256 < 9 + 66 ∧ 9 + 66 ≤ (flrS 9 19200 2).now / 256) ∧
    (let s := { flrS 9 2816 2 with core := { base.core with wbq := [dbbX .plain], cell := some ⟨gangX, 0, 1, 0, true⟩ } }
     s.func = (1 : Fin 17).val ∧ fnPending s 1 = true) := by decide

/-- A packet of core 322 and one of this core's, whose buddy is core b. -/
def pathS (b : Nat) : State :=
  let s := hubPut base (rPair 0 0) (word (128 + b))
  { s with clu := { s.clu with path := [⟨0, [5, 1, 2, 3, 4, 5, 6, 7], 1, 0⟩] }, core := { s.core with fqcfg := word (2 * 2 ^ 48 + 0x1FF40), cell := some ⟨gangX, 0, 1, 0, true⟩ } }
/-- The packet's first word takes number 0, and TAIL becomes 1 (R470). -/
theorem test_packet_deposit : after .faultPacketDeposit (pathS 0) (fun t => wordAt t (tcmPa 0 0x1FF80) == 5 && wordAt t (tcmPa 0 0x1FFB8) == 7 &&
    wordAt t (tcmPa 0 0x1FF40) == 1) = true := by decide
theorem witness_PacketsArrive : base.clu.path = [] ∧ (let s := pathS 0
    s.clu.path = ⟨0, [5, 1, 2, 3, 4, 5, 6, 7], 1, 0⟩ :: [] ∧ s.func = 1 ∧ 128 ≤ pairByte s 0 ∧ 0 / 16 * 16 + pairByte s 0 % 16 = s.core.gcore ∧ fld s.core.fqcfg 55 48 = 2 ∧
      s.core.cell.isSome = true ∧ (wordAt s (tcmPa 0 0x1FF40) - wordAt s (tcmPa 0 0x1FF48)).toNat < 2 ∧ Memory.wf s = true ∧ s.core.gcore < 12288 ∧
      s.core.waiters = [] ∧ fld s.core.fqcfg 16 0 = 0x1FF40 ∧ 0x1FF40 % 8 = 0 ∧ 0x1FF40 + 64 + 64 * 2 ≤ 0x20000) ∧
    2 ≤ (wordAt (putTcm (pathS 0) 0x1FF40 [2]) (tcmPa 0 0x1FF40) - wordAt (putTcm (pathS 0) 0x1FF40 [2]) (tcmPa 0 0x1FF48)).toNat ∧
    ¬ (0 / 16 * 16 + pairByte (pathS 9) 0 % 16 = (pathS 9).core.gcore) := by decide
def frozenS : State := base.setRun 0 .frozen
theorem witness_StrandsAreDebugged : (base.strand 0).run ≠ .frozen ∧ (frozenS.strand 0).run = .frozen ∧ (frozenS.strand 0).tpend = none ∧
    ((strand0 frozenS fun x => { x with tpend := some (5, 6) }).strand 0).tpend = some (5, 6) ∧ frozenS.core.cell = none ∧
    (frozenS.withCore fun c => { c with cell := some ⟨gangX, 0, 1, 0, true⟩ }).core.cell = some ⟨gangX, 0, 1, 0, true⟩ ∧
    (0 : Word).getLsbD 63 = false ∧ (let v : Word := 0x8000000000000005
     v.getLsbD 63 = true ∧ gangHolding base (fld v 17 0) = none ∧ gangHolding (withGang gangO base) (fld v 17 0) = some gangO ∧ gangO.own = true ∧
       gangHolding (withGang gangQ base) (fld v 17 0) = some gangQ ∧ gangQ.own = false) ∧
    ((strand0 frozenS fun x => { x with owed := some .spill }).strand 0).owed.isSome = true ∧ (frozenS.strand 0).owed.isSome = false ∧
    ([0, 3].all fun n =>
      let j : JobRun := ⟨0, 1, 5, 0, jobQ 1, n, false, false⟩
      let s := (withGang { gangQ with cores := [9] } base).withHub fun h => { h with jobs := [j] }
      s.hub.jobs == [j] && j.queue == gangQ.queue && j.index == gangQ.index && decide (j.ended + 1 < (rjob j).gangs) == (n == 0) &&
        !j.here && !([9] : List Nat).contains s.core.gcore) = true ∧
    othersRun (withGang { gangO with others := true } base) = true ∧ othersRun base = false ∧
    (let s := { calm with core := { Core.reset with cell := some ⟨gangX, 0, 1, 0, true⟩ } }
     s.core.cell = some ⟨gangX, 0, 1, 0, true⟩ ∧ quiescent s = true ∧ gangX.cores.foldl min s.core.gcore / 16 = s.core.gcore / 16 ∧ s.clu.path.length < 32) ∧
    quiescent base = false := by decide
/-- A frozen strand with no pending trap resumes ready (R474). -/
theorem test_resume : after (.dctlResume 0) frozenS (fun t => t.st.run == .ready) = true := by decide

def ckptX : Ckpt := ⟨1, ⟨[], [], [], [], [], [], State.reset.clu.loops⟩, [], [], [], [], false, 0⟩
def ckptS (w : Word) (pool : Word) : State := (hubPut (hubPut base (rCkpt 1 4) w) (rCkpt 1 0) pool).withHub fun h => { h with ckpts := [ckptX] }
def ownS (s : State) : State := { s with core := { s.core with cell := some ⟨gangX, 0, 1, 0, true⟩ } }
theorem witness_ContextsAreRetried : denHeld base 0 = false ∧ (let d := denQ none [gangQ] false
    let s := heldS (withDen d (queueS 0 0))
    denHeld s 0 = true ∧ unwritten s 0 = some d ∧ (preflight (badArea s) d.func.val (saveBase (badArea s) d.gangs) (saveSpan d.gangs)).isSome = true ∧
      preflight s d.func.val (saveBase s d.gangs) (saveSpan d.gangs) = none) := by decide +kernel
theorem witness_CheckpointsRecover : ¬ (hubGet base (rCkpt 1 4)).getLsbD 62 = true ∧ (hubGet (ckptS 0x4000000000000000 0) (rCkpt 1 4)).getLsbD 62 = true ∧
    (∃ g ∈ (withGang gangQ (ckptS 0x4000000000000000 0)).hub.gangs, g.func = 1) ∧ (∀ g ∈ (ckptS 0x4000000000000000 0).hub.gangs, g.func ≠ 1) ∧
    (ownS base).func = (1 : Fin 17).val ∧ base.hub.held = [] ∧
    (let h : Held := ⟨1, 5, 4, true⟩
     let s := (ownS base).withHub fun x => { x with held := [h] }
     s.hub.held = [h] ∧ hbmPending s 4 = false ∧ hbmPending (servingS 4 s) 4 = true ∧ ckptHolds s 1 (8192 * 5) = false) ∧
    (let s := ownS (hubPut (ckptS 0x8000000000000000 0) (rCkpt 1 1) 0x4000)
     ckptHolds s (1 : Fin 17).val (8192 * 5) = true ∧ poolUsed s (1 : Fin 17).val + 8192 ≤ poolSize s (1 : Fin 17).val) ∧
    (base.hub.ckpts = [] ∧ hbmPending (servingS 0 (ckptS 0 0)) ckptX.ticket = true ∧ hbmPending (ckptS 0 0) ckptX.ticket = false) ∧
    (let s := ckptS 0x8000000000000000 0
     let w := hubGet s (rCkpt 1 4)
     s.hub.ckpts = [ckptX] ∧ ckptX.func = 1 ∧ w.getLsbD 63 = true ∧ w.getLsbD 62 = false) := by decide
/-- The image of function 1's cluster and what another function's save left there exceed the den (R537). -/
theorem witness_CheckpointsMayNotFit : (let s := tightS.withHub fun h => { h with clusterUser := [(0, 1)] }
    (0 : Fin 16) ∈ fnParts s 1 ∧ 0 ∈ partClusters s (0 : Fin 16).val ∧ overDen s (usedCores s 1) (usedClusters s 1) 0 = true) := by decide +kernel
/-- A rollback of function 1 in its three steps, with the core's requests pending, with none, and with the units of its write-back. -/
def rollS (step : Fin 4) (n : Nat) : State := (ckptS 0xC000000000000000 0).withHub fun h => { h with rolling := [⟨1, step, n⟩] }
theorem witness_RollbacksStep : ((rollS 1 64).hub.rolling = [⟨1, 1, 64⟩]) ∧ fnPending (rollS 1 64) 1 = false ∧ (rollS 1 64).now / 256 < 64 ∧
    64 ≤ ({ rollS 1 64 with now := 16384 } : State).now / 256 ∧ (∃ c ∈ (rollS 3 4).hub.ckpts, c.func = 1) ∧
    (let r : Req := ⟨5, 0, 0, .amo ⟨0x200000, 8, false, false⟩ 0 1, true, none, 0, []⟩
     let s := ownS (rollS 1 64)
     fnPending { s with core := { s.core with reqs := [r] } } 1 = true) ∧ hbmPending (servingS 4 (rollS 3 4)) 4 = true ∧ hbmPending (rollS 3 4) 4 = false := by decide
/-- A function's reset with a circuit of its own, and with none. -/
theorem witness_ResetsReleaseCircuits : circuitsOf (flrS 9 2816 2) 1 = [] ∧
    circuitsOf ((hubPut (flrS 9 2816 2) (rQueue 5 0) 0x0001000000000000).withFab fun f => { f with circuits := [⟨coreEp 0 3, [(coreEp 1 0, [7])], 5, [9], false⟩] }) 1 ≠ [] := by
  decide

/-- SRIDLE is 8 bits wide: the rest of the word is not written (R8, R224). -/
theorem test_register_write : after (.registerWrite (rSridle 3) 0x1FF .pf) base (fun t => hubGet t (rSridle 3) == 0xFF) = true ∧
    after (.registerWrite rSyscfg 1 (.vf 2)) base (fun t => (hubGet t (rFstat 2)).getLsbD fstatVfwrite) = true := by decide
def dogS (now : Nat) : State := { hubPut base rPwdog 5 with now := now }
theorem witness_HostAndProahWrite : base.hub.resetting = [] ∧ proahRuns (hubPut base rPctl 1) = false ∧ proahRuns (hubPut base rBoot 0) = true ∧ pwPeriod (hubPut base rPwdog 0) = 0 ∧
    pwPeriod (dogS 0) ≠ 0 ∧ (dogS 0).now / 256 < (dogS 0).hub.kickAt + pwPeriod (dogS 0) ∧ (dogS 1280).hub.kickAt + pwPeriod (dogS 1280) ≤ (dogS 1280).now / 256 ∧
    (hubGet base rPctl).getLsbD 0 = false ∧ base.hub.fwDie = none ∧ (base.withHub fun h => { h with fwDie := some 3 }).hub.fwDie = some 3 := by decide

end Sys2Proof.Tests
end

section
/-! The hub's registers: the bits of a written field, what a hardware write changes, and what the hub's records leave alone (R8, R478, R479). -/

namespace Sys2Proof.Machine

/-! ## Fields of a word -/

theorem getLsbD_bitsMask {hi lo : Nat} (hl : lo ≤ hi) (h : hi < 64) (i : Nat) :
    (bitsMask hi lo).getLsbD i = (decide (lo ≤ i) && decide (i ≤ hi)) := by
  have shifted : 2 ^ (hi + 1) - 2 ^ lo = (2 ^ (hi + 1 - lo) - 1) <<< lo := by
    rw [Nat.shiftLeft_eq, Nat.sub_mul, ← Nat.pow_add, Nat.sub_add_cancel (by omega), one_mul]
  rw [bitsMask, shifted, BitVec.getLsbD_ofNat, Nat.testBit_shiftLeft, Nat.testBit_two_pow_sub_one, Bool.eq_iff_iff]
  simp only [Bool.and_eq_true, decide_eq_true_eq]
  omega

theorem getLsbD_setFld (w : Word) {hi lo : Nat} (v : Nat) (hl : lo ≤ hi) (h : hi < 64) (i : Nat) :
    (setFld w hi lo v).getLsbD i = if lo ≤ i ∧ i ≤ hi then v.testBit (i - lo) else w.getLsbD i := by
  rw [setFld, BitVec.getLsbD_or, BitVec.getLsbD_and, BitVec.getLsbD_and, BitVec.getLsbD_not, getLsbD_bitsMask hl h,
    BitVec.getLsbD_ofNat, Nat.testBit_shiftLeft]
  split
  next inside => simp [inside, show i < 64 by omega]
  next outside =>
    rw [← Bool.decide_and, decide_eq_false outside]
    by_cases hi' : i < 64
    · simp [hi']
    · simp [BitVec.getLsbD_of_ge w i (by omega)]

/-- A written field reads as what was written. -/
theorem fld_setFld_same (w : Word) {hi lo v : Nat} (hl : lo ≤ hi) (h : hi < 64) (hv : v < 2 ^ (hi + 1 - lo)) :
    fld (setFld w hi lo v) hi lo = v := by
  refine Nat.eq_of_testBit_eq fun i => ?_
  rw [fld, Nat.testBit_mod_two_pow, Nat.testBit_div_two_pow, BitVec.testBit_toNat, getLsbD_setFld w v hl h]
  by_cases hi' : i < hi + 1 - lo
  · rw [if_pos (by omega)]
    simp [hi']
  · have above : v.testBit i = false := Nat.testBit_lt_two_pow (hv.trans_le (Nat.pow_le_pow_right (by decide) (by omega)))
    simp [hi', above]

/-! ## A write by the hardware -/

/-- A register's value depends on the stored registers alone. -/
theorem hubGet_congr {s t : State} (h : t.hub.regs = s.hub.regs) (a : Nat) : hubGet t a = hubGet s a := by rw [hubGet, hubGet, h]

/-- Nothing but the hub's registers differs. -/
def RegsOnly (s t : State) : Prop := t = { s with hub := { s.hub with regs := t.hub.regs } }

theorem RegsOnly.refl (s : State) : RegsOnly s s := rfl
theorem RegsOnly.hubPut (s : State) (a : Nat) (v : Word) : RegsOnly s (hubPut s a v) := rfl
theorem RegsOnly.trans {s t u : State} (h : RegsOnly s t) (g : RegsOnly t u) : RegsOnly s u := by
  unfold RegsOnly at *
  rw [g, h]
theorem RegsOnly.core {s t : State} (h : RegsOnly s t) : t.core = s.core := by rw [h]
theorem RegsOnly.msix {s t : State} (h : RegsOnly s t) : t.hub.msix = s.hub.msix := by rw [h]

/-- Registers put to 0 one after another. -/
theorem hubGet_foldl_zero (as : List Nat) (s : State) (a : Nat) :
    hubGet (as.foldl (fun t b => hubPut t b 0) s) a = if a ∈ as then 0 else hubGet s a := by
  induction as generalizing s with
  | nil => simp
  | cons b as ih =>
    rw [List.foldl_cons, ih]
    by_cases hb : a = b
    · simp [hb]
    · rw [hubGet_hubPut_other s 0 hb]
      simp [hb]

theorem RegsOnly.foldl_zero (as : List Nat) (s : State) : RegsOnly s (as.foldl (fun t b => Machine.hubPut t b 0) s) := by
  induction as generalizing s with
  | nil => exact .refl s
  | cons b as ih => exact (RegsOnly.hubPut s b 0).trans (ih _)

/-! ## Stores to memory -/

/-- Nothing but the four planes of memory differs. -/
def PlanesOnly (s t : State) : Prop := t = { s with mem := t.mem, tags := t.tags, fe := t.fe, poison := t.poison }

theorem PlanesOnly.trans {s t u : State} (h : PlanesOnly s t) (g : PlanesOnly t u) : PlanesOnly s u := by
  unfold PlanesOnly at *
  rw [g, h]
theorem PlanesOnly.hub {s t : State} (h : PlanesOnly s t) : t.hub = s.hub := by rw [h]
theorem PlanesOnly.core {s t : State} (h : PlanesOnly s t) : t.core = s.core := by rw [h]

theorem setByte_planes (s : State) (pa : Nat) (b : BitVec 8) : PlanesOnly s (setByte s pa b) := by
  unfold setByte
  split <;> rfl

theorem setBytes_planes (s : State) (pa : Nat) (w : Word) (en : BitVec 8) (n : Nat) : PlanesOnly s (setBytes s pa w en n) := by
  induction n with
  | zero => rfl
  | succ n ih =>
    unfold setBytes
    dsimp only
    split
    · exact ih.trans (setByte_planes _ _ _)
    · exact ih

theorem clearPoison_planes (s : State) (pa : Nat) (en : BitVec 8) : PlanesOnly s (clearPoison s pa en) := by
  unfold clearPoison
  repeat' split
  all_goals rfl

theorem performStore_planes (s : State) (x : WordStore) : PlanesOnly s (performStore s x) := by
  unfold performStore
  dsimp only
  refine PlanesOnly.trans ?_ (clearPoison_planes _ _ _)
  split
  · exact (setBytes_planes _ _ _ _ _).trans rfl
  · exact setBytes_planes _ _ _ _ _

theorem putWords_planes (s : State) (pa : Nat) (ws : List Word) : PlanesOnly s (putWords s pa ws) := by
  induction ws generalizing s pa with
  | nil => rfl
  | cons w ws ih => exact (performStore_planes s _).trans (ih _ _)

theorem foldl_planes {α : Type} {f : State → α → State} (hf : ∀ s a, PlanesOnly s (f s a)) (xs : List α) (s : State) :
    PlanesOnly s (xs.foldl f s) := by
  induction xs generalizing s with
  | nil => rfl
  | cons x xs ih => exact (hf s x).trans (ih _)

/-! ## The hub's records and notices -/

/-- A ring's append puts one of its registers, WR or RD, and otherwise leaves the hub and the core. -/
theorem ringAppend_cases (s : State) (a : Nat) (ws : List Word) :
    ∃ u b v, (ringAppend s a ws).1 = hubPut u b v ∧ (b = a + 16 ∨ b = a + 24) ∧ u.hub = s.hub ∧ u.core = s.core := by
  unfold ringAppend
  dsimp only
  split
  · have h := foldl_planes (fun t i => putWords_planes t
      (fld (hubGet s a) 42 0 + 32 * (((hubGet s (a + 16)).toNat + i) % (hubGet s (a + 8)).toNat)) ((ws ++ [0, 0, 0]).drop (4 * i) |>.take 4))
      (List.range ((ws.length + 3) / 4)) s
    exact ⟨_, _, _, rfl, .inl rfl, h.hub, h.core⟩
  · exact ⟨s, _, _, rfl, .inr rfl, rfl, rfl⟩

/-- An error record puts WR or RD of the hub's ring (R478). -/
theorem errRecord_cases (s : State) (cls cause unit detail : Nat) (w : Word) (fn part : Nat) (more : List Word) :
    ∃ u b v, errRecord s cls cause unit detail w fn part more = hubPut u b v ∧ rErr 0 < b ∧ u.hub = s.hub ∧ u.core = s.core := by
  obtain ⟨u, b, v, e, hb, hhub, hcore⟩ := ringAppend_cases s (rErr 0) ([word s.now,
    word (cls <<< 56 ||| cause <<< 48 ||| unit <<< 32 ||| detail), w, word (fn <<< 48 ||| part <<< 32)] ++ more)
  exact ⟨u, b, v, e, by omega, hhub, hcore⟩

theorem errRecord_core (s : State) (cls cause unit detail : Nat) (w : Word) (fn part : Nat) (more : List Word) :
    (errRecord s cls cause unit detail w fn part more).core = s.core := by
  obtain ⟨u, b, v, e, -, -, hcore⟩ := errRecord_cases s cls cause unit detail w fn part more
  exact (congrArg State.core e).trans hcore

theorem errRecord_msix (s : State) (cls cause unit detail : Nat) (w : Word) (fn part : Nat) (more : List Word) :
    (errRecord s cls cause unit detail w fn part more).hub.msix = s.hub.msix := by
  obtain ⟨u, b, v, e, -, hhub, -⟩ := errRecord_cases s cls cause unit detail w fn part more
  exact (congrArg (·.hub.msix) e).trans (congrArg Hub.msix hhub)

theorem hubGet_errRecord_other (s : State) (cls cause unit detail : Nat) (w : Word) (fn part : Nat) (more : List Word) {a : Nat}
    (h : a < rErr 0) : hubGet (errRecord s cls cause unit detail w fn part more) a = hubGet s a := by
  obtain ⟨u, b, v, e, hb, hhub, -⟩ := errRecord_cases s cls cause unit detail w fn part more
  rw [e, hubGet_hubPut_other u v (by omega), hubGet_congr (congrArg Hub.regs hhub)]

/-- A set bit of FSTAT reads 1 (R479). -/
theorem setFstat_sets (s : State) (f : Nat) {b : Nat} (h : b < 64) : (hubGet (setFstat s f b) (rFstat f)).getLsbD b = true := by
  unfold setFstat
  dsimp only
  split
  · assumption
  · show (hubGet (hubPut s (rFstat f) _) (rFstat f)).getLsbD b = true
    rw [hubGet_hubPut_same, BitVec.getLsbD_or, BitVec.getLsbD_ofNat, Nat.testBit_two_pow_self]
    simp [h]

theorem hubGet_setFstat_other (s : State) (f b : Nat) {a : Nat} (h : a ≠ rFstat f) : hubGet (setFstat s f b) a = hubGet s a := by
  unfold setFstat
  dsimp only
  split
  · rfl
  · exact hubGet_hubPut_other s _ h

/-- A discarded action of Proah counts in its field of LIMSTAT, up to 255, and sets LIMIT (R287). -/
theorem limitDiscard_counts (s : State) {hi lo : Nat} (pa : Nat) (hw : hi = lo + 7) (h : hi < 64) :
    fld (hubGet (limitDiscard s hi lo pa) rLimstat) hi lo = min 255 (fld (hubGet s rLimstat) hi lo + 1) ∧
      (hubGet (limitDiscard s hi lo pa) (rFstat 16)).getLsbD fstatLimit = true := by
  refine ⟨?_, setFstat_sets _ _ (by decide)⟩
  unfold limitDiscard
  dsimp only
  rw [hubGet_setFstat_other _ _ _ (by decide), hubGet_errRecord_other _ _ _ _ _ _ _ _ _ (by decide), hubGet_hubPut_same]
  refine fld_setFld_same _ (by omega) h ?_
  rw [show hi + 1 - lo = 8 by omega]
  omega

/-- It changes no other register below FSTAT. -/
theorem hubGet_limitDiscard_other (s : State) (hi lo pa : Nat) {a : Nat} (h : a < rFstat 0) (hl : a ≠ rLimstat) :
    hubGet (limitDiscard s hi lo pa) a = hubGet s a := by
  have hf : a ≠ rFstat 16 := by simp only [rFstat] at h ⊢; omega
  have he : a < rErr 0 := h.trans (by decide)
  unfold limitDiscard
  dsimp only
  rw [hubGet_setFstat_other _ _ _ hf, hubGet_errRecord_other _ _ _ _ _ _ _ _ _ he, hubGet_hubPut_other s _ hl]

/-- A discarded write of a virtual function sets VFWRITE (R275). -/
theorem discardVf_sets {s : State} {f : Fin 17} (pa : Nat) (h : ∀ w, (f, w) ∉ s.hub.resetting) :
    (hubGet (discardVf s f pa) (rFstat f.val)).getLsbD fstatVfwrite = true := by
  unfold discardVf
  split
  next hr =>
    obtain ⟨e, he, hf⟩ := List.any_eq_true.mp hr
    exact absurd ((of_decide_eq_true hf) ▸ he : (f, e.2) ∈ s.hub.resetting) (h e.2)
  next => exact setFstat_sets _ _ (by decide)

/-- It changes no register below FSTAT. -/
theorem hubGet_discardVf_other (s : State) (f : Fin 17) (pa : Nat) {a : Nat} (h : a < rFstat 0) : hubGet (discardVf s f pa) a = hubGet s a := by
  have hf : a ≠ rFstat f.val := by simp only [rFstat] at h ⊢; omega
  unfold discardVf
  split
  · rfl
  · rw [hubGet_setFstat_other _ _ _ hf, hubGet_errRecord_other _ _ _ _ _ _ _ _ _ (h.trans (by decide))]

/-! ## Proah -/

/-- The words of the staged halves (R281). -/
def stagedPlaces : List Nat := (List.range 16).flatMap fun p => (List.range 16).map (rPartStaged p)

theorem rPartStaged_mem {p i : Nat} (hp : p < 16) (hi : i < 16) : rPartStaged p i ∈ stagedPlaces :=
  List.mem_flatMap.mpr ⟨p, List.mem_range.mpr hp, List.mem_map.mpr ⟨i, List.mem_range.mpr hi, rfl⟩⟩

theorem stagedPlaces_ge {a : Nat} (h : a ∈ stagedPlaces) : rPartStaged 0 0 ≤ a := by
  obtain ⟨p, _, h⟩ := List.mem_flatMap.mp h
  obtain ⟨i, _, rfl⟩ := List.mem_map.mp h
  simp only [rPartStaged]
  omega

theorem resetProah_eq (s : State) : resetProah s = setLcommit (stagedPlaces.foldl (fun t a => hubPut t a 0) s) bStaged 0 := by
  rw [resetProah, stagedPlaces, List.foldl_flatMap]
  simp only [List.foldl_map]

theorem resetProah_regsOnly (s : State) : RegsOnly s (resetProah s) := by
  rw [resetProah_eq]
  exact (RegsOnly.foldl_zero _ s).trans (.hubPut _ _ _)

/-- A reset of Proah changes no register below the staged halves but LCOMMIT. -/
theorem hubGet_resetProah_other (s : State) {a : Nat} (h : a < rPartStaged 0 0) (hl : a ≠ rLcommit) : hubGet (resetProah s) a = hubGet s a := by
  rw [resetProah_eq, setLcommit, hubGet_hubPut_other _ _ hl, hubGet_foldl_zero, if_neg fun m => absurd (stagedPlaces_ge m) (by omega)]

/-- STAGED is 0 and so is every word of the staged halves, as a reset of Proah leaves them (R284). -/
def StagedClear (s : State) : Prop := staged s = false ∧ ∀ p < 16, ∀ i < 16, hubGet s (rPartStaged p i) = 0

theorem StagedClear.congr {s t : State} (h : StagedClear s) (hl : hubGet t rLcommit = hubGet s rLcommit)
    (hp : ∀ p i, hubGet t (rPartStaged p i) = hubGet s (rPartStaged p i)) : StagedClear t :=
  ⟨(congrArg (BitVec.getLsbD · bStaged) hl).trans h.1, fun p h1 i h2 => (hp p i).trans (h.2 p h1 i h2)⟩

theorem resetProah_clears (s : State) : StagedClear (resetProah s) := by
  rw [resetProah_eq]
  refine ⟨?_, fun p hp i hi => ?_⟩
  · rw [staged, setLcommit, hubGet_hubPut_same, getLsbD_setFld _ _ le_rfl (by decide), if_pos ⟨le_rfl, le_rfl⟩, Nat.zero_testBit]
  · rw [setLcommit, hubGet_hubPut_other _ _ (by simp only [rPartStaged, rLcommit]; omega), hubGet_foldl_zero, if_pos (rPartStaged_mem hp hi)]

/-- Proah's boot changes no register but BOOT. -/
theorem hubGet_bootProah_other (s : State) {a : Nat} (h : a ≠ rBoot) : hubGet (bootProah s) a = hubGet s a := hubGet_hubPut_other (measure s 0) _ h

theorem bootProah_core (s : State) : (bootProah s).core = s.core := by rw [bootProah, measure]; simp only [hubPut_core]
theorem bootProah_msix (s : State) : (bootProah s).hub.msix = s.hub.msix := by rw [bootProah, measure]; simp only [hubPut]

theorem watchFrom_hub (s : State) (w : Nat) : (watchFrom s w).hub = { s.hub with kickAt := w } := by
  unfold watchFrom
  dsimp only
  split <;> rfl

theorem watchFrom_core (s : State) (w : Nat) : (watchFrom s w).core = s.core := by
  unfold watchFrom
  dsimp only
  split <;> rfl

theorem hubGet_watchFrom (s : State) (w a : Nat) : hubGet (watchFrom s w) a = hubGet s a := hubGet_congr (by rw [watchFrom_hub]) a

/-- A watchdog that is on expires PERIOD wheels from its start, when that is still to come (R546). -/
theorem watchFrom_expires {s : State} {w : Nat} (h : pwPeriod s ≠ 0) (hn : s.now / 256 < w + pwPeriod s) :
    (256 * (w + pwPeriod s), Act.pwdogExpiry) ∈ (watchFrom s w).agenda := by
  have later : max s.now (256 * (w + pwPeriod s)) = 256 * (w + pwPeriod s) := by omega
  unfold watchFrom
  rw [if_neg h, later]
  exact State.mem_at _ _ _

/-! ## Other parts of a register write -/

theorem thenDo_done (r : Host.Outcome State Fault Refusal) : thenDo r done = r := by cases r <;> rfl

/-- Nothing but the agenda differs. -/
def AgendaOnly (s t : State) : Prop := t = { s with agenda := t.agenda }

theorem AgendaOnly.trans {s t u : State} (h : AgendaOnly s t) (g : AgendaOnly t u) : AgendaOnly s u := by
  unfold AgendaOnly at *
  rw [g, h]
theorem AgendaOnly.hub {s t : State} (h : AgendaOnly s t) : t.hub = s.hub := by rw [h]
theorem AgendaOnly.core {s t : State} (h : AgendaOnly s t) : t.core = s.core := by rw [h]

theorem State.atOnce_agendaOnly (s : State) (t : Nat) (a : Act) : AgendaOnly s (s.atOnce t a) := by
  unfold State.atOnce
  split <;> rfl

theorem idleFrom_agendaOnly (s : State) (p : Fin 512) : AgendaOnly s (idleFrom s p) := by
  unfold idleFrom
  dsimp only
  split
  · exact s.atOnce_agendaOnly _ _
  · rfl

/-- No partition has a register below the functions' entries as an input, so the physical function's write is made at once. -/
theorem hostPf_below (s : State) {a : Nat} (v : Word) (h : a < rFunc 0 0) : hostPf s a v = writePf s a v := by
  have hq : ¬ rQueue 0 0 ≤ a := by simp only [rFunc, rQueue] at *; omega
  have hc : ¬ rCkpt 0 0 ≤ a := by simp only [rFunc, rCkpt] at *; omega
  have hx : ¬ rCtx 0 0 ≤ a := by simp only [rFunc, rCtx] at *; omega
  have hj : ¬ rJay 0 0 ≤ a := by simp only [rFunc, rJay] at *; omega
  have hf : ¬ rFunc 0 0 ≤ a := by omega
  have noParts : regParts s a = [] := by simp [regParts, hq, hc, hx, hf]
  simp only [hostPf, noParts, hq, hj, decide_false, Bool.false_and, Bool.false_eq_true, if_false, List.any_nil, List.foldl_nil]
  exact thenDo_done _

/-- SRIDLE lies among the controllers' registers, at 0x88 of its channel's (R226). -/
theorem rSridle_place {p : Nat} (h : p < 512) : (0x200000 ≤ rSridle p ∧ rSridle p < 0x220000) ∧ rSridle p % 0x100 = 0x88 := by
  simp only [rSridle]
  omega

theorem rSridle_ne_of_lt (p : Nat) {a : Nat} (h : a < 0x200000) : rSridle p ≠ a := by
  simp only [rSridle]
  omega

/-- SRIDLE is written under its field map, and its channel counts idle wheels from its last request anew (R226). -/
theorem writePf_rSridle (s : State) (p : Fin 512) (v : Word) :
    writePf s (rSridle p.val) v = .next (idleFrom (hubWrite s (rSridle p.val) v) p) := by
  obtain ⟨p, hp⟩ := p
  obtain ⟨inRange, offset⟩ := rSridle_place hp
  have channel : (rSridle p - 0x200000) / 0x100 % 512 = p := by simp only [rSridle]; omega
  have notKill : rSridle p ≠ rGkill := by simp only [rGkill]; omega
  simp [writePf, rSridle_ne_of_lt p (a := rSyscfg) (by decide), rSridle_ne_of_lt p (a := rLstage) (by decide),
    rSridle_ne_of_lt p (a := rPwrcap) (by decide), rSridle_ne_of_lt p (a := rPctl) (by decide),
    rSridle_ne_of_lt p (a := rPwdog) (by decide), notKill, inRange, offset, channel]

/-- SRIDLE stores eight bits (R8). -/
theorem hubWrite_rSridle (s : State) {p : Nat} (hp : p < 512) (v : Word) :
    hubWrite s (rSridle p) v = hubPut s (rSridle p) ((hubGet s (rSridle p) &&& ~~~(0xFF : Word)) ||| (v &&& 0xFF)) := by
  obtain ⟨inRange, offset⟩ := rSridle_place hp
  have stored : hubRw (rSridle p) = 0xFF := by
    simp [hubRw, rSridle_ne_of_lt p (a := rSyscfg) (by decide), rSridle_ne_of_lt p (a := rLcommit) (by decide),
      rSridle_ne_of_lt p (a := rPwrcap) (by decide), rSridle_ne_of_lt p (a := rPwdog) (by decide),
      rSridle_ne_of_lt p (a := rPctl) (by decide), rSridle_ne_of_lt p (a := rMnet) (by decide), inRange, offset]
    decide
  have cleared : hubW1c (rSridle p) = 0 := by
    have hf : ¬ rFstat 0 ≤ rSridle p := by simp only [rFstat]; omega
    have hc : ¬ rCtx 0 0 ≤ rSridle p := by simp only [rCtx]; omega
    simp [hubW1c, hf, hc]
  rw [hubWrite, stored, cleared, show ~~~((0 : Word) &&& v) = BitVec.allOnes 64 by simp, BitVec.and_allOnes]

/-- A write of a virtual function to TAIL of queue q is an enqueue to it (R275, R276). -/
theorem writeVf_tail (s : State) (f : Fin 16) (q : Fin 4096) (v : Word) :
    writeVf s f (rQueue q.val 1) v = execEnqueue (BitVec.ofNat 12 q.val) (v.setWidth 32) (fin17 f.val) s := by
  obtain ⟨q, hq⟩ := q
  have inRange : rQueue 0 0 ≤ rQueue q 1 ∧ rQueue q 1 < rQueue 4096 0 := by simp only [rQueue]; omega
  have offset : (rQueue q 1 - rQueue 0 0) % 0x80 = 8 := by simp only [rQueue]; omega
  have number : (rQueue q 1 - rQueue 0 0) / 0x80 = q := by simp only [rQueue]; omega
  simp [writeVf, inRange, offset, number]

theorem vmodify_same {α : Type} {n : Nat} (v : Vector α n) (i : Fin n) (f : α → α) : (vmodify v i.val f)[i] = f v[i] := by
  simp [vmodify]

theorem vmodify_other {α : Type} {n : Nat} (v : Vector α n) {i j : Fin n} (f : α → α) (h : j ≠ i) : (vmodify v i.val f)[j] = v[j] := by
  simp [vmodify, Fin.val_ne_of_ne h]

/-- The channels are served again, each where it has a controller: what the end of an update puts on the agenda. -/
def wakeChannels (s : State) (ps : List (Fin 512)) : State :=
  ps.foldl (fun t p => if t.hbm.any (·.p = p.val) then t.atOnce t.now (.hbmServiceUnit p) else t) s

theorem wakeChannels_agendaOnly (s : State) (ps : List (Fin 512)) : AgendaOnly s (wakeChannels s ps) := by
  induction ps generalizing s with
  | nil => rfl
  | cons p ps ih =>
    refine AgendaOnly.trans ?_ (ih _)
    dsimp only
    split
    · exact s.atOnce_agendaOnly _ _
    · rfl

/-- The state after the update of a die. -/
def updated (s : State) (die : Nat) : State := (measure s (1 + die)).withHub fun h => { h with fwDie := none }

theorem updated_meas (s : State) (die : Nat) :
    (updated s die).hub.meas = vmodify s.hub.meas (Config.measRegister (1 + die)).val fun m => Config.extendMeasure m (freeBits s) := by
  rw [updated, measure]

theorem execFirmwareUpdate_end {s : State} {die : Nat} (h : s.hub.fwDie = some die) :
    execFirmwareUpdate die true s = .next (wakeChannels (updated s die) (List.finRange 512)) := by
  simp only [execFirmwareUpdate, h, if_true, wakeChannels, updated]

end Sys2Proof.Machine

/-! ## What the host, Proah and firmware write (R8, R275, R287, R289, R545-R547) -/

namespace Sys2Proof.Claims

open Sys2Proof.Machine

theorem RegsOnly.sameMemory {s t : State} (h : RegsOnly s t) : SameMemory s t := by
  rw [h]
  exact sameMemory_of rfl rfl rfl rfl

theorem AgendaOnly.sameMemory {s t : State} (h : AgendaOnly s t) : SameMemory s t := by
  rw [h]
  exact sameMemory_of rfl rfl rfl rfl

theorem exec_registerWrite_pf (s : State) (a : Nat) (v : Word) : exec (.registerWrite a v .pf) s = hostPf s a v := rfl
theorem exec_registerWrite_vf (s : State) (a : Nat) (v : Word) (f : Fin 16) : exec (.registerWrite a v (.vf f)) s = writeVf s f a v := rfl
theorem exec_registerWrite_proah (s : State) (a : Nat) (v : Word) : exec (.registerWrite a v .proah) s = writeProah s a v := rfl

/-- A write of the physical function to SRIDLE. -/
theorem pf_writes_sridle (s : State) (v : Word) (p : Fin 512) :
    ∃ t, exec (.registerWrite (rSridle p.val) v .pf) s = .next t ∧ SameMemory s t ∧
      hubGet t (rSridle p.val) = (hubGet s (rSridle p.val) &&& ~~~(0xFF : Word)) ||| (v &&& 0xFF) ∧ t.core = s.core ∧
      ∀ a, a ≠ rSridle p.val → hubGet t a = hubGet s a := by
  have plain : rSridle p.val < rFunc 0 0 := by simp only [rSridle, rFunc]; omega
  have written := hubWrite_rSridle s p.isLt v
  have idle := idleFrom_agendaOnly (hubWrite s (rSridle p.val) v) p
  have value : ∀ a, hubGet (idleFrom (hubWrite s (rSridle p.val) v) p) a = hubGet (hubWrite s (rSridle p.val) v) a :=
    hubGet_congr (congrArg Hub.regs idle.hub)
  refine ⟨_, (exec_registerWrite_pf s _ v).trans ((hostPf_below s v plain).trans (writePf_rSridle s p v)), ?_, ?_, idle.core, fun a ha => ?_⟩
  · exact (RegsOnly.sameMemory (.hubPut s _ _)).trans (AgendaOnly.sameMemory idle)
  · rw [value, written, hubGet_hubPut_same]
  · rw [value, written, hubGet_hubPut_other s _ ha]

/-- A write of a virtual function to SYSCFG is discarded with its bit of FSTAT. -/
theorem vf_write_syscfg_discarded (s : State) (v : Word) (f : Fin 16) (h : ∀ w, (fin17 f.val, w) ∉ s.hub.resetting) :
    ∃ t, exec (.registerWrite rSyscfg v (.vf f)) s = .next t ∧ (hubGet t (rFstat f.val)).getLsbD fstatVfwrite = true ∧
      hubGet t rSyscfg = hubGet s rSyscfg := by
  have number : (fin17 f.val).val = f.val := Nat.mod_eq_of_lt (by omega)
  have discarded : exec (.registerWrite rSyscfg v (.vf f)) s = .next (discardVf s (fin17 f.val) (Config.hubBase + rSyscfg)) := by
    rw [exec_registerWrite_vf, writeVf, if_neg (by decide)]
  refine ⟨_, discarded, ?_, hubGet_discardVf_other _ _ _ (by decide)⟩
  have flagged := discardVf_sets (Config.hubBase + rSyscfg) h
  rwa [number] at flagged

/-- Proah's writes: none while it is held, STAGED through LSTAGE, and SYSCFG discarded by the limit unit. -/
theorem proah_writes_limited (s : State) (v : Word) (a : Nat) :
    (proahRuns s = false → exec (.registerWrite a v .proah) s = .next s) ∧
    (proahRuns s = true → exec (.registerWrite rLstage v .proah) s = exec (.lstageWrite (v.setWidth 32)) s ∧
      ∃ t, exec (.registerWrite rSyscfg v .proah) s = .next t ∧ hubGet t rSyscfg = hubGet s rSyscfg ∧
        fld (hubGet t rLimstat) 39 32 = min 255 (fld (hubGet s rLimstat) 39 32 + 1) ∧
        (hubGet t (rFstat 16)).getLsbD fstatLimit = true) := by
  refine ⟨fun held => ?_, fun runs => ⟨?_, limitDiscard s 39 32 (Config.hubBase + rSyscfg), ?_, ?_, ?_⟩⟩
  · simp [exec_registerWrite_proah, writeProah, held]
  · rw [exec_registerWrite_proah, writeProah, runs]
    rfl
  · rw [exec_registerWrite_proah, writeProah, runs]
    rfl
  · exact hubGet_limitDiscard_other s _ _ _ (by decide) (by decide)
  · exact limitDiscard_counts s _ rfl (by decide)

theorem watchFrom_sameMemory (s : State) (w : Nat) : SameMemory s (watchFrom s w) := by
  unfold watchFrom
  dsimp only
  split <;> exact sameMemory_of rfl rfl rfl rfl

/-- A kick starts the count of PERIOD wheels at the present wheel. -/
theorem exec_pwdogKick (s : State) :
    ∃ t, exec .pwdogKick s = .next t ∧ SameMemory s t ∧ t.hub.kickAt = s.now / 256 ∧
      (pwPeriod s ≠ 0 → (256 * (s.now / 256 + pwPeriod s), Act.pwdogExpiry) ∈ t.agenda) :=
  ⟨_, rfl, watchFrom_sameMemory s _, by rw [watchFrom_hub]; rfl, fun on => watchFrom_expires on
    (Nat.lt_add_of_pos_right (Nat.pos_of_ne_zero on))⟩

/-- An expiry that is due resets and boots Proah, with a record and its notice. -/
theorem exec_pwdogExpiry_due (s : State) (on : pwPeriod s ≠ 0) (due : s.hub.kickAt + pwPeriod s ≤ s.now / 256) :
    ∃ t, exec .pwdogExpiry s = .next t ∧ t.hub.kickAt = s.now / 256 ∧ StagedClear t ∧ t.hub.msix = s.hub.msix ++ [(16, 0)] ∧
      t.core = s.core := by
  let r := recoveryRecord s 0x0807 0 (word s.wheel) 16 0
  have rcore : r.core = s.core := errRecord_core ..
  have rmsix : r.hub.msix = s.hub.msix ++ [(16, 0)] := congrArg (· ++ [(16, 0)]) (errRecord_msix ..)
  have reset := resetProah_regsOnly r
  have eq : exec .pwdogExpiry s = .next (watchFrom (bootProah (resetProah r)) s.wheel) := by
    show execPwdogExpiry s = _
    rw [execPwdogExpiry, if_neg on, if_neg (show ¬ s.wheel < _ from Nat.not_lt.mpr due)]
  have same : ∀ a, a ≠ rBoot → hubGet (watchFrom (bootProah (resetProah r)) s.wheel) a = hubGet (resetProah r) a := fun a ha =>
    (hubGet_watchFrom _ _ _).trans (hubGet_bootProah_other _ ha)
  refine ⟨_, eq, ?_, (resetProah_clears r).congr (same _ (by decide)) fun p i => same _ ?_, ?_, ?_⟩
  · rw [watchFrom_hub]; rfl
  · simp only [rPartStaged, rBoot]; omega
  · rw [watchFrom_hub, bootProah_msix]; exact reset.msix.trans rmsix
  · rw [watchFrom_core, bootProah_core]; exact reset.core.trans rcore

/-- An expiry does nothing while the watchdog is off. -/
theorem exec_pwdogExpiry_off (s : State) (off : pwPeriod s = 0) : exec .pwdogExpiry s = .next s := by
  show execPwdogExpiry s = _
  rw [execPwdogExpiry, if_pos off]

/-- An expiry that a kick has overtaken waits again. -/
theorem exec_pwdogExpiry_early (s : State) (on : pwPeriod s ≠ 0) (early : s.now / 256 < s.hub.kickAt + pwPeriod s) :
    ∃ t, exec .pwdogExpiry s = .next t ∧ SameMemory s t ∧ t.hub.kickAt = s.hub.kickAt ∧ t.hub.regs = s.hub.regs ∧
      (256 * (s.hub.kickAt + pwPeriod s), Act.pwdogExpiry) ∈ t.agenda := by
  refine ⟨watchFrom s s.hub.kickAt, ?_, watchFrom_sameMemory _ _, ?_, ?_, watchFrom_expires on early⟩
  · show execPwdogExpiry s = _
    rw [execPwdogExpiry, if_neg on]
    exact if_pos early
  · rw [watchFrom_hub]
  · rw [watchFrom_hub]

/-- HOLD is written, keeps Proah from running, and as it rises clears the staged halves. -/
theorem exec_pctlHold (s : State) (hold : Bool) :
    ∃ t, exec (.pctlHold hold) s = .next t ∧ SameMemory s t ∧ hubGet t rPctl = (if hold then 1 else 0) ∧
      (hold = true → proahRuns t = false) ∧ (hold = true → (hubGet s rPctl).getLsbD 0 = false → StagedClear t) := by
  have arm : exec (.pctlHold hold) s = execPctlHold hold s := rfl
  have held : ∀ t : State, hubGet t rPctl = 1 → proahRuns t = false := fun t h => by simp [proahRuns, h]
  cases hold with
  | true =>
    have put : hubGet (hubPut s rPctl 1) rPctl = 1 := hubGet_hubPut_same s rPctl 1
    cases was : (hubGet s rPctl).getLsbD 0 with
    | true =>
      exact ⟨hubPut s rPctl 1, by rw [arm, execPctlHold, was]; rfl, RegsOnly.sameMemory (.hubPut s _ _), put, fun _ => held _ put,
        fun _ no => nomatch no⟩
    | false =>
      have reset : hubGet (resetProah (hubPut s rPctl 1)) rPctl = 1 := (hubGet_resetProah_other _ (by decide) (by decide)).trans put
      exact ⟨resetProah (hubPut s rPctl 1), by simp only [arm, execPctlHold, was, Bool.not_false, Bool.and_true, if_true],
        RegsOnly.sameMemory ((RegsOnly.hubPut s _ _).trans (resetProah_regsOnly _)), reset, fun _ => held _ reset,
        fun _ _ => resetProah_clears _⟩
  | false =>
    have put : hubGet (hubPut s rPctl 0) rPctl = 0 := hubGet_hubPut_same s rPctl 0
    cases was : (hubGet s rPctl).getLsbD 0 with
    | true =>
      exact ⟨bootProah (hubPut s rPctl 0), by rw [arm, execPctlHold, was]; rfl, sameMemory_of rfl rfl rfl rfl,
        (hubGet_bootProah_other _ (by decide)).trans put, nofun, nofun⟩
    | false => exact ⟨hubPut s rPctl 0, by rw [arm, execPctlHold, was]; rfl, RegsOnly.sameMemory (.hubPut s _ _), put, nofun, nofun⟩

/-- CLRLIM clears LIMSTAT and no other register. -/
theorem exec_pctlClrlim (s : State) :
    ∃ t, exec .pctlClrlim s = .next t ∧ SameMemory s t ∧ hubGet t rLimstat = 0 ∧ ∀ a, a ≠ rLimstat → hubGet t a = hubGet s a :=
  ⟨hubPut s rLimstat 0, rfl, RegsOnly.sameMemory (.hubPut s _ _), hubGet_hubPut_same s _ _, fun _ ha => hubGet_hubPut_other s _ ha⟩

/-- The end of a die's update extends the measurement register of its stage, and no other. -/
theorem exec_firmwareUpdate_end (s : State) (die : Nat) (h : s.hub.fwDie = some die) :
    ∃ t, exec (.firmwareUpdate die true) s = .next t ∧ SameMemory s t ∧ t.hub.fwDie = none ∧
      (∀ i : Fin 8, i ≠ Config.measRegister (1 + die) → t.hub.meas[i] = s.hub.meas[i]) ∧
      ∃ m, t.hub.meas[Config.measRegister (1 + die)] = Config.extendMeasure s.hub.meas[Config.measRegister (1 + die)] m := by
  have woken := wakeChannels_agendaOnly (updated s die) (List.finRange 512)
  have meas := (congrArg Hub.meas woken.hub).trans (updated_meas s die)
  refine ⟨_, execFirmwareUpdate_end h, ?_, congrArg Hub.fwDie woken.hub, fun i hi => ?_, freeBits s, ?_⟩
  · exact (sameMemory_of rfl rfl rfl rfl : SameMemory s (updated s die)).trans (AgendaOnly.sameMemory woken)
  · simp only [meas]; exact vmodify_other _ _ hi
  · simp only [meas]; exact vmodify_same _ _ _

/-- An update begins when no die is being updated. -/
theorem exec_firmwareUpdate_begin (s : State) (die : Nat) (idle : s.hub.fwDie = none) :
    ∃ t, exec (.firmwareUpdate die false) s = .next t ∧ SameMemory s t ∧ t.hub.fwDie = some die := by
  refine ⟨s.withHub fun h => { h with fwDie := some die }, ?_, sameMemory_of rfl rfl rfl rfl, rfl⟩
  show execFirmwareUpdate die false s = _
  simp only [execFirmwareUpdate, idle]

/-- Nothing ends while no die is updated, and while one is, no other begins or ends. -/
theorem exec_firmwareUpdate_stays (s : State) (die : Nat) (fin : Bool)
    (h : (s.hub.fwDie = none ∧ fin = true) ∨ ∃ d, s.hub.fwDie = some d ∧ (fin = false ∨ d ≠ die)) :
    exec (.firmwareUpdate die fin) s = .next s := by
  show execFirmwareUpdate die fin s = _
  obtain ⟨idle, rfl⟩ | ⟨d, busy, rfl | other⟩ := h
  · simp only [execFirmwareUpdate, idle]
  · simp only [execFirmwareUpdate, busy]
  · cases fin with
    | false => simp only [execFirmwareUpdate, busy]
    | true => simp only [execFirmwareUpdate, busy, if_neg other]

/-- Settles O60, each clause by the lemma of its write. -/
theorem hostAndProahWrite : Obligations.HostAndProahWrite := by
  refine ⟨pf_writes_sridle, vf_write_syscfg_discarded, fun s v f q => writeVf_tail s f q v, proah_writes_limited, exec_pwdogKick,
    fun s => ⟨exec_pwdogExpiry_off s, exec_pwdogExpiry_early s, fun on due => ?_⟩, exec_pctlHold, exec_pctlClrlim, fun s die fin =>
    ⟨fun idle begins => begins ▸ exec_firmwareUpdate_begin s die idle, fun busy ends => ends ▸ exec_firmwareUpdate_end s die busy,
      exec_firmwareUpdate_stays s die fin⟩⟩
  obtain ⟨t, eq, kick, ⟨unstaged, cleared⟩, notice⟩ := exec_pwdogExpiry_due s on due
  exact ⟨t, eq, kick, unstaged, cleared, notice⟩

end Sys2Proof.Claims
end

section
/-! The fabric's registers: what an entry, a link, an alignment register and a port read as after a write, and what later steps of Badger leave
alone (R28, R34, R49, R65, R504). -/

namespace Sys2Proof.Machine

/-! ## Lists kept by a key -/

theorem find_remove_same {α : Type} {p r : α → Bool} (xs : List α) (h : ∀ x, r x = true → p x = false) : (xs.filter r).find? p = none :=
  List.find?_eq_none.mpr fun x hx => by simp [h x (List.mem_filter.mp hx).2]

/-- A value put in the place of those with its key is found by its key. -/
theorem find_replace_same {α : Type} {p r : α → Bool} (xs : List α) {n : α} (hn : p n = true) (h : ∀ x, r x = true → p x = false) :
    (xs.filter r ++ [n]).find? p = some n := by
  rw [List.find?_append, find_remove_same xs h, List.find?_singleton, if_pos hn, Option.none_or]

/-- Values with another key are found as before. -/
theorem find_remove_other {α : Type} {p r : α → Bool} (xs : List α) (h : ∀ x, p x = true → r x = true) : (xs.filter r).find? p = xs.find? p := by
  rw [List.find?_filter]
  congr 1
  funext x
  by_cases hx : p x = true
  · simp [hx, h x hx]
  · simp [hx]

theorem find_replace_other {α : Type} {p r : α → Bool} (xs : List α) {n : α} (hn : p n = false) (h : ∀ x, p x = true → r x = true) :
    (xs.filter r ++ [n]).find? p = xs.find? p := by
  rw [List.find?_append, find_remove_other xs h, List.find?_singleton, if_neg (by simp [hn]), Option.or_none]

/-- A relation that every step of a fold keeps holds from its start to its end. -/
theorem foldl_rel {α σ : Type} {R : σ → σ → Prop} (refl : ∀ s, R s s) (trans : ∀ {s t u}, R s t → R t u → R s u) {f : σ → α → σ}
    (step : ∀ s a, R s (f s a)) (xs : List α) (s : σ) : R s (xs.foldl f s) := by
  induction xs generalizing s with
  | nil => exact refl s
  | cons x xs ih => exact trans (step s x) (ih _)

/-! ## Entries -/

/-- The entry at a place; idle where none is listed. -/
def entryAt (s : State) (a : AgentId) (t : BitVec 2) (port slot : Nat) : TEntry :=
  (tableFind s a t port slot).getD ⟨a, t, port, slot, 0, 0, false, false⟩

theorem entryAt_live (s : State) (a : AgentId) (t : BitVec 2) (port slot : Nat) :
    (entryAt s a t port slot).live = match tableFind s a t port slot with | some e => e.live | none => 0 := by
  unfold entryAt
  cases tableFind s a t port slot <;> rfl

theorem entryAt_key (s : State) (a : AgentId) (t : BitVec 2) (port slot : Nat) :
    (entryAt s a t port slot).agent = a ∧ (entryAt s a t port slot).table = t ∧ (entryAt s a t port slot).port = port ∧
      (entryAt s a t port slot).slot = slot := by
  unfold entryAt
  cases h : tableFind s a t port slot with
  | none => exact ⟨rfl, rfl, rfl, rfl⟩
  | some e => simpa [and_assoc] using List.find?_some h

theorem tableFind_congr {s t : State} (h : t.fab.tables = s.fab.tables) (a : AgentId) (tb : BitVec 2) (port slot : Nat) :
    tableFind t a tb port slot = tableFind s a tb port slot := by
  rw [tableFind, tableFind, h]

/-- A staged value stands in the entry's staged half, with SPEND set (R30). -/
theorem tableFind_stage (s : State) (a : AgentId) (t : BitVec 2) (port slot : Nat) (v : BitVec 16) :
    tableFind (tableSet s a t port slot fun e => { e with staged := v, spend := true }) a t port slot =
      some { entryAt s a t port slot with staged := v, spend := true } := by
  obtain ⟨ha, ht, hp, hs⟩ := entryAt_key s a t port slot
  simp only [tableFind, tableSet, Bool.not_true, Bool.and_false, Bool.false_and, Bool.false_eq_true, if_false]
  exact find_replace_same _ (by simpa [entryAt, tableFind, and_assoc] using ⟨ha, ht, hp, hs⟩) fun x hx => by simpa only [Bool.not_eq_true'] using hx

/-! ## Links -/

theorem linkAt_l (s : State) (l : Nat) : (linkAt s l).l = l := by
  unfold linkAt
  cases h : s.fab.links.find? (·.l = l) with
  | none => rfl
  | some k => simpa using List.find?_some h

theorem linkAt_congr {s t : State} (h : t.fab.links = s.fab.links) (l : Nat) : linkAt t l = linkAt s l := by rw [linkAt, linkAt, h]

/-- A link reads as what was written, which names the same link. -/
theorem linkAt_modLink (s : State) (l : Nat) (f : Link → Link) (h : (f (linkAt s l)).l = l) : linkAt (modLink s l f) l = f (linkAt s l) := by
  have others : ∀ k : Link, (k.l != l) = true → decide (k.l = l) = false := fun k hk => by simpa using hk
  rw [linkAt, modLink]
  dsimp only
  split
  next fresh => rw [find_remove_same _ others, fresh]; rfl
  next => rw [find_replace_same _ (by simpa using h) others]; rfl

/-! ## Alignment registers -/

theorem alignAt_key (s : State) (a : AgentId) (port : Nat) : (alignAt s a port).agent = a ∧ (alignAt s a port).port = port := by
  unfold alignAt
  cases h : s.fab.aligns.find? fun x => x.agent = a && x.port = port with
  | none => exact ⟨rfl, rfl⟩
  | some x => simpa using List.find?_some h

theorem alignAt_congr {s t : State} (h : t.fab.aligns = s.fab.aligns) (a : AgentId) (port : Nat) : alignAt t a port = alignAt s a port := by
  rw [alignAt, alignAt, h]

/-- A register reads as what was written, which names the same receiving end. -/
theorem alignAt_modAlign_same (s : State) (a : AgentId) (port : Nat) (f : Align → Align)
    (h : (f (alignAt s a port)).agent = a ∧ (f (alignAt s a port)).port = port) :
    alignAt (modAlign s a port f) a port = f (alignAt s a port) := by
  have others : ∀ x : Align, (!(decide (x.agent = a) && decide (x.port = port))) = true →
      (decide (x.agent = a) && decide (x.port = port)) = false := fun x hx => by simpa only [Bool.not_eq_true'] using hx
  rw [alignAt, modAlign]
  dsimp only
  split
  next zero => rw [find_remove_same _ others, zero]; rfl
  next => rw [find_replace_same _ (by simpa using h) others]; rfl

/-- The register of another agent is as before. -/
theorem alignAt_modAlign_other (s : State) {a b : AgentId} (port q : Nat) (f : Align → Align) (hb : b ≠ a) (h : (f (alignAt s a port)).agent = a) :
    alignAt (modAlign s a port f) b q = alignAt s b q := by
  have others : ∀ x : Align, (decide (x.agent = b) && decide (x.port = q)) = true →
      (!(decide (x.agent = a) && decide (x.port = port))) = true := fun x hx => by
    have hx' : x.agent = b ∧ x.port = q := by simpa using hx
    simp [hx'.1, hb]
  rw [alignAt, modAlign]
  dsimp only
  split
  next zero => rw [find_remove_other _ others]; rfl
  next => rw [find_replace_other _ (by simp [h, hb.symm]) others]; rfl

theorem modAlign_wheel (s : State) (a : AgentId) (port : Nat) (f : Align → Align) : (modAlign s a port f).wheel = s.wheel := rfl
theorem modAlign_links (s : State) (a : AgentId) (port : Nat) (f : Align → Align) : (modAlign s a port f).fab.links = s.fab.links := rfl

/-! ## Inter-package ports -/

theorem modPort_same (s : State) (p : Fin 16) (f : Port → Port) : (modPort s p f).fab.ports[p] = f s.fab.ports[p] := by
  simp [modPort]

theorem modPort_other (s : State) {p r : Fin 16} (f : Port → Port) (h : r ≠ p) : (modPort s p f).fab.ports[r] = s.fab.ports[r] := by
  simp [modPort, Fin.val_ne_of_ne h.symm]

theorem modPort_modPort (s : State) (p : Fin 16) (f g : Port → Port) : modPort (modPort s p f) p g = modPort s p fun x => g (f x) := by
  simp [modPort]

/-! ## What a step of Badger leaves: records, holds, breaks named for a later wheel and flits sent -/

/-- Of the fabric nothing but the wheel of the last configuration flit differs, the time is the same, and no act left the agenda. -/
structure Onward (s t : State) : Prop where
  fab : t.fab = { s.fab with lastFlit := t.fab.lastFlit }
  now : t.now = s.now
  agenda : s.agenda ⊆ t.agenda

theorem Onward.refl (s : State) : Onward s s := ⟨rfl, rfl, List.Subset.refl _⟩
theorem Onward.trans {s t u : State} (h : Onward s t) (g : Onward t u) : Onward s u :=
  ⟨by rw [g.fab, h.fab], g.now.trans h.now, List.Subset.trans h.agenda g.agenda⟩

theorem Onward.tables {s t : State} (h : Onward s t) : t.fab.tables = s.fab.tables := by rw [h.fab]
theorem Onward.commits {s t : State} (h : Onward s t) : t.fab.commits = s.fab.commits := by rw [h.fab]
theorem Onward.ports {s t : State} (h : Onward s t) : t.fab.ports = s.fab.ports := by rw [h.fab]
theorem Onward.holds {s t : State} (h : Onward s t) : t.fab.holds = s.fab.holds := by rw [h.fab]
theorem Onward.aligns {s t : State} (h : Onward s t) : t.fab.aligns = s.fab.aligns := by rw [h.fab]
theorem Onward.circuits {s t : State} (h : Onward s t) : t.fab.circuits = s.fab.circuits := by rw [h.fab]
theorem Onward.linkAt {s t : State} (h : Onward s t) (l : Nat) : linkAt t l = linkAt s l := linkAt_congr (by rw [h.fab]) l
theorem Onward.alignAt {s t : State} (h : Onward s t) (a : AgentId) (port : Nat) : alignAt t a port = alignAt s a port :=
  alignAt_congr h.aligns a port
theorem Onward.wheel {s t : State} (h : Onward s t) : t.wheel = s.wheel := by rw [State.wheel, State.wheel, h.now]

theorem at_onward (s : State) (t : Nat) (a : Act) : Onward s (s.at t a) := ⟨rfl, rfl, List.subset_append_left _ _⟩

theorem withCore_onward (s : State) (f : Core → Core) : Onward s (s.withCore f) := ⟨rfl, rfl, List.Subset.refl _⟩

theorem refreshHolds_onward (s : State) : Onward s (refreshHolds s) := by
  unfold refreshHolds
  exact withCore_onward s _

theorem hubPut_onward (s : State) (a : Nat) (v : Word) : Onward s (hubPut s a v) := ⟨rfl, rfl, List.Subset.refl _⟩

theorem PlanesOnly.onward {s t : State} (h : PlanesOnly s t) : Onward s t := by
  rw [h]
  exact ⟨rfl, rfl, List.Subset.refl _⟩

/-- Requests that join the agenda. -/
theorem acts_onward (s : State) (acts : List (Nat × Act)) (fresh : Nat) : Onward s { s with agenda := s.agenda ++ acts, fresh := fresh } :=
  ⟨rfl, rfl, List.subset_append_left _ _⟩

/-- A ring's append changes memory and the hub's registers, and may add requests to the agenda. -/
theorem ringAppend_onward (s : State) (a : Nat) (ws : List Word) : Onward s (ringAppend s a ws).1 := by
  unfold ringAppend
  dsimp only
  split
  · exact ((foldl_planes (fun t i => putWords_planes t _ _) _ s).onward.trans (acts_onward _ _ _)).trans (hubPut_onward _ _ _)
  · exact hubPut_onward _ _ _

theorem raiseMsix_onward (s : State) (f vec : Nat) : Onward s (raiseMsix s f vec) := ⟨rfl, rfl, List.Subset.refl _⟩

theorem fabricRecord_onward (s : State) (code detail : Nat) (w2 : Word) (fn : Nat) : Onward s (fabricRecord s code detail w2 fn) := by
  unfold fabricRecord errRecord
  exact (ringAppend_onward s _ _).trans (raiseMsix_onward _ _ _)

theorem nameWheel_onward (s : State) (n : Nat) : Onward s (nameWheel s n).1 := ⟨rfl, rfl, List.Subset.refl _⟩

/-- A wheel that Badger names is still to come (R65). -/
theorem lt_nameWheel (s : State) (n : Nat) : s.wheel < (nameWheel s n).2 := by
  have first : s.wheel + 1 ≤ firstFlit s [] (flitsFor n) 0 := le_max_of_le_left (le_max_left _ _)
  simp only [nameWheel]
  omega

theorem breakSoon_onward (s : State) (c : Circuit) (reason : Nat) : Onward s (breakSoon s c reason) :=
  (nameWheel_onward s _).trans (at_onward _ _ _)

theorem breakSoon_mem (s : State) (c : Circuit) (reason : Nat) : ∃ n, (n, Act.circuitBreak c.src reason) ∈ (breakSoon s c reason).agenda :=
  ⟨_, State.mem_at _ _ _⟩

theorem breakOver_onward (s : State) (l reason : Nat) : Onward s (breakOver s l reason) :=
  foldl_rel Onward.refl Onward.trans (fun t c => breakSoon_onward t c reason) _ s

theorem breakExchange_onward (s : State) (p : Fin 16) : Onward s (breakExchange s p) :=
  foldl_rel Onward.refl Onward.trans (fun t c => breakSoon_onward t c 4) _ s

/-- Every circuit of a list that is broken one after another has its break on the agenda. -/
theorem breaks_mem {c : Circuit} (reason : Nat) {cs : List Circuit} (h : c ∈ cs) (s : State) :
    ∃ n, (n, Act.circuitBreak c.src reason) ∈ (cs.foldl (fun s c => breakSoon s c reason) s).agenda := by
  induction cs generalizing s with
  | nil => exact absurd h List.not_mem_nil
  | cons d ds ih =>
    rcases List.mem_cons.mp h with rfl | h
    · obtain ⟨n, hn⟩ := breakSoon_mem s c reason
      exact ⟨n, (foldl_rel Onward.refl Onward.trans (fun t c => breakSoon_onward t c reason) ds _).agenda hn⟩
    · exact ih h _

theorem breakOver_mem {s : State} {c : Circuit} (l reason : Nat) (hc : c ∈ s.fab.circuits) (h : circuitCrosses c l = true) :
    ∃ n, (n, Act.circuitBreak c.src reason) ∈ (breakOver s l reason).agenda :=
  breaks_mem reason (List.mem_filter.mpr ⟨hc, h⟩) s

end Sys2Proof.Machine
end

section
/-! Configuration at its agents: records staged with their commit wheel, the commit, realignment, and read-backs (R30, R34, R40, R63-R65, R68). -/

namespace Sys2Proof.Claims

open Sys2Proof.Machine

theorem sameMemory_foldl {α : Type} {f : State → α → State} (step : ∀ s a, SameMemory s (f s a)) (xs : List α) (s : State) :
    SameMemory s (xs.foldl f s) :=
  foldl_rel SameMemory.refl SameMemory.trans step xs s

theorem modAlign_sameMemory (s : State) (a : AgentId) (port : Nat) (f : Align → Align) : SameMemory s (modAlign s a port f) :=
  sameMemory_of rfl rfl rfl rfl

theorem modLink_sameMemory (s : State) (l : Nat) (f : Link → Link) : SameMemory s (modLink s l f) := sameMemory_of rfl rfl rfl rfl

/-! ## Staging -/

theorem armCommit_fab (s : State) (a : AgentId) (w : Nat) :
    (armCommit s a w).fab = { s.fab with commits := s.fab.commits.filter (·.1 != a) ++ [(a, w)] } := State.atOnce_fab _ _ _

theorem armCommit_tables (s : State) (a : AgentId) (w : Nat) : (armCommit s a w).fab.tables = s.fab.tables := by rw [armCommit_fab]
theorem armCommit_aligns (s : State) (a : AgentId) (w : Nat) : (armCommit s a w).fab.aligns = s.fab.aligns := by rw [armCommit_fab]
theorem armCommit_core (s : State) (a : AgentId) (w : Nat) : (armCommit s a w).core = s.core := State.atOnce_core _ _ _

theorem armCommit_sameMemory (s : State) (a : AgentId) (w : Nat) : SameMemory s (armCommit s a w) :=
  (sameMemory_of rfl rfl rfl rfl : SameMemory s (s.withFab _)).trans (AgendaOnly.sameMemory (State.atOnce_agendaOnly _ _ _))

/-- The agent's commit register takes W, and the commit stands on the agenda for that wheel's first slot (R64). -/
theorem armCommit_arms (s : State) (a : AgentId) (w : Nat) :
    (a, w) ∈ (armCommit s a w).fab.commits ∧ (max (wheelStart a w) s.now, Act.stagedCommit a) ∈ (armCommit s a w).agenda :=
  ⟨by simp [armCommit_fab], State.mem_atOnce _ _ _⟩

theorem exec_configStageEntries_one (s : State) (w : Nat) (r : CfgRec) :
    ∃ t, exec (.configStageEntries w [r]) s = .next t ∧ SameMemory s t ∧ t.core = s.core ∧
      tableFind t r.agent r.table r.port.toNat r.slot.toNat =
        some { entryAt s r.agent r.table r.port.toNat r.slot.toNat with staged := r.value, spend := true } ∧
      (r.agent, w) ∈ t.fab.commits ∧ (max (wheelStart r.agent w) s.now, Act.stagedCommit r.agent) ∈ t.agenda := by
  let u := tableSet s r.agent r.table r.port.toNat r.slot.toNat fun e => { e with staged := r.value, spend := true }
  obtain ⟨armed, due⟩ := armCommit_arms u r.agent w
  refine ⟨armCommit u r.agent w, rfl, ?_, armCommit_core u _ _, ?_, armed, due⟩
  · exact (sameMemory_of rfl rfl rfl rfl : SameMemory s u).trans (armCommit_sameMemory u _ _)
  · rw [tableFind_congr (armCommit_tables u _ _)]
    exact tableFind_stage s _ _ _ _ _

theorem exec_configStageDepth (s : State) (a : AgentId) (port w : Nat) (d : BitVec 7) :
    ∃ t, exec (.configStageDepth a port w d) s = .next t ∧ SameMemory s t ∧ t.core = s.core ∧
      alignAt t a port = { alignAt s a port with sdepth := d, apend := true } ∧ (a, w) ∈ t.fab.commits ∧
      (max (wheelStart a w) s.now, Act.stagedCommit a) ∈ t.agenda := by
  let u := modAlign s a port fun l => { l with sdepth := d, apend := true }
  obtain ⟨armed, due⟩ := armCommit_arms u a w
  refine ⟨armCommit u a w, rfl, ?_, armCommit_core u _ _, ?_, armed, due⟩
  · exact (modAlign_sameMemory s a port _).trans (armCommit_sameMemory u _ _)
  · rw [alignAt_congr (armCommit_aligns u _ _)]
    exact alignAt_modAlign_same s a port _ (alignAt_key s a port)

/-! ## The commit -/

/-- An entry as its agent's commit leaves it. -/
def committed (a : AgentId) (e : TEntry) : TEntry :=
  if e.agent = a && e.spend then { e with live := e.staged, staged := 0, spend := false, lost := false } else e

theorem openManaged_fab (s : State) : (openManaged s).fab = s.fab := by
  refine foldl_rel (R := fun s t : State => t.fab = s.fab) (fun _ => rfl) (fun h g => g.trans h) (fun t k => ?_) _ s
  dsimp only
  split <;> rfl

theorem commitTables_fab (s : State) (a : AgentId) : (commitTables s a).fab =
    { s.fab with tables := (s.fab.tables.map (committed a)).filter fun e => !(e.live = 0 && e.staged = 0 && !e.spend && !e.lost)
                 commits := s.fab.commits.filter (·.1 != a) } := by
  unfold commitTables
  dsimp only
  split
  · exact openManaged_fab _
  · rfl

/-- An entry with a valid live half is listed. -/
theorem mem_commitTables_of_valid {s : State} {a : AgentId} {e : TEntry} (he : e ∈ s.fab.tables) (valid : entryValid (committed a e).live = true) :
    committed a e ∈ (commitTables s a).fab.tables := by
  have live : (committed a e).live ≠ 0 := fun h => by simp [h, entryValid] at valid
  rw [commitTables_fab]
  exact List.mem_filter.mpr ⟨List.mem_map_of_mem he, by simp only [decide_eq_false live, Bool.false_and, Bool.not_false]⟩

/-- No entry of the agent is left staged. -/
theorem commitTables_unstaged {s : State} {a : AgentId} {e : TEntry} (he : e ∈ (commitTables s a).fab.tables) (ha : e.agent = a) :
    e.spend = false := by
  rw [commitTables_fab] at he
  obtain ⟨o, -, rfl⟩ := List.mem_map.mp (List.mem_filter.mp he).1
  by_cases pending : (o.agent = a && o.spend) = true
  · rw [committed, if_pos pending]
  · rw [committed, if_neg pending] at ha ⊢
    simpa [ha] using pending

/-! ## Realignment (R34, R504) -/

/-- A register that has taken its staged depth. -/
def takeDepth (x : Align) : Align := { x with depth := x.sdepth, sdepth := 0, apend := false }

/-- A link whose flits flow again. -/
def linkUp (k : Link) : Link := { k with state := .up, lost := false }

/-- The end has taken its depth, and its link waits for it no longer. -/
def depthTaken (s : State) (x : Align) : State :=
  modLink (modAlign s x.agent x.port takeDepth) (linkOfEnd x.agent x.port) fun k => { k with waits := k.waits.filter (· != x.agent) }

/-- The link carries flits again, and its hold is lifted. -/
def holdLifted (s : State) (l : Nat) : State :=
  (modLink s l linkUp).withFab fun f => { f with holds := f.holds.filter (·.1 != l) }

theorem depthTaken_leaves (s : State) (x : Align) : (depthTaken s x).fab.tables = s.fab.tables ∧
    (depthTaken s x).fab.commits = s.fab.commits ∧ (depthTaken s x).fab.holds = s.fab.holds := ⟨rfl, rfl, rfl⟩

theorem holdLifted_leaves (s : State) (l : Nat) : (holdLifted s l).fab.tables = s.fab.tables ∧
    (holdLifted s l).fab.commits = s.fab.commits ∧ (holdLifted s l).fab.aligns = s.fab.aligns := ⟨rfl, rfl, rfl⟩

theorem linkAt_holdLifted (s : State) (l : Nat) : linkAt (holdLifted s l) l = linkUp (linkAt s l) :=
  (linkAt_congr (s := modLink s l linkUp) rfl l).trans (linkAt_modLink s l linkUp (linkAt_l s l))

theorem mem_holds_holdLifted {s : State} {l : Nat} {h : Nat × Nat} (hh : h ∈ (holdLifted s l).fab.holds) : h.1 ≠ l := by
  simpa using (List.mem_filter.mp hh).2

theorem alignAt_depthTaken (s : State) (x : Align) : alignAt (depthTaken s x) x.agent x.port = takeDepth (alignAt s x.agent x.port) :=
  (alignAt_congr (s := modAlign s x.agent x.port takeDepth) rfl _ _).trans
    (alignAt_modAlign_same s x.agent x.port takeDepth (alignAt_key s x.agent x.port))

theorem realign_eq (s : State) (x : Align) : realign s x =
    if !(linkAt (depthTaken s x) (linkOfEnd x.agent x.port)).waits.isEmpty then depthTaken s x
    else fabricRecord (refreshHolds (holdLifted (depthTaken s x) (linkOfEnd x.agent x.port))) 0x0704 (x.measd.toNat * 2 ^ 24)
      (x.agent.zeroExtend 64) 16 := rfl

/-- The last end of a link lifts its hold; before it, nothing but the end's depth and the link's list changes. -/
theorem realign_cases (s : State) (x : Align) :
    ((linkAt (depthTaken s x) (linkOfEnd x.agent x.port)).waits ≠ [] ∧ realign s x = depthTaken s x) ∨
    ((linkAt (depthTaken s x) (linkOfEnd x.agent x.port)).waits = [] ∧
      Onward (holdLifted (depthTaken s x) (linkOfEnd x.agent x.port)) (realign s x)) := by
  rw [realign_eq]
  split
  next more => exact .inl ⟨by simpa using more, rfl⟩
  next last => exact .inr ⟨by simpa using last, (refreshHolds_onward _).trans (fabricRecord_onward _ _ _ _ _)⟩

theorem linkAt_depthTaken (s : State) (x : Align) : linkAt (depthTaken s x) (linkOfEnd x.agent x.port) =
    { linkAt s (linkOfEnd x.agent x.port) with waits := (linkAt s (linkOfEnd x.agent x.port)).waits.filter (· != x.agent) } :=
  linkAt_modLink _ _ _ (linkAt_l s _)

/-- Realignment leaves tables and pending commits alone. -/
theorem realign_keeps (s : State) (x : Align) : (realign s x).fab.tables = s.fab.tables ∧ (realign s x).fab.commits = s.fab.commits := by
  obtain ⟨tables, commits, -⟩ := depthTaken_leaves s x
  obtain ⟨-, e⟩ | ⟨-, on⟩ := realign_cases s x
  · rw [e]; exact ⟨tables, commits⟩
  · obtain ⟨tables', commits', -⟩ := holdLifted_leaves (depthTaken s x) (linkOfEnd x.agent x.port)
    exact ⟨on.tables.trans (tables'.trans tables), on.commits.trans (commits'.trans commits)⟩

theorem realigns_keep (xs : List Align) (s : State) :
    (xs.foldl realign s).fab.tables = s.fab.tables ∧ (xs.foldl realign s).fab.commits = s.fab.commits :=
  foldl_rel (R := fun s t : State => t.fab.tables = s.fab.tables ∧ t.fab.commits = s.fab.commits) (fun _ => ⟨rfl, rfl⟩)
    (fun h g => ⟨g.1.trans h.1, g.2.trans h.2⟩) realign_keeps xs s

/-- The end takes its staged depth. -/
theorem alignAt_realign (s : State) (x : Align) : alignAt (realign s x) x.agent x.port = takeDepth (alignAt s x.agent x.port) := by
  obtain ⟨-, e⟩ | ⟨-, on⟩ := realign_cases s x
  · rw [e, alignAt_depthTaken]
  · obtain ⟨-, -, aligns⟩ := holdLifted_leaves (depthTaken s x) (linkOfEnd x.agent x.port)
    rw [on.alignAt, alignAt_congr aligns, alignAt_depthTaken]

/-- The last end brings the link up. -/
theorem realign_last {s : State} {x : Align} (last : ∀ b ∈ (linkAt s (linkOfEnd x.agent x.port)).waits, b = x.agent) :
    (linkAt (realign s x) (linkOfEnd x.agent x.port)).state = .up ∧ (linkAt (realign s x) (linkOfEnd x.agent x.port)).lost = false ∧
      ∀ h ∈ (realign s x).fab.holds, h.1 ≠ linkOfEnd x.agent x.port := by
  have none : (linkAt (depthTaken s x) (linkOfEnd x.agent x.port)).waits = [] := by
    rw [linkAt_depthTaken]
    exact List.filter_eq_nil_iff.mpr fun b hb => by simp [last b hb]
  obtain ⟨more, -⟩ | ⟨-, on⟩ := realign_cases s x
  · exact absurd none more
  · rw [on.linkAt, linkAt_holdLifted, on.holds]
    exact ⟨rfl, rfl, fun h hh => mem_holds_holdLifted hh⟩

/-- An end before the last changes neither the link's state nor a hold. -/
theorem realign_waits {s : State} {x : Align} (more : ∃ b ∈ (linkAt s (linkOfEnd x.agent x.port)).waits, b ≠ x.agent) :
    (linkAt (realign s x) (linkOfEnd x.agent x.port)).state = (linkAt s (linkOfEnd x.agent x.port)).state ∧
      (realign s x).fab.holds = s.fab.holds := by
  obtain ⟨b, hb, other⟩ := more
  obtain ⟨-, e⟩ | ⟨none, -⟩ := realign_cases s x
  · rw [e, linkAt_depthTaken]
    exact ⟨rfl, (depthTaken_leaves s x).2.2⟩
  · rw [linkAt_depthTaken] at none
    exact absurd (List.filter_eq_nil_iff.mp none b hb) (by simp [other])

/-! ## An agent's commit act -/

theorem execStagedCommit_early {s : State} {a : AgentId} {w : Nat} (h : s.fab.commits.find? (·.1 = a) = some (a, w)) (early : s.now < wheelStart a w) :
    exec (.stagedCommit a) s = .next (s.atOnce (wheelStart a w) (.stagedCommit a)) := by
  show execStagedCommit a s = _
  simp only [execStagedCommit, h, if_pos early, done]

theorem execStagedCommit_due {s : State} {a : AgentId} {w : Nat} (h : s.fab.commits.find? (·.1 = a) = some (a, w)) (due : wheelStart a w ≤ s.now) :
    exec (.stagedCommit a) s =
      .next (((commitTables s a).fab.aligns.filter fun x => x.agent = a && x.apend).foldl realign (commitTables s a)) := by
  show execStagedCommit a s = _
  simp only [execStagedCommit, h, if_neg (Nat.not_lt.mpr due), done]

/-- What a commit that is due leaves: nothing staged at its agent, what was staged live, other agents' entries, and the one register that
waited realigned. -/
theorem exec_stagedCommit_due {s : State} {a : AgentId} {w : Nat} (h : s.fab.commits.find? (·.1 = a) = some (a, w)) (due : wheelStart a w ≤ s.now) :
    ∃ t, exec (.stagedCommit a) s = .next t ∧ (∀ c ∈ t.fab.commits, c.1 ≠ a) ∧
      (∀ e ∈ s.fab.tables, e.agent = a → e.spend = true → entryValid e.staged = true →
        { e with live := e.staged, staged := 0, spend := false, lost := false } ∈ t.fab.tables) ∧
      (∀ e ∈ t.fab.tables, e.agent = a → e.spend = false) ∧
      (∀ e ∈ s.fab.tables, e.agent ≠ a → entryValid e.live = true → e ∈ t.fab.tables) ∧
      (∀ x, s.fab.aligns = [x] → x.agent = a → x.apend = true → t = realign (commitTables s a) x) := by
  let u := commitTables s a
  obtain ⟨tables, commits⟩ := realigns_keep (u.fab.aligns.filter fun x => x.agent = a && x.apend) u
  refine ⟨_, execStagedCommit_due h due, fun c hc => ?_, fun e he ha pending valid => ?_, fun e he => ?_, fun e he other valid => ?_,
    fun x hx ha pending => ?_⟩
  · rw [commits, commitTables_fab] at hc
    simpa using (List.mem_filter.mp hc).2
  · have value : committed a e = { e with live := e.staged, staged := 0, spend := false, lost := false } := if_pos (by simp [ha, pending])
    rw [tables, ← value]
    exact mem_commitTables_of_valid he (value ▸ valid)
  · exact commitTables_unstaged (tables ▸ he)
  · have kept : committed a e = e := if_neg (by simp [other])
    rw [tables, ← kept]
    exact mem_commitTables_of_valid he (kept.symm ▸ valid)
  · have one : (commitTables s a).fab.aligns = [x] := by rw [commitTables_fab]; exact hx
    rw [one, List.filter_cons_of_pos (by simp [ha, pending])]
    rfl

/-- The register that waited takes its depth; the last end of its link lifts the hold. -/
theorem realign_of_commit {s : State} {a : AgentId} {x : Align} (hx : s.fab.aligns = [x]) (ha : x.agent = a) :
    alignAt (realign (commitTables s a) x) a x.port = takeDepth x ∧
    ((∀ b ∈ (linkAt s (linkOfEnd a x.port)).waits, b = a) →
      (linkAt (realign (commitTables s a) x) (linkOfEnd a x.port)).state = .up ∧
      (linkAt (realign (commitTables s a) x) (linkOfEnd a x.port)).lost = false ∧
      ∀ h ∈ (realign (commitTables s a) x).fab.holds, h.1 ≠ linkOfEnd a x.port) ∧
    ((∃ b ∈ (linkAt s (linkOfEnd a x.port)).waits, b ≠ a) →
      (linkAt (realign (commitTables s a) x) (linkOfEnd a x.port)).state = (linkAt s (linkOfEnd a x.port)).state ∧
      (realign (commitTables s a) x).fab.holds = s.fab.holds) := by
  subst ha
  have links : ∀ l, linkAt (commitTables s x.agent) l = linkAt s l := linkAt_congr (by rw [commitTables_fab])
  have self : alignAt (commitTables s x.agent) x.agent x.port = x := by
    rw [alignAt, commitTables_fab]
    dsimp only
    rw [hx]
    simp
  refine ⟨?_, fun last => realign_last fun b hb => last b (by rwa [links] at hb), fun more => ?_⟩
  · rw [alignAt_realign, self]
  · obtain ⟨state, holds⟩ := realign_waits (s := commitTables s x.agent) (x := x) (by rwa [links])
    rw [links] at state
    exact ⟨state, holds.trans (by rw [commitTables_fab])⟩

/-! ## Read-backs (R40, R68) -/

theorem exec_configReadback (s : State) (a : AgentId) (port : Nat) :
    ∃ t, exec (.configReadback a port) s = .next t ∧ SameMemory s t ∧ t.core = s.core ∧ t.fab = s.fab ∧
      (s.now + 256, Act.configUp (agentDepth a) (replyFlit a port (alignAt s a port).measd)) ∈ t.agenda :=
  ⟨_, rfl, sameMemory_of rfl rfl rfl rfl, rfl, rfl, State.mem_at _ _ _⟩

theorem exec_configReply_up (s : State) (a : AgentId) (port d : Nat) (m : BitVec 8) (up : 1 < d) :
    exec (.configReply a port d m) s = .next (s.at (s.now + 256) (.configUp (d - 1) (replyFlit a port m))) := by
  show execConfigReply a port d m s = _
  rw [execConfigReply, if_pos up, done]

/-- With no flit on its way and no commit pending, the depth's flit leaves in the next wheel. -/
theorem stageDepth_idle {s : State} (a : AgentId) (port : Nat) (m : BitVec 8) (ha : s.agenda = []) (hc : s.fab.commits = []) :
    stageDepth s a port m = sendConfig (delayChanges s (s.wheel + 1) a (s.wheel + 10)) (s.wheel + 1)
      (cfgFlit 2 (s.wheel + 10) [⟨a, 3, BitVec.ofNat 9 port, 0, BitVec.ofNat 16 (129 - m.toNat)⟩]) := by
  simp [stageDepth, ha, hc, kDepth, tAlign]

theorem sendReadback_idle {s : State} (h : s.fab.readbacks = []) : sendReadback s = s := by
  simp only [sendReadback, h]

/-- At Badger the reply of the only read-back stages 129 - MEASD. -/
theorem exec_configReply_hub (s : State) (a : AgentId) (port d : Nat) (m : BitVec 8) (hub : d ≤ 1) (ha : s.agenda = []) (hc : s.fab.commits = [])
    (hr : s.fab.readbacks = [(a, port)]) :
    ∃ t, exec (.configReply a port d m) s = .next t ∧ SameMemory s t ∧ t.fab.readbacks = [] ∧
      (256 * (s.wheel + 2), Act.configFlit hubAgent (cfgFlit 2 (s.wheel + 10)
        [⟨a, 3, BitVec.ofNat 9 port, 0, BitVec.ofNat 16 (129 - m.toNat)⟩])) ∈ t.agenda := by
  let u := s.withFab fun x => { x with readbacks := x.readbacks.drop 1 }
  have answered : u.fab.readbacks = [] := by simp [u, hr]
  have staged := stageDepth_idle (s := u) a port m ha hc
  have none : (stageDepth u a port m).fab.readbacks = [] := by rw [staged]; exact answered
  refine ⟨stageDepth u a port m, ?_, ?_, none, ?_⟩
  · show execConfigReply a port d m s = _
    rw [execConfigReply, if_neg (Nat.not_lt.mpr hub)]
    exact congrArg Host.Outcome.next (sendReadback_idle none)
  · rw [staged]; exact sameMemory_of rfl rfl rfl rfl
  · rw [staged]; exact State.mem_at _ _ _

end Sys2Proof.Claims
end

section
/-! UCIe links: a request that holds and trains, the end of a training, a link taken down and tried again, and a lost signal (R68, R504, R505). -/

namespace Sys2Proof.Claims

open Sys2Proof.Machine

/-! ## Training -/

/-- A link in training from a wheel. -/
def trainLink (w : Nat) (lost : Bool) (k : Link) : Link := { k with state := .training w, lost := lost }

theorem linkAt_trainFrom (s : State) (l : Fin 352) (w : Nat) (lost : Bool) :
    linkAt (trainFrom s l w lost) l.val = trainLink w lost (linkAt s l.val) :=
  linkAt_modLink s l.val (trainLink w lost) (linkAt_l s l.val)

theorem trainFrom_sameMemory (s : State) (l : Fin 352) (w : Nat) (lost : Bool) : SameMemory s (trainFrom s l w lost) :=
  sameMemory_of rfl rfl rfl rfl

theorem refreshHolds_sameMemory (s : State) : SameMemory s (refreshHolds s) := by
  unfold refreshHolds
  exact sameMemory_of rfl rfl rfl rfl

theorem nameWheel_sameMemory (s : State) (n : Nat) : SameMemory s (nameWheel s n).1 := sameMemory_of rfl rfl rfl rfl

/-- A training ends after 64 wheels at the latest. -/
theorem trainFrom_times (s : State) (l : Fin 352) (w : Nat) (lost : Bool) :
    (256 * (w + 64), Act.linkTrainTimeout l) ∈ (trainFrom s l w lost).agenda := State.mem_at _ _ _

theorem exec_linkRetrainRequest_up (s : State) (l : Fin 352) (up : (linkAt s l.val).state = .up) :
    ∃ t w, exec (.linkRetrainRequest l) s = .next t ∧ SameMemory s t ∧ s.wheel < w ∧ (l.val, w) ∈ t.fab.holds ∧
      linkAt t l.val = trainLink (w + 3) false (linkAt s l.val) ∧
      (256 * (w + 3 + 64), Act.linkTrainTimeout l) ∈ t.agenda := by
  let n := nameWheel s 1
  let held := n.1.withFab fun f => { f with holds := f.holds ++ [(l.val, n.2)] }
  have on := refreshHolds_onward held
  have memory : SameMemory s held := (nameWheel_sameMemory s 1).trans (sameMemory_of rfl rfl rfl rfl)
  refine ⟨trainFrom (refreshHolds held) l (n.2 + 3) false, n.2, ?_,
    (memory.trans (refreshHolds_sameMemory held)).trans (trainFrom_sameMemory _ _ _ _), lt_nameWheel s 1, ?_, ?_, trainFrom_times _ l _ _⟩
  · show execLinkRetrainRequest l s = _
    rw [execLinkRetrainRequest, if_neg (by simp [up]), done]
  · show (l.val, n.2) ∈ (refreshHolds held).fab.holds
    rw [on.holds]
    exact List.mem_append_right _ (List.mem_singleton.mpr rfl)
  · rw [linkAt_trainFrom, on.linkAt]
    exact congrArg (trainLink _ _) ((nameWheel_onward s 1).linkAt l.val)

/-! ## The end of a training -/

theorem dropActs_sameMemory (s : State) (p : Act → Bool) : SameMemory s (dropActs s p) := sameMemory_of rfl rfl rfl rfl

/-- The receiving end of a link away from the hub is no port of the hub. -/
theorem spokeEnd_ne_hub (l : Fin 352) : (spokeEnd l.val).1 ≠ hubAgent := by
  have ofHub : farEnd hubAgent l.val =
      if l.val < 160 then .switch (routerAtHub l.val) 20 129 else .switch (memAgent ((l.val - 160) / 48) 128) ((l.val - 160) % 48) 129 := by
    have kind : agentKind hubAgent = 2 := by decide
    simp [farEnd, kind]
  have below : ∀ n < 2 ^ 18, (BitVec.ofNat 19 n : AgentId) ≠ hubAgent := fun n hn h => by
    have := congrArg BitVec.toNat h
    simp only [hubAgent, BitVec.toNat_ofNat] at this
    omega
  rw [spokeEnd, ofHub]
  split
  next b p d eq =>
    split at eq
    · injection eq with hb _ _
      rw [← hb, routerAtHub, routerAgent, dieAgent]
      refine below _ ?_
      split <;> omega
    · injection eq with hb _ _
      rw [← hb, memAgent]
      exact below _ (by omega)
  next other =>
    split at other <;> exact absurd rfl (other _ _ _)

/-- Both ends hold the delays a training measured. -/
def measured (s : State) (l : Nat) (d : LinkDelays) : State :=
  modAlign (modAlign s hubAgent l fun x => { x with measd := d.up }) (spokeEnd l).1 (spokeEnd l).2 fun x => { x with measd := d.down }

theorem measured_leaves (s : State) (l : Nat) (d : LinkDelays) :
    SameMemory s (measured s l d) ∧ (measured s l d).fab.links = s.fab.links :=
  ⟨(modAlign_sameMemory _ _ _ _).trans (modAlign_sameMemory _ _ _ _), by rw [measured, modAlign_links, modAlign_links]⟩

theorem measured_measd (s : State) (l : Fin 352) (d : LinkDelays) :
    (alignAt (measured s l.val d) hubAgent l.val).measd = d.up ∧
      (alignAt (measured s l.val d) (spokeEnd l.val).1 (spokeEnd l.val).2).measd = d.down := by
  constructor
  · rw [measured, alignAt_modAlign_other _ _ _ _ (spokeEnd_ne_hub l).symm (alignAt_key _ _ _).1,
      alignAt_modAlign_same _ _ _ _ (alignAt_key s _ _)]
  · rw [measured, alignAt_modAlign_same _ _ _ _ (alignAt_key _ _ _)]

/-- The ends that are realigned: those whose delay changed, or the die's when neither did. -/
def trainedEnds (s : State) (l : Nat) (d : LinkDelays) : List (AgentId × Nat) :=
  let changed := (if (alignAt s hubAgent l).measd = d.up then [] else [(hubAgent, l)]) ++
    (if (alignAt s (spokeEnd l).1 (spokeEnd l).2).measd = d.down then [] else [spokeEnd l])
  if changed = [] then [spokeEnd l] else changed

/-- What asking for read-backs leaves: memory, links, alignment registers, and an agenda with nothing added but flits of Badger's. -/
structure Asked (s t : State) : Prop where
  memory : SameMemory s t
  links : t.fab.links = s.fab.links
  aligns : t.fab.aligns = s.fab.aligns
  agenda : ∀ e ∈ t.agenda, e ∈ s.agenda ∨ ∃ d, e.2 = .configFlit hubAgent d

theorem Asked.refl (s : State) : Asked s s := ⟨SameMemory.refl s, rfl, rfl, fun _ => .inl⟩
theorem Asked.trans {s t u : State} (h : Asked s t) (g : Asked t u) : Asked s u :=
  ⟨h.memory.trans g.memory, g.links.trans h.links, g.aligns.trans h.aligns, fun e he => (g.agenda e he).elim (h.agenda e) .inr⟩

/-- A read-back that leaves changes neither the queue of read-backs nor what asking leaves. -/
theorem sendReadback_asked (s : State) : Asked s (sendReadback s) ∧ (sendReadback s).fab.readbacks = s.fab.readbacks := by
  unfold sendReadback
  split
  · exact ⟨Asked.refl s, rfl⟩
  · refine ⟨⟨sameMemory_of rfl rfl rfl rfl, rfl, rfl, fun e he => ?_⟩, rfl⟩
    rcases List.mem_append.mp he with old | new
    · exact .inl old
    · exact .inr ⟨_, congrArg Prod.snd (List.mem_singleton.mp new)⟩

theorem askReadback_asked (s : State) (a : AgentId) (port : Nat) :
    Asked s (askReadback s a port) ∧ (askReadback s a port).fab.readbacks = s.fab.readbacks ++ [(a, port)] := by
  let queued := s.withFab fun x => { x with readbacks := x.readbacks ++ [(a, port)] }
  have plain : Asked s queued := ⟨sameMemory_of rfl rfl rfl rfl, rfl, rfl, fun _ => .inl⟩
  unfold askReadback
  dsimp only
  split
  · exact ⟨plain.trans (sendReadback_asked queued).1, (sendReadback_asked queued).2⟩
  · exact ⟨plain, rfl⟩

theorem askReadbacks_queue (ends : List (AgentId × Nat)) (s : State) :
    (ends.foldl (fun t x => askReadback t x.1 x.2) s).fab.readbacks = s.fab.readbacks ++ ends := by
  induction ends generalizing s with
  | nil => simp
  | cons x xs ih => rw [List.foldl_cons, ih, (askReadback_asked s x.1 x.2).2, List.append_assoc, List.singleton_append]

theorem goodDelay_iff (d : BitVec 8) : goodDelay d = true ↔ 2 ≤ d.toNat ∧ d.toNat ≤ 128 := by simp [goodDelay]

/-- The state in which a training's end is acted on: the delays are stored and its limit is off the agenda. -/
def trainingOver (s : State) (l : Fin 352) (d : LinkDelays) : State := dropActs (measured s l.val d) fun a => a = .linkTrainTimeout l

theorem trainingOver_leaves (s : State) (l : Fin 352) (d : LinkDelays) :
    SameMemory s (trainingOver s l d) ∧ (trainingOver s l d).fab = (measured s l.val d).fab :=
  ⟨(measured_leaves s l.val d).1.trans (dropActs_sameMemory _ _), rfl⟩

theorem trainingOver_wheel (s : State) (l : Fin 352) (d : LinkDelays) : (trainingOver s l d).wheel = s.wheel := by
  show (measured s l.val d).wheel = s.wheel
  rw [measured, modAlign_wheel, modAlign_wheel]

theorem trainingOver_measd (s : State) (l : Fin 352) (d : LinkDelays) :
    (alignAt (trainingOver s l d) hubAgent l.val).measd = d.up ∧
      (alignAt (trainingOver s l d) (spokeEnd l.val).1 (spokeEnd l.val).2).measd = d.down := by
  have aligns : (trainingOver s l d).fab.aligns = (measured s l.val d).fab.aligns := by rw [(trainingOver_leaves s l d).2]
  rw [alignAt_congr aligns, alignAt_congr aligns]
  exact measured_measd s l d

/-- A link that waits for the depths of these ends. -/
def waitFor (ends : List AgentId) (k : Link) : Link := { k with waits := ends }

/-- The link's training has ended well, and it waits for the ends that are realigned. -/
def endsAwaited (s : State) (l : Fin 352) (d : LinkDelays) : State :=
  modLink (trainingOver s l d) l.val (waitFor ((trainedEnds s l.val d).map (·.1)))

theorem endsAwaited_leaves (s : State) (l : Fin 352) (d : LinkDelays) :
    SameMemory s (endsAwaited s l d) ∧ (endsAwaited s l d).fab.aligns = (trainingOver s l d).fab.aligns ∧
      (endsAwaited s l d).fab.readbacks = s.fab.readbacks := by
  refine ⟨(trainingOver_leaves s l d).1.trans (modLink_sameMemory _ _ _), rfl, ?_⟩
  show (trainingOver s l d).fab.readbacks = _
  rw [(trainingOver_leaves s l d).2]
  rfl

theorem linkAt_endsAwaited (s : State) (l : Fin 352) (d : LinkDelays) :
    linkAt (endsAwaited s l d) l.val = waitFor ((trainedEnds s l.val d).map (·.1)) (linkAt s l.val) := by
  have links : (trainingOver s l d).fab.links = s.fab.links := by rw [(trainingOver_leaves s l d).2, (measured_leaves s l.val d).2]
  rw [endsAwaited, linkAt_modLink _ _ _ (linkAt_l (trainingOver s l d) l.val), linkAt_congr links]

theorem exec_linkTrained (s : State) (l : Fin 352) (d : LinkDelays) {w : Nat} (h : (linkAt s l.val).state = .training w) :
    exec (.linkTrained l d) s = .next (if goodDelay d.up && goodDelay d.down then
      (trainedEnds s l.val d).foldl (fun t x => askReadback t x.1 x.2) (endsAwaited s l d)
      else linkDown (trainingOver s l d) l (if goodDelay d.up then spokeEnd l.val else (hubAgent, l.val))) := by
  show execLinkTrained l d s = _
  simp only [execLinkTrained, h, List.isEmpty_iff]
  split <;> rfl

theorem exec_linkTrained_good (s : State) (l : Fin 352) (d : LinkDelays) {w : Nat} (h : (linkAt s l.val).state = .training w)
    (up : goodDelay d.up = true) (down : goodDelay d.down = true) :
    ∃ t, exec (.linkTrained l d) s = .next t ∧ SameMemory s t ∧
      linkAt t l.val = waitFor ((trainedEnds s l.val d).map (·.1)) (linkAt s l.val) ∧
      (alignAt t hubAgent l.val).measd = d.up ∧ (alignAt t (spokeEnd l.val).1 (spokeEnd l.val).2).measd = d.down ∧
      t.fab.readbacks = s.fab.readbacks ++ trainedEnds s l.val d ∧ ∀ e ∈ t.agenda, e.2 ≠ .linkTrainTimeout l := by
  have asked : Asked (endsAwaited s l d) ((trainedEnds s l.val d).foldl (fun t x => askReadback t x.1 x.2) (endsAwaited s l d)) :=
    foldl_rel Asked.refl Asked.trans (fun t (x : AgentId × Nat) => (askReadback_asked t x.1 x.2).1) _ _
  obtain ⟨hub, far⟩ := trainingOver_measd s l d
  obtain ⟨memory, aligns, readbacks⟩ := endsAwaited_leaves s l d
  have same := asked.aligns.trans aligns
  refine ⟨_, exec_linkTrained s l d h, ?_⟩
  rw [up, down, Bool.and_self, if_pos rfl]
  refine ⟨memory.trans asked.memory, ?_, ?_, ?_, ?_, fun e he limit => ?_⟩
  · rw [linkAt_congr asked.links, linkAt_endsAwaited]
  · rw [alignAt_congr same, hub]
  · rw [alignAt_congr same, far]
  · rw [askReadbacks_queue, readbacks]
  · obtain old | ⟨f, flit⟩ := asked.agenda e he
    · simpa [limit] using (List.mem_filter.mp old).2
    · exact nomatch flit.symm.trans limit

/-! ## A link that is down -/

/-- A link that carries nothing until it is tried again. -/
def linkFailed (k : Link) : Link := { k with state := .down, lost := true, waits := [] }

/-- The link is down, and no hold of it is left. -/
def downed (s : State) (l : Fin 352) : State :=
  (modLink s l.val linkFailed).withFab fun f =>
    { f with holds := f.holds.filter (·.1 != l.val) }

theorem downed_aligns (s : State) (l : Fin 352) : (downed s l).fab.aligns = s.fab.aligns := rfl

theorem linkAt_downed (s : State) (l : Fin 352) : linkAt (downed s l) l.val = linkFailed (linkAt s l.val) :=
  (linkAt_congr (s := modLink s l.val linkFailed) rfl l.val).trans (linkAt_modLink s l.val linkFailed (linkAt_l s l.val))

theorem linkDown_spec (s : State) (l : Fin 352) (e : AgentId × Nat) :
    Onward (downed s l) (linkDown s l e) ∧ (256 * (s.wheel + 4096), Act.linkRetry l) ∈ (linkDown s l e).agenda := by
  have recorded : Onward (downed s l) (fabricRecord (refreshHolds (downed s l)) 0x0704
      ((alignAt (refreshHolds (downed s l)) e.1 e.2).measd.toNat * 2 ^ 24 + 2 ^ 16) (e.1.zeroExtend 64) 16) :=
    (refreshHolds_onward _).trans (fabricRecord_onward _ _ _ _ _)
  have wheel : s.wheel = _ := recorded.wheel.symm
  exact ⟨(recorded.trans (breakOver_onward _ _ _)).trans (at_onward _ _ _), wheel ▸ State.mem_at _ _ _⟩

theorem linkAt_linkDown (s : State) (l : Fin 352) (e : AgentId × Nat) : (linkAt (linkDown s l e) l.val).state = .down := by
  rw [(linkDown_spec s l e).1.linkAt, linkAt_downed]
  rfl

theorem exec_linkTrained_bad (s : State) (l : Fin 352) (d : LinkDelays) {w : Nat} (h : (linkAt s l.val).state = .training w)
    (bad : (goodDelay d.up && goodDelay d.down) = false) :
    ∃ t, exec (.linkTrained l d) s = .next t ∧ (linkAt t l.val).state = .down ∧ (alignAt t hubAgent l.val).measd = d.up ∧
      (alignAt t (spokeEnd l.val).1 (spokeEnd l.val).2).measd = d.down ∧ (256 * (s.wheel + 4096), Act.linkRetry l) ∈ t.agenda := by
  obtain ⟨hub, far⟩ := trainingOver_measd s l d
  let e := if goodDelay d.up then spokeEnd l.val else (hubAgent, l.val)
  obtain ⟨on, retry⟩ := linkDown_spec (trainingOver s l d) l e
  have same := on.aligns.trans (downed_aligns (trainingOver s l d) l)
  refine ⟨_, exec_linkTrained s l d h, ?_⟩
  rw [bad, if_neg Bool.false_ne_true]
  exact ⟨linkAt_linkDown _ l e, by rw [alignAt_congr same, hub], by rw [alignAt_congr same, far], trainingOver_wheel s l d ▸ retry⟩

theorem exec_linkTrainTimeout (s : State) (l : Fin 352) {w : Nat} (h : (linkAt s l.val).state = .training w) :
    exec (.linkTrainTimeout l) s = .next (if 256 * (w + 64) ≤ s.now then linkDown s l (hubAgent, l.val) else s) := by
  show execLinkTrainTimeout l s = _
  simp only [execLinkTrainTimeout, h, done]

theorem exec_linkTrainTimeout_over (s : State) (l : Fin 352) {w : Nat} (h : (linkAt s l.val).state = .training w) (late : 256 * (w + 64) ≤ s.now) :
    ∃ t, exec (.linkTrainTimeout l) s = .next t ∧ (linkAt t l.val).state = .down ∧ (256 * (s.wheel + 4096), Act.linkRetry l) ∈ t.agenda :=
  ⟨_, (exec_linkTrainTimeout s l h).trans (by rw [if_pos late]), linkAt_linkDown s l _, (linkDown_spec s l _).2⟩

theorem exec_linkRetry_down (s : State) (l : Fin 352) (h : (linkAt s l.val).state = .down) :
    ∃ t, exec (.linkRetry l) s = .next t ∧ SameMemory s t ∧
      linkAt t l.val = trainLink s.wheel true (linkAt s l.val) ∧
      (256 * (s.wheel + 64), Act.linkTrainTimeout l) ∈ t.agenda := by
  refine ⟨trainFrom s l s.wheel true, ?_, trainFrom_sameMemory s l _ _, linkAt_trainFrom s l _ _, trainFrom_times s l _ _⟩
  show execLinkRetry l s = _
  rw [execLinkRetry, if_pos h, done]

/-! ## A lost signal -/

/-- Nothing but the agenda and the count of free values differs. -/
def AgendaFreshOnly (s t : State) : Prop := t = { s with agenda := t.agenda, fresh := t.fresh }

theorem loseReplies_agendaFresh (s : State) (l : Nat) : AgendaFreshOnly s (loseReplies s l) := by
  unfold loseReplies
  split
  · refine foldl_rel (R := AgendaFreshOnly) (fun _ => rfl) (fun h g => ?_) (fun t r => ?_) _ s
    · unfold AgendaFreshOnly at *
      rw [g, h]
    · dsimp only
      split <;> rfl
  · rfl

/-- The flits and replies on the link are gone, and no limit of an earlier training stands. -/
def signalLost (s : State) (l : Fin 352) : State := dropActs (loseReplies (loseFlits s l.val) l.val) fun a => a = .linkTrainTimeout l

theorem signalLost_leaves (s : State) (l : Fin 352) :
    SameMemory s (signalLost s l) ∧ (signalLost s l).now = s.now ∧ (signalLost s l).fab = (loseFlits s l.val).fab := by
  have lost : (signalLost s l).mem = s.mem ∧ (signalLost s l).tags = s.tags ∧ (signalLost s l).fe = s.fe ∧
      (signalLost s l).poison = s.poison ∧ (signalLost s l).now = s.now ∧ (signalLost s l).fab = (loseFlits s l.val).fab := by
    rw [signalLost, loseReplies_agendaFresh (loseFlits s l.val) l.val]
    exact ⟨rfl, rfl, rfl, rfl, rfl, rfl⟩
  obtain ⟨mem, tags, fe, poison, now, fab⟩ := lost
  exact ⟨sameMemory_of mem tags fe poison, now, fab⟩

theorem breakOver_sameMemory (s : State) (l reason : Nat) : SameMemory s (breakOver s l reason) :=
  sameMemory_foldl (f := fun t c => breakSoon t c reason) (fun _ _ => sameMemory_of rfl rfl rfl rfl) _ s

/-- An act that is added or not. -/
theorem at_if (c : Bool) (s : State) (t : Nat) (a : Act) :
    Onward s (if c then s.at t a else s) ∧ SameMemory s (if c then s.at t a else s) := by
  cases c with
  | true => exact ⟨at_onward s t a, sameMemory_of rfl rfl rfl rfl⟩
  | false => exact ⟨Onward.refl s, SameMemory.refl s⟩

/-- The breaks of the core's own fixed circuits where the link carries them. -/
def fixedBreaks (s t : State) (l w : Nat) : State :=
  let t := if memoryLink s l then t.at (256 * w) (.circuitBreak (coreEp s.core.gcore 31) 3) else t
  if controlLink s l then t.at (256 * w) (.circuitBreak (coreEp s.core.gcore 30) 3) else t

theorem fixedBreaks_leaves (s t : State) (l w : Nat) : Onward t (fixedBreaks s t l w) ∧ SameMemory t (fixedBreaks s t l w) := by
  obtain ⟨on1, memory1⟩ := at_if (memoryLink s l) t (256 * w) (.circuitBreak (coreEp s.core.gcore 31) 3)
  obtain ⟨on2, memory2⟩ := at_if (controlLink s l) _ (256 * w) (.circuitBreak (coreEp s.core.gcore 30) 3)
  exact ⟨on1.trans on2, memory1.trans memory2⟩

/-- The state in which a link whose signal was lost begins to train: Badger has named a wheel, and for it the breaks of the link's circuits. -/
def signalBreaks (s : State) (l : Fin 352) : State :=
  let n := nameWheel (signalLost s l) 1
  fixedBreaks s (breakOver n.1 l.val 3) l.val n.2

theorem signalBreaks_leaves (s : State) (l : Fin 352) :
    SameMemory s (signalBreaks s l) ∧ ∀ c ∈ s.fab.circuits, circuitCrosses c l.val = true →
      ∃ n, (n, Act.circuitBreak c.src 3) ∈ (signalBreaks s l).agenda := by
  obtain ⟨memory, -, fab⟩ := signalLost_leaves s l
  let n := nameWheel (signalLost s l) 1
  obtain ⟨on, same⟩ := fixedBreaks_leaves s (breakOver n.1 l.val 3) l.val n.2
  refine ⟨((memory.trans (nameWheel_sameMemory _ 1)).trans (breakOver_sameMemory n.1 l.val 3)).trans same, fun c hc crosses => ?_⟩
  have circuits : n.1.fab.circuits = s.fab.circuits := (nameWheel_onward _ 1).circuits.trans (by rw [fab]; rfl)
  obtain ⟨m, hm⟩ := breakOver_mem (s := n.1) l.val 3 (circuits ▸ hc) crosses
  exact ⟨m, on.agenda hm⟩

theorem exec_linkSignalLoss (s : State) (l : Fin 352) (h : (linkAt s l.val).state ≠ .down) :
    ∃ t w, exec (.linkSignalLoss l) s = .next t ∧ SameMemory s t ∧ s.wheel < w ∧
      (linkAt t l.val).state = .training (w + 3) ∧ (linkAt t l.val).lost = true ∧ linkCarries t l.val = false ∧
      (256 * (w + 67), Act.linkTrainTimeout l) ∈ t.agenda ∧
      ∀ c ∈ s.fab.circuits, circuitCrosses c l.val = true → ∃ n, (n, Act.circuitBreak c.src 3) ∈ t.agenda := by
  obtain ⟨memory, breaks⟩ := signalBreaks_leaves s l
  let w := (nameWheel (signalLost s l) 1).2
  have link := linkAt_trainFrom (signalBreaks s l) l (w + 3) true
  have wheel : (signalLost s l).wheel = s.wheel := congrArg (· / 256) (signalLost_leaves s l).2.1
  refine ⟨trainFrom (signalBreaks s l) l (w + 3) true, w, ?_, memory.trans (trainFrom_sameMemory _ _ _ _), wheel ▸ lt_nameWheel _ 1,
    congrArg Link.state link, congrArg Link.lost link, ?_, trainFrom_times _ l (w + 3) true, fun c hc crosses => ?_⟩
  · show execLinkSignalLoss l s = _
    rw [execLinkSignalLoss, if_neg h, done]
    rfl
  · rw [linkCarries, link]
    rfl
  · obtain ⟨n, hn⟩ := breaks c hc crosses
    exact ⟨n, State.at_keeps _ _ hn⟩

end Sys2Proof.Claims
end

section
/-! Inter-package ports and domain planes: exchanges of time, locks, and the flits they bring and relay (R47-R52, R506). -/

namespace Sys2Proof.Claims

open Sys2Proof.Machine

/-! ## Exchanges of time (R49, R506) -/

/-- Nothing but slot-table entries and circuits differs. -/
def EntriesAndCircuits (s t : State) : Prop := t = { s with fab := { s.fab with tables := t.fab.tables, circuits := t.fab.circuits } }

theorem EntriesAndCircuits.trans {s t u : State} (h : EntriesAndCircuits s t) (g : EntriesAndCircuits t u) : EntriesAndCircuits s u := by
  unfold EntriesAndCircuits at *
  rw [g, h]

theorem EntriesAndCircuits.ports {s t : State} (h : EntriesAndCircuits s t) : t.fab.ports = s.fab.ports := by rw [h]
theorem EntriesAndCircuits.core {s t : State} (h : EntriesAndCircuits s t) : t.core = s.core := by rw [h]
theorem EntriesAndCircuits.sameMemory {s t : State} (h : EntriesAndCircuits s t) : SameMemory s t := by
  rw [h]
  exact sameMemory_of rfl rfl rfl rfl

theorem tableSet_leaves (s : State) (a : AgentId) (t : BitVec 2) (port slot : Nat) (f : TEntry → TEntry) :
    EntriesAndCircuits s (tableSet s a t port slot f) := rfl

theorem layNow_leaves (s : State) (cs : List Claim) : EntriesAndCircuits s (layNow s cs) :=
  foldl_rel (R := EntriesAndCircuits) (fun _ => rfl) (fun h g => h.trans g) (fun _ _ => tableSet_leaves _ _ _ _ _ _) cs s

/-- Laying the exchange circuits of a port changes entries and circuits alone (R52). -/
theorem layExchange_leaves (s : State) (p : Fin 16) : EntriesAndCircuits s (layExchange s p) := by
  refine foldl_rel (R := EntriesAndCircuits) (fun _ => rfl) (fun h g => h.trans g) (fun t c => ?_) _ s
  have listed : EntriesAndCircuits t (t.withFab fun f => { f with circuits := f.circuits.filter (·.src != c.src) ++ [c] }) := rfl
  exact listed.trans (layNow_leaves _ _)

/-- A port as an exchange leaves it, before its counts. -/
def stampPort (measd offset : BitVec 16) (wheel : Nat) (p : Port) : Port :=
  { p with measd := measd, k := BitVec.ofNat 8 (portK measd.toNat), offset := offset, lastWheel := wheel }

/-- A port that has lost its lock. -/
def unlocked (p : Port) : Port := { p with lock := 1, good := 0, bad := 0 }

/-- A port that needs K above 2, down until a wheel. -/
def portDown (wheel : Nat) (p : Port) : Port := { p with lock := 0, good := 0, bad := 0, retry := wheel }

/-- What follows the counts of an exchange: a lock lost, or the circuits of one that is new. -/
def afterCounts (s : State) (p : Fin 16) (was : Port) : State :=
  let q := s.fab.ports[p]
  if q.lock = 2 && 2 ≤ q.bad then loseLock s p else if q.lock = 2 && was.lock != 2 then layExchange s p else s

theorem afterCounts_loses {s : State} {p : Fin 16} (was : Port) (h : (s.fab.ports[p]).lock = 2 ∧ 2 ≤ (s.fab.ports[p]).bad) :
    afterCounts s p was = loseLock s p := by
  rw [afterCounts, if_pos (by simpa only [Bool.and_eq_true, decide_eq_true_eq] using h)]

theorem afterCounts_keeps {s : State} {p : Fin 16} (was : Port) (h : ¬ 2 ≤ (s.fab.ports[p]).bad) :
    EntriesAndCircuits s (afterCounts s p was) := by
  rw [afterCounts, if_neg (by simp only [Bool.and_eq_true, decide_eq_true_eq]; exact fun c => h c.2)]
  split
  · exact layExchange_leaves s p
  · rfl

/-- A port that has counted a bad exchange. -/
def missed (p : Port) : Port := { p with good := 0, bad := p.bad + 1 }

theorem afterExchange_locked_bad {p : Port} (h : p.lock = 2) : afterExchange p false = missed p := by
  simp [afterExchange, missed, h]

/-- A good exchange counts, and the sixteenth locks the port. -/
theorem afterExchange_good (p : Port) :
    afterExchange p true = { p with good := p.good + 1, bad := 0, lock := if p.lock = 2 ∨ 16 ≤ p.good + 1 then 2 else 1 } := by
  by_cases h : p.lock = 2
  · simp [afterExchange, h]
  · have notLocked : (p.lock != 2) = true := by simpa only [bne_iff_ne] using h
    simp only [afterExchange, if_true, notLocked, h, false_or]

theorem loseLock_onward (s : State) (p : Fin 16) : Onward (modPort s p unlocked) (loseLock s p) :=
  (fabricRecord_onward _ _ _ _ _).trans (breakExchange_onward _ p)

theorem loseLock_port (s : State) (p : Fin 16) : (loseLock s p).fab.ports[p] = unlocked s.fab.ports[p] := by
  rw [(loseLock_onward s p).ports]
  exact modPort_same s p unlocked

theorem loseLock_other (s : State) {p r : Fin 16} (h : r ≠ p) : (loseLock s p).fab.ports[r] = s.fab.ports[r] := by
  rw [(loseLock_onward s p).ports]
  exact modPort_other s unlocked h

/-- The state after the counts of an exchange, with the check for 256 quiet wheels on the agenda. -/
def counted (s : State) (p : Fin 16) (measd offset : BitVec 16) : State :=
  (modPort s p fun q => afterExchange (stampPort measd offset s.wheel q) (inTime offset)).at (256 * (s.wheel + 256)) (.portQuiet p)

theorem counted_port (s : State) (p : Fin 16) (measd offset : BitVec 16) :
    (counted s p measd offset).fab.ports[p] = afterExchange (stampPort measd offset s.wheel s.fab.ports[p]) (inTime offset) :=
  modPort_same s p fun q => afterExchange (stampPort measd offset s.wheel q) (inTime offset)

theorem counted_leaves (s : State) (p : Fin 16) (measd offset : BitVec 16) :
    SameMemory s (counted s p measd offset) ∧ (counted s p measd offset).core = s.core := ⟨sameMemory_of rfl rfl rfl rfl, rfl⟩

theorem exec_timeSyncExchange_early (s : State) (p : Fin 16) (x y : Stamps) (early : s.wheel < (s.fab.ports[p]).retry) :
    exec (.timeSyncExchange p x y) s = .next s := by
  show execTimeSyncExchange p x y s = _
  rw [execTimeSyncExchange, if_pos early, done]

theorem exec_timeSyncExchange_counts (s : State) (p : Fin 16) (x y : Stamps) (ready : (s.fab.ports[p]).retry ≤ s.wheel)
    (near : portK (BitVec.ofInt 16 (syncDelay x.sent x.arrived y.sent y.arrived)).toNat ≤ 2) :
    exec (.timeSyncExchange p x y) s = .next (afterCounts (counted s p (BitVec.ofInt 16 (syncDelay x.sent x.arrived y.sent y.arrived))
      (BitVec.ofInt 16 (syncOffset x.sent x.arrived y.sent y.arrived))) p s.fab.ports[p]) := by
  show execTimeSyncExchange p x y s = _
  rw [execTimeSyncExchange, if_neg (Nat.not_lt.mpr ready), if_neg (Nat.not_lt.mpr near), modPort_modPort, done]
  rfl

theorem exec_timeSyncExchange_far (s : State) (p : Fin 16) (x y : Stamps) (ready : (s.fab.ports[p]).retry ≤ s.wheel)
    (far : 2 < portK (BitVec.ofInt 16 (syncDelay x.sent x.arrived y.sent y.arrived)).toNat) :
    ∃ t, exec (.timeSyncExchange p x y) s = .next t ∧ (t.fab.ports[p]).lock = 0 ∧ (t.fab.ports[p]).retry = s.wheel + 4096 := by
  let measd := BitVec.ofInt 16 (syncDelay x.sent x.arrived y.sent y.arrived)
  let offset := BitVec.ofInt 16 (syncOffset x.sent x.arrived y.sent y.arrived)
  let recorded := fabricRecord (modPort s p (stampPort measd offset s.wheel)) 0x0704 (fld (measd.zeroExtend 64) 7 0 * 2 ^ 24 + 2 ^ 16)
    (hubAgent.zeroExtend 64) 16
  let fallen := modPort recorded p (portDown (s.wheel + 4096))
  have port : fallen.fab.ports[p] = portDown (s.wheel + 4096) recorded.fab.ports[p] := modPort_same _ p _
  refine ⟨if (s.fab.ports[p]).lock = 2 then breakExchange fallen p else fallen, ?_, ?_⟩
  · show execTimeSyncExchange p x y s = _
    rw [execTimeSyncExchange, if_neg (Nat.not_lt.mpr ready), if_pos far, done]
    rfl
  · have same : (if (s.fab.ports[p]).lock = 2 then breakExchange fallen p else fallen).fab.ports = fallen.fab.ports := by
      split
      · exact (breakExchange_onward _ p).ports
      · rfl
    rw [same, port]
    exact ⟨rfl, rfl⟩

/-- A good exchange leaves its counts, whether or not the circuits of a new lock are laid. -/
theorem afterCounts_good (s : State) (p : Fin 16) (measd offset : BitVec 16) (good : inTime offset = true) :
    SameMemory s (afterCounts (counted s p measd offset) p s.fab.ports[p]) ∧
      (afterCounts (counted s p measd offset) p s.fab.ports[p]).core = s.core ∧
      (afterCounts (counted s p measd offset) p s.fab.ports[p]).fab.ports[p] =
        afterExchange (stampPort measd offset s.wheel s.fab.ports[p]) true := by
  have port := counted_port s p measd offset
  obtain ⟨memory, core⟩ := counted_leaves s p measd offset
  rw [good] at port
  have kept : EntriesAndCircuits _ (afterCounts (counted s p measd offset) p s.fab.ports[p]) :=
    afterCounts_keeps _ (by rw [port, afterExchange_good]; exact Nat.not_succ_le_zero 1)
  exact ⟨memory.trans kept.sameMemory, kept.core.trans core, by rw [kept.ports, port]⟩

/-- A locked port counts a bad exchange, and the second in a row unlocks it. -/
theorem afterCounts_bad (s : State) (p : Fin 16) (measd offset : BitVec 16) (bad : inTime offset = false) (locked : (s.fab.ports[p]).lock = 2) :
    (afterCounts (counted s p measd offset) p s.fab.ports[p]).fab.ports[p] =
      if 1 ≤ (s.fab.ports[p]).bad then unlocked (missed (stampPort measd offset s.wheel s.fab.ports[p]))
      else missed (stampPort measd offset s.wheel s.fab.ports[p]) := by
  have port : (counted s p measd offset).fab.ports[p] = missed (stampPort measd offset s.wheel s.fab.ports[p]) := by
    rw [counted_port, bad, afterExchange_locked_bad (p := stampPort measd offset s.wheel s.fab.ports[p]) locked]
  split
  next second => rw [afterCounts_loses _ (by rw [port]; exact ⟨locked, Nat.succ_le_succ second⟩), loseLock_port, port]
  next first => rw [(afterCounts_keeps _ (by rw [port]; exact fun h => first (Nat.le_of_succ_le_succ h))).ports, port]

theorem inTime_eq (offset : BitVec 16) : inTime offset = decide (-2 ≤ offset.toInt ∧ offset.toInt ≤ 2) := by
  rw [inTime, Bool.decide_and]

/-! ## Locks -/

theorem exec_portLockLoss (s : State) (p : Fin 16) : exec (.portLockLoss p) s =
    .next (if (s.fab.ports[p]).lock = 2 ∧ (2 ≤ (s.fab.ports[p]).bad ∨ (s.fab.ports[p]).lastWheel + 256 ≤ s.wheel) then loseLock s p else s) := by
  show execPortLockLoss p s = _
  simp only [execPortLockLoss, Bool.and_eq_true, decide_eq_true_eq, Bool.or_eq_true, done]

/-! ## Flits in and out (R47, R48, R51) -/

theorem exec_interpkgFlitArrive (s : State) (p : Fin 16) (f : Flit) (w : Nat) : exec (.interpkgFlitArrive p f w) s = .next (portArrive s p f w) := rfl

/-- A management flit's slot is no circuit's. -/
theorem circuitSlot_of_timeSlot {k : Nat} (h : timeSlot k = true) : circuitSlot k = false := by
  simp only [timeSlot, Bool.and_eq_true, decide_eq_true_eq] at h
  simp [circuitSlot]
  omega

theorem timeSlot_of_circuitSlot {k : Nat} (h : circuitSlot k = true) : timeSlot k = false := by
  cases e : timeSlot k with
  | false => rfl
  | true => exact absurd h (by simp [circuitSlot_of_timeSlot e])

theorem placeFlit_leaves (s : State) (a : AgentId) (port time : Nat) (f : Flit) :
    SameMemory s (placeFlit s a port time f) ∧ (placeFlit s a port time f).core = s.core ∧
      (placeFlit s a port time f).fab.flits = s.fab.flits ++ [⟨a, port, time, f⟩] := by
  refine ⟨?_, State.atOnce_core _ _ _, by rw [placeFlit, State.atOnce_fab]⟩
  exact (sameMemory_of rfl rfl rfl rfl : SameMemory s (s.withFab _)).trans (AgendaOnly.sameMemory (State.atOnce_agendaOnly _ _ _))

/-- An arriving flit waits at the crossbar, or is discarded. -/
theorem portArrive_leaves (s : State) (p : Fin 16) (f : Flit) (w : Nat) : SameMemory s (portArrive s p f w) ∧ (portArrive s p f w).core = s.core := by
  have placed := fun time => placeFlit_leaves s hubAgent (352 + p.val) time f
  unfold portArrive
  dsimp only
  split
  · split
    · exact ⟨(placed _).1, (placed _).2.1⟩
    · exact ⟨SameMemory.refl s, rfl⟩
  · split
    · exact ⟨(placed _).1, (placed _).2.1⟩
    · exact ⟨SameMemory.refl s, rfl⟩

theorem portArrive_circuit (s : State) (p : Fin 16) (f : Flit) (w : Nat) (h : circuitSlot f.slot.val = true) :
    portArrive s p f w = if (s.fab.ports[p]).lock = 2 then
      placeFlit s hubAgent (352 + p.val) (max (s.now + 1) (256 * (w + (s.fab.ports[p]).k.toNat) + f.slot.val + 1)) f else s := by
  simp only [portArrive, h, if_true]

theorem portArrive_time (s : State) (p : Fin 16) (f : Flit) (w : Nat) (h : timeSlot f.slot.val = true) :
    portArrive s p f w =
      placeFlit s hubAgent (352 + p.val) (max (s.now + 1) (256 * (w + (s.fab.ports[p]).k.toNat + 1) + f.slot.val)) f := by
  simp only [portArrive, circuitSlot_of_timeSlot h, h, if_true, Bool.false_eq_true, if_false]

theorem exec_planeRelay (s : State) (p : Fin 16) (g : Fin 64) (f : Flit) (w : Nat) : exec (.planeRelay p g f w) s =
    .next (if planeOut s.fab.perms[p] g.val f.slot.val w = some (pkgNo s) && g.val != pkgNo s then portArrive s p f w else s) := rfl

theorem exec_planeRelay_leaves (s : State) (p : Fin 16) (g : Fin 64) (f : Flit) (w : Nat) :
    ∃ t, exec (.planeRelay p g f w) s = .next t ∧ SameMemory s t ∧ t.core = s.core ∧ (g.val = pkgNo s → t = s) := by
  refine ⟨_, exec_planeRelay s p g f w, ?_⟩
  split
  next relayed =>
    have other : g.val ≠ pkgNo s := by simpa using (Bool.and_eq_true_iff.mp relayed).2
    exact ⟨(portArrive_leaves s p f w).1, (portArrive_leaves s p f w).2, fun own => absurd own other⟩
  next => exact ⟨SameMemory.refl s, rfl, fun _ => rfl⟩

/-- A flit in a circuit slot goes where the permutation of its wheel sends its package. -/
theorem exec_planeRelay_circuit (s : State) (p : Fin 16) (g : Fin 64) (f : Flit) (w n : Nat) (perm : PlanePerm) (other : g.val ≠ pkgNo s)
    (slot : circuitSlot f.slot.val = true) (hp : (s.fab.perms[p]).find? (·.wheel = w) = some perm)
    (hn : perm.pairs.find? (·.1 = g.val) = some (g.val, n)) :
    exec (.planeRelay p g f w) s = if n = pkgNo s then exec (.interpkgFlitArrive p f w) s else .next s := by
  have out : planeOut s.fab.perms[p] g.val f.slot.val w = some n := by
    simp only [planeOut, timeSlot_of_circuitSlot slot, slot, hp, hn, Bool.false_eq_true, if_false, if_true, Option.bind_some, Option.map_some]
  rw [exec_planeRelay, out, exec_interpkgFlitArrive]
  by_cases own : n = pkgNo s
  · simp [own, other]
  · simp [own]

/-- A flit in a management slot goes to the package its wheel names. -/
theorem exec_planeRelay_time (s : State) (p : Fin 16) (g : Fin 64) (f : Flit) (w : Nat) (slot : timeSlot f.slot.val = true)
    (named : g.val ^^^ (w % 64) = pkgNo s) (other : g.val ≠ pkgNo s) :
    exec (.planeRelay p g f w) s = exec (.interpkgFlitArrive p f w) s := by
  have out : planeOut s.fab.perms[p] g.val f.slot.val w = some (pkgNo s) := by rw [planeOut, if_pos slot, named]
  rw [exec_planeRelay, out, exec_interpkgFlitArrive]
  simp [other]

/-- All planes take the permutations, in place of those they had for the same wheels. -/
theorem setPerms_leaves (s : State) (perms : List PlanePerm) : SameMemory s (setPerms s perms) ∧ (setPerms s perms).core = s.core ∧
    ∀ q : Fin 16, (setPerms s perms).fab.perms[q] = perms ++ (s.fab.perms[q]).filter fun o => !perms.any (·.wheel = o.wheel) := by
  unfold setPerms
  exact ⟨sameMemory_of rfl rfl rfl rfl, rfl, fun q => by simp [vmap]⟩

theorem exec_planeControlFlit_zero (s : State) (p : Fin 16) (perms : List PlanePerm) :
    exec (.planeControlFlit p 0 perms) s = .next (setPerms s perms) := by
  show execPlaneControlFlit p 0 perms s = _
  rw [execPlaneControlFlit, if_neg (by decide), done]

theorem exec_planeControlFlit_other (s : State) (p : Fin 16) {g : Fin 64} (perms : List PlanePerm) (h : g ≠ 0) :
    exec (.planeControlFlit p g perms) s = .next s := by
  have value : g.val ≠ 0 := fun e => h (Fin.ext e)
  show execPlaneControlFlit p g perms s = _
  rw [execPlaneControlFlit, if_pos (by simpa using value), done]

end Sys2Proof.Claims
end

section
/-! The fabric's configuration, its links, and its ports and planes together (R30, R34, R40, R47-R51, R63-R65, R68, R504-R506). -/

namespace Sys2Proof.Claims

open Sys2Proof.Machine

/-- Settles O43, each clause by the lemma of its act. -/
theorem fabricConfiguresTrainsAndCarries : Obligations.FabricConfiguresTrainsAndCarries := by
  refine ⟨⟨fun s w r => ?stageEntry, exec_configStageDepth, fun s a w h => ⟨fun early => ?commitEarly, fun due => ?commitDue⟩, exec_configReadback,
    fun s a port d m => ⟨exec_configReply_up s a port d m, exec_configReply_hub s a port d m⟩⟩,
    fun s l => ⟨exec_linkRetrainRequest_up s l, fun u d w h u2 u128 d2 d128 => ?trainedGood, fun u d w h bad => ?trainedBad,
      fun w h => ⟨exec_linkTrainTimeout_over s l h, fun early => ?timeoutEarly⟩, exec_linkRetry_down s l, exec_linkSignalLoss s l⟩,
    fun s p t1 t2 t3 t4 => ?exchangeNear, fun s p t1 t2 t3 t4 => ⟨exec_timeSyncExchange_early s p ⟨t1, t2⟩ ⟨t3, t4⟩,
      exec_timeSyncExchange_far s p ⟨t1, t2⟩ ⟨t3, t4⟩⟩,
    fun s p => ⟨fun locked lost => ?lockLost, fun kept => ?lockKept⟩,
    fun s p f w => ⟨fun slot locked => ?circuitTaken, fun slot unlocked => ?circuitDiscarded, fun slot => ?managementTaken⟩, exec_planeRelay_leaves,
    fun s p g f w perm other slot hp n hn => exec_planeRelay_circuit s p g f w n perm other slot hp hn,
    fun s p g f w slot named other => exec_planeRelay_time s p g f w slot named other,
    fun s p perms => ⟨⟨_, exec_planeControlFlit_zero s p perms, setPerms_leaves s perms⟩,
      fun g other => exec_planeControlFlit_other s p perms other⟩⟩
  case stageEntry =>
    obtain ⟨t, eq, memory, core, found, armed, due⟩ := exec_configStageEntries_one s w r
    exact ⟨t, _, eq, memory, core, found, rfl, rfl, entryAt_live s _ _ _ _, armed, due⟩
  case commitEarly => exact ⟨_, execStagedCommit_early h early, State.mem_atOnce _ _ _, State.atOnce_fab _ _ _⟩
  case commitDue =>
    obtain ⟨t, eq, commits, live, unstaged, others, realigned⟩ := exec_stagedCommit_due h due
    refine ⟨t, eq, commits, live, unstaged, others, fun x hx ha pending => ?_⟩
    rw [realigned x hx ha pending]
    exact realign_of_commit hx ha
  case trainedGood =>
    exact exec_linkTrained_good s l ⟨u, d⟩ h ((goodDelay_iff u).mpr ⟨u2, u128⟩) ((goodDelay_iff d).mpr ⟨d2, d128⟩)
  case trainedBad =>
    refine exec_linkTrained_bad s l ⟨u, d⟩ h (Bool.eq_false_iff.mpr fun both => bad ?_)
    obtain ⟨up, down⟩ := Bool.and_eq_true_iff.mp both
    obtain ⟨u2, u128⟩ := (goodDelay_iff u).mp up
    obtain ⟨d2, d128⟩ := (goodDelay_iff d).mp down
    exact ⟨u2, u128, d2, d128⟩
  case timeoutEarly => rw [exec_linkTrainTimeout s l h, if_neg (Nat.not_le.mpr early)]
  case exchangeNear =>
    intro off m near ready q good
    have counts := exec_timeSyncExchange_counts s p ⟨t1, t2⟩ ⟨t3, t4⟩ ready near
    refine ⟨fun inside => ?_, fun outside locked second => ?_, fun outside locked first => ?_⟩
    · obtain ⟨memory, core, port⟩ := afterCounts_good s p m off ((inTime_eq off).trans inside)
      rw [afterExchange_good] at port
      exact ⟨_, counts, memory, core, congrArg Port.measd port, congrArg Port.k port, congrArg Port.offset port,
        congrArg Port.lastWheel port, congrArg Port.good port, congrArg Port.bad port, congrArg Port.lock port⟩
    · have port := afterCounts_bad s p m off ((inTime_eq off).trans outside) locked
      rw [if_pos second] at port
      exact ⟨_, counts, congrArg Port.lock port, congrArg Port.good port⟩
    · have port := afterCounts_bad s p m off ((inTime_eq off).trans outside) locked
      rw [if_neg (Nat.not_le.mpr (Nat.lt_one_iff.mpr first))] at port
      exact ⟨_, counts, (congrArg Port.lock port).trans locked, (congrArg Port.bad port).trans (congrArg (· + 1) first)⟩
  case lockLost =>
    have port := loseLock_port s p
    exact ⟨_, (exec_portLockLoss s p).trans (by rw [if_pos ⟨locked, lost⟩]), congrArg Port.lock port, congrArg Port.good port,
      congrArg Port.bad port, fun r other => loseLock_other s other⟩
  case lockKept => rw [exec_portLockLoss, if_neg kept]
  case circuitTaken =>
    obtain ⟨memory, -, flits⟩ := placeFlit_leaves s hubAgent (352 + p.val)
      (max (s.now + 1) (256 * (w + (s.fab.ports[p]).k.toNat) + f.slot.val + 1)) f
    exact ⟨_, by rw [exec_interpkgFlitArrive, portArrive_circuit s p f w slot, if_pos locked], memory, flits⟩
  case circuitDiscarded => rw [exec_interpkgFlitArrive, portArrive_circuit s p f w slot, if_neg unlocked]
  case managementTaken =>
    obtain ⟨memory, -, flits⟩ := placeFlit_leaves s hubAgent (352 + p.val)
      (max (s.now + 1) (256 * (w + (s.fab.ports[p]).k.toNat + 1) + f.slot.val)) f
    exact ⟨_, by rw [exec_interpkgFlitArrive, portArrive_time s p f w slot], memory, flits⟩

end Sys2Proof.Claims
end

section
/-! A flit that meets an idle entry at a pseudo-channel's NI is dropped with a record, which the hub writes to memory (R478, R501). So moving a
flit over one output does not always leave memory as it was, as FlitsMoveBetweenEndpoints says it does. -/

namespace Sys2Proof.Claims

open Sys2Proof.Machine

theorem soundFlit_sealFlit (f : Flit) : soundFlit (sealFlit f) = true := by simp [soundFlit, sealFlit, flitCode]

/-- A sound flit passes a switch's check as it is. -/
theorem checkFlit_of_sound {s : State} {a : AgentId} {f : Flit} (h : soundFlit f = true) : checkFlit s a f = (f, s) := by
  rw [checkFlit, if_pos h]

/-- A switch with one flit that is due takes it off its inputs and moves it. -/
theorem exec_switchSlot_one {s : State} {q : InFlit} (hq : s.fab.flits = [q]) (due : q.time ≤ s.now) :
    exec (.switchSlot q.agent) s = .next (switchFlit (s.withFab fun x => { x with flits := [] }) q) := by
  show execSwitchSlot q.agent s = _
  simp [execSwitchSlot, State.withFab, hq, due, done]

/-- A sound flit that one output takes is sent on it. -/
theorem switchFlit_one {s : State} {q : InFlit} {o : Nat} (sound : soundFlit q.flit = true)
    (one : outputsFor s q.agent q.port (slotFin q.agent s.now).val = [o]) :
    switchFlit s q = sendOn s q.agent o { q.flit with slot := slotFin q.agent s.now } := by
  simp only [switchFlit, checkFlit_of_sound sound, one, List.foldl_cons, List.foldl_nil]

/-- A sealed flit at input 0 of memory die 0's switch. -/
def droppedFlit : InFlit := ⟨memAgent 0 128, 0, 0, sealFlit ⟨0, true, true, false, 0, 0⟩⟩

/-- The flit is due, the entry of output 48 for its slot names its input, pseudo-channel 0 behind that output owns no slot, and the hub's error ring
has room for one record at address 0. -/
def droppingState : State :=
  { State.reset with
    fab := { Fabric.reset with flits := [droppedFlit], tables := [⟨memAgent 0 128, tSwitch, 48, 128, 0x8000, 0, false, false⟩] }
    hub := { Hub.reset with regs := [(rErr 1, 1)] } }

/-- The drop's record stands in memory: byte 15 holds its CLASS, 7. -/
theorem dropping_records : ∃ t, exec (.switchSlot (memAgent 0 128)) droppingState = .next t ∧ byteAt t 15 = 7 := by
  refine ⟨_, (exec_switchSlot_one (q := droppedFlit) rfl (by decide)).trans (congrArg Host.Outcome.next
    (switchFlit_one (o := 48) (soundFlit_sealFlit _) (by decide))), by decide⟩

/-- Refutes O42: a flit moved to the one output that takes it may be dropped at a pseudo-channel's NI, whose DROP record changes memory. -/
theorem not_flitsMoveBetweenEndpoints : ¬ Obligations.FlitsMoveBetweenEndpoints := by
  intro h
  obtain ⟨-, -, switches, -⟩ := h
  obtain ⟨-, -, moves⟩ := switches droppingState (memAgent 0 128) droppedFlit rfl rfl (by decide) (by decide)
  obtain ⟨t, eq, memory, -⟩ := moves 48 droppedFlit.flit (by decide) (by decide) (.inl ⟨soundFlit_sealFlit _, rfl⟩)
  obtain ⟨u, eq', record⟩ := dropping_records
  have same : u = t := Host.Outcome.next.inj (eq'.symm.trans eq)
  have before : byteAt droppingState 15 = 0 := by decide
  have after := (memory 15).1
  rw [← same, record, before] at after
  exact absurd after (by decide)

end Sys2Proof.Claims
end

section
/-! Words of memory: what a word reads as after a store of consecutive words outside the views of a TCM region (R5, R172). -/

namespace Sys2Proof.Machine

/-! ## Plain bytes -/

/-- A byte that is none of a tag or full/empty view. -/
def PlainByte (pa : Nat) : Prop :=
  (∀ c o, homeOf Config.hbmBytes pa ≠ .tagView c o) ∧ ∀ c o, homeOf Config.hbmBytes pa ≠ .feView c o

theorem byteAt_plain (s : State) {pa : Nat} (h : PlainByte pa) : byteAt s pa = cellGet memDflt s.mem pa := by
  unfold byteAt
  split
  · exact absurd ‹_› (h.1 _ _)
  · exact absurd ‹_› (h.2 _ _)
  · rfl

theorem setByte_plain (s : State) {pa : Nat} (h : PlainByte pa) (b : BitVec 8) : setByte s pa b = { s with mem := cellSet memDflt s.mem pa b } := by
  unfold setByte
  split
  · exact absurd ‹_› (h.1 _ _)
  · exact absurd ‹_› (h.2 _ _)
  · rfl

theorem byteAt_setByte_other {s : State} (wf : Memory.wf s = true) {pa a : Nat} (b : BitVec 8) (hp : PlainByte pa) (ha : PlainByte a) (ne : a ≠ pa) :
    byteAt (setByte s pa b) a = byteAt s a := by
  rw [setByte_plain s hp, byteAt_plain _ ha, byteAt_plain s ha]
  exact cellGet_cellSet_other ((wf_iff s).mp wf).1 b ne

/-! ## Bytes of a word -/

/-- Bytes past those stored read as before. -/
theorem byteAt_setBytes_other {s : State} (wf : Memory.wf s = true) {pa a : Nat} (w : Word) (en : BitVec 8) {n : Nat}
    (hp : ∀ i < n, PlainByte (pa + i)) (ha : PlainByte a) (out : a < pa ∨ pa + n ≤ a) : byteAt (setBytes s pa w en n) a = byteAt s a := by
  induction n with
  | zero => rfl
  | succ n ih =>
    have rest := ih (fun i hi => hp i (by omega)) (by omega)
    unfold setBytes
    dsimp only
    split
    · rw [byteAt_setByte_other (setBytes_wf wf pa w en n) _ (hp n (by omega)) ha (by omega), rest]
    · exact rest

/-- Each byte stored with all bytes enabled reads as the word's. -/
theorem byteAt_setBytes_same {s : State} (wf : Memory.wf s = true) {pa : Nat} (w : Word) {n i : Nat} (hn : n ≤ 8)
    (hp : ∀ i < n, PlainByte (pa + i)) (hi : i < n) : byteAt (setBytes s pa w 0xFF n) (pa + i) = wordByte w i := by
  induction n with
  | zero => exact absurd hi (Nat.not_lt_zero i)
  | succ n ih =>
    have enabled : ∀ k < 8, (0xFF : BitVec 8).getLsbD k = true := by decide
    have wf' := setBytes_wf wf pa w 0xFF n
    unfold setBytes
    dsimp only
    rw [if_pos (enabled n (by omega))]
    by_cases last : i = n
    · subst last
      exact byteAt_setByte_same wf' _ (hp i hi).1 (hp i hi).2
    · rw [byteAt_setByte_other wf' _ (hp n (by omega)) (hp i hi) (by omega)]
      exact ih (by omega) (fun k hk => hp k (by omega)) (by omega)

/-- A store's tag byte and poison mark are in no plain byte. -/
theorem byteAt_performStore (s : State) (x : WordStore) {a : Nat} (ha : PlainByte a) :
    byteAt (performStore s x) a = byteAt (setBytes s x.pa x.data x.en 8) a := by
  have tagged : ∀ c : Bool, (if c then setTagByte (setBytes s x.pa x.data x.en 8) x.pa x.tagb else setBytes s x.pa x.data x.en 8).mem =
      (setBytes s x.pa x.data x.en 8).mem := by
    intro c
    cases c <;> rfl
  have cleared : ∀ u : State, (clearPoison u x.pa x.en).mem = u.mem := by
    intro u
    unfold clearPoison
    split
    · rfl
    · split <;> rfl
  rw [byteAt_plain _ ha, byteAt_plain _ ha]
  exact congrArg (cellGet memDflt · a) ((cleared _).trans (tagged _))

/-! ## Words -/

theorem bytesAt_congr {s t : State} {pa : Nat} {n : Nat} (h : ∀ i < n, byteAt t (pa + i) = byteAt s (pa + i)) :
    bytesAt t pa n = bytesAt s pa n := by
  induction n generalizing pa with
  | zero => rfl
  | succ n ih =>
    have tail := ih (pa := pa + 1) fun i hi => by simpa only [Nat.add_assoc, Nat.add_comm 1 i] using h (i + 1) (by omega)
    rw [bytesAt, bytesAt, tail, show byteAt t pa = byteAt s pa from h 0 (Nat.succ_pos n)]

/-- Little-endian bytes of a word from byte k on (R5). -/
theorem bytesAt_of_wordByte {s : State} {w : Word} {pa k n : Nat} (h : ∀ i < n, byteAt s (pa + i) = wordByte w (k + i)) :
    bytesAt s pa n = w.toNat / 2 ^ (8 * k) % 2 ^ (8 * n) := by
  induction n generalizing pa k with
  | zero => simp [bytesAt, Nat.mod_one]
  | succ n ih =>
    have tail := ih (pa := pa + 1) (k := k + 1) fun i hi => by
      simpa only [Nat.add_assoc, Nat.add_comm 1 i] using h (i + 1) (by omega)
    have head : (byteAt s pa).toNat = w.toNat / 2 ^ (8 * k) % 256 := by
      rw [show byteAt s pa = wordByte w k from h 0 (Nat.succ_pos n), wordByte, BitVec.extractLsb'_toNat, Nat.shiftRight_eq_div_pow]
    rw [bytesAt, tail, head, Nat.mul_succ 8 k, Nat.pow_add, ← Nat.div_div_eq_div_mul, Nat.mul_succ 8 n, Nat.pow_add, Nat.mul_comm (2 ^ (8 * n)),
      Nat.mod_mul]

theorem wordAt_of_wordByte {s : State} {w : Word} {pa : Nat} (h : ∀ i < 8, byteAt s (pa + i) = wordByte w i) : wordAt s pa = w := by
  have value := bytesAt_of_wordByte (k := 0) (n := 8) fun i hi => (h i hi).trans (by rw [Nat.zero_add])
  rw [wordAt, value, Nat.mul_zero, Nat.pow_zero, Nat.div_one, Nat.mod_eq_of_lt w.isLt]
  exact (BitVec.ofNat_toNat 64 w).trans (BitVec.setWidth_eq w)

/-- A word of plain memory reads as what was put there. -/
theorem wordAt_putWord_same {s : State} (wf : Memory.wf s = true) {pa : Nat} (w : Word) (hp : ∀ i < 8, PlainByte (pa + i)) :
    wordAt (putWord s pa w) pa = w := by
  refine wordAt_of_wordByte fun i hi => ?_
  rw [putWord, byteAt_performStore s _ (hp i hi)]
  exact byteAt_setBytes_same wf w le_rfl hp hi

theorem wordAt_putWord_other {s : State} (wf : Memory.wf s = true) {pa a : Nat} (w : Word) (hp : ∀ i < 8, PlainByte (pa + i))
    (ha : ∀ i < 8, PlainByte (a + i)) (out : a + 8 ≤ pa ∨ pa + 8 ≤ a) : wordAt (putWord s pa w) a = wordAt s a := by
  refine congrArg word (bytesAt_congr fun i hi => ?_)
  rw [putWord, byteAt_performStore s _ (ha i hi)]
  exact byteAt_setBytes_other wf w _ hp (ha i hi) (show a + i < pa ∨ pa + 8 ≤ a + i by omega)

/-- Words below those put read as before. -/
theorem wordAt_putWords_below {s : State} (wf : Memory.wf s = true) {pa a : Nat} (ws : List Word)
    (hp : ∀ i < 8 * ws.length, PlainByte (pa + i)) (ha : ∀ i < 8, PlainByte (a + i)) (below : a + 8 ≤ pa) :
    wordAt (putWords s pa ws) a = wordAt s a := by
  induction ws generalizing s pa with
  | nil => rfl
  | cons w ws ih =>
    rw [List.length_cons] at hp
    rw [putWords, ih (putWord_wf wf pa w) (fun i hi => Nat.add_assoc pa 8 i ▸ hp (8 + i) (by omega)) (by omega),
      wordAt_putWord_other wf w (fun i hi => hp i (by omega)) ha (.inl below)]

/-- Each of consecutive words put into plain memory is read there. -/
theorem wordAt_putWords {s : State} (wf : Memory.wf s = true) {pa : Nat} {ws : List Word} (hp : ∀ i < 8 * ws.length, PlainByte (pa + i))
    {i : Nat} {w : Word} (hw : ws[i]? = some w) : wordAt (putWords s pa ws) (pa + 8 * i) = w := by
  induction ws generalizing s pa i with
  | nil => simp at hw
  | cons v ws ih =>
    rw [List.length_cons] at hp
    have first : ∀ k < 8, PlainByte (pa + k) := fun k hk => hp k (by omega)
    have rest : ∀ k < 8 * ws.length, PlainByte (pa + 8 + k) := fun k hk => Nat.add_assoc pa 8 k ▸ hp (8 + k) (by omega)
    cases i with
    | zero =>
      obtain rfl : v = w := by simpa using hw
      rw [putWords, show pa + 8 * 0 = pa from rfl, wordAt_putWords_below (putWord_wf wf pa v) ws rest first le_rfl, wordAt_putWord_same wf v first]
    | succ i =>
      rw [putWords, show pa + 8 * (i + 1) = pa + 8 + 8 * i by omega]
      exact ih (putWord_wf wf pa v) rest (by simpa using hw)

theorem tcmPa_add (core off n : Nat) : tcmPa core off + n = tcmPa core (off + n) := Nat.add_assoc _ off n

/-- TCM data is plain memory (R172). -/
theorem plainByte_tcmPa {core off : Nat} (hc : core < 12288) (ho : off < 0x20000) : PlainByte (tcmPa core off) := by
  have stride : tcmPa core off - Config.tcmBase = 0x40000 * core + off := by simp only [tcmPa, Config.tcmStride]; omega
  have inTcm : homeOf Config.hbmBytes (tcmPa core off) = .tcm core off := by
    have base : Config.tcmBase ≤ tcmPa core off := by simp only [tcmPa]; omega
    have top : tcmPa core off < Config.hubBase := by simp only [tcmPa, Config.tcmBase, Config.tcmStride, Config.hubBase]; omega
    have above : ¬ tcmPa core off < Config.spadBase ∧ ¬ tcmPa core off < Config.sramBase := by
      simp only [Config.tcmBase, Config.spadBase, Config.sramBase] at base ⊢
      omega
    have quotient : (0x40000 * core + off) / Config.tcmStride = core := by simp only [Config.tcmStride]; omega
    have remainder : (0x40000 * core + off) % Config.tcmStride = off := by simp only [Config.tcmStride]; omega
    simp [homeOf, Nat.not_lt.mpr base, top, above, stride, quotient, remainder, Config.coreCount, hc, tcmHome, ho]
  constructor <;> intro c o <;> simp [inTcm]

end Sys2Proof.Machine
end

section
/-! Badger's answers and changes: what an answer record and a completed handle say, what sending a change's flits leaves, and the searches set for the
pending requests (R57, R61, R62, R65). -/

namespace Sys2Proof.Claims

open Sys2Proof.Machine

theorem SameMemory.wordAt {s t : State} (h : SameMemory s t) (pa : Nat) : wordAt t pa = wordAt s pa :=
  congrArg word (bytesAt_congr fun i _ => (h (pa + i)).1)

/-! ## What is kept -/

/-- Memory's bytes, tags and full/empty bits, the time and the hub are as before: what an answer's content depends on beside the request. -/
structure AnswerBasis (s t : State) : Prop where
  mem : t.mem = s.mem
  tags : t.tags = s.tags
  fe : t.fe = s.fe
  now : t.now = s.now
  hub : t.hub = s.hub

theorem AnswerBasis.trans {s t u : State} (h : AnswerBasis s t) (g : AnswerBasis t u) : AnswerBasis s u :=
  ⟨g.mem.trans h.mem, g.tags.trans h.tags, g.fe.trans h.fe, g.now.trans h.now, g.hub.trans h.hub⟩

theorem AnswerBasis.wf {s t : State} (h : AnswerBasis s t) (wf : Memory.wf s = true) : Memory.wf t = true := wf_congr wf h.mem h.tags h.fe

/-- Nothing but the agenda and the wheel of the last configuration flit differs. -/
def FlitsOnly (s t : State) : Prop := t = { s with agenda := t.agenda, fab := { s.fab with lastFlit := t.fab.lastFlit } }

theorem FlitsOnly.trans {s t u : State} (h : FlitsOnly s t) (g : FlitsOnly t u) : FlitsOnly s u := by
  unfold FlitsOnly at *
  rw [g, h]
theorem FlitsOnly.core {s t : State} (h : FlitsOnly s t) : t.core = s.core := by rw [h]
theorem FlitsOnly.circuits {s t : State} (h : FlitsOnly s t) : t.fab.circuits = s.fab.circuits := by rw [h]
theorem FlitsOnly.wheel {s t : State} (h : FlitsOnly s t) : t.wheel = s.wheel := by rw [h]; rfl
theorem FlitsOnly.basis {s t : State} (h : FlitsOnly s t) : AnswerBasis s t := by
  rw [h]
  exact ⟨rfl, rfl, rfl, rfl, rfl⟩
theorem FlitsOnly.sameMemory {s t : State} (h : FlitsOnly s t) : SameMemory s t := by
  rw [h]
  exact sameMemory_of rfl rfl rfl rfl

theorem sendConfigs_flitsOnly {α : Type} (wheel : α → Nat) (flit : α → BitVec 512) (xs : List α) (s : State) :
    FlitsOnly s (xs.foldl (fun s x => sendConfig s (wheel x) (flit x)) s) :=
  foldl_rel (R := FlitsOnly) (f := fun s x => sendConfig s (wheel x) (flit x)) (fun _ => rfl) (fun h g => h.trans g) (fun _ _ => rfl) xs s

theorem stageRecords_flitsOnly (s : State) (recs : List CfgRec) (least : Nat) : FlitsOnly s (stageRecords s recs least).1 :=
  (sendConfigs_flitsOnly (firstFlit s (recs.map (·.agent)) (flitsFor recs.length) least + ·)
    (fun i => cfgFlit kEntries (stageRecords s recs least).2 ((recs.drop (7 * i)).take 7)) (List.range (flitsFor recs.length)) s).trans rfl

/-- A change commits in a wheel still to come (R65). -/
theorem lt_stageRecords (s : State) (recs : List CfgRec) (least : Nat) : s.wheel < (stageRecords s recs least).2 := by
  have first : s.wheel + 1 ≤ firstFlit s (recs.map (·.agent)) (flitsFor recs.length) least := le_max_of_le_left (le_max_left _ _)
  simp only [stageRecords]
  omega

/-- Both parts of a removal commit in wheels still to come (R66). -/
theorem removeEntries_spec (s : State) (src : EpId) (cs : List Claim) :
    FlitsOnly s (removeEntries s src cs).1 ∧ s.wheel < (removeEntries s src cs).2.1 ∧ s.wheel < (removeEntries s src cs).2.2 := by
  have first := stageRecords_flitsOnly s (clearRecords (cs.filter fun c => c.table = tSend && !entryReverse c.value)) 0
  refine ⟨first.trans (stageRecords_flitsOnly _ _ _), lt_stageRecords _ _ _, ?_⟩
  rw [← first.wheel]
  exact lt_stageRecords _ _ _

/-! ## Answers (R61, R62) -/

/-- The handle of a request fills with a status within eight wheels of its arrival, or in the next cycle (R57). -/
def Told (s t : State) (r : CircReq) (st : BitVec 8) : Prop := ∀ h, r.handle = some h →
  ∃ m, s.now < m ∧ m ≤ max (s.now + 1) (256 * (r.wheel + 8)) ∧ (m, Act.completion h ⟨st, 0, 0⟩) ∈ t.agenda

/-- Word i of the answer record. -/
def answerWord (t : State) (r : CircReq) (i : Nat) : Word := wordAt t (tcmPa r.gcore (fld r.w3 17 0 + 8 * i))

/-- GRANTED: a commit wheel as the requesting core's partition observes it, and the map of the slots. -/
def Granted (s t : State) (r : CircReq) (slots : List Nat) : Prop :=
  Told s t r 0 ∧ (∃ w, s.wheel < w ∧ answerWord t r 0 = word ((w + 2 ^ 56 - coreLag s r.gcore) % 2 ^ 56)) ∧
    ∀ k, k < 256 → ((answerWord t r (4 + k / 64)).getLsbD (k % 64) = true ↔ ∃ j ∈ slots, j % 256 = k)

/-- REFUSED, with the fabric as it was when the request was taken. -/
def RefusedAnswer (s t : State) (r : CircReq) : Prop :=
  Told s t r 1 ∧ answerWord t r 0 = word (2 ^ 56) ∧ t.fab = (takeRequest s r).fab

/-- The answer record lies in a core's TCM data. -/
structure AnswerFits (r : CircReq) : Prop where
  core : r.gcore < 12288
  room : fld r.w3 17 0 + 64 ≤ 0x20000

theorem answerHandle_agendaFresh (s : State) (r : CircReq) (st : Nat) : AgendaFreshOnly s (answerHandle s r st) := by
  unfold answerHandle
  split <;> rfl

theorem AgendaFreshOnly.sameMemory {s t : State} (h : AgendaFreshOnly s t) : SameMemory s t := by
  rw [h]
  exact sameMemory_of rfl rfl rfl rfl

theorem writeAnswer_now (s : State) (r : CircReq) (ws : List Word) : (writeAnswer s r ws).now = s.now := by
  rw [writeAnswer, putWords_planes s _ ws]

theorem answerHandle_told {s u : State} (now : u.now = s.now) (r : CircReq) (st : Nat) : Told s (answerHandle u r st) r (BitVec.ofNat 8 st) := by
  intro h hh
  obtain ⟨m, later, within, due⟩ := u.mem_later_within (b := max 1 (256 * (r.wheel + 8) - u.now)) (by omega)
    (.completion h ⟨BitVec.ofNat 8 st, 0, 0⟩)
  rw [answerHandle, hh]
  exact ⟨m, by omega, by omega, due⟩

/-- A word of the record reads as it was answered. -/
theorem answerWord_written {s : State} {r : CircReq} (wf : Memory.wf s = true) (fits : AnswerFits r) (st : Nat) {ws : List Word} (len : ws.length = 8)
    {i : Nat} {w : Word} (hw : ws[i]? = some w) : answerWord (answerHandle (writeAnswer s r ws) r st) r i = w := by
  have plain : ∀ k < 8 * ws.length, PlainByte (tcmPa r.gcore (fld r.w3 17 0) + k) := fun k hk => by
    rw [tcmPa_add]
    exact plainByte_tcmPa fits.core (by have := fits.room; omega)
  rw [answerWord, (answerHandle_agendaFresh _ r st).sameMemory.wordAt, ← tcmPa_add]
  exact wordAt_putWords wf plain hw

theorem answer_leaves (s : State) (r : CircReq) (ws : List Word) (st : Nat) :
    (answerHandle (writeAnswer s r ws) r st).fab = s.fab ∧ (answerHandle (writeAnswer s r ws) r st).core = s.core := by
  rw [answerHandle_agendaFresh (writeAnswer s r ws) r st, writeAnswer, putWords_planes s _ ws]
  exact ⟨rfl, rfl⟩

theorem coreLag_congr {s t : State} (h : t.hub = s.hub) (g : Nat) : coreLag t g = coreLag s g := by
  unfold coreLag partLag partClusters replays hubGet
  rw [h]

/-- The map of slots a GRANTED answer carries. -/
def slotMap (slots : List Nat) : Nat := slots.foldl (fun m k => m ||| 2 ^ (k % 256)) 0

theorem testBit_foldl_slots (slots : List Nat) (m k : Nat) :
    (slots.foldl (fun m k => m ||| 2 ^ (k % 256)) m).testBit k = true ↔ m.testBit k = true ∨ ∃ j ∈ slots, j % 256 = k := by
  induction slots generalizing m with
  | nil => simp
  | cons x xs ih =>
    rw [List.foldl_cons, ih]
    simp [Nat.testBit_two_pow, or_assoc]

theorem testBit_slotMap (slots : List Nat) (k : Nat) : (slotMap slots).testBit k = true ↔ ∃ j ∈ slots, j % 256 = k := by
  simp [slotMap, testBit_foldl_slots]

/-- Bit k of the map stands in word k / 64 of its four. -/
theorem getLsbD_mapWord (m k : Nat) : (word (m / 2 ^ (64 * (k / 64)))).getLsbD (k % 64) = m.testBit k := by
  have low : k % 64 < 64 := Nat.mod_lt k (by decide)
  rw [word, BitVec.getLsbD_ofNat, decide_eq_true low, Bool.true_and, Nat.testBit_div_two_pow, Nat.mod_add_div]

/-- The words of a GRANTED answer. -/
def grantWords (s : State) (r : CircReq) (w : Nat) (slots : List Nat) : List Word :=
  [word ((w + 2 ^ 56 - coreLag s r.gcore) % 2 ^ 56), 0, 0, 0] ++ (List.range 4).map fun i => word (slotMap slots / 2 ^ (64 * i))

theorem answerGranted_eq (s : State) (r : CircReq) (w : Nat) (slots : List Nat) :
    answerGranted s r w slots = answerHandle (writeAnswer s r (grantWords s r w slots)) r 0 := rfl

theorem answerGranted_granted {s u : State} {r : CircReq} {w : Nat} (basis : AnswerBasis s u) (wf : Memory.wf s = true) (fits : AnswerFits r)
    (later : s.wheel < w) (slots : List Nat) : Granted s (answerGranted u r w slots) r slots := by
  have written {i : Nat} {v : Word} (hv : (grantWords u r w slots)[i]? = some v) : answerWord (answerGranted u r w slots) r i = v := by
    rw [answerGranted_eq]
    exact answerWord_written (basis.wf wf) fits 0 rfl hv
  refine ⟨answerHandle_told ((writeAnswer_now u r _).trans basis.now) r 0, ⟨w, later, ?_⟩, fun k hk => ?_⟩
  · rw [← coreLag_congr basis.hub r.gcore]
    exact written rfl
  · have word : (grantWords u r w slots)[4 + k / 64]? = some (word (slotMap slots / 2 ^ (64 * (k / 64)))) := by
      have inMap : k / 64 < 4 := by omega
      rw [grantWords, List.getElem?_append_right (Nat.le_add_right 4 _)]
      simp [List.getElem?_range inMap]
    rw [written word, getLsbD_mapWord, testBit_slotMap]

theorem answerGranted_leaves (s : State) (r : CircReq) (w : Nat) (slots : List Nat) :
    (answerGranted s r w slots).fab = s.fab ∧ (answerGranted s r w slots).core = s.core := answer_leaves s r _ 0

/-- A refusal answers eight words, of which the first is REFUSED. -/
theorem answerRefused_eq (s : State) (r : CircReq) (rev : Bool) (why : Option Refused) : ∃ ws : List Word, ws.length = 8 ∧
    ws[0]? = some (word (2 ^ 56)) ∧ answerRefused s r rev why = answerHandle (writeAnswer { s with fresh := s.fresh + 1 } r ws) r 1 :=
  ⟨_, rfl, rfl, rfl⟩

theorem answerRefused_refused {s : State} {r : CircReq} (wf : Memory.wf s = true) (fits : AnswerFits r) (rev : Bool) (why : Option Refused) :
    RefusedAnswer s (answerRefused (takeRequest s r) r rev why) r := by
  obtain ⟨ws, len, head, eq⟩ := answerRefused_eq (takeRequest s r) r rev why
  let u : State := { takeRequest s r with fresh := (takeRequest s r).fresh + 1 }
  have wf' : Memory.wf u = true := wf_congr wf rfl rfl rfl
  have now : (writeAnswer u r ws).now = s.now := writeAnswer_now u r ws
  rw [eq]
  exact ⟨answerHandle_told now r 1, answerWord_written wf' fits 1 len head, (answer_leaves u r ws 1).1⟩

/-! ## Arrival (R57, R67) -/

theorem answerBusy_spec (s : State) (r : CircReq) :
    (answerBusy s r).fab = s.fab ∧ ∀ h, r.handle = some h → (s.now + 1, Act.completion h ⟨2, 0, 0⟩) ∈ (answerBusy s r).agenda := by
  let u := if r.crel then s else writeAnswer s r [word (2 * 2 ^ 56), 0, 0, 0, 0, 0, 0, 0]
  have same : u.fab = s.fab ∧ u.now = s.now := by
    show (if r.crel then s else _).fab = _ ∧ (if r.crel then s else _).now = _
    split
    · exact ⟨rfl, rfl⟩
    · rw [writeAnswer, putWords_planes s _ _]
      exact ⟨rfl, rfl⟩
  have eq : answerBusy s r = match r.handle with | some h => completeAt u (u.now + 1) h 2 | none => u := rfl
  rw [eq]
  refine ⟨?_, fun h hh => ?_⟩
  · split <;> exact same.1
  · rw [hh, ← same.2]
    exact State.mem_at _ _ _

theorem mem_insertRequest (r : CircReq) (xs : List CircReq) : r ∈ insertRequest r xs := by
  induction xs with
  | nil => exact List.mem_singleton.mpr rfl
  | cons x xs ih =>
    rw [insertRequest]
    split
    · exact List.mem_cons_of_mem _ ih
    · exact List.mem_cons_self

theorem length_insertRequest (r : CircReq) (xs : List CircReq) : (insertRequest r xs).length = xs.length + 1 := by
  induction xs with
  | nil => rfl
  | cons x xs ih =>
    rw [insertRequest]
    split
    · rw [List.length_cons, ih, List.length_cons]
    · rfl

/-- Acts that are added one after another join the end of the agenda. -/
theorem foldl_at {α : Type} (time : α → Nat) (act : α → Act) (xs : List α) (s : State) :
    xs.foldl (fun s x => s.at (time x) (act x)) s = { s with agenda := s.agenda ++ xs.map fun x => (time x, act x) } := by
  induction xs generalizing s with
  | nil => simp
  | cons x xs ih => rw [List.foldl_cons, ih]; simp [State.at]

/-- The acts that stay as the searches are set: all but the searches of later cycles. -/
def keptActs (s : State) : List (Nat × Act) := s.agenda.filter fun e => match e.2 with
  | .circuit _ => decide (e.1 ≤ s.now)
  | _ => true

/-- Pending requests whose search is not due, in order, with their number. -/
def searchQueue (s : State) : List (CircReq × Nat) :=
  let wait := s.fab.pending.filter fun r => !searchDue s r
  wait.zip (List.range wait.length)

/-- The cycle of the search of a request that is n-th in order: eight to a wheel, in its last cycle (log 51). -/
def searchTime (s : State) (n : Nat) : Nat := 256 * ((s.now + 1) / 256 + n / 8) + 255

theorem planSearches_eq (s : State) : planSearches s =
    { s with agenda := keptActs s ++ (searchQueue s).map fun r => (searchTime s r.2, .circuit r.1) } :=
  foldl_at (fun r : CircReq × Nat => searchTime s r.2) (fun r => .circuit r.1) (searchQueue s) { s with agenda := keptActs s }

/-- Of at most 64 pending requests each is searched within eight wheels (R57). -/
theorem planSearches_searches {s : State} {r : CircReq} (hr : r ∈ s.fab.pending) (few : s.fab.pending.length ≤ 64) :
    ∃ n, n ≤ s.now + 2048 ∧ (n, Act.circuit r) ∈ (planSearches s).agenda := by
  rw [planSearches_eq]
  cases due : searchDue s r with
  | true =>
    obtain ⟨⟨n, a⟩, he, now⟩ := List.any_eq_true.mp due
    obtain ⟨now, rfl⟩ : n ≤ s.now ∧ a = .circuit r := by simpa using now
    exact ⟨n, by omega, List.mem_append_left _ (List.mem_filter.mpr ⟨he, by simpa using now⟩)⟩
  | false =>
    let wait := s.fab.pending.filter fun r => !searchDue s r
    obtain ⟨i, hi, at_i⟩ := List.mem_iff_getElem.mp (List.mem_filter.mpr ⟨hr, by simp [due]⟩ : r ∈ wait)
    have short : wait.length ≤ 64 := (List.length_filter_le _ _).trans few
    have queued : (r, i) ∈ searchQueue s := List.mem_iff_getElem.mpr ⟨i, by simpa [searchQueue] using hi, by simpa [searchQueue] using at_i⟩
    refine ⟨searchTime s i, ?_, List.mem_append_right _ (List.mem_map_of_mem queued)⟩
    simp only [searchTime]
    have : i < 64 := lt_of_lt_of_le hi short
    omega

theorem exec_badgerRequestArrive_taken {s : State} (r : CircReq) (room : s.fab.pending.length < 64) :
    ∃ t n, exec (.badgerRequestArrive r) s = .next t ∧ { r with wheel := s.wheel } ∈ t.fab.pending ∧
      t.fab.pending.length = s.fab.pending.length + 1 ∧ n ≤ s.now + 2048 ∧ (n, Act.circuit { r with wheel := s.wheel }) ∈ t.agenda ∧
      SameMemory s t ∧ t.core = s.core := by
  let q : CircReq := { r with wheel := s.wheel }
  let u := s.withFab fun f => { f with pending := insertRequest q f.pending }
  have listed : q ∈ u.fab.pending := mem_insertRequest q s.fab.pending
  have longer : u.fab.pending.length = s.fab.pending.length + 1 := length_insertRequest q s.fab.pending
  obtain ⟨n, soon, due⟩ := planSearches_searches listed (by omega)
  have plan := planSearches_eq u
  refine ⟨planSearches u, n, ?_, ?_, ?_, soon, due, ?_, ?_⟩
  · show execBadgerRequestArrive r s = _
    rw [execBadgerRequestArrive, if_neg (Nat.not_le.mpr room)]
  · rw [plan]; exact listed
  · rw [plan]; exact longer
  · rw [plan]; exact sameMemory_of rfl rfl rfl rfl
  · rw [plan]

theorem exec_badgerRequestArrive_busy {s : State} (r : CircReq) (full : 64 ≤ s.fab.pending.length) :
    exec (.badgerRequestArrive r) s = .next (answerBusy s r) := by
  show execBadgerRequestArrive r s = _
  rw [execBadgerRequestArrive, if_pos full]

theorem exec_sendBufferEmpty_empty {s : State} {ep : Fin 32} (r : CircReq) (buf : (s.core.send[ep]).buf = []) (rest : (s.core.send[ep]).rest = []) :
    ∃ t n, exec (.sendBufferEmpty ep r) s = .next t ∧ s.now < n ∧ (n, Act.badgerRequestArrive r) ∈ t.agenda ∧ t.core = s.core := by
  obtain ⟨n, later, due⟩ := s.mem_later none (.badgerRequestArrive r)
  refine ⟨s.later none (.badgerRequestArrive r), n, ?_, later, due, rfl⟩
  show execSendBufferEmpty ep r s = _
  simp only [execSendBufferEmpty, buf, rest, List.isEmpty_nil, Bool.and_self, if_true]

theorem exec_sendBufferEmpty_waits {s : State} {ep : Fin 32} (r : CircReq) (h : ¬ ((s.core.send[ep]).buf = [] ∧ (s.core.send[ep]).rest = [])) :
    exec (.sendBufferEmpty ep r) s = .next (s.at (s.now + 1) (.sendBufferEmpty ep r)) := by
  show execSendBufferEmpty ep r s = _
  simp only [execSendBufferEmpty, Bool.and_eq_true, List.isEmpty_iff, if_neg h]

end Sys2Proof.Claims
end

section
/-! The four changes: OPEN, WIDEN, NARROW and RELEASE as granted and as refused (R60, R66, R67, R254, R409). -/

namespace Sys2Proof.Claims

open Sys2Proof.Machine

/-- The send endpoint a request names. -/
abbrev requestSrc (r : CircReq) : EpId := r.w1.setWidth 32

/-- A change's outcome: from a state that keeps what an answer depends on and holds these circuits, GRANTED with a wheel to come and these slots. -/
def GrantsChange (s t : State) (r : CircReq) (slots : List Nat) (circuits : List Circuit) : Prop :=
  ∃ u w, t = answerGranted u r w slots ∧ AnswerBasis s u ∧ s.wheel < w ∧ u.fab.circuits = circuits

theorem takeRequest_basis (s : State) (r : CircReq) : AnswerBasis s (takeRequest s r) := ⟨rfl, rfl, rfl, rfl, rfl⟩

theorem GrantsChange.granted {s t : State} {r : CircReq} {slots : List Nat} {circuits : List Circuit}
    (h : GrantsChange (takeRequest s r) t r slots circuits) (wf : Memory.wf s = true) (fits : AnswerFits r) : Granted s t r slots := by
  obtain ⟨u, w, rfl, basis, later, -⟩ := h
  exact answerGranted_granted ((takeRequest_basis s r).trans basis) wf fits later slots

theorem GrantsChange.circuits {s t : State} {r : CircReq} {slots : List Nat} {circuits : List Circuit}
    (h : GrantsChange s t r slots circuits) : t.fab.circuits = circuits := by
  obtain ⟨u, w, rfl, -, -, held⟩ := h
  rw [(answerGranted_leaves u r w slots).1, held]

/-- The list of circuits changes. -/
def circuitsChanged (s : State) (f : List Circuit → List Circuit) : State := s.withFab fun x => { x with circuits := f x.circuits }

/-- A change lists its circuits once its flits are on their way. -/
theorem FlitsOnly.thenCircuits {s t : State} (h : FlitsOnly s t) (f : List Circuit → List Circuit) :
    AnswerBasis s (circuitsChanged t f) ∧ (circuitsChanged t f).core = s.core ∧ (circuitsChanged t f).fab.circuits = f s.fab.circuits :=
  ⟨⟨h.basis.mem, h.basis.tags, h.basis.fe, h.basis.now, h.basis.hub⟩, h.core, congrArg f h.circuits⟩

/-! ## The ends of a new circuit -/

/-- Nothing but the core and the endpoints of pseudo-channels differs. -/
def EndsOnly (s t : State) : Prop := t = { s with core := t.core, fab := { s.fab with pcRecv := t.fab.pcRecv, pcSend := t.fab.pcSend } }

theorem EndsOnly.trans {s t u : State} (h : EndsOnly s t) (g : EndsOnly t u) : EndsOnly s u := by
  unfold EndsOnly at *
  rw [g, h]
theorem EndsOnly.circuits {s t : State} (h : EndsOnly s t) : t.fab.circuits = s.fab.circuits := by rw [h]
theorem EndsOnly.basis {s t : State} (h : EndsOnly s t) : AnswerBasis s t := by
  rw [h]
  exact ⟨rfl, rfl, rfl, rfl, rfl⟩

/-- The source's end opens. -/
def openSource (s : State) (src : EpId) (dsts : List EpId) : State :=
  match ownSend s src with
  | some ep => s.modSend ep fun _ => { SendEp.idle with circuit := true, wins := dsts.map fun _ => ⟨0, 0⟩ }
  | none => openSender s src dsts.length

/-- A receiver's end opens. -/
def openReceiver (s : State) (d : EpId) : State :=
  match ownRecv s d with
  | some ep => s.modRecv ep fun x => { x with count := 0, returned := 0 }
  | none => openChannel s d

theorem openEnds_eq (s : State) (src : EpId) (dsts : List EpId) :
    openEnds s src dsts = refreshHolds (dsts.foldl openReceiver (openSource s src dsts)) := rfl

theorem openSource_ends (s : State) (src : EpId) (dsts : List EpId) : EndsOnly s (openSource s src dsts) := by
  unfold openSource openSender
  split
  · rfl
  · split <;> rfl

theorem openReceiver_leaves (s : State) (d : EpId) : EndsOnly s (openReceiver s d) ∧ (openReceiver s d).core.send = s.core.send := by
  unfold openReceiver openChannel
  split
  · exact ⟨rfl, rfl⟩
  · split <;> exact ⟨rfl, rfl⟩

theorem openReceivers_leave (dsts : List EpId) (s : State) :
    EndsOnly s (dsts.foldl openReceiver s) ∧ (dsts.foldl openReceiver s).core.send = s.core.send :=
  foldl_rel (R := fun s t : State => EndsOnly s t ∧ t.core.send = s.core.send) (fun _ => ⟨rfl, rfl⟩)
    (fun h g => ⟨h.1.trans g.1, g.2.trans h.2⟩) openReceiver_leaves dsts s

theorem refreshHolds_ends (s : State) : EndsOnly s (refreshHolds s) := by
  unfold refreshHolds
  rfl

/-- Holds change nothing of a send endpoint's circuit. -/
theorem refreshHolds_send (s : State) (ep : Fin 32) :
    ((refreshHolds s).core.send[ep]).circuit = (s.core.send[ep]).circuit ∧ ((refreshHolds s).core.send[ep]).wins = (s.core.send[ep]).wins := by
  simp [refreshHolds, State.withCore]

theorem openEnds_ends (s : State) (src : EpId) (dsts : List EpId) : EndsOnly s (openEnds s src dsts) := by
  rw [openEnds_eq]
  exact ((openSource_ends s src dsts).trans (openReceivers_leave dsts _).1).trans (refreshHolds_ends _)

theorem ownSend_congr {s t : State} (h : t.core = s.core) (e : EpId) : ownSend t e = ownSend s e := by rw [ownSend, ownSend, h]

/-- The core's own source holds the circuit, with a window for each receiver. -/
theorem openEnds_send {s : State} {src : EpId} {ep : Fin 32} (own : ownSend s src = some ep) (dsts : List EpId) :
    ((openEnds s src dsts).core.send[ep]).circuit = true ∧ ((openEnds s src dsts).core.send[ep]).wins = dsts.map fun _ => ⟨0, 0⟩ := by
  obtain ⟨circuit, wins⟩ := refreshHolds_send (dsts.foldl openReceiver (openSource s src dsts)) ep
  rw [openEnds_eq, circuit, wins, (openReceivers_leave dsts _).2]
  simp [openSource, own, State.modSend, State.withCore]

/-! ## OPEN -/

/-- The circuit a granted OPEN lists. -/
def openedCircuit (r : CircReq) (ks : List Nat) (ds : List (EpId × List Nat)) : Circuit :=
  ⟨requestSrc r, ds, BitVec.ofNat 16 (fld r.w3 63 48), ks, false⟩

/-- The circuit's records are on their way, and it is listed. -/
def circuitListed (s : State) (c : Circuit) : State := circuitsChanged (stageRecords s (layRecords (circuitClaims c)) 0).1 (· ++ [c])

theorem openCircuit_eq {s : State} {r : CircReq} {ks : List Nat} {ds : List (EpId × List Nat)} (free : circuitOf s (requestSrc r) = none)
    (room : queueSlots s (fld r.w3 63 48) + fld r.w3 25 18 ≤ qFslots s (fld r.w3 63 48))
    (forward : searchForward s r none r.dsts (takenEntries s) = .ok ks)
    (reverse : searchReverse s (requestSrc r) (fld r.w3 63 48 * 17 % 256) (fld r.w3 33 26)
      (slotClaims (requestSrc r) r.dsts ks ++ takenEntries s) 0 r.dsts = .ok ds) :
    openCircuit s r = answerGranted (openEnds (circuitListed s (openedCircuit r ks ds)) (requestSrc r) r.dsts) r
      (stageRecords s (layRecords (circuitClaims (openedCircuit r ks ds))) 0).2 ks := by
  simp only [openCircuit, free, forward, reverse, Option.isSome_none, Bool.false_or, decide_eq_true_eq, if_neg (Nat.not_lt.mpr room)]
  rfl

theorem openCircuit_grants {s : State} {r : CircReq} {ks : List Nat} {ds : List (EpId × List Nat)} (free : circuitOf s (requestSrc r) = none)
    (room : queueSlots s (fld r.w3 63 48) + fld r.w3 25 18 ≤ qFslots s (fld r.w3 63 48))
    (forward : searchForward s r none r.dsts (takenEntries s) = .ok ks)
    (reverse : searchReverse s (requestSrc r) (fld r.w3 63 48 * 17 % 256) (fld r.w3 33 26)
      (slotClaims (requestSrc r) r.dsts ks ++ takenEntries s) 0 r.dsts = .ok ds) :
    GrantsChange s (openCircuit s r) r ks (s.fab.circuits ++ [openedCircuit r ks ds]) ∧ ∀ ep, ownSend s (requestSrc r) = some ep →
      ((openCircuit s r).core.send[ep]).circuit = true ∧ ((openCircuit s r).core.send[ep]).wins = r.dsts.map fun _ => ⟨0, 0⟩ := by
  let c := openedCircuit r ks ds
  obtain ⟨basis, core, circuits⟩ := (stageRecords_flitsOnly s (layRecords (circuitClaims c)) 0).thenCircuits (· ++ [c])
  have ends := openEnds_ends (circuitListed s c) (requestSrc r) r.dsts
  have eq := openCircuit_eq free room forward reverse
  refine ⟨⟨_, _, eq, basis.trans ends.basis, lt_stageRecords _ _ _, ends.circuits.trans circuits⟩, fun ep own => ?_⟩
  rw [eq, (answerGranted_leaves _ r _ ks).2]
  exact openEnds_send ((ownSend_congr core (requestSrc r)).trans own) r.dsts

/-- An end in use or a queue past its budget (R60, R254). -/
theorem openCircuit_refuses {s : State} {r : CircReq}
    (h : circuitOf s (requestSrc r) ≠ none ∨ qFslots s (fld r.w3 63 48) < queueSlots s (fld r.w3 63 48) + fld r.w3 25 18) :
    openCircuit s r = answerRefused s r false none := by
  rw [openCircuit]
  exact if_pos (by simpa [Option.isSome_iff_ne_none] using h)

/-! ## WIDEN and NARROW -/

theorem widenCircuit_grants {s : State} {r : CircReq} {c : Circuit} {ks : List Nat} (held : circuitOf s (requestSrc r) = some c)
    (room : queueSlots s c.qid.toNat + fld r.w3 25 18 ≤ qFslots s c.qid.toNat)
    (forward : searchForward s r (some c) (c.dsts.map (·.1)) (takenEntries s) = .ok ks) :
    GrantsChange s (widenCircuit s r) r (c.slots ++ ks)
      (s.fab.circuits.map fun x => if x.src = requestSrc r then { c with slots := c.slots ++ ks } else x) := by
  let staged := stageRecords s (layRecords (slotClaims (requestSrc r) (c.dsts.map (·.1)) ks)) 0
  obtain ⟨basis, -, circuits⟩ := (stageRecords_flitsOnly s _ 0 : FlitsOnly s staged.1).thenCircuits
    (·.map fun x => if x.src = requestSrc r then { c with slots := c.slots ++ ks } else x)
  refine ⟨_, staged.2, ?_, basis, lt_stageRecords s _ 0, circuits⟩
  simp only [widenCircuit, held, if_neg (Nat.not_lt.mpr room), forward]
  rfl

/-- NARROW keeps the slots that are not its highest (R60). -/
theorem narrowCircuit_grants {s : State} {r : CircReq} {c : Circuit} (held : circuitOf s (requestSrc r) = some c)
    (more : fld r.w3 25 18 < c.slots.length) {keep : List Nat} (kept : keep = c.slots.filter fun k => !(highest c.slots (fld r.w3 25 18)).contains k) :
    GrantsChange s (narrowCircuit s r) r keep (s.fab.circuits.map fun x => if x.src = requestSrc r then { x with slots := keep } else x) := by
  obtain ⟨flits, later, -⟩ := removeEntries_spec s (requestSrc r)
    (slotClaims (requestSrc r) (c.dsts.map (·.1)) (highest c.slots (fld r.w3 25 18)))
  obtain ⟨basis, -, circuits⟩ := flits.thenCircuits (·.map fun x => if x.src = requestSrc r then { x with slots := keep } else x)
  refine ⟨_, _, ?_, basis, later, circuits⟩
  simp only [narrowCircuit, held, if_neg (Nat.not_le.mpr more), kept]
  rfl

/-! ## RELEASE -/

/-- The entries of a circuit are on their way out, and it is no longer listed. -/
def circuitRemoved (s : State) (c : Circuit) (src : EpId) : State :=
  (removeEntries s src (circuitClaims c)).1.withFab fun f =>
    { f with circuits := f.circuits.filter (·.src != src), pcSend := f.pcSend.filter (·.1 != src) }

theorem circuitRemoved_leaves (s : State) (c : Circuit) (src : EpId) : AnswerBasis s (circuitRemoved s c src) ∧
    SameMemory s (circuitRemoved s c src) ∧ (circuitRemoved s c src).fab.circuits = s.fab.circuits.filter (·.src != src) := by
  obtain ⟨flits, -, -⟩ := removeEntries_spec s src (circuitClaims c)
  exact ⟨⟨flits.basis.mem, flits.basis.tags, flits.basis.fe, flits.basis.now, flits.basis.hub⟩,
    flits.sameMemory.trans (sameMemory_of rfl rfl rfl rfl), congrArg (List.filter _) flits.circuits⟩

theorem releaseCircuit_eq {s : State} {r : CircReq} {c : Circuit} (held : circuitOf s (requestSrc r) = some c) :
    releaseCircuit s r = if r.crel then
        answerRelease (circuitRemoved s c (requestSrc r)) r (removeEntries s (requestSrc r) (circuitClaims c)).2.2
      else answerGranted (circuitRemoved s c (requestSrc r)) r (removeEntries s (requestSrc r) (circuitClaims c)).2.1 [] := by
  simp only [releaseCircuit, held]
  rfl

theorem releaseCircuit_grants {s : State} {r : CircReq} {c : Circuit} (held : circuitOf s (requestSrc r) = some c) (command : r.crel = false) :
    GrantsChange s (releaseCircuit s r) r [] (s.fab.circuits.filter (·.src != requestSrc r)) := by
  obtain ⟨basis, -, circuits⟩ := circuitRemoved_leaves s c (requestSrc r)
  refine ⟨_, _, ?_, basis, (removeEntries_spec s (requestSrc r) (circuitClaims c)).2.1, circuits⟩
  rw [releaseCircuit_eq held, command, if_neg Bool.false_ne_true]

theorem answerRelease_leaves (s : State) (r : CircReq) (w : Nat) :
    SameMemory s (answerRelease s r w) ∧ (answerRelease s r w).fab = s.fab ∧
      ∀ h, r.handle = some h → (256 * w + 128, Act.completion h ⟨0, 0, 0⟩) ∈ (answerRelease s r w).agenda := by
  unfold answerRelease
  split
  next g hg =>
    refine ⟨sameMemory_of rfl rfl rfl rfl, rfl, fun h hh => ?_⟩
    obtain rfl : g = h := Option.some.inj (hg.symm.trans hh)
    exact State.mem_at _ _ _
  next none => exact ⟨SameMemory.refl s, rfl, fun h hh => nomatch none.symm.trans hh⟩

/-- A CREL's handle fills at the second commit wheel, and memory takes no record (R409). -/
theorem releaseCircuit_crel {s : State} {r : CircReq} {c : Circuit} (held : circuitOf s (requestSrc r) = some c) (crel : r.crel = true) :
    (releaseCircuit s r).fab.circuits = s.fab.circuits.filter (·.src != requestSrc r) ∧ SameMemory s (releaseCircuit s r) ∧
      ∀ h, r.handle = some h → ∃ m, s.now < m ∧ (m, Act.completion h ⟨0, 0, 0⟩) ∈ (releaseCircuit s r).agenda := by
  let w := (removeEntries s (requestSrc r) (circuitClaims c)).2.2
  have later : s.wheel < w := (removeEntries_spec s (requestSrc r) (circuitClaims c)).2.2
  obtain ⟨-, removed, circuits⟩ := circuitRemoved_leaves s c (requestSrc r)
  obtain ⟨memory, fab, due⟩ := answerRelease_leaves (circuitRemoved s c (requestSrc r)) r w
  rw [releaseCircuit_eq held, crel, if_pos rfl]
  refine ⟨(congrArg Fabric.circuits fab).trans circuits, removed.trans memory, fun h hh => ⟨256 * w + 128, ?_, due h hh⟩⟩
  simp only [State.wheel] at later
  omega

/-! ## A request without its circuit -/

/-- WIDEN, NARROW and RELEASE of an endpoint that holds no circuit are refused. -/
theorem exec_change_missing {s : State} {r : CircReq} (missing : circuitOf (takeRequest s r) (requestSrc r) = none) (command : r.crel = false)
    {i : Instr} (hi : i ∈ [Instr.circWiden r, .circNarrow r, .circRelease r]) :
    exec i s = .next (answerRefused (takeRequest s r) r false none) := by
  simp only [List.mem_cons, List.not_mem_nil, or_false] at hi
  obtain rfl | rfl | rfl := hi
  · show Host.Outcome.next (widenCircuit (takeRequest s r) r) = _
    simp only [widenCircuit, missing]
  · show Host.Outcome.next (narrowCircuit (takeRequest s r) r) = _
    simp only [narrowCircuit, missing]
  · show Host.Outcome.next (releaseCircuit (takeRequest s r) r) = _
    simp only [releaseCircuit, missing, command, if_neg Bool.false_ne_true]

end Sys2Proof.Claims
end

section
/-! Every act of configuration flits and of links completes (R40, R63, R64, R68, R504, R505), and Badger's requests together. -/

namespace Sys2Proof.Claims

open Sys2Proof.Machine

/-! ## Configuration acts -/

theorem exec_configStageEntries (s : State) (w : Nat) (recs : List CfgRec) :
    ∃ t, exec (.configStageEntries w recs) s = .next t ∧ SameMemory s t ∧ t.core = s.core := by
  refine ⟨recs.foldl (stageRecord w) s, rfl, foldl_rel (R := fun s t : State => SameMemory s t ∧ t.core = s.core)
    (fun s => ⟨SameMemory.refl s, rfl⟩) (fun h g => ⟨h.1.trans g.1, g.2.trans h.2⟩) (fun t r => ?_) recs s⟩
  exact ⟨(EntriesAndCircuits.sameMemory (tableSet_leaves t _ _ _ _ _)).trans (armCommit_sameMemory _ _ _), armCommit_core _ _ _⟩

theorem sendReadback_core (s : State) : (sendReadback s).core = s.core := by
  unfold sendReadback
  split <;> rfl

/-- A reply goes up a link or stages its depth at Badger. -/
theorem exec_configReply_leaves (s : State) (a : AgentId) (port d : Nat) (m : BitVec 8) :
    ∃ t, exec (.configReply a port d m) s = .next t ∧ SameMemory s t ∧ t.core = s.core := by
  by_cases up : 1 < d
  · exact ⟨_, exec_configReply_up s a port d m up, sameMemory_of rfl rfl rfl rfl, rfl⟩
  · let u := stageDepth (s.withFab fun x => { x with readbacks := x.readbacks.drop 1 }) a port m
    have staged : SameMemory s u ∧ u.core = s.core := ⟨sameMemory_of rfl rfl rfl rfl, rfl⟩
    refine ⟨sendReadback u, ?_, staged.1.trans (sendReadback_asked u).1.memory, (sendReadback_core u).trans staged.2⟩
    show execConfigReply a port d m s = _
    rw [execConfigReply, if_neg up]

/-- A commit leaves nothing staged at an agent whose wheel has come. -/
theorem exec_stagedCommit_unstages (s : State) (a : AgentId) :
    ∃ t, exec (.stagedCommit a) s = .next t ∧ ∀ c, s.fab.commits.find? (·.1 = a) = some c → wheelStart a c.2 ≤ s.now →
      ∀ e ∈ t.fab.tables, e.agent = a → e.spend = false := by
  cases pending : s.fab.commits.find? (·.1 = a) with
  | none =>
    refine ⟨s, ?_, fun c h => nomatch h⟩
    show execStagedCommit a s = _
    simp only [execStagedCommit, pending]
  | some c =>
    obtain ⟨b, w⟩ := c
    obtain rfl : b = a := by simpa using List.find?_some pending
    by_cases due : wheelStart b w ≤ s.now
    · obtain ⟨t, eq, -, -, unstaged, -⟩ := exec_stagedCommit_due pending due
      exact ⟨t, eq, fun _ _ _ => unstaged⟩
    · refine ⟨_, execStagedCommit_early pending (Nat.not_le.mp due), fun c h early => ?_⟩
      obtain rfl := Option.some.inj h
      exact absurd early due

/-! ## Acts of links -/

theorem exec_linkRetrainRequest_holds (s : State) (l : Fin 352) :
    ∃ t, exec (.linkRetrainRequest l) s = .next t ∧ (linkAt t l.val).state ≠ .up := by
  by_cases up : (linkAt s l.val).state = .up
  · obtain ⟨t, w, eq, -, -, -, link, -⟩ := exec_linkRetrainRequest_up s l up
    exact ⟨t, eq, fun h => nomatch (congrArg Link.state link).symm.trans h⟩
  · refine ⟨s, ?_, up⟩
    show execLinkRetrainRequest l s = _
    rw [execLinkRetrainRequest, if_pos (bne_iff_ne.mpr up)]

theorem exec_linkTrained_measures (s : State) (l : Fin 352) (x : LinkDelays) :
    ∃ t, exec (.linkTrained l x) s = .next t ∧
      ∀ w, (linkAt s l.val).state = .training w → (alignAt t hubAgent l.val).measd = x.up := by
  cases state : (linkAt s l.val).state with
  | training v =>
    cases good : goodDelay x.up && goodDelay x.down with
    | true =>
      obtain ⟨up, down⟩ := Bool.and_eq_true_iff.mp good
      obtain ⟨t, eq, -, -, measd, -⟩ := exec_linkTrained_good s l x state up down
      exact ⟨t, eq, fun _ _ => measd⟩
    | false =>
      obtain ⟨t, eq, -, measd, -⟩ := exec_linkTrained_bad s l x state good
      exact ⟨t, eq, fun _ _ => measd⟩
  | up | down =>
    refine ⟨s, ?_, fun w h => nomatch h⟩
    show execLinkTrained l x s = _
    simp only [execLinkTrained, state]

theorem exec_linkTrainTimeout_downs (s : State) (l : Fin 352) :
    ∃ t, exec (.linkTrainTimeout l) s = .next t ∧
      ∀ w, (linkAt s l.val).state = .training w → 256 * (w + 64) ≤ s.now → (linkAt t l.val).state = .down := by
  cases state : (linkAt s l.val).state with
  | training v =>
    refine ⟨_, exec_linkTrainTimeout s l state, fun w h late => ?_⟩
    obtain rfl := LinkState.training.inj h
    rw [if_pos late, linkAt_linkDown]
  | up | down =>
    refine ⟨s, ?_, fun w h => nomatch h⟩
    show execLinkTrainTimeout l s = _
    simp only [execLinkTrainTimeout, state]

theorem exec_linkRetry_trains (s : State) (l : Fin 352) : ∃ t, exec (.linkRetry l) s = .next t ∧ (linkAt t l.val).state ≠ .down := by
  by_cases down : (linkAt s l.val).state = .down
  · obtain ⟨t, eq, -, link, -⟩ := exec_linkRetry_down s l down
    exact ⟨t, eq, fun h => nomatch (congrArg Link.state link).symm.trans h⟩
  · refine ⟨s, ?_, down⟩
    show execLinkRetry l s = _
    rw [execLinkRetry, if_neg down]

theorem exec_linkSignalLoss_silences (s : State) (l : Fin 352) : ∃ t, exec (.linkSignalLoss l) s = .next t ∧ linkCarries t l.val = false := by
  by_cases down : (linkAt s l.val).state = .down
  · refine ⟨s, ?_, by simp only [linkCarries, down]⟩
    show execLinkSignalLoss l s = _
    rw [execLinkSignalLoss, if_pos down]
  · obtain ⟨t, w, eq, -, -, -, -, silent, -⟩ := exec_linkSignalLoss s l down
    exact ⟨t, eq, silent⟩

/-! ## The claim -/

/-- Settles O41, each clause by the lemma of its request or act. -/
theorem badgerAnswersRequests : Obligations.BadgerAnswersRequests := by
  refine ⟨fun s r => ⟨exec_badgerRequestArrive_taken r, fun full => ⟨_, exec_badgerRequestArrive_busy r full, answerBusy_spec s r⟩,
    fun ep => exec_sendBufferEmpty_empty r, fun ep => exec_sendBufferEmpty_waits r⟩, fun s r wf core _ room => ?_⟩
  intro src u n answer told granted
  have fits : AnswerFits r := ⟨core, room⟩
  refine ⟨fun ks ds free budget forward reverse => ?opened, fun barred => ?openRefused, fun c ks held budget forward => ?widened,
    fun c held more => ?narrowed, fun c held => ?released, fun missing command i hi => ?missing, exec_configStageEntries s,
    fun a port w d x m => ⟨?depth, ?readback, exec_configReply_leaves s a port d m, exec_stagedCommit_unstages s a⟩,
    fun l x => ⟨exec_linkRetrainRequest_holds s l, exec_linkTrained_measures s l x, exec_linkTrainTimeout_downs s l, exec_linkRetry_trains s l,
      exec_linkSignalLoss_silences s l⟩⟩
  case opened =>
    obtain ⟨grants, ends⟩ := openCircuit_grants free budget forward reverse
    exact ⟨openCircuit u r, rfl, grants.circuits, grants.granted wf fits, ends⟩
  case openRefused =>
    exact ⟨_, congrArg Host.Outcome.next (openCircuit_refuses barred), answerRefused_refused wf fits false none⟩
  case widened =>
    have grants := widenCircuit_grants held budget forward
    exact ⟨widenCircuit u r, rfl, grants.granted wf fits, grants.circuits⟩
  case narrowed =>
    have grants := narrowCircuit_grants held more rfl
    exact ⟨narrowCircuit u r, _, rfl, grants.granted wf fits, rfl, grants.circuits⟩
  case released =>
    cases crel : r.crel with
    | false =>
      have grants := releaseCircuit_grants held crel
      exact ⟨releaseCircuit u r, rfl, grants.circuits, fun _ => grants.granted wf fits, fun h => nomatch h⟩
    | true =>
      obtain ⟨circuits, memory, due⟩ := releaseCircuit_crel held crel
      have taken : SameMemory s u := sameMemory_of rfl rfl rfl rfl
      exact ⟨releaseCircuit u r, rfl, circuits, (nomatch ·), fun _ => ⟨taken.trans memory, due⟩⟩
  case missing => exact ⟨_, exec_change_missing missing command hi, answerRefused_refused wf fits false none⟩
  case depth =>
    obtain ⟨t, eq, -, -, align, -⟩ := exec_configStageDepth s a port w x
    exact ⟨t, eq, by rw [align], by rw [align]⟩
  case readback =>
    obtain ⟨t, eq, -, core, fab, -⟩ := exec_configReadback s a port
    exact ⟨t, eq, fab, core⟩

end Sys2Proof.Claims
end

section
/-! Fills of registers: which of a strand's registers take one, and where one goes whose register has been spilled (R79, R100, R105). -/

namespace Sys2Proof.Machine

@[simp] theorem vmap_getElem {α β : Type} {n : Nat} (f : α → β) (v : Vector α n) (i : Fin n) : (vmap f v)[i] = f v[i] := by simp [vmap]

theorem Reg.fillWith_eq (r : Reg) (b : Bind) (v : Word) (g : Tag) :
    r.fillWith b v g = if r.bind = some b ∧ r.full = false then ⟨v, g, true, none⟩ else r := by
  simp [Reg.fillWith]

/-- With nothing spilled there is no spill slot to write (R105). -/
theorem fillSpilled_none {s : State} {k : Fin 16} (unspilled : (s.strand k).spilled = []) (b : Bind) (v : Word) (g : Tag) :
    fillSpilled s k b v g = s := by
  simp only [fillSpilled, unspilled, List.filter_nil, List.foldl_nil]

/-- A strand whose registers have taken a fill, with no slot spilled for it any longer. -/
def Strand.fillWith (x : Strand) (b : Bind) (v : Word) (g : Tag) : Strand :=
  { x with
    w := vmap (·.fillWith b v g) x.w
    ring := vmap (·.fillWith b v g) x.ring
    o := vmap (·.fillWith b v g) x.o
    lat := x.lat.fillWith b v g
    spilled := x.spilled.filter (fun e => e.b != b) }

theorem Strand.fillWith_reg (x : Strand) (b : Bind) (v : Word) (g : Tag) (l : Loc) : (x.fillWith b v g).reg l = (x.reg l).fillWith b v g := by
  cases l <;> simp only [Strand.reg, Strand.fillWith, vmap_getElem]

theorem fillReg_strand {s : State} {k : Fin 16} (unspilled : (s.strand k).spilled = []) (n : Nat) (v : Word) (g : Tag) :
    (fillReg s k n v g).strand k = (s.strand k).fillWith (.fill n) v g := by
  simp only [fillReg, fillSpilled_none unspilled]
  exact State.modStrand_strand_same s k (·.fillWith (.fill n) v g)

end Sys2Proof.Machine

namespace Sys2Proof.Claims

open Sys2Proof.Machine

/-- Settles O11: the fill rule of one register, at every register. -/
theorem fillsReachTheirRegisters : Obligations.FillsReachTheirRegisters := by
  intro s k n v g l unspilled
  rw [fillReg_strand unspilled, Strand.fillWith_reg, Reg.fillWith_eq]

/-- Counter 0 is exchanged for strand 0, whose register for the old value has been spilled to the first word of its TCM. -/
def spilledExchange : State :=
  let s := State.reset.modStrand 0 fun x => { x with spilled := [⟨0, 0, tcmPa 0 0, .fill 5⟩] }
  s.withClu fun u => { u with loopReqs := [⟨0, 0, 0, 0, .xchg 0x210 .swap 0 5⟩] }

/-- The exchange's fill writes the spill slot (R105): its tag byte is that of a full tag. -/
theorem spilledExchange_writes : ∃ t, exec .loopUnitService spilledExchange = .next t ∧ tagByteAt t (tcmPa 0 0) = 64 :=
  ⟨_, rfl, by decide⟩

/-- Refutes O22: an exchange that the loop unit serves, unlike its other requests, fills its register at once, and when that register has been
spilled the fill writes memory. -/
theorem not_loopUnitServes : ¬ Obligations.LoopUnitServes := by
  intro h
  obtain ⟨-, -, -, serves, -⟩ := h
  obtain ⟨⟨t, eq, -, memory, -⟩, -⟩ := serves spilledExchange ⟨0, 0, 0, 0, .xchg 0x210 .swap 0 5⟩ (by decide)
  obtain ⟨u, eq', written⟩ := spilledExchange_writes
  have same : u = t := Host.Outcome.next.inj (eq'.symm.trans eq)
  obtain ⟨-, tag, -⟩ := memory (tcmPa 0 0)
  rw [← same, written] at tag
  exact absurd tag (by decide)

end Sys2Proof.Claims
end

section
/-! Strands at their boundary: what ends a wait, entering a trap, and the window moves that a CALL or RET still owes (R104, R121, R268, R269). -/

namespace Sys2Proof.Machine

/-! ## Strands under changes of the rest of the core -/

theorem State.strand_congr {s t : State} (h : t.core.strands = s.core.strands) (k : Fin 16) : t.strand k = s.strand k := by
  rw [State.strand, State.strand, h]

theorem PlanesOnly.strand {s t : State} (h : PlanesOnly s t) (k : Fin 16) : t.strand k = s.strand k :=
  State.strand_congr (congrArg Core.strands h.core) k

theorem State.setRun_strand_same (s : State) (k : Fin 16) (r : RunState) : (s.setRun k r).strand k = (s.strand k).setRun r :=
  State.modStrand_strand_same s k _

theorem State.setRun_strand_other (s : State) {k j : Fin 16} (r : RunState) (h : j ≠ k) : (s.setRun k r).strand j = s.strand j :=
  State.modStrand_strand_other s _ h

/-- What every step of a fold leaves as it was, the fold does. -/
theorem foldl_keeps {α β : Type} (g : State → β) {f : State → α → State} (step : ∀ s a, g (f s a) = g s) (xs : List α) (s : State) :
    g (xs.foldl f s) = g s := foldl_rel (R := fun s t => g t = g s) (fun _ => rfl) (fun h h' => h'.trans h) step xs s

/-! ## The end of a wait -/

/-- Nothing but the core's queues differs. -/
def QueuesOnly (s t : State) : Prop := t = { s with core := { s.core with queues := t.core.queues } }

theorem QueuesOnly.trans {s t u : State} (h : QueuesOnly s t) (g : QueuesOnly t u) : QueuesOnly s u := by
  unfold QueuesOnly at *
  rw [g, h]

theorem unreserve_queuesOnly (s : State) (n : Nat) : QueuesOnly s (unreserve s n) := rfl

/-- Is the waiter strand k's? -/
def Waiter.isOf (k : Fin 16) (w : Waiter) : Bool := match w.by_ with | .strand j _ _ => j = k | _ => false

/-- The strand leaves the waiters of the core's words. -/
def dropWaiters (s : State) (k : Fin 16) : State := s.withCore fun c => { c with waiters := c.waiters.filter fun w => !w.isOf k }

/-- Beside leaving the waiters, a strand that no longer waits only gives up places in queues. -/
theorem dropWaits_queuesOnly (s : State) (k : Fin 16) : QueuesOnly (dropWaiters s k) (dropWaits s k) := by
  have places (ns : List Nat) (t : State) : QueuesOnly t (ns.foldl unreserve t) :=
    foldl_rel (R := QueuesOnly) (fun _ => rfl) QueuesOnly.trans unreserve_queuesOnly ns t
  unfold dropWaits
  dsimp only
  split
  · exact (places _ _).trans rfl
  · exact places _ _

theorem dropWaits_waiters (s : State) (k : Fin 16) : (dropWaits s k).core.waiters = s.core.waiters.filter fun w => !w.isOf k := by
  rw [dropWaits_queuesOnly s k]
  rfl

theorem dropWaits_strand (s : State) (k j : Fin 16) : (dropWaits s k).strand j = s.strand j :=
  State.strand_congr (by rw [dropWaits_queuesOnly s k]; rfl) j

/-! ## Entering a trap -/

theorem enterTrap_strand_same (s : State) (k : Fin 16) (c v : Word) :
    (enterTrap s k c v).strand k = (takeTrap (s.strand k) (s.strand k).pc c v).setRun .ready := by
  rw [enterTrap, State.setRun_strand_same, State.modStrand_strand_same, dropWaits_strand]

theorem enterTrap_strand_other (s : State) {k j : Fin 16} (c v : Word) (h : j ≠ k) : (enterTrap s k c v).strand j = s.strand j := by
  rw [enterTrap, State.setRun_strand_other _ _ h, State.modStrand_strand_other _ _ h, dropWaits_strand]

/-! ## Interrupts -/

/-- The strand may take an event at its boundary (R269). -/
def AtBoundary (s : State) (k : Fin 16) : Prop :=
  (s.strand k).run = .ready ∨ (s.strand k).run = .yielded ∨ ∃ w, (s.strand k).run = .parked w ∧ dueInterrupt s k = true

theorem AtBoundary.due {s : State} {k : Fin 16} (h : AtBoundary s k) :
    boundaryDue s k = (!(s.strand k).taken && (!(s.strand k).singular.isEmpty || dueInterrupt s k)) := by
  unfold boundaryDue
  rcases h with run | run | ⟨w, run, due⟩
  · rw [run]
  · rw [run]
  · rw [run, due, Bool.or_true]

/-- A pending and enabled interrupt is due when IE is set. -/
theorem dueInterrupt_of_bit {s : State} {k : Fin 16} (ie : (s.strand k).mode.getLsbD 2 = true) {i : Nat}
    (bit : (ipend s k &&& (s.strand k).ien).getLsbD i = true) : dueInterrupt s k = true := by
  have pending : ipend s k &&& (s.strand k).ien ≠ 0 := fun idle => by simp [idle] at bit
  rw [dueInterrupt, Strand.ie, ie, Bool.true_and]
  exact bne_iff_ne.mpr pending

theorem dueInterrupt_none {s : State} {k : Fin 16} (idle : ipend s k &&& (s.strand k).ien = 0) : dueInterrupt s k = false := by
  simp [dueInterrupt, idle]

theorem dueInterrupt_masked {s : State} {k : Fin 16} (ie : (s.strand k).mode.getLsbD 2 = false) : dueInterrupt s k = false := by
  rw [dueInterrupt, Strand.ie, ie, Bool.false_and]

end Sys2Proof.Machine

namespace Sys2Proof.Claims

open Sys2Proof.Machine

theorem dropWaits_sameMemory (s : State) (k : Fin 16) : SameMemory s (dropWaits s k) := by
  rw [dropWaits_queuesOnly s k]
  exact sameMemory_of rfl rfl rfl rfl

/-- Strand k has entered its handler as R268 says: its registers, memory and the other strands are as before. -/
def Enters (s t : State) (k : Fin 16) (cause tval : Word) : Prop :=
  let x := s.strand k
  (t.strand k).run = .ready ∧ (t.strand k).taken = true ∧
    (t.strand k).tepc = x.pc.zeroExtend 64 ∧ (t.strand k).tcause = cause ∧ (t.strand k).tval = tval ∧
    (t.strand k).pc = (x.tvec.extractLsb' 0 43) &&& ~~~3 ∧ (t.strand k).mode.getLsbD 0 = true ∧ (t.strand k).mode.getLsbD 1 = x.mode.getLsbD 0 ∧
    (t.strand k).mode.getLsbD 2 = false ∧ (t.strand k).mode.getLsbD 3 = x.mode.getLsbD 2 ∧ (t.strand k).w = x.w ∧ (t.strand k).ring = x.ring ∧
    (t.strand k).lat = x.lat ∧ (t.strand k).v = x.v ∧ SameMemory s t ∧ (∀ j, j ≠ k → t.strand j = s.strand j)

theorem enterTrap_enters (s : State) (k : Fin 16) (cause tval : Word) : Enters s (enterTrap s k cause tval) k cause tval := by
  have memory : SameMemory s (enterTrap s k cause tval) := (dropWaits_sameMemory s k).trans (sameMemory_of rfl rfl rfl rfl)
  obtain ⟨⟨kernel, pk⟩, ie, pie⟩ := takeTrap_mode (s.strand k) (s.strand k).pc cause tval
  unfold Enters
  rw [enterTrap_strand_same]
  exact ⟨rfl, rfl, rfl, rfl, rfl, rfl, kernel, pk, ie, pie, rfl, rfl, rfl, rfl, memory, fun j h => enterTrap_strand_other s _ _ h⟩

/-- An event taken off its list first, of the strand or of the core's endpoints. -/
theorem Enters.after {s u t : State} {k : Fin 16} {cause tval : Word} (h : Enters u t k cause tval) (memory : SameMemory s u)
    (rest : List (BitVec 16)) (same : u.strand k = { s.strand k with singular := rest }) (others : ∀ j, j ≠ k → u.strand j = s.strand j) :
    Enters s t k cause tval := by
  unfold Enters at h ⊢
  rw [same] at h
  obtain ⟨run, taken, tepc, tcause, tv, pc, m0, m1, m2, m3, w, ring, lat, v, kept, strands⟩ := h
  exact ⟨run, taken, tepc, tcause, tv, pc, m0, m1, m2, m3, w, ring, lat, v, memory.trans kept, fun j hj => (strands j hj).trans (others j hj)⟩

theorem exec_interruptEntry (k : Fin 16) (s : State) : exec (.interruptEntry k) s = execInterruptEntry k s := rfl

theorem exec_interruptEntry_none {s : State} {k : Fin 16} (h : boundaryDue s k = false) : exec (.interruptEntry k) s = .next s := by
  rw [exec_interruptEntry, execInterruptEntry, h]
  rfl

/-- SINGULAR comes first (R269). -/
theorem exec_interruptEntry_singular {s : State} {k : Fin 16} (due : boundaryDue s k = true) {h : BitVec 16} {hs : List (BitVec 16)}
    (pending : (s.strand k).singular = h :: hs) :
    ∃ t, exec (.interruptEntry k) s = .next t ∧ Enters s t k 5 (h.zeroExtend 64) := by
  refine ⟨enterTrap (s.modStrand k fun x => { x with singular := hs }) k tcSingular (h.zeroExtend 64), ?_, (enterTrap_enters _ k _ _).after (sameMemory_of rfl rfl rfl rfl) hs
    (State.modStrand_strand_same s k _) fun j hj => State.modStrand_strand_other s _ hj⟩
  simp only [exec_interruptEntry, execInterruptEntry, due, pending]
  rfl

section
variable {s : State} {k : Fin 16} (boundary : boundaryDue s k = true) (clear : (s.strand k).singular = []) (due : dueInterrupt s k = true)
include boundary clear due

theorem exec_interruptEntry_timer (timer : (ipend s k &&& (s.strand k).ien).getLsbD 0 = true) :
    ∃ t, exec (.interruptEntry k) s = .next t ∧ Enters s t k 0x8000000000000010 0 := by
  refine ⟨enterTrap s k tcTimer 0, ?_, enterTrap_enters s k _ _⟩
  simp only [exec_interruptEntry, execInterruptEntry, boundary, clear, due, timer]
  rfl

theorem exec_interruptEntry_mbox (timer : (ipend s k &&& (s.strand k).ien).getLsbD 0 = false)
    (mbox : (ipend s k &&& (s.strand k).ien).getLsbD 1 = true) {e : Fin 64} (first : mboxPending s k = some e) :
    ∃ t, exec (.interruptEntry k) s = .next t ∧ Enters s t k 0x8000000000000011 (word e.val) := by
  refine ⟨enterTrap (s.modRecv e fun r => { r with pend := false }) k tcMbox (word e.val), ?_,
    (enterTrap_enters _ k _ _).after (sameMemory_of rfl rfl rfl rfl) _ rfl fun _ _ => rfl⟩
  simp only [exec_interruptEntry, execInterruptEntry, boundary, clear, due, timer, mbox, first]
  rfl

theorem exec_interruptEntry_soft (timer : (ipend s k &&& (s.strand k).ien).getLsbD 0 = false)
    (mbox : (ipend s k &&& (s.strand k).ien).getLsbD 1 = false) :
    ∃ t, exec (.interruptEntry k) s = .next t ∧ Enters s t k 0x8000000000000012 0 := by
  refine ⟨enterTrap s k tcSoft 0, ?_, enterTrap_enters s k _ _⟩
  simp only [exec_interruptEntry, execInterruptEntry, boundary, clear, due, timer, mbox]
  rfl

end

/-- R121, R269: a timer ends a parked strand's wait. -/
theorem exec_timerExpiry_due {s : State} {k : Fin 16} {w : Wait} (run : (s.strand k).run = .parked w) (due : dueInterrupt s k = true) :
    ∃ t, exec (.timerExpiry k) s = .next t ∧ (t.strand k).run = .ready ∧ (t.strand k).pc = (s.strand k).pc ∧ SameMemory s t ∧
      ∀ v ∈ t.core.waiters, v ∈ s.core.waiters ∧ ∀ d n, v.by_ ≠ .strand k d n := by
  refine ⟨(dropWaits s k).setRun k .ready, ?_, ?_, ?_, (dropWaits_sameMemory s k).trans (sameMemory_of rfl rfl rfl rfl), fun v hv => ?_⟩
  · show execTimerExpiry k s = _
    rw [execTimerExpiry, run, due]
    rfl
  · rw [State.setRun_strand_same]
    rfl
  · rw [State.setRun_strand_same, dropWaits_strand]
    rfl
  · have kept : v ∈ s.core.waiters.filter fun w => !w.isOf k := dropWaits_waiters s k ▸ hv
    obtain ⟨was, other⟩ := List.mem_filter.mp kept
    exact ⟨was, fun d n mine => by simp [Waiter.isOf, mine] at other⟩

theorem exec_timerExpiry_none {s : State} {k : Fin 16} {w : Wait} (run : (s.strand k).run = .parked w) (due : dueInterrupt s k = false) :
    exec (.timerExpiry k) s = .next s := by
  show execTimerExpiry k s = _
  rw [execTimerExpiry, run, due]
  rfl

end Sys2Proof.Claims
end

section
/-! The window moves that a CALL or RET still owes: made when the strand's stores have left, or stopped by a poisoned record (R104, R464, R498). -/

namespace Sys2Proof.Machine

/-! ## What a move keeps -/

theorem readyTaken_strand (s : State) (off : Nat) (k : Fin 16) : (readyTaken s off).strand k = s.strand k := by
  refine foldl_keeps (State.strand · k) (fun t e => ?_) _ s
  repeat' split
  all_goals rfl

theorem setFe_planes (s : State) (pa : Nat) (full : Bool) : PlanesOnly s (setFe s pa full) := rfl

theorem emptyWord_strand (s : State) (off : Nat) (k : Fin 16) : (emptyWord s off).strand k = s.strand k := by
  unfold emptyWord
  dsimp only
  split
  · exact ((setFe_planes _ _ _).strand k).trans (readyTaken_strand s off k)
  · rfl

theorem spillEntry_run (s : State) (k : Fin 16) (rec f i : Nat) : ((spillEntry s k rec f i).strand k).run = (s.strand k).run := by
  unfold spillEntry
  dsimp only
  rw [State.modStrand_strand_same]
  dsimp only
  split
  · exact congrArg Strand.run (((setFe_planes _ _ _).strand k).trans ((performStore_planes s _).strand k))
  · exact congrArg Strand.run ((emptyWord_strand _ _ k).trans ((performStore_planes s _).strand k))

theorem spillFrame_run (s : State) (k : Fin 16) (rec f : Nat) : ((spillFrame s k rec f).strand k).run = (s.strand k).run :=
  foldl_keeps (fun t => (t.strand k).run) (fun t i => spillEntry_run t k rec f i) _ s

theorem fillEntry_run (s : State) (k : Fin 16) (rec f i : Nat) : ((fillEntry s k rec f i).strand k).run = (s.strand k).run := by
  unfold fillEntry
  dsimp only
  rw [State.modStrand_strand_same]

theorem fillFrame_run (s : State) (k : Fin 16) (rec f : Nat) : ((fillFrame s k rec f).strand k).run = (s.strand k).run :=
  foldl_keeps (fun t => (t.strand k).run) (fun t i => fillEntry_run t k rec f i) _ s

/-- A strand that owes its move already goes on waiting as it is. -/
theorem Strand.owe_same {x : Strand} {m : WindowMove} (run : x.run = .stalled .windowStores) (owed : x.owed = some m) : x.owe m = x := by
  rw [Strand.owe, run]
  exact (congrArg₂ (fun o r => { x with owed := o, run := r }) owed run).symm

theorem Strand.paid_stalled {x : Strand} (run : x.run = .stalled .windowStores) : x.paid = { x with run := .ready, owed := none } := by
  rw [Strand.paid, if_pos run]

theorem sendPacket_core {s : State} (room : s.clu.path.length < 32) (p : Packet) : (sendPacket s p).core = s.core := by
  rw [sendPacket_joins p room, State.atOnce_core]

/-- While the path has room, a strand that freezes keeps its context but for its cause and its walks (R464). -/
theorem freeze_strand {s : State} (room : s.clu.path.length < 32) (k : Fin 16) (cause : BitVec 8) (pc : Addr) (va ex : Word) (ins : BitVec 32) :
    (freeze s k cause false pc va ex ins).strand k = { s.strand k with run := .frozen, cause := cause, walked := [] } :=
  (State.strand_congr (congrArg Core.strands (sendPacket_core (s := s.setStrand k _) room _)) k).trans (State.setStrand_strand_same s k _)

end Sys2Proof.Machine

namespace Sys2Proof.Claims

open Sys2Proof.Machine

theorem setStrand_sameMemory (s : State) (k : Fin 16) (x : Strand) : SameMemory s (s.setStrand k x) := sameMemory_of rfl rfl rfl rfl

theorem fillEntry_sameMemory (s : State) (k : Fin 16) (rec f i : Nat) : SameMemory s (fillEntry s k rec f i) := sameMemory_of rfl rfl rfl rfl

theorem fillFrame_sameMemory (s : State) (k : Fin 16) (rec f : Nat) : SameMemory s (fillFrame s k rec f) :=
  foldl_rel SameMemory.refl SameMemory.trans (fun t i => fillEntry_sameMemory t k rec f i) _ s

theorem sendPacket_sameMemory {s : State} (room : s.clu.path.length < 32) (p : Packet) : SameMemory s (sendPacket s p) := by
  rw [sendPacket_joins p room]
  have joined : SameMemory s (s.withClu fun c => { c with path := joinPath p c.path }) := sameMemory_of rfl rfl rfl rfl
  exact joined.trans (AgendaOnly.sameMemory (State.atOnce_agendaOnly _ _ _))

theorem freeze_sameMemory {s : State} (room : s.clu.path.length < 32) (k : Fin 16) (cause : BitVec 8) (dfr : Bool) (pc : Addr) (va ex : Word)
    (ins : BitVec 32) : SameMemory s (freeze s k cause dfr pc va ex ins) :=
  sendPacket_sameMemory (s := s.setStrand k _) room _

/-! ## The moves -/

theorem exec_windowMoves_none {s : State} {k : Fin 16} (owed : (s.strand k).owed = none) :
    exec (.windowSpill k) s = .next s ∧ exec (.windowFill k) s = .next s := by
  constructor
  · show execWindowSpill k s = _
    rw [execWindowSpill, owed]
  · show execWindowFill k s = _
    rw [execWindowFill, owed]

theorem exec_windowSpill {s : State} {k : Fin 16} (owed : (s.strand k).owed = some .spill) : exec (.windowSpill k) s = .next (spillOwed s k) := by
  show execWindowSpill k s = _
  rw [execWindowSpill, owed]

theorem exec_windowFill {s : State} {k : Fin 16} {pc : Addr} {ins : BitVec 32} (owed : (s.strand k).owed = some (.fill pc ins)) :
    exec (.windowFill k) s = .next (fillOwed s k pc ins) := by
  show execWindowFill k s = _
  rw [execWindowFill, owed]

section
variable {s : State} {k : Fin 16} (run : (s.strand k).run = .stalled .windowStores)
include run

/-- A strand whose move must wait still stands as it is, and tries again in the next cycle. -/
theorem owe_waits {m : WindowMove} (owed : (s.strand k).owed = some m) (a : Act) :
    ((s.modStrand k (·.owe m)).at (s.now + 1) a).strand k = s.strand k ∧ (s.now + 1, a) ∈ ((s.modStrand k (·.owe m)).at (s.now + 1) a).agenda ∧
      SameMemory s ((s.modStrand k (·.owe m)).at (s.now + 1) a) :=
  ⟨(State.modStrand_strand_same s k (·.owe m)).trans (Strand.owe_same run owed), State.mem_at _ _ _, sameMemory_of rfl rfl rfl rfl⟩

/-- A strand whose move is made goes on. -/
theorem paid_ready : s.modStrand k Strand.paid = s.setStrand k { s.strand k with run := .ready, owed := none } := by
  rw [State.modStrand, Strand.paid_stalled run]

theorem spillOwed_free (free : recordBusy s k (s.strand k) (owedSpill (s.strand k)).1 = false) :
    spillOwed s k = spillFrame (s.setStrand k { s.strand k with run := .ready, owed := none }) k (owedSpill (s.strand k)).1
      (owedSpill (s.strand k)).2 := by
  simp only [spillOwed, free, Bool.false_eq_true, if_false, paid_ready run]

theorem fillOwed_free (free : recordBusy s k (s.strand k) (owedFill (s.strand k)).1 = false)
    (sound : recordPoison s (s.strand k) (owedFill (s.strand k)).1 = none) (pc : Addr) (ins : BitVec 32) :
    fillOwed s k pc ins = fillFrame (s.setStrand k { s.strand k with run := .ready, owed := none }) k (owedFill (s.strand k)).1
      (owedFill (s.strand k)).2 := by
  simp only [fillOwed, free, sound, Bool.false_eq_true, if_false, paid_ready run]

end

/-- R464, R498: the RET of a poisoned record is undone, and its strand freezes at it. -/
theorem fillOwed_poisoned {s : State} {k : Fin 16} (free : recordBusy s k (s.strand k) (owedFill (s.strand k)).1 = false) {i : Nat}
    (poison : recordPoison s (s.strand k) (owedFill (s.strand k)).1 = some i) (room : s.clu.path.length < 32) (pc : Addr) (ins : BitVec 32) :
    ((fillOwed s k pc ins).strand k).run = .frozen ∧ ((fillOwed s k pc ins).strand k).cause = 0x08 ∧ ((fillOwed s k pc ins).strand k).pc = pc ∧
      SameMemory s (fillOwed s k pc ins) := by
  have undone : ((s.modStrand k Strand.paid).modStrand k (unRet · pc)).strand k = unRet (s.strand k).paid pc := by
    rw [State.modStrand_strand_same, State.modStrand_strand_same]
  simp only [fillOwed, free, poison, Bool.false_eq_true, if_false]
  rw [freeze_strand (s := (s.modStrand k Strand.paid).modStrand k (unRet · pc)) room, undone]
  exact ⟨rfl, rfl, rfl, freeze_sameMemory (s := (s.modStrand k Strand.paid).modStrand k (unRet · pc)) room _ _ _ _ _ _ _⟩

end Sys2Proof.Claims
end

section
/-! What leaves the core as it is: requests for units of HBM, copies of granules, fence counters and the records of jobs (R218, R255, R478, R538). -/

namespace Sys2Proof.Machine

/-! ## Units of HBM -/

theorem beginExit_core (s : State) (p : Fin 512) (n : Nat) : (beginExit s p n).core = s.core := by
  unfold beginExit
  dsimp only
  repeat' split
  all_goals rfl

theorem hbmPushAt_core (s : State) (p : Nat) (r : HReq) : (hbmPushAt s p r).core = s.core := by
  unfold hbmPushAt
  split
  · simp only [apply_ite State.core, State.atOnce_core, beginExit_core, ite_self]
    rfl
  · rfl

theorem hbmAsk_core (s : State) (ticket : Nat) (h : Option (Fin 128)) (cls pa units : Nat) (w : Bool) :
    (hbmAsk s ticket h cls pa units w).core = s.core := hbmPushAt_core _ _ _

theorem askLines_core (s : State) (ticket : Nat) (h : Option (Fin 128)) (cls : Nat) (w : Bool) (pas : List Nat) :
    (askLines s ticket h cls w pas).core = s.core := foldl_keeps State.core (fun t _ => hbmAsk_core t _ _ _ _ _ _) _ s

theorem granuleUnits_core (s : State) (ticket pa : Nat) (w : Bool) : (granuleUnits s ticket pa w).core = s.core := by
  refine foldl_keeps State.core (fun t a => ?_) _ s
  split
  · exact hbmAsk_core t _ _ _ _ _ _
  · rfl

/-! ## Records and counters -/

theorem setFstat_core (s : State) (f b : Nat) : (setFstat s f b).core = s.core := by
  unfold setFstat
  dsimp only
  split <;> rfl

theorem recoveryRecord_core (s : State) (code detail : Nat) (w : Word) (fn part : Nat) : (recoveryRecord s code detail w fn part).core = s.core :=
  errRecord_core s _ _ _ _ _ _ _ _

theorem dropCkpt_core (s : State) (f : Nat) : (dropCkpt s f).core = s.core := rfl

theorem copyGranule_core (s : State) (f g : Nat) : (copyGranule s f g).core = s.core := by
  unfold copyGranule
  split
  · rw [dropCkpt_core, recoveryRecord_core]
  · dsimp only [hubPut]

theorem copyNow_core (s : State) (f pa : Nat) : (copyNow s f pa).core = s.core := by
  rw [copyNow, copyGranule_core, granuleUnits_core, granuleUnits_core]

theorem fenceAdd_core (s : State) (f i : Nat) (n : Word) : (fenceAdd s f i n).core = s.core := by
  unfold fenceAdd
  dsimp only
  rw [State.at_core, putWord, (performStore_planes _ _).core]
  split
  · exact copyNow_core s f _
  · rfl

theorem killedRecord_core (s : State) (d f p q i : Nat) : (killedRecord s d f p q i).core = s.core := by
  rw [killedRecord, setFstat_core, errRecord_core]

/-! ## The end of jobs and gangs -/

theorem planDispatch_core (s : State) (p : Fin 16) (t : Nat) : (planDispatch s p t).core = s.core :=
  foldl_keeps State.core (fun u _ => State.atOnce_core u _ _) _ s

theorem jobComplete_core (s : State) (j : JobRun) : (jobComplete s j).core = s.core := by
  unfold jobComplete
  dsimp only
  repeat' split
  all_goals simp only [fenceAdd_core, killedRecord_core]

theorem jobGangEnd_core (s : State) (q : BitVec 12) (i : Nat) (killed here : Bool) : (jobGangEnd s q i killed here).core = s.core := by
  unfold jobGangEnd
  dsimp only
  repeat' split
  all_goals simp only [jobComplete_core, State.at_core]

theorem gangPartEnd_core (s : State) (m : GangRun → Bool) (f : GangRun → GangRun) (killed : Bool) : (gangPartEnd s m f killed).core = s.core := by
  unfold gangPartEnd
  dsimp only
  repeat' split
  all_goals simp only [planDispatch_core, jobGangEnd_core]

end Sys2Proof.Machine
end

section
/-! Cells: what a launch sets up in the core and in its strands, and what the end of a cell leaves (R70, R74, R259, R271-R273, R474). -/

namespace Sys2Proof.Machine

/-! ## What a launch brings to memory -/

theorem launchUnits_core (s : State) (g : Gang) : (launchUnits s g).core = s.core := askLines_core _ _ _ _ _ _

theorem depositWord_planes (s : State) (pa : Nat) (w : Word) (bad : Bool) : PlanesOnly s (depositWord s pa w bad) := by
  have written : PlanesOnly s (setFe (putWord s pa w) pa true) := (performStore_planes s _).trans (setFe_planes _ _ _)
  unfold depositWord
  dsimp only
  split
  · exact written.trans rfl
  · exact written

theorem copyImage_core (s : State) (g : Gang) (src dst n : Nat) (tcm : Bool) : (copyImage s g src dst n tcm).core = s.core := by
  refine foldl_keeps State.core (fun t i => ?_) _ s
  repeat' split
  · exact (depositWord_planes t _ _ _).core
  · exact (performStore_planes t _).core
  · rfl

theorem launchImages_core (s : State) (g : Gang) : (launchImages s g).core = s.core := by
  unfold launchImages
  dsimp only
  repeat' split
  · rfl
  · exact (foldl_keeps State.core (fun t _ => copyImage_core t _ _ _ _ _) _ _).trans
      (foldl_keeps State.core (fun t _ => copyImage_core t _ _ _ _ _) _ s)
  · rfl

/-! ## The function that used the core last (R273) -/

/-- A core passes to a function. -/
def passCore (s : State) (f : Fin 17) (c : Nat) : State := useCore (if coreLast s c = some f then s else clearCoreOf s c) f c

theorem clearCoreOf_keeps (s : State) (c : Nat) :
    (clearCoreOf s c).core.gcore = s.core.gcore ∧ (clearCoreOf s c).core.lastFn = s.core.lastFn := by
  unfold clearCoreOf
  dsimp only
  split <;> exact ⟨rfl, rfl⟩

theorem useCore_gcore (s : State) (f : Fin 17) (c : Nat) : (useCore s f c).core.gcore = s.core.gcore := by
  unfold useCore
  split <;> rfl

theorem useCore_lastFn (s : State) (f : Fin 17) (c : Nat) :
    (useCore s f c).core.lastFn = if c = s.core.gcore then some f else s.core.lastFn := by
  unfold useCore
  split <;> rfl

theorem passCore_gcore (s : State) (f : Fin 17) (c : Nat) : (passCore s f c).core.gcore = s.core.gcore := by
  rw [passCore, useCore_gcore]
  split
  · rfl
  · exact (clearCoreOf_keeps s c).1

theorem passCore_lastFn (s : State) (f : Fin 17) (c : Nat) :
    (passCore s f c).core.lastFn = if c = s.core.gcore then some f else s.core.lastFn := by
  rw [passCore, useCore_lastFn]
  by_cases last : coreLast s c = some f
  · rw [if_pos last]
  · rw [if_neg last, (clearCoreOf_keeps s c).1, (clearCoreOf_keeps s c).2]

/-- After cores among which is the modelled one have passed to a function, it is the last to have used it. -/
theorem passCores_lastFn {f : Fin 17} {s : State} {cores : List Nat} (h : s.core.gcore ∈ cores ∨ s.core.lastFn = some f) :
    (cores.foldl (fun s c => passCore s f c) s).core.lastFn = some f := by
  induction cores generalizing s with
  | nil => exact h.resolve_left List.not_mem_nil
  | cons c cs ih =>
    refine ih ?_
    rcases h with mem | last
    · rcases List.mem_cons.mp mem with own | rest
      · exact .inr (by rw [passCore_lastFn, if_pos own.symm])
      · exact .inl ((passCore_gcore s f c).symm ▸ rest)
    · exact .inr (by rw [passCore_lastFn, last, ite_self])

theorem clearClusterOf_lastFn (s : State) (g : Nat) : (clearClusterOf s g).core.lastFn = s.core.lastFn := by
  unfold clearClusterOf
  dsimp only
  split <;> rfl

theorem passTo_lastFn {s : State} {cores : List Nat} (own : s.core.gcore ∈ cores) (f : Fin 17) (clusters : List Nat) :
    (passTo s f cores clusters).core.lastFn = some f := by
  refine (foldl_keeps (fun t => t.core.lastFn) (fun t g => ?_) clusters _).trans (passCores_lastFn (.inl own))
  show (if clusterLast t g = some f then t else clearClusterOf t g).core.lastFn = t.core.lastFn
  split
  · rfl
  · exact clearClusterOf_lastFn t g

theorem launchOn_lastFn {s : State} {g : Gang} (own : s.core.gcore ∈ g.cores) : (launchOn s g).core.lastFn = some g.func := by
  rw [launchOn, launchImages_core, launchUnits_core, passTo_lastFn own]

/-! ## A strand at launch (R270, R271) -/

section
variable {s : State} {g : Gang} {cell k : Nat}

/-- An entry strand is ready at the entry, in user mode, with w8-w10 set. -/
theorem launchStrand_entry (entry : k < (gjob g).strands - (gjob g).handlers) :
    let x := launchStrand s g cell k
    x.run = .ready ∧ x.pc = pcOf (gjob g).entry ∧ x.kernel = false ∧
      x.reg (.ring (ringIx 0 8)) = ⟨(gjob g).args, Tag.full, true, none⟩ ∧
      x.reg (.ring (ringIx 0 9)) = ⟨word g.index, Tag.full, true, none⟩ ∧
      x.reg (.ring (ringIx 0 10)) = ⟨word cell, Tag.full, true, none⟩ ∧ x.winstate = 0x10 := by
  have w8 : (Loc.ring (ringIx 0 8) ≠ .ring (ringIx 0 9)) ∧ Loc.ring (ringIx 0 8) ≠ .ring (ringIx 0 10) := by decide
  have w9 : Loc.ring (ringIx 0 9) ≠ .ring (ringIx 0 10) := by decide
  simp only [launchStrand, if_pos entry]
  refine ⟨rfl, rfl, ?_, ?_, ?_, ?_, rfl⟩
  · show (flag _ 2).getLsbD 0 = false
    unfold flag
    split <;> decide
  · rw [Strand.setReg_reg_other _ _ w8.2, Strand.setReg_reg_other _ _ w8.1, Strand.setReg_reg_same]
    rfl
  · rw [Strand.setReg_reg_other _ _ w9, Strand.setReg_reg_same]
    rfl
  · rw [Strand.setReg_reg_same]
    rfl

theorem launchStrand_handler (past : (gjob g).strands - (gjob g).handlers ≤ k) (within : k < (gjob g).strands) :
    (launchStrand s g cell k).run = .dormant ∧ (launchStrand s g cell k).strole = word (2 ^ 15) := by
  simp only [launchStrand, past.not_gt, past, within, if_false, if_true]
  exact ⟨trivial, rfl⟩

theorem launchStrand_absent (past : (gjob g).strands - (gjob g).handlers ≤ k) (outside : (gjob g).strands ≤ k) :
    (launchStrand s g cell k).run = .absent := by
  simp only [launchStrand, past.not_gt, outside.not_gt, if_false]

end

/-! ## A cell at launch -/

/-- The core at the start of its cell. -/
def cellStarted (s : State) (g : Gang) (i : Nat) : State := noteCellEnd (beginAcquire (setupCell s g i) 0 .device true)

theorem noteCellEnd_core (s : State) : (noteCellEnd s).core = s.core := by
  unfold noteCellEnd
  split <;> rfl

theorem cellStarted_core (s : State) (g : Gang) (i : Nat) : (cellStarted s g i).core = (beginAcquire (setupCell s g i) 0 .device true).core :=
  noteCellEnd_core _

/-- An acquire that begins changes no strand but in its acquire. -/
theorem beginAcquire_strand (s : State) (k j : Fin 16) (sc : Scope) (whole : Bool) :
    ∃ a, (beginAcquire s k sc whole).strand j = { s.strand j with acq := a } ∧ (j = k → a.isSome = true) := by
  by_cases h : j = k
  · subst h
    exact ⟨some (joinAcquire (s.strand j).acq sc whole),
      State.modStrand_strand_same s j fun x => { x with acq := some (joinAcquire x.acq sc whole) }, fun _ => rfl⟩
  · exact ⟨(s.strand j).acq, State.modStrand_strand_other s (fun x => { x with acq := some (joinAcquire x.acq sc whole) }) h, (absurd · h)⟩

theorem setupCell_strand (s : State) (g : Gang) (i : Nat) (k : Fin 16) :
    (setupCell s g i).strand k =
      { launchStrand (launchOn s g) g i k.val with sb := ((launchOn s g).strand k).sb, served := ((launchOn s g).strand k).served } := by
  show (Vector.ofFn _)[k] = _
  simp

/-- A strand at the start of a cell is as the context engine sets it; its buffered stores stand, and strand 0 acquires (R411). -/
theorem cellStarted_strand (s : State) (g : Gang) (i : Nat) (k : Fin 16) :
    ∃ sb served a, (cellStarted s g i).strand k = { launchStrand (launchOn s g) g i k.val with sb := sb, served := served, acq := a } ∧
      (k = 0 → a.isSome = true) := by
  obtain ⟨a, eq, own⟩ := beginAcquire_strand (setupCell s g i) 0 k .device true
  refine ⟨((launchOn s g).strand k).sb, ((launchOn s g).strand k).served, a, ?_, own⟩
  rw [State.strand_congr (congrArg Core.strands (cellStarted_core s g i)), eq, setupCell_strand]

/-! ## The end of a cell -/

/-- The core holds no cell, and every strand is absent. -/
def Vacant (s : State) : Prop := s.core.cell = none ∧ ∀ k, (s.strand k).run = .absent

theorem endCell_vacant (s : State) (killed : Bool) : Vacant (endCell s killed) := by
  simp only [Vacant, endCell, State.strand, gangPartEnd_core, vmap_getElem]
  exact ⟨trivial, fun k => rfl⟩

end Sys2Proof.Machine

namespace Sys2Proof.Claims

open Sys2Proof.Machine

theorem exec_gangStart {s : State} {g : Gang} {i : Nat} (place : g.cores.findIdx? (· = s.core.gcore) = some i) (free : s.core.cell = none) :
    exec (.gangStart g) s = .next (cellStarted s g i) := by
  show execGangStart g s = _
  simp only [execGangStart, place, free]
  rfl

theorem exec_cellEnd (s : State) : exec .cellEnd s = .next (if cellDone s then endCell s false else s) := rfl

theorem exec_killedGangEnd_killed {s : State} {c : Cell} (cell : s.core.cell = some c) (killed : c.killed = true) :
    ∃ t, exec .killedGangEnd s = .next (endCell t true) := by
  show ∃ t, execKilledGangEnd s = _
  simp only [execKilledGangEnd, cell, killed]
  exact ⟨_, rfl⟩

theorem exec_killedGangEnd_runs {s : State} {c : Cell} (cell : s.core.cell = some c) (runs : c.killed = false) : exec .killedGangEnd s = .next s := by
  show execKilledGangEnd s = _
  simp only [execKilledGangEnd, cell, runs]
  rfl

/-- R70, R259, R271: what a started cell holds. -/
theorem cellStarted_spec {s : State} {g : Gang} {i : Nat} (place : g.cores.findIdx? (· = s.core.gcore) = some i) :
    let n := (gjob g).strands
    let e := n - (gjob g).handlers
    let t := cellStarted s g i
    t.core.cell = some ⟨g, i, n, (gjob g).handlers, false⟩ ∧
      (∀ k : Fin 16, k.val < e → (t.strand k).run = .ready ∧ (t.strand k).pc = pcOf (gjob g).entry ∧ (t.strand k).kernel = false ∧
        (t.strand k).reg (.ring (ringIx 0 8)) = ⟨(gjob g).args, Tag.full, true, none⟩ ∧
        (t.strand k).reg (.ring (ringIx 0 9)) = ⟨word g.index, Tag.full, true, none⟩ ∧
        (t.strand k).reg (.ring (ringIx 0 10)) = ⟨word i, Tag.full, true, none⟩ ∧ (t.strand k).winstate = 0x10) ∧
      (∀ k : Fin 16, e ≤ k.val → k.val < n → (t.strand k).run = .dormant ∧ (t.strand k).strole = word (2 ^ 15)) ∧
      (∀ k : Fin 16, e ≤ k.val → n ≤ k.val → (t.strand k).run = .absent) ∧
      (∀ q : Fin 8, t.core.queues[q] = []) ∧ (∀ b : Fin 16, t.core.bars[b] = Barrier.zero) ∧ (∀ a : Fin 8, t.core.acc[a] = Acc.zero) ∧
      (t.strand 0).acq.isSome = true ∧ t.core.lastFn = some g.func := by
  obtain ⟨own, found, -⟩ := List.findIdx?_eq_some_iff_getElem.mp place
  have mem : s.core.gcore ∈ g.cores := of_decide_eq_true found ▸ List.getElem_mem own
  intro n e t
  have core : t.core = (beginAcquire (setupCell s g i) 0 .device true).core := cellStarted_core s g i
  refine ⟨congrArg Core.cell core, fun k entry => ?_, fun k past within => ?_, fun k past outside => ?_, fun q => ?_, fun b => ?_, fun a => ?_, ?_,
    (congrArg Core.lastFn core).trans (launchOn_lastFn mem)⟩
  · obtain ⟨sb, served, a, eq, -⟩ := cellStarted_strand s g i k
    rw [eq]
    exact launchStrand_entry entry
  · obtain ⟨sb, served, a, eq, -⟩ := cellStarted_strand s g i k
    rw [eq]
    exact launchStrand_handler past within
  · obtain ⟨sb, served, a, eq, -⟩ := cellStarted_strand s g i k
    rw [eq]
    exact launchStrand_absent past outside
  · rw [core]
    exact Vector.getElem_replicate q.isLt
  · rw [core]
    exact Vector.getElem_replicate b.isLt
  · rw [core]
    exact Vector.getElem_replicate a.isLt
  · obtain ⟨sb, served, a, eq, acquires⟩ := cellStarted_strand s g i 0
    rw [eq]
    exact acquires rfl

/-- A cell that is done, and one of a killed gang, ends and leaves the core vacant. -/
theorem exec_end_vacant {s : State} {i : Instr} (ending : i = .cellEnd ∧ cellDone s = true ∨
    i = .killedGangEnd ∧ ∃ c, s.core.cell = some c ∧ c.killed = true) : ∃ t, exec i s = .next t ∧ Vacant t := by
  rcases ending with ⟨rfl, done⟩ | ⟨rfl, c, cell, killed⟩
  · exact ⟨endCell s false, by rw [exec_cellEnd, if_pos done], endCell_vacant s false⟩
  · obtain ⟨t, eq⟩ := exec_killedGangEnd_killed cell killed
    exact ⟨endCell t true, eq, endCell_vacant t true⟩

/-! ## The claim -/

/-- Settles O44: a cell's strands are what launch sets and what the end leaves; an event at a boundary, a timer and a window move each by the
lemma of its case. -/
theorem cellsRunAndAreInterrupted : Obligations.CellsRunAndAreInterrupted := by
  refine ⟨⟨fun s g i place free => ⟨_, exec_gangStart place free, cellStarted_spec place⟩, fun s i ending => exec_end_vacant ending,
      fun s => ⟨fun runs => ?runs, fun c => exec_killedGangEnd_runs⟩⟩,
    fun s k boundary => ⟨fun taken => ?taken, fun fresh => ⟨fun h hs pending => ?singular, fun clear ie => ⟨fun timer => ?timer,
      fun timer mbox e first => ?mbox, fun timer mbox soft => ?soft, fun idle => ?idle⟩, fun clear ie => ?masked⟩⟩,
    fun s k w run due => ?parked, fun s k w run => ⟨exec_timerExpiry_due run, exec_timerExpiry_none run⟩,
    fun s k run => ⟨exec_windowMoves_none, fun owed => ⟨fun free => ?spilled, fun busy => ?spillWaits⟩, fun pc ins owed =>
      ⟨fun free sound => ?filled, fun i free poison room => ?poisoned, fun busy => ?fillWaits⟩⟩⟩
  case runs => rw [exec_cellEnd, if_neg (Bool.eq_false_iff.mp runs)]
  case taken => exact exec_interruptEntry_none (by rw [AtBoundary.due boundary, taken]; rfl)
  case singular => exact exec_interruptEntry_singular (by rw [AtBoundary.due boundary, fresh, pending]; rfl) pending
  case timer =>
    have due := dueInterrupt_of_bit ie timer
    exact exec_interruptEntry_timer (by rw [AtBoundary.due boundary, fresh, due, Bool.or_true]; rfl) clear due timer
  case mbox =>
    have due := dueInterrupt_of_bit ie mbox
    exact exec_interruptEntry_mbox (by rw [AtBoundary.due boundary, fresh, due, Bool.or_true]; rfl) clear due timer mbox first
  case soft =>
    have due := dueInterrupt_of_bit ie soft
    exact exec_interruptEntry_soft (by rw [AtBoundary.due boundary, fresh, due, Bool.or_true]; rfl) clear due timer mbox
  case idle => exact exec_interruptEntry_none (by rw [AtBoundary.due boundary, clear, dueInterrupt_none idle]; exact Bool.and_false _)
  case masked => exact exec_interruptEntry_none (by rw [AtBoundary.due boundary, clear, dueInterrupt_masked ie]; exact Bool.and_false _)
  case parked => exact exec_interruptEntry_none (by rw [boundaryDue, run, due]; exact Bool.and_false _)
  case spilled =>
    exact ⟨_, exec_windowSpill owed, by rw [spillOwed_free run free, spillFrame_run, State.setStrand_strand_same], spillOwed_free run free⟩
  case spillWaits =>
    refine ⟨_, exec_windowSpill owed, ?_⟩
    rw [spillOwed, if_pos busy]
    exact owe_waits run owed _
  case filled =>
    refine ⟨_, exec_windowFill owed, ?_, fillOwed_free run free sound pc ins, ?_⟩
    · rw [fillOwed_free run free sound, fillFrame_run, State.setStrand_strand_same]
    · rw [fillOwed_free run free sound]
      exact (setStrand_sameMemory s k _).trans (fillFrame_sameMemory _ _ _ _)
  case poisoned => exact ⟨_, exec_windowFill owed, fillOwed_poisoned free poison room pc ins⟩
  case fillWaits =>
    refine ⟨_, exec_windowFill owed, ?_⟩
    rw [fillOwed, if_pos busy]
    exact owe_waits run owed _

end Sys2Proof.Claims
end

section
/-! A result written to D: the register, the queue or lat that takes it, and when it cannot be taken (R83, R96, R97, R100). -/

namespace Sys2Proof.Machine

/-! ## Operand codes -/

/-- A code that names a register names no queue (R92). -/
theorem queueOf_of_locOf {frm : Nat} {c : Opd} {l : Loc} (h : locOf frm c = some l) : queueOf c = none := by
  unfold locOf at h
  unfold queueOf
  dsimp only at h ⊢
  by_cases q : 40 ≤ c.toNat ∧ c.toNat < 48
  · simp [show ¬ c.toNat < 8 by omega, show ¬ c.toNat < 32 by omega, show ¬ c.toNat < 40 by omega, show c.toNat ≠ 48 by omega] at h
  · simp only [Bool.and_eq_true, decide_eq_true_eq, q, if_false]

/-! ## What D takes -/

/-- A register that still waits for a fill takes no result (R100). -/
def Reg.waits (r : Reg) : Prop := r.full = false ∧ r.bind.isSome = true

theorem destFree_waits {r : Reg} (h : r.waits) (code : Nat) : destFree r code = .error (.park (.register code)) := by
  simp [destFree, h.1, h.2]

theorem destFree_free {r : Reg} (h : r.full = true ∨ r.bind = none) (code : Nat) : destFree r code = .ok () := by
  rcases h with h | h <;> simp [destFree, h]

section
variable {s : State} {d : Opd}

theorem putDest_register {l : Loc} (loc : locOf s.st.frm d = some l) (r : Reg) :
    putDest s d r = (destFree (s.st.reg l) d.toNat).map fun _ => (dropHandle s (s.st.reg l)).mod (·.setReg l r) := by
  simp only [putDest, queueOf_of_locOf loc, loc]
  cases destFree (s.st.reg l) d.toNat <;> rfl

theorem putDest_zr (s : State) (r : Reg) : putDest s 49 r = .ok s := rfl

theorem putDest_queue {q : Fin 8} (queue : queueOf d = some q) (room : (s.core.queues[q]).length < 8) (r : Reg) :
    putDest s d r = .ok (s.withCore fun x => { x with queues := x.queues.set q (x.queues[q] ++ [r]) }) := by
  simp only [putDest, queue, room, if_true]

theorem putDest_queueFull {q : Fin 8} (queue : queueOf d = some q) (full : 8 ≤ (s.core.queues[q]).length) (r : Reg) :
    putDest s d r = .error (.park (.queueFull q)) := by
  simp only [putDest, queue, Nat.not_lt.mpr full, if_false]

/-! ## The result -/

/-- lat takes what D took (R96). -/
theorem writeDest_eq (s : State) (d : Opd) (r : Reg) : writeDest s d r = (putDest s d r).map fun u => u.mod (·.setReg .lat r) := by
  unfold writeDest
  cases putDest s d r <;> rfl

theorem mod_setReg_same (s : State) (l : Loc) (r : Reg) : (s.mod (·.setReg l r)).st.reg l = r := by
  show ((s.modStrand s.cur _).strand s.cur).reg l = r
  rw [State.modStrand_strand_same, Strand.setReg_reg_same]

theorem mod_setReg_other (s : State) {l m : Loc} (r : Reg) (h : m ≠ l) : (s.mod (·.setReg l r)).st.reg m = s.st.reg m := by
  show ((s.modStrand s.cur _).strand s.cur).reg m = _
  rw [State.modStrand_strand_same, Strand.setReg_reg_other _ _ h]

end

end Sys2Proof.Machine

namespace Sys2Proof.Claims

open Sys2Proof.Machine

/-- A code that names no queue names none that could change. -/
theorem ScalarFrame.unqueued {s t : State} {w : Loc → Prop} {d : Opd} (h : ScalarFrame s t w [d]) (noQueue : queueOf d = none) : ScalarFrame s t w [] := by
  obtain ⟨memory, around, special, vectors, masks, registers, queues⟩ := h
  refine ⟨memory, around, special, vectors, masks, registers, fun q _ => queues q fun c hc => ?_⟩
  rw [List.mem_singleton.mp hc, noQueue]
  exact nofun

theorem writeDest_waits {s : State} {d : Opd} {l : Loc} (loc : locOf s.st.frm d = some l) (waits : (s.st.reg l).waits) (r : Reg) :
    writeDest s d r = .error (.park (.register d.toNat)) := by
  rw [writeDest_eq, putDest_register loc, destFree_waits waits]
  rfl

theorem writeDest_register {s : State} {d : Opd} {l : Loc} (loc : locOf s.st.frm d = some l)
    (free : (s.st.reg l).full = true ∨ (s.st.reg l).bind = none) (r : Reg) :
    ∃ t, writeDest s d r = .ok t ∧ t.st.reg l = r ∧ t.st.lat = r ∧ ScalarFrame s t (toDest s d) [] := by
  have written : writeDest s d r = .ok (((dropHandle s (s.st.reg l)).mod (·.setReg l r)).mod (·.setReg .lat r)) := by
    rw [writeDest_eq, putDest_register loc, destFree_free free]
    rfl
  refine ⟨_, written, ?_, mod_setReg_same _ .lat r, (writeDest_frame written).unqueued (queueOf_of_locOf loc)⟩
  by_cases isLat : l = .lat
  · rw [isLat]
    exact mod_setReg_same _ _ _
  · rw [mod_setReg_other _ _ isLat]
    exact mod_setReg_same _ _ _

theorem writeDest_zr {d : Opd} (zr : d = 49) (s : State) (r : Reg) :
    ∃ t, writeDest s d r = .ok t ∧ t.st.lat = r ∧ ScalarFrame s t (toDest s d) [] := by
  subst zr
  have written : writeDest s 49 r = .ok (s.mod (·.setReg .lat r)) := by rw [writeDest_eq, putDest_zr]; rfl
  exact ⟨_, written, mod_setReg_same s .lat r, (writeDest_frame written).unqueued rfl⟩

theorem writeDest_queue {s : State} {d : Opd} {q : Fin 8} (queue : queueOf d = some q) (room : (s.core.queues[q]).length < 8) (r : Reg) :
    ∃ t, writeDest s d r = .ok t ∧ t.core.queues[q] = s.core.queues[q] ++ [r] ∧ t.st.lat = r ∧ ScalarFrame s t (toDest s d) [d] := by
  have written := writeDest_eq s d r
  rw [putDest_queue queue room] at written
  exact ⟨_, written, Vector.getElem_set_self q.isLt, mod_setReg_same _ .lat r, writeDest_frame written⟩

theorem writeDest_queueFull {s : State} {d : Opd} {q : Fin 8} (queue : queueOf d = some q) (full : 8 ≤ (s.core.queues[q]).length) (r : Reg) :
    writeDest s d r = .error (.park (.queueFull q)) := by
  rw [writeDest_eq, putDest_queueFull queue full]
  rfl

/-- Settles O9, by what D names: a register, zr or a queue. -/
theorem resultsWritten : Obligations.ResultsWritten := by
  intro s d r
  exact ⟨fun _ loc => ⟨fun empty bound => writeDest_waits loc ⟨empty, bound⟩ r, fun free => writeDest_register loc free r⟩,
    fun zr => writeDest_zr zr s r,
    fun _ queue => ⟨fun room => writeDest_queue queue room r, fun full => writeDest_queueFull queue full r⟩⟩

end Sys2Proof.Claims
end

section
/-! What reset leaves (R118, R271, R273, R546, R554). -/

namespace Sys2Proof.Machine

/-- Every strand is one of no cell. -/
theorem reset_strand (k : Fin 16) : State.reset.strand k = Strand.absent := Vector.getElem_replicate k.isLt

/-- Every register of a strand of no cell is zero, full, with tag 64 (R271). -/
theorem absent_reg (l : Loc) : Strand.absent.reg l = Reg.zero := by
  cases l with
  | w i => exact Vector.getElem_replicate i.isLt
  | ring i => exact Vector.getElem_replicate i.isLt
  | o i => exact Vector.getElem_replicate i.isLt
  | lat => rfl

/-- A training begun at time 0 ends later. -/
theorem trainings_later {e : Nat × Act} (h : e ∈ trainings 0 0) : 0 < e.1 := by
  obtain ⟨p, -, rfl⟩ := List.mem_map.mp h
  exact Nat.add_pos_left (by decide) _

end Sys2Proof.Machine

namespace Sys2Proof.Claims

open Sys2Proof.Machine

/-- Settles O7, field by field of the machine right after reset. -/
theorem resetLeaves : Obligations.ResetLeaves := by
  refine ⟨rfl, fun k => ?strands, fun k l => ?registers, fun pa => ⟨rfl, rfl, rfl⟩, rfl, rfl, fun e => ?table, List.mem_cons_self, fun e he => ?agenda⟩
  case strands =>
    rw [reset_strand]
    exact ⟨rfl, rfl⟩
  case registers =>
    rw [reset_strand]
    exact absent_reg l
  case table => exact congrArg CEntry.state (Vector.getElem_replicate e.isLt)
  case agenda =>
    rcases List.mem_cons.mp he with rfl | training
    · decide
    · exact trainings_later training

end Sys2Proof.Claims
end

section
/-! Reading sources: what a read leaves as it was beside the frame of the statements, and that sources which are full are read (R83, R101, R112, R206,
R294). -/

namespace Sys2Proof.Machine

/-! ## Results in sequence -/

@[simp] theorem Res.ok_bind {α β : Type} (a : α) (f : α → Res β) : ((.ok a : Res α) >>= f) = f a := rfl

@[simp] theorem Res.error_bind {α β : Type} (e : Stop) (f : α → Res β) : ((.error e : Res α) >>= f) = .error e := rfl

/-- Steps in sequence succeed when each does. -/
theorem Res.bind_eq_ok {α β : Type} {x : Res α} {f : α → Res β} {b : β} : x >>= f = .ok b ↔ ∃ a, x = .ok a ∧ f a = .ok b := by
  cases x <;> simp

theorem Res.map_eq_ok {α β : Type} {x : Res α} {f : α → β} {b : β} : x.map f = .ok b ↔ ∃ a, x = .ok a ∧ f a = b := by
  cases x <;> simp [Except.map]

/-! ## What operands touch -/

/-- A strand with its registers, and the acquire a first read begins, as in another. -/
def Strand.withOperands (x y : Strand) : Strand := { x with w := y.w, ring := y.ring, o := y.o, lat := y.lat, v := y.v, acq := y.acq }

/-- A machine with its strands, queues and completion table, and the agenda and the free names, as in another. -/
def State.withOperands (s t : State) : State :=
  { s with agenda := t.agenda, fresh := t.fresh, ticket := t.ticket
           core := { s.core with strands := t.core.strands, queues := t.core.queues, table := t.core.table } }

/-- What reading sources, marking destinations and taking a handle change at most. -/
structure OperandsOnly (s t : State) : Prop where
  state : t = s.withOperands t
  strand : t.st = s.st.withOperands t.st

namespace OperandsOnly

theorem refl (s : State) : OperandsOnly s s := ⟨rfl, rfl⟩

theorem trans {s t u : State} (h : OperandsOnly s t) (g : OperandsOnly t u) : OperandsOnly s u :=
  ⟨g.state.trans (congrArg (·.withOperands u) h.state), g.strand.trans (congrArg (·.withOperands u.st) h.strand)⟩

variable {s t : State} (h : OperandsOnly s t)
include h

theorem now : t.now = s.now := (congrArg State.now h.state :)
theorem cur : t.cur = s.cur := (congrArg State.cur h.state :)
theorem hub : t.hub = s.hub := (congrArg State.hub h.state :)
theorem die : t.die = s.die := (congrArg State.die h.state :)
theorem gcore : t.core.gcore = s.core.gcore := (congrArg (·.core.gcore) h.state :)
theorem reqs : t.core.reqs = s.core.reqs := (congrArg (·.core.reqs) h.state :)
theorem wbq : t.core.wbq = s.core.wbq := (congrArg (·.core.wbq) h.state :)
theorem cache : t.core.cache = s.core.cache := (congrArg (·.core.cache) h.state :)
theorem tile : t.core.tile = s.core.tile := (congrArg (·.core.tile) h.state :)
theorem copy : t.core.copy = s.core.copy := (congrArg (·.core.copy) h.state :)
theorem memIntake : t.core.memIntake = s.core.memIntake := (congrArg (·.core.memIntake) h.state :)
theorem xchgIntake : t.core.xchgIntake = s.core.xchgIntake := (congrArg (·.core.xchgIntake) h.state :)
theorem pc : t.st.pc = s.st.pc := (congrArg Strand.pc h.strand :)
theorem run : t.st.run = s.st.run := (congrArg Strand.run h.strand :)
theorem winstate : t.st.winstate = s.st.winstate := (congrArg Strand.winstate h.strand :)
theorem winbase : t.st.winbase = s.st.winbase := (congrArg Strand.winbase h.strand :)
theorem sb : t.st.sb = s.st.sb := (congrArg Strand.sb h.strand :)
theorem frm : t.st.frm = s.st.frm := (congrArg Strand.frm h.strand :)
theorem res : t.st.res = s.st.res := (congrArg Strand.res h.strand :)
theorem spilledCount : t.st.spilledCount = s.st.spilledCount := (congrArg Strand.spilledCount h.strand :)

end OperandsOnly

theorem Strand.setReg_withOperands (x : Strand) (l : Loc) (r : Reg) : x.setReg l r = x.withOperands (x.setReg l r) := by cases l <;> rfl

/-- A change of the issuing strand's registers alone. -/
theorem mod_operandsOnly (s : State) {f : Strand → Strand} (h : f s.st = s.st.withOperands (f s.st)) : OperandsOnly s (s.mod f) := by
  have strand : (s.mod f).st = f s.st := State.modStrand_strand_same s s.cur f
  exact ⟨rfl, by rw [strand]; exact h⟩

theorem mod_setReg_operandsOnly (s : State) (l : Loc) (r : Reg) : OperandsOnly s (s.mod (·.setReg l r)) :=
  mod_operandsOnly s (Strand.setReg_withOperands _ _ _)

theorem freeEntry_operandsOnly (s : State) (e : Fin 128) : OperandsOnly s (s.freeEntry e) := ⟨rfl, rfl⟩

theorem dropHandle_operandsOnly (s : State) (r : Reg) : OperandsOnly s (dropHandle s r) := by
  unfold dropHandle
  split
  · exact freeEntry_operandsOnly s _
  · exact .refl s

theorem dropHandle_strand (s : State) (r : Reg) (k : Fin 16) : (dropHandle s r).strand k = s.strand k := by
  unfold dropHandle
  split <;> rfl

theorem beginAcquire_operandsOnly (s : State) (sc : Scope) (whole : Bool) : OperandsOnly s (beginAcquire s s.cur sc whole) := by
  have acquires : OperandsOnly s (s.mod fun x => { x with acq := some (joinAcquire x.acq sc whole) }) := mod_operandsOnly s rfl
  exact acquires.trans ⟨rfl, rfl⟩

/-! ## The first read of a filled handle (R112) -/

/-- A first read frees the entry that the register holds, and begins the acquire. -/
theorem firstRead_handle {s : State} {l : Loc} {e : Fin 128} (full : (s.st.reg l).full = true) (bind : (s.st.reg l).bind = some (.handle e)) :
    firstRead s s.cur l = beginAcquire ((s.mod (·.setReg l { s.st.reg l with bind := none })).freeEntry e) s.cur .device true := by
  simp only [firstRead, full, bind]

theorem firstRead_none {s : State} {l : Loc} (h : ∀ e, (s.st.reg l).full = true → (s.st.reg l).bind ≠ some (.handle e)) : firstRead s s.cur l = s := by
  unfold firstRead
  dsimp only
  split
  next e full bind => exact absurd bind (h e full)
  next => rfl

theorem freeEntry_state (s : State) (e f : Fin 128) (h : (s.core.table[f]).state = .free) : ((s.freeEntry e).core.table[f]).state = .free := by
  have entry : (s.freeEntry e).core.table[f] = if e.val = f.val then (s.core.table[e]).release else s.core.table[f] :=
    Vector.getElem_set e.isLt f.isLt
  rw [entry]
  split
  · rfl
  · exact h

/-! ## A read that succeeds -/

/-- A first read of a filled handle finds no acquire in its way (R112, R206). -/
theorem holdGate_ok {s : State} {r : Reg} (h : r.holds = false ∨ throughFull s = false) : holdGate s r = .ok () := by
  rcases h with h | h <;> simp [holdGate, h]

theorem readSrc_queue {s : State} {c : Opd} {q : Fin 8} {r : Reg} {rest : List Reg} (queue : queueOf c = some q)
    (head : s.core.queues[q] = r :: rest) (full : r.full = true) (trap : Bool) :
    readSrc s c trap = .ok (r, s.withCore fun x => { x with queues := x.queues.set q rest }) := by
  simp only [readSrc, queue, head, full, if_true]

theorem readSrc_register {s : State} {c : Opd} {l : Loc} (loc : locOf s.st.frm c = some l) (full : (s.st.reg l).full = true)
    (gate : (s.st.reg l).holds = false ∨ throughFull s = false) (trap : Bool) :
    readSrc s c trap = .ok ({ s.st.reg l with bind := none }, firstRead s s.cur l) := by
  simp only [readSrc, queueOf_of_locOf loc, loc, full, if_true, holdGate_ok gate, Res.ok_bind]

theorem readSrc_none {s : State} {c : Opd} (queue : queueOf c = none) (loc : locOf s.st.frm c = none) (trap : Bool) :
    readSrc s c trap = .ok (Reg.zero, s) := by
  simp only [readSrc, queue, loc]

/-- A source that was read was the full head of its queue, a full register, or zr. -/
theorem readSrc_cases {s t : State} {c : Opd} {trap : Bool} {r : Reg} (h : readSrc s c trap = .ok (r, t)) :
    (∃ q rest, queueOf c = some q ∧ s.core.queues[q] = r :: rest ∧ t = s.withCore fun x => { x with queues := x.queues.set q rest }) ∨
      (∃ l, locOf s.st.frm c = some l ∧ t = firstRead s s.cur l) ∨ queueOf c = none ∧ t = s := by
  unfold readSrc at h
  dsimp only at h
  split at h
  next q queue =>
    split at h
    next head rest entries =>
      split at h
      · obtain ⟨rfl, rfl⟩ := Prod.mk.inj (Except.ok.inj h)
        exact .inl ⟨q, rest, queue, entries, rfl⟩
      · split at h <;> exact nomatch h
    next => split at h <;> exact nomatch h
  next =>
    split at h
    next l loc =>
      split at h
      · obtain ⟨-, -, taken⟩ := Res.bind_eq_ok.mp h
        exact .inr (.inl ⟨l, loc, (Prod.mk.inj (Except.ok.inj taken)).2.symm⟩)
      · split at h <;> exact nomatch h
    next => exact .inr (.inr ⟨‹_›, (Prod.mk.inj (Except.ok.inj h)).2.symm⟩)

end Sys2Proof.Machine

namespace Sys2Proof.Claims

open Sys2Proof.Machine

/-- What reading sources does beside their frame: no register is bound anew, and no entry of the completion table is taken. -/
structure Reads (s t : State) (cs : List Opd) : Prop where
  only : OperandsOnly s t
  frame : ScalarFrame s t toNone cs
  binds : ∀ l, (t.st.reg l).bind = (s.st.reg l).bind ∨ (t.st.reg l).bind = none
  frees : ∀ e : Fin 128, (s.core.table[e]).state = .free → (t.core.table[e]).state = .free

namespace Reads

theorem refl (s : State) (cs : List Opd) : Reads s s cs := ⟨.refl s, .refl s _ _, fun _ => .inl rfl, fun _ h => h⟩

theorem trans {s t u : State} {cs cs' : List Opd} (h : Reads s t cs) (g : Reads t u cs') : Reads s u (cs ++ cs') := by
  refine ⟨h.only.trans g.only, (h.frame.trans g.frame).mono (fun _ => Or.rec id id) fun _ => id, fun l => ?_, fun e he => g.frees e (h.frees e he)⟩
  rcases g.binds l with same | none
  · rw [same]
    exact h.binds l
  · exact .inr none

variable {s t : State} {cs : List Opd} (h : Reads s t cs)
include h

theorem content (l : Loc) : SameContent (s.st.reg l) (t.st.reg l) := by
  obtain ⟨-, -, -, -, -, registers, -⟩ := h.frame
  exact registers l id

theorem vectors : t.st.v = s.st.v := by
  obtain ⟨-, -, -, vectors, -⟩ := h.frame
  exact vectors

theorem queues {q : Fin 8} (others : ∀ c ∈ cs, queueOf c ≠ some q) : t.core.queues[q] = s.core.queues[q] := by
  obtain ⟨-, -, -, -, -, -, queues⟩ := h.frame
  exact queues q others

/-- A register that could take a result still can. -/
theorem registerFree {l : Loc} (free : (s.st.reg l).full = true ∨ (s.st.reg l).bind = none) : (t.st.reg l).full = true ∨ (t.st.reg l).bind = none := by
  obtain ⟨-, -, full⟩ := h.content l
  rcases free with isFull | unbound
  · exact .inl (full.trans isFull)
  · exact .inr ((h.binds l).elim (·.trans unbound) id)

theorem handleFree (free : HandleFree s) : HandleFree t := by
  obtain ⟨e, he⟩ := List.exists_mem_of_ne_nil _ free
  have free' := h.frees e (of_decide_eq_true (List.mem_filter.mp he).2)
  exact List.ne_nil_of_mem (List.mem_filter.mpr ⟨List.mem_finRange e, decide_eq_true free'⟩)

theorem throughRoom (room : ThroughRoom s) : ThroughRoom t := by
  unfold ThroughRoom bankFull at *
  rwa [h.only.wbq, h.only.cache, h.only.die]

end Reads

theorem firstRead_reads (s : State) (l : Loc) : Reads s (firstRead s s.cur l) [] := by
  by_cases held : ∃ e, (s.st.reg l).full = true ∧ (s.st.reg l).bind = some (.handle e)
  · obtain ⟨e, full, bind⟩ := held
    let unbound := s.mod (·.setReg l { s.st.reg l with bind := none })
    have only : OperandsOnly s unbound := mod_setReg_operandsOnly s l _
    have strand : (beginAcquire (unbound.freeEntry e) s.cur .device true).st.reg = unbound.st.reg := by
      have acquires : (beginAcquire (unbound.freeEntry e) s.cur .device true).st =
          { unbound.st with acq := some (joinAcquire unbound.st.acq .device true) } :=
        State.modStrand_strand_same (unbound.freeEntry e) s.cur fun x => { x with acq := some (joinAcquire x.acq .device true) }
      funext m
      rw [acquires]
      cases m <;> rfl
    have frame := firstRead_frame s l
    rw [firstRead_handle full bind] at frame ⊢
    refine ⟨(only.trans (freeEntry_operandsOnly unbound e)).trans (beginAcquire_operandsOnly _ _ _), frame, fun m => ?_, fun f free => ?_⟩
    · rw [strand]
      by_cases same : m = l
      · rw [same, mod_setReg_same]
        exact .inr rfl
      · rw [mod_setReg_other s _ same]
        exact .inl rfl
    · exact freeEntry_state unbound e f free
  · rw [firstRead_none fun e full bind => held ⟨e, full, bind⟩]
    exact .refl s []

theorem readSrc_reads {s t : State} {c : Opd} {trap : Bool} {r : Reg} (h : readSrc s c trap = .ok (r, t)) : Reads s t [c] := by
  have frame := readSrc_frame h
  rcases readSrc_cases h with ⟨q, rest, -, -, rfl⟩ | ⟨l, -, rfl⟩ | ⟨-, rfl⟩
  · exact ⟨⟨rfl, rfl⟩, frame, fun _ => .inl rfl, fun _ h => h⟩
  · obtain ⟨only, -, binds, frees⟩ := firstRead_reads s l
    exact ⟨only, frame, binds, frees⟩
  · exact .refl _ _

/-- A read of a queue takes its head. -/
theorem readSrc_pops {s t : State} {c : Opd} {trap : Bool} {r : Reg} (h : readSrc s c trap = .ok (r, t)) {q : Fin 8} (queue : queueOf c = some q) :
    s.core.queues[q] = r :: t.core.queues[q] := by
  rcases readSrc_cases h with ⟨p, rest, queue', entries, rfl⟩ | ⟨l, loc, -⟩ | ⟨none, -⟩
  · obtain rfl := Option.some.inj (queue.symm.trans queue')
    rw [entries]
    exact congrArg (r :: ·) (Vector.getElem_set_self q.isLt).symm
  · exact absurd queue (by simp [queueOf_of_locOf loc])
  · exact absurd queue (by simp [none])

/-! ## Sources that are full -/

theorem throughFull_of_room {s : State} (room : ThroughRoom s) : throughFull s = false := by
  rcases room with short | clean
  · simp [throughFull, Nat.not_le.mpr short]
  · have none : (s.core.cache.any fun l => l.dirty != 0 && bankFull s (l.line * 64)) = false := by
      rw [List.any_eq_false]
      intro l hl
      rcases clean l hl with h | h <;> simp [h]
    rw [throughFull, none, Bool.and_false]

theorem holds_of_bind {r : Reg} (h : ∀ e, r.bind ≠ some (.handle e)) : r.holds = false := by
  unfold Reg.holds
  split
  next e bind => exact absurd bind (h e)
  next => exact Bool.and_false _

/-- The first of full sources is read. -/
theorem SourcesFull.first {s : State} {c : Opd} {cs : List Opd} (h : SourcesFull s (c :: cs)) (trap : Bool) :
    ∃ r t, readSrc s c trap = .ok (r, t) := by
  obtain ⟨handles, registers, queues⟩ := h
  cases queue : queueOf c with
  | none =>
    cases loc : locOf s.st.frm c with
    | none => exact ⟨_, _, readSrc_none queue loc trap⟩
    | some l =>
      have gate : (s.st.reg l).holds = false ∨ throughFull s = false :=
        handles.imp (fun noHandles => holds_of_bind (noHandles c List.mem_cons_self l loc)) throughFull_of_room
      exact ⟨_, _, readSrc_register loc ((registers c List.mem_cons_self).2 l loc) gate trap⟩
  | some q =>
    obtain ⟨enough, full⟩ := queues q
    rw [List.countP_cons_of_pos (by simp [queue])] at enough full
    obtain ⟨r, rest, entries⟩ := List.exists_cons_of_length_pos (Nat.zero_lt_of_lt enough)
    exact ⟨_, _, readSrc_queue queue entries (full r (by simp [entries])) trap⟩

/-- Reading the first of full sources leaves the others full. -/
theorem SourcesFull.rest {s t : State} {c : Opd} {cs : List Opd} {trap : Bool} {r : Reg} (h : SourcesFull s (c :: cs))
    (read : readSrc s c trap = .ok (r, t)) : SourcesFull t cs := by
  obtain ⟨handles, registers, queues⟩ := h
  have reads := readSrc_reads read
  refine ⟨?handles, fun d hd => ⟨(registers d (List.mem_cons_of_mem c hd)).1, fun l loc => ?registers⟩, fun q => ?queues⟩
  case handles =>
    refine handles.imp (fun noHandles d hd l loc e bound => ?_) reads.throughRoom
    rw [reads.only.frm] at loc
    rcases reads.binds l with same | none
    · exact noHandles d (List.mem_cons_of_mem c hd) l loc e (same.symm.trans bound)
    · rw [none] at bound
      exact nomatch bound
  case registers =>
    obtain ⟨-, -, full⟩ := reads.content l
    exact full.trans ((registers d (List.mem_cons_of_mem c hd)).2 l (reads.only.frm ▸ loc))
  case queues =>
    obtain ⟨enough, full⟩ := queues q
    by_cases queue : queueOf c = some q
    · rw [List.countP_cons_of_pos (by simp [queue]), readSrc_pops read queue] at enough full
      exact ⟨Nat.le_of_succ_le_succ enough, fun x hx => full x (List.mem_cons_of_mem _ hx)⟩
    · rw [List.countP_cons_of_neg (by simp [queue])] at enough full
      rw [reads.queues fun d hd => List.mem_singleton.mp hd ▸ queue]
      exact ⟨enough, full⟩

end Sys2Proof.Claims
end

section
/-! The window of a CALL and a RET: WINSTATE, the link register and the PC (R102, R331, R332). -/

namespace Sys2Proof.Machine

/-! ## WINSTATE -/

theorem fld_lt (w : Word) (hi lo : Nat) : fld w hi lo < 2 ^ (hi + 1 - lo) := Nat.mod_lt _ (Nat.two_pow_pos _)

/-- Another field of the word is as before. -/
theorem fld_setFld_other (w : Word) {hi lo hi' lo' : Nat} (v : Nat) (hl : lo' ≤ hi') (h : hi' < 64) (apart : hi < lo' ∨ hi' < lo) :
    fld (setFld w hi' lo' v) hi lo = fld w hi lo := by
  refine Nat.eq_of_testBit_eq fun i => ?_
  rw [fld, fld, Nat.testBit_mod_two_pow, Nat.testBit_mod_two_pow, Nat.testBit_div_two_pow, Nat.testBit_div_two_pow, BitVec.testBit_toNat,
    BitVec.testBit_toNat, getLsbD_setFld w v hl h]
  by_cases inside : i < hi + 1 - lo
  · rw [if_neg (by omega)]
  · simp [inside]

section
variable (x : Strand)

theorem winCall_frm : (winCall x).frm = (x.frm + 1) % 15 :=
  fld_setFld_same _ (by decide) (by decide) ((Nat.mod_lt _ (by decide)).trans (by decide))

theorem winCall_res : (winCall x).res = if x.res = 7 then 7 else x.res + 1 := by
  show fld (setFld _ 3 0 _) 6 4 = _
  rw [fld_setFld_other _ _ (by decide) (by decide) (.inr (by decide))]
  by_cases last : x.res = 7
  · rw [if_pos last, if_pos last, fld_setFld_other _ _ (by decide) (by decide) (.inl (by decide))]
    exact last
  · have bound : x.res < 8 := fld_lt x.winstate 6 4
    rw [if_neg last, if_neg last]
    exact fld_setFld_same _ (by decide) (by decide) (show x.res + 1 < 8 by omega)

theorem winCall_spilledCount_more (more : x.res ≠ 7) : (winCall x).spilledCount = x.spilledCount := by
  show fld (setFld _ 3 0 _) 31 16 = _
  rw [fld_setFld_other _ _ (by decide) (by decide) (.inr (by decide)), if_neg more,
    fld_setFld_other _ _ (by decide) (by decide) (.inr (by decide))]
  rfl

theorem winCall_spilledCount_last (last : x.res = 7) (room : x.spilledCount + 1 < 2 ^ 16) : (winCall x).spilledCount = x.spilledCount + 1 := by
  show fld (setFld _ 3 0 _) 31 16 = _
  rw [fld_setFld_other _ _ (by decide) (by decide) (.inr (by decide)), if_pos last]
  exact fld_setFld_same _ (by decide) (by decide) room

theorem winRet_frm : (winRet x).frm = (x.frm + 14) % 15 :=
  fld_setFld_same _ (by decide) (by decide) ((Nat.mod_lt _ (by decide)).trans (by decide))

theorem winRet_res : (winRet x).res = if x.res = 1 then 1 else x.res - 1 := by
  show fld (setFld _ 3 0 _) 6 4 = _
  rw [fld_setFld_other _ _ (by decide) (by decide) (.inr (by decide))]
  by_cases last : x.res = 1
  · rw [if_pos last, if_pos last, fld_setFld_other _ _ (by decide) (by decide) (.inl (by decide))]
    exact last
  · have bound : x.res < 8 := fld_lt x.winstate 6 4
    rw [if_neg last, if_neg last]
    exact fld_setFld_same _ (by decide) (by decide) (show x.res - 1 < 8 by omega)

theorem winRet_spilledCount : (winRet x).spilledCount = if x.res = 1 then x.spilledCount - 1 else x.spilledCount := by
  show fld (setFld _ 3 0 _) 31 16 = _
  rw [fld_setFld_other _ _ (by decide) (by decide) (.inr (by decide))]
  by_cases last : x.res = 1
  · have bound : x.spilledCount < 2 ^ 16 := fld_lt x.winstate 31 16
    rw [if_pos last, if_pos last]
    exact fld_setFld_same _ (by decide) (by decide) (show x.spilledCount - 1 < 2 ^ 16 by omega)
  · rw [if_neg last, if_neg last]
    exact fld_setFld_other _ _ (by decide) (by decide) (.inr (by decide))

theorem winCall_reg (l : Loc) : (winCall x).reg l = x.reg l := by cases l <;> rfl
theorem winRet_reg (l : Loc) : (winRet x).reg l = x.reg l := by cases l <;> rfl

end

/-- w31 of the caller is w15 of the callee (R331). -/
theorem ringIx_callee (frm : Nat) : ringIx ((frm + 1) % 15) 15 = ringIx frm 31 := by
  refine Fin.ext ?_
  show ((frm + 1) % 15 * 16 + 15 + 112) % 120 = (frm * 16 + 31 + 112) % 120
  omega

/-! ## The PC -/

/-- A strand gone to an address. -/
def Strand.jump (x : Strand) (pc : Addr) : Strand := { x with pc := pc, walked := [] }

theorem jump_reg (x : Strand) (pc : Addr) (l : Loc) : (x.jump pc).reg l = x.reg l := by cases l <;> rfl

theorem goto_strand (s : State) (pc : Addr) : (s.goto pc).st = s.st.jump pc := State.modStrand_strand_same s s.cur (·.jump pc)

/-- PC plus four times an offset in instructions (R327). -/
theorem relPc_eq (pc off : Addr) : relPc pc off = pc + 4 * off := by
  rw [relPc, BitVec.shiftLeft_eq_mul_twoPow, BitVec.mul_comm]
  rfl

/-- An address of 43 bits at a multiple of 4 is a jump target (R487, R488). -/
theorem jumpTarget_ok {w : Word} (short : w.extractLsb' 43 21 = 0) (low : w.extractLsb' 0 2 = 0) : jumpTarget w = .ok (w.setWidth 43) := by
  have above : w.toNat / 2 ^ 43 % 2 ^ 21 = 0 := by
    simpa [BitVec.extractLsb'_toNat, Nat.shiftRight_eq_div_pow] using congrArg BitVec.toNat short
  have below : w.toNat % 4 = 0 := by simpa [BitVec.extractLsb'_toNat] using congrArg BitVec.toNat low
  have bits := w.isLt
  have fits : w.toNat < 2 ^ 43 := by omega
  rw [jumpTarget, decide_eq_true fits, aligned, if_pos below]
  rfl

/-! ## The link register -/

/-- w31 of a strand's window. -/
def Strand.link (x : Strand) : Loc := .ring (ringIx x.frm 31)

/-- What a call leaves in it: the address of the next instruction. -/
def Strand.returnReg (x : Strand) : Reg := ⟨(x.pc + 4).zeroExtend 64, Tag.full, true, none⟩

theorem OperandsOnly.link {s t : State} (h : OperandsOnly s t) : t.st.link = s.st.link := (congrArg Strand.link h.strand :)
theorem OperandsOnly.returnReg {s t : State} (h : OperandsOnly s t) : t.st.returnReg = s.st.returnReg := (congrArg Strand.returnReg h.strand :)

/-- The link register written, as a result is written to w31. -/
def linked (s : State) : State := (dropHandle s (s.st.reg s.st.link)).mod (·.setReg s.st.link s.st.returnReg)

/-- The window moved on after it (R331). -/
def called (s : State) : State := (linked s).mod winCall

theorem linked_only (s : State) : OperandsOnly s (linked s) :=
  (dropHandle_operandsOnly s (s.st.reg s.st.link)).trans (mod_setReg_operandsOnly _ _ _)

theorem linked_strand (s : State) : (linked s).st = s.st.setReg s.st.link s.st.returnReg := by
  have kept := dropHandle_strand s (s.st.reg s.st.link) s.cur
  rw [← (dropHandle_operandsOnly s (s.st.reg s.st.link)).cur] at kept
  rw [linked, State.st, State.mod, State.modStrand_cur, State.modStrand_strand_same, kept, (dropHandle_operandsOnly s _).cur]

theorem called_strand (s : State) : (called s).st = winCall (s.st.setReg s.st.link s.st.returnReg) := by
  rw [← linked_strand]
  exact State.modStrand_strand_same _ _ _

/-- A call that the window and the link register allow (R102, R331). -/
theorem callTo_ok {before s : State} {srcs : List Opd} (advance : advanceOk before s srcs = .ok ())
    (free : (s.st.reg s.st.link).full = true ∨ (s.st.reg s.st.link).bind = none) (target : Addr) :
    callTo before s srcs target = .ok ((if s.st.res = 7 then spillOwed (called s) s.cur else called s).goto target) := by
  have gate := destFree_free free 31
  have cur : (called s).cur = s.cur := (linked_only s).cur
  unfold Strand.link at gate
  simp only [callTo, advance, gate, Res.ok_bind, ← cur]
  rfl

theorem advanceOk_more {before s : State} {srcs : List Opd} (more : s.st.res ≠ 7) : advanceOk before s srcs = .ok () := by
  simp only [advanceOk, more, if_false]

theorem advanceOk_last {before s : State} {srcs : List Opd} (last : s.st.res = 7) (still : acquireHolds before before.cur = false)
    (after : acquireHolds s s.cur = false) (room : fld s.st.winbase 16 0 + 128 * s.st.spilledCount + 128 ≤ fld s.st.winbase 48 32) :
    advanceOk before s srcs = .ok () := by
  simp [advanceOk, last, accessGate, still, after, room]

end Sys2Proof.Machine

namespace Sys2Proof.Claims

open Sys2Proof.Machine

/-! ## What a move of the window leaves alone -/

/-- Memory, the rest of the machine and the scalar registers but those named: the frame of what also moves the window or the PC. -/
def OperandFrame (s t : State) (writes : Loc → Prop) (codes : List Opd) : Prop :=
  SameMemory s t ∧ SameAround s t ∧ SameScalars s t writes codes

theorem ScalarFrame.operands {s t : State} {w : Loc → Prop} {cs : List Opd} (h : ScalarFrame s t w cs) : OperandFrame s t w cs := by
  obtain ⟨memory, around, -, -, -, scalars⟩ := h
  exact ⟨memory, around, scalars⟩

theorem OperandFrame.trans {s t u : State} {w w' : Loc → Prop} {cs cs' : List Opd} (h : OperandFrame s t w cs) (g : OperandFrame t u w' cs') :
    OperandFrame s u (fun l => w l ∨ w' l) (cs ++ cs') := by
  obtain ⟨memory, around, registers, queues⟩ := h
  obtain ⟨memory', around', registers', queues'⟩ := g
  refine ⟨memory.trans memory', around.trans around', fun l hl => ?_, fun q hq => ?_⟩
  · exact (registers l fun x => hl (.inl x)).trans (registers' l fun x => hl (.inr x))
  · exact (queues' q fun c hc => hq c (List.mem_append_right _ hc)).trans (queues q fun c hc => hq c (List.mem_append_left _ hc))

theorem OperandFrame.mono {s t : State} {w w' : Loc → Prop} {cs cs' : List Opd} (h : OperandFrame s t w cs) (hw : ∀ l, w l → w' l)
    (hc : ∀ c ∈ cs, c ∈ cs') : OperandFrame s t w' cs' := by
  obtain ⟨memory, around, registers, queues⟩ := h
  exact ⟨memory, around, fun l hl => registers l fun x => hl (hw l x), fun q hq => queues q fun c h => hq c (hc c h)⟩

/-- A change of the issuing strand that is not of its registers. -/
theorem mod_operandFrame (s : State) {f : Strand → Strand} (h : ∀ l, (f s.st).reg l = s.st.reg l) : OperandFrame s (s.mod f) toNone [] := by
  have strand : (s.mod f).st = f s.st := State.modStrand_strand_same s s.cur f
  refine ⟨sameMemory_of rfl rfl rfl rfl,
    ⟨rfl, rfl, fun k hk => State.modStrand_strand_other s f hk, rfl, rfl, rfl, rfl, rfl, rfl, rfl, rfl, rfl, rfl, rfl⟩, fun l _ => ?_, fun _ _ => rfl⟩
  rw [strand, h]
  exact .refl _

theorem goto_operandFrame (s : State) (pc : Addr) : OperandFrame s (s.goto pc) toNone [] :=
  mod_operandFrame s (f := (·.jump pc)) (jump_reg s.st pc)

/-- Only the link register changes (R331). -/
theorem linked_frame {s : State} (free : (s.st.reg s.st.link).full = true ∨ (s.st.reg s.st.link).bind = none) :
    ScalarFrame s (linked s) (· = s.st.link) [] := by
  have loc : locOf s.st.frm 31 = some s.st.link := rfl
  have put : putDest s 31 s.st.returnReg = .ok (linked s) := by
    rw [putDest_register loc, destFree_free free]
    rfl
  refine ((putDest_frame put).1.unqueued rfl).mono (fun l named => ?_) fun _ => id
  exact (Option.some.inj (loc.symm.trans named)).symm

theorem called_frame {s : State} (free : (s.st.reg s.st.link).full = true ∨ (s.st.reg s.st.link).bind = none) :
    OperandFrame s (called s) (· = s.st.link) [] :=
  ((linked_frame free).operands.trans (mod_operandFrame (linked s) (winCall_reg _))).mono (fun _ => Or.rec id False.elim) fun _ => id

/-! ## Calls and returns within the resident frames -/

theorem exec_call (s : State) (off : BitVec 24) : exec (.call off) s = finish s (callTo s s [] (s.st.pc + 4 * off.signExtend 43)) := by
  rw [← relPc_eq]
  rfl

theorem exec_callr {s s1 : State} {a : Opd} {ta : Bool} {x : Reg} (legal : legalCode a = true) (read : readSrc s a ta = .ok (x, s1))
    (short : x.val.extractLsb' 43 21 = 0) (low : x.val.extractLsb' 0 2 = 0) :
    exec (.callr a ta) s = finish s (callTo s s1 [a] (x.val.setWidth 43)) := by
  show execCallr a ta s = _
  simp only [execCallr, checkCodes, legal, if_true, read, jumpTarget_ok short low, Res.ok_bind]

/-- A call to a target with room for one more resident frame moves no memory. -/
theorem callTo_resident {before s : State} {srcs : List Opd} (few : s.st.res < 7)
    (free : (s.st.reg s.st.link).full = true ∨ (s.st.reg s.st.link).bind = none) (target : Addr) :
    ∃ t, callTo before s srcs target = .ok t ∧ t.st.pc = target ∧ t.st.frm = (s.st.frm + 1) % 15 ∧ t.st.res = s.st.res + 1 ∧
      t.st.spilledCount = s.st.spilledCount ∧ locOf t.st.frm 15 = some s.st.link ∧ t.st.reg s.st.link = s.st.returnReg ∧
      OperandFrame s t (· = s.st.link) [] := by
  have more : s.st.res ≠ 7 := Nat.ne_of_lt few
  have strand : ((called s).goto target).st = (winCall (s.st.setReg s.st.link s.st.returnReg)).jump target := by
    rw [goto_strand, called_strand]
  have frm : ((called s).goto target).st.frm = (s.st.frm + 1) % 15 := by
    rw [strand]
    exact winCall_frm _
  refine ⟨(called s).goto target, ?_, by rw [strand]; rfl, frm, ?_, ?_, ?_, ?_, ?_⟩
  · rw [callTo_ok (advanceOk_more more) free, if_neg more]
  · rw [strand]
    exact (winCall_res _).trans (if_neg more)
  · rw [strand]
    exact winCall_spilledCount_more _ more
  · rw [frm]
    exact congrArg (some ∘ Loc.ring) (ringIx_callee s.st.frm)
  · rw [strand, jump_reg, winCall_reg]
    exact Strand.setReg_reg_same _ _ _
  · exact ((called_frame free).trans (goto_operandFrame _ _)).mono (fun _ => Or.rec id False.elim) fun _ => id

/-- A return past no spilled frame (R332). -/
theorem exec_ret_resident {s s1 : State} {x : Reg} (more : 1 < s.st.res) (read : readSrc s 15 false = .ok (x, s1))
    (short : x.val.extractLsb' 43 21 = 0) (low : x.val.extractLsb' 0 2 = 0) :
    exec .ret s = .next ((s1.mod winRet).goto (x.val.setWidth 43)) := by
  have last : ¬ s1.st.res = 1 := by rw [(readSrc_reads read).only.res]; omega
  show execRet s = _
  simp only [execRet, read, jumpTarget_ok short low, Res.ok_bind, last, decide_false, Bool.false_eq_true, if_false]
  rfl

end Sys2Proof.Claims
end

section
/-! Spill records: what a record holds after a spill, what a fill brings back, and what both leave of the strand (R103, R104, R105). -/

namespace Sys2Proof.Machine

/-! ## Folds over entry numbers -/

theorem foldl_range_keeps {f : State → Nat → State} {I : State → Prop} {n : Nat} (step : ∀ t, ∀ j < n, I t → I (f t j)) {s : State} (h : I s) :
    I ((List.range n).foldl f s) := by
  induction n with
  | zero => exact h
  | succ n ih =>
    rw [List.range_succ, List.foldl_append]
    exact step _ n (Nat.lt_succ_self n) (ih fun t j hj => step t j (Nat.lt_succ_of_lt hj))

/-- What step i establishes, from what the earlier steps keep, and the later ones keep, holds at the end. -/
theorem foldl_range_sets {f : State → Nat → State} {I P : State → Prop} {n i : Nat} (hi : i < n)
    (before : ∀ t, ∀ j < n, j ≠ i → I t → I (f t j)) (sets : ∀ t, I t → P (f t i)) (after : ∀ t, ∀ j < n, j ≠ i → P t → P (f t j))
    {s : State} (h : I s) : P ((List.range n).foldl f s) := by
  induction n with
  | zero => exact absurd hi (Nat.not_lt_zero i)
  | succ n ih =>
    rw [List.range_succ, List.foldl_append]
    by_cases last : i = n
    · subst last
      exact sets _ (foldl_range_keeps (fun t j hj => before t j (Nat.lt_succ_of_lt hj) (Nat.ne_of_lt hj)) h)
    · refine after _ n (Nat.lt_succ_self n) (Ne.symm last) (ih (by omega) (fun t j hj => before t j (by omega)) fun t j hj => after t j (by omega))

/-! ## Entries of a group -/

theorem groupIx_ne (f : Nat) {i j : Nat} (hi : i < 16) (hj : j < 16) (ne : i ≠ j) : groupIx f i ≠ groupIx f j := by
  intro same
  have := congrArg Fin.val same
  simp only [groupIx] at this
  omega

/-- The frame that a call spills does not hold the link register (R331). -/
theorem groupIx_ne_link (frm : Nat) {i : Nat} (hi : i < 16) : groupIx ((frm + 1) % 15 + 8) i ≠ ringIx frm 31 := by
  intro same
  have := congrArg Fin.val same
  simp only [groupIx, ringIx] at this
  omega

theorem ring_set_other {x y : Strand} {g j : Fin 120} {r : Reg} (h : y.ring = x.ring.set g r) (ne : j ≠ g) : y.ring[j] = x.ring[j] := by
  rw [h]
  exact Vector.getElem_set_ne g.isLt j.isLt fun e => ne (Fin.ext e.symm)

theorem ring_set_same {x y : Strand} {g : Fin 120} {r : Reg} (h : y.ring = x.ring.set g r) : y.ring[g] = r := by
  rw [h]
  exact Vector.getElem_set_self g.isLt

/-! ## A strand under a move -/

/-- A strand but for its ring and its spilled bindings, which a move changes. -/
def Strand.bare (x : Strand) : Strand := { x with ring := Vector.replicate 120 Reg.zero, spilled := [] }

/-! ## The planes of memory -/

/-- The four planes that memory is read through. -/
def State.planes (s : State) : List Host.Cell × List Host.Cell × List Host.Cell × List Nat := (s.mem, s.tags, s.fe, s.poison)

theorem planes_ext {s t : State} (h : t.planes = s.planes) : t.mem = s.mem ∧ t.tags = s.tags ∧ t.fe = s.fe ∧ t.poison = s.poison := by
  simpa [State.planes] using h

section
variable {s t : State} (h : t.planes = s.planes)
include h

theorem setByte_planes_congr (pa : Nat) (b : BitVec 8) : (setByte t pa b).planes = (setByte s pa b).planes := by
  obtain ⟨mem, tags, fe, poison⟩ := planes_ext h
  unfold setByte
  split <;> simp only [State.planes, mem, tags, fe, poison]

theorem setBytes_planes_congr (pa : Nat) (w : Word) (en : BitVec 8) (n : Nat) : (setBytes t pa w en n).planes = (setBytes s pa w en n).planes := by
  induction n with
  | zero => exact h
  | succ n ih =>
    unfold setBytes
    dsimp only
    split
    · exact setByte_planes_congr ih _ _
    · exact ih

theorem setTagByte_planes_congr (pa : Nat) (b : BitVec 8) : (setTagByte t pa b).planes = (setTagByte s pa b).planes := by
  obtain ⟨mem, tags, fe, poison⟩ := planes_ext h
  simp only [State.planes, setTagByte, mem, tags, fe, poison]

theorem setFe_planes_congr (pa : Nat) (full : Bool) : (setFe t pa full).planes = (setFe s pa full).planes := by
  obtain ⟨mem, tags, fe, poison⟩ := planes_ext h
  simp only [State.planes, setFe, mem, tags, fe, poison]

theorem clearPoison_planes_congr (pa : Nat) (en : BitVec 8) : (clearPoison t pa en).planes = (clearPoison s pa en).planes := by
  obtain ⟨mem, tags, fe, poison⟩ := planes_ext h
  unfold clearPoison
  split
  · exact h
  · split
    · simp only [State.planes, mem, tags, fe, poison]
    · exact h

/-- What a store makes of memory depends on memory alone. -/
theorem performStore_planes_congr (x : WordStore) : (performStore t x).planes = (performStore s x).planes := by
  unfold performStore
  dsimp only
  refine clearPoison_planes_congr ?_ _ _
  split
  · exact setTagByte_planes_congr (setBytes_planes_congr h _ _ _ _) _ _
  · exact setBytes_planes_congr h _ _ _ _

theorem feAt_planes_congr (pa : Nat) : feAt t pa = feAt s pa := by
  obtain ⟨-, -, fe, -⟩ := planes_ext h
  rw [feAt, feAt, fe]

end

/-! ## An entry stored -/

/-- Nothing but memory and the core's receive endpoints differs. -/
def PlanesAndRecv (s t : State) : Prop :=
  t = { s with mem := t.mem, tags := t.tags, fe := t.fe, poison := t.poison, core := { s.core with recv := t.core.recv } }

theorem PlanesAndRecv.trans {s t u : State} (h : PlanesAndRecv s t) (g : PlanesAndRecv t u) : PlanesAndRecv s u := by
  unfold PlanesAndRecv at *
  rw [g, h]

theorem PlanesOnly.orRecv {s t : State} (h : PlanesOnly s t) : PlanesAndRecv s t := by
  unfold PlanesAndRecv
  rw [h]

theorem PlanesAndRecv.core {s t : State} (h : PlanesAndRecv s t) : t.core = { s.core with recv := t.core.recv } := by rw [h]
theorem PlanesAndRecv.cur {s t : State} (h : PlanesAndRecv s t) : t.cur = s.cur := by rw [h]
theorem PlanesAndRecv.gcore {s t : State} (h : PlanesAndRecv s t) : t.core.gcore = s.core.gcore := by rw [h]
theorem PlanesAndRecv.strand {s t : State} (h : PlanesAndRecv s t) (k : Fin 16) : t.strand k = s.strand k :=
  State.strand_congr (by rw [h]) k

theorem readyTaken_recv (s : State) (off : Nat) : PlanesAndRecv s (readyTaken s off) ∧ (readyTaken s off).planes = s.planes := by
  refine foldl_rel (R := fun s t => PlanesAndRecv s t ∧ t.planes = s.planes) (fun _ => ⟨rfl, rfl⟩) (fun h g => ⟨h.1.trans g.1, g.2.trans h.2⟩)
    (fun t e => ?_) _ s
  split
  · split <;> exact ⟨rfl, rfl⟩
  · exact ⟨rfl, rfl⟩

/-- A word's full/empty bit set, or cleared where it is set. -/
def marked (s : State) (pa : Nat) (full : Bool) : State := if full then setFe s pa true else if feAt s pa then setFe s pa false else s

theorem marked_planes_congr {s t : State} (h : t.planes = s.planes) (pa : Nat) (full : Bool) : (marked t pa full).planes = (marked s pa full).planes := by
  unfold marked
  rw [feAt_planes_congr h]
  repeat' split
  · exact setFe_planes_congr h _ _
  · exact setFe_planes_congr h _ _
  · exact h

theorem feAt_setFe {s : State} (wf : Memory.wf s = true) (pa a : Nat) (full : Bool) :
    feAt (setFe s pa full) a = if wordNo a = wordNo pa then full else feAt s a := by
  obtain ⟨-, -, fe⟩ := (wf_iff s).mp wf
  show (cellGet feDflt (cellSet feDflt s.fe (wordNo pa) (if full then 1 else 0)) (wordNo a) != 0) = _
  by_cases same : wordNo a = wordNo pa
  · rw [if_pos same, same, cellGet_cellSet_same fe]
    cases full <;> rfl
  · rw [if_neg same, cellGet_cellSet_other fe _ same]
    rfl

theorem feAt_marked {s : State} (wf : Memory.wf s = true) (pa a : Nat) (full : Bool) :
    feAt (marked s pa full) a = if wordNo a = wordNo pa then full else feAt s a := by
  unfold marked
  cases full with
  | true => exact feAt_setFe wf pa a true
  | false =>
    cases was : feAt s pa with
    | true => exact feAt_setFe wf pa a false
    | false =>
      have here : wordNo a = wordNo pa → feAt s a = false := fun same => by rw [← was, feAt, feAt, same]
      by_cases same : wordNo a = wordNo pa
      · rw [if_pos same]
        exact here same
      · rw [if_neg same]
        rfl

theorem marked_wf {s : State} (wf : Memory.wf s = true) (pa : Nat) (full : Bool) : Memory.wf (marked s pa full) = true := by
  unfold marked
  repeat' split
  · exact setFe_wf wf _ _
  · exact setFe_wf wf _ _
  · exact wf

theorem marked_reads (s : State) (pa : Nat) (full : Bool) : (marked s pa full).mem = s.mem ∧ (marked s pa full).tags = s.tags := by
  unfold marked
  repeat' split
  all_goals exact ⟨rfl, rfl⟩

/-- A register's word stored, with its tag and full/empty bit (R103). -/
def storeEntry (s : State) (pa : Nat) (r : Reg) : State :=
  let t := performStore s ⟨pa, r.val, 0xFF, BitVec.ofNat 8 r.tag.val⟩
  if r.full then fillWord t (pa - tcmPa t.core.gcore 0) else emptyWord t (pa - tcmPa t.core.gcore 0)

theorem emptyWord_recv (s : State) (off : Nat) : PlanesAndRecv s (emptyWord s off) := by
  unfold emptyWord
  dsimp only
  split
  · exact (readyTaken_recv s off).1.trans (setFe_planes _ _ _).orRecv
  · rfl

theorem storeEntry_recv (s : State) (pa : Nat) (r : Reg) : PlanesAndRecv s (storeEntry s pa r) := by
  refine (performStore_planes s ⟨pa, r.val, 0xFF, BitVec.ofNat 8 r.tag.val⟩).orRecv.trans ?_
  unfold storeEntry
  dsimp only
  split
  · exact (setFe_planes _ _ _).orRecv
  · exact emptyWord_recv _ _

theorem emptyWord_planes (s : State) {off pa : Nat} (h : tcmPa s.core.gcore off = pa) : (emptyWord s off).planes = (marked s pa false).planes := by
  subst h
  unfold emptyWord marked
  dsimp only
  rw [if_neg Bool.false_ne_true]
  split
  · exact setFe_planes_congr (readyTaken_recv s off).2 _ _
  · rfl

/-- A word of the own TCM takes value, tag and bit. -/
theorem storeEntry_planes {s : State} {pa : Nat} (own : tcmPa s.core.gcore 0 ≤ pa) (r : Reg) :
    (storeEntry s pa r).planes = (marked (performStore s ⟨pa, r.val, 0xFF, BitVec.ofNat 8 r.tag.val⟩) pa r.full).planes := by
  have gcore : (performStore s ⟨pa, r.val, 0xFF, BitVec.ofNat 8 r.tag.val⟩).core.gcore = s.core.gcore :=
    congrArg Core.gcore (performStore_planes s _).core
  have place : tcmPa (performStore s ⟨pa, r.val, 0xFF, BitVec.ofNat 8 r.tag.val⟩).core.gcore
      (pa - tcmPa (performStore s ⟨pa, r.val, 0xFF, BitVec.ofNat 8 r.tag.val⟩).core.gcore 0) = pa := by
    rw [gcore]
    unfold tcmPa at own ⊢
    omega
  unfold storeEntry
  dsimp only
  cases r.full with
  | true =>
    rw [if_pos rfl, fillWord, place]
    rfl
  | false => exact emptyWord_planes _ place

theorem storeEntry_planes_congr {s t : State} (h : t.planes = s.planes) (gcore : t.core.gcore = s.core.gcore) {pa : Nat}
    (own : tcmPa s.core.gcore 0 ≤ pa) (r : Reg) : (storeEntry t pa r).planes = (storeEntry s pa r).planes := by
  rw [storeEntry_planes own, storeEntry_planes (gcore ▸ own)]
  exact marked_planes_congr (performStore_planes_congr h _) _ _

end Sys2Proof.Machine
end

section
/-! Records of the own TCM: a spill stores a frame's sixteen entries there, and a fill reads them back (R103, R105). -/

namespace Sys2Proof.Machine

/-! ## A word of TCM data -/

theorem homeOf_tcmPa {core off : Nat} (hc : core < 12288) (ho : off < 0x20000) : homeOf Config.hbmBytes (tcmPa core off) = .tcm core off := by
  have above : ¬ tcmPa core off < Config.sramBase ∧ ¬ tcmPa core off < Config.spadBase ∧ ¬ tcmPa core off < Config.tcmBase ∧
      tcmPa core off < Config.hubBase := by
    simp only [tcmPa, Config.sramBase, Config.spadBase, Config.tcmBase, Config.tcmStride, Config.hubBase]
    omega
  obtain ⟨sram, spad, tcm, hub⟩ := above
  have core' : (tcmPa core off - Config.tcmBase) / Config.tcmStride = core := by simp only [tcmPa, Config.tcmStride]; omega
  have off' : (tcmPa core off - Config.tcmBase) % Config.tcmStride = off := by simp only [tcmPa, Config.tcmStride]; omega
  simp only [homeOf, sram, spad, tcm, hub, core', off', Config.coreCount, hc, tcmHome, ho, if_true, if_false]

theorem wordNo_tcmPa_ne {core a b : Nat} (apart : a + 8 ≤ b ∨ b + 8 ≤ a) : wordNo (tcmPa core a) ≠ wordNo (tcmPa core b) := by
  unfold wordNo tcmPa
  omega

/-- Plain bytes written change no tag byte and no full/empty bit. -/
theorem setBytes_plain (s : State) {pa : Nat} (w : Word) (en : BitVec 8) {n : Nat} (hp : ∀ i < n, PlainByte (pa + i)) :
    (setBytes s pa w en n).tags = s.tags ∧ (setBytes s pa w en n).fe = s.fe := by
  induction n with
  | zero => exact ⟨rfl, rfl⟩
  | succ n ih =>
    have rest := ih fun i hi => hp i (Nat.lt_succ_of_lt hi)
    unfold setBytes
    dsimp only
    split
    · rw [setByte_plain _ (hp n (Nat.lt_succ_self n))]
      exact rest
    · exact rest

theorem clearPoison_keeps (s : State) (pa : Nat) (en : BitVec 8) : (clearPoison s pa en).tags = s.tags ∧ (clearPoison s pa en).fe = s.fe := by
  unfold clearPoison
  repeat' split
  all_goals exact ⟨rfl, rfl⟩

/-- A store to TCM data sets the tag byte of its word (R163). -/
theorem performStore_data {s : State} {x : WordStore} (data : isTcmData x.pa = true) (some : (x.en != 0) = true) :
    (performStore s x).tags = cellSet tagDflt (setBytes s x.pa x.data x.en 8).tags (wordNo x.pa) x.tagb ∧
      (performStore s x).fe = (setBytes s x.pa x.data x.en 8).fe := by
  unfold performStore
  dsimp only
  rw [data, some]
  exact clearPoison_keeps _ _ _

section
variable {s : State} {off : Nat} (core : s.core.gcore < 12288) (fits : off + 8 ≤ 0x20000)
include core fits

theorem plainBytes_tcmPa : ∀ i < 8, PlainByte (tcmPa s.core.gcore off + i) := fun i hi => by
  rw [tcmPa_add]
  exact plainByte_tcmPa core (by omega)

/-- A store of a whole word of TCM data sets its tag byte and no full/empty bit (R163). -/
theorem performStore_tcm (w : Word) (b : BitVec 8) :
    (performStore s ⟨tcmPa s.core.gcore off, w, 0xFF, b⟩).tags = cellSet tagDflt s.tags (wordNo (tcmPa s.core.gcore off)) b ∧
      (performStore s ⟨tcmPa s.core.gcore off, w, 0xFF, b⟩).fe = s.fe := by
  have data : isTcmData (tcmPa s.core.gcore off) = true := by rw [isTcmData, homeOf_tcmPa core (by omega)]
  obtain ⟨tags, fe⟩ := setBytes_plain s w 0xFF (plainBytes_tcmPa core fits)
  obtain ⟨tags', fe'⟩ := performStore_data (s := s) (x := ⟨tcmPa s.core.gcore off, w, 0xFF, b⟩) data
    (show ((0xFF : BitVec 8) != 0) = true by decide)
  exact ⟨tags'.trans (by rw [tags]), fe'.trans fe⟩

end

/-! ## One entry -/

theorem storeEntry_own (s : State) (off : Nat) (r : Reg) : (storeEntry s (tcmPa s.core.gcore off) r).planes =
    (marked (performStore s ⟨tcmPa s.core.gcore off, r.val, 0xFF, BitVec.ofNat 8 r.tag.val⟩) (tcmPa s.core.gcore off) r.full).planes :=
  storeEntry_planes (by unfold tcmPa; omega) r

theorem storeEntry_wf {s : State} (wf : Memory.wf s = true) (off : Nat) (r : Reg) : Memory.wf (storeEntry s (tcmPa s.core.gcore off) r) = true := by
  obtain ⟨mem, tags, fe, -⟩ := planes_ext (storeEntry_own s off r)
  exact wf_congr (marked_wf (performStore_wf wf _) _ _) mem tags fe

/-- What a word of memory and its planes read as. -/
def wordReads (s : State) (pa : Nat) : Word × BitVec 8 × Bool := (wordAt s pa, tagByteAt s pa, feAt s pa)

/-- What a register leaves in a word (R103). -/
def Reg.stored (r : Reg) : Word × BitVec 8 × Bool := (r.val, BitVec.ofNat 8 r.tag.val, r.full)

theorem wordReads_planes_congr {s t : State} (h : t.planes = s.planes) (pa : Nat) : wordReads t pa = wordReads s pa := by
  obtain ⟨mem, tags, fe, -⟩ := planes_ext h
  have bytes : ∀ a, byteAt t a = byteAt s a := fun a => by simp only [byteAt, feByte, mem, tags, fe]
  rw [wordReads, wordReads, wordAt, wordAt, bytesAt_congr fun i _ => bytes (pa + i), tagByteAt, tagByteAt, tags, feAt_planes_congr h]

section
variable {s : State} (wf : Memory.wf s = true) (core : s.core.gcore < 12288)
include wf core

/-- The word reads as the register. -/
theorem storeEntry_same {off : Nat} (fits : off + 8 ≤ 0x20000) (r : Reg) :
    wordReads (storeEntry s (tcmPa s.core.gcore off) r) (tcmPa s.core.gcore off) = r.stored := by
  let x : WordStore := ⟨tcmPa s.core.gcore off, r.val, 0xFF, BitVec.ofNat 8 r.tag.val⟩
  obtain ⟨mem, tags⟩ := marked_reads (performStore s x) x.pa r.full
  have plain := plainBytes_tcmPa core fits
  have bytes : wordAt (marked (performStore s x) x.pa r.full) x.pa = r.val := by
    refine wordAt_of_wordByte fun i hi => ?_
    rw [byteAt_plain _ (plain i hi), mem, ← byteAt_plain _ (plain i hi), byteAt_performStore s x (plain i hi)]
    exact byteAt_setBytes_same wf r.val le_rfl plain hi
  have tag : tagByteAt (marked (performStore s x) x.pa r.full) x.pa = x.tagb := by
    rw [tagByteAt, tags, (performStore_tcm core fits r.val x.tagb).1]
    exact cellGet_cellSet_same ((wf_iff s).mp wf).2.1 _ _
  have bit : feAt (marked (performStore s x) x.pa r.full) x.pa = r.full := by rw [feAt_marked (performStore_wf wf x), if_pos rfl]
  rw [wordReads_planes_congr (storeEntry_own s off r)]
  exact congrArg₂ Prod.mk bytes (congrArg₂ Prod.mk tag bit)

/-- Other words of the TCM read as before. -/
theorem storeEntry_other {off a : Nat} (fits : off + 8 ≤ 0x20000) (fits' : a + 8 ≤ 0x20000) (apart : a + 8 ≤ off ∨ off + 8 ≤ a) (r : Reg) :
    wordReads (storeEntry s (tcmPa s.core.gcore off) r) (tcmPa s.core.gcore a) = wordReads s (tcmPa s.core.gcore a) := by
  let x : WordStore := ⟨tcmPa s.core.gcore off, r.val, 0xFF, BitVec.ofNat 8 r.tag.val⟩
  obtain ⟨mem, tags⟩ := marked_reads (performStore s x) x.pa r.full
  obtain ⟨tags', fe'⟩ := performStore_tcm core fits r.val x.tagb
  have plain := plainBytes_tcmPa core fits'
  have ne : wordNo (tcmPa s.core.gcore a) ≠ wordNo x.pa := wordNo_tcmPa_ne apart
  have bytes : wordAt (marked (performStore s x) x.pa r.full) (tcmPa s.core.gcore a) = wordAt s (tcmPa s.core.gcore a) := by
    refine congrArg word (bytesAt_congr fun i hi => ?_)
    rw [byteAt_plain _ (plain i hi), mem, ← byteAt_plain _ (plain i hi), byteAt_performStore s x (plain i hi)]
    exact byteAt_setBytes_other wf r.val 0xFF (plainBytes_tcmPa core fits) (plain i hi) (by
      show tcmPa _ a + i < tcmPa _ off ∨ tcmPa _ off + 8 ≤ tcmPa _ a + i
      unfold tcmPa
      omega)
  have tag : tagByteAt (marked (performStore s x) x.pa r.full) (tcmPa s.core.gcore a) = tagByteAt s (tcmPa s.core.gcore a) := by
    rw [tagByteAt, tags, tags']
    exact cellGet_cellSet_other ((wf_iff s).mp wf).2.1 _ ne
  have bit : feAt (marked (performStore s x) x.pa r.full) (tcmPa s.core.gcore a) = feAt s (tcmPa s.core.gcore a) := by
    rw [feAt_marked (performStore_wf wf x), if_neg ne, feAt, fe', feAt]
  rw [wordReads_planes_congr (storeEntry_own s off r)]
  exact congrArg₂ Prod.mk bytes (congrArg₂ Prod.mk tag bit)

end

/-! ## A frame spilled -/

/-- The strand after an entry of its ring has been moved to a record. -/
def Strand.spilledFrom (x : Strand) (rec f i pa : Nat) (r : Reg) : Strand :=
  { x with
    ring := x.ring.set (groupIx f i) { r with bind := none }
    spilled := match r.bind with | some b => x.spilled ++ [⟨rec, i, pa, b⟩] | none => x.spilled }

/-- A move of one entry is its store and a change of the strand's ring and spilled bindings. -/
theorem spillEntry_eq (s : State) (k : Fin 16) (rec f i : Nat) : spillEntry s k rec f i =
    (storeEntry s (spillPa s (s.strand k) rec i) ((s.strand k).ring[groupIx f i])).modStrand k
      (·.spilledFrom rec f i (spillPa s (s.strand k) rec i) ((s.strand k).ring[groupIx f i])) := rfl

theorem spillEntry_cur (s : State) (k : Fin 16) (rec f i : Nat) : (spillEntry s k rec f i).cur = s.cur := by
  rw [spillEntry_eq, State.modStrand_cur]
  exact (storeEntry_recv _ _ _).cur

theorem spillEntry_gcore (s : State) (k : Fin 16) (rec f i : Nat) : (spillEntry s k rec f i).core.gcore = s.core.gcore := by
  rw [spillEntry_eq]
  exact (storeEntry_recv s _ _).gcore

theorem spillEntry_strand (s : State) (k : Fin 16) (rec f i : Nat) : (spillEntry s k rec f i).strand k =
    (s.strand k).spilledFrom rec f i (spillPa s (s.strand k) rec i) ((s.strand k).ring[groupIx f i]) := by
  rw [spillEntry_eq, State.modStrand_strand_same, (storeEntry_recv _ _ _).strand k]

theorem spillEntry_bare (s : State) (k : Fin 16) (rec f i : Nat) : ((spillEntry s k rec f i).strand k).bare = (s.strand k).bare := by
  rw [spillEntry_strand]
  rfl

theorem spillEntry_ring (s : State) (k : Fin 16) (rec f i : Nat) : ((spillEntry s k rec f i).strand k).ring =
    (s.strand k).ring.set (groupIx f i) { (s.strand k).ring[groupIx f i] with bind := none } := by
  rw [spillEntry_strand]
  rfl

theorem spillEntry_planes (s : State) (k : Fin 16) (rec f i : Nat) : (spillEntry s k rec f i).planes =
    (storeEntry s (spillPa s (s.strand k) rec i) ((s.strand k).ring[groupIx f i])).planes := by
  rw [spillEntry_eq]
  rfl

theorem bare_winbase {x y : Strand} (h : y.bare = x.bare) : y.winbase = x.winbase := (congrArg Strand.winbase h :)

theorem spillPa_congr {s t : State} {x y : Strand} (gcore : t.core.gcore = s.core.gcore) (winbase : y.winbase = x.winbase) (rec i : Nat) :
    spillPa t y rec i = spillPa s x rec i := by rw [spillPa, spillPa, gcore, winbase]

theorem spillFrame_cur (s : State) (k : Fin 16) (rec f : Nat) : (spillFrame s k rec f).cur = s.cur :=
  foldl_keeps State.cur (fun t i => spillEntry_cur t k rec f i) _ s

theorem spillFrame_bare (s : State) (k : Fin 16) (rec f : Nat) : ((spillFrame s k rec f).strand k).bare = (s.strand k).bare :=
  foldl_keeps (fun t => (t.strand k).bare) (fun t i => spillEntry_bare t k rec f i) _ s

/-- A spill leaves the ring's entries that it does not move. -/
theorem spillFrame_ring_other (s : State) (k : Fin 16) (rec : Nat) {f : Nat} {j : Fin 120} (out : ∀ i < 16, groupIx f i ≠ j) :
    ((spillFrame s k rec f).strand k).ring[j] = (s.strand k).ring[j] :=
  foldl_range_keeps (I := fun t => (t.strand k).ring[j] = (s.strand k).ring[j])
    (fun t i hi kept => (ring_set_other (spillEntry_ring t k rec f i) (out i hi).symm).trans kept) rfl

/-! ## What a spill makes of memory -/

/-- States in which a spill of strand k does the same to memory. -/
structure SpillAlike (k : Fin 16) (s t : State) : Prop where
  planes : t.planes = s.planes
  gcore : t.core.gcore = s.core.gcore
  ring : (t.strand k).ring = (s.strand k).ring
  winbase : (t.strand k).winbase = (s.strand k).winbase

theorem SpillAlike.spillEntry {k : Fin 16} {s t : State} (h : SpillAlike k s t) (rec f i : Nat) :
    SpillAlike k (spillEntry s k rec f i) (spillEntry t k rec f i) := by
  refine ⟨?_, ?_, ?_, ?_⟩
  · rw [spillEntry_planes, spillEntry_planes, h.ring, spillPa_congr h.gcore h.winbase]
    exact storeEntry_planes_congr h.planes h.gcore (by unfold spillPa tcmPa; omega) _
  · rw [spillEntry_gcore, spillEntry_gcore, h.gcore]
  · rw [spillEntry_ring, spillEntry_ring, h.ring]
  · rw [bare_winbase (spillEntry_bare t k rec f i), bare_winbase (spillEntry_bare s k rec f i), h.winbase]

theorem SpillAlike.spillFrame {k : Fin 16} {s t : State} (h : SpillAlike k s t) (rec f : Nat) :
    SpillAlike k (spillFrame s k rec f) (spillFrame t k rec f) := by
  unfold Machine.spillFrame
  induction List.range 16 generalizing s t with
  | nil => exact h
  | cons i is ih => exact ih (h.spillEntry rec f i)

/-! ## What a record holds after a spill -/

/-- Record n of strand k lies in the data of the own TCM, which is in canonical form. -/
structure RecordFits (g : Nat) (base : Word) (k : Fin 16) (n : Nat) (s : State) : Prop where
  wf : Memory.wf s = true
  gcore : s.core.gcore = g
  winbase : (s.strand k).winbase = base
  core : g < 12288
  room : fld base 16 0 + 128 * n + 128 ≤ 0x20000

section
variable {g n i : Nat} {base : Word} {k : Fin 16} {s : State} (h : RecordFits g base k n s)
include h

theorem RecordFits.spillPa_eq (j : Nat) : spillPa s (s.strand k) n j = tcmPa s.core.gcore (fld base 16 0 + 128 * n + 8 * j) := by
  rw [spillPa, h.winbase]

theorem RecordFits.spillEntry (f i : Nat) : RecordFits g base k n (spillEntry s k n f i) := by
  refine ⟨?_, (spillEntry_gcore s k n f i).trans h.gcore, (bare_winbase (spillEntry_bare s k n f i)).trans h.winbase, h.core, h.room⟩
  obtain ⟨mem, tags, fe, -⟩ := planes_ext (spillEntry_planes s k n f i)
  refine wf_congr ?_ mem tags fe
  rw [h.spillPa_eq]
  exact storeEntry_wf h.wf _ _

/-- The move of an entry stores it at its place. -/
theorem RecordFits.spillEntry_same (f : Nat) (hi : i < 16) :
    wordReads (Machine.spillEntry s k n f i) (tcmPa g (fld base 16 0 + 128 * n + 8 * i)) = ((s.strand k).ring[groupIx f i]).stored := by
  have room := h.room
  rw [wordReads_planes_congr (spillEntry_planes s k n f i), h.spillPa_eq, ← h.gcore]
  exact storeEntry_same h.wf (h.gcore ▸ h.core) (by omega) _

/-- The moves of the other entries leave it. -/
theorem RecordFits.spillEntry_other (f : Nat) {j : Nat} (hi : i < 16) (hj : j < 16) (ne : j ≠ i) :
    wordReads (Machine.spillEntry s k n f j) (tcmPa g (fld base 16 0 + 128 * n + 8 * i)) =
      wordReads s (tcmPa g (fld base 16 0 + 128 * n + 8 * i)) := by
  have room := h.room
  rw [wordReads_planes_congr (spillEntry_planes s k n f j), h.spillPa_eq, ← h.gcore]
  exact storeEntry_other h.wf (h.gcore ▸ h.core) (by omega) (by omega) (by omega) _

/-- Every entry of the frame is in its place of the record. -/
theorem RecordFits.spillFrame_stored (f : Nat) (hi : i < 16) :
    wordReads (spillFrame s k n f) (tcmPa g (fld base 16 0 + 128 * n + 8 * i)) = ((s.strand k).ring[groupIx f i]).stored := by
  have stored := foldl_range_sets (f := fun t j => Machine.spillEntry t k n f j) (n := 16) hi
    (I := fun t => RecordFits g base k n t ∧ (t.strand k).ring[groupIx f i] = (s.strand k).ring[groupIx f i])
    (P := fun t => RecordFits g base k n t ∧
      wordReads t (tcmPa g (fld base 16 0 + 128 * n + 8 * i)) = ((s.strand k).ring[groupIx f i]).stored)
    (fun t j hj ne fits => ⟨fits.1.spillEntry f j,
      (ring_set_other (spillEntry_ring t k n f j) (groupIx_ne f hi hj ne.symm)).trans fits.2⟩)
    (fun t fits => ⟨fits.1.spillEntry f i, (fits.1.spillEntry_same f hi).trans (congrArg Reg.stored fits.2)⟩)
    (fun t j hj ne fits => ⟨fits.1.spillEntry f j, (fits.1.spillEntry_other f hi hj ne).trans fits.2⟩)
    (s := s) ⟨h, rfl⟩
  exact stored.2

end

/-! ## A frame filled -/

/-- The register a word of a record fills (R103), with nothing spilled bound to it. -/
def loadedReg (s : State) (pa : Nat) : Reg := ⟨wordAt s pa, regTag (tagByteAt s pa), feAt s pa, none⟩

/-- The strand after an entry of its ring has been brought back. -/
def Strand.filledWith (x : Strand) (g : Fin 120) (pa : Nat) (r : Reg) : Strand :=
  { x with ring := x.ring.set g r, spilled := x.spilled.filter fun e => e.pa != pa }

theorem fillEntry_eq {s : State} {k : Fin 16} (unspilled : (s.strand k).spilled = []) (rec f i : Nat) : fillEntry s k rec f i =
    s.modStrand k (·.filledWith (groupIx f i) (spillPa s (s.strand k) rec i) (loadedReg s (spillPa s (s.strand k) rec i))) := by
  unfold fillEntry
  dsimp only
  rw [unspilled]
  rfl

theorem fillEntry_ring {s : State} {k : Fin 16} (unspilled : (s.strand k).spilled = []) (rec f i : Nat) :
    ((fillEntry s k rec f i).strand k).ring = (s.strand k).ring.set (groupIx f i) (loadedReg s (spillPa s (s.strand k) rec i)) := by
  rw [fillEntry_eq unspilled, State.modStrand_strand_same]
  rfl

theorem fillEntry_spilled {s : State} {k : Fin 16} (unspilled : (s.strand k).spilled = []) (rec f i : Nat) :
    ((fillEntry s k rec f i).strand k).spilled = [] := by
  rw [fillEntry_eq unspilled, State.modStrand_strand_same, Strand.filledWith, unspilled]
  rfl

theorem fillEntry_cur (s : State) (k : Fin 16) (rec f i : Nat) : (fillEntry s k rec f i).cur = s.cur := rfl

theorem fillEntry_bare (s : State) (k : Fin 16) (rec f i : Nat) : ((fillEntry s k rec f i).strand k).bare = (s.strand k).bare := by
  unfold fillEntry
  dsimp only
  rw [State.modStrand_strand_same]
  rfl

theorem fillFrame_bare (s : State) (k : Fin 16) (rec f : Nat) : ((fillFrame s k rec f).strand k).bare = (s.strand k).bare :=
  foldl_keeps (fun t => (t.strand k).bare) (fun t i => fillEntry_bare t k rec f i) _ s

theorem fillFrame_cur (s : State) (k : Fin 16) (rec f : Nat) : (fillFrame s k rec f).cur = s.cur :=
  foldl_keeps State.cur (fun t i => fillEntry_cur t k rec f i) _ s

end Sys2Proof.Machine

namespace Sys2Proof.Claims

open Sys2Proof.Machine

theorem SameMemory.loadedReg {s t : State} (h : SameMemory s t) (pa : Nat) : loadedReg t pa = loadedReg s pa := by
  obtain ⟨-, tag, bit, -⟩ := h pa
  rw [Machine.loadedReg, Machine.loadedReg, h.wordAt, tag, bit]

/-- States in which a fill of strand k, with nothing spilled bound, brings back the same. -/
structure FillAlike (k : Fin 16) (s t : State) : Prop where
  memory : SameMemory s t
  gcore : t.core.gcore = s.core.gcore
  winbase : (t.strand k).winbase = (s.strand k).winbase
  unspilled : (t.strand k).spilled = []

theorem FillAlike.fillEntry {k : Fin 16} {s t : State} (h : FillAlike k s t) (rec f i : Nat) : FillAlike k s (fillEntry t k rec f i) :=
  ⟨h.memory.trans (fillEntry_sameMemory t k rec f i), h.gcore, (bare_winbase (fillEntry_bare t k rec f i)).trans h.winbase,
    fillEntry_spilled h.unspilled rec f i⟩

theorem FillAlike.fillEntry_ring {k : Fin 16} {s t : State} (h : FillAlike k s t) (rec f i : Nat) : ((Machine.fillEntry t k rec f i).strand k).ring =
    (t.strand k).ring.set (groupIx f i) (Machine.loadedReg s (spillPa s (s.strand k) rec i)) := by
  rw [Machine.fillEntry_ring h.unspilled, h.memory.loadedReg, spillPa_congr h.gcore h.winbase]

/-- A fill brings every entry of the record back (R103). -/
theorem fillFrame_loaded {s : State} {k : Fin 16} (unspilled : (s.strand k).spilled = []) (rec f : Nat) {i : Nat} (hi : i < 16) :
    ((fillFrame s k rec f).strand k).ring[groupIx f i] = loadedReg s (spillPa s (s.strand k) rec i) := by
  have loaded := foldl_range_sets (f := fun t j => fillEntry t k rec f j) (n := 16) hi
    (I := FillAlike k s) (P := fun t => FillAlike k s t ∧ (t.strand k).ring[groupIx f i] = loadedReg s (spillPa s (s.strand k) rec i))
    (fun t j _ _ alike => alike.fillEntry rec f j)
    (fun t alike => ⟨alike.fillEntry rec f i, ring_set_same (alike.fillEntry_ring rec f i)⟩)
    (fun t j hj ne filled => ⟨filled.1.fillEntry rec f j,
      (ring_set_other (filled.1.fillEntry_ring rec f j) (groupIx_ne f hi hj ne.symm)).trans filled.2⟩)
    (s := s) ⟨SameMemory.refl s, rfl, rfl, unspilled⟩
  exact loaded.2

/-- A spill is read back as it was stored. -/
theorem spillFrame_holds {s : State} {k : Fin 16} {n f : Nat} (wf : Memory.wf s = true) (core : s.core.gcore < 12288)
    (room : fld (s.strand k).winbase 16 0 + 128 * n + 128 ≤ 0x20000) {i : Nat} (hi : i < 16) :
    wordReads (spillFrame s k n f) (spillPa s (s.strand k) n i) = ((s.strand k).ring[groupIx f i]).stored := by
  have fits : RecordFits s.core.gcore (s.strand k).winbase k n s := ⟨wf, rfl, rfl, core, room⟩
  exact fits.spillFrame_stored f hi

end Sys2Proof.Claims
end

section
/-! Calls that spill and returns that fill, and the claim about both (R102-R105, R331, R332). -/

namespace Sys2Proof.Machine

/-! ## What a record's state depends on -/

theorem home_congr {s t : State} (h : t.hub = s.hub) (pa : Nat) : home t pa = home s pa := by
  have regs : ∀ a, hubGet t a = hubGet s a := fun a => hubGet_congr (by rw [h]) a
  simp only [home, hbmSize, sysMode, regs, h]

section
variable {s t : State} {x y : Strand} (gcore : t.core.gcore = s.core.gcore) (winbase : y.winbase = x.winbase)
include gcore winbase

theorem reachesRecord_congr (hub : t.hub = s.hub) (rec pa : Nat) : reachesRecord t y rec pa = reachesRecord s x rec pa := by
  simp only [reachesRecord, inRecord, home_congr hub, spillPa_congr gcore winbase]

theorem recordBusy_congr (hub : t.hub = s.hub) (reqs : t.core.reqs = s.core.reqs) (sb : y.sb = x.sb) (k : Fin 16) (rec : Nat) :
    recordBusy t k y rec = recordBusy s k x rec := by
  simp only [recordBusy, reachesRecord_congr gcore winbase hub, reqs, sb]

theorem recordPoison_congr (poison : t.poison = s.poison) (rec : Nat) : recordPoison t y rec = recordPoison s x rec := by
  simp only [recordPoison, poisoned, poison, spillPa_congr gcore winbase]

end

/-! ## A move owed -/

/-- A strand but for what owing and making a move change. -/
def Strand.still (x : Strand) : Strand := { x.bare with owed := none, run := .ready }

theorem still_of_bare {x y : Strand} (h : y.bare = x.bare) : y.still = x.still := congrArg (fun z => { z with owed := none, run := .ready }) h

theorem still_winstate {x y : Strand} (h : y.still = x.still) : y.winstate = x.winstate := (congrArg Strand.winstate h :)
theorem still_pc {x y : Strand} (h : y.still = x.still) : y.pc = x.pc := (congrArg Strand.pc h :)

/-- A strand whose move must wait. -/
theorem owe_stalls {x : Strand} (run : x.run ≠ .frozen) (m : WindowMove) : (x.owe m).run = .stalled .windowStores := if_neg run

section
variable (s : State) (k : Fin 16)

theorem spillOwed_busy (busy : recordBusy s k (s.strand k) (owedSpill (s.strand k)).1 = true) :
    spillOwed s k = (s.modStrand k (·.owe .spill)).at (s.now + 1) (.windowSpill k) := by
  rw [spillOwed, if_pos busy]

theorem spillOwed_busy_strand (busy : recordBusy s k (s.strand k) (owedSpill (s.strand k)).1 = true) :
    (spillOwed s k).strand k = (s.strand k).owe .spill := by
  rw [spillOwed_busy s k busy]
  exact State.modStrand_strand_same s k (·.owe .spill)

theorem spillOwed_idle (idle : recordBusy s k (s.strand k) (owedSpill (s.strand k)).1 = false) :
    spillOwed s k = spillFrame (s.modStrand k Strand.paid) k (owedSpill (s.strand k)).1 (owedSpill (s.strand k)).2 := by
  rw [spillOwed, idle, if_neg Bool.false_ne_true]

theorem spillOwed_cur : (spillOwed s k).cur = s.cur := by
  cases h : recordBusy s k (s.strand k) (owedSpill (s.strand k)).1 with
  | true => rw [spillOwed_busy s k h]; rfl
  | false => rw [spillOwed_idle s k h]; exact spillFrame_cur _ _ _ _

theorem spillOwed_still : ((spillOwed s k).strand k).still = (s.strand k).still := by
  cases h : recordBusy s k (s.strand k) (owedSpill (s.strand k)).1 with
  | true =>
    rw [spillOwed_busy_strand s k h]
    rfl
  | false =>
    rw [spillOwed_idle s k h, still_of_bare (spillFrame_bare _ _ _ _), State.modStrand_strand_same]
    rfl

/-- The ring's entries out of the frame to be spilled stay. -/
theorem spillOwed_ring {j : Fin 120} (out : ∀ i < 16, groupIx (owedSpill (s.strand k)).2 i ≠ j) :
    ((spillOwed s k).strand k).ring[j] = (s.strand k).ring[j] := by
  cases h : recordBusy s k (s.strand k) (owedSpill (s.strand k)).1 with
  | true =>
    rw [spillOwed_busy_strand s k h]
    rfl
  | false =>
    rw [spillOwed_idle s k h, spillFrame_ring_other _ _ _ out, State.modStrand_strand_same]
    rfl

theorem fillOwed_busy (busy : recordBusy s k (s.strand k) (owedFill (s.strand k)).1 = true) (pc : Addr) (ins : BitVec 32) :
    fillOwed s k pc ins = (s.modStrand k (·.owe (.fill pc ins))).at (s.now + 1) (.windowFill k) := by
  rw [fillOwed, if_pos busy]

theorem fillOwed_idle (idle : recordBusy s k (s.strand k) (owedFill (s.strand k)).1 = false)
    (sound : recordPoison s (s.strand k) (owedFill (s.strand k)).1 = none) (pc : Addr) (ins : BitVec 32) :
    fillOwed s k pc ins = fillFrame (s.modStrand k Strand.paid) k (owedFill (s.strand k)).1 (owedFill (s.strand k)).2 := by
  simp only [fillOwed, idle, sound, Bool.false_eq_true, if_false]

end

/-! ## A call with seven resident frames -/

theorem called_cur (s : State) : (called s).cur = s.cur := (linked_only s).cur

theorem called_now (s : State) : (called s).now = s.now := (linked_only s).now

theorem goto_agenda (s : State) (pc : Addr) : (s.goto pc).agenda = s.agenda := rfl

theorem called_strand_cur (s : State) : (called s).strand s.cur = winCall (s.st.setReg s.st.link s.st.returnReg) := by
  rw [← called_strand s, State.st, called_cur]

theorem called_owes {s : State} (last : s.st.res = 7) (few : s.st.spilledCount + 1 < 2 ^ 16) :
    owedSpill ((called s).strand s.cur) = (s.st.spilledCount, (s.st.frm + 1) % 15 + 8) := by
  rw [called_strand_cur, owedSpill, winCall_frm, winCall_spilledCount_last (s.st.setReg s.st.link s.st.returnReg) last few]
  rfl

/-- WINSTATE of a strand after the call, whatever its spill has made of it. -/
theorem called_window {s : State} (last : s.st.res = 7) (few : s.st.spilledCount + 1 < 2 ^ 16) {x : Strand}
    (same : x.still = ((called s).strand s.cur).still) :
    x.frm = (s.st.frm + 1) % 15 ∧ x.res = 7 ∧ x.spilledCount = s.st.spilledCount + 1 := by
  have winstate := still_winstate same
  rw [called_strand_cur] at winstate
  rw [Strand.frm, Strand.res, Strand.spilledCount, winstate]
  exact ⟨winCall_frm _, (winCall_res _).trans (if_pos last), winCall_spilledCount_last _ last few⟩

theorem called_busy (s : State) (rec : Nat) : recordBusy (called s) s.cur ((called s).strand s.cur) rec = recordBusy s s.cur s.st rec := by
  have only := linked_only s
  have gcore : (called s).core.gcore = s.core.gcore := only.gcore
  have hub : (called s).hub = s.hub := only.hub
  have reqs : (called s).core.reqs = s.core.reqs := only.reqs
  rw [called_strand_cur]
  generalize called s = t at *
  have winbase : (winCall (s.st.setReg s.st.link s.st.returnReg)).winbase = s.st.winbase := rfl
  have sb : (winCall (s.st.setReg s.st.link s.st.returnReg)).sb = s.st.sb := rfl
  exact recordBusy_congr gcore winbase hub reqs sb s.cur rec

/-- The spill of a call does to memory what one does once the link register is written. -/
theorem called_spillAlike (s : State) :
    SpillAlike s.cur (s.mod (·.setReg s.st.link s.st.returnReg)) ((called s).modStrand s.cur Strand.paid) := by
  have written : (s.mod (·.setReg s.st.link s.st.returnReg)).strand s.cur = s.st.setReg s.st.link s.st.returnReg :=
    State.modStrand_strand_same s s.cur _
  have strand : ((called s).modStrand s.cur Strand.paid).strand s.cur = (winCall (s.st.setReg s.st.link s.st.returnReg)).paid := by
    rw [State.modStrand_strand_same, called_strand_cur]
  have planes : (called s).planes = s.planes := (congrArg State.planes (linked_only s).state :)
  have gcore : (called s).core.gcore = s.core.gcore := (linked_only s).gcore
  generalize called s = t at *
  generalize s.st.setReg s.st.link s.st.returnReg = x at *
  refine ⟨planes, gcore, ?_, ?_⟩
  · rw [strand, written]; rfl
  · rw [strand, written]; rfl

end Sys2Proof.Machine

namespace Sys2Proof.Claims

open Sys2Proof.Machine

theorem modStrand_at_sameMemory (s : State) (k : Fin 16) (f : Strand → Strand) (n : Nat) (a : Act) : SameMemory s ((s.modStrand k f).at n a) :=
  sameMemory_of rfl rfl rfl rfl

theorem called_sameMemory (s : State) : SameMemory s (called s) := by
  obtain ⟨mem, tags, fe, poison⟩ := planes_ext (congrArg State.planes (linked_only s).state :)
  exact sameMemory_of mem tags fe poison

/-- A call that spills counts the record and leaves the link register; the frame goes to the record, or the strand waits for it (R103, R104). -/
theorem callTo_spills {before s : State} {srcs : List Opd} (advance : advanceOk before s srcs = .ok ()) (last : s.st.res = 7)
    (few : s.st.spilledCount + 1 < 2 ^ 16) (run : s.st.run ≠ .frozen)
    (free : (s.st.reg s.st.link).full = true ∨ (s.st.reg s.st.link).bind = none) (target : Addr) :
    ∃ t, callTo before s srcs target = .ok t ∧ t.st.pc = target ∧ t.st.frm = (s.st.frm + 1) % 15 ∧ t.st.res = 7 ∧
      t.st.spilledCount = s.st.spilledCount + 1 ∧ t.st.reg s.st.link = s.st.returnReg ∧
      (recordBusy s s.cur s.st s.st.spilledCount = false →
        SameMemory (spillFrame (s.mod (·.setReg s.st.link s.st.returnReg)) s.cur s.st.spilledCount ((s.st.frm + 1) % 15 + 8)) t) ∧
      (recordBusy s s.cur s.st s.st.spilledCount = true → t.st.run = .stalled .windowStores ∧
        (s.now + 1, Act.windowSpill s.cur) ∈ t.agenda ∧ SameMemory s t) := by
  have owes := called_owes last few
  have busy := called_busy s s.st.spilledCount
  have strand : ((spillOwed (called s) s.cur).goto target).st = ((spillOwed (called s) s.cur).strand s.cur).jump target := by
    rw [goto_strand, State.st, spillOwed_cur, called_cur]
  have toSpill := spillOwed_idle (called s) s.cur
  have toWait := spillOwed_busy (called s) s.cur
  have waiting := spillOwed_busy_strand (called s) s.cur
  have ring := spillOwed_ring (called s) s.cur (j := ringIx s.st.frm 31)
  obtain ⟨frm, res, count⟩ := called_window last few (spillOwed_still (called s) s.cur)
  rw [owes, busy] at toSpill toWait waiting
  rw [called_now] at toWait
  rw [owes] at ring
  refine ⟨_, by rw [callTo_ok advance free, if_pos last], ?_⟩
  generalize spillOwed (called s) s.cur = u at *
  rw [strand]
  refine ⟨rfl, frm, res, count, ?link, fun idle => ?spills, fun waits => ⟨?run, ?agenda, ?memory⟩⟩
  case link =>
    rw [jump_reg]
    refine (ring fun i hi => groupIx_ne_link s.st.frm hi).trans ?_
    rw [called_strand_cur]
    exact (winCall_reg _ s.st.link).trans (Strand.setReg_reg_same _ _ _)
  case spills =>
    obtain ⟨mem, tags, fe, poison⟩ := planes_ext ((called_spillAlike s).spillFrame s.st.spilledCount ((s.st.frm + 1) % 15 + 8)).planes
    have spilled := sameMemory_of mem tags fe poison
    rw [toSpill idle]
    exact spilled.trans (goto_operandFrame _ target).1
  case run =>
    rw [waiting waits, called_strand_cur]
    exact owe_stalls run .spill
  case agenda =>
    rw [toWait waits, goto_agenda]
    exact State.mem_at _ _ _
  case memory =>
    rw [toWait waits]
    exact ((called_sameMemory s).trans (modStrand_at_sameMemory _ _ _ _ _)).trans (goto_operandFrame _ target).1

/-! ## A return past the last resident frame -/

/-- The window moved back and the PC at the return address, before the fill. -/
def returned (s : State) (target : Addr) : State := (s.mod winRet).goto target

theorem returned_strand (s : State) (target : Addr) : (returned s target).strand s.cur = (winRet s.st).jump target :=
  (goto_strand (s.mod winRet) target).trans (congrArg (·.jump target) (State.modStrand_strand_same s s.cur winRet))

theorem returned_sameMemory (s : State) (target : Addr) : SameMemory s (returned s target) := sameMemory_of rfl rfl rfl rfl

theorem exec_ret_fills {s : State} {x : Reg} (last : s.st.res = 1) (some : s.st.spilledCount ≠ 0) (read : readSrc s 15 false = .ok (x, s))
    (short : x.val.extractLsb' 43 21 = 0) (low : x.val.extractLsb' 0 2 = 0) (gate : loadGate s s [15] = .ok ())
    (sound : recordBusy s s.cur s.st (s.st.spilledCount - 1) = true ∨ recordPoison s s.st (s.st.spilledCount - 1) = none) :
    exec .ret s = .next (fillOwed (returned s (x.val.setWidth 43)) s.cur s.st.pc s.word) := by
  have clean : (if recordBusy s s.cur s.st (s.st.spilledCount - 1) = true then none else recordPoison s s.st (s.st.spilledCount - 1)) = none :=
    ite_eq_left_iff.mpr fun idle => sound.resolve_left idle
  show execRet s = _
  simp only [execRet, read, jumpTarget_ok short low, Res.ok_bind, last, decide_true, if_true, some, if_false, gate, clean]
  rfl

/-- WINSTATE and the PC of a strand after the return, whatever its fill has made of it. -/
theorem returned_window {s : State} {target : Addr} (last : s.st.res = 1) {x : Strand}
    (same : x.still = ((returned s target).strand s.cur).still) :
    x.pc = target ∧ x.frm = (s.st.frm + 14) % 15 ∧ x.res = 1 ∧ x.spilledCount = s.st.spilledCount - 1 := by
  rw [returned_strand] at same
  rw [Strand.frm, Strand.res, Strand.spilledCount, still_winstate same]
  exact ⟨still_pc same, winRet_frm s.st, (winRet_res s.st).trans (if_pos last), (winRet_spilledCount s.st).trans (if_pos last)⟩

theorem returned_owes {s : State} (last : s.st.res = 1) (target : Addr) :
    owedFill ((returned s target).strand s.cur) = (s.st.spilledCount - 1, (s.st.frm + 14) % 15) := by
  rw [returned_strand]
  exact congrArg₂ Prod.mk ((winRet_spilledCount s.st).trans (if_pos last)) (winRet_frm s.st)

theorem returned_busy (s : State) (target : Addr) (rec : Nat) :
    recordBusy (returned s target) s.cur ((returned s target).strand s.cur) rec = recordBusy s s.cur s.st rec := by
  rw [returned_strand]
  exact recordBusy_congr rfl rfl rfl rfl rfl s.cur rec

theorem returned_poison (s : State) (target : Addr) (rec : Nat) :
    recordPoison (returned s target) ((returned s target).strand s.cur) rec = recordPoison s s.st rec := by
  rw [returned_strand]
  exact recordPoison_congr rfl rfl rfl rec

section
variable {s : State} (last : s.st.res = 1) (target : Addr)
include last

/-- A return whose record an earlier access still covers waits for it (R104). -/
theorem fillOwed_waits (run : s.st.run ≠ .frozen) (busy : recordBusy s s.cur s.st (s.st.spilledCount - 1) = true) :
    let t := fillOwed (returned s target) s.cur s.st.pc s.word
    t.st.still = ((returned s target).strand s.cur).still ∧ SameMemory s t ∧ t.st.run = .stalled .windowStores ∧
      (s.now + 1, Act.windowFill s.cur) ∈ t.agenda := by
  have owed := fillOwed_busy (returned s target) s.cur
  rw [returned_owes last, returned_busy] at owed
  rw [owed busy s.st.pc s.word]
  intro t
  have strand : t.st = ((returned s target).strand s.cur).owe (.fill s.st.pc s.word) :=
    State.modStrand_strand_same (returned s target) s.cur (·.owe (.fill s.st.pc s.word))
  refine ⟨by rw [strand]; rfl, (returned_sameMemory s target).trans (modStrand_at_sameMemory _ _ _ _ _), ?_, State.mem_at _ _ _⟩
  rw [strand, returned_strand]
  exact owe_stalls (x := (winRet s.st).jump target) run _

/-- A return fills its frame from a record that nothing covers and nothing has poisoned (R103). -/
theorem fillOwed_fills (idle : recordBusy s s.cur s.st (s.st.spilledCount - 1) = false)
    (sound : recordPoison s s.st (s.st.spilledCount - 1) = none) :
    let t := fillOwed (returned s target) s.cur s.st.pc s.word
    t.st.still = ((returned s target).strand s.cur).still ∧ SameMemory s t ∧ (s.st.spilled = [] → ∀ i : Fin 16,
      t.st.ring[groupIx ((s.st.frm + 14) % 15) i.val] = loadedReg s (spillPa s s.st (s.st.spilledCount - 1) i.val)) := by
  have owed := fillOwed_idle (returned s target) s.cur
  rw [returned_owes last, returned_busy, returned_poison] at owed
  rw [owed idle sound s.st.pc s.word]
  have paid : ((returned s target).modStrand s.cur Strand.paid).strand s.cur = ((winRet s.st).jump target).paid := by
    rw [State.modStrand_strand_same, returned_strand]
  have memory : SameMemory s ((returned s target).modStrand s.cur Strand.paid) :=
    (returned_sameMemory s target).trans (sameMemory_of rfl rfl rfl rfl)
  have gcore : ((returned s target).modStrand s.cur Strand.paid).core.gcore = s.core.gcore := rfl
  have cur : ((returned s target).modStrand s.cur Strand.paid).cur = s.cur := rfl
  generalize (returned s target).modStrand s.cur Strand.paid = u at *
  intro t
  have strand : t.st = (fillFrame u s.cur (s.st.spilledCount - 1) ((s.st.frm + 14) % 15)).strand s.cur :=
    congrArg t.strand ((fillFrame_cur _ _ _ _).trans cur)
  refine ⟨?still, memory.trans (fillFrame_sameMemory _ _ _ _), fun unspilled i => ?filled⟩
  case still =>
    rw [strand, still_of_bare (fillFrame_bare _ _ _ _), paid, returned_strand]
    rfl
  case filled =>
    rw [strand, fillFrame_loaded (by rw [paid]; exact unspilled) _ _ i.isLt, memory.loadedReg, spillPa_congr gcore (x := s.st) (by rw [paid]; rfl)]

end

end Sys2Proof.Claims
end

section
/-! The claim about calls and returns (R102-R105, R331, R332). -/

namespace Sys2Proof.Claims

open Sys2Proof.Machine

/-- CALLR within the resident frames (R331). -/
theorem exec_callr_resident {s s1 : State} {a : Opd} {ta : Bool} {x : Reg} (few : s.st.res < 7) (legal : legalCode a = true)
    (read : readSrc s a ta = .ok (x, s1)) (short : x.val.extractLsb' 43 21 = 0) (low : x.val.extractLsb' 0 2 = 0)
    (free : (s1.st.reg s.st.link).full = true ∨ (s1.st.reg s.st.link).bind = none) :
    ∃ t, exec (.callr a ta) s = .next t ∧ t.st.pc = x.val.setWidth 43 ∧ t.st.frm = (s.st.frm + 1) % 15 ∧ t.st.res = s.st.res + 1 ∧
      t.st.reg s.st.link = s.st.returnReg ∧ OperandFrame s t (· = s.st.link) [a] := by
  have reads := readSrc_reads read
  have link := reads.only.link
  obtain ⟨t, calls, pc, frm, res, -, -, reg, frame⟩ := callTo_resident (before := s) (srcs := [a]) (s := s1) (by rw [reads.only.res]; exact few)
    (by rw [link]; exact free) (x.val.setWidth 43)
  rw [link] at reg frame
  refine ⟨t, by rw [exec_callr legal read short low, calls]; rfl, pc, reads.only.frm ▸ frm, reads.only.res ▸ res, reads.only.returnReg ▸ reg,
    (reads.frame.operands.trans frame).mono (fun _ => Or.rec False.elim id) fun _ => ?_⟩
  exact (List.append_nil [a] ▸ id)

/-- RET within the resident frames (R332). -/
theorem exec_ret_window {s s1 : State} {x : Reg} (more : 1 < s.st.res) (read : readSrc s 15 false = .ok (x, s1))
    (short : x.val.extractLsb' 43 21 = 0) (low : x.val.extractLsb' 0 2 = 0) :
    ∃ t, exec .ret s = .next t ∧ t.st.pc = x.val.setWidth 43 ∧ t.st.frm = (s.st.frm + 14) % 15 ∧ t.st.res = s.st.res - 1 ∧
      t.st.spilledCount = s.st.spilledCount ∧ OperandFrame s t toNone [] := by
  have reads := readSrc_reads read
  have many : s.st.res ≠ 1 := by omega
  have winstate : ((s1.mod winRet).goto (x.val.setWidth 43)).st.winstate = (winRet s.st).winstate := by
    have strand : (s1.mod winRet).st = winRet s1.st := State.modStrand_strand_same s1 s1.cur winRet
    rw [goto_strand, strand]
    exact congrArg (fun w => (winRet { s.st with winstate := w }).winstate) reads.only.winstate
  refine ⟨_, exec_ret_resident more read short low, by rw [goto_strand]; rfl, ?_, ?_, ?_, ?_⟩
  · rw [Strand.frm, winstate]
    exact winRet_frm s.st
  · rw [Strand.res, winstate]
    exact (winRet_res s.st).trans (if_neg many)
  · rw [Strand.spilledCount, winstate]
    exact (winRet_spilledCount s.st).trans (if_neg many)
  · have unqueued := (reads.frame.unqueued rfl).operands
    have moved := (mod_operandFrame s1 (winRet_reg s1.st)).trans (goto_operandFrame (s1.mod winRet) (x.val.setWidth 43))
    exact (unqueued.trans moved).mono (fun _ => Or.rec id (Or.rec id id)) fun _ => id

/-- A call, its sources read, is callTo. -/
theorem exec_calls {s s1 : State} {a : Opd} {ta : Bool} {off : BitVec 24} {i : Instr} {x : Reg} {pc : Addr}
    (h : i = .call off ∧ s1 = s ∧ pc = s.st.pc + 4 * off.signExtend 43 ∨
      i = .callr a ta ∧ legalCode a = true ∧ readSrc s a ta = .ok (x, s1) ∧ x.val.extractLsb' 43 21 = 0 ∧ x.val.extractLsb' 0 2 = 0 ∧
        pc = x.val.setWidth 43) :
    ∃ srcs, exec i s = finish s (callTo s s1 srcs pc) ∧ OperandsOnly s s1 ∧ SameMemory s s1 := by
  rcases h with ⟨rfl, rfl, rfl⟩ | ⟨rfl, legal, read, short, low, rfl⟩
  · exact ⟨[], exec_call s1 off, .refl s1, .refl s1⟩
  · have reads := readSrc_reads read
    exact ⟨[a], exec_callr legal read short low, reads.only, reads.frame.1⟩

/-- The return address of a full w15 that holds no handle is read as it stands. -/
theorem readSrc_w15 {s : State} (full : (s.st.reg (.ring (ringIx s.st.frm 15))).full = true)
    (unbound : (s.st.reg (.ring (ringIx s.st.frm 15))).bind = none) :
    readSrc s 15 false = .ok (s.st.reg (.ring (ringIx s.st.frm 15)), s) := by
  have loc : locOf s.st.frm 15 = some (.ring (ringIx s.st.frm 15)) := rfl
  have none : ∀ e, (s.st.reg (.ring (ringIx s.st.frm 15))).bind ≠ some (.handle e) := by rw [unbound]; exact nofun
  rw [readSrc_register loc full (.inl (holds_of_bind none)), firstRead_none fun e _ => none e, ← unbound]

/-- Settles O17: the window moves by the lemma of its case, within the resident frames or with a record; a record holds what was spilled, and a
fill brings it back. -/
theorem callsWindowsAndRecords : Obligations.CallsWindowsAndRecords := by
  refine ⟨⟨fun s s1 a ta x off few window => ⟨fun free => ?call, fun legal read short low free => ?callr⟩,
    fun s s1 x more window read short low => ?ret, fun s a ta off i x s1 pc call last window still after run room free => ?spills,
    fun s run last window some full unbound short low still fullHold sound => ?fills⟩,
    fun s k n f i wf core room => ?stored, fun s k n f i unspilled => ⟨fillFrame_loaded unspilled n f i.isLt, fillFrame_sameMemory s k n f⟩⟩
  case call =>
    obtain ⟨t, calls, pc, frm, res, count, loc, reg, memory, around, scalars⟩ := callTo_resident (before := s) (srcs := []) few free
      (s.st.pc + 4 * off.signExtend 43)
    exact ⟨t, by rw [exec_call, calls]; rfl, pc, frm, res, count, loc, reg, memory, around, scalars⟩
  case callr => exact exec_callr_resident few legal read short low free
  case ret => exact exec_ret_window more read short low
  case spills =>
    obtain ⟨srcs, eq, only, memory⟩ := exec_calls call
    have few : s.st.spilledCount + 1 < 2 ^ 16 := by
      have limit := fld_lt s.st.winbase 48 32
      unfold Strand.spilledCount
      omega
    have last' : s1.st.res = 7 := only.res.trans last
    have advance : advanceOk s s1 srcs = .ok () := advanceOk_last last' still after (by rw [only.winbase, only.spilledCount]; exact room)
    obtain ⟨t, calls, target, frm, res, count, reg, spills, waits⟩ := callTo_spills advance last' (by rw [only.spilledCount]; exact few)
      (by rw [only.run]; exact run) (by rw [only.link]; exact free) pc
    rw [only.cur, only.spilledCount, only.frm, only.link, only.returnReg] at spills
    rw [only.cur, only.spilledCount, only.now] at waits
    rw [only.frm] at frm
    rw [only.spilledCount] at count
    rw [only.link, only.returnReg] at reg
    refine ⟨t, _, by rw [eq, calls]; rfl, target, frm, res, count.trans (Nat.mod_eq_of_lt few).symm, reg, rfl, spills, fun busy => ?_⟩
    obtain ⟨stalled, agenda, kept⟩ := waits busy
    exact ⟨stalled, agenda, memory.trans kept⟩
  case fills =>
    have read := readSrc_w15 full unbound
    have gate : loadGate s s [15] = .ok () := by simp [loadGate, accessGate, still, fullHold]
    refine ⟨_, exec_ret_fills last some read short low gate sound, ?_⟩
    cases busy : recordBusy s s.cur s.st (s.st.spilledCount - 1) with
    | true =>
      obtain ⟨same, memory, stalled, agenda⟩ := fillOwed_waits last _ run busy
      obtain ⟨pc, frm, res, count⟩ := returned_window last same
      exact ⟨pc, frm, res, count, memory, fun _ => ⟨stalled, agenda⟩, fun idle => Bool.noConfusion (busy.symm.trans idle)⟩
    | false =>
      obtain ⟨same, memory, filled⟩ := fillOwed_fills last _ busy (sound.resolve_left (Bool.eq_false_iff.mp busy))
      obtain ⟨pc, frm, res, count⟩ := returned_window last same
      exact ⟨pc, frm, res, count, memory, fun waits => Bool.noConfusion (busy.symm.trans waits), fun _ => filled⟩
  case stored =>
    have reads := spillFrame_holds (f := f) wf core room i.isLt
    obtain ⟨value, rest⟩ := Prod.mk.inj reads
    obtain ⟨tag, bit⟩ := Prod.mk.inj rest
    exact ⟨value, tag, bit⟩

end Sys2Proof.Claims
end

section
/-! A handle taken and filled: the entry, the register bound to it, and lat (R110, R111, R114, R212). -/

namespace Sys2Proof.Machine

/-! ## What engines and tables touch -/

/-- A machine with its agenda, its free names, its completion table and its engines' commands as in another. -/
def State.withTables (s t : State) : State :=
  { s with agenda := t.agenda, fresh := t.fresh, ticket := t.ticket
           core := { s.core with table := t.core.table, tile := t.core.tile, copy := t.core.copy, memIntake := t.core.memIntake,
                                 xchgIntake := t.core.xchgIntake } }

/-- What an entry, an act or a command in an intake changes at most. -/
def TablesOnly (s t : State) : Prop := t = s.withTables t

theorem dropHandle_tablesOnly (s : State) (r : Reg) : TablesOnly s (dropHandle s r) := by
  unfold dropHandle
  split <;> rfl

theorem TablesOnly.trans {s t u : State} (h : TablesOnly s t) (g : TablesOnly t u) : TablesOnly s u :=
  Eq.trans (b := t.withTables u) g (congrArg (·.withTables u) h)

theorem TablesOnly.st {s t : State} (h : TablesOnly s t) : t.st = s.st := (congrArg State.st h :)
theorem TablesOnly.cur {s t : State} (h : TablesOnly s t) : t.cur = s.cur := (congrArg State.cur h :)

/-! ## The entry that is taken -/

/-- A code that a handle may go to names a register, and not lat (R111). -/
theorem locOf_handleCode {d : Opd} (h : handleCode d = true) (frm : Nat) : ∃ l, locOf frm d = some l ∧ l ≠ .lat := by
  have below : d.toNat < 40 := of_decide_eq_true h
  simp only [locOf, below, if_true]
  split
  · exact ⟨_, rfl, nofun⟩
  · split
    · exact ⟨_, rfl, nofun⟩
    · exact ⟨_, rfl, nofun⟩

theorem handleDest_ok {d : Opd} (h : handleCode d = true) : handleDest d = .ok () := by rw [handleDest, h]; rfl

theorem mem_freeEntries {s : State} {e : Fin 128} : e ∈ freeEntries s ↔ (s.core.table[e]).state = .free := by simp [freeEntries]

theorem freeEntry_of_pool {s : State} {e : Fin 128} (h : e ∈ entryPool s) : (s.core.table[e]).state = .free := by
  refine mem_freeEntries.mp ?_
  unfold entryPool at h
  dsimp only at h
  split at h
  · exact h
  · exact List.mem_of_mem_filter h

theorem entryPool_ne_nil {s : State} (free : freeEntries s ≠ []) : entryPool s ≠ [] := by
  unfold entryPool
  dsimp only
  split
  · exact free
  next h => exact fun none => h (by rw [none]; rfl)

theorem entryPool_nil {s : State} (none : freeEntries s = []) : entryPool s = [] := by
  unfold entryPool
  simp only [none]
  rfl

theorem getD_getElem?_mem {α : Type} {xs : List α} {x : α} (h : x ∈ xs) (n : Nat) : (xs[n]?).getD x ∈ xs := by
  cases at_ : xs[n]? with
  | none => exact h
  | some y => exact List.mem_of_getElem? at_

/-- The id of an entry: its generation and its number (R110). -/
theorem handleId_toNat (gen : BitVec 9) (e : Fin 128) : (handleId gen e).toNat = gen.toNat * 128 + e.val := by
  have number : (BitVec.ofNat 7 e.val).toNat = e.val := Nat.mod_eq_of_lt e.isLt
  have joined : (handleId gen e).toNat = gen.toNat <<< 7 ||| (BitVec.ofNat 7 e.val).toNat := BitVec.toNat_append ..
  rw [joined, number, ← Nat.shiftLeft_add_eq_or_of_lt e.isLt, Nat.shiftLeft_eq]

/-- A handle whose operation runs: its id and status 0xFF (R111). -/
def pendingId (gen : BitVec 9) (e : Fin 128) : Word := word (0xFF0000 + gen.toNat * 128 + e.val)

theorem handleId_status (gen : BitVec 9) (e : Fin 128) : (handleId gen e).zeroExtend 64 ||| 0xFF0000 = pendingId gen e := by
  have low := (handleId gen e).isLt
  have join : (handleId gen e).toNat ||| 0xFF0000 = 0xFF0000 + (handleId gen e).toNat := by
    rw [Nat.or_comm]
    exact (Nat.two_pow_add_eq_or_of_lt low 0xFF).symm
  apply BitVec.eq_of_toNat_eq
  rw [BitVec.toNat_or, BitVec.toNat_setWidth, Nat.mod_eq_of_lt (by omega), pendingId, word, BitVec.toNat_ofNat, Nat.add_assoc, ← handleId_toNat,
    Nat.mod_eq_of_lt (by omega)]
  exact join

/-- An entry taken for an operation of a strand (R110). -/
def CEntry.taken (en : CEntry) (k : Fin 16) (o : Owner) (strap : Bool) : CEntry :=
  { en with state := .pending, strand := k, owner := o, started := false, status := 0xFF, strap := strap, vdst := [], dead := false, wait := 0,
            ask := none, missed := false }

/-- A strand whose register waits for an entry, and whose lat holds the same value (R96, R111). -/
def Strand.awaits (x : Strand) (l : Loc) (e : Fin 128) (v : Word) : Strand :=
  (x.setReg l ⟨v, Tag.full, false, some (.handle e)⟩).setReg .lat (Reg.of v Tag.full)

theorem Strand.awaits_withOperands (x : Strand) (l : Loc) (e : Fin 128) (v : Word) : x.awaits l e v = x.withOperands (x.awaits l e v) := by
  cases l <;> rfl

/-- The machine in which an entry has been taken for a register. -/
def handleTaken (s : State) (l : Loc) (e : Fin 128) (o : Owner) (strap : Bool) : State :=
  let t := dropHandle { s with fresh := s.fresh + 1 } (s.st.reg l)
  (t.modEntry e (·.taken s.cur o strap)).mod (·.awaits l e (pendingId (t.core.table[e]).gen e))

section
variable {s : State} {d : Opd} {l : Loc} (loc : locOf s.st.frm d = some l) (o : Owner) (strap : Bool)
include loc

/-- A free entry is taken where D can take a handle. -/
theorem takeHandle_eq (free : freeEntries s ≠ []) : ∃ e : Fin 128, (s.core.table[e]).state = .free ∧
    takeHandle s d o strap = (destFree (s.st.reg l) d.toNat).map fun _ => (e, handleTaken s l e o strap) := by
  cases pool : entryPool s with
  | nil => exact absurd pool (entryPool_ne_nil free)
  | cons e0 es =>
    refine ⟨((e0 :: es)[Config.freeChoice s.fresh % (es.length + 1)]?).getD e0,
      freeEntry_of_pool (s := s) (by rw [pool]; exact getD_getElem?_mem List.mem_cons_self _), ?_⟩
    simp only [takeHandle, pool, loc, handleId_status]
    cases destFree (s.st.reg l) d.toNat <;> rfl

theorem takeHandle_takes (free : freeEntries s ≠ []) (taken : (s.st.reg l).full = true ∨ (s.st.reg l).bind = none) :
    ∃ e t, takeHandle s d o strap = .ok (e, t) := by
  obtain ⟨e, -, took⟩ := takeHandle_eq loc o strap free
  rw [destFree_free taken] at took
  exact ⟨e, _, took⟩

/-- What was taken was a free entry. -/
theorem takeHandle_taken {t : State} {h : Fin 128} (took : takeHandle s d o strap = .ok (h, t)) :
    (s.core.table[h]).state = .free ∧ t = handleTaken s l h o strap := by
  by_cases free : freeEntries s = []
  · simp only [takeHandle, entryPool_nil free] at took
    exact nomatch took
  · obtain ⟨e, isFree, eq⟩ := takeHandle_eq loc o strap free
    rw [took] at eq
    obtain ⟨-, -, same⟩ := Res.map_eq_ok.mp eq.symm
    obtain ⟨rfl, rfl⟩ := Prod.mk.inj same
    exact ⟨isFree, rfl⟩

end

section
variable (s : State) (l : Loc) (e : Fin 128) (o : Owner) (strap : Bool)

theorem handleTaken_entry :
    ((handleTaken s l e o strap).core.table[e]) = CEntry.taken ((dropHandle { s with fresh := s.fresh + 1 } (s.st.reg l)).core.table[e]) s.cur o strap :=
  Vector.getElem_set_self e.isLt

theorem handleTaken_strand : (handleTaken s l e o strap).st = s.st.awaits l e (pendingId ((handleTaken s l e o strap).core.table[e]).gen e) := by
  let t := dropHandle { s with fresh := s.fresh + 1 } (s.st.reg l)
  have tables : TablesOnly s t := Eq.trans (dropHandle_tablesOnly { s with fresh := s.fresh + 1 } (s.st.reg l)) rfl
  have strand : (handleTaken s l e o strap).st = t.st.awaits l e (pendingId (t.core.table[e]).gen e) :=
    State.modStrand_strand_same (t.modEntry e (·.taken s.cur o strap)) t.cur _
  rw [handleTaken_entry, strand, tables.st]
  rfl

/-- Taking a handle touches the registers, the completion table and the free names. -/
theorem handleTaken_only : OperandsOnly s (handleTaken s l e o strap) := by
  let t := dropHandle { s with fresh := s.fresh + 1 } (s.st.reg l)
  have named : OperandsOnly s { s with fresh := s.fresh + 1 } := ⟨rfl, rfl⟩
  have taken : OperandsOnly t (t.modEntry e (·.taken s.cur o strap)) := ⟨rfl, rfl⟩
  have bound := mod_operandsOnly (t.modEntry e (·.taken s.cur o strap)) (f := (·.awaits l e (pendingId (t.core.table[e]).gen e)))
    (Strand.awaits_withOperands _ l e _)
  exact ((named.trans (dropHandle_operandsOnly _ _)).trans taken).trans bound

end

theorem awaits_reg_same (x : Strand) {l : Loc} (h : l ≠ .lat) (e : Fin 128) (v : Word) :
    (x.awaits l e v).reg l = ⟨v, Tag.full, false, some (.handle e)⟩ :=
  (Strand.setReg_reg_other _ _ h).trans (Strand.setReg_reg_same _ _ _)

theorem awaits_reg_other (x : Strand) {l m : Loc} (e : Fin 128) (v : Word) (h : ¬ (m = .lat ∨ m = l)) : (x.awaits l e v).reg m = x.reg m := by
  obtain ⟨notLat, other⟩ := not_or.mp h
  exact (Strand.setReg_reg_other _ _ notLat).trans (Strand.setReg_reg_other _ _ other)

end Sys2Proof.Machine

namespace Sys2Proof.Claims

open Sys2Proof.Machine

theorem tablesOnly_frame {s t : State} (h : TablesOnly s t) (w : Loc → Prop) (cs : List Opd) : ScalarFrame s t w cs := by
  have strands : t.core.strands = s.core.strands := (congrArg (·.core.strands) h :)
  have queues : t.core.queues = s.core.queues := (congrArg (·.core.queues) h :)
  refine ⟨sameMemory_of (congrArg State.mem h :) (congrArg State.tags h :) (congrArg State.fe h :) (congrArg State.poison h :), ?around,
    by rw [h.st], by rw [h.st], by rw [h.st], fun l _ => by rw [h.st]; exact .refl _, fun q _ => by rw [queues]⟩
  exact ⟨(congrArg State.cur h :), (congrArg State.now h :), fun k _ => State.strand_congr strands k, (congrArg (·.core.acc) h :),
    (congrArg (·.core.bars) h :), (congrArg (·.core.agelim) h :), (congrArg (·.core.accmap) h :), (congrArg (·.core.ptroot) h :),
    (congrArg (·.core.fqcfg) h :), (congrArg State.clu h :), (congrArg State.die h :), (congrArg State.fab h :), (congrArg State.hbm h :),
    (congrArg State.hub h :)⟩

/-- Taking a handle changes the register it goes to, and lat (R96, R111). -/
theorem handleTaken_frame (s : State) (l : Loc) (e : Fin 128) (o : Owner) (strap : Bool) :
    ScalarFrame s (handleTaken s l e o strap) (fun m => m = .lat ∨ m = l) [] := by
  let t := dropHandle { s with fresh := s.fresh + 1 } (s.st.reg l)
  let u := t.modEntry e (·.taken s.cur o strap)
  have tables : TablesOnly s u := Eq.trans (b := (dropHandle { s with fresh := s.fresh + 1 } (s.st.reg l)).withTables u) rfl
    (Eq.trans (congrArg (·.withTables u) (dropHandle_tablesOnly { s with fresh := s.fresh + 1 } (s.st.reg l))) rfl)
  have registers := mod_frame u (·.awaits l e (pendingId (t.core.table[e]).gen e)) (fun m => m = .lat ∨ m = l)
    ((specials_setReg _ _ _).trans (specials_setReg _ _ _)) ((setReg_v _ _ _).trans (setReg_v _ _ _)) ((setReg_m _ _ _).trans (setReg_m _ _ _))
    fun m other => by rw [awaits_reg_other _ _ _ other]; exact .refl _
  exact ((tablesOnly_frame tables toNone []).trans registers).mono (fun _ => Or.rec False.elim id) fun _ => id

theorem takeHandle_frame {s t : State} {d : Opd} {o : Owner} {strap : Bool} {h : Fin 128} (code : handleCode d = true)
    (took : takeHandle s d o strap = .ok (h, t)) : OperandsOnly s t ∧ ScalarFrame s t (toDest s d) [] := by
  obtain ⟨l, loc, -⟩ := locOf_handleCode code s.st.frm
  obtain ⟨-, rfl⟩ := takeHandle_taken loc o strap took
  exact ⟨handleTaken_only s l h o strap, (handleTaken_frame s l h o strap).mono (fun m => Or.imp id fun same => by rw [same]; exact loc) fun _ => id⟩

/-- Where D is free and an entry is, a handle is taken (R110). -/
theorem takeHandle_completes {s : State} {d : Opd} (code : handleCode d = true) (dest : DestFree s d) (free : HandleFree s) (o : Owner) (strap : Bool) :
    ∃ h t, takeHandle s d o strap = .ok (h, t) := by
  obtain ⟨l, loc, -⟩ := locOf_handleCode code s.st.frm
  obtain ⟨-, registers, -⟩ := dest
  exact takeHandle_takes loc o strap free (registers l loc)

/-- The entry waits for its operation, D holds the id bound to it, and lat the same value full (R110, R111). -/
theorem takeHandle_binds {s t : State} {d : Opd} {o : Owner} {strap : Bool} {l : Loc} {h : Fin 128} (code : handleCode d = true)
    (loc : locOf s.st.frm d = some l) (took : takeHandle s d o strap = .ok (h, t)) :
    let v := pendingId (t.core.table[h]).gen h
    (s.core.table[h]).state = .free ∧ (t.core.table[h]).state = .pending ∧ (t.core.table[h]).owner = o ∧ (t.core.table[h]).strand = s.cur ∧
      t.st.reg l = ⟨v, Tag.full, false, some (.handle h)⟩ ∧ t.st.lat = ⟨v, Tag.full, true, none⟩ ∧ ScalarFrame s t (toDest s d) [] := by
  have notLat : l ≠ .lat := by
    obtain ⟨l', loc', notLat⟩ := locOf_handleCode code s.st.frm
    exact Option.some.inj (loc'.symm.trans loc) ▸ notLat
  obtain ⟨-, frame⟩ := takeHandle_frame code took
  obtain ⟨isFree, taken⟩ := takeHandle_taken loc o strap took
  have entry := handleTaken_entry s l h o strap
  have strand := handleTaken_strand s l h o strap
  rw [← taken] at entry strand
  intro v
  refine ⟨isFree, by rw [entry]; rfl, by rw [entry]; rfl, by rw [entry]; rfl, ?_, ?_, frame⟩
  · rw [strand]
    exact awaits_reg_same s.st notLat h v
  · rw [strand]
    rfl

end Sys2Proof.Claims
end

section
/-! A completion: its entry is filled, and the registers bound to it take the value (R111, R212, R269). -/

namespace Sys2Proof.Machine

/-- The endpoint of a CREL after its answer; other operations leave the endpoints alone (R58, R409). -/
def ended (s : State) (o : Owner) (status : BitVec 8) : State :=
  match o with
  | .crel ep => endCrel s ep status
  | _ => s

/-- What the end of an operation touches beside its entry and its strand. -/
def SendOnly (s t : State) : Prop := t = { s with core := { s.core with send := t.core.send } }

theorem ended_sendOnly (s : State) (o : Owner) (status : BitVec 8) : SendOnly s (ended s o status) := by
  cases o with
  | crel ep =>
    show SendOnly s (endCrel s ep status)
    unfold endCrel
    split
    · rfl
    · split <;> rfl
  | _ => rfl

theorem SendOnly.strand {s t : State} (h : SendOnly s t) (k : Fin 16) : t.strand k = s.strand k := (congrArg (·.strand k) h :)
theorem SendOnly.table {s t : State} (h : SendOnly s t) : t.core.table = s.core.table := (congrArg (·.core.table) h :)

/-- A strand whose registers bound to an entry take its value (R111). -/
def Strand.completed (x : Strand) (h : Fin 128) (v : Word) : Strand :=
  { x with w := vmap (·.complete h v) x.w, ring := vmap (·.complete h v) x.ring, o := vmap (·.complete h v) x.o }

theorem completed_reg (x : Strand) {l : Loc} (notLat : l ≠ .lat) (h : Fin 128) (v : Word) : (x.completed h v).reg l = (x.reg l).complete h v := by
  cases l with
  | lat => exact absurd rfl notLat
  | _ => simp only [Strand.reg, Strand.completed, vmap_getElem]

theorem complete_waiting {r : Reg} {h : Fin 128} (bind : r.bind = some (.handle h)) (empty : r.full = false) (v : Word) :
    r.complete h v = ⟨v, Tag.full, true, some (.handle h)⟩ := by
  simp [Reg.complete, bind, empty]

/-- The value of a completed handle: the payload, the detail, the status and the id (R111). -/
theorem handleValue_eq (en : CEntry) (h : Fin 128) (st : Completion) : handleValue en h st =
    word (st.hi.toNat * 2 ^ 32 + st.detail.toNat * 2 ^ 24 + st.status.toNat * 2 ^ 16 + en.gen.toNat * 128 + h.val) := by
  have id := (handleId en.gen h).isLt
  have status := st.status.isLt
  have detail := st.detail.isLt
  have hi := st.hi.isLt
  apply BitVec.eq_of_toNat_eq
  rw [handleValue, BitVec.toNat_append, BitVec.toNat_append, BitVec.toNat_append, ← Nat.shiftLeft_add_eq_or_of_lt id,
    ← Nat.shiftLeft_add_eq_or_of_lt status, ← Nat.shiftLeft_add_eq_or_of_lt detail, handleId_toNat]
  rw [handleId_toNat] at id
  simp only [Nat.shiftLeft_eq, word, BitVec.toNat_ofNat]
  omega

/-! ## What a completion leaves -/

theorem fillHandle_unspilled {s : State} {k : Fin 16} (unspilled : (s.strand k).spilled = []) (h : Fin 128) (v : Word) :
    fillHandle s k h v = s.modStrand k (·.completed h v) := by
  simp only [fillHandle, unspilled, List.filter_nil, List.foldl_nil]
  rfl

/-- A strand whose operation has ended: its registers bound to the entry, and its refresh cycles (R225). -/
def Strand.answered (x : Strand) (en : CEntry) (h : Fin 128) (st : Completion) : Strand :=
  ({ x with latcnt := x.latcnt + word en.wait } : Strand).completed h (handleValue en h st)

/-- An entry whose operation has ended. -/
def CEntry.ended (en : CEntry) (st : Completion) : CEntry := { en with state := .filled, status := st.status, vdst := [] }

/-- The machine after a completion that raises no trap. -/
def answered (s : State) (h : Fin 128) (st : Completion) : State :=
  let en := s.core.table[h]
  let t := (ended s en.owner st.status).modStrand en.strand fun x => { x with latcnt := x.latcnt + word en.wait }
  (t.modStrand en.strand (·.completed h (handleValue en h st))).modEntry h (·.ended st)

/-- A strand with a SINGULAR trap to take (R269). -/
def Strand.singularAt (x : Strand) (id : BitVec 16) : Strand := { x with singular := x.singular ++ [id] }

section
variable {s : State} {h : Fin 128} (st : Completion)

theorem answered_strand : (answered s h st).strand (s.core.table[h]).strand = (s.strand (s.core.table[h]).strand).answered (s.core.table[h]) h st := by
  let en := s.core.table[h]
  let t := (ended s en.owner st.status).modStrand en.strand fun x => { x with latcnt := x.latcnt + word en.wait }
  have filled : (answered s h st).strand en.strand = (t.strand en.strand).completed h (handleValue en h st) :=
    State.modStrand_strand_same t en.strand (·.completed h (handleValue en h st))
  rw [filled, State.modStrand_strand_same, (ended_sendOnly s en.owner st.status).strand]
  rfl

theorem answered_entry : (answered s h st).core.table[h] = (s.core.table[h]).ended st := by
  have entry : (answered s h st).core.table[h] = ((ended s (s.core.table[h]).owner st.status).core.table[h]).ended st := Vector.getElem_set_self h.isLt
  rw [entry, (ended_sendOnly s _ st.status).table]

theorem completeHandle_eq (pending : (s.core.table[h]).state = .pending) (alive : (s.core.table[h]).dead = false)
    (noVecs : (s.core.table[h]).vdst = []) (unspilled : (s.strand (s.core.table[h]).strand).spilled = []) :
    completeHandle s h st = if (s.core.table[h]).strap && st.status = 5
      then (answered s h st).modStrand (s.core.table[h]).strand (·.singularAt (handleId (s.core.table[h]).gen h)) else answered s h st := by
  let en := s.core.table[h]
  let t := (ended s en.owner st.status).modStrand en.strand fun x => { x with latcnt := x.latcnt + word en.wait }
  have unspilled' : (t.strand en.strand).spilled = [] := by
    rw [State.modStrand_strand_same, (ended_sendOnly s en.owner st.status).strand]
    exact unspilled
  have filled : (fillHandle t en.strand h (handleValue en h st)).modEntry h (·.ended st) = answered s h st :=
    congrArg (·.modEntry h (·.ended st)) (fillHandle_unspilled unspilled' h (handleValue en h st))
  have ends : completeHandle s h st = if en.state != .pending then s
      else
        let u := fillTileVecs (ended s en.owner st.status) en.strand en.vdst
        if en.dead then u.freeEntry h
        else
          let v := fillHandle (u.modStrand en.strand fun x => { x with latcnt := x.latcnt + word en.wait }) en.strand h (handleValue en h st)
          let w := v.modEntry h (·.ended st)
          if en.strap && st.status = 5 then w.modStrand en.strand (·.singularAt (handleId en.gen h)) else w := rfl
  have running : (en.state != .pending) = false := by rw [show en.state = .pending from pending]; rfl
  have noFills : fillTileVecs (ended s en.owner st.status) en.strand en.vdst = ended s en.owner st.status := by
    rw [show en.vdst = [] from noVecs]
    rfl
  rw [ends]
  simp only [running, noFills, show en.dead = false from alive, Bool.false_eq_true, if_false, ← filled]
  rfl

end

theorem exec_completion_busy {s : State} {h : Fin 128} (busy : hbmBusy s h = true) (st : Completion) :
    exec (.completion h st) s = .next (s.at (s.now + 1) (.completion h st)) := by
  show execCompletion h st s = _
  rw [execCompletion, if_pos busy]

theorem exec_completion_served {s : State} {h : Fin 128} (idle : hbmBusy s h = false) (pending : (s.core.table[h]).state = .pending)
    (st : Completion) : exec (.completion h st) s = .next (completeHandle s h st) := by
  show execCompletion h st s = _
  rw [execCompletion, idle, if_neg Bool.false_ne_true, if_pos pending]

end Sys2Proof.Machine

namespace Sys2Proof.Claims

open Sys2Proof.Machine

theorem strandEntry_sameMemory (s : State) (k : Fin 16) (f g : Strand → Strand) (h : Fin 128) (e : CEntry → CEntry) :
    SameMemory s (((s.modStrand k f).modStrand k g).modEntry h e) := sameMemory_of rfl rfl rfl rfl

theorem answered_sameMemory (s : State) (h : Fin 128) (st : Completion) : SameMemory s (answered s h st) := by
  have ends := ended_sendOnly s (s.core.table[h]).owner st.status
  have before : SameMemory s (ended s (s.core.table[h]).owner st.status) :=
    sameMemory_of (congrArg State.mem ends :) (congrArg State.tags ends :) (congrArg State.fe ends :) (congrArg State.poison ends :)
  exact before.trans (strandEntry_sameMemory _ _ _ _ _ _)

/-- The completion of an operation fills its entry and the registers bound to it (R111), with a trap for SINGULAR under STRAP (R269). -/
theorem completeHandle_fills {s : State} {h : Fin 128} (st : Completion) {l : Loc} (pending : (s.core.table[h]).state = .pending)
    (alive : (s.core.table[h]).dead = false) (noVecs : (s.core.table[h]).vdst = []) (unspilled : (s.strand (s.core.table[h]).strand).spilled = [])
    (notLat : l ≠ .lat) :
    let t := completeHandle s h st
    let k := (s.core.table[h]).strand
    t.core.table[h] = (s.core.table[h]).ended st ∧ SameMemory s t ∧
      (t.strand k).reg l = ((s.strand k).reg l).complete h (handleValue (s.core.table[h]) h st) ∧
      ((s.core.table[h]).strap = true → st.status = 5 → (t.strand k).singular ≠ []) := by
  have entry := answered_entry (s := s) (h := h) st
  have strand := answered_strand (s := s) (h := h) st
  have memory := answered_sameMemory s h st
  have register : ((answered s h st).strand (s.core.table[h]).strand).reg l =
      ((s.strand (s.core.table[h]).strand).reg l).complete h (handleValue (s.core.table[h]) h st) := by
    rw [strand]
    refine (completed_reg _ notLat _ _).trans ?_
    cases l <;> rfl
  intro t k
  have final : t = _ := completeHandle_eq st pending alive noVecs unspilled
  generalize answered s h st = u at *
  rw [final]
  split
  · have trapped : ((u.modStrand k (·.singularAt (handleId (s.core.table[h]).gen h))).strand k) =
        (u.strand k).singularAt (handleId (s.core.table[h]).gen h) := State.modStrand_strand_same u k _
    refine ⟨entry, memory.trans (sameMemory_of rfl rfl rfl rfl), ?_, fun _ _ => ?_⟩
    · rw [trapped, ← register]
      cases l <;> rfl
    · rw [trapped]
      exact List.append_ne_nil_of_right_ne_nil _ (List.cons_ne_nil _ _)
  next plain => exact ⟨entry, memory, register, fun strap singular => absurd (Bool.and_eq_true_iff.mpr ⟨strap, decide_eq_true singular⟩) plain⟩

end Sys2Proof.Claims
end

section
/-! The words of a command, and a command handed to its engine (R302-R305, R400, R413, R419). -/

namespace Sys2Proof.Machine

/-! ## The words of a command -/

/-- A word of a command: as it stands in the vector register where the operand is zr, else what the operand reads (R305). -/
def commandSrc (s : State) (c : Opd) (w : Word) : Res (Reg × State) :=
  if c.toNat = codeZr then .ok (Reg.of w Tag.full, s) else readSrc s c false

theorem commandWords_def (s : State) (vc : BitVec 4) (a b : Opd) : commandWords s vc a b = (do
    checkCodes [(1, a), (2, b)]
    let l ← readVec s (vc.setWidth 5)
    let x ← commandSrc s a (l.bits.extractLsb' 64 64)
    let y ← commandSrc x.2 b (l.bits.extractLsb' 128 64)
    .ok (#v[l.bits.extractLsb' 0 64, x.1.val, y.1.val, l.bits.extractLsb' 192 64], y.2)) := by
  unfold commandWords commandSrc
  by_cases za : a.toNat = codeZr <;> by_cases zb : b.toNat = codeZr <;> simp only [za, zb, if_true, if_false]

theorem commandSrc_zr (s : State) (w : Word) : commandSrc s 49 w = .ok (Reg.of w Tag.full, s) := rfl

theorem commandSrc_read {c : Opd} (h : c ≠ 49) (s : State) (w : Word) : commandSrc s c w = readSrc s c false :=
  if_neg fun zr => h (BitVec.eq_of_toNat_eq zr)

theorem commandWords_of {s s1 s2 : State} {vc : BitVec 4} {a b : Opd} {l : Lanes} {x y : Reg} (legalA : legalCode a = true)
    (legalB : legalCode b = true) (vec : readVec s (vc.setWidth 5) = .ok l) (first : commandSrc s a (l.bits.extractLsb' 64 64) = .ok (x, s1))
    (second : commandSrc s1 b (l.bits.extractLsb' 128 64) = .ok (y, s2)) :
    commandWords s vc a b = .ok (#v[l.bits.extractLsb' 0 64, x.val, y.val, l.bits.extractLsb' 192 64], s2) := by
  have legal : checkCodes [(1, a), (2, b)] = .ok () := by simp [checkCodes_ok, legalA, legalB]
  rw [commandWords_def]
  simp only [legal, vec, first, second, Res.ok_bind]

theorem readVec_full {s : State} {n : VIdx} (full : (s.st.v[n.toFin]).full = true) : readVec s n = .ok (s.st.v[n.toFin]).lanes := if_pos full

/-! ## Vector registers marked for a fill -/

/-- What marking vector destinations touches. -/
structure VecsOnly (s t : State) : Prop where
  state : t = { s with core := { s.core with strands := t.core.strands } }
  strand : t.st = { s.st with v := t.st.v }
  others : ∀ k, k ≠ s.cur → t.strand k = s.strand k

namespace VecsOnly

theorem refl (s : State) : VecsOnly s s := ⟨rfl, rfl, fun _ _ => rfl⟩

variable {s t u : State} (h : VecsOnly s t)
include h

theorem cur : t.cur = s.cur := (congrArg State.cur h.state :)
theorem table : t.core.table = s.core.table := (congrArg (·.core.table) h.state :)
theorem queues : t.core.queues = s.core.queues := (congrArg (·.core.queues) h.state :)
theorem reg (l : Loc) : t.st.reg l = s.st.reg l := (congrArg (·.reg l) h.strand).trans (by cases l <;> rfl)

theorem trans (g : VecsOnly t u) : VecsOnly s u :=
  ⟨g.state.trans (congrArg (fun x => { x with core := { x.core with strands := u.core.strands } }) h.state),
    g.strand.trans (congrArg (fun x => { x with v := u.st.v }) h.strand),
    fun k other => (g.others k (h.cur ▸ other)).trans (h.others k other)⟩

theorem operands : OperandsOnly s t :=
  ⟨h.state.trans (congrArg s.withOperands h.state).symm, h.strand.trans (congrArg s.st.withOperands h.strand).symm⟩

end VecsOnly

theorem setVec_only (s : State) (n : VIdx) (r : VReg) : VecsOnly s (setVec s n r) := by
  let f : Strand → Strand := fun x => { x with v := x.v.set n.toFin r }
  have strand : (setVec s n r).st = f s.st := State.modStrand_strand_same s s.cur f
  exact ⟨rfl, by rw [strand], fun k other => State.modStrand_strand_other s f other⟩

theorem setVec_other (s : State) {n : VIdx} {m : Fin 32} (r : VReg) (h : m ≠ n.toFin) : (setVec s n r).st.v[m] = s.st.v[m] := by
  have set : (setVec s n r).st.v = s.st.v.set n.toFin r :=
    (congrArg Strand.v (State.modStrand_strand_same s s.cur fun x => { x with v := x.v.set n.toFin r }) :)
  rw [set]
  exact Vector.getElem_set_ne n.toFin.isLt m.isLt fun same => h (Fin.ext same.symm)

theorem writeVecPending_full {s : State} {n : VIdx} (full : (s.st.v[n.toFin]).full = true) (ticket : Nat) :
    writeVecPending s n ticket = .ok (setVec s n ⟨(s.st.v[n.toFin]).lanes, false, some ticket⟩) := by
  have free : vecFree s n = .ok () := by simp only [vecFree, full, Bool.not_true, Bool.false_and, Bool.false_eq_true, if_false]
  simp only [writeVecPending, free, Res.ok_bind]

theorem writeVecPending_only {s t : State} {n : VIdx} {ticket : Nat} (h : writeVecPending s n ticket = .ok t) : VecsOnly s t := by
  obtain ⟨-, -, same⟩ := Res.bind_eq_ok.mp h
  rw [← Except.ok.inj same]
  exact setVec_only s n _

theorem pendVecs_only {vs : List (Fin 32)} {s u : State} {ticket : Nat} {vd : List (Fin 32 × Nat × Lanes)}
    (h : pendVecs s ticket vs = .ok (u, vd)) : VecsOnly s u := by
  induction vs generalizing s ticket u vd with
  | nil =>
    obtain ⟨rfl, -⟩ := Prod.mk.inj (Except.ok.inj h)
    exact .refl s
  | cons v vs ih =>
    obtain ⟨t, pended, rest⟩ := Res.bind_eq_ok.mp h
    obtain ⟨⟨u', vd'⟩, marked, same⟩ := Res.bind_eq_ok.mp rest
    obtain ⟨rfl, -⟩ := Prod.mk.inj (Except.ok.inj same)
    exact (writeVecPending_only pended).trans (ih marked)

/-- Full destinations, each named once, are marked (R100, R419). -/
theorem pendVecs_full {vs : List (Fin 32)} {s : State} (once : vs.Nodup) (full : ∀ v ∈ vs, (s.st.v[v]).full = true) (ticket : Nat) :
    ∃ u vd, pendVecs s ticket vs = .ok (u, vd) := by
  induction vs generalizing s ticket with
  | nil => exact ⟨s, [], rfl⟩
  | cons v vs ih =>
    obtain ⟨new, once⟩ := List.nodup_cons.mp once
    have written := writeVecPending_full (n := BitVec.ofFin v) (full v List.mem_cons_self) ticket
    obtain ⟨u, vd, marked⟩ := ih once (s := setVec s (BitVec.ofFin v) ⟨(s.st.v[v]).lanes, false, some ticket⟩)
      (fun w hw => by
        rw [setVec_other s (n := BitVec.ofFin v) _ fun same : w = v => new (same ▸ hw)]
        exact full w (List.mem_cons_of_mem v hw)) (ticket + 1)
    refine ⟨u, (v, ticket, (s.st.v[v]).lanes) :: vd, ?_⟩
    simp only [pendVecs, written, Res.ok_bind]
    exact congrArg (·.map fun r => (r.1, (v, ticket, (s.st.v[v]).lanes) :: r.2)) marked

theorem readVecs_full {vs : List (Fin 32)} {s : State} (full : ∀ v ∈ vs, (s.st.v[v]).full = true) : ∃ ls, readVecs s vs = .ok ls := by
  induction vs with
  | nil => exact ⟨[], rfl⟩
  | cons v vs ih =>
    obtain ⟨ls, rest⟩ := ih fun w hw => full w (List.mem_cons_of_mem v hw)
    have first : readVec s (BitVec.ofFin v) = .ok (s.st.v[v]).lanes := readVec_full (full v List.mem_cons_self)
    exact ⟨(s.st.v[v]).lanes :: ls, by simp only [readVecs, first, rest, Res.ok_bind]⟩

theorem tileWrites_nodup (c : EngCmd) : (tileWrites c).Nodup := by
  unfold tileWrites
  dsimp only
  split
  · refine List.Nodup.map_on (fun i hi j hj same => ?_) List.nodup_range
    have hi := List.mem_range.mp hi
    have hj := List.mem_range.mp hj
    have same := congrArg Fin.val same
    dsimp only at same
    omega
  · exact List.nodup_nil

end Sys2Proof.Machine

namespace Sys2Proof.Claims

open Sys2Proof.Machine

/-! ## The words of a command are there -/

theorem commandSrc_reads {s t : State} {c : Opd} {w : Word} {r : Reg} (h : commandSrc s c w = .ok (r, t)) : Reads s t [c] := by
  by_cases zr : c = 49
  · subst zr
    obtain ⟨-, rfl⟩ := Prod.mk.inj (Except.ok.inj h)
    exact .refl s _
  · rw [commandSrc_read zr] at h
    exact readSrc_reads h

theorem commandSrc_completes {s : State} {c : Opd} {cs : List Opd} (full : SourcesFull s (c :: cs)) (w : Word) :
    ∃ r t, commandSrc s c w = .ok (r, t) ∧ SourcesFull t cs := by
  by_cases zr : c = 49
  · subst zr
    exact ⟨_, s, commandSrc_zr s w, full.rest (readSrc_none (s := s) (c := 49) rfl rfl false)⟩
  · obtain ⟨r, t, read⟩ := full.first false
    exact ⟨r, t, (commandSrc_read zr s w).trans read, full.rest read⟩

theorem commandWords_reads {s s1 : State} {vc : BitVec 4} {a b : Opd} {ws : Vector Word 4} (h : commandWords s vc a b = .ok (ws, s1)) :
    Reads s s1 [a, b] := by
  rw [commandWords_def] at h
  obtain ⟨-, -, h⟩ := Res.bind_eq_ok.mp h
  obtain ⟨l, -, h⟩ := Res.bind_eq_ok.mp h
  obtain ⟨⟨x, t⟩, first, h⟩ := Res.bind_eq_ok.mp h
  obtain ⟨⟨y, u⟩, second, h⟩ := Res.bind_eq_ok.mp h
  obtain ⟨-, rfl⟩ := Prod.mk.inj (Except.ok.inj h)
  exact (commandSrc_reads first).trans (commandSrc_reads second)

theorem commandWords_completes {s : State} {a b : Opd} {vc : BitVec 4} (full : SourcesFull s [a, b])
    (vec : (s.st.v[(vc.setWidth 5 : VIdx).toFin]).full = true) : ∃ ws s1, commandWords s vc a b = .ok (ws, s1) := by
  have ⟨_, legal, _⟩ := full
  let l := (s.st.v[(vc.setWidth 5 : VIdx).toFin]).lanes
  obtain ⟨x, s1, first, rest⟩ := commandSrc_completes full (l.bits.extractLsb' 64 64)
  obtain ⟨y, s2, second, -⟩ := commandSrc_completes rest (l.bits.extractLsb' 128 64)
  exact ⟨_, s2, commandWords_of (legal a List.mem_cons_self).1 (legal b (List.mem_cons_of_mem a List.mem_cons_self)).1 (readVec_full vec) first second⟩

/-! ## An operation under its handle -/

theorem vecsOnly_frame {s t : State} (h : VecsOnly s t) : OperandFrame s t toNone [] := by
  refine ⟨sameMemory_of (congrArg State.mem h.state :) (congrArg State.tags h.state :) (congrArg State.fe h.state :) (congrArg State.poison h.state :),
    ?around, fun l _ => by rw [h.reg]; exact .refl _, fun q _ => by rw [h.queues]⟩
  exact ⟨h.cur, (congrArg State.now h.state :), h.others, (congrArg (·.core.acc) h.state :), (congrArg (·.core.bars) h.state :),
    (congrArg (·.core.agelim) h.state :), (congrArg (·.core.accmap) h.state :), (congrArg (·.core.ptroot) h.state :),
    (congrArg (·.core.fqcfg) h.state :), (congrArg State.clu h.state :), (congrArg State.die h.state :), (congrArg State.fab h.state :),
    (congrArg State.hbm h.state :), (congrArg State.hub h.state :)⟩

/-- A machine in which an instruction has read its sources and marked its vector destinations. -/
structure Sourced (s u : State) (cs : List Opd) : Prop where
  only : OperandsOnly s u
  frame : OperandFrame s u toNone cs
  free : ∀ l, (s.st.reg l).full = true ∨ (s.st.reg l).bind = none → (u.st.reg l).full = true ∨ (u.st.reg l).bind = none
  handle : HandleFree s → HandleFree u

theorem Reads.sourced {s t : State} {cs : List Opd} (h : Reads s t cs) : Sourced s t cs := ⟨h.only, h.frame.operands, fun _ => h.registerFree, h.handleFree⟩

theorem Sourced.ticket {s t : State} {cs : List Opd} (h : Sourced s t cs) (n : Nat) : Sourced s { t with ticket := n } cs := by
  have tables : TablesOnly t { t with ticket := n } := rfl
  exact ⟨h.only.trans ⟨rfl, rfl⟩, (h.frame.trans (tablesOnly_frame tables toNone []).operands).mono (fun _ => Or.rec id id) (by simp), h.free, h.handle⟩

theorem Sourced.marked {s t u : State} {cs : List Opd} (h : Sourced s t cs) (g : VecsOnly t u) : Sourced s u cs := by
  refine ⟨h.only.trans g.operands, (h.frame.trans (vecsOnly_frame g)).mono (fun _ => Or.rec id id) (by simp), fun l free => ?_, fun free => ?_⟩
  · rw [g.reg]
    exact h.free l free
  · have kept := h.handle free
    unfold HandleFree freeEntries at *
    rwa [g.table]

theorem Sourced.takes {s u : State} {d : Opd} {cs : List Opd} (h : Sourced s u cs) (code : handleCode d = true) (dest : DestFree s d)
    (free : HandleFree s) (o : Owner) (strap : Bool) : ∃ e t, takeHandle u d o strap = .ok (e, t) := by
  obtain ⟨l, loc, -⟩ := locOf_handleCode code s.st.frm
  obtain ⟨-, registers, -⟩ := dest
  exact takeHandle_takes (h.only.frm ▸ loc) o strap (h.handle free) (h.free l (registers l loc))

/-- A machine in which an instruction has also taken its handle. -/
structure Issued (s t : State) (d : Opd) (cs : List Opd) : Prop where
  only : OperandsOnly s t
  frame : OperandFrame s t (toDest s d) cs

theorem Sourced.issued {s u t : State} {d : Opd} {cs : List Opd} {o : Owner} {strap : Bool} {h : Fin 128} (sourced : Sourced s u cs)
    (code : handleCode d = true) (took : takeHandle u d o strap = .ok (h, t)) : Issued s t d cs := by
  obtain ⟨only, frame⟩ := takeHandle_frame code took
  refine ⟨sourced.only.trans only, (sourced.frame.trans frame.operands).mono (fun l written => ?_) (by simp)⟩
  rcases written with none | isLat | named
  · exact none.elim
  · exact .inl isLat
  · exact .inr (sourced.only.frm ▸ named)

/-- The end of an instruction that has put its command where its engine finds it. -/
theorem Issued.retires {s t u : State} {d : Opd} {cs : List Opd} (h : Issued s t d cs) (put : TablesOnly t u) :
    (retire u).st.pc = s.st.pc + 4 ∧ SameMemory s (retire u) ∧ SameScalars s (retire u) (toDest s d) cs := by
  have frame : OperandFrame s (retire u) _ _ := (h.frame.trans (tablesOnly_frame put toNone []).operands).trans (retire_frame u).operands
  obtain ⟨memory, -, scalars⟩ := frame.mono (w' := toDest s d) (cs' := cs) (fun l => Or.rec (Or.rec id False.elim) False.elim) (by simp)
  refine ⟨?_, memory, scalars⟩
  rw [retire_pc, put.st, h.only.pc]

end Sys2Proof.Claims
end

section
/-! ISSUE: a command goes to the intake of its engine under a fresh handle (R400, R413, R495, R497). -/

namespace Sys2Proof.Machine

/-! ## The copy, memory and exchange engines -/

section
variable {s s1 t : State} {d a b : Opd} {vc : BitVec 4} {ws : Vector Word 4} {h : Fin 128} {eng : BitVec 2} {o : Owner}
  (code : handleCode d = true) (words : commandWords s vc a b = .ok (ws, s1))
  (allowed : (if eng = 1 then credEndpoint s (rawCommand s ws) else .ok ()) = .ok ())
include code words allowed

theorem issueTo_ok (took : takeHandle { s1 with ticket := s1.ticket + 1 } d o false = .ok (h, t)) (put : Core → EngCmd → Core)
    (delay : State → EngCmd → State) : issueTo s d vc a b eng o false put delay =
      .ok (retire (delay (t.withCore (put · { rawCommand s ws with handle := h })) { rawCommand s ws with handle := h })) := by
  simp only [issueTo, handleDest_ok code, words, allowed, took, Res.ok_bind, Bool.false_eq_true, if_false]

theorem issueTo_full (put : Core → EngCmd → Core) (delay : State → EngCmd → State) :
    issueTo s d vc a b eng o true put delay = .error (.stall (.intakeFull eng)) := by
  simp only [issueTo, handleDest_ok code, words, allowed, Res.ok_bind, if_true]
  rfl

end

end Sys2Proof.Machine

namespace Sys2Proof.Claims

open Sys2Proof.Machine

section
variable {s s1 t : State} {d a b : Opd} {vc : BitVec 4} {ws : Vector Word 4} {h : Fin 128} (code : handleCode d = true)
  (words : commandWords s vc a b = .ok (ws, s1))
include code words

/-- A copy command is taken at the next cycle. -/
theorem issueCopy_takes (cred : credEndpoint s (rawCommand s ws) = .ok ()) (room : copyHeld s < 96)
    (took : takeHandle { s1 with ticket := s1.ticket + 1 } d .copy false = .ok (h, t)) :
    ∃ v, exec (.issueCopy d vc a b) s = .next v ∧ v.st.pc = s.st.pc + 4 ∧
      v.core.copy.intake = s.core.copy.intake ++ [{ rawCommand s ws with handle := h }] ∧
      (s.now + 1, Act.command { rawCommand s ws with handle := h }) ∈ v.agenda ∧ SameMemory s v ∧ SameScalars s v (toDest s d) [a, b] := by
  let c : EngCmd := { rawCommand s ws with handle := h }
  have issued : Issued s t d [a, b] := ((commandWords_reads words).sourced.ticket _).issued code took
  let u := t.withCore fun k => { k with copy := { k.copy with intake := k.copy.intake ++ [c] } }
  obtain ⟨pc, memory, scalars⟩ := issued.retires (u := u.at (u.now + 1) (.command c)) rfl
  have short : decide (96 ≤ copyHeld s) = false := decide_eq_false (Nat.not_le.mpr room)
  refine ⟨retire (u.at (u.now + 1) (.command c)), ?runs, pc, ?intake, ?agenda, memory, scalars⟩
  case runs =>
    show execIssueCopy d vc a b s = _
    rw [execIssueCopy, short, issueTo_ok code words ((if_pos rfl).trans cred) took]
    rfl
  case intake =>
    rw [← issued.only.copy]
    rfl
  case agenda =>
    rw [← issued.only.now]
    exact State.mem_at u (u.now + 1) (.command c)

/-- A full copy intake stalls. -/
theorem issueCopy_full (cred : credEndpoint s (rawCommand s ws) = .ok ()) (full : 96 ≤ copyHeld s) :
    exec (.issueCopy d vc a b) s = .next (s.setRun s.cur (.stalled (.intakeFull 1))) := by
  show execIssueCopy d vc a b s = _
  rw [execIssueCopy, decide_eq_true full, issueTo_full code words ((if_pos rfl).trans cred)]
  rfl

/-- A command of the memory engine is taken later. -/
theorem issueMem_takes (room : s.core.memIntake.length < 8) (took : takeHandle { s1 with ticket := s1.ticket + 1 } d .mem false = .ok (h, t)) :
    ∃ v n, exec (.issueMem d vc a b) s = .next v ∧ v.st.pc = s.st.pc + 4 ∧
      v.core.memIntake = s.core.memIntake ++ [{ rawCommand s ws with handle := h }] ∧ s.now < n ∧
      (n, Act.command { rawCommand s ws with handle := h }) ∈ v.agenda ∧ SameMemory s v ∧ SameScalars s v (toDest s d) [a, b] := by
  let c : EngCmd := { rawCommand s ws with handle := h }
  have issued : Issued s t d [a, b] := ((commandWords_reads words).sourced.ticket _).issued code took
  let u := t.withCore fun k => { k with memIntake := k.memIntake ++ [c] }
  obtain ⟨pc, memory, scalars⟩ := issued.retires (u := u.later none (.command c)) rfl
  obtain ⟨n, later, agenda⟩ := State.mem_later u none (.command c)
  have short : decide (8 ≤ s.core.memIntake.length) = false := decide_eq_false (Nat.not_le.mpr room)
  refine ⟨retire (u.later none (.command c)), n, ?runs, pc, ?intake, issued.only.now ▸ later, agenda, memory, scalars⟩
  case runs =>
    show execIssueMem d vc a b s = _
    rw [execIssueMem, short, issueTo_ok code words (if_neg (by decide)) took]
    rfl
  case intake =>
    rw [← issued.only.memIntake]
    rfl

/-- A command of the exchange engine is taken later. -/
theorem issueXchg_takes (room : s.core.xchgIntake.length < 8)
    (took : takeHandle { s1 with ticket := s1.ticket + 1 } d .xchg false = .ok (h, t)) :
    ∃ v n, exec (.issueXchg d vc a b) s = .next v ∧ v.st.pc = s.st.pc + 4 ∧
      v.core.xchgIntake = s.core.xchgIntake ++ [{ rawCommand s ws with handle := h }] ∧ s.now < n ∧
      (n, Act.command { rawCommand s ws with handle := h }) ∈ v.agenda ∧ SameMemory s v ∧ SameScalars s v (toDest s d) [a, b] := by
  let c : EngCmd := { rawCommand s ws with handle := h }
  have issued : Issued s t d [a, b] := ((commandWords_reads words).sourced.ticket _).issued code took
  let u := t.withCore fun k => { k with xchgIntake := k.xchgIntake ++ [c] }
  obtain ⟨pc, memory, scalars⟩ := issued.retires (u := u.later none (.command c)) rfl
  obtain ⟨n, later, agenda⟩ := State.mem_later u none (.command c)
  have short : decide (8 ≤ s.core.xchgIntake.length) = false := decide_eq_false (Nat.not_le.mpr room)
  refine ⟨retire (u.later none (.command c)), n, ?runs, pc, ?intake, issued.only.now ▸ later, agenda, memory, scalars⟩
  case runs =>
    show execIssueXchg d vc a b s = _
    rw [execIssueXchg, short, issueTo_ok code words (if_neg (by decide)) took]
    rfl
  case intake =>
    rw [← issued.only.xchgIntake]
    rfl

/-! ## The tile engine -/

/-- A tile of another strand is TILE (R495). -/
theorem issueTile_unowned {vin : List Lanes} {n : Nat} (read : readVecs s1 (tileReads (rawCommand s ws)) = .ok vin)
    (foreign : unowned s (rawCommand s ws) = some n) :
    exec (.issueTile d vc a b) s = .next (freeze s s.cur 0x0B false s.st.pc 0 (word n) s.word) := by
  show execIssueTile d vc a b s = _
  simp only [execIssueTile, handleDest_ok code, words, read, foreign, Res.ok_bind]
  rfl

/-- A command waits for the front end, under its handle and with its vector destinations (R413, R419). -/
def tileQueued (s t : State) (vd : List (Fin 32 × Nat × Lanes)) (c : EngCmd) : State :=
  ((t.modEntry c.handle fun e => { e with vdst := vd }).withCore fun k =>
    { k with tile := { k.tile with pend := k.tile.pend ++ [(c, s.now)] } }).at (s.now + 1) .tileFrontEndAccept

/-- A tile command goes to the front end, which accepts it later. -/
theorem issueTile_takes {vin : List Lanes} {u : State} {vd : List (Fin 32 × Nat × Lanes)}
    (read : readVecs s1 (tileReads (rawCommand s ws)) = .ok vin) (owned : unowned s (rawCommand s ws) = none)
    (alone : ∀ p ∈ s.core.tile.pend, p.1.strand ≠ s.cur)
    (marked : pendVecs { s1 with ticket := s1.ticket + 3 } (s1.ticket + 1) (tileWrites (rawCommand s ws)) = .ok (u, vd))
    (took : takeHandle u d .tile (cmdStrap (rawCommand s ws)) = .ok (h, t)) :
    ∃ v, exec (.issueTile d vc a b) s = .next v ∧ v.st.pc = s.st.pc + 4 ∧
      v.core.tile.pend = s.core.tile.pend ++ [({ rawCommand s ws with handle := h, vin := vin }, s.now)] ∧
      (s.now + 1, Act.tileFrontEndAccept) ∈ v.agenda ∧ v.st.lat = t.st.lat ∧ SameMemory s v ∧ SameScalars s v (toDest s d) [a, b] := by
  let c : EngCmd := { rawCommand s ws with handle := h, vin := vin }
  have issued : Issued s t d [a, b] := (((commandWords_reads words).sourced.ticket _).marked (pendVecs_only marked)).issued code took
  have queued : TablesOnly t (tileQueued s t vd c) := rfl
  obtain ⟨pc, memory, scalars⟩ := issued.retires queued
  have free : (s.core.tile.pend.any fun p => p.1.strand = s.cur) = false := List.any_eq_false.mpr fun p hp => by simp [alone p hp]
  refine ⟨retire (tileQueued s t vd c), ?runs, pc, ?pend, State.mem_at _ (s.now + 1) .tileFrontEndAccept, ?lat, memory, scalars⟩
  case runs =>
    show execIssueTile d vc a b s = _
    simp only [execIssueTile, handleDest_ok code, words, read, owned, free, marked, took, Res.ok_bind, Bool.false_eq_true, if_false]
    rfl
  case pend =>
    rw [← issued.only.tile]
    rfl
  case lat =>
    rw [← queued.st]
    exact retire_reg (tileQueued s t vd c) .lat

end

/-! ## ISSUE completes -/

section
variable {s : State} {d a b : Opd} {vc : BitVec 4} (code : handleCode d = true) (sources : SourcesFull s [a, b])
  (vec : (s.st.v[(vc.setWidth 5 : VIdx).toFin]).full = true) (dest : DestFree s d) (free : HandleFree s)
include code sources vec dest free

/-- The words are read, and a handle can be taken for any engine. -/
theorem issue_ready (o : Owner) : ∃ ws s1 h t, commandWords s vc a b = .ok (ws, s1) ∧
    takeHandle { s1 with ticket := s1.ticket + 1 } d o false = .ok (h, t) := by
  obtain ⟨ws, s1, words⟩ := commandWords_completes sources vec
  obtain ⟨h, t, took⟩ := ((commandWords_reads words).sourced.ticket (s1.ticket + 1)).takes code dest free o false
  exact ⟨ws, s1, h, t, words, took⟩

theorem issueTile_completes (ready : ∀ ws s1, commandWords s vc a b = .ok (ws, s1) → unowned s (rawCommand s ws) = none ∧
      (∀ v ∈ tileReads (rawCommand s ws), (s.st.v[v]).full = true) ∧ ∀ v ∈ tileWrites (rawCommand s ws), (s.st.v[v]).full = true)
    (alone : ∀ p ∈ s.core.tile.pend, p.1.strand ≠ s.cur) :
    ∃ v c, exec (.issueTile d vc a b) s = .next v ∧ v.st.pc = s.st.pc + 4 ∧ v.core.tile.pend = s.core.tile.pend ++ [(c, s.now)] ∧
      c.strand = s.cur ∧ (s.now + 1, Act.tileFrontEndAccept) ∈ v.agenda ∧ SameMemory s v ∧ SameScalars s v (toDest s d) [a, b] := by
  obtain ⟨ws, s1, words⟩ := commandWords_completes sources vec
  obtain ⟨owned, readsFull, writesFull⟩ := ready ws s1 words
  have reads := commandWords_reads words
  rw [← reads.vectors] at readsFull writesFull
  obtain ⟨vin, read⟩ := readVecs_full readsFull
  obtain ⟨u, vd, marked⟩ := pendVecs_full (s := { s1 with ticket := s1.ticket + 3 }) (tileWrites_nodup _) writesFull (s1.ticket + 1)
  obtain ⟨h, t, took⟩ := ((reads.sourced.ticket _).marked (pendVecs_only marked)).takes code dest free .tile (cmdStrap (rawCommand s ws))
  obtain ⟨v, runs, pc, pend, agenda, -, memory, scalars⟩ := issueTile_takes code words read owned alone marked took
  exact ⟨v, _, runs, pc, pend, rfl, agenda, memory, scalars⟩

theorem issueCopy_completes (ready : ∀ ws s1, commandWords s vc a b = .ok (ws, s1) → credEndpoint s (rawCommand s ws) = .ok ())
    (room : copyHeld s < 96) :
    ∃ v c, exec (.issueCopy d vc a b) s = .next v ∧ v.st.pc = s.st.pc + 4 ∧ v.core.copy.intake = s.core.copy.intake ++ [c] ∧
      c.strand = s.cur ∧ (s.now + 1, Act.command c) ∈ v.agenda ∧ SameMemory s v ∧ SameScalars s v (toDest s d) [a, b] := by
  obtain ⟨ws, s1, h, t, words, took⟩ := issue_ready code sources vec dest free .copy
  obtain ⟨v, runs, pc, intake, rest⟩ := issueCopy_takes code words (ready ws s1 words) room took
  exact ⟨v, _, runs, pc, intake, rfl, rest⟩

theorem issueMem_completes (room : s.core.memIntake.length < 8) :
    ∃ v c n, exec (.issueMem d vc a b) s = .next v ∧ v.st.pc = s.st.pc + 4 ∧ v.core.memIntake = s.core.memIntake ++ [c] ∧
      c.strand = s.cur ∧ s.now < n ∧ (n, Act.command c) ∈ v.agenda ∧ SameMemory s v ∧ SameScalars s v (toDest s d) [a, b] := by
  obtain ⟨ws, s1, h, t, words, took⟩ := issue_ready code sources vec dest free .mem
  obtain ⟨v, n, runs, pc, intake, rest⟩ := issueMem_takes code words room took
  exact ⟨v, _, n, runs, pc, intake, rfl, rest⟩

theorem issueXchg_completes (room : s.core.xchgIntake.length < 8) :
    ∃ v c n, exec (.issueXchg d vc a b) s = .next v ∧ v.st.pc = s.st.pc + 4 ∧ v.core.xchgIntake = s.core.xchgIntake ++ [c] ∧
      c.strand = s.cur ∧ s.now < n ∧ (n, Act.command c) ∈ v.agenda ∧ SameMemory s v ∧ SameScalars s v (toDest s d) [a, b] := by
  obtain ⟨ws, s1, h, t, words, took⟩ := issue_ready code sources vec dest free .xchg
  obtain ⟨v, n, runs, pc, intake, rest⟩ := issueXchg_takes code words room took
  exact ⟨v, _, n, runs, pc, intake, rfl, rest⟩

end

end Sys2Proof.Claims
end

section
/-! CANCELH: it completes whatever its register holds, and withdraws only what has not started (R348, R349). -/

namespace Sys2Proof.Machine

section
variable {s : State} {a : Opd} {l : Loc} (code : handleCode a = true) (loc : locOf s.st.frm a = some l)
include code loc

theorem exec_cancelh_handle {h : Fin 128} (bind : (s.st.reg l).bind = some (.handle h)) : exec (.cancelh a) s = .next (retire (withdraw s h)) := by
  show execCancelh a s = _
  simp only [execCancelh, handleCodes, code, loc, bind, if_true, Res.ok_bind]
  rfl

theorem exec_cancelh_unbound (unbound : ∀ e, (s.st.reg l).bind ≠ some (.handle e)) : exec (.cancelh a) s = .next (retire s) := by
  show execCancelh a s = _
  simp only [execCancelh, handleCodes, code, loc, if_true, Res.ok_bind]
  rfl

end

theorem withdraw_past {s : State} {h : Fin 128} (past : (s.core.table[h]).state ≠ .pending ∨ (s.core.table[h]).started = true) : withdraw s h = s := by
  have idle : ((s.core.table[h]).state != .pending || (s.core.table[h]).started) = true :=
    Bool.or_eq_true_iff.mpr (past.imp bne_iff_ne.mpr id)
  simp only [withdraw, idle, if_true]

/-- A command withdrawn from the engines, with its completion to come. -/
def commandCancelled (s : State) (h : Fin 128) : State := completeAt (withdrawCommand (startEntry s h) h) (s.now + 2) h stCancelled

/-- The owners whose operation is a command of an engine. -/
def engineOwners : List Owner := [.tile, .copy, .mem, .xchg]

section
variable {s : State} {h : Fin 128} (pending : (s.core.table[h]).state = .pending) (waits : (s.core.table[h]).started = false)
include pending waits

theorem withdraw_command (engine : (s.core.table[h]).owner ∈ engineOwners) : withdraw s h = commandCancelled s h := by
  have running : ((s.core.table[h]).state != .pending || (s.core.table[h]).started) = false := by rw [pending, waits]; rfl
  simp only [engineOwners, List.mem_cons, List.not_mem_nil, or_false] at engine
  unfold withdraw
  rcases engine with owner | owner | owner | owner <;> simp only [running, owner, Bool.false_eq_true, if_false] <;> rfl

end

/-! ## What a withdrawal leaves alone -/

/-- What every withdrawal keeps of its own strand and of the queues. -/
structure Withdrawn (s t : State) : Prop where
  pc : t.st.pc = s.st.pc
  reg : ∀ l, t.st.reg l = s.st.reg l
  queues : t.core.queues = s.core.queues

theorem Withdrawn.refl (s : State) : Withdrawn s s := ⟨rfl, fun _ => rfl, rfl⟩

theorem Withdrawn.trans {s t u : State} (h : Withdrawn s t) (g : Withdrawn t u) : Withdrawn s u :=
  ⟨g.pc.trans h.pc, fun l => (g.reg l).trans (h.reg l), g.queues.trans h.queues⟩

theorem withdrawn_of {s t : State} (cur : t.cur = s.cur) (core : t.core = s.core) : Withdrawn s t := by
  have strand : t.st = s.st := by rw [State.st, State.strand, core, cur]; rfl
  exact ⟨by rw [strand], fun l => by rw [strand], by rw [core]⟩

theorem later_withdrawn (s : State) (bound : Option Nat) (a : Act) : Withdrawn s (s.later bound a) := withdrawn_of rfl rfl

theorem commandCancelled_withdrawn (s : State) (h : Fin 128) : Withdrawn s (commandCancelled s h) := ⟨rfl, fun _ => rfl, rfl⟩

theorem cancelledRecord_withdrawn (s : State) (w3 : Word) : Withdrawn s (cancelledRecord s w3) := by
  have planes := putWords_planes s (tcmPa s.core.gcore (fld w3 17 0)) [word (3 * 2 ^ 56), 0, 0, 0, 0, 0, 0, 0]
  exact withdrawn_of (congrArg State.cur planes :) planes.core

/-- The machine without a circuit request under an entry, on its way or waiting for its search. -/
def requestDropped (s : State) (h : Fin 128) : State :=
  (dropActs s (isRequest h)).withFab fun f => { f with pending := f.pending.filter fun p => !decide (p.handle = some h) }

theorem withdrawCircuit_withdrawn (s : State) (h : Fin 128) : Withdrawn s (withdrawCircuit s h) := by
  unfold withdrawCircuit
  dsimp only
  split
  · exact withdrawn_of rfl rfl
  · split
    · exact .refl s
    next r _ _ =>
      refine Withdrawn.trans ?_ (later_withdrawn _ _ _)
      split
      · exact withdrawn_of rfl rfl
      · have dropped : Withdrawn s (requestDropped s h) := withdrawn_of rfl rfl
        exact dropped.trans (cancelledRecord_withdrawn (requestDropped s h) r.w3)

theorem withdrawPost_withdrawn (s : State) (h : Fin 128) : Withdrawn s (withdrawPost s h) := by
  unfold withdrawPost
  dsimp only
  split
  · exact withdrawn_of rfl rfl
  · exact .refl s

theorem withdrawLaunch_withdrawn (s : State) (h : Fin 128) : Withdrawn s (withdrawLaunch s h) := by
  have strands : (withdrawLaunch s h).core.strands = vmap (fun x : Strand => { x with sb := x.sb.map (unlaunch h) }) s.core.strands := rfl
  have cur : (withdrawLaunch s h).cur = s.cur := rfl
  have strand : (withdrawLaunch s h).st = { s.st with sb := s.st.sb.map (unlaunch h) } := by
    rw [State.st, State.strand, cur, strands, vmap_getElem]
    rfl
  refine ⟨by rw [strand], fun l => ?_, ?_⟩
  · rw [strand]
    cases l <;> rfl
  · unfold withdrawLaunch
    rfl

/-- A withdrawal moves no register and no queue of its strand. -/
theorem withdraw_withdrawn (s : State) (h : Fin 128) : Withdrawn s (withdraw s h) := by
  have started : Withdrawn s (forgetUnits (startEntry s h) h) := ⟨rfl, fun _ => rfl, rfl⟩
  have launch := started.trans (withdrawLaunch_withdrawn (forgetUnits (startEntry s h) h) h)
  unfold withdraw
  dsimp only
  split
  · exact .refl s
  · split
    · exact commandCancelled_withdrawn s h
    · exact commandCancelled_withdrawn s h
    · exact commandCancelled_withdrawn s h
    · exact commandCancelled_withdrawn s h
    · exact withdrawCircuit_withdrawn s h
    · exact withdrawCircuit_withdrawn s h
    · exact withdrawPost_withdrawn s h
    · split
      · exact launch
      · exact .refl s

/-- No engine's intake holds the command any longer. -/
theorem commandCancelled_clears (s : State) (h : Fin 128) : let t := commandCancelled s h
    ∀ c ∈ t.core.copy.intake ++ t.core.memIntake ++ t.core.xchgIntake ++ t.core.tile.pend.map (·.1), c.handle ≠ h := by
  intro t c hc
  have kept : ∀ {cs : List EngCmd}, c ∈ cs.filter (fun x => x.handle != h) → c.handle ≠ h := fun mem => bne_iff_ne.mp (List.mem_filter.mp mem).2
  rcases List.mem_append.mp hc with others | tile
  · rcases List.mem_append.mp others with others | xchg
    · exact (List.mem_append.mp others).elim kept kept
    · exact kept xchg
  · obtain ⟨p, pend, rfl⟩ := List.mem_map.mp tile
    exact bne_iff_ne.mp (List.mem_filter.mp pend).2

end Sys2Proof.Machine

namespace Sys2Proof.Claims

open Sys2Proof.Machine

theorem withdrawn_retires {s t : State} (h : Withdrawn s t) : (retire t).st.pc = s.st.pc + 4 ∧ SameScalars s (retire t) toNone [] := by
  refine ⟨by rw [retire_pc, h.pc], fun l _ => ?_, fun q _ => congrArg (·[q]) h.queues⟩
  rw [retire_reg, h.reg]
  exact .refl _

/-- CANCELH completes whatever its register holds. -/
theorem cancelh_completes (s : State) {a : Opd} (code : handleCode a = true) :
    ∃ t, exec (.cancelh a) s = .next t ∧ t.st.pc = s.st.pc + 4 ∧ SameScalars s t toNone [] := by
  obtain ⟨l, loc, -⟩ := locOf_handleCode code s.st.frm
  by_cases bound : ∃ e, (s.st.reg l).bind = some (.handle e)
  · obtain ⟨e, bind⟩ := bound
    exact ⟨_, exec_cancelh_handle code loc bind, withdrawn_retires (withdraw_withdrawn s e)⟩
  · exact ⟨_, exec_cancelh_unbound code loc fun e bind => bound ⟨e, bind⟩, withdrawn_retires (.refl s)⟩

/-- A command that has not started is withdrawn, and its handle completes CANCELLED (R348, R349). -/
theorem cancelh_withdraws {s : State} {a : Opd} {l : Loc} {h : Fin 128} (code : handleCode a = true) (loc : locOf s.st.frm a = some l)
    (bind : (s.st.reg l).bind = some (.handle h)) (pending : (s.core.table[h]).state = .pending) (waits : (s.core.table[h]).started = false)
    (engine : (s.core.table[h]).owner ∈ engineOwners) :
    ∃ t, exec (.cancelh a) s = .next t ∧ t.st.pc = s.st.pc + 4 ∧ (s.now + 2, Act.completion h ⟨3, 0, 0⟩) ∈ t.agenda ∧
      (∀ c ∈ t.core.copy.intake ++ t.core.memIntake ++ t.core.xchgIntake ++ t.core.tile.pend.map (·.1), c.handle ≠ h) ∧
      ScalarFrame { s with hub := t.hub } t toNone [] := by
  have runs := exec_cancelh_handle code loc bind
  rw [withdraw_command pending waits engine] at runs
  have tables : TablesOnly { s with hub := (commandCancelled s h).hub } (commandCancelled s h) := rfl
  refine ⟨retire (commandCancelled s h), runs, (withdrawn_retires (commandCancelled_withdrawn s h)).1,
    State.mem_at (withdrawCommand (startEntry s h) h) (s.now + 2) (.completion h ⟨3, 0, 0⟩), commandCancelled_clears s h, ?_⟩
  exact ((tablesOnly_frame tables toNone []).trans (retire_frame (commandCancelled s h))).mono (fun _ => Or.rec id id) fun _ => id

theorem cancelh_past {s : State} {a : Opd} {l : Loc} {e : Fin 128} (code : handleCode a = true) (loc : locOf s.st.frm a = some l)
    (bind : (s.st.reg l).bind = some (.handle e)) (past : (s.core.table[e]).state ≠ .pending ∨ (s.core.table[e]).started = true) :
    exec (.cancelh a) s = .next (retire s) := by
  rw [exec_cancelh_handle code loc bind, withdraw_past past]

/-! ## The claim -/

/-- Settles O33: what completes, what a handle and a completion do, what CANCELH withdraws, and what each ISSUE hands on. -/
theorem handlesBindAndCommandsIssue : Obligations.HandlesBindAndCommandsIssue := by
  refine ⟨⟨fun s d o strap code dest free => takeHandle_completes code dest free o strap,
      fun s d a b vc code sources vec dest free => ⟨issueTile_completes code sources vec dest free, issueCopy_completes code sources vec dest free,
        issueMem_completes code sources vec dest free, issueXchg_completes code sources vec dest free⟩,
      fun s a code => cancelh_completes s code, fun s h st busy => exec_completion_busy busy st⟩,
    ⟨fun s t d o strap l h code loc took => ?binds, fun s h st l pending alive idle noVecs unspilled notLat => ?fills,
      fun s a l h code loc => ⟨fun bind pending waits engine => cancelh_withdraws code loc bind pending waits engine,
        fun unbound => exec_cancelh_unbound code loc unbound, fun e bind past => cancelh_past code loc bind past⟩⟩,
    fun s s1 u t d a b vc ws vin vd h code words read => ⟨fun n foreign => issueTile_unowned code words read foreign,
      fun owned alone marked took => issueTile_takes code words read owned alone marked took⟩,
    fun s s1 t d a b vc ws h code words => ⟨fun cred room took => issueCopy_takes code words cred room took,
      fun cred full => issueCopy_full code words cred full, fun room took => issueMem_takes code words room took,
      fun room took => issueXchg_takes code words room took⟩,
    fun s w0 w1 w2 w3 vc a b x y s1 s2 l legalA legalB vec e0 e1 e2 e3 => ?words⟩
  case binds => exact takeHandle_binds code loc took
  case fills =>
    obtain ⟨entry, memory, register, trap⟩ := completeHandle_fills st pending alive noVecs unspilled notLat
    refine ⟨_, exec_completion_served idle pending st, by rw [entry]; rfl, by rw [entry]; rfl, memory, fun ⟨bind, empty⟩ => ?_, trap⟩
    rw [register, complete_waiting bind empty, handleValue_eq]
  case words =>
    subst e0 e1 e2 e3
    refine ⟨?zr, fun notA notB readA readB => ?read⟩
    case zr =>
      rintro rfl rfl
      exact commandWords_of legalA legalB vec (commandSrc_zr s _) (commandSrc_zr s _)
    case read =>
      exact commandWords_of legalA legalB vec ((commandSrc_read notA s _).trans readA) ((commandSrc_read notB s1 _).trans readB)

end Sys2Proof.Claims
end

section
/-! SUPPORT. Every operation of the machine keeps the three planes in canonical form: one lemma for each, in the order of the model. The planes change
through the store of a word, of bytes or of the full/empty bits, and where a range is wiped, put back or handed over; what leaves them alone is
`wf_same`. -/

namespace Sys2Proof.Machine

/-! ## Results and outcomes in canonical form -/

/-- What changes nothing in the planes keeps their form. -/
theorem wf_same {s t : State} (h : Memory.wf s = true) (e : (t.mem, t.tags, t.fe) = (s.mem, s.tags, s.fe)) : Memory.wf t = true := by
  obtain ⟨hm, ht, hf⟩ : t.mem = s.mem ∧ t.tags = s.tags ∧ t.fe = s.fe := by simpa using e
  exact wf_congr h hm ht hf

theorem wf_ite {c : Prop} {_ : Decidable c} {a b : State} (ha : Memory.wf a = true) (hb : Memory.wf b = true) :
    Memory.wf (if c then a else b) = true := by split <;> assumption

/-- The state that a result carries, where it has one, is in canonical form. -/
def ResWf {ε α : Type} (st : α → State) (r : Except ε α) : Prop := ∀ a, r = .ok a → Memory.wf (st a) = true

theorem ResWf.ok {ε α : Type} {st : α → State} {a : α} (h : Memory.wf (st a) = true) : ResWf st (.ok a : Except ε α) := by
  rintro _ ⟨⟩; exact h

theorem ResWf.error {ε α : Type} {st : α → State} {e : ε} : ResWf st (.error e : Except ε α) := nofun

theorem ResWf.bind {ε α β : Type} {st : α → State} {st' : β → State} {x : Except ε α} {f : α → Except ε β} (hx : ResWf st x)
    (hf : ∀ a, Memory.wf (st a) = true → ResWf st' (f a)) : ResWf st' (x >>= f) := by
  cases x with
  | error e => exact nofun
  | ok a => exact hf a (hx a rfl)

/-- A check before the rest changes no state. -/
theorem ResWf.seq {ε α β : Type} {st : β → State} {x : Except ε α} {f : α → Except ε β} (hf : ∀ a, ResWf st (f a)) : ResWf st (x >>= f) := by
  cases x with
  | error e => exact nofun
  | ok a => exact hf a

theorem ResWf.ite {ε α : Type} {st : α → State} {c : Prop} {_ : Decidable c} {x y : Except ε α} (hx : ResWf st x) (hy : ResWf st y) :
    ResWf st (if c then x else y) := by split <;> assumption

/-- The same for a state that may be there. -/
def OptWf {α : Type} (st : α → State) (o : Option α) : Prop := ∀ a, o = some a → Memory.wf (st a) = true

theorem OptWf.some {α : Type} {st : α → State} {a : α} (h : Memory.wf (st a) = true) : OptWf st (some a) := by rintro _ ⟨⟩; exact h

theorem OptWf.none {α : Type} {st : α → State} : OptWf st none := nofun

theorem OptWf.ite {α : Type} {st : α → State} {c : Prop} {_ : Decidable c} {x y : Option α} (hx : OptWf st x) (hy : OptWf st y) :
    OptWf st (if c then x else y) := by split <;> assumption

/-- The state after an outcome, where there is one, is in canonical form. -/
def NextWf (o : Host.Outcome State Fault Refusal) : Prop := ∀ t, o = .next t → Memory.wf t = true

theorem NextWf.next {s : State} (h : Memory.wf s = true) : NextWf (.next s) := by rintro _ ⟨⟩; exact h

theorem NextWf.fault {e : Fault} : NextWf (.fault e) := by rintro _ ⟨⟩

theorem NextWf.refused {e : Refusal} : NextWf (.refused e) := by rintro _ ⟨⟩

theorem NextWf.ite {c : Prop} {_ : Decidable c} {x y : Host.Outcome State Fault Refusal} (hx : NextWf x) (hy : NextWf y) :
    NextWf (if c then x else y) := by split <;> assumption

theorem NextWf.finish {s : State} {r : Res State} (h : Memory.wf s = true) (hr : ResWf (·) r) : NextWf (finish s r) := fun _ =>
  finish_wf h hr

/-! ## The operations of Machine/HubRegs -/

theorem hubPut_wf {s : State} {a : Nat} {v : Word} (h : Memory.wf s = true) :
    Memory.wf (hubPut s a v) = true := wf_same h rfl

theorem hubWrite_wf {s : State} {a : Nat} {v : Word} (h : Memory.wf s = true) :
    Memory.wf (hubWrite s a v) = true := wf_same h rfl

theorem raiseMsix_wf {s : State} {f vec : Nat} (h : Memory.wf s = true) :
    Memory.wf (raiseMsix s f vec) = true := wf_same h rfl

theorem fabricRecord_wf {s : State} {code detail : Nat} {w2 : Word} {fn : Nat} (h : Memory.wf s = true) :
    Memory.wf (fabricRecord s code detail w2 fn) = true := raiseMsix_wf (errRecord_wf h _ _ _ _ _ _ _ _)

theorem recoveryRecord_wf {s : State} {code detail : Nat} {w2 : Word} {fn part : Nat} (h : Memory.wf s = true) :
    Memory.wf (recoveryRecord s code detail w2 fn part) = true := raiseMsix_wf (errRecord_wf h _ _ _ _ _ _ _ _)

theorem limitDiscard_wf {s : State} {hi lo pa : Nat} (h : Memory.wf s = true) :
    Memory.wf (limitDiscard s hi lo pa) = true := setFstat_wf (errRecord_wf (hubPut_wf h) _ _ _ _ _ _ _ _) _ _

theorem countCe_wf {s : State} {die : Nat} {flits : Bool} (h : Memory.wf s = true) :
    Memory.wf (countCe s die flits) = true := wf_ite (wf_same h rfl) (wf_ite h (wf_same h rfl))

theorem uncorrRecord_wf {s : State} {pa : Nat} (h : Memory.wf s = true) :
    Memory.wf (uncorrRecord s pa) = true := by
  unfold uncorrRecord
  split
  · exact foldl_wf (fun _ _ ht => setFstat_wf ht _ _) _ (errRecord_wf h _ _ _ _ _ _ _ _)
  · exact setFstat_wf (errRecord_wf h _ _ _ _ _ _ _ _) _ _

theorem jayLog_wf {s : State} {p kind len : Nat} {target : Word} {payload : List Word} (h : Memory.wf s = true) :
    Memory.wf (jayLog s p kind len target payload) = true := wf_ite h (wf_ite (ringAppend_wf h _ _) (raiseMsix_wf (ringAppend_wf h _ _)))

/-! ## The operations of Machine/Ops -/

theorem State.setStrand_wf {s : State} {k : Fin 16} {x : Strand} (h : Memory.wf s = true) :
    Memory.wf (s.setStrand k x) = true := wf_same h rfl

theorem State.modStrand_wf {s : State} {k : Fin 16} {f : Strand → Strand} (h : Memory.wf s = true) :
    Memory.wf (s.modStrand k f) = true := wf_same h rfl

theorem State.mod_wf {s : State} {f : Strand → Strand} (h : Memory.wf s = true) :
    Memory.wf (s.mod f) = true := wf_same h rfl

theorem State.setRun_wf {s : State} {k : Fin 16} {r : RunState} (h : Memory.wf s = true) :
    Memory.wf (s.setRun k r) = true := wf_same h rfl

theorem State.withCore_wf {s : State} {f : Core → Core} (h : Memory.wf s = true) :
    Memory.wf (s.withCore f) = true := wf_same h rfl

theorem State.withClu_wf {s : State} {f : Cluster → Cluster} (h : Memory.wf s = true) :
    Memory.wf (s.withClu f) = true := wf_same h rfl

theorem State.withHub_wf {s : State} {f : Hub → Hub} (h : Memory.wf s = true) :
    Memory.wf (s.withHub f) = true := wf_same h rfl

theorem State.withFab_wf {s : State} {f : Fabric → Fabric} (h : Memory.wf s = true) :
    Memory.wf (s.withFab f) = true := wf_same h rfl

theorem retire_wf {s : State} (h : Memory.wf s = true) :
    Memory.wf (retire s) = true := wf_same h rfl

theorem State.at_wf {s : State} {t : Nat} {a : Act} (h : Memory.wf s = true) :
    Memory.wf (s.at t a) = true := wf_same h rfl

theorem State.later_wf {s : State} {bound : Option Nat} {a : Act} (h : Memory.wf s = true) :
    Memory.wf (s.later bound a) = true := wf_same h rfl

theorem State.newTicket_wf {s : State} (h : Memory.wf s = true) :
    Memory.wf (s.newTicket).2 = true := wf_same h rfl

theorem State.atOnce_wf {s : State} {t : Nat} {a : Act} (h : Memory.wf s = true) :
    Memory.wf (s.atOnce t a) = true := wf_ite h (wf_same h rfl)

theorem dropActs_wf {s : State} {p : Act → Bool} (h : Memory.wf s = true) :
    Memory.wf (dropActs s p) = true := wf_same h rfl

theorem State.freeEntry_wf {s : State} {e : Fin 128} (h : Memory.wf s = true) :
    Memory.wf (s.freeEntry e) = true := wf_same h rfl

theorem beginAcquire_wf {s : State} {k : Fin 16} {sc : Scope} {whole : Bool} (h : Memory.wf s = true) :
    Memory.wf (beginAcquire s k sc whole) = true := wf_same h rfl

theorem firstRead_wf {s : State} {k : Fin 16} {l : Loc} (h : Memory.wf s = true) :
    Memory.wf (firstRead s k l) = true := by
  unfold firstRead
  extract_lets r
  split
  · exact beginAcquire_wf (State.freeEntry_wf (State.modStrand_wf h))
  · exact h

theorem readSrc_wf {s : State} {c : Opd} {trap : Bool} (h : Memory.wf s = true) :
    ResWf (·.2) (readSrc s c trap) := by
  unfold readSrc
  split
  · split
    · exact .ite (.ok (wf_same h rfl)) (.ite .error .error)
    · exact .ite .error .error
  · split
    · exact .ite (.seq fun _ => .ok (firstRead_wf h)) (.ite .error .error)
    · exact .ok h

theorem dropHandle_wf {s : State} {r : Reg} (h : Memory.wf s = true) :
    Memory.wf (dropHandle s r) = true := by
  unfold dropHandle
  split
  · exact State.freeEntry_wf h
  · exact h

theorem putDest_wf {s : State} {d : Opd} {r : Reg} (h : Memory.wf s = true) :
    ResWf (·) (putDest s d r) := by
  unfold putDest
  split
  · exact .ite (.ok (wf_same h rfl)) .error
  · split
    · exact .seq fun _ => .ok (State.mod_wf (dropHandle_wf h))
    · exact .ok h

theorem writeDest_wf {s : State} {d : Opd} {r : Reg} (h : Memory.wf s = true) :
    ResWf (·) (writeDest s d r) := .bind (putDest_wf h) fun _ hs1 => .ok (State.mod_wf hs1)

theorem writePending_wf {s : State} {d : Opd} {ticket : Nat} (h : Memory.wf s = true) :
    ResWf (·) (writePending s d ticket) := .bind (putDest_wf h) fun _ hs1 => .ok (State.mod_wf hs1)

theorem fillSpilled_wf {s : State} {k : Fin 16} {b : Bind} {v : Word} {t : Tag} (h : Memory.wf s = true) :
    Memory.wf (fillSpilled s k b v t) = true := foldl_wf (fun _ _ ht => setFe_wf (performStore_wf ht _) _ _) _ h

theorem fillReg_wf {s : State} {k : Fin 16} {ticket : Nat} {v : Word} {t : Tag} (h : Memory.wf s = true) :
    Memory.wf (fillReg s k ticket v t) = true := by
  unfold fillReg
  extract_lets b s1 s2
  have hs1 : Memory.wf s1 = true := fillSpilled_wf h
  have hs2 : Memory.wf s2 = true := State.modStrand_wf hs1
  exact wf_same hs2 rfl

theorem unbindFill_wf {s : State} {k : Fin 16} {ticket : Nat} (h : Memory.wf s = true) :
    Memory.wf (unbindFill s k ticket) = true := wf_same h rfl

theorem fillVec_wf {s : State} {k : Fin 16} {ticket : Nat} {l : Lanes} (h : Memory.wf s = true) :
    Memory.wf (fillVec s k ticket l) = true := wf_same h rfl

theorem escalate_wf {s : State} {p : Packet} {cls bit : Nat} (h : Memory.wf s = true) :
    Memory.wf (escalate s p cls bit) = true := setFstat_wf (errRecord_wf h _ _ _ _ _ _ _ _) _ _

theorem raiseTrap_wf {s : State} {k : Fin 16} {cause tval : Word} (h : Memory.wf s = true) :
    Memory.wf (raiseTrap s k cause tval) = true := wf_same h rfl

/-! ## The operations of Machine/Hbm -/

theorem modPc_wf {s : State} {p : Nat} {f : Pc → Pc} (h : Memory.wf s = true) :
    Memory.wf (modPc s p f) = true := wf_same h rfl

theorem creditWait_wf {s : State} {r : HReq} (h : Memory.wf s = true) :
    Memory.wf (creditWait s r) = true := by
  unfold creditWait
  dsimp only
  split
  · exact wf_same h rfl
  · exact wf_ite (wf_same h rfl) h

theorem serveReq_wf {s : State} {p : Nat} {r : HReq} {f : Pc → Pc} (h : Memory.wf s = true) :
    Memory.wf (serveReq s p r f) = true := wf_ite (creditWait_wf (modPc_wf h)) (modPc_wf h)

theorem cancelScrub_wf {s : State} {pa : Nat} (h : Memory.wf s = true) :
    Memory.wf (cancelScrub s pa) = true := wf_same h rfl

theorem oweScrub_wf {s : State} {p : Fin 512} {granule : Nat} {cls : Fin 16} {h : Option (Fin 128)} (hs : Memory.wf s = true) :
    Memory.wf (oweScrub s p granule cls h) = true := State.later_wf (modPc_wf (wf_same hs rfl))

theorem countLane_wf {s : State} {c lane : Nat} (h : Memory.wf s = true) :
    Memory.wf (countLane s c lane) = true := by
  unfold countLane
  extract_lets s1 n s2 r s3
  have hs1 : Memory.wf s1 = true := countCe_wf h
  have hs2 : Memory.wf s2 = true := wf_same hs1 rfl
  have hs3 : Memory.wf s3 = true := wf_ite (hubPut_wf hs2) hs2
  split
  · exact State.at_wf hs3
  · exact hs3

theorem patrolRead_wf {s : State} {p : Fin 512} (h : Memory.wf s = true) : Memory.wf (patrolRead s p) = true := by
  unfold patrolRead
  extract_lets x s1 n s2
  have hs1 : Memory.wf s1 = true := modPc_wf h
  have hs2 : Memory.wf s2 = true := wf_same hs1 rfl
  exact wf_ite (oweScrub_wf (countLane_wf hs2)) hs2

theorem serveAgain_wf {s : State} {p : Fin 512} (h : Memory.wf s = true) :
    Memory.wf (serveAgain s p) = true := wf_ite h (wf_ite (State.atOnce_wf h) (State.atOnce_wf h))

theorem idleFrom_wf {s : State} {p : Fin 512} (h : Memory.wf s = true) :
    Memory.wf (idleFrom s p) = true := wf_ite (State.atOnce_wf h) h

theorem execHbmServiceUnit_wf {p : Fin 512} {s : State} (h : Memory.wf s = true) :
    NextWf (execHbmServiceUnit p s) := by
  unfold execHbmServiceUnit
  extract_lets s1 x t
  have hs1 : Memory.wf s1 = true := modPc_wf h
  have ht : Memory.wf t = true := by
    unfold t
    split
    · exact serveReq_wf hs1
    · exact patrolRead_wf hs1
    · split
      · exact serveReq_wf hs1
      · exact hs1
  exact .ite (.next hs1) (.next (idleFrom_wf (serveAgain_wf ht)))

theorem beginExit_wf {s : State} {p : Fin 512} {at_ : Nat} (h : Memory.wf s = true) :
    Memory.wf (beginExit s p at_) = true := wf_ite (State.at_wf (modPc_wf h)) h

theorem hbmPushAt_wf {s : State} {p : Nat} {r : HReq} (h : Memory.wf s = true) :
    Memory.wf (hbmPushAt s p r) = true := by
  unfold hbmPushAt
  extract_lets b s1 q
  have hs1 : Memory.wf s1 = true := modPc_wf h
  split
  · exact wf_ite (wf_ite (beginExit_wf hs1) hs1) (State.atOnce_wf (wf_ite (beginExit_wf hs1) hs1))
  · exact hs1

theorem hbmPush_wf {s : State} {r : HReq} (h : Memory.wf s = true) :
    Memory.wf (hbmPush s r) = true := hbmPushAt_wf h

theorem hbmAsk_wf {s : State} {ticket : Nat} {handle : Option (Fin 128)} {cls pa units : Nat} {write : Bool} (h : Memory.wf s = true) :
    Memory.wf (hbmAsk s ticket handle cls pa units write) = true := hbmPush_wf (wf_same h rfl)

theorem askLines_wf {s : State} {ticket : Nat} {handle : Option (Fin 128)} {cls : Nat} {write : Bool} {pas : List Nat}
    (h : Memory.wf s = true) :
    Memory.wf (askLines s ticket handle cls write pas) = true := foldl_wf (fun _ _ ht => hbmAsk_wf ht) _ h

theorem execHbmRequest_wf {cls : Fin 16} {gcore pa : Nat} {write : Bool} {s : State} (h : Memory.wf s = true) :
    NextWf (execHbmRequest cls gcore pa write s) := .next (hbmPush_wf h)

theorem forgetUnits_wf {s : State} {h : Fin 128} (hs : Memory.wf s = true) :
    Memory.wf (forgetUnits s h) = true := wf_same hs rfl

theorem atomArrive_wf {s : State} {r : AtomReq} (h : Memory.wf s = true) :
    Memory.wf (atomArrive s r) = true := State.atOnce_wf (wf_same h rfl)

theorem bankArrive_wf {s : State} {user : BankUser} {pa : Nat} (h : Memory.wf s = true) :
    Memory.wf (bankArrive s user pa) = true := by
  unfold bankArrive
  dsimp only
  split
  · exact wf_ite h (wf_ite (atomArrive_wf h) (State.atOnce_wf (wf_same h rfl)))
  · exact wf_ite h (State.atOnce_wf (wf_same h rfl))
  · exact h

theorem bankServed_wf {s : State} {x : BankUser} (h : Memory.wf s = true) :
    Memory.wf (bankServed s x) = true := by
  unfold bankServed
  split
  · exact State.atOnce_wf h
  · exact State.atOnce_wf (State.withClu_wf h)
  · exact h
  · exact h

theorem refreshBank_wf {s : State} {p : Fin 512} {b : Fin 16} (h : Memory.wf s = true) :
    Memory.wf (refreshBank s p b) = true := wf_same h rfl

theorem refreshAll_wf {s : State} {p : Fin 512} (h : Memory.wf s = true) :
    Memory.wf (refreshAll s p) = true := foldl_wf (fun _ _ ht => State.at_wf ht) _ (modPc_wf h)

theorem tickBank_wf {s : State} {p : Fin 512} {b : Fin 16} (h : Memory.wf s = true) :
    Memory.wf (tickBank s p b) = true := by
  unfold tickBank
  extract_lets x t
  have ht : Memory.wf t = true := refreshBank_wf h
  refine wf_ite ht ?_
  refine wf_ite (wf_ite (modPc_wf h) (refreshAll_wf h)) ?_
  split
  · exact wf_ite ht (modPc_wf (refreshBank_wf ht))
  · exact ht

theorem dropRefresh_wf {s : State} {p : Fin 512} (h : Memory.wf s = true) :
    Memory.wf (dropRefresh s p) = true := wf_same h rfl

theorem replanRefresh_wf {s : State} {p : Fin 512} (h : Memory.wf s = true) :
    Memory.wf (replanRefresh s p) = true := by
  unfold replanRefresh
  extract_lets s1 k
  have hs1 : Memory.wf s1 = true := dropRefresh_wf h
  exact wf_ite hs1 (wf_ite (State.atOnce_wf (beginExit_wf hs1)) (State.atOnce_wf (modPc_wf hs1)))

theorem execRefreshTick_wf {p : Fin 512} {s : State} (h : Memory.wf s = true) :
    NextWf (execRefreshTick p s) := by
  unfold execRefreshTick
  extract_lets s1 x b t t1
  have hs1 : Memory.wf s1 = true := modPc_wf h
  have ht : Memory.wf t = true := wf_ite (wf_ite (modPc_wf hs1) hs1) (tickBank_wf hs1)
  have ht1 : Memory.wf t1 = true := modPc_wf ht
  exact .ite (.next hs1) (.next (State.atOnce_wf ht1))

theorem execRefreshEnd_wf {p : Fin 512} {_bank : Fin 16} {s : State} (h : Memory.wf s = true) :
    NextWf (execRefreshEnd p _bank s) := .next (State.atOnce_wf h)

theorem execSelfRefreshEntry_wf {p : Fin 512} {s : State} (h : Memory.wf s = true) :
    NextWf (execSelfRefreshEntry p s) := by
  unfold execSelfRefreshEntry
  extract_lets x n coming t
  have ht : Memory.wf t = true := modPc_wf h
  refine .ite ?_ (.next h)
  refine .next ?_
  clear_value coming
  split
  · exact ht
  · exact beginExit_wf ht

theorem execSelfRefreshExit_wf {p : Fin 512} {s : State} (h : Memory.wf s = true) :
    NextWf (execSelfRefreshExit p s) := by
  unfold execSelfRefreshExit
  extract_lets x t t1
  have ht : Memory.wf t = true := modPc_wf h
  have ht1 : Memory.wf t1 = true := wf_ite ht (modPc_wf (foldl_wf (fun _ _ ht1 => refreshBank_wf ht1) _ ht))
  exact .ite (.next h) (.next (idleFrom_wf (State.atOnce_wf ht1)))

theorem wakeForUnits_wf {s : State} {p : Fin 512} (h : Memory.wf s = true) :
    Memory.wf (wakeForUnits s p) = true := wf_ite h (beginExit_wf h)

theorem execBudgetCommit_wf {p : Fin 512} {s : State} (h : Memory.wf s = true) :
    NextWf (execBudgetCommit p s) := by
  unfold execBudgetCommit
  extract_lets cw t sum t1
  have ht : Memory.wf t = true := hubPut_wf h
  have ht1 : Memory.wf t1 = true := foldl_wf (fun _ _ ht1 => hubPut_wf ht1) _ ht
  refine .ite (.next h) ?_
  refine .ite (.next (fabricRecord_wf ht)) ?_
  exact .ite (.next (fabricRecord_wf ht)) (.next (idleFrom_wf (State.atOnce_wf (wakeForUnits_wf ht1))))

theorem execScrubWriteback_wf {p : Fin 512} {granule : Nat} {s : State} (h : Memory.wf s = true) :
    NextWf (execScrubWriteback p granule s) := by
  unfold execScrubWriteback
  extract_lets x
  split
  · exact .next (hbmPushAt_wf h)
  · exact .next h

theorem trained_wf {s : State} {p : Fin 512} (h : Memory.wf s = true) :
    Memory.wf (trained s p) = true := idleFrom_wf (State.atOnce_wf (modPc_wf (dropRefresh_wf (hubPut_wf h))))

theorem laneWindowNext_wf {s : State} {c : Fin 256} (h : Memory.wf s = true) :
    Memory.wf (laneWindowNext s c) = true := wf_same h rfl

theorem execPseudoChannelTrainingEnd_wf {p : Fin 512} {s : State} (h : Memory.wf s = true) :
    NextWf (execPseudoChannelTrainingEnd p s) :=
  .next (wf_ite (laneWindowNext_wf (State.atOnce_wf (trained_wf h))) (State.atOnce_wf (trained_wf h)))

theorem laneRecord_wf {s : State} {c : Fin 256} {spare lane : Nat} (h : Memory.wf s = true) :
    Memory.wf (laneRecord s c spare lane) = true := fabricRecord_wf h

theorem loseExact_wf {s : State} {c : Fin 256} (h : Memory.wf s = true) :
    Memory.wf (loseExact s c) = true := foldl_wf (fun _ _ ht => hubPut_wf ht) _ h

theorem execLaneRepair_wf {c : Fin 256} {lane : BitVec 8} {s : State} (h : Memory.wf s = true) :
    NextWf (execLaneRepair c lane s) := by
  unfold execLaneRepair
  extract_lets r spare
  clear_value spare
  split
  · exact .next (laneRecord_wf h)
  · extract_lets r1 t t1
    have ht : Memory.wf t = true := laneRecord_wf (hubPut_wf h)
    have ht1 : Memory.wf t1 = true := foldl_wf (fun _ _ ht1 => modPc_wf ht1) _ (loseExact_wf ht)
    exact .next (State.later_wf ht1)

theorem execLaneTrainingEnd_wf {c : Fin 256} {s : State} (h : Memory.wf s = true) :
    NextWf (execLaneTrainingEnd c s) := .next (foldl_wf (fun _ _ ht => State.atOnce_wf (refreshAll_wf (trained_wf ht))) _ h)

theorem execLaneErrorWindow_wf {c : Fin 256} {s : State} (h : Memory.wf s = true) :
    NextWf (execLaneErrorWindow c s) := .next (hubPut_wf (State.withHub_wf (laneWindowNext_wf h)))

theorem execWheelBudgetRestart_wf {s : State} (h : Memory.wf s = true) :
    NextWf (execWheelBudgetRestart s) := .next (wf_same h rfl)

/-! ## The operations of Machine/Translate -/

theorem tlbFill_wf {s : State} {e : TlbEntry} (h : Memory.wf s = true) :
    Memory.wf (tlbFill s e) = true := wf_same h rfl

/-! ## The operations of Machine/SysRegs -/

theorem sysStore_wf {s : State} {k : Fin 16} {n : Nat} {v : Word} (h : Memory.wf s = true) :
    Memory.wf (sysStore s k n v) = true := by
  unfold sysStore
  extract_lets m
  split
  · exact State.modStrand_wf h
  · exact State.modStrand_wf h
  · exact State.modStrand_wf h
  · exact State.modStrand_wf h
  · exact State.modStrand_wf h
  · exact State.modStrand_wf h
  · exact State.modStrand_wf h
  · exact State.modStrand_wf h
  · exact State.modStrand_wf h
  · exact State.modStrand_wf h
  · exact State.modStrand_wf h
  · exact State.modStrand_wf h
  · exact State.modStrand_wf h
  · exact State.modStrand_wf h
  · exact State.modStrand_wf h
  · exact State.modStrand_wf h
  · exact State.modStrand_wf h
  · exact wf_same h rfl
  · exact wf_same h rfl
  · exact wf_same h rfl
  · exact wf_same h rfl
  · exact h

theorem pokeHead_wf {s : State} {q : Fin 8} {f : Reg → Reg} (h : Memory.wf s = true) :
    Memory.wf (pokeHead s q f) = true := by
  unfold pokeHead
  split
  · exact wf_ite h (wf_same h rfl)
  · exact h

theorem pokeSides_wf {s : State} {k : Fin 16} {c0 : Nat} {v : Word} (h : Memory.wf s = true) :
    Memory.wf (pokeSides s k c0 v) = true := by
  unfold pokeSides
  refine foldl_wf (fun s i ht => ?_) _ h
  extract_lets f
  split
  · exact pokeHead_wf ht
  · exact wf_ite (State.modStrand_wf ht) ht

theorem pokeVal_wf {s : State} {k : Fin 16} {c : Nat} {v : Word} (h : Memory.wf s = true) :
    Memory.wf (pokeVal s k c v) = true := by
  unfold pokeVal
  dsimp only
  split
  · exact wf_ite h (State.setStrand_wf (dropHandle_wf h))
  · exact h

theorem strandAreaWrite_wf {s : State} {k : Fin 16} {o : Nat} {v : Word} (h : Memory.wf s = true) :
    Memory.wf (strandAreaWrite s k o v) = true := by
  unfold strandAreaWrite
  extract_lets x n
  refine wf_ite h ?_
  refine wf_ite (State.setStrand_wf h) ?_
  refine wf_ite (wf_ite (State.at_wf h) (wf_ite (State.at_wf h) (wf_ite (State.at_wf h) h))) ?_
  refine wf_ite (pokeVal_wf h) ?_
  exact wf_ite (pokeVal_wf h) (wf_ite (pokeSides_wf h) (wf_ite (wf_ite (sysStore_wf h) h) h))

theorem pokeVec_wf {s : State} {k : Fin 16} {n : Nat} {f : VReg → VReg} (h : Memory.wf s = true) :
    Memory.wf (pokeVec s k n f) = true := wf_same h rfl

theorem pokeTile_wf {s : State} {f : Acc → Acc} (h : Memory.wf s = true) :
    Memory.wf (pokeTile s f) = true := wf_same h rfl

theorem debugWrite_wf {s : State} {off : Nat} {v : Word} (h : Memory.wf s = true) :
    Memory.wf (debugWrite s off v) = true := by
  unfold debugWrite
  dsimp only
  refine wf_ite (strandAreaWrite_wf h) ?_
  refine wf_ite (wf_ite (pokeVec_wf h) h) ?_
  refine wf_ite (wf_ite (pokeVec_wf h) h) ?_
  refine wf_ite (wf_ite (foldl_wf (fun _ _ ht => pokeVec_wf ht) _ h) h) ?_
  refine wf_ite (wf_ite (State.modStrand_wf h) h) ?_
  exact wf_ite (wf_ite (pokeTile_wf h) h) (wf_ite (wf_ite (pokeTile_wf h) h) (wf_ite (wf_same h rfl) h))

/-! ## The operations of Machine/Access -/

theorem State.modRecv_wf {s : State} {e : Fin 64} {f : RecvEp → RecvEp} (h : Memory.wf s = true) :
    Memory.wf (s.modRecv e f) = true := wf_same h rfl

theorem readyTaken_wf {s : State} {off : Nat} (h : Memory.wf s = true) :
    Memory.wf (readyTaken s off) = true := by
  unfold readyTaken
  refine foldl_wf (fun s e ht => ?_) _ h
  split
  · exact wf_ite (State.modRecv_wf ht) ht
  · exact ht

theorem emptyWord_wf {s : State} {off : Nat} (h : Memory.wf s = true) :
    Memory.wf (emptyWord s off) = true := wf_ite (setFe_wf (readyTaken_wf h) _ _) h

theorem fillWord_wf {s : State} {off : Nat} (h : Memory.wf s = true) :
    Memory.wf (fillWord s off) = true := setFe_wf h _ _

theorem dropWaiter_wf {s : State} {w : Waiter} (h : Memory.wf s = true) :
    Memory.wf (dropWaiter s w) = true := wf_same h rfl

/-- A result written for another strand, and left out where it cannot be written. -/
theorem writeDest_or_wf {s : State} {d : Opd} {r : Reg} (h : Memory.wf s = true) :
    Memory.wf (match writeDest s d r with | .ok t => t | .error _ => s) = true := by
  split
  next t e => exact writeDest_wf h t e
  next => exact h

theorem waiterDone_wf {s : State} {k : Fin 16} {d : Option Opd} {ticket : Nat} {v : Word} (h : Memory.wf s = true) :
    Memory.wf (waiterDone s k d ticket v) = true := by
  unfold waiterDone
  extract_lets cur t r t1
  have ht : Memory.wf t = true := wf_same h rfl
  have ht1 : Memory.wf t1 = true := by
    unfold t1
    split
    · exact wf_ite (State.mod_wf (fillReg_wf ht)) (writeDest_or_wf ht)
    · exact ht
  exact wf_same (State.setRun_wf (k := k) (r := .ready) (retire_wf ht1)) rfl

theorem unreserve_wf {s : State} {ticket : Nat} (h : Memory.wf s = true) :
    Memory.wf (unreserve s ticket) = true := wf_same h rfl

theorem waiterPoison_wf {s : State} {k : Fin 16} {ticket pa va : Nat} (h : Memory.wf s = true) :
    Memory.wf (waiterPoison s k ticket pa va) = true := freeze_wf (State.modStrand_wf (unreserve_wf h)) _ _ _ _ _ _ _

theorem queueReply_wf {s : State} {flits : Nat} (h : Memory.wf s = true) :
    Memory.wf (queueReply s flits) = true := wf_same h rfl

theorem satisfy_wf {s : State} {w : Waiter} (h : Memory.wf s = true) :
    Memory.wf (satisfy s w) = true := by
  unfold satisfy
  extract_lets pa s1
  have hs1 : Memory.wf s1 = true := dropWaiter_wf h
  split
  · exact queueReply_wf hs1
  · refine wf_ite (waiterPoison_wf hs1) ?_
    split <;> exact waiterDone_wf hs1

theorem walkFull_wf {s : State} {off : Nat} {ws : List Waiter} (h : Memory.wf s = true) : Memory.wf (walkFull s off ws).1 = true := by
  induction ws generalizing s with
  | nil => exact h
  | cons w ws ih =>
    unfold walkFull
    split
    · exact ih (satisfy_wf h)
    · exact wf_ite (satisfy_wf h) (emptyWord_wf (satisfy_wf h))
    · exact ih h

theorem feWalkOf_wf {s : State} {all : Bool} {off : Nat} (h : Memory.wf s = true) :
    Memory.wf (feWalkOf s all off) = true := by
  unfold feWalkOf
  extract_lets ws pa r
  have hr : Memory.wf r.1 = true := walkFull_wf h
  refine wf_ite h ?_
  refine wf_ite (wf_ite (wf_same hr rfl) hr) ?_
  split
  · extract_lets s1
    have hs1 : Memory.wf s1 = true := by
      unfold s1
      split
      · exact wf_ite h (fillWord_wf (performStore_wf h _))
      · exact h
    exact State.withCore_wf (satisfy_wf hs1)
  · exact h

theorem feWalk_wf {s : State} {off : Nat} (h : Memory.wf s = true) :
    Memory.wf (feWalk s off) = true := feWalkOf_wf h

theorem addWaiter_wf {s : State} {w : Waiter} (h : Memory.wf s = true) :
    Memory.wf (addWaiter s w) = true := wf_same h rfl

theorem dropWaits_wf {s : State} {k : Fin 16} (h : Memory.wf s = true) :
    Memory.wf (dropWaits s k) = true := by
  unfold dropWaits
  extract_lets mine tickets s1 s2
  have hs1 : Memory.wf s1 = true := wf_same h rfl
  have hs2 : Memory.wf s2 = true := foldl_wf (fun _ _ ht => unreserve_wf ht) _ hs1
  split
  · exact unreserve_wf hs2
  · exact hs2

theorem dropCkpt_wf {s : State} {f : Nat} (h : Memory.wf s = true) :
    Memory.wf (dropCkpt s f) = true := by
  unfold dropCkpt
  extract_lets s1
  have hs1 : Memory.wf s1 = true := hubPut_wf h
  exact State.withHub_wf hs1

theorem copyGranule_wf {s : State} {f g : Nat} (h : Memory.wf s = true) :
    Memory.wf (copyGranule s f g) = true := wf_ite (dropCkpt_wf (recoveryRecord_wf h)) (State.withHub_wf (hubPut_wf h))

theorem granuleUnits_wf {s : State} {ticket pa : Nat} {write : Bool} (h : Memory.wf s = true) :
    Memory.wf (granuleUnits s ticket pa write) = true := foldl_wf (fun _ _ ht => wf_ite (hbmAsk_wf ht) ht) _ h

theorem copyNow_wf {s : State} {f pa : Nat} (h : Memory.wf s = true) :
    Memory.wf (copyNow s f pa) = true := copyGranule_wf (granuleUnits_wf (granuleUnits_wf (wf_same h rfl)))

theorem needCopyFor_wf {s : State} {f : Fin 17} {pa : Nat} (h : Memory.wf s = true) :
    Memory.wf (needCopyFor s f pa) = true := wf_ite h (State.later_wf (granuleUnits_wf (State.withHub_wf (wf_same h rfl))))

theorem needCopy_wf {s : State} {pa : Nat} (h : Memory.wf s = true) :
    Memory.wf (needCopy s pa) = true := needCopyFor_wf h

theorem homeStore_wf {s : State} {x : WordStore} (h : Memory.wf s = true) :
    Memory.wf (homeStore s x) = true := by
  unfold homeStore
  split
  · exact wf_ite (debugWrite_wf h) h
  · exact setBytes_wf h _ _ _ _
  · exact performStore_wf (cancelScrub_wf (wf_ite (copyNow_wf h) h)) _
  · exact performStore_wf (wf_ite (copyNow_wf h) h) _

theorem cachePut_wf {s : State} {l : CLine} (h : Memory.wf s = true) :
    Memory.wf (cachePut s l) = true := wf_same h rfl

theorem cacheTouch_wf {s : State} {line : Nat} (h : Memory.wf s = true) :
    Memory.wf (cacheTouch s line) = true := by
  unfold cacheTouch
  split
  · exact cachePut_wf h
  · exact h

theorem cacheDrop_wf {s : State} {line : Nat} (h : Memory.wf s = true) :
    Memory.wf (cacheDrop s line) = true := wf_same h rfl

theorem pushDbb_wf {s : State} {k : Fin 16} {kind : DbbKind} {x : WordStore} {bad : Bool} (h : Memory.wf s = true) :
    Memory.wf (pushDbb s k kind x bad) = true := wf_ite (State.later_wf (wf_same h rfl)) (State.withCore_wf (wf_same h rfl))

theorem writeThrough_wf {s : State} {k : Fin 16} {l : CLine} (h : Memory.wf s = true) :
    Memory.wf (writeThrough s k l) = true := by
  unfold writeThrough
  extract_lets w
  have hw : Memory.wf w = true := by
    unfold w
    refine foldl_wf (fun s i ht => ?_) _ h
    extract_lets w1
    exact wf_ite (pushDbb_wf ht) ht
  exact wf_same hw rfl

theorem writeThroughAll_wf {s : State} {k : Fin 16} (h : Memory.wf s = true) :
    Memory.wf (writeThroughAll s k) = true := foldl_wf (fun _ _ ht => wf_ite (writeThrough_wf ht) ht) _ h

theorem invalidateLines_wf {s : State} (h : Memory.wf s = true) :
    Memory.wf (invalidateLines s) = true := wf_same h rfl

theorem cacheRoom_wf {s : State} {k : Fin 16} {line : Nat} {ro : Bool} (h : Memory.wf s = true) :
    Memory.wf (cacheRoom s k line ro) = true := by
  unfold cacheRoom
  extract_lets s1
  have hs1 : Memory.wf s1 = true := by
    unfold s1
    split
    · exact cacheDrop_wf (writeThrough_wf h)
    · exact h
  split <;> exact cachePut_wf hs1

theorem cacheStore_wf {s : State} {k : Fin 16} {x : WordStore} (h : Memory.wf s = true) :
    Memory.wf (cacheStore s k x) = true := by
  unfold cacheStore
  extract_lets s1
  have hs1 : Memory.wf s1 = true := cacheRoom_wf h
  split
  · exact cachePut_wf hs1
  · exact hs1

theorem cacheUpdate_wf {s : State} {x : WordStore} (h : Memory.wf s = true) :
    Memory.wf (cacheUpdate s x) = true := by
  unfold cacheUpdate
  split
  · exact wf_ite (cachePut_wf h) h
  · exact h

theorem startFetch_wf {s : State} {k : Fin 16} {line : Nat} {ro : Bool} (h : Memory.wf s = true) :
    Memory.wf (startFetch s k line ro) = true := wf_ite h (State.later_wf (askLines_wf (State.withCore_wf (wf_same h rfl))))

theorem fillLine_wf {s : State} {line : Nat} (h : Memory.wf s = true) :
    Memory.wf (fillLine s line) = true := by
  unfold fillLine
  split
  · exact cachePut_wf h
  · exact h

theorem pushStore_wf {s : State} {x : WordStore} {nc relaxed : Bool} (h : Memory.wf s = true) :
    Memory.wf (pushStore s x nc relaxed) = true := wf_same h rfl

theorem pushRelease_wf {s : State} {sc : Scope} {sig : Signal} {full : Bool} (h : Memory.wf s = true) :
    Memory.wf (pushRelease s sc sig full) = true := wf_same h rfl

theorem sendStore_wf {s : State} {k : Fin 16} {seq : Nat} {x : WordStore} (h : Memory.wf s = true) :
    Memory.wf (sendStore s k seq x) = true := wf_same h rfl

theorem leave_wf {s : State} {k : Fin 16} {seq : Nat} {x : WordStore} {nc relaxed : Bool} (h : Memory.wf s = true) :
    Memory.wf (leave s k seq x nc relaxed) = true := by
  unfold leave
  refine wf_ite (wf_ite (homeStore_wf h) (sendStore_wf h)) ?_
  exact wf_ite (wf_ite (cacheStore_wf h) (pushDbb_wf (cacheUpdate_wf h))) (pushDbb_wf (cacheUpdate_wf h))

/-! ## The operations of Machine/Operands -/

theorem read2_wf {s : State} {a b : Opd} {ta tb : Bool} (h : Memory.wf s = true) :
    ResWf (·.2.2) (read2 s a b ta tb) := .bind (readSrc_wf h) fun _ hx => .bind (readSrc_wf hx) fun _ hy => .ok hy

theorem read3_wf {s : State} {a b d : Opd} {ta tb : Bool} (h : Memory.wf s = true) :
    ResWf (·.2.2.2) (read3 s a b d ta tb) := .bind (read2_wf h) fun _ hx => .bind (readSrc_wf hx) fun _ hz => .ok hz

theorem int2_wf {s : State} {d a b : Opd} {ta tb : Bool} {f : Word → Word → Word} (h : Memory.wf s = true) :
    ResWf (·) (int2 s d a b ta tb f) := .seq fun _ => .bind (read2_wf h) fun _ hx => .bind (writeDest_wf hx) fun _ ht => .ok (retire_wf ht)

theorem int1_wf {s : State} {d a : Opd} {ta : Bool} {f : Word → Word} (h : Memory.wf s = true) :
    ResWf (·) (int1 s d a ta f) := .seq fun _ => .bind (readSrc_wf h) fun _ hx => .bind (writeDest_wf hx) fun _ ht => .ok (retire_wf ht)

theorem int0_wf {s : State} {d : Opd} {v : Word} (h : Memory.wf s = true) :
    ResWf (·) (int0 s d v) := .seq fun _ => .bind (writeDest_wf h) fun _ ht => .ok (retire_wf ht)

theorem takeLoss_wf {s : State} {k : Fin 16} {loss : Option Word} (h : Memory.wf s = true) :
    Memory.wf (takeLoss s k loss) = true := by
  unfold takeLoss
  split
  · exact raiseTrap_wf h
  · exact h

theorem floatEnd_wf {s : State} {fl : FFlags} {cs : List LossTest} (h : Memory.wf s = true) :
    Memory.wf (floatEnd s fl cs) = true := takeLoss_wf (retire_wf (State.mod_wf h))

theorem divideStart_wf {s : State} {ticket n : Nat} {r : DivResult} (h : Memory.wf s = true) :
    Memory.wf (divideStart s ticket n r) = true := wf_ite (State.at_wf (retire_wf h)) (State.setRun_wf (State.at_wf (retire_wf h)))

theorem setVec_wf {s : State} {n : VIdx} {r : VReg} (h : Memory.wf s = true) :
    Memory.wf (setVec s n r) = true := wf_same h rfl

theorem writeVec_wf {s : State} {n : VIdx} {l : Lanes} (h : Memory.wf s = true) :
    ResWf (·) (writeVec s n l) := .seq fun _ => .ok (setVec_wf h)

theorem writeVecPending_wf {s : State} {n : VIdx} {ticket : Nat} (h : Memory.wf s = true) :
    ResWf (·) (writeVecPending s n ticket) := .seq fun _ => .ok (setVec_wf h)

theorem setMask_wf {s : State} {m : MIdx} {v : Word} (h : Memory.wf s = true) :
    Memory.wf (setMask s m v) = true := wf_ite h (State.mod_wf h)

/-! ## The operations of Machine/Loads -/

theorem dropReq_wf {s : State} {ticket : Nat} (h : Memory.wf s = true) :
    Memory.wf (dropReq s ticket) = true := wf_same h rfl

theorem retry_wf {s : State} {a : Act} (h : Memory.wf s = true) :
    Memory.wf (retry s a) = true := wf_same h rfl

theorem wantLine_wf {s : State} {k : Fin 16} {line : Option (Nat × Bool)} (h : Memory.wf s = true) :
    Memory.wf (wantLine s k line) = true := by
  unfold wantLine
  split
  · exact wf_ite h (startFetch_wf h)
  · exact h

theorem deferred_wf {s : State} {r : Req} {cause : BitVec 8} {pa : Nat} (h : Memory.wf s = true) :
    Memory.wf (deferred s r cause pa) = true := by
  unfold deferred
  extract_lets t t1
  have ht : Memory.wf t = true := unbindFill_wf (dropReq_wf h)
  have ht1 : Memory.wf t1 = true := by
    unfold t1
    split
    · exact State.modStrand_wf ht
    · exact ht
  split
  · exact ht1
  · exact ht1
  · exact sendPacket_wf (State.modStrand_wf ht1) _
  · exact freeze_wf (dropWaits_wf ht1) _ _ _ _ _ _ _

theorem notYet_wf {s : State} {r : Req} {x : Got} (h : Memory.wf s = true) :
    Memory.wf (notYet s r x) = true := by
  unfold notYet
  split
  · exact retry_wf (wantLine_wf h)
  · exact deferred_wf h
  · exact deferred_wf h
  · exact h

theorem creditLat_wf {s : State} {ticket : Nat} {k : Fin 16} (h : Memory.wf s = true) :
    Memory.wf (creditLat s ticket k) = true := wf_same h rfl

theorem addLatcnt_wf {s : State} {r : Req} (h : Memory.wf s = true) :
    Memory.wf (addLatcnt s r) = true := wf_same h rfl

theorem logHostRead_wf {s : State} {pa len : Nat} {ws : List Word} (h : Memory.wf s = true) :
    Memory.wf (logHostRead s pa len ws) = true := by
  unfold logHostRead
  split
  · exact jayLog_wf h
  · exact h

theorem reply_wf {s : State} {r : Req} {v : Word} {t : Tag} (h : Memory.wf s = true) :
    Memory.wf (reply s r v t) = true := fillReg_wf (addLatcnt_wf (dropReq_wf h))

theorem noteServed_wf {s : State} {k : Fin 16} {e : Option Nat} (h : Memory.wf s = true) :
    Memory.wf (noteServed s k e) = true := by
  unfold noteServed
  split
  · exact State.modStrand_wf h
  · exact h

theorem useLines_wf {s : State} {ps : List Piece} (h : Memory.wf s = true) :
    Memory.wf (useLines s ps) = true := foldl_wf (fun _ _ ht => cacheTouch_wf ht) _ h

theorem performLoad_wf {s : State} {r : Req} {p : Piece} {signed : Bool} {tag : TagRead} {relaxed : Bool} (h : Memory.wf s = true) :
    Memory.wf (performLoad s r p signed tag relaxed) = true := by
  unfold performLoad
  split
  · split
    · dsimp only
      exact reply_wf (noteServed_wf (wf_same (useLines_wf (wf_ite (logHostRead_wf h) h)) rfl))
    · exact notYet_wf h
  · exact notYet_wf h

theorem performAcquire_wf {s : State} {r : Req} {p : Piece} {sc : Scope} (h : Memory.wf s = true) :
    Memory.wf (performAcquire s r p sc) = true := by
  unfold performAcquire
  split
  · extract_lets s1 s2
    have hs1 : Memory.wf s1 = true := wf_ite (logHostRead_wf h) h
    have hs2 : Memory.wf s2 = true := wf_same hs1 rfl
    exact wf_ite (State.modStrand_wf (dropReq_wf hs2)) (State.modStrand_wf (reply_wf hs2))
  · exact notYet_wf h

theorem performVector_wf {s : State} {r : Req} {ps : List (Nat × Piece × TagRead)} {t : Ty} {mask : Word} {tagged : Bool} {old : Lanes}
    (h : Memory.wf s = true) : Memory.wf (performVector s r ps t mask tagged old) = true := by
  unfold performVector
  split
  · extract_lets s1
    have hs1 : Memory.wf s1 = true := foldl_wf (fun _ _ ht => wf_ite (logHostRead_wf ht) ht) _ h
    exact fillVec_wf (addLatcnt_wf (dropReq_wf (wf_same (useLines_wf hs1) rfl)))
  · exact notYet_wf h

theorem atomicAt_wf {s : State} {p : Piece} {f : Word → Word × FFlags} (h : Memory.wf s = true) :
    OptWf (·.2.2) (atomicAt s p f) := .ite .none (.some (homeStore_wf h))

theorem performAtomic_wf {s : State} {r : Req} {again : Act} (h : Memory.wf s = true) :
    Memory.wf (performAtomic s r again) = true := by
  unfold performAtomic
  extract_lets p
  refine wf_ite (retry_wf (needCopy_wf h)) ?_
  split
  · rename_i x old fl t e
    have ht : Memory.wf t = true := atomicAt_wf h _ e
    exact State.modStrand_wf (reply_wf ht)
  · exact deferred_wf h

theorem sendAtomic_wf {s : State} {r : Req} (h : Memory.wf s = true) :
    Memory.wf (sendAtomic s r) = true := by
  unfold sendAtomic
  extract_lets pa s1
  have hs1 : Memory.wf s1 = true := by
    unfold s1
    split
    · exact cacheDrop_wf (writeThrough_wf h)
    · exact h
  exact pushDbb_wf hs1

theorem stepAtomic_wf {s : State} {r : Req} (h : Memory.wf s = true) :
    Memory.wf (stepAtomic s r) = true := by
  unfold stepAtomic
  extract_lets again
  refine wf_ite (retry_wf h) ?_
  refine wf_ite (wf_ite (retry_wf h) (atomArrive_wf h)) ?_
  exact wf_ite (performAtomic_wf h) (wf_ite h (wf_ite (sendAtomic_wf h) (retry_wf h)))

theorem otherAtomic_wf {s : State} {a : Access} (h : Memory.wf s = true) :
    Memory.wf (otherAtomic s a) = true := by
  unfold otherAtomic
  split
  · rename_i x r e
    have ht : Memory.wf r.2.2 = true := atomicAt_wf h _ e
    exact ht
  · exact h

theorem execAtomicEngineServe_wf {s : State} (h : Memory.wf s = true) :
    NextWf (execAtomicEngineServe s) := by
  unfold execAtomicEngineServe
  refine .ite (.next (wf_ite h (State.atOnce_wf h))) ?_
  split
  · exact .next h
  · extract_lets lines t t1
    have ht : Memory.wf t = true := State.withClu_wf h
    have ht1 : Memory.wf t1 = true := wf_ite ht (State.atOnce_wf ht)
    split
    · exact .next (wf_ite (performAtomic_wf ht1) ht1)
    · exact .next (bankServed_wf ht1)
    · exact .next (otherAtomic_wf ht1)

theorem joinHome_wf {s : State} {r : Req} (h : Memory.wf s = true) :
    Memory.wf (joinHome s r) = true := wf_ite h (wf_same h rfl)

theorem noteMoved_wf {s : State} {pa : Nat} (h : Memory.wf s = true) :
    Memory.wf (noteMoved s pa) = true := wf_same h rfl

theorem performLdf_wf {s : State} {r : Req} {pa : Nat} {keep : Bool} (h : Memory.wf s = true) :
    Memory.wf (performLdf s r pa keep) = true := by
  unfold performLdf
  extract_lets t
  have ht : Memory.wf t = true := reply_wf h
  exact wf_ite (deferred_wf h) (wf_ite (wf_ite ht (noteMoved_wf (setFe_wf ht _ _))) (retry_wf (joinHome_wf h)))

theorem performStf_wf {s : State} {r : Req} {pa : Nat} {data : Word} (h : Memory.wf s = true) :
    Memory.wf (performStf s r pa data) = true := by
  unfold performStf
  extract_lets ready
  refine wf_ite (retry_wf h) ?_
  refine wf_ite (wf_ite (retry_wf h) (pushDbb_wf h)) ?_
  refine wf_ite (deferred_wf (wf_ite (State.setRun_wf h) h)) ?_
  refine wf_ite (retry_wf (joinHome_wf h)) ?_
  exact noteMoved_wf (wf_ite (State.setRun_wf (dropReq_wf (setFe_wf (performStore_wf h _) _ _)))
      (dropReq_wf (setFe_wf (performStore_wf h _) _ _)))

theorem fillHome_wf {s : State} {pa : Nat} (h : Memory.wf s = true) :
    Memory.wf (fillHome s pa) = true := wf_ite (fillWord_wf h) (setFe_wf h _ _)

theorem emptyHome_wf {s : State} {pa : Nat} (h : Memory.wf s = true) :
    Memory.wf (emptyHome s pa) = true := wf_ite (emptyWord_wf h) (setFe_wf h _ _)

theorem feHome_wf {s : State} {full : Bool} {x : WordStore} (h : Memory.wf s = true) :
    Memory.wf (feHome s full x) = true := wf_ite (fillHome_wf (performStore_wf h _)) (emptyHome_wf h)

theorem performWrite_wf {s : State} {r : Req} {x : WordStore} {fe : Option Bool} (h : Memory.wf s = true) :
    Memory.wf (performWrite s r x fe) = true := by
  unfold performWrite
  extract_lets again
  refine wf_ite (retry_wf h) ?_
  refine wf_ite ?_ (wf_ite (retry_wf h) (pushDbb_wf (dropReq_wf h)))
  refine wf_ite (retry_wf (needCopy_wf h)) ?_
  split
  · exact feHome_wf (dropReq_wf h)
  · exact homeStore_wf (dropReq_wf h)

theorem execRemoteReplyArrive_wf {ticket : Nat} {s : State} (h : Memory.wf s = true) :
    NextWf (execRemoteReplyArrive ticket s) := by
  unfold execRemoteReplyArrive
  split
  · exact .next h
  · refine .ite (.next (retry_wf h)) ?_
    split
    · exact .next (stepAtomic_wf h)
    · exact .next (stepAtomic_wf h)
    · exact .next (wf_ite (performLoad_wf h) (retry_wf h))
    · exact .next (wf_ite (performAcquire_wf h) (retry_wf h))
    · exact .next (wf_ite (performVector_wf h) (retry_wf h))
    · exact .next (wf_ite (performLdf_wf h) (retry_wf h))
    · exact .next (wf_ite (performStf_wf h) (retry_wf h))
    · exact .next (wf_ite (performWrite_wf h) (retry_wf h))

theorem execCacheLineFill_wf {line : Nat} {s : State} (h : Memory.wf s = true) :
    NextWf (execCacheLineFill line s) := by
  unfold execCacheLineFill
  split
  · exact .next h
  · extract_lets s1 s2 s3 s4
    have hs1 : Memory.wf s1 = true := creditLat_wf h
    have hs2 : Memory.wf s2 = true := wf_same hs1 rfl
    have hs3 : Memory.wf s3 = true := cacheRoom_wf hs2
    have hs4 : Memory.wf s4 = true := logHostRead_wf hs3
    exact .ite (.next (retry_wf h)) (.next (fillLine_wf hs4))

theorem execStoreLeave_wf {k : Fin 16} {s : State} (h : Memory.wf s = true) :
    NextWf (execStoreLeave k s) := by
  unfold execStoreLeave
  split
  · exact .next h
  · extract_lets t
    have ht : Memory.wf t = true := wf_same h rfl
    refine .ite (.next (retry_wf (wf_ite (needCopy_wf h) h))) ?_
    exact .ite (.next (retry_wf (wf_ite h (bankArrive_wf h)))) (.next (leave_wf (State.modStrand_wf ht)))
  · exact .next (retry_wf h)

theorem promote_wf {s : State} {bank : Nat} (h : Memory.wf s = true) :
    Memory.wf (promote s bank) = true := by
  unfold promote
  dsimp only
  split
  · exact wf_ite (State.later_wf (State.withCore_wf (wf_same h rfl))) h
  · exact h

theorem stfArrives_wf {s : State} {ticket : Nat} (h : Memory.wf s = true) :
    Memory.wf (stfArrives s ticket) = true := by
  unfold stfArrives
  split
  · exact retry_wf (joinHome_wf h)
  · exact h

theorem performEntry_wf {s : State} {e : DbbEntry} (h : Memory.wf s = true) :
    Memory.wf (performEntry s e) = true := by
  unfold performEntry
  split
  · split
    · exact performAtomic_wf h
    · exact h
  · exact stfArrives_wf h
  · exact feHome_wf h
  · exact wf_ite (markPoison_wf (homeStore_wf h) _) (homeStore_wf h)

theorem sendEntry_wf {s : State} {e : DbbEntry} (h : Memory.wf s = true) :
    Memory.wf (sendEntry s e) = true := askLines_wf (wf_same h rfl)

theorem execDbbEntryAck_wf {bank : Fin 16} {s : State} (h : Memory.wf s = true) : NextWf (execDbbEntryAck bank s) := by
  unfold execDbbEntryAck
  split
  · exact .next h
  next e _ =>
    have he : Memory.wf (performEntry s e) = true := performEntry_wf h
    exact .ite (.next (retry_wf (needCopy_wf h))) (.ite (.next (retry_wf (sendEntry_wf h))) (.ite (.next (retry_wf h))
      (.next (promote_wf (State.withCore_wf (wf_same he rfl))))))

theorem execAcquireComplete_wf {k : Fin 16} {s : State} (h : Memory.wf s = true) :
    NextWf (execAcquireComplete k s) := by
  unfold execAcquireComplete
  extract_lets t
  have ht : Memory.wf t = true := writeThroughAll_wf h
  split
  · exact .next h
  · extract_lets t1
    have ht1 : Memory.wf t1 = true := by
      unfold t1
      split
      · exact fillReg_wf (creditLat_wf h)
      · exact h
    refine .ite (.next (retry_wf h)) ?_
    refine .ite (.ite (.next (retry_wf ht)) (.next (retry_wf (State.modStrand_wf (invalidateLines_wf ht))))) ?_
    exact .ite (.next (retry_wf h)) (.next (State.modStrand_wf ht1))

theorem fenceAdd_wf {s : State} {f i : Nat} {n : Word} (h : Memory.wf s = true) :
    Memory.wf (fenceAdd s f i n) = true := State.at_wf (putWord_wf (wf_ite (copyNow_wf h) h) _ _)

theorem releaseSignal_wf {s : State} {k : Fin 16} {seq : Nat} {x : Signal} (h : Memory.wf s = true) :
    Memory.wf (releaseSignal s k seq x) = true := by
  unfold releaseSignal
  split
  · exact h
  · exact wf_ite (homeStore_wf h) (wf_ite (State.later_wf (State.modStrand_wf h)) (pushDbb_wf (cacheUpdate_wf h)))
  · extract_lets t
    have ht : Memory.wf t = true := fenceAdd_wf h
    split
    · exact raiseMsix_wf ht
    · exact ht
  · exact State.later_wf (askLines_wf (wf_same h rfl))

theorem execReleaseComplete_wf {k : Fin 16} {s : State} (h : Memory.wf s = true) :
    NextWf (execReleaseComplete k s) := by
  unfold execReleaseComplete
  extract_lets t
  have ht : Memory.wf t = true := writeThroughAll_wf h
  split
  · refine .ite (.next (retry_wf h)) ?_
    refine .ite (.ite (.next (retry_wf ht)) (.next (retry_wf (State.modStrand_wf ht)))) ?_
    refine .ite (.next (retry_wf h)) ?_
    refine .ite (.next (retry_wf h)) ?_
    exact .ite (.next (retry_wf (needCopy_wf h))) (.next (releaseSignal_wf (State.modStrand_wf h)))
  · exact .next (retry_wf h)
  · exact .next h

theorem newWalk_wf {s : State} {vpn : Nat} {ks : List (Fin 16)} (h : Memory.wf s = true) :
    Memory.wf (newWalk s vpn ks) = true := wf_same h rfl

theorem takeWalk_wf {s : State} {w : Walk} (h : Memory.wf s = true) :
    Memory.wf (takeWalk s w) = true := State.later_wf (askLines_wf (wf_same h rfl))

theorem execTlbWalkStart_wf {vpn : Nat} {k : Fin 16} {s : State} (h : Memory.wf s = true) :
    NextWf (execTlbWalkStart vpn k s) := .ite (.next (wf_same h rfl)) (.ite (.next (newWalk_wf h)) (.next (retry_wf h)))

theorem wakeMiss_wf {s : State} {k : Fin 16} {f : Option WalkFault} (h : Memory.wf s = true) :
    Memory.wf (wakeMiss s k f) = true := wf_same h rfl

theorem execWalkComplete_wf {vpn : Nat} {s : State} (h : Memory.wf s = true) :
    NextWf (execWalkComplete vpn s) := by
  unfold execWalkComplete
  split
  · exact .next h
  · extract_lets hit who
    have hhit : Memory.wf hit = true := wf_same h rfl
    have hwho : Memory.wf who = true := by
      unfold who
      split
      · exact uncorrRecord_wf hhit
      · exact hhit
    refine .ite (.next (retry_wf h)) ?_
    refine .ite (.next (takeWalk_wf h)) ?_
    split
    · exact .next (foldl_wf (fun _ _ ht => wakeMiss_wf ht) _ (tlbFill_wf (wf_same h rfl)))
    · exact .next (foldl_wf (fun _ _ ht => wakeMiss_wf ht) _ hwho)

/-! ## The operations of Machine/MemInstr -/

theorem pushReq_wf {s : State} {ticket : Nat} {a : Access} {vas : List (Nat × Nat)} (h : Memory.wf s = true) :
    Memory.wf (pushReq s ticket a vas) = true := by
  unfold pushReq
  extract_lets far s1 s2 s3
  have hs1 : Memory.wf s1 = true := askLines_wf h
  have hs2 : Memory.wf s2 = true := foldl_wf (fun _ _ ht => wantLine_wf ht) _ hs1
  have hs3 : Memory.wf s3 = true := wf_ite (foldl_wf (fun _ _ ht => bankArrive_wf ht) _ hs2) hs2
  exact State.later_wf (wf_same hs3 rfl)

theorem pendScalar_wf {s : State} {d : Opd} {a : Access} {vas : List (Nat × Nat)} (h : Memory.wf s = true) :
    ResWf (·) (pendScalar s d a vas) := by
  unfold pendScalar
  extract_lets n
  have hn : Memory.wf n.2 = true := State.newTicket_wf h
  exact .seq fun _ => .seq fun _ => .bind (writePending_wf hn) fun _ ht => .ok (retire_wf (pushReq_wf ht))

theorem issueLoad_wf {s : State} {d : Opd} {va : Nat} {p : Piece} {signed : Bool} {tag : TagRead} {relaxed : Bool}
    (h : Memory.wf s = true) :
    ResWf (·) (issueLoad s d va p signed tag relaxed) := by
  unfold issueLoad
  extract_lets a vas how
  refine .ite ?_ ?_
  · split
    · split
      · exact .bind (writeDest_wf (wf_same h rfl)) fun _ ht => .ok (retire_wf ht)
      · exact .error
      · exact pendScalar_wf h
    · exact pendScalar_wf h
    · exact .error
    · exact .error
  · split
    · exact .error
    · exact pendScalar_wf h

theorem loadOp_wf {s : State} {d a : Opd} {ta : Bool} {imm : BitVec 11} {z : Nat} {signed tagged : Bool} (h : Memory.wf s = true) :
    ResWf (·) (loadOp s d a ta imm z signed tagged) := by
  unfold loadOp
  dsimp only
  refine .seq fun u => ?_
  refine .bind (readSrc_wf h) fun x hx => ?_
  refine .seq fun u1 => ?_
  refine .seq fun u2 => ?_
  exact .seq fun _ => .seq fun _ => .ite (.seq fun _ => issueLoad_wf hx) (.seq fun _ => issueLoad_wf hx)

theorem execLd8_wf {d a : Opd} {ta : Bool} {imm : BitVec 11} {s : State} (h : Memory.wf s = true) :
    NextWf (execLd8 d a ta imm s) := .finish h (loadOp_wf h)

theorem execLd8n_wf {d a : Opd} {ta : Bool} {imm : BitVec 11} {s : State} (h : Memory.wf s = true) :
    NextWf (execLd8n d a ta imm s) := .finish h (loadOp_wf h)

theorem execLd16_wf {d a : Opd} {ta : Bool} {imm : BitVec 11} {s : State} (h : Memory.wf s = true) :
    NextWf (execLd16 d a ta imm s) := .finish h (loadOp_wf h)

theorem execLd16n_wf {d a : Opd} {ta : Bool} {imm : BitVec 11} {s : State} (h : Memory.wf s = true) :
    NextWf (execLd16n d a ta imm s) := .finish h (loadOp_wf h)

theorem execLd32_wf {d a : Opd} {ta : Bool} {imm : BitVec 11} {s : State} (h : Memory.wf s = true) :
    NextWf (execLd32 d a ta imm s) := .finish h (loadOp_wf h)

theorem execLd32n_wf {d a : Opd} {ta : Bool} {imm : BitVec 11} {s : State} (h : Memory.wf s = true) :
    NextWf (execLd32n d a ta imm s) := .finish h (loadOp_wf h)

theorem execLd64_wf {d a : Opd} {ta : Bool} {imm : BitVec 11} {s : State} (h : Memory.wf s = true) :
    NextWf (execLd64 d a ta imm s) := .finish h (loadOp_wf h)

theorem execLdt_wf {d a : Opd} {ta : Bool} {imm : BitVec 11} {s : State} (h : Memory.wf s = true) :
    NextWf (execLdt d a ta imm s) := .finish h (loadOp_wf h)

theorem pushTag_wf {s : State} {va pa tag : Nat} (h : Memory.wf s = true) :
    ResWf (·) (pushTag s va pa tag) := by
  unfold pushTag
  refine .ite (.ok h) ?_
  split
  · exact .ok h
  · exact .seq fun _ => .seq fun _ => .ok (pushStore_wf h)

theorem storeOp_wf {s : State} {d a : Opd} {ta : Bool} {imm : BitVec 11} {z : Nat} {tagged : Bool} (h : Memory.wf s = true) :
    ResWf (·) (storeOp s d a ta imm z tagged) := by
  unfold storeOp
  dsimp only
  exact .seq fun _ => .bind (read2_wf h) fun _ hx => .seq fun _ => .seq fun _ => .seq fun _ => .seq fun _ => .seq fun _ => .seq fun _ =>
    .ite (.bind (pushTag_wf (pushStore_wf hx)) fun _ ht => .ok (retire_wf ht)) (.ok (retire_wf (pushStore_wf hx)))

theorem execSt8_wf {d a : Opd} {ta : Bool} {imm : BitVec 11} {s : State} (h : Memory.wf s = true) :
    NextWf (execSt8 d a ta imm s) := .finish h (storeOp_wf h)

theorem execSt16_wf {d a : Opd} {ta : Bool} {imm : BitVec 11} {s : State} (h : Memory.wf s = true) :
    NextWf (execSt16 d a ta imm s) := .finish h (storeOp_wf h)

theorem execSt32_wf {d a : Opd} {ta : Bool} {imm : BitVec 11} {s : State} (h : Memory.wf s = true) :
    NextWf (execSt32 d a ta imm s) := .finish h (storeOp_wf h)

theorem execSt64_wf {d a : Opd} {ta : Bool} {imm : BitVec 11} {s : State} (h : Memory.wf s = true) :
    NextWf (execSt64 d a ta imm s) := .finish h (storeOp_wf h)

theorem execStt_wf {d a : Opd} {ta : Bool} {imm : BitVec 11} {s : State} (h : Memory.wf s = true) :
    NextWf (execStt d a ta imm s) := .finish h (storeOp_wf h)

theorem ldfOwn.barPlace_wf {s : State} {d : Opd} (h : Memory.wf s = true) :
    ResWf (·.1) (ldfOwn.barPlace s d) := by
  unfold ldfOwn.barPlace
  dsimp only
  split
  · exact .bind (putDest_wf (State.newTicket_wf h)) fun _ ht => .ok ht
  · split <;> exact .seq fun _ => .ok h

theorem ldfOwn_wf {s : State} {d : Opd} {va pa : Nat} {kind : WaiterKind} {wait : Nat → Wait} (h : Memory.wf s = true) :
    ResWf (·) (ldfOwn s d va pa kind wait) := .bind (ldfOwn.barPlace_wf h) fun _ ht => .ok (feWalk_wf (State.setRun_wf (addWaiter_wf ht)))

theorem ldfOp_wf {s : State} {d a : Opd} {ta : Bool} {imm : BitVec 11} {keep : Bool} (h : Memory.wf s = true) :
    ResWf (·) (ldfOp s d a ta imm keep) := by
  unfold ldfOp
  refine .seq fun u => ?_
  refine .bind (readSrc_wf h) fun x hx => ?_
  exact .seq fun _ => .seq fun _ => .seq fun _ => .ite (ldfOwn_wf hx) (pendScalar_wf hx)

theorem execLdf_wf {d a : Opd} {ta : Bool} {imm : BitVec 11} {s : State} (h : Memory.wf s = true) :
    NextWf (execLdf d a ta imm s) := .finish h (ldfOp_wf h)

theorem execLdw_wf {d a : Opd} {ta : Bool} {imm : BitVec 11} {s : State} (h : Memory.wf s = true) :
    NextWf (execLdw d a ta imm s) := .finish h (ldfOp_wf h)

theorem stfOperands_wf {s : State} {d a : Opd} {ta : Bool} {imm : BitVec 11} (h : Memory.wf s = true) :
    ResWf (·.2.2.2) (stfOperands s d a ta imm) :=
  .seq fun _ => .bind (read2_wf h) fun _ hx => .seq fun _ => .seq fun _ => .seq fun _ => .ok hx

theorem execStf_wf {d a : Opd} {ta : Bool} {imm : BitVec 11} {s : State} (h : Memory.wf s = true) :
    NextWf (execStf d a ta imm s) :=
  .finish h (.bind (stfOperands_wf h) fun _ ht => .ite (ldfOwn_wf ht)
    (.seq fun _ => .ok (State.setRun_wf (retire_wf (pushReq_wf (State.newTicket_wf ht))))))

theorem feWrite_wf {s : State} {full : Bool} {va : Nat} {x : WordStore} (h : Memory.wf s = true) :
    ResWf (·) (feWrite s full va x) :=
  .ite (.ok (feHome_wf (retire_wf h))) (.seq fun _ => .ok (retire_wf (pushReq_wf (State.newTicket_wf h))))

theorem execStff_wf {d a : Opd} {ta : Bool} {imm : BitVec 11} {s : State} (h : Memory.wf s = true) :
    NextWf (execStff d a ta imm s) := .finish h (.bind (stfOperands_wf h) fun ⟨_, _, _, _⟩ ht => feWrite_wf ht)

theorem execClre_wf {a : Opd} {ta : Bool} {imm : BitVec 11} {s : State} (h : Memory.wf s = true) :
    NextWf (execClre a ta imm s) := by
  unfold execClre
  refine .finish h ?_
  exact .seq fun _ => .bind (readSrc_wf h) fun _ hx => .seq fun _ => .seq fun _ => .seq fun _ => feWrite_wf hx

theorem startAcquire_wf {s : State} {sc : Scope} (h : Memory.wf s = true) :
    Memory.wf (startAcquire s sc) = true := wf_ite (State.later_wf (State.mod_wf h)) (State.mod_wf h)

theorem issueAcquire_wf {s : State} {d : Opd} {va : Nat} {p : Piece} {sc : Scope} (h : Memory.wf s = true) :
    ResWf (·) (issueAcquire s d va p sc) := by
  unfold issueAcquire
  dsimp only
  refine .ite ?_ ?_
  · split
    · exact .bind (writeDest_wf (wf_same h rfl)) fun _ ht => .ok (retire_wf ht)
    · exact .bind (pendScalar_wf h) fun _ ht => .ok (startAcquire_wf ht)
    · exact .error
    · exact .error
  · refine .ite (.seq fun _ => .bind (pendScalar_wf h) fun _ ht => .ok (startAcquire_wf ht)) ?_
    exact .bind (pendScalar_wf h) fun _ ht => .ok (startAcquire_wf ht)

theorem execLdaq_wf {d a : Opd} {ta wide : Bool} {sc : Scope} {s : State} (h : Memory.wf s = true) :
    NextWf (execLdaq d a ta wide sc s) := by
  unfold execLdaq
  extract_lets z
  refine .finish h ?_
  refine .seq fun u => ?_
  refine .bind (readSrc_wf h) fun x hx => ?_
  exact .seq fun _ => .seq fun _ => .seq fun _ => .seq fun _ => .ite (issueLoad_wf hx) (issueAcquire_wf hx)

theorem execStrl_wf {d a : Opd} {ta wide : Bool} {sc : Scope} {s : State} (h : Memory.wf s = true) :
    NextWf (execStrl d a ta wide sc s) := by
  unfold execStrl
  dsimp only
  refine .finish h ?_
  refine .seq fun u => ?_
  refine .bind (read2_wf h) fun x hx => ?_
  refine .seq fun u1 => ?_
  refine .seq fun u2 => ?_
  refine .seq fun y => ?_
  refine .seq fun u3 => ?_
  refine .seq fun u4 => ?_
  refine .ite (.seq fun _ => .ok (retire_wf (wf_ite (pushStore_wf hx) (pushRelease_wf hx)))) ?_
  exact .ok (retire_wf (wf_ite (pushStore_wf hx) (pushRelease_wf hx)))

theorem cacheOperand_wf {s : State} {a : Opd} (h : Memory.wf s = true) :
    ResWf (·.1) (cacheOperand s a) := .seq fun _ => .bind (readSrc_wf h) fun _ hx => .seq fun _ => .ok hx

theorem throughLine_wf {s : State} {line : Nat} (h : Memory.wf s = true) :
    Memory.wf (throughLine s line) = true := by
  unfold throughLine
  split
  · exact writeThrough_wf h
  · exact h

theorem execCinv_wf {a : Opd} {s : State} (h : Memory.wf s = true) :
    NextWf (execCinv a s) := by
  unfold execCinv
  refine .finish h ?_
  refine .bind (cacheOperand_wf h) fun x hx => ?_
  refine .ok ?_
  refine retire_wf ?_
  split
  · exact cacheDrop_wf hx
  · exact hx

theorem execCwb_wf {a : Opd} {s : State} (h : Memory.wf s = true) :
    NextWf (execCwb a s) := by
  unfold execCwb
  refine .finish h ?_
  refine .bind (cacheOperand_wf h) fun x hx => ?_
  split
  · exact .seq fun _ => .ok (retire_wf (throughLine_wf hx))
  · exact .ok (retire_wf hx)

theorem execCwbi_wf {a : Opd} {s : State} (h : Memory.wf s = true) :
    NextWf (execCwbi a s) := by
  unfold execCwbi
  refine .finish h ?_
  refine .bind (cacheOperand_wf h) fun x hx => ?_
  split
  · exact .seq fun _ => .ok (retire_wf (cacheDrop_wf (throughLine_wf hx)))
  · exact .ok (retire_wf hx)

theorem execPref_wf {a : Opd} {s : State} (h : Memory.wf s = true) :
    NextWf (execPref a s) := by
  unfold execPref
  refine .finish h ?_
  refine .seq fun u => ?_
  refine .bind (readSrc_wf h) fun x hx => ?_
  split
  · exact .ok (retire_wf (wf_ite (startFetch_wf hx) hx))
  · exact .ok (retire_wf hx)
  · exact .error

theorem vecBase_wf {s : State} {a b : Opd} (h : Memory.wf s = true) :
    ResWf (·.2) (vecBase s a b) := .bind (read2_wf h) fun _ hx => .ok hx

theorem issueVector_wf {s : State} {d : VIdx} {ps : List (Nat × Piece × TagRead)} {vas : List (Nat × Nat)} {t : Ty} {mask : Word} {tagged : Bool}
    {old : Lanes} (h : Memory.wf s = true) :
    ResWf (·) (issueVector s d ps vas t mask tagged old) := by
  unfold issueVector
  extract_lets a n pend
  have hn : Memory.wf n.2 = true := State.newTicket_wf h
  refine .ite ?_ ?_
  · split
    · exact .bind (writeVec_wf h) fun _ hu => .ok (retire_wf hu)
    · exact .error
    · exact .error
    · exact .seq fun _ => .seq fun _ => .bind (writeVecPending_wf hn) fun _ hu => .ok (retire_wf (pushReq_wf hu))
  · split
    · exact .error
    · exact .seq fun _ => .seq fun _ => .bind (writeVecPending_wf hn) fun _ hu => .ok (retire_wf (pushReq_wf hu))

theorem vecLoad_wf {s : State} {d : VIdx} {a b : Opd} {m : MIdx} {t : Ty} {tagged : Bool} (h : Memory.wf s = true) :
    ResWf (·) (vecLoad s d a b m t tagged) := by
  unfold vecLoad
  dsimp only
  refine .seq fun u => ?_
  refine .bind (vecBase_wf h) fun x hx => ?_
  refine .seq fun old => ?_
  refine .seq fun u1 => ?_
  refine .seq fun u2 => ?_
  refine .ite (.seq fun _ => .seq fun _ => .seq fun _ => issueVector_wf hx) ?_
  exact .seq fun _ => .seq fun _ => issueVector_wf hx

theorem execVld_wf {d : VIdx} {a b : Opd} {m : MIdx} {t : Ty} {s : State} (h : Memory.wf s = true) :
    NextWf (execVld d a b m t s) := .finish h (vecLoad_wf h)

theorem execVldt_wf {d : VIdx} {a b : Opd} {m : MIdx} {t : Ty} {s : State} (h : Memory.wf s = true) :
    NextWf (execVldt d a b m t s) := .finish h (vecLoad_wf h)

theorem vecPush_wf {s : State} {l : Lanes} {mask : Word} {w : Nat} {tagged : Bool} {ys : List (Nat × Nat × Xlat)}
    (h : Memory.wf s = true) : ResWf (·) (vecPush s l mask w tagged ys) := by
  induction ys generalizing s with
  | nil => exact .ok h
  | cons y ys ih =>
    unfold vecPush
    dsimp only
    exact .seq fun _ => .ite (.bind (pushTag_wf (pushStore_wf h)) fun _ ht => ih ht) (ih (pushStore_wf h))

theorem vecStore_wf {s : State} {d : VIdx} {a b : Opd} {m : MIdx} {t : Ty} {tagged : Bool} (h : Memory.wf s = true) :
    ResWf (·) (vecStore s d a b m t tagged) := by
  unfold vecStore
  dsimp only
  refine .seq fun _ => .bind (vecBase_wf h) fun _ hx => .seq fun _ => .seq fun _ => .seq fun _ => .seq fun _ => ?_
  exact .ite (.seq fun _ => .seq fun _ => .bind (vecPush_wf hx) fun _ hu => .ok (retire_wf hu))
    (.seq fun _ => .bind (vecPush_wf hx) fun _ hu => .ok (retire_wf hu))

theorem execVst_wf {d : VIdx} {a b : Opd} {m : MIdx} {t : Ty} {s : State} (h : Memory.wf s = true) :
    NextWf (execVst d a b m t s) := .finish h (vecStore_wf h)

theorem execVstt_wf {d : VIdx} {a b : Opd} {m : MIdx} {t : Ty} {s : State} (h : Memory.wf s = true) :
    NextWf (execVstt d a b m t s) := .finish h (vecStore_wf h)

theorem gatherOperands_wf {s : State} {d : VIdx} {a : Opd} {k : VIdx} {m : MIdx} {t : Ty} {load : Bool} (h : Memory.wf s = true) :
    ResWf (·.1) (gatherOperands s d a k m t load) := by
  unfold gatherOperands
  dsimp only
  refine .seq fun u => ?_
  refine .bind (readSrc_wf h) fun x hx => ?_
  refine .seq fun idx => ?_
  refine .seq fun old => ?_
  refine .ite (.seq fun _ => .seq fun _ => .seq fun _ => .ok hx) ?_
  exact .seq fun _ => .seq fun _ => .seq fun _ => .ok hx

theorem execVgath_wf {d : VIdx} {a : Opd} {k : VIdx} {m : MIdx} {t : Ty} {s : State} (h : Memory.wf s = true) :
    NextWf (execVgath d a k m t s) := .finish h (.bind (gatherOperands_wf h) fun _ hx => issueVector_wf hx)

theorem execVscat_wf {d : VIdx} {a : Opd} {k : VIdx} {m : MIdx} {t : Ty} {s : State} (h : Memory.wf s = true) :
    NextWf (execVscat d a k m t s) := by
  unfold execVscat
  refine .finish h ?_
  refine .bind (gatherOperands_wf h) fun x hx => ?_
  exact .seq fun _ => .seq fun _ => .ok (retire_wf (foldl_wf (fun _ _ ht => pushStore_wf ht) _ hx))

/-! ## The operations of Machine/Atomics -/

theorem issueAtomic_wf {before s : State} {srcs : List Opd} {d : Opd} {addr : Word} {z : Nat} {mk : Piece → Access}
    (h : Memory.wf s = true) :
    ResWf (·) (issueAtomic before s srcs d addr z mk) := by
  unfold issueAtomic
  dsimp only
  refine .seq fun u => ?_
  refine .seq fun u1 => ?_
  refine .seq fun y => ?_
  refine .ite ?_ ?_
  · refine .seq fun u2 => ?_
    refine .ite ?_ (pendScalar_wf h)
    split
    · refine .bind (pendScalar_wf h) fun u3 hu3 => ?_
      refine .ok ?_
      split
      · exact deferred_wf hu3
      · exact hu3
    · rename_i x old fl t e
      have ht : Memory.wf t = true := atomicAt_wf h _ e
      exact .bind (writeDest_wf ht) fun _ ht1 => .ok (retire_wf (State.mod_wf ht1))
  · refine .seq fun u2 => ?_
    refine .ite ?_ (pendScalar_wf h)
    split
    · refine .bind (pendScalar_wf h) fun u3 hu3 => ?_
      refine .ok ?_
      split
      · exact deferred_wf hu3
      · exact hu3
    · rename_i x old fl t e
      have ht : Memory.wf t = true := atomicAt_wf h _ e
      exact .bind (writeDest_wf ht) fun _ ht1 => .ok (retire_wf (State.mod_wf ht1))

theorem amoOp_wf {s : State} {d a b : Opd} {ta tb : Bool} {fn : BitVec 4} {z : Nat} (h : Memory.wf s = true) :
    ResWf (·) (amoOp s d a b ta tb fn z) := .seq fun _ => .bind (read2_wf h) fun _ hx => issueAtomic_wf hx

theorem execAmoAdd_wf {d a b : Opd} {ta tb : Bool} {s : State} (h : Memory.wf s = true) :
    NextWf (execAmoAdd d a b ta tb s) := .finish h (amoOp_wf h)

theorem execAmoAnd_wf {d a b : Opd} {ta tb : Bool} {s : State} (h : Memory.wf s = true) :
    NextWf (execAmoAnd d a b ta tb s) := .finish h (amoOp_wf h)

theorem execAmoOr_wf {d a b : Opd} {ta tb : Bool} {s : State} (h : Memory.wf s = true) :
    NextWf (execAmoOr d a b ta tb s) := .finish h (amoOp_wf h)

theorem execAmoXor_wf {d a b : Opd} {ta tb : Bool} {s : State} (h : Memory.wf s = true) :
    NextWf (execAmoXor d a b ta tb s) := .finish h (amoOp_wf h)

theorem execAmoMin_wf {d a b : Opd} {ta tb : Bool} {s : State} (h : Memory.wf s = true) :
    NextWf (execAmoMin d a b ta tb s) := .finish h (amoOp_wf h)

theorem execAmoMax_wf {d a b : Opd} {ta tb : Bool} {s : State} (h : Memory.wf s = true) :
    NextWf (execAmoMax d a b ta tb s) := .finish h (amoOp_wf h)

theorem execAmoMinn_wf {d a b : Opd} {ta tb : Bool} {s : State} (h : Memory.wf s = true) :
    NextWf (execAmoMinn d a b ta tb s) := .finish h (amoOp_wf h)

theorem execAmoMaxn_wf {d a b : Opd} {ta tb : Bool} {s : State} (h : Memory.wf s = true) :
    NextWf (execAmoMaxn d a b ta tb s) := .finish h (amoOp_wf h)

theorem execAmoSwap_wf {d a b : Opd} {ta tb : Bool} {s : State} (h : Memory.wf s = true) :
    NextWf (execAmoSwap d a b ta tb s) := .finish h (amoOp_wf h)

theorem execAmoFadd32_wf {d a b : Opd} {ta tb : Bool} {s : State} (h : Memory.wf s = true) :
    NextWf (execAmoFadd32 d a b ta tb s) := .finish h (amoOp_wf h)

theorem execAmoFadd64_wf {d a b : Opd} {ta tb : Bool} {s : State} (h : Memory.wf s = true) :
    NextWf (execAmoFadd64 d a b ta tb s) := .finish h (amoOp_wf h)

theorem execCas_wf {d a b : Opd} {ta tb narrow : Bool} {s : State} (h : Memory.wf s = true) :
    NextWf (execCas d a b ta tb narrow s) := .finish h (.seq fun _ => .bind (read3_wf h) fun _ hx => issueAtomic_wf hx)

/-! ## The operations of Machine/Control -/

theorem State.goto_wf {s : State} {pc : Addr} (h : Memory.wf s = true) :
    Memory.wf (s.goto pc) = true := wf_same h rfl

theorem branch_wf {s : State} {taken : Bool} {off : BitVec 12} (h : Memory.wf s = true) :
    Memory.wf (branch s taken off) = true := wf_ite (State.goto_wf h) (retire_wf h)

theorem cmpBranch_wf {s : State} {a b : Opd} {off : BitVec 12} {f : Word → Word → Bool} (h : Memory.wf s = true) :
    ResWf (·) (cmpBranch s a b off f) := .seq fun _ => .bind (read2_wf h) fun _ hx => .ok (branch_wf hx)

theorem execBeq_wf {a b : Opd} {off : BitVec 12} {s : State} (h : Memory.wf s = true) :
    NextWf (execBeq a b off s) := .finish h (cmpBranch_wf h)

theorem execBne_wf {a b : Opd} {off : BitVec 12} {s : State} (h : Memory.wf s = true) :
    NextWf (execBne a b off s) := .finish h (cmpBranch_wf h)

theorem execBlt_wf {a b : Opd} {off : BitVec 12} {s : State} (h : Memory.wf s = true) :
    NextWf (execBlt a b off s) := .finish h (cmpBranch_wf h)

theorem execBge_wf {a b : Opd} {off : BitVec 12} {s : State} (h : Memory.wf s = true) :
    NextWf (execBge a b off s) := .finish h (cmpBranch_wf h)

theorem execBlo_wf {a b : Opd} {off : BitVec 12} {s : State} (h : Memory.wf s = true) :
    NextWf (execBlo a b off s) := .finish h (cmpBranch_wf h)

theorem execBhs_wf {a b : Opd} {off : BitVec 12} {s : State} (h : Memory.wf s = true) :
    NextWf (execBhs a b off s) := .finish h (cmpBranch_wf h)

theorem execBsig_wf {a : Opd} {thr : BitVec 6} {off : BitVec 12} {s : State} (h : Memory.wf s = true) :
    NextWf (execBsig a thr off s) := .finish h (.seq fun _ => .bind (readSrc_wf h) fun _ hx => .ok (branch_wf hx))

theorem execBemp_wf {a : Opd} {off : BitVec 12} {s : State} (h : Memory.wf s = true) :
    NextWf (execBemp a off s) := .finish h (.seq fun _ => .ok (branch_wf h))

theorem execJmp_wf {off : BitVec 24} {s : State} (h : Memory.wf s = true) :
    NextWf (execJmp off s) := .finish h (.ok (State.goto_wf h))

theorem execJmpr_wf {a : Opd} {ta : Bool} {s : State} (h : Memory.wf s = true) :
    NextWf (execJmpr a ta s) := .finish h (.seq fun _ => .bind (readSrc_wf h) fun _ hx => .seq fun _ => .ok (State.goto_wf hx))

theorem spillEntry_wf {s : State} {k : Fin 16} {rec f i : Nat} (h : Memory.wf s = true) :
    Memory.wf (spillEntry s k rec f i) = true :=
  State.modStrand_wf (wf_ite (fillWord_wf (performStore_wf h _)) (emptyWord_wf (performStore_wf h _)))

theorem spillFrame_wf {s : State} {k : Fin 16} {rec f : Nat} (h : Memory.wf s = true) :
    Memory.wf (spillFrame s k rec f) = true := foldl_wf (fun _ _ ht => spillEntry_wf ht) _ h

theorem fillEntry_wf {s : State} {k : Fin 16} {rec f i : Nat} (h : Memory.wf s = true) :
    Memory.wf (fillEntry s k rec f i) = true := wf_same h rfl

theorem fillFrame_wf {s : State} {k : Fin 16} {rec f : Nat} (h : Memory.wf s = true) :
    Memory.wf (fillFrame s k rec f) = true := foldl_wf (fun _ _ ht => fillEntry_wf ht) _ h

theorem spillOwed_wf {s : State} {k : Fin 16} (h : Memory.wf s = true) :
    Memory.wf (spillOwed s k) = true := wf_ite (State.at_wf (State.modStrand_wf h)) (spillFrame_wf (State.modStrand_wf h))

theorem fillOwed_wf {s : State} {k : Fin 16} {pc : Addr} {ins : BitVec 32} (h : Memory.wf s = true) :
    Memory.wf (fillOwed s k pc ins) = true := by
  unfold fillOwed
  extract_lets o t
  have ht : Memory.wf t = true := State.modStrand_wf h
  refine wf_ite (State.at_wf (State.modStrand_wf h)) ?_
  split
  · exact freeze_wf (State.modStrand_wf ht) _ _ _ _ _ _ _
  · exact fillFrame_wf ht

theorem callTo_wf {before s : State} {srcs : List Opd} {target : Addr} (h : Memory.wf s = true) :
    ResWf (·) (callTo before s srcs target) := by
  unfold callTo
  extract_lets l spill link t
  have ht : Memory.wf t = true := State.mod_wf (State.mod_wf (dropHandle_wf h))
  exact .seq fun _ => .seq fun _ => .ok (State.goto_wf (wf_ite (spillOwed_wf ht) ht))

theorem execCall_wf {off : BitVec 24} {s : State} (h : Memory.wf s = true) :
    NextWf (execCall off s) := .finish h (callTo_wf h)

theorem execCallr_wf {a : Opd} {ta : Bool} {s : State} (h : Memory.wf s = true) :
    NextWf (execCallr a ta s) := .finish h (.seq fun _ => .bind (readSrc_wf h) fun _ hx => .seq fun _ => callTo_wf hx)

theorem execRet_wf {s : State} (h : Memory.wf s = true) :
    NextWf (execRet s) := by
  unfold execRet
  dsimp only
  refine .finish h ?_
  refine .bind (readSrc_wf h) fun x hx => ?_
  refine .seq fun t => ?_
  refine .ite ?_ (.ok (wf_ite (fillOwed_wf (State.goto_wf (State.mod_wf hx))) (State.goto_wf (State.mod_wf hx))))
  refine .ite ?_ ?_
  · refine .seq fun u => ?_
    refine .seq fun u1 => ?_
    split
    · refine .seq fun u2 => ?_
      exact .ok (wf_ite (fillOwed_wf (State.goto_wf (State.mod_wf hx))) (State.goto_wf (State.mod_wf hx)))
    · refine .seq fun u2 => ?_
      exact .ok (wf_ite (fillOwed_wf (State.goto_wf (State.mod_wf hx))) (State.goto_wf (State.mod_wf hx)))
  · refine .seq fun u => ?_
    split
    · refine .seq fun u1 => ?_
      exact .ok (wf_ite (fillOwed_wf (State.goto_wf (State.mod_wf hx))) (State.goto_wf (State.mod_wf hx)))
    · refine .seq fun u1 => ?_
      exact .ok (wf_ite (fillOwed_wf (State.goto_wf (State.mod_wf hx))) (State.goto_wf (State.mod_wf hx)))

theorem execWindowSpill_wf {k : Fin 16} {s : State} (h : Memory.wf s = true) :
    NextWf (execWindowSpill k s) := by
  unfold execWindowSpill
  refine .next ?_
  split
  · exact spillOwed_wf h
  · exact h

theorem execWindowFill_wf {k : Fin 16} {s : State} (h : Memory.wf s = true) :
    NextWf (execWindowFill k s) := by
  unfold execWindowFill
  refine .next ?_
  split
  · exact fillOwed_wf h
  · exact h

theorem execTret_wf {s : State} (h : Memory.wf s = true) :
    NextWf (execTret s) := .finish h (.seq fun _ => .ok (State.mod_wf h))

theorem execSys_wf {imm : BitVec 24} {s : State} (h : Memory.wf s = true) :
    NextWf (execSys imm s) := .finish h (.ok (raiseTrap_wf (retire_wf h)))

theorem execBrk_wf {imm : BitVec 24} {s : State} (h : Memory.wf s = true) :
    NextWf (execBrk imm s) := .finish h (.ok (raiseTrap_wf (retire_wf h)))

theorem noteCellEnd_wf {s : State} (h : Memory.wf s = true) :
    Memory.wf (noteCellEnd s) = true := wf_ite (State.at_wf h) h

theorem wakeClaims_wf {s : State} (h : Memory.wf s = true) :
    Memory.wf (wakeClaims s) = true := foldl_wf (fun _ _ ht => wf_ite (State.at_wf ht) ht) _ h

theorem haltStrand_wf {s : State} {k : Fin 16} (h : Memory.wf s = true) :
    Memory.wf (haltStrand s k) = true := noteCellEnd_wf (State.modStrand_wf h)

theorem execYield_wf {s : State} (h : Memory.wf s = true) :
    NextWf (execYield s) := .finish h (.ok (State.setRun_wf (retire_wf h)))

theorem execIdle_wf {s : State} (h : Memory.wf s = true) :
    NextWf (execIdle s) := .finish h (.seq fun _ => .ok (wakeClaims_wf (noteCellEnd_wf (State.setRun_wf (retire_wf h)))))

theorem execHalt_wf {s : State} (h : Memory.wf s = true) :
    NextWf (execHalt s) := .finish h (.ok (haltStrand_wf (retire_wf h)))

/-! ## The operations of Machine/FloatScalar -/

theorem float2_wf {s : State} {d a b : Opd} {ta tb : Bool} {t : Ty} {f : Fmt → RMode → FOp → FOp → FRes} (h : Memory.wf s = true) :
    ResWf (·) (float2 s d a b ta tb t f) :=
  .seq fun _ => .bind (read2_wf h) fun _ hx => .bind (writeDest_wf hx) fun _ hu => .ok (floatEnd_wf hu)

theorem float3_wf {s : State} {d a b : Opd} {ta tb : Bool} {t : Ty} {negP negZ : Bool} (h : Memory.wf s = true) :
    ResWf (·) (float3 s d a b ta tb t negP negZ) :=
  .seq fun _ => .bind (read3_wf h) fun _ hx => .bind (writeDest_wf hx) fun _ hu => .ok (floatEnd_wf hu)

theorem execFadd_wf {d a b : Opd} {ta tb : Bool} {t : Ty} {s : State} (h : Memory.wf s = true) :
    NextWf (execFadd d a b ta tb t s) := .finish h (float2_wf h)

theorem execFsub_wf {d a b : Opd} {ta tb : Bool} {t : Ty} {s : State} (h : Memory.wf s = true) :
    NextWf (execFsub d a b ta tb t s) := .finish h (float2_wf h)

theorem execFmul_wf {d a b : Opd} {ta tb : Bool} {t : Ty} {s : State} (h : Memory.wf s = true) :
    NextWf (execFmul d a b ta tb t s) := .finish h (float2_wf h)

theorem execFdiv_wf {d a b : Opd} {ta tb : Bool} {t : Ty} {s : State} (h : Memory.wf s = true) :
    NextWf (execFdiv d a b ta tb t s) := by
  unfold execFdiv
  refine .finish h ?_
  refine .seq fun u => ?_
  refine .bind (read2_wf h) fun x hx => ?_
  exact .bind (writePending_wf (State.newTicket_wf hx)) fun _ hu1 => .ok (divideStart_wf hu1)

theorem execFsqrt_wf {d a : Opd} {ta : Bool} {t : Ty} {s : State} (h : Memory.wf s = true) :
    NextWf (execFsqrt d a ta t s) := by
  unfold execFsqrt
  refine .finish h ?_
  refine .seq fun u => ?_
  refine .bind (readSrc_wf h) fun x hx => ?_
  exact .bind (writePending_wf (State.newTicket_wf hx)) fun _ hu1 => .ok (divideStart_wf hu1)

theorem execFma_wf {d a b : Opd} {ta tb : Bool} {t : Ty} {s : State} (h : Memory.wf s = true) :
    NextWf (execFma d a b ta tb t s) := .finish h (float3_wf h)

theorem execFms_wf {d a b : Opd} {ta tb : Bool} {t : Ty} {s : State} (h : Memory.wf s = true) :
    NextWf (execFms d a b ta tb t s) := .finish h (float3_wf h)

theorem execFnma_wf {d a b : Opd} {ta tb : Bool} {t : Ty} {s : State} (h : Memory.wf s = true) :
    NextWf (execFnma d a b ta tb t s) := .finish h (float3_wf h)

theorem floatMinMax_wf {s : State} {d a b : Opd} {t : Ty} {isMax : Bool} (h : Memory.wf s = true) :
    ResWf (·) (floatMinMax s d a b t isMax) :=
  .seq fun _ => .bind (read2_wf h) fun _ hx => .bind (writeDest_wf hx) fun _ hu => .ok (floatEnd_wf hu)

theorem execFmin_wf {d a b : Opd} {t : Ty} {s : State} (h : Memory.wf s = true) :
    NextWf (execFmin d a b t s) := .finish h (floatMinMax_wf h)

theorem execFmax_wf {d a b : Opd} {t : Ty} {s : State} (h : Memory.wf s = true) :
    NextWf (execFmax d a b t s) := .finish h (floatMinMax_wf h)

theorem floatCompare_wf {s : State} {d a b : Opd} {t : Ty} {f : FVal → FVal → Bool × FFlags} (h : Memory.wf s = true) :
    ResWf (·) (floatCompare s d a b t f) :=
  .seq fun _ => .bind (read2_wf h) fun _ hx => .bind (writeDest_wf hx) fun _ hu => .ok (floatEnd_wf hu)

theorem execFeq_wf {d a b : Opd} {t : Ty} {s : State} (h : Memory.wf s = true) :
    NextWf (execFeq d a b t s) := .finish h (floatCompare_wf h)

theorem execFlt_wf {d a b : Opd} {t : Ty} {s : State} (h : Memory.wf s = true) :
    NextWf (execFlt d a b t s) := .finish h (floatCompare_wf h)

theorem execFle_wf {d a b : Opd} {t : Ty} {s : State} (h : Memory.wf s = true) :
    NextWf (execFle d a b t s) := .finish h (floatCompare_wf h)

theorem execFunord_wf {d a b : Opd} {t : Ty} {s : State} (h : Memory.wf s = true) :
    NextWf (execFunord d a b t s) := .finish h (floatCompare_wf h)

theorem execFcvt_wf {d a : Opd} {ta : Bool} {src tgt : Ty} {s : State} (h : Memory.wf s = true) :
    NextWf (execFcvt d a ta src tgt s) := by
  unfold execFcvt
  extract_lets r
  refine .finish h ?_
  exact .seq fun _ => .bind (readSrc_wf h) fun _ hx => .bind (writeDest_wf hx) fun _ hu => .ok (floatEnd_wf hu)

theorem execFclass_wf {d a : Opd} {ta : Bool} {t : Ty} {s : State} (h : Memory.wf s = true) :
    NextWf (execFclass d a ta t s) := by
  unfold execFclass
  refine .finish h ?_
  exact .seq fun _ => .bind (readSrc_wf h) fun _ hx => .bind (writeDest_wf hx) fun _ hu => .ok (retire_wf hu)

theorem execFcps_wf {d a b : Opd} {t : Ty} {s : State} (h : Memory.wf s = true) :
    NextWf (execFcps d a b t s) := by
  unfold execFcps
  refine .finish h ?_
  exact .seq fun _ => .bind (read2_wf h) fun _ hx => .bind (writeDest_wf hx) fun _ hu => .ok (retire_wf hu)

theorem signOp_wf {s : State} {d a : Opd} {t : Ty} {f : Nat → Nat} (h : Memory.wf s = true) :
    ResWf (·) (signOp s d a t f) := .seq fun _ => .bind (readSrc_wf h) fun _ hx => .bind (writeDest_wf hx) fun _ hu => .ok (retire_wf hu)

theorem execFneg_wf {d a : Opd} {t : Ty} {s : State} (h : Memory.wf s = true) :
    NextWf (execFneg d a t s) := .finish h (signOp_wf h)

theorem execFabs_wf {d a : Opd} {t : Ty} {s : State} (h : Memory.wf s = true) :
    NextWf (execFabs d a t s) := .finish h (signOp_wf h)

theorem execFscl_wf {d a b : Opd} {ta tb : Bool} {t : Ty} {s : State} (h : Memory.wf s = true) :
    NextWf (execFscl d a b ta tb t s) := by
  unfold execFscl
  refine .finish h ?_
  exact .seq fun _ => .bind (read2_wf h) fun _ hx => .bind (writeDest_wf hx) fun _ hu => .ok (floatEnd_wf hu)

theorem execFrnd_wf {d a : Opd} {t : Ty} {s : State} (h : Memory.wf s = true) :
    NextWf (execFrnd d a t s) := by
  unfold execFrnd
  refine .finish h ?_
  exact .seq fun _ => .bind (readSrc_wf h) fun _ hx => .bind (writeDest_wf hx) fun _ hu => .ok (floatEnd_wf hu)

theorem execFpDivideFill_wf {k : Fin 16} {ticket : Nat} {r : DivResult} {s : State} (h : Memory.wf s = true) :
    NextWf (execFpDivideFill k ticket r s) := by
  unfold execFpDivideFill
  extract_lets t t1 t2
  have ht : Memory.wf t = true := by
    unfold t
    split
    · exact fillVec_wf h
    · exact fillReg_wf h
  have ht1 : Memory.wf t1 = true := State.modStrand_wf ht
  have ht2 : Memory.wf t2 = true := wf_ite (State.setRun_wf ht1) ht1
  exact .next (takeLoss_wf ht2)

/-! ## The operations of Machine/System -/

theorem askLoop_wf {s : State} {c : Fin 8} {kind : LoopReqKind} (h : Memory.wf s = true) :
    Memory.wf (askLoop s c kind) = true := State.atOnce_wf (wf_same h rfl)

theorem tlbDrop_wf {s : State} {vmid : BitVec 16} {v : Word} (h : Memory.wf s = true) :
    Memory.wf (tlbDrop s vmid v) = true := foldl_wf (fun _ _ ht => State.at_wf ht) _ (State.withClu_wf (wf_same h rfl))

theorem tlbRemove_wf {s : State} {k : Fin 16} {v : Word} (h : Memory.wf s = true) :
    Memory.wf (tlbRemove s k v) = true := State.at_wf (State.setRun_wf (tlbDrop_wf h))

theorem afterRead_wf {s : State} {n : Nat} (h : Memory.wf s = true) :
    Memory.wf (afterRead s n) = true := wf_ite (wf_same h rfl) h

theorem sysWrite_wf {s : State} {reg : BitVec 12} {v : Word} (h : Memory.wf s = true) :
    Memory.wf (sysWrite s reg v) = true := wf_ite (tlbRemove_wf h) (wf_ite (askLoop_wf h) (sysStore_wf h))

theorem execSrr_wf {d : Opd} {reg : BitVec 12} {s : State} (h : Memory.wf s = true) :
    NextWf (execSrr d reg s) := by
  unfold execSrr
  refine .finish h ?_
  exact .seq fun _ => .seq fun _ => .bind (writeDest_wf (afterRead_wf h)) fun _ ht => .ok (retire_wf ht)

theorem execSrw_wf {d : Opd} {reg : BitVec 12} {s : State} (h : Memory.wf s = true) :
    NextWf (execSrw d reg s) := by
  unfold execSrw
  refine .finish h ?_
  refine .seq fun u => ?_
  exact .seq fun _ => .bind (readSrc_wf h) fun _ hx => .seq fun _ => .ok (sysWrite_wf (retire_wf hx))

theorem srx_wf {s : State} {d : Opd} {reg : BitVec 12} {op : RegOp} (h : Memory.wf s = true) :
    ResWf (·) (srx s d reg op) := by
  unfold srx
  extract_lets old
  refine .seq fun u => ?_
  refine .seq fun u1 => ?_
  refine .bind (readSrc_wf h) fun x hx => ?_
  extract_lets n
  have hn : Memory.wf n.2 = true := State.newTicket_wf hx
  refine .seq fun u2 => ?_
  refine .ite (.bind (writePending_wf hn) fun _ ht => .ok (askLoop_wf (retire_wf ht))) ?_
  exact .bind (writeDest_wf (afterRead_wf hx)) fun _ ht => .ok (sysWrite_wf (retire_wf ht))

theorem execSrxSwap_wf {d : Opd} {reg : BitVec 12} {s : State} (h : Memory.wf s = true) :
    NextWf (execSrxSwap d reg s) := .finish h (srx_wf h)

theorem execSrxSet_wf {d : Opd} {reg : BitVec 12} {s : State} (h : Memory.wf s = true) :
    NextWf (execSrxSet d reg s) := .finish h (srx_wf h)

theorem execSrxClr_wf {d : Opd} {reg : BitVec 12} {s : State} (h : Memory.wf s = true) :
    NextWf (execSrxClr d reg s) := .finish h (srx_wf h)

theorem execTlbinvWrite_wf {k : Fin 16} {v : Word} {s : State} (h : Memory.wf s = true) :
    NextWf (execTlbinvWrite k v s) := .next (tlbRemove_wf h)

theorem execTlbinvOther_wf {vmid : BitVec 16} {v : Word} {s : State} (h : Memory.wf s = true) :
    NextWf (execTlbinvOther vmid v s) := .next (tlbDrop_wf h)

theorem execTlbinvDone_wf {k : Fin 16} {s : State} (h : Memory.wf s = true) :
    NextWf (execTlbinvDone k s) := .next (wf_ite (State.setRun_wf h) h)

theorem loopStore_wf {s : State} {reg : BitVec 12} {v : Word} (h : Memory.wf s = true) :
    Memory.wf (loopStore s reg v) = true := wf_ite (wf_same h rfl) h

theorem execLoopRegWrite_wf {reg : BitVec 12} {v : Word} {s : State} (h : Memory.wf s = true) :
    NextWf (execLoopRegWrite reg v s) := .next (loopStore_wf h)

/-! ## The operations of Machine/Sync -/

theorem fenceAcquire_wf {s : State} {sc : Scope} (h : Memory.wf s = true) :
    Memory.wf (fenceAcquire s sc) = true := wf_ite (beginAcquire_wf h) h

theorem execFenceAcq_wf {sc : Scope} {s : State} (h : Memory.wf s = true) :
    NextWf (execFenceAcq sc s) := .finish h (.seq fun _ => .ok (fenceAcquire_wf (retire_wf h)))

theorem execFenceRel_wf {sc : Scope} {s : State} (h : Memory.wf s = true) :
    NextWf (execFenceRel sc s) := .finish h (.seq fun _ => .ok (wf_ite (retire_wf h) (pushRelease_wf (retire_wf h))))

theorem execFenceFull_wf {sc : Scope} {s : State} (h : Memory.wf s = true) :
    NextWf (execFenceFull sc s) := .finish h (.seq fun _ => .ok (wf_ite (retire_wf h) (fenceAcquire_wf (pushRelease_wf (retire_wf h)))))

theorem State.setBarrier_wf {s : State} {gang : Bool} {b : Fin 16} {v : Barrier} (h : Memory.wf s = true) :
    Memory.wf (s.setBarrier gang b v) = true := wf_ite (wf_same h rfl) (wf_same h rfl)

theorem barrierEnd_wf {s : State} {k : Fin 16} {dest : Option (Opd × Nat)} {v : Word} (h : Memory.wf s = true) :
    Memory.wf (barrierEnd s k dest v) = true := by
  unfold barrierEnd
  extract_lets cur t r t1
  have ht : Memory.wf t = true := wf_same h rfl
  have ht1 : Memory.wf t1 = true := by
    unfold t1
    split
    · exact ht
    · exact wf_ite (State.mod_wf (fillReg_wf ht)) (writeDest_or_wf ht)
  exact wf_same (State.setRun_wf (k := k) (r := .ready) (retire_wf ht1)) rfl

theorem barrierWake_wf {s : State} {gang : Bool} {b : Fin 16} {gs : List (BitVec 8)} (h : Memory.wf s = true) :
    Memory.wf (barrierWake s gang b gs) = true := by
  unfold barrierWake
  refine foldl_wf (fun s k ht => ?_) _ h
  split
  · exact wf_ite (barrierEnd_wf ht) ht
  · exact ht

theorem freezeWith_wf {α : Type} {st : α → State} {c : BitVec 8} {v : Word} : ResWf st (freezeWith c v) := .error

theorem arriveAt_wf {s : State} {op : Word} {gang : Bool} {b : Fin 16} {count : Nat} (h : Memory.wf s = true) :
    ResWf (·.1) (arriveAt s op gang b count) := by
  unfold arriveAt
  cases (s.barrier gang b).arrive s.st.ng[ngIx gang b] count with
  | overrun => exact freezeWith_wf
  | mismatch c => exact freezeWith_wf
  | counted v g fs =>
    refine .ok ?_
    dsimp only
    exact barrierWake_wf (State.mod_wf (State.setBarrier_wf h))

theorem barOperands_wf {s : State} {a b : Opd} {ta tb : Bool} (h : Memory.wf s = true) :
    ResWf (·.2.2) (barOperands s a b ta tb) := .seq fun _ => .bind (read2_wf h) fun _ hx => .seq fun _ => .seq fun _ => .ok hx

theorem execBarw_wf {a b : Opd} {ta tb : Bool} {s : State} (h : Memory.wf s = true) :
    NextWf (execBarw a b ta tb s) := by
  unfold execBarw
  refine .finish h ?_
  refine .bind (barOperands_wf h) fun x hx => ?_
  exact .bind (arriveAt_wf hx) fun _ hr => .ok (wf_ite (retire_wf hr) (State.setRun_wf hr))

theorem execBara_wf {a b : Opd} {ta tb : Bool} {s : State} (h : Memory.wf s = true) :
    NextWf (execBara a b ta tb s) := .finish h (.bind (barOperands_wf h) fun _ hx => .bind (arriveAt_wf hx) fun _ hr => .ok (retire_wf hr))

theorem barDest_wf {s : State} {d : Opd} (h : Memory.wf s = true) :
    ResWf (·.1) (barDest s d) := by
  unfold barDest
  dsimp only
  split
  · exact .bind (putDest_wf (State.newTicket_wf h)) fun _ ht => .ok ht
  · split <;> exact .seq fun _ => .ok h

theorem execBarwt_wf {d a b : Opd} {ta tb : Bool} {s : State} (h : Memory.wf s = true) :
    NextWf (execBarwt d a b ta tb s) := by
  unfold execBarwt
  refine .finish h ?_
  refine .seq fun u => ?_
  refine .bind (read2_wf h) fun x hx => ?_
  extract_lets op n due
  refine .seq fun u1 => ?_
  refine .seq fun u2 => ?_
  refine .bind (barDest_wf hx) fun t ht => ?_
  extract_lets dest
  refine .bind (arriveAt_wf ht) fun r hr => ?_
  exact .ok (wf_ite (barrierEnd_wf hr) (wf_ite (barrierEnd_wf hr) (State.at_wf (State.setRun_wf hr))))

theorem execBarwtDeadline_wf {k : Fin 16} {s : State} (h : Memory.wf s = true) :
    NextWf (execBarwtDeadline k s) := by
  unfold execBarwtDeadline
  split
  · exact .ite (.next h) (.ite (.next (State.at_wf h)) (.ite (.next (State.at_wf h)) (.next (barrierEnd_wf h))))
  · exact .next h

theorem execBarwtLate_wf {k : Fin 16} {s : State} (h : Memory.wf s = true) :
    NextWf (execBarwtLate k s) := by
  unfold execBarwtLate
  split
  · exact .next (wf_ite (barrierEnd_wf h) h)
  · exact .next h

theorem execGangBarrierArrive_wf {b : Fin 16} {gen : BitVec 8} {count : BitVec 20} {s : State} (h : Memory.wf s = true) :
    NextWf (execGangBarrierArrive b gen count s) := by
  unfold execGangBarrierArrive
  split
  · exact .next (barrierWake_wf (State.setBarrier_wf h))
  · exact .next h

theorem execGetchunk_wf {d a : Opd} {_ta : Bool} {s : State} (h : Memory.wf s = true) :
    NextWf (execGetchunk d a _ta s) := by
  unfold execGetchunk
  dsimp only
  refine .finish h ?_
  refine .seq fun u => ?_
  refine .ite ?_ ?_
  · refine .seq fun u1 => ?_
    refine .bind (readSrc_wf h) fun x hx => ?_
    refine .seq fun u2 => ?_
    refine .bind (writePending_wf (State.newTicket_wf hx)) fun t ht => ?_
    exact .ok (askLoop_wf (State.mod_wf (retire_wf ht)))
  · refine .bind (readSrc_wf h) fun x hx => ?_
    refine .seq fun u1 => ?_
    refine .bind (writePending_wf (State.newTicket_wf hx)) fun t ht => ?_
    exact .ok (askLoop_wf (State.mod_wf (retire_wf ht)))

theorem execChunkset_wf {d a b : Opd} {_ta _tb : Bool} {s : State} (h : Memory.wf s = true) :
    NextWf (execChunkset d a b _ta _tb s) := by
  unfold execChunkset
  refine .finish h ?_
  refine .seq fun u => ?_
  exact .bind (read3_wf h) fun _ hx => .seq fun _ => .seq fun _ => .seq fun _ => .ok (askLoop_wf (retire_wf hx))

theorem loopServe_wf {s : State} {q : LoopReq} (h : Memory.wf s = true) :
    Memory.wf (loopServe s q) = true := by
  unfold loopServe
  extract_lets r t
  have ht : Memory.wf t = true := State.withClu_wf (wf_same h rfl)
  split
  · exact wf_same h rfl
  · exact wf_ite (State.at_wf ht) ht
  · exact loopStore_wf h
  · exact wf_ite (fillReg_wf (loopStore_wf h)) (loopStore_wf h)

theorem execLoopUnitService_wf {s : State} (h : Memory.wf s = true) :
    NextWf (execLoopUnitService s) := by
  unfold execLoopUnitService
  split
  · exact .next (wf_ite (State.atOnce_wf (loopServe_wf (wf_same h rfl))) (loopServe_wf (wf_same h rfl)))
  · exact .next h

theorem execLoopRequest_wf {q : LoopReq} {s : State} (h : Memory.wf s = true) :
    NextWf (execLoopRequest q s) := .next (State.atOnce_wf (wf_same h rfl))

theorem chunkFill_wf {s : State} {k : Fin 16} {ticket : Nat} {v : Word} (h : Memory.wf s = true) :
    Memory.wf (chunkFill s k ticket v) = true := State.modStrand_wf (fillReg_wf h)

theorem execMovp_wf {d a : Opd} {s : State} (h : Memory.wf s = true) :
    NextWf (execMovp d a s) := by
  unfold execMovp
  refine .finish h ?_
  refine .seq fun u => ?_
  split
  · exact .ok (retire_wf (State.mod_wf (State.mod_wf (State.mod_wf h))))
  · exact .ok (retire_wf h)

/-! ## The operations of Machine/Handles -/

theorem takeHandle_wf {s : State} {d : Opd} {owner : Owner} {strap : Bool} (h : Memory.wf s = true) :
    ResWf (·.2) (takeHandle s d owner strap) := by
  unfold takeHandle
  split
  · exact .seq fun _ => .ok (State.mod_wf (State.withCore_wf (dropHandle_wf (wf_same h rfl))))
  · exact .error

theorem completeAt_wf {s : State} {t : Nat} {h : Fin 128} {status : Nat} (hs : Memory.wf s = true) :
    Memory.wf (completeAt s t h status) = true := State.at_wf hs

theorem State.modEntry_wf {s : State} {h : Fin 128} {f : CEntry → CEntry} (hs : Memory.wf s = true) :
    Memory.wf (s.modEntry h f) = true := wf_same hs rfl

theorem startEntry_wf {s : State} {h : Fin 128} (hs : Memory.wf s = true) :
    Memory.wf (startEntry s h) = true := State.modEntry_wf hs

theorem engineWalks_wf {s : State} {vs : List Nat} (h : Memory.wf s = true) :
    Memory.wf (engineWalks s vs) = true := foldl_wf (fun _ _ ht => wf_ite ht (newWalk_wf ht)) _ h

theorem engineUnits_wf {s : State} {c : EngCmd} {reads writes : List Nat} (h : Memory.wf s = true) :
    Memory.wf (engineUnits s c reads writes) = true :=
  foldl_wf (fun _ _ ht => bankArrive_wf ht) _ (askLines_wf (askLines_wf (State.modEntry_wf (wf_same h rfl))))

theorem engineWait_wf {s : State} {c : EngCmd} {reads writes : List Nat} (h : Memory.wf s = true) :
    OptWf (·) (engineWait s c reads writes) := by
  unfold engineWait
  extract_lets vas en miss t t1
  have ht : Memory.wf t = true := engineWalks_wf h
  have ht1 : Memory.wf t1 = true := engineUnits_wf h
  exact .ite (.some h) (.ite (.some (wf_ite (State.modEntry_wf ht) ht)) (.ite (.ite (.some ht1) .none) .none))

theorem engineGo_wf {s : State} {c : EngCmd} (h : Memory.wf s = true) :
    Memory.wf (engineGo s c) = true := wf_same h rfl

theorem fillHandle_wf {s : State} {k : Fin 16} {h : Fin 128} {v : Word} (hs : Memory.wf s = true) :
    Memory.wf (fillHandle s k h v) = true := State.modStrand_wf (foldl_wf (fun _ _ ht => setFe_wf (performStore_wf ht _) _ _) _ hs)

theorem fillTileVecs_wf {s : State} {k : Fin 16} {vs : List (Fin 32 × Nat × Lanes)} (h : Memory.wf s = true) :
    Memory.wf (fillTileVecs s k vs) = true := foldl_wf (fun _ _ ht => fillVec_wf ht) _ h

theorem reopen_wf {s : State} {ep : Fin 32} (h : Memory.wf s = true) :
    Memory.wf (reopen s ep) = true := wf_same h rfl

theorem endCrel_wf {s : State} {ep : Fin 32} {status : BitVec 8} (h : Memory.wf s = true) :
    Memory.wf (endCrel s ep status) = true := wf_ite (reopen_wf h) (wf_ite (wf_same h rfl) h)

theorem completeHandle_wf {s : State} {h : Fin 128} {st : Completion} (hs : Memory.wf s = true) :
    Memory.wf (completeHandle s h st) = true := by
  unfold completeHandle
  extract_lets en s1 s2 s3 s4 s5
  have hs1 : Memory.wf s1 = true := by
    unfold s1
    split
    · exact endCrel_wf hs
    · exact hs
  have hs2 : Memory.wf s2 = true := fillTileVecs_wf hs1
  have hs3 : Memory.wf s3 = true := State.modStrand_wf hs2
  have hs4 : Memory.wf s4 = true := fillHandle_wf hs3
  have hs5 : Memory.wf s5 = true := State.modEntry_wf hs4
  exact wf_ite hs (wf_ite (State.freeEntry_wf hs2) (wf_ite (State.modStrand_wf hs5) hs5))

theorem completeSaved_wf {s : State} {h : Fin 128} {st : Completion} {d : DenCtx} {c : Core} (hs : Memory.wf s = true) :
    Memory.wf (completeSaved s h st d c) = true := by
  unfold completeSaved
  dsimp only
  exact State.withHub_wf hs

theorem execCompletion_wf {h : Fin 128} {st : Completion} {s : State} (hs : Memory.wf s = true) :
    NextWf (execCompletion h st s) := by
  unfold execCompletion
  refine .ite (.next (State.at_wf hs)) ?_
  refine .ite (.next (completeHandle_wf hs)) ?_
  split
  · split
    · exact .next (completeSaved_wf hs)
    · exact .next hs
  · exact .next hs

/-! ## The operations of Machine/Tables -/

theorem tableSet_wf {s : State} {a : AgentId} {t : BitVec 2} {port slot : Nat} {f : TEntry → TEntry} (h : Memory.wf s = true) :
    Memory.wf (tableSet s a t port slot f) = true := wf_same h rfl

theorem State.modSend_wf {s : State} {e : Fin 32} {f : SendEp → SendEp} (h : Memory.wf s = true) :
    Memory.wf (s.modSend e f) = true := wf_same h rfl

/-! ## The operations of Machine/Messaging -/

theorem sendOp_wf {s : State} {a b : Opd} {ta tb : Bool} {n : Nat} (h : Memory.wf s = true) :
    ResWf (·) (sendOp s a b ta tb n) := by
  unfold sendOp
  dsimp only
  refine .seq fun u => ?_
  refine .bind (read2_wf h) fun x hx => ?_
  refine .seq fun u1 => ?_
  refine .seq fun u2 => ?_
  refine .seq fun u3 => ?_
  refine .seq fun u4 => ?_
  refine .ite ?_ ?_
  · refine .seq fun u5 => ?_
    refine .ite (.seq fun _ => .seq fun _ => .seq fun _ => .ok (retire_wf (State.atOnce_wf (State.modSend_wf hx)))) ?_
    exact .seq fun _ => .seq fun _ => .ok (retire_wf (State.atOnce_wf (State.modSend_wf hx)))
  · refine .ite (.seq fun _ => .seq fun _ => .seq fun _ => .ok (retire_wf (State.atOnce_wf (State.modSend_wf hx)))) ?_
    exact .seq fun _ => .seq fun _ => .ok (retire_wf (State.atOnce_wf (State.modSend_wf hx)))

theorem execSend_wf {a b : Opd} {ta tb : Bool} {n : BitVec 4} {s : State} (h : Memory.wf s = true) :
    NextWf (execSend a b ta tb n s) := .finish h (sendOp_wf h)

theorem sendFlit_wf {s : State} {f : Flit} (h : Memory.wf s = true) :
    Memory.wf (sendFlit s f) = true := State.atOnce_wf (wf_same h rfl)

theorem sendNext_wf {s : State} {ep : Fin 32} (h : Memory.wf s = true) :
    Memory.wf (sendNext s ep) = true := by
  unfold sendNext
  split
  · exact h
  · exact sendFlit_wf (State.modSend_wf h)

theorem execMessageStart_wf {ep : Fin 32} {s : State} (h : Memory.wf s = true) :
    NextWf (execMessageStart ep s) := by
  unfold execMessageStart
  extract_lets a e owned t left
  have ht : Memory.wf t = true := by
    unfold t
    refine wf_ite (wf_ite (sendNext_wf h) h) ?_
    split
    · exact wf_ite (sendNext_wf (State.modSend_wf h)) h
    · exact h
  exact .ite (.next (State.at_wf h)) (.next (wf_ite ht (State.at_wf ht)))

theorem windowArrive_wf {s : State} {ep : Fin 32} {recv : Nat} {count : BitVec 16} (h : Memory.wf s = true) :
    Memory.wf (windowArrive s ep recv count) = true := wf_same h rfl

theorem execWindowReturnArrive_wf {ep : Fin 32} {recv : Nat} {count : BitVec 16} {s : State} (h : Memory.wf s = true) :
    NextWf (execWindowReturnArrive ep recv count s) := .next (windowArrive_wf h)

theorem breakRecv_wf {s : State} {ep : Fin 64} (h : Memory.wf s = true) :
    Memory.wf (breakRecv s ep) = true := by
  unfold breakRecv
  extract_lets me src s1 s2
  have hs1 : Memory.wf s1 = true := State.modRecv_wf h
  have hs2 : Memory.wf s2 = true := fabricRecord_wf hs1
  split
  · exact State.later_wf hs2
  · exact hs2

theorem watchGap_wf {s : State} {ep : Fin 64} (h : Memory.wf s = true) :
    Memory.wf (watchGap s ep) = true := by
  unfold watchGap
  extract_lets a
  split
  · exact State.at_wf h
  · exact h

theorem gapCheck_wf {s : State} {ep : Fin 64} {got : Nat} (h : Memory.wf s = true) :
    Memory.wf (gapCheck s ep got) = true := wf_ite (breakRecv_wf h) h

theorem depositSoon_wf {s : State} {ep : Fin 64} (h : Memory.wf s = true) :
    Memory.wf (depositSoon s ep) = true := by
  unfold depositSoon
  split
  · exact State.atOnce_wf h
  · exact h

theorem gatherCred_wf {s : State} {ep : Fin 64} (h : Memory.wf s = true) :
    Memory.wf (gatherCred s ep) = true := wf_ite (State.atOnce_wf h) h

theorem receiveAt_wf {s : State} {ep : Fin 64} {f : Flit} (h : Memory.wf s = true) :
    Memory.wf (receiveAt s ep f) = true := by
  unfold receiveAt
  extract_lets r s1 s2 s3
  have hs1 : Memory.wf s1 = true := State.atOnce_wf (State.modRecv_wf h)
  have hs2 : Memory.wf s2 = true := State.modRecv_wf h
  have hs3 : Memory.wf s3 = true := wf_ite hs2 (watchGap_wf hs2)
  refine wf_ite h ?_
  exact wf_ite (breakRecv_wf h) (wf_ite (wf_ite hs1 (watchGap_wf hs1)) (depositSoon_wf (gatherCred_wf hs3)))

theorem deliver_wf {s : State} {ep : Fin 64} {f : Flit} (h : Memory.wf s = true) :
    Memory.wf (deliver s ep f) = true := by
  unfold deliver
  split
  · exact wf_ite (receiveAt_wf h) (wf_same h rfl)
  · split
    · exact wf_same h rfl
    · exact receiveAt_wf h

theorem receive_wf {s : State} {f : Flit} {v : BitVec 16} (h : Memory.wf s = true) :
    Memory.wf (receive s f v) = true := wf_ite (fabricRecord_wf h) (wf_ite (windowArrive_wf h) (deliver_wf h))

theorem execFlitReceive_wf {f : Flit} {s : State} (h : Memory.wf s = true) :
    NextWf (execFlitReceive f s) := .next (receive_wf h)

theorem execWindowReturnSend_wf {ep : Fin 64} {s : State} (h : Memory.wf s = true) :
    NextWf (execWindowReturnSend ep s) := by
  unfold execWindowReturnSend
  extract_lets r a slots
  refine .ite (.next h) ?_
  refine .ite (.next (State.at_wf h)) ?_
  exact .ite (.next (sendFlit_wf (State.modRecv_wf h))) (.next (State.atOnce_wf h))

theorem depositOwn_wf {s : State} {off : Nat} {w : Word} {bad : Bool} (h : Memory.wf s = true) :
    Memory.wf (depositOwn s off w bad) = true := depositWord_wf h _ _ _

theorem depositFlit_wf {s : State} {off : Nat} {f : Flit} (h : Memory.wf s = true) :
    Memory.wf (depositFlit s off f) = true := foldl_wf (fun _ _ ht => depositOwn_wf ht) _ h

theorem takeFlit_wf {s : State} {ep : Fin 64} (h : Memory.wf s = true) :
    Memory.wf (takeFlit s ep) = true := State.atOnce_wf (State.modRecv_wf h)

theorem finishDeposit_wf {s : State} {ep : Fin 64} {a : Arming} (h : Memory.wf s = true) :
    Memory.wf (finishDeposit s ep a) = true := by
  unfold finishDeposit
  extract_lets r s1 s2
  have hs1 : Memory.wf s1 = true := wf_ite (depositOwn_wf h) h
  have hs2 : Memory.wf s2 = true := State.modRecv_wf hs1
  split
  · exact depositOwn_wf h
  · exact depositOwn_wf hs2

theorem msgLong_wf {s : State} {ep : Fin 64} {a : Arming} {n : Nat} (h : Memory.wf s = true) :
    Memory.wf (msgLong s ep a n) = true := sendPacket_wf h _

theorem endDeposit_wf {s : State} {ep : Fin 64} {a : Arming} (h : Memory.wf s = true) :
    Memory.wf (endDeposit s ep a) = true := by
  unfold endDeposit
  extract_lets n s1 s2 s3
  have hs1 : Memory.wf s1 = true := finishDeposit_wf h
  have hs2 : Memory.wf s2 = true := wf_ite (msgLong_wf hs1) hs1
  have hs3 : Memory.wf s3 = true := State.modRecv_wf hs2
  exact wf_ite (State.at_wf hs3) hs3

theorem depositHead_wf {s : State} {ep : Fin 64} {a : Arming} {f : Flit} (h : Memory.wf s = true) :
    Memory.wf (depositHead s ep a f) = true := by
  unfold depositHead
  extract_lets s1 r s2 s3
  have hs1 : Memory.wf s1 = true := wf_ite (State.modRecv_wf h) h
  have hs2 : Memory.wf s2 = true := wf_ite (depositFlit_wf hs1) hs1
  have hs3 : Memory.wf s3 = true := takeFlit_wf hs2
  exact wf_ite (endDeposit_wf hs3) hs3

theorem depositAll_wf {s : State} {ep : Fin 64} {a : Arming} {fuel : Nat} (h : Memory.wf s = true) :
    Memory.wf (depositAll s ep a fuel) = true := by
  induction fuel generalizing s with
  | zero => exact h
  | succ n ih =>
    unfold depositAll
    refine wf_ite h ?_
    split
    · exact h
    · exact wf_ite (State.atOnce_wf h) (ih (depositHead_wf h))

theorem execMailboxQueueDeposit_wf {ep : Fin 64} {s : State} (h : Memory.wf s = true) :
    NextWf (execMailboxQueueDeposit ep s) := by
  unfold execMailboxQueueDeposit
  split
  · exact .next (wf_ite (depositAll_wf h) h)
  · exact .next h

theorem execMailboxLatestDeposit_wf {ep : Fin 64} {s : State} (h : Memory.wf s = true) :
    NextWf (execMailboxLatestDeposit ep s) := by
  unfold execMailboxLatestDeposit
  split
  · exact .next (wf_ite (depositAll_wf h) h)
  · exact .next h

theorem claim_wf {s : State} {k : Fin 16} {hpc : Addr} {f : Flit} {off : Nat} (h : Memory.wf s = true) :
    Memory.wf (claim s k hpc f off) = true := by
  unfold claim
  extract_lets s1 x
  have hs1 : Memory.wf s1 = true := foldl_wf (fun _ _ ht => dropHandle_wf ht) _ h
  have hx : Memory.wf x = true := State.modStrand_wf hs1
  exact wf_ite (freeze_wf hx _ _ _ _ _ _ _) hx

theorem claimTurn_wf {s : State} {ep : Fin 64} (h : Memory.wf s = true) :
    Memory.wf (claimTurn s ep).2 = true := by
  unfold claimTurn
  split
  · exact State.at_wf (dropActs_wf h)
  · exact h

theorem execActiveMessageClaim_wf {ep : Fin 64} {s : State} (h : Memory.wf s = true) :
    NextWf (execActiveMessageClaim ep s) := by
  unfold execActiveMessageClaim
  extract_lets turn ep1 s1 r
  have hturn : Memory.wf turn.2 = true := claimTurn_wf h
  have hs1 : Memory.wf s1 = true := hturn
  split
  · extract_lets t t1
    have ht : Memory.wf t = true := foldl_wf (fun _ _ ht => depositHead_wf ht) _ hturn
    have ht1 : Memory.wf t1 = true := claim_wf ht
    exact .ite (.next hturn) (.ite (.next (State.atOnce_wf hturn)) (.next (wf_ite ht1 (State.atOnce_wf ht1))))
  · exact .next hturn

theorem requestArm_wf {s : State} {ep : Fin 64} {q : ArmReq} (h : Memory.wf s = true) :
    Memory.wf (requestArm s ep q) = true := wf_ite (State.at_wf (State.modRecv_wf h)) (State.modRecv_wf h)

theorem mboxOp_wf {s : State} {a b : Opd} {ta tb : Bool} {kind : MboxKind} {int act : Bool} (h : Memory.wf s = true) :
    ResWf (·) (mboxOp s a b ta tb kind int act) := by
  unfold mboxOp
  refine .seq fun u => ?_
  refine .bind (read2_wf h) fun x hx => ?_
  extract_lets named
  refine .seq fun u1 => ?_
  refine .seq fun u2 => ?_
  exact .seq fun _ => .seq fun _ => .seq fun _ => .seq fun _ => .seq fun _ => .ok (retire_wf (requestArm_wf hx))

theorem execMboxQueue_wf {a b : Opd} {ta tb int act : Bool} {s : State} (h : Memory.wf s = true) :
    NextWf (execMboxQueue a b ta tb int act s) := .finish h (mboxOp_wf h)

theorem execMboxLatest_wf {a b : Opd} {ta tb int act : Bool} {s : State} (h : Memory.wf s = true) :
    NextWf (execMboxLatest a b ta tb int act s) := .finish h (mboxOp_wf h)

theorem execMboxClose_wf {a : Opd} {ta : Bool} {s : State} (h : Memory.wf s = true) :
    NextWf (execMboxClose a ta s) := by
  unfold execMboxClose
  refine .finish h ?_
  refine .seq fun u => ?_
  exact .bind (readSrc_wf h) fun _ hx => .seq fun _ => .seq fun _ => .ok (retire_wf (requestArm_wf hx))

theorem armNow_wf {s : State} {ep : Fin 64} {a : Arming} (h : Memory.wf s = true) :
    Memory.wf (armNow s ep a) = true := by
  unfold armNow
  extract_lets pa s1 k n t
  have hs1 : Memory.wf s1 = true := State.modRecv_wf h
  have ht : Memory.wf t = true := setFe_wf (putWord_wf (wf_same hs1 (by rfl)) _ _) _ _
  split
  · exact State.modRecv_wf hs1
  · exact State.modRecv_wf ht

theorem execMboxArmEffect_wf {ep : Fin 64} {s : State} (h : Memory.wf s = true) :
    NextWf (execMboxArmEffect ep s) := by
  unfold execMboxArmEffect
  extract_lets r
  refine .ite (.next h) ?_
  split
  · exact .next (depositSoon_wf (armNow_wf h))
  · exact .next (State.modRecv_wf h)
  · exact .next h

/-! ## The operations of Machine/EngineIssue -/

theorem commandWords_wf {s : State} {vc : BitVec 4} {a b : Opd} (h : Memory.wf s = true) :
    ResWf (·.2) (commandWords s vc a b) := by
  unfold commandWords
  dsimp only
  exact .seq fun _ => .seq fun _ => .ite (.ite (.ok h) (.bind (readSrc_wf h) fun _ hy => .ok hy))
    (.bind (readSrc_wf h) fun _ hx => .ite (.ok hx) (.bind (readSrc_wf hx) fun _ hy => .ok hy))

theorem pendVecs_wf {s : State} {ticket : Nat} {vs : List (Fin 32)} (h : Memory.wf s = true) : ResWf (·.1) (pendVecs s ticket vs) := by
  induction vs generalizing s ticket with
  | nil => exact .ok h
  | cons v vs ih => exact .bind (writeVecPending_wf h) fun _ ht => .bind (ih ht) fun _ hr => .ok hr

theorem execIssueTile_wf {d : Opd} {vc : BitVec 4} {a b : Opd} {s : State} (h : Memory.wf s = true) :
    NextWf (execIssueTile d vc a b s) := by
  unfold execIssueTile
  dsimp only
  refine .finish h ?_
  refine .seq fun u => ?_
  refine .bind (commandWords_wf h) fun x hx => ?_
  refine .seq fun vin => ?_
  refine .seq fun u1 => ?_
  refine .ite ?_ ?_
  · refine .seq fun u2 => ?_
    refine .bind (pendVecs_wf (wf_same hx rfl)) fun u3 hu3 => ?_
    refine .bind (takeHandle_wf hu3) fun h1 hh1 => ?_
    exact .ok (retire_wf (State.at_wf (State.withCore_wf (State.modEntry_wf hh1))))
  · refine .bind (pendVecs_wf (wf_same hx rfl)) fun u2 hu2 => ?_
    refine .bind (takeHandle_wf hu2) fun h1 hh1 => ?_
    exact .ok (retire_wf (State.at_wf (State.withCore_wf (State.modEntry_wf hh1))))

theorem issueTo_wf {s : State} {d : Opd} {vc : BitVec 4} {a b : Opd} {eng : BitVec 2} {owner : Owner} {full : Bool}
    {put : Core → EngCmd → Core}
    {delay : State → EngCmd → State} (h : Memory.wf s = true) (hd : ∀ t c, Memory.wf t = true → Memory.wf (delay t c) = true) :
    ResWf (·) (issueTo s d vc a b eng owner full put delay) := by
  unfold issueTo
  dsimp only
  exact .seq fun _ => .bind (commandWords_wf h) fun _ hx => .seq fun _ => .ite .error
    (.bind (takeHandle_wf (wf_same hx rfl)) fun _ hh => .ok (retire_wf (hd _ _ (State.withCore_wf hh))))

theorem execIssueCopy_wf {d : Opd} {vc : BitVec 4} {a b : Opd} {s : State} (h : Memory.wf s = true) :
    NextWf (execIssueCopy d vc a b s) := .finish h (issueTo_wf h fun _ _ ht => State.at_wf ht)

theorem execIssueMem_wf {d : Opd} {vc : BitVec 4} {a b : Opd} {s : State} (h : Memory.wf s = true) :
    NextWf (execIssueMem d vc a b s) := .finish h (issueTo_wf h fun _ _ ht => State.later_wf ht)

theorem execIssueXchg_wf {d : Opd} {vc : BitVec 4} {a b : Opd} {s : State} (h : Memory.wf s = true) :
    NextWf (execIssueXchg d vc a b s) := .finish h (issueTo_wf h fun _ _ ht => State.later_wf ht)

theorem closeEndpoint_wf {s : State} {d : Opd} {ep : Fin 32} {w0 w1 w2 w3 : Word} (h : Memory.wf s = true) :
    ResWf (·) (closeEndpoint s d ep w0 w1 w2 w3) := by
  unfold closeEndpoint
  refine .bind (takeHandle_wf h) fun h1 hh1 => ?_
  exact .ite (.ok (retire_wf (completeAt_wf hh1))) (.ok (retire_wf (State.at_wf (State.modSend_wf hh1))))

theorem execCreq_wf {d : Opd} {vc : BitVec 4} {a b : Opd} {s : State} (h : Memory.wf s = true) :
    NextWf (execCreq d vc a b s) := by
  unfold execCreq
  extract_lets w0
  refine .finish h ?_
  refine .seq fun u => ?_
  refine .bind (commandWords_wf h) fun x hx => ?_
  extract_lets w01 w1 w2 w3 src dsts
  refine .seq fun u1 => ?_
  refine .ite (.bind (takeHandle_wf hx) fun _ hh1 => .ok (retire_wf (completeAt_wf hh1))) ?_
  exact .ite (closeEndpoint_wf hx) (.bind (takeHandle_wf hx) fun _ hh1 => .ok (retire_wf (State.later_wf hh1)))

theorem execCrel_wf {d a : Opd} {ta : Bool} {s : State} (h : Memory.wf s = true) :
    NextWf (execCrel d a ta s) := by
  unfold execCrel
  refine .finish h ?_
  refine .seq fun u => ?_
  exact .seq fun _ => .bind (readSrc_wf h) fun _ hx => .seq fun _ => .seq fun _ => closeEndpoint_wf hx

theorem dpostOp_wf {s : State} {d a : Opd} {ta cap : Bool} (h : Memory.wf s = true) :
    ResWf (·) (dpostOp s d a ta cap) := by
  unfold dpostOp
  refine .seq fun u => ?_
  refine .seq fun u1 => ?_
  refine .bind (readSrc_wf h) fun x hx => ?_
  refine .seq fun u2 => ?_
  refine .seq fun u3 => ?_
  refine .seq fun u4 => ?_
  refine .seq fun w0 => ?_
  extract_lets n w1
  refine .seq fun u5 => ?_
  refine .seq fun ws => ?_
  extract_lets w11 rest
  refine .bind (takeHandle_wf hx) fun h1 hh1 => ?_
  exact .ite (.ok (retire_wf (completeAt_wf hh1))) (.ok (retire_wf (State.later_wf hh1)))

theorem execDpostDem_wf {d a : Opd} {ta : Bool} {s : State} (h : Memory.wf s = true) :
    NextWf (execDpostDem d a ta s) := .finish h (dpostOp_wf h)

theorem execDpostCap_wf {d a : Opd} {ta : Bool} {s : State} (h : Memory.wf s = true) :
    NextWf (execDpostCap d a ta s) := .finish h (dpostOp_wf h)

theorem execLaunch_wf {d a b : Opd} {ta tb : Bool} {s : State} (h : Memory.wf s = true) :
    NextWf (execLaunch d a b ta tb s) := by
  unfold execLaunch
  refine .finish h ?_
  refine .seq fun u => ?_
  refine .seq fun u1 => ?_
  refine .bind (read2_wf h) fun x hx => ?_
  extract_lets q
  refine .seq fun u2 => ?_
  refine .seq fun u3 => ?_
  refine .seq fun u4 => ?_
  refine .seq fun y => ?_
  extract_lets job
  refine .seq fun u5 => ?_
  refine .bind (takeHandle_wf hx) fun h1 hh1 => ?_
  exact .ite (.ok (retire_wf (pushRelease_wf hh1))) (.ok (retire_wf (completeAt_wf hh1)))

theorem fcincOp_wf {s : State} {a b : Opd} {vec : Option (BitVec 6)} (h : Memory.wf s = true) :
    ResWf (·) (fcincOp s a b vec) := by
  unfold fcincOp
  refine .seq fun u => ?_
  exact .bind (read2_wf h) fun _ hx => .seq fun _ => .seq fun _ => .ok (retire_wf (pushRelease_wf hx))

theorem execFcinc_wf {a b : Opd} {s : State} (h : Memory.wf s = true) :
    NextWf (execFcinc a b s) := .finish h (fcincOp_wf h)

theorem execFcincn_wf {vec : BitVec 6} {a b : Opd} {s : State} (h : Memory.wf s = true) :
    NextWf (execFcincn vec a b s) := .finish h (fcincOp_wf h)

theorem execFcwait_wf {a b : Opd} {s : State} (h : Memory.wf s = true) :
    NextWf (execFcwait a b s) := by
  unfold execFcwait
  refine .finish h ?_
  refine .seq fun u => ?_
  refine .bind (read2_wf h) fun x hx => ?_
  exact .seq fun _ => .ite (.seq fun _ => .ok (beginAcquire_wf (retire_wf hx))) (.ok (State.setRun_wf hx))

theorem fcwaitEnd_wf {s : State} {k : Fin 16} (h : Memory.wf s = true) :
    Memory.wf (fcwaitEnd s k) = true := wf_same h rfl

theorem execFenceCounterNotify_wf {f : Fin 17} {i : Nat} {s : State} (h : Memory.wf s = true) :
    NextWf (execFenceCounterNotify f i s) := by
  unfold execFenceCounterNotify
  refine .next ?_
  refine wf_ite (State.atOnce_wf h) ?_
  refine wf_ite ?_ h
  refine foldl_wf (fun s k ht => ?_) _ h
  split
  · exact wf_ite (fcwaitEnd_wf ht) ht
  · exact ht

theorem withdrawCommand_wf {s : State} {h : Fin 128} (hs : Memory.wf s = true) :
    Memory.wf (withdrawCommand s h) = true := by
  unfold withdrawCommand
  dsimp only
  exact State.withCore_wf (State.withHub_wf (dropActs_wf hs))

theorem cancelledRecord_wf {s : State} {w3 : Word} (h : Memory.wf s = true) :
    Memory.wf (cancelledRecord s w3) = true := putWords_wf h _ _

theorem withdrawCircuit_wf {s : State} {h : Fin 128} (hs : Memory.wf s = true) :
    Memory.wf (withdrawCircuit s h) = true := by
  unfold withdrawCircuit
  extract_lets mine reqs t
  have ht : Memory.wf t = true := State.withFab_wf (dropActs_wf hs)
  refine wf_ite (completeAt_wf (dropActs_wf hs)) ?_
  clear_value reqs
  split
  · exact hs
  · exact State.later_wf (wf_ite ht (cancelledRecord_wf ht))

theorem withdrawPost_wf {s : State} {h : Fin 128} (hs : Memory.wf s = true) :
    Memory.wf (withdrawPost s h) = true := wf_ite (State.later_wf (dropActs_wf hs)) hs

theorem withdrawLaunch_wf {s : State} {h : Fin 128} (hs : Memory.wf s = true) :
    Memory.wf (withdrawLaunch s h) = true := State.later_wf (State.withCore_wf (dropActs_wf hs))

theorem withdraw_wf {s : State} {h : Fin 128} (hs : Memory.wf s = true) :
    Memory.wf (withdraw s h) = true := by
  unfold withdraw
  extract_lets e
  refine wf_ite hs ?_
  split
  · exact completeAt_wf (withdrawCommand_wf (startEntry_wf hs))
  · exact completeAt_wf (withdrawCommand_wf (startEntry_wf hs))
  · exact completeAt_wf (withdrawCommand_wf (startEntry_wf hs))
  · exact completeAt_wf (withdrawCommand_wf (startEntry_wf hs))
  · exact withdrawCircuit_wf hs
  · exact withdrawCircuit_wf hs
  · exact withdrawPost_wf hs
  · exact wf_ite (withdrawLaunch_wf (forgetUnits_wf (startEntry_wf hs))) hs

theorem execCancelh_wf {a : Opd} {s : State} (h : Memory.wf s = true) :
    NextWf (execCancelh a s) := by
  unfold execCancelh
  refine .finish h ?_
  refine .seq fun u => ?_
  split
  · split
    · exact .ok (retire_wf (withdraw_wf h))
    · exact .ok (retire_wf h)
  · exact .ok (retire_wf h)

/-! ## The operations of Machine/Vector -/

theorem vecEnd_wf {s : State} {d : VIdx} {old : Lanes} {t : Ty} {mask : Word} {rs : List (Option FRes)} {s1 s2 s3 : Option Lanes}
    (h : Memory.wf s = true) :
    ResWf (·) (vecEnd s d old t mask rs s1 s2 s3) := .bind (writeVec_wf h) fun _ hu => .ok (floatEnd_wf hu)

theorem vec2_wf {s : State} {d a b : VIdx} {m : MIdx} {t : Ty} {f : Elem2} (h : Memory.wf s = true) :
    ResWf (·) (vec2 s d a b m t f) := .seq fun _ => .seq fun _ => .seq fun _ => vecEnd_wf h

theorem vec1_wf {s : State} {d a : VIdx} {m : MIdx} {t : Ty} {f : RMode → Lanes → Nat → FRes} (h : Memory.wf s = true) :
    ResWf (·) (vec1 s d a m t f) := .seq fun _ => .seq fun _ => vecEnd_wf h

theorem execVadd_wf {d a b : VIdx} {m : MIdx} {t : Ty} {s : State} (h : Memory.wf s = true) :
    NextWf (execVadd d a b m t s) := .finish h (vec2_wf h)

theorem execVsub_wf {d a b : VIdx} {m : MIdx} {t : Ty} {s : State} (h : Memory.wf s = true) :
    NextWf (execVsub d a b m t s) := .finish h (vec2_wf h)

theorem execVmul_wf {d a b : VIdx} {m : MIdx} {t : Ty} {s : State} (h : Memory.wf s = true) :
    NextWf (execVmul d a b m t s) := .finish h (vec2_wf h)

theorem execVfma_wf {d a b : VIdx} {m : MIdx} {t : Ty} {s : State} (h : Memory.wf s = true) :
    NextWf (execVfma d a b m t s) := .finish h (.seq fun _ => .seq fun _ => .seq fun _ => vecEnd_wf h)

theorem execVmin_wf {d a b : VIdx} {m : MIdx} {t : Ty} {s : State} (h : Memory.wf s = true) :
    NextWf (execVmin d a b m t s) := .finish h (vec2_wf h)

theorem execVmax_wf {d a b : VIdx} {m : MIdx} {t : Ty} {s : State} (h : Memory.wf s = true) :
    NextWf (execVmax d a b m t s) := .finish h (vec2_wf h)

theorem execVand_wf {d a b : VIdx} {m : MIdx} {t : Ty} {s : State} (h : Memory.wf s = true) :
    NextWf (execVand d a b m t s) := .finish h (vec2_wf h)

theorem execVor_wf {d a b : VIdx} {m : MIdx} {t : Ty} {s : State} (h : Memory.wf s = true) :
    NextWf (execVor d a b m t s) := .finish h (vec2_wf h)

theorem execVxor_wf {d a b : VIdx} {m : MIdx} {t : Ty} {s : State} (h : Memory.wf s = true) :
    NextWf (execVxor d a b m t s) := .finish h (vec2_wf h)

theorem execVnot_wf {d a : VIdx} {m : MIdx} {t : Ty} {s : State} (h : Memory.wf s = true) :
    NextWf (execVnot d a m t s) := .finish h (vec1_wf h)

theorem execVshl_wf {d a b : VIdx} {m : MIdx} {t : Ty} {s : State} (h : Memory.wf s = true) :
    NextWf (execVshl d a b m t s) := .finish h (vec2_wf h)

theorem execVshr_wf {d a b : VIdx} {m : MIdx} {t : Ty} {s : State} (h : Memory.wf s = true) :
    NextWf (execVshr d a b m t s) := .finish h (vec2_wf h)

theorem execVsra_wf {d a b : VIdx} {m : MIdx} {t : Ty} {s : State} (h : Memory.wf s = true) :
    NextWf (execVsra d a b m t s) := .finish h (vec2_wf h)

theorem execVcmp_wf {k : MIdx} {a b : VIdx} {m : MIdx} {t : Ty} {c : VCond} {s : State} (h : Memory.wf s = true) :
    NextWf (execVcmp k a b m t c s) := .finish h (.seq fun _ => .seq fun _ => .ok (floatEnd_wf (setMask_wf h)))

theorem execVsel_wf {d a b : VIdx} {m : MIdx} {t : Ty} {s : State} (h : Memory.wf s = true) :
    NextWf (execVsel d a b m t s) := .finish h (.seq fun _ => .seq fun _ => .bind (writeVec_wf h) fun _ hu => .ok (retire_wf hu))

theorem vecDivide_wf {s : State} {d : VIdx} {old : Lanes} {t : Ty} {mask : Word} {rs : List (Option FRes)} {s1 s2 : Option Lanes}
    (h : Memory.wf s = true) :
    ResWf (·) (vecDivide s d old t mask rs s1 s2) := .bind (writeVecPending_wf (State.newTicket_wf h)) fun _ hu => .ok (divideStart_wf hu)

theorem execVdiv_wf {d a b : VIdx} {m : MIdx} {t : Ty} {s : State} (h : Memory.wf s = true) :
    NextWf (execVdiv d a b m t s) := .finish h (.seq fun _ => .seq fun _ => .seq fun _ => vecDivide_wf h)

theorem vecRoot_wf {s : State} {d a : VIdx} {m : MIdx} {t : Ty} {f : Fmt → RMode → FOp → FRes} (h : Memory.wf s = true) :
    ResWf (·) (vecRoot s d a m t f) := .seq fun _ => .seq fun _ => vecDivide_wf h

theorem execVsqrt_wf {d a : VIdx} {m : MIdx} {t : Ty} {s : State} (h : Memory.wf s = true) :
    NextWf (execVsqrt d a m t s) := .finish h (vecRoot_wf h)

theorem execVrsq_wf {d a : VIdx} {m : MIdx} {t : Ty} {s : State} (h : Memory.wf s = true) :
    NextWf (execVrsq d a m t s) := .finish h (vecRoot_wf h)

theorem execVabs_wf {d a : VIdx} {m : MIdx} {t : Ty} {s : State} (h : Memory.wf s = true) :
    NextWf (execVabs d a m t s) := .finish h (vec1_wf h)

theorem execVneg_wf {d a : VIdx} {m : MIdx} {t : Ty} {s : State} (h : Memory.wf s = true) :
    NextWf (execVneg d a m t s) := .finish h (vec1_wf h)

theorem execVred_wf {op : RedOp} {a : VIdx} {sd : Opd} {m : MIdx} {t : Ty} {s : State} (h : Memory.wf s = true) :
    NextWf (execVred op a sd m t s) := .finish h (.seq fun _ => .seq fun _ => .bind (writeDest_wf h) fun _ hu => .ok (floatEnd_wf hu))

theorem execVcvt_wf {d a : VIdx} {tgt : Ty} {m : MIdx} {t : Ty} {s : State} (h : Memory.wf s = true) :
    NextWf (execVcvt d a tgt m t s) := .finish h (.seq fun _ => .seq fun _ => .bind (writeVec_wf h) fun _ hu => .ok (floatEnd_wf hu))

theorem execVperm_wf {d a b : VIdx} {m : MIdx} {t : Ty} {s : State} (h : Memory.wf s = true) :
    NextWf (execVperm d a b m t s) := by
  unfold execVperm
  extract_lets mask
  refine .finish h ?_
  exact .seq fun _ => .seq fun _ => .seq fun _ => .bind (writeVec_wf h) fun _ hu => .ok (retire_wf hu)

theorem execVbcast_wf {d : VIdx} {sa : Opd} {m : MIdx} {t : Ty} {s : State} (h : Memory.wf s = true) :
    NextWf (execVbcast d sa m t s) := by
  unfold execVbcast
  extract_lets mask
  refine .finish h ?_
  refine .seq fun u => ?_
  exact .bind (readSrc_wf h) fun _ hx => .seq fun _ => .bind (writeVec_wf hx) fun _ hu1 => .ok (retire_wf hu1)

theorem execVmovx_wf {d : Opd} {v : VIdx} {j : Opd} {t : Ty} {s : State} (h : Memory.wf s = true) :
    NextWf (execVmovx d v j t s) := by
  unfold execVmovx
  refine .finish h ?_
  refine .seq fun u => ?_
  exact .bind (readSrc_wf h) fun _ hx => .seq fun _ => .bind (writeDest_wf hx) fun _ hu1 => .ok (retire_wf hu1)

theorem execVins_wf {v : VIdx} {a j : Opd} {t : Ty} {s : State} (h : Memory.wf s = true) :
    NextWf (execVins v a j t s) := by
  unfold execVins
  refine .finish h ?_
  refine .seq fun u => ?_
  exact .bind (read2_wf h) fun _ hx => .seq fun _ => .bind (writeVec_wf hx) fun _ hu1 => .ok (retire_wf hu1)

theorem maskOp_wf {s : State} {d a b : MIdx} {f : Word → Word → Word} (h : Memory.wf s = true) :
    ResWf (·) (maskOp s d a b f) := .ok (retire_wf (setMask_wf h))

theorem execMand_wf {d a b : MIdx} {s : State} (h : Memory.wf s = true) :
    NextWf (execMand d a b s) := .finish h (maskOp_wf h)

theorem execMor_wf {d a b : MIdx} {s : State} (h : Memory.wf s = true) :
    NextWf (execMor d a b s) := .finish h (maskOp_wf h)

theorem execMxor_wf {d a b : MIdx} {s : State} (h : Memory.wf s = true) :
    NextWf (execMxor d a b s) := .finish h (maskOp_wf h)

theorem execMnot_wf {d a : MIdx} {s : State} (h : Memory.wf s = true) :
    NextWf (execMnot d a s) := .finish h (maskOp_wf h)

theorem execMpop_wf {sd : Opd} {a : MIdx} {t : Ty} {s : State} (h : Memory.wf s = true) :
    NextWf (execMpop sd a t s) := .finish h (.seq fun _ => .bind (writeDest_wf h) fun _ hu => .ok (retire_wf hu))

theorem execVsigmin_wf {sd : Opd} {a : VIdx} {m : MIdx} {s : State} (h : Memory.wf s = true) :
    NextWf (execVsigmin sd a m s) := .finish h (.seq fun _ => .seq fun _ => .bind (writeDest_wf h) fun _ hu => .ok (retire_wf hu))

theorem execVsigset_wf {d a : VIdx} {sa : Opd} {m : MIdx} {s : State} (h : Memory.wf s = true) :
    NextWf (execVsigset d a sa m s) := by
  unfold execVsigset
  extract_lets mask
  refine .finish h ?_
  refine .seq fun u => ?_
  refine .seq fun x => ?_
  exact .bind (readSrc_wf h) fun _ hy => .seq fun _ => .bind (writeVec_wf hy) fun _ hu1 => .ok (retire_wf hu1)

theorem vecScale_wf {s : State} {d a b : VIdx} {m : MIdx} {t : Ty} {place : Nat → Nat} (h : Memory.wf s = true) :
    ResWf (·) (vecScale s d a b m t place) := .seq fun _ => .seq fun _ => .seq fun _ => vecEnd_wf h

theorem execVscla_wf {d a b : VIdx} {m : MIdx} {t : Ty} {s : State} (h : Memory.wf s = true) :
    NextWf (execVscla d a b m t s) := .finish h (vecScale_wf h)

theorem execVsclab_wf {d a b : VIdx} {m : MIdx} {t : Ty} {s : State} (h : Memory.wf s = true) :
    NextWf (execVsclab d a b m t s) := .finish h (vecScale_wf h)

/-! ## The operations of Machine/Tile -/

theorem tileDone_wf {s : State} {fl : FFlags} {cycles : Nat} (h : Memory.wf s = true) : Memory.wf (tileDone s fl cycles).st = true := h

theorem cmdFlagsTo_wf {s : State} {c : EngCmd} {fl : FFlags} (h : Memory.wf s = true) :
    Memory.wf (cmdFlagsTo s c fl) = true := wf_ite h (State.modStrand_wf h)

theorem tileBusy_wf {s : State} {n : Nat} (h : Memory.wf s = true) :
    Memory.wf (tileBusy s n) = true := State.at_wf (State.withCore_wf h)

theorem tileEnd_wf {s : State} {c : EngCmd} {fail : Option Nat} {out : TileOut} (h : Memory.wf s = true)
    (hout : Memory.wf out.st = true) : NextWf (tileEnd s c fail out) := by
  unfold tileEnd
  split
  · exact .next (completeAt_wf (tileBusy_wf h))
  · exact .next (State.at_wf (tileBusy_wf (State.modEntry_wf (cmdFlagsTo_wf hout))))

theorem acceptTile_wf {s : State} (h : Memory.wf s = true) :
    Memory.wf (acceptTile s) = true := by
  unfold acceptTile
  dsimp only
  split
  · exact h
  · exact State.withCore_wf (startEntry_wf h)

theorem leaveTile_wf {s : State} (h : Memory.wf s = true) :
    Memory.wf (leaveTile s) = true := by
  unfold leaveTile
  dsimp only
  split
  · exact wf_ite (wf_same h rfl) h
  · exact h

theorem beginTile_wf {s : State} (h : Memory.wf s = true) :
    Memory.wf (beginTile s) = true := by
  unfold beginTile
  split
  · exact wf_ite (State.atOnce_wf h) (State.atOnce_wf h)
  · exact h

theorem execTileFrontEndAccept_wf {s : State} (h : Memory.wf s = true) :
    NextWf (execTileFrontEndAccept s) := by
  unfold execTileFrontEndAccept
  extract_lets t t1 t2
  have ht : Memory.wf t = true := leaveTile_wf h
  have ht1 : Memory.wf t1 = true := wf_ite (acceptTile_wf ht) ht
  have ht2 : Memory.wf t2 = true := beginTile_wf ht1
  exact .next (wf_ite ht2 (State.atOnce_wf ht2))

theorem kindPut_wf {s : State} {w : Word} {off v tag : Nat} (h : Memory.wf s = true) :
    Memory.wf (kindPut s w off v tag) = true := performStore_wf h _

theorem putTile_wf {s : State} {w : Word} {width : Nat} {rows : Nat → List (Nat × Nat)} (h : Memory.wf s = true) :
    Memory.wf (putTile s w width rows) = true := foldl_wf (fun _ _ ht => foldl_wf (fun _ _ ht1 => kindPut_wf ht1) _ ht) _ h

theorem accWrite_wf {s : State} {fmt : Nat} {w : Word} {v : TileVal} (h : Memory.wf s = true) :
    Memory.wf (accWrite s fmt w v) = true := wf_same h rfl

theorem orPoison_wf {s : State} {p : Option Nat} {cycles : Nat} {out : TileOut} (h : Memory.wf s = true)
    (hout : Memory.wf out.st = true) : Memory.wf (orPoison s p cycles out).st = true := by
  cases p with
  | none => exact hout
  | some hi => exact h

theorem tileEndWait_wf {s : State} {c : EngCmd} {fail : Option Nat} {out : TileOut} {n : Nat} (h : Memory.wf s = true)
    (hout : Memory.wf out.st = true) : NextWf (tileEndWait s c fail out n) :=
  .ite (tileEnd_wf h hout) (tileEnd_wf h (wf_same hout rfl))

theorem execTld_wf {c : EngCmd} {s : State} (h : Memory.wf s = true) : NextWf (execTld c s) :=
  tileEndWait_wf h (orPoison_wf h (tileDone_wf (accWrite_wf h)))

theorem execTst_wf {c : EngCmd} {s : State} (h : Memory.wf s = true) : NextWf (execTst c s) :=
  tileEndWait_wf h (orPoison_wf h (tileDone_wf (putTile_wf h)))

theorem execTzero_wf {c : EngCmd} {s : State} (h : Memory.wf s = true) : NextWf (execTzero c s) :=
  tileEnd_wf h (tileDone_wf (accWrite_wf h))

theorem execTsig_wf {c : EngCmd} {s : State} (h : Memory.wf s = true) : NextWf (execTsig c s) :=
  tileEnd_wf h (orPoison_wf h (wf_same h rfl))

theorem execTcvt_wf {c : EngCmd} {s : State} (h : Memory.wf s = true) : NextWf (execTcvt c s) :=
  tileEndWait_wf h (orPoison_wf h (tileDone_wf (putTile_wf h)))

theorem execTtrn_wf {c : EngCmd} {s : State} (h : Memory.wf s = true) : NextWf (execTtrn c s) :=
  tileEndWait_wf h (orPoison_wf h (tileDone_wf (wf_ite (accWrite_wf h) (putTile_wf h))))

theorem execTscal_wf {c : EngCmd} {s : State} (h : Memory.wf s = true) : NextWf (execTscal c s) :=
  tileEndWait_wf h (orPoison_wf h (tileDone_wf (accWrite_wf h)))

theorem execTadd_wf {c : EngCmd} {s : State} (h : Memory.wf s = true) : NextWf (execTadd c s) :=
  tileEnd_wf h (orPoison_wf h (tileDone_wf (accWrite_wf h)))

theorem execTmma_wf {c : EngCmd} {s : State} (h : Memory.wf s = true) : NextWf (execTmma c s) := by
  refine tileEndWait_wf h ?_
  split
  · exact wf_ite h (accWrite_wf h)
  · exact tileDone_wf (accWrite_wf h)

theorem tileIllegal_wf {s : State} {c : EngCmd} (h : Memory.wf s = true) : NextWf (tileIllegal s c) := tileEnd_wf h (tileDone_wf h)

/-! ## The operations of Machine/Gaussian -/

theorem putPacked_wf {s : State} {w : Word} {off : Nat} {ty : Ty} {els : List (Nat × Nat)} (h : Memory.wf s = true) :
    Memory.wf (putPacked s w off ty els) = true := foldl_wf (fun _ _ ht => kindPut_wf ht) _ h

theorem putBlock_wf {s : State} {w : Word} {ty : Ty} {b : Block} (h : Memory.wf s = true) :
    Memory.wf (putBlock s w ty b) = true := putPacked_wf (kindPut_wf (kindPut_wf h))

theorem gaussEnd_wf {s : State} {c : EngCmd} {fields alignment : Bool} {hp : Option Nat} {headers : Bool} {p : Option Nat}
    {cycles n : Nat} {out : TileOut}
    (h : Memory.wf s = true) (hout : Memory.wf out.st = true) : NextWf (gaussEnd s c fields alignment hp headers p cycles n out) :=
  tileEndWait_wf h (orPoison_wf h hout)

theorem gaussPair_wf {c : EngCmd} {s : State} {f : Word → FOp → FOp → FRes} (h : Memory.wf s = true) : NextWf (gaussPair c s f) :=
  gaussEnd_wf h (tileDone_wf (putBlock_wf h))

theorem execGacc_wf {c : EngCmd} {s : State} (h : Memory.wf s = true) : NextWf (execGacc c s) := gaussPair_wf h

theorem execGsub_wf {c : EngCmd} {s : State} (h : Memory.wf s = true) : NextWf (execGsub c s) := gaussPair_wf h

theorem execGdamp_wf {c : EngCmd} {s : State} (h : Memory.wf s = true) : NextWf (execGdamp c s) := gaussPair_wf h

theorem elimEnd_wf {s : State} {e : Elim} {cycles : Nat} (h : Memory.wf s = true) : Memory.wf (elimEnd s e cycles).st = true := by
  unfold elimEnd
  split <;> exact h

theorem execGschur_wf {c : EngCmd} {s : State} (h : Memory.wf s = true) : NextWf (execGschur c s) :=
  gaussEnd_wf h (elimEnd_wf (putBlock_wf h))

theorem execGmean_wf {c : EngCmd} {s : State} (h : Memory.wf s = true) : NextWf (execGmean c s) :=
  gaussEnd_wf h (elimEnd_wf (putPacked_wf h))

/-! ## The operations of Machine/Copy -/

theorem engWrite_wf {s : State} {pas : List Nat} {ws : List Word} (h : Memory.wf s = true) : Memory.wf (engWrite s pas ws) = true := by
  induction pas generalizing s ws with
  | nil => exact h
  | cons pa pas ih =>
    cases ws with
    | nil => exact h
    | cons w ws => exact ih (homeStore_wf h)

theorem engBeat_wf {s : State} {pas : List Nat} {ws : List Word} (h : Memory.wf s = true) :
    Memory.wf (engBeat s pas ws) = true := foldl_wf (fun _ _ ht => clearGranule_wf ht _) _ (engWrite_wf h)

theorem State.modCopy_wf {s : State} {f : CopyEngine → CopyEngine} (h : Memory.wf s = true) :
    Memory.wf (s.modCopy f) = true := wf_same h rfl

theorem dropChan_wf {s : State} {h : Fin 128} (hs : Memory.wf s = true) :
    Memory.wf (dropChan s h) = true := State.modCopy_wf hs

theorem copyFail_wf {s : State} {c : EngCmd} {st : Nat} (h : Memory.wf s = true) :
    Memory.wf (copyFail s c st) = true := wf_same h rfl

theorem copyEnd_wf {s : State} {c : EngCmd} {feas : Bool} {st hi : Nat} (h : Memory.wf s = true) :
    Memory.wf (copyEnd s c feas st hi) = true := wf_same h rfl

theorem kickCopy_wf {s : State} (h : Memory.wf s = true) :
    Memory.wf (kickCopy s) = true := wf_ite h (wf_ite (State.at_wf h) (State.later_wf h))

theorem openChan_wf {s : State} {c : EngCmd} {k : ChanKind} (h : Memory.wf s = true) :
    Memory.wf (openChan s c k) = true := kickCopy_wf (State.modCopy_wf (State.modCopy_wf (dropChan_wf h)))

theorem copyTake_wf {s : State} {c : EngCmd} {fields alignment : Bool} {k : ChanKind} (h : Memory.wf s = true) :
    NextWf (copyTake s c fields alignment k) := by
  unfold copyTake
  split
  · exact .next (copyFail_wf h)
  · exact .next (openChan_wf h)

theorem execCpy_wf {c : EngCmd} {s : State} (h : Memory.wf s = true) :
    NextWf (execCpy c s) := copyTake_wf h

theorem execCpys_wf {c : EngCmd} {s : State} (h : Memory.wf s = true) :
    NextWf (execCpys c s) := copyTake_wf h

theorem execCpyz_wf {c : EngCmd} {s : State} (h : Memory.wf s = true) :
    NextWf (execCpyz c s) := copyTake_wf h

theorem execScrub_wf {c : EngCmd} {s : State} (h : Memory.wf s = true) :
    NextWf (execScrub c s) := .ite (.next (copyEnd_wf h)) (copyTake_wf h)

theorem moveWords_wf {s : State} {c : EngCmd} {src dst n red : Nat} (h : Memory.wf s = true) :
    ResWf (·) (moveWords s c src dst n red) := by
  unfold moveWords
  dsimp only
  refine .seq fun sp => ?_
  refine .seq fun dp => ?_
  refine .seq fun xs => ?_
  refine .ite (.seq fun _ => .ok (cmdFlagsTo_wf (engBeat_wf h))) ?_
  exact .seq fun _ => .ok (cmdFlagsTo_wf (engBeat_wf h))

theorem scrubBeat_wf {s : State} {c : EngCmd} {src dst g : Nat} (h : Memory.wf s = true) :
    ResWf (·) (scrubBeat s c src dst g) := by
  unfold scrubBeat
  dsimp only
  refine .seq fun sp => ?_
  refine .seq fun dp => ?_
  refine .ite (.seq fun _ => .ok (engWrite_wf (wf_ite (oweScrub_wf (countLane_wf (wf_same h rfl))) (wf_same h rfl)))) ?_
  exact .ok (engWrite_wf (wf_ite (oweScrub_wf (countLane_wf (wf_same h rfl))) (wf_same h rfl)))

theorem commitFlits_wf {s : State} {ep : Fin 32} {k : Fin 16} {seq : Nat} {fs : List Flit} (h : Memory.wf s = true) :
    Memory.wf (commitFlits s ep k seq fs) = true := State.atOnce_wf (State.modSend_wf h)

theorem credDrop_wf {s : State} {crid : BitVec 16} {round : BitVec 8} {code : Nat} (h : Memory.wf s = true) :
    Memory.wf (credDrop s crid round code) = true := fabricRecord_wf h

theorem takeAt_wf {s : State} {i : Nat} (h : Memory.wf s = true) :
    Memory.wf (takeAt s i) = true := State.atOnce_wf (State.modRecv_wf h)

theorem setOrder_wf {s : State} {o o' : InPkt} (h : Memory.wf s = true) :
    Memory.wf (setOrder s o o') = true := wf_same h rfl

theorem takePayload_wf {s : State} {x : Nat × InPkt × Flit} (h : Memory.wf s = true) :
    Memory.wf (takePayload s x) = true := setOrder_wf (takeAt_wf h)

theorem dropStream_wf {s : State} {crid : BitVec 16} {round : BitVec 8} (h : Memory.wf s = true) :
    Memory.wf (dropStream s crid round) = true := by
  unfold dropStream
  split
  · exact State.at_wf (setOrder_wf h)
  · exact h

theorem startFirst_wf {s : State} {c : EngCmd} (h : Memory.wf s = true) :
    Memory.wf (startFirst s c) = true := by
  unfold startFirst
  extract_lets t p
  have ht : Memory.wf t = true := startEntry_wf h
  exact wf_ite (copyFail_wf ht) (wf_ite (State.at_wf (dropChan_wf ht)) (openChan_wf ht))

theorem bindCred_wf {s : State} {c : EngCmd} {p0 : CredPacket} (h : Memory.wf s = true) :
    Memory.wf (bindCred s c p0) = true := wf_ite (copyFail_wf (dropStream_wf (startEntry_wf h))) (openChan_wf (startEntry_wf h))

theorem lateAt_wf {s : State} {crid : BitVec 16} {round : BitVec 8} {f : Flit} (h : Memory.wf s = true) :
    Memory.wf (lateAt s crid round f) = true := wf_ite (depositSoon_wf (State.modRecv_wf h)) (credDrop_wf h)

theorem sendLate_wf {s : State} {c : EngCmd} {r : FlushRec} (h : Memory.wf s = true) :
    Memory.wf (sendLate s c r) = true := wf_ite (lateAt_wf h) h

theorem startLocal_wf {s : State} {c : EngCmd} (h : Memory.wf s = true) :
    Memory.wf (startLocal s c) = true := by
  unfold startLocal
  split
  · exact State.later_wf (dropChan_wf (sendLate_wf (startEntry_wf (State.modCopy_wf h))))
  · split
    · exact bindCred_wf (State.modCopy_wf h)
    · exact openChan_wf h

theorem execCred_wf {c : EngCmd} {s : State} (h : Memory.wf s = true) :
    NextWf (execCred c s) := by
  unfold execCred
  split
  · exact .next (copyFail_wf h)
  · exact .next (wf_ite (startFirst_wf h) (startLocal_wf h))

theorem startFlush_wf {s : State} {p0 : CredPacket} (h : Memory.wf s = true) :
    Memory.wf (startFlush s p0) = true := by
  unfold startFlush
  extract_lets p r s1 ep s2 fl s3
  have hs1 : Memory.wf s1 = true := State.modCopy_wf h
  have hs2 : Memory.wf s2 = true := wf_ite (credDrop_wf hs1) hs1
  have hs3 : Memory.wf s3 = true := by
    unfold s3
    split
    · exact setOrder_wf hs2
    · exact State.modCopy_wf hs2
  exact State.at_wf hs3

theorem flushStep_wf {s : State} {o : InPkt} {ep : Option (Fin 32)} {out : List Flit} (h : Memory.wf s = true) :
    Memory.wf (flushStep s o ep out) = true := by
  unfold flushStep
  extract_lets next
  split
  · refine wf_ite (wf_ite (setOrder_wf (commitFlits_wf h)) h) ?_
    clear_value next
    split
    · exact setOrder_wf (takeAt_wf h)
    · exact h
  · clear_value next
    split
    · exact setOrder_wf (takeAt_wf h)
    · exact wf_ite (setOrder_wf h) h

theorem flushOn_wf {s : State} {crid : BitVec 16} {round : BitVec 8} (h : Memory.wf s = true) :
    Memory.wf (flushOn s crid round) = true := by
  unfold flushOn
  split
  · extract_lets t
    have ht : Memory.wf t = true := by
      unfold t
      split
      · exact flushStep_wf h
      · exact h
    exact wf_ite (State.atOnce_wf ht) (gatherCred_wf ht)
  · exact h

theorem takeHeader_wf {s : State} {p : CredPacket} (h : Memory.wf s = true) :
    Memory.wf (takeHeader s p) = true := State.modCopy_wf (takeAt_wf h)

theorem meetHeader_wf {s : State} {p : CredPacket} (h : Memory.wf s = true) :
    Memory.wf (meetHeader s p) = true := by
  unfold meetHeader
  extract_lets t
  have ht : Memory.wf t = true := State.modCopy_wf (takeHeader_wf h)
  split
  · exact gatherCred_wf (bindCred_wf (takeHeader_wf h))
  · refine wf_ite (gatherCred_wf (startFlush_wf (takeHeader_wf h))) ?_
    exact wf_ite (gatherCred_wf (wf_ite ht (State.at_wf ht))) (State.atOnce_wf h)

theorem execCredLook_wf {s : State} (h : Memory.wf s = true) :
    NextWf (execCredLook s) := by
  unfold execCredLook
  extract_lets r
  split
  · exact .next (wf_ite h (meetHeader_wf h))
  · exact .next h

theorem execCredPacketArrive_wf {p : CredPacket} {s : State} (h : Memory.wf s = true) :
    NextWf (execCredPacketArrive p s) := by
  unfold execCredPacketArrive
  extract_lets ep fs ms s1
  have hs1 : Memory.wf s1 = true := wf_ite h (State.modRecv_wf h)
  exact .ite (.next (depositSoon_wf (State.modRecv_wf h))) (.next (wf_ite (meetHeader_wf hs1) hs1))

theorem execCredFlush_wf {crid : BitVec 16} {round : BitVec 8} {s : State} (h : Memory.wf s = true) :
    NextWf (execCredFlush crid round s) := by
  unfold execCredFlush
  split
  · exact .next (startFlush_wf (State.modCopy_wf h))
  · exact .next (flushOn_wf h)

theorem setChan_wf {s : State} {c : Chan} (h : Memory.wf s = true) :
    Memory.wf (setChan s c) = true := wf_same h rfl

theorem copyBeat_wf {s : State} {c : Chan} {n : Nat} {r : Except Nat State} (h : Memory.wf s = true) (hr : ResWf (·) r) :
    Memory.wf (copyBeat s c n r) = true := by
  cases r with
  | error st => exact copyFail_wf h
  | ok t => exact wf_ite (copyEnd_wf (hr t rfl)) (setChan_wf (hr t rfl))

theorem sendBeat_wf {s : State} {c : Chan} {src : Nat} {p : CredPacket} {out : List Flit} (h : Memory.wf s = true) :
    Memory.wf (sendBeat s c src p out) = true := by
  unfold sendBeat
  extract_lets n
  refine wf_ite (setChan_wf (commitFlits_wf h)) ?_
  refine wf_ite ?_ (copyEnd_wf h)
  split
  · exact copyFail_wf h
  · exact setChan_wf h

theorem hopWords_wf {s : State} {c : Chan} {src dst : Nat} {op : BitVec 4} {f : Flit} (h : Memory.wf s = true) :
    ResWf (·.1) (hopWords s c src dst op f) := by
  unfold hopWords
  dsimp only
  refine .ite ?_ ?_
  · refine .seq fun u => ?_
    refine .ite (.seq fun _ => .ite (.seq fun _ => .ok (engBeat_wf (cmdFlagsTo_wf h))) (.ok (cmdFlagsTo_wf h))) ?_
    exact .seq fun _ => .ite (.seq fun _ => .ok (engBeat_wf (cmdFlagsTo_wf h))) (.ok (cmdFlagsTo_wf h))
  · refine .ite (.seq fun _ => .ite (.seq fun _ => .ok (engBeat_wf (cmdFlagsTo_wf h))) (.ok (cmdFlagsTo_wf h))) ?_
    exact .seq fun _ => .ite (.seq fun _ => .ok (engBeat_wf (cmdFlagsTo_wf h))) (.ok (cmdFlagsTo_wf h))

theorem hopEnd_wf {s : State} {c : Chan} {p : CredPacket} (h : Memory.wf s = true) :
    Memory.wf (hopEnd s c p) = true := wf_ite (copyEnd_wf h) (copyEnd_wf h)

theorem hopBeat_wf {s : State} {c : Chan} {src dst : Nat} {op : BitVec 4} {p : CredPacket} {out : List Flit} (h : Memory.wf s = true) :
    Memory.wf (hopBeat s c src dst op p out) = true := by
  unfold hopBeat
  extract_lets n
  refine wf_ite (setChan_wf (commitFlits_wf h)) ?_
  refine wf_ite ?_ (hopEnd_wf h)
  split
  · exact h
  · split
    · exact copyFail_wf h
    · rename_i x r e
      have ht : Memory.wf r.1 = true := hopWords_wf (takePayload_wf h) _ e
      exact setChan_wf ht

theorem chanBeat_wf {s : State} {c : Chan} (h : Memory.wf s = true) :
    Memory.wf (chanBeat s c) = true := by
  unfold chanBeat
  extract_lets t
  have ht : Memory.wf t = true := startEntry_wf h
  split
  · exact copyBeat_wf ht (moveWords_wf ht)
  · exact copyBeat_wf ht (moveWords_wf ht)
  · exact copyBeat_wf ht (.seq fun _ => .ok (engBeat_wf ht))
  · exact copyBeat_wf ht (scrubBeat_wf ht)
  · exact sendBeat_wf ht
  · exact hopBeat_wf ht
  · exact h

theorem execCopyEngineBeat_wf {s : State} (h : Memory.wf s = true) :
    NextWf (execCopyEngineBeat s) := by
  unfold execCopyEngineBeat
  split
  · split
    · rename_i x x1 t e
      have ht : Memory.wf t = true := engineWait_wf h _ e
      exact .next (kickCopy_wf ht)
    · exact .next (kickCopy_wf (needCopy_wf h))
    · exact .next (kickCopy_wf (chanBeat_wf (engineGo_wf h)))
  · exact .next (kickCopy_wf h)

theorem copyIllegal_wf {s : State} {c : EngCmd} (h : Memory.wf s = true) :
    NextWf (copyIllegal s c) := .next (copyFail_wf h)

theorem dropMem_wf {s : State} {h : Fin 128} (hs : Memory.wf s = true) :
    Memory.wf (dropMem s h) = true := wf_same hs rfl

theorem engPut_wf {s : State} {c : EngCmd} {va : Nat} {ws : List Word}
    (h : Memory.wf s = true) : Memory.wf (engPut s c va ws).1 = true := by
  induction ws generalizing s va with
  | nil => exact h
  | cons w ws ih =>
    unfold engPut
    split
    · exact h
    · exact ih (engWrite_wf h)

theorem execScan_wf {c : EngCmd} {s : State} (h : Memory.wf s = true) :
    NextWf (execScan c s) := by
  unfold execScan
  extract_lets t
  have ht : Memory.wf t = true := dropMem_wf (engineGo_wf (startEntry_wf h))
  split
  · exact .next (completeAt_wf (dropMem_wf h))
  · split
    · rename_i x t1 e
      have ht1 : Memory.wf t1 = true := engineWait_wf h _ e
      exact .next (State.at_wf ht1)
    · split
      · exact .next (completeAt_wf ht)
      · extract_lets ws r u
        have hr : Memory.wf r.1 = true := engPut_wf (wf_same ht rfl)
        have hu : Memory.wf u = true := engineUnits_wf hr
        split
        · exact .next (State.at_wf (needCopy_wf (startEntry_wf h)))
        · split
          · exact .next (completeAt_wf hu)
          · exact .next (State.later_wf hu)

theorem memIllegal_wf {s : State} {c : EngCmd} (h : Memory.wf s = true) :
    NextWf (memIllegal s c) := .next (completeAt_wf (dropMem_wf h))

/-! ## The operations of Machine/Exchange -/

theorem modRound_wf {s : State} {r : BitVec 16} {f : Round → Round} (h : Memory.wf s = true) :
    Memory.wf (modRound s r f) = true := wf_same h rfl

theorem fillPosts_wf {s : State} {hs : List (Fin 128)} {st : Nat} (h : Memory.wf s = true) :
    Memory.wf (fillPosts s hs st) = true := foldl_wf (fun _ _ ht => completeAt_wf ht) _ h

theorem roundRecord_wf {s : State} {reason : Nat} {r : BitVec 16} {fn : Nat} (h : Memory.wf s = true) :
    Memory.wf (roundRecord s reason r fn) = true := fabricRecord_wf h

theorem countPost_wf {s : State} {p : Post} (h : Memory.wf s = true) :
    Memory.wf (countPost s p) = true := by
  unfold countPost
  extract_lets hs first s1 r
  have hs1 : Memory.wf s1 = true := foldl_wf (fun _ _ ht => startEntry_wf ht) _ h
  have hr : Memory.wf r = true := modRound_wf hs1
  exact wf_ite (State.at_wf (State.at_wf hr)) hr

theorem execPostArrive_wf {p : Post} {s : State} (h : Memory.wf s = true) :
    NextWf (execPostArrive p s) := by
  unfold execPostArrive
  refine .ite (.next (fillPosts_wf h)) ?_
  split
  · exact .ite (.next (fillPosts_wf (roundRecord_wf h))) (.next (countPost_wf h))
  · exact .next (countPost_wf h)

theorem sendRow_wf {s : State} {r : Round} {from_ : Nat} (h : Memory.wf s = true) :
    Memory.wf (sendRow s r from_) = true := wf_ite (State.atOnce_wf (wf_same h rfl)) h

theorem execRoundClose_wf {round : BitVec 16} {s : State} (h : Memory.wf s = true) :
    NextWf (execRoundClose round s) := by
  unfold execRoundClose
  split
  · exact .next (wf_ite (sendRow_wf h) h)
  · exact .next h

theorem formRound_wf {s : State} {lead : OwlRow} {all : List OwlRow} (h : Memory.wf s = true) :
    Memory.wf (formRound s lead all) = true := by
  unfold formRound
  extract_lets cal t t1 t2 w
  have ht : Memory.wf t = true := foldl_wf (fun _ _ ht => roundRecord_wf ht) _ h
  have ht1 : Memory.wf t1 = true := State.withHub_wf ht
  have ht2 : Memory.wf t2 = true := State.later_wf ht1
  exact wf_ite ht2 (State.at_wf (wf_same ht2 rfl))

theorem execOwlCalendar_wf {round : BitVec 16} {rows : List OwlRow} {s : State} (h : Memory.wf s = true) :
    NextWf (execOwlCalendar round rows s) := by
  unfold execOwlCalendar
  extract_lets rows1 all
  clear_value all
  split
  · exact .next h
  · refine .ite (.next h) ?_
    refine .ite (.next (State.withHub_wf (foldl_wf (fun _ _ ht => roundRecord_wf ht) _ h))) ?_
    exact .ite (.next (State.atOnce_wf (State.withHub_wf h))) (.next (formRound_wf h))

theorem execOwlHeartbeat_wf {s : State} (h : Memory.wf s = true) :
    NextWf (execOwlHeartbeat s) := .next (wf_same h rfl)

theorem execOwlFailover_wf {s : State} (h : Memory.wf s = true) :
    NextWf (execOwlFailover s) := .next (wf_ite (State.atOnce_wf h) h)

theorem undelivered_wf {s : State} (h : Memory.wf s = true) :
    Memory.wf (undelivered s) = true := wf_same h rfl

theorem execOwlTakeover_wf {s : State} (h : Memory.wf s = true) :
    NextWf (execOwlTakeover s) := .ite (.next h) (.next (foldl_wf (fun _ _ ht => sendRow_wf ht) _ (State.withHub_wf (undelivered_wf h))))

theorem owlWheel_wf {s : State} (h : Memory.wf s = true) :
    Memory.wf (owlWheel s) = true := wf_ite h (wf_ite (State.withHub_wf h) (wf_ite (State.atOnce_wf h) h))

theorem noteFault_wf {s : State} {r : BitVec 16} {st : Nat} (h : Memory.wf s = true) :
    Memory.wf (noteFault s r st) = true := wf_same h rfl

theorem xchgUnits_wf {s : State} {c : EngCmd} {vas : List Nat} (h : Memory.wf s = true) :
    Memory.wf (xchgUnits s c vas) = true := askLines_wf (wf_same h rfl)

theorem readLists_wf {s : State} {round : BitVec 16} {c : EngCmd} (h : Memory.wf s = true) :
    Memory.wf (readLists s round c) = true := by
  unfold readLists
  extract_lets rs ls s1
  have hs1 : Memory.wf s1 = true := by
    unfold s1
    refine foldl_wf (fun s r ht => ?_) _ h
    split
    · exact noteFault_wf ht
    · exact ht
  exact modRound_wf (startEntry_wf (xchgUnits_wf hs1))

theorem readListsOf_wf {s : State} {round : BitVec 16} (h : Memory.wf s = true) :
    Memory.wf (readListsOf s round) = true := by
  unfold readListsOf
  split
  · split
    · exact readLists_wf h
    · exact h
  · exact h

theorem capacityCheck_wf {s : State} {base : BitVec 16} (h : Memory.wf s = true) :
    Memory.wf (capacityCheck s base) = true := by
  unfold capacityCheck
  split
  · exact wf_ite (wf_ite (State.atOnce_wf h) (fillPosts_wf (modRound_wf h))) h
  · exact h

theorem markFlits_wf {s : State} {pa : Nat} {bad : List Nat} (h : Memory.wf s = true) :
    Memory.wf (markFlits s pa bad) = true := foldl_wf (fun _ _ ht => markPoison_wf ht _) _ h

theorem clearFlits_wf {s : State} {pa n : Nat} (h : Memory.wf s = true) :
    Memory.wf (clearFlits s pa n) = true := foldl_wf (fun _ _ ht => clearGranule_wf ht _) _ h

theorem logArrival_wf {s : State} {x : XRecord} {pa : Nat} {ws : List Word} (h : Memory.wf s = true) :
    Memory.wf (logArrival s x pa ws) = true := wf_ite h (jayLog_wf h)

theorem recordArrive_wf {s : State} {x : XRecord} (h : Memory.wf s = true) :
    Memory.wf (recordArrive s x) = true := by
  unfold recordArrive
  extract_lets base
  split
  · extract_lets rs pa
    split
    · extract_lets pa1 s1 n s2 t t1
      have hs1 : Memory.wf s1 = true := logArrival_wf h
      have hs2 : Memory.wf s2 = true := askLines_wf (wf_same hs1 rfl)
      have ht : Memory.wf t = true := engWrite_wf (clearFlits_wf hs2)
      have ht1 : Memory.wf t1 = true := markFlits_wf ht
      exact capacityCheck_wf (modRound_wf ht1)
    · exact h
  · exact h

theorem sendRecord_wf {s : State} {round : BitVec 16} {cal : Calendar} {c : EngCmd} {d index : Nat} {x : Except Nat (Vector Word 4)}
    (h : Memory.wf s = true) :
    Memory.wf (sendRecord s round cal c d index x) = true := by
  unfold sendRecord
  extract_lets base rs
  split
  · exact noteFault_wf h
  · extract_lets t t1
    have ht : Memory.wf t = true := xchgUnits_wf h
    have ht1 : Memory.wf t1 = true := modRound_wf ht
    refine wf_ite h ?_
    split
    · exact noteFault_wf h
    · exact wf_ite (recordArrive_wf ht1) (modRound_wf ht1)

theorem sendPhase_wf {s : State} {round : BitVec 16} {cal : Calendar} {i d : Nat} (h : Memory.wf s = true) :
    Memory.wf (sendPhase s round cal i d) = true := by
  unfold sendPhase
  extract_lets me lo hi
  refine wf_ite h ?_
  refine foldl_wf (fun s k ht => ?_) _ h
  split
  · split
    · split
      · exact sendRecord_wf (wf_ite ht (xchgUnits_wf ht))
      · exact ht
    · exact ht
  · exact ht

theorem execExchangeRecordArrive_wf {x : XRecord} {s : State} (h : Memory.wf s = true) :
    NextWf (execExchangeRecordArrive x s) := .next (wf_ite (recordArrive_wf h) h)

theorem xrunFinish_wf {s : State} {base : BitVec 16} {residue : Bool} (h : Memory.wf s = true) :
    Memory.wf (xrunFinish s base residue) = true := by
  unfold xrunFinish
  extract_lets me gr c2
  split
  · extract_lets ws t left
    split
    · exact State.later_wf (modRound_wf (engWrite_wf h))
    · exact h
  · exact h

theorem xrunCheck_wf {s : State} {base : BitVec 16} (h : Memory.wf s = true) :
    Memory.wf (xrunCheck s base) = true := by
  unfold xrunCheck
  split
  · exact wf_ite (xrunFinish_wf h) h
  · exact h

theorem dropXchg_wf {s : State} {h : Fin 128} (hs : Memory.wf s = true) :
    Memory.wf (dropXchg s h) = true := wf_same hs rfl

theorem execXrun_wf {c : EngCmd} {s : State} (h : Memory.wf s = true) :
    NextWf (execXrun c s) := by
  unfold execXrun
  extract_lets u round t
  have hu : Memory.wf u = true := dropXchg_wf h
  have ht : Memory.wf t = true := modRound_wf hu
  split
  · exact .next (completeAt_wf hu)
  · split
    · exact .next (xrunFinish_wf (readLists_wf ht))
    · exact .next (wf_ite (xrunCheck_wf (readLists_wf ht)) ht)
    · exact .next ht

theorem xchgIllegal_wf {s : State} {c : EngCmd} (h : Memory.wf s = true) :
    NextWf (xchgIllegal s c) := .next (completeAt_wf (dropXchg_wf h))

theorem calendarActs_wf {s : State} {c : Calendar} (h : Memory.wf s = true) :
    Memory.wf (calendarActs s c) = true := by
  unfold calendarActs
  extract_lets s1
  have hs1 : Memory.wf s1 = true := foldl_wf (fun _ _ ht => State.at_wf ht) _ h
  exact wf_ite (State.at_wf hs1) (State.at_wf hs1)

theorem setPerms_wf {s : State} {ps : List PlanePerm} (h : Memory.wf s = true) :
    Memory.wf (setPerms s ps) = true := by
  unfold setPerms
  exact State.withFab_wf h

theorem execCalendarArrive_wf {c : Calendar} {s : State} (h : Memory.wf s = true) :
    NextWf (execCalendarArrive c s) := by
  unfold execCalendarArrive
  extract_lets r bad t t1 t2 t3 t4
  have ht : Memory.wf t = true := wf_ite (roundRecord_wf h) h
  have ht1 : Memory.wf t1 = true := fillPosts_wf ht
  have ht2 : Memory.wf t2 = true := wf_ite (fillPosts_wf ht1) ht1
  have ht3 : Memory.wf t3 = true := modRound_wf ht2
  have ht4 : Memory.wf t4 = true := calendarActs_wf ht3
  exact .ite (.next h) (.next (xrunCheck_wf (capacityCheck_wf ht4)))

theorem execExchangePhaseStart_wf {round : BitVec 16} {phase : Nat} {s : State} (h : Memory.wf s = true) :
    NextWf (execExchangePhaseStart round phase s) := by
  unfold execExchangePhaseStart
  extract_lets t
  have ht : Memory.wf t = true := wf_ite (readListsOf_wf h) h
  split
  · exact .next (xrunCheck_wf (foldl_wf (fun _ _ ht1 => sendPhase_wf ht1) _ ht))
  · exact .next ht

theorem moveRecords_wf {s : State} {base : BitVec 16} {cal : Calendar} {d : Nat} (h : Memory.wf s = true) :
    Memory.wf (moveRecords s base cal d) = true := by
  unfold moveRecords
  extract_lets g
  split
  · extract_lets hi
    split
    · refine foldl_wf (fun s k ht => ?_) _ h
      extract_lets s1
      have hs1 : Memory.wf s1 = true := xchgUnits_wf ht
      split
      · exact noteFault_wf hs1
      · exact wf_ite hs1 (modRound_wf hs1)
    · exact h
  · exact h

theorem execSecondRoundPost_wf {round : BitVec 16} {s : State} (h : Memory.wf s = true) :
    NextWf (execSecondRoundPost round s) := by
  unfold execSecondRoundPost
  dsimp only
  split
  · refine .next ?_
    exact State.at_wf (State.at_wf (modRound_wf (foldl_wf (fun _ _ ht => moveRecords_wf ht) _ (readListsOf_wf h))))
  · exact .next (readListsOf_wf h)

theorem execCapacityPostTimeout_wf {round : BitVec 16} {s : State} (h : Memory.wf s = true) :
    NextWf (execCapacityPostTimeout round s) := by
  unfold execCapacityPostTimeout
  extract_lets base t
  have ht : Memory.wf t = true := capacityCheck_wf h
  split
  · exact .next (fillPosts_wf (modRound_wf ht))
  · exact .next ht

theorem execCalendarTimeout_wf {round : BitVec 16} {s : State} (h : Memory.wf s = true) :
    NextWf (execCalendarTimeout round s) := by
  unfold execCalendarTimeout
  extract_lets base t t1
  have ht : Memory.wf t = true := roundRecord_wf h
  have ht1 : Memory.wf t1 = true := modRound_wf ht
  split
  · exact .ite (.next h) (.next (xrunFinish_wf (readListsOf_wf (fillPosts_wf (modRound_wf (fillPosts_wf ht1))))))
  · exact .next h

/-! ## The operations of Machine/Paths -/

theorem modLink_wf {s : State} {l : Nat} {f : Link → Link} (h : Memory.wf s = true) :
    Memory.wf (modLink s l f) = true := wf_same h rfl

theorem modAlign_wf {s : State} {a : AgentId} {port : Nat} {f : Align → Align} (h : Memory.wf s = true) :
    Memory.wf (modAlign s a port f) = true := wf_same h rfl

theorem sendConfig_wf {s : State} {f : Nat} {d : BitVec 512} (h : Memory.wf s = true) :
    Memory.wf (sendConfig s f d) = true := wf_same h rfl

theorem stageRecords_wf {s : State} {recs : List CfgRec} {least : Nat} (h : Memory.wf s = true) :
    Memory.wf (stageRecords s recs least).1 = true := by
  unfold stageRecords
  extract_lets n f w t
  have ht : Memory.wf t = true := foldl_wf (fun _ _ ht => sendConfig_wf ht) _ h
  exact wf_same ht rfl

theorem nameWheel_wf {s : State} {n : Nat} (h : Memory.wf s = true) :
    Memory.wf (nameWheel s n).1 = true := wf_same h rfl

theorem refreshHolds_wf {s : State} (h : Memory.wf s = true) :
    Memory.wf (refreshHolds s) = true := by
  unfold refreshHolds
  dsimp only
  exact wf_same h rfl

theorem dropSend_wf {s : State} {e : EpId} (h : Memory.wf s = true) :
    Memory.wf (dropSend s e) = true := by
  unfold dropSend
  split
  · exact State.modSend_wf h
  · exact wf_same h rfl

theorem dropRecv_wf {s : State} {e : EpId} (h : Memory.wf s = true) :
    Memory.wf (dropRecv s e) = true := by
  unfold dropRecv
  dsimp only
  split
  · refine wf_ite (State.at_wf (wf_ite (State.withCore_wf (State.modRecv_wf h)) (State.modRecv_wf h))) ?_
    exact wf_ite (State.withCore_wf (State.modRecv_wf h)) (State.modRecv_wf h)
  · exact wf_same h rfl

theorem layNow_wf {s : State} {cs : List Claim} (h : Memory.wf s = true) :
    Memory.wf (layNow s cs) = true := foldl_wf (fun _ _ ht => tableSet_wf ht) _ h

theorem clearNow_wf {s : State} {cs : List Claim} (h : Memory.wf s = true) :
    Memory.wf (clearNow s cs) = true := foldl_wf (fun _ _ ht => tableSet_wf ht) _ h

theorem breakCircuit_wf {s : State} {c : Circuit} {reason : Nat} (h : Memory.wf s = true) :
    Memory.wf (breakCircuit s c reason) = true := by
  unfold breakCircuit
  dsimp only
  refine wf_ite ?_ (State.withFab_wf (foldl_wf (fun _ _ ht => dropRecv_wf ht) _ (dropSend_wf (clearNow_wf (wf_ite h (fabricRecord_wf h))))))
  split
  · exact State.modSend_wf (layNow_wf (State.withFab_wf (State.withFab_wf
      (foldl_wf (fun _ _ ht => dropRecv_wf ht) _ (dropSend_wf (clearNow_wf (wf_ite h (fabricRecord_wf h))))))))
  · exact layNow_wf (State.withFab_wf (State.withFab_wf (foldl_wf (fun _ _ ht => dropRecv_wf ht) _
      (dropSend_wf (clearNow_wf (wf_ite h (fabricRecord_wf h)))))))

theorem breakSoon_wf {s : State} {c : Circuit} {reason : Nat} (h : Memory.wf s = true) :
    Memory.wf (breakSoon s c reason) = true := wf_same h rfl

theorem tableError_wf {s : State} {e : TEntry} (h : Memory.wf s = true) :
    Memory.wf (tableError s e) = true := by
  unfold tableError
  extract_lets s1 copy r
  have hs1 : Memory.wf s1 = true := fabricRecord_wf h
  have hr : Memory.wf r.1 = true := stageRecords_wf hs1
  split
  · exact State.at_wf hr
  · exact hr

/-! ## The operations of Machine/Badger -/

theorem answerHandle_wf {s : State} {r : CircReq} {status : Nat} (h : Memory.wf s = true) :
    Memory.wf (answerHandle s r status) = true := by
  unfold answerHandle
  split
  · exact State.later_wf h
  · exact h

theorem writeAnswer_wf {s : State} {r : CircReq} {ws : List Word} (h : Memory.wf s = true) :
    Memory.wf (writeAnswer s r ws) = true := putWords_wf h _ _

theorem answerGranted_wf {s : State} {r : CircReq} {w : Nat} {slots : List Nat} (h : Memory.wf s = true) :
    Memory.wf (answerGranted s r w slots) = true := answerHandle_wf (writeAnswer_wf h)

theorem answerRefused_wf {s : State} {r : CircReq} {rev : Bool} {why : Option Refused} (h : Memory.wf s = true) :
    Memory.wf (answerRefused s r rev why) = true := answerHandle_wf (writeAnswer_wf (wf_same h rfl))

theorem answerBusy_wf {s : State} {r : CircReq} (h : Memory.wf s = true) :
    Memory.wf (answerBusy s r) = true := by
  unfold answerBusy
  extract_lets s1
  have hs1 : Memory.wf s1 = true := wf_ite h (writeAnswer_wf h)
  split
  · exact completeAt_wf hs1
  · exact hs1

theorem openSender_wf {s : State} {src : EpId} {n : Nat} (h : Memory.wf s = true) :
    Memory.wf (openSender s src n) = true := wf_ite (wf_same h rfl) h

theorem openChannel_wf {s : State} {d : EpId} (h : Memory.wf s = true) :
    Memory.wf (openChannel s d) = true := wf_ite (wf_same h rfl) h

theorem openEnds_wf {s : State} {src : EpId} {dsts : List EpId} (h : Memory.wf s = true) :
    Memory.wf (openEnds s src dsts) = true := by
  unfold openEnds
  dsimp only
  refine refreshHolds_wf ?_
  refine foldl_wf (fun s d ht => ?_) _ ?_
  · split
    · exact State.modRecv_wf ht
    · exact openChannel_wf ht
  · split
    · exact State.modSend_wf h
    · exact openSender_wf h

theorem openCircuit_wf {s : State} {r : CircReq} (h : Memory.wf s = true) :
    Memory.wf (openCircuit s r) = true := by
  unfold openCircuit
  extract_lets src n qid taken
  refine wf_ite (answerRefused_wf h) ?_
  split
  · exact answerRefused_wf h
  · extract_lets now
    split
    · exact answerRefused_wf h
    · exact answerGranted_wf (openEnds_wf (State.withFab_wf (stageRecords_wf h)))

theorem widenCircuit_wf {s : State} {r : CircReq} (h : Memory.wf s = true) :
    Memory.wf (widenCircuit s r) = true := by
  unfold widenCircuit
  extract_lets src n
  split
  · exact answerRefused_wf h
  · extract_lets dsts
    refine wf_ite (answerRefused_wf h) ?_
    split
    · exact answerRefused_wf h
    · exact answerGranted_wf (State.withFab_wf (stageRecords_wf h))

theorem removeEntries_wf {s : State} {src : EpId} {cs : List Claim} (h : Memory.wf s = true) :
    Memory.wf (removeEntries s src cs).1 = true := stageRecords_wf (stageRecords_wf h)

theorem narrowCircuit_wf {s : State} {r : CircReq} (h : Memory.wf s = true) :
    Memory.wf (narrowCircuit s r) = true := by
  unfold narrowCircuit
  extract_lets src n
  split
  · exact answerRefused_wf h
  · exact wf_ite (answerRefused_wf h) (answerGranted_wf (State.withFab_wf (removeEntries_wf h)))

theorem answerRelease_wf {s : State} {r : CircReq} {w : Nat} (h : Memory.wf s = true) :
    Memory.wf (answerRelease s r w) = true := by
  unfold answerRelease
  split
  · exact completeAt_wf h
  · exact h

theorem releaseCircuit_wf {s : State} {r : CircReq} (h : Memory.wf s = true) :
    Memory.wf (releaseCircuit s r) = true := by
  unfold releaseCircuit
  extract_lets src
  split
  · exact wf_ite (answerHandle_wf h) (answerRefused_wf h)
  · extract_lets t u
    have ht : Memory.wf t.1 = true := removeEntries_wf h
    have hu : Memory.wf u = true := wf_same ht rfl
    exact wf_ite (answerRelease_wf hu) (answerGranted_wf hu)

theorem takeRequest_wf {s : State} {r : CircReq} (h : Memory.wf s = true) :
    Memory.wf (takeRequest s r) = true := wf_same h rfl

theorem execCircOpen_wf {r : CircReq} {s : State} (h : Memory.wf s = true) :
    NextWf (execCircOpen r s) := .next (openCircuit_wf (takeRequest_wf h))

theorem execCircWiden_wf {r : CircReq} {s : State} (h : Memory.wf s = true) :
    NextWf (execCircWiden r s) := .next (widenCircuit_wf (takeRequest_wf h))

theorem execCircNarrow_wf {r : CircReq} {s : State} (h : Memory.wf s = true) :
    NextWf (execCircNarrow r s) := .next (narrowCircuit_wf (takeRequest_wf h))

theorem execCircRelease_wf {r : CircReq} {s : State} (h : Memory.wf s = true) :
    NextWf (execCircRelease r s) := .next (releaseCircuit_wf (takeRequest_wf h))

theorem planSearches_wf {s : State} (h : Memory.wf s = true) :
    Memory.wf (planSearches s) = true := foldl_wf (fun _ _ ht => State.at_wf ht) _ (wf_same h rfl)

theorem execBadgerRequestArrive_wf {r : CircReq} {s : State} (h : Memory.wf s = true) :
    NextWf (execBadgerRequestArrive r s) := .ite (.next (answerBusy_wf h)) (.next (planSearches_wf (wf_same h rfl)))

theorem execSendBufferEmpty_wf {ep : Fin 32} {r : CircReq} {s : State} (h : Memory.wf s = true) :
    NextWf (execSendBufferEmpty ep r s) := .ite (.next (State.later_wf h)) (.next (State.at_wf h))

/-! ## The operations of Machine/Fabric -/

theorem countFlit_wf {s : State} {a : AgentId} (h : Memory.wf s = true) :
    Memory.wf (countFlit s a) = true := by
  unfold countFlit
  split
  · exact countCe_wf h
  · exact countCe_wf h
  · exact h

theorem checkFlit_wf {s : State} {a : AgentId} {f : Flit} (h : Memory.wf s = true) :
    Memory.wf (checkFlit s a f).2 = true := by
  unfold checkFlit
  split
  · exact h
  · split
    · exact countFlit_wf h
    · exact h

theorem breakChannel_wf {s : State} {e : EpId} (h : Memory.wf s = true) :
    Memory.wf (breakChannel s e) = true := by
  unfold breakChannel
  dsimp only
  split
  · exact State.later_wf (fabricRecord_wf (wf_same h rfl))
  · exact fabricRecord_wf (wf_same h rfl)

theorem channelGap_wf {s : State} {e : BitVec 32} {got : Nat} (h : Memory.wf s = true) :
    Memory.wf (channelGap s e got) = true := wf_ite (breakChannel_wf h) h

theorem channelReceive_wf {s : State} {p : Nat} {f : Flit} (h : Memory.wf s = true) :
    Memory.wf (channelReceive s p f) = true := by
  unfold channelReceive
  dsimp only
  refine wf_ite (fabricRecord_wf h) ?_
  split
  · exact h
  · refine wf_ite h ?_
    refine wf_ite (breakChannel_wf h) ?_
    split
    · exact wf_ite (wf_same h rfl) (State.at_wf (wf_same h rfl))
    · exact wf_same h rfl

theorem placeFlit_wf {s : State} {a : AgentId} {port time : Nat} {f : Flit} (h : Memory.wf s = true) :
    Memory.wf (placeFlit s a port time f) = true := State.atOnce_wf (wf_same h rfl)

theorem dropAt_wf {s : State} {ni : AgentId} {f : Flit} (h : Memory.wf s = true) :
    Memory.wf (dropAt s ni f) = true := wf_ite h (fabricRecord_wf h)

theorem sendOn_wf {s : State} {a : AgentId} {out : Nat} {f : Flit} (h : Memory.wf s = true) :
    Memory.wf (sendOn s a out f) = true := by
  unfold sendOn
  refine wf_ite h ?_
  split
  · exact placeFlit_wf h
  · exact wf_ite (State.at_wf h) (dropAt_wf h)
  · exact channelReceive_wf h
  · exact wf_ite (dropAt_wf h) h
  · exact h

theorem switchFlit_wf {s : State} {q : InFlit} (h : Memory.wf s = true) :
    Memory.wf (switchFlit s q) = true := by
  unfold switchFlit
  dsimp only
  split
  · exact fabricRecord_wf (checkFlit_wf h)
  · exact foldl_wf (fun _ _ ht => sendOn_wf ht) _ (checkFlit_wf h)

theorem execSwitchSlot_wf {agent : AgentId} {s : State} (h : Memory.wf s = true) :
    NextWf (execSwitchSlot agent s) := .next (foldl_wf (fun _ _ ht => switchFlit_wf ht) _ (wf_same h rfl))

theorem execMgmtFlitRelay_wf {agent : AgentId} {port : Nat} {f : Flit} {s : State} (h : Memory.wf s = true) :
    NextWf (execMgmtFlitRelay agent port f s) := .next (placeFlit_wf h)

theorem armCommit_wf {s : State} {a : AgentId} {w : Nat} (h : Memory.wf s = true) :
    Memory.wf (armCommit s a w) = true := State.atOnce_wf (wf_same h rfl)

theorem stageRecord_wf {w : Nat} {s : State} {r : CfgRec} (h : Memory.wf s = true) :
    Memory.wf (stageRecord w s r) = true := armCommit_wf (tableSet_wf h)

theorem execConfigStageEntries_wf {w : Nat} {recs : List CfgRec} {s : State} (h : Memory.wf s = true) :
    NextWf (execConfigStageEntries w recs s) := .next (foldl_wf (fun _ _ ht => stageRecord_wf ht) _ h)

theorem execConfigStageDepth_wf {agent : AgentId} {port w : Nat} {sdepth : BitVec 7} {s : State} (h : Memory.wf s = true) :
    NextWf (execConfigStageDepth agent port w sdepth s) := .next (armCommit_wf (modAlign_wf h))

theorem openManaged_wf {s : State} (h : Memory.wf s = true) :
    Memory.wf (openManaged s) = true := foldl_wf (fun _ _ ht => wf_ite (State.modSend_wf ht) ht) _ h

theorem commitTables_wf {s : State} {a : AgentId} (h : Memory.wf s = true) :
    Memory.wf (commitTables s a) = true := wf_ite (openManaged_wf (wf_same h rfl)) (wf_same h rfl)

theorem realign_wf {s : State} {x : Align} (h : Memory.wf s = true) :
    Memory.wf (realign s x) = true := by
  unfold realign
  extract_lets l s1 s2 s3 s4
  have hs1 : Memory.wf s1 = true := modAlign_wf h
  have hs2 : Memory.wf s2 = true := modLink_wf hs1
  have hs3 : Memory.wf s3 = true := modLink_wf hs2
  have hs4 : Memory.wf s4 = true := wf_same hs3 rfl
  exact wf_ite hs2 (fabricRecord_wf (refreshHolds_wf hs4))

theorem execStagedCommit_wf {agent : AgentId} {s : State} (h : Memory.wf s = true) :
    NextWf (execStagedCommit agent s) := by
  unfold execStagedCommit
  extract_lets t
  have ht : Memory.wf t = true := commitTables_wf h
  split
  · exact .ite (.next (State.atOnce_wf h)) (.next (foldl_wf (fun _ _ ht1 => realign_wf ht1) _ ht))
  · exact .next h

theorem lostAccesses_wf {s : State} (h : Memory.wf s = true) :
    Memory.wf (lostAccesses s) = true := foldl_wf (fun _ _ ht => wf_ite (deferred_wf ht) ht) _ h

theorem lostRequests_wf {s : State} (h : Memory.wf s = true) :
    Memory.wf (lostRequests s) = true := by
  unfold lostRequests
  refine foldl_wf (fun s e ht => ?_) _ h
  extract_lets t
  have ht1 : Memory.wf t = true := wf_same ht rfl
  split
  · exact wf_ite (answerBusy_wf (dropActs_wf ht1)) ht1
  · exact ht

theorem execCircuitBreak_wf {src : BitVec 32} {reason : Nat} {s : State} (h : Memory.wf s = true) :
    NextWf (execCircuitBreak src reason s) := by
  unfold execCircuitBreak
  extract_lets t
  have ht : Memory.wf t = true := by
    unfold t
    split
    · exact breakCircuit_wf h
    · exact h
  exact .ite (.next (State.at_wf h)) (.next (wf_ite (lostAccesses_wf ht) (wf_ite (lostRequests_wf ht) ht)))

theorem sendReadback_wf {s : State} (h : Memory.wf s = true) :
    Memory.wf (sendReadback s) = true := by
  unfold sendReadback
  extract_lets f
  split
  · exact h
  · exact sendConfig_wf (wf_same h rfl)

theorem askReadback_wf {s : State} {a : AgentId} {port : Nat} (h : Memory.wf s = true) :
    Memory.wf (askReadback s a port) = true := wf_ite (sendReadback_wf (wf_same h rfl)) (wf_same h rfl)

theorem execConfigReadback_wf {agent : AgentId} {port : Nat} {s : State} (h : Memory.wf s = true) :
    NextWf (execConfigReadback agent port s) := .next (State.at_wf h)

theorem stageDepth_wf {s : State} {agent : AgentId} {port : Nat} {measd : BitVec 8} (h : Memory.wf s = true) :
    Memory.wf (stageDepth s agent port measd) = true := wf_same h rfl

theorem execConfigReply_wf {agent : AgentId} {port depth : Nat} {measd : BitVec 8} {s : State} (h : Memory.wf s = true) :
    NextWf (execConfigReply agent port depth measd s) :=
  .ite (.next (State.at_wf h)) (.next (sendReadback_wf (stageDepth_wf (wf_same h rfl))))

theorem configUp_wf {depth : Nat} {d : BitVec 512} {s : State} (h : Memory.wf s = true) :
    NextWf (configUp depth d s) := by
  unfold configUp
  extract_lets t
  have ht : Memory.wf t = true := wf_same h rfl
  refine .ite (.next (State.at_wf h)) ?_
  exact .next (sendReadback_wf (foldl_wf (fun _ _ ht1 => wf_ite (stageDepth_wf ht1) ht1) _ ht))

theorem agentTakes_wf {here : AgentId} {d : BitVec 512} {s : State} (h : Memory.wf s = true) :
    NextWf (agentTakes here d s) := by
  unfold agentTakes
  extract_lets mine
  clear_value mine
  split
  · exact .next h
  · refine .ite (execConfigStageEntries_wf h) ?_
    exact .ite (.next (State.at_wf h)) (.ite (execConfigStageDepth_wf h) (.next h))

theorem configFlit_wf {here : AgentId} {d : BitVec 512} {s : State} (h : Memory.wf s = true) :
    NextWf (configFlit here d s) := agentTakes_wf (foldl_wf (fun _ _ ht => State.at_wf ht) _ h)

theorem trainFrom_wf {s : State} {l : Fin 352} {w : Nat} {lost : Bool} (h : Memory.wf s = true) :
    Memory.wf (trainFrom s l w lost) = true := wf_same h rfl

theorem execLinkRetrainRequest_wf {l : Fin 352} {s : State} (h : Memory.wf s = true) :
    NextWf (execLinkRetrainRequest l s) := .ite (.next h) (.next (trainFrom_wf (refreshHolds_wf (State.withFab_wf (nameWheel_wf h)))))

theorem breakOver_wf {s : State} {l reason : Nat} (h : Memory.wf s = true) :
    Memory.wf (breakOver s l reason) = true := foldl_wf (fun _ _ ht => breakSoon_wf ht) _ h

theorem linkDown_wf {s : State} {l : Fin 352} {e : AgentId × Nat} (h : Memory.wf s = true) :
    Memory.wf (linkDown s l e) = true := State.at_wf (breakOver_wf (fabricRecord_wf (refreshHolds_wf (State.withFab_wf (modLink_wf h)))))

theorem execLinkTrained_wf {l : Fin 352} {d : LinkDelays} {s : State} (h : Memory.wf s = true) :
    NextWf (execLinkTrained l d s) := by
  unfold execLinkTrained
  extract_lets e ends ends1 t t1
  have ht : Memory.wf t = true := modAlign_wf (modAlign_wf h)
  have ht1 : Memory.wf t1 = true := dropActs_wf ht
  split
  · exact .ite (.next (foldl_wf (fun _ _ ht2 => askReadback_wf ht2) _ (modLink_wf ht1))) (.next (linkDown_wf ht1))
  · exact .next h

theorem execLinkTrainTimeout_wf {l : Fin 352} {s : State} (h : Memory.wf s = true) :
    NextWf (execLinkTrainTimeout l s) := by
  unfold execLinkTrainTimeout
  split
  · exact .next (wf_ite (linkDown_wf h) h)
  · exact .next h

theorem execLinkRetry_wf {l : Fin 352} {s : State} (h : Memory.wf s = true) :
    NextWf (execLinkRetry l s) := .next (wf_ite (trainFrom_wf h) h)

theorem loseFlits_wf {s : State} {l : Nat} (h : Memory.wf s = true) :
    Memory.wf (loseFlits s l) = true := wf_same h rfl

theorem loseReplies_wf {s : State} {l : Nat} (h : Memory.wf s = true) :
    Memory.wf (loseReplies s l) = true :=
  wf_ite (foldl_wf (fun _ _ ht => wf_ite (dropActs_wf (wf_same ht (by rfl))) (wf_same ht (by rfl))) _ h) h

theorem execLinkSignalLoss_wf {l : Fin 352} {s : State} (h : Memory.wf s = true) :
    NextWf (execLinkSignalLoss l s) := by
  unfold execLinkSignalLoss
  extract_lets t n t1 t2 t3
  have ht : Memory.wf t = true := dropActs_wf (loseReplies_wf (loseFlits_wf h))
  have hn : Memory.wf n.1 = true := nameWheel_wf ht
  have ht1 : Memory.wf t1 = true := breakOver_wf hn
  have ht2 : Memory.wf t2 = true := wf_ite (State.at_wf ht1) ht1
  have ht3 : Memory.wf t3 = true := wf_ite (State.at_wf ht2) ht2
  exact .ite (.next h) (.next (trainFrom_wf ht3))

theorem modPort_wf {s : State} {p : Fin 16} {f : Port → Port} (h : Memory.wf s = true) :
    Memory.wf (modPort s p f) = true := wf_same h rfl

theorem layExchange_wf {s : State} {p : Fin 16} (h : Memory.wf s = true) :
    Memory.wf (layExchange s p) = true := foldl_wf (fun _ _ ht => layNow_wf (wf_same ht (by rfl))) _ h

theorem breakExchange_wf {s : State} {p : Fin 16} (h : Memory.wf s = true) :
    Memory.wf (breakExchange s p) = true := foldl_wf (fun _ _ ht => breakSoon_wf ht) _ h

theorem loseLock_wf {s : State} {p : Fin 16} (h : Memory.wf s = true) :
    Memory.wf (loseLock s p) = true := breakExchange_wf (fabricRecord_wf (modPort_wf h))

theorem execPortLockLoss_wf {port : Fin 16} {s : State} (h : Memory.wf s = true) :
    NextWf (execPortLockLoss port s) := .next (wf_ite (loseLock_wf h) h)

theorem execTimeSyncExchange_wf {port : Fin 16} {sync request : Stamps} {s : State} (h : Memory.wf s = true) :
    NextWf (execTimeSyncExchange port sync request s) := by
  unfold execTimeSyncExchange
  extract_lets offset measd k was s1 t t1 t2 p t3
  have hs1 : Memory.wf s1 = true := modPort_wf h
  have ht : Memory.wf t = true := fabricRecord_wf hs1
  have ht1 : Memory.wf t1 = true := modPort_wf ht
  have ht2 : Memory.wf t2 = true := modPort_wf hs1
  have ht3 : Memory.wf t3 = true := State.at_wf ht2
  refine .ite (.next h) ?_
  refine .ite (.next (wf_ite (breakExchange_wf ht1) ht1)) ?_
  exact .next (wf_ite (loseLock_wf ht3) (wf_ite (layExchange_wf ht3) ht3))

theorem portArrive_wf {s : State} {port : Fin 16} {f : Flit} {w : Nat} (h : Memory.wf s = true) :
    Memory.wf (portArrive s port f w) = true := wf_ite (wf_ite (placeFlit_wf h) h) (wf_ite (placeFlit_wf h) h)

theorem execInterpkgFlitArrive_wf {port : Fin 16} {f : Flit} {w : Nat} {s : State} (h : Memory.wf s = true) :
    NextWf (execInterpkgFlitArrive port f w s) := .next (portArrive_wf h)

theorem execPlaneRelay_wf {plane : Fin 16} {pkg : Fin 64} {f : Flit} {w : Nat} {s : State} (h : Memory.wf s = true) :
    NextWf (execPlaneRelay plane pkg f w s) := .next (wf_ite (portArrive_wf h) h)

theorem execPlaneControlFlit_wf {_plane : Fin 16} {pkg : Fin 64} {perms : List PlanePerm} {s : State} (h : Memory.wf s = true) :
    NextWf (execPlaneControlFlit _plane pkg perms s) := .next (wf_ite h (setPerms_wf h))

/-! ## The operations of Machine/Sched -/

theorem modPart_wf {s : State} {p : Fin 16} {f : PartRun → PartRun} (h : Memory.wf s = true) :
    Memory.wf (modPart s p f) = true := wf_same h rfl

theorem planDispatch_wf {s : State} {p : Fin 16} {t : Nat} (h : Memory.wf s = true) :
    Memory.wf (planDispatch s p t) = true := foldl_wf (fun _ _ ht => State.atOnce_wf ht) _ h

theorem enqueued_wf {s : State} {q n : Nat} (h : Memory.wf s = true) :
    Memory.wf (enqueued s q n) = true := foldl_wf (fun _ _ ht => planDispatch_wf ht) _ (wf_same h rfl)

theorem hostEnqueue_wf {s : State} {q : BitVec 12} {tail : BitVec 32} (h : Memory.wf s = true) :
    Memory.wf (hostEnqueue s q tail) = true := by
  unfold hostEnqueue
  extract_lets n w old step s1 s2
  have hs1 : Memory.wf s1 = true := hubPut_wf h
  have hs2 : Memory.wf s2 = true := foldl_wf (fun _ _ ht => jayLog_wf ht) _ hs1
  exact wf_ite (wf_ite hs2 (enqueued_wf hs2)) h

theorem liveEnqueue_wf {s : State} {q : BitVec 12} {tail : BitVec 32} (h : Memory.wf s = true) :
    Memory.wf (liveEnqueue s q tail) = true := wf_ite h (hostEnqueue_wf h)

theorem discardVf_wf {s : State} {f : Fin 17} {pa : Nat} (h : Memory.wf s = true) :
    Memory.wf (discardVf s f pa) = true := wf_ite h (setFstat_wf (errRecord_wf h _ _ _ _ _ _ _ _) _ _)

theorem execEnqueue_wf {q : BitVec 12} {tail : BitVec 32} {f : Fin 17} {s : State} (h : Memory.wf s = true) :
    NextWf (execEnqueue q tail f s) := .ite (.next h) (.ite (.next (liveEnqueue_wf h)) (.next (discardVf_wf h)))

theorem execLaunchEnqueue_wf {h : Fin 128} {q : BitVec 12} {job : Vector Word 8} {s : State} (hs : Memory.wf s = true) :
    NextWf (execLaunchEnqueue h q job s) := by
  unfold execLaunchEnqueue
  extract_lets n s1 pa t t1 w t2
  have hs1 : Memory.wf s1 = true := startEntry_wf hs
  have ht : Memory.wf t = true := askLines_wf (wf_same hs1 rfl)
  have ht1 : Memory.wf t1 = true := putWords_wf ht _ _
  have ht2 : Memory.wf t2 = true := hubPut_wf ht1
  refine .ite (.next (State.at_wf hs)) ?_
  refine .ite (.next (completeAt_wf hs1)) ?_
  exact .ite (.next (completeAt_wf (enqueued_wf ht2))) (.next (completeAt_wf hs1))

theorem setHead_wf {s : State} {q n : Nat} (h : Memory.wf s = true) :
    Memory.wf (setHead s q n) = true := wf_same h rfl

theorem killedRecord_wf {s : State} {detail f p q index : Nat} (h : Memory.wf s = true) :
    Memory.wf (killedRecord s detail f p q index) = true := setFstat_wf (errRecord_wf h _ _ _ _ _ _ _ _) _ _

theorem setPass_wf {s : State} {f p n : Nat} (h : Memory.wf s = true) :
    Memory.wf (setPass s f p n) = true := wf_same h rfl

theorem joinProcs_wf {s : State} {part f : Nat} {ps : List Nat} (h : Memory.wf s = true) :
    Memory.wf (joinProcs s part f ps) = true := by
  unfold joinProcs
  extract_lets was old low s1
  have hs1 : Memory.wf s1 = true := foldl_wf (fun _ _ ht => setPass_wf ht) _ h
  exact wf_same hs1 rfl

theorem takeJob_wf {s : State} {p : Fin 16} {f : Fin 17} {c : Cand} (h : Memory.wf s = true) :
    Memory.wf (takeJob s p f c) = true := wf_same h rfl

theorem takeGang_wf {s : State} {p : Fin 16} {d : Nat} {q : BitVec 12} (h : Memory.wf s = true) :
    Memory.wf (takeGang s p d q) = true := wf_same h rfl

theorem startGang_wf {s : State} {p : Fin 16} {f : Fin 17} {d : Nat} {c : Cand} {cores : List Nat} (h : Memory.wf s = true) :
    Memory.wf (startGang s p f d c cores) = true := by
  unfold startGang
  extract_lets q s1 t g own s2 mine s3 s4
  have hs1 : Memory.wf s1 = true := takeGang_wf h
  have hs2 : Memory.wf s2 = true := State.withHub_wf (wf_same hs1 rfl)
  have hs3 : Memory.wf s3 = true := modPart_wf hs2
  have hs4 : Memory.wf s4 = true := wf_ite (State.later_wf hs3) hs3
  exact State.at_wf hs4

theorem advancePass_wf {s : State} {f : Nat} {c : Cand} (h : Memory.wf s = true) :
    Memory.wf (advancePass s f c) = true := wf_same h rfl

theorem refuseJob_wf {s : State} {p f : Nat} {c : Cand} (h : Memory.wf s = true) :
    Memory.wf (refuseJob s p f c) = true := killedRecord_wf (setHead_wf h)

theorem beginCkpt_wf {s : State} {f : Fin 17} (h : Memory.wf s = true) :
    Memory.wf (beginCkpt s f) = true := State.atOnce_wf (hubPut_wf h)

theorem fireJobs_wf {s : State} {p : Fin 16} {f : Fin 17} (h : Memory.wf s = true) :
    Memory.wf (fireJobs s p f) = true := by
  unfold fireJobs
  extract_lets cs bad good s1
  have hs1 : Memory.wf s1 = true := foldl_wf (fun _ _ ht => refuseJob_wf ht) _ h
  exact wf_ite h (wf_ite (beginCkpt_wf hs1) (foldl_wf (fun _ _ ht => takeJob_wf ht) _ hs1))

theorem noteTry_wf {s : State} {p : Fin 16} {c : Cand} (h : Memory.wf s = true) :
    Memory.wf (noteTry s p c) = true := by
  unfold noteTry
  extract_lets w old
  split
  · exact wf_ite h (modPart_wf h)
  · exact modPart_wf h

theorem dispatchDie_wf {s : State} {p : Fin 16} {f : Fin 17} {d : Nat} (h : Memory.wf s = true) :
    Memory.wf (dispatchDie s p f d) = true := by
  unfold dispatchDie
  extract_lets x cs s1 s2 s3 s4
  have hs1 : Memory.wf s1 = true := joinProcs_wf h
  have hs2 : Memory.wf s2 = true := by
    unfold s2
    split
    · exact wf_ite hs1 (noteTry_wf hs1)
    · exact hs1
  have hs3 : Memory.wf s3 = true := foldl_wf (fun _ _ ht => noteTry_wf ht) _ hs2
  have hs4 : Memory.wf s4 = true := wf_ite (State.at_wf hs3) hs3
  split
  · split
    · exact advancePass_wf (startGang_wf hs4)
    · exact hs4
  · exact hs4

theorem steal_wf {s : State} {p : Fin 16} {d : Nat} (h : Memory.wf s = true) :
    Memory.wf (steal s p d) = true := by
  unfold steal
  extract_lets idle
  refine wf_ite h ?_
  split <;> exact wf_same h rfl

theorem execDieSteal_wf {part : Fin 16} {die : Fin 8} {s : State} (h : Memory.wf s = true) :
    NextWf (execDieSteal part die s) := .next (steal_wf h)

theorem wipeTcm_wf {s : State} {c : Nat} (h : Memory.wf s = true) : Memory.wf (wipeTcm s c) = true := by
  obtain ⟨mem, tags, fe⟩ := (wf_iff s).mp h
  exact (wf_iff _).mpr ⟨cellsClear_wf mem _ _, cellsClear_wf tags _ _, cellsClear_wf fe _ _⟩

theorem wipeSpad_wf {s : State} {g : Nat} (h : Memory.wf s = true) : Memory.wf (wipeSpad s g) = true := by
  obtain ⟨mem, tags, fe⟩ := (wf_iff s).mp h
  exact (wf_iff _).mpr ⟨cellsClear_wf mem _ _, tags, fe⟩

theorem clearCoreOf_wf {s : State} {c : Nat} (h : Memory.wf s = true) :
    Memory.wf (clearCoreOf s c) = true := wf_ite (State.withCore_wf (wipeTcm_wf h)) (wipeTcm_wf h)

theorem clearClusterOf_wf {s : State} {g : Nat} (h : Memory.wf s = true) :
    Memory.wf (clearClusterOf s g) = true := wf_ite (State.withCore_wf (State.withClu_wf (wipeSpad_wf h))) (wipeSpad_wf h)

theorem useCore_wf {s : State} {f : Fin 17} {c : Nat} (h : Memory.wf s = true) :
    Memory.wf (useCore s f c) = true := wf_ite (wf_same h rfl) (wf_same h rfl)

theorem useCluster_wf {s : State} {f : Fin 17} {g : Nat} (h : Memory.wf s = true) :
    Memory.wf (useCluster s f g) = true := wf_same h rfl

theorem passTo_wf {s : State} {f : Fin 17} {cores clusters : List Nat} (h : Memory.wf s = true) :
    Memory.wf (passTo s f cores clusters) = true := by
  unfold passTo
  extract_lets s1
  have hs1 : Memory.wf s1 = true := foldl_wf (fun _ _ ht => useCore_wf (wf_ite ht (clearCoreOf_wf ht))) _ h
  exact foldl_wf (fun _ _ ht => useCluster_wf (wf_ite ht (clearClusterOf_wf ht))) _ hs1

theorem putImage_wf {s : State} {f : Fin 17} {i : Image} (h : Memory.wf s = true) : Memory.wf (putImage s f i) = true := by
  obtain ⟨mem, tags, fe⟩ := (wf_iff _).mp (passTo_wf (f := f) (cores := i.cores) (clusters := i.clusters) h)
  exact (wf_iff _).mpr ⟨cellsPut_wf (filter_wf _ mem) _, cellsPut_wf (filter_wf _ tags) _, cellsPut_wf (filter_wf _ fe) _⟩

theorem restoreImage_wf {s : State} {p : Fin 16} {f : Fin 17} (h : Memory.wf s = true) :
    Memory.wf (restoreImage s p f) = true := by
  unfold restoreImage
  extract_lets gs s1 s2
  have hs1 : Memory.wf s1 = true := wf_same h rfl
  have hs2 : Memory.wf s2 = true := wf_ite (wf_same hs1 rfl) hs1
  refine wf_ite h ?_
  split
  · exact putImage_wf hs2
  · exact hs2

theorem resumeSaved_wf {s : State} {p : Fin 16} {f : Fin 17} (h : Memory.wf s = true) :
    Memory.wf (resumeSaved s p f) = true := by
  unfold resumeSaved
  refine foldl_wf (fun s q ht => ?_) _ h
  exact wf_ite ht (State.withHub_wf (foldl_wf (fun _ _ ht1 => hubPut_wf ht1) _ (setHead_wf ht)))

theorem beginSlice_wf {s : State} {p : Fin 16} {f : Fin 17} (h : Memory.wf s = true) :
    Memory.wf (beginSlice s p f) = true := by
  unfold beginSlice
  dsimp only
  exact State.at_wf (wf_ite (State.at_wf (restoreImage_wf (resumeSaved_wf (modPart_wf h))))
      (restoreImage_wf (resumeSaved_wf (modPart_wf h))))

theorem saveRanges_wf {s : State} {p : Fin 16} {f : Fin 17} (h : Memory.wf s = true) :
    Memory.wf (saveRanges s p f) = true := by
  unfold saveRanges
  extract_lets mine qs s1
  have hs1 : Memory.wf s1 = true := foldl_wf (fun _ _ ht => foldl_wf (fun _ _ ht1 => hubPut_wf ht1) _ (setHead_wf ht)) _ h
  exact wf_same hs1 rfl

theorem endSlice_wf {s : State} {p : Fin 16} {f : Fin 17} (h : Memory.wf s = true) :
    Memory.wf (endSlice s p f) = true := wf_ite (modPart_wf (saveRanges_wf h)) (State.at_wf (modPart_wf (saveRanges_wf h)))

theorem afterDrain_wf {s : State} {p : Fin 16} {f : Fin 17} (h : Memory.wf s = true) :
    Memory.wf (afterDrain s p f) = true := by
  unfold afterDrain
  refine wf_ite ?_ h
  split
  · exact beginSlice_wf h
  · exact modPart_wf h

theorem execSliceEnd_wf {part : Fin 16} {s : State} (h : Memory.wf s = true) :
    NextWf (execSliceEnd part s) := by
  unfold execSliceEnd
  extract_lets x
  split
  · refine .ite (.next (State.at_wf h)) ?_
    exact .ite (.next (State.atOnce_wf h)) (.next (planDispatch_wf (endSlice_wf h)))
  · exact .next h

theorem partWheel_wf {s : State} {p : Fin 16} (h : Memory.wf s = true) :
    Memory.wf (partWheel s p) = true := by
  unfold partWheel
  extract_lets x fs s1 s2
  have hs1 : Memory.wf s1 = true := by
    unfold s1
    split
    · split
      · exact beginSlice_wf h
      · exact h
    · split
      · exact afterDrain_wf h
      · exact wf_ite (afterDrain_wf (endSlice_wf h)) h
  have hs2 : Memory.wf s2 = true := by
    unfold s2
    split
    · exact fireJobs_wf hs1
    · exact hs1
  exact foldl_wf (fun _ _ ht => steal_wf ht) _ hs2

theorem execDispatchGang_wf {part : Fin 16} {die : Fin 8} {s : State} (h : Memory.wf s = true) :
    NextWf (execDispatchGang part die s) := by
  unfold execDispatchGang
  extract_lets low s1 x s2
  have hs1 : Memory.wf s1 = true := wf_ite (partWheel_wf h) h
  have hs2 : Memory.wf s2 = true := by
    unfold s2
    split
    · exact wf_ite (wf_ite (modPart_wf hs1) hs1) (dispatchDie_wf (wf_ite (modPart_wf hs1) hs1))
    · exact hs1
  exact .ite (.next h) (.next (wf_ite (State.atOnce_wf hs2) hs2))

theorem execGangPinned_wf {part : Fin 16} {s : State} (h : Memory.wf s = true) :
    NextWf (execGangPinned part s) := by
  unfold execGangPinned
  extract_lets x
  split
  · exact .next (modPart_wf h)
  · exact .next h

/-! ## The operations of Machine/Cells -/

theorem copyImage_wf {s : State} {g : Gang} {src dst n : Nat} {tcm : Bool} (h : Memory.wf s = true) :
    Memory.wf (copyImage s g src dst n tcm) = true := by
  unfold copyImage
  refine foldl_wf (fun s i ht => ?_) _ h
  split
  · exact wf_ite (depositWord_wf ht _ _ _) (putWord_wf ht _ _)
  · exact ht

theorem launchUnits_wf {s : State} {g : Gang} (h : Memory.wf s = true) :
    Memory.wf (launchUnits s g) = true := askLines_wf (wf_same h rfl)

theorem launchImages_wf {s : State} {g : Gang} (h : Memory.wf s = true) :
    Memory.wf (launchImages s g) = true := by
  unfold launchImages
  refine wf_ite h ?_
  split
  · exact foldl_wf (fun _ _ ht => copyImage_wf ht) _ (foldl_wf (fun _ _ ht => copyImage_wf ht) _ h)
  · exact h

theorem launchOn_wf {s : State} {g : Gang} (h : Memory.wf s = true) :
    Memory.wf (launchOn s g) = true := launchImages_wf (launchUnits_wf (passTo_wf h))

theorem setupCell_wf {s : State} {g : Gang} {cell : Nat} (h : Memory.wf s = true) :
    Memory.wf (setupCell s g cell) = true := by
  unfold setupCell
  dsimp only
  exact State.withClu_wf (State.withCore_wf (launchOn_wf h))

theorem execGangStart_wf {g : Gang} {s : State} (h : Memory.wf s = true) :
    NextWf (execGangStart g s) := by
  unfold execGangStart
  split
  · exact .next (wf_ite h (noteCellEnd_wf (beginAcquire_wf (setupCell_wf h))))
  · exact .next (launchOn_wf h)

theorem closeCred_wf {s : State} (h : Memory.wf s = true) :
    Memory.wf (closeCred s) = true := State.modCopy_wf (foldl_wf (fun _ _ ht => wf_ite ht (State.at_wf ht)) _ h)

theorem closeRecv_wf {s : State} {e : Fin 64} (h : Memory.wf s = true) :
    Memory.wf (closeRecv s e) = true := wf_ite (closeCred_wf h) (wf_ite (State.modRecv_wf h) (State.atOnce_wf (State.modRecv_wf h)))

theorem endHandles_wf {s : State} (h : Memory.wf s = true) :
    Memory.wf (endHandles s) = true := by
  unfold endHandles
  extract_lets s1
  have hs1 : Memory.wf s1 = true := foldl_wf (fun _ _ ht => withdraw_wf ht) _ h
  exact State.withCore_wf hs1

theorem jobComplete_wf {s : State} {j : JobRun} (h : Memory.wf s = true) :
    Memory.wf (jobComplete s j) = true := by
  unfold jobComplete
  extract_lets t t1
  have ht : Memory.wf t = true := wf_same h rfl
  have ht1 : Memory.wf t1 = true := wf_ite (killedRecord_wf ht) ht
  split
  · exact wf_ite ht1 (fenceAdd_wf ht1)
  · exact ht1

theorem execJobRelease_wf {q : BitVec 12} {index bound : Nat} {wrote : Bool} {s : State} (h : Memory.wf s = true) :
    NextWf (execJobRelease q index bound wrote s) := by
  unfold execJobRelease
  extract_lets t
  have ht : Memory.wf t = true := writeThroughAll_wf h
  split
  · exact .next h
  · refine .ite (.ite (.next (retry_wf h)) (.ite (.next (retry_wf (needCopyFor_wf h))) (.next (jobComplete_wf h)))) ?_
    exact .ite (.next (retry_wf h)) (.next (retry_wf ht))

theorem jobGangEnd_wf {s : State} {q : BitVec 12} {index : Nat} {killed here : Bool} (h : Memory.wf s = true) :
    Memory.wf (jobGangEnd s q index killed here) = true := by
  unfold jobGangEnd
  split
  · exact h
  · exact wf_ite (wf_same h rfl) (wf_ite (State.at_wf (wf_same h rfl)) (jobComplete_wf (wf_same h rfl)))

theorem gangPartEnd_wf {s : State} {m : GangRun → Bool} {f : GangRun → GangRun} {killed : Bool} (h : Memory.wf s = true) :
    Memory.wf (gangPartEnd s m f killed) = true := by
  unfold gangPartEnd
  split
  · exact h
  · exact wf_ite (wf_same h rfl) (planDispatch_wf (jobGangEnd_wf (wf_same h rfl)))

theorem replaySpill_wf {s : State} (h : Memory.wf s = true) :
    Memory.wf (replaySpill s) = true := by
  unfold replaySpill
  split
  · exact foldl_wf (fun _ _ ht => receiveAt_wf ht) _ (wf_same h rfl)
  · exact h

theorem endCell_wf {s : State} {killed : Bool} (h : Memory.wf s = true) :
    Memory.wf (endCell s killed) = true := by
  unfold endCell
  extract_lets s1 s2 s3 s4
  have hs1 : Memory.wf s1 = true := replaySpill_wf h
  have hs2 : Memory.wf s2 = true := foldl_wf (fun _ _ ht => dropWaits_wf ht) _ hs1
  have hs3 : Memory.wf s3 = true := endHandles_wf (foldl_wf (fun _ _ ht => closeRecv_wf ht) _ hs2)
  have hs4 : Memory.wf s4 = true := State.withCore_wf hs3
  exact gangPartEnd_wf hs4

theorem execCellEnd_wf {s : State} (h : Memory.wf s = true) :
    NextWf (execCellEnd s) := .next (wf_ite (endCell_wf h) h)

theorem othersEnd_wf {s : State} {q : BitVec 12} {index gang : Nat} (h : Memory.wf s = true) :
    Memory.wf (othersEnd s q index gang) = true := gangPartEnd_wf h

theorem killGang_wf {s : State} (h : Memory.wf s = true) :
    Memory.wf (killGang s) = true := by
  unfold killGang
  split
  · exact State.later_wf (wf_same h rfl)
  · exact h

theorem execKilledGangEnd_wf {s : State} (h : Memory.wf s = true) :
    NextWf (execKilledGangEnd s) := by
  unfold execKilledGangEnd
  extract_lets t t1
  have ht : Memory.wf t = true := foldl_wf (fun _ _ ht => wf_ite ht (haltStrand_wf ht)) _ h
  have ht1 : Memory.wf t1 = true := State.withHub_wf ht
  split
  · exact .ite (.next h) (.next (endCell_wf (dropActs_wf ht1)))
  · exact .next h

theorem killOthers_wf {s : State} {g : GangRun} (h : Memory.wf s = true) :
    Memory.wf (killOthers s g) = true := gangPartEnd_wf h

theorem killStrand_wf {s : State} {gs : Nat} (h : Memory.wf s = true) :
    Memory.wf (killStrand s gs) = true := by
  unfold killStrand
  split
  · exact wf_ite (killGang_wf h) (killOthers_wf h)
  · exact h

theorem execGkill_wf {v : Word} {s : State} (h : Memory.wf s = true) :
    NextWf (execGkill v s) := .next (wf_ite (killStrand_wf h) h)

theorem execDctlResume_wf {k : Fin 16} {s : State} (h : Memory.wf s = true) :
    NextWf (execDctlResume k s) := by
  unfold execDctlResume
  extract_lets free
  refine .ite (.next h) ?_
  split
  · exact .next (State.setRun_wf (State.modStrand_wf h))
  · exact .next (State.setRun_wf h)

theorem execDctlHalt_wf {k : Fin 16} {s : State} (h : Memory.wf s = true) :
    NextWf (execDctlHalt k s) := .next (wf_ite (haltStrand_wf h) h)

theorem execDctlKill_wf {k : Fin 16} {s : State} (h : Memory.wf s = true) :
    NextWf (execDctlKill k s) := .next (wf_ite (killGang_wf h) h)

theorem dropPacket_wf {s : State} (h : Memory.wf s = true) :
    Memory.wf (dropPacket s) = true := wf_ite (wf_same h rfl) (State.atOnce_wf (wf_same h rfl))

theorem depositPacket_wf {s : State} {p : Packet} (h : Memory.wf s = true) :
    Memory.wf (depositPacket s p) = true := by
  unfold depositPacket
  extract_lets base n w0 slot t t1
  have ht : Memory.wf t = true := foldl_wf (fun _ _ ht => depositOwn_wf ht) _ h
  have ht1 : Memory.wf t1 = true := depositOwn_wf ht
  exact State.withClu_wf ht1

theorem execFaultPacketDeposit_wf {s : State} (h : Memory.wf s = true) :
    NextWf (execFaultPacketDeposit s) := by
  unfold execFaultPacketDeposit
  extract_lets b buddy slots
  have hbuddy : Memory.wf buddy = true := wf_same h rfl
  split
  · exact .next h
  · extract_lets b1 buddy1
    refine .ite (.next (dropPacket_wf (escalate_wf h))) ?_
    refine .ite (.next (dropPacket_wf (wf_ite (escalate_wf hbuddy) hbuddy))) ?_
    refine .ite (.next (dropPacket_wf (escalate_wf h))) ?_
    exact .ite (.next (State.atOnce_wf h)) (.next (dropPacket_wf (depositPacket_wf h)))

theorem execGangStall_wf {s : State} (h : Memory.wf s = true) :
    NextWf (execGangStall s) := by
  unfold execGangStall
  dsimp only
  split
  · refine .ite (.next h) ?_
    refine .ite (.next (wf_same h rfl)) ?_
    refine .next ?_
    refine foldl_wf (fun t k ht => ?_) _ (wf_ite (sendPacket_wf h _) h)
    split
    · exact fabricRecord_wf ht
    · exact ht
  · exact .next h

/-! ## The operations of Machine/Recovery -/

theorem saveFailed_wf {s : State} {p f bit : Nat} {e : SaveFault} (h : Memory.wf s = true) :
    Memory.wf (saveFailed s p f bit e) = true := wf_same h rfl

theorem clearDenHeld_wf {s : State} {p : Nat} (h : Memory.wf s = true) :
    Memory.wf (clearDenHeld s p) = true := wf_same h rfl

theorem execForcedSwap_wf {part : Fin 16} {s : State} (h : Memory.wf s = true) :
    NextWf (execForcedSwap part s) := by
  unfold execForcedSwap
  extract_lets x
  split
  · extract_lets gs
    refine .ite (.next h) ?_
    refine .ite (.next (State.atOnce_wf h)) ?_
    refine .ite (.next h) ?_
    split
    · exact .next (State.at_wf (recoveryRecord_wf (saveFailed_wf h)))
    · exact .next (State.at_wf h)
  · exact .next h

theorem cancelTile_wf {s : State} (h : Memory.wf s = true) :
    Memory.wf (cancelTile s) = true := by
  unfold cancelTile
  extract_lets cs s1 s2
  have hs1 : Memory.wf s1 = true := dropActs_wf h
  have hs2 : Memory.wf s2 = true := foldl_wf (fun _ _ ht => completeAt_wf ht) _ hs1
  exact State.withCore_wf hs2

theorem stopOwn_wf {s : State} {big : Bool} (h : Memory.wf s = true) :
    Memory.wf (stopOwn s big) = true := wf_ite (cancelTile_wf (wf_same h rfl)) (wf_same h rfl)

theorem saveContext_wf {s : State} {p : Fin 16} {f : Fin 17} {gs : List GangRun} (h : Memory.wf s = true) :
    Memory.wf (saveContext s p f gs) = true := by
  unfold saveContext
  dsimp only
  exact planDispatch_wf (State.later_wf (wf_ite (State.withClu_wf (State.withCore_wf (dropActs_wf (State.withHub_wf h))))
      (dropActs_wf (State.withHub_wf h))))

theorem execSwapStop_wf {part : Fin 16} {s : State} (h : Memory.wf s = true) :
    NextWf (execSwapStop part s) := by
  unfold execSwapStop
  split
  · exact .next h
  · extract_lets gs own
    refine .ite (.next h) ?_
    exact .ite (.next (State.at_wf (stopOwn_wf h))) (.ite (.next (State.at_wf h)) (.next (saveContext_wf h)))

theorem setWritten_wf {s : State} {d : DenCtx} (h : Memory.wf s = true) :
    Memory.wf (setWritten s d) = true := wf_same h rfl

theorem askSave_wf {s : State} {d : DenCtx} (h : Memory.wf s = true) :
    Memory.wf (askSave s d) = true := foldl_wf (fun _ _ ht => wf_ite (hbmAsk_wf ht) ht) _ (State.withHub_wf (wf_same h rfl))

theorem writeSave_wf {s : State} {d : DenCtx} (h : Memory.wf s = true) :
    Memory.wf (writeSave s d) = true := foldl_wf (fun _ _ ht => putWord_wf ht _ _) _ (wf_same h rfl)

theorem execSaveAreaWriteback_wf {part : Fin 16} {bad : Option SaveFault} {s : State} (h : Memory.wf s = true) :
    NextWf (execSaveAreaWriteback part bad s) := by
  unfold execSaveAreaWriteback
  split
  · exact .next h
  · split
    · exact .next (recoveryRecord_wf (saveFailed_wf h))
    · split
      · exact .next (State.at_wf (askSave_wf h))
      · exact .ite (.next (State.at_wf h)) (.next (clearDenHeld_wf (setWritten_wf (writeSave_wf h))))

theorem execCtxRetry_wf {part : Fin 16} {s : State} (h : Memory.wf s = true) :
    NextWf (execCtxRetry part s) := by
  unfold execCtxRetry
  refine .ite (.next h) ?_
  split
  · exact .next h
  · split
    · exact .next (recoveryRecord_wf (saveFailed_wf h))
    · exact .next (State.later_wf h)

theorem execCtxDiscard_wf {part : Fin 16} {s : State} (h : Memory.wf s = true) :
    NextWf (execCtxDiscard part s) := by
  unfold execCtxDiscard
  refine .ite (.next h) ?_
  split
  · exact .next h
  · exact .next (clearDenHeld_wf (wf_same h rfl))

theorem rewait_wf {s : State} {k : Fin 16} (h : Memory.wf s = true) :
    Memory.wf (rewait s k) = true := by
  unfold rewait
  split
  · exact State.at_wf h
  · exact wf_ite (fcwaitEnd_wf h) h
  · exact h

theorem resumeOwn_wf {s : State} {d : DenCtx} {c : Core} (h : Memory.wf s = true) :
    Memory.wf (resumeOwn s d c) = true := by
  unfold resumeOwn
  dsimp only
  refine foldl_wf (fun s x ht => ?_) _ (foldl_wf (fun _ _ ht => State.later_wf ht) _
      (foldl_wf (fun _ _ ht => rewait_wf ht) _ (wf_ite (foldl_wf (fun _ _ ht => wf_ite (dropWaits_wf ht) ht) _ (wf_same h rfl))
      (wf_same h rfl))))
  exact receiveAt_wf ht

theorem resumeGang_wf {s : State} {g : GangRun} (h : Memory.wf s = true) :
    Memory.wf (resumeGang s g) = true := wf_ite (killOthers_wf (wf_same h rfl)) (wf_ite (State.later_wf (wf_same h rfl)) (wf_same h rfl))

theorem resumeContext_wf {s : State} {d : DenCtx} (h : Memory.wf s = true) :
    Memory.wf (resumeContext s d) = true := by
  unfold resumeContext
  extract_lets s1 s2 s3 s4
  have hs1 : Memory.wf s1 = true := putImage_wf h
  have hs2 : Memory.wf s2 = true := wf_same hs1 rfl
  have hs3 : Memory.wf s3 = true := wf_ite (clearDenHeld_wf hs2) hs2
  have hs4 : Memory.wf s4 = true := by
    unfold s4
    split
    · exact resumeOwn_wf hs3
    · exact hs3
  exact foldl_wf (fun _ _ ht => resumeGang_wf ht) _ hs4

theorem execSwapResume_wf {part : Fin 16} {s : State} (h : Memory.wf s = true) :
    NextWf (execSwapResume part s) := by
  unfold execSwapResume
  split
  · exact .next h
  · exact .next (foldl_wf (fun _ _ ht => resumeContext_wf ht) _ h)

theorem setCkpt_wf {s : State} {f i hi lo v : Nat} (h : Memory.wf s = true) :
    Memory.wf (setCkpt s f i hi lo v) = true := wf_same h rfl

theorem ckptOver_wf {s : State} {f : Fin 17} (h : Memory.wf s = true) :
    Memory.wf (ckptOver s f) = true := by
  unfold ckptOver
  extract_lets s1
  have hs1 : Memory.wf s1 = true := by unfold s1; split <;> exact wf_same h rfl
  exact setCkpt_wf hs1

theorem takeCkpt_wf {s : State} {f : Fin 17} (h : Memory.wf s = true) :
    Memory.wf (takeCkpt s f) = true := by
  unfold takeCkpt
  extract_lets c s1 t t1 t2 t3 t4 t5 t6 pool t7
  have hs1 : Memory.wf s1 = true := wf_same h rfl
  have ht : Memory.wf t = true := wf_same hs1 rfl
  have ht1 : Memory.wf t1 = true := hubPut_wf ht
  have ht2 : Memory.wf t2 = true := wf_same ht1 rfl
  have ht3 : Memory.wf t3 = true := hubPut_wf ht2
  have ht4 : Memory.wf t4 = true := hubPut_wf ht3
  have ht5 : Memory.wf t5 = true := setCkpt_wf ht4
  have ht6 : Memory.wf t6 = true := setCkpt_wf ht5
  have ht7 : Memory.wf t7 = true := foldl_wf (fun _ _ ht7 => wf_ite (hbmAsk_wf ht7) ht7) _ ht6
  exact ckptOver_wf (State.later_wf ht7)

theorem execCheckpointTake_wf {f : Fin 17} {s : State} (h : Memory.wf s = true) :
    NextWf (execCheckpointTake f s) := by
  unfold execCheckpointTake
  extract_lets cs
  refine .ite (.next h) ?_
  refine .ite (.next (State.atOnce_wf h)) ?_
  split
  · exact .next (ckptOver_wf (recoveryRecord_wf h))
  · exact .next (takeCkpt_wf h)

theorem execCkptPoolWriteDone_wf {f : Fin 17} {s : State} (h : Memory.wf s = true) :
    NextWf (execCkptPoolWriteDone f s) := .ite (.next (State.at_wf h)) (.next (wf_same h rfl))

theorem poolWrite_wf {s : State} {h : Held} (hs : Memory.wf s = true) :
    Memory.wf (poolWrite s h) = true := granuleUnits_wf (State.withHub_wf (wf_same hs rfl))

theorem endCopy_wf {s : State} {h : Held} (hs : Memory.wf s = true) :
    Memory.wf (endCopy s h) = true := wf_ite (copyGranule_wf (State.withHub_wf hs)) (State.withHub_wf hs)

theorem execHeldWriteCopy_wf {granule : Nat} {s : State} (h : Memory.wf s = true) :
    NextWf (execHeldWriteCopy granule s) := by
  unfold execHeldWriteCopy
  split
  · exact .next h
  · exact .ite (.next (State.at_wf h)) (.ite (.next (endCopy_wf h)) (.next (State.at_wf (poolWrite_wf h))))

theorem execCheckpointDrop_wf {f : Fin 17} {s : State} (h : Memory.wf s = true) :
    NextWf (execCheckpointDrop f s) := .next (dropCkpt_wf h)

theorem flushWrites_wf {s : State} {f : Fin 17} (h : Memory.wf s = true) : Memory.wf (flushWrites s f) = true := by
  unfold flushWrites
  extract_lets plain back mine t
  have ht : Memory.wf t = true := foldl_wf (fun _ _ ht => homeStore_wf ht) _ h
  exact State.withCore_wf (wf_same ht rfl)

theorem forgetJobs_wf {s : State} {f : Fin 17} (h : Memory.wf s = true) :
    Memory.wf (forgetJobs s f) = true := wf_same h rfl

theorem dropCell_wf {s : State} {f : Fin 17} (h : Memory.wf s = true) :
    Memory.wf (dropCell s f) = true := flushWrites_wf (State.withCore_wf (endCell_wf (dropActs_wf (wf_same h rfl))))

theorem stopFn_wf {s : State} {f : Fin 17} (h : Memory.wf s = true) :
    Memory.wf (stopFn s f) = true := wf_ite (dropActs_wf h) (State.withClu_wf (dropActs_wf (State.withCore_wf (dropActs_wf h))))

theorem releaseWheel_wf {s : State} {f : Fin 17} (h : Memory.wf s = true) : Memory.wf (releaseWheel s f).1 = true := by
  unfold releaseWheel
  split
  · exact h
  · exact nameWheel_wf h

theorem writeBack_wf {s : State} {c : Ckpt} (h : Memory.wf s = true) : Memory.wf (writeBack s c) = true := by
  unfold writeBack
  extract_lets t
  refine State.withHub_wf (s := t) (foldl_wf (fun u g hu => ?_) _ h)
  obtain ⟨mem, tags, fe⟩ := (wf_iff u).mp hu
  exact (wf_iff _).mpr ⟨cellsPut_wf (cellsClear_wf mem _ _) _, tags, fe⟩

theorem restoreQueue_wf {s : State} {x : Nat × Word} (h : Memory.wf s = true) :
    Memory.wf (restoreQueue s x) = true := wf_ite (hubPut_wf h) (hubPut_wf h)

theorem setRolling_wf {s : State} {f : Fin 17} {step : Fin 4} {n : Nat} (h : Memory.wf s = true) :
    Memory.wf (setRolling s f step n) = true := wf_same h rfl

theorem rollBegin_wf {s : State} {f : Fin 17} (h : Memory.wf s = true) :
    Memory.wf (rollBegin s f) = true := State.at_wf (setRolling_wf (State.withHub_wf (stopFn_wf (setCkpt_wf h))))

theorem rollAsk_wf {s : State} {f : Fin 17} (h : Memory.wf s = true) :
    Memory.wf (rollAsk s f) = true := by
  unfold rollAsk
  extract_lets t t1 pool gs as
  have ht : Memory.wf t = true := foldl_wf (fun _ _ ht => breakCircuit_wf ht) _ h
  have ht1 : Memory.wf t1 = true := State.at_wf (setRolling_wf (wf_same ht rfl))
  exact foldl_wf (fun _ _ ht2 => wf_ite (hbmAsk_wf ht2) ht2) _ ht1

theorem rollEnd_wf {s : State} {f : Fin 17} (h : Memory.wf s = true) : Memory.wf (rollEnd s f) = true := by
  unfold rollEnd
  extract_lets t t1 t2
  have ht : Memory.wf t = true := by
    unfold t
    split
    · have hf {u : State} (l : List (Nat × Word)) (hu : Memory.wf u = true) : Memory.wf (l.foldl (fun t x => putWord t x.1 x.2) u) = true :=
        foldl_wf (fun _ _ ht => putWord_wf ht _ _) _ hu
      exact recoveryRecord_wf (State.withHub_wf (foldl_wf (fun _ _ ht => restoreQueue_wf ht) _ (hf _ (hubPut_wf (writeBack_wf h)))))
    · exact h
  have ht2 : Memory.wf t2 = true := State.withHub_wf (setCkpt_wf ht)
  exact foldl_wf (fun _ _ ht3 => planDispatch_wf (wf_ite (modPart_wf ht3) ht3)) _ ht2

theorem execCheckpointRollback_wf {f : Fin 17} {s : State} (h : Memory.wf s = true) :
    NextWf (execCheckpointRollback f s) := .next (wf_ite (rollBegin_wf h) h)

theorem rollForget_wf {s : State} {f : Fin 17} (h : Memory.wf s = true) :
    Memory.wf (rollForget s f) = true := State.at_wf (setRolling_wf (releaseWheel_wf (forgetJobs_wf (wf_ite (dropCell_wf h) h))))

theorem execRollbackStep_wf {f : Fin 17} {s : State} (h : Memory.wf s = true) :
    NextWf (execRollbackStep f s) := by
  unfold execRollbackStep
  split
  · exact .next h
  · refine .ite (.next (wf_ite (State.at_wf h) (rollForget_wf h))) ?_
    exact .ite (.next (rollAsk_wf h)) (.next (wf_ite (State.at_wf h) (rollEnd_wf h)))

theorem setFlr_wf {s : State} {f busy step : Nat} (h : Memory.wf s = true) :
    Memory.wf (setFlr s f busy step) = true := hubPut_wf h

theorem flrBegin_wf {s : State} {f : Fin 17} (h : Memory.wf s = true) :
    Memory.wf (flrBegin s f) = true := wf_ite h (State.at_wf (setFlr_wf (wf_same h rfl)))

theorem clearCore_wf {s : State} (h : Memory.wf s = true) :
    Memory.wf (clearCore s) = true := wf_same h rfl

theorem clearUsed_wf {s : State} {f : Fin 17} (h : Memory.wf s = true) :
    Memory.wf (clearUsed s f) = true := by
  unfold clearUsed
  extract_lets mine s1 s2
  have hs1 : Memory.wf s1 = true := foldl_wf (fun _ _ ht => clearCoreOf_wf ht) _ h
  have hs2 : Memory.wf s2 = true := foldl_wf (fun _ _ ht => clearClusterOf_wf ht) _ hs1
  exact wf_same hs2 rfl

theorem flrClear_wf {s : State} {f : Fin 17} (h : Memory.wf s = true) :
    Memory.wf (flrClear s f) = true := by
  unfold flrClear
  extract_lets mine s1 s2 s3 s4 s5 s6 s7 s8 s9
  have hs1 : Memory.wf s1 = true := wf_ite (dropCell_wf h) h
  have hs2 : Memory.wf s2 = true := foldl_wf (fun _ _ ht => breakCircuit_wf ht) _ hs1
  have hs3 : Memory.wf s3 = true := forgetJobs_wf (clearUsed_wf hs2)
  have hs4 : Memory.wf s4 = true := wf_ite (clearCore_wf hs3) hs3
  have hs5 : Memory.wf s5 = true := foldl_wf (fun _ _ ht => foldl_wf (fun _ _ ht1 => hubPut_wf ht1) _ (hubPut_wf ht)) _ hs4
  have hs6 : Memory.wf s6 = true := foldl_wf (fun _ _ ht => putWord_wf (putWord_wf ht _ _) _ _) _ hs5
  have hs7 : Memory.wf s7 = true := dropCkpt_wf (setCkpt_wf (hubPut_wf hs6))
  have hs8 : Memory.wf s8 = true := foldl_wf (fun _ _ ht => wf_ite (clearDenHeld_wf ht) ht) _ hs7
  have hs9 : Memory.wf s9 = true := wf_same hs8 rfl
  exact recoveryRecord_wf (setFlr_wf hs9)

theorem execFlrDrainEnd_wf {f : Fin 17} {s : State} (h : Memory.wf s = true) :
    NextWf (execFlrDrainEnd f s) := by
  unfold execFlrDrainEnd
  extract_lets w n
  have hn : Memory.wf n.1 = true := releaseWheel_wf (setFlr_wf h)
  refine .ite (.next h) ?_
  refine .ite (.next (State.at_wf h)) ?_
  split
  · exact .next (State.at_wf (stopFn_wf (setFlr_wf h)))
  · exact .ite (.next (State.at_wf h)) (.next (State.at_wf hn))
  · exact .next (flrClear_wf h)

/-! ## The operations of Machine/CoreEvents -/

theorem execTimerExpiry_wf {k : Fin 16} {s : State} (h : Memory.wf s = true) :
    NextWf (execTimerExpiry k s) := by
  unfold execTimerExpiry
  split
  · exact .next (wf_ite (State.setRun_wf (dropWaits_wf h)) h)
  · exact .next h

theorem enterTrap_wf {s : State} {k : Fin 16} {cause tval : Word} (h : Memory.wf s = true) :
    Memory.wf (enterTrap s k cause tval) = true := State.setRun_wf (State.modStrand_wf (dropWaits_wf h))

theorem execInterruptEntry_wf {k : Fin 16} {s : State} (h : Memory.wf s = true) :
    NextWf (execInterruptEntry k s) := by
  unfold execInterruptEntry
  extract_lets x due
  refine .ite (.next h) ?_
  split
  · exact .next (enterTrap_wf (State.modStrand_wf h))
  · refine .ite (.next h) ?_
    refine .ite (.next (enterTrap_wf h)) ?_
    refine .ite ?_ (.next (enterTrap_wf h))
    split
    · exact .next (enterTrap_wf (State.modRecv_wf h))
    · exact .next h

theorem execIllins_wf {w : BitVec 32} {s : State} (h : Memory.wf s = true) :
    NextWf (execIllins w s) := .next (freeze_wf (wf_same h (by rfl)) _ _ _ _ _ _ _)

theorem execFetchFault_wf {why : FetchWhy} {s : State} (h : Memory.wf s = true) :
    NextWf (execFetchFault why s) := by
  unfold execFetchFault
  extract_lets va
  split
  · exact .next (freeze_wf h _ _ _ _ _ _ _)
  · exact .next (freeze_wf h _ _ _ _ _ _ _)
  · exact .next (freeze_wf (wf_same h (by rfl)) _ _ _ _ _ _ _)
  · exact .next (freeze_wf h _ _ _ _ _ _ _)

theorem joinRemote_wf {s : State} {q : RemoteReq} {kind : WaiterKind} (h : Memory.wf s = true) :
    OptWf (·) (joinRemote s q kind) := .ite .none (.some (addWaiter_wf h))

theorem serveRemote_wf {s : State} {q : RemoteReq} (h : Memory.wf s = true) :
    OptWf (·) (serveRemote s q) := by
  unfold serveRemote
  extract_lets pa p
  split
  · exact .some (queueReply_wf h)
  · exact .some (queueReply_wf (homeStore_wf h))
  · split
    · rename_i x r e
      have ht : Memory.wf r.2.2 = true := atomicAt_wf h _ e
      exact .some (queueReply_wf ht)
    · exact .some (queueReply_wf h)
  · split
    · rename_i x r e
      have ht : Memory.wf r.2.2 = true := atomicAt_wf h _ e
      exact .some (queueReply_wf ht)
    · exact .some (queueReply_wf h)
  · exact joinRemote_wf h
  · exact joinRemote_wf h
  · exact joinRemote_wf h
  · exact .some (queueReply_wf (fillHome_wf (performStore_wf h _)))
  · exact .some (queueReply_wf (emptyHome_wf h))

theorem execRemoteRequestArrive_wf {q : RemoteReq} {s : State} (h : Memory.wf s = true) : NextWf (execRemoteRequestArrive q s) := by
  have hq : OptWf (·) (if s.core.remoteQ.isEmpty then serveRemote s q else none) := .ite (serveRemote_wf h) .none
  refine .ite (.next (State.at_wf h)) ?_
  split
  · exact .next (hq _ ‹_›)
  · exact .next (State.withCore_wf h)

theorem drainRemote_wf {s : State} {fuel : Nat} (h : Memory.wf s = true) : Memory.wf (drainRemote s fuel) = true := by
  induction fuel generalizing s with
  | zero => exact h
  | succ n ih =>
    unfold drainRemote
    split
    · exact h
    · split
      · exact ih (wf_same (serveRemote_wf h _ ‹_›) (by rfl))
      · exact h

theorem execGatewaySend_wf {gw : AgentId} {s : State} (h : Memory.wf s = true) :
    NextWf (execGatewaySend gw s) := by
  unfold execGatewaySend
  dsimp only
  split
  · exact .next h
  · split
    · exact .next (wf_same h rfl)
    · exact .next h

theorem execScratchpadBankAccess_wf {bank : Fin 64} {s : State} (h : Memory.wf s = true) :
    NextWf (execScratchpadBankAccess bank s) := by
  unfold execScratchpadBankAccess
  extract_lets from_ ports
  split
  · exact .next (bankServed_wf (wf_ite (State.atOnce_wf (State.withClu_wf h)) (State.withClu_wf h)))
  · exact .next h

theorem execDieSramBankAccess_wf {bank : Fin 64} {s : State} (h : Memory.wf s = true) :
    NextWf (execDieSramBankAccess bank s) := by
  unfold execDieSramBankAccess
  dsimp only
  split
  · exact .next (bankServed_wf (wf_ite (State.atOnce_wf (wf_same h rfl)) (wf_same h rfl)))
  · exact .next h

theorem execBankRequest_wf {gcore pa : Nat} {s : State} (h : Memory.wf s = true) :
    NextWf (execBankRequest gcore pa s) := by
  unfold execBankRequest
  split
  · exact .ite (.next h) (.ite (.next (atomArrive_wf h)) (.next (State.atOnce_wf (wf_same h rfl))))
  · exact .next h

theorem execSramRequest_wf {gcore pa : Nat} {s : State} (h : Memory.wf s = true) :
    NextWf (execSramRequest gcore pa s) := by
  unfold execSramRequest
  dsimp only
  split
  · exact .ite (.next h) (.next (State.atOnce_wf (wf_same h rfl)))
  · exact .next h

theorem execOwlFails_wf {s : State} (h : Memory.wf s = true) :
    NextWf (execOwlFails s) := .next (State.withHub_wf (undelivered_wf h))

theorem execAtomicRequest_wf {gcore : Nat} {a : Access} {s : State} (h : Memory.wf s = true) :
    NextWf (execAtomicRequest gcore a s) := .next (wf_ite (State.at_wf h) (atomArrive_wf h))

theorem outsideStore_wf {s : State} {x : WordStore} (h : Memory.wf s = true) :
    Memory.wf (outsideStore s x) = true := performStore_wf (wf_ite (cancelScrub_wf h) h) _

theorem countMem_wf {s : State} {pa : Nat} (h : Memory.wf s = true) :
    Memory.wf (countMem s pa) = true := by
  unfold countMem
  split
  · exact countCe_wf h
  · exact h

theorem execMemoryError_wf {pa lane : Nat} {fatal : Bool} {s : State} (h : Memory.wf s = true) :
    NextWf (execMemoryError pa lane fatal s) := by
  unfold execMemoryError
  extract_lets c t
  have ht : Memory.wf t = true := uncorrRecord_wf (markPoison_wf h _)
  refine .ite (.next (wf_ite (countLane_wf h) (countMem_wf h))) ?_
  refine .next ?_
  split
  · exact State.at_wf ht
  · exact ht

theorem execCacheError_wf {pa : Nat} {fatal : Bool} {s : State} (h : Memory.wf s = true) :
    NextWf (execCacheError pa fatal s) := .ite (.next (countCe_wf h)) (.next (uncorrRecord_wf (wf_same h rfl)))

theorem execDenError_wf {part : Fin 16} {func : Fin 17} {pa : Nat} {fatal : Bool} {s : State} (h : Memory.wf s = true) :
    NextWf (execDenError part func pa fatal s) := .ite (.next (countMem_wf h)) (.next (uncorrRecord_wf (wf_same h rfl)))

theorem execAccError_wf {t : Fin 8} {i j : Fin 32} {s : State} (h : Memory.wf s = true) :
    NextWf (execAccError t i j s) := .next (wf_same h rfl)

theorem execEntryError_wf {a : AgentId} {t : BitVec 2} {port slot : Nat} {fatal : Bool} {s : State} (h : Memory.wf s = true) :
    NextWf (execEntryError a t port slot fatal s) := .ite (.next (countFlit_wf h)) (.next (wf_ite h (tableError_wf (tableSet_wf h))))

theorem execFlitError_wf {n : Nat} {bits : List Nat} {s : State} (h : Memory.wf s = true) :
    NextWf (execFlitError n bits s) := .next (wf_same h rfl)

theorem execHostWindow_wf {f : Fin 17} {base len : Nat} {on : Bool} {s : State} (h : Memory.wf s = true) :
    NextWf (execHostWindow f base len on s) := .next (wf_same h rfl)

/-! ## The operations of Machine/HostEvents -/

theorem execSyscfgWrite_wf {v : Word} {s : State} (h : Memory.wf s = true) :
    NextWf (execSyscfgWrite v s) := .next (hubPut_wf h)

theorem execPwrcapWrite_wf {v : Word} {s : State} (h : Memory.wf s = true) :
    NextWf (execPwrcapWrite v s) := .next (hubPut_wf h)

theorem execPowerCapWithhold_wf {part : Fin 16} {s : State} (h : Memory.wf s = true) :
    NextWf (execPowerCapWithhold part s) := .ite (.next h) (.next (jayLog_wf (wf_same h rfl)))

theorem dropVmid_wf {s : State} {v : BitVec 16} (h : Memory.wf s = true) :
    Memory.wf (dropVmid s v) = true := foldl_wf (fun _ _ ht => wakeMiss_wf ht) _ (State.withCore_wf (wf_same h rfl))

theorem execS2invGo_wf {f : Fin 17} {s : State} (h : Memory.wf s = true) :
    NextWf (execS2invGo f s) := .next (State.later_wf (hubPut_wf (dropVmid_wf h)))

theorem execS2invDone_wf {f : Fin 17} {s : State} (h : Memory.wf s = true) :
    NextWf (execS2invDone f s) := .next (hubPut_wf (dropVmid_wf h))

theorem setLcommit_wf {s : State} {bit v : Nat} (h : Memory.wf s = true) :
    Memory.wf (setLcommit s bit v) = true := wf_same h rfl

theorem execLstageWrite_wf {nonce : BitVec 32} {s : State} (h : Memory.wf s = true) :
    NextWf (execLstageWrite nonce s) := .next (setLcommit_wf (hubPut_wf (wf_same h rfl)))

theorem execLcommitArm_wf {cw : BitVec 56} {s : State} (h : Memory.wf s = true) :
    NextWf (execLcommitArm cw s) := .ite (.next (State.at_wf (wf_same h rfl))) (.next h)

theorem layFixed_wf {s : State} (h : Memory.wf s = true) :
    Memory.wf (layFixed s) = true := wf_ite h (foldl_wf (fun _ _ ht => wf_ite ht (State.withCore_wf (wf_same ht (by rfl)))) _ h)

theorem planAll_wf {s : State} (h : Memory.wf s = true) :
    Memory.wf (planAll s) = true := foldl_wf (fun _ _ ht => wf_ite (planDispatch_wf ht) ht) _ h

theorem execLayoutFlip_wf {s : State} (h : Memory.wf s = true) :
    NextWf (execLayoutFlip s) := by
  unfold execLayoutFlip
  extract_lets t t1 u
  have ht : Memory.wf t = true := wf_same h rfl
  have ht1 : Memory.wf t1 = true := foldl_wf (fun _ _ ht1 => foldl_wf (fun _ _ ht2 => hubPut_wf ht2) _ ht1) _ ht
  have hu : Memory.wf u = true := planAll_wf (layFixed_wf (setLcommit_wf ht1))
  split
  · exact .next h
  · refine .ite (.next h) ?_
    refine .ite (.next (setLcommit_wf ht)) ?_
    exact .next (foldl_wf (fun _ _ ht2 => wf_ite (replanRefresh_wf ht2) ht2) _ hu)

theorem replayRecord_wf {s : State} {a : Nat} {ws : List Word} (h : Memory.wf s = true) :
    Memory.wf (replayRecord s a ws) = true := by
  unfold replayRecord
  extract_lets w1 round
  split
  · exact recordArrive_wf h
  · exact h

theorem watchFrom_wf {s : State} {w : Nat} (h : Memory.wf s = true) :
    Memory.wf (watchFrom s w) = true := wf_ite (State.withHub_wf (dropActs_wf h)) (State.at_wf (State.withHub_wf (dropActs_wf h)))

theorem measure_wf {s : State} {stage : Nat} (h : Memory.wf s = true) :
    Memory.wf (measure s stage) = true := wf_same h rfl

theorem bootProah_wf {s : State} (h : Memory.wf s = true) :
    Memory.wf (bootProah s) = true := wf_same h rfl

theorem resetProah_wf {s : State} (h : Memory.wf s = true) :
    Memory.wf (resetProah s) = true := setLcommit_wf (foldl_wf (fun _ _ ht => foldl_wf (fun _ _ ht1 => hubPut_wf ht1) _ ht) _ h)

theorem execPwdogKick_wf {s : State} (h : Memory.wf s = true) :
    NextWf (execPwdogKick s) := .next (watchFrom_wf h)

theorem execPwdogExpiry_wf {s : State} (h : Memory.wf s = true) :
    NextWf (execPwdogExpiry s) := by
  unfold execPwdogExpiry
  extract_lets t
  have ht : Memory.wf t = true := recoveryRecord_wf h
  exact .ite (.next h) (.ite (.next (watchFrom_wf h)) (.next (watchFrom_wf (bootProah_wf (resetProah_wf ht)))))

theorem execPctlHold_wf {hold : Bool} {s : State} (h : Memory.wf s = true) :
    NextWf (execPctlHold hold s) := .next (wf_ite (resetProah_wf (hubPut_wf h)) (wf_ite (bootProah_wf (hubPut_wf h)) (hubPut_wf h)))

theorem execPctlClrlim_wf {s : State} (h : Memory.wf s = true) :
    NextWf (execPctlClrlim s) := .next (hubPut_wf h)

theorem execFirmwareUpdate_wf {die : Nat} {fin : Bool} {s : State} (h : Memory.wf s = true) :
    NextWf (execFirmwareUpdate die fin s) := by
  unfold execFirmwareUpdate
  extract_lets t
  have ht : Memory.wf t = true := State.withHub_wf (measure_wf h)
  split
  · exact .next (wf_same h rfl)
  · exact .ite (.next (foldl_wf (fun _ _ ht1 => wf_ite (State.atOnce_wf ht1) ht1) _ ht)) (.next h)
  · exact .next h

theorem resetPackage_wf {s : State} (h : Memory.wf s = true) : Memory.wf (resetPackage s) = true := by
  obtain ⟨mem, -, -⟩ := (wf_iff s).mp h
  unfold resetPackage
  extract_lets outside t0 c t t1 t2
  have ht : Memory.wf t = true := (wf_iff _).mpr ⟨filter_wf _ mem, rfl, rfl⟩
  have ht1 : Memory.wf t1 = true := hubPut_wf ht
  exact watchFrom_wf (bootProah_wf (wf_same ht1 rfl))

theorem execPackageReset_wf {s : State} (h : Memory.wf s = true) :
    NextWf (execPackageReset s) := .next (resetPackage_wf h)

theorem execFlrRequest_wf {f : Fin 17} {s : State} (h : Memory.wf s = true) :
    NextWf (execFlrRequest f s) := .next (wf_ite (resetPackage_wf h) (flrBegin_wf h))

theorem thenDo_wf {r : Host.Outcome State Fault Refusal} {f : State → Host.Outcome State Fault Refusal} (hr : NextWf r)
    (hf : ∀ t, Memory.wf t = true → NextWf (f t)) : NextWf (thenDo r f) := by
  cases r with
  | next t => exact hf t (hr t rfl)
  | fault e => exact .fault
  | refused e => exact .refused

theorem writeQueue_wf {s : State} {a : Nat} {v : Word} (h : Memory.wf s = true) :
    Memory.wf (writeQueue s a v) = true := wf_ite (liveEnqueue_wf h) (planAll_wf (hubWrite_wf h))

theorem writeBudgetCommit_wf {s : State} {a : Nat} {v : Word} (h : Memory.wf s = true) :
    Memory.wf (writeBudgetCommit s a v) = true := wf_ite (State.atOnce_wf (hubWrite_wf h)) (hubWrite_wf h)

theorem writePctl_wf {s : State} {v : Word} (h : Memory.wf s = true) : NextWf (writePctl s v) :=
  thenDo_wf (execPctlHold_wf h) fun _ ht => .ite (execPctlClrlim_wf ht) (.next ht)

theorem writePf_wf {s : State} {a : Nat} {v : Word} (h : Memory.wf s = true) : NextWf (writePf s a v) := by
  unfold writePf
  refine .ite (execSyscfgWrite_wf h) (.ite (execLcommitArm_wf h) (.ite (execPwrcapWrite_wf h) (.ite (writePctl_wf h)
    (.ite (.next (watchFrom_wf (hubWrite_wf h))) (.ite (execGkill_wf h) (.ite (.next (writeBudgetCommit_wf h))
    (.ite (.next (idleFrom_wf (hubWrite_wf h))) (.ite (.ite (execS2invGo_wf h) (.next h)) ?_))))))))
  refine .ite (thenDo_wf (.ite (execCheckpointDrop_wf h) (.next h)) fun _ ht => .ite (execCheckpointRollback_wf ht) (.next ht)) ?_
  refine .ite (.next (writeQueue_wf h)) ?_
  refine .ite (thenDo_wf (.ite (execCtxRetry_wf h) (.next h)) fun _ ht => .ite (execCtxDiscard_wf ht) (.next ht)) ?_
  exact .ite (.next (planAll_wf (hubWrite_wf h))) (.next (hubWrite_wf h))

theorem replayInput_wf {s : State} {p : Fin 16} {kind len : Nat} {target : Word} {ws : List Word} (h : Memory.wf s = true) :
    Memory.wf (replayInput s p kind len target ws) = true := by
  unfold replayInput
  refine wf_ite (wf_ite (wf_ite (hostEnqueue_wf h) ?_) (foldl_wf (fun _ _ ht => homeStore_wf ht) _ h))
    (wf_ite (replayRecord_wf h) (wf_ite (State.withHub_wf h) h))
  split
  · exact writePf_wf h _ ‹_›
  · exact h

theorem replaySoon_wf {s : State} {p : Fin 16} (h : Memory.wf s = true) :
    Memory.wf (replaySoon s p) = true := by
  unfold replaySoon
  split
  · exact State.atOnce_wf h
  · exact h

theorem execJayReplayInput_wf {p : Fin 16} {s : State} (h : Memory.wf s = true) :
    NextWf (execJayReplayInput p s) := by
  unfold execJayReplayInput
  extract_lets n r len s'
  have hs' : Memory.wf s' = true := wf_same h rfl
  split
  · exact .next h
  · exact .ite (.next h) (.next (replaySoon_wf (replayInput_wf hs')))

theorem hostPf_wf {s : State} {a : Nat} {v : Word} (h : Memory.wf s = true) : NextWf (hostPf s a v) :=
  .ite (writePf_wf h) (.ite (.next h) (thenDo_wf (writePf_wf (foldl_wf (fun _ _ ht => jayLog_wf ht) _ h)) fun _ ht =>
    .next (wf_ite (replaySoon_wf ht) ht)))

theorem writeVf_wf {s : State} {f : Fin 16} {a : Nat} {v : Word} (h : Memory.wf s = true) :
    NextWf (writeVf s f a v) := .ite (execEnqueue_wf h) (.next (discardVf_wf h))

theorem execOutsideWrite_wf {by_ : Outside} {x : WordStore} {s : State} (h : Memory.wf s = true) :
    NextWf (execOutsideWrite by_ x s) := by
  unfold execOutsideWrite
  extract_lets ps
  split
  · exact .next (outsideStore_wf h)
  · extract_lets ps1
    refine .ite (.next h) ?_
    refine .ite (.next (wf_ite (discardVf_wf h) h)) ?_
    exact .next (outsideStore_wf (foldl_wf (fun _ _ ht => jayLog_wf ht) _ h))
  · refine .ite (.next h) ?_
    exact .ite (.next (limitDiscard_wf h)) (.ite (.next (outsideStore_wf h)) (.next (limitDiscard_wf h)))

theorem execProahSlot_wf {a : AgentId} {t : BitVec 2} {port slot : Nat} {v : BitVec 16} {s : State} (h : Memory.wf s = true) :
    NextWf (execProahSlot a t port slot v s) := .ite (.next h) (.ite (.next (stageRecords_wf h)) (.next (limitDiscard_wf h)))

theorem writeProah_wf {s : State} {a : Nat} {v : Word} (h : Memory.wf s = true) : NextWf (writeProah s a v) := by
  unfold writeProah
  refine .ite (.next h) (.ite (.next (limitDiscard_wf h)) (.ite (execLstageWrite_wf h) (.ite (.next (wf_ite (limitDiscard_wf h) h)) ?_)))
  refine .ite (thenDo_wf (.ite (execPwdogKick_wf h) (.next h)) fun _ ht => .ite (.next (limitDiscard_wf ht)) (.next ht)) ?_
  exact .ite (.ite (.next (limitDiscard_wf h)) (.ite (.next (limitDiscard_wf h)) (.next (hubPut_wf h)))) (.next h)

theorem execRegisterWrite_wf {addr : Nat} {v : Word} {by_ : Writer} {s : State} (h : Memory.wf s = true) :
    NextWf (execRegisterWrite addr v by_ s) := by
  unfold execRegisterWrite
  split
  · exact hostPf_wf h
  · exact writeVf_wf h
  · exact writeProah_wf h

/-! ## The operations of Machine/ScalarInt -/

theorem divide_wf {s : State} {d a b : Opd} {ta tb : Bool} {f : Word → Word → Word} (h : Memory.wf s = true) :
    ResWf (·) (divide s d a b ta tb f) := by
  unfold divide
  refine .seq fun u => ?_
  refine .bind (read2_wf h) fun x hx => ?_
  exact .bind (writePending_wf (State.newTicket_wf hx)) fun _ ht => .ok (State.at_wf (retire_wf ht))

theorem execAdd_wf {d a b : Opd} {ta tb : Bool} {s : State} (h : Memory.wf s = true) :
    NextWf (execAdd d a b ta tb s) := .finish h (int2_wf h)

theorem execSub_wf {d a b : Opd} {ta tb : Bool} {s : State} (h : Memory.wf s = true) :
    NextWf (execSub d a b ta tb s) := .finish h (int2_wf h)

theorem execAnd_wf {d a b : Opd} {ta tb : Bool} {s : State} (h : Memory.wf s = true) :
    NextWf (execAnd d a b ta tb s) := .finish h (int2_wf h)

theorem execOr_wf {d a b : Opd} {ta tb : Bool} {s : State} (h : Memory.wf s = true) :
    NextWf (execOr d a b ta tb s) := .finish h (int2_wf h)

theorem execXor_wf {d a b : Opd} {ta tb : Bool} {s : State} (h : Memory.wf s = true) :
    NextWf (execXor d a b ta tb s) := .finish h (int2_wf h)

theorem execSll_wf {d a b : Opd} {ta tb : Bool} {s : State} (h : Memory.wf s = true) :
    NextWf (execSll d a b ta tb s) := .finish h (int2_wf h)

theorem execSrl_wf {d a b : Opd} {ta tb : Bool} {s : State} (h : Memory.wf s = true) :
    NextWf (execSrl d a b ta tb s) := .finish h (int2_wf h)

theorem execSra_wf {d a b : Opd} {ta tb : Bool} {s : State} (h : Memory.wf s = true) :
    NextWf (execSra d a b ta tb s) := .finish h (int2_wf h)

theorem execMul_wf {d a b : Opd} {ta tb : Bool} {s : State} (h : Memory.wf s = true) :
    NextWf (execMul d a b ta tb s) := .finish h (int2_wf h)

theorem execMulh_wf {d a b : Opd} {ta tb : Bool} {s : State} (h : Memory.wf s = true) :
    NextWf (execMulh d a b ta tb s) := .finish h (int2_wf h)

theorem execMulhn_wf {d a b : Opd} {ta tb : Bool} {s : State} (h : Memory.wf s = true) :
    NextWf (execMulhn d a b ta tb s) := .finish h (int2_wf h)

theorem execMulhsn_wf {d a b : Opd} {ta tb : Bool} {s : State} (h : Memory.wf s = true) :
    NextWf (execMulhsn d a b ta tb s) := .finish h (int2_wf h)

theorem execDiv_wf {d a b : Opd} {ta tb : Bool} {s : State} (h : Memory.wf s = true) :
    NextWf (execDiv d a b ta tb s) := .finish h (divide_wf h)

theorem execDivn_wf {d a b : Opd} {ta tb : Bool} {s : State} (h : Memory.wf s = true) :
    NextWf (execDivn d a b ta tb s) := .finish h (divide_wf h)

theorem execRem_wf {d a b : Opd} {ta tb : Bool} {s : State} (h : Memory.wf s = true) :
    NextWf (execRem d a b ta tb s) := .finish h (divide_wf h)

theorem execRemn_wf {d a b : Opd} {ta tb : Bool} {s : State} (h : Memory.wf s = true) :
    NextWf (execRemn d a b ta tb s) := .finish h (divide_wf h)

theorem execMin_wf {d a b : Opd} {ta tb : Bool} {s : State} (h : Memory.wf s = true) :
    NextWf (execMin d a b ta tb s) := .finish h (int2_wf h)

theorem execMax_wf {d a b : Opd} {ta tb : Bool} {s : State} (h : Memory.wf s = true) :
    NextWf (execMax d a b ta tb s) := .finish h (int2_wf h)

theorem execMinn_wf {d a b : Opd} {ta tb : Bool} {s : State} (h : Memory.wf s = true) :
    NextWf (execMinn d a b ta tb s) := .finish h (int2_wf h)

theorem execMaxn_wf {d a b : Opd} {ta tb : Bool} {s : State} (h : Memory.wf s = true) :
    NextWf (execMaxn d a b ta tb s) := .finish h (int2_wf h)

theorem execSlt_wf {d a b : Opd} {ta tb : Bool} {s : State} (h : Memory.wf s = true) :
    NextWf (execSlt d a b ta tb s) := .finish h (int2_wf h)

theorem execSltn_wf {d a b : Opd} {ta tb : Bool} {s : State} (h : Memory.wf s = true) :
    NextWf (execSltn d a b ta tb s) := .finish h (int2_wf h)

theorem execSeq_wf {d a b : Opd} {ta tb : Bool} {s : State} (h : Memory.wf s = true) :
    NextWf (execSeq d a b ta tb s) := .finish h (int2_wf h)

theorem execSne_wf {d a b : Opd} {ta tb : Bool} {s : State} (h : Memory.wf s = true) :
    NextWf (execSne d a b ta tb s) := .finish h (int2_wf h)

theorem execClz_wf {d a : Opd} {ta : Bool} {s : State} (h : Memory.wf s = true) :
    NextWf (execClz d a ta s) := .finish h (int1_wf h)

theorem execCtz_wf {d a : Opd} {ta : Bool} {s : State} (h : Memory.wf s = true) :
    NextWf (execCtz d a ta s) := .finish h (int1_wf h)

theorem execPopc_wf {d a : Opd} {ta : Bool} {s : State} (h : Memory.wf s = true) :
    NextWf (execPopc d a ta s) := .finish h (int1_wf h)

theorem execBrev_wf {d a : Opd} {ta : Bool} {s : State} (h : Memory.wf s = true) :
    NextWf (execBrev d a ta s) := .finish h (int1_wf h)

theorem execBswap_wf {d a : Opd} {ta : Bool} {s : State} (h : Memory.wf s = true) :
    NextWf (execBswap d a ta s) := .finish h (int1_wf h)

theorem selOp_wf {s : State} {d a b : Opd} {ta tb : Bool} (h : Memory.wf s = true) :
    ResWf (·) (selOp s d a b ta tb) := by
  unfold selOp
  refine .seq fun u => ?_
  refine .bind (readSrc_wf h) fun l hl => ?_
  exact .bind (read2_wf hl) fun _ hx => .bind (writeDest_wf hx) fun _ ht => .ok (retire_wf ht)

theorem execSel_wf {d a b : Opd} {ta tb : Bool} {s : State} (h : Memory.wf s = true) :
    NextWf (execSel d a b ta tb s) := .finish h (selOp_wf h)

theorem execLea_wf {d a b : Opd} {ta tb : Bool} {sh : BitVec 4} {s : State} (h : Memory.wf s = true) :
    NextWf (execLea d a b ta tb sh s) := .finish h (int2_wf h)

theorem execRol_wf {d a b : Opd} {ta tb : Bool} {s : State} (h : Memory.wf s = true) :
    NextWf (execRol d a b ta tb s) := .finish h (int2_wf h)

theorem execRor_wf {d a b : Opd} {ta tb : Bool} {s : State} (h : Memory.wf s = true) :
    NextWf (execRor d a b ta tb s) := .finish h (int2_wf h)

theorem execAddi_wf {d a : Opd} {ta : Bool} {imm : BitVec 11} {s : State} (h : Memory.wf s = true) :
    NextWf (execAddi d a ta imm s) := .finish h (int1_wf h)

theorem execAndi_wf {d a : Opd} {ta : Bool} {imm : BitVec 11} {s : State} (h : Memory.wf s = true) :
    NextWf (execAndi d a ta imm s) := .finish h (int1_wf h)

theorem execOri_wf {d a : Opd} {ta : Bool} {imm : BitVec 11} {s : State} (h : Memory.wf s = true) :
    NextWf (execOri d a ta imm s) := .finish h (int1_wf h)

theorem execXori_wf {d a : Opd} {ta : Bool} {imm : BitVec 11} {s : State} (h : Memory.wf s = true) :
    NextWf (execXori d a ta imm s) := .finish h (int1_wf h)

theorem execSlli_wf {d a : Opd} {ta : Bool} {sh : BitVec 6} {s : State} (h : Memory.wf s = true) :
    NextWf (execSlli d a ta sh s) := .finish h (int1_wf h)

theorem execSrli_wf {d a : Opd} {ta : Bool} {sh : BitVec 6} {s : State} (h : Memory.wf s = true) :
    NextWf (execSrli d a ta sh s) := .finish h (int1_wf h)

theorem execSrai_wf {d a : Opd} {ta : Bool} {sh : BitVec 6} {s : State} (h : Memory.wf s = true) :
    NextWf (execSrai d a ta sh s) := .finish h (int1_wf h)

theorem execSlti_wf {d a : Opd} {ta : Bool} {imm : BitVec 11} {s : State} (h : Memory.wf s = true) :
    NextWf (execSlti d a ta imm s) := .finish h (int1_wf h)

theorem execSltni_wf {d a : Opd} {ta : Bool} {imm : BitVec 11} {s : State} (h : Memory.wf s = true) :
    NextWf (execSltni d a ta imm s) := .finish h (int1_wf h)

theorem execMuli_wf {d a : Opd} {ta : Bool} {imm : BitVec 11} {s : State} (h : Memory.wf s = true) :
    NextWf (execMuli d a ta imm s) := .finish h (int1_wf h)

theorem execLdi_wf {d : Opd} {imm : BitVec 18} {s : State} (h : Memory.wf s = true) :
    NextWf (execLdi d imm s) := .finish h (int0_wf h)

theorem execLdk_wf {d : Opd} {imm : BitVec 18} {s : State} (h : Memory.wf s = true) :
    NextWf (execLdk d imm s) := .finish h (int1_wf h)

theorem execAddpc_wf {d : Opd} {imm : BitVec 18} {s : State} (h : Memory.wf s = true) :
    NextWf (execAddpc d imm s) := .finish h (int0_wf h)

theorem execSigget_wf {d a : Opd} {ta : Bool} {s : State} (h : Memory.wf s = true) :
    NextWf (execSigget d a ta s) := by
  unfold execSigget
  refine .finish h ?_
  exact .seq fun _ => .bind (readSrc_wf h) fun _ hx => .bind (writeDest_wf hx) fun _ ht => .ok (retire_wf ht)

theorem execSigset_wf {d a b : Opd} {ta tb : Bool} {s : State} (h : Memory.wf s = true) :
    NextWf (execSigset d a b ta tb s) := by
  unfold execSigset
  refine .finish h ?_
  exact .seq fun _ => .bind (read2_wf h) fun _ hx => .bind (writeDest_wf hx) fun _ ht => .ok (retire_wf ht)

theorem execIntDivideFill_wf {k : Fin 16} {ticket : Nat} {v : Word} {s : State} (h : Memory.wf s = true) :
    NextWf (execIntDivideFill k ticket v s) := .next (fillReg_wf h)

/-! ## The operations of Machine/Acts -/

theorem runTile_wf {c : EngCmd} {s : State} (h : Memory.wf s = true) :
    NextWf (runTile c s) := by
  unfold runTile
  split
  · exact execTld_wf h
  · exact execTst_wf h
  · exact execTzero_wf h
  · exact execTmma_wf h
  · exact execTscal_wf h
  · exact execTcvt_wf h
  · exact execTtrn_wf h
  · exact execTadd_wf h
  · exact execTsig_wf h
  · exact execGacc_wf h
  · exact execGsub_wf h
  · exact execGschur_wf h
  · exact execGdamp_wf h
  · exact execGmean_wf h
  · exact tileIllegal_wf h

theorem runCopy_wf {c : EngCmd} {s : State} (h : Memory.wf s = true) :
    NextWf (runCopy c s) := by
  unfold runCopy
  split
  · exact execCpy_wf h
  · exact execCpys_wf h
  · exact execCpyz_wf h
  · exact execCred_wf h
  · exact execScrub_wf h
  · exact copyIllegal_wf h

theorem runCommand_wf {c : EngCmd} {s : State} (h : Memory.wf s = true) :
    NextWf (runCommand c s) := by
  unfold runCommand
  refine .ite (.next (retry_wf h)) ?_
  split
  · exact runTile_wf h
  · exact runCopy_wf h
  · exact .ite (execScan_wf h) (memIllegal_wf h)
  · exact .ite (execXrun_wf h) (xchgIllegal_wf h)
  · exact .next h

theorem runCircuit_wf {r : CircReq} {s : State} (h : Memory.wf s = true) :
    NextWf (runCircuit r s) := by
  unfold runCircuit
  split
  · exact execCircOpen_wf h
  · exact execCircWiden_wf h
  · exact execCircNarrow_wf h
  · exact execCircRelease_wf h

theorem runAct_wf {a : Act} {s : State} (h : Memory.wf s = true) :
    NextWf (runAct a s) := by
  unfold runAct
  split
  · exact .next h
  · exact runCommand_wf h
  · exact runCircuit_wf h
  · exact execCompletion_wf h
  · exact execIntDivideFill_wf h
  · exact execFpDivideFill_wf h
  · exact execRemoteReplyArrive_wf h
  · exact execCacheLineFill_wf h
  · exact execStoreLeave_wf h
  · exact execDbbEntryAck_wf h
  · exact execAcquireComplete_wf h
  · exact execReleaseComplete_wf h
  · exact execTlbWalkStart_wf h
  · exact execWalkComplete_wf h
  · exact execTlbinvWrite_wf h
  · exact execTlbinvDone_wf h
  · exact execWindowSpill_wf h
  · exact execWindowFill_wf h
  · exact execBarwtDeadline_wf h
  · exact execBarwtLate_wf h
  · exact execPortLockLoss_wf h
  · exact execJayReplayInput_wf h
  · exact .next (channelGap_wf h)
  · exact execTlbinvOther_wf h
  · exact .next (capacityCheck_wf h)
  · exact execFenceCounterNotify_wf h
  · exact execLaunchEnqueue_wf h
  · exact execPostArrive_wf h
  · exact execRoundClose_wf h
  · exact execOwlCalendar_wf h
  · exact execCalendarArrive_wf h
  · exact execCalendarTimeout_wf h
  · exact execExchangePhaseStart_wf h
  · exact execSecondRoundPost_wf h
  · exact execCapacityPostTimeout_wf h
  · exact execBadgerRequestArrive_wf h
  · exact execSendBufferEmpty_wf h
  · exact execMailboxQueueDeposit_wf h
  · exact execMailboxLatestDeposit_wf h
  · exact execMboxArmEffect_wf h
  · exact execActiveMessageClaim_wf h
  · exact execMessageStart_wf h
  · exact execWindowReturnSend_wf h
  · exact execWindowReturnArrive_wf h
  · exact .next (gapCheck_wf h)
  · exact execLoopRegWrite_wf h
  · exact execLoopUnitService_wf h
  · exact .next (chunkFill_wf h)
  · exact execDctlResume_wf h
  · exact execDctlHalt_wf h
  · exact execDctlKill_wf h
  · exact execKilledGangEnd_wf h
  · exact execCellEnd_wf h
  · exact execTileFrontEndAccept_wf h
  · exact execCopyEngineBeat_wf h
  · exact execAtomicEngineServe_wf h
  · exact execFaultPacketDeposit_wf h
  · exact execCredLook_wf h
  · exact execCredFlush_wf h
  · exact execStagedCommit_wf h
  · exact configFlit_wf h
  · exact configUp_wf h
  · exact execCircuitBreak_wf h
  · exact execLinkTrained_wf h
  · exact execLinkTrainTimeout_wf h
  · exact execLinkRetry_wf h
  · exact execSwitchSlot_wf h
  · exact .next (receive_wf h)
  · exact execS2invDone_wf h
  · exact execBudgetCommit_wf h
  · exact execHbmServiceUnit_wf h
  · exact execRefreshTick_wf h
  · exact execSelfRefreshEntry_wf h
  · exact execLaneRepair_wf h
  · exact execRefreshEnd_wf h
  · exact execScrubWriteback_wf h
  · exact execSelfRefreshExit_wf h
  · exact execLaneTrainingEnd_wf h
  · exact execLaneErrorWindow_wf h
  · exact execHeldWriteCopy_wf h
  · exact execCkptPoolWriteDone_wf h
  · exact execRollbackStep_wf h
  · exact execCheckpointTake_wf h
  · exact execSaveAreaWriteback_wf h
  · exact execSwapStop_wf h
  · exact execSwapResume_wf h
  · exact execGangStart_wf h
  · exact execFlrDrainEnd_wf h
  · exact execLayoutFlip_wf h
  · exact execDispatchGang_wf h
  · exact execGangPinned_wf h
  · exact execSliceEnd_wf h
  · exact execForcedSwap_wf h
  · exact .next (othersEnd_wf h)
  · exact execJobRelease_wf h
  · exact execPseudoChannelTrainingEnd_wf h
  · exact execHbmRequest_wf h
  · exact execPwdogExpiry_wf h
  · exact execGatewaySend_wf h
  · exact execScratchpadBankAccess_wf h
  · exact execDieSramBankAccess_wf h
  · exact execRemoteRequestArrive_wf h
  · exact execGangStall_wf h
  · exact execBankRequest_wf h
  · exact execSramRequest_wf h
  · exact execAtomicRequest_wf h
  · exact execOutsideWrite_wf h
  · exact execProahSlot_wf h
  · exact execHostWindow_wf h
  · exact execMemoryError_wf h
  · exact execCacheError_wf h
  · exact execDenError_wf h
  · exact execAccError_wf h
  · exact execEntryError_wf h
  · exact execFlitError_wf h
  · exact .next (sendPacket_wf h _)
  · exact execLoopRequest_wf h
  · exact .next (lateAt_wf h)
  · exact execOwlFails_wf h
  · exact execOwlTakeover_wf h
  · exact .next (setPerms_wf h)

/-! ## The operations of Machine/Dispatch -/

theorem exec_wf {i : Instr} {s : State} (h : Memory.wf s = true) :
    NextWf (exec i s) := by
  unfold exec
  split
  · exact execAdd_wf h
  · exact execSub_wf h
  · exact execAnd_wf h
  · exact execOr_wf h
  · exact execXor_wf h
  · exact execSll_wf h
  · exact execSrl_wf h
  · exact execSra_wf h
  · exact execMul_wf h
  · exact execMulh_wf h
  · exact execMulhn_wf h
  · exact execMulhsn_wf h
  · exact execDiv_wf h
  · exact execDivn_wf h
  · exact execRem_wf h
  · exact execRemn_wf h
  · exact execMin_wf h
  · exact execMax_wf h
  · exact execMinn_wf h
  · exact execMaxn_wf h
  · exact execSlt_wf h
  · exact execSltn_wf h
  · exact execSeq_wf h
  · exact execSne_wf h
  · exact execClz_wf h
  · exact execCtz_wf h
  · exact execPopc_wf h
  · exact execBrev_wf h
  · exact execBswap_wf h
  · exact execSel_wf h
  · exact execLea_wf h
  · exact execRol_wf h
  · exact execRor_wf h
  · exact execAddi_wf h
  · exact execAndi_wf h
  · exact execOri_wf h
  · exact execXori_wf h
  · exact execSlli_wf h
  · exact execSrli_wf h
  · exact execSrai_wf h
  · exact execSlti_wf h
  · exact execSltni_wf h
  · exact execMuli_wf h
  · exact execLdi_wf h
  · exact execLdk_wf h
  · exact execAddpc_wf h
  · exact execBeq_wf h
  · exact execBne_wf h
  · exact execBlt_wf h
  · exact execBge_wf h
  · exact execBlo_wf h
  · exact execBhs_wf h
  · exact execBsig_wf h
  · exact execBemp_wf h
  · exact execJmp_wf h
  · exact execCall_wf h
  · exact execJmpr_wf h
  · exact execCallr_wf h
  · exact execRet_wf h
  · exact execTret_wf h
  · exact execSrr_wf h
  · exact execSrw_wf h
  · exact execSrxSwap_wf h
  · exact execSrxSet_wf h
  · exact execSrxClr_wf h
  · exact execSys_wf h
  · exact execBrk_wf h
  · exact execYield_wf h
  · exact execIdle_wf h
  · exact execHalt_wf h
  · exact execSigget_wf h
  · exact execSigset_wf h
  · exact execFenceAcq_wf h
  · exact execFenceRel_wf h
  · exact execFenceFull_wf h
  · exact execBarw_wf h
  · exact execBara_wf h
  · exact execBarwt_wf h
  · exact execGetchunk_wf h
  · exact execChunkset_wf h
  · exact execMovp_wf h
  · exact execCancelh_wf h
  · exact execLd8_wf h
  · exact execLd8n_wf h
  · exact execLd16_wf h
  · exact execLd16n_wf h
  · exact execLd32_wf h
  · exact execLd32n_wf h
  · exact execLd64_wf h
  · exact execLdt_wf h
  · exact execSt8_wf h
  · exact execSt16_wf h
  · exact execSt32_wf h
  · exact execSt64_wf h
  · exact execStt_wf h
  · exact execLdf_wf h
  · exact execLdw_wf h
  · exact execStf_wf h
  · exact execStff_wf h
  · exact execClre_wf h
  · exact execLdaq_wf h
  · exact execStrl_wf h
  · exact execAmoAdd_wf h
  · exact execAmoAnd_wf h
  · exact execAmoOr_wf h
  · exact execAmoXor_wf h
  · exact execAmoMin_wf h
  · exact execAmoMax_wf h
  · exact execAmoMinn_wf h
  · exact execAmoMaxn_wf h
  · exact execAmoSwap_wf h
  · exact execAmoFadd32_wf h
  · exact execAmoFadd64_wf h
  · exact execCas_wf h
  · exact execCinv_wf h
  · exact execCwb_wf h
  · exact execCwbi_wf h
  · exact execPref_wf h
  · exact execVadd_wf h
  · exact execVsub_wf h
  · exact execVmul_wf h
  · exact execVfma_wf h
  · exact execVmin_wf h
  · exact execVmax_wf h
  · exact execVand_wf h
  · exact execVor_wf h
  · exact execVxor_wf h
  · exact execVnot_wf h
  · exact execVshl_wf h
  · exact execVshr_wf h
  · exact execVsra_wf h
  · exact execVcmp_wf h
  · exact execVsel_wf h
  · exact execVdiv_wf h
  · exact execVsqrt_wf h
  · exact execVrsq_wf h
  · exact execVabs_wf h
  · exact execVneg_wf h
  · exact execVred_wf h
  · exact execVcvt_wf h
  · exact execVperm_wf h
  · exact execVbcast_wf h
  · exact execVld_wf h
  · exact execVst_wf h
  · exact execVldt_wf h
  · exact execVstt_wf h
  · exact execVgath_wf h
  · exact execVscat_wf h
  · exact execVmovx_wf h
  · exact execVins_wf h
  · exact execMand_wf h
  · exact execMor_wf h
  · exact execMxor_wf h
  · exact execMnot_wf h
  · exact execMpop_wf h
  · exact execVsigmin_wf h
  · exact execVsigset_wf h
  · exact execVscla_wf h
  · exact execVsclab_wf h
  · exact execFadd_wf h
  · exact execFsub_wf h
  · exact execFmul_wf h
  · exact execFdiv_wf h
  · exact execFsqrt_wf h
  · exact execFma_wf h
  · exact execFms_wf h
  · exact execFnma_wf h
  · exact execFmin_wf h
  · exact execFmax_wf h
  · exact execFeq_wf h
  · exact execFlt_wf h
  · exact execFle_wf h
  · exact execFunord_wf h
  · exact execFcvt_wf h
  · exact execFclass_wf h
  · exact execFcps_wf h
  · exact execFneg_wf h
  · exact execFabs_wf h
  · exact execFscl_wf h
  · exact execFrnd_wf h
  · exact execIssueTile_wf h
  · exact execIssueCopy_wf h
  · exact execIssueMem_wf h
  · exact execIssueXchg_wf h
  · exact execSend_wf h
  · exact execCreq_wf h
  · exact execCrel_wf h
  · exact execDpostDem_wf h
  · exact execDpostCap_wf h
  · exact execMboxQueue_wf h
  · exact execMboxLatest_wf h
  · exact execMboxClose_wf h
  · exact execLaunch_wf h
  · exact execFcinc_wf h
  · exact execFcwait_wf h
  · exact execFcincn_wf h
  · exact execTld_wf h
  · exact execTst_wf h
  · exact execTzero_wf h
  · exact execTmma_wf h
  · exact execTscal_wf h
  · exact execTcvt_wf h
  · exact execTtrn_wf h
  · exact execTadd_wf h
  · exact execTsig_wf h
  · exact execGacc_wf h
  · exact execGsub_wf h
  · exact execGschur_wf h
  · exact execGdamp_wf h
  · exact execGmean_wf h
  · exact execCpy_wf h
  · exact execCpys_wf h
  · exact execCpyz_wf h
  · exact execCred_wf h
  · exact execScrub_wf h
  · exact execScan_wf h
  · exact execXrun_wf h
  · exact execCircOpen_wf h
  · exact execCircWiden_wf h
  · exact execCircNarrow_wf h
  · exact execCircRelease_wf h
  · exact execBadgerRequestArrive_wf h
  · exact execSendBufferEmpty_wf h
  · exact execCompletion_wf h
  · exact execTileFrontEndAccept_wf h
  · exact execSwitchSlot_wf h
  · exact execMessageStart_wf h
  · exact execFlitReceive_wf h
  · exact execWindowReturnSend_wf h
  · exact execWindowReturnArrive_wf h
  · exact execConfigStageEntries_wf h
  · exact execConfigReadback_wf h
  · exact execConfigStageDepth_wf h
  · exact execConfigReply_wf h
  · exact execMgmtFlitRelay_wf h
  · exact execStagedCommit_wf h
  · exact execCircuitBreak_wf h
  · exact execLinkRetrainRequest_wf h
  · exact execLinkTrained_wf h
  · exact execLinkSignalLoss_wf h
  · exact execLinkTrainTimeout_wf h
  · exact execLinkRetry_wf h
  · exact execInterpkgFlitArrive_wf h
  · exact execTimeSyncExchange_wf h
  · exact execPortLockLoss_wf h
  · exact execPlaneRelay_wf h
  · exact execPlaneControlFlit_wf h
  · exact execWheelBudgetRestart_wf h
  · exact execGangStart_wf h
  · exact execCellEnd_wf h
  · exact execActiveMessageClaim_wf h
  · exact execLoopUnitService_wf h
  · exact execLoopRegWrite_wf h
  · exact execIntDivideFill_wf h
  · exact execFpDivideFill_wf h
  · exact execTimerExpiry_wf h
  · exact execInterruptEntry_wf h
  · exact execWindowSpill_wf h
  · exact execWindowFill_wf h
  · exact execRemoteRequestArrive_wf h
  · exact execRemoteReplyArrive_wf h
  · exact execGatewaySend_wf h
  · exact execScratchpadBankAccess_wf h
  · exact execDieSramBankAccess_wf h
  · exact execAtomicEngineServe_wf h
  · exact execMailboxQueueDeposit_wf h
  · exact execMailboxLatestDeposit_wf h
  · exact execMboxArmEffect_wf h
  · exact execCacheLineFill_wf h
  · exact execStoreLeave_wf h
  · exact execDbbEntryAck_wf h
  · exact execAcquireComplete_wf h
  · exact execReleaseComplete_wf h
  · exact execTlbWalkStart_wf h
  · exact execWalkComplete_wf h
  · exact execTlbinvWrite_wf h
  · exact execTlbinvDone_wf h
  · exact execHbmServiceUnit_wf h
  · exact execScrubWriteback_wf h
  · exact execBudgetCommit_wf h
  · exact execRefreshTick_wf h
  · exact execRefreshEnd_wf h
  · exact execSelfRefreshEntry_wf h
  · exact execSelfRefreshExit_wf h
  · exact execLaneRepair_wf h
  · exact execLaneTrainingEnd_wf h
  · exact execPostArrive_wf h
  · exact execRoundClose_wf h
  · exact execOwlCalendar_wf h
  · exact execCalendarArrive_wf h
  · exact execExchangePhaseStart_wf h
  · exact execExchangeRecordArrive_wf h
  · exact execSecondRoundPost_wf h
  · exact execCapacityPostTimeout_wf h
  · exact execOwlHeartbeat_wf h
  · exact execOwlFailover_wf h
  · exact execCalendarTimeout_wf h
  · exact execCredPacketArrive_wf h
  · exact execCredFlush_wf h
  · exact execCopyEngineBeat_wf h
  · exact execDispatchGang_wf h
  · exact execGangPinned_wf h
  · exact execDieSteal_wf h
  · exact execFenceCounterNotify_wf h
  · exact execLaunchEnqueue_wf h
  · exact execEnqueue_wf h
  · exact execSliceEnd_wf h
  · exact execForcedSwap_wf h
  · exact execSwapStop_wf h
  · exact execSaveAreaWriteback_wf h
  · exact execSwapResume_wf h
  · exact execPowerCapWithhold_wf h
  · exact execSyscfgWrite_wf h
  · exact execPwrcapWrite_wf h
  · exact execS2invGo_wf h
  · exact execS2invDone_wf h
  · exact execLstageWrite_wf h
  · exact execLcommitArm_wf h
  · exact execLayoutFlip_wf h
  · exact execJayReplayInput_wf h
  · exact execPackageReset_wf h
  · exact execGangBarrierArrive_wf h
  · exact execBarwtDeadline_wf h
  · exact execFaultPacketDeposit_wf h
  · exact execDctlResume_wf h
  · exact execDctlHalt_wf h
  · exact execDctlKill_wf h
  · exact execKilledGangEnd_wf h
  · exact execGangStall_wf h
  · exact execGkill_wf h
  · exact execCtxRetry_wf h
  · exact execCtxDiscard_wf h
  · exact execCheckpointTake_wf h
  · exact execHeldWriteCopy_wf h
  · exact execCheckpointDrop_wf h
  · exact execCheckpointRollback_wf h
  · exact execFlrRequest_wf h
  · exact execFlrDrainEnd_wf h
  · exact execPwdogKick_wf h
  · exact execPwdogExpiry_wf h
  · exact execPctlHold_wf h
  · exact execPctlClrlim_wf h
  · exact execRegisterWrite_wf h
  · exact execIllins_wf h
  · exact execFetchFault_wf h
  · exact execPseudoChannelTrainingEnd_wf h
  · exact execLaneErrorWindow_wf h
  · exact execCkptPoolWriteDone_wf h
  · exact execFirmwareUpdate_wf h

/-! ## The operations of Machine/Front -/

theorem refresh_wf {s : State} {k : Fin 16} (h : Memory.wf s = true) :
    Memory.wf (refresh s k) = true := by
  unfold refresh
  split
  · exact wf_ite (State.setRun_wf h) h
  · exact wf_ite (State.setRun_wf h) h
  · exact h

theorem prepare_wf {s : State} (h : Memory.wf s = true) :
    Memory.wf (prepare s) = true := foldl_wf (fun _ _ ht => refresh_wf ht) _ (foldl_wf (fun _ _ ht => feWalk_wf ht) _ h)

theorem noteFlags_wf {s : State} (h : Memory.wf s = true) :
    Memory.wf (noteFlags s) = true := by
  unfold noteFlags
  extract_lets f
  exact State.withClu_wf h

theorem countQuiet_wf {s : State} (h : Memory.wf s = true) :
    Memory.wf (countQuiet s) = true := wf_ite (State.at_wf (State.withCore_wf h)) (State.withCore_wf h)

theorem walkAll_wf {s : State} (h : Memory.wf s = true) :
    Memory.wf (walkAll s) = true := foldl_wf (fun _ _ ht => feWalkOf_wf ht) _ h

theorem keepTaken_wf {before s : State} {k : Fin 16} (h : Memory.wf s = true) :
    Memory.wf (keepTaken before s k) = true := wf_ite (State.modStrand_wf h) h

theorem notePriority_wf {s : State} (h : Memory.wf s = true) :
    Memory.wf (notePriority s) = true := by
  unfold notePriority
  extract_lets s1
  have hs1 : Memory.wf s1 = true := State.withHub_wf h
  split
  · exact State.withCore_wf hs1
  · exact hs1

theorem yieldOver_wf {before s : State} (h : Memory.wf s = true) :
    Memory.wf (yieldOver before s) = true := wf_ite (State.setRun_wf h) h

theorem settleWords_wf {before s : State} (h : Memory.wf s = true) :
    Memory.wf (settleWords before s) = true := drainRemote_wf (walkAll_wf (yieldOver_wf h))

theorem issuing_wf {s : State} {k : Fin 16} {w : BitVec 32} (h : Memory.wf s = true) : Memory.wf (issuing s k w) = true := wf_same h rfl

/-! ## The operations of Machine/Step -/

theorem runDue_wf {a : Act} {s : State} (h : Memory.wf s = true) : NextWf (runDue a s) := by
  unfold runDue
  extract_lets r
  have hr : NextWf r := by
    unfold r
    split
    · exact .ite .fault (exec_wf h)
    · exact runAct_wf h
  generalize r = o at hr
  cases o with
  | next t => exact .next (wf_ite (wf_same (hr t rfl) rfl) (hr t rfl))
  | fault e => exact .fault
  | refused e => exact .refused

theorem issue_wf {s : State} {k : Fin 16} (h : Memory.wf s = true) :
    NextWf (issue s k) := by
  unfold issue
  split
  · exact .next (stopped_wf (wf_same h (by rfl)) _)
  · exact execFetchFault_wf (wf_same h (by rfl))
  · split
    · exact exec_wf (issuing_wf h)
    · exact execIllins_wf (wf_same h (by rfl))

theorem endCycle_wf {b : State} {r : Host.Outcome State Fault Refusal} (h : NextWf r) : NextWf (endCycle b r) := by
  cases r with
  | next t => exact .next (tick_wf (settleWords_wf (h t rfl)))
  | fault e => exact .fault
  | refused e => exact .refused

theorem step_wf {s : State} (h : Memory.wf s = true) : NextWf (step s) := by
  have hp : Memory.wf (prepare s) = true := prepare_wf h
  unfold step
  split
  · exact runDue_wf (takeDue_wf ‹_› h)
  · extract_lets t
    split
    · exact execInterruptEntry_wf hp
    · split
      · exact .next (tick_wf (settleWords_wf hp))
      · exact endCycle_wf (issue_wf hp)

end Sys2Proof.Machine
end

section
/-! LAW. The planes of memory stay in canonical form (O5). -/

open Sys2Proof Sys2Proof.Machine

namespace Sys2Proof.Claims

/-- Settles O5: the step is one of the operations above, or runs them in turn. -/
theorem stepKeepsMemoryCanonical : Obligations.StepKeepsMemoryCanonical := by
  unfold Obligations.StepKeepsMemoryCanonical
  intro s t h e
  exact step_wf h t e

end Sys2Proof.Claims
end

section
/-! SUPPORT. Translation, walks and invalidation (O47): what a lookup finds, what an access's units leave alone, and how a walk and a removal end. -/

open Sys2Proof.Claims

namespace Sys2Proof.Machine

/-! ## What a lookup finds (R192-R196) -/

theorem lookup_tcm {va : Nat} (low : va < 0x20000) (s : State) (k : Fin 16) (w : Want) :
    lookup s k va w = .ok (if w = .fetch then some 1 else none, ⟨tcmPa s.core.gcore va, false, false⟩) := if_pos low

theorem lookup_rootless {s : State} {va : Nat} (high : 0x20000 ≤ va) (root : fld s.core.ptroot 42 13 = 0) (k : Fin 16) (w : Want) :
    lookup s k va w = .error (.freeze cXLATE (xlateExtra w ⟨0, none, 1, 1⟩) (word va)) :=
  (if_neg (Nat.not_lt.mpr high)).trans (if_pos root)

theorem lookup_found {s : State} {va : Nat} {e : TlbEntry} (high : 0x20000 ≤ va) (root : fld s.core.ptroot 42 13 ≠ 0)
    (found : tlbFind s s.asid s.vmid va = some e) (k : Fin 16) (w : Want) :
    lookup s k va w = .ok (permStage e w (!(s.strand k).kernel), ⟨e.pa va, e.nc, e.ro⟩) :=
  (if_neg (Nat.not_lt.mpr high)).trans ((if_neg root).trans (by rw [found]))

theorem lookup_miss {s : State} {k : Fin 16} {va : Nat} (high : 0x20000 ≤ va) (root : fld s.core.ptroot 42 13 ≠ 0)
    (absent : tlbFind s s.asid s.vmid va = none) (walked : (s.strand k).walked = []) (w : Want) :
    lookup s k va w = .error (.miss (va / 2 ^ 13)) :=
  (if_neg (Nat.not_lt.mpr high)).trans ((if_neg root).trans (by rw [absent]; simp [walked]))

theorem translate_of_lookup {s : State} {k : Fin 16} {va : Nat} {w : Want} {r : Res (Option Nat × Xlat)} (h : lookup s k va w = r) :
    translate s k va w = (r >>= fun x => match x.1 with
      | some st => .error (permStop w va st)
      | none => .ok x.2) := by
  subst h
  rfl

theorem tlbFind_utlb {s : State} {e : TlbEntry} {va : Nat} (only : s.core.utlb = [e]) (asid : e.asid = s.asid) (vmid : e.vmid = s.vmid)
    (low : e.vbase ≤ va) (high : va < e.vbase + 2 ^ e.bits) : tlbFind s s.asid s.vmid va = some e := by
  have covers : e.covers s.asid s.vmid va = true := by simp [TlbEntry.covers, asid, vmid, low, high]
  simp [tlbFind, only, covers]

theorem tlbFind_empty {s : State} (utlb : s.core.utlb = []) (tlb : s.clu.tlb = []) (asid vmid : BitVec 16) (va : Nat) :
    tlbFind s asid vmid va = none := by
  simp [tlbFind, utlb, tlb]

/-- Stage 1's right of an entry for an access, and stage 2's (R193, R194). -/
def rightOf (e : TlbEntry) : Want → Bool
  | .read => e.r
  | .write => e.w && !e.ro
  | .fetch => e.x

def rightOf2 (e : TlbEntry) : Want → Bool
  | .read => e.r2
  | .write => e.w2
  | .fetch => e.x2

theorem permStage_eq (e : TlbEntry) (w : Want) (kernel : Bool) :
    permStage e w (!kernel) = if rightOf e w && (kernel || e.u) then (if rightOf2 e w then none else some 2) else some 1 := by
  have eq : permStage e w (!kernel) =
      if !rightOf e w || (!kernel && !e.u) then some 1 else if !rightOf2 e w then some 2 else none := by cases w <;> rfl
  rw [eq]
  cases rightOf e w <;> cases rightOf2 e w <;> cases kernel <;> cases e.u <;> rfl

/-! ## What units asked of HBM leave alone (R218) -/

/-- Nothing but the requests at the controllers, the agenda and the count of free choices differs. -/
def UnitsOnly (s t : State) : Prop := t = { s with fresh := t.fresh, agenda := t.agenda, hbm := t.hbm }

theorem UnitsOnly.trans {s t u : State} (h : UnitsOnly s t) (g : UnitsOnly t u) : UnitsOnly s u := by
  unfold UnitsOnly at *
  rw [g, h]

theorem UnitsOnly.ite {s a b : State} {c : Prop} {_ : Decidable c} (ha : UnitsOnly s a) (hb : UnitsOnly s b) :
    UnitsOnly s (if c then a else b) := by split <;> assumption

theorem UnitsOnly.sameMemory {s t : State} (h : UnitsOnly s t) : SameMemory s t := by
  rw [h]
  exact sameMemory_of rfl rfl rfl rfl

theorem UnitsOnly.clu {s t : State} (h : UnitsOnly s t) : t.clu = s.clu := by rw [h]
theorem UnitsOnly.core {s t : State} (h : UnitsOnly s t) : t.core = s.core := by rw [h]
theorem UnitsOnly.die {s t : State} (h : UnitsOnly s t) : t.die = s.die := by rw [h]
theorem UnitsOnly.hub {s t : State} (h : UnitsOnly s t) : t.hub = s.hub := by rw [h]
theorem UnitsOnly.now {s t : State} (h : UnitsOnly s t) : t.now = s.now := by rw [h]
theorem UnitsOnly.cur {s t : State} (h : UnitsOnly s t) : t.cur = s.cur := by rw [h]

theorem State.atOnce_unitsOnly (s : State) (t : Nat) (a : Act) : UnitsOnly s (s.atOnce t a) := .ite rfl rfl

theorem State.later_unitsOnly (s : State) (bound : Option Nat) (a : Act) : UnitsOnly s (s.later bound a) := rfl

theorem modPc_unitsOnly (s : State) (p : Nat) (f : Pc → Pc) : UnitsOnly s (modPc s p f) := rfl

theorem beginExit_unitsOnly (s : State) (p : Fin 512) (at_ : Nat) : UnitsOnly s (beginExit s p at_) := .ite rfl rfl

theorem hbmPushAt_unitsOnly (s : State) (p : Nat) (r : HReq) : UnitsOnly s (hbmPushAt s p r) := by
  unfold hbmPushAt
  extract_lets b t q
  have ht : UnitsOnly s t := modPc_unitsOnly s p _
  split
  · extract_lets x v
    have hv : UnitsOnly s v := .ite (ht.trans (beginExit_unitsOnly t _ _)) ht
    exact .ite hv (hv.trans (v.atOnce_unitsOnly _ _))
  · exact ht

theorem hbmAsk_unitsOnly (s : State) (ticket : Nat) (h : Option (Fin 128)) (cls pa units : Nat) (w : Bool) :
    UnitsOnly s (hbmAsk s ticket h cls pa units w) :=
  UnitsOnly.trans (t := { s with fresh := s.fresh + 1 }) rfl (hbmPushAt_unitsOnly _ _ _)

theorem askLines_unitsOnly (s : State) (ticket : Nat) (h : Option (Fin 128)) (cls : Nat) (w : Bool) (pas : List Nat) :
    UnitsOnly s (askLines s ticket h cls w pas) :=
  foldl_rel (R := UnitsOnly) (fun _ => rfl) UnitsOnly.trans (fun t _ => hbmAsk_unitsOnly t _ _ _ _ _ _) _ s

/-! ## Walks (R195, R196) -/

theorem exec_tlbWalkStart (s : State) (vpn : Nat) (k : Fin 16) : exec (.tlbWalkStart vpn k) s = execTlbWalkStart vpn k s := rfl
theorem exec_walkComplete (s : State) (vpn : Nat) : exec (.walkComplete vpn) s = execWalkComplete vpn s := rfl
theorem exec_tlbinvWrite (s : State) (k : Fin 16) (v : Word) : exec (.tlbinvWrite k v) s = .next (tlbRemove s k v) := rfl

theorem newWalk_clu (s : State) (vpn : Nat) (ks : List (Fin 16)) :
    (newWalk s vpn ks).clu = { s.clu with walks := s.clu.walks ++ [⟨vpn, s.asid, s.vmid, ks, s.ticket, false⟩] } := rfl

theorem newWalk_sameMemory (s : State) (vpn : Nat) (ks : List (Fin 16)) : SameMemory s (newWalk s vpn ks) := sameMemory_of rfl rfl rfl rfl

/-- The walk of a new miss ends at a later time. -/
theorem newWalk_ends (s : State) (vpn : Nat) (ks : List (Fin 16)) : ∃ n, s.now < n ∧ (n, Act.walkComplete vpn) ∈ (newWalk s vpn ks).agenda :=
  State.mem_later _ none (.walkComplete vpn)

theorem tlbWalkStart_begins {s : State} (none : s.clu.walks = []) (vpn : Nat) (k : Fin 16) :
    exec (.tlbWalkStart vpn k) s = .next (newWalk s vpn [k]) := by
  simp [exec_tlbWalkStart, execTlbWalkStart, none]

theorem tlbWalkStart_joins {s : State} {vpn : Nat} (h : s.clu.walks.any (sameWalk s vpn) = true) (k : Fin 16) :
    exec (.tlbWalkStart vpn k) s = .next (s.withClu fun u => { u with walks := u.walks.map (joinWalk s vpn k) }) := if_pos h

theorem tlbWalkStart_waits {s : State} {vpn : Nat} (other : ∀ w ∈ s.clu.walks, sameWalk s vpn w = false) (full : 16 ≤ s.clu.walks.length)
    (k : Fin 16) : exec (.tlbWalkStart vpn k) s = .next (s.at (s.now + 1) (.tlbWalkStart vpn k)) := by
  have no : s.clu.walks.any (sameWalk s vpn) = false := List.any_eq_false.mpr fun w hw => by simp [other w hw]
  simp [exec_tlbWalkStart, execTlbWalkStart, no, Nat.not_lt.mpr full, retry]

/-- A walk that a miss joins is still the page's, and waits for that miss too. -/
theorem joinWalk_same {s : State} {vpn : Nat} {w : Walk} (h : sameWalk s vpn w = true) (k : Fin 16) :
    sameWalk s vpn (joinWalk s vpn k w) = true ∧ ∀ j, j ∈ (joinWalk s vpn k w).waiters ↔ j ∈ w.waiters ∨ j = k := by
  by_cases hk : k ∈ w.waiters
  · have e : joinWalk s vpn k w = w := by simp [joinWalk, hk]
    rw [e]
    exact ⟨h, fun j => ⟨.inl, fun hj => hj.elim id (· ▸ hk)⟩⟩
  · have e : joinWalk s vpn k w = { w with waiters := w.waiters ++ [k] } := by simp [joinWalk, h, hk]
    rw [e]
    exact ⟨h, fun j => by simp⟩

/-! ## The end of a walk (R196, R525) -/

section
variable {s : State} {vpn n : Nat} {k : Fin 16} {begun : Bool}

theorem find_walk (only : s.clu.walks = [⟨vpn, s.asid, s.vmid, [k], n, begun⟩]) :
    s.clu.walks.find? (·.vpn = vpn) = some ⟨vpn, s.asid, s.vmid, [k], n, begun⟩ := by simp [only]

theorem walkBehind_only (only : s.clu.walks = [⟨vpn, s.asid, s.vmid, [k], n, begun⟩]) :
    walkBehind s ⟨vpn, s.asid, s.vmid, [k], n, begun⟩ = false := by simp [walkBehind, only]

theorem walkComplete_waits (only : s.clu.walks = [⟨vpn, s.asid, s.vmid, [k], n, begun⟩]) (pending : hbmPending s n = true) :
    exec (.walkComplete vpn) s = .next (s.at (s.now + 1) (.walkComplete vpn)) := by
  simp [exec_walkComplete, execWalkComplete, find_walk only, pending, retry]

theorem walkComplete_taken (only : s.clu.walks = [⟨vpn, s.asid, s.vmid, [k], n, false⟩]) (served : hbmPending s n = false) :
    exec (.walkComplete vpn) s = .next (takeWalk s ⟨vpn, s.asid, s.vmid, [k], n, false⟩) := by
  simp [exec_walkComplete, execWalkComplete, find_walk only, walkBehind_only only, served]

theorem takeWalk_clu (s : State) (w : Walk) :
    (takeWalk s w).clu = { s.clu with walks := s.clu.walks.map fun x => if x = w then { x with started := true } else x } :=
  (askLines_unitsOnly _ _ _ _ _ _).clu

theorem takeWalk_sameMemory (s : State) (w : Walk) : SameMemory s (takeWalk s w) :=
  have same : SameMemory s (s.withClu fun u => { u with walks := u.walks.map fun x => if x = w then { x with started := true } else x }) :=
    sameMemory_of rfl rfl rfl rfl
  same.trans ((askLines_unitsOnly _ _ _ _ _ _).trans (State.later_unitsOnly _ _ _)).sameMemory

theorem takeWalk_ends (s : State) (w : Walk) : ∃ m, s.now < m ∧ (m, Act.walkComplete w.vpn) ∈ (takeWalk s w).agenda := by
  have now := (askLines_unitsOnly (s.withClu fun u => { u with walks := u.walks.map fun x => if x = w then { x with started := true } else x })
    w.ticket none (loadClass s) false (walkReads s s.func s.core.ptroot (w.vpn * 2 ^ 13))).now
  obtain ⟨m, hm, mem⟩ := State.mem_later (askLines (s.withClu fun u => { u with walks := u.walks.map fun x =>
    if x = w then { x with started := true } else x }) w.ticket none (loadClass s) false (walkReads s s.func s.core.ptroot (w.vpn * 2 ^ 13)))
    none (.walkComplete w.vpn)
  exact ⟨m, now ▸ hm, mem⟩

/-- The machine when the one walk there was is over. -/
def walksGone (s : State) : State := s.withClu fun u => { u with walks := [] }

/-- What a walk's fault records: a table word it read that is poisoned (R525). -/
def faultRecord (s : State) (vpn : Nat) : State :=
  match (walkReads s s.func s.core.ptroot (vpn * 2 ^ 13)).find? (poisoned s) with
  | some pa => uncorrRecord (walksGone s) pa
  | none => walksGone s

/-- A walk that finds its page: no walk is left, and both levels hold the entry. -/
theorem walkComplete_found (only : s.clu.walks = [⟨vpn, s.asid, s.vmid, [k], n, true⟩]) (served : hbmPending s n = false) {e : TlbEntry}
    (walk : walkVa s s.func s.core.ptroot (vpn * 2 ^ 13) = .ok e) :
    exec (.walkComplete vpn) s = .next (wakeMiss (tlbFill (walksGone s) e) k none) := by
  rw [exec_walkComplete]
  unfold execWalkComplete
  rw [find_walk only]
  simp only [served, walk]
  simp [only, walksGone, State.withClu] <;> rfl

theorem walkComplete_fault (only : s.clu.walks = [⟨vpn, s.asid, s.vmid, [k], n, true⟩]) (served : hbmPending s n = false) {f : WalkFault}
    (walk : walkVa s s.func s.core.ptroot (vpn * 2 ^ 13) = .error f) :
    exec (.walkComplete vpn) s = .next (wakeMiss (faultRecord s vpn) k (some f)) := by
  rw [exec_walkComplete]
  unfold execWalkComplete
  rw [find_walk only]
  simp only [served, walk]
  simp [only, faultRecord, walksGone, State.withClu] <;> rfl

end

theorem wakeMiss_strand {s : State} {k : Fin 16} (waits : (s.strand k).run = .stalled .translation) (f : Option WalkFault) :
    ((wakeMiss s k f).strand k).run = .ready ∧ ((wakeMiss s k f).strand k).walked = (s.strand k).walked ++ f.toList := by
  unfold wakeMiss
  rw [State.modStrand_strand_same, if_pos waits]
  exact ⟨rfl, rfl⟩

theorem mem_tlbAdd (cap pick : Nat) (es : List TlbEntry) (e : TlbEntry) : e ∈ tlbAdd cap pick es e := by
  unfold tlbAdd
  split <;> simp

/-- A level that is full keeps its size. -/
theorem length_tlbAdd {cap : Nat} (pos : 0 < cap) (pick : Nat) (es : List TlbEntry) (e : TlbEntry) :
    (tlbAdd cap pick es e).length ≤ max cap es.length := by
  have := Nat.mod_lt pick pos
  unfold tlbAdd
  split
  · simp
    omega
  · rw [List.length_append, List.length_eraseIdx_of_lt (by omega)]
    simp
    omega

/-! ## An error record leaves the core and the cluster (R478) -/

theorem ringAppend_clu (s : State) (a : Nat) (ws : List Word) : (ringAppend s a ws).1.clu = s.clu := by
  unfold ringAppend
  dsimp only
  split
  · exact foldl_keeps State.clu (fun t i => by rw [putWords_planes t]) _ s
  · rfl

theorem setFstat_clu (s : State) (f b : Nat) : (setFstat s f b).clu = s.clu := by
  unfold setFstat
  dsimp only
  split <;> rfl

theorem uncorrRecord_clu (s : State) (pa : Nat) : (uncorrRecord s pa).clu = s.clu := by
  unfold uncorrRecord
  split
  · exact (foldl_keeps State.clu (fun t f => setFstat_clu t f _) _ _).trans (ringAppend_clu s _ _)
  · exact (setFstat_clu _ _ _).trans (ringAppend_clu s _ _)

theorem uncorrRecord_core (s : State) (pa : Nat) : (uncorrRecord s pa).core = s.core := by
  unfold uncorrRecord
  split
  · exact (foldl_keeps State.core (fun t f => setFstat_core t f _) _ _).trans (errRecord_core s _ _ _ _ _ _ _ _)
  · exact (setFstat_core _ _ _).trans (errRecord_core s _ _ _ _ _ _ _ _)

theorem faultRecord_core (s : State) (vpn : Nat) : (faultRecord s vpn).core = s.core := by
  unfold faultRecord
  split
  · exact uncorrRecord_core _ _
  · rfl

theorem faultRecord_clu (s : State) (vpn : Nat) : (faultRecord s vpn).clu = (walksGone s).clu := by
  unfold faultRecord
  split
  · exact uncorrRecord_clu _ _
  · rfl

/-- With no poisoned table word there is nothing to record. -/
theorem faultRecord_clean {s : State} {vpn : Nat}
    (clean : ∀ pa ∈ walkReads s s.func s.core.ptroot (vpn * 2 ^ 13), poisoned s pa = false) : faultRecord s vpn = walksGone s := by
  have none : (walkReads s s.func s.core.ptroot (vpn * 2 ^ 13)).find? (poisoned s) = none :=
    List.find?_eq_none.mpr fun pa h => by simp [clean pa h]
  unfold faultRecord
  rw [none]

/-! ## Invalidation (R198) -/

theorem foldl_at_agendaOnly {α : Type} (f : α → Act) (xs : List α) (s : State) : AgendaOnly s (xs.foldl (fun t x => t.at t.now (f x)) s) :=
  foldl_rel (R := AgendaOnly) (fun _ => rfl) AgendaOnly.trans (fun t x => (rfl : AgendaOnly t (t.at t.now (f x)))) xs s

theorem foldl_at_keeps {α : Type} {e : Nat × Act} (f : α → Act) (xs : List α) {s : State} (h : e ∈ s.agenda) :
    e ∈ (xs.foldl (fun t x => t.at t.now (f x)) s).agenda := by
  induction xs generalizing s with
  | nil => exact h
  | cons x xs ih => exact ih (by simp [State.at, h])

/-- What is asked in turn for this cycle stands in the agenda. -/
theorem mem_foldl_at {α : Type} (f : α → Act) {xs : List α} {x : α} (h : x ∈ xs) (s : State) :
    (s.now, f x) ∈ (xs.foldl (fun t x => t.at t.now (f x)) s).agenda := by
  induction xs generalizing s with
  | nil => cases h
  | cons y xs ih =>
    rcases List.mem_cons.mp h with rfl | h
    · exact foldl_at_keeps f xs (by simp [State.at])
    · exact ih h (s.at s.now (f y))

/-- The misses whose walks an invalidation discards. -/
def missesOf (s : State) : List (Nat × Fin 16) := s.clu.walks.flatMap fun w => w.waiters.map fun j => (w.vpn, j)

def missAgain (w : Nat × Fin 16) : Act := .tlbWalkStart w.1 w.2

/-- The machine with the matching entries and all walks gone. -/
def tlbGone (s : State) (vmid : BitVec 16) (v : Word) : State :=
  (s.withCore fun c => { c with
    utlb := c.utlb.filter fun e => !tlbMatches vmid v e, table := vmap (fun (e : CEntry) => { e with missed := false }) c.table }).withClu fun u =>
    { u with tlb := u.tlb.filter fun e => !tlbMatches vmid v e, walks := [] }

@[simp] theorem tlbGone_now (s : State) (vmid : BitVec 16) (v : Word) : (tlbGone s vmid v).now = s.now := by simp [tlbGone]

theorem tlbGone_sameMemory (s : State) (vmid : BitVec 16) (v : Word) : SameMemory s (tlbGone s vmid v) := by
  unfold tlbGone
  exact sameMemory_of rfl rfl rfl rfl

theorem tlbDrop_eq (s : State) (vmid : BitVec 16) (v : Word) :
    tlbDrop s vmid v = (missesOf s).foldl (fun t w => t.at t.now (missAgain w)) (tlbGone s vmid v) := rfl

theorem tlbDrop_agendaOnly (s : State) (vmid : BitVec 16) (v : Word) : AgendaOnly (tlbGone s vmid v) (tlbDrop s vmid v) :=
  foldl_at_agendaOnly missAgain (missesOf s) (tlbGone s vmid v)

theorem tlbDrop_asks {s : State} {w : Walk} {j : Fin 16} (hw : w ∈ s.clu.walks) (hj : j ∈ w.waiters) (vmid : BitVec 16) (v : Word) :
    (s.now, Act.tlbWalkStart w.vpn j) ∈ (tlbDrop s vmid v).agenda := by
  have miss : (w.vpn, j) ∈ missesOf s := List.mem_flatMap.mpr ⟨w, hw, List.mem_map.mpr ⟨j, hj, rfl⟩⟩
  have asked := mem_foldl_at missAgain miss (tlbGone s vmid v)
  rwa [← tlbDrop_eq, tlbGone_now] at asked

theorem tlbRemove_sameMemory (s : State) (k : Fin 16) (v : Word) : SameMemory s (tlbRemove s k v) := by
  have drop : SameMemory s (tlbDrop s s.vmid v) := (tlbGone_sameMemory s s.vmid v).trans (AgendaOnly.sameMemory (tlbDrop_agendaOnly s s.vmid v))
  exact drop.trans (sameMemory_of rfl rfl rfl rfl)

theorem tlbRemove_utlb (s : State) (k : Fin 16) (v : Word) :
    (tlbRemove s k v).core.utlb = s.core.utlb.filter fun e => !tlbMatches s.vmid v e :=
  congrArg Core.utlb (tlbDrop_agendaOnly s s.vmid v).core

theorem tlbRemove_clu (s : State) (k : Fin 16) (v : Word) : (tlbRemove s k v).clu = (tlbGone s s.vmid v).clu := by
  have only := tlbDrop_agendaOnly s s.vmid v
  have clu : (tlbDrop s s.vmid v).clu = (tlbGone s s.vmid v).clu := by rw [only]
  exact clu

theorem removalCycles_bounds (s : State) : 2 ≤ removalCycles s ∧ removalCycles s ≤ 64 := by
  unfold removalCycles
  omega

end Sys2Proof.Machine
end

section
/-! LAW. Translation, walks and invalidation (O47). -/

open Sys2Proof.Machine

namespace Sys2Proof.Claims

/-- What an entry of the micro-TLB says of an access. -/
theorem translate_entry {s : State} {va : Nat} {e : TlbEntry} (high : 0x20000 ≤ va) (root : fld s.core.ptroot 42 13 ≠ 0)
    (found : tlbFind s s.asid s.vmid va = some e) (k : Fin 16) (w : Want) :
    translate s k va w = if rightOf e w && ((s.strand k).kernel || e.u) then
      (if rightOf2 e w then .ok ⟨e.pa va, e.nc, e.ro⟩ else .error (permStop w va 2)) else .error (permStop w va 1) := by
  rw [translate_of_lookup (lookup_found high root found k w), permStage_eq]
  split
  · split <;> rfl
  · rfl

/-- Settles O47: translation by the own TCM, the TLBs and a walk's fault, the life of a walk, and an invalidation. -/
theorem translationFindsWalksAndInvalidates : Obligations.TranslationFindsWalksAndInvalidates := by
  refine ⟨fun s k va w _ => ⟨fun low data => ?tcm, fun low fetch => ?fetch, fun high root => ?rootless, fun high root u t walked => ?miss,
      fun e high root only asid vmid from_ to_ => ?entry⟩,
    fun s vpn k none => ?begins, fun s vpn k w only same => ?joins, fun s vpn k other full => tlbWalkStart_waits other full k,
    fun s vpn n k begun only => ⟨walkComplete_waits only, fun served started => ?taken⟩,
    fun s vpn n k only served waits => ⟨fun e walk => ?found, fun f walk => ?fault⟩,
    fun s k v => ?removes, fun s k waits => congrArg Host.Outcome.next (if_pos waits)⟩
  case tcm => rw [translate_of_lookup (lookup_tcm low s k w), if_neg data]; rfl
  case fetch => subst fetch; rw [translate_of_lookup (lookup_tcm low s k .fetch)]; rfl
  case rootless => rw [translate_of_lookup (lookup_rootless high root k w)]; cases w <;> rfl
  case miss => rw [translate_of_lookup (lookup_miss high root (tlbFind_empty u t _ _ _) walked w)]; rfl
  case entry =>
    have h := translate_entry high root (tlbFind_utlb only asid vmid from_ to_) k w
    intro right right2 may
    have r : right = rightOf e w := by cases w <;> rfl
    have r2 : right2 = rightOf2 e w := by cases w <;> rfl
    have m : may = (rightOf e w && ((s.strand k).kernel || e.u)) := congrArg (· && ((s.strand k).kernel || e.u)) r
    refine ⟨fun yes yes2 => ?_, fun no => ?_, fun yes no2 => ?_⟩
    · rw [h, ← m, if_pos yes, if_pos (r2.symm.trans yes2)]; rfl
    · rw [h, ← m, if_neg (by simp [no])]; rfl
    · rw [h, ← m, if_pos yes, if_neg (by simp [r2.symm.trans no2])]; rfl
  case begins =>
    obtain ⟨n, late, ends⟩ := newWalk_ends s vpn [k]
    refine ⟨_, n, tlbWalkStart_begins none vpn k, newWalk_sameMemory s vpn [k], ?_, late, ends⟩
    rw [newWalk_clu, none]; rfl
  case joins =>
    refine ⟨_, tlbWalkStart_joins (by simp [only, same]) k, sameMemory_of rfl rfl rfl rfl, rfl, joinWalk s vpn k w, ?_, joinWalk_same same k⟩
    simp [only]
  case taken =>
    subst started
    obtain ⟨m, late, ends⟩ := takeWalk_ends s ⟨vpn, s.asid, s.vmid, [k], n, false⟩
    refine ⟨_, m, walkComplete_taken only served, takeWalk_sameMemory _ _, ?_, late, ends⟩
    rw [takeWalk_clu, only]; simp
  case found =>
    obtain ⟨ready, walked⟩ := wakeMiss_strand (s := tlbFill (walksGone s) e) waits none
    exact ⟨_, walkComplete_found only served walk, sameMemory_of rfl rfl rfl rfl, mem_tlbAdd _ _ _ _, mem_tlbAdd _ _ _ _,
      length_tlbAdd (by decide) _ _ _, ready, walked.trans (List.append_nil _), rfl⟩
  case fault =>
    have core := faultRecord_core s vpn
    have strand : (faultRecord s vpn).strand k = s.strand k := congrArg (fun c : Core => c.strands[k]) core
    obtain ⟨ready, walked⟩ := wakeMiss_strand ((congrArg Strand.run strand).trans waits) (some f)
    refine ⟨_, walkComplete_fault only served walk, fun clean => ?_, ready, walked.trans (by rw [strand]; rfl), (congrArg Core.utlb core :),
      (congrArg Cluster.tlb (faultRecord_clu s vpn) :)⟩
    rw [faultRecord_clean clean]
    exact sameMemory_of rfl rfl rfl rfl
  case removes =>
    obtain ⟨low, high⟩ := removalCycles_bounds s
    refine ⟨_, removalCycles s, exec_tlbinvWrite s k v, tlbRemove_sameMemory s k v, low, high, List.mem_append_right _ (by simp), ?_, fun e => ?_,
      fun e => ?_, fun w hw j hj => List.mem_append_left _ (tlbDrop_asks hw hj s.vmid v)⟩
    · rw [tlbRemove_clu]; rfl
    · rw [tlbRemove_utlb]; simp
    · rw [tlbRemove_clu]; simp [tlbGone]

end Sys2Proof.Claims
end

section
/-! SUPPORT. A request of another core at the TCM unit (O48), and a plane that lists one address twice. -/

namespace Sys2Proof.Machine

theorem exec_remoteRequestArrive (s : State) (q : RemoteReq) : exec (.remoteRequestArrive q) s = execRemoteRequestArrive q s := rfl

/-- A request that nothing comes before is served in the cycle it arrives (R176). -/
theorem remoteRequest_served {s t : State} {q : RemoteReq} (first : lowerArrives s q = false) (empty : s.core.remoteQ = [])
    (served : serveRemote s q = some t) : exec (.remoteRequestArrive q) s = .next t := by
  rw [exec_remoteRequestArrive]
  unfold execRemoteRequestArrive
  simp [first, empty, served, done]

/-- Where the memory of a die begins, the size of the HBM says nothing. -/
theorem homeOf_above {pa : Nat} (above : ¬ pa < Config.sramBase) (n m : Nat) : homeOf n pa = homeOf m pa := by
  unfold homeOf
  rw [if_neg above, if_neg above]

theorem home_of_homeOf {s : State} {pa c o : Nat} (h : homeOf (hbmSize s) pa = .tcm c o) : home s pa = .tcm c o := by
  unfold home
  rw [h]

theorem tcmPa_above (core off : Nat) : ¬ tcmPa core off < Config.sramBase := by
  simp only [tcmPa, Config.sramBase, Config.tcmBase]
  omega

theorem home_tcmPa (s : State) {core off : Nat} (hc : core < 12288) (ho : off < 0x20000) : home s (tcmPa core off) = .tcm core off :=
  home_of_homeOf ((homeOf_above (tcmPa_above core off) _ _).trans (homeOf_tcmPa hc ho))

theorem ownTcm_of_home {s : State} {pa c o : Nat} (h : home s pa = .tcm c o) : ownTcm s pa = decide (c = s.core.gcore) := by
  unfold ownTcm
  rw [h]

theorem tcmPa_offset (core off : Nat) : tcmPa core (tcmPa core off - tcmPa core 0) = tcmPa core off := by
  unfold tcmPa
  omega

/-- The word of an own TCM address is set full at its home (R389). -/
theorem fillHome_own {s : State} {off : Nat} (core : s.core.gcore < 12288) (inside : off < 0x20000) :
    fillHome s (tcmPa s.core.gcore off) = setFe s (tcmPa s.core.gcore off) true := by
  have own : ownTcm s (tcmPa s.core.gcore off) = true := (ownTcm_of_home (home_tcmPa s core inside)).trans (decide_eq_true rfl)
  rw [fillHome, if_pos own, fillWord, tcmPa_offset]

/-- Writing what an unlisted address reads as unlists an address once; listed twice it still reads as its second entry. -/
theorem cellGet_cellSet_doubled (d v w : BitVec 8) (a : Nat) : cellGet d (cellSet d [(a, v), (a, w)] a d) a = w := by
  simp [cellSet, cellGet]

theorem feAt_queueReply (s : State) (n pa : Nat) : feAt (queueReply s n) pa = feAt s pa := rfl

theorem setFe_fe (s : State) (pa : Nat) (full : Bool) : (setFe s pa full).fe = cellSet feDflt s.fe (wordNo pa) (if full then 1 else 0) := rfl

/-- The reset state with nothing due, but that the full/empty plane lists the first word of core 0's TCM twice as empty: a plane out of canonical form. -/
def bitTwice : State := { State.reset with agenda := [], fe := [(wordNo (tcmPa 0 0), 0), (wordNo (tcmPa 0 0), 0)] }

theorem bitTwice_core : bitTwice.core = Core.reset := by unfold bitTwice State.reset; rfl

/-- An STFF of another core to that word, and the machine once it is served. -/
def stffFirst : RemoteReq := ⟨0, .stff, 0, 8, 0, 0, 0x7F⟩
def bitTwiceAfter : State := queueReply (fillHome (performStore bitTwice ⟨tcmPa 0 0, 0, 0xFF, 0x7F⟩) (tcmPa 0 0)) 1

theorem serveRemote_stffFirst : serveRemote bitTwice stffFirst = some bitTwiceAfter := by
  have core : bitTwice.core.gcore = 0 := by rw [bitTwice_core]; rfl
  unfold serveRemote stffFirst bitTwiceAfter
  rw [core]

/-- The word still reads as empty. -/
theorem feAt_bitTwiceAfter : feAt bitTwiceAfter (tcmPa 0 0) = false := by
  have core : bitTwice.core.gcore = 0 := by rw [bitTwice_core]; rfl
  have stored := (performStore_tcm (s := bitTwice) (off := 0) (by rw [core]; decide) (by decide) 0 0x7F).2
  rw [core] at stored
  have core' : (performStore bitTwice ⟨tcmPa 0 0, 0, 0xFF, 0x7F⟩).core.gcore = 0 := by rw [(performStore_planes bitTwice _).core, core]
  have filled := fillHome_own (s := performStore bitTwice ⟨tcmPa 0 0, 0, 0xFF, 0x7F⟩) (off := 0) (by rw [core']; decide) (by decide)
  rw [core'] at filled
  have listed : bitTwice.fe = [(wordNo (tcmPa 0 0), 0), (wordNo (tcmPa 0 0), 0)] := by rw [bitTwice]
  rw [bitTwiceAfter, feAt_queueReply, filled, feAt, setFe_fe, stored, listed, if_pos rfl, cellGet_cellSet_doubled]
  rfl

end Sys2Proof.Machine
end

section
/-! LAW. What O48 says of STFF needs the planes in canonical form. -/

open Sys2Proof.Machine

namespace Sys2Proof.Claims

/-- Refutes O48: it asks that the word of an STFF reads as full in every state, also where the full/empty plane is not in canonical form. In
`bitTwice` the plane lists the word twice as empty; the STFF unlists it once, and it still reads as empty. -/
theorem not_unitsServeRequests : ¬ Obligations.UnitsServeRequests := by
  unfold Obligations.UnitsServeRequests
  rintro ⟨-, -, requests, -⟩
  have first : lowerArrives bitTwice stffFirst = false := by simp [lowerArrives, bitTwice]
  have core : bitTwice.core.gcore = 0 := by rw [bitTwice_core]; rfl
  have empty : bitTwice.core.remoteQ = [] := by rw [bitTwice_core]; rfl
  obtain ⟨-, -, -, marks, -⟩ := requests bitTwice stffFirst first empty
  obtain ⟨t, arrives, -, full, -⟩ := marks true (by decide) (by rw [core]; decide) (.inl ⟨rfl, rfl⟩) (by rw [bitTwice_core]; rfl)
  obtain rfl : bitTwiceAfter = t := Host.Outcome.next.inj ((remoteRequest_served first empty serveRemote_stffFirst).symm.trans arrives)
  rw [core] at full
  exact Bool.false_ne_true (feAt_bitTwiceAfter.symm.trans full)

end Sys2Proof.Claims
end

section
/-! SUPPORT. The cache of a core, its write-throughs and its line fills (O46, R185, R186, R206): what they leave alone, and what a line holds after. -/

open Sys2Proof.Claims

namespace Sys2Proof.Machine

/-! ## What a write on its way out leaves alone -/

/-- Nothing but the cache, the writes on their way out, tickets and the agenda differs. -/
def BuffersOnly (s t : State) : Prop :=
  t = { s with
    ticket := t.ticket, fresh := t.fresh, agenda := t.agenda, die := { s.die with dbb := t.die.dbb }
    core := { s.core with cache := t.core.cache, wbq := t.core.wbq } }

theorem BuffersOnly.trans {s t u : State} (h : BuffersOnly s t) (g : BuffersOnly t u) : BuffersOnly s u := by
  unfold BuffersOnly at *
  rw [g, h]

theorem BuffersOnly.ite {s a b : State} {c : Prop} {_ : Decidable c} (ha : BuffersOnly s a) (hb : BuffersOnly s b) :
    BuffersOnly s (if c then a else b) := by split <;> assumption

theorem BuffersOnly.sameMemory {s t : State} (h : BuffersOnly s t) : SameMemory s t := by
  rw [h]
  exact sameMemory_of rfl rfl rfl rfl

theorem BuffersOnly.now {s t : State} (h : BuffersOnly s t) : t.now = s.now := by rw [h]
theorem BuffersOnly.hub {s t : State} (h : BuffersOnly s t) : t.hub = s.hub := by rw [h]
theorem BuffersOnly.fetches {s t : State} (h : BuffersOnly s t) : t.core.fetches = s.core.fetches := by rw [h]
theorem BuffersOnly.refWaits {s t : State} (h : BuffersOnly s t) : t.core.refWaits = s.core.refWaits := by rw [h]
theorem BuffersOnly.gcore {s t : State} (h : BuffersOnly s t) : t.core.gcore = s.core.gcore := by rw [h]
theorem BuffersOnly.strand {s t : State} (h : BuffersOnly s t) (k : Fin 16) : t.strand k = s.strand k := State.strand_congr (by rw [h]) k

theorem pushDbb_buffersOnly (s : State) (k : Fin 16) (kind : DbbKind) (x : WordStore) (bad : Bool) : BuffersOnly s (pushDbb s k kind x bad) := by
  unfold pushDbb
  dsimp only
  split <;> rfl

theorem cachePut_buffersOnly (s : State) (l : CLine) : BuffersOnly s (cachePut s l) := rfl
theorem cacheDrop_buffersOnly (s : State) (line : Nat) : BuffersOnly s (cacheDrop s line) := rfl

theorem writeThrough_buffersOnly (s : State) (k : Fin 16) (l : CLine) : BuffersOnly s (writeThrough s k l) := by
  refine BuffersOnly.trans (foldl_rel (R := BuffersOnly) (fun _ => rfl) BuffersOnly.trans (fun t i => ?_) (List.finRange 8) s) rfl
  exact .ite (pushDbb_buffersOnly t _ _ _ _) (rfl : BuffersOnly t t)

theorem writeThroughAll_buffersOnly (s : State) (k : Fin 16) : BuffersOnly s (writeThroughAll s k) :=
  foldl_rel (R := BuffersOnly) (fun _ => rfl) BuffersOnly.trans (fun t l => .ite (writeThrough_buffersOnly t k l) (rfl : BuffersOnly t t)) s.core.cache s

theorem cacheUpdate_buffersOnly (s : State) (x : WordStore) : BuffersOnly s (cacheUpdate s x) := by
  unfold cacheUpdate
  split
  · exact .ite (cachePut_buffersOnly s _) (rfl : BuffersOnly s s)
  · rfl

/-! ## Lines of the cache -/

theorem cacheFind_congr {s t : State} (h : t.core.cache = s.core.cache) (line : Nat) : cacheFind t line = cacheFind s line := by
  rw [cacheFind, cacheFind, h]

theorem cacheFind_line {s : State} {line : Nat} {l : CLine} (h : cacheFind s line = some l) : l.line = line := by
  simpa using List.find?_some h

theorem cacheFind_none_iff {s : State} {line : Nat} : cacheFind s line = none ↔ ∀ l ∈ s.core.cache, l.line ≠ line := by
  simp [cacheFind]

theorem cacheFind_cachePut (s : State) (l : CLine) : cacheFind (cachePut s l) l.line = some l := by
  have absent : (s.core.cache.filter (·.line != l.line)).find? (·.line = l.line) = none := List.find?_eq_none.mpr (by simp)
  simp [cacheFind, cachePut, List.find?_append, absent]

/-- A line written through: its words stay, clean. -/
def CLine.cleaned (l : CLine) : CLine := { l with words := vmap (fun w => { w with dirty := false }) l.words }

theorem pushDbb_cache (s : State) (k : Fin 16) (kind : DbbKind) (x : WordStore) (bad : Bool) :
    (pushDbb s k kind x bad).core.cache = s.core.cache := by
  unfold pushDbb
  dsimp only
  split <;> rfl

theorem writeThrough_cache (s : State) (k : Fin 16) (l : CLine) :
    (writeThrough s k l).core.cache = s.core.cache.map fun m => if m.line = l.line then m.cleaned else m := by
  have kept := foldl_keeps (fun t : State => t.core.cache) (f := fun t i => if l.words[i].valid && l.words[i].dirty then
    pushDbb t k .through ⟨l.line * 64 + 8 * i.val, l.words[i].data, 0xFF, 0x7F⟩ l.words[i].poison else t)
    (fun t i => by split; exacts [pushDbb_cache t _ _ _ _, rfl]) (List.finRange 8) s
  exact congrArg (List.map fun m : CLine => if m.line = l.line then m.cleaned else m) kept

theorem cacheFind_writeThrough_none {s : State} {line : Nat} (h : cacheFind s line = none) (k : Fin 16) (l : CLine) :
    cacheFind (writeThrough s k l) line = none := by
  rw [cacheFind_none_iff] at h ⊢
  rw [writeThrough_cache]
  intro m hm
  obtain ⟨m', hm', rfl⟩ := List.mem_map.mp hm
  split
  · exact h m' hm'
  · exact h m' hm'

theorem cacheFind_cacheDrop_none {s : State} {line : Nat} (h : cacheFind s line = none) (other : Nat) : cacheFind (cacheDrop s other) line = none := by
  rw [cacheFind_none_iff] at h ⊢
  exact fun l hl => h l (List.mem_of_mem_filter hl)

/-- A present line only becomes the one used last. -/
theorem cacheRoom_present {s : State} {line : Nat} {l : CLine} (h : cacheFind s line = some l) (k : Fin 16) (ro : Bool) :
    cacheRoom s k line ro = cachePut s l := by
  simp [cacheRoom, victim, h]

/-- Room for an absent line costs the line used least its place, once it is written through. -/
theorem cacheRoom_absent {s : State} {line : Nat} (h : cacheFind s line = none) (k : Fin 16) (ro : Bool) :
    ∃ t, BuffersOnly s t ∧ cacheRoom s k line ro = cachePut t (emptyLine line ro) := by
  unfold cacheRoom
  extract_lets t
  refine ⟨t, ?_, ?_⟩
  · unfold t
    split
    · exact (writeThrough_buffersOnly s k _).trans (cacheDrop_buffersOnly _ _)
    · rfl
  · have absent : cacheFind t line = none := by
      unfold t
      split
      · exact cacheFind_cacheDrop_none (cacheFind_writeThrough_none h k _) _
      · exact h
    rw [absent]

/-- A line whose invalid words have taken memory's. -/
def filledLine (s : State) (line : Nat) (l : CLine) : CLine :=
  { l with words := Vector.ofFn fun (i : Fin 8) =>
      if l.words[i].valid then l.words[i] else ⟨true, false, wordAt s (line * 64 + 8 * i.val), poisoned s (line * 64 + 8 * i.val)⟩ }

theorem filledLine_line (s : State) (line : Nat) (l : CLine) : (filledLine s line l).line = l.line := rfl

theorem filledLine_words (s : State) (line : Nat) (l : CLine) (i : Fin 8) : (filledLine s line l).words[i] =
    if l.words[i].valid then l.words[i] else ⟨true, false, wordAt s (line * 64 + 8 * i.val), poisoned s (line * 64 + 8 * i.val)⟩ := by
  simp [filledLine]

theorem filledLine_emptyLine (s : State) (line : Nat) (ro : Bool) (i : Fin 8) :
    (filledLine s line (emptyLine line ro)).words[i] = ⟨true, false, wordAt s (line * 64 + 8 * i.val), poisoned s (line * 64 + 8 * i.val)⟩ := by
  rw [filledLine_words]
  simp [emptyLine]

theorem fillLine_found {s : State} {line : Nat} {l : CLine} (h : cacheFind s line = some l) :
    fillLine s line = cachePut s (filledLine s line l) := by
  simp only [fillLine, h]
  rfl

/-! ## The end of a fetch (R185) -/

theorem exec_cacheLineFill (s : State) (line : Nat) : exec (.cacheLineFill line) s = execCacheLineFill line s := rfl

/-- The fetch is over, and the cycles its units waited are counted. -/
def fetchEnded (s : State) (line n : Nat) (k : Fin 16) : State :=
  (creditLat s n k).withCore fun c => { c with fetches := c.fetches.filter (·.line != line) }

/-- What a line read from a host window leaves in the jay's log (R285). -/
def lineRead (s : State) (line : Nat) : State := logHostRead s (64 * line) 64 ((List.range 8).map fun i => wordAt s (64 * line + 8 * i))

theorem logHostRead_core (s : State) (pa len : Nat) (ws : List Word) : (logHostRead s pa len ws).core = s.core := by
  unfold logHostRead jayLog
  dsimp only
  split
  · split
    · rfl
    · obtain ⟨u, b, v, e, -, -, core⟩ := ringAppend_cases s (rJay s.part 0) ([word s.now, word (4 <<< 56 ||| len), word pa] ++ ws)
      split
      · exact (congrArg State.core e).trans core
      · exact (congrArg State.core e).trans core
  · rfl

theorem lineRead_core (s : State) (line : Nat) : (lineRead s line).core = s.core := logHostRead_core _ _ _ _

theorem lineRead_own {s : State} {line : Nat} (own : home s (64 * line) ≠ .host) : lineRead s line = s := by
  unfold lineRead logHostRead
  split
  · exact absurd ‹_› own
  · rfl

section
variable {s : State} {line n : Nat} {ro : Bool} {k : Fin 16} (only : s.core.fetches = [⟨line, ro, n, k⟩])
include only

theorem cacheLineFill_ready (idle : lineBusy s line = false) (served : hbmPending s n = false) (room : evictRoom s line = true) :
    exec (.cacheLineFill line) s = .next (fillLine (lineRead (cacheRoom (fetchEnded s line n k) k line ro) line) line) := by
  rw [exec_cacheLineFill]
  unfold execCacheLineFill
  simp only [only, List.find?_cons_of_pos, decide_true, idle, served, room]
  rfl

theorem cacheLineFill_waits (waits : lineBusy s line = true ∨ hbmPending s n = true ∨ evictRoom s line = false) :
    exec (.cacheLineFill line) s = .next (s.at (s.now + 1) (.cacheLineFill line)) := by
  have blocked : (lineBusy s line || hbmPending s n || !evictRoom s line) = true := by
    rcases waits with h | h | h <;> simp [h]
  rw [exec_cacheLineFill]
  unfold execCacheLineFill
  simp only [only, List.find?_cons_of_pos, decide_true]
  rw [if_pos blocked]
  rfl

theorem fetchEnded_fetches : (fetchEnded s line n k).core.fetches = [] := by
  have kept : (fetchEnded s line n k).core.fetches = s.core.fetches.filter (·.line != line) := rfl
  simp [kept, only]

end

theorem fetchEnded_cache (s : State) (line n : Nat) (k : Fin 16) (a : Nat) : cacheFind (fetchEnded s line n k) a = cacheFind s a :=
  cacheFind_congr rfl a

theorem fetchEnded_sameMemory (s : State) (line n : Nat) (k : Fin 16) : SameMemory s (fetchEnded s line n k) := sameMemory_of rfl rfl rfl rfl

theorem creditLat_strand (s : State) (n : Nat) (k : Fin 16) : (creditLat s n k).strand k =
    { s.strand k with latcnt := (s.strand k).latcnt + word (((s.core.refWaits.filter (·.1 = n)).map (·.2)).foldl (· + ·) 0) } := by
  unfold creditLat
  extract_lets m
  rw [State.modStrand_strand_same]
  rfl

theorem creditLat_refWaits (s : State) (n : Nat) (k : Fin 16) : (creditLat s n k).core.refWaits = s.core.refWaits.filter (·.1 != n) := rfl

/-- What a line fill leaves beside the line: the fetch's waits are counted, and memory is as before unless the line is the host's. -/
structure LineFilled (s t : State) (line n : Nat) (k : Fin 16) : Prop where
  fetches : t.core.fetches = (fetchEnded s line n k).core.fetches
  refWaits : t.core.refWaits = (creditLat s n k).core.refWaits
  strand : t.strand k = (creditLat s n k).strand k
  memory : home s (64 * line) ≠ .host → SameMemory s t

/-- The line found after room was made for it, filled from the memory that was then read. -/
theorem lineFilled_of {s u : State} {line n : Nat} {k : Fin 16} {l : CLine} (made : BuffersOnly (fetchEnded s line n k) u)
    (found : cacheFind u line = some l) :
    cacheFind (fillLine (lineRead u line) line) line = some (filledLine (lineRead u line) line l) ∧
      LineFilled s (fillLine (lineRead u line) line) line n k := by
  have core : (lineRead u line).core = u.core := lineRead_core u line
  have found' : cacheFind (lineRead u line) line = some l := (cacheFind_congr (congrArg Core.cache core) line).trans found
  rw [fillLine_found found']
  have last : BuffersOnly (lineRead u line) (cachePut (lineRead u line) (filledLine (lineRead u line) line l)) := cachePut_buffersOnly _ _
  refine ⟨?_, ⟨?_, ?_, ?_, fun own => ?_⟩⟩
  · have put := cacheFind_cachePut (lineRead u line) (filledLine (lineRead u line) line l)
    rwa [filledLine_line, cacheFind_line found] at put
  · rw [last.fetches, core, made.fetches]
  · rw [last.refWaits, core, made.refWaits]
    rfl
  · rw [last.strand k, State.strand_congr (congrArg Core.strands core) k, made.strand k]
    rfl
  · have same : home u (64 * line) = home s (64 * line) := home_congr (made.hub.trans rfl) _
    have read : lineRead u line = u := lineRead_own (same ▸ own)
    rw [read] at last ⊢
    exact (fetchEnded_sameMemory s line n k).trans (made.sameMemory.trans last.sameMemory)

/-- A line that was absent takes all its words from memory. -/
theorem lineFilled_absent {s : State} {line n : Nat} {k : Fin 16} (ro : Bool) (absent : cacheFind s line = none) :
    ∃ u, cacheFind (fillLine (lineRead (cacheRoom (fetchEnded s line n k) k line ro) line) line) line = some (filledLine u line (emptyLine line ro)) ∧
      (home s (64 * line) ≠ .host → SameMemory s u) ∧
      LineFilled s (fillLine (lineRead (cacheRoom (fetchEnded s line n k) k line ro) line) line) line n k := by
  obtain ⟨v, out, eq⟩ := cacheRoom_absent ((fetchEnded_cache s line n k line).trans absent) k ro
  have made : BuffersOnly (fetchEnded s line n k) (cacheRoom (fetchEnded s line n k) k line ro) := eq ▸ out.trans (cachePut_buffersOnly v _)
  have found : cacheFind (cacheRoom (fetchEnded s line n k) k line ro) line = some (emptyLine line ro) := eq ▸ cacheFind_cachePut v (emptyLine line ro)
  obtain ⟨filled, rest⟩ := lineFilled_of made found
  refine ⟨_, filled, fun own => ?_, rest⟩
  have same : home (cacheRoom (fetchEnded s line n k) k line ro) (64 * line) = home s (64 * line) := home_congr (made.hub.trans rfl) _
  rw [lineRead_own (same ▸ own)]
  exact (fetchEnded_sameMemory s line n k).trans made.sameMemory

/-- A line that was there takes what was invalid. -/
theorem lineFilled_present {s : State} {line n : Nat} {k : Fin 16} (ro : Bool) {l : CLine} (present : cacheFind s line = some l) :
    ∃ u, cacheFind (fillLine (lineRead (cacheRoom (fetchEnded s line n k) k line ro) line) line) line = some (filledLine u line l) := by
  have eq := cacheRoom_present ((fetchEnded_cache s line n k line).trans present) k ro
  have found : cacheFind (cacheRoom (fetchEnded s line n k) k line ro) line = some l := by
    have put := cacheFind_cachePut (fetchEnded s line n k) l
    rwa [cacheFind_line present, ← eq] at put
  exact ⟨_, (lineFilled_of (eq ▸ cachePut_buffersOnly _ l) found).1⟩

end Sys2Proof.Machine
end

section
/-! SUPPORT. What leaves the write-back queue alone (O46, R206): a write performed at its home, and an atomic. -/

open Sys2Proof.Claims

namespace Sys2Proof.Machine

/-! ## Writes at their home -/

theorem PlanesOnly.wbq {s t : State} (h : PlanesOnly s t) : t.core.wbq = s.core.wbq := congrArg Core.wbq h.core

theorem dropHandle_wbq (s : State) (r : Reg) : (dropHandle s r).core.wbq = s.core.wbq := by
  unfold dropHandle
  split <;> rfl

theorem pokeVal_wbq (s : State) (k : Fin 16) (c : Nat) (v : Word) : (pokeVal s k c v).core.wbq = s.core.wbq := by
  unfold pokeVal
  dsimp only
  split
  · split
    · rfl
    · exact dropHandle_wbq s _
  · rfl

theorem pokeHead_wbq (s : State) (q : Fin 8) (f : Reg → Reg) : (pokeHead s q f).core.wbq = s.core.wbq := by
  unfold pokeHead
  split
  · split <;> rfl
  · rfl

theorem pokeSides_wbq (s : State) (k : Fin 16) (c0 : Nat) (v : Word) : (pokeSides s k c0 v).core.wbq = s.core.wbq := by
  refine foldl_keeps (·.core.wbq) (fun t i => ?_) _ s
  dsimp only
  split
  · exact pokeHead_wbq t _ _
  · split <;> rfl

theorem sysStore_wbq (s : State) (k : Fin 16) (n : Nat) (v : Word) : (sysStore s k n v).core.wbq = s.core.wbq := by
  unfold sysStore
  dsimp only
  split <;> rfl

theorem strandAreaWrite_wbq (s : State) (k : Fin 16) (o : Nat) (v : Word) : (strandAreaWrite s k o v).core.wbq = s.core.wbq := by
  have kept {c : Prop} {_ : Decidable c} {a b : State} (ha : a.core.wbq = s.core.wbq) (hb : b.core.wbq = s.core.wbq) :
      (if c then a else b).core.wbq = s.core.wbq := by split <;> assumption
  unfold strandAreaWrite
  dsimp only
  refine kept rfl (kept rfl (kept ?_ (kept (pokeVal_wbq s k _ v) (kept (pokeVal_wbq s k _ v) (kept (pokeSides_wbq s k _ v) (kept ?_ rfl))))))
  · exact kept rfl (kept rfl (kept rfl rfl))
  · exact kept (sysStore_wbq s k _ v) rfl

theorem pokeVec_wbq (s : State) (k : Fin 16) (n : Nat) (f : VReg → VReg) : (pokeVec s k n f).core.wbq = s.core.wbq := rfl

theorem debugWrite_wbq (s : State) (off : Nat) (v : Word) : (debugWrite s off v).core.wbq = s.core.wbq := by
  have vectors : ((List.range 32).foldl (fun t i => pokeVec t (dselStrand s) i fun r => { r with full := v.getLsbD i }) s).core.wbq = s.core.wbq :=
    foldl_keeps (·.core.wbq) (fun t i => pokeVec_wbq t _ i _) _ s
  unfold debugWrite
  dsimp only
  split
  · exact strandAreaWrite_wbq s _ _ v
  · simp only [apply_ite State.core, apply_ite Core.wbq, vectors, pokeVec_wbq, ite_self]
    repeat' split
    all_goals rfl

theorem heldFirst_core (s : State) (pa : Nat) : (if ckptHolds s s.func pa then copyNow s s.func pa else s).core = s.core := by
  split
  · exact copyNow_core s _ _
  · rfl

theorem homeStore_wbq (s : State) (x : WordStore) : (homeStore s x).core.wbq = s.core.wbq := by
  unfold homeStore
  split
  · split
    · exact debugWrite_wbq s _ _
    · rfl
  · exact (setBytes_planes s _ _ _ _).wbq
  · exact (performStore_planes _ x).wbq.trans (congrArg Core.wbq (heldFirst_core s x.pa))
  · exact (performStore_planes _ x).wbq.trans (congrArg Core.wbq (heldFirst_core s x.pa))

theorem emptyHome_wbq (s : State) (pa : Nat) : (emptyHome s pa).core.wbq = s.core.wbq := by
  unfold emptyHome
  split
  · rw [(emptyWord_recv s _).core]
  · rfl

theorem fillHome_wbq (s : State) (pa : Nat) : (fillHome s pa).core.wbq = s.core.wbq := by
  unfold fillHome
  split <;> rfl

theorem feHome_wbq (s : State) (full : Bool) (x : WordStore) : (feHome s full x).core.wbq = s.core.wbq := by
  unfold feHome
  split
  · exact (fillHome_wbq _ _).trans (performStore_planes s x).wbq
  · exact emptyHome_wbq s _

theorem stfArrives_wbq (s : State) (n : Nat) : (stfArrives s n).core.wbq = s.core.wbq := by
  unfold stfArrives retry joinHome
  split
  · split <;> rfl
  · rfl

theorem stfArrives_sameMemory (s : State) (n : Nat) : SameMemory s (stfArrives s n) := by
  unfold stfArrives retry joinHome
  split
  · split <;> exact sameMemory_of rfl rfl rfl rfl
  · exact .refl s

/-! ## Atomics -/

theorem modStrand_wbq (s : State) (k : Fin 16) (f : Strand → Strand) : (s.modStrand k f).core.wbq = s.core.wbq := rfl

theorem fillReg_wbq (s : State) (k : Fin 16) (n : Nat) (v : Word) (g : Tag) : (fillReg s k n v g).core.wbq = s.core.wbq :=
  PlanesOnly.wbq (s := s) (t := fillSpilled s k (.fill n) v g)
    (foldl_planes (fun t (e : Spill) => (performStore_planes t _).trans (setFe_planes _ e.pa true)) _ s)

theorem reply_wbq (s : State) (r : Req) (v : Word) (g : Tag) : (reply s r v g).core.wbq = s.core.wbq := by
  rw [reply, fillReg_wbq]
  rfl

theorem sendPacket_wbq (s : State) (p : Packet) : (sendPacket s p).core.wbq = s.core.wbq := by
  unfold sendPacket
  split
  · rw [State.atOnce_core, State.withClu_core]
  · unfold escalate
    dsimp only
    rw [setFstat_core, errRecord_core]

theorem dropWaits_wbq (s : State) (k : Fin 16) : (dropWaits s k).core.wbq = s.core.wbq := by
  rw [dropWaits_queuesOnly s k]
  rfl

theorem freeze_wbq (s : State) (k : Fin 16) (cause : BitVec 8) (imp : Bool) (pc : Addr) (va ex : Word) (ins : BitVec 32) :
    (freeze s k cause imp pc va ex ins).core.wbq = s.core.wbq := sendPacket_wbq _ _

theorem deferred_wbq (s : State) (r : Req) (cause : BitVec 8) (pa : Nat) : (deferred s r cause pa).core.wbq = s.core.wbq := by
  have asked (t : State) (h : t.core.wbq = s.core.wbq) : (match (t.strand r.strand).run with
      | .halted | .absent => t
      | .frozen => sendPacket (t.modStrand r.strand fun x => { x with cause := cause })
          (t.packet (packetWords t cause true true (t.strand r.strand).kernel (t.gstrand r.strand) r.pc (r.va pa) (word pa) r.ins))
      | _ => freeze (dropWaits t r.strand) r.strand cause true r.pc (r.va pa) (word pa) r.ins).core.wbq = s.core.wbq := by
    split
    · exact h
    · exact h
    · exact (sendPacket_wbq _ _).trans h
    · exact (freeze_wbq _ _ _ _ _ _ _ _).trans ((dropWaits_wbq t _).trans h)
  unfold deferred
  dsimp only
  refine asked _ ?_
  split <;> rfl

theorem needCopyFor_core (s : State) (f : Fin 17) (pa : Nat) : (needCopyFor s f pa).core = s.core := by
  unfold needCopyFor
  dsimp only
  split
  · rfl
  · rw [State.later_core, granuleUnits_core, State.withHub_core]

theorem performAtomic_wbq (s : State) (r : Req) (again : Act) : (performAtomic s r again).core.wbq = s.core.wbq := by
  unfold performAtomic
  dsimp only
  split
  · exact congrArg Core.wbq (needCopyFor_core s _ _)
  · unfold atomicAt
    split
    · next old fl t h =>
      split at h
      · exact nomatch h
      · obtain ⟨-, -, rfl⟩ := Option.some.inj h
        rw [modStrand_wbq, reply_wbq, homeStore_wbq]
    · exact deferred_wbq s r _ _

end Sys2Proof.Machine
end

section
/-! SUPPORT. The boundary buffer's entries: held, sent, waiting and performed at their home (O46, R206, R538). -/

open Sys2Proof.Claims

namespace Sys2Proof.Machine

/-! ## A write that waits for its granule's copy -/

/-- Nothing differs but the copies asked for and the units of HBM that make them. -/
def CopyAsked (s t : State) : Prop :=
  t = { s with ticket := t.ticket, fresh := t.fresh, agenda := t.agenda, hbm := t.hbm, hub := { s.hub with held := t.hub.held } }

theorem CopyAsked.trans {s t u : State} (h : CopyAsked s t) (g : CopyAsked t u) : CopyAsked s u := by
  unfold CopyAsked at *
  rw [g, h]

theorem CopyAsked.sameMemory {s t : State} (h : CopyAsked s t) : SameMemory s t := by
  rw [h]
  exact sameMemory_of rfl rfl rfl rfl
theorem CopyAsked.die {s t : State} (h : CopyAsked s t) : t.die = s.die := by rw [h]
theorem CopyAsked.core {s t : State} (h : CopyAsked s t) : t.core = s.core := by rw [h]
theorem CopyAsked.now {s t : State} (h : CopyAsked s t) : t.now = s.now := by rw [h]

theorem UnitsOnly.copyAsked {s t : State} (h : UnitsOnly s t) : CopyAsked s t := by
  unfold CopyAsked
  rw [h]

theorem granuleUnits_unitsOnly (s : State) (ticket pa : Nat) (write : Bool) : UnitsOnly s (granuleUnits s ticket pa write) :=
  foldl_rel (R := UnitsOnly) (fun _ => rfl) UnitsOnly.trans (fun t a => .ite (hbmAsk_unitsOnly t ticket none 14 a 16 write) (rfl : UnitsOnly t t)) _ s

/-- The granule's copy is noted, and not yet asked for. -/
def copyNoted (s : State) (f : Fin 17) (pa : Nat) : State :=
  ({ s with ticket := s.ticket + 1 } : State).withHub fun h => { h with held := h.held ++ [⟨f, pa / 8192, s.ticket, false⟩] }

theorem needCopyFor_new {s : State} {f : Fin 17} {pa : Nat}
    (new : ¬ (!ckptHolds s f.val pa || s.hub.held.any (fun h => h.func = f && h.granule = pa / 8192)) = true) :
    UnitsOnly (copyNoted s f pa) (needCopyFor s f pa) := by
  rw [needCopyFor, if_neg new]
  exact (granuleUnits_unitsOnly (copyNoted s f pa) _ _ _).trans (State.later_unitsOnly _ _ _)

theorem needCopyFor_copyAsked (s : State) (f : Fin 17) (pa : Nat) : CopyAsked s (needCopyFor s f pa) := by
  by_cases old : (!ckptHolds s f.val pa || s.hub.held.any (fun h => h.func = f && h.granule = pa / 8192)) = true
  · rw [needCopyFor, if_pos old]
    rfl
  · exact CopyAsked.trans (t := copyNoted s f pa) rfl (needCopyFor_new old).copyAsked

theorem needCopyFor_held {s : State} {f : Fin 17} {pa : Nat} (holds : ckptHolds s f.val pa = true) :
    ∃ h ∈ (needCopyFor s f pa).hub.held, h.func = f ∧ h.granule = pa / 8192 := by
  by_cases old : (!ckptHolds s f.val pa || s.hub.held.any (fun h => h.func = f && h.granule = pa / 8192)) = true
  · rw [needCopyFor, if_pos old]
    simpa [holds] using old
  · rw [(needCopyFor_new old).hub]
    exact ⟨_, List.mem_append_right _ (List.mem_singleton_self _), rfl, rfl⟩

/-- Only a function that has a checkpoint holds a write, and functions have numbers below 17. -/
theorem ckptHolds_func_lt {s : State} {f pa : Nat} (holds : ckptHolds s f pa = true) : f < 17 := by
  unfold ckptHolds at holds
  dsimp only at holds
  obtain ⟨-, hc⟩ := Bool.and_eq_true_iff.mp holds
  split at hc
  · next c found =>
    have same : c.func.val = f := by simpa using List.find?_some found
    exact same ▸ c.func.isLt
  · exact nomatch hc

theorem needCopy_held {s : State} {pa : Nat} (holds : ckptHolds s s.func pa = true) :
    ∃ h ∈ (needCopy s pa).hub.held, h.func.val = s.func % 17 ∧ h.granule = pa / 8192 := by
  have val : ckptHolds s (s.func % 17) pa = true := (Nat.mod_eq_of_lt (ckptHolds_func_lt holds)).symm ▸ holds
  obtain ⟨h, mem, func, granule⟩ := needCopyFor_held (f := ⟨s.func % 17, Nat.mod_lt _ (by decide)⟩) val
  exact ⟨h, mem, congrArg Fin.val func, granule⟩

theorem retry_sameMemory (s : State) (a : Act) : SameMemory s (retry s a) := sameMemory_of rfl rfl rfl rfl
theorem retry_mem (s : State) (a : Act) : (s.now + 1, a) ∈ (retry s a).agenda := State.mem_at s _ a

/-! ## The first entry of a bank -/

theorem exec_dbbEntryAck (s : State) (bank : Fin 16) : exec (.dbbEntryAck bank) s = execDbbEntryAck bank s := rfl

/-- The strand no longer waits for the entry. -/
def Strand.dropServed (id : Nat) (x : Strand) : Strand := { x with served := x.served.filter (· != id) }

/-- A performed entry leaves the buffer and the strands' lists. -/
def entryGone (s : State) (id : Nat) : State :=
  ({ s with die := { s.die with dbb := s.die.dbb.filter (·.id != id) } }).withCore fun c => { c with strands := vmap (Strand.dropServed id) c.strands }

theorem entryGone_core (s : State) (id : Nat) : (entryGone s id).core = { s.core with strands := vmap (Strand.dropServed id) s.core.strands } := by
  rw [entryGone, State.withCore_core]

theorem entryGone_die (s : State) (id : Nat) : (entryGone s id).die = { s.die with dbb := s.die.dbb.filter (·.id != id) } := by
  rw [entryGone, State.withCore_die]

theorem entryGone_sameMemory (s : State) (id : Nat) : SameMemory s (entryGone s id) :=
  sameMemory_of (by rw [entryGone, State.withCore_mem]) (by rw [entryGone, State.withCore_tags]) (by rw [entryGone, State.withCore_fe])
    (by rw [entryGone, State.withCore_poison])

theorem entryGone_served (s : State) (id : Nat) (k : Fin 16) : ((entryGone s id).strand k).served = (s.strand k).served.filter (· != id) := by
  rw [State.strand, entryGone_core, vmap_getElem]
  rfl

section DbbEntryAck
variable {s : State} {bank : Fin 16} {e : DbbEntry} (first : s.die.dbb.find? (fun y => bankOf y.x.pa = bank.val) = some e)
include first

theorem dbbEntryAck_held (held : entryHeld s e = true) : exec (.dbbEntryAck bank) s = .next (retry (needCopy s e.x.pa) (.dbbEntryAck bank)) := by
  rw [exec_dbbEntryAck, execDbbEntryAck, first]
  exact if_pos held

variable (free : entryHeld s e = false)
include free

theorem dbbEntryAck_sends (hbm : isHbm e.x.pa = true) (unsent : e.sent = false) :
    exec (.dbbEntryAck bank) s = .next (retry (sendEntry s e) (.dbbEntryAck bank)) := by
  have out : (isHbm e.x.pa && !e.sent) = true := by simp [hbm, unsent]
  rw [exec_dbbEntryAck, execDbbEntryAck, first]
  exact (if_neg (Bool.eq_false_iff.mp free)).trans (if_pos out)

variable (sent : isHbm e.x.pa = true → e.sent = true)
include sent

theorem dbbEntryAck_waits (pending : hbmPending s e.ticket = true) :
    exec (.dbbEntryAck bank) s = .next (retry s (.dbbEntryAck bank)) := by
  have out : ¬ (isHbm e.x.pa && !e.sent) = true := by simpa using sent
  rw [exec_dbbEntryAck, execDbbEntryAck, first]
  exact (if_neg (Bool.eq_false_iff.mp free)).trans ((if_neg out).trans (if_pos pending))

theorem dbbEntryAck_performs (served : hbmPending s e.ticket = false) :
    exec (.dbbEntryAck bank) s = .next (promote (entryGone (performEntry s e) e.id) bank.val) := by
  have out : ¬ (isHbm e.x.pa && !e.sent) = true := by simpa using sent
  rw [exec_dbbEntryAck, execDbbEntryAck, first]
  exact (if_neg (Bool.eq_false_iff.mp free)).trans ((if_neg out).trans (if_neg (Bool.eq_false_iff.mp served)))

end DbbEntryAck

theorem sendEntry_unitsOnly (s : State) (e : DbbEntry) :
    UnitsOnly { s with die := { s.die with dbb := s.die.dbb.map fun y => if y.id = e.id then { y with sent := true } else y } } (sendEntry s e) :=
  askLines_unitsOnly _ _ _ _ _ _

theorem sendEntry_dbb (s : State) (e : DbbEntry) :
    (sendEntry s e).die.dbb = s.die.dbb.map fun y => if y.id = e.id then { y with sent := true } else y := by
  rw [(sendEntry_unitsOnly s e).die]

theorem sendEntry_ids (s : State) (e : DbbEntry) : (sendEntry s e).die.dbb.map (·.id) = s.die.dbb.map (·.id) := by
  rw [sendEntry_dbb, List.map_map]
  refine List.map_congr_left fun y _ => ?_
  dsimp only [Function.comp]
  split <;> rfl

theorem sendEntry_sent (s : State) (e : DbbEntry) : ∀ y ∈ (sendEntry s e).die.dbb, y.id = e.id → y.sent = true := by
  rw [sendEntry_dbb]
  intro y hy same
  obtain ⟨z, -, rfl⟩ := List.mem_map.mp hy
  split at same
  · rw [if_pos ‹_›]
  · exact absurd same ‹_›

theorem promote_sameMemory (s : State) (bank : Nat) : SameMemory s (promote s bank) := by
  unfold promote
  dsimp only
  repeat' split
  all_goals exact sameMemory_of rfl rfl rfl rfl

theorem promote_strand (s : State) (bank : Nat) (k : Fin 16) : (promote s bank).strand k = s.strand k := by
  unfold promote
  dsimp only
  repeat' split
  all_goals rfl

theorem promote_empty {s : State} (empty : s.core.wbq = []) (bank : Nat) : promote s bank = s := by
  simp [promote, empty]

/-- What is left where an entry was performed: memory as the entry's home made it, in u, and no strand waits for it. -/
def EntryLeft (s : State) (id : Nat) (u t : State) : Prop :=
  SameMemory u t ∧ (∀ k, id ∉ (t.strand k).served) ∧ (s.core.wbq = [] → ∀ y ∈ t.die.dbb, y.id ≠ id)

theorem entryLeft_of {s u : State} (kept : u.core.wbq = s.core.wbq) (id bank : Nat) : EntryLeft s id u (promote (entryGone u id) bank) := by
  refine ⟨(entryGone_sameMemory u id).trans (promote_sameMemory _ _), fun k => ?_, fun empty y hy => ?_⟩
  · rw [promote_strand, entryGone_served]
    simp
  · rw [promote_empty ((congrArg Core.wbq (entryGone_core u id)).trans (kept.trans empty)), entryGone_die] at hy
    simpa using (List.mem_filter.mp hy).2

/-! ## An entry at its home (R206) -/

theorem DbbEntry.ticket_atomic {e : DbbEntry} {n : Nat} (kind : e.kind = .atomic n) : e.ticket = n := by simp only [DbbEntry.ticket, kind]

theorem DbbEntry.ticket_plain {e : DbbEntry} (plain : ∀ n, e.kind ≠ .atomic n) : e.ticket = e.id := by
  unfold DbbEntry.ticket
  split
  · exact absurd ‹_› (plain _)
  · rfl

/-- The home's store of an entry, which may arrive poisoned (R475). -/
def entryStore (s : State) (e : DbbEntry) : State := if e.bad then markPoison (homeStore s e.x) e.x.pa else homeStore s e.x

theorem entryStore_wbq (s : State) (e : DbbEntry) : (entryStore s e).core.wbq = s.core.wbq := by
  unfold entryStore
  split
  · exact homeStore_wbq s e.x
  · exact homeStore_wbq s e.x

theorem performEntry_atomic {s : State} {e : DbbEntry} {n : Nat} {r : Req} (kind : e.kind = .atomic n)
    (req : s.core.reqs.find? (·.ticket = n) = some r) {bank : Fin 16} (here : bankOf e.x.pa = bank.val) :
    performEntry s e = performAtomic s r (.dbbEntryAck bank) := by
  have same : (⟨bankOf e.x.pa % 16, Nat.mod_lt _ (by decide)⟩ : Fin 16) = bank := Fin.ext (by rw [here]; exact Nat.mod_eq_of_lt bank.isLt)
  simp only [performEntry, kind, req, same]

/-- The state that an entry which is no atomic makes at its home, but for the request of an STF that arrives there. -/
def entryHome (s : State) (e : DbbEntry) : State :=
  match e.kind with
  | .fe full => feHome s full e.x
  | .stf _ => s
  | _ => entryStore s e

theorem performEntry_home {s : State} {e : DbbEntry} (plain : ∀ n, e.kind ≠ .atomic n) :
    SameMemory (entryHome s e) (performEntry s e) ∧ (performEntry s e).core.wbq = s.core.wbq := by
  unfold entryHome performEntry
  cases kind : e.kind with
  | atomic n => exact absurd kind (plain n)
  | stf n => exact ⟨stfArrives_sameMemory s n, stfArrives_wbq s n⟩
  | fe full => exact ⟨.refl _, feHome_wbq s full e.x⟩
  | _ => exact ⟨.refl _, entryStore_wbq s e⟩

end Sys2Proof.Machine
end

section
/-! SUPPORT. Acquires and releases: the cache written through, and what a release lets out (O46, R186, R209, R210). -/

open Sys2Proof.Claims

namespace Sys2Proof.Machine

/-! ## Words written through -/

theorem CLine.dirty_zero {l : CLine} (clean : l.dirty = 0) (i : Fin 8) (valid : l.words[i].valid = true) : l.words[i].dirty = false := by
  have none : ∀ w ∈ l.words.toList, ¬ (w.valid && w.dirty) = true := List.filter_eq_nil_iff.mp (List.length_eq_zero_iff.mp clean)
  have clear : l.words[i].valid = true → l.words[i].dirty = false := by
    simpa using none l.words[i] (Vector.mem_toList_iff.mpr (Vector.getElem_mem i.isLt))
  exact clear valid

theorem anyDirty_false {s : State} (clean : anyDirty s = false) :
    ∀ l ∈ s.core.cache, ∀ i : Fin 8, l.words[i].valid = true → l.words[i].dirty = false := by
  intro l hl i valid
  refine CLine.dirty_zero ?_ i valid
  simpa [anyDirty] using List.any_eq_false.mp clean l hl

/-! ## Acquires (R209) -/

theorem exec_acquireComplete (s : State) (k : Fin 16) : exec (.acquireComplete k) s = execAcquireComplete k s := rfl

/-- The lines written through go, and the acquire only waits for what is on its way. -/
def acquireWrote (s : State) (k : Fin 16) (a : Acq) : State :=
  (invalidateLines (writeThroughAll s k)).modStrand k fun x => { x with acq := some { a with wrote := true } }

/-- A load's value fills its register with the acquire's end. -/
def acquireFilled (s : State) (k : Fin 16) (a : Acq) : State :=
  match a.fill with
  | some (n, v) => fillReg (creditLat s n k) k n v Tag.full
  | none => s

def acquireEnded (s : State) (k : Fin 16) (a : Acq) : State := (acquireFilled s k a).modStrand k fun x => { x with acq := none }

section AcquireComplete
variable {s : State} {k : Fin 16}

theorem acquireComplete_none (noAcq : (s.strand k).acq = none) : exec (.acquireComplete k) s = .next s := by
  rw [exec_acquireComplete, execAcquireComplete, noAcq]

variable {a : Acq} (acq : (s.strand k).acq = some a)
include acq

theorem acquireComplete_blocked (blocked : a.load = true ∨ fullHolds s k = true) :
    exec (.acquireComplete k) s = .next (retry s (.acquireComplete k)) := by
  rw [exec_acquireComplete, execAcquireComplete, acq]
  exact if_pos (by simpa using blocked)

variable (loaded : a.load = false) (free : fullHolds s k = false)
include loaded free

theorem acquireComplete_dirty (wrote : a.wrote = false) (dirty : anyDirty (writeThroughAll s k) = true) :
    exec (.acquireComplete k) s = .next (retry (writeThroughAll s k) (.acquireComplete k)) := by
  rw [exec_acquireComplete, execAcquireComplete, acq]
  exact (if_neg (by simp [loaded, free])).trans ((if_pos (by simp [wrote])).trans (if_pos dirty))

theorem acquireComplete_clean (wrote : a.wrote = false) (clean : anyDirty (writeThroughAll s k) = false) :
    exec (.acquireComplete k) s = .next (retry (acquireWrote s k a) (.acquireComplete k)) := by
  rw [exec_acquireComplete, execAcquireComplete, acq]
  exact (if_neg (by simp [loaded, free])).trans ((if_pos (by simp [wrote])).trans (if_neg (Bool.eq_false_iff.mp clean)))

theorem acquireComplete_waits (wrote : a.wrote = true) (pending : throughPending s = true) :
    exec (.acquireComplete k) s = .next (retry s (.acquireComplete k)) := by
  rw [exec_acquireComplete, execAcquireComplete, acq]
  exact (if_neg (by simp [loaded, free])).trans ((if_neg (by simp [wrote])).trans (if_pos pending))

theorem acquireComplete_ends (wrote : a.wrote = true) (through : throughPending s = false) :
    exec (.acquireComplete k) s = .next (acquireEnded s k a) := by
  rw [exec_acquireComplete, execAcquireComplete, acq]
  exact (if_neg (by simp [loaded, free])).trans ((if_neg (by simp [wrote])).trans (if_neg (Bool.eq_false_iff.mp through)))

end AcquireComplete

theorem modStrand_sameMemory (s : State) (k : Fin 16) (f : Strand → Strand) : SameMemory s (s.modStrand k f) := sameMemory_of rfl rfl rfl rfl

theorem retry_strand (s : State) (a : Act) (k : Fin 16) : (retry s a).strand k = s.strand k := rfl

theorem acquireWrote_strand (s : State) (k : Fin 16) (a : Acq) : ((acquireWrote s k a).strand k).acq = some { a with wrote := true } := by
  rw [acquireWrote, State.modStrand_strand_same]

theorem acquireWrote_cache (s : State) (k : Fin 16) (a : Acq) : (acquireWrote s k a).core.cache = (writeThroughAll s k).core.cache.filter (·.ro) := rfl

theorem acquireWrote_sameMemory (s : State) (k : Fin 16) (a : Acq) : SameMemory s (acquireWrote s k a) :=
  (writeThroughAll_buffersOnly s k).sameMemory.trans (sameMemory_of rfl rfl rfl rfl)

theorem acquireWrote_now (s : State) (k : Fin 16) (a : Acq) : (acquireWrote s k a).now = s.now := (writeThroughAll_buffersOnly s k).now

theorem fillReg_sameMemory {s : State} {k : Fin 16} (unspilled : (s.strand k).spilled = []) (n : Nat) (v : Word) (g : Tag) :
    SameMemory s (fillReg s k n v g) := by
  simp only [fillReg, fillSpilled_none unspilled]
  exact sameMemory_of rfl rfl rfl rfl

theorem creditLat_spilled (s : State) (n : Nat) (k : Fin 16) : ((creditLat s n k).strand k).spilled = (s.strand k).spilled := by
  rw [creditLat_strand]

theorem acquireEnded_sameMemory {s : State} {k : Fin 16} (unspilled : (s.strand k).spilled = []) (a : Acq) : SameMemory s (acquireEnded s k a) := by
  refine SameMemory.trans ?_ (modStrand_sameMemory _ _ _)
  unfold acquireFilled
  split
  · next n v _ => exact (sameMemory_of rfl rfl rfl rfl : SameMemory s (creditLat s n k)).trans (fillReg_sameMemory ((creditLat_spilled s n k).trans unspilled) n v _)
  · exact .refl s

theorem acquireEnded_acq (s : State) (k : Fin 16) (a : Acq) : ((acquireEnded s k a).strand k).acq = none := by
  rw [acquireEnded, State.modStrand_strand_same]

/-- The register that the acquire's load was to fill holds its value. -/
theorem acquireEnded_reg {s : State} {k : Fin 16} (unspilled : (s.strand k).spilled = []) {a : Acq} {n : Nat} {v : Word} (fill : a.fill = some (n, v))
    {l : Loc} (bound : ((s.strand k).reg l).bind = some (.fill n)) (empty : ((s.strand k).reg l).full = false) :
    ((acquireEnded s k a).strand k).reg l = ⟨v, Tag.full, true, none⟩ := by
  have kept : ((creditLat s n k).strand k).reg l = (s.strand k).reg l := by
    rw [creditLat_strand]
    cases l <;> rfl
  have same : ((acquireEnded s k a).strand k).reg l = ((acquireFilled s k a).strand k).reg l := by
    rw [acquireEnded, State.modStrand_strand_same]
    cases l <;> rfl
  have filled : acquireFilled s k a = fillReg (creditLat s n k) k n v Tag.full := by rw [acquireFilled, fill]
  rw [same, filled, fillReg_strand ((creditLat_spilled s n k).trans unspilled), Strand.fillWith_reg, kept, Reg.fillWith_eq, if_pos ⟨bound, empty⟩]

/-! ## Releases (R210) -/

theorem exec_releaseComplete (s : State) (k : Fin 16) : exec (.releaseComplete k) s = execReleaseComplete k s := rfl

theorem rank_wide (sc : Scope) : 4 ≤ Scope.rank sc ↔ sc = .device ∨ sc = .system := by cases sc <;> decide

/-- The release leaves the head of the buffer. -/
def releasePopped (s : State) (k : Fin 16) (rest : List SbItem) : State := s.modStrand k fun x => { x with sb := rest }

/-- The release has written through, and waits for what is on its way. -/
def releaseWrote (s : State) (k : Fin 16) (n : Nat) (sc : Scope) (sig : Signal) (full : Bool) (rest : List SbItem) : State :=
  (writeThroughAll s k).modStrand k fun x => { x with sb := .release n sc sig true full :: rest }

section ReleaseComplete
variable {s : State} {k : Fin 16} {n : Nat} {sc : Scope} {sig : Signal} {wrote full : Bool} {rest : List SbItem}
  (head : (s.strand k).sb = .release n sc sig wrote full :: rest)
include head

theorem releaseComplete_earlier (earlier : ∃ r ∈ s.core.reqs, r.strand = k ∧ r.ticket < n) :
    exec (.releaseComplete k) s = .next (retry s (.releaseComplete k)) := by
  rw [exec_releaseComplete, execReleaseComplete, head]
  exact if_pos (by simpa using earlier)

variable (first : ¬ ∃ r ∈ s.core.reqs, r.strand = k ∧ r.ticket < n)
include first

theorem releaseComplete_first : exec (.releaseComplete k) s =
    if 4 ≤ Scope.rank sc && !wrote then
      if anyDirty (writeThroughAll s k) then .next (retry (writeThroughAll s k) (.releaseComplete k))
      else .next (retry (releaseWrote s k n sc sig full rest) (.releaseComplete k))
    else if 4 ≤ Scope.rank sc && (throughPending s || strandWrites s k) then .next (retry s (.releaseComplete k))
    else if servedHolds s k then .next (retry s (.releaseComplete k))
    else if signalWaits s sig then .next (retry (needCopy s (signalPa s sig)) (.releaseComplete k))
    else .next (releaseSignal (releasePopped s k rest) k n sig) := by
  rw [exec_releaseComplete, execReleaseComplete, head]
  exact if_neg (by simpa using first)

theorem releaseComplete_dirty (wide : 4 ≤ Scope.rank sc) (unwritten : wrote = false) (dirty : anyDirty (writeThroughAll s k) = true) :
    exec (.releaseComplete k) s = .next (retry (writeThroughAll s k) (.releaseComplete k)) := by
  rw [releaseComplete_first head first, if_pos (by simp [wide, unwritten]), if_pos dirty]

theorem releaseComplete_clean (wide : 4 ≤ Scope.rank sc) (unwritten : wrote = false) (clean : anyDirty (writeThroughAll s k) = false) :
    exec (.releaseComplete k) s = .next (retry (releaseWrote s k n sc sig full rest) (.releaseComplete k)) := by
  rw [releaseComplete_first head first, if_pos (by simp [wide, unwritten]), if_neg (Bool.eq_false_iff.mp clean)]

theorem releaseComplete_waits (wide : 4 ≤ Scope.rank sc) (written : wrote = true) (pending : throughPending s = true ∨ strandWrites s k = true) :
    exec (.releaseComplete k) s = .next (retry s (.releaseComplete k)) := by
  rw [releaseComplete_first head first, if_neg (by simp [written]), if_pos (by simpa [wide] using pending)]

variable (out : ¬ 4 ≤ Scope.rank sc ∨ wrote = true ∧ throughPending s = false ∧ strandWrites s k = false)
include out

theorem releaseComplete_out : exec (.releaseComplete k) s =
    if servedHolds s k then .next (retry s (.releaseComplete k))
    else if signalWaits s sig then .next (retry (needCopy s (signalPa s sig)) (.releaseComplete k))
    else .next (releaseSignal (releasePopped s k rest) k n sig) := by
  rw [releaseComplete_first head first]
  obtain narrow | ⟨written, through, writes⟩ := out
  · rw [if_neg (by simp [narrow]), if_neg (by simp [narrow])]
  · rw [if_neg (by simp [written]), if_neg (by simp [through, writes])]

theorem releaseComplete_served (served : servedHolds s k = true) : exec (.releaseComplete k) s = .next (retry s (.releaseComplete k)) := by
  rw [releaseComplete_out head first out, if_pos served]

variable (free : servedHolds s k = false)
include free

theorem releaseComplete_held (waits : signalWaits s sig = true) :
    exec (.releaseComplete k) s = .next (retry (needCopy s (signalPa s sig)) (.releaseComplete k)) := by
  rw [releaseComplete_out head first out, if_neg (Bool.eq_false_iff.mp free), if_pos waits]

theorem releaseComplete_lets (goes : signalWaits s sig = false) :
    exec (.releaseComplete k) s = .next (releaseSignal (releasePopped s k rest) k n sig) := by
  rw [releaseComplete_out head first out, if_neg (Bool.eq_false_iff.mp free), if_neg (Bool.eq_false_iff.mp goes)]

end ReleaseComplete

theorem releaseWrote_strand (s : State) (k : Fin 16) (n : Nat) (sc : Scope) (sig : Signal) (full : Bool) (rest : List SbItem) :
    ((releaseWrote s k n sc sig full rest).strand k).sb = .release n sc sig true full :: rest := by
  rw [releaseWrote, State.modStrand_strand_same]

theorem releaseWrote_cache (s : State) (k : Fin 16) (n : Nat) (sc : Scope) (sig : Signal) (full : Bool) (rest : List SbItem) :
    (releaseWrote s k n sc sig full rest).core.cache = (writeThroughAll s k).core.cache := rfl

theorem releaseWrote_sameMemory (s : State) (k : Fin 16) (n : Nat) (sc : Scope) (sig : Signal) (full : Bool) (rest : List SbItem) :
    SameMemory s (releaseWrote s k n sc sig full rest) := (writeThroughAll_buffersOnly s k).sameMemory.trans (modStrand_sameMemory _ _ _)

theorem releaseWrote_now (s : State) (k : Fin 16) (n : Nat) (sc : Scope) (sig : Signal) (full : Bool) (rest : List SbItem) :
    (releaseWrote s k n sc sig full rest).now = s.now := (writeThroughAll_buffersOnly s k).now

theorem releasePopped_strand (s : State) (k : Fin 16) (rest : List SbItem) : ((releasePopped s k rest).strand k).sb = rest := by
  rw [releasePopped, State.modStrand_strand_same]

theorem releasePopped_sameMemory (s : State) (k : Fin 16) (rest : List SbItem) : SameMemory s (releasePopped s k rest) := modStrand_sameMemory _ _ _

/-! ## What a release lets out -/

section
variable {s : State} {x : WordStore}

theorem releaseSignal_ownStore (own : ownTcm s x.pa = true) (k : Fin 16) (n : Nat) (nc : Bool) :
    releaseSignal s k n (.store x nc) = homeStore s x := if_pos own

/-- A store to another home on the die heads the buffer again. -/
def storeBack (s : State) (k : Fin 16) (n : Nat) (x : WordStore) (nc : Bool) : State :=
  s.modStrand k fun t => { t with sb := .store n x nc false :: t.sb }

theorem releaseSignal_dieStore (other : ownTcm s x.pa = false) (near : onDie s x.pa = true) (k : Fin 16) (n : Nat) (nc : Bool) :
    releaseSignal s k n (.store x nc) = (storeBack s k n x nc).later none (.storeLeave k) :=
  (if_neg (Bool.eq_false_iff.mp other)).trans (if_pos near)

theorem storeBack_strand (s : State) (k : Fin 16) (n : Nat) (x : WordStore) (nc : Bool) :
    ((storeBack s k n x nc).strand k).sb = .store n x nc false :: (s.strand k).sb := by
  rw [storeBack, State.modStrand_strand_same]

theorem releaseSignal_farStore (other : ownTcm s x.pa = false) (far : onDie s x.pa = false) (k : Fin 16) (n : Nat) (nc : Bool) :
    releaseSignal s k n (.store x nc) = pushDbb (cacheUpdate s x) k .release x :=
  (if_neg (Bool.eq_false_iff.mp other)).trans (if_neg (Bool.eq_false_iff.mp far))

end

theorem cacheUpdate_die (s : State) (x : WordStore) : (cacheUpdate s x).die = s.die := by
  unfold cacheUpdate
  dsimp only
  repeat' split
  all_goals rfl

theorem cacheUpdate_wbq (s : State) (x : WordStore) : (cacheUpdate s x).core.wbq = s.core.wbq := by
  unfold cacheUpdate
  dsimp only
  repeat' split
  all_goals rfl

/-- A write finds room in its bank unless the bank is full (R206). -/
theorem pushDbb_enters {s : State} {x : WordStore} (room : bankFull s x.pa = false) (k : Fin 16) (kind : DbbKind) (bad : Bool) :
    ∃ e ∈ (pushDbb s k kind x bad).die.dbb, e.kind = kind ∧ e.x = x ∧ e.strand = k ∧ e.gcore = s.core.gcore := by
  have fits : ((s.die.dbb.filter fun y => bankOf y.x.pa = bankOf x.pa).length < 32 && !(s.core.wbq.any fun y => bankOf y.x.pa = bankOf x.pa)) = true := by
    simpa [bankFull] using room
  refine ⟨⟨s.ticket, s.core.gcore, k, kind, x, false, bad⟩, ?_, rfl, rfl, rfl, rfl⟩
  rw [show pushDbb s k kind x bad = _ from if_pos fits]
  exact List.mem_append_right _ (List.mem_singleton_self _)

theorem bankFull_congr {s t : State} (die : t.die = s.die) (wbq : t.core.wbq = s.core.wbq) (pa : Nat) : bankFull t pa = bankFull s pa := by
  rw [bankFull, bankFull, die, wbq]

theorem fenceAdd_notifies {s : State} {f i : Nat} (free : ckptHolds s f (fenceAddr s f i) = false) (n : Word) :
    (s.nextDieWheel, Act.fenceCounterNotify ⟨f % 17, Nat.mod_lt _ (by decide)⟩ i) ∈ (fenceAdd s f i n).agenda := by
  unfold fenceAdd
  dsimp only
  rw [if_neg (Bool.eq_false_iff.mp free)]
  exact State.mem_at _ _ _

theorem releaseSignal_fcinc_agenda (s : State) (k : Fin 16) (n f i : Nat) (m : Word) (vec : Option (BitVec 6)) :
    (releaseSignal s k n (.fcinc f i m vec)).agenda = (fenceAdd s f i m).agenda := by
  cases vec <;> rfl

/-- The units of HBM that a launch's line takes are asked for. -/
def launchAsked (s : State) (h : Fin 128) (pa : Nat) : State :=
  askLines { s with ticket := s.ticket + 1 } s.ticket (some h) (loadClass s) false [pa]

theorem releaseSignal_launch (s : State) (k : Fin 16) (n : Nat) (h : Fin 128) (q : BitVec 12) (pa : Nat) :
    releaseSignal s k n (.launch h q pa) =
      (launchAsked s h pa).later none (.launchEnqueue h q (Vector.ofFn fun i => wordAt s (pa + 8 * i.val))) := rfl

theorem launchAsked_unitsOnly (s : State) (h : Fin 128) (pa : Nat) : UnitsOnly { s with ticket := s.ticket + 1 } (launchAsked s h pa) :=
  askLines_unitsOnly _ _ _ _ _ _

theorem launchAsked_sameMemory (s : State) (h : Fin 128) (pa : Nat) : SameMemory s (launchAsked s h pa) :=
  (sameMemory_of rfl rfl rfl rfl : SameMemory s { s with ticket := s.ticket + 1 }).trans (launchAsked_unitsOnly s h pa).sameMemory

theorem launchAsked_now (s : State) (h : Fin 128) (pa : Nat) : (launchAsked s h pa).now = s.now := (launchAsked_unitsOnly s h pa).now

theorem later_sameMemory (s : State) (bound : Option Nat) (a : Act) : SameMemory s (s.later bound a) := sameMemory_of rfl rfl rfl rfl

end Sys2Proof.Machine
end

section
/-! O46: line fills, the boundary buffer, acquires and releases (R185, R186, R206, R209, R210). -/

namespace Sys2Proof.Claims

open Sys2Proof.Machine

/-- An absent line, fetched, takes its words from memory; the cycles its references waited are counted (R185, R225). -/
theorem cacheLineFill_absent (s : State) (line n : Nat) (ro : Bool) (k : Fin 16) (only : s.core.fetches = [⟨line, ro, n, k⟩])
    (idle : lineBusy s line = false) (served : hbmPending s n = false) (room : evictRoom s line = true) (absent : cacheFind s line = none) :
    ∃ t l, exec (.cacheLineFill line) s = .next t ∧ cacheFind t line = some l ∧ l.ro = ro ∧ t.core.fetches = [] ∧
      (s.core.refWaits = [] → (t.strand k).latcnt = (s.strand k).latcnt) ∧
      (∀ c, s.core.refWaits = [(n, c)] → (t.strand k).latcnt = (s.strand k).latcnt + word c ∧ t.core.refWaits = []) ∧
      (home s (64 * line) ≠ .host → SameMemory s t ∧
        ∀ i : Fin 8, l.words[i] = ⟨true, false, wordAt s (line * 64 + 8 * i.val), poisoned s (line * 64 + 8 * i.val)⟩) := by
  obtain ⟨u, found, read, filled⟩ := lineFilled_absent (n := n) (k := k) ro absent
  refine ⟨_, _, cacheLineFill_ready only idle served room, found, rfl, filled.fetches.trans (fetchEnded_fetches only), fun none => ?_,
    fun c one => ⟨?_, ?_⟩, fun own => ⟨filled.memory own, fun i => ?_⟩⟩
  · rw [filled.strand, creditLat_strand, none]
    exact BitVec.add_zero _
  · rw [filled.strand, creditLat_strand, one]
    simp
  · rw [filled.refWaits, creditLat_refWaits, one]
    simp
  · obtain ⟨-, -, -, poison⟩ := read own (line * 64 + 8 * i.val)
    rw [filledLine_emptyLine, (read own).wordAt, poison]

/-- A line that is there keeps its valid words. -/
theorem cacheLineFill_present (s : State) (line n : Nat) (ro : Bool) (k : Fin 16) (l0 : CLine) (only : s.core.fetches = [⟨line, ro, n, k⟩])
    (idle : lineBusy s line = false) (served : hbmPending s n = false) (room : evictRoom s line = true) (present : cacheFind s line = some l0) :
    ∃ t l, exec (.cacheLineFill line) s = .next t ∧ cacheFind t line = some l ∧
      ∀ i : Fin 8, (l.words[i]).valid = true ∧ ((l0.words[i]).valid = true → l.words[i] = l0.words[i]) := by
  obtain ⟨u, found⟩ := lineFilled_present (n := n) (k := k) ro present
  refine ⟨_, _, cacheLineFill_ready only idle served room, found, fun i => ?_⟩
  rw [filledLine_words]
  split
  · exact ⟨‹_›, fun _ => rfl⟩
  · exact ⟨rfl, fun valid => absurd valid ‹_›⟩

/-- What stays while the first entry of a bank waits: memory and the entries, and the bank is asked again. -/
def EntryWaits (s : State) (bank : Fin 16) (t : State) : Prop :=
  SameMemory s t ∧ (s.now + 1, Act.dbbEntryAck bank) ∈ t.agenda ∧ t.die.dbb.map (·.id) = s.die.dbb.map (·.id)

section
variable {s : State} {bank : Fin 16} {e : DbbEntry} (first : s.die.dbb.find? (fun y => bankOf y.x.pa = bank.val) = some e)
include first

theorem dbbEntryAck_held_waits (held : ckptHolds s s.func e.x.pa = true) : ∃ t, exec (.dbbEntryAck bank) s = .next t ∧ EntryWaits s bank t ∧
    ∃ h ∈ t.hub.held, h.func.val = s.func % 17 ∧ h.granule = e.x.pa / 8192 := by
  have asked : CopyAsked s (needCopy s e.x.pa) := needCopyFor_copyAsked s _ _
  refine ⟨_, dbbEntryAck_held first held, ⟨asked.sameMemory.trans (retry_sameMemory _ _), ?_, ?_⟩, needCopy_held held⟩
  · rw [← asked.now]
    exact retry_mem _ _
  · rw [retry, State.at_die, asked.die]

variable (free : ckptHolds s s.func e.x.pa = false)
include free

theorem dbbEntryAck_sends_waits (hbm : isHbm e.x.pa = true) (unsent : e.sent = false) : ∃ t, exec (.dbbEntryAck bank) s = .next t ∧
    EntryWaits s bank t ∧ ∀ y ∈ t.die.dbb, y.id = e.id → y.sent = true := by
  have units := sendEntry_unitsOnly s e
  refine ⟨_, dbbEntryAck_sends first free hbm unsent, ⟨?_, ?_, sendEntry_ids s e⟩, sendEntry_sent s e⟩
  · exact (sameMemory_of rfl rfl rfl rfl : SameMemory s _).trans (units.sameMemory.trans (retry_sameMemory _ _))
  · rw [← show (sendEntry s e).now = s.now from units.now]
    exact retry_mem _ _

variable (sent : isHbm e.x.pa = true → e.sent = true)
include sent

theorem dbbEntryAck_pending_waits (pending : hbmPending s e.ticket = true) :
    ∃ t, exec (.dbbEntryAck bank) s = .next t ∧ EntryWaits s bank t :=
  ⟨_, dbbEntryAck_waits first free sent pending, retry_sameMemory _ _, retry_mem _ _, rfl⟩

/-- An entry performed is gone, and otherwise memory is as its home made it. -/
theorem dbbEntryAck_leaves (served : hbmPending s e.ticket = false) {u : State} (made : SameMemory u (performEntry s e))
    (kept : (performEntry s e).core.wbq = s.core.wbq) : ∃ t, exec (.dbbEntryAck bank) s = .next t ∧ EntryLeft s e.id u t := by
  obtain ⟨memory, gone, dbb⟩ := entryLeft_of kept e.id bank.val
  exact ⟨_, dbbEntryAck_performs first free sent served, made.trans memory, gone, dbb⟩

theorem dbbEntryAck_performs_plain (plain : ∀ n, e.kind ≠ .atomic n) (served : hbmPending s e.id = false) :
    ∃ t, exec (.dbbEntryAck bank) s = .next t ∧ EntryLeft s e.id (entryHome s e) t := by
  obtain ⟨made, kept⟩ := performEntry_home (s := s) plain
  exact dbbEntryAck_leaves first free sent (DbbEntry.ticket_plain plain ▸ served) made kept

theorem dbbEntryAck_performs_atomic {n : Nat} {r : Req} (kind : e.kind = .atomic n) (req : s.core.reqs.find? (·.ticket = n) = some r)
    (served : hbmPending s n = false) :
    ∃ t, exec (.dbbEntryAck bank) s = .next t ∧ EntryLeft s e.id (performAtomic s r (.dbbEntryAck bank)) t := by
  have here : bankOf e.x.pa = bank.val := by simpa using List.find?_some first
  have atomic := performEntry_atomic kind req here
  exact dbbEntryAck_leaves first free sent (DbbEntry.ticket_atomic kind ▸ served) (atomic ▸ .refl _) (atomic ▸ performAtomic_wbq s r _)

end

section Acquire
variable {s : State} {k : Fin 16} {a : Acq} (acq : (s.strand k).acq = some a) (loaded : a.load = false) (free : fullHolds s k = false)
include acq loaded free

/-- An acquire that writes the cache through asks again (R186). -/
theorem acquireComplete_dirty_keeps (wrote : a.wrote = false) (dirty : anyDirty (writeThroughAll s k) = true) :
    ∃ t, exec (.acquireComplete k) s = .next t ∧ SameMemory s t ∧ (t.strand k).acq = some a ∧ (s.now + 1, Act.acquireComplete k) ∈ t.agenda := by
  have out := writeThroughAll_buffersOnly s k
  refine ⟨_, acquireComplete_dirty acq loaded free wrote dirty, out.sameMemory.trans (retry_sameMemory _ _), ?_, ?_⟩
  · rw [retry_strand, out.strand, acq]
  · rw [← out.now]
    exact retry_mem _ _

/-- An acquire whose lines are clean drops those not read-only (R186, R209). -/
theorem acquireComplete_clean_drops (wrote : a.wrote = false) (clean : anyDirty (writeThroughAll s k) = false) :
    ∃ t, exec (.acquireComplete k) s = .next t ∧ SameMemory s t ∧ (∀ l ∈ t.core.cache, l.ro = true) ∧
      (t.strand k).acq = some { a with wrote := true } ∧ (s.now + 1, Act.acquireComplete k) ∈ t.agenda := by
  refine ⟨_, acquireComplete_clean acq loaded free wrote clean, (acquireWrote_sameMemory s k a).trans (retry_sameMemory _ _), ?_, ?_, ?_⟩
  · rw [retry, State.at_core, acquireWrote_cache]
    exact fun l hl => (List.mem_filter.mp hl).2
  · rw [retry_strand, acquireWrote_strand]
  · rw [← acquireWrote_now s k a]
    exact retry_mem _ _

/-- An acquire completes, and its load's value is had (R209). -/
theorem acquireComplete_ends_fills (wrote : a.wrote = true) (through : throughPending s = false) (unspilled : (s.strand k).spilled = []) :
    ∃ t, exec (.acquireComplete k) s = .next t ∧ (t.strand k).acq = none ∧ SameMemory s t ∧
      ∀ n v l, a.fill = some (n, v) → ((s.strand k).reg l).bind = some (.fill n) → ((s.strand k).reg l).full = false →
        (t.strand k).reg l = ⟨v, Tag.full, true, none⟩ :=
  ⟨_, acquireComplete_ends acq loaded free wrote through, acquireEnded_acq s k a, acquireEnded_sameMemory unspilled a,
    fun _ _ _ fill bound empty => acquireEnded_reg unspilled fill bound empty⟩

end Acquire

section Release
variable {s : State} {k : Fin 16} {n : Nat} {sc : Scope} {sig : Signal} {wrote full : Bool} {rest : List SbItem}
  (head : (s.strand k).sb = .release n sc sig wrote full :: rest)
  (first : ¬ ∃ r ∈ s.core.reqs, r.strand = k ∧ r.ticket < n)
include head first

/-- A release that writes the cache through asks again (R186). -/
theorem releaseComplete_dirty_keeps (wide : 4 ≤ Scope.rank sc) (unwritten : wrote = false) (dirty : anyDirty (writeThroughAll s k) = true) :
    ∃ t, exec (.releaseComplete k) s = .next t ∧ SameMemory s t ∧ (t.strand k).sb = (s.strand k).sb ∧
      (s.now + 1, Act.releaseComplete k) ∈ t.agenda := by
  have through := writeThroughAll_buffersOnly s k
  refine ⟨_, releaseComplete_dirty head first wide unwritten dirty, through.sameMemory.trans (retry_sameMemory _ _), ?_, ?_⟩
  · rw [retry_strand, through.strand]
  · rw [← through.now]
    exact retry_mem _ _

/-- A release whose lines are clean has written through. -/
theorem releaseComplete_clean_notes (wide : 4 ≤ Scope.rank sc) (unwritten : wrote = false) (clean : anyDirty (writeThroughAll s k) = false) :
    ∃ t, exec (.releaseComplete k) s = .next t ∧ SameMemory s t ∧ (t.strand k).sb = .release n sc sig true full :: rest ∧
      (s.now + 1, Act.releaseComplete k) ∈ t.agenda ∧
      ∀ l ∈ t.core.cache, ∀ i : Fin 8, (l.words[i]).valid = true → (l.words[i]).dirty = false := by
  refine ⟨_, releaseComplete_clean head first wide unwritten clean, (releaseWrote_sameMemory s k n sc sig full rest).trans (retry_sameMemory _ _),
    ?_, ?_, ?_⟩
  · rw [retry_strand, releaseWrote_strand]
  · rw [← releaseWrote_now s k n sc sig full rest]
    exact retry_mem _ _
  · rw [retry, State.at_core, releaseWrote_cache]
    exact anyDirty_false clean

variable (out : ¬ 4 ≤ Scope.rank sc ∨ wrote = true ∧ throughPending s = false ∧ strandWrites s k = false) (free : servedHolds s k = false)
include out free

/-- A release whose own write waits asks again (R206, R538). -/
theorem releaseComplete_held_keeps (waits : signalWaits s sig = true) : ∃ t, exec (.releaseComplete k) s = .next t ∧ SameMemory s t ∧
    (t.strand k).sb = (s.strand k).sb ∧ (s.now + 1, Act.releaseComplete k) ∈ t.agenda := by
  have asked : CopyAsked s (needCopy s (signalPa s sig)) := needCopyFor_copyAsked s _ _
  refine ⟨_, releaseComplete_held head first out free waits, asked.sameMemory.trans (retry_sameMemory _ _), ?_, ?_⟩
  · rw [retry_strand, State.strand_congr (congrArg Core.strands asked.core) k]
  · rw [← asked.now]
    exact retry_mem _ _

/-- A release that lets out no write is over. -/
theorem releaseComplete_alone (is : sig = .none) : ∃ t, exec (.releaseComplete k) s = .next t ∧ (t.strand k).sb = rest ∧ SameMemory s t := by
  have lets := releaseComplete_lets head first out free (by rw [is]; rfl)
  rw [is] at lets
  exact ⟨_, lets, releasePopped_strand s k rest, releasePopped_sameMemory s k rest⟩

/-- A release's store to the core's own TCM is performed there. -/
theorem releaseComplete_ownStore {x : WordStore} {nc : Bool} (is : sig = .store x nc) (own : ownTcm s x.pa = true)
    (goes : signalWaits s sig = false) :
    ∃ t, exec (.releaseComplete k) s = .next t ∧ t = homeStore (s.modStrand k fun y => { y with sb := rest }) x := by
  have lets := releaseComplete_lets head first out free goes
  rw [is, releaseSignal_ownStore (s := releasePopped s k rest) own] at lets
  exact ⟨_, lets, rfl⟩

/-- A release's store to the die leaves as the head of the buffer does (R176). -/
theorem releaseComplete_dieStore {x : WordStore} {nc : Bool} (is : sig = .store x nc) (other : ownTcm s x.pa = false) (near : onDie s x.pa = true)
    (goes : signalWaits s sig = false) : ∃ t m, exec (.releaseComplete k) s = .next t ∧ (t.strand k).sb = .store n x nc false :: rest ∧
      SameMemory s t ∧ s.now < m ∧ (m, Act.storeLeave k) ∈ t.agenda := by
  have lets := releaseComplete_lets head first out free goes
  rw [is, releaseSignal_dieStore (s := releasePopped s k rest) other near] at lets
  obtain ⟨m, later, mem⟩ := State.mem_later (storeBack (releasePopped s k rest) k n x nc) none (.storeLeave k)
  refine ⟨_, m, lets, ?_, ?_, later, mem⟩
  · exact (storeBack_strand _ k n x nc).trans (congrArg _ (releasePopped_strand s k rest))
  · exact (releasePopped_sameMemory s k rest).trans ((modStrand_sameMemory _ _ _).trans (later_sameMemory _ _ _))

/-- A release's store off the die enters the boundary buffer (R206). -/
theorem releaseComplete_farStore {x : WordStore} {nc : Bool} (is : sig = .store x nc) (other : ownTcm s x.pa = false) (far : onDie s x.pa = false)
    (goes : signalWaits s sig = false) : ∃ t, exec (.releaseComplete k) s = .next t ∧ (t.strand k).sb = rest ∧ SameMemory s t ∧
      ∃ e ∈ t.die.dbb, e.kind = .release ∧ e.x = x ∧ e.strand = k ∧ e.gcore = s.core.gcore := by
  have lets := releaseComplete_lets head first out free goes
  rw [is, releaseSignal_farStore (s := releasePopped s k rest) other far] at lets
  have made := (cacheUpdate_buffersOnly (releasePopped s k rest) x).trans (pushDbb_buffersOnly _ k .release x false)
  have room : bankFull s x.pa = false := by simpa [is, signalWaits, far] using goes
  obtain ⟨e, mem, kind, store, strand, gcore⟩ := pushDbb_enters ((bankFull_congr (t := cacheUpdate (releasePopped s k rest) x)
    (cacheUpdate_die _ x) (cacheUpdate_wbq _ x) x.pa).trans room) k .release false
  refine ⟨_, lets, ?_, (releasePopped_sameMemory s k rest).trans made.sameMemory, e, mem, kind, store, strand, gcore.trans ?_⟩
  · rw [made.strand, releasePopped_strand]
  · exact (cacheUpdate_buffersOnly _ x).gcore

/-- A release's increment is told at the die's next wheel (R255, R412). -/
theorem releaseComplete_fcinc {f i : Nat} {m : Word} {vec : Option (BitVec 6)} (is : sig = .fcinc f i m vec) (goes : signalWaits s sig = false) :
    ∃ t, exec (.releaseComplete k) s = .next t ∧
      (s.nextDieWheel, Act.fenceCounterNotify ⟨f % 17, Nat.mod_lt _ (by decide)⟩ i) ∈ t.agenda := by
  have lets := releaseComplete_lets head first out free goes
  rw [is] at lets goes
  refine ⟨_, lets, ?_⟩
  rw [releaseSignal_fcinc_agenda]
  exact fenceAdd_notifies (s := releasePopped s k rest) goes m

/-- A release's launch carries the 64 bytes of its record to the hub (R210). -/
theorem releaseComplete_launch {h : Fin 128} {q : BitVec 12} {pa : Nat} (is : sig = .launch h q pa) :
    ∃ t m, exec (.releaseComplete k) s = .next t ∧ SameMemory s t ∧ s.now < m ∧
      (m, Act.launchEnqueue h q (Vector.ofFn fun i => wordAt s (pa + 8 * i.val))) ∈ t.agenda := by
  have lets := releaseComplete_lets head first out free (by rw [is]; rfl)
  rw [is, releaseSignal_launch] at lets
  obtain ⟨m, later, mem⟩ := State.mem_later (launchAsked (releasePopped s k rest) h pa) none
    (.launchEnqueue h q (Vector.ofFn fun i => wordAt (releasePopped s k rest) (pa + 8 * i.val)))
  refine ⟨_, m, lets, ?_, (launchAsked_now (releasePopped s k rest) h pa) ▸ later, mem⟩
  exact (releasePopped_sameMemory s k rest).trans ((launchAsked_sameMemory _ h pa).trans (later_sameMemory _ _ _))

end Release

/-- Settles O46: the stages of line fills, of the boundary buffer's entries, of acquires and of releases, each by its own lemma. -/
theorem cacheBuffersAndReleases : Obligations.CacheBuffersAndReleases := by
  refine ⟨cacheLineFill_absent, cacheLineFill_present, fun s line n ro k only => cacheLineFill_waits only, fun s bank e first => ?_,
    fun s k => acquireComplete_none, fun s k a acq => ⟨acquireComplete_blocked acq, acquireComplete_dirty_keeps acq, acquireComplete_clean_drops acq,
      acquireComplete_waits acq, acquireComplete_ends_fills acq⟩, fun s k n sc sig wrote full rest head => ?_⟩
  · refine ⟨dbbEntryAck_held_waits first, fun free plain => ?_, fun n r free kind req sent served => ?_⟩
    · have ticket : e.ticket = e.id := DbbEntry.ticket_plain plain
      exact ⟨dbbEntryAck_sends_waits first free, fun sent pending => dbbEntryAck_pending_waits first free sent (ticket ▸ pending),
        fun sent served => dbbEntryAck_performs_plain first free sent plain served⟩
    · exact dbbEntryAck_performs_atomic first free sent kind req served
  · intro again wide earlier through
    rw [show wide ↔ 4 ≤ Scope.rank sc from (rank_wide sc).symm]
    exact ⟨releaseComplete_earlier head, releaseComplete_dirty_keeps head, releaseComplete_clean_notes head, releaseComplete_waits head,
      releaseComplete_served head, fun first out free => ⟨releaseComplete_held_keeps head first out free,
        releaseComplete_alone head first out free, fun x nc => releaseComplete_ownStore head first out free,
        fun x nc => releaseComplete_dieStore head first out free, fun x nc => releaseComplete_farStore head first out free,
        fun f i m vec => releaseComplete_fcinc head first out free, fun h q pa => releaseComplete_launch head first out free⟩⟩

end Sys2Proof.Claims
end

section
/-! SUPPORT. Fences: the gate before them, and what they change of their strand (O20, R206, R209, R210, R211). -/

open Sys2Proof.Claims

namespace Sys2Proof.Machine

theorem exec_fenceAcq (sc : Scope) (s : State) : exec (.fenceAcq sc) s = execFenceAcq sc s := rfl
theorem exec_fenceRel (sc : Scope) (s : State) : exec (.fenceRel sc) s = execFenceRel sc s := rfl
theorem exec_fenceFull (sc : Scope) (s : State) : exec (.fenceFull sc) s = execFenceFull sc s := rfl

/-! ## The gate of a fence (R206, R73) -/

theorem throughFull_of_dirty {s : State} (full : 64 ≤ s.core.wbq.length)
    (dirty : ∃ l ∈ s.core.cache, l.dirty ≠ 0 ∧ bankFull s (l.line * 64) = true) : throughFull s = true := by
  have found : (s.core.cache.any fun l => l.dirty != 0 && bankFull s (l.line * 64)) = true := by
    simpa [List.any_eq_true] using dirty
  rw [throughFull, decide_eq_true full, found, Bool.and_self]

/-- A narrow scope writes nothing through. -/
theorem throughGate_ok {s : State} {sc : Scope} (passes : Scope.rank sc < 4 ∨ ThroughRoom s) : throughGate s sc = .ok () := by
  rcases passes with narrow | room
  · simp [throughGate, Nat.not_le.mpr narrow]
  · simp [throughGate, throughFull_of_room room]

theorem throughGate_stalls {s : State} {sc : Scope} (wide : 4 ≤ Scope.rank sc) (full : throughFull s = true) :
    throughGate s sc = .error (.stall .writeBackFull) := by
  simp [throughGate, wide, full]

/-- Each fence passes its gate before anything else. -/
theorem fence_stalls {s : State} {sc : Scope} {i : Instr} (fence : i ∈ [Instr.fenceAcq sc, .fenceRel sc, .fenceFull sc])
    (wide : 4 ≤ Scope.rank sc) (full : throughFull s = true) : exec i s = .next (s.setRun s.cur (.stalled .writeBackFull)) := by
  have gate := throughGate_stalls wide full
  simp only [List.mem_cons, List.not_mem_nil, or_false] at fence
  rcases fence with rfl | rfl | rfl
  · rw [exec_fenceAcq, execFenceAcq, gate]
    rfl
  · rw [exec_fenceRel, execFenceRel, gate]
    rfl
  · rw [exec_fenceFull, execFenceFull, gate]
    rfl

section
variable {s : State} {sc : Scope} (passes : Scope.rank sc < 4 ∨ ThroughRoom s)
include passes

theorem fenceAcq_passes : exec (.fenceAcq sc) s = .next (fenceAcquire (retire s) sc) := by
  rw [exec_fenceAcq, execFenceAcq, throughGate_ok passes]; rfl

theorem fenceRel_passes (beyond : sc ≠ .strand) : exec (.fenceRel sc) s = .next (pushRelease (retire s) sc .none false) := by
  rw [exec_fenceRel, execFenceRel, throughGate_ok passes, if_neg beyond]; rfl

theorem fenceFull_passes (beyond : sc ≠ .strand) :
    exec (.fenceFull sc) s = .next (fenceAcquire (pushRelease (retire s) sc .none true) sc) := by
  rw [exec_fenceFull, execFenceFull, throughGate_ok passes, if_neg beyond]; rfl

end

/-- At strand scope a release only moves the PC on (R210). -/
theorem fenceRel_strand (s : State) : exec (.fenceRel .strand) s = .next (retire s) := by
  rw [exec_fenceRel, execFenceRel, throughGate_ok (.inl (by decide))]; rfl

theorem fenceFull_strand (s : State) : exec (.fenceFull .strand) s = .next (retire s) := by
  rw [exec_fenceFull, execFenceFull, throughGate_ok (.inl (by decide))]; rfl

/-! ## The issuing strand after an acquire begins and after a release is buffered -/

theorem fenceAcquire_wide {sc : Scope} (wide : 4 ≤ Scope.rank sc) (s : State) : fenceAcquire s sc = beginAcquire s s.cur sc false :=
  if_pos (decide_eq_true wide)

theorem fenceAcquire_narrow {sc : Scope} (narrow : Scope.rank sc < 4) (s : State) : fenceAcquire s sc = s :=
  if_neg (by simpa [Scope.wide] using narrow)

/-- An acquire of a fence changes its strand in its acquire alone, and begins at the wide scopes (R209). -/
theorem fenceAcquire_strand (s : State) (sc : Scope) :
    ∃ a, (fenceAcquire s sc).st = { s.st with acq := a } ∧ (4 ≤ Scope.rank sc → a.isSome = true) := by
  by_cases wide : 4 ≤ Scope.rank sc
  · obtain ⟨a, strand, begun⟩ := beginAcquire_strand s s.cur s.cur sc false
    rw [fenceAcquire_wide wide]
    exact ⟨a, strand, fun _ => begun rfl⟩
  · rw [fenceAcquire_narrow (Nat.not_le.mp wide)]
    exact ⟨s.st.acq, rfl, (absurd · wide)⟩

theorem pushRelease_strand (s : State) (sc : Scope) (sig : Signal) (full : Bool) :
    (pushRelease s sc sig full).st = { s.st with sb := s.st.sb ++ [.release s.ticket sc sig false full] } :=
  State.modStrand_strand_same { s with ticket := s.ticket + 1 } s.cur
    fun x => { x with sb := x.sb ++ [.release s.ticket sc sig false full] }

theorem retire_sb (s : State) : (retire s).st.sb = s.st.sb :=
  congrArg (·.sb) (State.modStrand_strand_same s s.cur Strand.next : (retire s).st = s.st.next)

theorem retire_acq (s : State) : (retire s).st.acq = s.st.acq :=
  congrArg (·.acq) (State.modStrand_strand_same s s.cur Strand.next : (retire s).st = s.st.next)

end Sys2Proof.Machine

namespace Sys2Proof.Claims

open Sys2Proof.Machine

/-! ## What a fence leaves as it was -/

/-- Frames of two operations that write no register and touch no queue. -/
theorem ScalarFrame.then {s t u : State} (h : ScalarFrame s t toNone []) (g : ScalarFrame t u toNone []) : ScalarFrame s u toNone [] :=
  (h.trans g).mono (fun _ l => l.elim id id) fun _ c => c

/-- An act on the agenda is none of what a frame speaks of. -/
theorem later_frame (s : State) (bound : Option Nat) (a : Act) : ScalarFrame s (s.later bound a) toNone [] :=
  tablesOnly_frame (s := s) (t := s.later bound a) rfl toNone []

theorem ticket_frame (s : State) (n : Nat) : ScalarFrame s { s with ticket := n } toNone [] :=
  tablesOnly_frame (s := s) (t := { s with ticket := n }) rfl toNone []

theorem beginAcquire_frame (s : State) (sc : Scope) (whole : Bool) : ScalarFrame s (beginAcquire s s.cur sc whole) toNone [] := by
  have acquires : ScalarFrame s (s.mod fun x => { x with acq := some (joinAcquire x.acq sc whole) }) toNone [] :=
    mod_frame s _ toNone rfl rfl rfl fun l _ => by cases l <;> exact .refl _
  exact acquires.then (later_frame _ none (.acquireComplete s.cur))

theorem fenceAcquire_frame (s : State) (sc : Scope) : ScalarFrame s (fenceAcquire s sc) toNone [] := by
  by_cases wide : 4 ≤ Scope.rank sc
  · rw [fenceAcquire_wide wide]
    exact beginAcquire_frame s sc false
  · rw [fenceAcquire_narrow (Nat.not_le.mp wide)]
    exact .refl s _ _

/-- An item appended to the store buffer is in no scalar register. -/
theorem buffered_frame (s : State) (i : SbItem) : ScalarFrame s (s.mod fun x => { x with sb := x.sb ++ [i] }) toNone [] :=
  mod_frame s _ toNone rfl rfl rfl fun l _ => by cases l <;> exact .refl _

theorem pushRelease_frame (s : State) (sc : Scope) (sig : Signal) (full : Bool) : ScalarFrame s (pushRelease s sc sig full) toNone [] :=
  ((ticket_frame s (s.ticket + 1)).then (buffered_frame _ (.release s.ticket sc sig false full))).then
    (later_frame _ none (.releaseComplete s.cur))

end Sys2Proof.Claims
end

section
/-! O20: fences (R206, R209, R210, R211, R340). -/

namespace Sys2Proof.Claims

open Sys2Proof.Machine

section
variable {s : State} {sc : Scope} (passes : Scope.rank sc < 4 ∨ ThroughRoom s)
include passes

/-- ACQ begins an acquire at the wide scopes, and else only moves the PC on. -/
theorem fenceAcq_begins : ∃ t, exec (.fenceAcq sc) s = .next t ∧ t.st.pc = s.st.pc + 4 ∧ (4 ≤ Scope.rank sc → t.st.acq.isSome = true) ∧
    (Scope.rank sc < 4 → t = retire s) ∧ ScalarFrame s t toNone [] := by
  obtain ⟨a, strand, begun⟩ := fenceAcquire_strand (retire s) sc
  refine ⟨_, fenceAcq_passes passes, ?_, fun wide => ?_, fun narrow => fenceAcquire_narrow narrow _,
    (retire_frame s).then (fenceAcquire_frame _ sc)⟩
  · rw [strand, retire_pc]
  · rw [strand]
    exact begun wide

/-- REL appends a release that no later load waits for. -/
theorem fenceRel_appends : ∃ t, exec (.fenceRel sc) s = .next t ∧ t.st.pc = s.st.pc + 4 ∧
    (sc ≠ .strand → t.st.sb = s.st.sb ++ [.release s.ticket sc .none false false]) ∧ (sc = .strand → t = retire s) ∧
    t.st.acq = s.st.acq ∧ ScalarFrame s t toNone [] := by
  by_cases own : sc = .strand
  · subst own
    exact ⟨_, fenceRel_strand s, retire_pc s, (absurd rfl ·), fun _ => rfl, retire_acq s, retire_frame s⟩
  · refine ⟨_, fenceRel_passes passes own, ?_, fun _ => ?_, (absurd · own), ?_, (retire_frame s).then (pushRelease_frame _ sc _ _)⟩
    · rw [pushRelease_strand, retire_pc]
    · rw [pushRelease_strand, retire_sb]; rfl
    · rw [pushRelease_strand, retire_acq]

/-- FULL appends a release that later loads wait for, and begins an acquire at the wide scopes. -/
theorem fenceFull_appends : ∃ t, exec (.fenceFull sc) s = .next t ∧ t.st.pc = s.st.pc + 4 ∧
    (sc ≠ .strand → t.st.sb = s.st.sb ++ [.release s.ticket sc .none false true]) ∧ (4 ≤ Scope.rank sc → t.st.acq.isSome = true) ∧
    (sc = .strand → t = retire s) ∧ ScalarFrame s t toNone [] := by
  by_cases own : sc = .strand
  · subst own
    exact ⟨_, fenceFull_strand s, retire_pc s, (absurd rfl ·), (absurd · (by decide)), fun _ => rfl, retire_frame s⟩
  · obtain ⟨a, strand, begun⟩ := fenceAcquire_strand (pushRelease (retire s) sc .none true) sc
    refine ⟨_, fenceFull_passes passes own, ?_, fun _ => ?_, fun wide => ?_, (absurd · own),
      ((retire_frame s).then (pushRelease_frame _ sc _ _)).then (fenceAcquire_frame _ sc)⟩
    · rw [strand, pushRelease_strand, retire_pc]
    · rw [strand, pushRelease_strand, retire_sb]; rfl
    · rw [strand]
      exact begun wide

end

/-- Settles O20: the gate of a fence, then ACQ, REL and FULL past it, each by its own lemma. -/
theorem fencesOrder : Obligations.FencesOrder := by
  unfold Obligations.FencesOrder
  refine ⟨fun s sc i fence wide full dirty => fence_stalls fence wide (throughFull_of_dirty full dirty), fun s sc passes => ?_⟩
  exact ⟨fenceAcq_begins passes, fenceRel_appends passes, fenceFull_appends passes⟩

end Sys2Proof.Claims
end

section
/-! SUPPORT. The HBM controllers as a list kept by pseudo-channel: what a read of one finds after a change of one, and what a controller's own acts
leave alone (R218-R228). -/

open Sys2Proof.Claims

namespace Sys2Proof.Machine

/-! ## A pseudo-channel after a change -/

@[simp] theorem findPc_p (s : State) (p : Nat) : (findPc s p).p = p := by
  unfold findPc
  cases found : s.hbm.find? (·.p = p) with
  | none => rfl
  | some x => simpa using List.find?_some found

@[simp] theorem Pc.roll_p (x : Pc) (w : Nat) : (x.roll w).p = x.p := by unfold Pc.roll; split <;> rfl

theorem findPc_congr {s t : State} (h : t.hbm = s.hbm) (p : Nat) : findPc t p = findPc s p := by rw [findPc, findPc, h]

theorem findPc_modPc_same (s : State) {p : Nat} {f : Pc → Pc} (key : (f (findPc s p)).p = p) : findPc (modPc s p f) p = f (findPc s p) := by
  have found : (modPc s p f).hbm.find? (·.p = p) = some (f (findPc s p)) := find_replace_same _ (by simpa using key) (by simp)
  rw [findPc, found, Option.getD_some]

theorem findPc_modPc_other (s : State) {p q : Nat} {f : Pc → Pc} (key : (f (findPc s p)).p = p) (h : q ≠ p) :
    findPc (modPc s p f) q = findPc s q := by
  have found : (modPc s p f).hbm.find? (·.p = q) = s.hbm.find? (·.p = q) :=
    find_replace_other _ (by simpa [key] using h.symm) fun x hx => by simpa [of_decide_eq_true hx] using h
  rw [findPc, found, findPc]

theorem AgendaOnly.findPc {s t : State} (h : AgendaOnly s t) (p : Nat) : findPc t p = findPc s p := findPc_congr (by rw [h]) p

/-! ## Places depend on the hub's registers alone (R183, R279) -/

section
variable {s t : State} (h : t.hub = s.hub)
include h

theorem sysMode_congr : sysMode t = sysMode s := by rw [sysMode, sysMode, hubGet, hubGet, h]

theorem hbmBank_congr (pa : Nat) : hbmBank t pa = hbmBank s pa := by simp only [hbmBank, sysMode_congr h]

theorem granuleAddr_congr (p g : Nat) : granuleAddr t p g = granuleAddr s p g := by
  rw [granuleAddr, granuleAddr, channelsOf, channelsOf, sysMode_congr h]

end

/-! ## What a controller's own acts leave alone -/

/-- Of the controllers only that of p differs, of the rest only the agenda, which no act left, and the count of free choices. -/
structure ChannelOnly (p : Nat) (s t : State) : Prop where
  units : UnitsOnly s t
  others : ∀ q, q ≠ p → findPc t q = findPc s q
  agenda : s.agenda ⊆ t.agenda

namespace ChannelOnly

variable {p : Nat} {s t u : State}

theorem refl (p : Nat) (s : State) : ChannelOnly p s s := ⟨rfl, fun _ _ => rfl, List.Subset.refl _⟩

theorem trans (h : ChannelOnly p s t) (g : ChannelOnly p t u) : ChannelOnly p s u :=
  ⟨h.units.trans g.units, fun q hq => (g.others q hq).trans (h.others q hq), List.Subset.trans h.agenda g.agenda⟩

theorem ite {c : Prop} {_ : Decidable c} (ht : ChannelOnly p s t) (hu : ChannelOnly p s u) : ChannelOnly p s (if c then t else u) := by
  split <;> assumption

theorem sameMemory (h : ChannelOnly p s t) : SameMemory s t := h.units.sameMemory
theorem now (h : ChannelOnly p s t) : t.now = s.now := h.units.now
theorem hub (h : ChannelOnly p s t) : t.hub = s.hub := h.units.hub

theorem modPc (s : State) {p : Nat} {f : Pc → Pc} (key : (f (Machine.findPc s p)).p = p) : ChannelOnly p s (modPc s p f) :=
  ⟨rfl, fun _ hq => findPc_modPc_other s key hq, List.Subset.refl _⟩

theorem at_ (p : Nat) (s : State) (t : Nat) (a : Act) : ChannelOnly p s (s.at t a) := ⟨rfl, fun _ _ => rfl, List.subset_append_left _ _⟩

theorem atOnce (p : Nat) (s : State) (t : Nat) (a : Act) : ChannelOnly p s (s.atOnce t a) :=
  ⟨s.atOnce_unitsOnly t a, fun q _ => findPc_congr (s.atOnce_hbm t a) q, fun _ => State.atOnce_keeps t a⟩

end ChannelOnly

theorem idleFrom_channelOnly (q : Nat) (s : State) (p : Fin 512) : ChannelOnly q s (idleFrom s p) := .ite (.atOnce ..) (.refl _ _)

theorem serveAgain_agendaOnly (s : State) (p : Fin 512) : AgendaOnly s (serveAgain s p) := by
  unfold serveAgain
  extract_lets x later
  split
  · rfl
  · split <;> exact s.atOnce_agendaOnly _ _

/-- An exit from self-refresh begins, or the pseudo-channel does not sleep or already begins it as early. -/
theorem beginExit_cases (s : State) (p : Fin 512) (n : Nat) :
    beginExit s p n = (modPc s p.val fun x => { x with exitAt := some (n + 768) }).at (n + 768) (.selfRefreshExit p) ∨ beginExit s p n = s :=
  ite_eq_or_eq _ _ _

/-- Nothing of the pseudo-channel but the cycle its exit ends differs. -/
theorem beginExit_pc (s : State) (p : Fin 512) (n : Nat) : ∃ e, findPc (beginExit s p n) p.val = { findPc s p.val with exitAt := e } := by
  rcases beginExit_cases s p n with begins | same
  · rw [begins, findPc_congr (State.at_hbm _ _ _), findPc_modPc_same s (findPc_p s _)]
    exact ⟨_, rfl⟩
  · exact ⟨_, congrArg (findPc · p.val) same⟩

theorem beginExit_channelOnly (s : State) (p : Fin 512) (n : Nat) : ChannelOnly p.val s (beginExit s p n) :=
  .ite ((ChannelOnly.modPc s (findPc_p s _)).trans (.at_ ..)) (.refl _ _)

/-- A pseudo-channel in self-refresh whose exit has not begun begins it. -/
theorem beginExit_begins {s : State} {p : Fin 512} (asleep : (findPc s p.val).selfRef = true) (still : (findPc s p.val).exitAt = none) (n : Nat) :
    (findPc (beginExit s p n) p.val).exitAt = some (n + 768) ∧ (n + 768, Act.selfRefreshExit p) ∈ (beginExit s p n).agenda := by
  have begins : beginExit s p n = (modPc s p.val fun x => { x with exitAt := some (n + 768) }).at (n + 768) (.selfRefreshExit p) := by
    unfold beginExit
    simp [asleep, still]
  rw [begins, findPc_congr (State.at_hbm _ _ _), findPc_modPc_same s (findPc_p s _)]
  exact ⟨rfl, State.mem_at _ _ _⟩

/-! ## The hub's records leave the controllers -/

theorem PlanesOnly.hbm {s t : State} (h : PlanesOnly s t) : t.hbm = s.hbm := by rw [h]

theorem ringAppend_hbm (s : State) (a : Nat) (ws : List Word) : (ringAppend s a ws).1.hbm = s.hbm := by
  unfold ringAppend
  dsimp only
  split
  · exact (foldl_planes (fun t i => putWords_planes t _ _) _ s).hbm
  · rfl

theorem fabricRecord_hbm (s : State) (code detail : Nat) (w : Word) (fn : Nat) : (fabricRecord s code detail w fn).hbm = s.hbm :=
  ringAppend_hbm s _ _

theorem fabricRecord_msix (s : State) (code detail : Nat) (w : Word) (fn : Nat) :
    (fabricRecord s code detail w fn).hub.msix = s.hub.msix ++ [(16, 0)] := congrArg (· ++ [(16, 0)]) (errRecord_msix ..)

/-- A record moves WR or RD of the hub's ring and no other register (R478). -/
theorem hubGet_fabricRecord_other (s : State) (code detail : Nat) (w : Word) (fn : Nat) {a : Nat} (wr : a ≠ rErr 2) (rd : a ≠ rErr 3) :
    hubGet (fabricRecord s code detail w fn) a = hubGet s a := by
  obtain ⟨u, b, v, put, place, hub, -⟩ := ringAppend_cases s (rErr 0)
    ([word s.now, word (7 <<< 56 ||| 0 <<< 48 ||| code <<< 32 ||| detail), w, word (fn <<< 48 ||| 0 <<< 32)] ++ [])
  have apart : a ≠ b := by
    rcases place with rfl | rfl
    · exact wr
    · exact rd
  calc hubGet (fabricRecord s code detail w fn) a = hubGet (hubPut u b v) a := hubGet_congr (congrArg (·.hub.regs) put) a
    _ = hubGet u a := hubGet_hubPut_other u v apart
    _ = hubGet s a := hubGet_congr (congrArg Hub.regs hub) a

end Sys2Proof.Machine
end

section
/-! The service of HBM requests by units: what each pass serves, what a served unit changes, the patrol, and the controller's next look (R218, R221,
R225, R227, R228). -/

open Sys2Proof.Claims

namespace Sys2Proof.Machine

theorem exec_scrubWriteback (s : State) (p : Fin 512) (g : Nat) : exec (.scrubWriteback p g) s = execScrubWriteback p g s := rfl
theorem exec_wheelBudgetRestart (s : State) : exec .wheelBudgetRestart s = execWheelBudgetRestart s := rfl

/-! ## The passes, class by class (R221) -/

/-- What pass 1 serves of a class: its first request while it has units, or class 13's patrol read. -/
def passOneOf (s : State) (x : Pc) (c : Fin 16) : Option (Fin 16 × Option HReq) :=
  if x.used < 96 && x.charged[c] < unitsOf s x.p c.val then
    (match firstReq (x.reqs.filter fun r => r.cls = c && readyReq s x r) with
     | some r => some (c, some r)
     | none => if c.val = 13 && decide (x.busy[hbmBank s (granuleAddr s x.p x.scrub)] ≤ s.now) then some (c, none) else none)
  else none

/-- What pass 2 serves of a class. -/
def passTwoOf (s : State) (x : Pc) (c : Fin 16) : Option HReq := firstReq (x.reqs.filter fun r =>
  r.cls = c && readyReq s x r && (!exactPc s x.p || decide (dieTurn r.arrive < dieTurn s.now)))

theorem passOne_eq (s : State) (x : Pc) : passOne s x = Fin.findSome? (passOneOf s x) :=
  List.head?_filterMap.trans (Fin.findSome?_eq_findSome?_finRange _).symm

theorem passTwo_eq {s : State} {x : Pc} (spare : bestEffort s x = true) : passTwo s x = Fin.findSome? (passTwoOf s x) :=
  (if_neg (by simp [spare])).trans (List.head?_filterMap.trans (Fin.findSome?_eq_findSome?_finRange _).symm)

theorem bestEffort_of {s : State} {x : Pc} (room : x.used < 96) (spare : claimsLeft s x ≤ 96 - (x.used + 1)) : bestEffort s x = true := by
  simpa [bestEffort, room] using spare

section
variable {s : State} {x : Pc} {r : HReq}

/-- A class that has spent its units gets none in pass 1. -/
theorem passOneOf_spent {c : Fin 16} (spent : unitsOf s x.p c.val ≤ x.charged[c]) : passOneOf s x c = none := if_neg (by simpa using fun _ => spent)

/-- Nor one with no request, but for the patrol. -/
theorem passOneOf_idle {c : Fin 16} (no : (x.reqs.filter fun r => r.cls = c && readyReq s x r) = [])
    (quiet : c.val = 13 → s.now < x.busy[hbmBank s (granuleAddr s x.p x.scrub)]) : passOneOf s x c = none := by
  have rest : ¬ (c.val = 13 ∧ x.busy[hbmBank s (granuleAddr s x.p x.scrub)] ≤ s.now) := fun h => (quiet h.1).not_ge h.2
  unfold passOneOf
  rw [no]
  simpa [firstReq] using fun _ _ => not_and.mp rest

section
variable (only : x.reqs = [r])
include only

theorem other_class {c : Fin 16} (other : c ≠ r.cls) : (x.reqs.filter fun q => q.cls = c && readyReq s x q) = [] := by
  simp [only, other.symm]

/-- Pass 1 serves the one request there is, if its class has units and the patrol's turn does not come before. -/
theorem passOne_serves (ready : readyReq s x r = true) (room : x.used < 96) (units : x.charged[r.cls] < unitsOf s x.p r.cls.val)
    (first : r.cls.val ≤ 13 ∨ unitsOf s x.p 13 ≤ x.charged[13]) : passOne s x = some (r.cls, some r) := by
  rw [passOne_eq, Fin.findSome?_eq_some_iff]
  refine ⟨r.cls, ?_, fun c before => ?_⟩
  · exact (if_pos (by simpa [room] using units)).trans (by simp [only, ready, firstReq])
  · by_cases patrol : c.val = 13
    · have spent : unitsOf s x.p 13 ≤ x.charged[13] := first.resolve_left (by omega)
      obtain rfl : c = 13 := Fin.ext patrol
      exact passOneOf_spent spent
    · exact passOneOf_idle (other_class only (Fin.ne_of_lt before)) (absurd · patrol)

/-- Pass 1 leaves the one request there is when neither its class nor class 13 has units. -/
theorem passOne_leaves (units : unitsOf s x.p r.cls.val ≤ x.charged[r.cls]) (patrol : unitsOf s x.p 13 ≤ x.charged[13]) : passOne s x = none := by
  rw [passOne_eq, Fin.findSome?_eq_none_iff]
  intro c
  by_cases own : c = r.cls
  · exact passOneOf_spent (own ▸ units)
  · by_cases scrub : c = 13
    · subst scrub
      exact passOneOf_spent patrol
    · exact passOneOf_idle (other_class only own) fun h => absurd (Fin.ext h) scrub

/-- Pass 2 serves it from the spare units; in exact mode only if it came in an earlier wheel. -/
theorem passTwo_serves (spare : bestEffort s x = true) (ready : readyReq s x r = true)
    (may : exactPc s x.p = false ∨ dieTurn r.arrive < dieTurn s.now) : passTwo s x = some r := by
  rw [passTwo_eq spare, Fin.findSome?_eq_some_iff]
  refine ⟨r.cls, ?_, fun c before => ?_⟩
  · simp [passTwoOf, only, ready, may, firstReq]
  · simp [passTwoOf, only, Fin.ne_of_gt before, firstReq]

theorem passTwo_exact (exactMode : exactPc s x.p = true) (now : dieTurn r.arrive = dieTurn s.now) : passTwo s x = none := by
  by_cases spare : bestEffort s x = true
  · rw [passTwo_eq spare, Fin.findSome?_eq_none_iff]
    intro c
    simp [passTwoOf, only, exactMode, now, firstReq]
  · exact if_pos (by simpa using spare)

end

section
variable (empty : x.reqs = [])
include empty

/-- With no request class 13's turn is the patrol's. -/
theorem passOne_patrols (room : x.used < 96) (units : x.charged[13] < unitsOf s x.p 13)
    (free : x.busy[hbmBank s (granuleAddr s x.p x.scrub)] ≤ s.now) : passOne s x = some (13, none) := by
  rw [passOne_eq, Fin.findSome?_eq_some_iff]
  refine ⟨13, ?_, fun c before => passOneOf_idle (by simp [empty]) fun h => absurd before (by simp [Fin.lt_def, h])⟩
  exact (if_pos (by simpa [room] using units)).trans (by simpa [empty, firstReq] using free)

theorem passOne_patrol_waits (busy : s.now < x.busy[hbmBank s (granuleAddr s x.p x.scrub)]) : passOne s x = none := by
  rw [passOne_eq, Fin.findSome?_eq_none_iff]
  exact fun c => passOneOf_idle (by simp [empty]) fun _ => busy

theorem passTwo_none : passTwo s x = none := by
  by_cases spare : bestEffort s x = true
  · rw [passTwo_eq spare, Fin.findSome?_eq_none_iff]
    intro c
    simp [passTwoOf, empty, firstReq]
  · exact if_pos (by simpa using spare)

end
end

/-! ## A served unit (R218, R225, R521) -/

/-- A unit is counted, and charged by g. -/
def unitCounted (g : Vector Nat 16 → Vector Nat 16) (x : Pc) : Pc := { x with used := x.used + 1, charged := g x.charged }

/-- A unit of class c in pass 1. -/
def chargedTo (c : Fin 16) (v : Vector Nat 16) : Vector Nat 16 := v.set c (v[c] + 1)

theorem chargedTo_same (c : Fin 16) (v : Vector Nat 16) : (chargedTo c v)[c] = v[c] + 1 := by simp [chargedTo]

theorem chargedTo_other {c d : Fin 16} (h : d ≠ c) (v : Vector Nat 16) : (chargedTo c v)[d] = v[d] := by
  have apart : c.val ≠ d.val := fun e => h (Fin.ext e.symm)
  simp [chargedTo, apart]

theorem creditWait_hbm (s : State) (r : HReq) : (creditWait s r).hbm = s.hbm := by
  unfold creditWait
  split
  · rfl
  · split <;> rfl

theorem creditWait_sameMemory (s : State) (r : HReq) : SameMemory s (creditWait s r) := by
  unfold creditWait
  split
  · exact sameMemory_of rfl rfl rfl rfl
  · split <;> exact sameMemory_of rfl rfl rfl rfl

/-- The wait of an engine operation's read counts with its handle. -/
theorem creditWait_handle {s : State} {r : HReq} {h : Fin 128} (engine : r.handle = some h) :
    ((creditWait s r).core.table[h]).wait = (s.core.table[h]).wait + r.wait := by
  simp [creditWait, engine]

/-- That of a load is kept for its fill. -/
theorem creditWait_load {s : State} {r : HReq} (load : r.handle = none) (own : r.gcore = s.core.gcore)
    (pending : ∃ q ∈ s.core.reqs, q.ticket = r.ticket) :
    (creditWait s r).core.refWaits = s.core.refWaits ++ [(r.ticket, r.wait)] := by
  have asked : s.core.reqs.any (·.ticket = r.ticket) = true := by simpa using pending
  simp [creditWait, load, own, asked]

/-- The requests of a pseudo-channel when a unit of one is served. -/
def Pc.unitTaken (now : Nat) (r : HReq) (x : Pc) : Pc :=
  { x with
    reqs := if r.units ≤ 1 then x.reqs.filter (· != r) else x.reqs.map fun q => if q = r then { r with units := r.units - 1 } else q
    idle := if x.isScrub r then x.idle else max x.idle now
    data := (x.data.filter fun d => now < d.at_) ++ (if r.units ≤ 1 && !r.write then [⟨r.ticket, r.handle, now + rowCycles⟩] else []) }

/-- The pseudo-channel when a unit of a request is served and counted by f: a write-back ends every other of its granule. -/
def Pc.serve (now : Nat) (r : HReq) (f : Pc → Pc) (x : Pc) : Pc :=
  match x.scrubRead.find? (·.ticket = r.ticket) with
  | some e => (f (x.unitTaken now r)).endScrub e.granule
  | none => f (x.unitTaken now r)

theorem serveReq_eq (s : State) (p : Nat) (r : HReq) (f : Pc → Pc) :
    serveReq s p r f = if r.units ≤ 1 && !r.write then creditWait (modPc s p (Pc.serve s.now r f)) r else modPc s p (Pc.serve s.now r f) := rfl

/-- What a served unit leaves of the one request there is. -/
def leftOf (x : Pc) (r : HReq) : List HReq := if r.units ≤ 1 ∨ x.isScrub r = true then [] else [{ r with units := r.units - 1 }]

theorem unitTaken_reqs {x : Pc} {r : HReq} (only : x.reqs = [r]) (now : Nat) :
    (x.unitTaken now r).reqs = if r.units ≤ 1 then [] else [{ r with units := r.units - 1 }] := by
  simp only [Pc.unitTaken, only]
  split <;> simp

theorem isScrub_iff {x : Pc} {r : HReq} : x.isScrub r = true ↔ ∃ e ∈ x.scrubRead, e.ticket = r.ticket := by simp [Pc.isScrub]

theorem serve_unitCounted {x : Pc} {r : HReq} (only : x.reqs = [r]) (now : Nat) (g : Vector Nat 16 → Vector Nat 16) :
    let y := x.serve now r (unitCounted g)
    y.p = x.p ∧ y.reqs = leftOf x r ∧ y.used = x.used + 1 ∧ y.charged = g x.charged := by
  have taken := unitTaken_reqs only now
  unfold Pc.serve leftOf
  split
  next e found =>
    have mem := List.mem_of_find?_eq_some found
    have same : e.ticket = r.ticket := by simpa using List.find?_some found
    refine ⟨rfl, ?_, rfl, rfl⟩
    rw [if_pos (.inr (isScrub_iff.mpr ⟨e, mem, same⟩))]
    refine List.filter_eq_nil_iff.mpr fun q hq => ?_
    have ticket : q.ticket = r.ticket := by
      rw [unitCounted, taken] at hq
      split at hq
      · cases hq
      · rw [List.mem_singleton.mp hq]
    have mine : (x.scrubRead.filter (·.granule = e.granule)).any (·.ticket = q.ticket) = true :=
      List.any_eq_true.mpr ⟨e, List.mem_filter.mpr ⟨mem, by simp⟩, by simp [ticket, same]⟩
    simpa [unitCounted, Pc.unitTaken] using mine
  next found =>
    have other : ¬ x.isScrub r = true := fun h => by
      obtain ⟨e, mem, same⟩ := isScrub_iff.mp h
      exact List.find?_eq_none.mp found e mem (by simpa using same)
    exact ⟨rfl, by simp [unitCounted, taken, other], rfl, rfl⟩

section
variable {s : State} {p : Nat} {r : HReq}

theorem serveReq_hbm (s : State) (p : Nat) (r : HReq) (f : Pc → Pc) : (serveReq s p r f).hbm = (modPc s p (Pc.serve s.now r f)).hbm := by
  rw [serveReq_eq]
  split
  · exact creditWait_hbm _ _
  · rfl

theorem serveReq_sameMemory (s : State) (p : Nat) (r : HReq) (f : Pc → Pc) : SameMemory s (serveReq s p r f) := by
  rw [serveReq_eq]
  split
  · exact (modPc_unitsOnly s p _).sameMemory.trans (creditWait_sameMemory _ _)
  · exact (modPc_unitsOnly s p _).sameMemory

theorem serveReq_pc (only : (findPc s p).reqs = [r]) (g : Vector Nat 16 → Vector Nat 16) :
    let y := findPc (serveReq s p r (unitCounted g)) p
    y.reqs = leftOf (findPc s p) r ∧ y.used = (findPc s p).used + 1 ∧ y.charged = g (findPc s p).charged := by
  obtain ⟨key, kept⟩ := serve_unitCounted only s.now g
  rw [findPc_congr (serveReq_hbm s p r _), findPc_modPc_same s (key.trans (findPc_p s p))]
  exact kept

/-- With its last unit a read's wait counts (R225). -/
theorem serveReq_credits (last : r.units ≤ 1) (read : r.write = false) (f : Pc → Pc) :
    serveReq s p r f = creditWait (modPc s p (Pc.serve s.now r f)) r := if_pos (by simp [last, read])

end

/-! ## The patrol (R228) -/

theorem countCe_hbm (s : State) (die : Nat) (flits : Bool) : (countCe s die flits).hbm = s.hbm := by
  unfold countCe
  split
  · rfl
  · split <;> rfl

theorem countLane_hbm (s : State) (c lane : Nat) : (countLane s c lane).hbm = s.hbm := by
  unfold countLane
  extract_lets s1 n s2 r s3
  have h3 : s3.hbm = s.hbm := by
    unfold s3
    split <;> exact countCe_hbm s _ _
  split <;> exact h3

/-- A write-back that is owed adds only to the granules read. -/
theorem oweScrub_pc (s : State) (p : Fin 512) (g : Nat) (cls : Fin 16) (h : Option (Fin 128)) :
    ∃ l, findPc (oweScrub s p g cls h) p.val = { findPc s p.val with scrubRead := l } := by
  unfold oweScrub
  rw [findPc_congr (State.later_hbm _ _ _), findPc_modPc_same _ (findPc_p _ _)]
  exact ⟨_, rfl⟩

/-- A patrol read charges class 13 and goes on to the next granule. -/
theorem patrolRead_pc (s : State) (p : Fin 512) :
    let x := findPc s p.val
    let y := findPc (patrolRead s p) p.val
    y.scrub = (x.scrub + 1) % pcGranules ∧ y.used = x.used + 1 ∧ y.charged[13] = x.charged[13] + 1 := by
  unfold patrolRead
  extract_lets x s1 n s2 y
  have read : findPc s2 p.val = { (x.charge 13) with scrub := (x.scrub + 1) % pcGranules } :=
    findPc_modPc_same s (f := fun x => { (x.charge 13) with scrub := (x.scrub + 1) % pcGranules }) (findPc_p s _)
  have kept : ∃ l, y = { findPc s2 p.val with scrubRead := l } := by
    unfold y
    split
    · obtain ⟨l, owed⟩ := oweScrub_pc (countLane s2 (p.val / 2) (n / 2 % 72)) p x.scrub 13 none
      exact ⟨l, by rw [owed, findPc_congr (countLane_hbm _ _ _)]⟩
    · exact ⟨_, rfl⟩
  obtain ⟨l, hy⟩ := kept
  rw [hy, read]
  exact ⟨rfl, rfl, chargedTo_same 13 x.charged⟩

/-! ## The controller's act (R218, R221) -/

/-- The controller with its counts of the present die wheel. -/
def rolled (s : State) (p : Fin 512) : State := modPc s p.val (·.roll (dieWheel s.now))

@[simp] theorem rolled_now (s : State) (p : Fin 512) : (rolled s p).now = s.now := rfl
@[simp] theorem rolled_hub (s : State) (p : Fin 512) : (rolled s p).hub = s.hub := rfl

theorem rolled_pc (s : State) (p : Fin 512) : findPc (rolled s p) p.val = (findPc s p.val).roll (dieWheel s.now) :=
  findPc_modPc_same s (by simp)

theorem rolled_channelOnly (s : State) (p : Fin 512) : ChannelOnly p.val s (rolled s p) := .modPc s (by simp)

/-- The unit the two passes serve. -/
def unitServed (s : State) (p : Fin 512) : State := match passOne s (findPc s p.val) with
  | some (c, some r) => serveReq s p.val r (unitCounted (chargedTo c))
  | some (_, none) => patrolRead s p
  | none => (match passTwo s (findPc s p.val) with
    | some r => serveReq s p.val r (unitCounted id)
    | none => s)

section
variable {s : State} {p : Fin 512} {x : Pc} (hx : findPc (rolled s p) p.val = x)
include hx

theorem hbmServiceUnit_held (held : pcHeld s x = true) : exec (.hbmServiceUnit p) s = .next (rolled s p) := by
  subst hx
  exact if_pos held

theorem hbmServiceUnit_serves (free : pcHeld s x = false) :
    exec (.hbmServiceUnit p) s = .next (idleFrom (serveAgain (unitServed (rolled s p) p) p) p) := by
  subst hx
  exact if_neg (Bool.eq_false_iff.mp free)

end

end Sys2Proof.Machine
end

section
/-! O49: the controllers' passes and patrol, write-backs of scrubs, the wheel's restart, and budget commits (R218, R220, R221, R225, R227, R228, R520,
R521). -/

open Sys2Proof.Claims

namespace Sys2Proof.Machine

/-! ## A unit by each pass -/

section
variable {s : State} {p : Fin 512} {x : Pc} {r : HReq} (hx : findPc (rolled s p) p.val = x)
include hx

theorem rolled_key : x.p = p.val := hx ▸ findPc_p _ _

/-- The bank of the patrol's next granule. -/
theorem granule_rolled : hbmBank (rolled s p) (granuleAddr (rolled s p) x.p x.scrub) = hbmBank s (granuleAddr s p.val x.scrub) := by
  rw [rolled_key hx, hbmBank_congr (rolled_hub s p), granuleAddr_congr (rolled_hub s p)]

theorem unitServed_first (only : x.reqs = [r]) (ready : readyReq s x r = true) (room : x.used < 96)
    (units : x.charged[r.cls] < unitsOf s p.val r.cls.val) (first : r.cls.val ≤ 13 ∨ unitsOf s p.val 13 ≤ x.charged[13]) :
    unitServed (rolled s p) p = serveReq (rolled s p) p.val r (unitCounted (chargedTo r.cls)) := by
  have key := rolled_key hx
  have chosen : passOne (rolled s p) x = some (r.cls, some r) := passOne_serves only ready room (by rw [key]; exact units) (by rw [key]; exact first)
  rw [unitServed, hx, chosen]

theorem unitServed_patrol (empty : x.reqs = []) (room : x.used < 96) (units : x.charged[13] < unitsOf s p.val 13)
    (free : x.busy[hbmBank s (granuleAddr s p.val x.scrub)] ≤ s.now) : unitServed (rolled s p) p = patrolRead (rolled s p) p := by
  have key := rolled_key hx
  have chosen : passOne (rolled s p) x = some (13, none) :=
    passOne_patrols empty room (by rw [key]; exact units) (by simpa only [granule_rolled hx, rolled_now] using free)
  rw [unitServed, hx, chosen]

theorem unitServed_idle (empty : x.reqs = []) (busy : s.now < x.busy[hbmBank s (granuleAddr s p.val x.scrub)]) :
    unitServed (rolled s p) p = rolled s p := by
  have first : passOne (rolled s p) x = none := passOne_patrol_waits empty (by simpa only [granule_rolled hx, rolled_now] using busy)
  rw [unitServed, hx, first, passTwo_none empty]

section
variable (only : x.reqs = [r]) (units : unitsOf s p.val r.cls.val ≤ x.charged[r.cls]) (patrol : unitsOf s p.val 13 ≤ x.charged[13])
include only units patrol

theorem passOne_rolled : passOne (rolled s p) x = none :=
  passOne_leaves only (by rw [rolled_key hx]; exact units) (by rw [rolled_key hx]; exact patrol)

theorem unitServed_second (ready : readyReq s x r = true) (room : x.used < 96) (spare : claimsLeft s x ≤ 96 - (x.used + 1))
    (may : exactPc s p.val = false ∨ dieTurn r.arrive < dieTurn s.now) :
    unitServed (rolled s p) p = serveReq (rolled s p) p.val r (unitCounted id) := by
  have second : passTwo (rolled s p) x = some r := passTwo_serves only (bestEffort_of room spare) ready (by rw [rolled_key hx]; exact may)
  rw [unitServed, hx, passOne_rolled hx only units patrol, second]

section
variable (exactMode : exactPc s p.val = true) (now : dieTurn r.arrive = dieTurn s.now)
include exactMode now

omit units patrol in
theorem passTwo_rolled : passTwo (rolled s p) x = none := passTwo_exact only (by rw [rolled_key hx]; exact exactMode) now

theorem unitServed_exact : unitServed (rolled s p) p = rolled s p := by
  rw [unitServed, hx, passOne_rolled hx only units patrol, passTwo_rolled hx only exactMode now]

/-- A request that exact mode keeps for the next wheel is looked at then. -/
theorem serveAgain_exact (free : pcHeld s x = false) (ready : readyReq s x r = true) :
    (s.nextDieWheel, Act.hbmServiceUnit p) ∈ (serveAgain (rolled s p) p).agenda := by
  have came : r.arrive ≤ s.now := by simp only [readyReq, Bool.and_eq_true, decide_eq_true_eq] at ready; exact ready.1
  have none_later : (x.reqs.filter fun q => (rolled s p).now < q.arrive) = [] := by
    refine List.filter_eq_nil_iff.mpr fun q hq later => ?_
    rw [only, List.mem_singleton] at hq
    exact absurd (hq ▸ came) (Nat.not_le.mpr (of_decide_eq_true later))
  have again : serveAgain (rolled s p) p = (rolled s p).atOnce s.nextDieWheel (.hbmServiceUnit p) := by
    unfold serveAgain
    rw [hx]
    refine (if_neg ?_).trans ((if_neg ?_).trans ?_)
    · rw [show pcHeld (rolled s p) x = false from free, only]; simp
    · simp [passOne_rolled hx only units patrol, passTwo_rolled hx only exactMode now]
    · rw [none_later]; rfl
  rw [again]
  exact State.mem_atOnce _ _ _

end
end
end

end Sys2Proof.Machine

namespace Sys2Proof.Claims

open Sys2Proof.Machine

section
variable {s : State} {p : Fin 512} {x : Pc} {r : HReq} (hx : findPc (rolled s p) p.val = x)
include hx

/-! ## What the service leaves (R218, R221, R225, R227) -/

/-- A controller that is not held answers with what a unit leaves, and at most its next look on the agenda. -/
theorem hbmServiceUnit_answers {u : State} (free : pcHeld s x = false) (served : unitServed (rolled s p) p = u) :
    ∃ t, exec (.hbmServiceUnit p) s = .next t ∧ AgendaOnly u t ∧ (serveAgain u p).agenda ⊆ t.agenda :=
  ⟨_, served ▸ hbmServiceUnit_serves hx free, (serveAgain_agendaOnly u p).trans (idleFrom_agendaOnly _ p),
    (idleFrom_channelOnly p.val _ p).agenda⟩

theorem service_held (held : pcHeld s x = true) :
    ∃ t, exec (.hbmServiceUnit p) s = .next t ∧ SameMemory s t ∧ findPc t p.val = x ∧ t.core = s.core :=
  ⟨_, hbmServiceUnit_held hx held, (rolled_channelOnly s p).sameMemory, hx, rfl⟩

section
variable (free : pcHeld s x = false) (only : x.reqs = [r]) (ready : readyReq s x r = true) (room : x.used < 96)
include free only

/-- A unit that either pass serves. -/
theorem service_serves {g : Vector Nat 16 → Vector Nat 16}
    (served : unitServed (rolled s p) p = serveReq (rolled s p) p.val r (unitCounted g)) :
    ∃ t, exec (.hbmServiceUnit p) s = .next t ∧ SameMemory s t ∧ (findPc t p.val).reqs = leftOf x r ∧ (findPc t p.val).used = x.used + 1 ∧
      (findPc t p.val).charged = g x.charged ∧ t.core = (serveReq (rolled s p) p.val r (unitCounted g)).core := by
  obtain ⟨t, eq, quiet, -⟩ := hbmServiceUnit_answers hx free served
  obtain ⟨left, used, charged⟩ := serveReq_pc (hx.symm ▸ only) g
  rw [hx, ← quiet.findPc] at left used charged
  exact ⟨t, eq, ((rolled_channelOnly s p).sameMemory.trans (serveReq_sameMemory _ _ _ _)).trans (AgendaOnly.sameMemory quiet), left, used, charged,
    quiet.core⟩

include ready room

theorem service_first (units : x.charged[r.cls] < unitsOf s p.val r.cls.val) (first : r.cls.val ≤ 13 ∨ unitsOf s p.val 13 ≤ x.charged[13]) :
    ∃ t, exec (.hbmServiceUnit p) s = .next t ∧ SameMemory s t ∧ (findPc t p.val).reqs = leftOf x r ∧ (findPc t p.val).used = x.used + 1 ∧
      (findPc t p.val).charged[r.cls] = x.charged[r.cls] + 1 ∧ (∀ c : Fin 16, c ≠ r.cls → (findPc t p.val).charged[c] = x.charged[c]) ∧
      (r.units ≤ 1 → r.write = false → r.handle = none → r.gcore = s.core.gcore → (∃ q ∈ s.core.reqs, q.ticket = r.ticket) →
        t.core.refWaits = s.core.refWaits ++ [(r.ticket, r.wait)]) ∧
      ∀ h : Fin 128, r.units ≤ 1 → r.write = false → r.handle = some h → (t.core.table[h]).wait = (s.core.table[h]).wait + r.wait := by
  obtain ⟨t, eq, mem, left, used, charged, core⟩ := service_serves hx free only (unitServed_first hx only ready room units first)
  refine ⟨t, eq, mem, left, used, ?_, fun c other => ?_, fun last read load own pending => ?_, fun h last read engine => ?_⟩
  · rw [charged]; exact chargedTo_same _ _
  · rw [charged]; exact chargedTo_other other _
  · rw [core, serveReq_credits last read]
    exact creditWait_load load own pending
  · rw [core, serveReq_credits last read]
    exact creditWait_handle engine

section
variable (units : unitsOf s p.val r.cls.val ≤ x.charged[r.cls]) (patrol : unitsOf s p.val 13 ≤ x.charged[13])
include units patrol

theorem service_second (spare : claimsLeft s x ≤ 96 - (x.used + 1)) (may : exactPc s p.val = false ∨ dieTurn r.arrive < dieTurn s.now) :
    ∃ t, exec (.hbmServiceUnit p) s = .next t ∧ SameMemory s t ∧ (findPc t p.val).reqs = leftOf x r ∧ (findPc t p.val).used = x.used + 1 ∧
      (findPc t p.val).charged = x.charged := by
  obtain ⟨t, eq, mem, left, used, charged, -⟩ :=
    service_serves hx free only (unitServed_second hx only units patrol ready room spare may)
  exact ⟨t, eq, mem, left, used, charged⟩

omit room in
theorem service_exact (exactMode : exactPc s p.val = true) (now : dieTurn r.arrive = dieTurn s.now) :
    ∃ t, exec (.hbmServiceUnit p) s = .next t ∧ SameMemory s t ∧ (findPc t p.val).reqs = [r] ∧ (findPc t p.val).used = x.used ∧
      (s.nextDieWheel, Act.hbmServiceUnit p) ∈ t.agenda := by
  obtain ⟨t, eq, quiet, agenda⟩ := hbmServiceUnit_answers hx free (unitServed_exact hx only units patrol exactMode now)
  refine ⟨t, eq, (rolled_channelOnly s p).sameMemory.trans (AgendaOnly.sameMemory quiet), ?_, ?_,
    agenda (serveAgain_exact hx only units patrol exactMode now free ready)⟩
  · rw [quiet.findPc, hx, only]
  · rw [quiet.findPc, hx]

end
end

section
variable (free : pcHeld s x = false) (empty : x.reqs = [])
include free empty

theorem service_patrols (room : x.used < 96) (units : x.charged[13] < unitsOf s p.val 13)
    (ready : x.busy[hbmBank s (granuleAddr s p.val x.scrub)] ≤ s.now) :
    ∃ t, exec (.hbmServiceUnit p) s = .next t ∧ (findPc t p.val).scrub = (x.scrub + 1) % pcGranules ∧ (findPc t p.val).used = x.used + 1 ∧
      (findPc t p.val).charged[13] = x.charged[13] + 1 := by
  obtain ⟨t, eq, quiet, -⟩ := hbmServiceUnit_answers hx free (unitServed_patrol hx empty room units ready)
  have read := patrolRead_pc (rolled s p) p
  rw [hx, ← quiet.findPc] at read
  exact ⟨t, eq, read⟩

theorem service_patrol_waits (busy : s.now < x.busy[hbmBank s (granuleAddr s p.val x.scrub)]) :
    ∃ t, exec (.hbmServiceUnit p) s = .next t ∧ (findPc t p.val).scrub = x.scrub ∧ (findPc t p.val).used = x.used ∧ SameMemory s t := by
  obtain ⟨t, eq, quiet, -⟩ := hbmServiceUnit_answers hx free (unitServed_idle hx empty busy)
  refine ⟨t, eq, ?_, ?_, (rolled_channelOnly s p).sameMemory.trans (AgendaOnly.sameMemory quiet)⟩ <;> rw [quiet.findPc, hx]

end
end

end Sys2Proof.Claims
end

section
/-! O49, continued: the arrival of a scrub's write-back, the wheel's restart, and budget commits (R54, R220, R226, R228, R520-R522). -/

open Sys2Proof.Claims

namespace Sys2Proof.Machine

/-! ## Arrival at a pseudo-channel (R225, R226) -/

/-- An arriving request joins the pseudo-channel's, which may begin to wake. -/
theorem hbmPushAt_pc (s : State) (p : Fin 512) (r : HReq) : ∃ w e, findPc (hbmPushAt s p.val r) p.val =
    { findPc s p.val with reqs := (findPc s p.val).reqs ++ [{ r with wait := w }], exitAt := e } := by
  unfold hbmPushAt
  extract_lets w u q
  have joined : findPc u p.val = { findPc s p.val with reqs := (findPc s p.val).reqs ++ [{ r with wait := w - r.arrive }] } :=
    findPc_modPc_same s (f := fun x => { x with reqs := x.reqs ++ [{ r with wait := w - r.arrive }] }) (findPc_p s _)
  rw [dif_pos p.isLt]
  extract_lets x v
  have woken : ∃ e, findPc v p.val = { findPc u p.val with exitAt := e } := by
    unfold v
    split
    · exact beginExit_pc u p r.arrive
    · exact ⟨_, rfl⟩
  obtain ⟨e, hv⟩ := woken
  rw [joined] at hv
  refine ⟨w - r.arrive, e, ?_⟩
  split
  · exact hv
  · rw [findPc_congr (State.atOnce_hbm _ _ _), hv]

/-! ## Budgets (R220, R226) -/

theorem RegsOnly.findPc {s t : State} (h : RegsOnly s t) (p : Nat) : findPc t p = findPc s p := findPc_congr (by rw [h]) p

theorem unitsOf_congr {s t : State} (h : t.hub = s.hub) (p c : Nat) : unitsOf t p c = unitsOf s p c := by
  rw [unitsOf, unitsOf, hubGet_congr (congrArg Hub.regs h)]

theorem noUnits_iff {s : State} {p : Nat} : noUnits s p = true ↔ ∀ c < 16, c ≠ 12 → c ≠ 13 → unitsOf s p c = 0 := by
  simp only [noUnits, List.all_eq_true, List.mem_range, Bool.or_eq_true, decide_eq_true_eq, or_assoc]
  exact forall₂_congr fun c _ => by rw [or_iff_not_imp_left, or_iff_not_imp_left]

theorem wakeForUnits_channelOnly (s : State) (p : Fin 512) : ChannelOnly p.val s (wakeForUnits s p) :=
  .ite (.refl _ _) (beginExit_channelOnly s p s.now)

/-- The commit word with CWV clear. -/
def disarmed (s : State) (p : Nat) : State := hubPut s (rBudgetCommit p) (setFld (hubGet s (rBudgetCommit p)) 63 63 0)

/-- CWV clear and every SUNITS put in force. -/
def unitsCommitted (s : State) (p : Nat) : State :=
  (List.range 16).foldl (fun t c => hubPut t (rBudget p c) (setFld (hubGet t (rBudget p c)) 6 0 (stagedOf s p c))) (disarmed s p)

theorem rBudget_ne {p c d : Nat} (h : c ≠ d) : rBudget p c ≠ rBudget p d := by unfold rBudget; omega
theorem rBudget_ne_commit {p c : Nat} (h : c < 16) : rBudget p c ≠ rBudgetCommit p := by unfold rBudget rBudgetCommit; omega

theorem disarmed_commit (s : State) (p : Nat) : (hubGet (disarmed s p) (rBudgetCommit p)).getLsbD 63 = false := by
  rw [disarmed, hubGet_hubPut_same, getLsbD_setFld _ _ (by decide) (by decide)]
  rfl

theorem disarmed_units (s : State) {p c : Nat} (h : c < 16) : unitsOf (disarmed s p) p c = unitsOf s p c := by
  rw [unitsOf, disarmed, hubGet_hubPut_other s _ (rBudget_ne_commit h), unitsOf]

theorem unitsCommitted_regsOnly (s : State) (p : Nat) : RegsOnly s (unitsCommitted s p) :=
  (RegsOnly.hubPut s _ _).trans (foldl_rel RegsOnly.refl RegsOnly.trans (fun u c => RegsOnly.hubPut u (rBudget p c) _) _ _)

theorem unitsCommitted_units (s : State) {p c : Nat} (h : c < 16) : unitsOf (unitsCommitted s p) p c = stagedOf s p c := by
  refine foldl_range_sets (I := fun _ => True) (P := fun u => unitsOf u p c = stagedOf s p c) h (fun _ _ _ _ _ => trivial) (fun u _ => ?_)
    (fun u d _ other kept => ?_) trivial
  · rw [unitsOf, hubGet_hubPut_same]
    exact fld_setFld_same _ (by decide) (by decide) (fld_lt _ 14 8)
  · rw [unitsOf, hubGet_hubPut_other _ _ (rBudget_ne other.symm)]
    exact kept

theorem unitsCommitted_commit (s : State) (p : Nat) : (hubGet (unitsCommitted s p) (rBudgetCommit p)).getLsbD 63 = false :=
  foldl_range_keeps (I := fun u => (hubGet u (rBudgetCommit p)).getLsbD 63 = false)
    (fun u _ hd kept => by rw [hubGet_hubPut_other u _ (rBudget_ne_commit hd).symm]; exact kept) (disarmed_commit s p)

/-- The units staged in all classes (R220). -/
def stagedSum (s : State) (p : Nat) : Nat := ((List.range 16).map (stagedOf s p)).foldl (· + ·) 0

section
variable {s : State} {p : Fin 512}

theorem budgetCommit_stays
    (early : (hubGet s (rBudgetCommit p.val)).getLsbD 63 = false ∨ s.now < 256 * fld (hubGet s (rBudgetCommit p.val)) 55 0 + 128) :
    exec (.budgetCommit p) s = .next s := if_pos (by simpa using early)

variable (armed : (hubGet s (rBudgetCommit p.val)).getLsbD 63 = true) (due : 256 * fld (hubGet s (rBudgetCommit p.val)) 55 0 + 128 ≤ s.now)
include armed due

theorem budgetCommit_due : exec (.budgetCommit p) s =
    if 96 < stagedSum s p.val then .next (fabricRecord (disarmed s p.val) 0x0708 1 (word p.val) 16)
    else if stagedOf s p.val 12 = 0 then .next (fabricRecord (disarmed s p.val) 0x0708 2 (word p.val) 16)
    else .next (idleFrom ((wakeForUnits (unitsCommitted s p.val) p).atOnce s.now (.hbmServiceUnit p)) p) :=
  if_neg (by simpa [armed] using due)

theorem budgetCommit_refused (bad : 96 < stagedSum s p.val ∨ stagedOf s p.val 12 = 0) :
    ∃ detail, exec (.budgetCommit p) s = .next (fabricRecord (disarmed s p.val) 0x0708 detail (word p.val) 16) := by
  rw [budgetCommit_due armed due]
  by_cases much : 96 < stagedSum s p.val
  · exact ⟨1, if_pos much⟩
  · exact ⟨2, (if_neg much).trans (if_pos (bad.resolve_left much))⟩

theorem budgetCommit_commits (fits : stagedSum s p.val ≤ 96) (refresh : stagedOf s p.val 12 ≠ 0) :
    ∃ t, exec (.budgetCommit p) s = .next t ∧ ChannelOnly p.val (wakeForUnits (unitsCommitted s p.val) p) t ∧
      findPc t p.val = findPc (wakeForUnits (unitsCommitted s p.val) p) p.val := by
  refine ⟨_, (budgetCommit_due armed due).trans ((if_neg (Nat.not_lt.mpr fits)).trans (if_neg refresh)),
    (ChannelOnly.atOnce _ _ _ _).trans (idleFrom_channelOnly _ _ p), ?_⟩
  rw [(idleFrom_agendaOnly _ p).findPc, findPc_congr (State.atOnce_hbm _ _ _)]

end

end Sys2Proof.Machine

namespace Sys2Proof.Claims

open Sys2Proof.Machine

/-! ## A scrub's write-back, and the wheel's restart -/

theorem scrubWriteback_asks (s : State) (p : Fin 512) (g : Nat) {e : ScrubRead}
    (owed : ((findPc s p.val).scrubRead.find? fun e => e.granule = g && !(findPc s p.val).reqs.any fun r => r.ticket = e.ticket) = some e) :
    ∃ t, exec (.scrubWriteback p g) s = .next t ∧ SameMemory s t ∧ (findPc t p.val).scrubRead = (findPc s p.val).scrubRead ∧
      ∃ r, (findPc t p.val).reqs = (findPc s p.val).reqs ++ [r] ∧ r.cls = e.cls ∧ r.units = 1 ∧ r.write = true ∧ r.arrive = s.now ∧
        r.ticket = e.ticket ∧ r.addr = granuleAddr s p.val g := by
  have asks : exec (.scrubWriteback p g) s =
      .next (hbmPushAt s p.val ⟨e.cls, s.now, Config.coreCount, granuleAddr s p.val g, e.ticket, e.handle, 0, 1, true⟩) := by
    rw [exec_scrubWriteback, execScrubWriteback]
    rw [owed]
  refine ⟨_, asks, (hbmPushAt_unitsOnly _ _ _).sameMemory, ?_⟩
  obtain ⟨w, x, joined⟩ := hbmPushAt_pc s p ⟨e.cls, s.now, Config.coreCount, granuleAddr s p.val g, e.ticket, e.handle, 0, 1, true⟩
  rw [joined]
  exact ⟨rfl, _, rfl, rfl, rfl, rfl, rfl, rfl, rfl⟩

theorem scrubWriteback_stays (s : State) (p : Fin 512) (g : Nat)
    (free : ((findPc s p.val).scrubRead.find? fun e => e.granule = g && !(findPc s p.val).reqs.any fun r => r.ticket = e.ticket) = none) :
    exec (.scrubWriteback p g) s = .next s := by
  rw [exec_scrubWriteback, execScrubWriteback]
  rw [free]

theorem wheelBudgetRestart_restarts (s : State) : ∃ t, exec .wheelBudgetRestart s = .next t ∧ SameMemory s t ∧
    t.hbm.map (fun x => (x.p, x.reqs, x.owed, x.tick)) = s.hbm.map (fun x => (x.p, x.reqs, x.owed, x.tick)) ∧
    ∀ x ∈ t.hbm, x.used = 0 ∧ x.wheel = dieWheel s.now ∧ x.charged = Vector.replicate 16 0 := by
  refine ⟨_, exec_wheelBudgetRestart s, sameMemory_of rfl rfl rfl rfl, List.map_map .., fun x hx => ?_⟩
  obtain ⟨y, -, rfl⟩ := List.mem_map.mp hx
  exact ⟨rfl, rfl, rfl⟩

/-! ## Budget commits (R220, R520, R522) -/

section
variable {s : State} {p : Fin 512}
variable (armed : (hubGet s (rBudgetCommit p.val)).getLsbD 63 = true) (due : 256 * fld (hubGet s (rBudgetCommit p.val)) 55 0 + 128 ≤ s.now)
include armed due

theorem commit_takesForce (fits : stagedSum s p.val ≤ 96) (refresh : stagedOf s p.val 12 ≠ 0) :
    ∃ t, exec (.budgetCommit p) s = .next t ∧ SameMemory s t ∧ (∀ c < 16, unitsOf t p.val c = stagedOf s p.val c) ∧
      (hubGet t (rBudgetCommit p.val)).getLsbD 63 = false ∧
      ((findPc s p.val).selfRef = true → (findPc s p.val).exitAt = none → (∃ c < 16, c ≠ 12 ∧ c ≠ 13 ∧ stagedOf s p.val c ≠ 0) →
        (findPc t p.val).exitAt = some (s.now + 768) ∧ (s.now + 768, Act.selfRefreshExit p) ∈ t.agenda) := by
  have regs := unitsCommitted_regsOnly s p.val
  obtain ⟨t, eq, after, pc⟩ := budgetCommit_commits armed due fits refresh
  have wakes := wakeForUnits_channelOnly (unitsCommitted s p.val) p
  have hub : t.hub = (unitsCommitted s p.val).hub := after.hub.trans wakes.hub
  refine ⟨t, eq, (RegsOnly.sameMemory regs).trans (wakes.trans after).sameMemory, fun c hc => ?_, ?_, fun asleep still granted => ?_⟩
  · rw [unitsOf_congr hub, unitsCommitted_units s hc]
  · rw [hubGet_congr (congrArg Hub.regs hub), unitsCommitted_commit]
  · obtain ⟨c, hc, queue, patrol, units⟩ := granted
    have some_units : noUnits (unitsCommitted s p.val) p.val ≠ true := fun none =>
      units ((unitsCommitted_units s hc).symm.trans (noUnits_iff.mp none c hc queue patrol))
    have begins : wakeForUnits (unitsCommitted s p.val) p = beginExit (unitsCommitted s p.val) p (unitsCommitted s p.val).now :=
      if_neg some_units
    have same := regs.findPc p.val
    obtain ⟨exit, asked⟩ := beginExit_begins (same.symm ▸ asleep) (same.symm ▸ still) (unitsCommitted s p.val).now
    have now : (unitsCommitted s p.val).now = s.now := by rw [regs]
    rw [← begins, now] at exit asked
    exact ⟨pc ▸ exit, after.agenda asked⟩

theorem commit_refused (bad : 96 < stagedSum s p.val ∨ stagedOf s p.val 12 = 0) :
    ∃ t, exec (.budgetCommit p) s = .next t ∧ (∀ c < 16, unitsOf t p.val c = unitsOf s p.val c) ∧
      (hubGet t (rBudgetCommit p.val)).getLsbD 63 = false ∧ t.hub.msix = s.hub.msix ++ [(16, 0)] ∧ t.hbm = s.hbm := by
  obtain ⟨detail, eq⟩ := budgetCommit_refused armed due bad
  have below : ∀ i ≤ 16, ∀ j, rBudget p.val i ≠ rErr j := fun i hi j => by unfold rBudget rErr; omega
  refine ⟨_, eq, fun c hc => ?_, ?_, fabricRecord_msix _ _ _ _ _, fabricRecord_hbm _ _ _ _ _⟩
  · rw [unitsOf, hubGet_fabricRecord_other _ _ _ _ _ (below c hc.le 2) (below c hc.le 3)]
    exact disarmed_units s hc
  · have commit : rBudgetCommit p.val = rBudget p.val 16 := rfl
    rw [hubGet_fabricRecord_other _ _ _ _ _ (commit ▸ below 16 le_rfl 2) (commit ▸ below 16 le_rfl 3)]
    exact disarmed_commit s p.val

end

/-- Settles O49: each clause of the service by its own lemma, then write-backs, the wheel's restart and commits. -/
theorem controllersServeByBudget : Obligations.ControllersServeByBudget := by
  unfold Obligations.ControllersServeByBudget
  refine ⟨⟨fun s p => ?_, fun s p g => ⟨fun e => scrubWriteback_asks s p g, scrubWriteback_stays s p g⟩, wheelBudgetRestart_restarts⟩,
    fun s p => ⟨budgetCommit_stays, fun armed due => ⟨commit_takesForce armed due, commit_refused armed due⟩⟩⟩
  have hx := rolled_pc s p
  exact ⟨service_held hx, fun r free only ready room units first => service_first hx free only ready room units first,
    fun free empty room units => ⟨service_patrols hx free empty room units, service_patrol_waits hx free empty⟩,
    fun r free only ready room units patrol spare => ⟨service_second hx free only ready room units patrol spare,
      service_exact hx free only ready units patrol⟩⟩

end Sys2Proof.Claims
end

section
/-! Refresh: what a refresh command leaves of its pseudo-channel, what a tick does, and the ends of self-refresh (R223, R224, R226, R227, R456, R457,
R522). -/

open Sys2Proof.Claims

namespace Sys2Proof.Machine

theorem exec_refreshEnd (s : State) (p : Fin 512) (b : Fin 16) : exec (.refreshEnd p b) s = .next (s.atOnce s.now (.hbmServiceUnit p)) := rfl

/-! ## A refresh command (R223, R224, R457) -/

/-- Nothing of a pseudo-channel but its units, its banks' refreshes and the waits of its requests differs. -/
def RefreshOnly (x y : Pc) : Prop := y = { x with used := y.used, charged := y.charged, busy := y.busy, reqs := y.reqs }

namespace RefreshOnly

variable {x y z : Pc}

theorem refl (x : Pc) : RefreshOnly x x := rfl
theorem trans (h : RefreshOnly x y) (g : RefreshOnly y z) : RefreshOnly x z := by
  unfold RefreshOnly at *
  rw [g, h]

variable (h : RefreshOnly x y)
include h

theorem p : y.p = x.p := by rw [h]
theorem owed : y.owed = x.owed := by rw [h]
theorem owedList : y.owedList = x.owedList := by rw [h]
theorem tick : y.tick = x.tick := by rw [h]
theorem selfRef : y.selfRef = x.selfRef := by rw [h]
theorem exitAt : y.exitAt = x.exitAt := by rw [h]
theorem lateTick : y.lateTick = x.lateTick := by rw [h]
theorem training : y.training = x.training := by rw [h]

end RefreshOnly

theorem chargeRefresh_only (s : State) (x : Pc) : RefreshOnly x (chargeRefresh s x) := by
  unfold chargeRefresh
  split
  · rfl
  · split <;> rfl

theorem chargeRefresh_busy (s : State) (x : Pc) : (chargeRefresh s x).busy = x.busy := by
  unfold chargeRefresh
  split
  · rfl
  · split <;> rfl

theorem busyBank_only (s : State) (x : Pc) (b : Fin 16) (d : Nat) : RefreshOnly x (busyBank s x b d) := rfl

theorem busyBank_same (s : State) (x : Pc) (b : Fin 16) (d : Nat) : (busyBank s x b d).busy[b] = max x.busy[b] (s.now + d) := by
  simp [busyBank]

theorem busyBank_other (s : State) (x : Pc) {b c : Fin 16} (d : Nat) (h : c ≠ b) : (busyBank s x b d).busy[c] = x.busy[c] := by
  have apart : b.val ≠ c.val := fun e => h (Fin.ext e.symm)
  simp [busyBank, apart]

/-- The pseudo-channel after a refresh of one bank. -/
def bankRefreshed (s : State) (b : Fin 16) (x : Pc) : Pc := busyBank s (chargeRefresh s x) b tRFCpb

theorem bankRefreshed_only (s : State) (b : Fin 16) (x : Pc) : RefreshOnly x (bankRefreshed s b x) :=
  (chargeRefresh_only s x).trans (busyBank_only s _ b tRFCpb)

section
variable (s : State) (p : Fin 512) (b : Fin 16)

theorem refreshBank_pc : findPc (refreshBank s p b) p.val = bankRefreshed s b (findPc s p.val) :=
  (findPc_congr (State.at_hbm _ _ _) _).trans (findPc_modPc_same s (f := bankRefreshed s b) ((bankRefreshed_only s b _).p.trans (findPc_p s _)))

theorem refreshBank_only : RefreshOnly (findPc s p.val) (findPc (refreshBank s p b) p.val) := by
  rw [refreshBank_pc]
  exact bankRefreshed_only s b _

theorem refreshBank_same : (findPc (refreshBank s p b) p.val).busy[b] = max (findPc s p.val).busy[b] (s.now + 224) := by
  rw [refreshBank_pc, bankRefreshed, busyBank_same, chargeRefresh_busy]
  rfl

variable {b} in
theorem refreshBank_other {c : Fin 16} (h : c ≠ b) : (findPc (refreshBank s p b) p.val).busy[c] = (findPc s p.val).busy[c] := by
  rw [refreshBank_pc, bankRefreshed, busyBank_other _ _ _ h, chargeRefresh_busy]

theorem refreshBank_channelOnly : ChannelOnly p.val s (refreshBank s p b) :=
  (ChannelOnly.modPc s (f := bankRefreshed s b) ((bankRefreshed_only s b _).p.trans (findPc_p s _))).trans (.at_ ..)

theorem refreshBank_ends : (s.now + 224, Act.refreshEnd p b) ∈ (refreshBank s p b).agenda := State.mem_at _ _ _

end

/-! ## The all-bank refresh (R224) -/

/-- The pseudo-channel with some banks refreshed for d cycles. -/
def busyBanks (s : State) (d : Nat) (bs : List (Fin 16)) (x : Pc) : Pc := bs.foldl (fun x b => busyBank s x b d) x

theorem busyBanks_only (s : State) (d : Nat) (bs : List (Fin 16)) (x : Pc) : RefreshOnly x (busyBanks s d bs x) :=
  foldl_rel RefreshOnly.refl RefreshOnly.trans (fun x b => busyBank_only s x b d) bs x

theorem le_busyBank (s : State) (x : Pc) (b c : Fin 16) (d : Nat) : x.busy[c] ≤ (busyBank s x b d).busy[c] := by
  by_cases own : c = b
  · subst own
    rw [busyBank_same]
    exact le_max_left _ _
  · rw [busyBank_other s x d own]

theorem le_busyBanks (s : State) (d : Nat) (c : Fin 16) (bs : List (Fin 16)) (x : Pc) : x.busy[c] ≤ (busyBanks s d bs x).busy[c] :=
  foldl_rel (R := fun x y : Pc => x.busy[c] ≤ y.busy[c]) (fun _ => le_rfl) le_trans (fun x b => le_busyBank s x b c d) bs x

theorem busyBanks_busy (s : State) (d : Nat) {c : Fin 16} {bs : List (Fin 16)} (h : c ∈ bs) (x : Pc) :
    s.now + d ≤ (busyBanks s d bs x).busy[c] := by
  induction bs generalizing x with
  | nil => cases h
  | cons b bs ih =>
    rcases List.mem_cons.mp h with rfl | h
    · exact (busyBank_same s x c d ▸ le_max_right _ _ : s.now + d ≤ (busyBank s x c d).busy[c]).trans (le_busyBanks s d c bs _)
    · exact ih h _

/-- Acts that are added so long after the present cycle join the end of the agenda. -/
theorem foldl_at_after {α : Type} (d : Nat) (act : α → Act) (xs : List α) (s : State) :
    xs.foldl (fun t x => t.at (t.now + d) (act x)) s = { s with agenda := s.agenda ++ xs.map fun x => (s.now + d, act x) } := by
  induction xs generalizing s with
  | nil => simp
  | cons x xs ih => rw [List.foldl_cons, ih]; simp [State.at]

/-- No refresh is owed. -/
def Pc.clearOwed (x : Pc) : Pc := { x with owed := 0, owedList := [] }

@[simp] theorem Pc.clearOwed_p (x : Pc) : x.clearOwed.p = x.p := rfl
@[simp] theorem Pc.clearOwed_training (x : Pc) : x.clearOwed.training = x.training := rfl
@[simp] theorem Pc.clearOwed_tick (x : Pc) : x.clearOwed.tick = x.tick := rfl
@[simp] theorem Pc.clearOwed_busy (x : Pc) : x.clearOwed.busy = x.busy := rfl
@[simp] theorem Pc.clearOwed_owed (x : Pc) : x.clearOwed.owed = 0 := rfl
@[simp] theorem Pc.clearOwed_owedList (x : Pc) : x.clearOwed.owedList = [] := rfl

/-- The pseudo-channel after an all-bank refresh. -/
def allRefreshed (s : State) (x : Pc) : Pc := (busyBanks s tRFCab (List.finRange 16) (chargeRefresh s x)).clearOwed

theorem allRefreshed_kept (s : State) (x : Pc) :
    (allRefreshed s x).p = x.p ∧ (allRefreshed s x).training = x.training ∧ (allRefreshed s x).tick = x.tick := by
  have only := (chargeRefresh_only s x).trans (busyBanks_only s tRFCab (List.finRange 16) (chargeRefresh s x))
  rw [allRefreshed, Pc.clearOwed_p, Pc.clearOwed_training, Pc.clearOwed_tick]
  exact ⟨only.p, only.training, only.tick⟩

theorem allRefreshed_owed (s : State) (x : Pc) : (allRefreshed s x).owed = 0 ∧ (allRefreshed s x).owedList = [] := by
  rw [allRefreshed, Pc.clearOwed_owed, Pc.clearOwed_owedList]
  exact ⟨rfl, rfl⟩

section
variable (s : State) (p : Fin 512)

theorem allRefreshed_key : (allRefreshed s (findPc s p.val)).p = p.val := (allRefreshed_kept s _).1.trans (findPc_p s _)

theorem refreshAll_eq : refreshAll s p =
    (List.finRange 16).foldl (fun t b => t.at (t.now + 560) (.refreshEnd p b)) (modPc s p.val (allRefreshed s)) := rfl

theorem refreshAll_pc : findPc (refreshAll s p) p.val = allRefreshed s (findPc s p.val) := by
  rw [refreshAll_eq, foldl_at_after]
  exact findPc_modPc_same s (allRefreshed_key s p)

theorem refreshAll_channelOnly : ChannelOnly p.val s (refreshAll s p) := by
  rw [refreshAll_eq]
  exact (ChannelOnly.modPc s (allRefreshed_key s p)).trans
    (foldl_rel (ChannelOnly.refl p.val) ChannelOnly.trans (fun t b => .at_ p.val t (t.now + 560) (.refreshEnd p b)) _ _)

theorem refreshAll_busy (c : Fin 16) : s.now + 560 ≤ (findPc (refreshAll s p) p.val).busy[c] := by
  rw [refreshAll_pc, allRefreshed, Pc.clearOwed_busy]
  exact busyBanks_busy s tRFCab (List.mem_finRange c) _

theorem refreshAll_ends (c : Fin 16) : (s.now + 560, Act.refreshEnd p c) ∈ (refreshAll s p).agenda := by
  rw [refreshAll_eq, foldl_at_after]
  exact List.mem_append_right _ (List.mem_map_of_mem (List.mem_finRange c))

end

/-! ## A tick's bank (R224, R227) -/

/-- A bank's refresh is owed. -/
def Pc.postpone (b : Fin 16) (x : Pc) : Pc := { x with owed := x.owed + 1, owedList := x.owedList ++ [b.val] }

/-- An owed refresh is made good; os are still owed. -/
def Pc.catchUp (os : List Nat) (x : Pc) : Pc := { x with owed := x.owed - 1, owedList := os }

section
variable {s : State} {p : Fin 512} {b : Fin 16}

theorem tickBank_exact (exactMode : exactPc s p.val = true) : tickBank s p b = refreshBank s p b := if_pos exactMode

variable (plain : exactPc s p.val = false)
include plain

theorem tickBank_plain : tickBank s p b =
    if pendingBank s (findPc s p.val) b then
      if (findPc s p.val).owed < 8 then
        modPc s p.val (Pc.postpone b)
      else refreshAll s p
    else match (findPc s p.val).owedList with
      | o :: os => if pendingAny s (findPc s p.val) then refreshBank s p b
        else modPc (refreshBank (refreshBank s p b) p ⟨o % 16, Nat.mod_lt _ (by decide)⟩) p.val (Pc.catchUp os)
      | [] => refreshBank s p b :=
  if_neg (by simp [plain])

theorem tickBank_postpones (pending : pendingBank s (findPc s p.val) b = true) (room : (findPc s p.val).owed < 8) :
    tickBank s p b = modPc s p.val (Pc.postpone b) := by
  rw [tickBank_plain plain, if_pos pending, if_pos room]

theorem tickBank_all (pending : pendingBank s (findPc s p.val) b = true) (full : 8 ≤ (findPc s p.val).owed) : tickBank s p b = refreshAll s p := by
  rw [tickBank_plain plain, if_pos pending, if_neg (Nat.not_lt.mpr full)]

variable (idle : pendingBank s (findPc s p.val) b = false)
include idle

theorem tickBank_refreshes (none : (findPc s p.val).owedList = []) : tickBank s p b = refreshBank s p b := by
  rw [tickBank_plain plain, if_neg (by simp [idle]), none]

theorem tickBank_catchesUp {o : Fin 16} {os : List Nat} (owed : (findPc s p.val).owedList = o.val :: os)
    (quiet : pendingAny s (findPc s p.val) = false) :
    tickBank s p b = modPc (refreshBank (refreshBank s p b) p o) p.val (Pc.catchUp os) := by
  have turn : (⟨o.val % 16, Nat.mod_lt _ (by decide)⟩ : Fin 16) = o := Fin.ext (Nat.mod_eq_of_lt o.isLt)
  rw [tickBank_plain plain, if_neg (by simp [idle]), owed]
  exact (if_neg (by simp [quiet])).trans (by rw [turn])

end

theorem tickBank_channelOnly (s : State) (p : Fin 512) (b : Fin 16) : ChannelOnly p.val s (tickBank s p b) := by
  have one := refreshBank_channelOnly s p b
  by_cases exactMode : exactPc s p.val = true
  · rw [tickBank_exact exactMode]
    exact one
  · rw [tickBank_plain (by simpa using exactMode)]
    refine .ite (.ite (.modPc s (findPc_p s _)) (refreshAll_channelOnly s p)) ?_
    split
    · exact .ite one ((one.trans (refreshBank_channelOnly _ p _)).trans (.modPc _ (findPc_p _ _)))
    · exact one

/-! ## A tick (R224, R226, R227, R456, R522) -/

/-- A tick's bank is noted for the end of the exit. -/
def Pc.noteLate (b : Fin 16) (x : Pc) : Pc := { x with lateTick := x.lateTick ++ [b.val] }

/-- A tick is counted. -/
def Pc.countTick (x : Pc) : Pc := { x with tick := x.tick + 1 }

/-- What a tick does to its bank b; in self-refresh it is noted if it falls in the exit. -/
def tickEffect (s : State) (p : Fin 512) (b : Fin 16) : State :=
  if (findPc s p.val).selfRef then
    (if ((findPc s p.val).exitAt.any fun e => decide (e ≤ s.now + 768)) then modPc s p.val (Pc.noteLate b) else s)
  else tickBank s p b

theorem tickEffect_channelOnly (s : State) (p : Fin 512) (b : Fin 16) : ChannelOnly p.val s (tickEffect s p b) :=
  .ite (.ite (.modPc s (findPc_p s _)) (.refl _ _)) (tickBank_channelOnly s p b)

theorem tickEffect_asleep {s : State} {p : Fin 512} (asleep : (findPc s p.val).selfRef = true) (b : Fin 16) :
    tickEffect s p b = if ((findPc s p.val).exitAt.any fun e => decide (e ≤ s.now + 768)) then
      modPc s p.val (Pc.noteLate b) else s := if_pos asleep

theorem tickEffect_awake {s : State} {p : Fin 512} (awake : (findPc s p.val).selfRef = false) (b : Fin 16) : tickEffect s p b = tickBank s p b :=
  if_neg (by simp [awake])

/-- Which partitions are exact depends on the registers below those of lanes and trainings alone. -/
theorem exactPc_of_regs {s t : State} (same : ∀ a < rLane 0, hubGet t a = hubGet s a) (p : Nat) : exactPc t p = exactPc s p := by
  have mode : sysMode t = sysMode s := by rw [sysMode, same rSyscfg (by decide), sysMode]
  have holds : ∀ m, mdevHolds t m p = mdevHolds s m p := fun m => by rw [mdevHolds, mdevHolds, mode]
  have parts : exactParts t p = exactParts s p := List.filter_congr fun i hi => by
    have low : rPart i 0 < rLane 0 := by rw [List.mem_range] at hi; unfold rPart rLane; omega
    dsimp only
    rw [same _ low, holds]
  rw [exactPc, parts, exactPc]

section
variable {s t : State} (hub : t.hub = s.hub)
include hub

theorem exactPc_congr (p : Nat) : exactPc t p = exactPc s p := exactPc_of_regs (fun a _ => hubGet_congr (congrArg Hub.regs hub) a) p

theorem tickTime_congr (now : t.now = s.now) (p : Fin 512) (k : Nat) : tickTime t p k = tickTime s p k := by
  rw [tickTime, tickTime, exactPc_congr hub, tickBase, tickBase, State.nextDieWheel, State.nextDieWheel, hubGet_congr (congrArg Hub.regs hub), now]

end

theorem tickTime_plain {s : State} {p : Fin 512} (plain : exactPc s p.val = false) (k : Nat) :
    tickTime s p k = (hubGet s (rReforg p.val) + 128).toNat + 1952 * k / 5 := if_neg (by simp [plain])

/-- In exact mode the next tick is at the first cycle of the next die wheel, which is still to come. -/
theorem tickTime_exact {s : State} {p : Fin 512} (exactMode : exactPc s p.val = true) (k : Nat) :
    max (s.now + 1) (tickTime s p k) = s.nextDieWheel := by
  rw [tickTime, if_pos exactMode, State.nextDieWheel]
  omega

/-- The count of ticks goes on, and the next tick stands on the agenda. -/
def ticked (s : State) (p : Fin 512) (k : Nat) : State :=
  let t := modPc s p.val Pc.countTick
  t.atOnce (max (s.now + 1) (tickTime t p k)) (.refreshTick p)

theorem ticked_pc (s : State) (p : Fin 512) (k : Nat) : findPc (ticked s p k) p.val = (findPc s p.val).countTick :=
  (findPc_congr (State.atOnce_hbm _ _ _) _).trans (findPc_modPc_same s (findPc_p s _))

theorem ticked_channelOnly (s : State) (p : Fin 512) (k : Nat) : ChannelOnly p.val s (ticked s p k) :=
  (ChannelOnly.modPc s (findPc_p s _)).trans (.atOnce ..)

theorem ticked_next (s : State) (p : Fin 512) (k : Nat) : (max (s.now + 1) (tickTime s p k), Act.refreshTick p) ∈ (ticked s p k).agenda :=
  State.mem_atOnce _ _ _

section
variable {s : State} {p : Fin 512} {x : Pc} (hx : findPc (rolled s p) p.val = x)
include hx

theorem refreshTick_trains (training : x.training = true) : exec (.refreshTick p) s = .next (rolled s p) := by
  subst hx
  exact if_pos training

theorem refreshTick_ticks (trained : x.training = false) {b : Fin 16} (turn : b.val = (if exactPc s p.val then dieWheel s.now else x.tick) % 16) :
    exec (.refreshTick p) s = .next (ticked (tickEffect (rolled s p) p b) p (x.tick + 1)) := by
  subst hx
  have bank : b = ⟨(if exactPc s p.val then dieWheel s.now else (findPc (rolled s p) p.val).tick) % 16, Nat.mod_lt _ (by decide)⟩ := Fin.ext turn
  have now : (tickEffect (rolled s p) p b).now = s.now := (tickEffect_channelOnly _ p b).now
  rw [ticked, now, bank]
  exact if_neg (Bool.eq_false_iff.mp trained)

end

end Sys2Proof.Machine
end

section
/-! O50: the ticks of refresh, in turn, postponed, exact and in self-refresh, and self-refresh itself (R223, R224, R226, R227, R456, R457, R522). -/

open Sys2Proof.Claims

namespace Sys2Proof.Machine

/-! ## Entry to self-refresh (R226) -/

/-- Self-refresh may begin now. -/
def mayEnter (s : State) (p : Fin 512) : Prop :=
  fld (hubGet s (rSridle p.val)) 7 0 ≠ 0 ∧ (∀ c < 16, c ≠ 12 → c ≠ 13 → unitsOf s p.val c = 0) ∧ exactPc s p.val = false ∧
    (findPc s p.val).training = false ∧ (findPc s p.val).selfRef = false ∧ waitingAny s (findPc s p.val) = false ∧
    (findPc s p.val).idle + 256 * fld (hubGet s (rSridle p.val)) 7 0 ≤ s.now

/-- The test of the entry. -/
def enters (s : State) (p : Fin 512) : Bool :=
  fld (hubGet s (rSridle p.val)) 7 0 != 0 && noUnits s p.val && !exactPc s p.val && !(findPc s p.val).training && !(findPc s p.val).selfRef &&
    !waitingAny s (findPc s p.val) && decide ((findPc s p.val).idle + 256 * fld (hubGet s (rSridle p.val)) 7 0 ≤ s.now)

theorem enters_iff {s : State} {p : Fin 512} : enters s p = true ↔ mayEnter s p := by
  simp only [enters, mayEnter, Bool.and_eq_true, bne_iff_ne, noUnits_iff, Bool.not_eq_true', decide_eq_true_eq, and_assoc]

theorem selfRefreshEntry_stays {s : State} {p : Fin 512} (h : ¬ mayEnter s p) : exec (.selfRefreshEntry p) s = .next s :=
  if_neg (mt enters_iff.mp h)

/-- The pseudo-channel in self-refresh. -/
def Pc.sleep (x : Pc) : Pc := { x with selfRef := true }

/-- A request that is on its way wakes the pseudo-channel when it arrives. -/
theorem selfRefreshEntry_enters {s : State} {p : Fin 512} (h : mayEnter s p) :
    ∃ t, exec (.selfRefreshEntry p) s = .next t ∧ (t = modPc s p.val Pc.sleep ∨ ∃ n, t = beginExit (modPc s p.val Pc.sleep) p n) := by
  refine ⟨_, if_pos (enters_iff.mpr h), ?_⟩
  split
  · exact .inl rfl
  · exact .inr ⟨_, rfl⟩

/-! ## Exit from self-refresh (R226, R522) -/

/-- Banks refreshed one after another, by number. -/
def refreshEach (s : State) (p : Fin 512) (bs : List Nat) : State :=
  bs.foldl (fun t b => refreshBank t p ⟨b % 16, Nat.mod_lt _ (by decide)⟩) s

theorem refreshEach_channelOnly (s : State) (p : Fin 512) (bs : List Nat) : ChannelOnly p.val s (refreshEach s p bs) :=
  foldl_rel (ChannelOnly.refl p.val) ChannelOnly.trans (fun t _ => refreshBank_channelOnly t p _) bs s

theorem refreshEach_only (s : State) (p : Fin 512) (bs : List Nat) : RefreshOnly (findPc s p.val) (findPc (refreshEach s p bs) p.val) :=
  foldl_rel (R := fun s t => RefreshOnly (findPc s p.val) (findPc t p.val)) (fun _ => .refl _) RefreshOnly.trans
    (fun t _ => refreshBank_only t p _) bs s

theorem refreshEach_busy (p : Fin 512) (b : Fin 16) (bs : List Nat) (s : State) : (findPc (refreshEach s p bs) p.val).busy[b] =
    if b.val ∈ bs.map (· % 16) then max (findPc s p.val).busy[b] (s.now + 224) else (findPc s p.val).busy[b] := by
  induction bs generalizing s with
  | nil => rfl
  | cons c cs ih =>
    have rest := ih (refreshBank s p ⟨c % 16, Nat.mod_lt _ (by decide)⟩)
    rw [(refreshBank_channelOnly s p _).now] at rest
    refine rest.trans ?_
    by_cases own : b.val = c % 16
    · have mem : b.val ∈ (c :: cs).map (· % 16) := List.mem_cons.mpr (.inl own)
      obtain rfl : b = ⟨c % 16, Nat.mod_lt _ (by decide)⟩ := Fin.ext own
      rw [refreshBank_same, if_pos mem, max_assoc, max_self, ite_self]
    · rw [refreshBank_other s p (fun e => own (congrArg Fin.val e)), List.map_cons]
      simp only [List.mem_cons, own, false_or]

/-- The pseudo-channel awake. -/
def Pc.awake (now : Nat) (x : Pc) : Pc := { x with selfRef := false, exitAt := none, lateTick := [], idle := now }

/-- The controller awake, with the refreshes of the ticks that fell in its exit. -/
def woken (s : State) (p : Fin 512) : State :=
  let t := modPc s p.val (Pc.awake s.now)
  if (findPc s p.val).lateTick.isEmpty then t else modPc (refreshEach t p (findPc s p.val).lateTick) p.val Pc.clearOwed

section
variable {s : State} {p : Fin 512}

theorem selfRefreshExit_stays (h : (findPc s p.val).selfRef = false ∨ ∀ e, (findPc s p.val).exitAt = some e → s.now < e) :
    exec (.selfRefreshExit p) s = .next s := by
  refine if_pos ?_
  rcases h with awake | early
  · simp [awake]
  · cases exit : (findPc s p.val).exitAt with
    | none => simp
    | some e => simpa using .inr (early e exit)

theorem selfRefreshExit_wakes (asleep : (findPc s p.val).selfRef = true) (due : ∃ e, (findPc s p.val).exitAt = some e ∧ e ≤ s.now) :
    exec (.selfRefreshExit p) s = .next (idleFrom ((woken s p).atOnce s.now (.hbmServiceUnit p)) p) := by
  obtain ⟨e, exit, past⟩ := due
  exact if_neg (by simp [asleep, exit, past])

theorem awake_pc (s : State) (p : Fin 512) : findPc (modPc s p.val (Pc.awake s.now)) p.val = (findPc s p.val).awake s.now :=
  findPc_modPc_same s (findPc_p s _)

theorem woken_channelOnly (s : State) (p : Fin 512) : ChannelOnly p.val s (woken s p) := by
  have first : ChannelOnly p.val s (modPc s p.val (Pc.awake s.now)) := .modPc s (findPc_p s _)
  exact .ite first ((first.trans (refreshEach_channelOnly _ p _)).trans (.modPc _ (findPc_p _ _)))

theorem woken_quiet (none : (findPc s p.val).lateTick = []) : findPc (woken s p) p.val = (findPc s p.val).awake s.now := by
  rw [woken, if_pos (by simp [none]), awake_pc]

theorem woken_late (some_ : (findPc s p.val).lateTick ≠ []) : findPc (woken s p) p.val =
    (findPc (refreshEach (modPc s p.val (Pc.awake s.now)) p (findPc s p.val).lateTick) p.val).clearOwed := by
  rw [woken, if_neg (by simpa using some_), findPc_modPc_same _ (findPc_p _ _)]

theorem woken_pc (s : State) (p : Fin 512) :
    (findPc (woken s p) p.val).selfRef = false ∧ (findPc (woken s p) p.val).exitAt = none ∧ (findPc (woken s p) p.val).lateTick = [] := by
  by_cases none : (findPc s p.val).lateTick = []
  · rw [woken_quiet none]
    exact ⟨rfl, rfl, rfl⟩
  · have only := refreshEach_only (modPc s p.val (Pc.awake s.now)) p (findPc s p.val).lateTick
    rw [awake_pc] at only
    rw [woken_late none]
    exact ⟨only.selfRef, only.exitAt, only.lateTick⟩

/-- Every tick that fell in the exit is issued now. -/
theorem woken_busy {b : Fin 16} (late : b.val ∈ (findPc s p.val).lateTick) :
    (findPc (woken s p) p.val).busy[b] = max (findPc s p.val).busy[b] (s.now + 224) ∧ (findPc (woken s p) p.val).owed = 0 := by
  have turn : b.val ∈ (findPc s p.val).lateTick.map (· % 16) := List.mem_map.mpr ⟨b.val, late, Nat.mod_eq_of_lt b.isLt⟩
  rw [woken_late (List.ne_nil_of_mem late)]
  refine ⟨?_, rfl⟩
  rw [Pc.clearOwed_busy, refreshEach_busy, if_pos turn, awake_pc]
  rfl

end

end Sys2Proof.Machine

namespace Sys2Proof.Claims

open Sys2Proof.Machine

/-! ## Ticks (R224, R227, R456) -/

section
variable {s : State} {p : Fin 512} {x : Pc} {b : Fin 16} (hx : findPc (rolled s p) p.val = x)
include hx

theorem tick_trains (training : x.training = true) :
    ∃ t, exec (.refreshTick p) s = .next t ∧ SameMemory s t ∧ findPc t p.val = x ∧ t.agenda = s.agenda :=
  ⟨_, refreshTick_trains hx training, (rolled_channelOnly s p).sameMemory, hx, rfl⟩

variable (trained : x.training = false)
include trained

/-- A tick does what it does to its bank, and is then counted, with the next one on the agenda. -/
theorem tick_answers (turn : b.val = (if exactPc s p.val then dieWheel s.now else x.tick) % 16) {u : State}
    (acts : tickEffect (rolled s p) p b = u) : ∃ t, exec (.refreshTick p) s = .next t ∧ SameMemory s t ∧
      findPc t p.val = (findPc u p.val).countTick ∧ u.agenda ⊆ t.agenda ∧
      (max (s.now + 1) (tickTime s p (x.tick + 1)), Act.refreshTick p) ∈ t.agenda := by
  subst acts
  have before := (rolled_channelOnly s p).trans (tickEffect_channelOnly (rolled s p) p b)
  have after := ticked_channelOnly (tickEffect (rolled s p) p b) p (x.tick + 1)
  have next := ticked_next (tickEffect (rolled s p) p b) p (x.tick + 1)
  rw [before.now, tickTime_congr before.hub before.now] at next
  exact ⟨_, refreshTick_ticks hx trained turn, (before.trans after).sameMemory, ticked_pc _ _ _, after.agenda, next⟩

section
variable (awake : x.selfRef = false)
include awake

omit trained in
theorem effect_awake (b : Fin 16) : tickEffect (rolled s p) p b = tickBank (rolled s p) p b := tickEffect_awake (by rw [hx, awake]) b

theorem tick_exact (exactMode : exactPc s p.val = true) (turn : b.val = dieWheel s.now % 16) :
    ∃ t, exec (.refreshTick p) s = .next t ∧ SameMemory s t ∧ (findPc t p.val).busy[b] = max x.busy[b] (s.now + 224) ∧
      (s.nextDieWheel, Act.refreshTick p) ∈ t.agenda := by
  have acts := (effect_awake hx awake b).trans (tickBank_exact exactMode)
  obtain ⟨t, eq, mem, pc, -, next⟩ := tick_answers hx trained (turn.trans (by rw [if_pos exactMode])) acts
  rw [tickTime_exact exactMode] at next
  refine ⟨t, eq, mem, ?_, next⟩
  rw [pc]
  exact (refreshBank_same (rolled s p) p b).trans (by rw [hx, rolled_now])

variable (plain : exactPc s p.val = false) (turn : b.val = x.tick % 16)
include plain turn

theorem tick_plain {u : State} (acts : tickBank (rolled s p) p b = u) : ∃ t, exec (.refreshTick p) s = .next t ∧ SameMemory s t ∧
    findPc t p.val = (findPc u p.val).countTick ∧ u.agenda ⊆ t.agenda ∧
    (max (s.now + 1) ((hubGet s (rReforg p.val) + 128).toNat + 1952 * (x.tick + 1) / 5), Act.refreshTick p) ∈ t.agenda := by
  obtain ⟨t, eq, mem, pc, agenda, next⟩ :=
    tick_answers hx trained (turn.trans (by simp [plain])) ((effect_awake hx awake b).trans acts)
  rw [tickTime_plain plain] at next
  exact ⟨t, eq, mem, pc, agenda, next⟩

theorem tick_refreshes (idle : pendingBank s x b = false) (none : x.owedList = []) : ∃ t, exec (.refreshTick p) s = .next t ∧ SameMemory s t ∧
    (findPc t p.val).busy[b] = max x.busy[b] (s.now + 224) ∧ (∀ c : Fin 16, c ≠ b → (findPc t p.val).busy[c] = x.busy[c]) ∧
    (findPc t p.val).owed = x.owed ∧ (findPc t p.val).tick = x.tick + 1 ∧ (s.now + 224, Act.refreshEnd p b) ∈ t.agenda ∧
    (max (s.now + 1) ((hubGet s (rReforg p.val) + 128).toNat + 1952 * (x.tick + 1) / 5), Act.refreshTick p) ∈ t.agenda := by
  obtain ⟨t, eq, mem, pc, agenda, next⟩ :=
    tick_plain hx trained awake plain turn (tickBank_refreshes plain (by rw [hx]; exact idle) (by rw [hx, none]))
  have only := refreshBank_only (rolled s p) p b
  rw [hx] at only
  refine ⟨t, eq, mem, ?_⟩
  rw [pc]
  exact ⟨(refreshBank_same _ p b).trans (by rw [hx, rolled_now]), fun c other => (refreshBank_other _ p other).trans (by rw [hx]),
    only.owed, congrArg (· + 1) only.tick, agenda (refreshBank_ends _ p b), next⟩

theorem tick_catchesUp {o : Fin 16} {os : List Nat} (other : o ≠ b) (idle : pendingBank s x b = false) (quiet : pendingAny s x = false)
    (owed : x.owedList = o.val :: os) : ∃ t, exec (.refreshTick p) s = .next t ∧ SameMemory s t ∧ (findPc t p.val).owed = x.owed - 1 ∧
      (findPc t p.val).owedList = os ∧ (findPc t p.val).busy[b] = max x.busy[b] (s.now + 224) ∧
      (findPc t p.val).busy[o] = max x.busy[o] (s.now + 224) := by
  obtain ⟨t, eq, mem, pc, -, -⟩ := tick_plain hx trained awake plain turn
    (tickBank_catchesUp (s := rolled s p) plain (by rw [hx]; exact idle) (by rw [hx, owed]) (by rw [hx]; exact quiet))
  have only := (refreshBank_only (rolled s p) p b).trans (refreshBank_only _ p o)
  have now : (refreshBank (rolled s p) p b).now = s.now := (refreshBank_channelOnly _ p b).now
  rw [hx] at only
  rw [findPc_modPc_same _ (findPc_p _ _)] at pc
  refine ⟨t, eq, mem, ?_⟩
  rw [pc]
  refine ⟨congrArg (· - 1) only.owed, rfl, ?_, ?_⟩
  · exact (refreshBank_other _ p other.symm).trans ((refreshBank_same _ p b).trans (by rw [hx, rolled_now]))
  · exact (refreshBank_same _ p o).trans (by rw [refreshBank_other _ p other, hx, now])

variable (pending : pendingBank s x b = true)
include pending

theorem tick_postpones (room : x.owed < 8) : ∃ t, exec (.refreshTick p) s = .next t ∧ SameMemory s t ∧ (findPc t p.val).owed = x.owed + 1 ∧
    (findPc t p.val).owedList = x.owedList ++ [b.val] ∧ (findPc t p.val).busy = x.busy ∧ (findPc t p.val).tick = x.tick + 1 ∧
    (max (s.now + 1) ((hubGet s (rReforg p.val) + 128).toNat + 1952 * (x.tick + 1) / 5), Act.refreshTick p) ∈ t.agenda := by
  obtain ⟨t, eq, mem, pc, -, next⟩ := tick_plain hx trained awake plain turn
    (tickBank_postpones plain (by rw [hx]; exact pending) (by rw [hx]; exact room))
  rw [findPc_modPc_same _ (findPc_p _ _), hx] at pc
  refine ⟨t, eq, mem, ?_⟩
  rw [pc]
  exact ⟨rfl, rfl, rfl, rfl, next⟩

theorem tick_refreshesAll (full : 8 ≤ x.owed) : ∃ t, exec (.refreshTick p) s = .next t ∧ SameMemory s t ∧ (findPc t p.val).owed = 0 ∧
    (findPc t p.val).owedList = [] ∧
    ∀ c : Fin 16, s.now + 560 ≤ (findPc t p.val).busy[c] ∧ (s.now + 560, Act.refreshEnd p c) ∈ t.agenda := by
  obtain ⟨t, eq, mem, pc, agenda, -⟩ := tick_plain hx trained awake plain turn
    (tickBank_all plain (by rw [hx]; exact pending) (by rw [hx]; exact full))
  obtain ⟨owed, list⟩ := allRefreshed_owed (rolled s p) (findPc (rolled s p) p.val)
  rw [← refreshAll_pc] at owed list
  refine ⟨t, eq, mem, ?_⟩
  rw [pc]
  exact ⟨owed, list, fun c => ⟨refreshAll_busy (rolled s p) p c, agenda (refreshAll_ends (rolled s p) p c)⟩⟩

end

theorem tick_asleep (asleep : x.selfRef = true) (plain : exactPc s p.val = false) (turn : b.val = x.tick % 16) :
    ∃ t, exec (.refreshTick p) s = .next t ∧ SameMemory s t ∧ (findPc t p.val).busy = x.busy ∧ (findPc t p.val).tick = x.tick + 1 ∧
      ((∃ e, x.exitAt = some e ∧ e ≤ s.now + 768) → (findPc t p.val).lateTick = x.lateTick ++ [b.val]) ∧
      ((¬ ∃ e, x.exitAt = some e ∧ e ≤ s.now + 768) → (findPc t p.val).lateTick = x.lateTick) := by
  obtain ⟨t, eq, mem, pc, -, -⟩ := tick_answers hx trained (turn.trans (by simp [plain])) (tickEffect_asleep (hx.symm ▸ asleep) b)
  have exits : (x.exitAt.any fun e => decide (e ≤ s.now + 768)) = true ↔ ∃ e, x.exitAt = some e ∧ e ≤ s.now + 768 := by
    simp [Option.any_eq_true]
  rw [hx, rolled_now] at pc
  refine ⟨t, eq, mem, ?_⟩
  by_cases late : ∃ e, x.exitAt = some e ∧ e ≤ s.now + 768
  · rw [if_pos (exits.mpr late), findPc_modPc_same _ (findPc_p _ _), hx] at pc
    rw [pc]
    exact ⟨rfl, rfl, fun _ => rfl, absurd late⟩
  · rw [if_neg (mt exits.mp late), hx] at pc
    rw [pc]
    exact ⟨rfl, rfl, (absurd · late), fun _ => rfl⟩

end

theorem refreshEnd_serves (s : State) (p : Fin 512) (b : Fin 16) : ∃ t, exec (.refreshEnd p b) s = .next t ∧ SameMemory s t ∧ t.hbm = s.hbm ∧
    (s.now, Act.hbmServiceUnit p) ∈ t.agenda :=
  ⟨_, exec_refreshEnd s p b, (ChannelOnly.atOnce p.val s _ _).sameMemory, State.atOnce_hbm _ _ _, State.mem_atOnce _ _ _⟩

/-! ## Self-refresh (R226, R522) -/

theorem entry_sleeps {s : State} {p : Fin 512} (h : mayEnter s p) : ∃ t, exec (.selfRefreshEntry p) s = .next t ∧ SameMemory s t ∧
    (findPc t p.val).selfRef = true ∧ (findPc t p.val).tick = (findPc s p.val).tick := by
  have asleep : findPc (modPc s p.val Pc.sleep) p.val = (findPc s p.val).sleep := findPc_modPc_same s (findPc_p s _)
  have only : ChannelOnly p.val s (modPc s p.val Pc.sleep) := .modPc s (findPc_p s _)
  obtain ⟨t, eq, rfl | ⟨n, rfl⟩⟩ := selfRefreshEntry_enters h
  · refine ⟨_, eq, only.sameMemory, ?_⟩
    rw [asleep]
    exact ⟨rfl, rfl⟩
  · obtain ⟨e, pc⟩ := beginExit_pc (modPc s p.val Pc.sleep) p n
    refine ⟨_, eq, (only.trans (beginExit_channelOnly _ p n)).sameMemory, ?_⟩
    rw [pc, asleep]
    exact ⟨rfl, rfl⟩

theorem exit_wakes {s : State} {p : Fin 512} (asleep : (findPc s p.val).selfRef = true)
    (due : ∃ e, (findPc s p.val).exitAt = some e ∧ e ≤ s.now) :
    ∃ t, exec (.selfRefreshExit p) s = .next t ∧ SameMemory s t ∧ (findPc t p.val).selfRef = false ∧ (findPc t p.val).exitAt = none ∧
      (findPc t p.val).lateTick = [] ∧ (s.now, Act.hbmServiceUnit p) ∈ t.agenda ∧
      ((findPc s p.val).lateTick = [] → (findPc t p.val).busy = (findPc s p.val).busy) ∧
      ∀ b : Fin 16, b.val ∈ (findPc s p.val).lateTick →
        (findPc t p.val).busy[b] = max (findPc s p.val).busy[b] (s.now + 224) ∧ (findPc t p.val).owed = 0 := by
  have asks := (ChannelOnly.atOnce p.val (woken s p) s.now (.hbmServiceUnit p)).trans (idleFrom_channelOnly p.val _ p)
  have pc : findPc (idleFrom ((woken s p).atOnce s.now (.hbmServiceUnit p)) p) p.val = findPc (woken s p) p.val := by
    rw [(idleFrom_agendaOnly _ p).findPc, findPc_congr (State.atOnce_hbm _ _ _)]
  obtain ⟨selfRef, exitAt, lateTick⟩ := woken_pc s p
  refine ⟨_, selfRefreshExit_wakes asleep due, ((woken_channelOnly s p).trans asks).sameMemory, ?_⟩
  rw [pc]
  exact ⟨selfRef, exitAt, lateTick, (idleFrom_channelOnly p.val _ p).agenda (State.mem_atOnce _ _ _),
    fun none => by rw [woken_quiet none]; rfl, fun b => woken_busy⟩

end Sys2Proof.Claims
end

section
/-! O50, continued: lane repair, the ends of trainings, and windows of lane counts (R456, R499, R523, R524, R554). -/

open Sys2Proof.Claims

namespace Sys2Proof.Machine

theorem exec_laneRepair (s : State) (c : Fin 256) (lane : BitVec 8) : exec (.laneRepair c lane) s = execLaneRepair c lane s := rfl
theorem exec_pseudoChannelTrainingEnd (s : State) (p : Fin 512) :
    exec (.pseudoChannelTrainingEnd p) s = execPseudoChannelTrainingEnd p s := rfl

/-! ## The end of a training (R456, R554) -/

/-- Of the controllers only that of p differs, of the hub's registers only its REFORG, and of the agenda no act left but p's ticks. -/
structure TrainingOnly (p : Fin 512) (s t : State) : Prop where
  mem : SameMemory s t
  now : t.now = s.now
  others : ∀ q, q ≠ p.val → findPc t q = findPc s q
  reforg : hubGet t (rReforg p.val) + 128 = word s.now
  regs : ∀ a, a ≠ rReforg p.val → hubGet t a = hubGet s a
  agenda : ∀ e ∈ s.agenda, e.2 ≠ .refreshTick p → e ∈ t.agenda

theorem TrainingOnly.andThen {p : Fin 512} {s t u : State} (h : TrainingOnly p s t) (g : ChannelOnly p.val t u) : TrainingOnly p s u where
  mem := h.mem.trans g.sameMemory
  now := g.now.trans h.now
  others q hq := (g.others q hq).trans (h.others q hq)
  reforg := by rw [hubGet_congr (congrArg Hub.regs g.hub), h.reforg]
  regs a ha := by rw [hubGet_congr (congrArg Hub.regs g.hub), h.regs a ha]
  agenda e he apart := g.agenda (h.agenda e he apart)

/-- The pseudo-channel after its training, by the time. -/
def Pc.trained (now : Nat) (x : Pc) : Pc := { x with training := false, tick := 0, owed := 0, owedList := [], idle := max x.idle now }

@[simp] theorem dropRefresh_hbm (s : State) (p : Fin 512) : (dropRefresh s p).hbm = s.hbm := rfl
@[simp] theorem dropRefresh_hub (s : State) (p : Fin 512) : (dropRefresh s p).hub = s.hub := rfl
@[simp] theorem dropRefresh_now (s : State) (p : Fin 512) : (dropRefresh s p).now = s.now := rfl
@[simp] theorem dropRefresh_agenda (s : State) (p : Fin 512) :
    (dropRefresh s p).agenda = s.agenda.filter fun e => e.2 != .refreshTick p := rfl

theorem dropRefresh_sameMemory (s : State) (p : Fin 512) : SameMemory s (dropRefresh s p) := sameMemory_of rfl rfl rfl rfl

/-- The die time of a memory die at a global time (R32). -/
def dieTimeWord (n : Nat) : Word := word (n + (2 ^ 64 - 128))

/-- REFORG set and the old ticks gone. -/
def renumbered (s : State) (p : Fin 512) : State := dropRefresh (hubPut s (rReforg p.val) (dieTimeWord s.now)) p

theorem dieTimeWord_add (n : Nat) : dieTimeWord n + 128 = word n := by
  refine BitVec.eq_of_toNat_eq ?_
  rw [dieTimeWord, BitVec.toNat_add, BitVec.toNat_ofNat, BitVec.toNat_ofNat, show (128 : Word).toNat = 128 from rfl]
  omega

theorem renumbered_pc (s : State) (p : Fin 512) (q : Nat) : findPc (renumbered s p) q = findPc s q :=
  findPc_congr (by rw [renumbered, dropRefresh_hbm, hubPut_hbm]) q

theorem renumbered_reg (s : State) (p : Fin 512) (a : Nat) :
    hubGet (renumbered s p) a = hubGet (hubPut s (rReforg p.val) (dieTimeWord s.now)) a :=
  hubGet_congr (by rw [renumbered, dropRefresh_hub]) a

theorem renumbered_only (s : State) (p : Fin 512) : TrainingOnly p s (renumbered s p) where
  mem := (RegsOnly.sameMemory (.hubPut s _ _)).trans (dropRefresh_sameMemory _ p)
  now := by rw [renumbered, dropRefresh_now, hubPut_now]
  others q _ := renumbered_pc s p q
  reforg := by rw [renumbered_reg, hubGet_hubPut_same, dieTimeWord_add]
  regs a ha := by rw [renumbered_reg, hubGet_hubPut_other s _ ha]
  agenda e he apart := by
    rw [renumbered, dropRefresh_agenda, hubPut_agenda, List.mem_filter]
    exact ⟨he, by simpa using apart⟩

section
variable (s : State) (p : Fin 512)

theorem trained_eq : trained s p = idleFrom ((modPc (renumbered s p) p.val (Pc.trained (renumbered s p).now)).atOnce
    (if exactPc (renumbered s p) p.val then (renumbered s p).nextDieWheel else (renumbered s p).now) (.refreshTick p)) p := rfl

theorem trained_only : TrainingOnly p s (trained s p) := by
  rw [trained_eq]
  exact (renumbered_only s p).andThen
    (((ChannelOnly.modPc (renumbered s p) (findPc_p _ _)).trans (.atOnce ..)).trans (idleFrom_channelOnly _ _ p))

theorem trained_pc : findPc (trained s p) p.val = (findPc s p.val).trained s.now := by
  rw [trained_eq, (idleFrom_agendaOnly _ p).findPc, findPc_congr (State.atOnce_hbm _ _ _), findPc_modPc_same _ (findPc_p _ _), renumbered_pc,
    (renumbered_only s p).now]

theorem renumbered_exact : exactPc (renumbered s p) p.val = exactPc s p.val :=
  exactPc_of_regs (fun a ha => (renumbered_only s p).regs a (by unfold rLane rReforg at *; omega)) p.val

variable {s p} in
/-- Outside exact mode tick 0 falls now. -/
theorem trained_ticks (plain : exactPc s p.val = false) : (s.now, Act.refreshTick p) ∈ (trained s p).agenda := by
  rw [trained_eq, renumbered_exact, if_neg (by simp [plain]), (renumbered_only s p).now]
  exact (idleFrom_channelOnly p.val _ p).agenda (State.mem_atOnce _ _ _)

/-- One of a lane's pseudo-channels after the lane's training (R523). -/
def retrained (s : State) (p : Fin 512) : State := (refreshAll (trained s p) p).atOnce s.now (.hbmServiceUnit p)

theorem retrained_only : TrainingOnly p s (retrained s p) :=
  (trained_only s p).andThen ((refreshAll_channelOnly (trained s p) p).trans (.atOnce ..))

theorem retrained_pc : findPc (retrained s p) p.val = findPc (refreshAll (trained s p) p) p.val := findPc_congr (State.atOnce_hbm _ _ _) _

theorem retrained_ready : (findPc (retrained s p) p.val).training = false ∧ (findPc (retrained s p) p.val).owed = 0 ∧
    (findPc (retrained s p) p.val).tick = 0 ∧ ∀ b : Fin 16, s.now + 560 ≤ (findPc (retrained s p) p.val).busy[b] := by
  have now := (trained_only s p).now
  have busy := refreshAll_busy (trained s p) p
  rw [now] at busy
  rw [retrained_pc]
  refine ⟨?_, ?_, ?_, busy⟩
  · rw [refreshAll_pc, (allRefreshed_kept _ _).2.1, trained_pc]; rfl
  · rw [refreshAll_pc, (allRefreshed_owed _ _).1]
  · rw [refreshAll_pc, (allRefreshed_kept _ _).2.2, trained_pc]; rfl

theorem retrained_asks : (s.now, Act.hbmServiceUnit p) ∈ (retrained s p).agenda := State.mem_atOnce _ _ _

end

/-! ## A lane's two pseudo-channels -/

/-- The pseudo-channels 2c and 2c + 1. -/
def evenOf (c : Fin 256) : Fin 512 := ⟨2 * c.val, by omega⟩
def oddOf (c : Fin 256) : Fin 512 := ⟨2 * c.val + 1, by omega⟩

theorem pairOf_eq (c : Fin 256) : pairOf c = [evenOf c, oddOf c] := rfl

theorem evenOf_ne_oddOf (c : Fin 256) : (evenOf c).val ≠ (oddOf c).val := by simp [evenOf, oddOf]

theorem laneTrainingEnd_trains (s : State) (c : Fin 256) :
    exec (.laneTrainingEnd c) s = .next (retrained (retrained s (evenOf c)) (oddOf c)) := by
  have both : exec (.laneTrainingEnd c) s = .next ((pairOf c).foldl retrained s) := rfl
  rw [both, pairOf_eq, List.foldl_cons, List.foldl_cons, List.foldl_nil]

/-- The pseudo-channel in training. -/
def Pc.train (x : Pc) : Pc := { x with training := true }

/-- Both pseudo-channels in training. -/
def pairTrains (s : State) (c : Fin 256) : State := modPc (modPc s (evenOf c).val Pc.train) (oddOf c).val Pc.train

theorem pairTrains_training (s : State) (c : Fin 256) : ∀ p ∈ pairOf c, (findPc (pairTrains s c) p.val).training = true := by
  intro p hp
  rw [pairOf_eq, List.mem_cons, List.mem_singleton] at hp
  rw [pairTrains]
  rcases hp with rfl | rfl
  · rw [findPc_modPc_other _ (findPc_p _ _) (evenOf_ne_oddOf c), findPc_modPc_same _ (findPc_p _ _)]; rfl
  · rw [findPc_modPc_same _ (findPc_p _ _)]; rfl

/-! ## Lane repair (R499, R523, R524) -/

/-- LOST is put in the descriptors of partitions alone. -/
theorem loseExact_regs (s : State) (c : Fin 256) : RegsOnly s (loseExact s c) :=
  foldl_rel RegsOnly.refl RegsOnly.trans (fun t i => RegsOnly.hubPut t (rJay i 3) _) _ s

theorem hubGet_loseExact_other (s : State) (c : Fin 256) {a : Nat} (h : rJay 16 0 ≤ a) : hubGet (loseExact s c) a = hubGet s a := by
  refine List.foldlRecOn (motive := fun t => hubGet t a = hubGet s a) (exactParts s (2 * c.val)) _ rfl fun t kept i hi => ?_
  have low : i < 16 := List.mem_range.mp (List.mem_filter.mp hi).1
  refine (hubGet_hubPut_other t _ ?_).trans kept
  unfold rJay at *
  omega

/-- The channel in training with a lane on its spare n and r in the lane register. -/
def laneTaken (s : State) (c : Fin 256) (r : Word) (n lane : Nat) : State :=
  pairTrains (loseExact (laneRecord (hubPut s (rLane c.val) r) c n lane) c) c

theorem laneTaken_reg (s : State) (c : Fin 256) (r : Word) (n lane : Nat) : hubGet (laneTaken s c r n lane) (rLane c.val) = r := by
  have apart : ∀ i < 4, rLane c.val ≠ rErr i := fun i hi => by unfold rLane rErr; omega
  calc hubGet (laneTaken s c r n lane) (rLane c.val)
      = hubGet (loseExact (laneRecord (hubPut s (rLane c.val) r) c n lane) c) (rLane c.val) := hubGet_congr rfl _
    _ = hubGet (laneRecord (hubPut s (rLane c.val) r) c n lane) (rLane c.val) := hubGet_loseExact_other _ c (by unfold rJay rLane; omega)
    _ = r := (hubGet_fabricRecord_other _ _ _ _ _ (apart 2 (by decide)) (apart 3 (by decide))).trans (hubGet_hubPut_same s _ r)

theorem laneTaken_now (s : State) (c : Fin 256) (r : Word) (n lane : Nat) : (laneTaken s c r n lane).now = s.now := by
  have regs := loseExact_regs (laneRecord (hubPut s (rLane c.val) r) c n lane) c
  have record := (fabricRecord_onward (hubPut s (rLane c.val) r) 0x070A (n * 256 + lane) (word c.val) 16).now
  calc (laneTaken s c r n lane).now = (loseExact (laneRecord (hubPut s (rLane c.val) r) c n lane) c).now := rfl
    _ = (laneRecord (hubPut s (rLane c.val) r) c n lane).now := by rw [regs]
    _ = s.now := record

section
variable {s : State} {c : Fin 256} (lane : BitVec 8)

theorem laneRepair_first (free : fld (hubGet s (rLane c.val)) 23 16 = 0xFF) : exec (.laneRepair c lane) s =
    .next ((laneTaken s c (setFld (hubGet s (rLane c.val)) 23 16 lane.toNat) 0 lane.toNat).later (some 4095) (.laneTrainingEnd c)) := by
  rw [exec_laneRepair, execLaneRepair]
  simp only [free, if_true]
  rfl

variable (used : fld (hubGet s (rLane c.val)) 23 16 ≠ 0xFF)
include used

theorem laneRepair_second (free : fld (hubGet s (rLane c.val)) 31 24 = 0xFF) : exec (.laneRepair c lane) s =
    .next ((laneTaken s c (setFld (hubGet s (rLane c.val)) 31 24 lane.toNat) 1 lane.toNat).later (some 4095) (.laneTrainingEnd c)) := by
  rw [exec_laneRepair, execLaneRepair]
  simp only [used, free, if_true, if_false]
  rfl

theorem laneRepair_none (both : fld (hubGet s (rLane c.val)) 31 24 ≠ 0xFF) :
    exec (.laneRepair c lane) s = .next (laneRecord s c 0xFF lane.toNat) := by
  rw [exec_laneRepair, execLaneRepair]
  simp only [used, both, if_false]

end

/-! ## Windows of lane counts (R523) -/

/-- The counts of channel c gone. -/
def lanesCleared (s : State) (c : Fin 256) : State := s.withHub fun h => { h with lanes := h.lanes.filter (·.1 != c.val) }

theorem exec_laneErrorWindow (s : State) (c : Fin 256) : exec (.laneErrorWindow c) s =
    .next (hubPut (lanesCleared (laneWindowNext s c) c) (rLane c.val) (setFld (hubGet s (rLane c.val)) 15 0 0)) := rfl

theorem laneErrs_cleared_same (s : State) (c : Fin 256) (lane : Nat) : laneErrs (lanesCleared s c) c.val lane = 0 := by
  have gone : (s.hub.lanes.filter (·.1 != c.val)).find? (fun x => x.1 = c.val && x.2.1 = lane) = none :=
    find_remove_same _ fun x other => by simp [bne_iff_ne.mp other]
  rw [laneErrs, lanesCleared, State.withHub_hub, gone]
  rfl

theorem laneErrs_cleared_other (s : State) {c : Fin 256} {d : Nat} (h : d ≠ c.val) (lane : Nat) :
    laneErrs (lanesCleared s c) d lane = laneErrs s d lane := by
  have kept : (s.hub.lanes.filter (·.1 != c.val)).find? (fun x => x.1 = d && x.2.1 = lane) = s.hub.lanes.find? fun x => x.1 = d && x.2.1 = lane :=
    find_remove_other _ fun x own => by
      simp only [Bool.and_eq_true, decide_eq_true_eq] at own
      simpa [own.1] using h
  rw [laneErrs, lanesCleared, State.withHub_hub, kept, laneErrs]

end Sys2Proof.Machine

namespace Sys2Proof.Claims

open Sys2Proof.Machine

/-- The channel's two pseudo-channels train, and the end of their training stands on the agenda. -/
theorem laneTaken_repaired (s : State) (c : Fin 256) (r : Word) (n lane : Nat) :
    let t := (laneTaken s c r n lane).later (some 4095) (.laneTrainingEnd c)
    ((∀ p ∈ pairOf c, (findPc t p.val).training = true) ∧ ∃ n, s.now < n ∧ n < s.now + 4096 ∧ (n, Act.laneTrainingEnd c) ∈ t.agenda) ∧
      hubGet t (rLane c.val) = r := by
  obtain ⟨due, after, within, ends⟩ := State.mem_later_within (laneTaken s c r n lane) (show 0 < 4095 by decide) (.laneTrainingEnd c)
  rw [laneTaken_now] at after within
  refine ⟨⟨fun p hp => ?_, due, after, by omega, ends⟩, ?_⟩
  · rw [findPc_congr (State.later_hbm _ _ _)]
    exact pairTrains_training _ c p hp
  · rw [hubGet_congr (congrArg Hub.regs (State.later_hub _ _ _)), laneTaken_reg]

section
variable {s : State} {c : Fin 256} (lane : BitVec 8)

theorem repair_first (free : fld (hubGet s (rLane c.val)) 23 16 = 0xFF) : ∃ t, exec (.laneRepair c lane) s = .next t ∧
    ((∀ p ∈ pairOf c, (findPc t p.val).training = true) ∧ ∃ n, s.now < n ∧ n < s.now + 4096 ∧ (n, Act.laneTrainingEnd c) ∈ t.agenda) ∧
    fld (hubGet t (rLane c.val)) 23 16 = lane.toNat ∧ fld (hubGet t (rLane c.val)) 31 24 = fld (hubGet s (rLane c.val)) 31 24 := by
  obtain ⟨repaired, reg⟩ := laneTaken_repaired s c (setFld (hubGet s (rLane c.val)) 23 16 lane.toNat) 0 lane.toNat
  refine ⟨_, laneRepair_first lane free, repaired, ?_⟩
  rw [reg]
  exact ⟨fld_setFld_same _ (by decide) (by decide) lane.isLt, fld_setFld_other _ _ (by decide) (by decide) (.inr (by decide))⟩

variable (used : fld (hubGet s (rLane c.val)) 23 16 ≠ 0xFF)
include used

theorem repair_second (free : fld (hubGet s (rLane c.val)) 31 24 = 0xFF) : ∃ t, exec (.laneRepair c lane) s = .next t ∧
    ((∀ p ∈ pairOf c, (findPc t p.val).training = true) ∧ ∃ n, s.now < n ∧ n < s.now + 4096 ∧ (n, Act.laneTrainingEnd c) ∈ t.agenda) ∧
    fld (hubGet t (rLane c.val)) 31 24 = lane.toNat ∧ fld (hubGet t (rLane c.val)) 23 16 = fld (hubGet s (rLane c.val)) 23 16 := by
  obtain ⟨repaired, reg⟩ := laneTaken_repaired s c (setFld (hubGet s (rLane c.val)) 31 24 lane.toNat) 1 lane.toNat
  refine ⟨_, laneRepair_second lane used free, repaired, ?_⟩
  rw [reg]
  exact ⟨fld_setFld_same _ (by decide) (by decide) lane.isLt, fld_setFld_other _ _ (by decide) (by decide) (.inl (by decide))⟩

theorem repair_none (both : fld (hubGet s (rLane c.val)) 31 24 ≠ 0xFF) : ∃ t, exec (.laneRepair c lane) s = .next t ∧ t.hbm = s.hbm ∧
    hubGet t (rLane c.val) = hubGet s (rLane c.val) ∧ t.hub.msix = s.hub.msix ++ [(16, 0)] := by
  have apart : ∀ i < 4, rLane c.val ≠ rErr i := fun i hi => by unfold rLane rErr; omega
  exact ⟨_, laneRepair_none lane used both, fabricRecord_hbm _ _ _ _ _,
    hubGet_fabricRecord_other _ _ _ _ _ (apart 2 (by decide)) (apart 3 (by decide)), fabricRecord_msix _ _ _ _ _⟩

end

/-! ## The ends of trainings, and a window's -/

/-- The training of 2c + 1 ends beside that of 2c and leaves what it left. -/
theorem laneTrainingEnd_ends (s : State) (c : Fin 256) : ∃ t, exec (.laneTrainingEnd c) s = .next t ∧ SameMemory s t ∧ ∀ p ∈ pairOf c,
    (findPc t p.val).training = false ∧ (findPc t p.val).owed = 0 ∧ (findPc t p.val).tick = 0 ∧
    (∀ b : Fin 16, s.now + 560 ≤ (findPc t p.val).busy[b]) ∧ hubGet t (rReforg p.val) + 128 = word s.now ∧
    (s.now, Act.hbmServiceUnit p) ∈ t.agenda := by
  have first := retrained_only s (evenOf c)
  have second := retrained_only (retrained s (evenOf c)) (oddOf c)
  refine ⟨_, laneTrainingEnd_trains s c, first.mem.trans second.mem, fun p hp => ?_⟩
  rw [pairOf_eq, List.mem_cons, List.mem_singleton] at hp
  rcases hp with rfl | rfl
  · have apart : rReforg (evenOf c).val ≠ rReforg (oddOf c).val := by
      have := evenOf_ne_oddOf c
      unfold rReforg
      omega
    obtain ⟨training, owed, tick, busy⟩ := retrained_ready s (evenOf c)
    rw [second.others _ (evenOf_ne_oddOf c), second.regs _ apart]
    exact ⟨training, owed, tick, busy, first.reforg, second.agenda _ (retrained_asks s _) (by simp)⟩
  · obtain ⟨training, owed, tick, busy⟩ := retrained_ready (retrained s (evenOf c)) (oddOf c)
    have asks := retrained_asks (retrained s (evenOf c)) (oddOf c)
    have reforg := second.reforg
    rw [first.now] at busy reforg asks
    exact ⟨training, owed, tick, busy, reforg, asks⟩

theorem trainingEnd_ends (s : State) (p : Fin 512) : ∃ t, exec (.pseudoChannelTrainingEnd p) s = .next t ∧ SameMemory s t ∧
    (findPc t p.val).training = false ∧ (findPc t p.val).tick = 0 ∧ (findPc t p.val).reqs = (findPc s p.val).reqs ∧
    hubGet t (rReforg p.val) + 128 = word s.now ∧ (s.now, Act.hbmServiceUnit p) ∈ t.agenda ∧
    (exactPc s p.val = false → (s.now, Act.refreshTick p) ∈ t.agenda) := by
  have asked : ChannelOnly p.val (trained s p) ((trained s p).atOnce s.now (.hbmServiceUnit p)) := .atOnce ..
  obtain ⟨t, eq, hbm, window⟩ : ∃ t, exec (.pseudoChannelTrainingEnd p) s = .next t ∧ t.hbm = (trained s p).hbm ∧
      ChannelOnly p.val ((trained s p).atOnce s.now (.hbmServiceUnit p)) t := by
    refine ⟨_, exec_pseudoChannelTrainingEnd s p, ?_, .ite (.at_ ..) (.refl _ _)⟩
    split <;> exact State.atOnce_hbm _ _ _
  have only := (trained_only s p).andThen (asked.trans window)
  refine ⟨t, eq, only.mem, ?_⟩
  rw [findPc_congr hbm, trained_pc]
  exact ⟨rfl, rfl, rfl, only.reforg, window.agenda (State.mem_atOnce _ _ _), fun plain => (asked.trans window).agenda (trained_ticks plain)⟩

theorem window_restarts (s : State) (c : Fin 256) : ∃ t, exec (.laneErrorWindow c) s = .next t ∧ SameMemory s t ∧ t.hbm = s.hbm ∧
    (s.now + 256 * 2 ^ 20, Act.laneWindow c) ∈ t.agenda ∧
    (∀ lane, laneErrs t c.val lane = 0) ∧ (∀ (d : Nat) lane, d ≠ c.val → laneErrs t d lane = laneErrs s d lane) ∧
    fld (hubGet t (rLane c.val)) 15 0 = 0 ∧ fld (hubGet t (rLane c.val)) 31 16 = fld (hubGet s (rLane c.val)) 31 16 := by
  refine ⟨_, exec_laneErrorWindow s c, sameMemory_of rfl rfl rfl rfl, rfl, State.mem_at _ _ _, laneErrs_cleared_same (laneWindowNext s c) c,
    fun d lane other => laneErrs_cleared_other (laneWindowNext s c) other lane, ?_⟩
  rw [hubGet_hubPut_same]
  exact ⟨fld_setFld_same _ (by decide) (by decide) (by decide), fld_setFld_other _ _ (by decide) (by decide) (.inr (by decide))⟩

/-- Settles O50: each clause of refresh, self-refresh, repair and training by its own lemma. -/
theorem refreshAndTraining : Obligations.RefreshAndTraining := by
  unfold Obligations.RefreshAndTraining
  refine ⟨⟨fun s p => ?_, refreshEnd_serves, fun s p => ⟨entry_sleeps, selfRefreshEntry_stays⟩,
      fun s p => ⟨selfRefreshExit_stays, exit_wakes⟩⟩,
    fun s c lane => ⟨repair_first lane, repair_second lane, repair_none lane⟩, laneTrainingEnd_ends, trainingEnd_ends, window_restarts⟩
  have hx := rolled_pc s p
  refine ⟨tick_trains hx, fun trained awake plain => ⟨?_, ?_, ?_, ?_⟩,
    fun c turn trained awake exactMode => tick_exact hx trained awake exactMode turn, fun trained asleep plain => ?_⟩
  · exact tick_refreshes hx trained awake plain rfl
  · exact fun o os => tick_catchesUp hx trained awake plain rfl
  · exact tick_postpones hx trained awake plain rfl
  · exact tick_refreshesAll hx trained awake plain rfl
  · obtain ⟨t, eq, mem, busy, tick, late, early⟩ := tick_asleep (b := ⟨_, Nat.mod_lt _ (by decide)⟩) hx trained asleep plain rfl
    refine ⟨t, eq, mem, busy, tick, ?_⟩
    split
    next h => exact late h
    next h => exact early h

end Sys2Proof.Claims
end

section
/-! The exchange's rounds: what a round reads as after a change, and what the steps of the hub and of the exchange engine leave alone (R231-R243). -/

namespace Sys2Proof.Machine

/-! ## A round's place -/

/-- The round under a number, as a change finds it. -/
def heldRound (s : State) (n : BitVec 16) : Round := (findRound s n).getD (Round.fresh n)

theorem findRound_round {s : State} {n : BitVec 16} {r : Round} (h : findRound s n = some r) : r.round = n := by
  unfold findRound at h
  simpa using List.find?_some h

theorem heldRound_of_some {s : State} {n : BitVec 16} {r : Round} (h : findRound s n = some r) : heldRound s n = r := by
  rw [heldRound, h, Option.getD_some]

theorem heldRound_of_none {s : State} {n : BitVec 16} (h : findRound s n = none) : heldRound s n = Round.fresh n := by
  rw [heldRound, h, Option.getD_none]

theorem heldRound_round (s : State) (n : BitVec 16) : (heldRound s n).round = n := by
  cases h : findRound s n with
  | none => rw [heldRound_of_none h]; rfl
  | some r => rw [heldRound_of_some h]; exact findRound_round h

theorem findRound_congr {s t : State} (h : t.hub.rounds = s.hub.rounds) (n : BitVec 16) : findRound t n = findRound s n := by
  rw [findRound, findRound, h]

theorem heldRound_congr {s t : State} (h : t.hub.rounds = s.hub.rounds) (n : BitVec 16) : heldRound t n = heldRound s n := by
  rw [heldRound, heldRound, findRound_congr h]

theorem findRound_modRound_same (s : State) {n : BitVec 16} {f : Round → Round} (key : (f (heldRound s n)).round = n) :
    findRound (modRound s n f) n = some (f (heldRound s n)) := find_replace_same _ (decide_eq_true key) (by simp)

theorem findRound_modRound_other (s : State) {n m : BitVec 16} {f : Round → Round} (key : (f (heldRound s n)).round = n) (h : m ≠ n) :
    findRound (modRound s n f) m = findRound s m :=
  find_replace_other _ (decide_eq_false fun e => h (e.symm.trans key)) fun x hx => by simpa [of_decide_eq_true hx] using h

/-! ## Steps that leave the rounds as they are -/

/-- The rounds, the package's register, the fabric and the time are as before, and no act left the agenda. -/
structure Aside (s t : State) : Prop where
  rounds : t.hub.rounds = s.hub.rounds
  syscfg : hubGet t rSyscfg = hubGet s rSyscfg
  fab : t.fab = s.fab
  now : t.now = s.now
  agenda : s.agenda ⊆ t.agenda

namespace Aside

variable {s t u : State}

theorem refl (s : State) : Aside s s := ⟨rfl, rfl, rfl, rfl, List.Subset.refl _⟩

theorem trans (h : Aside s t) (g : Aside t u) : Aside s u :=
  ⟨g.rounds.trans h.rounds, g.syscfg.trans h.syscfg, g.fab.trans h.fab, g.now.trans h.now, List.Subset.trans h.agenda g.agenda⟩

theorem ite {c : Prop} {_ : Decidable c} (ht : Aside s t) (hu : Aside s u) : Aside s (if c then t else u) := by split <;> assumption

theorem foldl {α : Type} {f : State → α → State} (step : ∀ s a, Aside s (f s a)) (xs : List α) (s : State) : Aside s (xs.foldl f s) :=
  foldl_rel refl trans step xs s

theorem findRound (h : Aside s t) (n : BitVec 16) : findRound t n = findRound s n := findRound_congr h.rounds n
theorem heldRound (h : Aside s t) (n : BitVec 16) : heldRound t n = heldRound s n := heldRound_congr h.rounds n
theorem pkgNo (h : Aside s t) : pkgNo t = pkgNo s := congrArg (fld · 63 58) h.syscfg

end Aside

theorem State.at_aside (s : State) (n : Nat) (a : Act) : Aside s (s.at n a) := ⟨rfl, rfl, rfl, rfl, List.subset_append_left _ _⟩

theorem State.later_aside (s : State) (b : Option Nat) (a : Act) : Aside s (s.later b a) := ⟨rfl, rfl, rfl, rfl, List.subset_append_left _ _⟩

theorem State.atOnce_aside (s : State) (n : Nat) (a : Act) : Aside s (s.atOnce n a) := .ite (.refl s) (s.at_aside n a)

theorem core_aside (s : State) (c : Core) : Aside s { s with core := c } := ⟨rfl, rfl, rfl, rfl, List.Subset.refl _⟩

theorem PlanesOnly.aside {s t : State} (h : PlanesOnly s t) : Aside s t := by
  rw [h]
  exact ⟨rfl, rfl, rfl, rfl, List.Subset.refl _⟩

theorem hubPut_aside (s : State) {a : Nat} (v : Word) (h : a ≠ rSyscfg) : Aside s (hubPut s a v) :=
  ⟨rfl, hubGet_hubPut_other s v h.symm, rfl, rfl, List.Subset.refl _⟩

/-! ## The hub's records -/

theorem ringAppend_aside (s : State) (a : Nat) (ws : List Word) : Aside s (ringAppend s a ws).1 := by
  have nonzero (n : Nat) (h : 0 < n) : a + n ≠ rSyscfg := by simp only [rSyscfg]; omega
  unfold ringAppend
  extract_lets base size wr rd n written lines due asked
  have planes : Aside s written := (foldl_planes (fun t i => putWords_planes t _ _) _ s).aside
  have asks : Aside written asked := ⟨rfl, rfl, rfl, rfl, List.subset_append_left _ _⟩
  split
  · exact (planes.trans asks).trans (hubPut_aside _ _ (nonzero 16 (by decide)))
  · exact hubPut_aside s _ (nonzero 24 (by decide))

theorem raiseMsix_aside (s : State) (f vec : Nat) : Aside s (raiseMsix s f vec) := ⟨rfl, rfl, rfl, rfl, List.Subset.refl _⟩

theorem roundRecord_aside (s : State) (reason : Nat) (r : BitVec 16) (fn : Nat) : Aside s (roundRecord s reason r fn) :=
  (ringAppend_aside s _ _).trans (raiseMsix_aside _ _ _)

theorem recoveryRecord_aside (s : State) (code detail : Nat) (w : Word) (fn part : Nat) : Aside s (recoveryRecord s code detail w fn part) :=
  (ringAppend_aside s _ _).trans (raiseMsix_aside _ _ _)

theorem jayLog_aside (s : State) (p kind len : Nat) (target : Word) (payload : List Word) : Aside s (jayLog s p kind len target payload) :=
  .ite (.refl s) (.ite (ringAppend_aside s _ _) ((ringAppend_aside s _ _).trans (raiseMsix_aside _ _ _)))

/-! ## Units of HBM and copies of granules -/

theorem modPc_aside (s : State) (p : Nat) (f : Pc → Pc) : Aside s (modPc s p f) := ⟨rfl, rfl, rfl, rfl, List.Subset.refl _⟩

theorem beginExit_aside (s : State) (p : Fin 512) (n : Nat) : Aside s (beginExit s p n) :=
  .ite ((modPc_aside s _ _).trans (State.at_aside _ _ _)) (.refl s)

theorem hbmPushAt_aside (s : State) (p : Nat) (r : HReq) : Aside s (hbmPushAt s p r) := by
  unfold hbmPushAt
  extract_lets b t q
  have ht : Aside s t := modPc_aside s p _
  split
  · extract_lets x v
    have hv : Aside s v := .ite (ht.trans (beginExit_aside t _ _)) ht
    exact .ite hv (hv.trans (v.atOnce_aside _ _))
  · exact ht

/-- A new ticket, or a free choice made. -/
theorem counters_aside (s : State) (ticket fresh : Nat) : Aside s { s with ticket := ticket, fresh := fresh } :=
  ⟨rfl, rfl, rfl, rfl, List.Subset.refl _⟩

theorem hbmAsk_aside (s : State) (ticket : Nat) (h : Option (Fin 128)) (cls pa units : Nat) (w : Bool) :
    Aside s (hbmAsk s ticket h cls pa units w) := (counters_aside s s.ticket (s.fresh + 1)).trans (hbmPushAt_aside _ _ _)

theorem askLines_aside (s : State) (ticket : Nat) (h : Option (Fin 128)) (cls : Nat) (w : Bool) (pas : List Nat) :
    Aside s (askLines s ticket h cls w pas) := .foldl (fun t _ => hbmAsk_aside t _ _ _ _ _ _) _ s

theorem granuleUnits_aside (s : State) (ticket pa : Nat) (w : Bool) : Aside s (granuleUnits s ticket pa w) :=
  .foldl (fun t _ => .ite (hbmAsk_aside t _ _ _ _ _ _) (.refl t)) _ s

theorem rCkpt_ne_rSyscfg (f i : Nat) : rCkpt f i ≠ rSyscfg := by simp only [rCkpt, rSyscfg]; omega

/-- Checkpoints and held writes of the hub are no rounds. -/
theorem hub_aside (s : State) (h : Hub) (rounds : h.rounds = s.hub.rounds) (regs : h.regs = s.hub.regs) : Aside s { s with hub := h } :=
  ⟨rounds, hubGet_congr regs _, rfl, rfl, List.Subset.refl _⟩

theorem dropCkpt_aside (s : State) (f : Nat) : Aside s (dropCkpt s f) :=
  (hubPut_aside s _ (rCkpt_ne_rSyscfg f 4)).trans (hub_aside _ _ rfl rfl)

theorem copyGranule_aside (s : State) (f g : Nat) : Aside s (copyGranule s f g) := by
  unfold copyGranule
  split
  · exact (recoveryRecord_aside s _ _ _ _ _).trans (dropCkpt_aside _ f)
  · extract_lets old copied
    have put : Aside s copied := hubPut_aside s _ (rCkpt_ne_rSyscfg f 2)
    clear_value copied
    exact put.trans (hub_aside copied _ rfl rfl)

theorem copyNow_aside (s : State) (f pa : Nat) : Aside s (copyNow s f pa) :=
  (((counters_aside s (s.ticket + 1) s.fresh).trans (granuleUnits_aside _ _ _ _)).trans (granuleUnits_aside _ _ _ _)).trans (copyGranule_aside _ _ _)

/-! ## The debug window -/

theorem dropHandle_aside (s : State) (r : Reg) : Aside s (dropHandle s r) := by
  unfold dropHandle
  split <;> exact ⟨rfl, rfl, rfl, rfl, List.Subset.refl _⟩

theorem pokeHead_aside (s : State) (q : Fin 8) (f : Reg → Reg) : Aside s (pokeHead s q f) := by
  unfold pokeHead
  split
  · exact .ite (.refl s) (core_aside s _)
  · exact .refl s

theorem pokeSides_aside (s : State) (k : Fin 16) (c : Nat) (v : Word) : Aside s (pokeSides s k c v) := by
  refine .foldl (fun t i => ?_) _ s
  dsimp only
  split
  · exact pokeHead_aside t _ _
  · exact .ite (core_aside t _) (.refl t)

theorem pokeVal_aside (s : State) (k : Fin 16) (c : Nat) (v : Word) : Aside s (pokeVal s k c v) := by
  unfold pokeVal
  dsimp only
  split
  · exact .ite (.refl s) ((dropHandle_aside s _).trans (core_aside _ _))
  · exact .refl s

theorem sysStore_aside (s : State) (k : Fin 16) (n : Nat) (v : Word) : Aside s (sysStore s k n v) := by
  unfold sysStore
  dsimp only
  split <;> exact ⟨rfl, rfl, rfl, rfl, List.Subset.refl _⟩

theorem strandAreaWrite_aside (s : State) (k : Fin 16) (o : Nat) (v : Word) : Aside s (strandAreaWrite s k o v) := by
  have commands : Aside s (if v = 1 then s.at s.now (.dctlResume k) else if v = 2 then s.at s.now (.dctlHalt k)
      else if v = 3 then s.at s.now (.dctlKill k) else s) :=
    .ite (s.at_aside _ _) (.ite (s.at_aside _ _) (.ite (s.at_aside _ _) (.refl s)))
  exact .ite (.refl s) (.ite (core_aside s _) (.ite commands (.ite (pokeVal_aside s k _ v) (.ite (pokeVal_aside s k _ v)
    (.ite (pokeSides_aside s k _ v) (.ite (.ite (sysStore_aside s k _ v) (.refl s)) (.refl s)))))))

theorem pokeVec_aside (s : State) (k : Fin 16) (n : Nat) (f : VReg → VReg) : Aside s (pokeVec s k n f) := core_aside s _

theorem pokeTile_aside (s : State) (f : Acc → Acc) : Aside s (pokeTile s f) := core_aside s _

theorem debugWrite_aside (s : State) (off : Nat) (v : Word) : Aside s (debugWrite s off v) :=
  .ite (strandAreaWrite_aside s _ _ v) (.ite (.ite (pokeVec_aside s _ _ _) (.refl s)) (.ite (.ite (pokeVec_aside s _ _ _) (.refl s))
    (.ite (.ite (.foldl (fun t i => pokeVec_aside t _ i _) _ s) (.refl s)) (.ite (.ite (core_aside s _) (.refl s))
    (.ite (.ite (pokeTile_aside s _) (.refl s)) (.ite (.ite (pokeTile_aside s _) (.refl s)) (.ite (core_aside s _) (.refl s))))))))

/-! ## Stores at their home -/

theorem heldFirst_aside (s : State) (pa : Nat) : Aside s (if ckptHolds s s.func pa then copyNow s s.func pa else s) :=
  .ite (copyNow_aside s _ _) (.refl s)

theorem cancelScrub_aside (s : State) (pa : Nat) : Aside s (cancelScrub s pa) := ⟨rfl, rfl, rfl, rfl, List.Subset.refl _⟩

theorem homeStore_aside (s : State) (x : WordStore) : Aside s (homeStore s x) := by
  unfold homeStore
  split
  · exact .ite (debugWrite_aside s _ _) (.refl s)
  · exact (setBytes_planes s _ _ _ _).aside
  · exact ((heldFirst_aside s x.pa).trans (cancelScrub_aside _ _)).trans (performStore_planes _ x).aside
  · exact (heldFirst_aside s x.pa).trans (performStore_planes _ x).aside

theorem engWrite_aside (s : State) (pas : List Nat) (ws : List Word) : Aside s (engWrite s pas ws) := by
  induction pas generalizing s ws with
  | nil => exact .refl s
  | cons pa pas ih =>
    cases ws with
    | nil => exact .refl s
    | cons w ws => exact (homeStore_aside s _).trans (ih _ ws)

/-! ## Handles -/

theorem startEntry_aside (s : State) (h : Fin 128) : Aside s (startEntry s h) := core_aside s _

theorem fillPosts_aside (s : State) (hs : List (Fin 128)) (st : Nat) : Aside s (fillPosts s hs st) := .foldl (fun t _ => t.at_aside _ _) hs s

theorem fillPosts_agendaOnly (s : State) (hs : List (Fin 128)) (st : Nat) : AgendaOnly s (fillPosts s hs st) :=
  foldl_rel (R := AgendaOnly) (f := fun t h => completeAt t (t.now + 1) h st) (fun _ => rfl) AgendaOnly.trans (fun _ _ => rfl) hs s

/-- Each handle filled completes in the next cycle. -/
theorem mem_fillPosts {hs : List (Fin 128)} {h : Fin 128} (mem : h ∈ hs) (s : State) (st : Nat) :
    (s.now + 1, Act.completion h ⟨BitVec.ofNat 8 st, 0, 0⟩) ∈ (fillPosts s hs st).agenda := by
  induction hs generalizing s with
  | nil => exact absurd mem List.not_mem_nil
  | cons g gs ih =>
    rcases List.mem_cons.mp mem with rfl | mem
    · exact (fillPosts_aside _ gs st).agenda (State.mem_at _ _ _)
    · exact ih mem (completeAt s (s.now + 1) g st)

theorem xchgUnits_aside (s : State) (c : EngCmd) (vas : List Nat) : Aside s (xchgUnits s c vas) :=
  (counters_aside s (s.ticket + 1) s.fresh).trans (askLines_aside _ _ _ _ _ _)

end Sys2Proof.Machine
end

section
/-! The exchange's rounds, continued: what the checks, the engine's reads and the moves of records keep of a round, and of
memory (R236-R242, R453). -/

namespace Sys2Proof.Machine

/-! ## Rounds that differ in the engine's progress alone -/

/-- Nothing differs but the handles of the capacity posts, XRUN, its lists and its fault, and the records sent, moved and under way. -/
def Round.Alike (r q : Round) : Prop :=
  q = { r with
    capHandles := q.capHandles, run := q.run, lists := q.lists, fault := q.fault, sent := q.sent, moved := q.moved,
    movedOut := q.movedOut, out := q.out }

namespace Round.Alike

variable {r q p : Round}

theorem refl (r : Round) : r.Alike r := rfl

theorem trans (h : r.Alike q) (g : q.Alike p) : r.Alike p := by
  unfold Alike at *
  rw [g, h]

theorem round (h : r.Alike q) : q.round = r.round := by rw [h]
theorem cal (h : r.Alike q) : q.cal = r.cal := by rw [h]
theorem lapsed (h : r.Alike q) : q.lapsed = r.lapsed := by rw [h]
theorem demHandles (h : r.Alike q) : q.demHandles = r.demHandles := by rw [h]
theorem buf (h : r.Alike q) : q.buf = r.buf := by rw [h]
theorem cap (h : r.Alike q) : q.cap = r.cap := by rw [h]
theorem arrived (h : r.Alike q) : q.arrived = r.arrived := by rw [h]

end Round.Alike

/-- Every round is still there and alike; the package's register, the fabric and the time are as before, and no act left the agenda. -/
structure Steady (s t : State) : Prop where
  rounds : ∀ n r, findRound s n = some r → ∃ q, findRound t n = some q ∧ r.Alike q
  syscfg : hubGet t rSyscfg = hubGet s rSyscfg
  fab : t.fab = s.fab
  now : t.now = s.now
  agenda : s.agenda ⊆ t.agenda

theorem Aside.steady {s t : State} (h : Aside s t) : Steady s t :=
  ⟨fun n r found => ⟨r, (h.findRound n).trans found, .refl r⟩, h.syscfg, h.fab, h.now, h.agenda⟩

namespace Steady

variable {s t u : State}

theorem refl (s : State) : Steady s s := (Aside.refl s).steady

theorem trans (h : Steady s t) (g : Steady t u) : Steady s u where
  rounds n r found :=
    have ⟨_, found', alike⟩ := h.rounds n r found
    have ⟨p, found'', alike'⟩ := g.rounds n _ found'
    ⟨p, found'', alike.trans alike'⟩
  syscfg := g.syscfg.trans h.syscfg
  fab := g.fab.trans h.fab
  now := g.now.trans h.now
  agenda := List.Subset.trans h.agenda g.agenda

theorem ite {c : Prop} {_ : Decidable c} (ht : Steady s t) (hu : Steady s u) : Steady s (if c then t else u) := by split <;> assumption

theorem foldl {α : Type} {f : State → α → State} (step : ∀ s a, Steady s (f s a)) (xs : List α) (s : State) : Steady s (xs.foldl f s) :=
  foldl_rel refl trans step xs s

theorem pkgNo (h : Steady s t) : pkgNo t = pkgNo s := congrArg (fld · 63 58) h.syscfg

/-- Every round's calendar is as before. -/
theorem cal (h : Steady s t) {n : BitVec 16} {r : Round} (found : findRound s n = some r) : (findRound t n).bind (·.cal) = r.cal := by
  obtain ⟨q, found', alike⟩ := h.rounds n r found
  rw [found', Option.bind_some, alike.cal]

end Steady

theorem modRound_steady (s : State) (n : BitVec 16) {f : Round → Round} (alike : ∀ r : Round, r.Alike (f r)) : Steady s (modRound s n f) where
  rounds m r found := by
    have key : (f (heldRound s n)).round = n := (alike _).round.trans (heldRound_round s n)
    by_cases h : m = n
    · subst h
      exact ⟨_, findRound_modRound_same s key, by rw [heldRound_of_some found]; exact alike r⟩
    · exact ⟨r, (findRound_modRound_other s key h).trans found, .refl r⟩
  syscfg := rfl
  fab := rfl
  now := rfl
  agenda := List.Subset.refl _

/-! ## XRUN's lists, moved records and ends -/

theorem noteFault_steady (s : State) (n : BitVec 16) (st : Nat) : Steady s (noteFault s n st) :=
  modRound_steady s n fun r => by split <;> rfl

theorem readLists_steady (s : State) (n : BitVec 16) (c : EngCmd) : Steady s (readLists s n c) := by
  unfold readLists
  extract_lets rs ls t
  have faults : Steady s t := by
    refine .foldl (fun u r => ?_) rs s
    split
    · exact noteFault_steady u n _
    · exact .refl u
  exact (faults.trans ((xchgUnits_aside t c _).trans (startEntry_aside _ _)).steady).trans (modRound_steady _ n fun _ => rfl)

theorem readListsOf_steady (s : State) (n : BitVec 16) : Steady s (readListsOf s n) := by
  unfold readListsOf
  split
  · split
    · exact readLists_steady s n _
    · exact .refl s
  · exact .refl s

theorem moveRecords_steady (s : State) (base : BitVec 16) (cal : Calendar) (d : Nat) : Steady s (moveRecords s base cal d) := by
  unfold moveRecords
  split
  · split
    · refine .foldl (fun u k => ?_) _ s
      extract_lets v
      have asked : Steady u v := (xchgUnits_aside u _ _).steady
      split
      · exact asked.trans (noteFault_steady v base _)
      · exact .ite asked (asked.trans (modRound_steady v base fun _ => rfl))
    · exact .refl s
  · exact .refl s

theorem capacityCheck_steady (s : State) (base : BitVec 16) : Steady s (capacityCheck s base) := by
  unfold capacityCheck
  split
  · exact .ite (.ite (s.atOnce_aside _ _).steady ((modRound_steady s base fun _ => by rfl).trans (fillPosts_aside _ _ _).steady)) (.refl s)
  · exact .refl s

theorem xrunFinish_steady (s : State) (base : BitVec 16) (residue : Bool) : Steady s (xrunFinish s base residue) := by
  unfold xrunFinish
  extract_lets me gr c2
  split
  · split
    · extract_lets ws t left st
      have written : Steady s t := (engWrite_aside s _ _).steady
      exact (written.trans (modRound_steady t base fun _ => by rfl)).trans (State.later_aside _ _ _).steady
    · exact .refl s
  · exact .refl s

theorem xrunCheck_steady (s : State) (base : BitVec 16) : Steady s (xrunCheck s base) := by
  unfold xrunCheck
  split
  · exact .ite (xrunFinish_steady s base false) (.refl s)
  · exact .refl s

/-! ## Memory -/

theorem AgendaOnly.planes {s t : State} (h : AgendaOnly s t) : t.planes = s.planes := by
  rw [h]
  rfl

theorem UnitsOnly.planes {s t : State} (h : UnitsOnly s t) : t.planes = s.planes := by
  rw [h]
  rfl

theorem capacityCheck_planes (s : State) (base : BitVec 16) : (capacityCheck s base).planes = s.planes := by
  unfold capacityCheck
  split
  · split
    · split
      · exact (s.atOnce_agendaOnly _ _).planes
      · exact (fillPosts_agendaOnly (modRound s base _) _ _).planes
    · rfl
  · rfl

end Sys2Proof.Machine

namespace Sys2Proof.Claims

open Sys2Proof.Machine

theorem sameMemory_of_planes {s t : State} (h : t.planes = s.planes) : SameMemory s t := by
  obtain ⟨mem, tags, fe, poison⟩ := planes_ext h
  exact sameMemory_of mem tags fe poison

end Sys2Proof.Claims
end

section
/-! O52: calendars, phases, records written at their place, the second round's posts, and rounds that lapse (R231-R241, R506, R516, R517). -/

open Sys2Proof.Claims

namespace Sys2Proof.Machine

/-! ## Words written to HBM (R52, R236) -/

/-- Below the SRAMs an address is one of HBM, or a hole of a smaller HBM (R168). -/
theorem homeOf_below {pa : Nat} (below : pa < Config.sramBase) (n : Nat) : homeOf n pa = .hbm ∨ homeOf n pa = .hole := by
  unfold homeOf
  rw [if_pos below]
  exact ite_eq_or_eq _ _ _

theorem plainByte_below {pa : Nat} (below : pa < Config.sramBase) : PlainByte pa := by
  rcases homeOf_below below Config.hbmBytes with h | h <;> constructor <;> intro c o <;> simp [h]

theorem home_below (s : State) {pa : Nat} (below : pa < Config.sramBase) : home s pa = .hbm ∨ home s pa = .hole := by
  unfold home
  rcases homeOf_below below (hbmSize s) with h | h <;> simp [h]

theorem ckptHolds_none {s : State} (none : s.hub.ckpts = []) (f pa : Nat) : ckptHolds s f pa = false := by simp [ckptHolds, none]

/-- With no checkpoint under way a word goes to HBM as it is. -/
theorem homeStore_below {s : State} (none : s.hub.ckpts = []) {x : WordStore} (below : x.pa < Config.sramBase) :
    (homeStore s x).planes = (performStore s x).planes ∧ (homeStore s x).hub = s.hub := by
  have free := ckptHolds_none none s.func x.pa
  unfold homeStore
  rcases home_below s below with h | h <;> rw [h]
  · simp only [free, Bool.false_eq_true, if_false]
    exact ⟨performStore_planes_congr (s := s) (t := cancelScrub s x.pa) rfl x, (performStore_planes _ x).hub⟩
  · simp only [free, Bool.false_eq_true, if_false]
    exact ⟨trivial, (performStore_planes s x).hub⟩

theorem putWords_planes_congr {s t : State} (h : t.planes = s.planes) (pa : Nat) (ws : List Word) :
    (putWords t pa ws).planes = (putWords s pa ws).planes := by
  induction ws generalizing s t pa with
  | nil => exact h
  | cons w ws ih => exact ih (performStore_planes_congr h _) (pa + 8)

/-- An engine's write of consecutive words below the SRAMs puts them in memory. -/
theorem engWrite_below {s : State} (none : s.hub.ckpts = []) {pa : Nat} {ws : List Word} (below : pa + 8 * ws.length ≤ Config.sramBase) :
    (engWrite s ((List.range ws.length).map fun i => pa + 8 * i) ws).planes = (putWords s pa ws).planes := by
  induction ws generalizing s pa with
  | nil => rfl
  | cons w ws ih =>
    rw [List.length_cons] at below
    have places : (List.range (ws.length + 1)).map (fun i => pa + 8 * i) = pa :: (List.range ws.length).map fun i => pa + 8 + 8 * i := by
      rw [List.range_succ_eq_map, List.map_cons, List.map_map]
      exact congrArg _ (List.map_congr_left fun i _ => by simp only [Function.comp_apply]; omega)
    obtain ⟨planes, hub⟩ := homeStore_below none (x := ⟨pa, w, 0xFF, 0x7F⟩) (show pa < _ by omega)
    rw [List.length_cons, places, engWrite, ih (by rw [hub, none]) (by omega)]
    exact putWords_planes_congr planes (pa + 8) ws

/-! ## Bytes past those written -/

theorem dataAt_congr {s t : State} (h : t.mem = s.mem) (a : Nat) : dataAt t a = dataAt s a := by rw [dataAt, dataAt, h]

theorem dataAt_setByte_other {s : State} (wf : Memory.wf s = true) {pa a : Nat} (plain : PlainByte pa) (b : BitVec 8) (ne : a ≠ pa) :
    dataAt (setByte s pa b) a = dataAt s a := by
  rw [setByte_plain s plain]
  exact cellGet_cellSet_other ((wf_iff s).mp wf).1 b ne

theorem dataAt_setBytes_other {s : State} (wf : Memory.wf s = true) {pa a : Nat} (w : Word) (en : BitVec 8) {n : Nat}
    (plain : ∀ i < n, PlainByte (pa + i)) (out : a < pa ∨ pa + n ≤ a) : dataAt (setBytes s pa w en n) a = dataAt s a := by
  induction n with
  | zero => rfl
  | succ n ih =>
    have rest := ih (fun i hi => plain i (by omega)) (by omega)
    unfold setBytes
    dsimp only
    split
    · rw [dataAt_setByte_other (setBytes_wf wf pa w en n) (plain n (by omega)) _ (by omega), rest]
    · exact rest

/-- A store's tag byte and poison are in no byte of memory. -/
theorem performStore_mem (s : State) (x : WordStore) : (performStore s x).mem = (setBytes s x.pa x.data x.en 8).mem := by
  have cleared (u : State) : (clearPoison u x.pa x.en).mem = u.mem := by
    unfold clearPoison
    repeat' split
    all_goals rfl
  unfold performStore
  dsimp only
  rw [cleared]
  split <;> rfl

theorem dataAt_putWords_other {s : State} (wf : Memory.wf s = true) {pa a : Nat} {ws : List Word}
    (plain : ∀ i < 8 * ws.length, PlainByte (pa + i)) (out : a < pa ∨ pa + 8 * ws.length ≤ a) :
    dataAt (putWords s pa ws) a = dataAt s a := by
  induction ws generalizing s pa with
  | nil => rfl
  | cons w ws ih =>
    rw [List.length_cons] at plain out
    rw [putWords, ih (putWord_wf wf pa w) (fun i hi => Nat.add_assoc pa 8 i ▸ plain (8 + i) (by omega)) (by omega), putWord,
      dataAt_congr (performStore_mem s _)]
    exact dataAt_setBytes_other wf w _ (fun i hi => plain i (by omega)) (by show a < pa ∨ pa + 8 ≤ a; omega)

theorem wordAt_congr_plain {s t : State} (h : t.mem = s.mem) {pa : Nat} (plain : ∀ i < 8, PlainByte (pa + i)) : wordAt t pa = wordAt s pa :=
  congrArg word (bytesAt_congr fun i hi => by rw [byteAt_plain t (plain i hi), byteAt_plain s (plain i hi), h])

/-! ## A record's arrival -/

/-- Poison marked and cleared. -/
theorem poison_planesOnly (s : State) (ps : List Nat) : PlanesOnly s { s with poison := ps } := rfl

theorem clearFlits_planesOnly (s : State) (pa n : Nat) : PlanesOnly s (clearFlits s pa n) :=
  foldl_planes (f := fun t i => clearGranule t (pa + 64 * i)) (fun t _ => poison_planesOnly t _) _ s

theorem clearFlits_mem (s : State) (pa n : Nat) : (clearFlits s pa n).mem = s.mem :=
  foldl_keeps State.mem (f := fun t i => clearGranule t (pa + 64 * i)) (fun _ _ => rfl) _ s

theorem markFlits_planesOnly (s : State) (pa : Nat) (bad : List Nat) : PlanesOnly s (markFlits s pa bad) :=
  foldl_planes (f := fun t i => markPoison t (pa + 64 * i)) (fun t _ => poison_planesOnly t _) _ s

theorem markFlits_mem (s : State) (pa : Nat) (bad : List Nat) : (markFlits s pa bad).mem = s.mem :=
  foldl_keeps State.mem (f := fun t i => markPoison t (pa + 64 * i)) (fun _ _ => rfl) _ s

theorem ringAppend_ckpts (s : State) (a : Nat) (ws : List Word) : (ringAppend s a ws).1.hub.ckpts = s.hub.ckpts := by
  obtain ⟨u, b, v, put, -, hub, -⟩ := ringAppend_cases s a ws
  rw [put]
  exact (congrArg Hub.ckpts hub :)

theorem logArrival_aside (s : State) (x : XRecord) (pa : Nat) (ws : List Word) : Aside s (logArrival s x pa ws) :=
  .ite (.refl s) (jayLog_aside s _ _ _ _ _)

theorem logArrival_ckpts (s : State) (x : XRecord) (pa : Nat) (ws : List Word) : (logArrival s x pa ws).hub.ckpts = s.hub.ckpts := by
  unfold logArrival
  split
  · rfl
  · unfold jayLog
    dsimp only
    split
    · rfl
    · split <;> exact ringAppend_ckpts s _ _

/-- A record of rs bytes in the package's memory from pa on, before its round counts it. -/
def recordWritten (s : State) (x : XRecord) (rs pa : Nat) : State :=
  let u := logArrival s x pa (x.words.take (rs / 8))
  let v := askLines { u with ticket := u.ticket + 1 } u.ticket none (loadClass u) true ((List.range (rs / 64)).map fun i => pa + 64 * i)
  markFlits (engWrite (clearFlits v pa (rs / 64)) ((List.range (x.words.take (rs / 8)).length).map fun i => pa + 8 * i) (x.words.take (rs / 8)))
    pa x.bad

/-- A round counts a record whose write waits under a ticket. -/
def Round.counting (ticket : Nat) (r : Round) : Round := { r with arrived := r.arrived + 1, writes := r.writes ++ [ticket] }

section
variable {s : State} {x : XRecord} {r q : Round} {buf : Nat} {cal : Calendar}

theorem recordArrive_eq (first : findRound s (firstOf x.round) = some r) (into : r.buf = some buf) (found : findRound s x.round = some q)
    (known : q.cal = some cal) : ∃ n, recordArrive s x = capacityCheck
      (modRound (recordWritten s x (rsizeOf cal.rcode) (buf + rsizeOf cal.rcode * recordPlace s x.round cal x.src x.index)) (firstOf x.round)
        (Round.counting n)) (firstOf x.round) := by
  refine ⟨(logArrival s x (buf + rsizeOf cal.rcode * recordPlace s x.round cal x.src x.index) (x.words.take (rsizeOf cal.rcode / 8))).ticket, ?_⟩
  unfold recordArrive
  simp only [first, into, found, known, Option.bind_some]
  rfl

theorem recordWritten_aside (s : State) (x : XRecord) (rs pa : Nat) : Aside s (recordWritten s x rs pa) := by
  unfold recordWritten
  extract_lets u v
  have logged : Aside s u := logArrival_aside s x pa _
  have asked : Aside u v := (counters_aside u (u.ticket + 1) u.fresh).trans (askLines_aside _ _ _ _ _ _)
  exact (((logged.trans asked).trans (clearFlits_planesOnly v _ _).aside).trans (engWrite_aside _ _ _)).trans (markFlits_planesOnly _ _ _).aside

/-- Memory holds the record's words from pa on, and what it held at the record's logging elsewhere. -/
theorem recordWritten_mem (wf : Memory.wf s = true) (none : s.hub.ckpts = []) {rs pa : Nat} (below : pa + rs ≤ Config.sramBase) :
    ∃ u, Memory.wf u = true ∧ u.mem = (logArrival s x pa (x.words.take (rs / 8))).mem ∧
      (recordWritten s x rs pa).mem = (putWords u pa (x.words.take (rs / 8))).mem := by
  have len : (x.words.take (rs / 8)).length ≤ rs / 8 := List.length_take_le _ _
  have logged := logArrival_wf (x := x) (pa := pa) (ws := x.words.take (rs / 8)) wf
  have free : (logArrival s x pa (x.words.take (rs / 8))).hub.ckpts = [] := (logArrival_ckpts ..).trans none
  unfold recordWritten
  extract_lets u v
  have asked : UnitsOnly { u with ticket := u.ticket + 1 } v := askLines_unitsOnly _ _ _ _ _ _
  have same : v.planes = u.planes := asked.planes
  refine ⟨clearFlits v pa (rs / 64), clearFlits_wf (wf_same logged (congrArg (fun p => (p.1, p.2.1, p.2.2.1)) same)), ?_, ?_⟩
  · exact (clearFlits_mem v _ _).trans (planes_ext same).1
  · have ckpts : (clearFlits v pa (rs / 64)).hub.ckpts = [] := by rw [(clearFlits_planesOnly v _ _).hub, asked.hub]; exact free
    rw [markFlits_mem]
    exact (planes_ext (engWrite_below ckpts (by omega))).1

end

end Sys2Proof.Machine
end

section
/-! O52, continued: what each act of a calendar and its phases does, and the claim. -/

open Sys2Proof.Claims

namespace Sys2Proof.Machine

theorem exec_exchangePhaseStart (s : State) (n : BitVec 16) (ph : Nat) : exec (.exchangePhaseStart n ph) s = execExchangePhaseStart n ph s := rfl
theorem exec_secondRoundPost (s : State) (n : BitVec 16) : exec (.secondRoundPost n) s = execSecondRoundPost n s := rfl
theorem exec_calendarTimeout (s : State) (n : BitVec 16) : exec (.calendarTimeout n) s = execCalendarTimeout n s := rfl

/-! ## A calendar arrives -/

/-- The round with its calendar: its demand handles are filled, and those of its capacity posts when its row was not used. -/
def Round.scheduled (c : Calendar) (bad : Bool) (r : Round) : Round :=
  { r with cal := some c, demHandles := [], capHandles := if bad then [] else r.capHandles, rcode := c.rcode }

/-- The handles a calendar fills, and the record of a row that was not used. -/
def calendarFills (s : State) (c : Calendar) : State :=
  let r := heldRound s c.round
  let bad := notUsed s r c
  let t := if bad then roundRecord s 2 c.round 16 else s
  let t := fillPosts t r.demHandles (if bad then stLate else stDone)
  if bad then fillPosts t r.capHandles stLate else t

/-- The machine with the round's calendar and the acts it sets going. -/
def calendarTaken (s : State) (c : Calendar) : State :=
  calendarActs (modRound (calendarFills s c) c.round (Round.scheduled c (notUsed s (heldRound s c.round) c))) c

section
variable {s : State} {c : Calendar}

theorem calendarArrive_stays (closed : (heldRound s c.round).lapsed = true ∨ (heldRound s c.round).cal.isSome = true) :
    exec (.calendarArrive c) s = .next s := by
  have closed' : ((heldRound s c.round).lapsed || (heldRound s c.round).cal.isSome) = true := by simpa using closed
  exact if_pos closed'

theorem calendarArrive_takes (running : (heldRound s c.round).lapsed = false) (unknown : (heldRound s c.round).cal = none) :
    exec (.calendarArrive c) s = .next (xrunCheck (capacityCheck (calendarTaken s c) (firstOf c.round)) (firstOf c.round)) := by
  have still : ¬ ((heldRound s c.round).lapsed || (heldRound s c.round).cal.isSome) = true := by simp [running, unknown]
  exact if_neg still

theorem calendarFills_aside (s : State) (c : Calendar) : Aside s (calendarFills s c) := by
  unfold calendarFills
  extract_lets r bad t u
  have recorded : Aside s t := .ite (roundRecord_aside s _ _ _) (.refl s)
  have filled : Aside s u := recorded.trans (fillPosts_aside t _ _)
  exact .ite (filled.trans (fillPosts_aside u _ _)) filled

/-- Every demand handle completes in the next cycle: LATE when the row was not used (R237, R516). -/
theorem calendarFills_fills {h : Fin 128} (mem : h ∈ (heldRound s c.round).demHandles) :
    (s.now + 1, Act.completion h ⟨if notUsed s (heldRound s c.round) c then 2 else 0, 0, 0⟩) ∈ (calendarFills s c).agenda := by
  unfold calendarFills
  extract_lets r bad t u
  have recorded : Aside s t := .ite (roundRecord_aside s _ _ _) (.refl s)
  have status : (if bad then 2 else 0 : BitVec 8) = BitVec.ofNat 8 (if bad then stLate else stDone) := by cases bad <;> rfl
  have filled : (s.now + 1, Act.completion h ⟨if bad then 2 else 0, 0, 0⟩) ∈ u.agenda := by
    rw [status, ← recorded.now]
    exact mem_fillPosts mem t _
  have capacity : Aside u (if bad then fillPosts u r.capHandles stLate else u) := .ite (fillPosts_aside u _ _) (.refl u)
  exact capacity.agenda filled

theorem calendarActs_aside (s : State) (c : Calendar) : Aside s (calendarActs s c) := by
  unfold calendarActs
  extract_lets t
  have phases : Aside s t := .foldl (fun u _ => u.at_aside _ _) _ s
  exact .ite (phases.trans (t.at_aside _ _)) (phases.trans (t.at_aside _ _))

/-- The start of every phase stands on the agenda. -/
theorem calendarActs_phase {i : Nat} {ph : Phase} (listed : c.phases[i]? = some ph) :
    (256 * ph.start, Act.exchangePhaseStart c.round i) ∈ (calendarActs s c).agenda := by
  have numbered : (ph, i) ∈ c.phases.zip (List.range c.phases.length) := by
    obtain ⟨inside, -⟩ := List.getElem?_eq_some_iff.mp listed
    exact List.mem_of_getElem? (i := i) (List.getElem?_zip_eq_some.mpr ⟨listed, List.getElem?_range inside⟩)
  have acts : (256 * ph.start, Act.exchangePhaseStart c.round i) ∈ ((c.phases.zip (List.range c.phases.length)).foldl
      (fun s p => s.at (256 * p.1.start) (.exchangePhaseStart c.round p.2)) s).agenda := by
    rw [foldl_at]
    exact List.mem_append_right _ (List.mem_map.mpr ⟨_, numbered, rfl⟩)
  unfold calendarActs
  extract_lets t
  split
  · exact State.at_keeps _ _ acts
  · exact State.at_keeps _ _ acts

theorem calendarActs_first (first : isSecond c.round = false) :
    (256 * c.ends, Act.secondRoundPost c.round) ∈ (calendarActs s c).agenda := by
  simp only [calendarActs, first, Bool.false_eq_true, if_false]
  exact State.mem_at _ _ _

theorem calendarActs_second (second : isSecond c.round = true) :
    (256 * (c.ends + 8), Act.capacityPostTimeout c.round) ∈ (calendarActs s c).agenda := by
  simp only [calendarActs, second, if_true]
  exact State.mem_at _ _ _

theorem findRound_calendarTaken (s : State) (c : Calendar) :
    findRound (calendarTaken s c) c.round = some ((heldRound s c.round).scheduled c (notUsed s (heldRound s c.round) c)) := by
  rw [calendarTaken, (calendarActs_aside _ c).findRound, findRound_modRound_same, (calendarFills_aside s c).heldRound]
  exact heldRound_round _ _

theorem calendarTaken_fab (s : State) (c : Calendar) : (calendarTaken s c).fab = s.fab :=
  (calendarActs_aside _ c).fab.trans (calendarFills_aside s c).fab

end

/-! ## Records -/

theorem exchangeRecordArrive_lost {s : State} {x : XRecord} (lost : portsCarry s x.src = false ∨ notLive s x = true) :
    exec (.exchangeRecordArrive x) s = .next s := by
  have no : ¬ (portsCarry s x.src && !notLive s x) = true := by rcases lost with h | h <;> simp [h]
  exact congrArg Host.Outcome.next (if_neg no)

theorem exchangeRecordArrive_taken {s : State} {x : XRecord} (carried : portsCarry s x.src = true) (live : notLive s x = false) :
    exec (.exchangeRecordArrive x) s = .next (recordArrive s x) := by
  have yes : (portsCarry s x.src && !notLive s x) = true := by simp [carried, live]
  exact congrArg Host.Outcome.next (if_pos yes)

theorem sendPhase_uncarried {s : State} {d : Nat} (h : portsCarry s d = false) (n : BitVec 16) (cal : Calendar) (i : Nat) :
    sendPhase s n cal i d = s := by simp [sendPhase, h]

/-- XRUN's lists are read at phase 0 of the first round, and once. -/
theorem readListsOf_done {s : State} {n : BitVec 16} {r : Round} (found : findRound s n = some r) (read : r.run = none ∨ r.lists.isSome = true) :
    readListsOf s n = s := by
  unfold readListsOf
  simp only [found]
  split
  next run lists => simp [run, lists] at read
  next => rfl

theorem exchangePhaseStart_sends {s : State} {n : BitVec 16} {ph : Nat} {r : Round} {cal : Calendar} {x : Phase} (found : findRound s n = some r)
    (known : r.cal = some cal) (listed : cal.phases[ph]? = some x)
    (read : r.run = none ∨ r.lists.isSome = true ∨ ph ≠ 0 ∨ isSecond n = true) :
    exec (.exchangePhaseStart n ph) s =
      .next (xrunCheck (((x.pairs.filter (·.1 = pkgNo s)).map (·.2)).foldl (fun u d => sendPhase u n cal ph d) s) (firstOf n)) := by
  have lists : (if ph = 0 && !isSecond n then readListsOf s n else s) = s := by
    split
    next start =>
      obtain ⟨zero, first⟩ : ph = 0 ∧ isSecond n = false := by simpa using start
      exact readListsOf_done found (by simpa [zero, first] using read)
    next => rfl
  rw [exec_exchangePhaseStart, execExchangePhaseStart]
  simp only [lists, found, known, listed, Option.bind_some, done]

/-! ## The second round's post -/

/-- The second round as the hub posts it: what the first left of the capacity, and the records moved (R241). -/
def secondPosted (t : State) (n : BitVec 16) (cal : Calendar) : Round :=
  let r := heldRound t n
  { Round.fresh (secondOf n) with
    counted := true, close := cal.ends, rcode := cal.rcode, buf := r.buf, demand := (List.range 64).map fun d => (r.moved.filter (·.1 = d)).length,
    cap := if cal.used.getLsbD (pkgNo t) then r.cap - cal.below 64 (pkgNo t) else 0 }

/-- The first round's records have been moved to their fallbacks. -/
def recordsMoved (s : State) (n : BitVec 16) (cal : Calendar) : State :=
  (List.range 64).foldl (fun t d => moveRecords t n cal d) (readListsOf s n)

theorem modRound_now (s : State) (n : BitVec 16) (f : Round → Round) : (modRound s n f).now = s.now := rfl

theorem recordsMoved_steady (s : State) (n : BitVec 16) (cal : Calendar) : Steady s (recordsMoved s n cal) :=
  (readListsOf_steady s n).trans (.foldl (fun t d => moveRecords_steady t n cal d) _ _)

theorem secondRoundPost_posts {s : State} {n : BitVec 16} {r : Round} {cal : Calendar} (found : findRound s n = some r) (known : r.cal = some cal) :
    exec (.secondRoundPost n) s = .next (((modRound (recordsMoved s n cal) (secondOf n) fun _ => secondPosted (recordsMoved s n cal) n cal).at
      (256 * (cal.ends + 32)) (.calendarTimeout (secondOf n))).at s.now (.roundClose (secondOf n))) := by
  have now : (recordsMoved s n cal).now = s.now := (recordsMoved_steady s n cal).now
  have cal' : (findRound (readListsOf s n) n).bind (·.cal) = some cal := ((readListsOf_steady s n).cal found).trans known
  rw [exec_secondRoundPost, execSecondRoundPost, ← now]
  simp only [cal', State.at_now, modRound_now, secondPosted, recordsMoved, heldRound, done]
  rfl

/-! ## A round without a calendar -/

/-- The round has lapsed, and its demand handles are filled. -/
def Round.lapse (r : Round) : Round := { r with lapsed := true, demHandles := [] }

/-- The handles of the capacity posts are filled. -/
def Round.unposted (r : Round) : Round := { r with capHandles := [] }

/-- The round's lapse, before XRUN ends. -/
def roundLapsed (s : State) (n : BitVec 16) (r : Round) : State :=
  let t := fillPosts (modRound (roundRecord s 3 n 16) n Round.lapse) r.demHandles stLate
  fillPosts (modRound t (firstOf n) Round.unposted) (heldRound t (firstOf n)).capHandles stLate

theorem calendarTimeout_stays {s : State} {n : BitVec 16} {r : Round} (found : findRound s n = some r)
    (closed : r.cal.isSome = true ∨ r.lapsed = true) : exec (.calendarTimeout n) s = .next s := by
  have closed' : (r.cal.isSome || r.lapsed) = true := by simpa using closed
  rw [exec_calendarTimeout, execCalendarTimeout]
  simp only [found, closed', if_true, done]

theorem calendarTimeout_lapses {s : State} {n : BitVec 16} {r : Round} (found : findRound s n = some r) (unknown : r.cal = none)
    (running : r.lapsed = false) :
    exec (.calendarTimeout n) s = .next (xrunFinish (readListsOf (roundLapsed s n r) (firstOf n)) (firstOf n) true) := by
  rw [exec_calendarTimeout, execCalendarTimeout]
  simp only [found, unknown, running]
  rfl

end Sys2Proof.Machine

namespace Sys2Proof.Claims

open Sys2Proof.Machine

/-! ## The claims -/

theorem exec_calendarArrive_takes (s : State) (c : Calendar) (running : (heldRound s c.round).lapsed = false)
    (unknown : (heldRound s c.round).cal = none) :
    ∃ t q, exec (.calendarArrive c) s = .next t ∧ findRound t c.round = some q ∧ q.cal = some c ∧
      q.demHandles = [] ∧ (∀ i, ∀ ph ∈ c.phases[i]?, (256 * ph.start, Act.exchangePhaseStart c.round i) ∈ t.agenda) ∧
      (isSecond c.round = false → (256 * c.ends, Act.secondRoundPost c.round) ∈ t.agenda) ∧
      (isSecond c.round = true → (256 * (c.ends + 8), Act.capacityPostTimeout c.round) ∈ t.agenda) ∧
      (∀ h ∈ (heldRound s c.round).demHandles,
        (s.now + 1, Act.completion h ⟨if notUsed s (heldRound s c.round) c then 2 else 0, 0, 0⟩) ∈ t.agenda) ∧
      t.fab = s.fab := by
  have checks : Steady (calendarTaken s c) (xrunCheck (capacityCheck (calendarTaken s c) (firstOf c.round)) (firstOf c.round)) :=
    (capacityCheck_steady _ _).trans (xrunCheck_steady _ _)
  obtain ⟨q, found, alike⟩ := checks.rounds _ _ (findRound_calendarTaken s c)
  refine ⟨_, q, calendarArrive_takes running unknown, found, alike.cal, alike.demHandles,
    fun i ph listed => checks.agenda (calendarActs_phase listed), fun first => checks.agenda (calendarActs_first first), fun second => checks.agenda (calendarActs_second second),
    fun h mem => ?_, checks.fab.trans (calendarTaken_fab s c)⟩
  exact checks.agenda ((calendarActs_aside _ c).agenda (calendarFills_fills mem))

/-- The planes' permutations are nothing of the hub's and no act (R51). -/
theorem setPerms_hub (s : State) (ps : List PlanePerm) : (setPerms s ps).hub = s.hub ∧ (setPerms s ps).agenda = s.agenda := by
  unfold setPerms
  exact ⟨rfl, rfl⟩

theorem runAct_planesSet (s : State) (ps : List PlanePerm) : ∃ t, runAct (.planesSet ps) s = .next t ∧ SameMemory s t ∧ t.hub = s.hub ∧
    t.agenda = s.agenda ∧ ∀ p : Fin 16, t.fab.perms[p] = ps ++ (s.fab.perms[p]).filter fun o => !ps.any (·.wheel = o.wheel) := by
  obtain ⟨hub, agenda⟩ := setPerms_hub s ps
  obtain ⟨mem, -, perms⟩ := setPerms_leaves s ps
  exact ⟨setPerms s ps, rfl, mem, hub, agenda, perms⟩

/-- A record that is taken stands whole at its place, and its round counts it (R52, R236). -/
theorem exec_exchangeRecordArrive_writes {s : State} {x : XRecord} {r q : Round} {buf : Nat} {cal : Calendar} (wf : Memory.wf s = true)
    (free : s.hub.ckpts = []) (carried : portsCarry s x.src = true) (live : notLive s x = false)
    (first : findRound s (firstOf x.round) = some r) (into : r.buf = some buf) (found : findRound s x.round = some q) (known : q.cal = some cal)
    {pa : Nat} (place : pa = buf + rsizeOf cal.rcode * recordPlace s x.round cal x.src x.index) (below : pa + rsizeOf cal.rcode ≤ Config.sramBase) :
    ∃ t u, exec (.exchangeRecordArrive x) s = .next t ∧ findRound t (firstOf x.round) = some u ∧ u.arrived = r.arrived + 1 ∧
      (∀ i, ∀ w ∈ (x.words.take (rsizeOf cal.rcode / 8))[i]?, wordAt t (pa + 8 * i) = w) ∧
      ∀ a, (a < pa ∨ pa + rsizeOf cal.rcode ≤ a) → dataAt t a = dataAt (logArrival s x pa (x.words.take (rsizeOf cal.rcode / 8))) a := by
  obtain ⟨n, arrives⟩ := recordArrive_eq first into found known
  rw [← place] at arrives
  have written := recordWritten_aside s x (rsizeOf cal.rcode) pa
  have counted := findRound_modRound_same (recordWritten s x (rsizeOf cal.rcode) pa) (n := firstOf x.round) (f := Round.counting n)
    (heldRound_round _ _)
  rw [written.heldRound, heldRound_of_some first] at counted
  obtain ⟨u, found', alike⟩ := (capacityCheck_steady _ (firstOf x.round)).rounds _ _ counted
  obtain ⟨v, wf', before, after⟩ := recordWritten_mem (x := x) wf free below
  have len : (x.words.take (rsizeOf cal.rcode / 8)).length ≤ rsizeOf cal.rcode / 8 := List.length_take_le _ _
  have plain : ∀ i < 8 * (x.words.take (rsizeOf cal.rcode / 8)).length, PlainByte (pa + i) := fun i hi => plainByte_below (by omega)
  have mem : (recordArrive s x).mem = (putWords v pa (x.words.take (rsizeOf cal.rcode / 8))).mem := by
    rw [arrives, (planes_ext (capacityCheck_planes _ _)).1, ← after]
    rfl
  refine ⟨recordArrive s x, u, exchangeRecordArrive_taken carried live, by rw [arrives, found'], alike.arrived,
    fun i w listed => ?_, fun a out => ?_⟩
  · obtain ⟨inside, -⟩ := List.getElem?_eq_some_iff.mp listed
    rw [wordAt_congr_plain mem fun k hk => plainByte_below (by omega)]
    exact wordAt_putWords wf' plain listed
  · rw [dataAt_congr mem, dataAt_putWords_other wf' plain (by omega), dataAt_congr before]

theorem exec_secondRoundPost_posts (s : State) (n : BitVec 16) (r : Round) (cal : Calendar) (found : findRound s n = some r)
    (known : r.cal = some cal) : ∃ t q, exec (.secondRoundPost n) s = .next t ∧ findRound t (secondOf n) = some q ∧ q.counted = true ∧
      q.close = cal.ends ∧ q.rcode = cal.rcode ∧ q.buf = r.buf ∧
      q.cap = (if cal.used.getLsbD (pkgNo s) then r.cap - cal.below 64 (pkgNo s) else 0) ∧
      (256 * (cal.ends + 32), Act.calendarTimeout (secondOf n)) ∈ t.agenda ∧ (s.now, Act.roundClose (secondOf n)) ∈ t.agenda := by
  have moved := recordsMoved_steady s n cal
  obtain ⟨q, found', alike⟩ := moved.rounds n r found
  have held := heldRound_of_some found'
  refine ⟨_, secondPosted (recordsMoved s n cal) n cal, secondRoundPost_posts found known, ?_, rfl, rfl, rfl, ?_, ?_,
    State.at_keeps _ _ (State.mem_at _ _ _), State.mem_at _ _ _⟩
  · exact (((State.at_aside _ _ _).trans (State.at_aside _ _ _)).findRound _).trans (findRound_modRound_same _ rfl)
  · rw [secondPosted, held]
    exact alike.buf
  · rw [secondPosted, held, moved.pkgNo, alike.cap]

theorem exec_calendarTimeout_lapses (s : State) (n : BitVec 16) (r : Round) (found : findRound s n = some r) (unknown : r.cal = none)
    (running : r.lapsed = false) : ∃ t q, exec (.calendarTimeout n) s = .next t ∧ findRound t n = some q ∧ q.lapsed = true ∧ q.cal = none ∧
      q.demHandles = [] ∧ ∀ h ∈ r.demHandles, (s.now + 1, Act.completion h ⟨2, 0, 0⟩) ∈ t.agenda := by
  have recorded := roundRecord_aside s 3 n 16
  have lapsed := findRound_modRound_same (roundRecord s 3 n 16) (n := n) (f := Round.lapse) (heldRound_round _ _)
  rw [recorded.heldRound, heldRound_of_some found] at lapsed
  have demand : Steady (modRound (roundRecord s 3 n 16) n Round.lapse) _ := (fillPosts_aside _ r.demHandles stLate).steady
  have rest : Steady (fillPosts (modRound (roundRecord s 3 n 16) n Round.lapse) r.demHandles stLate)
      (xrunFinish (readListsOf (roundLapsed s n r) (firstOf n)) (firstOf n) true) :=
    (((modRound_steady _ (firstOf n) fun _ => by rfl).trans (fillPosts_aside _ _ _).steady).trans (readListsOf_steady _ _)).trans
      (xrunFinish_steady _ _ _)
  obtain ⟨q, found', alike⟩ := (demand.trans rest).rounds _ _ lapsed
  refine ⟨_, q, calendarTimeout_lapses found unknown running, found', alike.lapsed, alike.cal.trans unknown, alike.demHandles,
    fun h mem => rest.agenda ?_⟩
  rw [← recorded.now]
  exact mem_fillPosts mem (modRound (roundRecord s 3 n 16) n Round.lapse) stLate

theorem exec_calendarTimeout_none {s : State} {n : BitVec 16} (none : findRound s n = none) : exec (.calendarTimeout n) s = .next s := by
  rw [exec_calendarTimeout, execCalendarTimeout]
  simp only [none, done]

/-- Settles O52: each act of a calendar by the lemma of what it does. -/
theorem calendarsRunTheirRounds : Obligations.CalendarsRunTheirRounds := by
  unfold Obligations.CalendarsRunTheirRounds
  refine ⟨fun s c => ⟨calendarArrive_stays, exec_calendarArrive_takes s c⟩, runAct_planesSet, fun s x => exchangeRecordArrive_lost,
    fun s n cal i d uncarried => sendPhase_uncarried uncarried n cal i,
    fun s n ph r cal x found known listed read => ⟨_, exchangePhaseStart_sends found known listed read, rfl⟩,
    fun s x r q buf cal wf free carried live first into found known =>
      exec_exchangeRecordArrive_writes wf free carried live first into found known rfl,
    exec_secondRoundPost_posts, fun s n => ⟨exec_calendarTimeout_none, fun r found => ⟨calendarTimeout_stays found,
      exec_calendarTimeout_lapses s n r found⟩⟩⟩

end Sys2Proof.Claims
end

section
/-! O51: posts at the hub, the row's way to Owl, and the end of the capacity handles (R231, R232, R453, R516). -/

open Sys2Proof.Claims

namespace Sys2Proof.Machine

theorem exec_postArrive (s : State) (p : Post) : exec (.postArrive p) s = execPostArrive p s := rfl
theorem exec_roundClose (s : State) (n : BitVec 16) : exec (.roundClose n) s = execRoundClose n s := rfl
theorem exec_capacityPostTimeout (s : State) (n : BitVec 16) : exec (.capacityPostTimeout n) s = execCapacityPostTimeout n s := rfl

/-! ## A post is counted -/

/-- A round that a post is counted in. -/
def Round.posted (p : Post) (r : Round) : Round :=
  let r := { r with counted := true, close := p.close.toNat, rcode := p.rcode }
  if p.cap then { r with buf := some (r.buf.getD p.buf.toNat), cap := r.cap + p.room, capHandles := r.capHandles ++ p.handle.toList }
  else { r with demand := List.zipWith (· + ·) r.demand (postRecords p), demHandles := r.demHandles ++ p.handle.toList }

theorem Round.posted_cap {p : Post} (cap : p.cap = true) (r : Round) : r.posted p =
    { r with counted := true, close := p.close.toNat, rcode := p.rcode, buf := some (r.buf.getD p.buf.toNat), cap := r.cap + p.room,
             capHandles := r.capHandles ++ p.handle.toList } := by simp [posted, cap]

theorem Round.posted_demand {p : Post} (cap : p.cap = false) (r : Round) : r.posted p =
    { r with counted := true, close := p.close.toNat, rcode := p.rcode, demand := List.zipWith (· + ·) r.demand (postRecords p),
             demHandles := r.demHandles ++ p.handle.toList } := by simp [posted, cap]

/-- What every post leaves of its round's terms. -/
theorem Round.posted_terms (p : Post) (r : Round) : (r.posted p).round = r.round ∧ (r.posted p).counted = true ∧
    (r.posted p).close = p.close.toNat ∧ (r.posted p).rcode = p.rcode := by
  cases cap : p.cap
  · rw [posted_demand cap]
    exact ⟨rfl, rfl, rfl, rfl⟩
  · rw [posted_cap cap]
    exact ⟨rfl, rfl, rfl, rfl⟩

/-- A first demand post's records per destination (R231). -/
theorem Round.posted_fresh_demand {p : Post} (cap : p.cap = false) (n : BitVec 16) {i : Nat} (hi : i < 64) :
    ((Round.fresh n).posted p).demand.getD i 0 = p.bytes.getD i 0 / rsize p.rcode.toNat := by
  have zeros : (Round.fresh n).demand = List.replicate 64 0 := rfl
  rw [posted_demand cap, zeros]
  simp [-List.reduceReplicate, postRecords, rsizeOf, hi]

/-- The post's round, before the first post's acts. -/
def roundPosted (s : State) (p : Post) : State := modRound (p.handle.toList.foldl startEntry s) p.round (Round.posted p)

theorem countPost_again {s : State} {p : Post} (counted : ((findRound s p.round).map (·.counted)).getD false = true) :
    countPost s p = roundPosted s p := by
  unfold countPost
  simp only [counted, Bool.not_true, Bool.false_eq_true, if_false]
  rfl

theorem countPost_first {s : State} {p : Post} (fresh : ((findRound s p.round).map (·.counted)).getD false = false) :
    countPost s p = ((roundPosted s p).at (256 * p.close.toNat) (.roundClose p.round)).at (256 * (p.close.toNat + 32))
      (.calendarTimeout p.round) := by
  unfold countPost
  simp only [fresh, Bool.not_false, if_true]
  rfl

theorem countPost_aside (s : State) (p : Post) : Aside (roundPosted s p) (countPost s p) := by
  cases counted : ((findRound s p.round).map (·.counted)).getD false with
  | false =>
    rw [countPost_first counted]
    exact (State.at_aside _ _ _).trans (State.at_aside _ _ _)
  | true =>
    rw [countPost_again counted]
    exact .refl _

theorem findRound_countPost (s : State) (p : Post) : findRound (countPost s p) p.round = some ((heldRound s p.round).posted p) := by
  have started : Aside s (p.handle.toList.foldl startEntry s) := .foldl startEntry_aside _ s
  rw [(countPost_aside s p).findRound, roundPosted, findRound_modRound_same, started.heldRound]
  exact (Round.posted_terms p _).1.trans (heldRound_round _ _)

theorem countPost_planes (s : State) (p : Post) : (countPost s p).planes = s.planes := by
  have started : (p.handle.toList.foldl startEntry s).planes = s.planes := foldl_keeps State.planes (f := startEntry) (fun _ _ => rfl) _ s
  cases counted : ((findRound s p.round).map (·.counted)).getD false with
  | false =>
    rw [countPost_first counted]
    exact started
  | true =>
    rw [countPost_again counted]
    exact started

/-! ## The cases of a post (R231, R516) -/

theorem postArrive_late {s : State} {p : Post} (late : p.close.toNat ≤ s.wheel) :
    exec (.postArrive p) s = .next (fillPosts s p.handle.toList stLate) := if_pos late

theorem postArrive_refuses {s : State} {p : Post} {r : Round} (early : s.wheel < p.close.toNat) (found : findRound s p.round = some r)
    (differs : postDiffers r p = true) :
    exec (.postArrive p) s = .next (fillPosts (roundRecord s 1 p.round (postFunc s p)) p.handle.toList stIllcmd) := by
  rw [exec_postArrive, execPostArrive, if_neg (Nat.not_le.mpr early)]
  simp only [found, differs, if_true, done]

theorem postArrive_counts {s : State} {p : Post} (early : s.wheel < p.close.toNat)
    (agrees : ∀ r, findRound s p.round = some r → postDiffers r p = false) : exec (.postArrive p) s = .next (countPost s p) := by
  rw [exec_postArrive, execPostArrive, if_neg (Nat.not_le.mpr early)]
  cases found : findRound s p.round with
  | none => rfl
  | some r => simp only [agrees r found, Bool.false_eq_true, if_false, done]

/-! ## The row goes to Owl (R231, R237) -/

theorem roundClose_of_some {s : State} {n : BitVec 16} {r : Round} (found : findRound s n = some r) :
    exec (.roundClose n) s = .next (if r.counted then sendRow s r r.close else s) := by
  rw [exec_roundClose, execRoundClose]
  simp only [found, done]

theorem roundClose_of_none {s : State} {n : BitVec 16} (none : findRound s n = none) : exec (.roundClose n) s = .next s := by
  rw [exec_roundClose, execRoundClose]
  simp only [none, done]

/-- This package's row of a round is with the Owl. -/
def RowSent (s : State) (r : Round) : Prop := ∃ x ∈ s.hub.rows, x.round = r.round ∧ x.pkg = pkgNo s ∧ x.close = r.close

theorem rowSent_iff (s : State) (r : Round) :
    s.hub.rows.any (fun x => x.round = r.round && x.pkg = pkgNo s && x.close = r.close) = true ↔ RowSent s r := by
  simp [RowSent, List.any_eq_true, and_assoc]

theorem sendRow_sends {s : State} {r : Round} (runs : owlRuns s = true) (unsent : ¬ RowSent s r) (w : Nat) : sendRow s r w =
    (s.withHub fun h => { h with rows := h.rows ++ [ownRow s r w] }).atOnce (formAt (ownRow s r w)) (.owlCalendar r.round []) := by
  have absent : s.hub.rows.any (fun x => x.round = r.round && x.pkg = pkgNo s && x.close = r.close) = false :=
    Bool.eq_false_iff.mpr fun h => unsent ((rowSent_iff s r).mp h)
  exact if_pos (by rw [runs, absent]; rfl)

theorem sendRow_silent {s : State} {r : Round} (silent : owlRuns s = false ∨ RowSent s r) (w : Nat) : sendRow s r w = s := by
  refine if_neg ?_
  rcases silent with idle | sent
  · simp [idle]
  · simp [(rowSent_iff s r).mpr sent]

/-! ## The capacity handles (R232, R453, R518) -/

/-- Every record granted to the round has arrived, and its write has been served. -/
def allArrived (s : State) (r : Round) (granted : Nat) : Bool := granted ≤ r.arrived && !r.writes.any (hbmPending s)

theorem capacityCheck_fills {s : State} {base : BitVec 16} {r : Round} {k : Nat} (found : findRound s base = some r)
    (granted : grantedBoth s base = some k) (all : allArrived s r k = true) (listed : r.capHandles ≠ []) :
    capacityCheck s base = fillPosts (modRound s base Round.unposted) r.capHandles stDone := by
  obtain ⟨arrived, served⟩ : k ≤ r.arrived ∧ r.writes.any (hbmPending s) = false := by simpa [allArrived] using all
  have nonempty : r.capHandles.isEmpty = false := by simpa using listed
  unfold capacityCheck
  simp only [found, granted, arrived, served, nonempty, decide_true, Bool.not_false, Bool.and_self, if_true, Bool.false_eq_true, if_false]
  rfl

theorem capacityCheck_waits {s : State} {base : BitVec 16} (unfilled : ∀ r k, findRound s base = some r → grantedBoth s base = some k →
    allArrived s r k = false ∨ r.capHandles = []) : AgendaOnly s (capacityCheck s base) := by
  unfold capacityCheck
  split
  next r k found granted =>
    split
    next due =>
      obtain ⟨arrived, nonempty⟩ : k ≤ r.arrived ∧ r.capHandles ≠ [] := by simpa using due
      rcases unfilled r k found granted with waits | none
      · have pending : r.writes.any (hbmPending s) = true := by simpa [allArrived, arrived] using waits
        rw [if_pos pending]
        exact s.atOnce_agendaOnly _ _
      · exact absurd none nonempty
    next => rfl
  next => rfl

/-- The capacity posts' handles are filled with PARTIAL, those still open. -/
def capacityEnded (t : State) (base : BitVec 16) (r : Round) : State := fillPosts (modRound t base Round.unposted) r.capHandles stPartial

theorem capacityPostTimeout_ends {s : State} {n : BitVec 16} {r : Round}
    (found : findRound (capacityCheck s (firstOf n)) (firstOf n) = some r) :
    exec (.capacityPostTimeout n) s = .next (capacityEnded (capacityCheck s (firstOf n)) (firstOf n) r) := by
  rw [exec_capacityPostTimeout, execCapacityPostTimeout]
  simp only [found, done]
  rfl

theorem capacityPostTimeout_none {s : State} {n : BitVec 16} (none : findRound s (firstOf n) = none) :
    exec (.capacityPostTimeout n) s = .next s := by
  have same : capacityCheck s (firstOf n) = s := by
    unfold capacityCheck
    simp only [none]
  rw [exec_capacityPostTimeout, execCapacityPostTimeout]
  simp only [same, none, done]

theorem findRound_capacityEnded {t : State} {base : BitVec 16} {r : Round} (found : findRound t base = some r) :
    findRound (capacityEnded t base r) base = some { r with capHandles := [] } := by
  rw [capacityEnded, (fillPosts_aside _ _ _).findRound, findRound_modRound_same _ (heldRound_round _ _), heldRound_of_some found]
  rfl

theorem capacityEnded_planes (t : State) (base : BitVec 16) (r : Round) : (capacityEnded t base r).planes = t.planes :=
  (fillPosts_agendaOnly (modRound t base Round.unposted) _ _).planes

end Sys2Proof.Machine

namespace Sys2Proof.Claims

open Sys2Proof.Machine

theorem exec_postArrive_refuses (s : State) (p : Post) (r : Round) (early : s.wheel < p.close.toNat) (found : findRound s p.round = some r)
    (differs : postDiffers r p = true) : ∃ t, exec (.postArrive p) s = .next t ∧ t.hub.rounds = s.hub.rounds ∧
      t.hub.msix = s.hub.msix ++ [(16, 0)] ∧ ∀ h ∈ p.handle, (s.now + 1, Act.completion h ⟨0x4E, 0, 0⟩) ∈ t.agenda := by
  have recorded := roundRecord_aside s 1 p.round (postFunc s p)
  have filled := fillPosts_agendaOnly (roundRecord s 1 p.round (postFunc s p)) p.handle.toList stIllcmd
  refine ⟨_, postArrive_refuses early found differs, ?_, ?_, fun h mem => ?_⟩
  · rw [filled.hub, recorded.rounds]
  · rw [filled.hub]
    exact fabricRecord_msix s _ _ _ _
  · rw [← recorded.now]
    exact mem_fillPosts (Option.mem_toList.mpr mem) _ stIllcmd

theorem exec_postArrive_counts (s : State) (p : Post) (early : s.wheel < p.close.toNat)
    (agrees : ∀ r, findRound s p.round = some r → postDiffers r p = false) :
    ∃ t r, exec (.postArrive p) s = .next t ∧ SameMemory s t ∧ findRound t p.round = some r ∧ r.counted = true ∧ r.close = p.close.toNat ∧
      r.rcode = p.rcode ∧
      (findRound s p.round = none → (256 * p.close.toNat, Act.roundClose p.round) ∈ t.agenda ∧
        (256 * (p.close.toNat + 32), Act.calendarTimeout p.round) ∈ t.agenda ∧
        (p.cap = true → r.buf = some p.buf.toNat ∧ r.cap = p.room ∧ r.capHandles = p.handle.toList) ∧
        (p.cap = false → r.demHandles = p.handle.toList ∧ ∀ i < 64, r.demand.getD i 0 = p.bytes.getD i 0 / rsize p.rcode.toNat)) ∧
      ∀ q, findRound s p.round = some q → p.cap = true → r.cap = q.cap + p.room ∧ r.capHandles = q.capHandles ++ p.handle.toList := by
  obtain ⟨-, counted, close, rcode⟩ := Round.posted_terms p (heldRound s p.round)
  refine ⟨_, _, postArrive_counts early agrees, sameMemory_of_planes (countPost_planes s p), findRound_countPost s p, counted, close, rcode,
    fun none => ?_, fun q found cap => ?_⟩
  · rw [heldRound_of_none none, countPost_first (by rw [none]; rfl)]
    refine ⟨State.at_keeps _ _ (State.mem_at _ _ _), State.mem_at _ _ _, fun cap => ?_, fun demand => ⟨?_, fun i hi =>
      Round.posted_fresh_demand demand _ hi⟩⟩
    · rw [Round.posted_cap cap]
      exact ⟨rfl, Nat.zero_add _, rfl⟩
    · rw [Round.posted_demand demand]
      rfl
  · rw [heldRound_of_some found, Round.posted_cap cap]
    exact ⟨rfl, rfl⟩

theorem exec_roundClose_sends (s : State) (n : BitVec 16) (r : Round) (found : findRound s n = some r) (round : r.round = n)
    (counted : r.counted = true) (runs : owlRuns s = true)
    (unsent : ∀ x ∈ s.hub.rows, ¬ (x.round = n ∧ x.pkg = pkgNo s ∧ x.close = r.close)) :
    ∃ t, exec (.roundClose n) s = .next t ∧ SameMemory s t ∧
      t.hub.rows = s.hub.rows ++ [⟨n, pkgNo s, r.close, r.rcode, r.demand, r.cap, r.close + 8, r.close⟩] ∧
      (256 * (r.close + 4) + 255, Act.owlCalendar n []) ∈ t.agenda := by
  have new : ¬ RowSent s r := fun ⟨x, mem, key⟩ => unsent x mem (round ▸ key)
  have time : formAt (ownRow s r r.close) = 256 * (r.close + 4) + 255 := by simp only [formAt, ownRow]; omega
  refine ⟨_, (roundClose_of_some found).trans (by rw [if_pos counted, sendRow_sends runs new]), ?_, ?_, ?_⟩
  · exact (sameMemory_of rfl rfl rfl rfl : SameMemory s (s.withHub _)).trans (AgendaOnly.sameMemory (State.atOnce_agendaOnly _ _ _))
  · rw [State.atOnce_hub, ← round]
    rfl
  · rw [← time, round]
    exact State.mem_atOnce _ _ _

theorem exec_roundClose_sent (s : State) (n : BitVec 16) (r : Round) (found : findRound s n = some r) (round : r.round = n)
    (sent : ∃ x ∈ s.hub.rows, x.round = n ∧ x.pkg = pkgNo s ∧ x.close = r.close) : exec (.roundClose n) s = .next s := by
  subst round
  rw [roundClose_of_some found, sendRow_silent (.inr sent), ite_self]

theorem exec_roundClose_uncounted (s : State) (n : BitVec 16) (r : Round) (found : findRound s n = some r) (uncounted : r.counted = false) :
    exec (.roundClose n) s = .next s := by
  rw [roundClose_of_some found, if_neg (by simp [uncounted])]

theorem exec_roundClose_silent (s : State) (n : BitVec 16) (silent : findRound s n = none ∨ owlRuns s = false) :
    exec (.roundClose n) s = .next s := by
  cases found : findRound s n with
  | none => exact roundClose_of_none found
  | some r =>
    have idle : owlRuns s = false := silent.resolve_left (by simp [found])
    rw [roundClose_of_some found, sendRow_silent (.inl idle), ite_self]

/-- Eight wheels after the second round's end the capacity handles complete: DONE when all has arrived, else PARTIAL (R232, R453, R518). -/
theorem exec_capacityPostTimeout_ends (s : State) (n : BitVec 16) (r : Round) (found : findRound s (firstOf n) = some r) :
    ∃ t q, exec (.capacityPostTimeout n) s = .next t ∧ SameMemory s t ∧ findRound t (firstOf n) = some q ∧ q.capHandles = [] ∧
      ∀ k, grantedBoth s (firstOf n) = some k → ∀ h ∈ r.capHandles,
        (s.now + 1, Act.completion h ⟨if k ≤ r.arrived ∧ r.writes.any (hbmPending s) = false then 0 else 1, 0, 0⟩) ∈ t.agenda := by
  have steady := capacityCheck_steady s (firstOf n)
  obtain ⟨u, found', -⟩ := steady.rounds _ _ found
  have mem : SameMemory s (capacityEnded (capacityCheck s (firstOf n)) (firstOf n) u) :=
    sameMemory_of_planes ((capacityEnded_planes _ _ _).trans (capacityCheck_planes _ _))
  refine ⟨_, _, capacityPostTimeout_ends found', mem, findRound_capacityEnded found', rfl, fun k granted h listed => ?_⟩
  have all_iff : allArrived s r k = true ↔ k ≤ r.arrived ∧ r.writes.any (hbmPending s) = false := by simp [allArrived]
  split
  next all =>
    have filled := mem_fillPosts listed (modRound s (firstOf n) Round.unposted) stDone
    rw [← capacityCheck_fills found granted (all_iff.mpr all) (List.ne_nil_of_mem listed)] at filled
    exact (fillPosts_aside (modRound _ _ _) _ _).agenda filled
  next nonempty =>
    have unfilled : AgendaOnly s (capacityCheck s (firstOf n)) := capacityCheck_waits fun r' k' found' granted' => by
      obtain rfl : r = r' := Option.some_injective _ (found.symm.trans found')
      obtain rfl : k = k' := Option.some_injective _ (granted.symm.trans granted')
      exact .inl (Bool.eq_false_iff.mpr fun all => nonempty (all_iff.mp all))
    obtain rfl : r = u := Option.some_injective _ (found.symm.trans ((findRound_congr (congrArg Hub.rounds unfilled.hub) _).symm.trans found'))
    rw [← steady.now]
    exact mem_fillPosts listed (modRound (capacityCheck s (firstOf n)) (firstOf n) Round.unposted) stPartial

end Sys2Proof.Claims
end

section
/-! O51, continued: the grants of a column (R233). -/

namespace Sys2Proof.Machine

/-! ## A column's demands -/

/-- What each demand of a column gets at first: an equal share, or less when it asks for less (R233). -/
def firstShares (q : Nat) (ds : List (Nat × Nat)) : List Nat := ds.map fun d => min d.2 q

/-- The grants with the rest given by ascending package (R233). -/
def spreadRest (q : Nat) : Nat → List (Nat × Nat) → List (Nat × Nat)
  | _, [] => []
  | rest, d :: ds => (d.1, min d.2 q + min rest (d.2 - min d.2 q)) :: spreadRest q (rest - min rest (d.2 - min d.2 q)) ds

/-- The number of demands that a column shares its capacity among. -/
def askers (ds : List (Nat × Nat)) : Nat := (ds.filter fun d => 0 < d.2).length

theorem grantColumn_within {cap : Nat} {ds : List (Nat × Nat)} (h : (ds.map (·.2)).sum ≤ cap) : grantColumn cap ds = ds := by
  unfold grantColumn
  rw [← List.sum_eq_foldl, if_pos h]

theorem spread_eq_foldl (q : Nat) (ds : List (Nat × Nat)) (rest : Nat) (acc : List (Nat × Nat)) :
    ((ds.map fun d => (d.1, d.2, min d.2 q)).foldl (fun (a : Nat × List (Nat × Nat)) d =>
      let add := min a.1 (d.2.1 - d.2.2)
      (a.1 - add, a.2 ++ [(d.1, d.2.2 + add)])) (rest, acc)).2 = acc ++ spreadRest q rest ds := by
  induction ds generalizing rest acc with
  | nil => simp [spreadRest]
  | cons d ds ih =>
    rw [List.map_cons, List.foldl_cons, ih]
    simp [spreadRest]

theorem grantColumn_over {cap : Nat} {ds : List (Nat × Nat)} (h : cap < (ds.map (·.2)).sum) :
    grantColumn cap ds = spreadRest (cap / askers ds) (cap - (firstShares (cap / askers ds) ds).sum) ds := by
  have shares : ((ds.map fun d => (d.1, d.2, min d.2 (cap / askers ds))).map (·.2.2)).foldl (· + ·) 0 =
      (firstShares (cap / askers ds) ds).sum := by
    rw [← List.sum_eq_foldl, List.map_map]
    rfl
  unfold grantColumn
  rw [if_neg (by rw [← List.sum_eq_foldl]; omega)]
  dsimp only
  rw [show (ds.filter fun d => 0 < d.2).length = askers ds from rfl, shares, spread_eq_foldl, List.nil_append]

/-! ## Sums -/

theorem firstShares_le_demand (q : Nat) (ds : List (Nat × Nat)) : (firstShares q ds).sum ≤ (ds.map (·.2)).sum :=
  List.sum_le_sum fun d _ => Nat.min_le_left d.2 q

/-- Equal shares fit in the capacity. -/
theorem firstShares_le (q : Nat) (ds : List (Nat × Nat)) : (firstShares q ds).sum ≤ askers ds * q := by
  induction ds with
  | nil => simp [firstShares]
  | cons d ds ih =>
    have head : (firstShares q (d :: ds)).sum = min d.2 q + (firstShares q ds).sum := List.sum_cons
    by_cases asks : 0 < d.2
    · have count : askers (d :: ds) = askers ds + 1 := by simp [askers, asks]
      rw [head, count, Nat.succ_mul]
      have := Nat.min_le_right d.2 q
      omega
    · have count : askers (d :: ds) = askers ds := by simp [askers, asks]
      rw [head, count]
      omega

/-- Of the rest as much is given as is still asked for. -/
theorem spreadRest_sum (q rest : Nat) (ds : List (Nat × Nat)) :
    ((spreadRest q rest ds).map (·.2)).sum = min ((firstShares q ds).sum + rest) (ds.map (·.2)).sum := by
  induction ds generalizing rest with
  | nil => simp [spreadRest]
  | cons d ds ih =>
    have head : (firstShares q (d :: ds)).sum = min d.2 q + (firstShares q ds).sum := List.sum_cons
    have below := firstShares_le_demand q ds
    rw [spreadRest, List.map_cons, List.sum_cons, ih, head, List.map_cons, List.sum_cons]
    omega

theorem spreadRest_keys (q rest : Nat) (ds : List (Nat × Nat)) : (spreadRest q rest ds).map (·.1) = ds.map (·.1) := by
  induction ds generalizing rest with
  | nil => rfl
  | cons d ds ih => rw [spreadRest, List.map_cons, List.map_cons, ih]

/-- Each grant is the equal share at least, and the demand at most. -/
theorem spreadRest_bounds (q rest : Nat) {ds : List (Nat × Nat)} {i : Nat} {x y : Nat × Nat} (hx : ds[i]? = some x)
    (hy : (spreadRest q rest ds)[i]? = some y) : min x.2 q ≤ y.2 ∧ y.2 ≤ x.2 := by
  induction ds generalizing rest i with
  | nil => simp at hx
  | cons d ds ih =>
    cases i with
    | zero =>
      obtain rfl : d = x := by simpa using hx
      obtain rfl : (d.1, min d.2 q + min rest (d.2 - min d.2 q)) = y := by simpa [spreadRest] using hy
      constructor
      · exact Nat.le_add_right _ _
      · show min d.2 q + min rest (d.2 - min d.2 q) ≤ d.2
        omega
    | succ i => exact ih _ (by simpa using hx) (by simpa [spreadRest] using hy)

/-- R233: the demands' places stay, the capacity is used as far as it is asked for, no grant exceeds its demand, and each is an equal share or all
that is asked for. -/
theorem grantColumn_grants (cap : Nat) (ds : List (Nat × Nat)) :
    (grantColumn cap ds).map (·.1) = ds.map (·.1) ∧ ((grantColumn cap ds).map (·.2)).sum = min cap (ds.map (·.2)).sum ∧
      ∀ (i : Nat) (x y : Nat × Nat), ds[i]? = some x → (grantColumn cap ds)[i]? = some y →
        y.2 ≤ x.2 ∧ (cap < (ds.map (·.2)).sum → min x.2 (cap / (ds.filter (0 < ·.2)).length) ≤ y.2) := by
  rcases Nat.lt_or_ge cap (ds.map (·.2)).sum with beyond | within
  · have fits : (firstShares (cap / askers ds) ds).sum ≤ cap := (firstShares_le _ ds).trans (Nat.mul_div_le cap _)
    rw [grantColumn_over beyond]
    refine ⟨spreadRest_keys _ _ ds, ?_, fun i x y hx hy => ?_⟩
    · rw [spreadRest_sum, Nat.add_sub_cancel' fits]
    · obtain ⟨least, most⟩ := spreadRest_bounds _ _ hx hy
      exact ⟨most, fun _ => least⟩
  · rw [grantColumn_within within]
    refine ⟨rfl, (Nat.min_eq_right within).symm, fun i x y hx hy => ?_⟩
    obtain rfl : x = y := Option.some_injective _ (hx.symm.trans hy)
    exact ⟨le_rfl, fun beyond => absurd beyond (Nat.not_lt.mpr within)⟩

end Sys2Proof.Machine
end

section
/-! O51, continued: Owl's calendars, heartbeats and the failover, and the claim (R234-R237, R243, R516, R517). -/

open Sys2Proof.Claims

namespace Sys2Proof.Machine

theorem exec_owlCalendar (s : State) (n : BitVec 16) (rows : List OwlRow) : exec (.owlCalendar n rows) s = execOwlCalendar n rows s := rfl
theorem exec_owlFailover (s : State) : exec .owlFailover s = execOwlFailover s := rfl
theorem runAct_owlTakeover (s : State) : runAct .owlTakeover s = execOwlTakeover s := rfl

/-! ## Records of rows that are not used (R516) -/

/-- Records were made, and nothing else of the exchange differs: of the hub its registers and notices, of the agenda units asked for the records. -/
structure Recorded (s t : State) : Prop where
  aside : Aside s t
  hub : t.hub = { s.hub with regs := t.hub.regs, msix := t.hub.msix }
  acts : ∀ e ∈ t.agenda, e ∈ s.agenda ∨ ∃ l, e.2 = .hbmRequest 15 Config.coreCount l true

namespace Recorded

variable {s t u : State}

theorem refl (s : State) : Recorded s s := ⟨.refl s, rfl, fun _ => .inl⟩

theorem trans (h : Recorded s t) (g : Recorded t u) : Recorded s u where
  aside := h.aside.trans g.aside
  hub := by rw [g.hub, h.hub]
  acts e he := (g.acts e he).elim (h.acts e) .inr

theorem rows (h : Recorded s t) : t.hub.rows = s.hub.rows := by rw [h.hub]
theorem formed (h : Recorded s t) : t.hub.formed = s.hub.formed := by rw [h.hub]

/-- No calendar is sent by a record. -/
theorem calendars (h : Recorded s t) {e : Nat × Act} (he : e ∈ t.agenda) {c : Calendar} (act : e.2 = .calendarArrive c) : e ∈ s.agenda := by
  rcases h.acts e he with old | ⟨l, new⟩
  · exact old
  · exact nomatch new.symm.trans act

end Recorded

theorem ringAppend_acts (s : State) (a : Nat) (ws : List Word) {e : Nat × Act} (he : e ∈ (ringAppend s a ws).1.agenda) :
    e ∈ s.agenda ∨ ∃ l, e.2 = .hbmRequest 15 Config.coreCount l true := by
  unfold ringAppend at he
  extract_lets base size wr rd n written lines due asked at he
  have planes : PlanesOnly s written := foldl_planes (fun t i => putWords_planes t _ _) _ s
  split at he
  · have he : e ∈ written.agenda ++ lines.map fun l => (due, Act.hbmRequest 15 Config.coreCount (64 * l) true) := he
    rcases List.mem_append.mp he with old | new
    · left
      rw [planes] at old
      exact old
    · obtain ⟨l, -, rfl⟩ := List.mem_map.mp new
      exact .inr ⟨_, rfl⟩
  · exact .inl he

theorem roundRecord_recorded (s : State) (reason : Nat) (n : BitVec 16) (fn : Nat) : Recorded s (roundRecord s reason n fn) where
  aside := roundRecord_aside s reason n fn
  hub := by
    obtain ⟨u, b, v, put, -, hub, -⟩ := errRecord_cases s 7 0 0x0709 (reason * 2 ^ 16 + n.toNat) (word (pkgNo s)) fn 0 []
    have made : roundRecord s reason n fn = raiseMsix (hubPut u b v) 16 0 := congrArg (raiseMsix · 16 0) put
    rw [made, raiseMsix, hubPut, hub]
  acts _ he := ringAppend_acts s _ _ he

theorem roundRecords_recorded {α : Type} (reason : Nat) (n : BitVec 16) (fn : Nat) (xs : List α) (s : State) :
    Recorded s (xs.foldl (fun t _ => roundRecord t reason n fn) s) :=
  foldl_rel Recorded.refl Recorded.trans (fun t _ => roundRecord_recorded t reason n fn) xs s

/-! ## Rows at Owl (R237, R243, R516) -/

/-- The rows of a round that come. -/
def rowsCome (n : BitVec 16) (rows : List OwlRow) : List OwlRow := rows.filter fun r => r.round = n && r.pkg < 64

/-- The rows of a round: those with the Owl, then those that come. -/
def roundRows (s : State) (n : BitVec 16) (rows : List OwlRow) : List OwlRow := s.hub.rows.filter (·.round = n) ++ rowsCome n rows

/-- Rows that come too late are recorded, and the round has none. -/
def rowsLate (s : State) (n : BitVec 16) (rows : List OwlRow) : State :=
  ((rowsCome n rows).foldl (fun s _ => roundRecord s 2 n 16) s).withHub fun h => { h with rows := h.rows.filter (·.round != n) }

/-- Rows that come wait with the Owl until the calendar is due. -/
def rowsWait (s : State) (n : BitVec 16) (rows : List OwlRow) (due : Nat) : State :=
  (s.withHub fun h => { h with rows := h.rows ++ rowsCome n rows }).atOnce due (.owlCalendar n [])

theorem roundRows_round {s : State} {n : BitVec 16} {rows : List OwlRow} {r : OwlRow} (h : r ∈ roundRows s n rows) : r.round = n := by
  rcases List.mem_append.mp h with own | came
  · simpa using (List.mem_filter.mp own).2
  · exact (by simpa using (List.mem_filter.mp came).2 : r.round = n ∧ r.pkg < 64).1

section
variable {s : State} {n : BitVec 16} {rows rest : List OwlRow} {lead : OwlRow}

theorem owlCalendar_idle (idle : roundRows s n rows = [] ∨ owlRuns s = false ∨ s.hub.owlUp = false) : exec (.owlCalendar n rows) s = .next s := by
  rw [exec_owlCalendar, execOwlCalendar]
  split
  next => rfl
  next lead rest all =>
    have listed : roundRows s n rows = lead :: rest := all
    refine if_pos ?_
    rcases idle with none | silent | down
    · simp [none] at listed
    · simp [silent]
    · simp [down]

section
variable (all : roundRows s n rows = lead :: rest) (runs : owlRuns s = true) (up : s.hub.owlUp = true)
include all runs up

/-- A running Owl answers rows by what it has formed and by the time. -/
theorem owlCalendar_runs : exec (.owlCalendar n rows) s = .next (
    if roundFormed s n || lead.start ≤ s.wheel + 1 then rowsLate s n rows
    else if s.now < formAt lead then rowsWait s n rows (formAt lead) else formRound s lead (roundRows s n rows)) := by
  have all' : s.hub.rows.filter (·.round = n) ++ (rows.filter fun r => r.round = n && r.pkg < 64) = lead :: rest := all
  rw [exec_owlCalendar, execOwlCalendar]
  simp only [all', all, runs, up, Bool.not_true, Bool.or_self, Bool.false_eq_true, if_false]
  split
  · rfl
  · split <;> rfl

theorem owlCalendar_late (late : roundFormed s n = true ∨ lead.start ≤ s.wheel + 1) :
    exec (.owlCalendar n rows) s = .next (rowsLate s n rows) := by rw [owlCalendar_runs all runs up, if_pos (by simpa using late)]

section
variable (unformed : roundFormed s n = false) (ahead : s.wheel + 1 < lead.start)
include unformed ahead

theorem owlCalendar_early (early : s.now < formAt lead) : exec (.owlCalendar n rows) s = .next (rowsWait s n rows (formAt lead)) := by
  rw [owlCalendar_runs all runs up, if_neg (by simpa [unformed] using ahead), if_pos early]

theorem owlCalendar_forms (due : formAt lead ≤ s.now) : exec (.owlCalendar n rows) s = .next (formRound s lead (roundRows s n rows)) := by
  rw [owlCalendar_runs all runs up, if_neg (by simpa [unformed] using ahead), if_neg (Nat.not_lt.mpr due)]

end
end
end

/-! ## A calendar is formed and sent (R237) -/

/-- The Owl once its calendar of the leading row's round is formed, before it is sent. -/
def calendarFormed (s : State) (lead : OwlRow) (all : List OwlRow) : State :=
  ((all.filter fun r => !rowUsed lead r).foldl (fun s _ => roundRecord s 2 lead.round 16) s).withHub fun h => { h with
    rows := h.rows.filter (·.round != lead.round),
    formed := (h.formed.filter fun p => p.1 != lead.round && decide (s.wheel < p.2)) ++ [(lead.round, lead.start)] }

/-- The Owl with the calendar on its way to the hubs. -/
def calendarSent (s : State) (lead : OwlRow) (all : List OwlRow) : State :=
  (calendarFormed s lead all).later (some (256 * lead.start - s.now - 1))
    (.calendarArrive (formCalendar (fld (hubGet s rSyscfg) 57 54) lead all))

/-- The wheel in whose slot 131 the planes take the permutations. -/
def permsWheel (s : State) (lead : OwlRow) (all : List OwlRow) : Nat :=
  s.wheel + 1 + Config.freeDelay (calendarSent s lead all).fresh % (lead.start - s.wheel - 1)

theorem formRound_eq (s : State) (lead : OwlRow) (all : List OwlRow) :
    formRound s lead all =
      if (calendarPerms (formCalendar (fld (hubGet s rSyscfg) 57 54) lead all)).isEmpty then calendarSent s lead all
      else State.at { calendarSent s lead all with fresh := (calendarSent s lead all).fresh + 1 } (256 * permsWheel s lead all + 131)
        (.planesSet (calendarPerms (formCalendar (fld (hubGet s rSyscfg) 57 54) lead all))) := rfl

section
variable {s : State} {lead : OwlRow} {all : List OwlRow}

theorem formRound_hub (s : State) (lead : OwlRow) (all : List OwlRow) : (formRound s lead all).hub = (calendarFormed s lead all).hub := by
  rw [formRound_eq]
  split <;> rfl

theorem calendarSent_agenda (s : State) (lead : OwlRow) (all : List OwlRow) : (calendarSent s lead all).agenda ⊆ (formRound s lead all).agenda := by
  rw [formRound_eq]
  split
  · exact List.Subset.refl _
  · exact List.subset_append_left _ _

theorem calendarFormed_now (s : State) (lead : OwlRow) (all : List OwlRow) : (calendarFormed s lead all).now = s.now :=
  (roundRecords_recorded 2 lead.round 16 (all.filter fun r => !rowUsed lead r) s).aside.now

/-- The calendar reaches the hubs before phase 0. -/
theorem formRound_delivers (ahead : s.wheel + 1 < lead.start) : ∃ k, s.now < k ∧ k < 256 * lead.start ∧
    (k, Act.calendarArrive (formCalendar (fld (hubGet s rSyscfg) 57 54) lead all)) ∈ (formRound s lead all).agenda := by
  have early : s.now + 1 < 256 * lead.start := by simp only [State.wheel] at ahead; omega
  obtain ⟨k, after, before, sent⟩ := State.mem_later_within (calendarFormed s lead all) (b := 256 * lead.start - s.now - 1) (by omega)
    (.calendarArrive (formCalendar (fld (hubGet s rSyscfg) 57 54) lead all))
  rw [calendarFormed_now] at after before
  exact ⟨k, after, by omega, calendarSent_agenda s lead all sent⟩

/-- The planes take its permutations in slot 131 of a wheel before phase 0 (R51, R237). -/
theorem formRound_perms (ahead : s.wheel + 1 < lead.start)
    (nonempty : calendarPerms (formCalendar (fld (hubGet s rSyscfg) 57 54) lead all) ≠ []) : ∃ w, s.wheel < w ∧ w < lead.start ∧
      (256 * w + 131, Act.planesSet (calendarPerms (formCalendar (fld (hubGet s rSyscfg) 57 54) lead all))) ∈ (formRound s lead all).agenda := by
  have within := Nat.mod_lt (Config.freeDelay (calendarSent s lead all).fresh) (show 0 < lead.start - s.wheel - 1 by omega)
  refine ⟨permsWheel s lead all, by unfold permsWheel; omega, by unfold permsWheel; omega, ?_⟩
  rw [formRound_eq, if_neg (by simpa using nonempty)]
  exact State.mem_at _ _ _

end

/-! ## The failover (R243, R517) -/

theorem standbyDue_iff (s : State) :
    standbyDue s = true ↔ owlRuns s = true ∧ s.hub.owlStandby = true ∧ s.hub.heartbeat + 2 ≤ s.now / 256 := by
  rw [standbyDue, Bool.and_eq_true, Bool.and_eq_true, decide_eq_true_eq, and_assoc]
  rfl

theorem owlRuns_eq (s : State) : owlRuns s = (s.hub.owlActive && pkgNo s = 0) := rfl

theorem exec_owlFailover_due {s : State} (due : standbyDue s = true) :
    exec .owlFailover s = .next (s.atOnce (256 * (s.now / 256 + 1)) .owlTakeover) := by rw [exec_owlFailover, execOwlFailover, if_pos due]; rfl

theorem owlFailover_stays {s : State} (early : ¬ standbyDue s = true) : exec .owlFailover s = .next s ∧ runAct .owlTakeover s = .next s := by
  constructor
  · rw [exec_owlFailover, execOwlFailover, if_neg early, done]
  · rw [runAct_owlTakeover, execOwlTakeover, if_pos (by simpa using early), done]

/-- An act put on the agenda once is the only one that joins it. -/
theorem State.atOnce_only {s : State} {n : Nat} {a : Act} {e : Nat × Act} (h : e ∈ (s.atOnce n a).agenda) : e ∈ s.agenda ∨ e = (n, a) := by
  unfold State.atOnce at h
  split at h
  · exact .inl h
  · simpa using h

/-! ## Rows sent again after a failover -/

/-- Only rows at the Owl and acts that form calendars join. -/
structure RowsSent (s t : State) : Prop where
  planes : t.planes = s.planes
  hub : t.hub = { s.hub with rows := t.hub.rows }
  rows : s.hub.rows ⊆ t.hub.rows
  acts : ∀ e ∈ t.agenda, e ∈ s.agenda ∨ ∃ n, e.2 = .owlCalendar n []

namespace RowsSent

variable {s t u : State}

theorem refl (s : State) : RowsSent s s := ⟨rfl, rfl, List.Subset.refl _, fun _ => .inl⟩

theorem trans (h : RowsSent s t) (g : RowsSent t u) : RowsSent s u where
  planes := g.planes.trans h.planes
  hub := by rw [g.hub, h.hub]
  rows := List.Subset.trans h.rows g.rows
  acts e he := (g.acts e he).elim (h.acts e) .inr

theorem pkgNo (h : RowsSent s t) : pkgNo t = pkgNo s := congrArg (fld · 63 58) (hubGet_congr (by rw [h.hub]) rSyscfg)
theorem runs (h : RowsSent s t) : owlRuns t = owlRuns s := by rw [owlRuns, owlRuns, h.pkgNo, h.hub]

theorem rowSent (h : RowsSent s t) {r : Round} (sent : RowSent s r) : RowSent t r := by
  obtain ⟨x, mem, round, pkg, close⟩ := sent
  exact ⟨x, h.rows mem, round, by rw [h.pkgNo, pkg], close⟩

theorem ownRow (h : RowsSent s t) (r : Round) (w : Nat) : ownRow t r w = ownRow s r w := by rw [Machine.ownRow, Machine.ownRow, h.pkgNo]

end RowsSent

/-- A row sent joins the Owl's, with the act that forms its calendar. -/
theorem rowListed_rowsSent (s : State) (x : OwlRow) (n : Nat) (r : BitVec 16) :
    RowsSent s ((s.withHub fun h => { h with rows := h.rows ++ [x] }).atOnce n (.owlCalendar r [])) where
  planes := by
    rw [AgendaOnly.planes (State.atOnce_agendaOnly _ _ _)]
    rfl
  hub := by rw [State.atOnce_hub]
  rows := by
    rw [State.atOnce_hub]
    exact List.subset_append_left _ _
  acts e he := (State.atOnce_only he).imp_right fun new => ⟨r, by rw [new]⟩

theorem sendRow_rowsSent (s : State) (r : Round) (w : Nat) : RowsSent s (sendRow s r w) := by
  unfold sendRow
  split
  · exact rowListed_rowsSent s _ _ _
  · exact .refl s

/-- After a round's row has been sent it is with the running Owl, be it for the first time or not. -/
theorem sendRow_rowSent {s : State} (runs : owlRuns s = true) (r : Round) (w : Nat) : RowSent (sendRow s r w) r := by
  by_cases sent : RowSent s r
  · rwa [sendRow_silent (.inr sent)]
  · have kept := (sendRow_rowsSent s r w).pkgNo
    refine ⟨ownRow s r w, ?_, rfl, kept.symm, rfl⟩
    rw [sendRow_sends runs sent, State.atOnce_hub]
    exact List.mem_append_right _ (List.mem_singleton.mpr rfl)

theorem sendRow_own {s : State} {r : Round} {w : Nat} {x : OwlRow} (mem : x ∈ (sendRow s r w).hub.rows) :
    x ∈ s.hub.rows ∨ x = ownRow s r w := by
  unfold sendRow at mem
  split at mem
  · rw [State.atOnce_hub] at mem
    exact (List.mem_append.mp mem).imp_right List.mem_singleton.mp
  · exact .inl mem

/-- The rows of several rounds are sent. -/
def sendRows (s : State) (w : Nat) (rs : List Round) : State := rs.foldl (fun t r => sendRow t r w) s

theorem sendRows_rowsSent (s : State) (w : Nat) (rs : List Round) : RowsSent s (sendRows s w rs) :=
  foldl_rel RowsSent.refl RowsSent.trans (fun t r => sendRow_rowsSent t r w) rs s

theorem sendRows_rowSent {s : State} (runs : owlRuns s = true) (w : Nat) {rs : List Round} {r : Round} (mem : r ∈ rs) :
    RowSent (sendRows s w rs) r := by
  induction rs generalizing s with
  | nil => exact absurd mem List.not_mem_nil
  | cons q rs ih =>
    have sent := sendRow_rowsSent s q w
    rcases List.mem_cons.mp mem with rfl | mem
    · exact (sendRows_rowsSent _ w rs).rowSent (sendRow_rowSent runs r w)
    · exact ih (sent.runs.trans runs) mem

theorem sendRows_own {s : State} {w : Nat} {rs : List Round} {x : OwlRow} (mem : x ∈ (sendRows s w rs).hub.rows) :
    x ∈ s.hub.rows ∨ ∃ r ∈ rs, x = ownRow s r w := by
  induction rs generalizing s with
  | nil => exact .inl mem
  | cons q rs ih =>
    rcases ih (s := sendRow s q w) mem with old | ⟨r, later, own⟩
    · exact (sendRow_own old).imp_right fun own => ⟨q, List.mem_cons_self, own⟩
    · exact .inr ⟨r, List.mem_cons_of_mem _ later, own.trans ((sendRow_rowsSent s q w).ownRow r w)⟩

/-! ## The standby takes over -/

/-- The standby is the active Owl, and holds neither rows nor calendars. -/
def standbyActive (s : State) : State :=
  (undelivered s).withHub fun h => { h with owlStandby := false, owlUp := true, heartbeat := s.wheel, rows := [], formed := [] }

/-- The rounds whose rows go to the new Owl. -/
def awaiting (s : State) : List Round := s.hub.rounds.filter (·.awaits s.wheel)

theorem owlTakeover_due {s : State} (due : standbyDue s = true) :
    runAct .owlTakeover s = .next (sendRows (standbyActive s) s.wheel (awaiting s)) := by
  rw [runAct_owlTakeover, execOwlTakeover, if_neg (by simpa using due)]
  rfl

theorem standbyActive_runs (s : State) : owlRuns (standbyActive s) = owlRuns s := rfl

/-- What the old Owl had not delivered is gone. -/
theorem standbyActive_acts {s : State} {e : Nat × Act} (he : e ∈ (standbyActive s).agenda) (c : Calendar) (ps : List PlanePerm) :
    e.2 ≠ .calendarArrive c ∧ e.2 ≠ .planesSet ps := by
  have kept := (List.mem_filter.mp he).2
  constructor <;> intro act <;> simp [act] at kept

end Sys2Proof.Machine

namespace Sys2Proof.Claims

open Sys2Proof.Machine

/-! ## The claims -/

section
variable {s : State} {n : BitVec 16} {rows rest : List OwlRow} {lead : OwlRow} (all : roundRows s n rows = lead :: rest) (runs : owlRuns s = true)
  (up : s.hub.owlUp = true)
include all runs up

theorem exec_owlCalendar_late (late : roundFormed s n = true ∨ lead.start ≤ s.wheel + 1) :
    ∃ t, exec (.owlCalendar n rows) s = .next t ∧ (∀ r, r ∈ t.hub.rows ↔ r ∈ s.hub.rows ∧ r.round ≠ n) ∧ t.hub.formed = s.hub.formed ∧
      ∀ e ∈ t.agenda, ∀ c, e.2 = .calendarArrive c → e ∈ s.agenda := by
  have made := roundRecords_recorded 2 n 16 (rowsCome n rows) s
  refine ⟨_, owlCalendar_late all runs up late, fun r => ?_, made.formed, fun e he c act => made.calendars he act⟩
  rw [rowsLate, State.withHub_hub, made.rows]
  simp

variable (unformed : roundFormed s n = false) (ahead : s.wheel + 1 < lead.start)
include unformed ahead

theorem exec_owlCalendar_early (early : s.now < 256 * (lead.start - 4) + 255) :
    ∃ t, exec (.owlCalendar n rows) s = .next t ∧ SameMemory s t ∧
      t.hub.rows = s.hub.rows ++ rows.filter (fun r => r.round = n && r.pkg < 64) ∧
      (256 * (lead.start - 4) + 255, Act.owlCalendar n []) ∈ t.agenda ∧
      ∀ e ∈ t.agenda, e ∈ s.agenda ∨ e = (256 * (lead.start - 4) + 255, Act.owlCalendar n []) := by
  refine ⟨_, owlCalendar_early all runs up unformed ahead early, ?_, congrArg Hub.rows (State.atOnce_hub _ _ _), State.mem_atOnce _ _ _,
    fun _ => State.atOnce_only⟩
  exact (sameMemory_of rfl rfl rfl rfl : SameMemory s (s.withHub _)).trans (AgendaOnly.sameMemory (State.atOnce_agendaOnly _ _ _))

theorem exec_owlCalendar_forms (due : 256 * (lead.start - 4) + 255 ≤ s.now) :
    let cal := formCalendar (fld (hubGet s rSyscfg) 57 54) lead (roundRows s n rows)
    ∃ t k, exec (.owlCalendar n rows) s = .next t ∧ (∀ r ∈ t.hub.rows, r.round ≠ n) ∧ (n, lead.start) ∈ t.hub.formed ∧ s.now < k ∧
      k < 256 * lead.start ∧ (k, Act.calendarArrive cal) ∈ t.agenda ∧
      (calendarPerms cal ≠ [] → ∃ w, s.wheel < w ∧ w < lead.start ∧ (256 * w + 131, Act.planesSet (calendarPerms cal)) ∈ t.agenda) := by
  have first : lead.round = n := roundRows_round (rows := rows) (by rw [all]; exact List.mem_cons_self)
  obtain ⟨k, after, before, sent⟩ := formRound_delivers (all := roundRows s n rows) ahead
  refine ⟨_, k, owlCalendar_forms all runs up unformed ahead due, fun r mem => ?_, ?_, after, before, sent, formRound_perms ahead⟩
  · rw [formRound_hub] at mem
    have kept := (List.mem_filter.mp mem).2
    rw [first] at kept
    simpa using kept
  · rw [formRound_hub, ← first]
    exact List.mem_append_right _ (List.mem_singleton.mpr rfl)

end

theorem exec_owlHeartbeat (s : State) : ∃ t, exec .owlHeartbeat s = .next t ∧ SameMemory s t ∧ t.hub.heartbeat = s.now / 256 ∧
    t.hub.rounds = s.hub.rounds ∧ t.core = s.core := ⟨_, rfl, sameMemory_of rfl rfl rfl rfl, rfl, rfl, rfl⟩

theorem exec_owlFailover_begins {s : State} (due : standbyDue s = true) : ∃ t, exec .owlFailover s = .next t ∧ SameMemory s t ∧ t.hub = s.hub ∧
    (256 * (s.now / 256 + 1), Act.owlTakeover) ∈ t.agenda ∧
    ∀ e ∈ t.agenda, e ∈ s.agenda ∨ e = (256 * (s.now / 256 + 1), Act.owlTakeover) :=
  ⟨_, exec_owlFailover_due due, AgendaOnly.sameMemory (State.atOnce_agendaOnly _ _ _), State.atOnce_hub _ _ _, State.mem_atOnce _ _ _,
    fun _ => State.atOnce_only⟩

/-- The standby is the active Owl in wheel T, and the rounds that wait for a calendar go to it (R243, R517). -/
theorem runAct_owlTakeover_due {s : State} (due : standbyDue s = true) (runs : owlRuns s = true) :
    ∃ t, runAct .owlTakeover s = .next t ∧ SameMemory s t ∧ t.hub.rounds = s.hub.rounds ∧
      t.hub.owlStandby = false ∧ t.hub.owlActive = true ∧ t.hub.owlUp = true ∧ t.hub.heartbeat = s.now / 256 ∧ t.hub.formed = [] ∧
      (∀ e ∈ t.agenda, ∀ c ps, e.2 ≠ .calendarArrive c ∧ e.2 ≠ .planesSet ps) ∧
      (∀ r ∈ awaiting s, ∃ x ∈ t.hub.rows, x.round = r.round ∧ x.pkg = pkgNo s ∧ x.close = r.close ∧ x.start = s.now / 256 + 8) ∧
      ∀ x ∈ t.hub.rows, ∃ r ∈ awaiting s, x = ownRow s r (s.now / 256) := by
  have sent := sendRows_rowsSent (standbyActive s) s.wheel (awaiting s)
  have active : s.hub.owlActive = true := by
    rw [owlRuns_eq, Bool.and_eq_true] at runs
    exact runs.1
  have own : ∀ x ∈ (sendRows (standbyActive s) s.wheel (awaiting s)).hub.rows, ∃ r ∈ awaiting s, x = ownRow s r (s.now / 256) :=
    fun x mem => (sendRows_own mem).resolve_left List.not_mem_nil
  refine ⟨_, owlTakeover_due due, sameMemory_of_planes sent.planes, by rw [sent.hub]; rfl, by rw [sent.hub]; rfl, by rw [sent.hub]; exact active,
    by rw [sent.hub]; rfl, by rw [sent.hub]; rfl, by rw [sent.hub]; rfl, fun e he c ps => ?_, fun r mem => ?_, own⟩
  · rcases sent.acts e he with old | ⟨n, new⟩
    · exact standbyActive_acts old c ps
    · rw [new]
      exact ⟨nofun, nofun⟩
  · obtain ⟨x, listed, round, pkg, close⟩ := sendRows_rowSent ((standbyActive_runs s).trans runs) s.wheel mem
    obtain ⟨q, -, rfl⟩ := own x listed
    exact ⟨_, listed, round, rfl, close, rfl⟩

/-- Settles O51: posts, the row's way to Owl and the capacity handles, grants and calendars, and the failover, each by its own lemma. -/
theorem exchangePostsAndGrants : Obligations.ExchangePostsAndGrants := by
  unfold Obligations.ExchangePostsAndGrants
  refine ⟨⟨fun s p => ⟨postArrive_late, exec_postArrive_refuses s p, exec_postArrive_counts s p⟩,
      fun s n => ⟨exec_roundClose_sends s n, exec_roundClose_sent s n, exec_roundClose_uncounted s n, exec_roundClose_silent s n⟩,
      fun s n => ⟨capacityPostTimeout_none, exec_capacityPostTimeout_ends s n⟩⟩,
    ⟨grantColumn_grants, fun len => ⟨rfl, fun gap => rfl⟩, fun s n rows => ⟨owlCalendar_idle, fun lead rest all runs up =>
      ⟨exec_owlCalendar_late all runs up, exec_owlCalendar_early all runs up, exec_owlCalendar_forms all runs up⟩⟩⟩,
    exec_owlHeartbeat, owlRuns_eq, fun s => ⟨fun may => exec_owlFailover_begins ((standbyDue_iff s).mpr may),
      fun early => owlFailover_stays fun due => early ((standbyDue_iff s).mp due)⟩,
    fun s runs standby quiet => runAct_owlTakeover_due ((standbyDue_iff s).mpr ⟨runs, standby, quiet⟩) runs⟩

end Sys2Proof.Claims
end

section
/-! Registers under the jay's logs, and what the dispatcher's next look at a partition brings to the agenda (R253, R259, R285). -/

namespace Sys2Proof.Machine

/-! ## A field that overflows -/

/-- A field holds the low bits of what is written to it. -/
theorem fld_setFld_mod (w : Word) {hi lo : Nat} (v : Nat) (hl : lo ≤ hi) (h : hi < 64) :
    fld (setFld w hi lo v) hi lo = v % 2 ^ (hi + 1 - lo) := by
  refine Nat.eq_of_testBit_eq fun i => ?_
  rw [fld, Nat.testBit_mod_two_pow, Nat.testBit_mod_two_pow, Nat.testBit_div_two_pow, BitVec.testBit_toNat, getLsbD_setFld w v hl h]
  by_cases inside : i < hi + 1 - lo
  · rw [if_pos (by omega)]
    simp
  · simp [inside]

/-! ## Registers under a log of the jay (R285) -/

/-- A ring's append puts no register at or below the ring's own. -/
theorem hubGet_ringAppend_below (s : State) {a r : Nat} (ws : List Word) (h : a ≤ r) : hubGet (ringAppend s r ws).1 a = hubGet s a := by
  obtain ⟨u, b, v, put, place, hub, -⟩ := ringAppend_cases s r ws
  rw [put, hubGet_hubPut_other u v (by omega), hubGet_congr (congrArg Hub.regs hub)]

/-- Time goes on from where it was, and every register below the jays' is as before. -/
structure BelowJays (s t : State) : Prop where
  now : t.now = s.now
  regs : ∀ a < rJay 0 0, hubGet t a = hubGet s a

theorem BelowJays.refl (s : State) : BelowJays s s := ⟨rfl, fun _ _ => rfl⟩

theorem BelowJays.trans {s t u : State} (h : BelowJays s t) (g : BelowJays t u) : BelowJays s u :=
  ⟨g.now.trans h.now, fun a below => (g.regs a below).trans (h.regs a below)⟩

theorem jayLog_belowJays (s : State) (p kind len : Nat) (target : Word) (payload : List Word) :
    BelowJays s (jayLog s p kind len target payload) := by
  refine ⟨(jayLog_aside s p kind len target payload).now, fun a below => ?_⟩
  have own : a ≤ rJay p 0 := by simp only [rJay] at below ⊢; omega
  unfold jayLog
  dsimp only
  split
  · rfl
  · split
    · exact hubGet_ringAppend_below s _ own
    · exact (hubGet_congr rfl a).trans (hubGet_ringAppend_below s _ own)

/-! ## What the dispatcher reads -/

theorem rQueue_lt_rJay {n : Nat} (h : n < 4096) {i : Nat} (hi : i < 12) : rQueue n i < rJay 0 0 := by
  simp only [rQueue, rJay]; omega

/-- The partitions of a function are read from PMASK and the partitions' first words. -/
theorem fnParts_congr {s t : State} {f : Nat} (mask : hubGet t (rFunc f 0) = hubGet s (rFunc f 0))
    (valid : ∀ p < 16, hubGet t (rPart p 0) = hubGet s (rPart p 0)) : fnParts t f = fnParts s f :=
  List.filter_congr fun p _ => by rw [fnMask, fnMask, partValid, partValid, mask, valid p p.isLt]

theorem partClusters_congr {s t : State} {p : Nat} (words : ∀ i < 12, hubGet t (rPart p (1 + i)) = hubGet s (rPart p (1 + i))) :
    partClusters t p = partClusters s p :=
  List.filter_congr fun c listed => by
    have : c < 768 := List.mem_range.mp listed
    rw [words (c / 64) (by omega)]

theorem partDies_congr {s t : State} {p : Nat} (words : ∀ i < 12, hubGet t (rPart p (1 + i)) = hubGet s (rPart p (1 + i))) :
    partDies t p = partDies s p := by rw [partDies, partDies, partClusters_congr words]

/-! ## Acts a fold brings -/

/-- What stands in the agenda stays there when every step keeps it. -/
theorem foldl_mem_agenda {α : Type} {e : Nat × Act} {f : State → α → State} (keeps : ∀ t a, e ∈ t.agenda → e ∈ (f t a).agenda) (xs : List α)
    {s : State} (h : e ∈ s.agenda) : e ∈ (xs.foldl f s).agenda :=
  foldl_rel (R := fun t u : State => e ∈ t.agenda → e ∈ u.agenda) (fun _ => id) (fun g h => h ∘ g) keeps xs s h

/-- An act that the step at one element brings, and that no step takes away, stands in the agenda after the fold. -/
theorem foldl_brings {α : Type} {R : State → Prop} {e : Nat × Act} {f : State → α → State} (stays : ∀ t a, R t → R (f t a))
    (keeps : ∀ t a, e ∈ t.agenda → e ∈ (f t a).agenda) {xs : List α} {x : α} (listed : x ∈ xs) (brings : ∀ t, R t → e ∈ (f t x).agenda)
    {s : State} (start : R s) : e ∈ (xs.foldl f s).agenda := by
  induction xs generalizing s with
  | nil => cases listed
  | cons y ys ih =>
    rcases List.mem_cons.mp listed with rfl | later
    · exact foldl_mem_agenda keeps ys (brings s start)
    · exact ih later (stays s y start)

theorem planDispatch_agendaOnly (s : State) (p : Fin 16) (t : Nat) : AgendaOnly s (planDispatch s p t) :=
  foldl_rel (R := AgendaOnly) (fun _ => rfl) AgendaOnly.trans (fun u _ => u.atOnce_agendaOnly _ _) _ s

theorem planDispatch_keeps {s : State} {e : Nat × Act} (p : Fin 16) (t : Nat) (h : e ∈ s.agenda) : e ∈ (planDispatch s p t).agenda :=
  foldl_mem_agenda (f := fun u d => u.atOnce t (.dispatchGang p (fin8 d))) (fun _ _ => State.atOnce_keeps _ _) _ h

/-- Each die of the partition has its turn at that wheel (R253). -/
theorem mem_planDispatch {s : State} {p : Fin 16} {d : Nat} (h : d ∈ partDies s p.val) (t : Nat) :
    (t, Act.dispatchGang p (fin8 d)) ∈ (planDispatch s p t).agenda :=
  foldl_brings (R := fun _ => True) (f := fun u d => u.atOnce t (.dispatchGang p (fin8 d))) (fun _ _ _ => trivial)
    (fun _ _ => State.atOnce_keeps _ _) h (fun u _ => State.mem_atOnce u _ _) trivial

end Sys2Proof.Machine
end

section
/-! Doorbells and launches: TAIL moves, the new records wait for the launch wheel, and the dies look at their partitions then (R250, R259, R275, R276,
R411, R542, R544). -/

open Sys2Proof.Claims

namespace Sys2Proof.Machine

/-! ## An advance of TAIL (R259) -/

theorem launchWheel_congr {s t : State} (h : t.now = s.now) : launchWheel t = launchWheel s := by rw [launchWheel, launchWheel, h]

theorem launchWheel_spec (s : State) : s.now + 256 ≤ launchWheel s ∧ launchWheel s < s.now + 512 ∧ launchWheel s % 256 = 128 := by
  unfold launchWheel; omega

/-- The records up to TAIL that an advance by n adds, with the wheel before which none of them starts. -/
def advanceNoted (s : State) (q n : Nat) : State :=
  s.withHub fun h => { h with
    enq := (h.enq.filter fun x => decide (s.now < x.2.2.2)) ++ [(BitVec.ofNat 12 q, (qTail s q + 2 ^ 32 - n) % 2 ^ 32, n, launchWheel s)] }

theorem enqueued_eq (s : State) (q n : Nat) :
    enqueued s q n = (fnParts s (qFunc s q)).foldl (fun s p => planDispatch s p (launchWheel s)) (advanceNoted s q n) := rfl

theorem enqueued_agendaOnly (s : State) (q n : Nat) : AgendaOnly (advanceNoted s q n) (enqueued s q n) :=
  foldl_rel (R := AgendaOnly) (fun _ => rfl) AgendaOnly.trans (fun u p => planDispatch_agendaOnly u p _) _ _

theorem hubGet_enqueued (s : State) (q n a : Nat) : hubGet (enqueued s q n) a = hubGet s a :=
  hubGet_congr (congrArg Hub.regs (enqueued_agendaOnly s q n).hub) a

theorem enqueued_sameMemory (s : State) (q n : Nat) : SameMemory s (enqueued s q n) :=
  (sameMemory_of (t := advanceNoted s q n) rfl rfl rfl rfl).trans (AgendaOnly.sameMemory (enqueued_agendaOnly s q n))

/-- The dies of the function's partitions look at them in the launch wheel. -/
theorem enqueued_plans {s : State} {q : Nat} {p : Fin 16} (n : Nat) (mine : p ∈ fnParts s (qFunc s q)) {d : Nat} (die : d ∈ partDies s p.val) :
    (launchWheel s, Act.dispatchGang p (fin8 d)) ∈ (enqueued s q n).agenda := by
  refine foldl_brings (R := AgendaOnly (advanceNoted s q n)) (fun t r h => h.trans (planDispatch_agendaOnly t r _))
    (fun t r => planDispatch_keeps r _) mine (fun t h => ?_) rfl
  have wheel : launchWheel t = launchWheel s := launchWheel_congr (by rw [h]; rfl)
  have dies : partDies t p.val = partDies s p.val :=
    partDies_congr fun i _ => hubGet_congr (congrArg Hub.regs h.hub) _
  rw [← wheel]
  exact mem_planDispatch (by rwa [dies]) _

/-- None of the new records starts before the launch wheel. -/
theorem enqueued_tooEarly (s : State) {q n i : Nat} (hq : q < 4096) (hn : n < 2 ^ 32) (hi : i < n) :
    tooEarly (enqueued s q n) q (((qTail s q + 2 ^ 32 - n) % 2 ^ 32 + i) % 2 ^ 32) = true := by
  have ahead : s.now < launchWheel s := by have := (launchWheel_spec s).1; omega
  have number : (BitVec.ofNat 12 q).toNat = q := by rw [BitVec.toNat_ofNat, Nat.mod_eq_of_lt (by omega)]
  rw [tooEarly, enqueued_agendaOnly s q n, List.any_eq_true]
  refine ⟨_, List.mem_append_right _ List.mem_cons_self, ?_⟩
  simp only [Bool.and_eq_true, decide_eq_true_eq, number]
  refine ⟨⟨trivial, by omega⟩, ahead⟩

/-! ## The host's doorbell (R276) -/

/-- TAIL as the doorbell writes it, with the jays' records of the write (R285). -/
def doorbellLogged (s : State) (q : BitVec 12) (tail : BitVec 32) : State :=
  let t := hubPut s (rQueue q.toNat 1) (setFld (hubGet s (rQueue q.toNat 1)) 31 0 tail.toNat)
  (fnParts t (qFunc t q.toNat)).foldl
    (fun s p => jayLog s p.val 1 8 (word (Config.hubBase + rQueue q.toNat 1)) [tail.zeroExtend 64]) t

/-- Records by which a doorbell moves TAIL. -/
def doorbellStep (s : State) (q : BitVec 12) (tail : BitVec 32) : Nat := (tail.toNat + 2 ^ 32 - qTail s q.toNat) % 2 ^ 32

variable {s : State} {q : BitVec 12} {tail : BitVec 32}

theorem hostEnqueue_moves (room : qCount s q.toNat + doorbellStep s q tail ≤ qSize s q.toNat) :
    hostEnqueue s q tail = if doorbellStep s q tail = 0 then doorbellLogged s q tail
      else enqueued (doorbellLogged s q tail) q.toNat (doorbellStep s q tail) := if_pos room

theorem hostEnqueue_stays (full : qSize s q.toNat < qCount s q.toNat + doorbellStep s q tail) : hostEnqueue s q tail = s :=
  if_neg (Nat.not_le.mpr full)

variable (s q tail)

/-- Below the jays the doorbell writes TAIL alone. -/
theorem doorbellLogged_belowJays :
    BelowJays (hubPut s (rQueue q.toNat 1) (setFld (hubGet s (rQueue q.toNat 1)) 31 0 tail.toNat)) (doorbellLogged s q tail) :=
  foldl_rel BelowJays.refl BelowJays.trans (fun t _ => jayLog_belowJays t _ _ _ _ _) _ _

theorem hubGet_doorbellLogged {a : Nat} (below : a < rJay 0 0) (other : a ≠ rQueue q.toNat 1) :
    hubGet (doorbellLogged s q tail) a = hubGet s a :=
  ((doorbellLogged_belowJays s q tail).regs a below).trans (hubGet_hubPut_other s _ other)

theorem doorbellLogged_word1 : hubGet (doorbellLogged s q tail) (rQueue q.toNat 1) = setFld (hubGet s (rQueue q.toNat 1)) 31 0 tail.toNat :=
  ((doorbellLogged_belowJays s q tail).regs _ (rQueue_lt_rJay q.isLt (by decide))).trans (hubGet_hubPut_same s _ _)

theorem doorbellLogged_tail : qTail (doorbellLogged s q tail) q.toNat = tail.toNat := by
  rw [qTail, qWord, doorbellLogged_word1]
  exact fld_setFld_same _ (by decide) (by decide) tail.isLt

theorem doorbellLogged_head : qHead (doorbellLogged s q tail) q.toNat = qHead s q.toNat := by
  rw [qHead, qHead, qWord, qWord, doorbellLogged_word1]
  exact fld_setFld_other _ _ (by decide) (by decide) (by decide)

theorem doorbellLogged_func : qFunc (doorbellLogged s q tail) q.toNat = qFunc s q.toNat := by
  rw [qFunc, qFunc, qWord, qWord, hubGet_doorbellLogged s q tail (rQueue_lt_rJay q.isLt (by decide)) (by simp only [rQueue]; omega)]

theorem doorbellLogged_parts : fnParts (doorbellLogged s q tail) (qFunc s q.toNat) = fnParts s (qFunc s q.toNat) := by
  have fn : qFunc s q.toNat < 32 := fld_lt _ 52 48
  exact fnParts_congr (hubGet_doorbellLogged s q tail (by simp only [rFunc, rJay]; omega) (by simp only [rFunc, rQueue]; omega))
    fun p hp => hubGet_doorbellLogged s q tail (by simp only [rPart, rJay]; omega) (by simp only [rPart, rQueue]; omega)

theorem doorbellLogged_dies (p : Fin 16) : partDies (doorbellLogged s q tail) p.val = partDies s p.val :=
  partDies_congr fun i hi => hubGet_doorbellLogged s q tail (by simp only [rPart, rJay]; omega) (by simp only [rPart, rQueue]; omega)

theorem doorbellLogged_wheel : launchWheel (doorbellLogged s q tail) = launchWheel s :=
  launchWheel_congr (doorbellLogged_belowJays s q tail).now

variable {s q tail}

/-- A doorbell with room moves TAIL; the dies of the function's partitions look at them in the launch wheel, and none of the records starts before. -/
theorem hostEnqueue_spec (room : qCount s q.toNat + doorbellStep s q tail ≤ qSize s q.toNat) :
    qTail (hostEnqueue s q tail) q.toNat = tail.toNat ∧ qHead (hostEnqueue s q tail) q.toNat = qHead s q.toNat ∧
      ∀ p ∈ fnParts s (qFunc s q.toNat), doorbellStep s q tail ≠ 0 →
        (∀ d ∈ partDies s p.val, (launchWheel s, Act.dispatchGang p (fin8 d)) ∈ (hostEnqueue s q tail).agenda) ∧
        ∀ i < doorbellStep s q tail, tooEarly (hostEnqueue s q tail) q.toNat ((qTail s q.toNat + i) % 2 ^ 32) = true := by
  have word1 : hubGet (hostEnqueue s q tail) (rQueue q.toNat 1) = hubGet (doorbellLogged s q tail) (rQueue q.toNat 1) := by
    rw [hostEnqueue_moves room]
    split
    · rfl
    · exact hubGet_enqueued _ _ _ _
  refine ⟨?_, ?_, fun p mine moved => ?_⟩
  · rw [← doorbellLogged_tail s q tail, qTail, qTail, qWord, qWord, word1]
  · rw [← doorbellLogged_head s q tail, qHead, qHead, qWord, qWord, word1]
  rw [hostEnqueue_moves room, if_neg moved]
  constructor
  · intro d die
    rw [← doorbellLogged_wheel s q tail]
    exact enqueued_plans _ (by rwa [doorbellLogged_func, doorbellLogged_parts]) (by rwa [doorbellLogged_dies])
  · intro i new
    have old : qTail s q.toNat < 2 ^ 32 := fld_lt _ 31 0
    have small : doorbellStep s q tail < 2 ^ 32 := Nat.mod_lt _ (by decide)
    have first : (tail.toNat + 2 ^ 32 - doorbellStep s q tail) % 2 ^ 32 = qTail s q.toNat := by
      have := tail.isLt
      unfold doorbellStep
      omega
    have early := enqueued_tooEarly (doorbellLogged s q tail) q.isLt small new
    rwa [doorbellLogged_tail, first] at early

end Sys2Proof.Machine
end

section
/-! What a doorbell and a launch answer (R250, R259, R275, R276, R411, R542, R544). -/

namespace Sys2Proof.Claims

open Sys2Proof.Machine

/-! ## Doorbells -/

section
variable {s : State} {q : BitVec 12} {tail : BitVec 32} {f : Fin 17}

theorem exec_enqueue_held (held : s.hub.resetting.any (·.1 = f) = true) : exec (.enqueue q tail f) s = .next s := if_pos held

theorem exec_enqueue_mine (free : s.hub.resetting.any (·.1 = f) = false) (mine : f.val = 16 ∨ qFunc s q.toNat = f.val) :
    exec (.enqueue q tail f) s = .next (liveEnqueue s q tail) := by
  show execEnqueue q tail f s = _
  rw [execEnqueue, if_neg (by rw [free]; decide), if_pos (by simpa using mine)]

theorem exec_enqueue_other (free : s.hub.resetting.any (·.1 = f) = false) (other : ¬ (f.val = 16 ∨ qFunc s q.toNat = f.val)) :
    exec (.enqueue q tail f) s = .next (discardVf s f (Config.hubBase + rQueue q.toNat 1)) := by
  show execEnqueue q tail f s = _
  rw [execEnqueue, if_neg (by rw [free]; decide), if_neg (by simpa using other)]

theorem liveEnqueue_live (live : (fnParts s (qFunc s q.toNat)).any (fun p => replays s p.val) = false) :
    liveEnqueue s q tail = hostEnqueue s q tail := if_neg (by rw [live]; decide)

theorem liveEnqueue_replays (replay : ¬ (fnParts s (qFunc s q.toNat)).any (fun p => replays s p.val) = false) :
    liveEnqueue s q tail = s := if_pos (by simpa using replay)

theorem liveEnqueue_full (full : qSize s q.toNat < qCount s q.toNat + doorbellStep s q tail) : liveEnqueue s q tail = s := by
  unfold liveEnqueue
  split
  · rfl
  · exact hostEnqueue_stays full

/-- A discarded doorbell changes VFWRITE and no TAIL (R275). -/
theorem discardVf_tail (s : State) (f : Fin 17) (pa : Nat) {n : Nat} (hn : n < 4096) : qTail (discardVf s f pa) n = qTail s n := by
  have word1 : hubGet (discardVf s f pa) (rQueue n 1) = hubGet s (rQueue n 1) := by
    unfold discardVf
    split
    · rfl
    · rw [hubGet_setFstat_other _ _ _ (by simp only [rQueue, rFstat]; omega),
        hubGet_errRecord_other _ _ _ _ _ _ _ _ _ (by simp only [rQueue, rErr]; omega)]
  exact congrArg (fld · 31 0) word1

theorem exec_enqueue_discards (free : s.hub.resetting.any (·.1 = f) = false) (other : ¬ (f.val = 16 ∨ qFunc s q.toNat = f.val)) :
    ∃ t, exec (.enqueue q tail f) s = .next t ∧ (hubGet t (rFstat f.val)).getLsbD fstatVfwrite = true ∧ qTail t q.toNat = qTail s q.toNat :=
  ⟨_, exec_enqueue_other free other,
    discardVf_sets _ fun w listed => by
      have := List.any_eq_false.mp free _ listed
      simp at this,
    discardVf_tail s f _ q.isLt⟩

end

/-! ## Launches (R411) -/

/-- The unit of the record's write is asked. -/
def launchAsked (s : State) (h : Fin 128) (q : BitVec 12) : State :=
  askLines { startEntry s h with ticket := s.ticket + 1 } s.ticket (some h) (qClass s q.toNat) true [qRecord s q.toNat (qTail s q.toNat)]

/-- The record in the ring. -/
def launchRecorded (s : State) (h : Fin 128) (q : BitVec 12) (job : Vector Word 8) : State :=
  putWords (launchAsked s h q) (qRecord s q.toNat (qTail s q.toNat)) job.toList

section
variable {s : State} {h : Fin 128} {q : BitVec 12} {job : Vector Word 8}

theorem exec_launchEnqueue_waits (busy : hbmBusy s h = true) :
    exec (.launchEnqueue h q job) s = .next (s.at (s.now + 1) (.launchEnqueue h q job)) := if_pos busy

theorem exec_launchEnqueue_reset (idle : hbmBusy s h = false) (held : s.hub.resetting.any (fun f => f.1.val = qFunc s q.toNat) = true) :
    exec (.launchEnqueue h q job) s = .next (completeAt (startEntry s h) (s.now + 1) h stCancelled) := by
  show execLaunchEnqueue h q job s = _
  rw [execLaunchEnqueue, if_neg (by rw [idle]; decide)]
  exact if_pos held

theorem exec_launchEnqueue_full (idle : hbmBusy s h = false) (free : s.hub.resetting.any (fun f => f.1.val = qFunc s q.toNat) = false)
    (full : qSize s q.toNat ≤ qCount s q.toNat) :
    exec (.launchEnqueue h q job) s = .next (completeAt (startEntry s h) (s.now + 1) h stPartial) := by
  show execLaunchEnqueue h q job s = _
  rw [execLaunchEnqueue, if_neg (by rw [idle]; decide)]
  exact (if_neg fun held => Bool.noConfusion (free.symm.trans held)).trans
    (if_neg (Nat.not_lt.mpr full))

theorem exec_launchEnqueue_room (idle : hbmBusy s h = false) (free : s.hub.resetting.any (fun f => f.1.val = qFunc s q.toNat) = false)
    (room : qCount s q.toNat < qSize s q.toNat) :
    exec (.launchEnqueue h q job) s = .next (completeAt (enqueued (hubPut (launchRecorded s h q job) (rQueue q.toNat 1)
      (setFld (hubGet (launchRecorded s h q job) (rQueue q.toNat 1)) 31 0 (qTail s q.toNat + 1))) q.toNat 1) (s.now + 1) h stDone) := by
  show execLaunchEnqueue h q job s = _
  rw [execLaunchEnqueue, if_neg (by rw [idle]; decide)]
  exact (if_neg fun held => Bool.noConfusion (free.symm.trans held)).trans (if_pos room)

variable (s h q job)

/-- What is left of the launch when nothing is written: its handle completes in the next cycle. -/
theorem launch_ends (st : Nat) : SameMemory s (completeAt (startEntry s h) (s.now + 1) h st) ∧
    (completeAt (startEntry s h) (s.now + 1) h st).hub = s.hub ∧
    (s.now + 1, Act.completion h ⟨BitVec.ofNat 8 st, 0, 0⟩) ∈ (completeAt (startEntry s h) (s.now + 1) h st).agenda :=
  ⟨sameMemory_of rfl rfl rfl rfl, rfl, State.mem_at _ _ _⟩

theorem launchAsked_planes : (launchAsked s h q).mem = s.mem ∧ (launchAsked s h q).tags = s.tags ∧ (launchAsked s h q).fe = s.fe := by
  have units : UnitsOnly _ (launchAsked s h q) := askLines_unitsOnly _ _ _ _ _ _
  rw [units]
  exact ⟨rfl, rfl, rfl⟩

theorem launchRecorded_hub : (launchRecorded s h q job).hub = s.hub :=
  (putWords_planes _ _ _).hub.trans (askLines_unitsOnly _ _ _ _ _ _).hub

variable {s} in
/-- The record lies at TAIL and nothing else of memory has changed. -/
theorem launchRecorded_memory (wf : Memory.wf s = true) (inHbm : qRecord s q.toNat (qTail s q.toNat) + 64 ≤ Config.sramBase) :
    (∀ i : Fin 8, wordAt (launchRecorded s h q job) (qRecord s q.toNat (qTail s q.toNat) + 8 * i.val) = job[i]) ∧
      ∀ a, (a < qRecord s q.toNat (qTail s q.toNat) ∨ qRecord s q.toNat (qTail s q.toNat) + 64 ≤ a) →
        dataAt (launchRecorded s h q job) a = dataAt s a := by
  obtain ⟨mem, tags, fe⟩ := launchAsked_planes s h q
  have asked : Memory.wf (launchAsked s h q) = true := wf_congr wf mem tags fe
  have plain : ∀ i < 8 * job.toList.length, PlainByte (qRecord s q.toNat (qTail s q.toNat) + i) := fun i hi =>
    plainByte_below (by rw [Vector.length_toList] at hi; omega)
  refine ⟨fun i => wordAt_putWords asked plain (by simp), fun a out => ?_⟩
  exact (dataAt_putWords_other asked plain (by simpa using out)).trans (dataAt_congr mem a)

variable {s h q job}

/-- A launch with room writes its record at TAIL, moves TAIL and completes (R411). -/
theorem exec_launchEnqueue_writes (idle : hbmBusy s h = false)
    (free : s.hub.resetting.any (fun f => f.1.val = qFunc s q.toNat) = false) (room : qCount s q.toNat < qSize s q.toNat)
    (wf : Memory.wf s = true) (inHbm : qRecord s q.toNat (qTail s q.toNat) + 64 ≤ Config.sramBase) :
    ∃ t, exec (.launchEnqueue h q job) s = .next t ∧ qTail t q.toNat = (qTail s q.toNat + 1) % 2 ^ 32 ∧ qHead t q.toNat = qHead s q.toNat ∧
      (∀ i : Fin 8, wordAt t (qRecord s q.toNat (qTail s q.toNat) + 8 * i.val) = job[i]) ∧
      (∀ a, (a < qRecord s q.toNat (qTail s q.toNat) ∨ qRecord s q.toNat (qTail s q.toNat) + 64 ≤ a) → dataAt t a = dataAt s a) ∧
      (s.now + 1, Act.completion h ⟨0, 0, 0⟩) ∈ t.agenda := by
  refine ⟨_, exec_launchEnqueue_room idle free room, ?_⟩
  generalize hr : launchRecorded s h q job = r
  generalize hv : setFld (hubGet r (rQueue q.toNat 1)) 31 0 (qTail s q.toNat + 1) = v
  have old : hubGet r (rQueue q.toNat 1) = hubGet s (rQueue q.toNat 1) :=
    hubGet_congr (by rw [← hr, launchRecorded_hub]) _
  have word1 : hubGet (enqueued (hubPut r (rQueue q.toNat 1) v) q.toNat 1) (rQueue q.toNat 1) = v :=
    (hubGet_enqueued _ _ _ _).trans (hubGet_hubPut_same _ _ _)
  have planes : SameMemory r (completeAt (enqueued (hubPut r (rQueue q.toNat 1) v) q.toNat 1) (s.now + 1) h stDone) :=
    ((RegsOnly.sameMemory (.hubPut r _ v)).trans (enqueued_sameMemory _ _ _)).trans (sameMemory_of rfl rfl rfl rfl)
  have mem : (enqueued (hubPut r (rQueue q.toNat 1) v) q.toNat 1).mem = r.mem := by
    rw [enqueued_agendaOnly]
    rfl
  obtain ⟨record, rest⟩ := launchRecorded_memory h q job wf inHbm
  rw [hr] at record rest
  refine ⟨?_, ?_, fun i => (planes.wordAt _).trans (record i), fun a out => (dataAt_congr mem a).trans (rest a out), State.mem_at _ _ _⟩
  · have tail := fld_setFld_mod (hubGet r (rQueue q.toNat 1)) (qTail s q.toNat + 1) (show 0 ≤ 31 by decide) (by decide)
    rw [hv] at tail
    exact (congrArg (fld · 31 0) word1).trans tail
  · have head := fld_setFld_other (hubGet r (rQueue q.toNat 1)) (qTail s q.toNat + 1) (show 0 ≤ 31 by decide) (by decide)
      (show 63 < 0 ∨ 31 < 32 by decide)
    rw [hv, old] at head
    exact (congrArg (fld · 63 32) word1).trans head

end

end Sys2Proof.Claims
end

section
/-! The dispatcher's choice and what starting a gang leaves (R253, R256-R259, R286). -/

open Sys2Proof.Claims

namespace Sys2Proof.Machine

/-! ## PASS (R253) -/

/-- Nothing but the agenda, PASS and the processes last chosen among differs. -/
def Choosing (s t : State) : Prop := t = { s with agenda := t.agenda, hub := { s.hub with pass := t.hub.pass, among := t.hub.among } }

theorem Choosing.trans {s t u : State} (h : Choosing s t) (g : Choosing t u) : Choosing s u := by
  unfold Choosing at *
  rw [g, h]

theorem AgendaOnly.choosing {s t : State} (h : AgendaOnly s t) : Choosing s t := by
  rw [h]
  rfl

section
variable {s t : State} (h : Choosing s t)
include h

theorem Choosing.now : t.now = s.now := by rw [h]
theorem Choosing.gangs : t.hub.gangs = s.hub.gangs := by rw [h]
theorem Choosing.parts : t.hub.parts = s.hub.parts := by rw [h]
theorem Choosing.gcore : t.core.gcore = s.core.gcore := by rw [h]
theorem Choosing.reg (a : Nat) : hubGet t a = hubGet s a := hubGet_congr (by rw [h]) a
theorem Choosing.sameMemory : SameMemory s t := by
  rw [h]
  exact sameMemory_of rfl rfl rfl rfl
theorem Choosing.fnWeight (f p : Nat) : fnWeight t f p = fnWeight s f p := by rw [Machine.fnWeight, Machine.fnWeight, h.reg]
theorem Choosing.qProc (q : Nat) : qProc t q = qProc s q := by rw [Machine.qProc, Machine.qProc, qWord, qWord, h.reg]
theorem Choosing.busyCores : busyCores t = busyCores s := by
  rw [h]
  rfl
theorem Choosing.partCores (p : Nat) : partCores t p = partCores s p := by
  rw [Machine.partCores, Machine.partCores, partClusters_congr fun i _ => h.reg _]
theorem Choosing.placeJob (p d : Nat) (job : Job) : placeJob t p d job = placeJob s p d job := by
  rw [Machine.placeJob, Machine.placeJob, h.partCores, h.busyCores]

end

/-- Is it the PASS of that process of the function? -/
def passEntry (f p : Nat) (x : (Fin 17 × Fin 16) × Nat) : Bool := decide (x.1.1.val = f) && decide (x.1.2.val = p)

section
variable (s : State) (f p n : Nat)

theorem setPass_choosing : Choosing s (setPass s f p n) := rfl

variable {f p}

theorem passOf_setPass_same (hf : f < 17) (hp : p < 16) : passOf (setPass s f p n) f p = n := by
  have key : passEntry f p ((fin17 f, fin16 p), n) = true := by
    simp [passEntry, fin17, fin16, Nat.mod_eq_of_lt hf, Nat.mod_eq_of_lt hp]
  exact congrArg (fun x => (x.map (·.2)).getD 0)
    (find_replace_same (r := fun x => !passEntry f p x) s.hub.pass key fun x => Bool.not_eq_true' _ |>.mp)

theorem passOf_setPass_other {r : Nat} (hp : p < 16) (ne : r ≠ p) : passOf (setPass s f p n) f r = passOf s f r := by
  have key : passEntry f r ((fin17 f, fin16 p), n) = false := by
    simp [passEntry, fin16, Nat.mod_eq_of_lt hp, ne.symm]
  refine congrArg (fun x => (x.map (·.2)).getD 0) (find_replace_other (r := fun x => !passEntry f p x) s.hub.pass key fun x own => ?_)
  simp only [passEntry, Bool.and_eq_true, decide_eq_true_eq] at own
  simp [passEntry, own.2, ne]

end

theorem joinProcs_choosing (s : State) (part f : Nat) (ps : List Nat) : Choosing s (joinProcs s part f ps) :=
  Choosing.trans (foldl_rel (R := Choosing) (fun _ => rfl) Choosing.trans (fun t p => setPass_choosing t f p _) _ s) rfl

/-- A process that was among those chosen from keeps its PASS when others join. -/
theorem passOf_joinProcs {s : State} {part f r : Nat} {ps : List Nat} (small : ∀ p ∈ ps, p < 16)
    (member : (fin16 part, fin17 f, fin16 r) ∈ s.hub.among) : passOf (joinProcs s part f ps) f r = passOf s f r := by
  unfold joinProcs
  extract_lets was old low joined
  show passOf joined f r = _
  refine List.foldlRecOn (motive := fun t => passOf t f r = passOf s f r) _ _ rfl fun t same p listed => ?_
  obtain ⟨mem, joins⟩ := List.mem_filter.mp listed
  have ne : r ≠ p := by
    rintro rfl
    simp [was, member] at joins
  rw [passOf_setPass_other t _ (small p mem) ne, same]

/-! ## The choice (R253) -/

theorem choose_nil (s : State) (f : Nat) : choose s f [] = none := by
  have procs : ((List.range 16).filter fun p => decide (0 < fnWeight s f p) && ([] : List Cand).any fun c => decide (qProc s c.queue = p)) = [] :=
    List.filter_eq_nil_iff.mpr fun p _ => by rw [List.any_nil, Bool.and_false]; decide
  rw [choose, procs]
  rfl

/-- A candidate alone is chosen when its process is scheduled. -/
theorem choose_single {s : State} {f : Nat} {c : Cand} (weight : 0 < fnWeight s f (qProc s c.queue)) : choose s f [c] = some c := by
  have small : qProc s c.queue < 16 := fld_lt _ 56 53
  have procs : ((List.range 16).filter fun p => decide (0 < fnWeight s f p) && [c].any fun c => decide (qProc s c.queue = p)) =
      [qProc s c.queue] := by
    rw [List.filter_congr (q := (· == qProc s c.queue)) fun p _ => ?_, List.filter_beq,
      List.count_eq_one_of_mem List.nodup_range (List.mem_range.mpr small)]
    · rfl
    · by_cases own : qProc s c.queue = p
      · subst own
        simp [weight]
      · simp [own, Ne.symm own]
  rw [choose, procs]
  show leastBy _ ([c].filter fun x => decide (qProc s x.queue = qProc s c.queue)) = some c
  rw [List.filter_cons, if_pos (decide_eq_true rfl), List.filter_nil]
  rfl

theorem readyProcs_lt {s : State} {p f r : Nat} (h : r ∈ readyProcs s p f) : r < 16 := List.mem_range.mp (List.mem_filter.mp h).1

/-! ## A gang starts (R257, R259) -/

/-- The first slot of a die wheel from a time on. -/
theorem dieWheelFrom_spec (t : Nat) : t ≤ dieWheelFrom t ∧ dieWheelFrom t % 256 = 128 := by
  unfold dieWheelFrom
  omega

section
variable (s : State) (p : Fin 16) (f : Fin 17) (d : Nat) (c : Cand) (cores : List Nat)

/-- The gang as it runs. -/
def startedGang : GangRun :=
  ⟨p, f, BitVec.ofNat 12 c.queue, c.index, c.gang, cores, cores.contains s.core.gcore, cores.any (· != s.core.gcore)⟩

theorem startGang_leaves : (startGang s p f d c cores).hub.gangs = s.hub.gangs ++ [startedGang s p f c cores] ∧
    (startGang s p f d c cores).hub.pass = s.hub.pass ∧ (startGang s p f d c cores).hub.regs = s.hub.regs ∧
    SameMemory s (startGang s p f d c cores) := by
  unfold startGang
  dsimp only
  split <;> exact ⟨rfl, rfl, rfl, sameMemory_of rfl rfl rfl rfl⟩

/-- Its cells start in the first slot of a die wheel. -/
theorem startGang_starts : ∃ n, s.now ≤ n ∧ n % 256 = 128 ∧
    (n, Act.gangStart ⟨c.job, f, p, BitVec.ofNat 12 c.queue, c.gang, cores, dieWheel n⟩) ∈ (startGang s p f d c cores).agenda := by
  obtain ⟨after, slot⟩ := dieWheelFrom_spec (s.now + setupTime (takeGang s p d (BitVec.ofNat 12 c.queue)) f c.queue c.job cores)
  refine ⟨_, by omega, slot, ?_⟩
  unfold startGang
  extract_lets q taken t g own started mine removed waiting
  have now : waiting.now = s.now := by
    simp only [waiting]
    split <;> rfl
  have first : max t waiting.now = t := Nat.max_eq_left (now ▸ Nat.le_trans (Nat.le_add_right _ _) after)
  rw [first]
  exact State.mem_at _ _ _

end

/-! ## A die's turn (R253) -/

/-- Candidate c stands alone in die d's table, its process is scheduled and was so before, and there is a place for the gang. -/
structure SoleChoice (s : State) (p : Fin 16) (f : Fin 17) (d : Nat) (c : Cand) (cores : List Nat) : Prop where
  free : (s.hub.parts[p]).pinned = none
  head : headsOf s p.val f.val d = [c]
  weight : 0 < fnWeight s f.val (qProc s c.queue)
  place : placeJob s p.val d c.job = some cores
  member : (fin16 p.val, f, fin16 (qProc s c.queue)) ∈ s.hub.among

/-- The pin is asked for in this cycle when 64 wheels have not placed a gang. -/
def pinAsked (s : State) (p : Fin 16) : State := if (stuckTry s.hub.parts[p]).isSome then s.at s.now (.gangPinned p) else s

theorem pinAsked_choosing (s : State) (p : Fin 16) : Choosing s (pinAsked s p) := by
  unfold pinAsked
  split <;> rfl

section
variable {s : State} {p : Fin 16} {f : Fin 17} {d : Nat}

theorem unpinned_free {x : PartRun} (free : x.pinned = none) (cs : List Cand) : unpinned x cs = cs := by
  unfold unpinned
  simp only [free, List.filter_true]

theorem fin17_val (f : Fin 17) : fin17 f.val = f := Fin.ext (Nat.mod_eq_of_lt f.isLt)

/-- With nothing to choose from, a die's turn notes who is ready and starts nothing. -/
theorem dispatchDie_nothing (none_ : unpinned s.hub.parts[p] (headsOf s p.val f.val d) = []) :
    dispatchDie s p f d = pinAsked (joinProcs s p.val f.val (readyProcs s p.val f.val)) p := by
  simp only [dispatchDie, none_, choose_nil, List.filter_nil, List.foldl_nil]
  rfl

/-- The sole candidate is placed, and the PASS of its process advances. -/
theorem dispatchDie_sole {c : Cand} {cores : List Nat} (h : SoleChoice s p f d c cores) :
    dispatchDie s p f d = advancePass (startGang (pinAsked (joinProcs s p.val f.val (readyProcs s p.val f.val)) p) p f d c cores) f.val c := by
  have sole : unpinned s.hub.parts[p] (headsOf s p.val f.val d) = [c] := by rw [h.head, unpinned_free h.free]
  have chosen {t : State} (ht : Choosing s t) : choose t f.val [c] = some c :=
    choose_single (by rw [ht.qProc, ht.fnWeight]; exact h.weight)
  have fit {t : State} (ht : Choosing s t) : fits t p.val d c = true := by rw [fits, ht.placeJob, h.place]; rfl
  have joins := joinProcs_choosing s p.val f.val (readyProcs s p.val f.val)
  have asks := joins.trans (pinAsked_choosing _ p)
  unfold dispatchDie
  simp only [sole, chosen joins, fit joins, if_true, List.filter_cons, Bool.not_true, Bool.and_false, Bool.false_eq_true, if_false,
    List.filter_nil, List.foldl_nil]
  rw [show (if (stuckTry (joinProcs s p.val f.val (readyProcs s p.val f.val)).hub.parts[p]).isSome = true then _ else _) =
    pinAsked (joinProcs s p.val f.val (readyProcs s p.val f.val)) p from rfl]
  simp only [fit asks, if_true, chosen asks, asks.placeJob, h.place]

end

/-! ## The pinned gang and tries (R258) -/

theorem modPart_same (s : State) (p : Fin 16) (f : PartRun → PartRun) : (modPart s p f).hub.parts[p] = f s.hub.parts[p] := by
  simp [modPart]

theorem stuckTry_none {x : PartRun} (h : x.pinned.isSome = true ∨ ∀ y ∈ x.tries, y.count < 64) : stuckTry x = none := by
  unfold stuckTry
  split
  · rfl
  · exact List.find?_eq_none.mpr fun y listed => by simpa using h.resolve_left ‹_› y listed

theorem noteTry_single {s : State} {p : Fin 16} {c : Cand} {y : Try} (tries : (s.hub.parts[p]).tries = [y]) (own : y.isOf c = true) :
    ((noteTry s p c).hub.parts[p]).tries =
      [if y.last = dieWheel s.now then y else { y with count := y.count + 1, last := dieWheel s.now }] := by
  unfold noteTry
  simp only [tries, List.find?_cons, own]
  split
  next counted => exact tries
  next =>
    rw [modPart_same]
    show List.map _ (s.hub.parts[p]).tries = _
    rw [tries]
    simp

/-! ## Stealing (R256, R286) -/

section
variable {s : State} {p : Fin 16} {d : Nat}

theorem steal_exact (exact_ : partExact s p.val = true) : steal s p d = s := by simp [steal, exact_]

theorem steal_outside (out : d ∉ partDies s p.val) : steal s p d = s := by simp [steal, out]

/-- The only range, of another die, is the largest one; a single gang is not split. -/
theorem stealFrom_single {v : Dep} (only : s.hub.deps = [v]) (part : v.part = p) (die : v.die ≠ d) :
    stealFrom s p d = if 2 ≤ v.hi - v.lo then some v else none := by
  simp [stealFrom, only, part, die, leastBy]

theorem steal_single {v : Dep} (shared : partExact s p.val = false) (here : d ∈ partDies s p.val) (only : s.hub.deps = [v])
    (part : v.part = p) (die : v.die ≠ d) :
    steal s p d = if 2 ≤ v.hi - v.lo then s.withHub fun h => { h with
      deps := [{ v with hi := v.hi - (v.hi - v.lo) / 2 }, { v with die := d, lo := v.hi - (v.hi - v.lo) / 2 }] } else s := by
  have idle : ((partDies s p.val).contains d && !s.hub.deps.any fun x => x.die = d && decide (x.lo < x.hi)) = true := by
    simp [here, only, die]
  unfold steal
  dsimp only
  rw [idle, shared, stealFrom_single only part die]
  simp only [Bool.not_true, Bool.or_false, Bool.false_eq_true, if_false]
  by_cases splits : 2 ≤ v.hi - v.lo
  · simp [splits, only]
  · simp [splits]

end

end Sys2Proof.Machine
end

section
/-! What a die's turn, a pin and a steal answer (R253, R256-R259, R286). -/

namespace Sys2Proof.Claims

open Sys2Proof.Machine

/-! ## A die's turn -/

/-- What the die's turn does when it does not begin the partition's wheel. -/
def turnTaken (s : State) (p : Fin 16) (d : Fin 8) : State :=
  match (s.hub.parts[p]).func, (s.hub.parts[p]).drainFrom with
  | some f, none => if fnHeld s f then s else dispatchDie s p f d.val
  | _, _ => s

/-- The die looks again at its next wheel while the partition has work. -/
def lookAgain (t : State) (p : Fin 16) (d : Fin 8) : State :=
  if partWork t p then t.atOnce t.nextDieWheel (.dispatchGang p d) else t

theorem lookAgain_agendaOnly (t : State) (p : Fin 16) (d : Fin 8) : AgendaOnly t (lookAgain t p d) := by
  unfold lookAgain
  split
  · exact t.atOnce_agendaOnly _ _
  · rfl

theorem lookAgain_keeps {t : State} {e : Nat × Act} (p : Fin 16) (d : Fin 8) (h : e ∈ t.agenda) : e ∈ (lookAgain t p d).agenda := by
  unfold lookAgain
  split
  · exact State.atOnce_keeps _ _ h
  · exact h

section
variable {s : State} {p : Fin 16} {d : Fin 8}

theorem exec_dispatchGang_invalid (invalid : partValid s p.val = false) : exec (.dispatchGang p d) s = .next s :=
  if_pos (by rw [invalid]; rfl)

theorem exec_dispatchGang_turn (valid : partValid s p.val = true) (later : (partDies s p.val).headD 0 ≠ d.val) :
    exec (.dispatchGang p d) s = .next (lookAgain (turnTaken s p d) p d) := by
  show execDispatchGang p d s = _
  rw [execDispatchGang, if_neg (by rw [valid]; decide)]
  simp only [if_neg later]
  rfl

theorem turnTaken_idle (idle : (s.hub.parts[p]).func = none ∨ (s.hub.parts[p]).drainFrom.isSome = true) : turnTaken s p d = s := by
  unfold turnTaken
  split
  next runs stays =>
    rw [runs, stays] at idle
    simp at idle
  next => rfl

variable {f : Fin 17}

theorem turnTaken_serves (runs : (s.hub.parts[p]).func = some f) (stays : (s.hub.parts[p]).drainFrom = none) :
    turnTaken s p d = if fnHeld s f then s else dispatchDie s p f d.val := by
  simp only [turnTaken, runs, stays]

/-- While a gang is pinned that is not the die's, the die starts none (R258). -/
theorem turnTaken_pinned {x : BitVec 12 × Nat × Nat} (runs : (s.hub.parts[p]).func = some f) (stays : (s.hub.parts[p]).drainFrom = none)
    (pin : (s.hub.parts[p]).pinned = some x)
    (other : ∀ c ∈ headsOf s p.val f.val d.val, (BitVec.ofNat 12 c.queue, c.index, c.gang) ≠ x) : Choosing s (turnTaken s p d) := by
  have nothing : unpinned s.hub.parts[p] (headsOf s p.val f.val d.val) = [] := by
    unfold unpinned
    simp only [pin]
    exact List.filter_eq_nil_iff.mpr fun c listed => by simpa using other c listed
  rw [turnTaken_serves runs stays]
  split
  · rfl
  · rw [dispatchDie_nothing nothing]
    exact (joinProcs_choosing _ _ _ _).trans (pinAsked_choosing _ _)

/-- The gang a die starts, its first slot, and the PASS of its process (R253, R257, R259). -/
theorem turnTaken_sole {c : Cand} {cores : List Nat} (runs : (s.hub.parts[p]).func = some f) (stays : (s.hub.parts[p]).drainFrom = none)
    (free : fnHeld s f = false) (h : SoleChoice s p f d.val c cores) :
    ∃ n, SameMemory s (turnTaken s p d) ∧ (turnTaken s p d).hub.gangs = s.hub.gangs ++ [startedGang s p f c cores] ∧
      s.now ≤ n ∧ n % 256 = 128 ∧
      (n, Act.gangStart ⟨c.job, f, p, BitVec.ofNat 12 c.queue, c.gang, cores, dieWheel n⟩) ∈ (turnTaken s p d).agenda ∧
      passOf (turnTaken s p d) f.val (qProc s c.queue) = passOf s f.val (qProc s c.queue) +
        (65536 + max 1 (fnWeight s f.val (qProc s c.queue)) - 1) / max 1 (fnWeight s f.val (qProc s c.queue)) * c.job.cells := by
  rw [turnTaken_serves runs stays, if_neg (by rw [free]; decide), dispatchDie_sole h]
  have joins := joinProcs_choosing s p.val f.val (readyProcs s p.val f.val)
  have joined : passOf (joinProcs s p.val f.val (readyProcs s p.val f.val)) f.val (qProc s c.queue) = passOf s f.val (qProc s c.queue) :=
    passOf_joinProcs (fun r => readyProcs_lt) (by rw [fin17_val]; exact h.member)
  generalize joinProcs s p.val f.val (readyProcs s p.val f.val) = j at joins joined
  have asks := joins.trans (pinAsked_choosing j p)
  have asked : passOf (pinAsked j p) f.val (qProc s c.queue) = passOf s f.val (qProc s c.queue) := by
    rw [← joined]
    unfold pinAsked
    split <;> rfl
  generalize pinAsked j p = u at asks asked
  obtain ⟨gangs, pass, regs, memory⟩ := startGang_leaves u p f d.val c cores
  obtain ⟨n, after, slot, start⟩ := startGang_starts u p f d.val c cores
  generalize startGang u p f d.val c cores = v at gangs pass regs memory start
  have proc : qProc v c.queue = qProc s c.queue := by rw [← asks.qProc, qProc, qProc, qWord, qWord, hubGet_congr regs]
  have weight : fnWeight v f.val (qProc s c.queue) = fnWeight s f.val (qProc s c.queue) := by
    rw [← asks.fnWeight, fnWeight, fnWeight, hubGet_congr regs]
  have before : passOf v f.val (qProc s c.queue) = passOf s f.val (qProc s c.queue) := by rw [← asked, passOf, passOf, pass]
  refine ⟨n, (asks.sameMemory.trans memory).trans (sameMemory_of rfl rfl rfl rfl), ?_, asks.now ▸ after, slot, start, ?_⟩
  · show v.hub.gangs = _
    rw [gangs, asks.gangs, startedGang, startedGang, asks.gcore]
  · unfold advancePass
    dsimp only
    rw [proc, weight, before]
    exact passOf_setPass_same v _ f.isLt (fld_lt _ 56 53)

end

/-! ## Pins and steals -/

theorem exec_gangPinned_none {s : State} {p : Fin 16} (h : stuckTry s.hub.parts[p] = none) : exec (.gangPinned p) s = .next s := by
  show execGangPinned p s = _
  rw [execGangPinned, h]

theorem exec_gangPinned_some {s : State} {p : Fin 16} {y : Try} (free : (s.hub.parts[p]).pinned = none)
    (stuck : (s.hub.parts[p]).tries.find? (fun z => decide (64 ≤ z.count)) = some y) :
    ∃ t, exec (.gangPinned p) s = .next t ∧ SameMemory s t ∧ (t.hub.parts[p]).pinned = some (y.queue, y.index, y.gang) ∧
      t.hub.gangs = s.hub.gangs := by
  have tried : stuckTry s.hub.parts[p] = some y := by rw [stuckTry, free, if_neg (by decide), stuck]
  refine ⟨modPart s p fun x => { x with pinned := some (y.queue, y.index, y.gang) }, ?_, sameMemory_of rfl rfl rfl rfl, ?_, rfl⟩
  · show execGangPinned p s = _
    rw [execGangPinned, tried]
  · rw [modPart_same]

theorem exec_dieSteal (s : State) (p : Fin 16) (d : Fin 8) : exec (.dieSteal p d) s = .next (steal s p d.val) := rfl

theorem exec_dieSteal_single {s : State} {p : Fin 16} {d : Fin 8} {v : Dep} (shared : partExact s p.val = false)
    (here : d.val ∈ partDies s p.val) (only : s.hub.deps = [v]) (part : v.part = p) (die : v.die ≠ d.val) :
    (2 ≤ v.hi - v.lo → ∃ t, exec (.dieSteal p d) s = .next t ∧ SameMemory s t ∧
      t.hub.deps = [{ v with hi := v.hi - (v.hi - v.lo) / 2 }, { v with die := d.val, lo := v.hi - (v.hi - v.lo) / 2 }]) ∧
    (v.hi - v.lo < 2 → exec (.dieSteal p d) s = .next s) := by
  have taken := steal_single shared here only part die
  constructor
  · intro splits
    rw [if_pos splits] at taken
    exact ⟨_, (exec_dieSteal s p d).trans (congrArg _ taken), sameMemory_of rfl rfl rfl rfl, rfl⟩
  · intro short
    rw [if_neg (Nat.not_le.mpr short)] at taken
    exact (exec_dieSteal s p d).trans (congrArg _ taken)

/-! ## The claim -/

/-- Settles O6: the planes are empty at reset, and so in canonical form. -/
theorem resetMemoryIsCanonical : Obligations.ResetMemoryIsCanonical := by
  unfold Obligations.ResetMemoryIsCanonical
  exact (wf_iff _).mpr ⟨rfl, rfl, rfl⟩

/-- Settles O53: doorbells and launches, a die's turn, pins and tries, and steals, each by its own lemma. -/
theorem gangsAreEnqueuedAndPlaced : Obligations.GangsAreEnqueuedAndPlaced := by
  unfold Obligations.GangsAreEnqueuedAndPlaced
  refine ⟨⟨fun s q tail f => ⟨exec_enqueue_held, fun free mine replay => ?_, fun free mine live room => ?_, fun free mine full => ?_,
      exec_enqueue_discards⟩, launchWheel_spec, fun s h q job => ⟨exec_launchEnqueue_waits, fun idle held => ?_, fun idle free full => ?_,
      exec_launchEnqueue_writes⟩⟩,
    fun s p d => exec_dispatchGang_invalid, fun s p d valid later => ⟨fun idle => ?_, fun f x runs stays pin other => ?_,
      fun f c cores runs stays free held head weight place member => ?_⟩,
    fun s p => ⟨fun h => exec_gangPinned_none (stuckTry_none h), fun y => exec_gangPinned_some, fun c y => noteTry_single⟩,
    fun s p d => ⟨fun h => (exec_dieSteal s p d).trans (congrArg _ (steal_exact h)),
      fun h => (exec_dieSteal s p d).trans (congrArg _ (steal_outside h)), fun v => exec_dieSteal_single⟩⟩
  · rw [exec_enqueue_mine free mine, liveEnqueue_replays replay]
  · rw [exec_enqueue_mine free mine, liveEnqueue_live live]
    exact ⟨_, rfl, hostEnqueue_spec room⟩
  · rw [exec_enqueue_mine free mine, liveEnqueue_full full]
  · exact ⟨_, exec_launchEnqueue_reset idle held, launch_ends s h 3⟩
  · exact ⟨_, exec_launchEnqueue_full idle free full, launch_ends s h 1⟩
  · have only := lookAgain_agendaOnly s p d
    exact ⟨_, (exec_dispatchGang_turn valid later).trans (by rw [turnTaken_idle idle]), AgendaOnly.sameMemory only, only.hub, only.core⟩
  · have turn := turnTaken_pinned runs stays pin other
    have only := lookAgain_agendaOnly (turnTaken s p d) p d
    exact ⟨_, exec_dispatchGang_turn valid later, turn.sameMemory.trans (AgendaOnly.sameMemory only),
      (congrArg Hub.gangs only.hub).trans turn.gangs⟩
  · obtain ⟨n, memory, gangs, after, slot, start, pass⟩ := turnTaken_sole (d := d) runs stays held ⟨free, head, weight, place, member⟩
    have only := lookAgain_agendaOnly (turnTaken s p d) p d
    refine ⟨_, n, exec_dispatchGang_turn valid later, memory.trans (AgendaOnly.sameMemory only), (congrArg Hub.gangs only.hub).trans gangs,
      after, slot, lookAgain_keeps p d start, ?_⟩
    rw [passOf, only.hub]
    exact pass

end Sys2Proof.Claims
end

section
/-! What a package reset leaves (R273, R178, R554). -/

open Sys2Proof.Claims

namespace Sys2Proof.Machine

/-! ## A plane without some addresses -/

theorem cellGet_filter_above {d : BitVec 8} {lo : Nat} {m : List Host.Cell} (p : Nat → Bool) (h : cellsAbove d lo m = true) (a : Nat) :
    cellGet d (m.filter fun c => p c.1) a = if p a then cellGet d m a else d := by
  induction m generalizing lo with
  | nil => simp [cellGet]
  | cons c cs ih =>
    simp only [cellsAbove, Bool.and_eq_true, decide_eq_true_eq] at h
    obtain ⟨-, above⟩ := h
    have rest := ih above
    rw [List.filter_cons]
    rcases lt_trichotomy c.1 a with past | here | before
    · have skip (xs : List Host.Cell) : cellGet d (c :: xs) a = cellGet d xs a := by simp [cellGet, past.ne, past.le]
      rw [skip]
      split
      · exact (skip _).trans rest
      · exact rest
    · subst here
      rw [cellGet_head]
      split
      next kept => rw [cellGet_head]
      next gone => rw [rest, if_neg gone]
    · have under (xs : List Host.Cell) : cellGet d (c :: xs) a = d := by simp [cellGet, before.ne', before]
      rw [under, ite_self]
      split
      · exact under _
      · rw [rest, cellGet_below above (by omega), ite_self]

/-- An address kept reads as before, and one forgotten as an unlisted one. -/
theorem cellGet_filter {d : BitVec 8} {m : List Host.Cell} (p : Nat → Bool) (h : cellsWf d m = true) (a : Nat) :
    cellGet d (m.filter fun c => p c.1) a = if p a then cellGet d m a else d := cellGet_filter_above p h a

/-! ## The package's reset -/

/-- The machine as at reset, but for time, the core's number, the memory that outlives the reset, and what the outside has still to do. -/
def packageCleared (s : State) : State :=
  { State.reset with
    now := s.now
    fresh := s.fresh + 1
    ticket := s.ticket
    agenda := s.agenda.filter fun e => match e.2 with | .event _ => true | _ => false
    mem := s.mem.filter fun c => outlives c.1
    poison := s.poison.filter fun w => outlives (8 * w)
    core := { Core.reset with gcore := s.core.gcore } }

/-- MNET is laid and every pseudo-channel trains. -/
def packageTrained (s : State) : State :=
  let t := hubPut (packageCleared s) rMnet (mnetAfter s)
  { t with fresh := t.fresh + 512, agenda := t.agenda ++ trainings t.now t.fresh }

theorem resetPackage_eq (s : State) : resetPackage s = watchFrom (bootProah (packageTrained s)) s.wheel := rfl

/-- The watchdog's count changes nothing but the agenda and the wheel it counts from. -/
theorem watchFrom_leaves (s : State) (w : Nat) : (watchFrom s w).now = s.now ∧ (watchFrom s w).clu = s.clu ∧ (watchFrom s w).mem = s.mem := by
  unfold watchFrom
  dsimp only
  split <;> exact ⟨rfl, rfl, rfl⟩

/-- It takes no act away but the watchdog's own. -/
theorem watchFrom_keeps {s : State} {e : Nat × Act} (w : Nat) (h : e ∈ s.agenda) (other : e.2 ≠ .pwdogExpiry) : e ∈ (watchFrom s w).agenda := by
  have kept : e ∈ (dropActs s fun a => a = .pwdogExpiry).agenda := List.mem_filter.mpr ⟨h, by simp [other]⟩
  unfold watchFrom
  dsimp only
  split
  · exact kept
  · exact State.at_keeps _ _ kept

theorem bootProah_leaves (s : State) : (bootProah s).now = s.now ∧ (bootProah s).clu = s.clu ∧ (bootProah s).mem = s.mem ∧
    (bootProah s).agenda = s.agenda ∧ (bootProah s).hub.gangs = s.hub.gangs ∧ (bootProah s).hub.jobs = s.hub.jobs :=
  ⟨rfl, rfl, rfl, rfl, rfl, rfl⟩

/-- Training ends within 4,096 wheels (R554). -/
theorem mem_trainings (now fresh : Nat) (p : Fin 512) :
    ∃ n, now < n ∧ n ≤ now + 4096 * 256 ∧ (n, Act.pseudoChannelTrainingEnd p) ∈ trainings now fresh := by
  have free := Nat.mod_lt (Config.freeDelay (fresh + p.val)) (show 0 < 0xFFF80 by decide)
  exact ⟨now + 128 + Config.freeDelay (fresh + p.val) % 0xFFF80, by omega, by omega, List.mem_map.mpr ⟨p, List.mem_finRange p, rfl⟩⟩

theorem resetPackage_mnet (s : State) : fld (hubGet (resetPackage s) rMnet) 47 0 = fld (hubGet s rMnet) 47 0 := by
  have laid : hubGet (resetPackage s) rMnet = mnetAfter s := by
    rw [resetPackage_eq, hubGet_watchFrom, hubGet_bootProah_other _ (by decide)]
    exact (hubGet_congr rfl _).trans (hubGet_hubPut_same (packageCleared s) _ _)
  rw [laid]
  exact fld_setFld_other _ _ (by decide) (by decide) (by decide)

theorem resetPackage_syscfg (s : State) : hubGet (resetPackage s) rSyscfg = 0 := by
  rw [resetPackage_eq, hubGet_watchFrom, hubGet_bootProah_other _ (by decide)]
  exact (hubGet_hubPut_other (packageCleared s) _ (by decide)).trans rfl

theorem resetPackage_mem (s : State) : (resetPackage s).mem = s.mem.filter fun c => outlives c.1 := by
  rw [resetPackage_eq, (watchFrom_leaves _ _).2.2]
  rfl

end Sys2Proof.Machine

namespace Sys2Proof.Claims

open Sys2Proof.Machine

theorem dataAt_resetPackage {s : State} (wf : Memory.wf s = true) (pa : Nat) :
    dataAt (resetPackage s) pa = if outlives pa then dataAt s pa else 0 := by
  rw [dataAt, resetPackage_mem]
  exact cellGet_filter outlives ((wf_iff s).mp wf).1 pa

theorem exec_packageReset {s : State} (wf : Memory.wf s = true) :
    ∃ t, exec .packageReset s = .next t ∧ t.now = s.now ∧ t.core = { Core.reset with gcore := s.core.gcore } ∧
      t.clu = State.reset.clu ∧ t.hub.gangs = [] ∧ t.hub.jobs = [] ∧ hubGet t rSyscfg = 0 ∧
      fld (hubGet t rMnet) 47 0 = fld (hubGet s rMnet) 47 0 ∧
      (∀ pa, outlives pa = true → dataAt t pa = dataAt s pa) ∧ (∀ pa, outlives pa = false → dataAt t pa = 0) ∧
      ∀ p : Fin 512, ∃ n, s.now < n ∧ n ≤ s.now + 4096 * 256 ∧ (n, Act.pseudoChannelTrainingEnd p) ∈ t.agenda := by
  obtain ⟨now, clu, -⟩ := watchFrom_leaves (bootProah (packageTrained s)) s.wheel
  have hub := watchFrom_hub (bootProah (packageTrained s)) s.wheel
  refine ⟨resetPackage s, rfl, now, (watchFrom_core _ _).trans (bootProah_core _), clu, congrArg Hub.gangs hub, congrArg Hub.jobs hub,
    resetPackage_syscfg s, resetPackage_mnet s, fun pa kept => ?_, fun pa gone => ?_, fun p => ?_⟩
  · rw [dataAt_resetPackage wf, if_pos kept]
  · rw [dataAt_resetPackage wf, if_neg (by rw [gone]; decide)]
  · obtain ⟨n, after, within, training⟩ := mem_trainings s.now (s.fresh + 1) p
    exact ⟨n, after, within, watchFrom_keeps _ (List.mem_append_right _ training) nofun⟩

end Sys2Proof.Claims
end

section
/-! What leaves the list of functions in reset as it is: records, copies of granules, stores at their home, and the end of cells, gangs and jobs
(R74, R213, R502, R538, R542). -/

namespace Sys2Proof.Machine

/-- The functions in reset, with their wheels F, are the same. -/
def SameResets (s t : State) : Prop := t.hub.resetting = s.hub.resetting

namespace SameResets

variable {s t u : State}

theorem refl (s : State) : SameResets s s := rfl
theorem trans (h : SameResets s t) (g : SameResets t u) : SameResets s u := Eq.trans g h
theorem ofHub (h : t.hub = s.hub) : SameResets s t := congrArg Hub.resetting h
theorem ite {c : Prop} {_ : Decidable c} (ht : SameResets s t) (hu : SameResets s u) : SameResets s (if c then t else u) := by
  split <;> assumption
theorem foldl {α : Type} {f : State → α → State} (step : ∀ s a, SameResets s (f s a)) (xs : List α) (s : State) :
    SameResets s (xs.foldl f s) := foldl_rel refl trans step xs s

end SameResets

theorem core_sameResets (s : State) (c : Core) : SameResets s { s with core := c } := rfl
theorem hubPut_sameResets (s : State) (a : Nat) (v : Word) : SameResets s (hubPut s a v) := rfl
theorem hub_sameResets (s : State) (h : Hub) (kept : h.resetting = s.hub.resetting) : SameResets s { s with hub := h } := kept
theorem State.at_sameResets (s : State) (n : Nat) (a : Act) : SameResets s (s.at n a) := rfl

/-! ## Records -/

theorem ringAppend_sameResets (s : State) (a : Nat) (ws : List Word) : SameResets s (ringAppend s a ws).1 := by
  obtain ⟨u, b, v, put, -, hub, -⟩ := ringAppend_cases s a ws
  exact (congrArg (·.hub.resetting) put).trans (congrArg Hub.resetting hub)

theorem recoveryRecord_sameResets (s : State) (code detail : Nat) (w : Word) (fn part : Nat) :
    SameResets s (recoveryRecord s code detail w fn part) := ringAppend_sameResets s _ _

theorem fabricRecord_sameResets (s : State) (code detail : Nat) (w : Word) (fn : Nat) : SameResets s (fabricRecord s code detail w fn) :=
  ringAppend_sameResets s _ _

theorem setFstat_sameResets (s : State) (f b : Nat) : SameResets s (setFstat s f b) := .ite rfl rfl

theorem killedRecord_sameResets (s : State) (d f p q i : Nat) : SameResets s (killedRecord s d f p q i) :=
  (ringAppend_sameResets s _ _).trans (setFstat_sameResets _ _ _)

/-! ## Stores at their home -/

theorem dropCkpt_sameResets (s : State) (f : Nat) : SameResets s (dropCkpt s f) := rfl

theorem cancelScrub_sameResets (s : State) (pa : Nat) : SameResets s (cancelScrub s pa) := rfl

theorem copyGranule_sameResets (s : State) (f g : Nat) : SameResets s (copyGranule s f g) := by
  unfold copyGranule
  split
  · exact (recoveryRecord_sameResets s _ _ _ _ _).trans (dropCkpt_sameResets _ f)
  · extract_lets old copied
    have put : SameResets s copied := hubPut_sameResets s _ _
    clear_value copied
    exact put.trans (hub_sameResets copied _ rfl)

theorem granuleUnits_sameResets (s : State) (ticket pa : Nat) (w : Bool) : SameResets s (granuleUnits s ticket pa w) :=
  .foldl (fun t _ => .ite (.ofHub (hbmAsk_unitsOnly t _ _ _ _ _ _).hub) (.refl t)) _ s

theorem copyNow_sameResets (s : State) (f pa : Nat) : SameResets s (copyNow s f pa) :=
  ((granuleUnits_sameResets { s with ticket := s.ticket + 1 } _ _ _).trans (granuleUnits_sameResets _ _ _ _)).trans
    (copyGranule_sameResets _ _ _)

theorem dropHandle_sameResets (s : State) (r : Reg) : SameResets s (dropHandle s r) := by
  unfold dropHandle
  split <;> rfl

theorem pokeVal_sameResets (s : State) (k : Fin 16) (c : Nat) (v : Word) : SameResets s (pokeVal s k c v) := by
  unfold pokeVal
  dsimp only
  split
  · exact .ite rfl ((dropHandle_sameResets s _).trans rfl)
  · rfl

theorem pokeHead_sameResets (s : State) (q : Fin 8) (f : Reg → Reg) : SameResets s (pokeHead s q f) := by
  unfold pokeHead
  split
  · exact .ite rfl rfl
  · rfl

theorem pokeSides_sameResets (s : State) (k : Fin 16) (c : Nat) (v : Word) : SameResets s (pokeSides s k c v) := by
  refine .foldl (fun t i => ?_) _ s
  dsimp only
  split
  · exact pokeHead_sameResets t _ _
  · exact .ite rfl rfl

theorem sysStore_sameResets (s : State) (k : Fin 16) (n : Nat) (v : Word) : SameResets s (sysStore s k n v) := by
  unfold sysStore
  dsimp only
  split <;> rfl

theorem strandAreaWrite_sameResets (s : State) (k : Fin 16) (o : Nat) (v : Word) : SameResets s (strandAreaWrite s k o v) := by
  have commands : SameResets s (if v = 1 then s.at s.now (.dctlResume k) else if v = 2 then s.at s.now (.dctlHalt k)
      else if v = 3 then s.at s.now (.dctlKill k) else s) :=
    .ite (s.at_sameResets _ _) (.ite (s.at_sameResets _ _) (.ite (s.at_sameResets _ _) (.refl s)))
  exact .ite (.refl s) (.ite (core_sameResets s _) (.ite commands (.ite (pokeVal_sameResets s k _ v) (.ite (pokeVal_sameResets s k _ v)
    (.ite (pokeSides_sameResets s k _ v) (.ite (.ite (sysStore_sameResets s k _ v) (.refl s)) (.refl s)))))))

theorem pokeVec_sameResets (s : State) (k : Fin 16) (n : Nat) (f : VReg → VReg) : SameResets s (pokeVec s k n f) := core_sameResets s _

theorem pokeTile_sameResets (s : State) (f : Acc → Acc) : SameResets s (pokeTile s f) := core_sameResets s _

theorem debugWrite_sameResets (s : State) (off : Nat) (v : Word) : SameResets s (debugWrite s off v) :=
  have stays := SameResets.refl s
  .ite (strandAreaWrite_sameResets s _ _ v) (.ite (.ite (pokeVec_sameResets s _ _ _) stays) (.ite (.ite (pokeVec_sameResets s _ _ _) stays)
    (.ite (.ite (.foldl (fun t i => pokeVec_sameResets t _ i _) _ s) stays) (.ite (.ite (core_sameResets s _) stays)
    (.ite (.ite (pokeTile_sameResets s _) stays) (.ite (.ite (pokeTile_sameResets s _) stays) (.ite (core_sameResets s _) stays)))))))

theorem homeStore_sameResets (s : State) (x : WordStore) : SameResets s (homeStore s x) := by
  have held : SameResets s (if ckptHolds s s.func x.pa then copyNow s s.func x.pa else s) := .ite (copyNow_sameResets s _ _) rfl
  unfold homeStore
  split
  · exact .ite (debugWrite_sameResets s _ _) rfl
  · exact .ofHub (setBytes_planes s _ _ _ _).hub
  · exact (held.trans (cancelScrub_sameResets _ _)).trans (.ofHub (performStore_planes _ x).hub)
  · exact held.trans (.ofHub (performStore_planes _ x).hub)

theorem flushWrites_sameResets (s : State) (f : Fin 17) : SameResets s (flushWrites s f) := by
  unfold flushWrites
  extract_lets plain back mine flushed
  have kept : SameResets s flushed := .foldl (fun t _ => homeStore_sameResets t _) _ s
  clear_value flushed
  exact kept

/-! ## The end of gangs and jobs -/

theorem fenceAdd_sameResets (s : State) (f i : Nat) (n : Word) : SameResets s (fenceAdd s f i n) :=
  ((SameResets.ite (copyNow_sameResets s f _) rfl).trans (.ofHub (performStore_planes _ _).hub)).trans rfl

theorem jobComplete_sameResets (s : State) (j : JobRun) : SameResets s (jobComplete s j) := by
  unfold jobComplete
  extract_lets done recorded
  have kept : SameResets s recorded := .ite ((killedRecord_sameResets done _ _ _ _ _).trans (s := s) rfl) rfl
  split
  · exact .ite kept (kept.trans (fenceAdd_sameResets _ _ _ _))
  · exact kept

theorem jobGangEnd_sameResets (s : State) (q : BitVec 12) (i : Nat) (killed here : Bool) : SameResets s (jobGangEnd s q i killed here) := by
  unfold jobGangEnd
  split
  · rfl
  · exact .ite rfl (.ite rfl (SameResets.trans rfl (jobComplete_sameResets _ _)))

theorem gangPartEnd_sameResets (s : State) (m : GangRun → Bool) (f : GangRun → GangRun) (killed : Bool) :
    SameResets s (gangPartEnd s m f killed) := by
  unfold gangPartEnd
  split
  · rfl
  · extract_lets g' rest ended
    have kept : SameResets s ended := jobGangEnd_sameResets (s.withHub fun h => { h with gangs := rest }) _ _ _ _
    exact .ite rfl (kept.trans (.ofHub (planDispatch_agendaOnly _ _ _).hub))

/-! ## The end of a cell -/

theorem watchGap_hub (s : State) (ep : Fin 64) : (watchGap s ep).hub = s.hub := by
  unfold watchGap
  dsimp only
  split <;> rfl

theorem gatherCred_hub (s : State) (ep : Fin 64) : (gatherCred s ep).hub = s.hub := by
  unfold gatherCred
  dsimp only
  split
  · exact State.atOnce_hub _ _ _
  · rfl

theorem depositSoon_hub (s : State) (ep : Fin 64) : (depositSoon s ep).hub = s.hub := by
  unfold depositSoon
  split
  · exact State.atOnce_hub _ _ _
  · rfl

theorem breakRecv_sameResets (s : State) (ep : Fin 64) : SameResets s (breakRecv s ep) := by
  unfold breakRecv
  extract_lets me src broken recorded
  have kept : SameResets s recorded := SameResets.trans (t := broken) rfl (fabricRecord_sameResets _ _ _ _ _)
  split
  · exact kept.trans rfl
  · exact kept

theorem receiveAt_sameResets (s : State) (ep : Fin 64) (f : Flit) : SameResets s (receiveAt s ep f) := by
  unfold receiveAt
  extract_lets r discarded joined watched
  have dropped : SameResets s discarded := .ofHub (State.atOnce_hub _ _ _)
  have looked : SameResets s watched := .ite rfl (.ofHub (watchGap_hub joined ep))
  exact .ite rfl (.ite (breakRecv_sameResets s ep) (.ite (.ite dropped (dropped.trans (.ofHub (watchGap_hub _ _))))
    ((looked.trans (.ofHub (gatherCred_hub _ _))).trans (.ofHub (depositSoon_hub _ _)))))

theorem replaySpill_sameResets (s : State) : SameResets s (replaySpill s) := by
  unfold replaySpill
  split
  · exact SameResets.trans rfl (.foldl (fun t _ => receiveAt_sameResets t _ _) _ _)
  · rfl

theorem dropWaits_sameResets (s : State) (k : Fin 16) : SameResets s (dropWaits s k) := by
  rw [dropWaits_queuesOnly s k]
  rfl

theorem closeCred_hub (s : State) : (closeCred s).hub = s.hub :=
  foldl_keeps State.hub (fun _ _ => by dsimp only; split <;> rfl) s.core.copy.order s

theorem closeRecv_hub (s : State) (e : Fin 64) : (closeRecv s e).hub = s.hub := by
  unfold closeRecv
  dsimp only
  split
  · exact closeCred_hub s
  · split
    · rfl
    · exact State.atOnce_hub _ _ _

theorem withdrawCircuit_sameResets (s : State) (h : Fin 128) : SameResets s (withdrawCircuit s h) := by
  unfold withdrawCircuit
  dsimp only
  split
  · rfl
  · split
    · rfl
    · split
      · rfl
      · exact .ofHub (putWords_planes _ _ _).hub

theorem withdrawCommand_sameResets (s : State) (h : Fin 128) : SameResets s (withdrawCommand s h) := rfl

theorem withdrawPost_sameResets (s : State) (h : Fin 128) : SameResets s (withdrawPost s h) := .ite rfl rfl

theorem withdrawLaunch_sameResets (s : State) (h : Fin 128) : SameResets s (withdrawLaunch s h) := rfl

theorem withdraw_sameResets (s : State) (h : Fin 128) : SameResets s (withdraw s h) := by
  have command : SameResets s (completeAt (withdrawCommand (startEntry s h) h) (s.now + 2) h stCancelled) :=
    (SameResets.trans (t := startEntry s h) rfl (withdrawCommand_sameResets _ h)).trans (State.at_sameResets _ _ _)
  have launch : SameResets s (withdrawLaunch (forgetUnits (startEntry s h) h) h) :=
    SameResets.trans (t := forgetUnits (startEntry s h) h) rfl (withdrawLaunch_sameResets _ h)
  refine .ite (.refl s) ?_
  cases s.core.table[h].owner with
  | tile | copy | mem | xchg => exact command
  | creq | crel => exact withdrawCircuit_sameResets s h
  | post => exact withdrawPost_sameResets s h
  | launch => exact .ite launch (.refl s)

theorem endHandles_sameResets (s : State) : SameResets s (endHandles s) := by
  unfold endHandles
  extract_lets withdrawn
  have kept : SameResets s withdrawn := .foldl withdraw_sameResets _ s
  exact kept.trans (core_sameResets withdrawn _)

theorem endCell_sameResets (s : State) (killed : Bool) : SameResets s (endCell s killed) := by
  unfold endCell
  extract_lets replayed unparked ended vacant
  have unparks : SameResets s unparked := (replaySpill_sameResets s).trans (.foldl dropWaits_sameResets _ replayed)
  have ends : SameResets s ended :=
    (unparks.trans (.foldl (fun t e => .ofHub (closeRecv_hub t e)) (List.finRange 64) unparked)).trans (endHandles_sameResets _)
  have empties : SameResets ended vacant := core_sameResets ended _
  exact (ends.trans empties).trans (gangPartEnd_sameResets vacant _ _ _)

theorem dropActs_sameResets (s : State) (p : Act → Bool) : SameResets s (dropActs s p) := rfl

theorem dropCell_sameResets (s : State) (f : Fin 17) : SameResets s (dropCell s f) := by
  unfold dropCell
  extract_lets emptied ended
  have empties : SameResets s emptied := core_sameResets s _
  have ends : SameResets emptied ended := (dropActs_sameResets emptied _).trans (endCell_sameResets _ true)
  exact ((empties.trans ends).trans (core_sameResets ended _)).trans (flushWrites_sameResets _ f)

/-! ## Circuits and cleared cores -/

theorem tableSet_hub (s : State) (a : AgentId) (t : BitVec 2) (port slot : Nat) (f : TEntry → TEntry) :
    (tableSet s a t port slot f).hub = s.hub := by
  unfold tableSet
  exact s.withFab_hub _

theorem clearNow_hub (s : State) (cs : List Claim) : (clearNow s cs).hub = s.hub := by
  refine foldl_keeps State.hub (fun t c => ?_) cs s
  exact tableSet_hub t c.agent c.table c.port c.slot _

theorem layNow_hub (s : State) (cs : List Claim) : (layNow s cs).hub = s.hub := by
  refine foldl_keeps State.hub (fun t c => ?_) cs s
  exact tableSet_hub t c.agent c.table c.port c.slot _

theorem dropSend_hub (s : State) (e : EpId) : (dropSend s e).hub = s.hub := by
  unfold dropSend
  split <;> rfl

theorem dropRecv_hub (s : State) (e : EpId) : (dropRecv s e).hub = s.hub := by
  unfold dropRecv
  dsimp only
  repeat' split
  all_goals rfl

theorem withFab_sameResets (s : State) (f : Fabric → Fabric) : SameResets s (s.withFab f) := rfl

theorem breakCircuit_sameResets (s : State) (c : Circuit) (reason : Nat) : SameResets s (breakCircuit s c reason) := by
  unfold breakCircuit
  extract_lets up recorded cleared ended broken laid
  have clears : SameResets s cleared :=
    (SameResets.ite (.refl s) (fabricRecord_sameResets s _ _ _ _)).trans (.ofHub (clearNow_hub recorded _))
  have ends : SameResets cleared ended :=
    .ofHub ((foldl_keeps State.hub (fun t _ => dropRecv_hub t _) _ _).trans (dropSend_hub cleared _))
  have breaks : SameResets s broken := (clears.trans ends).trans (withFab_sameResets ended _)
  have lays : SameResets s laid := (breaks.trans (withFab_sameResets broken _)).trans (.ofHub (layNow_hub _ _))
  refine .ite ?_ breaks
  split
  · exact lays.trans (core_sameResets laid _)
  · exact lays

theorem clearCoreOf_hub (s : State) (c : Nat) : (clearCoreOf s c).hub = s.hub := by
  unfold clearCoreOf
  dsimp only
  split <;> rfl

theorem clearClusterOf_hub (s : State) (g : Nat) : (clearClusterOf s g).hub = s.hub := by
  unfold clearClusterOf
  dsimp only
  split <;> rfl

theorem clearCores_hub (s : State) (cs : List Nat) : (cs.foldl clearCoreOf s).hub = s.hub :=
  foldl_keeps (f := clearCoreOf) State.hub clearCoreOf_hub cs s

theorem clearClusters_hub (s : State) (gs : List Nat) : (gs.foldl clearClusterOf s).hub = s.hub :=
  foldl_keeps (f := clearClusterOf) State.hub clearClusterOf_hub gs s

theorem clearUsed_sameResets (s : State) (f : Fin 17) : SameResets s (clearUsed s f) := by
  unfold clearUsed
  extract_lets mine cores clusters
  have first : cores.hub = s.hub := clearCores_hub s _
  have cleared : clusters.hub = cores.hub := clearClusters_hub cores _
  have kept : SameResets s clusters := .ofHub (cleared.trans first)
  exact kept.trans (hub_sameResets clusters _ rfl)

end Sys2Proof.Machine
end

section
/-! A function's reset (R542, R543, R551): how it begins, drains, names the wheel of its circuits and clears. -/

namespace Sys2Proof.Machine

/-! ## FLR -/

theorem rFlr_ne_rQueue (f : Fin 17) (q i : Nat) : rQueue q i ≠ rFlr f.val := by
  have := f.isLt
  simp only [rFlr, rQueue]
  omega

theorem hubGet_setFlr (s : State) (f busy step : Nat) : hubGet (setFlr s f busy step) (rFlr f) = word (busy * 2 ^ 63 + step) :=
  hubGet_hubPut_same s _ _

/-- FLR says nothing of whose a queue is. -/
theorem qFunc_setFlr (s : State) (f : Fin 17) (busy step q : Nat) : qFunc (setFlr s f.val busy step) q = qFunc s q :=
  congrArg (fld · 52 48) (hubGet_hubPut_other s _ (rFlr_ne_rQueue f q 0))

theorem circuitsOf_setFlr (s : State) (f : Fin 17) (busy step : Nat) : circuitsOf (setFlr s f.val busy step) f.val = circuitsOf s f.val := by
  have fab : (setFlr s f.val busy step).fab = s.fab := hubPut_fab s _ _
  simp only [circuitsOf, qFunc_setFlr, fab]

theorem resetting_any {s : State} {f : Fin 17} : s.hub.resetting.any (·.1 = f) = true ↔ ∃ w, (f, w) ∈ s.hub.resetting := by
  simp

theorem flrWheel_of_only {s : State} {f : Fin 17} {w : Nat} (only : s.hub.resetting = [(f, w)]) : flrWheel s f = w := by
  simp [flrWheel, only]

/-! ## Steps 1 and 2: the function stops, and Badger names a wheel -/

theorem stopFn_hub (s : State) (f : Fin 17) : (stopFn s f).hub = s.hub := by
  unfold stopFn
  extract_lets stopped
  split <;> rfl

theorem stopFn_serves {s : State} {f : Fin 17} (own : s.func = f.val) :
    (stopFn s f).core = { s.core with
      spill := some (s.core.spill.getD [])
      strands := vmap (fun (x : Strand) => { x with sb := [] }) s.core.strands
      copy := CopyEngine.idle
      memIntake := []
      xchgIntake := []
      tile := ⟨[], [], none, none⟩ } := by
  unfold stopFn
  extract_lets stopped
  have served : serves stopped f = true := decide_eq_true own
  rw [served]
  rfl

theorem stopFn_buffers {s : State} {f : Fin 17} (own : s.func = f.val) (k : Fin 16) : ((stopFn s f).strand k).sb = [] := by
  rw [State.strand, stopFn_serves own]
  dsimp only
  rw [vmap_getElem]

theorem releaseWheel_hub (s : State) (f : Fin 17) : (releaseWheel s f).1.hub = s.hub := by
  unfold releaseWheel
  split <;> rfl

theorem releaseWheel_none {s : State} {f : Fin 17} (free : circuitsOf s f.val = []) : (releaseWheel s f).2 = s.now := by
  rw [releaseWheel, if_pos (by rw [free]; rfl)]

theorem releaseWheel_some {s : State} {f : Fin 17} (circuits : circuitsOf s f.val ≠ []) :
    (releaseWheel s f).2 % 256 = 0 ∧ s.now < (releaseWheel s f).2 := by
  rw [releaseWheel, if_neg (by simpa using circuits)]
  have after := lt_nameWheel s ((circuitsOf s f.val).flatMap circuitClaims).length
  simp only [State.wheel] at after
  exact ⟨Nat.mul_mod_right 256 _, by dsimp only; omega⟩

/-! ## Steps 3 to 5: the function is cleared -/

/-- The gangs, jobs, dens and functions in reset are the same. -/
structure SameRuns (s t : State) : Prop where
  gangs : t.hub.gangs = s.hub.gangs
  jobs : t.hub.jobs = s.hub.jobs
  dens : t.hub.dens = s.hub.dens
  resetting : t.hub.resetting = s.hub.resetting

namespace SameRuns

variable {s t u : State}

theorem refl (s : State) : SameRuns s s := ⟨rfl, rfl, rfl, rfl⟩
theorem trans (h : SameRuns s t) (g : SameRuns t u) : SameRuns s u :=
  ⟨g.gangs.trans h.gangs, g.jobs.trans h.jobs, g.dens.trans h.dens, g.resetting.trans h.resetting⟩
theorem ofHub (h : t.hub = s.hub) : SameRuns s t := ⟨congrArg Hub.gangs h, congrArg Hub.jobs h, congrArg Hub.dens h, congrArg Hub.resetting h⟩
theorem ite {c : Prop} {_ : Decidable c} (ht : SameRuns s t) (hu : SameRuns s u) : SameRuns s (if c then t else u) := by
  split <;> assumption
theorem foldl {α : Type} {f : State → α → State} (step : ∀ s a, SameRuns s (f s a)) (xs : List α) (s : State) :
    SameRuns s (xs.foldl f s) := foldl_rel refl trans step xs s

end SameRuns

theorem hubPut_sameRuns (s : State) (a : Nat) (v : Word) : SameRuns s (hubPut s a v) := ⟨rfl, rfl, rfl, rfl⟩

theorem recoveryRecord_sameRuns (s : State) (code detail : Nat) (w : Word) (fn part : Nat) :
    SameRuns s (recoveryRecord s code detail w fn part) := by
  obtain ⟨u, b, v, put, -, hub, -⟩ := errRecord_cases s 8 0 code detail w fn part []
  have kept : SameRuns s (hubPut u b v) := (SameRuns.ofHub hub).trans (hubPut_sameRuns u b v)
  rw [recoveryRecord, put]
  exact kept.trans ⟨rfl, rfl, rfl, rfl⟩

theorem dropCkpt_sameRuns (s : State) (f : Nat) : SameRuns s (dropCkpt s f) := ⟨rfl, rfl, rfl, rfl⟩

theorem hubGet_recoveryRecord_other (s : State) (code detail : Nat) (w : Word) (fn part : Nat) {a : Nat} (h : a < rErr 0) :
    hubGet (recoveryRecord s code detail w fn part) a = hubGet s a :=
  (hubGet_congr rfl a).trans (hubGet_errRecord_other s 8 0 code detail w fn part [] h)

/-- After a checkpoint is dropped its function holds none (R535). -/
theorem dropCkpt_holdsNone (s : State) (f : Nat) : (hubGet (dropCkpt s f) (rCkpt f 4)).getLsbD 63 = false := by
  have laid : hubGet (dropCkpt s f) (rCkpt f 4) = setFld (hubGet s (rCkpt f 4)) 63 63 0 :=
    (hubGet_congr rfl _).trans (hubGet_hubPut_same s _ _)
  rw [laid, getLsbD_setFld _ _ (by decide) (by decide)]
  rfl

/-- None of the gangs, jobs and dens is this function's. -/
structure Forgotten (f : Fin 17) (t : State) : Prop where
  gangs : ∀ g ∈ t.hub.gangs, g.func ≠ f
  jobs : ∀ j ∈ t.hub.jobs, j.func ≠ f
  dens : ∀ d ∈ t.hub.dens, d.func ≠ f

theorem forgetJobs_forgotten (s : State) (f : Fin 17) : Forgotten f (forgetJobs s f) :=
  ⟨fun _ h => bne_iff_ne.mp (List.mem_filter.mp h).2, fun _ h => bne_iff_ne.mp (List.mem_filter.mp h).2,
    fun _ h => bne_iff_ne.mp (List.mem_filter.mp h).2⟩

theorem Forgotten.runs {f : Fin 17} {s t : State} (h : Forgotten f s) (same : SameRuns s t) : Forgotten f t :=
  ⟨same.gangs ▸ h.gangs, same.jobs ▸ h.jobs, same.dens ▸ h.dens⟩

theorem forgetJobs_sameResets (s : State) (f : Fin 17) : SameResets s (forgetJobs s f) := hub_sameResets s _ rfl

theorem rCkpt_other (f : Fin 17) : rCkpt f.val 4 < rErr 0 ∧ rCkpt f.val 4 ≠ rFlr f.val ∧ ∀ p, rCkpt f.val 4 ≠ rCtx p 0 := by
  have := f.isLt
  refine ⟨?_, ?_, fun p => ?_⟩
  all_goals
    simp only [rCkpt, rErr, rFlr, rCtx]
    omega

/-- A function's reset before FLR reads 0 and the end is recorded: its gangs, jobs, dens and its checkpoint are gone. -/
theorem flrClear_last (s : State) (f : Fin 17) :
    ∃ u, flrClear s f = recoveryRecord (setFlr (u.withHub fun h =>
        { h with resetting := h.resetting.filter (·.1 != f), restoring := h.restoring.filter (·.1 != f) }) f.val 0 0)
        0x0806 0 (word u.wheel) f.val 0 ∧
      SameResets s u ∧ Forgotten f u ∧ (hubGet u (rCkpt f.val 4)).getLsbD 63 = false := by
  unfold flrClear
  extract_lets mine ended freed forgot cleared unqueued unfenced dropped undenned last
  have frees : SameResets s freed :=
    (SameResets.ite (dropCell_sameResets s f) (.refl s)).trans (.foldl (fun t c => breakCircuit_sameResets t c 2) _ ended)
  have forgets : SameResets s forgot := (frees.trans (clearUsed_sameResets freed f)).trans (forgetJobs_sameResets _ f)
  have clears : SameRuns forgot cleared := .ite (.ofHub rfl) (.refl forgot)
  have unqueues : SameRuns cleared unqueued :=
    .foldl (fun t _ => (hubPut_sameRuns t _ _).trans (.foldl (fun t _ => hubPut_sameRuns t _ _) _ _)) _ cleared
  have unfences : SameRuns unqueued unfenced :=
    .foldl (fun t _ => .ofHub ((performStore_planes t _).trans (performStore_planes _ _)).hub) _ unqueued
  have drops : SameRuns unfenced dropped :=
    ((hubPut_sameRuns unfenced _ _).trans (hubPut_sameRuns _ _ _)).trans (dropCkpt_sameRuns _ f.val)
  have undens : SameRuns dropped undenned := .foldl (fun t _ => .ite (hubPut_sameRuns t _ _) (.refl t)) _ dropped
  have kept : SameRuns forgot undenned := (((clears.trans unqueues).trans unfences).trans drops).trans undens
  obtain ⟨-, -, apart⟩ := rCkpt_other f
  have holds : hubGet undenned (rCkpt f.val 4) = hubGet dropped (rCkpt f.val 4) :=
    foldl_keeps (hubGet · (rCkpt f.val 4)) (fun t p => by
      split
      · exact hubGet_hubPut_other t _ (apart p)
      · rfl) _ dropped
  exact ⟨undenned, rfl, kept.resetting.trans forgets, (forgetJobs_forgotten _ f).runs kept, by rw [holds]; exact dropCkpt_holdsNone _ f.val⟩

theorem flrClear_spec {s : State} {f : Fin 17} {w : Nat} (only : s.hub.resetting = [(f, w)]) :
    hubGet (flrClear s f) (rFlr f.val) = 0 ∧ (flrClear s f).hub.resetting = [] ∧ Forgotten f (flrClear s f) ∧
      (hubGet (flrClear s f) (rCkpt f.val 4)).getLsbD 63 = false := by
  obtain ⟨u, eq, resets, forgotten, none⟩ := flrClear_last s f
  obtain ⟨below, apart, -⟩ := rCkpt_other f
  have flrBelow : rFlr f.val < rErr 0 := by
    have := f.isLt
    simp only [rFlr, rErr]
    omega
  rw [eq]
  generalize hv : (u.withHub fun h => { h with resetting := h.resetting.filter (·.1 != f), restoring := h.restoring.filter (·.1 != f) }) = v
  have resetting : v.hub.resetting = [] := by
    have all : u.hub.resetting = [(f, w)] := Eq.trans resets only
    rw [← hv]
    simp [all]
  have left : Forgotten f v := by
    rw [← hv]
    exact ⟨forgotten.gangs, forgotten.jobs, forgotten.dens⟩
  have regs : hubGet v (rCkpt f.val 4) = hubGet u (rCkpt f.val 4) := by
    rw [← hv]
    exact hubGet_congr rfl _
  have runs : SameRuns v (recoveryRecord (setFlr v f.val 0 0) 0x0806 0 (word u.wheel) f.val 0) :=
    (hubPut_sameRuns v _ _).trans (recoveryRecord_sameRuns _ _ _ _ _ _)
  refine ⟨?_, runs.resetting.trans resetting, left.runs runs, ?_⟩
  · rw [hubGet_recoveryRecord_other _ _ _ _ _ _ flrBelow, hubGet_setFlr]
    rfl
  · rw [hubGet_recoveryRecord_other _ _ _ _ _ _ below, setFlr, hubGet_hubPut_other _ _ apart, regs, none]

end Sys2Proof.Machine

namespace Sys2Proof.Claims

open Sys2Proof.Machine

theorem setFlr_sameMemory (s : State) (f busy step : Nat) : SameMemory s (setFlr s f busy step) :=
  RegsOnly.sameMemory (.hubPut s _ _)

theorem stopFn_sameMemory (s : State) (f : Fin 17) : SameMemory s (stopFn s f) := by
  unfold stopFn
  extract_lets stopped
  split <;> exact sameMemory_of rfl rfl rfl rfl

theorem releaseWheel_sameMemory (s : State) (f : Fin 17) : SameMemory s (releaseWheel s f).1 := by
  unfold releaseWheel
  split
  · exact .refl s
  · exact nameWheel_sameMemory s _

/-! ## The request -/

/-- A function whose reset goes on is not reset again. -/
theorem exec_flrRequest_again {s : State} {f : Fin 17} (fn : f.val ≠ 16) (going : ∃ w, (f, w) ∈ s.hub.resetting) :
    exec (.flrRequest f) s = .next s := by
  have same : exec (.flrRequest f) s = .next (if f.val = 16 then resetPackage s else flrBegin s f) := rfl
  rw [same, if_neg fn, flrBegin, if_pos (resetting_any.mpr going)]

theorem exec_flrRequest_begins {s : State} {f : Fin 17} (fn : f.val ≠ 16) (idle : ∀ w, (f, w) ∉ s.hub.resetting) :
    ∃ t, exec (.flrRequest f) s = .next t ∧ SameMemory s t ∧ t.hub.resetting = s.hub.resetting ++ [(f, s.now / 256 + 1)] ∧
      hubGet t (rFlr f.val) = word (2 ^ 63 + 1) ∧ (256 * (s.now / 256 + 3), Act.flrDrainEnd f) ∈ t.agenda := by
  have same : exec (.flrRequest f) s = .next (if f.val = 16 then resetPackage s else flrBegin s f) := rfl
  have fresh : ¬ s.hub.resetting.any (·.1 = f) = true := fun h => (resetting_any.mp h).elim idle
  rw [same, if_neg fn, flrBegin, if_neg fresh]
  exact ⟨_, rfl, sameMemory_of rfl rfl rfl rfl, rfl, hubGet_setFlr _ f.val 1 1, State.mem_at _ _ _⟩

/-! ## The drain and the clearing -/

theorem exec_flrDrainEnd_idle {s : State} {f : Fin 17} (idle : ∀ w, (f, w) ∉ s.hub.resetting) : exec (.flrDrainEnd f) s = .next s := by
  have none : s.hub.resetting.any (·.1 = f) = false := Bool.eq_false_iff.mpr fun h => (resetting_any.mp h).elim idle
  have same : exec (.flrDrainEnd f) s = execFlrDrainEnd f s := rfl
  rw [same, execFlrDrainEnd, none]
  rfl

/-- The reset of a function that is in one is in the step FLR names, from two wheels after F on (R542). -/
theorem exec_flrDrainEnd_going {s : State} {f : Fin 17} {w : Nat} (only : s.hub.resetting = [(f, w)]) :
    exec (.flrDrainEnd f) s =
      if s.now / 256 < w + 2 then .next (s.at (256 * (w + 2)) (.flrDrainEnd f))
      else match flrStep s f.val with
        | 1 => .next ((stopFn (setFlr s f.val 1 2) f).at s.nextWheel (.flrDrainEnd f))
        | 2 =>
          if fnPending s f && s.now / 256 < w + 66 then .next (s.at s.nextWheel (.flrDrainEnd f))
          else .next ((releaseWheel (setFlr s f.val 1 3) f).1.at (releaseWheel (setFlr s f.val 1 3) f).2 (.flrDrainEnd f))
        | _ => .next (flrClear s f) := by
  have going : s.hub.resetting.any (·.1 = f) = true := resetting_any.mpr ⟨w, by simp [only]⟩
  have same : exec (.flrDrainEnd f) s = execFlrDrainEnd f s := rfl
  rw [same, execFlrDrainEnd, flrWheel_of_only only, going]
  rfl

theorem exec_flrDrainEnd_early {s : State} {f : Fin 17} {w : Nat} (only : s.hub.resetting = [(f, w)]) (early : s.now / 256 < w + 2) :
    exec (.flrDrainEnd f) s = .next (s.at (256 * (w + 2)) (.flrDrainEnd f)) := by
  rw [exec_flrDrainEnd_going only, if_pos early]

theorem exec_flrDrainEnd_stops {s : State} {f : Fin 17} {w : Nat} (only : s.hub.resetting = [(f, w)]) (due : w + 2 ≤ s.now / 256)
    (first : flrStep s f.val = 1) :
    ∃ t, exec (.flrDrainEnd f) s = .next t ∧ SameMemory s t ∧ hubGet t (rFlr f.val) = word (2 ^ 63 + 2) ∧
      (s.nextWheel, Act.flrDrainEnd f) ∈ t.agenda ∧
      (s.func = f.val → t.core.spill.isSome = true ∧ (∀ k, (t.strand k).sb = []) ∧ t.core.copy = CopyEngine.idle ∧
        t.core.tile = ⟨[], [], none, none⟩) := by
  rw [exec_flrDrainEnd_going only, if_neg (by omega), first]
  have named : hubGet (stopFn (setFlr s f.val 1 2) f) (rFlr f.val) = word (2 ^ 63 + 2) :=
    (hubGet_congr (congrArg Hub.regs (stopFn_hub _ f)) _).trans (hubGet_setFlr s f.val 1 2)
  refine ⟨_, rfl, (setFlr_sameMemory s _ _ _).trans ((stopFn_sameMemory _ f).trans (sameMemory_of rfl rfl rfl rfl)), named, State.mem_at _ _ _,
    fun own => ?_⟩
  have stopped := stopFn_serves (s := setFlr s f.val 1 2) own
  exact ⟨congrArg (·.spill.isSome) stopped, stopFn_buffers (s := setFlr s f.val 1 2) own, congrArg Core.copy stopped, congrArg Core.tile stopped⟩

theorem exec_flrDrainEnd_drains {s : State} {f : Fin 17} {w : Nat} (only : s.hub.resetting = [(f, w)]) (due : w + 2 ≤ s.now / 256)
    (second : flrStep s f.val = 2) (pending : fnPending s f = true) (within : s.now / 256 < w + 66) :
    exec (.flrDrainEnd f) s = .next (s.at s.nextWheel (.flrDrainEnd f)) := by
  rw [exec_flrDrainEnd_going only, if_neg (by omega), second, pending]
  exact if_pos (decide_eq_true within)

theorem exec_flrDrainEnd_names {s : State} {f : Fin 17} {w : Nat} (only : s.hub.resetting = [(f, w)]) (due : w + 2 ≤ s.now / 256)
    (second : flrStep s f.val = 2) (ends : fnPending s f = false ∨ w + 66 ≤ s.now / 256) :
    ∃ t n, exec (.flrDrainEnd f) s = .next t ∧ SameMemory s t ∧ hubGet t (rFlr f.val) = word (2 ^ 63 + 3) ∧
      (n, Act.flrDrainEnd f) ∈ t.agenda ∧ (circuitsOf s f.val = [] → n = s.now) ∧
      (circuitsOf s f.val ≠ [] → n % 256 = 0 ∧ s.now < n) := by
  have drained : ¬ (fnPending s f && s.now / 256 < w + 66) = true := by
    rcases ends with none | late
    · simp [none]
    · simp [late]
  have same := circuitsOf_setFlr s f 1 3
  have named : hubGet (releaseWheel (setFlr s f.val 1 3) f).1 (rFlr f.val) = word (2 ^ 63 + 3) :=
    (hubGet_congr (congrArg Hub.regs (releaseWheel_hub _ f)) _).trans (hubGet_setFlr s f.val 1 3)
  rw [exec_flrDrainEnd_going only, if_neg (by omega), second]
  exact ⟨_, _, if_neg drained, (setFlr_sameMemory s _ _ _).trans ((releaseWheel_sameMemory _ f).trans (sameMemory_of rfl rfl rfl rfl)), named,
    State.mem_at _ _ _, fun free => releaseWheel_none (same.trans free), fun some => releaseWheel_some (same.symm ▸ some)⟩

theorem exec_flrDrainEnd_clears {s : State} {f : Fin 17} {w : Nat} (only : s.hub.resetting = [(f, w)]) (due : w + 2 ≤ s.now / 256)
    (third : flrStep s f.val = 3) :
    ∃ t, exec (.flrDrainEnd f) s = .next t ∧ hubGet t (rFlr f.val) = 0 ∧ t.hub.resetting = [] ∧ (∀ g ∈ t.hub.gangs, g.func ≠ f) ∧
      (∀ j ∈ t.hub.jobs, j.func ≠ f) ∧ (∀ d ∈ t.hub.dens, d.func ≠ f) ∧ (hubGet t (rCkpt f.val 4)).getLsbD 63 = false := by
  obtain ⟨flr, none, left, ckpt⟩ := flrClear_spec only
  rw [exec_flrDrainEnd_going only, if_neg (by omega), third]
  exact ⟨_, rfl, flr, none, left.gangs, left.jobs, left.dens, ckpt⟩

/-- Settles O57: a package reset sets all but time, MNET and the memory that outlives it; FLR steps from request to drain, to the commit wheel
of its circuits, to clearing. -/
theorem resetsClearPackageAndFunction : Obligations.ResetsClearPackageAndFunction := by
  unfold Obligations.ResetsClearPackageAndFunction
  refine ⟨fun s wf => exec_packageReset wf, fun s f => ⟨fun fn => ?_, exec_flrRequest_again, exec_flrRequest_begins⟩,
    fun s f => ⟨exec_flrDrainEnd_idle, fun w only => ⟨exec_flrDrainEnd_early only, exec_flrDrainEnd_stops only, exec_flrDrainEnd_drains only,
      exec_flrDrainEnd_names only, exec_flrDrainEnd_clears only⟩⟩⟩
  have same : exec (.flrRequest f) s = .next (if f.val = 16 then resetPackage s else flrBegin s f) := rfl
  rw [same, if_pos fn]
  rfl

end Sys2Proof.Claims
end
